-- ==== Sys2Proof/Word.lean ====
section
/-! DEFINITION. The plain word types of the model. -/
namespace Sys2Proof

/-- One byte. -/
abbrev Byte := BitVec 8

/-- A 64-bit scalar register or register image (R158). -/
abbrev Word := BitVec 64

/-- A 256-bit descriptor register, d0 to d31 (R158). -/
abbrev DReg := BitVec 256

end Sys2Proof
end

