-- ==== Sys2Proof/Machine/Map.lean ====
section
/-! DEFINITION. The one sparse map of the model: pairs in strictly rising key order. -/
namespace Sys2Proof.Machine

/-- A sparse map: (key, value) pairs, keys strictly rising. -/
abbrev SMap (β : Type) := List (Nat × β)

/-- The value listed at a key. -/
def SMap.find? {β : Type} : SMap β → Nat → Option β
  | [], _ => none
  | (k, v) :: m, i => if i = k then some v else SMap.find? m i

/-- Take a key's entry out; in a map that is not canonical, every entry of the key. -/
def SMap.erase {β : Type} : SMap β → Nat → SMap β
  | [], _ => []
  | (k, v) :: m, i => if i = k then SMap.erase m i else (k, v) :: SMap.erase m i

/-- List a value at a key, keeping the keys rising. -/
def SMap.put {β : Type} : SMap β → Nat → β → SMap β
  | [], i, b => [(i, b)]
  | (k, v) :: m, i, b =>
    if i < k then (i, b) :: (k, v) :: m
    else if i = k then (i, b) :: m
    else (k, v) :: SMap.put m i b

/-- Read with a value for unlisted keys. -/
def SMap.getD {β : Type} (m : SMap β) (i : Nat) (d : β) : β := (m.find? i).getD d

/-- Write in canonical form: the unlisted value takes the entry out. -/
def SMap.set {β : Type} [DecidableEq β] (m : SMap β) (d : β) (i : Nat) (b : β) : SMap β :=
  if b = d then m.erase i else m.put i b

/-- The keys rise strictly, all above a bound. -/
def SMap.risesFrom {β : Type} : Option Nat → SMap β → Bool
  | _, [] => true
  | none, (k, _) :: m => SMap.risesFrom (some k) m
  | some b, (k, _) :: m => decide (b < k) && SMap.risesFrom (some k) m

/-- The canonical form: keys strictly rising and no entry equal to the unlisted value. -/
def SMap.wf {β : Type} [DecidableEq β] (d : β) (m : SMap β) : Bool :=
  SMap.risesFrom none m && m.all (fun p => !decide (p.2 = d))

end Sys2Proof.Machine
end

