-- ==== Sys2Proof/Config.lean ====
section
/-! DEFINITION. What the spec leaves open: opaque constants with no body, so that no proof can see a value. -/
namespace Sys2Proof.Config

/-- A free number: the first argument is the state's free counter, the second numbers the values one step draws
(DESIGN CHOICE, safe, log entry 5). -/
opaque freeNat : Nat → Nat → Nat

/-- How far the interpolated SB (true) or DB (false) value for a difference d, in units of 2^-48 octave, lies from the correctly
rounded one, in units of 2^-40 octave before the bound of R68 is applied (tables published outside the spec; DESIGN CHOICE, safe, log entry 7). -/
opaque gaussDev : Bool → Int → Int

/-- Whether a VS.CVT (true) or MV.COPY (false) from L32 to L16 under RTZ-log narrows by truncation (R31) and not by rounding (R54):
Table 2-5 lists both and names no selector (DESIGN CHOICE, safe, log entry 14). -/
opaque narrowTrunc : Bool → Bool

/-- The device's fused 64-bit DEVID (FEN.DEVID, reset value "fixed"; DESIGN CHOICE, safe, log entry 6). -/
opaque devid : Nat

/-- The fixed CRC word of the SFU's built-in ROMs (SFU.ROM_CRC; their form is published outside the spec; DESIGN CHOICE, safe, log entry 6). -/
opaque romCrcBuiltin : Nat

/-- The straps the board ties, as a cold reset before the first step sampled them (R457; DESIGN CHOICE, safe, log entry 6): bit 0 SMB_ADDR, 1 AUTO_ON, 2
FEN_AUTO. -/
opaque straps : Nat

/-- The device UUID of Fenreeve (R406; DESIGN CHOICE, safe, log entry 6). -/
opaque uuid : Nat

/-- The code the M2 SFU returned for an L16 code under function 0x88 + i (R144; table published outside the spec; DESIGN CHOICE, safe, log
entry 7). -/
opaque m2Code : Nat → Nat → Nat

/-- How far a ROM table's y lies from the exact function, by built-in index, sign and exponent, in units of 2^-48 octave
before its 40 fraction bits and the bound of R143 is applied (DESIGN CHOICE, safe, log entry 7). -/
opaque romDev : Nat → Bool → Int → Int

/-- The lane count of the KVE's rounding under STOCH (Table 3-2 gives none for the KVE; DESIGN CHOICE, safe, log entry 17). -/
opaque kveLanes : Nat

/-- SHA-384 of bytes (FIPS 180-4; R420, R419; DESIGN CHOICE, safe, log entry 19). -/
opaque sha384 : List Nat → Nat

/-- Whether an ECDSA P-384 signature over a digest verifies under a public key: key, digest, signature (R420; DESIGN CHOICE, safe, log entry 19). -/
opaque p384Ok : Nat → Nat → Nat → Bool

/-- The fused root key hashes ROOTHASH 0 to 3 and the four revocation bits (R420; DESIGN CHOICE, safe, log entry 6). -/
opaque rootHash : Nat → Nat
/-- The revocation bits. -/
opaque revoked : Nat

/-- Whether the CRC-32 of the flash's configuration region holds (its place and extent are published outside the spec; DESIGN CHOICE, safe, log entry 6). -/
opaque cfgGood : List (Nat × BitVec 8) → Bool

/-- A word of a good configuration region (its layout is published outside the spec; DESIGN CHOICE, safe, log entry 6): 0 USE_PLAN, 1 TMPRIO, 2 the port enable mask, 3 the
PROFILE mask, 4 the policy for SESSION, 5 and 6 HBM_CFG override present and value, 7 and 8 PLIMIT override present and value, 16 + p ASYM of port
p, 64 + r the DEVID of rank r. -/
opaque cfgWord : List (Nat × BitVec 8) → Nat → Nat

/-- The measurement of the boot ROM (Table 16-10, index 1; DESIGN CHOICE, safe, log entry 6). -/
opaque romMeasure : Nat

/-- The threshold of a numeric sensor in its PDR (R416 gives none; DESIGN CHOICE, safe, log entry 6). -/
opaque threshold : Nat → Nat

/-- The length of the TAP's instruction register, the instruction codes (0 BYPASS, 1 IDCODE, 2 SAMPLE/PRELOAD, 3 EXTEST by value), the
length of the boundary register, and what its cells capture (R486 gives none; DESIGN CHOICE, safe, log entry 6). -/
opaque irLen : Nat
/-- The instruction a code selects. -/
opaque irCode : Nat → Nat
/-- The boundary register's length. -/
opaque bsrLen : Nat
/-- Captured cells, by the free counter. -/
opaque bsrCapture : Nat → Nat

/-- The two-bit BMAP codes of PENDING, READING, SHADOWED and COPIED (R319 gives none; DESIGN CHOICE, safe, log entry 6). -/
opaque bmapCode : Nat → Nat

end Sys2Proof.Config
end

