-- ==== Sys2Proof/Machine/LogArith.lean ====
section
/-! DEFINITION. Logarithmic formats, the one transcendental primitive, rounding, range edges, the block encoder, IEEE
conversion and the value tables of chapters 2 and 3. Exponents are integers in units of 2^-48 octave, which holds every
code, block scale, tensor scale offset, half step, 40-bit intermediate and micro-program register exactly (R41, R52, R138). -/
namespace Sys2Proof.Machine

/-- 2^-48 octave units in one octave. -/
abbrev oct : Int := 281474976710656
/-- Units in one L16 step (1/128 octave), the unit of a tensor scale offset (R40). -/
abbrev step16 : Int := 2199023255552
/-- Units in the last place of a 40-fraction-bit intermediate (R52). -/
abbrev unit40 : Int := 256

/-- A value as a unit carries it (R41, R71): NaN remembers whether it was created. -/
inductive Val where
  | zero
  | nan (created : Bool)
  | inf (neg : Bool)
  | fin (neg : Bool) (e : Int)
  deriving DecidableEq, Repr

/-- The number formats of Table 2-10 that a descriptor may name. -/
inductive Fmt where
  | l8 | l8w | l16 | l32 | l32s | f32 | f16 | bf16
  deriving DecidableEq, Repr

/-- Table 2-10: reserved codes name no format (R51). -/
def Fmt.ofCode : Nat → Option Fmt
  | 0 => some .l8 | 1 => some .l8w | 2 => some .l16 | 3 => some .l32 | 4 => some .l32s
  | 8 => some .f32 | 9 => some .f16 | 10 => some .bf16 | _ => none

/-- Element bytes (Table 2-10; an L32S element is two bytes in each of its two arrays). -/
def Fmt.bytes : Fmt → Nat
  | .l8 | .l8w => 1 | .l16 | .l32s | .f16 | .bf16 => 2 | .l32 | .f32 => 4

/-- L8 and L8W carry block scales. -/
def Fmt.scaled : Fmt → Bool
  | .l8 | .l8w => true | _ => false

/-- The IEEE formats of Table 2-10. -/
def Fmt.ieee : Fmt → Bool
  | .f32 | .f16 | .bf16 => true | _ => false

/-! ### Integer helpers -/

/-- Floor division for a positive divisor. -/
def fdiv (a b : Int) : Int := Int.fdiv a b

/-- Remainder in 0 .. b-1. -/
def fmod (a b : Int) : Nat := (Int.fmod a b).toNat

/-- Ceiling division for a positive divisor. -/
def cdiv (a b : Int) : Int := - fdiv (-a) b

/-- n / 2^k rounded to nearest, ties to even. -/
def rneShift (n k : Nat) : Nat :=
  let q := n >>> k
  let r := n - (q <<< k)
  if r * 2 < 2 ^ k then q
  else if r * 2 = 2 ^ k then (if q % 2 = 0 then q else q + 1)
  else q + 1

/-- Two's-complement reading of the low w bits. -/
def sext (w n : Nat) : Int :=
  let m := n % 2 ^ w
  if m < 2 ^ (w - 1) then (m : Int) else (m : Int) - 2 ^ w

/-- Bits [lo, lo+w) of n. -/
def bits (n lo w : Nat) : Nat := (n >>> lo) % 2 ^ w

/-! ### log2 of an exact integer -/

/-- Working precision of the mantissa in `log2Frac` (DESIGN CHOICE, safe, log entry 10). -/
abbrev logPrec : Nat := 256

/-- The next k binary digits of the fraction of log2 of a mantissa x / 2^256 in [1, 2). -/
def log2Frac : Nat → Nat → Nat → Nat
  | 0, _, acc => acc
  | k + 1, x, acc =>
    let y := (x * x) >>> logPrec
    if y < 2 ^ (logPrec + 1) then log2Frac k y (2 * acc) else log2Frac k (y >>> 1) (2 * acc + 1)

/-- The mantissa of n > 0, cut to the working precision. -/
def mant (n : Nat) : Nat :=
  let l := n.log2
  if l ≤ logPrec then n <<< (logPrec - l) else n >>> (l - logPrec)

/-- floor (2^k * log2 n), n > 0. -/
def logFloor (k n : Nat) : Nat := n.log2 * 2 ^ k + log2Frac k (mant n) 0

/-- log2 n rounded to k fraction bits, in units of 2^-k; no tie occurs, since log2 of an integer is an integer or
irrational (R52). -/
def logNear (k n : Nat) : Nat := n.log2 * 2 ^ k + (log2Frac (k + 1) (mant n) 0 + 1) / 2

/-- log2 n rounded to 40 fraction bits, in units of 2^-48 octave. -/
def log40 (n : Nat) : Nat := logNear 40 n * 256

/-- Extend y by the digits of 2^(f / 2^48) of weights 2^(i-1) .. 1, f ≠ 0, target = (bits of the whole) + f. -/
def exp2Digits (target : Nat) : Nat → Nat → Nat
  | 0, y => y
  | i + 1, y => exp2Digits target i (if logFloor 48 (y + 2 ^ i) < target then y + 2 ^ i else y)

/-- floor (2^(f / 2^48) * 2^b), for 0 ≤ f < 2^48. -/
def exp2Floor (f b : Nat) : Nat :=
  if f = 0 then 2 ^ b else exp2Digits (b * 2 ^ 48 + f) b (2 ^ b)

/-- 2^(f / 2^48) rounded to nearest at b fraction bits. -/
def exp2Near (f b : Nat) : Nat := (exp2Floor f (b + 1) + 1) / 2

/-! ### Exact linear values -/

/-- An exact linear value m * 2^x. -/
structure Dy where
  m : Int
  x : Int
  deriving DecidableEq, Repr

/-- The exact zero. -/
def Dy.zero : Dy := ⟨0, 0⟩

/-- m * 2^x at a lower exponent. -/
def Dy.alignTo (d : Dy) (x : Int) : Int := d.m * 2 ^ (d.x - x).toNat

/-- Exact sum. -/
def Dy.add (a b : Dy) : Dy :=
  if a.m = 0 then b else if b.m = 0 then a
  else let x := min a.x b.x; ⟨a.alignTo x + b.alignTo x, x⟩

/-- Exact negation. -/
def Dy.neg (a : Dy) : Dy := ⟨-a.m, a.x⟩

/-- Exact product. -/
def Dy.mul (a b : Dy) : Dy := ⟨a.m * b.m, a.x + b.x⟩

/-- floor (log2 |value|) of a value that is not zero. -/
def Dy.exp (a : Dy) : Int := (a.m.natAbs.log2 : Int) + a.x

/-- The value 0 or ±n at exponent x. -/
def Dy.ofSigned (neg : Bool) (n : Nat) (x : Int) : Dy := ⟨if neg then -(n : Int) else n, x⟩

/-- Rounded to p significant bits, nearest, ties to even, with an unlimited exponent range. -/
def Dy.roundTo (p : Nat) (a : Dy) : Dy :=
  let n := a.m.natAbs
  if n = 0 then .zero
  else
    let l := n.log2 + 1
    if l ≤ p then a else .ofSigned (a.m < 0) (rneShift n (l - p)) (a.x + (l - p : Nat))

/-- Rounded to an integer multiple of 2^g, nearest, ties to even. -/
def Dy.roundGrain (g : Int) (a : Dy) : Dy :=
  if g ≤ a.x then a else .ofSigned (a.m < 0) (rneShift a.m.natAbs (g - a.x).toNat) g

/-- Equal values. -/
def Dy.eqv (a b : Dy) : Bool := (a.add b.neg).m == 0

/-- a < b. -/
def Dy.lt (a b : Dy) : Bool := decide ((a.add b.neg).m < 0)

/-- |a| ≥ 2^k. -/
def Dy.geExp (a : Dy) (k : Int) : Bool := a.m ≠ 0 && decide (k ≤ a.exp)

/-- The log-domain value of an exact linear value: log2 correctly rounded to 40 fraction bits (R52, R97). -/
def Dy.toVal (a : Dy) : Val :=
  if a.m = 0 then .zero else .fin (a.m < 0) ((log40 a.m.natAbs : Int) + a.x * oct)

/-! ### Decoding stored codes (R25, R26, R29, R36, R40) -/

/-- Steps of an L8 or L8W code in L16 steps. -/
def Fmt.blockStep : Fmt → Int
  | .l8w => 32 | _ => 16

/-- An L8 or L8W element under its scale byte and TSO (Table 2-4, R40). -/
def decodeBlockElem (f : Fmt) (scale code : Nat) (tso : Int) : Val :=
  if scale = 0 then .zero
  else if scale = 255 then .nan false
  else
    let m := code % 128
    let s := decide (128 ≤ code % 256)
    if m = 0 then (if s then .nan false else .zero)
    else .fin s ((f.blockStep * ((m : Int) - 64) + 128 * ((scale : Int) - 127) + tso) * step16)

/-- An L16 code under a TSO. -/
def decodeL16 (code : Nat) (tso : Int) : Val :=
  let m := code % 32768
  let s := decide (32768 ≤ code % 65536)
  if m = 0 then (if s then .nan false else .zero)
  else if m = 32767 then .inf s
  else .fin s (((m : Int) - 16384 + tso) * step16)

/-- Units in one L32 step (2^-23 octave). -/
abbrev step32 : Int := 33554432

/-- An L32 code under a TSO. -/
def decodeL32 (code : Nat) (tso : Int) : Val :=
  let m := code % 2147483648
  let s := decide (2147483648 ≤ code % 4294967296)
  if m = 0 then (if s then .nan false else .zero)
  else if m = 2147483647 then .inf s
  else .fin s (((m : Int) - 1073741824) * step32 + tso * step16)

/-- The three parameters of an IEEE format: fraction bits, exponent bits. -/
def Fmt.ieeeParams : Fmt → Nat × Nat
  | .f32 => (23, 8) | .f16 => (10, 5) | _ => (7, 8)

/-- The exponent of the smallest normal value. -/
def ieeeEmin (eb : Nat) : Int := 2 - 2 ^ (eb - 1)

/-- An IEEE code (Table 2-6): subnormals from their exact value, log2 to 40 fraction bits. -/
def decodeIeee (f : Fmt) (code : Nat) (tso : Int) : Val :=
  let (fb, eb) := f.ieeeParams
  let frac := bits code 0 fb
  let e := bits code fb eb
  let s := decide (bits code (fb + eb) 1 = 1)
  if e = 2 ^ eb - 1 then (if frac = 0 then .inf s else .nan false)
  else if e = 0 ∧ frac = 0 then .zero
  else
    let m := if e = 0 then frac else frac + 2 ^ fb
    let x : Int := (if e = 0 then ieeeEmin eb else ieeeEmin eb + (e : Int) - 1) - fb
    .fin s ((log40 m : Int) + x * oct + tso * step16)

/-- The master value of an L32S element (R34): the residue counts only under a finite high code. -/
def decodeL32S (high low : Nat) (tso : Int) : Val :=
  let m := high % 32768
  if m = 0 ∨ m = 32767 then decodeL16 high tso
  else
    .fin (decide (32768 ≤ high % 65536))
      (((m : Int) * 65536 + sext 16 low - 1073741824) * step32 + tso * step16)

/-! ### Rounding (R53 to R56) -/

/-- RC[1:0] and RC[2] (Table 3-1). -/
inductive RMode where
  | rne | rtz | stoch
  deriving DecidableEq, Repr

/-- The rounding part of RC; 11b is reserved. -/
def RMode.ofRc (rc : Nat) : Option RMode :=
  match rc % 4 with
  | 0 => some .rne | 1 => some .rtz | 2 => some .stoch | _ => none

/-- What rounds an operation's results: mode, overflow policy, seed and the unit's lane count (Table 3-2); and whether
results bound for L16 are narrowed by truncation (R31) instead. -/
structure Rnd where
  mode : RMode
  infPolicy : Bool
  seed : Nat
  lanes : Nat
  trunc : Bool
  deriving DecidableEq, Repr

/-- One step of the lane generator (R56). -/
def lfsrStep (s : Nat) : Nat := if s % 2 = 1 then (s / 2) ^^^ 0xB400 else s / 2

/-- A generator after k steps. -/
def lfsrIter : Nat → Nat → Nat
  | 0, s => s
  | k + 1, s => lfsrIter k (lfsrStep s)

/-- A lane's starting state. -/
def laneSeed (seed j : Nat) : Nat :=
  let s := (seed % 65536) ^^^ ((j * 0x9E37) % 65536)
  if s = 0 then 1 else s

/-- The draw r for the element of linear index i: lane i mod L, its (i / L + 1)-th step. -/
def stochDraw (r : Rnd) (i : Nat) : Nat := lfsrIter (i / r.lanes + 1) (laneSeed r.seed (i % r.lanes))

/-- Round integer part lo and remainder rem of a step into lo or lo + 1 (R54 to R56). -/
def roundStep (r : Rnd) (i : Nat) (lo : Int) (rem step : Nat) : Int :=
  match r.mode with
  | .rne =>
    if rem * 2 < step then lo else if rem * 2 = step then (if fmod lo 2 = 0 then lo else lo + 1) else lo + 1
  | .rtz => lo
  | .stoch => if stochDraw r i ≤ rem * 65536 / step then lo + 1 else lo

/-- The tile's arithmetic counts of one operation (R44, R61). -/
structure Counts where
  under : Nat
  sat : Nat
  inf : Nat
  zeroBlk : Nat
  nanBlk : Nat
  deriving DecidableEq, Repr

/-- No counts. -/
def Counts.none : Counts := ⟨0, 0, 0, 0, 0⟩

/-- Pointwise sum. -/
def Counts.add (a b : Counts) : Counts :=
  ⟨a.under + b.under, a.sat + b.sat, a.inf + b.inf, a.zeroBlk + b.zeroBlk, a.nanBlk + b.nanBlk⟩

/-- One encoded element: its code and what it counted. -/
structure Enc where
  code : Nat
  counts : Counts
  deriving DecidableEq, Repr

/-- Width, magnitude bits and units per step of the two wide log formats. -/
def Fmt.wide : Fmt → Nat × Int
  | .l32 => (31, step32) | _ => (15, step16)

/-- Truncating narrowing from L32 to L16 (R30, R31); `e` carries the source TSO. -/
def truncL16 (tso : Int) (v : Val) : Enc :=
  match v with
  | .fin neg e =>
    let m := fdiv (e - tso * step16) step32 + 1073741824
    let s := if neg then 32768 else 0
    if m ≤ 0xFFFF then ⟨0, { Counts.none with under := 1 }⟩
    else if 0x7FFF0000 ≤ m then ⟨s + 0x7FFE, { Counts.none with sat := 1 }⟩
    else ⟨s + (fdiv m 65536).toNat, .none⟩
  | .zero => ⟨0, .none⟩
  | .nan _ => ⟨32768, .none⟩
  | .inf neg => ⟨(if neg then 32768 else 0) + 0x7FFF, .none⟩

/-- Round into L16 or L32 with the range edges of Table 3-3 before the mode (R42, R58, R60). -/
def roundWide (f : Fmt) (r : Rnd) (tso : Int) (i : Nat) (v : Val) : Enc :=
  let (mb, st) := f.wide
  let sgn (neg : Bool) : Nat := if neg then 2 ^ mb else 0
  let infCode : Nat := 2 ^ mb - 1
  let top : Int := 2 ^ mb - 2
  match v with
  | .zero => ⟨0, .none⟩
  | .nan _ => ⟨2 ^ mb, .none⟩
  | .inf neg => ⟨sgn neg + infCode, .none⟩
  | .fin neg e =>
    let t := e - tso * step16 + 2 ^ (mb - 1) * st
    if top * st + fdiv st 2 ≤ t then
      if r.infPolicy then ⟨sgn neg + infCode, { Counts.none with inf := 1 }⟩
      else ⟨sgn neg + top.toNat, { Counts.none with sat := 1 }⟩
    else if top * st < t then ⟨sgn neg + top.toNat, .none⟩
    else if st ≤ t then
      let m := roundStep r i (fdiv t st) (fmod t st) st.toNat
      ⟨sgn neg + (min m top).toNat, .none⟩
    else if fdiv st 2 ≤ t then ⟨sgn neg + 1, .none⟩
    else ⟨0, { Counts.none with under := 1 }⟩

/-- Encode into L16 or L32: rounded, or narrowed to L16 by truncation. -/
def encodeWide (f : Fmt) (r : Rnd) (tso : Int) (i : Nat) (v : Val) : Enc :=
  if r.trunc ∧ f = .l16 then truncL16 tso v else roundWide f r tso i v

/-- The two arrays of an L32S master from its L32 code (R32, R33). -/
def splitL32S (code : Nat) : (Nat × Nat) × Counts :=
  let m := code % 2147483648
  let s := if 2147483648 ≤ code % 4294967296 then 32768 else 0
  if m = 0 ∨ m = 2147483647 then ((s + m / 65536, 0), .none)
  else if m < 0x8000 then ((0, 0), { Counts.none with under := 1 })
  else
    let k := min m 0x7FFE7FFF
    ((s + (k + 0x8000) / 65536, k % 65536), if 0x7FFE7FFF < m then { Counts.none with sat := 1 } else .none)

/-- Convert to IEEE (Table 2-7): correctly rounded in the linear domain, ties to even. A value overflows when its rounded result does
(DEDUCED, unsafe, log entry 45). -/
def encodeIeee (f : Fmt) (r : Rnd) (tso : Int) (v : Val) : Enc :=
  let (fb, eb) := f.ieeeParams
  let sgn (neg : Bool) : Nat := if neg then 2 ^ (fb + eb) else 0
  let infCode : Nat := (2 ^ eb - 1) * 2 ^ fb
  match v with
  | .zero => ⟨0, .none⟩
  | .nan _ => ⟨infCode + 2 ^ (fb - 1), .none⟩
  | .inf neg => ⟨sgn neg + infCode, .none⟩
  | .fin neg e0 =>
    let e := e0 - tso * step16
    let ex := fdiv e oct
    let fr := fmod e oct
    let qe := max ex (ieeeEmin eb)
    let k : Int := ex - qe + fb
    let n : Nat :=
      if k < -1 then 0
      else
        let y := exp2Floor fr (k + 1).toNat
        if fr = 0 ∧ k = -1 then 0 else (y + 1) / 2
    let biased : Int := qe - ieeeEmin eb
    let code : Int := biased * 2 ^ fb + n
    if n = 0 then ⟨sgn neg, { Counts.none with under := 1 }⟩
    else if (infCode : Int) ≤ code then
      if r.infPolicy then ⟨sgn neg + infCode, { Counts.none with inf := 1 }⟩
      else ⟨sgn neg + infCode - 1, { Counts.none with sat := 1 }⟩
    else ⟨sgn neg + code.toNat, .none⟩

/-! ### The block encoder (R43 to R45) -/

/-- What the encoder makes of one block: scale byte, codes, counts, and the NaN it formed (position in the block and
whether it is created). -/
structure BlockOut where
  scale : Nat
  codes : List Nat
  counts : Counts
  nan : Option (Nat × Bool)
  deriving DecidableEq, Repr

/-- Position of the first element a test holds of. -/
def firstIdx {α : Type} (p : α → Bool) : List α → Nat → Option Nat
  | [], _ => none
  | a :: l, i => if p a then some i else firstIdx p l (i + 1)

/-- A NaN element. -/
def Val.isNan : Val → Bool
  | .nan _ => true | _ => false

/-- An infinite element. -/
def Val.isInf : Val → Bool
  | .inf _ => true | _ => false

/-- The exponents of the nonzero finite elements. -/
def finExps : List (Nat × Val) → List Int
  | [] => []
  | (_, .fin _ e) :: l => e :: finExps l
  | _ :: l => finExps l

/-- Largest of a list of integers, no list being empty. -/
def maxInt : List Int → Int
  | [] => 0
  | [a] => a
  | a :: l => max a (maxInt l)

/-- Units per element step of the block formats. -/
def Fmt.blockUnit : Fmt → Int
  | .l8w => 70368744177664 | _ => 35184372088832

/-- Encode one block: `xs` pairs each present element with its index in the destination's linear order. -/
def encodeBlock (f : Fmt) (r : Rnd) (tso : Int) (xs : List (Nat × Val)) : BlockOut :=
  let u := f.blockUnit
  match firstIdx (fun p => p.2.isNan) xs 0, firstIdx (fun p => p.2.isInf) xs 0 with
  | some i, _ => ⟨255, xs.map (fun _ => 128), { Counts.none with nanBlk := 1 },
      some (i, false)⟩
  | none, some i => ⟨255, xs.map (fun _ => 128), { Counts.none with nanBlk := 1 }, some (i, true)⟩
  | none, none =>
    let es := (finExps xs).map (fun e => e - tso * step16)
    if es = [] then ⟨0, xs.map (fun _ => 0), { Counts.none with zeroBlk := 1 }, none⟩
    else
      let shift := max (-126) (min 127 (cdiv (maxInt es - 63 * u) oct))
      let idx (i : Nat) (e : Int) : Int :=
        let y := e - tso * step16 - shift * oct
        roundStep r i (fdiv y u) (fmod y u) u.toNat
      let clampIdx (c : Int) : Int := min c 63
      let cs : List Int := xs.filterMap (fun p => match p.2 with | .fin _ e => some (clampIdx (idx p.1 e)) | _ => none)
      let floorC := max (maxInt cs - 63) (-63)
      let one (p : Nat × Val) : Nat × Counts :=
        match p.2 with
        | .fin neg e =>
          let c := idx p.1 e
          let k := clampIdx c
          let satC : Counts := if 63 < c then { Counts.none with sat := 1 } else .none
          if floorC ≤ k then ((if neg then 128 else 0) + (k + 64).toNat, satC)
          else (0, satC.add { Counts.none with under := 1 })
        | _ => (0, .none)
      let outs := xs.map one
      let kept := outs.any (fun o => o.1 ≠ 0)
      ⟨if kept then (shift + 127).toNat else 0, outs.map (·.1), outs.foldl (fun c o => c.add o.2) .none, none⟩

/-! ### The Linear Product Table (R62 to R64) -/

/-- Table 3-4, 1.24 fixed point. -/
def lpt8 : List Nat :=
  [0x1000000, 0x1172B84, 0x1306FE1, 0x14BFDAD, 0x16A09E6, 0x18ACE54, 0x1AE89FA, 0x1D5818E]

/-- FINE[r] = 2^(r/128) rounded to nearest in 1.24 fixed point (R64). -/
def fineTable : List Nat :=
  [0x1000000, 0x10163DB, 0x102C9A4, 0x104315F, 0x1059B0D, 0x10706B3, 0x1087452, 0x109E3ED,
   0x10B5587, 0x10CC923, 0x10E3EC3, 0x10FB66B, 0x111301D, 0x112ABDC, 0x11429AB, 0x115A98D]

/-- P16(f) in 1.24 fixed point. -/
def p16 (f : Nat) : Nat :=
  rneShift ((lpt8[(f / 16) % 8]?.getD 0) * (fineTable[f % 16]?.getD 0)) 24

/-- The linear value of a code sum in L16 steps (R63, R64). -/
def productDy (neg : Bool) (c16 : Int) : Dy :=
  .ofSigned neg (p16 (fmod c16 128)) (fdiv c16 128 - 24)

end Sys2Proof.Machine
end

