-- ==== Sys2Proof/Machine/LinSum.lean ====
section
/-! DEFINITION. Log-domain elementwise arithmetic (chapter 3), the Standard and Long accumulators of the Reedbed
(chapter 4), and the lane and combiner trees (chapter 5). -/
namespace Sys2Proof.Machine

/-! ### Gaussian-logarithm addition (R66 to R68) -/

/-- Fraction bits carried for 2^-d before the logarithm is taken (DESIGN CHOICE, safe, log entry 10). -/
abbrev gaussPrec : Nat := 128

/-- log2 (1 + 2^-d) or log2 (1 - 2^-d) to k fraction bits (in units of 2^-48 octave), d in units of 2^-48 octave. -/
def gaussLog (k : Nat) (same : Bool) (d : Int) : Int :=
  let c := cdiv d oct
  let e := exp2Floor (c * oct - d).toNat gaussPrec
  let one := 2 ^ (gaussPrec + c.toNat)
  ((logNear k (if same then one + e else one - e) : Int) - (gaussPrec + c) * 2 ^ k) * 2 ^ (48 - k)

/-- A value of 40 fraction bits, held within `bound` units of 2^-48 octave of an exact one. -/
def gridClamp (bound exact cand : Int) : Int :=
  max (cdiv (exact - bound) unit40) (min (fdiv (exact + bound) unit40) (fdiv cand unit40)) * unit40

/-- The bound of R68, 2^-18 octave, in units of 2^-48 octave, less the half unit by which the exact value itself is rounded
(DESIGN CHOICE, safe, log entry 7). -/
abbrev gaussBound : Int := 1073741823

/-- A table's value at d: the correctly rounded one and the table's own deviation. -/
def gaussTable (same : Bool) (d : Int) : Int := gaussLog 40 same d + Config.gaussDev same d * unit40

/-- db(k) by the cotransformation of R67 for 1 ≤ k ≤ 127: DBLO and DBHI entries are correctly rounded, and sb(t) comes from the
SB table. -/
def gaussCotrans (k : Nat) : Int :=
  let k2 := k % 8
  let k1 := k - k2
  let db (k : Nat) : Int := gaussLog 40 false (k * step16)
  let d2 : Int := k2 * step16
  if k1 = 0 then db k2
  else if k2 = 0 then db k1
  else
    let t := db k1 - db k2 - d2
    db k1 - d2 + gaussTable true t

/-- sb(k) or db(k) as the L16 adder forms it, inside the bound of R68. -/
def gaussTerm (same : Bool) (k : Nat) : Int :=
  gridClamp gaussBound (gaussLog 48 same (k * step16))
    (if !same && decide (k ≤ 127) then gaussCotrans k else gaussTable same (k * step16))

/-- Finite sum of exponents and signs; `wide` takes the exact L32 path of Table 3-5. -/
def addFin (wide : Bool) (na : Bool) (a : Int) (nb : Bool) (b : Int) : Val :=
  let (ns, x, y) := if b ≤ a then (na, a, b) else (nb, b, a)
  let same := na == nb
  if x = y ∧ !same then .zero
  else if wide then .fin ns (x + gaussLog 40 same (x - y))
  else
    let k := (fdiv (x - y) step16).toNat
    if 3072 ≤ k then .fin ns x else .fin ns (x + gaussTerm same k)

/-- Propagation of NaN (R71): the result when any operand is NaN. -/
def nanOr (ops : List Val) (v : Val) : Val := if ops.any Val.isNan then .nan false else v

/-- Add (Table 3-6). -/
def vAdd (wide : Bool) (a b : Val) : Val :=
  nanOr [a, b] <| match a, b with
  | .inf s, .inf t => if s = t then .inf s else .nan true
  | .inf s, _ => .inf s
  | _, .inf t => .inf t
  | .zero, v => v
  | v, .zero => v
  | .fin s x, .fin t y => addFin wide s x t y
  | v, _ => v

/-- Negate; zero and NaN unchanged (R28). -/
def vNeg : Val → Val
  | .inf s => .inf (!s) | .fin s e => .fin (!s) e | v => v

/-- Magnitude; zero and NaN unchanged (R28). -/
def vAbs : Val → Val
  | .inf _ => .inf false | .fin _ e => .fin false e | v => v

/-- Multiply by code addition (Table 3-6). -/
def vMul (a b : Val) : Val :=
  nanOr [a, b] <| match a, b with
  | .zero, .inf _ | .inf _, .zero => .nan true
  | .zero, _ | _, .zero => .zero
  | .inf s, .inf t | .inf s, .fin t _ | .fin s _, .inf t => .inf (s != t)
  | .fin s x, .fin t y => .fin (s != t) (x + y)
  | v, _ => v

/-- An exponent above every destination's range: a division by zero follows the overflow policy. -/
abbrev overflowExp : Int := 4611686018427387904

/-- Divide by code subtraction (Table 3-6). -/
def vDiv (a b : Val) : Val :=
  nanOr [a, b] <| match a, b with
  | .zero, .zero => .nan true
  | .inf _, .inf _ => .nan true
  | .zero, _ => .zero
  | .fin _ _, .inf _ => .zero
  | .fin s _, .zero => .fin s overflowExp
  | .inf s, .zero => .inf s
  | .inf s, .fin t _ => .inf (s != t)
  | .fin s x, .fin t y => .fin (s != t) (x - y)
  | v, _ => v

/-- The order of Table 3-6: -Inf < negatives < 0 < positives < +Inf. -/
def Val.lt (a b : Val) : Bool :=
  match a, b with
  | .nan _, _ | _, .nan _ => false
  | .inf true, .inf true => false
  | .inf true, _ => true
  | _, .inf true => false
  | .inf false, _ => false
  | _, .inf false => true
  | .fin true x, .fin true y => decide (y < x)
  | .fin true _, _ => true
  | _, .fin true _ => false
  | .zero, .fin false _ => true
  | .fin false x, .fin false y => decide (x < y)
  | _, _ => false

/-- Equal, zero equal to zero, NaN unordered (R73). -/
def Val.eqv (a b : Val) : Bool :=
  match a, b with
  | .nan _, _ | _, .nan _ => false
  | a, b => a == b

/-- MAX. -/
def vMax (a b : Val) : Val := nanOr [a, b] (if a.lt b then b else a)
/-- MIN. -/
def vMin (a b : Val) : Val := nanOr [a, b] (if b.lt a then b else a)

/-- HALVE: square root (Table 3-6). -/
def vHalve : Val → Val
  | .fin true _ | .inf true => .nan true
  | .fin false e => .fin false (fdiv e 2)
  | .nan _ => .nan false
  | v => v

/-- DOUBLE: square (Table 3-6). -/
def vDouble : Val → Val
  | .fin _ e => .fin false (2 * e) | .inf _ => .inf false | .nan _ => .nan false | .zero => .zero

/-- SCALE by oct / 128 octaves (R173). -/
def vScale (oct : Int) : Val → Val
  | .fin s e => .fin s (e + oct * step16) | .nan _ => .nan false | v => v

/-- The condition codes of SELECT and VS.CMP (Table 6-7): LT, LE, GT, GE, EQ, NE, ISZERO; NaN is unordered (R73). -/
def condHolds (cond : Nat) (a b : Val) : Bool :=
  match cond with
  | 0 => a.lt b | 1 => a.lt b || a.eqv b | 2 => b.lt a | 3 => b.lt a || a.eqv b
  | 4 => a.eqv b | 5 => !a.eqv b | _ => a == .zero

/-- +1.0. -/
def Val.one : Val := .fin false 0

/-! ### Linear values of log operands -/

/-- The linear value of a finite log value: P16 for L8, L8W and L16 exponents, a 29-bit correctly rounded fraction for
L32 (R70, R94). -/
def finDy (l32 : Bool) (neg : Bool) (e : Int) : Dy :=
  if l32 then .ofSigned neg (exp2Near (fmod e oct) 29) (fdiv e oct - 29)
  else productDy neg (fdiv e step16)

/-! ### Classes (R93, R117) -/

/-- The class of a partial sum or bank entry. -/
inductive Cls where
  | fin | pinf | ninf
  | nan (created : Bool)
  | ovfP | ovfN
  deriving DecidableEq, Repr

/-- Class combination in the order of R93; a NaN keeps CREATED when either side had it or the node creates it (R117). -/
def Cls.comb : Cls → Cls → Cls
  | .nan a, .nan b => .nan (a || b)
  | .nan a, _ => .nan a
  | _, .nan b => .nan b
  | .pinf, .ninf | .ninf, .pinf => .nan true
  | .pinf, _ | _, .pinf => .pinf
  | .ninf, _ | _, .ninf => .ninf
  | .ovfP, .ovfN | .ovfN, .ovfP => .nan true
  | .ovfP, _ | _, .ovfP => .ovfP
  | .ovfN, _ | _, .ovfN => .ovfN
  | .fin, .fin => .fin

/-- The class of a log value that is not finite. -/
def Val.cls : Val → Cls
  | .nan c => .nan c | .inf true => .ninf | .inf false => .pinf | _ => .fin

/-- The log value of a class that is not finite; an overflow class is an overflow with its sign (R97). -/
def Cls.toVal : Cls → Val
  | .fin => .zero | .pinf => .inf false | .ninf => .inf true | .nan c => .nan c
  | .ovfP => .fin false overflowExp | .ovfN => .fin true overflowExp

/-! ### Standard pairs (R89, R90, R115) -/

/-- A compensated pair of 40-bit floats with its class. -/
structure Pair where
  cls : Cls
  hi : Dy
  lo : Dy
  deriving DecidableEq, Repr

/-- (0, 0). -/
def Pair.zero : Pair := ⟨.fin, .zero, .zero⟩

/-- One 40-bit addition, nearest, ties to even, unlimited exponent range inside pair_add. -/
def fl (a b : Dy) : Dy := (a.add b).roundTo 30

/-- The range test of R90. -/
def Pair.range (hi lo : Dy) : Pair :=
  if hi.geExp 512 then ⟨if hi.m < 0 then .ovfN else .ovfP, .zero, .zero⟩
  else ⟨.fin, if hi.geExp (-510) then hi else .zero, if lo.geExp (-510) then lo else .zero⟩

/-- The pair of an exact in-unit sum (R89). -/
def Pair.ofDy (u : Dy) : Pair :=
  let hi := u.roundTo 30
  .range hi ((u.add hi.neg).roundTo 30)

/-- A class with no value. -/
def Pair.ofCls (c : Cls) : Pair := ⟨c, .zero, .zero⟩

/-- pair_add of R89 with the classes of R93. -/
def pairAdd (x y : Pair) : Pair :=
  match x.cls, y.cls with
  | .fin, .fin =>
    let s := fl x.hi y.hi
    let t := fl s x.hi.neg
    let e0 := fl (fl x.hi (fl s t.neg).neg) (fl y.hi t.neg)
    let e := fl e0 (fl x.lo y.lo)
    let h := fl s e
    let l := fl e (fl h s.neg).neg
    .range h l
  | a, b => .ofCls (a.comb b)

/-- The value an encoder reads from a Standard entry (R97). -/
def Pair.toVal (p : Pair) : Val := if p.cls = .fin then (p.hi.add p.lo).toVal else p.cls.toVal

/-! ### Long entries (R91, R92, R116) -/

/-- A Long bank entry: class, accumulator in units of 2^(anchor - 80), anchor once fixed, LONG_INEXACT and the finite
nonzero values held aside while no anchor is fixed. -/
structure LEntry where
  cls : Cls
  acc : Int
  anchor : Option Int
  lx : Bool
  held : List Dy
  deriving DecidableEq, Repr

/-- An entry that nothing has reached. -/
def LEntry.zero : LEntry := ⟨.fin, 0, none, false, []⟩

/-- Add a value under the window rule of R92 at anchor x. -/
def LEntry.addAt (x : Int) (l : LEntry) (v : Dy) : LEntry :=
  let g := x - 80
  let w := v.roundGrain g
  let inexact := !(w.eqv v)
  let s := l.acc + w.alignTo g
  let lim : Int := 2 ^ 159
  if lim ≤ s then { l with acc := lim - 1, lx := true }
  else if s ≤ -lim then { l with acc := 1 - lim, lx := true }
  else { l with acc := s, lx := l.lx || inexact }

/-- Fix the anchor and add what was held aside (R91). -/
def LEntry.fix (x : Int) (l : LEntry) : LEntry :=
  match l.anchor with
  | some _ => l
  | none => l.held.foldl (LEntry.addAt x) { l with anchor := some x, held := [] }

/-- A preload or bias value, held aside while there is no anchor. -/
def LEntry.addHeld (l : LEntry) (c : Cls) (v : Dy) : LEntry :=
  if c = .fin then
    if v.m = 0 then l
    else match l.anchor with
      | some x => l.addAt x v
      | none => { l with held := l.held ++ [v] }
  else { l with cls := l.cls.comb c }

/-- A product of an in-scale block pair whose anchor would be x. -/
def LEntry.addProduct (l : LEntry) (x : Int) (c : Cls) (v : Dy) : LEntry :=
  let l := l.fix x
  if c = .fin then l.addAt (l.anchor.getD x) v else { l with cls := l.cls.comb c }

/-- The entry as a drain or a combiner reads it: an entry with no anchor takes that of its first held value (R91). -/
def LEntry.settle (l : LEntry) : LEntry :=
  match l.anchor, l.held with
  | none, v :: _ => l.fix v.exp
  | _, _ => l

/-- The value a drain encodes. -/
def LEntry.toVal (l0 : LEntry) : Val :=
  let l := l0.settle
  if l.cls = .fin then (Dy.mk l.acc (l.anchor.getD 0 - 80)).toVal else l.cls.toVal

/-- Combine two settled Long partials at a tree node (R116, R117). -/
def LEntry.combine (a b : LEntry) : LEntry :=
  let c := a.cls.comb b.cls
  let r : LEntry := match a.anchor, b.anchor with
    | some x, some y => { a with lx := a.lx || b.lx }.addAt x ⟨b.acc, y - 80⟩
    | some _, none => { a with lx := a.lx || b.lx }
    | none, _ => { b with lx := a.lx || b.lx }
  { r with cls := c }

/-! ### Bank entries and the trees -/

/-- One accumulator entry or combiner partial. -/
inductive Entry where
  | std (p : Pair)
  | long (l : LEntry)
  deriving DecidableEq, Repr

/-- The zero entry of a mode (true is Long). -/
def Entry.zero (long : Bool) : Entry := if long then .long .zero else .std .zero

/-- The value an encoder reads. -/
def Entry.toVal : Entry → Val
  | .std p => p.toVal | .long l => l.toVal

/-- LONG_INEXACT of an entry as drained. -/
def Entry.lx : Entry → Bool
  | .std _ => false | .long l => l.settle.lx

/-- Settle a Long entry before it travels (R114). -/
def Entry.settle : Entry → Entry
  | .std p => .std p | .long l => .long l.settle

/-- A tree node with two present children; mixed modes are refused before (R122). -/
def Entry.combine : Entry → Entry → Entry
  | .std a, .std b => .std (pairAdd a b)
  | .long a, .long b => .long (a.combine b)
  | a, _ => a

/-- A node of R111: combine two present children, pass one on. -/
def nodeOpt {α : Type} (f : α → α → α) : Option α → Option α → Option α
  | some a, some b => some (f a b)
  | some a, none => some a
  | none, b => b

/-- One level of a complete binary tree: pairs 2j and 2j + 1. -/
def treeLevel {α : Type} (f : α → α → α) : List (Option α) → List (Option α)
  | a :: b :: l => nodeOpt f a b :: treeLevel f l
  | l => l

/-- A complete binary tree of the given depth over its leaves (R110, R112). -/
def treeRoot {α : Type} (f : α → α → α) : Nat → List (Option α) → Option α
  | 0, l => l.headD none
  | d + 1, l => treeRoot f d (treeLevel f l)

/-- A VSU row sum over the row's values in linear order: lane i mod 256, then eight tree levels (R112). -/
def rowSum (xs : List (Cls × Dy)) : Pair :=
  let toPair (v : Cls × Dy) : Pair := if v.1 = .fin then .ofDy v.2 else .ofCls v.1
  let lane (j : Nat) : Option Pair :=
    if j < xs.length then
      some ((((xs.zipIdx).filter (fun p => p.2 % 256 = j)).map (·.1)).foldl (fun p v => pairAdd p (toPair v)) .zero)
    else none
  (treeRoot pairAdd 8 ((List.range 256).map lane)).getD .zero

/-- The linear image of a log value for a row sum, a preload or a reduction. -/
def Val.lin (l32 : Bool) (v : Val) : Cls × Dy :=
  match v with
  | .fin s e => (.fin, finDy l32 s e)
  | .zero => (.fin, .zero)
  | v => (v.cls, .zero)

end Sys2Proof.Machine
end

