-- ==== Sys2Proof/Machine/SfuMath.lean ====
section
/-! DEFINITION. The values the SFU forms (chapter 6): table records, micro-programs, built-ins, root-mean-square
normalisation and the soft maximum. Records and images are little-endian integers, so a byte offset k is bit 8k. -/
namespace Sys2Proof.Machine

/-! ### CRC-32 (R133) -/

/-- One bit of the reflected IEEE 802.3 CRC. -/
def crcBits : Nat → Nat → Nat
  | 0, c => c
  | k + 1, c => crcBits k (if c % 2 = 1 then (c / 2) ^^^ 0xEDB88320 else c / 2)

/-- CRC-32 of a byte sequence: initial value and final XOR 0xFFFF_FFFF. -/
def crc32 (bs : List Nat) : Nat := (bs.foldl (fun c b => crcBits 8 (c ^^^ (b % 256))) 0xFFFFFFFF) ^^^ 0xFFFFFFFF

/-- The bytes of a little-endian integer. -/
def bytesOf (n : Nat) (off len : Nat) : List Nat := (List.range len).map (fun i => bits n (8 * (off + i)) 8)

/-- The little-endian integer of bytes. -/
def natOfBytes : List Nat → Nat
  | [] => 0
  | b :: l => b % 256 + 256 * natOfBytes l

/-! ### SFU_COMPAT (R144, R145, R154) -/

/-- The M2 SFU's code for an L16 code under function 0x88 + i; a NaN operand gives NaN whatever the table (R71, R142). -/
def compatCode (i c : Nat) : Nat := if c % 65536 = 0x8000 then 0x8000 else Config.m2Code i (c % 65536) % 65536

/-- SFU.ROM_CRC.COMPAT: the CRC-32 of the eight M2 tables in function order, each 65,536 codes of two bytes, little-endian (R144, R154;
the order is DESIGN CHOICE, safe, log entry 6). -/
def romCrcCompat : Nat :=
  crc32 ((List.range 8).flatMap (fun i => (List.range 65536).flatMap (fun c => bytesOf (compatCode i c) 0 2)))

/-! ### High-precision linear values -/

/-- Fraction bits of the irrational constants and mantissas (DESIGN CHOICE, safe, log entry 10). -/
abbrev realPrec : Nat := 200

/-- log2 e at 200 fraction bits. -/
def log2e : Dy := ⟨2318321547468254865173387471183990171487108758923299108729110, -200⟩
/-- ln 2 at 200 fraction bits. -/
def ln2 : Dy := ⟨1113844574712631719546256151097547306333272293549090750737802, -200⟩

/-- The linear value of a finite log value, exact for a whole exponent and otherwise cut at 200 fraction bits. -/
def realOf (neg : Bool) (e : Int) : Dy :=
  let f := fmod e oct
  if f = 0 then .ofSigned neg 1 (fdiv e oct) else .ofSigned neg (exp2Floor f realPrec) (fdiv e oct - realPrec)

/-- A linear value as an exponent with 40 fraction bits, nearest, ties to even, in units of 2^-48 octave. -/
def Dy.exp40 (d : Dy) : Int := (d.roundGrain (-40)).alignTo (-48)

/-- A linear value as an exponent with 48 fraction bits, nearest, ties to even. -/
def Dy.exp48 (d : Dy) : Int := (d.roundGrain (-48)).alignTo (-48)

/-- floor (value * 2^k). -/
def Dy.floorAt (d : Dy) (k : Nat) : Int :=
  if -(k : Int) ≤ d.x then d.alignTo (-(k : Int)) else fdiv d.m (2 ^ (-(k : Int) - d.x).toNat)

/-! ### Table records (R131, R132, R134) -/

/-- An index variable, which may be infinite. -/
inductive Ext where
  | ninf | pinf
  | fin (d : Dy)
  deriving DecidableEq, Repr

/-- A 16-byte entry (Table 6-4): C0, C1, C2, NEG, KIND. -/
structure TEntry where
  c0 : Int
  c1 : Int
  c2 : Int
  neg : Bool
  kind : Nat
  deriving DecidableEq, Repr

/-- The entry at a bit offset of a record. -/
def tEntry (rec off : Nat) : TEntry :=
  ⟨sext 50 (bits rec off 50), sext 40 (bits rec (off + 50) 40), sext 28 (bits rec (off + 90) 28),
    bits rec (off + 118) 1 = 1, bits rec (off + 119) 3⟩

/-- Edge entry i: LOW_POS, HIGH_POS, LOW_NEG, HIGH_NEG. -/
def edgeEntry (rec i : Nat) : TEntry := tEntry rec (8 * (0x40 + 16 * i))
/-- Segment entry i. -/
def segEntry (rec i : Nat) : TEntry := tEntry rec (8 * (0x80 + 16 * i))

/-- TABLE_ID of a record. -/
def recId (rec : Nat) : Nat := bits rec 0 32
/-- The stored CRC of a record. -/
def recCrc (rec : Nat) : Nat := bits rec (8 * 0x1C) 32
/-- FLAGS. -/
def recFlags (rec : Nat) : Nat := bits rec (8 * 6) 16
/-- WSH, signed. -/
def recWsh (rec : Nat) : Int := sext 8 (bits rec (8 * 8) 8)
/-- U_MIN, 24 fraction bits. -/
def recUmin (rec : Nat) : Dy := ⟨sext 64 (bits rec (8 * 0x10) 64), -24⟩

/-- The acceptance checks of SF.LOAD (R132, R134). -/
def recordOk (rec : Nat) : Bool :=
  let f := recFlags rec
  let entries := (List.range 4).map (edgeEntry rec) ++ (List.range 256).map (segEntry rec)
  let rsv := (List.range 260).all (fun i => bits rec (8 * (0x40 + 16 * i) + 122) 6 = 0)
  decide (recId rec ≠ 0) && decide (f < 8) && !(f % 2 == 1 && f / 2 ≠ 0) &&
    decide (-24 ≤ recWsh rec) && decide (recWsh rec ≤ 7) && decide (bits rec (8 * 9) 56 = 0) &&
    entries.all (fun e => decide (e.kind ≤ 4)) && (entries.take 4).all (fun e => decide (e.kind ≠ 0)) && rsv &&
    decide (crc32 (bytesOf rec 0 0x1C ++ bytesOf rec 0x20 (0x1080 - 0x20)) = recCrc rec)

/-- The sign of an extended value times a coefficient: the value of an AFFINE entry at infinite u. -/
def affineInf (c1 : Int) (up : Bool) : Bool := (decide (0 < c1)) == up

/-- The result of an entry: kind, exponent y and output sign. -/
def entryVal (en : TEntry) (sgn : Bool) (u : Ext) (t : Nat) : Val :=
  match en.kind with
  | 2 => .zero
  | 3 => .inf sgn
  | 4 => .nan true
  | 0 =>
    .fin sgn (((Dy.mk en.c0 (-40)).add (((Dy.mk (en.c1 * t) (-56)).add ⟨en.c2 * t * t, -72⟩))).exp40)
  | _ =>
    match u with
    | .fin d => .fin sgn (((Dy.mk en.c0 (-40)).add ((Dy.mk en.c1 (-32)).mul d)).exp40)
    | .ninf => if en.c1 = 0 then .fin sgn (en.c0 * unit40) else if affineInf en.c1 false then .inf sgn else .zero
    | .pinf => if en.c1 = 0 then .fin sgn (en.c0 * unit40) else if affineInf en.c1 true then .inf sgn else .zero

/-- A value below zero. -/
def Val.isNeg : Val → Bool
  | .inf true | .fin true _ => true
  | _ => false

/-- Evaluate a record on one element (R132). -/
def tableEval (rec : Nat) (v : Val) : Val :=
  if v.isNan then .nan false
  else
    let lin := recFlags rec % 2 = 1
    let split := decide (recFlags rec / 2 % 2 = 1)
    let odd := decide (recFlags rec / 4 % 2 = 1)
    let neg := v.isNeg
    let u : Ext :=
      match v with
      | .fin s e => .fin (if lin then realOf s e else ⟨e, -48⟩)
      | .inf s => if lin ∧ s then .ninf else .pinf
      | _ => if lin then .fin .zero else .ninf
    let low := split && neg
    let base := if low then 128 else 0
    let n : Nat := if split then 128 else 256
    let (lo, hi) := if low then (edgeEntry rec 2, edgeEntry rec 3) else (edgeEntry rec 0, edgeEntry rec 1)
    let out (en : TEntry) (t : Nat) : Val := entryVal en (en.neg != (odd && neg)) u t
    match u with
    | .ninf => out lo 0
    | .pinf => out hi 0
    | .fin d =>
      let q := d.add (recUmin rec).neg
      if q.m < 0 then out lo 0
      else
        let fq := (Dy.mk q.m (q.x - recWsh rec)).floorAt 24
        let i := (fdiv fq 16777216).toNat
        if n ≤ i then out hi 0 else out (segEntry rec (base + i)) (fmod fq 16777216)

/-! ### Built-in functions (R143) -/

/-- The bound of R143, 2^-20 octave, in units of 2^-48 octave, less 2^-44 octave for the rounding of the exact value (DESIGN CHOICE, safe, log entry 7). -/
abbrev romBound : Int := 268435440

/-- The ROM table's y against the exact y: 40 fraction bits (R132), within the bound. -/
def romY (fn : Nat) (s : Bool) (e y : Int) : Int := gridClamp romBound y (y + 128 + Config.romDev fn s e)

/-- e^x as a linear value, for |x| small enough that the result matters. -/
def expReal (d : Dy) : Dy :=
  let y := (d.mul log2e).exp48
  realOf false (max (-(4096 * oct)) (min (4096 * oct) y))

/-- The sum or quotient logarithm of linear values, to 48 fraction bits. -/
def lg48 (d : Dy) : Int := (logNear 48 d.m.natAbs : Int) + d.x * oct

/-- sqrt (2/pi) and 0.044715 of the tanh form of GELU (DESIGN CHOICE, safe, log entry 7). -/
def geluA : Dy := ⟨1282151055680999866826009247359661344393248438342903040684417, -200⟩
/-- 0.044715 at 200 fraction bits. -/
def geluB : Dy := ⟨71854234649040750170858834959035085771780306866997581630501, -200⟩

/-- A log argument x in linear form, small arguments kept, large ones bounded so that exponentials stay finite. -/
def linArg (s : Bool) (e : Int) : Dy := realOf s (min e (12 * oct))

/-- Sigmoid, tanh, GELU and SiLU of a finite nonzero value: sign and exact y to 48 fraction bits. -/
def romExact (fn : Nat) (s : Bool) (e : Int) : Bool × Int :=
  let x := linArg s e
  let one : Dy := ⟨1, 0⟩
  let sig (d : Dy) : Int := - lg48 (one.add (expReal d.neg))
  match fn with
  | 0 => (false, sig x)
  | 1 =>
    let a : Dy := ⟨x.m.natAbs, x.x⟩
    let t := expReal (a.add a).neg
    (s, if e < -(20 * oct) then e else lg48 (one.add t.neg) - lg48 (one.add t))
  | 2 =>
    let inner := (geluA.mul (x.add (geluB.mul ((x.mul x).mul x))))
    (s, e + sig (inner.add inner))
  | _ => (s, e + sig x)

/-- A ROM table function (DESIGN CHOICE, safe, log entry 7): limits at zero and infinity, otherwise the exact value within the bound. -/
def romEval (fn : Nat) (v : Val) : Val :=
  match v with
  | .nan _ => .nan false
  | .fin s e => let (n, y) := romExact fn s e; .fin n (romY fn s e y)
  | .zero => if fn = 0 then .fin false (romY fn false 0 (-oct)) else .zero
  | .inf s =>
    match fn with
    | 0 => if s then .zero else .fin false (romY fn s 0 0)
    | 1 => .fin s (romY fn s 0 0)
    | _ => if s then .zero else .inf false

/-! ### Micro-programs (R138 to R142) -/

/-- A working register: a log value, or the overflow and underflow classes. -/
inductive W where
  | num (x : Val)
  | ovf (neg : Bool)
  | unf
  deriving DecidableEq, Repr

/-- How a later step reads a register: OVF as an infinity, UNF as zero (R140). -/
def W.val : W → Val
  | .num x => x | .ovf s => .inf s | .unf => .zero

/-- Range of a register, ±2,048 octaves. -/
abbrev wLimit : Int := 2048 * oct

/-- Keep a result within the register range. -/
def W.of : Val → W
  | .fin s e => if wLimit ≤ e then .ovf s else if e ≤ -wLimit then .unf else .num (.fin s e)
  | x => .num x

/-- The value a program's register writes (R142): an overflow or an underflow, each counted on write. -/
def W.out : W → Val
  | .num x => x | .ovf s => .fin s overflowExp | .unf => .fin false (-overflowExp)

/-- a + b as an exact linear sum to 48 fraction bits. -/
def add48 (a b : Val) : Val :=
  match a, b with
  | .fin s x, .fin t y =>
    let (n, p, q) := if y ≤ x then (s, x, y) else (t, y, x)
    if p = q ∧ s ≠ t then .zero else .fin n (p + gaussLog 48 (s == t) (p - q))
  | a, b => vAdd true a b

/-- SCALE.E: the result whose log2 is value(b) * value(a). -/
def scaleE (b a : Val) : Val :=
  match vMul b a with
  | .fin s e =>
    if 13 * oct ≤ e then .fin false (if s then -overflowExp else overflowExp) else .fin false (realOf s e).exp48
  | .zero => .one
  | .inf true => .zero
  | .inf false => .inf false
  | v => v

/-- SCALE.L: value(b) * log2 |a|. -/
def scaleL (b a : Val) : Val :=
  if a.isNan || b.isNan then .nan false
  else if a.isNeg then .nan true
  else
    let l : Val := match a with
      | .zero => .inf true | .inf _ => .inf false
      | .fin _ e => if e = 0 then .zero else .fin (e < 0) ((logNear 48 e.natAbs : Int) - 48 * oct)
      | v => v
    vMul b l

/-- HALVE at 48 fraction bits, ties to even. -/
def halve48 (a : Val) : Val :=
  match a with
  | .fin false e => .fin false (let q := fdiv e 2; if fmod e 2 = 0 then q else if fmod q 2 = 0 then q else q + 1)
  | a => vHalve a

/-- The built-in functions 0x80 to 0x87 by index. -/
def builtinEval (i : Nat) (v : Val) : Val :=
  let kE : Val := .fin false (((logNear 40 log2e.m.natAbs : Int) - 200 * 2 ^ 40) * unit40)
  let kL : Val := .fin false (((logNear 40 ln2.m.natAbs : Int) - 200 * 2 ^ 40) * unit40)
  let recip (w : W) : W := W.of (vDiv .one w.val)
  match i with
  | 0 => (W.of (scaleE kE v)).out
  | 1 => (W.of (scaleL kL v)).out
  | 6 => (recip (W.of (halve48 v))).out
  | 7 => (recip (W.of v)).out
  | i => romEval (i - 2) v

/-- Constant j of an image (R138). -/
def progConst (img j : Nat) : Val :=
  let c := bits img (8 * 256 + 64 * j) 64
  match bits c 53 2 with
  | 0 => .fin (bits c 52 1 = 1) (sext 52 c * unit40)
  | 1 => .zero
  | 2 => .inf (bits c 52 1 = 1)
  | _ => .nan false

/-- One step on the registers. `slot` gives the record of a slot. -/
def progStep (img : Nat) (slot : Nat → Nat) (w : Nat) (r : List W) : List W :=
  let f (lo n : Nat) := bits w lo n
  let reg (i : Nat) : Val := ((r[i]?).getD (W.num .zero)).val
  let a := reg (f 7 3)
  let sub := f 22 3
  let ci := f 16 3
  let b := if f 13 1 = 1 then progConst img ci else reg (f 10 3)
  let res : Val :=
    match f 0 4 with
    | 0 => if sub % 2 = 0 then tableEval (slot ci) a else builtinEval ci a
    | 1 => vMul a b
    | 2 => vDiv a b
    | 3 => halve48 a
    | 4 => vDouble a
    | 5 => nanOr [a, b] (add48 a (if sub = 1 then vNeg b else b))
    | 6 => vMin (vMax a (progConst img ci)) (progConst img (ci + 1))
    | 7 =>
      let t := reg (f 19 3)
      let c := progConst img ci
      let take := condHolds sub t c
      if t.isNan then .nan false else let x := if take then a else reg (f 10 3); if x.isNan then .nan false else x
    | _ => if sub = 0 then scaleE b a else scaleL b a
  r.set (f 4 3) (W.of res)

/-- Run the steps in index order through the one with LAST = 1. -/
def progRun (img : Nat) (slot : Nat → Nat) : Nat → Nat → List W → List W
  | 0, _, r => r
  | k + 1, i, r =>
    let w := bits img (32 * i) 32
    let r' := progStep img slot w r
    if bits w 14 1 = 1 then r' else progRun img slot k (i + 1) r'

/-- A micro-program on x and the SRC2 element (R138, R142). -/
def progEval (img : Nat) (slot : Nat → Nat) (x y : Val) : Val :=
  if x.isNan || y.isNan then .nan false
  else
    let r := progRun img slot 64 0 (W.of x :: W.of y :: List.replicate 6 (W.num .zero))
    ((r[0]?).getD (W.num .zero)).out

/-- Index of the first step with LAST = 1. -/
def lastStep (img : Nat) : Option Nat := firstIdx (fun i => bits img (32 * i + 14) 1 = 1) (List.range 64) 0

/-- One step word is defined (R141). -/
def stepOk (w : Nat) : Bool :=
  let op := bits w 0 4
  let sub := bits w 22 3
  let ci := bits w 16 3
  decide (op ≤ 8) && decide (bits w 15 1 = 0) && decide (bits w 25 7 = 0) &&
    (match op with
      | 0 => decide (sub / 2 = 0) | 5 => decide (sub ≤ 1) | 6 => decide (sub = 0) && decide (ci ≤ 6)
      | 7 => decide (sub ≤ 6) | 8 => decide (sub ≤ 1) | _ => decide (sub = 0))

/-- The acceptance checks of SF.PLOAD (R141). -/
def progOk (img : Nat) : Bool :=
  match lastStep img with
  | none => false
  | some l =>
    (List.range (l + 1)).all (fun i => stepOk (bits img (32 * i) 32)) &&
      (List.range 64).all (fun i => decide (i ≤ l) || decide (bits img (32 * i) 32 = 0)) &&
      (List.range 8).all (fun j => decide (bits img (8 * 256 + 64 * j + 55) 9 = 0))

/-- The slots a program's TABLE steps name (R135). -/
def progSlots (img : Nat) : List Nat :=
  (List.range ((lastStep img).getD 0 + 1)).filterMap (fun i =>
    let w := bits img (32 * i) 32
    if bits w 0 4 = 0 ∧ bits w 22 1 = 0 then some (bits w 16 3) else none)

/-! ### SF.RNORM (R146, R147) -/

/-- The two terms' linear sum 2^q + eps and its square root, as the exponent r. -/
def rnormR (l32 : Bool) (xs : List Val) (eps : Val) : Val :=
  let s := (rowSum (xs.map (fun v => (vDouble v).lin l32))).toVal
  let q : Val := match s with
    | .fin n e => .fin n (e - log40 xs.length)
    | v => v
  vHalve (vAdd true q eps)

/-- One row: its outputs and its STAT value. -/
def rnormRow (l32 : Bool) (xs gs : List Val) (eps : Val) : List Val × Val :=
  if xs.any Val.isNan then (xs.map (fun _ => .nan false), .nan false)
  else
    let r := rnormR l32 xs eps
    (List.zipWith (fun x g => vMul (vDiv x r) g) xs gs, vDiv .one r)

/-! ### SF.SMAX (R148 to R153) -/

/-- value(x) * log2 e with 40 fraction bits, however large; none for -Inf. -/
def smaxA (v : Val) : Option Int :=
  match v with
  | .fin s e => some ((realOf s e).mul log2e).exp40
  | .zero => some 0
  | .inf false => some overflowExp
  | _ => none

/-- 2^a in linear with a 29-bit fraction, correctly rounded. -/
def exp29 (a : Int) : Dy := ⟨exp2Near (fmod a oct) 29, fdiv a oct - 29⟩

/-- The L32 overflow edge of Table 3-3 as an exponent. -/
abbrev l32Over : Int := (2147483646 - 1073741824) * step32 + 16777216
/-- The L32 underflow edge. -/
abbrev l32Under : Int := -1073741824 * step32 + 16777216

/-- 2^(a) for an exponent that may be -Inf. -/
def powVal : Option Int → Val
  | none => .zero | some a => .fin false a

/-- What one row of SF.SMAX gives: outputs and STAT, or the column that faulted (0xFFFF_FFFF for the row's Z). -/
inductive SmaxRow where
  | ok (p : List Val) (stat : Val)
  | faulted (col : Nat)
  deriving DecidableEq, Repr

/-- RANGE mode (R149, R150, R153). -/
def smaxRange (xs : List Val) : SmaxRow :=
  if xs.any Val.isNan then .ok (xs.map (fun _ => .nan false)) (.nan false)
  else
    let as := xs.map smaxA
    if as.all (·.isNone) then .ok (xs.map (fun _ => .zero)) (.inf true)
    else
      match firstIdx (fun a => match a with | some x => decide (l32Over ≤ x) | none => false) as 0 with
      | some c => .faulted c
      | none =>
        let e (a : Option Int) : Cls × Dy :=
          match a with | some x => (.fin, if x < -(4096 * oct) then .zero else exp29 x) | none => (.fin, .zero)
        match (rowSum (as.map e)).toVal with
        | .fin _ lz =>
          if l32Over ≤ lz ∨ lz < l32Under then .faulted 0xFFFFFFFF
          else .ok (as.map (fun a => powVal (a.map (· - lz)))) ((Dy.mk lz (-48)).mul ln2).toVal
        | _ => .faulted 0xFFFFFFFF

/-- (x - m) * log2 e with 40 fraction bits by Gaussian subtraction; none when the element contributes zero. -/
def onlineD (m x : Val) : Option Int := smaxA (vAdd false x (vNeg m))

/-- A lane pair times 2^d, each half rounded to 30 bits. -/
def scalePair (d : Int) (p : Pair) : Pair :=
  if p.cls = .fin then
    let k := realOf false d
    .range ((p.hi.mul k).roundTo 30) ((p.lo.mul k).roundTo 30)
  else p

/-- One chunk of up to 256 elements against the running maximum and lane sums. -/
def onlineChunk (st : Val × List Pair) (ch : List Val) : Val × List Pair :=
  let (m, s) := st
  let mc := ch.foldl vMax (.inf true)
  let (m', s') :=
    if m.lt mc then
      (mc, match m with
        | .inf true => s
        | _ => match onlineD mc m with
          | some d => s.map (scalePair (max d (-(4096 * oct))))
          | none => s)
    else (m, s)
  let add (p : Pair) (x : Val) : Pair :=
    match x with
    | .inf true => p
    | _ => match onlineD m' x with
      | some d => if d < -wLimit then p else pairAdd p (.ofDy (exp29 d))
      | none => p
  (m', (List.zipWith add s' ch) ++ s'.drop ch.length)

/-- Cut a row into chunks of 256. -/
def chunks256 : Nat → List Val → List (List Val)
  | 0, _ => []
  | k + 1, xs => if xs = [] then [] else xs.take 256 :: chunks256 k (xs.drop 256)

/-- ONLINE mode (R151, R153). -/
def smaxOnline (xs : List Val) : SmaxRow :=
  if xs.any Val.isNan then .ok (xs.map (fun _ => .nan false)) (.nan false)
  else if xs.any (fun v => v == .inf false) then .ok (xs.map (fun _ => .nan true)) (.nan true)
  else if xs.all (fun v => v == .inf true) then .ok (xs.map (fun _ => .zero)) (.inf true)
  else
    let lanes := min 256 xs.length
    let (m, s) := (chunks256 (xs.length / 256 + 1) xs).foldl onlineChunk (.inf true, List.replicate lanes .zero)
    let pad := s.map some ++ List.replicate (256 - lanes) none
    let total := ((treeRoot pairAdd 8 pad).getD .zero).toVal
    let ls := match total with | .fin _ e => e | _ => 0
    let mDy := match m with | .fin n e => realOf n e | _ => .zero
    .ok (xs.map (fun x => match x with | .inf true => .zero | _ => powVal ((onlineD m x).map (· - ls))))
      (mDy.add ((Dy.mk ls (-48)).mul ln2)).toVal

/-- FROMSTAT mode (R152, R153). -/
def smaxFromStat (lam : Val) (xs : List Val) : SmaxRow :=
  if xs.any Val.isNan || lam.isNan then .ok (xs.map (fun _ => .nan false)) lam
  else
    let p (x : Val) : Val :=
      match x, lam with
      | .inf true, _ => .zero
      | .inf false, .inf false => .nan true
      | .inf false, _ => .inf false
      | _, .inf false => .zero
      | _, .inf true => .inf false
      | x, l => .fin false ((smaxA x).getD 0 - (smaxA l).getD 0)
    .ok (xs.map p) lam

end Sys2Proof.Machine
end

