-- ==== Sys2Proof/Machine/Regs.lean ====
section
/-! DEFINITION. Every BAR0 register field of the spec's register tables: block, offset, entries and stride, bits,
    access
code and reset value. -/
namespace Sys2Proof.Machine

/-- The register blocks (chapter 0). -/
inductive Blk where
  | tcc | tsc | rb | vsu | sfu | kve | lep | tmu | tdm | tpc | hiu | cwp | hmc | tbu | flt | pcm | fen | frv
  deriving DecidableEq, Repr

/-- A block's number in a register key. -/
def Blk.num : Blk → Nat
  | .tcc => 0
  | .tsc => 1
  | .rb => 2
  | .vsu => 3
  | .sfu => 4
  | .kve => 5
  | .lep => 6
  | .tmu => 7
  | .tdm => 8
  | .tpc => 9
  | .hiu => 10
  | .cwp => 11
  | .hmc => 12
  | .tbu => 13
  | .flt => 14
  | .pcm => 15
  | .fen => 16
  | .frv => 17

/-- Access codes of Table 0-4 (RSV bits are those of no field). -/
inductive Acc where
  | ro | rw | w1c | wo
  deriving DecidableEq, Repr

/-- One register field. -/
structure Fld where
  blk : Blk
  off : Nat
  count : Nat
  stride : Nat
  lo : Nat
  w : Nat
  acc : Acc
  rst : Nat
  deriving DecidableEq, Repr

/-- RB.LPT_CRC: the CRC-32 over the 24 LPT words (Table 4-10). -/
def lptCrc : Nat := crc32 ((lpt8 ++ fineTable).flatMap (fun n => bytesOf n 0 4))

/-- TCC.STATUS.MAIN_STATE (R184). -/
def F.TCC_STATUS_MAIN_STATE : Fld := ⟨.tcc, 0x0, 1, 0, 0, 3, .ro, 0⟩
/-- TCC.STATUS.MSG_STATE (R184). -/
def F.TCC_STATUS_MSG_STATE : Fld := ⟨.tcc, 0x0, 1, 0, 3, 3, .ro, 0⟩
/-- TCC.STATUS.WALK_STATE (R184). -/
def F.TCC_STATUS_WALK_STATE : Fld := ⟨.tcc, 0x0, 1, 0, 6, 3, .ro, 0⟩
/-- TCC.STATUS.SVC_STATE (R184). -/
def F.TCC_STATUS_SVC_STATE : Fld := ⟨.tcc, 0x0, 1, 0, 9, 3, .ro, 0⟩
/-- TCC.STATUS.TRAP_ACTIVE (R184). -/
def F.TCC_STATUS_TRAP_ACTIVE : Fld := ⟨.tcc, 0x0, 1, 0, 12, 1, .ro, 0⟩
/-- TCC.STATUS.DOUBLE_FAULT (R184). -/
def F.TCC_STATUS_DOUBLE_FAULT : Fld := ⟨.tcc, 0x0, 1, 0, 13, 1, .ro, 0⟩
/-- TCC.STATUS.OPTRAPS (R184). -/
def F.TCC_STATUS_OPTRAPS : Fld := ⟨.tcc, 0x0, 1, 0, 16, 5, .ro, 0⟩
/-- TCC.CTL.ICINV (R184). -/
def F.TCC_CTL_ICINV : Fld := ⟨.tcc, 0x8, 1, 0, 0, 1, .wo, 0⟩
/-- TCC.CTL.DBG_STOP (R184). -/
def F.TCC_CTL_DBG_STOP : Fld := ⟨.tcc, 0x8, 1, 0, 1, 1, .rw, 0⟩
/-- TCC.PC.PC (R184). -/
def F.TCC_PC_PC : Fld := ⟨.tcc, 0x10, 4, 8, 0, 48, .ro, 0⟩
/-- TCC.SVC_VEC.VEC (R184). -/
def F.TCC_SVC_VEC_VEC : Fld := ⟨.tcc, 0x30, 1, 0, 0, 48, .rw, 0⟩
/-- TCC.TRAP_CAUSE.COPY (R184). -/
def F.TCC_TRAP_CAUSE_COPY : Fld := ⟨.tcc, 0x40, 1, 0, 0, 64, .ro, 0⟩
/-- TCC.TRAP_PC.COPY (R184). -/
def F.TCC_TRAP_PC_COPY : Fld := ⟨.tcc, 0x48, 1, 0, 0, 64, .ro, 0⟩
/-- TCC.TRAP_OP.COPY (R184). -/
def F.TCC_TRAP_OP_COPY : Fld := ⟨.tcc, 0x50, 1, 0, 0, 64, .ro, 0⟩
/-- TCC.TRAP_INFO.COPY (R184). -/
def F.TCC_TRAP_INFO_COPY : Fld := ⟨.tcc, 0x58, 1, 0, 0, 64, .ro, 0⟩
/-- TCC.CNT_ISSUE_S.COUNT (R184). -/
def F.TCC_CNT_ISSUE_S_COUNT : Fld := ⟨.tcc, 0x80, 1, 0, 0, 48, .rw, 0⟩
/-- TCC.CNT_ISSUE_T.COUNT (R184). -/
def F.TCC_CNT_ISSUE_T_COUNT : Fld := ⟨.tcc, 0x88, 1, 0, 0, 48, .rw, 0⟩
/-- TCC.CNT_STALL_TAG.COUNT (R184). -/
def F.TCC_CNT_STALL_TAG_COUNT : Fld := ⟨.tcc, 0x90, 1, 0, 0, 48, .rw, 0⟩
/-- TCC.CNT_TRAP.COUNT (R184). -/
def F.TCC_CNT_TRAP_COUNT : Fld := ⟨.tcc, 0x98, 1, 0, 0, 48, .rw, 0⟩
/-- TSC.INFLIGHT.COUNT (R205). -/
def F.TSC_INFLIGHT_COUNT : Fld := ⟨.tsc, 0x0, 1, 0, 0, 9, .ro, 0⟩
/-- TSC.INFLIGHT.WAITING (R205). -/
def F.TSC_INFLIGHT_WAITING : Fld := ⟨.tsc, 0x0, 1, 0, 16, 9, .ro, 0⟩
/-- TSC.INFLIGHT.NEXT_TAG (R205). -/
def F.TSC_INFLIGHT_NEXT_TAG : Fld := ⟨.tsc, 0x0, 1, 0, 32, 8, .ro, 0⟩
/-- TSC.INFLIGHT.HOLDS (R205). -/
def F.TSC_INFLIGHT_HOLDS : Fld := ⟨.tsc, 0x0, 1, 0, 40, 5, .ro, 0⟩
/-- TSC.CTL.SERIAL (R205). -/
def F.TSC_CTL_SERIAL : Fld := ⟨.tsc, 0x8, 1, 0, 0, 1, .rw, 0⟩
/-- TSC.TOKENS.SIGNALLED (R205). -/
def F.TSC_TOKENS_SIGNALLED : Fld := ⟨.tsc, 0x10, 1, 0, 1, 31, .ro, 0⟩
/-- TSC.TOKENS.ARMED (R205). -/
def F.TSC_TOKENS_ARMED : Fld := ⟨.tsc, 0x10, 1, 0, 33, 31, .ro, 0⟩
/-- TSC.TAGMAP.ALLOC (R205). -/
def F.TSC_TAGMAP_ALLOC : Fld := ⟨.tsc, 0x20, 4, 8, 0, 64, .ro, 0⟩
/-- TSC.PROG_SEL.TAG (R205). -/
def F.TSC_PROG_SEL_TAG : Fld := ⟨.tsc, 0x40, 1, 0, 0, 8, .rw, 0⟩
/-- TSC.PROG_POS.POSITION (R205). -/
def F.TSC_PROG_POS_POSITION : Fld := ⟨.tsc, 0x48, 1, 0, 0, 48, .ro, 0⟩
/-- TSC.PROG_POS.PERMILLE (R205). -/
def F.TSC_PROG_POS_PERMILLE : Fld := ⟨.tsc, 0x48, 1, 0, 48, 10, .ro, 0⟩
/-- TSC.PROG_TOTAL.TOTAL (R205). -/
def F.TSC_PROG_TOTAL_TOTAL : Fld := ⟨.tsc, 0x50, 1, 0, 0, 48, .ro, 0⟩
/-- TSC.PROG_INFO.STATE (R205). -/
def F.TSC_PROG_INFO_STATE : Fld := ⟨.tsc, 0x58, 1, 0, 0, 3, .ro, 0⟩
/-- TSC.PROG_INFO.CLASS (R205). -/
def F.TSC_PROG_INFO_CLASS : Fld := ⟨.tsc, 0x58, 1, 0, 3, 3, .ro, 0⟩
/-- TSC.PROG_INFO.OP (R205). -/
def F.TSC_PROG_INFO_OP : Fld := ⟨.tsc, 0x58, 1, 0, 6, 5, .ro, 0⟩
/-- TSC.PROG_INFO.SEQ (R205). -/
def F.TSC_PROG_INFO_SEQ : Fld := ⟨.tsc, 0x58, 1, 0, 16, 32, .ro, 0⟩
/-- TSC.CNT_ISSUE.COUNT (R205). -/
def F.TSC_CNT_ISSUE_COUNT : Fld := ⟨.tsc, 0x80, 1, 0, 0, 48, .rw, 0⟩
/-- TSC.CNT_RETIRE.COUNT (R205). -/
def F.TSC_CNT_RETIRE_COUNT : Fld := ⟨.tsc, 0x88, 1, 0, 0, 48, .rw, 0⟩
/-- TSC.CNT_HAZARD.COUNT (R205). -/
def F.TSC_CNT_HAZARD_COUNT : Fld := ⟨.tsc, 0x90, 1, 0, 0, 48, .rw, 0⟩
/-- TSC.CNT_WAKE.COUNT (R205). -/
def F.TSC_CNT_WAKE_COUNT : Fld := ⟨.tsc, 0x98, 1, 0, 0, 48, .rw, 0⟩
/-- RB.STATUS.BUSY (R106). -/
def F.RB_STATUS_BUSY : Fld := ⟨.rb, 0x0, 1, 0, 0, 1, .ro, 0⟩
/-- RB.STATUS.BANKA_STATE (R106). -/
def F.RB_STATUS_BANKA_STATE : Fld := ⟨.rb, 0x0, 1, 0, 1, 2, .ro, 0⟩
/-- RB.STATUS.BANKB_STATE (R106). -/
def F.RB_STATUS_BANKB_STATE : Fld := ⟨.rb, 0x0, 1, 0, 3, 2, .ro, 0⟩
/-- RB.STATUS.BANKA_MODE (R106). -/
def F.RB_STATUS_BANKA_MODE : Fld := ⟨.rb, 0x0, 1, 0, 5, 1, .ro, 0⟩
/-- RB.STATUS.BANKB_MODE (R106). -/
def F.RB_STATUS_BANKB_MODE : Fld := ⟨.rb, 0x0, 1, 0, 6, 1, .ro, 0⟩
/-- RB.STATUS.BIASA_VALID (R106). -/
def F.RB_STATUS_BIASA_VALID : Fld := ⟨.rb, 0x0, 1, 0, 7, 1, .ro, 0⟩
/-- RB.STATUS.BIASB_VALID (R106). -/
def F.RB_STATUS_BIASB_VALID : Fld := ⟨.rb, 0x0, 1, 0, 8, 1, .ro, 0⟩
/-- RB.STATUS.PANEL_VALID (R106). -/
def F.RB_STATUS_PANEL_VALID : Fld := ⟨.rb, 0x0, 1, 0, 9, 1, .ro, 0⟩
/-- RB.STATUS.SHADOW_FULL (R106). -/
def F.RB_STATUS_SHADOW_FULL : Fld := ⟨.rb, 0x0, 1, 0, 10, 1, .ro, 0⟩
/-- RB.STATUS.LANDED (R106). -/
def F.RB_STATUS_LANDED : Fld := ⟨.rb, 0x0, 1, 0, 11, 2, .ro, 0⟩
/-- RB.STATUS.QUEUED (R106). -/
def F.RB_STATUS_QUEUED : Fld := ⟨.rb, 0x0, 1, 0, 16, 9, .ro, 0⟩
/-- RB.CTL.LX_TRAP (R106). -/
def F.RB_CTL_LX_TRAP : Fld := ⟨.rb, 0x8, 1, 0, 0, 1, .rw, 0⟩
/-- RB.LX_STATUS.VALID (R106). -/
def F.RB_LX_STATUS_VALID : Fld := ⟨.rb, 0x10, 1, 0, 0, 1, .w1c, 0⟩
/-- RB.LX_STATUS.COUNT (R106). -/
def F.RB_LX_STATUS_COUNT : Fld := ⟨.rb, 0x10, 1, 0, 16, 32, .ro, 0⟩
/-- RB.LX_OP.TAG (R106). -/
def F.RB_LX_OP_TAG : Fld := ⟨.rb, 0x18, 1, 0, 0, 8, .ro, 0⟩
/-- RB.LX_OP.DESC (R106). -/
def F.RB_LX_OP_DESC : Fld := ⟨.rb, 0x18, 1, 0, 8, 5, .ro, 0⟩
/-- RB.LX_OP.IADDR (R106). -/
def F.RB_LX_OP_IADDR : Fld := ⟨.rb, 0x18, 1, 0, 16, 48, .ro, 0⟩
/-- RB.LX_COORD.ROW (R106). -/
def F.RB_LX_COORD_ROW : Fld := ⟨.rb, 0x20, 1, 0, 0, 32, .ro, 0⟩
/-- RB.LX_COORD.COL (R106). -/
def F.RB_LX_COORD_COL : Fld := ⟨.rb, 0x20, 1, 0, 32, 32, .ro, 0⟩
/-- RB.CNT_PASS.COUNT (R106). -/
def F.RB_CNT_PASS_COUNT : Fld := ⟨.rb, 0x40, 1, 0, 0, 48, .rw, 0⟩
/-- RB.CNT_ROW.COUNT (R106). -/
def F.RB_CNT_ROW_COUNT : Fld := ⟨.rb, 0x48, 1, 0, 0, 48, .rw, 0⟩
/-- RB.CNT_STALL_PANEL.COUNT (R106). -/
def F.RB_CNT_STALL_PANEL_COUNT : Fld := ⟨.rb, 0x50, 1, 0, 0, 48, .rw, 0⟩
/-- RB.CNT_STALL_DRAIN.COUNT (R106). -/
def F.RB_CNT_STALL_DRAIN_COUNT : Fld := ⟨.rb, 0x58, 1, 0, 0, 48, .rw, 0⟩
/-- RB.CNT_ACC_OVF.COUNT (R106). -/
def F.RB_CNT_ACC_OVF_COUNT : Fld := ⟨.rb, 0x60, 1, 0, 0, 48, .rw, 0⟩
/-- RB.LPT_CRC.CRC (R106). -/
def F.RB_LPT_CRC_CRC : Fld := ⟨.rb, 0x80, 1, 0, 0, 32, .ro, lptCrc⟩
/-- VSU.ARITH_CTL.NAN_MODE (R80). -/
def F.VSU_ARITH_CTL_NAN_MODE : Fld := ⟨.vsu, 0x0, 1, 0, 0, 2, .rw, 0⟩
/-- VSU.ARITH_CTL.NAN_CAPTURE (R80). -/
def F.VSU_ARITH_CTL_NAN_CAPTURE : Fld := ⟨.vsu, 0x0, 1, 0, 2, 1, .rw, 0⟩
/-- VSU.NAN_STATUS.VALID (R80). -/
def F.VSU_NAN_STATUS_VALID : Fld := ⟨.vsu, 0x8, 1, 0, 0, 1, .w1c, 0⟩
/-- VSU.NAN_STATUS.HALTED (R80). -/
def F.VSU_NAN_STATUS_HALTED : Fld := ⟨.vsu, 0x8, 1, 0, 1, 1, .ro, 0⟩
/-- VSU.NAN_STATUS.FEN_STOP (R80). -/
def F.VSU_NAN_STATUS_FEN_STOP : Fld := ⟨.vsu, 0x8, 1, 0, 2, 1, .ro, 0⟩
/-- VSU.NAN_STATUS.CLASS (R80). -/
def F.VSU_NAN_STATUS_CLASS : Fld := ⟨.vsu, 0x8, 1, 0, 3, 1, .ro, 0⟩
/-- VSU.NAN_STATUS.UNIT (R80). -/
def F.VSU_NAN_STATUS_UNIT : Fld := ⟨.vsu, 0x8, 1, 0, 4, 4, .ro, 0⟩
/-- VSU.NAN_STATUS.NAN_COUNT (R80). -/
def F.VSU_NAN_STATUS_NAN_COUNT : Fld := ⟨.vsu, 0x8, 1, 0, 16, 32, .ro, 0⟩
/-- VSU.NAN_OP.TAG (R80). -/
def F.VSU_NAN_OP_TAG : Fld := ⟨.vsu, 0x10, 1, 0, 0, 8, .ro, 0⟩
/-- VSU.NAN_OP.DESC (R80). -/
def F.VSU_NAN_OP_DESC : Fld := ⟨.vsu, 0x10, 1, 0, 8, 5, .ro, 0⟩
/-- VSU.NAN_OP.IADDR (R80). -/
def F.VSU_NAN_OP_IADDR : Fld := ⟨.vsu, 0x10, 1, 0, 16, 48, .ro, 0⟩
/-- VSU.NAN_COORD01.C0 (R80). -/
def F.VSU_NAN_COORD01_C0 : Fld := ⟨.vsu, 0x18, 1, 0, 0, 32, .ro, 0⟩
/-- VSU.NAN_COORD01.C1 (R80). -/
def F.VSU_NAN_COORD01_C1 : Fld := ⟨.vsu, 0x18, 1, 0, 32, 32, .ro, 0⟩
/-- VSU.NAN_COORD23.C2 (R80). -/
def F.VSU_NAN_COORD23_C2 : Fld := ⟨.vsu, 0x20, 1, 0, 0, 32, .ro, 0⟩
/-- VSU.NAN_COORD23.C3 (R80). -/
def F.VSU_NAN_COORD23_C3 : Fld := ⟨.vsu, 0x20, 1, 0, 32, 32, .ro, 0⟩
/-- VSU.NAN_TIME.TIME_NS (R80). -/
def F.VSU_NAN_TIME_TIME_NS : Fld := ⟨.vsu, 0x28, 1, 0, 0, 64, .ro, 0⟩
/-- VSU.NAN_RESUME.GO (R80). -/
def F.VSU_NAN_RESUME_GO : Fld := ⟨.vsu, 0x30, 1, 0, 0, 1, .wo, 0⟩
/-- VSU.CNT_UNDERFLOW.COUNT (R80). -/
def F.VSU_CNT_UNDERFLOW_COUNT : Fld := ⟨.vsu, 0x40, 1, 0, 0, 48, .rw, 0⟩
/-- VSU.CNT_SAT.COUNT (R80). -/
def F.VSU_CNT_SAT_COUNT : Fld := ⟨.vsu, 0x48, 1, 0, 0, 48, .rw, 0⟩
/-- VSU.CNT_INF.COUNT (R80). -/
def F.VSU_CNT_INF_COUNT : Fld := ⟨.vsu, 0x50, 1, 0, 0, 48, .rw, 0⟩
/-- VSU.CNT_ZERO_BLOCK.COUNT (R80). -/
def F.VSU_CNT_ZERO_BLOCK_COUNT : Fld := ⟨.vsu, 0x58, 1, 0, 0, 48, .rw, 0⟩
/-- VSU.CNT_NAN_BLOCK.COUNT (R80). -/
def F.VSU_CNT_NAN_BLOCK_COUNT : Fld := ⟨.vsu, 0x60, 1, 0, 0, 48, .rw, 0⟩
/-- VSU.SSTAT_BASE.EN (R325). -/
def F.VSU_SSTAT_BASE_EN : Fld := ⟨.vsu, 0x80, 1, 0, 0, 1, .rw, 0⟩
/-- VSU.SSTAT_BASE.PA (R325). -/
def F.VSU_SSTAT_BASE_PA : Fld := ⟨.vsu, 0x80, 1, 0, 12, 40, .rw, 0⟩
/-- SFU.STATUS.BUSY (R154). -/
def F.SFU_STATUS_BUSY : Fld := ⟨.sfu, 0x0, 1, 0, 0, 1, .ro, 0⟩
/-- SFU.STATUS.QUEUED (R154). -/
def F.SFU_STATUS_QUEUED : Fld := ⟨.sfu, 0x0, 1, 0, 1, 9, .ro, 0⟩
/-- SFU.RANGE_STATUS.VALID (R154). -/
def F.SFU_RANGE_STATUS_VALID : Fld := ⟨.sfu, 0x8, 1, 0, 0, 1, .w1c, 0⟩
/-- SFU.RANGE_STATUS.COUNT (R154). -/
def F.SFU_RANGE_STATUS_COUNT : Fld := ⟨.sfu, 0x8, 1, 0, 16, 32, .ro, 0⟩
/-- SFU.RANGE_OP.TAG (R154). -/
def F.SFU_RANGE_OP_TAG : Fld := ⟨.sfu, 0x10, 1, 0, 0, 8, .ro, 0⟩
/-- SFU.RANGE_OP.DESC (R154). -/
def F.SFU_RANGE_OP_DESC : Fld := ⟨.sfu, 0x10, 1, 0, 8, 5, .ro, 0⟩
/-- SFU.RANGE_OP.IADDR (R154). -/
def F.SFU_RANGE_OP_IADDR : Fld := ⟨.sfu, 0x10, 1, 0, 16, 48, .ro, 0⟩
/-- SFU.RANGE_POS.ROW (R154). -/
def F.SFU_RANGE_POS_ROW : Fld := ⟨.sfu, 0x18, 1, 0, 0, 32, .ro, 0⟩
/-- SFU.RANGE_POS.COL (R154). -/
def F.SFU_RANGE_POS_COL : Fld := ⟨.sfu, 0x18, 1, 0, 32, 32, .ro, 0⟩
/-- SFU.SLOT_STATE.STATE (R154). -/
def F.SFU_SLOT_STATE_STATE : Fld := ⟨.sfu, 0x40, 8, 8, 0, 2, .ro, 0⟩
/-- SFU.SLOT_STATE.OWNER (R154). -/
def F.SFU_SLOT_STATE_OWNER : Fld := ⟨.sfu, 0x40, 8, 8, 8, 5, .ro, 0⟩
/-- SFU.SLOT_STATE.EPOCH (R154). -/
def F.SFU_SLOT_STATE_EPOCH : Fld := ⟨.sfu, 0x40, 8, 8, 16, 16, .ro, 0⟩
/-- SFU.SLOT_INFO.TABLE_ID (R154). -/
def F.SFU_SLOT_INFO_TABLE_ID : Fld := ⟨.sfu, 0x80, 8, 8, 0, 32, .ro, 0⟩
/-- SFU.SLOT_INFO.CRC (R154). -/
def F.SFU_SLOT_INFO_CRC : Fld := ⟨.sfu, 0x80, 8, 8, 32, 32, .ro, 0⟩
/-- SFU.PROG_VALID.VALID (R154). -/
def F.SFU_PROG_VALID_VALID : Fld := ⟨.sfu, 0xc0, 1, 0, 0, 64, .ro, 0⟩
/-- SFU.ROM_CRC.BUILTIN (R154). -/
def F.SFU_ROM_CRC_BUILTIN : Fld := ⟨.sfu, 0xc8, 1, 0, 0, 32, .ro, (Config.romCrcBuiltin % 4294967296)⟩
/-- SFU.ROM_CRC.COMPAT (R154). -/
def F.SFU_ROM_CRC_COMPAT : Fld := ⟨.sfu, 0xc8, 1, 0, 32, 32, .ro, 0⟩
/-- SFU.CNT_RESULT.COUNT (R154). -/
def F.SFU_CNT_RESULT_COUNT : Fld := ⟨.sfu, 0x100, 1, 0, 0, 48, .rw, 0⟩
/-- SFU.CNT_RANGE.COUNT (R154). -/
def F.SFU_CNT_RANGE_COUNT : Fld := ⟨.sfu, 0x108, 1, 0, 0, 48, .rw, 0⟩
/-- KVE.STATUS.BUSY (R302). -/
def F.KVE_STATUS_BUSY : Fld := ⟨.kve, 0x0, 1, 0, 0, 1, .ro, 0⟩
/-- KVE.STATUS.QUEUED (R302). -/
def F.KVE_STATUS_QUEUED : Fld := ⟨.kve, 0x0, 1, 0, 1, 9, .ro, 0⟩
/-- KVE.STATUS.WALKING (R302). -/
def F.KVE_STATUS_WALKING : Fld := ⟨.kve, 0x0, 1, 0, 10, 1, .ro, 0⟩
/-- KVE.STATUS.DQ_COUNT (R302). -/
def F.KVE_STATUS_DQ_COUNT : Fld := ⟨.kve, 0x0, 1, 0, 11, 6, .ro, 0⟩
/-- KVE.STAB_BASE.PA (R302). -/
def F.KVE_STAB_BASE_PA : Fld := ⟨.kve, 0x8, 1, 0, 0, 52, .rw, 0⟩
/-- KVE.POOL_BASE.PA (R302). -/
def F.KVE_POOL_BASE_PA : Fld := ⟨.kve, 0x10, 2, 24, 0, 52, .rw, 0⟩
/-- KVE.POOL_CFG.FSTRIDE (R302). -/
def F.KVE_POOL_CFG_FSTRIDE : Fld := ⟨.kve, 0x18, 2, 24, 0, 24, .rw, 0⟩
/-- KVE.POOL_CFG.COUNT (R302). -/
def F.KVE_POOL_CFG_COUNT : Fld := ⟨.kve, 0x18, 2, 24, 24, 24, .rw, 0⟩
/-- KVE.PRT_BASE.PA (R302). -/
def F.KVE_PRT_BASE_PA : Fld := ⟨.kve, 0x20, 2, 24, 0, 52, .rw, 0⟩
/-- KVE.SCRATCH.VA (R302). -/
def F.KVE_SCRATCH_VA : Fld := ⟨.kve, 0x40, 1, 0, 0, 48, .rw, 0⟩
/-- KVE.SCRATCH_LEN.BYTES (R302). -/
def F.KVE_SCRATCH_LEN_BYTES : Fld := ⟨.kve, 0x48, 1, 0, 0, 32, .rw, 0⟩
/-- KVE.FREE_BASE.PA (R302). -/
def F.KVE_FREE_BASE_PA : Fld := ⟨.kve, 0x50, 1, 0, 0, 52, .rw, 0⟩
/-- KVE.FREE_CFG.ENTRIES (R302). -/
def F.KVE_FREE_CFG_ENTRIES : Fld := ⟨.kve, 0x58, 1, 0, 0, 25, .rw, 0⟩
/-- KVE.FREE_PROD.PROD (R302). -/
def F.KVE_FREE_PROD_PROD : Fld := ⟨.kve, 0x60, 1, 0, 0, 32, .ro, 0⟩
/-- KVE.FREE_CONS.CONS (R302). -/
def F.KVE_FREE_CONS_CONS : Fld := ⟨.kve, 0x68, 1, 0, 0, 32, .rw, 0⟩
/-- KVE.ERR.VALID (R302). -/
def F.KVE_ERR_VALID : Fld := ⟨.kve, 0x70, 1, 0, 0, 1, .w1c, 0⟩
/-- KVE.ERR.CAUSE (R302). -/
def F.KVE_ERR_CAUSE : Fld := ⟨.kve, 0x70, 1, 0, 1, 4, .ro, 0⟩
/-- KVE.ERR.TAG (R302). -/
def F.KVE_ERR_TAG : Fld := ⟨.kve, 0x70, 1, 0, 8, 8, .ro, 0⟩
/-- KVE.ERR.SEQ (R302). -/
def F.KVE_ERR_SEQ : Fld := ⟨.kve, 0x70, 1, 0, 16, 16, .ro, 0⟩
/-- KVE.ERR.COUNT (R302). -/
def F.KVE_ERR_COUNT : Fld := ⟨.kve, 0x70, 1, 0, 32, 32, .ro, 0⟩
/-- KVE.ERR_INFO.INFO (R302). -/
def F.KVE_ERR_INFO_INFO : Fld := ⟨.kve, 0x78, 1, 0, 0, 48, .ro, 0⟩
/-- KVE.CNT_KEYS.COUNT (R302). -/
def F.KVE_CNT_KEYS_COUNT : Fld := ⟨.kve, 0x80, 1, 0, 0, 48, .rw, 0⟩
/-- KVE.CNT_APPEND.COUNT (R302). -/
def F.KVE_CNT_APPEND_COUNT : Fld := ⟨.kve, 0x88, 1, 0, 0, 48, .rw, 0⟩
/-- KVE.CNT_COW.COUNT (R302). -/
def F.KVE_CNT_COW_COUNT : Fld := ⟨.kve, 0x90, 1, 0, 0, 48, .rw, 0⟩
/-- KVE.CNT_DESC.COUNT (R302). -/
def F.KVE_CNT_DESC_COUNT : Fld := ⟨.kve, 0x98, 1, 0, 0, 48, .rw, 0⟩
/-- KVE.CNT_FREE_STALL.COUNT (R302). -/
def F.KVE_CNT_FREE_STALL_COUNT : Fld := ⟨.kve, 0xa0, 1, 0, 0, 48, .rw, 0⟩
/-- LEP.STATUS.MSG_BUSY (R269). -/
def F.LEP_STATUS_MSG_BUSY : Fld := ⟨.lep, 0x0, 1, 0, 0, 1, .ro, 0⟩
/-- LEP.STATUS.MSGQ (R269). -/
def F.LEP_STATUS_MSGQ : Fld := ⟨.lep, 0x0, 1, 0, 8, 8, .ro, 0⟩
/-- LEP.STATUS.SBUF_FREE (R269). -/
def F.LEP_STATUS_SBUF_FREE : Fld := ⟨.lep, 0x0, 1, 0, 16, 11, .ro, 1024⟩
/-- LEP.CTL.DSTOP (R269). -/
def F.LEP_CTL_DSTOP : Fld := ⟨.lep, 0x8, 1, 0, 0, 1, .rw, 0⟩
/-- LEP.QREC_STATUS.VALID (R269). -/
def F.LEP_QREC_STATUS_VALID : Fld := ⟨.lep, 0x10, 1, 0, 0, 1, .w1c, 0⟩
/-- LEP.QREC_STATUS.CAUSE (R269). -/
def F.LEP_QREC_STATUS_CAUSE : Fld := ⟨.lep, 0x10, 1, 0, 1, 4, .ro, 0⟩
/-- LEP.QREC_STATUS.QUEUE (R269). -/
def F.LEP_QREC_STATUS_QUEUE : Fld := ⟨.lep, 0x10, 1, 0, 8, 8, .ro, 0⟩
/-- LEP.QREC_STATUS.COUNT (R269). -/
def F.LEP_QREC_STATUS_COUNT : Fld := ⟨.lep, 0x10, 1, 0, 16, 32, .ro, 0⟩
/-- LEP.QREC_HDR.SRC (R269). -/
def F.LEP_QREC_HDR_SRC : Fld := ⟨.lep, 0x18, 1, 0, 0, 32, .ro, 0⟩
/-- LEP.QREC_HDR.SEQ (R269). -/
def F.LEP_QREC_HDR_SEQ : Fld := ⟨.lep, 0x18, 1, 0, 32, 32, .ro, 0⟩
/-- LEP.CNT_SENT.COUNT (R269). -/
def F.LEP_CNT_SENT_COUNT : Fld := ⟨.lep, 0x40, 1, 0, 0, 48, .rw, 0⟩
/-- LEP.CNT_RECV.COUNT (R269). -/
def F.LEP_CNT_RECV_COUNT : Fld := ⟨.lep, 0x48, 1, 0, 0, 48, .rw, 0⟩
/-- LEP.CNT_NOCREDIT.COUNT (R269). -/
def F.LEP_CNT_NOCREDIT_COUNT : Fld := ⟨.lep, 0x50, 1, 0, 0, 48, .rw, 0⟩
/-- LEP.CNT_QUAG.COUNT (R269). -/
def F.LEP_CNT_QUAG_COUNT : Fld := ⟨.lep, 0x58, 1, 0, 0, 48, .rw, 0⟩
/-- LEP.CNT_UNHANDLED.COUNT (R269). -/
def F.LEP_CNT_UNHANDLED_COUNT : Fld := ⟨.lep, 0x60, 1, 0, 0, 48, .rw, 0⟩
/-- LEP.CHAN_CFG.EN (R269). -/
def F.LEP_CHAN_CFG_EN : Fld := ⟨.lep, 0x1000, 512, 16, 0, 1, .rw, 0⟩
/-- LEP.CHAN_CFG.LOCAL (R269). -/
def F.LEP_CHAN_CFG_LOCAL : Fld := ⟨.lep, 0x1000, 512, 16, 1, 1, .rw, 0⟩
/-- LEP.CHAN_CFG.RESP (R269). -/
def F.LEP_CHAN_CFG_RESP : Fld := ⟨.lep, 0x1000, 512, 16, 2, 1, .rw, 0⟩
/-- LEP.CHAN_CFG.QUEUE (R269). -/
def F.LEP_CHAN_CFG_QUEUE : Fld := ⟨.lep, 0x1000, 512, 16, 8, 8, .rw, 0⟩
/-- LEP.CHAN_CFG.TILE (R269). -/
def F.LEP_CHAN_CFG_TILE : Fld := ⟨.lep, 0x1000, 512, 16, 16, 3, .rw, 0⟩
/-- LEP.CHAN_CFG.FRANK (R269). -/
def F.LEP_CHAN_CFG_FRANK : Fld := ⟨.lep, 0x1000, 512, 16, 19, 6, .rw, 0⟩
/-- LEP.CHAN_CFG.RANK (R269). -/
def F.LEP_CHAN_CFG_RANK : Fld := ⟨.lep, 0x1000, 512, 16, 32, 8, .rw, 0⟩
/-- LEP.CHAN_CFG.RESPQ (R269). -/
def F.LEP_CHAN_CFG_RESPQ : Fld := ⟨.lep, 0x1000, 512, 16, 40, 8, .rw, 0⟩
/-- LEP.CHAN_CFG.MAXLEN (R269). -/
def F.LEP_CHAN_CFG_MAXLEN : Fld := ⟨.lep, 0x1000, 512, 16, 48, 13, .rw, 0⟩
/-- LEP.CHAN_CRED.ALLOT (R269). -/
def F.LEP_CHAN_CRED_ALLOT : Fld := ⟨.lep, 0x1008, 512, 16, 0, 16, .rw, 0⟩
/-- LEP.CHAN_CRED.AVAIL (R269). -/
def F.LEP_CHAN_CRED_AVAIL : Fld := ⟨.lep, 0x1008, 512, 16, 16, 16, .ro, 0⟩
/-- LEP.CHAN_CRED.STATE (R269). -/
def F.LEP_CHAN_CRED_STATE : Fld := ⟨.lep, 0x1008, 512, 16, 32, 3, .ro, 0⟩
/-- LEP.CHAN_CRED.CAUSE (R269). -/
def F.LEP_CHAN_CRED_CAUSE : Fld := ⟨.lep, 0x1008, 512, 16, 35, 2, .ro, 0⟩
/-- LEP.CHAN_CRED.EPOCH (R269). -/
def F.LEP_CHAN_CRED_EPOCH : Fld := ⟨.lep, 0x1008, 512, 16, 48, 16, .ro, 0⟩
/-- LEP.Q_BASE.VA (R269). -/
def F.LEP_Q_BASE_VA : Fld := ⟨.lep, 0x3000, 256, 32, 0, 48, .rw, 0⟩
/-- LEP.Q_CFG.EN (R269). -/
def F.LEP_Q_CFG_EN : Fld := ⟨.lep, 0x3008, 256, 32, 0, 1, .rw, 0⟩
/-- LEP.Q_CFG.MODE (R269). -/
def F.LEP_Q_CFG_MODE : Fld := ⟨.lep, 0x3008, 256, 32, 1, 1, .rw, 0⟩
/-- LEP.Q_CFG.RESP (R269). -/
def F.LEP_Q_CFG_RESP : Fld := ⟨.lep, 0x3008, 256, 32, 2, 1, .rw, 0⟩
/-- LEP.Q_CFG.MERGE (R269). -/
def F.LEP_Q_CFG_MERGE : Fld := ⟨.lep, 0x3008, 256, 32, 3, 1, .rw, 0⟩
/-- LEP.Q_CFG.ORDERED (R269). -/
def F.LEP_Q_CFG_ORDERED : Fld := ⟨.lep, 0x3008, 256, 32, 4, 1, .rw, 0⟩
/-- LEP.Q_CFG.RANK (R269). -/
def F.LEP_Q_CFG_RANK : Fld := ⟨.lep, 0x3008, 256, 32, 8, 8, .rw, 0⟩
/-- LEP.Q_CFG.SLOTS (R269). -/
def F.LEP_Q_CFG_SLOTS : Fld := ⟨.lep, 0x3008, 256, 32, 16, 13, .rw, 0⟩
/-- LEP.Q_CFG.CAP (R269). -/
def F.LEP_Q_CFG_CAP : Fld := ⟨.lep, 0x3008, 256, 32, 29, 3, .rw, 0⟩
/-- LEP.Q_STATUS.STATE (R269). -/
def F.LEP_Q_STATUS_STATE : Fld := ⟨.lep, 0x3010, 256, 32, 0, 2, .ro, 0⟩
/-- LEP.Q_STATUS.COUNT (R269). -/
def F.LEP_Q_STATUS_COUNT : Fld := ⟨.lep, 0x3010, 256, 32, 16, 13, .ro, 0⟩
/-- LEP.Q_STATUS.ALLOTTED (R269). -/
def F.LEP_Q_STATUS_ALLOTTED : Fld := ⟨.lep, 0x3010, 256, 32, 32, 13, .ro, 0⟩
/-- LEP.Q_STATUS.EPOCH (R269). -/
def F.LEP_Q_STATUS_EPOCH : Fld := ⟨.lep, 0x3010, 256, 32, 48, 16, .ro, 0⟩
/-- LEP.Q_USE.FREE (R269). -/
def F.LEP_Q_USE_FREE : Fld := ⟨.lep, 0x3018, 256, 32, 0, 13, .ro, 0⟩
/-- LEP.Q_USE.HELD (R269). -/
def F.LEP_Q_USE_HELD : Fld := ⟨.lep, 0x3018, 256, 32, 16, 13, .ro, 0⟩
/-- LEP.Q_USE.RESERVED (R269). -/
def F.LEP_Q_USE_RESERVED : Fld := ⟨.lep, 0x3018, 256, 32, 32, 13, .ro, 0⟩
/-- LEP.GRP_CFG.EN (R269). -/
def F.LEP_GRP_CFG_EN : Fld := ⟨.lep, 0x5000, 32, 16, 0, 1, .rw, 0⟩
/-- LEP.GRP_CFG.COUNT (R269). -/
def F.LEP_GRP_CFG_COUNT : Fld := ⟨.lep, 0x5000, 32, 16, 1, 7, .rw, 0⟩
/-- LEP.GRP_CFG.RANK (R269). -/
def F.LEP_GRP_CFG_RANK : Fld := ⟨.lep, 0x5000, 32, 16, 8, 8, .rw, 0⟩
/-- LEP.GRP_CFG.MAXLEN (R269). -/
def F.LEP_GRP_CFG_MAXLEN : Fld := ⟨.lep, 0x5000, 32, 16, 16, 13, .rw, 0⟩
/-- LEP.GRP_CFG.ALLOT (R269). -/
def F.LEP_GRP_CFG_ALLOT : Fld := ⟨.lep, 0x5000, 32, 16, 32, 16, .rw, 0⟩
/-- LEP.GRP_STATE.AVAIL (R269). -/
def F.LEP_GRP_STATE_AVAIL : Fld := ⟨.lep, 0x5008, 32, 16, 0, 16, .ro, 0⟩
/-- LEP.GRP_STATE.STATE (R269). -/
def F.LEP_GRP_STATE_STATE : Fld := ⟨.lep, 0x5008, 32, 16, 16, 3, .ro, 0⟩
/-- LEP.GRP_STATE.CAUSE (R269). -/
def F.LEP_GRP_STATE_CAUSE : Fld := ⟨.lep, 0x5008, 32, 16, 19, 2, .ro, 0⟩
/-- LEP.MEMBER.QUEUE0 (R269). -/
def F.LEP_MEMBER_QUEUE0 : Fld := ⟨.lep, 0x6000, 1024, 8, 0, 8, .rw, 0⟩
/-- LEP.MEMBER.TILE0 (R269). -/
def F.LEP_MEMBER_TILE0 : Fld := ⟨.lep, 0x6000, 1024, 8, 8, 3, .rw, 0⟩
/-- LEP.MEMBER.FRANK0 (R269). -/
def F.LEP_MEMBER_FRANK0 : Fld := ⟨.lep, 0x6000, 1024, 8, 11, 6, .rw, 0⟩
/-- LEP.MEMBER.LOCAL0 (R269). -/
def F.LEP_MEMBER_LOCAL0 : Fld := ⟨.lep, 0x6000, 1024, 8, 17, 1, .rw, 0⟩
/-- LEP.MEMBER.QUEUE1 (R269). -/
def F.LEP_MEMBER_QUEUE1 : Fld := ⟨.lep, 0x6000, 1024, 8, 32, 8, .rw, 0⟩
/-- LEP.MEMBER.TILE1 (R269). -/
def F.LEP_MEMBER_TILE1 : Fld := ⟨.lep, 0x6000, 1024, 8, 40, 3, .rw, 0⟩
/-- LEP.MEMBER.FRANK1 (R269). -/
def F.LEP_MEMBER_FRANK1 : Fld := ⟨.lep, 0x6000, 1024, 8, 43, 6, .rw, 0⟩
/-- LEP.MEMBER.LOCAL1 (R269). -/
def F.LEP_MEMBER_LOCAL1 : Fld := ⟨.lep, 0x6000, 1024, 8, 49, 1, .rw, 0⟩
/-- LEP.HT.VALID (R269). -/
def F.LEP_HT_VALID : Fld := ⟨.lep, 0x8000, 1024, 8, 0, 1, .rw, 0⟩
/-- LEP.HT.ENTRY (R269). -/
def F.LEP_HT_ENTRY : Fld := ⟨.lep, 0x8000, 1024, 8, 2, 46, .rw, 0⟩
/-- LEP.MSRC.VALID0 (R269). -/
def F.LEP_MSRC_VALID0 : Fld := ⟨.lep, 0xa000, 512, 8, 0, 1, .rw, 0⟩
/-- LEP.MSRC.TILE0 (R269). -/
def F.LEP_MSRC_TILE0 : Fld := ⟨.lep, 0xa000, 512, 8, 1, 3, .rw, 0⟩
/-- LEP.MSRC.FRANK0 (R269). -/
def F.LEP_MSRC_FRANK0 : Fld := ⟨.lep, 0xa000, 512, 8, 4, 6, .rw, 0⟩
/-- LEP.MSRC.CHAN0 (R269). -/
def F.LEP_MSRC_CHAN0 : Fld := ⟨.lep, 0xa000, 512, 8, 10, 9, .rw, 0⟩
/-- LEP.MSRC.MC0 (R269). -/
def F.LEP_MSRC_MC0 : Fld := ⟨.lep, 0xa000, 512, 8, 19, 1, .rw, 0⟩
/-- LEP.MSRC.VALID1 (R269). -/
def F.LEP_MSRC_VALID1 : Fld := ⟨.lep, 0xa000, 512, 8, 32, 1, .rw, 0⟩
/-- LEP.MSRC.TILE1 (R269). -/
def F.LEP_MSRC_TILE1 : Fld := ⟨.lep, 0xa000, 512, 8, 33, 3, .rw, 0⟩
/-- LEP.MSRC.FRANK1 (R269). -/
def F.LEP_MSRC_FRANK1 : Fld := ⟨.lep, 0xa000, 512, 8, 36, 6, .rw, 0⟩
/-- LEP.MSRC.CHAN1 (R269). -/
def F.LEP_MSRC_CHAN1 : Fld := ⟨.lep, 0xa000, 512, 8, 42, 9, .rw, 0⟩
/-- LEP.MSRC.MC1 (R269). -/
def F.LEP_MSRC_MC1 : Fld := ⟨.lep, 0xa000, 512, 8, 51, 1, .rw, 0⟩
/-- TMU.CTL.EN (R237). -/
def F.TMU_CTL_EN : Fld := ⟨.tmu, 0x0, 1, 0, 0, 1, .rw, 0⟩
/-- TMU.ROOT.PA (R237). -/
def F.TMU_ROOT_PA : Fld := ⟨.tmu, 0x8, 1, 0, 12, 40, .rw, 0⟩
/-- TMU.INV.SCOPE (R237). -/
def F.TMU_INV_SCOPE : Fld := ⟨.tmu, 0x10, 1, 0, 0, 1, .wo, 0⟩
/-- TMU.INV.VA (R237). -/
def F.TMU_INV_VA : Fld := ⟨.tmu, 0x10, 1, 0, 12, 36, .wo, 0⟩
/-- TMU.INV_LEN.PAGES (R237). -/
def F.TMU_INV_LEN_PAGES : Fld := ⟨.tmu, 0x18, 1, 0, 0, 36, .rw, 0⟩
/-- TMU.INV_STATUS.BUSY (R237). -/
def F.TMU_INV_STATUS_BUSY : Fld := ⟨.tmu, 0x20, 1, 0, 0, 1, .ro, 0⟩
/-- TMU.INV_STATUS.OVERRUN (R237). -/
def F.TMU_INV_STATUS_OVERRUN : Fld := ⟨.tmu, 0x20, 1, 0, 1, 1, .w1c, 0⟩
/-- TMU.FAULT_STATUS.VALID (R237). -/
def F.TMU_FAULT_STATUS_VALID : Fld := ⟨.tmu, 0x28, 1, 0, 0, 1, .w1c, 0⟩
/-- TMU.FAULT_STATUS.CAUSE (R237). -/
def F.TMU_FAULT_STATUS_CAUSE : Fld := ⟨.tmu, 0x28, 1, 0, 1, 3, .ro, 0⟩
/-- TMU.FAULT_STATUS.WRITE (R237). -/
def F.TMU_FAULT_STATUS_WRITE : Fld := ⟨.tmu, 0x28, 1, 0, 4, 1, .ro, 0⟩
/-- TMU.FAULT_STATUS.FETCH (R237). -/
def F.TMU_FAULT_STATUS_FETCH : Fld := ⟨.tmu, 0x28, 1, 0, 5, 1, .ro, 0⟩
/-- TMU.FAULT_STATUS.OPER (R237). -/
def F.TMU_FAULT_STATUS_OPER : Fld := ⟨.tmu, 0x28, 1, 0, 6, 1, .ro, 0⟩
/-- TMU.FAULT_STATUS.TAG (R237). -/
def F.TMU_FAULT_STATUS_TAG : Fld := ⟨.tmu, 0x28, 1, 0, 8, 8, .ro, 0⟩
/-- TMU.FAULT_STATUS.COUNT (R237). -/
def F.TMU_FAULT_STATUS_COUNT : Fld := ⟨.tmu, 0x28, 1, 0, 16, 32, .ro, 0⟩
/-- TMU.FAULT_VA.VA (R237). -/
def F.TMU_FAULT_VA_VA : Fld := ⟨.tmu, 0x30, 1, 0, 0, 48, .ro, 0⟩
/-- TMU.FAULT_VA.LEVEL (R237). -/
def F.TMU_FAULT_VA_LEVEL : Fld := ⟨.tmu, 0x30, 1, 0, 48, 3, .ro, 0⟩
/-- TMU.CNT_MISS.COUNT (R237). -/
def F.TMU_CNT_MISS_COUNT : Fld := ⟨.tmu, 0x40, 1, 0, 0, 48, .rw, 0⟩
/-- TMU.CNT_WALK.COUNT (R237). -/
def F.TMU_CNT_WALK_COUNT : Fld := ⟨.tmu, 0x48, 1, 0, 0, 48, .rw, 0⟩
/-- TMU.MEM_CE.PEAT (R237). -/
def F.TMU_MEM_CE_PEAT : Fld := ⟨.tmu, 0x50, 1, 0, 0, 24, .rw, 0⟩
/-- TMU.MEM_CE.MERE (R237). -/
def F.TMU_MEM_CE_MERE : Fld := ⟨.tmu, 0x50, 1, 0, 24, 24, .rw, 0⟩
/-- TMU.MEM_UE.PEAT (R237). -/
def F.TMU_MEM_UE_PEAT : Fld := ⟨.tmu, 0x58, 1, 0, 0, 24, .rw, 0⟩
/-- TMU.MEM_UE.MERE (R237). -/
def F.TMU_MEM_UE_MERE : Fld := ⟨.tmu, 0x58, 1, 0, 24, 24, .rw, 0⟩
/-- TDM.STATUS.BUSY (R239). -/
def F.TDM_STATUS_BUSY : Fld := ⟨.tdm, 0x0, 4, 64, 0, 1, .ro, 0⟩
/-- TDM.STATUS.DESC (R239). -/
def F.TDM_STATUS_DESC : Fld := ⟨.tdm, 0x0, 4, 64, 1, 7, .ro, 0⟩
/-- TDM.ERR.VALID (R239). -/
def F.TDM_ERR_VALID : Fld := ⟨.tdm, 0x8, 4, 64, 0, 1, .w1c, 0⟩
/-- TDM.ERR.CAUSE (R239). -/
def F.TDM_ERR_CAUSE : Fld := ⟨.tdm, 0x8, 4, 64, 1, 3, .ro, 0⟩
/-- TDM.ERR.HOST (R239). -/
def F.TDM_ERR_HOST : Fld := ⟨.tdm, 0x8, 4, 64, 4, 1, .ro, 0⟩
/-- TDM.ERR.TAG (R239). -/
def F.TDM_ERR_TAG : Fld := ⟨.tdm, 0x8, 4, 64, 8, 8, .ro, 0⟩
/-- TDM.ERR.COUNT (R239). -/
def F.TDM_ERR_COUNT : Fld := ⟨.tdm, 0x8, 4, 64, 16, 32, .ro, 0⟩
/-- TDM.ERR_ADDR.ADDR (R239). -/
def F.TDM_ERR_ADDR_ADDR : Fld := ⟨.tdm, 0x10, 4, 64, 0, 48, .ro, 0⟩
/-- TDM.ERR_ADDR.PHYS (R239). -/
def F.TDM_ERR_ADDR_PHYS : Fld := ⟨.tdm, 0x10, 4, 64, 48, 1, .ro, 0⟩
/-- TDM.CNT_BYTES.COUNT (R239). -/
def F.TDM_CNT_BYTES_COUNT : Fld := ⟨.tdm, 0x18, 4, 64, 0, 48, .rw, 0⟩
/-- TDM.POOL.INFLIGHT (R239). -/
def F.TDM_POOL_INFLIGHT : Fld := ⟨.tdm, 0x100, 1, 0, 0, 7, .ro, 0⟩
/-- TPC.STATUS.STATE (R373). -/
def F.TPC_STATUS_STATE : Fld := ⟨.tpc, 0x0, 1, 0, 0, 3, .ro, 4⟩
/-- TPC.STATUS.ENTERING (R373). -/
def F.TPC_STATUS_ENTERING : Fld := ⟨.tpc, 0x0, 1, 0, 3, 1, .ro, 0⟩
/-- TPC.STATUS.WAKING (R373). -/
def F.TPC_STATUS_WAKING : Fld := ⟨.tpc, 0x0, 1, 0, 4, 1, .ro, 0⟩
/-- TPC.STATUS.MEMWAKE (R373). -/
def F.TPC_STATUS_MEMWAKE : Fld := ⟨.tpc, 0x0, 1, 0, 5, 1, .ro, 0⟩
/-- TPC.STATUS.CMDREJ (R373). -/
def F.TPC_STATUS_CMDREJ : Fld := ⟨.tpc, 0x0, 1, 0, 6, 1, .w1c, 0⟩
/-- TPC.CTL.DOZE_IDLE (R373). -/
def F.TPC_CTL_DOZE_IDLE : Fld := ⟨.tpc, 0x8, 1, 0, 0, 16, .rw, 64⟩
/-- TPC.CTL.NAP_IDLE (R373). -/
def F.TPC_CTL_NAP_IDLE : Fld := ⟨.tpc, 0x8, 1, 0, 16, 16, .rw, 50⟩
/-- TPC.CTL.SLEEP_IDLE (R373). -/
def F.TPC_CTL_SLEEP_IDLE : Fld := ⟨.tpc, 0x8, 1, 0, 32, 16, .rw, 2⟩
/-- TPC.CTL.MAXDEPTH (R373). -/
def F.TPC_CTL_MAXDEPTH : Fld := ⟨.tpc, 0x8, 1, 0, 48, 3, .rw, 3⟩
/-- TPC.CMD.OP (R373). -/
def F.TPC_CMD_OP : Fld := ⟨.tpc, 0x10, 1, 0, 0, 2, .wo, 0⟩
/-- TPC.CNT_WAKE.COUNT (R373). -/
def F.TPC_CNT_WAKE_COUNT : Fld := ⟨.tpc, 0x20, 1, 0, 0, 48, .rw, 0⟩
/-- TPC.CNT_SLEEP_US.COUNT (R373). -/
def F.TPC_CNT_SLEEP_US_COUNT : Fld := ⟨.tpc, 0x28, 1, 0, 0, 48, .rw, 0⟩
/-- TPC.CNT_NAP_US.COUNT (R373). -/
def F.TPC_CNT_NAP_US_COUNT : Fld := ⟨.tpc, 0x30, 1, 0, 0, 48, .rw, 0⟩
/-- TPC.CNT_RUN_US.COUNT (R373). -/
def F.TPC_CNT_RUN_US_COUNT : Fld := ⟨.tpc, 0x38, 1, 0, 0, 48, .rw, 0⟩
/-- TPC.CNT_THROTTLE.COUNT (R373). -/
def F.TPC_CNT_THROTTLE_COUNT : Fld := ⟨.tpc, 0x40, 1, 0, 0, 48, .rw, 0⟩
/-- HIU.CHIP_REV.REV (R403). -/
def F.HIU_CHIP_REV_REV : Fld := ⟨.hiu, 0x0, 1, 0, 0, 32, .ro, 176⟩
/-- HIU.FUNC.FN (R403). -/
def F.HIU_FUNC_FN : Fld := ⟨.hiu, 0x8, 1, 0, 0, 5, .ro, 0⟩
/-- HIU.FUNC.TILES (R403). -/
def F.HIU_FUNC_TILES : Fld := ⟨.hiu, 0x8, 1, 0, 8, 8, .ro, 0⟩
/-- HIU.TIME_NOW.NS (R403). -/
def F.HIU_TIME_NOW_NS : Fld := ⟨.hiu, 0x10, 1, 0, 0, 64, .ro, 0⟩
/-- HIU.TIME_NOW_FRAC.FRAC (R403). -/
def F.HIU_TIME_NOW_FRAC_FRAC : Fld := ⟨.hiu, 0x18, 1, 0, 0, 32, .ro, 0⟩
/-- HIU.EVT_STATUS.RING_ERR (R403). -/
def F.HIU_EVT_STATUS_RING_ERR : Fld := ⟨.hiu, 0x20, 1, 0, 0, 1, .w1c, 0⟩
/-- HIU.EVT_STATUS.BAR2_REFUSED (R403). -/
def F.HIU_EVT_STATUS_BAR2_REFUSED : Fld := ⟨.hiu, 0x20, 1, 0, 1, 1, .w1c, 0⟩
/-- HIU.EVT_STATUS.DB_IGNORED (R403). -/
def F.HIU_EVT_STATUS_DB_IGNORED : Fld := ⟨.hiu, 0x20, 1, 0, 2, 1, .w1c, 0⟩
/-- HIU.EVT_STATUS.FLT (R403). -/
def F.HIU_EVT_STATUS_FLT : Fld := ⟨.hiu, 0x20, 1, 0, 3, 1, .w1c, 0⟩
/-- HIU.EVT_CFG.VEC (R403). -/
def F.HIU_EVT_CFG_VEC : Fld := ⟨.hiu, 0x28, 1, 0, 0, 6, .rw, 0⟩
/-- HIU.EVT_CFG.EN (R403). -/
def F.HIU_EVT_CFG_EN : Fld := ⟨.hiu, 0x28, 1, 0, 6, 1, .rw, 0⟩
/-- HIU.BAR2_BASE.PA (R403). -/
def F.HIU_BAR2_BASE_PA : Fld := ⟨.hiu, 0x30, 1, 0, 30, 22, .rw, 0⟩
/-- HIU.CNT_CMD.COUNT (R403). -/
def F.HIU_CNT_CMD_COUNT : Fld := ⟨.hiu, 0x40, 1, 0, 0, 48, .rw, 0⟩
/-- HIU.HWIN_CFG.EN (R403). -/
def F.HIU_HWIN_CFG_EN : Fld := ⟨.hiu, 0x100, 16, 16, 0, 1, .rw, 0⟩
/-- HIU.HWIN_CFG.NOSNOOP (R403). -/
def F.HIU_HWIN_CFG_NOSNOOP : Fld := ⟨.hiu, 0x100, 16, 16, 1, 1, .rw, 0⟩
/-- HIU.HWIN_CFG.RELAX (R403). -/
def F.HIU_HWIN_CFG_RELAX : Fld := ⟨.hiu, 0x100, 16, 16, 2, 1, .rw, 0⟩
/-- HIU.HWIN_CFG.OFF (R403). -/
def F.HIU_HWIN_CFG_OFF : Fld := ⟨.hiu, 0x100, 16, 16, 4, 19, .rw, 0⟩
/-- HIU.HWIN_CFG.PAGES (R403). -/
def F.HIU_HWIN_CFG_PAGES : Fld := ⟨.hiu, 0x100, 16, 16, 24, 20, .rw, 0⟩
/-- HIU.HWIN_HOST.HADDR (R403). -/
def F.HIU_HWIN_HOST_HADDR : Fld := ⟨.hiu, 0x108, 16, 16, 21, 43, .rw, 0⟩
/-- HIU.RING_BASE.PA (R403). -/
def F.HIU_RING_BASE_PA : Fld := ⟨.hiu, 0x1000, 64, 128, 12, 40, .rw, 0⟩
/-- HIU.RING_CFG.EN (R403). -/
def F.HIU_RING_CFG_EN : Fld := ⟨.hiu, 0x1008, 64, 128, 0, 1, .rw, 0⟩
/-- HIU.RING_CFG.LOG2SIZE (R403). -/
def F.HIU_RING_CFG_LOG2SIZE : Fld := ⟨.hiu, 0x1008, 64, 128, 1, 5, .rw, 4⟩
/-- HIU.RING_CFG.VEC (R403). -/
def F.HIU_RING_CFG_VEC : Fld := ⟨.hiu, 0x1008, 64, 128, 8, 6, .rw, 0⟩
/-- HIU.RING_CFG.IRQ_COUNT (R403). -/
def F.HIU_RING_CFG_IRQ_COUNT : Fld := ⟨.hiu, 0x1008, 64, 128, 16, 8, .rw, 1⟩
/-- HIU.RING_CFG.IRQ_DELAY (R403). -/
def F.HIU_RING_CFG_IRQ_DELAY : Fld := ⟨.hiu, 0x1008, 64, 128, 24, 16, .rw, 0⟩
/-- HIU.CQ_BASE.PA (R403). -/
def F.HIU_CQ_BASE_PA : Fld := ⟨.hiu, 0x1010, 64, 128, 12, 40, .rw, 0⟩
/-- HIU.RING_STATUS.STATE (R403). -/
def F.HIU_RING_STATUS_STATE : Fld := ⟨.hiu, 0x1018, 64, 128, 0, 2, .ro, 0⟩
/-- HIU.RING_STATUS.RESETTING (R403). -/
def F.HIU_RING_STATUS_RESETTING : Fld := ⟨.hiu, 0x1018, 64, 128, 2, 1, .ro, 0⟩
/-- HIU.RING_STATUS.ERRCAUSE (R403). -/
def F.HIU_RING_STATUS_ERRCAUSE : Fld := ⟨.hiu, 0x1018, 64, 128, 8, 4, .ro, 0⟩
/-- HIU.RING_STATUS.CONS (R403). -/
def F.HIU_RING_STATUS_CONS : Fld := ⟨.hiu, 0x1018, 64, 128, 32, 32, .ro, 0⟩
/-- HIU.CQ_HEAD.HEAD (R403). -/
def F.HIU_CQ_HEAD_HEAD : Fld := ⟨.hiu, 0x1020, 64, 128, 0, 32, .rw, 0⟩
/-- HIU.CQ_TAIL.TAIL (R403). -/
def F.HIU_CQ_TAIL_TAIL : Fld := ⟨.hiu, 0x1028, 64, 128, 0, 32, .ro, 0⟩
/-- HIU.CQ_TAIL.RES (R403). -/
def F.HIU_CQ_TAIL_RES : Fld := ⟨.hiu, 0x1028, 64, 128, 32, 32, .ro, 0⟩
/-- HIU.RING_PROG_SEL.SEQ (R403). -/
def F.HIU_RING_PROG_SEL_SEQ : Fld := ⟨.hiu, 0x1030, 64, 128, 0, 32, .rw, 0⟩
/-- HIU.RING_PROG_POS.POSITION (R403). -/
def F.HIU_RING_PROG_POS_POSITION : Fld := ⟨.hiu, 0x1038, 64, 128, 0, 48, .ro, 0⟩
/-- HIU.RING_PROG_POS.PERMILLE (R403). -/
def F.HIU_RING_PROG_POS_PERMILLE : Fld := ⟨.hiu, 0x1038, 64, 128, 48, 10, .ro, 0⟩
/-- HIU.RING_PROG_POS.STATE (R403). -/
def F.HIU_RING_PROG_POS_STATE : Fld := ⟨.hiu, 0x1038, 64, 128, 58, 3, .ro, 0⟩
/-- HIU.RING_PROG_TOTAL.TOTAL (R403). -/
def F.HIU_RING_PROG_TOTAL_TOTAL : Fld := ⟨.hiu, 0x1040, 64, 128, 0, 48, .ro, 0⟩
/-- HIU.RING_CTL.RESET (R403). -/
def F.HIU_RING_CTL_RESET : Fld := ⟨.hiu, 0x1048, 64, 128, 0, 1, .wo, 0⟩
/-- HIU.DOORBELL.PROD (R403). -/
def F.HIU_DOORBELL_PROD : Fld := ⟨.hiu, 0x40000, 64, 4096, 0, 32, .wo, 0⟩
/-- HIU.PART_CFG.EN (R403). -/
def F.HIU_PART_CFG_EN : Fld := ⟨.hiu, 0x80100, 31, 256, 0, 1, .rw, 0⟩
/-- HIU.PART_CFG.FEN (R403). -/
def F.HIU_PART_CFG_FEN : Fld := ⟨.hiu, 0x80100, 31, 256, 1, 1, .rw, 0⟩
/-- HIU.PART_CFG.TILES (R403). -/
def F.HIU_PART_CFG_TILES : Fld := ⟨.hiu, 0x80100, 31, 256, 8, 8, .rw, 0⟩
/-- HIU.PART_STATUS.ERR (R403). -/
def F.HIU_PART_STATUS_ERR : Fld := ⟨.hiu, 0x80108, 31, 256, 0, 1, .w1c, 0⟩
/-- HIU.PART_HBM0.V (R403). -/
def F.HIU_PART_HBM0_V : Fld := ⟨.hiu, 0x80110, 31, 256, 0, 1, .rw, 0⟩
/-- HIU.PART_HBM0.STACK (R403). -/
def F.HIU_PART_HBM0_STACK : Fld := ⟨.hiu, 0x80110, 31, 256, 1, 3, .rw, 0⟩
/-- HIU.PART_HBM0.FIRST (R403). -/
def F.HIU_PART_HBM0_FIRST : Fld := ⟨.hiu, 0x80110, 31, 256, 4, 6, .rw, 0⟩
/-- HIU.PART_HBM0.COUNT (R403). -/
def F.HIU_PART_HBM0_COUNT : Fld := ⟨.hiu, 0x80110, 31, 256, 10, 6, .rw, 0⟩
/-- HIU.PART_HBM1.V (R403). -/
def F.HIU_PART_HBM1_V : Fld := ⟨.hiu, 0x80118, 31, 256, 0, 1, .rw, 0⟩
/-- HIU.PART_HBM1.STACK (R403). -/
def F.HIU_PART_HBM1_STACK : Fld := ⟨.hiu, 0x80118, 31, 256, 1, 3, .rw, 0⟩
/-- HIU.PART_HBM1.FIRST (R403). -/
def F.HIU_PART_HBM1_FIRST : Fld := ⟨.hiu, 0x80118, 31, 256, 4, 6, .rw, 0⟩
/-- HIU.PART_HBM1.COUNT (R403). -/
def F.HIU_PART_HBM1_COUNT : Fld := ⟨.hiu, 0x80118, 31, 256, 10, 6, .rw, 0⟩
/-- HIU.PART_HBM2.V (R403). -/
def F.HIU_PART_HBM2_V : Fld := ⟨.hiu, 0x80120, 31, 256, 0, 1, .rw, 0⟩
/-- HIU.PART_HBM2.STACK (R403). -/
def F.HIU_PART_HBM2_STACK : Fld := ⟨.hiu, 0x80120, 31, 256, 1, 3, .rw, 0⟩
/-- HIU.PART_HBM2.FIRST (R403). -/
def F.HIU_PART_HBM2_FIRST : Fld := ⟨.hiu, 0x80120, 31, 256, 4, 6, .rw, 0⟩
/-- HIU.PART_HBM2.COUNT (R403). -/
def F.HIU_PART_HBM2_COUNT : Fld := ⟨.hiu, 0x80120, 31, 256, 10, 6, .rw, 0⟩
/-- HIU.PART_HBM3.V (R403). -/
def F.HIU_PART_HBM3_V : Fld := ⟨.hiu, 0x80128, 31, 256, 0, 1, .rw, 0⟩
/-- HIU.PART_HBM3.STACK (R403). -/
def F.HIU_PART_HBM3_STACK : Fld := ⟨.hiu, 0x80128, 31, 256, 1, 3, .rw, 0⟩
/-- HIU.PART_HBM3.FIRST (R403). -/
def F.HIU_PART_HBM3_FIRST : Fld := ⟨.hiu, 0x80128, 31, 256, 4, 6, .rw, 0⟩
/-- HIU.PART_HBM3.COUNT (R403). -/
def F.HIU_PART_HBM3_COUNT : Fld := ⟨.hiu, 0x80128, 31, 256, 10, 6, .rw, 0⟩
/-- HIU.PART_HBM4.V (R403). -/
def F.HIU_PART_HBM4_V : Fld := ⟨.hiu, 0x80130, 31, 256, 0, 1, .rw, 0⟩
/-- HIU.PART_HBM4.STACK (R403). -/
def F.HIU_PART_HBM4_STACK : Fld := ⟨.hiu, 0x80130, 31, 256, 1, 3, .rw, 0⟩
/-- HIU.PART_HBM4.FIRST (R403). -/
def F.HIU_PART_HBM4_FIRST : Fld := ⟨.hiu, 0x80130, 31, 256, 4, 6, .rw, 0⟩
/-- HIU.PART_HBM4.COUNT (R403). -/
def F.HIU_PART_HBM4_COUNT : Fld := ⟨.hiu, 0x80130, 31, 256, 10, 6, .rw, 0⟩
/-- HIU.PART_HBM5.V (R403). -/
def F.HIU_PART_HBM5_V : Fld := ⟨.hiu, 0x80138, 31, 256, 0, 1, .rw, 0⟩
/-- HIU.PART_HBM5.STACK (R403). -/
def F.HIU_PART_HBM5_STACK : Fld := ⟨.hiu, 0x80138, 31, 256, 1, 3, .rw, 0⟩
/-- HIU.PART_HBM5.FIRST (R403). -/
def F.HIU_PART_HBM5_FIRST : Fld := ⟨.hiu, 0x80138, 31, 256, 4, 6, .rw, 0⟩
/-- HIU.PART_HBM5.COUNT (R403). -/
def F.HIU_PART_HBM5_COUNT : Fld := ⟨.hiu, 0x80138, 31, 256, 10, 6, .rw, 0⟩
/-- HIU.PART_HBM6.V (R403). -/
def F.HIU_PART_HBM6_V : Fld := ⟨.hiu, 0x80140, 31, 256, 0, 1, .rw, 0⟩
/-- HIU.PART_HBM6.STACK (R403). -/
def F.HIU_PART_HBM6_STACK : Fld := ⟨.hiu, 0x80140, 31, 256, 1, 3, .rw, 0⟩
/-- HIU.PART_HBM6.FIRST (R403). -/
def F.HIU_PART_HBM6_FIRST : Fld := ⟨.hiu, 0x80140, 31, 256, 4, 6, .rw, 0⟩
/-- HIU.PART_HBM6.COUNT (R403). -/
def F.HIU_PART_HBM6_COUNT : Fld := ⟨.hiu, 0x80140, 31, 256, 10, 6, .rw, 0⟩
/-- HIU.PART_HBM7.V (R403). -/
def F.HIU_PART_HBM7_V : Fld := ⟨.hiu, 0x80148, 31, 256, 0, 1, .rw, 0⟩
/-- HIU.PART_HBM7.STACK (R403). -/
def F.HIU_PART_HBM7_STACK : Fld := ⟨.hiu, 0x80148, 31, 256, 1, 3, .rw, 0⟩
/-- HIU.PART_HBM7.FIRST (R403). -/
def F.HIU_PART_HBM7_FIRST : Fld := ⟨.hiu, 0x80148, 31, 256, 4, 6, .rw, 0⟩
/-- HIU.PART_HBM7.COUNT (R403). -/
def F.HIU_PART_HBM7_COUNT : Fld := ⟨.hiu, 0x80148, 31, 256, 10, 6, .rw, 0⟩
/-- CWP.CTL.EN (R348). -/
def F.CWP_CTL_EN : Fld := ⟨.cwp, 0x0, 1, 0, 0, 1, .rw, 0⟩
/-- CWP.CTL.PROFILE (R348). -/
def F.CWP_CTL_PROFILE : Fld := ⟨.cwp, 0x0, 1, 0, 1, 1, .rw, 0⟩
/-- CWP.CTL.ALLOW_X4 (R348). -/
def F.CWP_CTL_ALLOW_X4 : Fld := ⟨.cwp, 0x0, 1, 0, 2, 1, .rw, 1⟩
/-- CWP.CTL.RETRAIN (R348). -/
def F.CWP_CTL_RETRAIN : Fld := ⟨.cwp, 0x0, 1, 0, 3, 1, .wo, 0⟩
/-- CWP.STATUS.STATE (R348). -/
def F.CWP_STATUS_STATE : Fld := ⟨.cwp, 0x8, 1, 0, 0, 3, .ro, 0⟩
/-- CWP.STATUS.X4 (R348). -/
def F.CWP_STATUS_X4 : Fld := ⟨.cwp, 0x8, 1, 0, 3, 1, .ro, 0⟩
/-- CWP.STATUS.HALF (R348). -/
def F.CWP_STATUS_HALF : Fld := ⟨.cwp, 0x8, 1, 0, 4, 1, .ro, 0⟩
/-- CWP.STATUS.PEERV (R348). -/
def F.CWP_STATUS_PEERV : Fld := ⟨.cwp, 0x8, 1, 0, 5, 1, .ro, 0⟩
/-- CWP.STATUS.LANEOK (R348). -/
def F.CWP_STATUS_LANEOK : Fld := ⟨.cwp, 0x8, 1, 0, 8, 8, .ro, 0⟩
/-- CWP.STATUS.PEER_PORT (R348). -/
def F.CWP_STATUS_PEER_PORT : Fld := ⟨.cwp, 0x8, 1, 0, 16, 4, .ro, 0⟩
/-- CWP.PEER_DEVID.DEVID (R348). -/
def F.CWP_PEER_DEVID_DEVID : Fld := ⟨.cwp, 0x10, 1, 0, 0, 64, .ro, 0⟩
/-- CWP.CNT_TXFLIT.COUNT (R348). -/
def F.CWP_CNT_TXFLIT_COUNT : Fld := ⟨.cwp, 0x18, 1, 0, 0, 48, .rw, 0⟩
/-- CWP.CNT_RXFLIT.COUNT (R348). -/
def F.CWP_CNT_RXFLIT_COUNT : Fld := ⟨.cwp, 0x20, 1, 0, 0, 48, .rw, 0⟩
/-- CWP.CNT_REPLAY.COUNT (R348). -/
def F.CWP_CNT_REPLAY_COUNT : Fld := ⟨.cwp, 0x28, 1, 0, 0, 48, .rw, 0⟩
/-- CWP.CNT_BADFLIT.COUNT (R348). -/
def F.CWP_CNT_BADFLIT_COUNT : Fld := ⟨.cwp, 0x30, 1, 0, 0, 48, .rw, 0⟩
/-- CWP.CNT_FEC_CE.COUNT (R348). -/
def F.CWP_CNT_FEC_CE_COUNT : Fld := ⟨.cwp, 0x38, 1, 0, 0, 48, .rw, 0⟩
/-- CWP.CNT_FEC_UE.COUNT (R348). -/
def F.CWP_CNT_FEC_UE_COUNT : Fld := ⟨.cwp, 0x40, 1, 0, 0, 48, .rw, 0⟩
/-- CWP.CNT_RETRAIN.COUNT (R348). -/
def F.CWP_CNT_RETRAIN_COUNT : Fld := ⟨.cwp, 0x48, 1, 0, 0, 48, .rw, 0⟩
/-- CWP.CNT_TIMEDROP.COUNT (R348). -/
def F.CWP_CNT_TIMEDROP_COUNT : Fld := ⟨.cwp, 0x50, 1, 0, 0, 48, .rw, 0⟩
/-- CWP.LANE.LOCK (R348). -/
def F.CWP_LANE_LOCK : Fld := ⟨.cwp, 0x80, 8, 8, 0, 1, .ro, 0⟩
/-- CWP.LANE.PRECODE (R348). -/
def F.CWP_LANE_PRECODE : Fld := ⟨.cwp, 0x80, 8, 8, 1, 1, .ro, 0⟩
/-- CWP.LANE.SYMERR (R348). -/
def F.CWP_LANE_SYMERR : Fld := ⟨.cwp, 0x80, 8, 8, 16, 48, .rw, 0⟩
/-- CWP.VC.TXCRED0 (R348). -/
def F.CWP_VC_TXCRED0 : Fld := ⟨.cwp, 0x100, 8, 8, 0, 10, .ro, 0⟩
/-- CWP.VC.TXCRED1 (R348). -/
def F.CWP_VC_TXCRED1 : Fld := ⟨.cwp, 0x100, 8, 8, 10, 10, .ro, 0⟩
/-- CWP.VC.RXFREE0 (R348). -/
def F.CWP_VC_RXFREE0 : Fld := ⟨.cwp, 0x100, 8, 8, 20, 10, .ro, 0⟩
/-- CWP.VC.RXFREE1 (R348). -/
def F.CWP_VC_RXFREE1 : Fld := ⟨.cwp, 0x100, 8, 8, 30, 10, .ro, 0⟩
/-- HMC.STATUS.STATE (R240). -/
def F.HMC_STATUS_STATE : Fld := ⟨.hmc, 0x0, 1, 0, 0, 2, .ro, 0⟩
/-- HMC.STATUS.TEMP (R240). -/
def F.HMC_STATUS_TEMP : Fld := ⟨.hmc, 0x0, 1, 0, 8, 8, .ro, 0⟩
/-- HMC.CTL.SCRUB_EN (R240). -/
def F.HMC_CTL_SCRUB_EN : Fld := ⟨.hmc, 0x8, 1, 0, 0, 1, .rw, 1⟩
/-- HMC.CTL.SCRUB_HOURS (R240). -/
def F.HMC_CTL_SCRUB_HOURS : Fld := ⟨.hmc, 0x8, 1, 0, 8, 8, .rw, 24⟩
/-- HMC.CNT_CE.COUNT (R240). -/
def F.HMC_CNT_CE_COUNT : Fld := ⟨.hmc, 0x10, 1, 0, 0, 48, .rw, 0⟩
/-- HMC.CNT_UE.COUNT (R240). -/
def F.HMC_CNT_UE_COUNT : Fld := ⟨.hmc, 0x18, 1, 0, 0, 48, .rw, 0⟩
/-- HMC.UE_ADDR.PA (R240). -/
def F.HMC_UE_ADDR_PA : Fld := ⟨.hmc, 0x20, 1, 0, 0, 52, .ro, 0⟩
/-- HMC.CNT_RD.BYTES (R240). -/
def F.HMC_CNT_RD_BYTES : Fld := ⟨.hmc, 0x28, 1, 0, 0, 48, .rw, 0⟩
/-- HMC.CNT_WR.BYTES (R240). -/
def F.HMC_CNT_WR_BYTES : Fld := ⟨.hmc, 0x30, 1, 0, 0, 48, .rw, 0⟩
/-- TBU.CTL.TMPRIO (R371). -/
def F.TBU_CTL_TMPRIO : Fld := ⟨.tbu, 0x0, 1, 0, 0, 8, .rw, 128⟩
/-- TBU.STATUS.MASTER (R371). -/
def F.TBU_STATUS_MASTER : Fld := ⟨.tbu, 0x8, 1, 0, 0, 1, .ro, 1⟩
/-- TBU.STATUS.SERVO (R371). -/
def F.TBU_STATUS_SERVO : Fld := ⟨.tbu, 0x8, 1, 0, 1, 3, .ro, 0⟩
/-- TBU.STATUS.PPSSTATE (R371). -/
def F.TBU_STATUS_PPSSTATE : Fld := ⟨.tbu, 0x8, 1, 0, 4, 2, .ro, 0⟩
/-- TBU.STATUS.SETREJ (R371). -/
def F.TBU_STATUS_SETREJ : Fld := ⟨.tbu, 0x8, 1, 0, 6, 1, .w1c, 0⟩
/-- TBU.STATUS.MRANK (R371). -/
def F.TBU_STATUS_MRANK : Fld := ⟨.tbu, 0x8, 1, 0, 8, 6, .ro, 0⟩
/-- TBU.STATUS.PPORT (R371). -/
def F.TBU_STATUS_PPORT : Fld := ⟨.tbu, 0x8, 1, 0, 14, 4, .ro, 0⟩
/-- TBU.STATUS.DEPTH (R371). -/
def F.TBU_STATUS_DEPTH : Fld := ⟨.tbu, 0x8, 1, 0, 18, 3, .ro, 0⟩
/-- TBU.STATUS.ERRBND (R371). -/
def F.TBU_STATUS_ERRBND : Fld := ⟨.tbu, 0x8, 1, 0, 32, 32, .ro, 0⟩
/-- TBU.NOW_NS.NS (R371). -/
def F.TBU_NOW_NS_NS : Fld := ⟨.tbu, 0x10, 1, 0, 0, 64, .ro, 0⟩
/-- TBU.NOW_FRAC.FRAC (R371). -/
def F.TBU_NOW_FRAC_FRAC : Fld := ⟨.tbu, 0x18, 1, 0, 0, 32, .ro, 0⟩
/-- TBU.SET_NS.NS (R371). -/
def F.TBU_SET_NS_NS : Fld := ⟨.tbu, 0x20, 1, 0, 0, 64, .wo, 0⟩
/-- TBU.SET_FRAC.FRAC (R371). -/
def F.TBU_SET_FRAC_FRAC : Fld := ⟨.tbu, 0x28, 1, 0, 0, 32, .rw, 0⟩
/-- TBU.INC.INC (R371). -/
def F.TBU_INC_INC : Fld := ⟨.tbu, 0x30, 1, 0, 0, 36, .ro, 4294967296⟩
/-- TBU.SYNC_CFG.PERIOD (R371). -/
def F.TBU_SYNC_CFG_PERIOD : Fld := ⟨.tbu, 0x38, 1, 0, 0, 16, .rw, 16384⟩
/-- TBU.SYNC_CFG.STEP_NS (R371). -/
def F.TBU_SYNC_CFG_STEP_NS : Fld := ⟨.tbu, 0x38, 1, 0, 16, 16, .rw, 1000⟩
/-- TBU.SYNC_CFG.DGUARD (R371). -/
def F.TBU_SYNC_CFG_DGUARD : Fld := ⟨.tbu, 0x38, 1, 0, 32, 16, .rw, 512⟩
/-- TBU.PPS_CFG.IN_EN (R371). -/
def F.TBU_PPS_CFG_IN_EN : Fld := ⟨.tbu, 0x40, 1, 0, 0, 1, .rw, 0⟩
/-- TBU.PPS_CFG.OUT_EN (R371). -/
def F.TBU_PPS_CFG_OUT_EN : Fld := ⟨.tbu, 0x40, 1, 0, 1, 1, .rw, 1⟩
/-- TBU.PPS_CFG.GATE (R371). -/
def F.TBU_PPS_CFG_GATE : Fld := ⟨.tbu, 0x40, 1, 0, 2, 1, .rw, 0⟩
/-- TBU.PPS_CFG.WIDTH (R371). -/
def F.TBU_PPS_CFG_WIDTH : Fld := ⟨.tbu, 0x40, 1, 0, 8, 8, .rw, 100⟩
/-- TBU.PPSIN_ADJ.ADJ (R371). -/
def F.TBU_PPSIN_ADJ_ADJ : Fld := ⟨.tbu, 0x48, 1, 0, 0, 32, .rw, 0⟩
/-- TBU.PPSOUT_ADJ.ADJ (R371). -/
def F.TBU_PPSOUT_ADJ_ADJ : Fld := ⟨.tbu, 0x50, 1, 0, 0, 32, .rw, 0⟩
/-- TBU.REF10M_CFG.EN (R371). -/
def F.TBU_REF10M_CFG_EN : Fld := ⟨.tbu, 0x58, 1, 0, 0, 1, .rw, 1⟩
/-- TBU.REF10M_CFG.ADJ (R371). -/
def F.TBU_REF10M_CFG_ADJ : Fld := ⟨.tbu, 0x58, 1, 0, 32, 32, .rw, 0⟩
/-- TBU.PPSIN_TS.NS (R371). -/
def F.TBU_PPSIN_TS_NS : Fld := ⟨.tbu, 0x60, 1, 0, 0, 64, .ro, 0⟩
/-- TBU.LAST_X.THETA (R371). -/
def F.TBU_LAST_X_THETA : Fld := ⟨.tbu, 0x68, 1, 0, 0, 32, .ro, 0⟩
/-- TBU.LAST_X.DELAY (R371). -/
def F.TBU_LAST_X_DELAY : Fld := ⟨.tbu, 0x68, 1, 0, 32, 32, .ro, 0⟩
/-- TBU.ASYM.ASYM (R371). -/
def F.TBU_ASYM_ASYM : Fld := ⟨.tbu, 0x80, 16, 8, 0, 32, .rw, 0⟩
/-- TBU.CNT_EXCH.COUNT (R371). -/
def F.TBU_CNT_EXCH_COUNT : Fld := ⟨.tbu, 0x100, 1, 0, 0, 48, .rw, 0⟩
/-- TBU.CNT_LOSTX.COUNT (R371). -/
def F.TBU_CNT_LOSTX_COUNT : Fld := ⟨.tbu, 0x108, 1, 0, 0, 48, .rw, 0⟩
/-- TBU.CNT_REJECT.COUNT (R371). -/
def F.TBU_CNT_REJECT_COUNT : Fld := ⟨.tbu, 0x110, 1, 0, 0, 48, .rw, 0⟩
/-- TBU.CNT_STEP.COUNT (R371). -/
def F.TBU_CNT_STEP_COUNT : Fld := ⟨.tbu, 0x118, 1, 0, 0, 48, .rw, 0⟩
/-- TBU.CNT_PPSREJ.COUNT (R371). -/
def F.TBU_CNT_PPSREJ_COUNT : Fld := ⟨.tbu, 0x120, 1, 0, 0, 48, .rw, 0⟩
/-- FLT.STATUS.FENSTOP (R451). -/
def F.FLT_STATUS_FENSTOP : Fld := ⟨.flt, 0x0, 1, 0, 0, 1, .ro, 0⟩
/-- FLT.STATUS.FENCING (R451). -/
def F.FLT_STATUS_FENCING : Fld := ⟨.flt, 0x0, 1, 0, 1, 1, .ro, 0⟩
/-- FLT.STATUS.FENCES (R451). -/
def F.FLT_STATUS_FENCES : Fld := ⟨.flt, 0x0, 1, 0, 8, 8, .ro, 0⟩
/-- FLT.STATUS.LOG_PROD (R451). -/
def F.FLT_STATUS_LOG_PROD : Fld := ⟨.flt, 0x0, 1, 0, 32, 32, .ro, 0⟩
/-- FLT.CTL.FENSTOP_CLR (R451). -/
def F.FLT_CTL_FENSTOP_CLR : Fld := ⟨.flt, 0x8, 1, 0, 0, 1, .wo, 0⟩
/-- FLT.CTL.HB_MISS (R451). -/
def F.FLT_CTL_HB_MISS : Fld := ⟨.flt, 0x8, 1, 0, 8, 8, .rw, 10⟩
/-- FLT.CTL.HB_US (R451). -/
def F.FLT_CTL_HB_US : Fld := ⟨.flt, 0x8, 1, 0, 16, 16, .rw, 100⟩
/-- FLT.FAILMAP.UNITS (R451). -/
def F.FLT_FAILMAP_UNITS : Fld := ⟨.flt, 0x10, 1, 0, 0, 40, .w1c, 0⟩
/-- FLT.FENFAIL.RANKS (R451). -/
def F.FLT_FENFAIL_RANKS : Fld := ⟨.flt, 0x18, 1, 0, 0, 64, .ro, 0⟩
/-- FLT.LOG_SEL.INDEX (R451). -/
def F.FLT_LOG_SEL_INDEX : Fld := ⟨.flt, 0x20, 1, 0, 0, 6, .rw, 0⟩
/-- FLT.LOG_D.D (R451). -/
def F.FLT_LOG_D_D : Fld := ⟨.flt, 0x28, 4, 8, 0, 64, .ro, 0⟩
/-- FLT.LREG_BASE.PA (R451). -/
def F.FLT_LREG_BASE_PA : Fld := ⟨.flt, 0x48, 1, 0, 3, 49, .rw, 0⟩
/-- FLT.LREG_CFG.COUNT (R451). -/
def F.FLT_LREG_CFG_COUNT : Fld := ⟨.flt, 0x50, 1, 0, 0, 11, .rw, 0⟩
/-- FLT.LREG_CFG.EN (R451). -/
def F.FLT_LREG_CFG_EN : Fld := ⟨.flt, 0x50, 1, 0, 16, 1, .rw, 0⟩
/-- FLT.INJECT.CODE (R451). -/
def F.FLT_INJECT_CODE : Fld := ⟨.flt, 0x58, 1, 0, 0, 8, .wo, 0⟩
/-- FLT.INJECT.UNIT (R451). -/
def F.FLT_INJECT_UNIT : Fld := ⟨.flt, 0x58, 1, 0, 8, 8, .wo, 0⟩
/-- FLT.INJECT.GO (R451). -/
def F.FLT_INJECT_GO : Fld := ⟨.flt, 0x58, 1, 0, 16, 1, .wo, 0⟩
/-- FLT.CNT_OP.COUNT (R451). -/
def F.FLT_CNT_OP_COUNT : Fld := ⟨.flt, 0x80, 1, 0, 0, 48, .rw, 0⟩
/-- FLT.CNT_UNIT.COUNT (R451). -/
def F.FLT_CNT_UNIT_COUNT : Fld := ⟨.flt, 0x88, 1, 0, 0, 48, .rw, 0⟩
/-- FLT.CNT_DEVICE.COUNT (R451). -/
def F.FLT_CNT_DEVICE_COUNT : Fld := ⟨.flt, 0x90, 1, 0, 0, 48, .rw, 0⟩
/-- FLT.CNT_FENSTOP.COUNT (R451). -/
def F.FLT_CNT_FENSTOP_COUNT : Fld := ⟨.flt, 0x98, 1, 0, 0, 48, .rw, 0⟩
/-- FLT.CNT_QUAG.COUNT (R451). -/
def F.FLT_CNT_QUAG_COUNT : Fld := ⟨.flt, 0xa0, 1, 0, 0, 48, .rw, 0⟩
/-- FLT.CNT_RECLAIM.COUNT (R451). -/
def F.FLT_CNT_RECLAIM_COUNT : Fld := ⟨.flt, 0xa8, 1, 0, 0, 48, .rw, 0⟩
/-- PCM.STATUS.FABGATED (R372). -/
def F.PCM_STATUS_FABGATED : Fld := ⟨.pcm, 0x0, 1, 0, 0, 5, .ro, 0⟩
/-- PCM.STATUS.FPLL_OFF (R372). -/
def F.PCM_STATUS_FPLL_OFF : Fld := ⟨.pcm, 0x0, 1, 0, 5, 1, .ro, 0⟩
/-- PCM.STATUS.THROTTLE (R372). -/
def F.PCM_STATUS_THROTTLE : Fld := ⟨.pcm, 0x0, 1, 0, 6, 1, .ro, 0⟩
/-- PCM.STATUS.DUTY (R372). -/
def F.PCM_STATUS_DUTY : Fld := ⟨.pcm, 0x0, 1, 0, 7, 6, .ro, 0⟩
/-- PCM.CTL.AVG_MS (R372). -/
def F.PCM_CTL_AVG_MS : Fld := ⟨.pcm, 0x8, 1, 0, 0, 8, .rw, 10⟩
/-- PCM.PLIMIT.WATTS (R372). -/
def F.PCM_PLIMIT_WATTS : Fld := ⟨.pcm, 0x10, 1, 0, 0, 16, .rw, 820⟩
/-- PCM.TLIMIT.DEGC (R372). -/
def F.PCM_TLIMIT_DEGC : Fld := ⟨.pcm, 0x18, 1, 0, 0, 8, .rw, 100⟩
/-- PCM.FAB_CFG.IDLE (R372). -/
def F.PCM_FAB_CFG_IDLE : Fld := ⟨.pcm, 0x20, 1, 0, 0, 32, .rw, 1024⟩
/-- PCM.HBM_CFG.IDLE (R372). -/
def F.PCM_HBM_CFG_IDLE : Fld := ⟨.pcm, 0x28, 1, 0, 0, 32, .rw, 100⟩
/-- PCM.POWER.MW (R372). -/
def F.PCM_POWER_MW : Fld := ⟨.pcm, 0x30, 1, 0, 0, 32, .ro, 0⟩
/-- PCM.RAIL.MW (R372). -/
def F.PCM_RAIL_MW : Fld := ⟨.pcm, 0x40, 16, 8, 0, 32, .ro, 0⟩
/-- PCM.TEMP.DEGC (R372). -/
def F.PCM_TEMP_DEGC : Fld := ⟨.pcm, 0xc0, 9, 8, 0, 8, .ro, 0⟩
/-- PCM.ENERGY.UJ (R372). -/
def F.PCM_ENERGY_UJ : Fld := ⟨.pcm, 0x140, 8, 8, 0, 64, .ro, 0⟩
/-- FEN.STATUS.STATE (R349). -/
def F.FEN_STATUS_STATE : Fld := ⟨.fen, 0x0, 1, 0, 0, 3, .ro, 0⟩
/-- FEN.STATUS.CAUSE (R349). -/
def F.FEN_STATUS_CAUSE : Fld := ⟨.fen, 0x0, 1, 0, 3, 4, .ro, 0⟩
/-- FEN.STATUS.RANK (R349). -/
def F.FEN_STATUS_RANK : Fld := ⟨.fen, 0x0, 1, 0, 8, 6, .ro, 0⟩
/-- FEN.STATUS.SIZE (R349). -/
def F.FEN_STATUS_SIZE : Fld := ⟨.fen, 0x0, 1, 0, 16, 7, .ro, 1⟩
/-- FEN.STATUS.FEPOCH (R349). -/
def F.FEN_STATUS_FEPOCH : Fld := ⟨.fen, 0x0, 1, 0, 32, 16, .ro, 0⟩
/-- FEN.STATUS.LEADER (R349). -/
def F.FEN_STATUS_LEADER : Fld := ⟨.fen, 0x0, 1, 0, 48, 6, .ro, 0⟩
/-- FEN.CTL.FORM (R349). -/
def F.FEN_CTL_FORM : Fld := ⟨.fen, 0x8, 1, 0, 0, 1, .wo, 0⟩
/-- FEN.CTL.DISSOLVE (R349). -/
def F.FEN_CTL_DISSOLVE : Fld := ⟨.fen, 0x8, 1, 0, 1, 1, .wo, 0⟩
/-- FEN.CTL.USE_PLAN (R349). -/
def F.FEN_CTL_USE_PLAN : Fld := ⟨.fen, 0x8, 1, 0, 2, 1, .rw, 0⟩
/-- FEN.CTL.FORM_WAIT (R349). -/
def F.FEN_CTL_FORM_WAIT : Fld := ⟨.fen, 0x8, 1, 0, 8, 8, .rw, 100⟩
/-- FEN.DEVID.DEVID (R349). -/
def F.FEN_DEVID_DEVID : Fld := ⟨.fen, 0x10, 1, 0, 0, 64, .ro, (Config.devid % 18446744073709551616)⟩
/-- FEN.MEMBERS.MASK (R349). -/
def F.FEN_MEMBERS_MASK : Fld := ⟨.fen, 0x18, 1, 0, 0, 64, .ro, 1⟩
/-- FEN.SHAPE.KIND (R349). -/
def F.FEN_SHAPE_KIND : Fld := ⟨.fen, 0x20, 1, 0, 0, 2, .ro, 0⟩
/-- FEN.SHAPE.DX (R349). -/
def F.FEN_SHAPE_DX : Fld := ⟨.fen, 0x20, 1, 0, 4, 4, .ro, 0⟩
/-- FEN.SHAPE.DY (R349). -/
def F.FEN_SHAPE_DY : Fld := ⟨.fen, 0x20, 1, 0, 8, 4, .ro, 0⟩
/-- FEN.SHAPE.DZ (R349). -/
def F.FEN_SHAPE_DZ : Fld := ⟨.fen, 0x20, 1, 0, 12, 4, .ro, 0⟩
/-- FEN.PLAN.DEVID (R349). -/
def F.FEN_PLAN_DEVID : Fld := ⟨.fen, 0x100, 64, 8, 0, 64, .rw, 0⟩
/-- FEN.PORTMAP.DIM (R349). -/
def F.FEN_PORTMAP_DIM : Fld := ⟨.fen, 0x300, 16, 8, 0, 2, .ro, 3⟩
/-- FEN.PORTMAP.DATELINE (R349). -/
def F.FEN_PORTMAP_DATELINE : Fld := ⟨.fen, 0x300, 16, 8, 2, 1, .ro, 0⟩
/-- FEN.PORTMAP.UPLINK (R349). -/
def F.FEN_PORTMAP_UPLINK : Fld := ⟨.fen, 0x300, 16, 8, 3, 1, .ro, 0⟩
/-- FEN.ROUTE.PORT (R349). -/
def F.FEN_ROUTE_PORT : Fld := ⟨.fen, 0x400, 64, 8, 0, 4, .ro, 0⟩
/-- FEN.ROUTE.PORT2 (R349). -/
def F.FEN_ROUTE_PORT2 : Fld := ⟨.fen, 0x400, 64, 8, 4, 4, .ro, 0⟩
/-- FEN.ROUTE.PAIR (R349). -/
def F.FEN_ROUTE_PAIR : Fld := ⟨.fen, 0x400, 64, 8, 8, 1, .ro, 0⟩
/-- FEN.ROUTE.VALID (R349). -/
def F.FEN_ROUTE_VALID : Fld := ⟨.fen, 0x400, 64, 8, 9, 1, .ro, 0⟩
/-- FEN.ROUTE.LOCAL (R349). -/
def F.FEN_ROUTE_LOCAL : Fld := ⟨.fen, 0x400, 64, 8, 10, 1, .ro, 0⟩
/-- FEN.RGRP_CFG.EN (R349). -/
def F.FEN_RGRP_CFG_EN : Fld := ⟨.fen, 0x800, 64, 16, 0, 1, .rw, 0⟩
/-- FEN.RGRP_CFG.ALLRED (R349). -/
def F.FEN_RGRP_CFG_ALLRED : Fld := ⟨.fen, 0x800, 64, 16, 1, 1, .rw, 0⟩
/-- FEN.RGRP_CFG.ROOT (R349). -/
def F.FEN_RGRP_CFG_ROOT : Fld := ⟨.fen, 0x800, 64, 16, 2, 6, .rw, 0⟩
/-- FEN.RGRP_MEM.MEMBERS (R349). -/
def F.FEN_RGRP_MEM_MEMBERS : Fld := ⟨.fen, 0x808, 64, 16, 0, 64, .rw, 0⟩
/-- FEN.INWIN_BASE.BASE (R349). -/
def F.FEN_INWIN_BASE_BASE : Fld := ⟨.fen, 0xc00, 16, 32, 0, 52, .rw, 0⟩
/-- FEN.INWIN_LIMIT.LIMIT (R349). -/
def F.FEN_INWIN_LIMIT_LIMIT : Fld := ⟨.fen, 0xc08, 16, 32, 0, 52, .rw, 0⟩
/-- FEN.INWIN_RANKS.RANKS (R349). -/
def F.FEN_INWIN_RANKS_RANKS : Fld := ⟨.fen, 0xc10, 16, 32, 0, 64, .rw, 0⟩
/-- FEN.INWIN_PERM.EN (R349). -/
def F.FEN_INWIN_PERM_EN : Fld := ⟨.fen, 0xc18, 16, 32, 0, 1, .rw, 0⟩
/-- FEN.INWIN_PERM.R (R349). -/
def F.FEN_INWIN_PERM_R : Fld := ⟨.fen, 0xc18, 16, 32, 1, 1, .rw, 0⟩
/-- FEN.INWIN_PERM.W (R349). -/
def F.FEN_INWIN_PERM_W : Fld := ⟨.fen, 0xc18, 16, 32, 2, 1, .rw, 0⟩
/-- FEN.INWIN_PERM.AMO (R349). -/
def F.FEN_INWIN_PERM_AMO : Fld := ⟨.fen, 0xc18, 16, 32, 3, 1, .rw, 0⟩
/-- FEN.CNT_REMREQ.COUNT (R349). -/
def F.FEN_CNT_REMREQ_COUNT : Fld := ⟨.fen, 0x1000, 1, 0, 0, 48, .rw, 0⟩
/-- FEN.CNT_REFUSED.COUNT (R349). -/
def F.FEN_CNT_REFUSED_COUNT : Fld := ⟨.fen, 0x1008, 1, 0, 0, 48, .rw, 0⟩
/-- FEN.CNT_TAGWAIT.COUNT (R349). -/
def F.FEN_CNT_TAGWAIT_COUNT : Fld := ⟨.fen, 0x1010, 1, 0, 0, 48, .rw, 0⟩
/-- FRV.STATUS.BOOT (R422). -/
def F.FRV_STATUS_BOOT : Fld := ⟨.frv, 0x0, 1, 0, 0, 2, .ro, 0⟩
/-- FRV.STATUS.SLOT (R422). -/
def F.FRV_STATUS_SLOT : Fld := ⟨.frv, 0x0, 1, 0, 2, 1, .ro, 0⟩
/-- FRV.STATUS.UPDATING (R422). -/
def F.FRV_STATUS_UPDATING : Fld := ⟨.frv, 0x0, 1, 0, 3, 1, .ro, 0⟩
/-- FRV.STATUS.SVN (R422). -/
def F.FRV_STATUS_SVN : Fld := ⟨.frv, 0x0, 1, 0, 8, 7, .ro, 0⟩
/-- FRV.STATUS.FUSESVN (R422). -/
def F.FRV_STATUS_FUSESVN : Fld := ⟨.frv, 0x0, 1, 0, 16, 7, .ro, 0⟩
/-- FRV.STATUS.SEQ (R422). -/
def F.FRV_STATUS_SEQ : Fld := ⟨.frv, 0x0, 1, 0, 32, 32, .ro, 0⟩
/-- FRV.FWVER.VER (R422). -/
def F.FRV_FWVER_VER : Fld := ⟨.frv, 0x8, 1, 0, 0, 64, .ro, 0⟩
/-- FRV.POLICY.SESSION (R422). -/
def F.FRV_POLICY_SESSION : Fld := ⟨.frv, 0x10, 1, 0, 0, 1, .ro, 0⟩
/-- FRV.ADDR.SMBADDR (R422). -/
def F.FRV_ADDR_SMBADDR : Fld := ⟨.frv, 0x18, 1, 0, 0, 7, .ro, (0x4E + Config.straps % 2)⟩
/-- FRV.ADDR.EID_SMB (R422). -/
def F.FRV_ADDR_EID_SMB : Fld := ⟨.frv, 0x18, 1, 0, 8, 8, .ro, 0⟩
/-- FRV.ADDR.EID_VDM (R422). -/
def F.FRV_ADDR_EID_VDM : Fld := ⟨.frv, 0x18, 1, 0, 16, 8, .ro, 0⟩
/-- FRV.MBX_CTL.GO (R422). -/
def F.FRV_MBX_CTL_GO : Fld := ⟨.frv, 0x20, 1, 0, 0, 1, .wo, 0⟩
/-- FRV.MBX_STATUS.BUSY (R422). -/
def F.FRV_MBX_STATUS_BUSY : Fld := ⟨.frv, 0x28, 1, 0, 0, 1, .ro, 0⟩
/-- FRV.MBX_STATUS.DONE (R422). -/
def F.FRV_MBX_STATUS_DONE : Fld := ⟨.frv, 0x28, 1, 0, 1, 1, .w1c, 0⟩
/-- FRV.MBX_STATUS.OVERRUN (R422). -/
def F.FRV_MBX_STATUS_OVERRUN : Fld := ⟨.frv, 0x28, 1, 0, 2, 1, .w1c, 0⟩
/-- FRV.MBX_REQ0.D (R422). -/
def F.FRV_MBX_REQ0_D : Fld := ⟨.frv, 0x40, 1, 0, 0, 64, .rw, 0⟩
/-- FRV.MBX_REQ1.D (R422). -/
def F.FRV_MBX_REQ1_D : Fld := ⟨.frv, 0x48, 1, 0, 0, 64, .rw, 0⟩
/-- FRV.MBX_RSP0.D (R422). -/
def F.FRV_MBX_RSP0_D : Fld := ⟨.frv, 0x50, 1, 0, 0, 64, .ro, 0⟩
/-- FRV.MBX_RSP1.D (R422). -/
def F.FRV_MBX_RSP1_D : Fld := ⟨.frv, 0x58, 1, 0, 0, 64, .ro, 0⟩
/-- FRV.LAST_FORCE.NS (R422). -/
def F.FRV_LAST_FORCE_NS : Fld := ⟨.frv, 0x60, 1, 0, 0, 64, .ro, 0⟩
/-- FRV.CNT_CMD.COUNT (R422). -/
def F.FRV_CNT_CMD_COUNT : Fld := ⟨.frv, 0x80, 1, 0, 0, 48, .rw, 0⟩
/-- FRV.CNT_STALE.COUNT (R422). -/
def F.FRV_CNT_STALE_COUNT : Fld := ⟨.frv, 0x88, 1, 0, 0, 48, .rw, 0⟩
/-- FRV.CNT_DROP.COUNT (R422). -/
def F.FRV_CNT_DROP_COUNT : Fld := ⟨.frv, 0x90, 1, 0, 0, 48, .rw, 0⟩
/-- FRV.USR.STATE (R422). -/
def F.FRV_USR_STATE : Fld := ⟨.frv, 0x100, 40, 8, 0, 3, .ro, 0⟩
/-- FRV.USR.LEASED (R422). -/
def F.FRV_USR_LEASED : Fld := ⟨.frv, 0x100, 40, 8, 3, 1, .ro, 0⟩
/-- FRV.USR.CAUSE (R422). -/
def F.FRV_USR_CAUSE : Fld := ⟨.frv, 0x100, 40, 8, 4, 4, .ro, 0⟩
/-- FRV.USR.OWNER (R422). -/
def F.FRV_USR_OWNER : Fld := ⟨.frv, 0x100, 40, 8, 8, 5, .ro, 0⟩
/-- FRV.USR.EPOCH (R422). -/
def F.FRV_USR_EPOCH : Fld := ⟨.frv, 0x100, 40, 8, 16, 16, .ro, 0⟩

/-- The TCC registers, each the list of its fields. -/
def regsTCC : List (List Fld) :=
  [[F.TCC_STATUS_MAIN_STATE, F.TCC_STATUS_MSG_STATE, F.TCC_STATUS_WALK_STATE, F.TCC_STATUS_SVC_STATE,
    F.TCC_STATUS_TRAP_ACTIVE, F.TCC_STATUS_DOUBLE_FAULT, F.TCC_STATUS_OPTRAPS],
   [F.TCC_CTL_ICINV, F.TCC_CTL_DBG_STOP],
   [F.TCC_PC_PC],
   [F.TCC_SVC_VEC_VEC],
   [F.TCC_TRAP_CAUSE_COPY],
   [F.TCC_TRAP_PC_COPY],
   [F.TCC_TRAP_OP_COPY],
   [F.TCC_TRAP_INFO_COPY],
   [F.TCC_CNT_ISSUE_S_COUNT],
   [F.TCC_CNT_ISSUE_T_COUNT],
   [F.TCC_CNT_STALL_TAG_COUNT],
   [F.TCC_CNT_TRAP_COUNT]]

/-- The TSC registers, each the list of its fields. -/
def regsTSC : List (List Fld) :=
  [[F.TSC_INFLIGHT_COUNT, F.TSC_INFLIGHT_WAITING, F.TSC_INFLIGHT_NEXT_TAG, F.TSC_INFLIGHT_HOLDS],
   [F.TSC_CTL_SERIAL],
   [F.TSC_TOKENS_SIGNALLED, F.TSC_TOKENS_ARMED],
   [F.TSC_TAGMAP_ALLOC],
   [F.TSC_PROG_SEL_TAG],
   [F.TSC_PROG_POS_POSITION, F.TSC_PROG_POS_PERMILLE],
   [F.TSC_PROG_TOTAL_TOTAL],
   [F.TSC_PROG_INFO_STATE, F.TSC_PROG_INFO_CLASS, F.TSC_PROG_INFO_OP, F.TSC_PROG_INFO_SEQ],
   [F.TSC_CNT_ISSUE_COUNT],
   [F.TSC_CNT_RETIRE_COUNT],
   [F.TSC_CNT_HAZARD_COUNT],
   [F.TSC_CNT_WAKE_COUNT]]

/-- The RB registers, each the list of its fields. -/
def regsRB : List (List Fld) :=
  [[F.RB_STATUS_BUSY, F.RB_STATUS_BANKA_STATE, F.RB_STATUS_BANKB_STATE, F.RB_STATUS_BANKA_MODE,
    F.RB_STATUS_BANKB_MODE, F.RB_STATUS_BIASA_VALID, F.RB_STATUS_BIASB_VALID, F.RB_STATUS_PANEL_VALID,
    F.RB_STATUS_SHADOW_FULL, F.RB_STATUS_LANDED, F.RB_STATUS_QUEUED],
   [F.RB_CTL_LX_TRAP],
   [F.RB_LX_STATUS_VALID, F.RB_LX_STATUS_COUNT],
   [F.RB_LX_OP_TAG, F.RB_LX_OP_DESC, F.RB_LX_OP_IADDR],
   [F.RB_LX_COORD_ROW, F.RB_LX_COORD_COL],
   [F.RB_CNT_PASS_COUNT],
   [F.RB_CNT_ROW_COUNT],
   [F.RB_CNT_STALL_PANEL_COUNT],
   [F.RB_CNT_STALL_DRAIN_COUNT],
   [F.RB_CNT_ACC_OVF_COUNT],
   [F.RB_LPT_CRC_CRC]]

/-- The VSU registers, each the list of its fields. -/
def regsVSU : List (List Fld) :=
  [[F.VSU_ARITH_CTL_NAN_MODE, F.VSU_ARITH_CTL_NAN_CAPTURE],
   [F.VSU_NAN_STATUS_VALID, F.VSU_NAN_STATUS_HALTED, F.VSU_NAN_STATUS_FEN_STOP, F.VSU_NAN_STATUS_CLASS,
    F.VSU_NAN_STATUS_UNIT, F.VSU_NAN_STATUS_NAN_COUNT],
   [F.VSU_NAN_OP_TAG, F.VSU_NAN_OP_DESC, F.VSU_NAN_OP_IADDR],
   [F.VSU_NAN_COORD01_C0, F.VSU_NAN_COORD01_C1],
   [F.VSU_NAN_COORD23_C2, F.VSU_NAN_COORD23_C3],
   [F.VSU_NAN_TIME_TIME_NS],
   [F.VSU_NAN_RESUME_GO],
   [F.VSU_CNT_UNDERFLOW_COUNT],
   [F.VSU_CNT_SAT_COUNT],
   [F.VSU_CNT_INF_COUNT],
   [F.VSU_CNT_ZERO_BLOCK_COUNT],
   [F.VSU_CNT_NAN_BLOCK_COUNT],
   [F.VSU_SSTAT_BASE_EN, F.VSU_SSTAT_BASE_PA]]

/-- The SFU registers, each the list of its fields. -/
def regsSFU : List (List Fld) :=
  [[F.SFU_STATUS_BUSY, F.SFU_STATUS_QUEUED],
   [F.SFU_RANGE_STATUS_VALID, F.SFU_RANGE_STATUS_COUNT],
   [F.SFU_RANGE_OP_TAG, F.SFU_RANGE_OP_DESC, F.SFU_RANGE_OP_IADDR],
   [F.SFU_RANGE_POS_ROW, F.SFU_RANGE_POS_COL],
   [F.SFU_SLOT_STATE_STATE, F.SFU_SLOT_STATE_OWNER, F.SFU_SLOT_STATE_EPOCH],
   [F.SFU_SLOT_INFO_TABLE_ID, F.SFU_SLOT_INFO_CRC],
   [F.SFU_PROG_VALID_VALID],
   [F.SFU_ROM_CRC_BUILTIN, F.SFU_ROM_CRC_COMPAT],
   [F.SFU_CNT_RESULT_COUNT],
   [F.SFU_CNT_RANGE_COUNT]]

/-- The KVE registers, each the list of its fields. -/
def regsKVE : List (List Fld) :=
  [[F.KVE_STATUS_BUSY, F.KVE_STATUS_QUEUED, F.KVE_STATUS_WALKING, F.KVE_STATUS_DQ_COUNT],
   [F.KVE_STAB_BASE_PA],
   [F.KVE_POOL_BASE_PA],
   [F.KVE_POOL_CFG_FSTRIDE, F.KVE_POOL_CFG_COUNT],
   [F.KVE_PRT_BASE_PA],
   [F.KVE_SCRATCH_VA],
   [F.KVE_SCRATCH_LEN_BYTES],
   [F.KVE_FREE_BASE_PA],
   [F.KVE_FREE_CFG_ENTRIES],
   [F.KVE_FREE_PROD_PROD],
   [F.KVE_FREE_CONS_CONS],
   [F.KVE_ERR_VALID, F.KVE_ERR_CAUSE, F.KVE_ERR_TAG, F.KVE_ERR_SEQ, F.KVE_ERR_COUNT],
   [F.KVE_ERR_INFO_INFO],
   [F.KVE_CNT_KEYS_COUNT],
   [F.KVE_CNT_APPEND_COUNT],
   [F.KVE_CNT_COW_COUNT],
   [F.KVE_CNT_DESC_COUNT],
   [F.KVE_CNT_FREE_STALL_COUNT]]

/-- The LEP registers, each the list of its fields. -/
def regsLEP : List (List Fld) :=
  [[F.LEP_STATUS_MSG_BUSY, F.LEP_STATUS_MSGQ, F.LEP_STATUS_SBUF_FREE],
   [F.LEP_CTL_DSTOP],
   [F.LEP_QREC_STATUS_VALID, F.LEP_QREC_STATUS_CAUSE, F.LEP_QREC_STATUS_QUEUE, F.LEP_QREC_STATUS_COUNT],
   [F.LEP_QREC_HDR_SRC, F.LEP_QREC_HDR_SEQ],
   [F.LEP_CNT_SENT_COUNT],
   [F.LEP_CNT_RECV_COUNT],
   [F.LEP_CNT_NOCREDIT_COUNT],
   [F.LEP_CNT_QUAG_COUNT],
   [F.LEP_CNT_UNHANDLED_COUNT],
   [F.LEP_CHAN_CFG_EN, F.LEP_CHAN_CFG_LOCAL, F.LEP_CHAN_CFG_RESP, F.LEP_CHAN_CFG_QUEUE, F.LEP_CHAN_CFG_TILE,
    F.LEP_CHAN_CFG_FRANK, F.LEP_CHAN_CFG_RANK, F.LEP_CHAN_CFG_RESPQ, F.LEP_CHAN_CFG_MAXLEN],
   [F.LEP_CHAN_CRED_ALLOT, F.LEP_CHAN_CRED_AVAIL, F.LEP_CHAN_CRED_STATE, F.LEP_CHAN_CRED_CAUSE,
    F.LEP_CHAN_CRED_EPOCH],
   [F.LEP_Q_BASE_VA],
   [F.LEP_Q_CFG_EN, F.LEP_Q_CFG_MODE, F.LEP_Q_CFG_RESP, F.LEP_Q_CFG_MERGE, F.LEP_Q_CFG_ORDERED, F.LEP_Q_CFG_RANK,
    F.LEP_Q_CFG_SLOTS, F.LEP_Q_CFG_CAP],
   [F.LEP_Q_STATUS_STATE, F.LEP_Q_STATUS_COUNT, F.LEP_Q_STATUS_ALLOTTED, F.LEP_Q_STATUS_EPOCH],
   [F.LEP_Q_USE_FREE, F.LEP_Q_USE_HELD, F.LEP_Q_USE_RESERVED],
   [F.LEP_GRP_CFG_EN, F.LEP_GRP_CFG_COUNT, F.LEP_GRP_CFG_RANK, F.LEP_GRP_CFG_MAXLEN, F.LEP_GRP_CFG_ALLOT],
   [F.LEP_GRP_STATE_AVAIL, F.LEP_GRP_STATE_STATE, F.LEP_GRP_STATE_CAUSE],
   [F.LEP_MEMBER_QUEUE0, F.LEP_MEMBER_TILE0, F.LEP_MEMBER_FRANK0, F.LEP_MEMBER_LOCAL0, F.LEP_MEMBER_QUEUE1,
    F.LEP_MEMBER_TILE1, F.LEP_MEMBER_FRANK1, F.LEP_MEMBER_LOCAL1],
   [F.LEP_HT_VALID, F.LEP_HT_ENTRY],
   [F.LEP_MSRC_VALID0, F.LEP_MSRC_TILE0, F.LEP_MSRC_FRANK0, F.LEP_MSRC_CHAN0, F.LEP_MSRC_MC0, F.LEP_MSRC_VALID1,
    F.LEP_MSRC_TILE1, F.LEP_MSRC_FRANK1, F.LEP_MSRC_CHAN1, F.LEP_MSRC_MC1]]

/-- The TMU registers, each the list of its fields. -/
def regsTMU : List (List Fld) :=
  [[F.TMU_CTL_EN],
   [F.TMU_ROOT_PA],
   [F.TMU_INV_SCOPE, F.TMU_INV_VA],
   [F.TMU_INV_LEN_PAGES],
   [F.TMU_INV_STATUS_BUSY, F.TMU_INV_STATUS_OVERRUN],
   [F.TMU_FAULT_STATUS_VALID, F.TMU_FAULT_STATUS_CAUSE, F.TMU_FAULT_STATUS_WRITE, F.TMU_FAULT_STATUS_FETCH,
    F.TMU_FAULT_STATUS_OPER, F.TMU_FAULT_STATUS_TAG, F.TMU_FAULT_STATUS_COUNT],
   [F.TMU_FAULT_VA_VA, F.TMU_FAULT_VA_LEVEL],
   [F.TMU_CNT_MISS_COUNT],
   [F.TMU_CNT_WALK_COUNT],
   [F.TMU_MEM_CE_PEAT, F.TMU_MEM_CE_MERE],
   [F.TMU_MEM_UE_PEAT, F.TMU_MEM_UE_MERE]]

/-- The TDM registers, each the list of its fields. -/
def regsTDM : List (List Fld) :=
  [[F.TDM_STATUS_BUSY, F.TDM_STATUS_DESC],
   [F.TDM_ERR_VALID, F.TDM_ERR_CAUSE, F.TDM_ERR_HOST, F.TDM_ERR_TAG, F.TDM_ERR_COUNT],
   [F.TDM_ERR_ADDR_ADDR, F.TDM_ERR_ADDR_PHYS],
   [F.TDM_CNT_BYTES_COUNT],
   [F.TDM_POOL_INFLIGHT]]

/-- The TPC registers, each the list of its fields. -/
def regsTPC : List (List Fld) :=
  [[F.TPC_STATUS_STATE, F.TPC_STATUS_ENTERING, F.TPC_STATUS_WAKING, F.TPC_STATUS_MEMWAKE, F.TPC_STATUS_CMDREJ],
   [F.TPC_CTL_DOZE_IDLE, F.TPC_CTL_NAP_IDLE, F.TPC_CTL_SLEEP_IDLE, F.TPC_CTL_MAXDEPTH],
   [F.TPC_CMD_OP],
   [F.TPC_CNT_WAKE_COUNT],
   [F.TPC_CNT_SLEEP_US_COUNT],
   [F.TPC_CNT_NAP_US_COUNT],
   [F.TPC_CNT_RUN_US_COUNT],
   [F.TPC_CNT_THROTTLE_COUNT]]

/-- The HIU registers, each the list of its fields. -/
def regsHIU : List (List Fld) :=
  [[F.HIU_CHIP_REV_REV],
   [F.HIU_FUNC_FN, F.HIU_FUNC_TILES],
   [F.HIU_TIME_NOW_NS],
   [F.HIU_TIME_NOW_FRAC_FRAC],
   [F.HIU_EVT_STATUS_RING_ERR, F.HIU_EVT_STATUS_BAR2_REFUSED, F.HIU_EVT_STATUS_DB_IGNORED, F.HIU_EVT_STATUS_FLT],
   [F.HIU_EVT_CFG_VEC, F.HIU_EVT_CFG_EN],
   [F.HIU_BAR2_BASE_PA],
   [F.HIU_CNT_CMD_COUNT],
   [F.HIU_HWIN_CFG_EN, F.HIU_HWIN_CFG_NOSNOOP, F.HIU_HWIN_CFG_RELAX, F.HIU_HWIN_CFG_OFF, F.HIU_HWIN_CFG_PAGES],
   [F.HIU_HWIN_HOST_HADDR],
   [F.HIU_RING_BASE_PA],
   [F.HIU_RING_CFG_EN, F.HIU_RING_CFG_LOG2SIZE, F.HIU_RING_CFG_VEC, F.HIU_RING_CFG_IRQ_COUNT,
    F.HIU_RING_CFG_IRQ_DELAY],
   [F.HIU_CQ_BASE_PA],
   [F.HIU_RING_STATUS_STATE, F.HIU_RING_STATUS_RESETTING, F.HIU_RING_STATUS_ERRCAUSE, F.HIU_RING_STATUS_CONS],
   [F.HIU_CQ_HEAD_HEAD],
   [F.HIU_CQ_TAIL_TAIL, F.HIU_CQ_TAIL_RES],
   [F.HIU_RING_PROG_SEL_SEQ],
   [F.HIU_RING_PROG_POS_POSITION, F.HIU_RING_PROG_POS_PERMILLE, F.HIU_RING_PROG_POS_STATE],
   [F.HIU_RING_PROG_TOTAL_TOTAL],
   [F.HIU_RING_CTL_RESET],
   [F.HIU_DOORBELL_PROD],
   [F.HIU_PART_CFG_EN, F.HIU_PART_CFG_FEN, F.HIU_PART_CFG_TILES],
   [F.HIU_PART_STATUS_ERR],
   [F.HIU_PART_HBM0_V, F.HIU_PART_HBM0_STACK, F.HIU_PART_HBM0_FIRST, F.HIU_PART_HBM0_COUNT],
   [F.HIU_PART_HBM1_V, F.HIU_PART_HBM1_STACK, F.HIU_PART_HBM1_FIRST, F.HIU_PART_HBM1_COUNT],
   [F.HIU_PART_HBM2_V, F.HIU_PART_HBM2_STACK, F.HIU_PART_HBM2_FIRST, F.HIU_PART_HBM2_COUNT],
   [F.HIU_PART_HBM3_V, F.HIU_PART_HBM3_STACK, F.HIU_PART_HBM3_FIRST, F.HIU_PART_HBM3_COUNT],
   [F.HIU_PART_HBM4_V, F.HIU_PART_HBM4_STACK, F.HIU_PART_HBM4_FIRST, F.HIU_PART_HBM4_COUNT],
   [F.HIU_PART_HBM5_V, F.HIU_PART_HBM5_STACK, F.HIU_PART_HBM5_FIRST, F.HIU_PART_HBM5_COUNT],
   [F.HIU_PART_HBM6_V, F.HIU_PART_HBM6_STACK, F.HIU_PART_HBM6_FIRST, F.HIU_PART_HBM6_COUNT],
   [F.HIU_PART_HBM7_V, F.HIU_PART_HBM7_STACK, F.HIU_PART_HBM7_FIRST, F.HIU_PART_HBM7_COUNT]]

/-- The CWP registers, each the list of its fields. -/
def regsCWP : List (List Fld) :=
  [[F.CWP_CTL_EN, F.CWP_CTL_PROFILE, F.CWP_CTL_ALLOW_X4, F.CWP_CTL_RETRAIN],
   [F.CWP_STATUS_STATE, F.CWP_STATUS_X4, F.CWP_STATUS_HALF, F.CWP_STATUS_PEERV, F.CWP_STATUS_LANEOK,
    F.CWP_STATUS_PEER_PORT],
   [F.CWP_PEER_DEVID_DEVID],
   [F.CWP_CNT_TXFLIT_COUNT],
   [F.CWP_CNT_RXFLIT_COUNT],
   [F.CWP_CNT_REPLAY_COUNT],
   [F.CWP_CNT_BADFLIT_COUNT],
   [F.CWP_CNT_FEC_CE_COUNT],
   [F.CWP_CNT_FEC_UE_COUNT],
   [F.CWP_CNT_RETRAIN_COUNT],
   [F.CWP_CNT_TIMEDROP_COUNT],
   [F.CWP_LANE_LOCK, F.CWP_LANE_PRECODE, F.CWP_LANE_SYMERR],
   [F.CWP_VC_TXCRED0, F.CWP_VC_TXCRED1, F.CWP_VC_RXFREE0, F.CWP_VC_RXFREE1]]

/-- The HMC registers, each the list of its fields. -/
def regsHMC : List (List Fld) :=
  [[F.HMC_STATUS_STATE, F.HMC_STATUS_TEMP],
   [F.HMC_CTL_SCRUB_EN, F.HMC_CTL_SCRUB_HOURS],
   [F.HMC_CNT_CE_COUNT],
   [F.HMC_CNT_UE_COUNT],
   [F.HMC_UE_ADDR_PA],
   [F.HMC_CNT_RD_BYTES],
   [F.HMC_CNT_WR_BYTES]]

/-- The TBU registers, each the list of its fields. -/
def regsTBU : List (List Fld) :=
  [[F.TBU_CTL_TMPRIO],
   [F.TBU_STATUS_MASTER, F.TBU_STATUS_SERVO, F.TBU_STATUS_PPSSTATE, F.TBU_STATUS_SETREJ, F.TBU_STATUS_MRANK,
    F.TBU_STATUS_PPORT, F.TBU_STATUS_DEPTH, F.TBU_STATUS_ERRBND],
   [F.TBU_NOW_NS_NS],
   [F.TBU_NOW_FRAC_FRAC],
   [F.TBU_SET_NS_NS],
   [F.TBU_SET_FRAC_FRAC],
   [F.TBU_INC_INC],
   [F.TBU_SYNC_CFG_PERIOD, F.TBU_SYNC_CFG_STEP_NS, F.TBU_SYNC_CFG_DGUARD],
   [F.TBU_PPS_CFG_IN_EN, F.TBU_PPS_CFG_OUT_EN, F.TBU_PPS_CFG_GATE, F.TBU_PPS_CFG_WIDTH],
   [F.TBU_PPSIN_ADJ_ADJ],
   [F.TBU_PPSOUT_ADJ_ADJ],
   [F.TBU_REF10M_CFG_EN, F.TBU_REF10M_CFG_ADJ],
   [F.TBU_PPSIN_TS_NS],
   [F.TBU_LAST_X_THETA, F.TBU_LAST_X_DELAY],
   [F.TBU_ASYM_ASYM],
   [F.TBU_CNT_EXCH_COUNT],
   [F.TBU_CNT_LOSTX_COUNT],
   [F.TBU_CNT_REJECT_COUNT],
   [F.TBU_CNT_STEP_COUNT],
   [F.TBU_CNT_PPSREJ_COUNT]]

/-- The FLT registers, each the list of its fields. -/
def regsFLT : List (List Fld) :=
  [[F.FLT_STATUS_FENSTOP, F.FLT_STATUS_FENCING, F.FLT_STATUS_FENCES, F.FLT_STATUS_LOG_PROD],
   [F.FLT_CTL_FENSTOP_CLR, F.FLT_CTL_HB_MISS, F.FLT_CTL_HB_US],
   [F.FLT_FAILMAP_UNITS],
   [F.FLT_FENFAIL_RANKS],
   [F.FLT_LOG_SEL_INDEX],
   [F.FLT_LOG_D_D],
   [F.FLT_LREG_BASE_PA],
   [F.FLT_LREG_CFG_COUNT, F.FLT_LREG_CFG_EN],
   [F.FLT_INJECT_CODE, F.FLT_INJECT_UNIT, F.FLT_INJECT_GO],
   [F.FLT_CNT_OP_COUNT],
   [F.FLT_CNT_UNIT_COUNT],
   [F.FLT_CNT_DEVICE_COUNT],
   [F.FLT_CNT_FENSTOP_COUNT],
   [F.FLT_CNT_QUAG_COUNT],
   [F.FLT_CNT_RECLAIM_COUNT]]

/-- The PCM registers, each the list of its fields. -/
def regsPCM : List (List Fld) :=
  [[F.PCM_STATUS_FABGATED, F.PCM_STATUS_FPLL_OFF, F.PCM_STATUS_THROTTLE, F.PCM_STATUS_DUTY],
   [F.PCM_CTL_AVG_MS],
   [F.PCM_PLIMIT_WATTS],
   [F.PCM_TLIMIT_DEGC],
   [F.PCM_FAB_CFG_IDLE],
   [F.PCM_HBM_CFG_IDLE],
   [F.PCM_POWER_MW],
   [F.PCM_RAIL_MW],
   [F.PCM_TEMP_DEGC],
   [F.PCM_ENERGY_UJ]]

/-- The FEN registers, each the list of its fields. -/
def regsFEN : List (List Fld) :=
  [[F.FEN_STATUS_STATE, F.FEN_STATUS_CAUSE, F.FEN_STATUS_RANK, F.FEN_STATUS_SIZE, F.FEN_STATUS_FEPOCH,
    F.FEN_STATUS_LEADER],
   [F.FEN_CTL_FORM, F.FEN_CTL_DISSOLVE, F.FEN_CTL_USE_PLAN, F.FEN_CTL_FORM_WAIT],
   [F.FEN_DEVID_DEVID],
   [F.FEN_MEMBERS_MASK],
   [F.FEN_SHAPE_KIND, F.FEN_SHAPE_DX, F.FEN_SHAPE_DY, F.FEN_SHAPE_DZ],
   [F.FEN_PLAN_DEVID],
   [F.FEN_PORTMAP_DIM, F.FEN_PORTMAP_DATELINE, F.FEN_PORTMAP_UPLINK],
   [F.FEN_ROUTE_PORT, F.FEN_ROUTE_PORT2, F.FEN_ROUTE_PAIR, F.FEN_ROUTE_VALID, F.FEN_ROUTE_LOCAL],
   [F.FEN_RGRP_CFG_EN, F.FEN_RGRP_CFG_ALLRED, F.FEN_RGRP_CFG_ROOT],
   [F.FEN_RGRP_MEM_MEMBERS],
   [F.FEN_INWIN_BASE_BASE],
   [F.FEN_INWIN_LIMIT_LIMIT],
   [F.FEN_INWIN_RANKS_RANKS],
   [F.FEN_INWIN_PERM_EN, F.FEN_INWIN_PERM_R, F.FEN_INWIN_PERM_W, F.FEN_INWIN_PERM_AMO],
   [F.FEN_CNT_REMREQ_COUNT],
   [F.FEN_CNT_REFUSED_COUNT],
   [F.FEN_CNT_TAGWAIT_COUNT]]

/-- The FRV registers, each the list of its fields. -/
def regsFRV : List (List Fld) :=
  [[F.FRV_STATUS_BOOT, F.FRV_STATUS_SLOT, F.FRV_STATUS_UPDATING, F.FRV_STATUS_SVN, F.FRV_STATUS_FUSESVN,
    F.FRV_STATUS_SEQ],
   [F.FRV_FWVER_VER],
   [F.FRV_POLICY_SESSION],
   [F.FRV_ADDR_SMBADDR, F.FRV_ADDR_EID_SMB, F.FRV_ADDR_EID_VDM],
   [F.FRV_MBX_CTL_GO],
   [F.FRV_MBX_STATUS_BUSY, F.FRV_MBX_STATUS_DONE, F.FRV_MBX_STATUS_OVERRUN],
   [F.FRV_MBX_REQ0_D],
   [F.FRV_MBX_REQ1_D],
   [F.FRV_MBX_RSP0_D],
   [F.FRV_MBX_RSP1_D],
   [F.FRV_LAST_FORCE_NS],
   [F.FRV_CNT_CMD_COUNT],
   [F.FRV_CNT_STALE_COUNT],
   [F.FRV_CNT_DROP_COUNT],
   [F.FRV_USR_STATE, F.FRV_USR_LEASED, F.FRV_USR_CAUSE, F.FRV_USR_OWNER, F.FRV_USR_EPOCH]]

/-- The registers of a block. -/
def blockRegs : Blk → List (List Fld)
  | .tcc => regsTCC
  | .tsc => regsTSC
  | .rb => regsRB
  | .vsu => regsVSU
  | .sfu => regsSFU
  | .kve => regsKVE
  | .lep => regsLEP
  | .tmu => regsTMU
  | .tdm => regsTDM
  | .tpc => regsTPC
  | .hiu => regsHIU
  | .cwp => regsCWP
  | .hmc => regsHMC
  | .tbu => regsTBU
  | .flt => regsFLT
  | .pcm => regsPCM
  | .fen => regsFEN
  | .frv => regsFRV

end Sys2Proof.Machine
end

