-- ==== Sys2Proof/Machine/TileState.lean ====
section
/-! DEFINITION. The state one Carr holds beside its registers: threads, traps, operations, Reedbed, SFU, TMU, TDM and
jobs (chapters 4 to 9 and 15). -/
namespace Sys2Proof.Machine

/-! ### Threads and traps (chapter 7) -/

/-- Thread states of Table 7-2. -/
inductive ThState where
  | idle | ready | stall | trap | parked | halted
  deriving DecidableEq, Repr

/-- Codes of Table 7-2. -/
def ThState.code : ThState → Nat
  | .idle => 0 | .ready => 1 | .stall => 2 | .trap => 3 | .parked => 4 | .halted => 5

/-- What a STALL thread waits for: its instruction is sent again, or sent again for want of a free tag, an operation retires, a page walk
returns, a remote memory answers, or it has answered and the instruction is sent again. -/
inductive Wait where
  | none
  | retry
  | noTag
  | sync
  | tag (seq : Nat)
  | walk
  | remote
  | answered
  deriving DecidableEq, Repr

/-- One hardware thread. -/
structure Thread where
  st : ThState
  prev : ThState
  wait : Wait
  pc : Nat
  g : SMap Word
  p : BitVec 8
  instret : Nat
  hsteps : Nat
  timeFrac : Nat
  deriving DecidableEq, Repr

/-- A thread after tile reset. -/
def Thread.reset : Thread := ⟨.idle, .idle, .none, 0, [], 0#8, 0, 0, 0⟩

/-- A closed interval of tile virtual addresses (R167). -/
structure Ivl where
  lo : Nat
  hi : Nat
  deriving DecidableEq, Repr

/-- A raised trap (Table 7-13): `kind` 0 synchronous, 1 issue, 2 operation; `seq` and the captured values serve REISSUE; `held` says
that a trap hold stands for it (R199); `stale` that the unit of work that raised it has ended. -/
structure Trap where
  cause : Nat
  kind : Nat
  thread : Nat
  tag : Nat
  desc : Nat
  pc : Nat
  retpc : Nat
  info : Nat
  insn : Nat
  seq : Nat
  descs : List DReg
  held : Bool
  stale : Bool
  deriving DecidableEq, Repr

/-- The trap CSRs of Table 7-15 and SVC's saved state. -/
structure TrapCsr where
  cause : Nat
  pc : Nat
  op : Nat
  info : Nat
  retpc : Nat
  insn : Vector Nat 4
  epc : Nat
  action : Option Nat
  svcPrev : ThState
  walkEntry : Nat
  deriving DecidableEq, Repr

/-- Reset values of Table 7-15. -/
def TrapCsr.reset : TrapCsr := ⟨0, 0, 0, 0, 0, Vector.replicate 4 0, 0, none, .idle, 0⟩

/-! ### Tensor operations (chapters 7 and 8) -/

/-- The tagged tensor operations of Tables 7-8 and 7-9. -/
inductive TOp where
  | mmPass | mmPreload | mmDrain
  | vsAdd | vsSub | vsMul | vsDiv | vsMax | vsMin | vsNeg | vsAbs | vsHalve | vsDouble | vsScale | vsCmp | vsSel | vsCvt
  | vsRsum | vsStatpick
  | sfEval | sfLoad | sfPload | sfRnorm | sfSmax
  | mvCopy | mvFill | mvGather | mvTrans
  | kvSeqset | kvAppend | kvGather | kvAttn | kvFork | kvRelease
  | ldSend | ldMcast | ldRecv | ldTreduce
  | syNop | syFence | syWake | ctSync | ctWaittag | ctTag
  deriving DecidableEq, Repr

/-- CLASS of Table 7-6. -/
def TOp.cls : TOp → Nat
  | .mmPass | .mmPreload | .mmDrain => 0
  | .vsAdd | .vsSub | .vsMul | .vsDiv | .vsMax | .vsMin | .vsNeg | .vsAbs | .vsHalve | .vsDouble | .vsScale | .vsCmp
  | .vsSel | .vsCvt | .vsRsum | .vsStatpick => 1
  | .sfEval | .sfLoad | .sfPload | .sfRnorm | .sfSmax => 2
  | .mvCopy | .mvFill | .mvGather | .mvTrans => 3
  | .kvSeqset | .kvAppend | .kvGather | .kvAttn | .kvFork | .kvRelease => 4
  | .ldSend | .ldMcast | .ldRecv | .ldTreduce => 5
  | .syNop | .syFence | .syWake => 6
  | .ctSync | .ctWaittag | .ctTag => 7

/-- OP within the class. -/
def TOp.num : TOp → Nat
  | .mmPass => 0 | .mmPreload => 1 | .mmDrain => 2
  | .vsAdd => 0 | .vsSub => 1 | .vsMul => 2 | .vsDiv => 3 | .vsMax => 4 | .vsMin => 5 | .vsNeg => 6 | .vsAbs => 7
  | .vsHalve => 8 | .vsDouble => 9 | .vsScale => 10 | .vsCmp => 11 | .vsSel => 12 | .vsCvt => 13 | .vsRsum => 14
  | .vsStatpick => 15
  | .sfEval => 0 | .sfLoad => 1 | .sfPload => 2 | .sfRnorm => 3 | .sfSmax => 4
  | .mvCopy => 0 | .mvFill => 1 | .mvGather => 2 | .mvTrans => 3
  | .kvSeqset => 0 | .kvAppend => 1 | .kvGather => 2 | .kvAttn => 3 | .kvFork => 4 | .kvRelease => 5
  | .ldSend => 0 | .ldMcast => 1 | .ldRecv => 2 | .ldTreduce => 3
  | .syNop => 0 | .syFence => 1 | .syWake => 2
  | .ctSync => 0 | .ctWaittag => 1 | .ctTag => 2

/-- Tag states of Table 8-1 (FREE is a tag with no record). -/
inductive OpSt where
  | wait | wake | queued | run | ack
  deriving DecidableEq, Repr

/-- Codes of Table 8-1. -/
def OpSt.code : OpSt → Nat
  | .wait => 1 | .wake => 2 | .queued => 3 | .run => 4 | .ack => 5

/-- A tagged operation: what issue captured (R169), the sequence numbers it waits for through footprints and holds (`deps`)
and through tokens and fences (`tdeps`; R188, R192, R194), its effect's progress (R200), the acknowledgements still due
(R195), a trap it could not raise yet (R178), whether it has left a trap hold, and the job status it ends with. -/
structure OpRec where
  op : TOp
  tag : Nat
  st : OpSt
  ready : Bool
  seq : Nat
  insn : Nat
  iaddr : Nat
  d : List DReg
  ga : Word
  gb : Word
  reads : List Ivl
  writes : List Ivl
  deps : List Nat
  tdeps : List Nat
  stok : Nat
  pos : Nat
  total : Nat
  acks : Nat
  trap : Option Trap
  trapped : Bool
  status : Nat
  phase : Nat
  work : List Nat
  deriving DecidableEq, Repr

/-- A HALT_TILE or Fen stop in force: the recorded operation's sequence number and record (R77, R78). -/
structure NanStop where
  seq : Nat
  op : Option OpRec
  deriving DecidableEq, Repr

/-- The progress record a retired tag keeps (R200). -/
structure ProgRec where
  op : TOp
  seq : Nat
  total : Nat
  deriving DecidableEq, Repr

/-- A trap hold (R199): the intervals and the sequence number of the faulted operation. -/
structure Hold where
  seq : Nat
  tag : Nat
  reads : List Ivl
  writes : List Ivl
  forever : Bool
  deriving DecidableEq, Repr

/-! ### Reedbed (chapter 4) -/

/-- An accumulator bank: state, mode, extent, entries by row * 32 + column, and bias vector. -/
structure Bank where
  valid : Bool
  long : Bool
  m : Nat
  n : Nat
  entries : SMap Entry
  bias : List (Cls × Dy)
  biasValid : Bool
  deriving DecidableEq, Repr

/-- A bank after tile reset (R105). -/
def Bank.reset : Bank := ⟨false, false, 0, 0, [], [], false⟩

/-- A weight panel: shape, and per position (k, n) at k * 32 + n the value read and its block scale byte. -/
structure Panel where
  seq : Nat
  k : Nat
  n : Nat
  fmt : Fmt
  tso : Int
  cells : List (Val × Nat)
  deriving DecidableEq, Repr

/-- The shape and format a panel is latched with. -/
structure PanelShape where
  k : Nat
  n : Nat
  fmt : Fmt
  deriving DecidableEq, Repr

/-- What earlier MM operations will leave of a bank when they have all run (R96). -/
structure BankFuture where
  valid : Bool
  long : Bool
  bias : Bool
  m : Nat
  n : Nat
  deriving DecidableEq, Repr

/-- The Reedbed: banks, the three panel stages, and the state the TSC checks at issue. -/
structure Reedbed where
  banks : Vector Bank 2
  landing : List Panel
  shadow : Option Panel
  active : Option Panel
  future : Vector BankFuture 2
  futurePanel : Option PanelShape
  deriving DecidableEq, Repr

/-- After tile reset, Sleep or Off (R105). -/
def Reedbed.reset : Reedbed :=
  ⟨Vector.replicate 2 .reset, [], none, none, Vector.replicate 2 ⟨false, false, false, 0, 0⟩, none⟩

/-! ### TMU and TDM (chapter 9) -/

/-- A cached translation: page base, page size as a power of two, physical base and permissions. -/
structure TlbEnt where
  va : Nat
  lg : Nat
  pa : Nat
  r : Bool
  w : Bool
  x : Bool
  deriving DecidableEq, Repr

/-- A cached table pointer: the table of `level` - 1 for the addresses that share VA bits above the level's index. -/
structure WcEnt where
  level : Nat
  va : Nat
  pa : Nat
  deriving DecidableEq, Repr

/-- The kinds of access the TMU checks (R220). -/
inductive AccK where
  | read | write | atomic | fetch
  deriving DecidableEq, Repr

/-- A page walk in progress for a scalar access: the next table, its level, and the waiting threads, each with its address and
whether it writes. -/
structure Walk where
  va : Nat
  level : Nat
  table : Nat
  waiters : List (Nat × Nat × Bool)
  deriving DecidableEq, Repr

/-- Who owns a TDM descriptor in flight: an MV operation, a COPY, the checkpoint engine, with the block it moves once started, or a KV
operation, whose page copies are done within its step. -/
inductive TdmOwner where
  | mv (seq : Nat)
  | copy (fn ring seq : Nat)
  | ck (block : Option Nat)
  | kv (seq : Nat)
  deriving DecidableEq, Repr

/-- A TDM descriptor in flight (Table 9-4) and its progress: whether it has started, the blocks landed, and a failure: a cause of
Table 9-8, with the failing address, what answers of other ranks have refused so far as cause and lowest address, and the blocks it ends after when its command was ended (R401). -/
structure TdmDesc where
  id : Nat
  engine : Nat
  owner : TdmOwner
  src : Nat
  dst : Nat
  rowLen : Nat
  rows : Nat
  flags : Nat
  sstride : Nat
  dstride : Nat
  caddr : Nat
  cval : Nat
  started : Bool
  landed : Nat
  failed : Option Nat
  failAt : Nat
  bad : Option (Nat × Nat)
  cut : Option Nat
  deriving DecidableEq, Repr

/-! ### Power (R364 to R368) -/

/-- The TPC beside its registers: the state an entry in progress leads to, and the wakes asked for and not yet complete: of the
whole tile, or of its memory only (R366, R367). -/
structure Tpc where
  target : Nat
  full : Bool
  mem : Bool
  deriving DecidableEq, Repr

/-- No entry and no wake in progress. -/
def Tpc.reset : Tpc := ⟨0, false, false⟩

/-! ### Jobs (R161, R386) -/

/-- A queued LAUNCH on a tile; `asked` says that its argument has been asked for from another rank, `bad` the cause the answer gave. -/
structure Job where
  fn : Nat
  ring : Nat
  seq : Nat
  entry : Nat
  arg : Nat
  argLen : Nat
  asked : Bool
  bad : Option Nat
  deriving DecidableEq, Repr

/-- The running job: whether MAIN has ended, and the status facts of R395 in order. -/
structure CurJob where
  job : Job
  ended : Bool
  halt : Option Nat
  cause : Option Nat
  trapPc : Nat
  mismatch : Bool
  abort : Bool
  retired : Nat
  deriving DecidableEq, Repr

/-- Why the tile has stopped issuing: nothing, a NaN or Fen stop (R77, R78), or a HALT action (Table 7-14). -/
inductive HaltK where
  | none | nan | trap
  deriving DecidableEq, Repr

end Sys2Proof.Machine
end

