-- ==== Sys2Proof/Machine/LodeState.lean ====
section
/-! DEFINITION. Lode state (chapter 10): queues, held messages, group credits and what is in flight between LEPs. -/
namespace Sys2Proof.Machine

/-- Where a slot's message stands: written into the slot (R255), appended to the FIFO, or taken and held. -/
inductive SlotSt where
  | written | appended | held
  deriving DecidableEq, Repr

/-- A channel (or a group, when `grp`) of a tile of a Fen rank, as the sender of messages and the holder of credits. -/
structure Peer where
  rank : Nat
  tile : Nat
  grp : Bool
  num : Nat
  deriving DecidableEq, Repr

/-- A queue of a tile of a Fen rank. -/
structure QRef where
  rank : Nat
  tile : Nat
  queue : Nat
  deriving DecidableEq, Repr

/-- A used receive slot: its 32-byte header as an integer (Table 10-2), the holder of its credit, and whether it lies in a
response reservation. -/
structure Slot where
  hdr : Nat
  src : Peer
  resp : Bool
  st : SlotSt
  deriving DecidableEq, Repr

/-- Where an enabled queue's ring lies (R242): a device physical base, or an offset in the local store. -/
inductive RingAt where
  | mem (pa : Nat)
  | store (off : Nat)
  deriving DecidableEq, Repr

/-- An allotment a queue has granted (R251) and the SEQ of its holder's latest appended message (R434). -/
structure Allot where
  src : Peer
  n : Nat
  last : Option Nat
  deriving DecidableEq, Repr

/-- A response reservation (R253): the request's channel and SEQ, its responder, and the slot once the response has one. -/
structure Resv where
  chan : Nat
  seq : Nat
  rank : Nat
  tile : Nat
  slot : Option Nat
  deriving DecidableEq, Repr

/-- A receive queue's storage: the ring, the used slots, slots written and not yet appended in order of writing, the FIFO,
the dispatches it was passed over (R259), the allotments, the reservations, and for an ORDERED merge queue how many
messages of each listed source have been appended (R266); whether Q_BASE was last written with an RSV bit set (R242). -/
structure LepQueue where
  ring : Option RingAt
  slots : SMap Slot
  landed : List Nat
  fifo : List Nat
  passed : Nat
  allots : List Allot
  resv : List Resv
  rounds : SMap Nat
  baseRsv : Bool
  deriving DecidableEq, Repr

/-- A queue that is OFF. -/
def LepQueue.off : LepQueue := ⟨none, [], [], [], 0, [], [], [], false⟩

/-- A message a thread holds (R247, R261, R263), and whether it has been replied to (R249). -/
structure Held where
  queue : Nat
  slot : Nat
  replied : Bool
  deriving DecidableEq, Repr

/-- A message of a tensor operation on its way to its receive queue (Table 8-4): the channel or group and SEQ that name it, the queue,
and the operation's sequence number. -/
structure SentMsg where
  src : Peer
  seq : Nat
  q : QRef
  op : Nat
  deriving DecidableEq, Repr

/-- An LEP's state beside its registers: queues, next message numbers, credits per group member (group * 64 + member), what each
member has answered (0 granted, c + 1 refused with cause c), messages threads hold, the list position each thread selected last, the threads that wait
in LODE.SELECT with their queues, longest wait first, and the operations' messages not yet placed in a queue. -/
structure Lep where
  queues : SMap LepQueue
  chanSeq : SMap Nat
  grpSeq : SMap Nat
  grpCred : SMap Nat
  grpGrant : SMap Nat
  held : SMap Held
  selLast : SMap Nat
  selWait : List (Nat × List Nat)
  sent : List SentMsg
  deriving DecidableEq, Repr

/-- After tile reset or Off (R271). -/
def Lep.reset : Lep := ⟨[], [], [], [], [], [], [], [], []⟩

/-- What travels between LEPs: messages for a queue (header, payload, poisoned or not, the credit's holder, and the
sequence number of the operation that sent it), returned
credits, grant requests and replies, returned allotments, and notices that a message of a SEQ stands in its queue. -/
inductive NetMsg where
  | msg (hdr : Nat) (payload : List Byte) (poison : Bool) (src : Peer) (op : Option Nat)
  | credit (src : Peer) (q : QRef)
  | grantReq (src : Peer) (q : QRef) (crank allot : Nat)
  | grantRep (src : Peer) (q : QRef) (cause : Option Nat) (epoch : Nat)
  | allotRet (src : Peer) (q : QRef)
  | placed (src : Peer) (q : QRef) (seq : Nat)
  deriving DecidableEq, Repr

/-- A partial row from another rank on the combiner path (R114, R347): the group's descriptor, mode and extent, `elems` for
LODE.TREDUCE (0 for a bank), the sender's group configuration, and the REDUCE message's payload (Table 5-3). -/
structure PartRow where
  rank : Nat
  rgd : Nat
  m : Nat
  n : Nat
  long : Bool
  elems : Nat
  cfg : Nat
  row : Nat
  payload : List Byte
  deriving DecidableEq, Repr

/-- A tile's part of a reduction group: the operation that sent it, as issued, its RGD, extent, mode and the payloads of its REDUCE
messages, one a row. -/
structure CombPart where
  tile : Nat
  op : OpRec
  rgd : Nat
  m : Nat
  n : Nat
  long : Bool
  elems : Nat
  rows : List (List Byte)
  deriving DecidableEq, Repr

/-- A combiner slot (R113 to R123): its lease epoch; the RGD of the group that holds the slot, and with it the credits of the whole
group; the group's parts, and parts that wait (R121); rows from other ranks; combined rows not yet encoded; rows combined at this
device's nodes, rows of the whole tree come to its encoder, and rows encoded; whether an encoded entry had LONG_INEXACT, whether the
participants have their acknowledgement, and whether the last row is written. Of a group that ended under R122 or R123: the status, the
tiles whose part has come, and the ranks whose notice of the end is awaited. -/
structure CombSlot where
  epoch : Nat
  rgd : Option Nat
  parts : List CombPart
  wait : List CombPart
  far : List PartRow
  got : SMap (List Entry)
  done : List Nat
  top : List Nat
  enc : List Nat
  lx : Bool
  acked : Bool
  closing : Bool
  fail : Option Nat
  seen : List Nat
  ends : List Nat
  deriving DecidableEq, Repr

/-- A free slot of epoch 0. -/
def CombSlot.reset : CombSlot := ⟨0, none, [], [], [], [], [], [], [], false, false, false, none, [], []⟩

end Sys2Proof.Machine
end

