-- ==== Sys2Proof/Machine/FenState.lean ====
section
/-! DEFINITION. Causeway state (chapter 13): flits, packets, ports, remote requests, and Fen formation. -/
namespace Sys2Proof.Machine

/-- Who waits for a write, a remote request or a held write: nobody yet, a thread (with the access's tile virtual address and
its instruction's address), a tensor operation, a TDM descriptor, the checkpoint job, a command of a function's ring, or a read
of n bytes through a function's BAR2. -/
inductive Who where
  | none
  | scalar (t h va pc : Nat)
  | op (t seq : Nat)
  | tdm (t id : Nat)
  | ckpt
  | cmd (fn ring seq : Nat)
  | bar2 (fn n : Nat)
  deriving DecidableEq, Repr

/-- A memory header (Table 13-5); `n` is LEN + 1, and `rsv` says that an RSV bit is set. -/
structure MemHdr where
  mop : Nat
  status : Nat
  n : Nat
  tag : Nat
  addr : Nat
  rsv : Bool
  deriving DecidableEq, Repr

/-- MOP codes. -/
abbrev mopRd : Nat := 0
/-- Write. -/
abbrev mopWr : Nat := 1
/-- Atomic add. -/
abbrev mopAdd : Nat := 2
/-- Atomic swap. -/
abbrev mopSwap : Nat := 3
/-- Atomic compare and swap. -/
abbrev mopCas : Nat := 4
/-- Read response. -/
abbrev mopRdRsp : Nat := 8
/-- Write acknowledgement. -/
abbrev mopWrAck : Nat := 9
/-- Atomic response. -/
abbrev mopAmoRsp : Nat := 10

/-- The Fenreeve and FLT messages of the MGMT virtual channel. -/
inductive MgmtKind where
  | hello | assign | assignAck | commit | notice | heartbeat | fenceDone | fenStop | flr
  deriving DecidableEq, Repr

/-- A packet's content (Table 13-3): a unit between LEPs, a memory request or response, a partial row, an encoded row as (element,
code, scale or low code), the end of a group with a status, a message of Fenreeve and the FLT, or bytes that are none of these. -/
inductive Pkt where
  | lode (m : NetMsg)
  | mem (h : MemHdr) (data : List Byte) (poison : Bool)
  | red (r : PartRow)
  | encoded (rgd row : Nat) (cells : List (Nat × Nat × Nat))
  | redEnd (rgd status : Nat)
  | mgmt (kind : MgmtKind) (data : List Nat)
  | raw (bytes : List Byte)
  deriving DecidableEq, Repr

/-- FTYPE (Table 13-2). -/
inductive FType where
  | data | idle | linkid | time | reserved
  deriving DecidableEq, Repr

/-- A flit's fields (Table 13-2): up to two credit returns as (virtual channel, class, flits), and the payload's bytes. -/
structure Flit where
  vc : Nat
  sop : Bool
  eop : Bool
  poison : Bool
  dl : Nat
  plen : Nat
  drank : Nat
  srank : Nat
  ftype : FType
  seq : Nat
  ack : Nat
  ackv : Bool
  nak : Bool
  creds : List (Nat × Nat × Nat)
  payload : List Byte
  deriving DecidableEq, Repr

/-- A packet waiting at an output port, `sent` of its flits already sent. -/
structure TxPkt where
  pkt : Pkt
  vc : Nat
  drank : Nat
  srank : Nat
  dl : Nat
  poison : Bool
  sent : Nat
  deriving DecidableEq, Repr

/-- A DATA flit of the retry window, with the packet it ends. -/
structure WinFlit where
  flit : Flit
  pkt : Option TxPkt
  deriving DecidableEq, Repr

/-- A whole packet received and not yet performed or forwarded; it fills `bytes` of its buffer. -/
structure RxPkt where
  port : Nat
  vc : Nat
  dl : Nat
  drank : Nat
  srank : Nat
  poison : Bool
  bytes : Nat
  pkt : Pkt
  deriving DecidableEq, Repr

/-- A packet partly received on a virtual channel. -/
structure RxPart where
  dl : Nat
  drank : Nat
  srank : Nat
  poison : Bool
  bytes : List Byte
  flits : Nat
  deriving DecidableEq, Repr

/-- A port beside its registers: TIME flits ready, packets waiting, the retry window (oldest first), the position the replay
has reached in it, how often its oldest SEQ was replayed, the next SEQ, the rotation (virtual channel and flits left of its
weight), the next SEQ expected, whether it discards until the replay, good flits not acknowledged, a NAK due, the credits the
peer holds by virtual channel * 2 + class, packets partly received by virtual channel, training attempts used, whether a retrain
is still quick, whether the peer is known. Of the codeword pairs (R327): the next PSEQ, the scrambler's last 58 bits, the flits of
the pair being sent, the place in its pair of the next flit to come in, and whether either codeword of that pair did not decode. -/
structure Port where
  time : List (List Nat)
  queue : List TxPkt
  window : List WinFlit
  replay : Option Nat
  replays : Nat
  txSeq : Nat
  rotVc : Nat
  rotLeft : Nat
  rxSeq : Nat
  rxSeen : Bool
  rxBad : Bool
  owed : Nat
  nakDue : Bool
  peerCred : SMap Nat
  parts : SMap RxPart
  attempts : Nat
  quick : Bool
  linkid : Bool
  pseq : Nat
  scram : Nat
  pair : List (BitVec 2048)
  rxPos : Nat
  rxUe : Bool × Bool
  deriving DecidableEq, Repr

/-- A port after cold reset; the first PSEQ is 0, and the scrambler's bits are all 1 (DESIGN CHOICE, unsafe, log entry 46). -/
def Port.reset : Port :=
  { time := [], queue := [], window := [], replay := none, replays := 0, txSeq := 0, rotVc := 0, rotLeft := 0, rxSeq := 0, rxSeen := false
    rxBad := false, owed := 0, nakDue := false, peerCred := [], parts := [], attempts := 0, quick := false, linkid := false
    pseq := 0, scram := 2 ^ 58 - 1, pair := [], rxPos := 0, rxUe := (false, false) }

/-- A memory request to another rank, in flight or waiting for a tag (R344). -/
structure RemReq where
  who : Who
  mop : Nat
  addr : Nat
  n : Nat
  rank : Nat
  data : List Byte
  bulk : Bool
  deriving DecidableEq, Repr

/-- A HELLO heard (R338): the sender's DEVID, FEPOCH and TMPRIO, the DEVIDs it has heard, and the peer DEVID and peer port of each UP
port as (port, DEVID, peer port). -/
structure Hello where
  devid : Nat
  fepoch : Nat
  prio : Nat
  heard : List Nat
  links : List (Nat × Nat × Nat)
  deriving DecidableEq, Repr

/-- A route entry: PORT, PORT2, PAIR, VALID, LOCAL, how many hops the route has, and a mask of the ports whose far devices' routes to that
rank begin over the link. -/
structure RouteEnt where
  port : Nat
  port2 : Nat
  pair : Bool
  valid : Bool
  isLocal : Bool
  hops : Nat
  kids : Nat
  deriving DecidableEq, Repr

/-- What the leader sends a member (R338): its rank, the size, the members, SHAPE, PORTMAP entries and ROUTE entries, and the
leader's rank. -/
structure Assignment where
  devid : Nat
  rank : Nat
  size : Nat
  members : Nat
  shape : Nat
  dx : Nat
  dy : Nat
  dz : Nat
  portmap : List (Nat × Bool × Bool)
  routes : List RouteEnt
  leader : Nat
  deriving DecidableEq, Repr

/-- Formation: HELLOs heard, whether this device leads, DEVIDs that have acknowledged, the members' plan, by rank the hops and
the ports of the children in its time tree (R354), and the assignments, acknowledgements and COMMIT passed on, by kind and DEVID. -/
structure FenForm where
  hellos : List Hello
  leads : Bool
  acks : List Nat
  plan : List Assignment
  hops : List Nat
  kids : List Nat
  relayed : List (Nat × Nat)
  deriving DecidableEq, Repr

/-- No formation in progress. -/
def FenForm.none : FenForm := ⟨[], false, [], [], [], [], []⟩

/-- What a write does at its memory: bytes put; n added to a 48-bit saturating counter or a value applied to a CURMAX word, each as one
atomic update (R306); n added to a 64-bit word (R388); or the poison of a granule that a tensor operation has written whole cleared (R214, R230). -/
inductive MemUpd where
  | put (bytes : List Byte)
  | add (n : Nat)
  | addw (n : Nat)
  | curmax (m : Int)
  | clear
  deriving DecidableEq, Repr

/-- A write held by a checkpoint (R319), performed at its release. -/
structure HeldWrite where
  fn : Nat
  pa : Nat
  upd : MemUpd
  who : Who
  deriving DecidableEq, Repr

end Sys2Proof.Machine
end

