-- ==== Sys2Proof/Syntax.lean ====
section
/-! DEFINITION. The commands of the block: operand types and the one inductive of commands. -/
namespace Sys2Proof

/-- The four hardware threads of a Carr (Table 7-1). -/
inductive Thr where
  | main | msg | walk | svc
  deriving DecidableEq, Repr

/-- The operand fields of a format R instruction (Table 7-4); class and FN are the mnemonic's. -/
structure RArgs where
  gd : BitVec 6
  ga : BitVec 6
  gb : BitVec 6
  x : BitVec 5
  deriving DecidableEq, Repr

/-- The operand fields of a format I instruction. -/
structure IArgs where
  gd : BitVec 6
  ga : BitVec 6
  imm : BitVec 13
  deriving DecidableEq, Repr

/-- The operand fields of a format B instruction. -/
structure BArgs where
  p : BitVec 3
  n : Bool
  off : BitVec 22
  deriving DecidableEq, Repr

/-- The fields of a Psirra-T instruction (Table 7-5); CLASS and OP are the mnemonic's. -/
structure TArgs where
  pg : BitVec 4
  d0 : BitVec 6
  d1 : BitVec 6
  d2 : BitVec 6
  d3 : BitVec 6
  rc : BitVec 3
  seed : BitVec 16
  wtok : BitVec 5
  stok : BitVec 5
  ga : BitVec 6
  gb : BitVec 6
  xf : BitVec 48
  deriving DecidableEq, Repr

/-- What a memory finds in a granule it reads: nothing wrong, one bit (corrected), or more (R213, R214). -/
inductive MemErr where
  | none | single | multi
  deriving DecidableEq, Repr

/-- The atomic operations a memory performs (R235). -/
inductive AmoOp where
  | add | swap | cas | max
  deriving DecidableEq, Repr

/-- Configuration-space items of Table 15-1 (R374, R381, R235, R397, R402). -/
inductive CfgItem where
  | d3hot | ats | atomicOp | vfEnable | numVfs | ari | bar2Size | vfBar2Size | maxPayload | maxReadRequest | aerStatus | msixEnable
  | msixMask (vec : Fin 64) | other
  deriving DecidableEq, Repr

/-- How the completion of a read from host memory fails (R374, Table 15-1). -/
inductive CplErr where
  | poisoned | unsupported | abort
  deriving DecidableEq, Repr

/-- Where a management message came from (Table 16-1). -/
inductive Origin where
  | smb | vdm
  deriving DecidableEq, Repr

/-- What an MCTP message carries beside its content: its origin, the SPDM session it is secured in, whether it passes its transport's
integrity check, and whether its message type is one of Table 16-2 (R406, R407). -/
structure MReq where
  origin : Origin
  session : Option Nat
  good : Bool
  known : Bool
  deriving DecidableEq, Repr

/-- A unit command (Table 16-6): the one the mailbox submitted, or one in an MCTP message, with its fields and whether an RSV bit is set. -/
inductive UReq where
  | mbx
  | mctp (m : MReq) (unit : BitVec 8) (expect : BitVec 16) (arg : BitVec 32) (rsv : Bool)
  deriving DecidableEq, Repr

/-- What a failure notice names (R427, R428, R430): a rank, a unit of the sender, or a function of the sender. -/
inductive Notice where
  | rank (d : Nat)
  | unit (u : Nat)
  | fn (f : Nat)
  deriving DecidableEq, Repr

/-- The commands of the block: one constructor per row of the opcode table. -/
inductive Instr where
  /-- REGISTER_WRITE (R5): A BAR0 write to a register field with no row of its own takes effect according to the field's access code. -/
  | registerWrite (fn : Fin 32) (off : Nat) (width : Nat) (val : BitVec 64)
  /-- PCIE_CONFIG_REQUEST (R465): The HIU answers a PCI Express configuration request, independently of Fenreeve. -/
  | pcieConfigRequest (fn : Fin 32) (item : CfgItem) (val : Option Nat)
  /-- DOORBELL (R383): A doorbell write carries PROD for a ring; it is ignored, accepted, or puts the ring in ERR. -/
  | doorbell (fn : Fin 32) (r : Fin 64) (prod : BitVec 32)
  /-- COMMAND_FETCH (R384): The HIU receives one ring command whole and checks it against the function's assignment and the format rules. -/
  | commandFetch (fn : Fin 32) (r : Fin 64) (fail : Option CplErr)
  /-- LAUNCH (R386): A started LAUNCH command is checked and placed in the launch queue of every named tile. -/
  | launch (fn : Fin 32) (r : Fin 64)
  /-- COPY (R387): A started COPY command runs as one physically addressed TDM descriptor on the named engine. -/
  | copy (fn : Fin 32) (r : Fin 64)
  /-- SIGNAL (R388): A started SIGNAL command writes VALUE to ADDR or adds it there atomically. -/
  | signal (fn : Fin 32) (r : Fin 64)
  /-- WAIT (R389): A started WAIT command reads ADDR once and holds later commands of its ring until COND holds. -/
  | wait (fn : Fin 32) (r : Fin 64)
  /-- WAIT_POLL (R389): On its poll interval a WAIT re-reads ADDR and completes with OK when the value satisfies COND. -/
  | waitPoll (fn : Fin 32) (r : Fin 64)
  /-- WAIT_TIMEOUT (R389): TIMEOUT microseconds pass before COND holds, and the WAIT completes with WAIT_TIMEOUT. -/
  | waitTimeout (fn : Fin 32) (r : Fin 64)
  /-- CHECKPOINT (R318): A started CHECKPOINT reads its CKD and begins the copy of the named regions with a copy-before-write shadow. -/
  | checkpoint (fn : Fin 32) (r : Fin 64)
  /-- RESTORE (R324): A started RESTORE checks the image header against the CKD and copies each region back with CRC checks. -/
  | restore (fn : Fin 32) (r : Fin 64)
  /-- FENCE (R391): A FENCE command holds later commands of its ring until every earlier command has completed. -/
  | fence (fn : Fin 32) (r : Fin 64)
  /-- JOB_START (R161): Once a tile's previous job has completed, the HIU copies the LAUNCH arguments and MAIN starts at ENTRY. -/
  | jobStart (t : Fin 8)
  /-- JOB_COMPLETE (R161): A tile's job completes once every operation has retired, every trap is handled and no trap hold remains. -/
  | jobComplete (t : Fin 8)
  /-- IRQ_DELAY_EXPIRY (R397): IRQ_DELAY microseconds pass after a pending record and the ring's vector is sent. -/
  | irqDelayExpiry (fn : Fin 32) (r : Fin 64)
  /-- RING_ENABLE (R382): Writing RING_CFG.EN = 1 makes a ring READY or puts it in ERR with cause BASE. -/
  | ringEnable (fn : Fin 32) (r : Fin 64) (val : BitVec 64)
  /-- RING_DISABLE (R401): Writing RING_CFG.EN = 0 puts a ring in DRAINING until every started command has written its record. -/
  | ringDisable (fn : Fin 32) (r : Fin 64) (val : BitVec 64)
  /-- RING_RESET (R401): Writing RING_CTL.RESET ends every started command of the ring with ABORTED or CK_ABORT. -/
  | ringReset (fn : Fin 32) (r : Fin 64)
  /-- CQ_HEAD_WRITE (R393): Software writes CQ_HEAD to consume records, freeing completion slots or putting the ring in ERR. -/
  | cqHeadWrite (fn : Fin 32) (r : Fin 64) (val : BitVec 32)
  /-- RING_PROG_SEL_WRITE (R398): Writing a SEQ to RING_PROG_SEL latches that command's state, position, total and per-mille. -/
  | ringProgSelWrite (fn : Fin 32) (r : Fin 64) (val : BitVec 32)
  /-- TIME_NOW_READ (R399): A read of HIU.TIME_NOW returns the TBU count and latches the fraction for the reading function. -/
  | timeNowRead (fn : Fin 32)
  /-- PART_ENABLE (R378): Writing PART_CFG.EN = 1 applies a VF partition when it is valid, or sets PART_STATUS.ERR. -/
  | partEnable (f : Fin 32) (val : BitVec 64)
  /-- PART_DISABLE (R378): Writing PART_CFG.EN = 0 removes a VF partition unless the VF has a ring READY or RESETTING. -/
  | partDisable (f : Fin 32) (val : BitVec 64)
  /-- BAR2_ACCESS (R379): A host BAR2 access reaches device memory at BAR2_BASE plus offset, or is refused. -/
  | bar2Access (fn : Fin 32) (off len : Nat) (data : Option (List Byte))
  /-- FUNCTION_LEVEL_RESET (R402): An FLR ends the function's commands without records, resets its tiles and reclaims its leases. -/
  | functionLevelReset (fn : Fin 32)
  /-- ATS_INVALIDATION_REQUEST (R381): The HIU completes an ATS Invalidation Request once accesses using the removed translations are acknowledged. -/
  | atsInvalidationRequest (fn : Fin 32) (addr len : Nat)
  /-- ATS_TRANSLATION_COMPLETION (R381): An ATS translation completion arrives and is cached in the ATC, or gives ACCESS when refused. -/
  | atsTranslationCompletion (fn : Fin 32) (page : Nat) (host : Option Nat) (writable : Bool)
  /-- OPERATION_LEAVE_WAIT (R190): An operation's last dependency, token signaller or fence has retired and it leaves WAIT. -/
  | operationLeaveWait (t : Fin 8) (tag : BitVec 8)
  /-- OPERATION_LEAVE_WAKE (R202): Every wake target of an operation has reached Run and it leaves WAKE. -/
  | operationLeaveWake (t : Fin 8) (tag : BitVec 8)
  /-- OPERATION_DISPATCH (R196): The TSC dispatches the oldest ready operation of a class into its unit's queue. -/
  | operationDispatch (t : Fin 8) (cls : BitVec 3)
  /-- OPERATION_RETIRE (R187): Three cycles after its last effect an operation retires and its tag becomes FREE. -/
  | operationRetire (t : Fin 8) (tag : BitVec 8)
  /-- HELD_TRAP_RAISE (R178): An operation held because 16 traps were pending raises its trap once SVC has applied an action. -/
  | heldTrapRaise (t : Fin 8)
  /-- WRITE_ACKNOWLEDGE (R195): A write's acknowledgement arrives from its target memory, port or HIU. -/
  | writeAcknowledge (t : Fin 8) (tag : BitVec 8)
  /-- PROG_SEL_WRITE (R201): Writing a tag to TSC.PROG_SEL latches that tag's progress snapshot. -/
  | progSelWrite (t : Fin 8) (val : BitVec 64)
  /-- TRAP_TAKE (R179): SVC takes the oldest pending trap, fills the trap CSRs and continues at TRAP_VEC, or END applies when TRAP_VEC is zero. -/
  | trapTake (t : Fin 8)
  /-- NAN_RESUME_GO (R79): Writing VSU.NAN_RESUME.GO resumes a halted tile unless VALID, a Fen stop or a HALT action persists. -/
  | nanResumeGo (t : Fin 8)
  /-- TCC_ICINV (R183): Writing TCC.CTL.ICINV invalidates the instruction cache. -/
  | tccIcinv (t : Fin 8)
  /-- MM_PASS (R82): MM.PASS streams A against the weight panel into a bank, and drains it when LAST = 1. -/
  | mmPass (t : Fin 8) (th : Thr) (a : TArgs)
  /-- MM_PRELOAD (R95): MM.PRELOAD writes a residual into a bank or loads its bias vector. -/
  | mmPreload (t : Fin 8) (th : Thr) (a : TArgs)
  /-- MM_DRAIN (R99): MM.DRAIN encodes a bank to DST or sends it to the combiner without a pass. -/
  | mmDrain (t : Fin 8) (th : Thr) (a : TArgs)
  /-- PANEL_FETCH (R85): The Reedbed issues a pass's panel fetch once a landing slot is free. -/
  | panelFetch (t : Fin 8)
  /-- PANEL_TO_SHADOW (R85): A whole landed panel moves to the shadow once the shadow is empty. -/
  | panelToShadow (t : Fin 8)
  /-- PASS_START (R87): A pass starts once its panel is whole in the shadow, which becomes the active panel. -/
  | passStart (t : Fin 8)
  /-- COMBINER_ROW (R120): A partial row arrives at a combiner node and is combined once its sibling row is present. -/
  | combinerRow (slot : Fin 16) (row : Nat)
  /-- SF_EVAL (R129): SF.EVAL applies a table, built-in or micro-program function elementwise. -/
  | sfEval (t : Fin 8) (th : Thr) (a : TArgs)
  /-- SF_LOAD (R134): SF.LOAD writes a table record into a slot or rejects it, leaving the slot INVALID. -/
  | sfLoad (t : Fin 8) (th : Thr) (a : TArgs)
  /-- SF_PLOAD (R141): SF.PLOAD loads a micro-program image when it is well formed. -/
  | sfPload (t : Fin 8) (th : Thr) (a : TArgs)
  /-- SF_RNORM (R146): SF.RNORM normalises each row by its root mean square. -/
  | sfRnorm (t : Fin 8) (th : Thr) (a : TArgs)
  /-- SF_SMAX (R148): SF.SMAX computes the soft maximum of each row in RANGE, ONLINE or FROMSTAT mode. -/
  | sfSmax (t : Fin 8) (th : Thr) (a : TArgs)
  /-- VS_ADD (R66): VS.ADD adds two tensors by Gaussian-logarithm addition. -/
  | vsAdd (t : Fin 8) (th : Thr) (a : TArgs)
  /-- VS_SUB (R66): VS.SUB subtracts two tensors by Gaussian-logarithm addition. -/
  | vsSub (t : Fin 8) (th : Thr) (a : TArgs)
  /-- VS_MUL (R72): VS.MUL multiplies two tensors by code addition. -/
  | vsMul (t : Fin 8) (th : Thr) (a : TArgs)
  /-- VS_DIV (R72): VS.DIV divides two tensors by code subtraction. -/
  | vsDiv (t : Fin 8) (th : Thr) (a : TArgs)
  /-- VS_MAX (R72): VS.MAX takes the elementwise maximum. -/
  | vsMax (t : Fin 8) (th : Thr) (a : TArgs)
  /-- VS_MIN (R72): VS.MIN takes the elementwise minimum. -/
  | vsMin (t : Fin 8) (th : Thr) (a : TArgs)
  /-- VS_NEG (R28): VS.NEG negates each element, leaving zero and NaN unchanged. -/
  | vsNeg (t : Fin 8) (th : Thr) (a : TArgs)
  /-- VS_ABS (R28): VS.ABS takes each element's magnitude, leaving zero and NaN unchanged. -/
  | vsAbs (t : Fin 8) (th : Thr) (a : TArgs)
  /-- VS_HALVE (R72): VS.HALVE takes the square root by halving the code. -/
  | vsHalve (t : Fin 8) (th : Thr) (a : TArgs)
  /-- VS_DOUBLE (R72): VS.DOUBLE squares by doubling the code. -/
  | vsDouble (t : Fin 8) (th : Thr) (a : TArgs)
  /-- VS_SCALE (R173): VS.SCALE adds OCT/128 octaves to each exponent exactly, then applies range rules. -/
  | vsScale (t : Fin 8) (th : Thr) (a : TArgs)
  /-- VS_CMP (R73): VS.CMP writes 1.0 where the condition holds, with NaN unordered. -/
  | vsCmp (t : Fin 8) (th : Thr) (a : TArgs)
  /-- VS_SEL (R173): VS.SEL selects D1 or D2 elementwise by D3. -/
  | vsSel (t : Fin 8) (th : Thr) (a : TArgs)
  /-- VS_CVT (R46): VS.CVT converts between log and IEEE formats. -/
  | vsCvt (t : Fin 8) (th : Thr) (a : TArgs)
  /-- VS_RSUM (R112): VS.RSUM forms row sums in the fixed lane tree. -/
  | vsRsum (t : Fin 8) (th : Thr) (a : TArgs)
  /-- VS_STATPICK (R308): VS.STATPICK commits a Scale Statistics interval and chooses the next TSO. -/
  | vsStatpick (t : Fin 8) (th : Thr) (a : TArgs)
  /-- MV_COPY (R46): MV.COPY converts or byte-copies a tensor through a TDM engine. -/
  | mvCopy (t : Fin 8) (th : Thr) (a : TArgs)
  /-- MV_FILL (R173): MV.FILL writes one code, and for L8 one scale, into every element. -/
  | mvFill (t : Fin 8) (th : Thr) (a : TArgs)
  /-- MV_GATHER (R174): MV.GATHER copies rows selected by an index vector, writing NaN for out-of-range indices. -/
  | mvGather (t : Fin 8) (th : Thr) (a : TArgs)
  /-- MV_TRANS (R43): MV.TRANS exchanges dimensions 0 and 1, re-encoding L8 blocks. -/
  | mvTrans (t : Fin 8) (th : Thr) (a : TArgs)
  /-- KV_SEQSET (R285): KV.SEQSET copies a record into a FREE sequence table entry and makes it LIVE. -/
  | kvSeqset (t : Fin 8) (th : Thr) (a : TArgs)
  /-- KV_APPEND (R286): KV.APPEND writes new latent rows and then the new LEN. -/
  | kvAppend (t : Fin 8) (th : Thr) (a : TArgs)
  /-- KV_GATHER (R287): KV.GATHER copies latent rows of a sequence into a tensor. -/
  | kvGather (t : Fin 8) (th : Thr) (a : TArgs)
  /-- KV_ATTN (R294): KV.ATTN computes attention of query rows against the visible keys of a sequence. -/
  | kvAttn (t : Fin 8) (th : Thr) (a : TArgs)
  /-- KV_FORK (R288): KV.FORK gives a child sequence the parent's pages by reference. -/
  | kvFork (t : Fin 8) (th : Thr) (a : TArgs)
  /-- KV_RELEASE (R289): KV.RELEASE drops a sequence's page references and makes the entry FREE. -/
  | kvRelease (t : Fin 8) (th : Thr) (a : TArgs)
  /-- WALK_REQUEST (R278): The KVE passes a walk request to WALK, which starts a walker. -/
  | walkRequest (t : Fin 8)
  /-- LODE_SEND (R245): LODE.SEND sends a tensor's bytes on a channel as a sequence of messages. -/
  | lodeSend (t : Fin 8) (th : Thr) (a : TArgs)
  /-- LODE_MCAST (R245): LODE.MCAST sends a tensor's bytes to a multicast group. -/
  | lodeMcast (t : Fin 8) (th : Thr) (a : TArgs)
  /-- LODE_RECV (R264): LODE.RECV copies message payloads from a SELECT queue into a tensor. -/
  | lodeRecv (t : Fin 8) (th : Thr) (a : TArgs)
  /-- LODE_TREDUCE (R267): LODE.TREDUCE sends a tensor as Standard partials into a reduction group. -/
  | lodeTreduce (t : Fin 8) (th : Thr) (a : TArgs)
  /-- SY_NOP (R192): SY.NOP carries token waits and signals with no footprint. -/
  | syNop (t : Fin 8) (th : Thr) (a : TArgs)
  /-- SY_FENCE (R194): SY.FENCE orders later operations after earlier operations of its class. -/
  | syFence (t : Fin 8) (th : Thr) (a : TArgs)
  /-- SY_WAKE (R175): SY.WAKE asks the PCM to wake named tiles of the same function. -/
  | syWake (t : Fin 8) (th : Thr) (a : TArgs)
  /-- CT_SYNC (R199): CT.SYNC stalls MAIN until every operation it issued has retired. -/
  | ctSync (t : Fin 8) (th : Thr) (a : TArgs)
  /-- CT_WAITTAG (R198): CT.WAITTAG stalls MAIN until the holder of a tag has retired. -/
  | ctWaittag (t : Fin 8) (th : Thr) (a : TArgs)
  /-- CT_TAG (R198): CT.TAG writes the tag of MAIN's most recent tagged operation. -/
  | ctTag (t : Fin 8) (th : Thr) (a : TArgs)
  /-- ALU_ADD (R495): ALU.ADD adds two registers modulo 2^64. -/
  | aluAdd (t : Fin 8) (th : Thr) (a : RArgs)
  /-- ALU_SUB (R495): ALU.SUB subtracts two registers modulo 2^64. -/
  | aluSub (t : Fin 8) (th : Thr) (a : RArgs)
  /-- ALU_AND (R495): ALU.AND computes a bitwise AND. -/
  | aluAnd (t : Fin 8) (th : Thr) (a : RArgs)
  /-- ALU_OR (R495): ALU.OR computes a bitwise OR. -/
  | aluOr (t : Fin 8) (th : Thr) (a : RArgs)
  /-- ALU_XOR (R495): ALU.XOR computes a bitwise XOR. -/
  | aluXor (t : Fin 8) (th : Thr) (a : RArgs)
  /-- ALU_SLL (R495): ALU.SLL shifts left logically. -/
  | aluSll (t : Fin 8) (th : Thr) (a : RArgs)
  /-- ALU_SRL (R495): ALU.SRL shifts right logically. -/
  | aluSrl (t : Fin 8) (th : Thr) (a : RArgs)
  /-- ALU_SRA (R495): ALU.SRA shifts right arithmetically. -/
  | aluSra (t : Fin 8) (th : Thr) (a : RArgs)
  /-- ALU_MUL (R495): ALU.MUL writes the low 64 bits of a product. -/
  | aluMul (t : Fin 8) (th : Thr) (a : RArgs)
  /-- ALU_MULHU (R495): ALU.MULHU writes the unsigned high 64 bits of a product. -/
  | aluMulhu (t : Fin 8) (th : Thr) (a : RArgs)
  /-- ALU_DIVU (R495): ALU.DIVU divides unsigned, with no trap on a zero divisor. -/
  | aluDivu (t : Fin 8) (th : Thr) (a : RArgs)
  /-- ALU_REMU (R495): ALU.REMU takes the unsigned remainder, with no trap on a zero divisor. -/
  | aluRemu (t : Fin 8) (th : Thr) (a : RArgs)
  /-- ALU_MIN (R495): ALU.MIN takes the signed minimum. -/
  | aluMin (t : Fin 8) (th : Thr) (a : RArgs)
  /-- ALU_MAX (R495): ALU.MAX takes the signed maximum. -/
  | aluMax (t : Fin 8) (th : Thr) (a : RArgs)
  /-- ALU_MINU (R495): ALU.MINU takes the unsigned minimum. -/
  | aluMinu (t : Fin 8) (th : Thr) (a : RArgs)
  /-- ALU_MAXU (R495): ALU.MAXU takes the unsigned maximum. -/
  | aluMaxu (t : Fin 8) (th : Thr) (a : RArgs)
  /-- ALU_CLZ (R495): ALU.CLZ counts leading zeros. -/
  | aluClz (t : Fin 8) (th : Thr) (a : RArgs)
  /-- ALU_POPC (R495): ALU.POPC counts set bits. -/
  | aluPopc (t : Fin 8) (th : Thr) (a : RArgs)
  /-- ALU_SEL (R495): ALU.SEL selects one of two registers by a predicate. -/
  | aluSel (t : Fin 8) (th : Thr) (a : RArgs)
  /-- ALU_CMPEQ (R495): ALU.CMPEQ sets a predicate on equality. -/
  | aluCmpeq (t : Fin 8) (th : Thr) (a : RArgs)
  /-- ALU_CMPNE (R495): ALU.CMPNE sets a predicate on inequality. -/
  | aluCmpne (t : Fin 8) (th : Thr) (a : RArgs)
  /-- ALU_CMPLT (R495): ALU.CMPLT sets a predicate on signed less-than. -/
  | aluCmplt (t : Fin 8) (th : Thr) (a : RArgs)
  /-- ALU_CMPLTU (R495): ALU.CMPLTU sets a predicate on unsigned less-than. -/
  | aluCmpltu (t : Fin 8) (th : Thr) (a : RArgs)
  /-- ALU_CMPGE (R495): ALU.CMPGE sets a predicate on signed greater-or-equal. -/
  | aluCmpge (t : Fin 8) (th : Thr) (a : RArgs)
  /-- ALU_CMPGEU (R495): ALU.CMPGEU sets a predicate on unsigned greater-or-equal. -/
  | aluCmpgeu (t : Fin 8) (th : Thr) (a : RArgs)
  /-- ALU_PAND (R495): ALU.PAND ANDs two predicates. -/
  | aluPand (t : Fin 8) (th : Thr) (a : RArgs)
  /-- ALU_POR (R495): ALU.POR ORs two predicates. -/
  | aluPor (t : Fin 8) (th : Thr) (a : RArgs)
  /-- ALU_PXOR (R495): ALU.PXOR XORs two predicates. -/
  | aluPxor (t : Fin 8) (th : Thr) (a : RArgs)
  /-- ALU_PNOT (R495): ALU.PNOT inverts a predicate. -/
  | aluPnot (t : Fin 8) (th : Thr) (a : RArgs)
  /-- ALU_PMOVG (R495): ALU.PMOVG copies the predicates into a register. -/
  | aluPmovg (t : Fin 8) (th : Thr) (a : RArgs)
  /-- ALU_DSETW (R169): ALU.DSETW writes one word of a descriptor register. -/
  | aluDsetw (t : Fin 8) (th : Thr) (a : RArgs)
  /-- ALU_DGETW (R169): ALU.DGETW reads one word of a descriptor register. -/
  | aluDgetw (t : Fin 8) (th : Thr) (a : RArgs)
  /-- ALU_DADDB (R169): ALU.DADDB adds to a descriptor's BASE modulo 2^48. -/
  | aluDaddb (t : Fin 8) (th : Thr) (a : RArgs)
  /-- ALU_DADDS (R169): ALU.DADDS adds to a descriptor's SBASE modulo 2^48. -/
  | aluDadds (t : Fin 8) (th : Thr) (a : RArgs)
  /-- ALU_ADDI (R495): ALU.ADDI adds a sign-extended immediate. -/
  | aluAddi (t : Fin 8) (th : Thr) (a : IArgs)
  /-- ALU_ANDI (R495): ALU.ANDI ANDs a sign-extended immediate. -/
  | aluAndi (t : Fin 8) (th : Thr) (a : IArgs)
  /-- ALU_ORI (R495): ALU.ORI ORs a sign-extended immediate. -/
  | aluOri (t : Fin 8) (th : Thr) (a : IArgs)
  /-- ALU_XORI (R495): ALU.XORI XORs a sign-extended immediate. -/
  | aluXori (t : Fin 8) (th : Thr) (a : IArgs)
  /-- ALU_SLLI (R495): ALU.SLLI shifts left by an immediate. -/
  | aluSlli (t : Fin 8) (th : Thr) (a : IArgs)
  /-- ALU_SRLI (R495): ALU.SRLI shifts right logically by an immediate. -/
  | aluSrli (t : Fin 8) (th : Thr) (a : IArgs)
  /-- ALU_SRAI (R495): ALU.SRAI shifts right arithmetically by an immediate. -/
  | aluSrai (t : Fin 8) (th : Thr) (a : IArgs)
  /-- ALU_MOVI (R495): ALU.MOVI loads a sign-extended immediate. -/
  | aluMovi (t : Fin 8) (th : Thr) (a : IArgs)
  /-- ALU_SHIN (R495): ALU.SHIN shifts a register left 13 bits and inserts an immediate. -/
  | aluShin (t : Fin 8) (th : Thr) (a : IArgs)
  /-- ALU_CMPEQI (R495): ALU.CMPEQI compares a register with an immediate for equality. -/
  | aluCmpeqi (t : Fin 8) (th : Thr) (a : IArgs)
  /-- ALU_CMPNEI (R495): ALU.CMPNEI compares a register with an immediate for inequality. -/
  | aluCmpnei (t : Fin 8) (th : Thr) (a : IArgs)
  /-- ALU_CMPLTI (R495): ALU.CMPLTI compares a register with an immediate, signed. -/
  | aluCmplti (t : Fin 8) (th : Thr) (a : IArgs)
  /-- ALU_CMPLTUI (R495): ALU.CMPLTUI compares a register with an immediate, unsigned. -/
  | aluCmpltui (t : Fin 8) (th : Thr) (a : IArgs)
  /-- BR_J (R497): BR.J branches by a word offset from its own address. -/
  | brJ (t : Fin 8) (th : Thr) (a : BArgs)
  /-- BR_BP (R497): BR.BP branches when a predicate, optionally negated, is 1. -/
  | brBp (t : Fin 8) (th : Thr) (a : BArgs)
  /-- BR_CALL (R497): BR.CALL writes the return address to g62 and branches. -/
  | brCall (t : Fin 8) (th : Thr) (a : BArgs)
  /-- BR_JR (R497): BR.JR jumps to the address in a register. -/
  | brJr (t : Fin 8) (th : Thr) (a : BArgs)
  /-- BR_CALLR (R497): BR.CALLR writes g62 and jumps to a register address. -/
  | brCallr (t : Fin 8) (th : Thr) (a : BArgs)
  /-- MEM_LD8U (R176): MEM.LD8U loads one byte zero-extended. -/
  | memLd8u (t : Fin 8) (th : Thr) (a : IArgs)
  /-- MEM_LD16U (R176): MEM.LD16U loads two bytes zero-extended. -/
  | memLd16u (t : Fin 8) (th : Thr) (a : IArgs)
  /-- MEM_LD32U (R176): MEM.LD32U loads four bytes zero-extended. -/
  | memLd32u (t : Fin 8) (th : Thr) (a : IArgs)
  /-- MEM_LD64 (R176): MEM.LD64 loads eight bytes. -/
  | memLd64 (t : Fin 8) (th : Thr) (a : IArgs)
  /-- MEM_ST8 (R176): MEM.ST8 stores one byte. -/
  | memSt8 (t : Fin 8) (th : Thr) (a : IArgs)
  /-- MEM_ST16 (R176): MEM.ST16 stores two bytes. -/
  | memSt16 (t : Fin 8) (th : Thr) (a : IArgs)
  /-- MEM_ST32 (R176): MEM.ST32 stores four bytes. -/
  | memSt32 (t : Fin 8) (th : Thr) (a : IArgs)
  /-- MEM_ST64 (R176): MEM.ST64 stores eight bytes. -/
  | memSt64 (t : Fin 8) (th : Thr) (a : IArgs)
  /-- MEM_AMOADD (R176): MEM.AMOADD atomically adds and returns the old value. -/
  | memAmoadd (t : Fin 8) (th : Thr) (a : IArgs)
  /-- MEM_AMOSWP (R176): MEM.AMOSWP atomically swaps and returns the old value. -/
  | memAmoswp (t : Fin 8) (th : Thr) (a : IArgs)
  /-- MEM_AMOCAS (R176): MEM.AMOCAS atomically compares and swaps. -/
  | memAmocas (t : Fin 8) (th : Thr) (a : IArgs)
  /-- MEM_DLD (R176): MEM.DLD loads a 32-byte descriptor register. -/
  | memDld (t : Fin 8) (th : Thr) (a : IArgs)
  /-- MEM_DST (R176): MEM.DST stores a 32-byte descriptor register. -/
  | memDst (t : Fin 8) (th : Thr) (a : IArgs)
  /-- MEM_FENCE (R159): MEM.FENCE completes every earlier memory access of the thread before any later one starts. -/
  | memFence (t : Fin 8) (th : Thr) (a : IArgs)
  /-- WALK_ENTRY_RETURN (R218): A page table entry returns, and the walk continues, installs the leaf or faults. -/
  | walkEntryReturn (t : Fin 8) (i : Nat)
  /-- CSR_RD (R182): CSR.RD reads a CSR into a register. -/
  | csrRd (t : Fin 8) (th : Thr) (a : IArgs)
  /-- CSR_WR (R182): CSR.WR writes a CSR from SVC. -/
  | csrWr (t : Fin 8) (th : Thr) (a : IArgs)
  /-- CSR_SET (R182): CSR.SET sets bits of a CSR. -/
  | csrSet (t : Fin 8) (th : Thr) (a : IArgs)
  /-- CSR_CLR (R182): CSR.CLR clears bits of a CSR. -/
  | csrClr (t : Fin 8) (th : Thr) (a : IArgs)
  /-- CSR_SWAP (R182): CSR.SWAP exchanges a CSR with a register. -/
  | csrSwap (t : Fin 8) (th : Thr) (a : IArgs)
  /-- THR_YIELD (R157): THR.YIELD gives up the thread's next issue turn. -/
  | thrYield (t : Fin 8) (th : Thr) (a : RArgs)
  /-- THR_END (R161): THR.END ends MAIN's job program. -/
  | thrEnd (t : Fin 8) (th : Thr) (a : RArgs)
  /-- THR_HEND (R261): THR.HEND ends a handler and releases its message. -/
  | thrHend (t : Fin 8) (th : Thr) (a : RArgs)
  /-- THR_WEND (R280): THR.WEND ends a walker. -/
  | thrWend (t : Fin 8) (th : Thr) (a : RArgs)
  /-- THR_TRET (R180): THR.TRET ends trap handling and applies the action in TRAP_ACTION. -/
  | thrTret (t : Fin 8) (th : Thr) (a : RArgs)
  /-- THR_PARK (R180): THR.PARK makes SVC wait until a trap or SVCALL is pending. -/
  | thrPark (t : Fin 8) (th : Thr) (a : RArgs)
  /-- THR_SVCALL (R177): THR.SVCALL raises the SVCALL trap with a call code. -/
  | thrSvcall (t : Fin 8) (th : Thr) (a : RArgs)
  /-- THR_BREAK (R177): THR.BREAK raises the BREAK trap. -/
  | thrBreak (t : Fin 8) (th : Thr) (a : RArgs)
  /-- LODE_SENDR (R246): LODE.SENDR sends 64 bytes from registers and sets a predicate on acceptance. -/
  | lodeSendr (t : Fin 8) (th : Thr) (a : RArgs)
  /-- LODE_SENDM (R246): LODE.SENDM sends LEN bytes from memory and sets a predicate on acceptance. -/
  | lodeSendm (t : Fin 8) (th : Thr) (a : RArgs)
  /-- LODE_SELECT (R262): LODE.SELECT releases the held message and takes one from a listed SELECT queue. -/
  | lodeSelect (t : Fin 8) (th : Thr) (a : RArgs)
  /-- KV_EMIT (R279): KV.EMIT pushes a page descriptor into the KVE descriptor queue. -/
  | kvEmit (t : Fin 8) (th : Thr) (a : RArgs)
  /-- MEMORY_READ (R213): A memory serves a read of a granule, correcting single-bit errors. -/
  | memoryRead (pa : Nat) (err : MemErr)
  /-- MEMORY_WRITE (R214): A memory accepts a write, replacing or read-modify-writing granules. -/
  | memoryWrite (pa : Nat) (data : List Byte) (errs : List MemErr)
  /-- MEMORY_ATOMIC (R235): A memory performs a scalar atomic at its location. -/
  | memoryAtomic (pa : Nat) (op : AmoOp) (x y : BitVec 64)
  /-- PATROL_SCRUB (R213): Within each scrub period the memory reads and corrects every granule. -/
  | patrolScrub (pa : Nat) (err : MemErr)
  /-- TMU_INV (R223): An upper-half write of TMU.INV starts an invalidation, or sets OVERRUN while BUSY. -/
  | tmuInv (t : Fin 8) (hi : BitVec 32) (lo : Option (BitVec 32))
  /-- TMU_INV_COMPLETE (R223): No removed entry is cached and every access through one has completed, so BUSY clears. -/
  | tmuInvComplete (t : Fin 8)
  /-- TDM_DESCRIPTOR_START (R226): A TDM engine starts a descriptor and issues its first block read. -/
  | tdmDescriptorStart (t : Fin 8) (id : Nat)
  /-- TDM_BLOCK_LANDED (R226): A block has been read whole into a buffer and its writes are issued. -/
  | tdmBlockLanded (t : Fin 8) (id : Nat)
  /-- TDM_DESCRIPTOR_COMPLETE (R228): The last block's writes are acknowledged, and the optional completion write is made. -/
  | tdmDescriptorComplete (t : Fin 8) (id : Nat)
  /-- CHANNEL_ENABLE (R251): Writing CHAN_CFG.EN = 1 puts a channel in PENDING and sends a grant request. -/
  | channelEnable (t : Fin 8) (c : Fin 512) (val : BitVec 64)
  /-- CHANNEL_DISABLE (R252): Writing CHAN_CFG.EN = 0 puts a channel in DRAINING. -/
  | channelDisable (t : Fin 8) (c : Fin 512)
  /-- GRANT_REQUEST (R251): The queue's home grants ALLOT credits or refuses with a cause. -/
  | grantRequest (i : Nat)
  /-- CREDIT_GRANT (R251): A grant reply makes the channel READY or REFUSED. -/
  | creditGrant (i : Nat)
  /-- QUEUE_ENABLE (R242): Writing Q_CFG.EN = 1 translates the ring and makes the queue READY or ERR. -/
  | queueEnable (t : Fin 8) (q : Fin 256) (val : BitVec 64)
  /-- QUEUE_DISABLE (R252): Writing Q_CFG.EN = 0 puts a queue in DRAINING. -/
  | queueDisable (t : Fin 8) (q : Fin 256)
  /-- GROUP_ENABLE (R265): Enabling a multicast group requests a grant from every member's home. -/
  | groupEnable (t : Fin 8) (g : Fin 32) (val : BitVec 64)
  /-- MESSAGE_ACCEPT (R248): A waiting tensor send is accepted once every credit, reservation and buffer space is free. -/
  | messageAccept (t : Fin 8) (tag : BitVec 8)
  /-- MESSAGE_ARRIVAL (R254): The home LEP checks an arriving message and writes it, or a Quag, into its slot. -/
  | messageArrival (i : Nat)
  /-- MESSAGE_APPEND (R255): Once the slot write is acknowledged the message is appended to the queue's FIFO. -/
  | messageAppend (t : Fin 8) (q : Fin 256)
  /-- CREDIT_RETURN (R252): A CREDIT message returns a credit to a channel or group member. -/
  | creditReturn (i : Nat)
  /-- HANDLER_DISPATCH (R259): With MSG idle the LEP takes a DISPATCH queue's head message and starts its handler. -/
  | handlerDispatch (t : Fin 8)
  /-- REMOTE_MEMORY_REQUEST (R343): A target device checks a remote memory request against its inbound windows and performs it. -/
  | remoteMemoryRequest (i : Nat)
  /-- REMOTE_MEMORY_RESPONSE (R344): A remote memory response arrives and its status is mapped for the requester. -/
  | remoteMemoryResponse (i : Nat)
  /-- PORT_ENABLE (R336): Writing CWP.CTL.EN = 1 starts training a port. -/
  | portEnable (p : Fin 16) (val : BitVec 64)
  /-- PORT_DISABLE (R336): Writing CWP.CTL.EN = 0 makes a port DISABLED. -/
  | portDisable (p : Fin 16) (val : BitVec 64)
  /-- PORT_RETRAIN (R334): Writing CWP.CTL.RETRAIN moves a port to RETRAIN. -/
  | portRetrain (p : Fin 16)
  /-- LINKID_FLIT (R336): A LINKID flit records the peer's DEVID and port during training. -/
  | linkidFlit (p : Fin 16) (devid : BitVec 64) (port : BitVec 4)
  /-- TRAINING_COMPLETE (R336): A port finishes training and LINKID exchange and enters UP. -/
  | trainingComplete (p : Fin 16) (lanes precode : BitVec 8)
  /-- TRAINING_ATTEMPT_TIMEOUT (R336): A training attempt exceeds 500 ms; after three the port enters FAILED. -/
  | trainingAttemptTimeout (p : Fin 16)
  /-- RETRAIN_TIMEOUT (R334): Quick retraining fails within 1 ms and full training begins. -/
  | retrainTimeout (p : Fin 16)
  /-- CODEWORD_LOCK_LOSS (R334): Codeword lock is lost for 1 us and the port enters RETRAIN. -/
  | codewordLockLoss (p : Fin 16)
  /-- REPLAY_LIMIT (R334): The same SEQ has been replayed 8 times and the port enters RETRAIN. -/
  | replayLimit (p : Fin 16)
  /-- FLIT_TRANSMIT (R331): Each flit time an output port sends a TIME, MGMT or weighted-rotation flit holding credits. -/
  | flitTransmit (p : Fin 16)
  /-- FLIT_RECEIVE (R332): A receiver accepts a good DATA flit, or discards it and sends NAK. -/
  | flitReceive (p : Fin 16) (head : BitVec 96) (payload : BitVec 1920) (crc : BitVec 32) (err : List Nat)
  /-- ACK_TIMER (R332): 40 ns pass without an acknowledgement and the receiver acknowledges good flits. -/
  | ackTimer (p : Fin 16)
  /-- PACKET_FORWARD (R331): A whole checked packet is forwarded on the next port toward its rank. -/
  | packetForward (i : Nat)
  /-- FEN_CTL_FORM (R338): Writing FEN.CTL.FORM enters FORMING and floods HELLO messages. -/
  | fenCtlForm
  /-- HELLO_RECEIVE (R338): A HELLO is received and recorded during formation. -/
  | helloReceive (p : Fin 16) (h : Machine.Hello)
  /-- FORM_WAIT_EXPIRY (R338): FORM_WAIT ends; the lowest DEVID leads and assigns ranks, routes and the tree. -/
  | formWaitExpiry
  /-- FEN_ASSIGNMENT_RECEIVE (R338): A member receives its rank, port map and routing table, writes them and acknowledges. -/
  | fenAssignmentReceive (a : Machine.Assignment)
  /-- FEN_ASSIGNMENT_ACK (R338): The leader receives a member's acknowledgement and sends COMMIT once all have. -/
  | fenAssignmentAck (devid : BitVec 64)
  /-- FEN_COMMIT (R338): A member receives COMMIT with the new FEPOCH and enters FORMED. -/
  | fenCommit (fepoch : BitVec 16) (master : BitVec 6)
  /-- FORMATION_TIMEOUT (R338): Formation does not end within FORM_WAIT + 200 ms and the device enters FAILED. -/
  | formationTimeout
  /-- FEN_CTL_DISSOLVE (R342): Writing FEN.CTL.DISSOLVE moves the device to DISSOLVING. -/
  | fenCtlDissolve
  /-- DISSOLVE_COMPLETE (R342): Retry windows empty and remote tags return, or 10 ms pass, and the device enters ALONE. -/
  | dissolveComplete
  /-- TBU_SET_NS (R352): An upper-half write of TBU.SET_NS steps the Tidemaster's count, or is rejected on a follower. -/
  | tbuSetNs (hi : BitVec 32) (lo : Option (BitVec 32))
  /-- TBU_NOW_READ (R353): A read of TBU.NOW_NS returns NS and latches FRAC for the requester. -/
  | tbuNowRead (frv : Bool := false)
  /-- SYNC_PERIOD (R356): Once per PERIOD a parent sends SYNC and ANNOUNCE on each child port. -/
  | syncPeriod
  /-- SYNC_RECEIVE (R356): A child timestamps SYNC's arrival and sends DREQ. -/
  | syncReceive (p : Fin 16) (xseq : BitVec 16) (ns : BitVec 64) (frac : BitVec 32)
  /-- DREQ_RECEIVE (R356): A parent timestamps DREQ's arrival and answers with DRSP. -/
  | dreqReceive (p : Fin 16) (xseq : BitVec 16)
  /-- DRSP_RECEIVE (R357): A child computes theta and D, and the servo accepts and applies or rejects the exchange. -/
  | drspReceive (p : Fin 16) (xseq : BitVec 16) (ns : BitVec 64) (frac : BitVec 32) (stepped : Bool)
  /-- ANNOUNCE_RECEIVE (R354): A follower receives its parent's ANNOUNCE with master rank, depth and error bound. -/
  | announceReceive (p : Fin 16) (mrank depth src : BitVec 8) (errbnd : BitVec 32)
  /-- DRSP_TIMEOUT (R356): DRSP does not arrive within one PERIOD and the exchange is counted lost. -/
  | drspTimeout
  /-- SERVO_HOLDOVER (R357): No exchange is accepted for 8 PERIODs and the servo enters HOLDOVER. -/
  | servoHoldover
  /-- PPS_IN_EDGE (R359): A PPS_IN rising edge is timestamped and applied to the Tidemaster's count or rejected. -/
  | ppsInEdge (short : Bool)
  /-- PPS_HOLD_TIMEOUT (R359): No PPS_IN edge is accepted for 2 s and PPSSTATE becomes HOLD. -/
  | ppsHoldTimeout
  /-- TBU_SECOND (R360): The count reaches a TBU second and PPS_OUT rises. -/
  | tbuSecond
  /-- PPS_WIDTH_EXPIRY (R360): PPS_CFG.WIDTH milliseconds after a pulse PPS_OUT falls. -/
  | ppsWidthExpiry
  /-- TILE_IDLE_DOZE (R365): A tile idle for DOZE_IDLE cycles enters Doze. -/
  | tileIdleDoze (t : Fin 8)
  /-- TILE_IDLE_NAP (R365): A tile idle for NAP_IDLE microseconds enters Nap. -/
  | tileIdleNap (t : Fin 8)
  /-- TILE_IDLE_SLEEP (R365): A tile idle for SLEEP_IDLE milliseconds enters Sleep. -/
  | tileIdleSleep (t : Fin 8)
  /-- POWER_ENTRY_COMPLETE (R367): A tile's entry into a power state completes, and a pending wake starts. -/
  | powerEntryComplete (t : Fin 8)
  /-- TILE_WAKE_REQUEST (R366): A wake request reaches the TPC and starts a wake of the tile or its memory. -/
  | tileWakeRequest (t : Fin 8) (full : Bool)
  /-- TILE_WAKE_COMPLETE (R364): A waking tile or memory reaches Run. -/
  | tileWakeComplete (t : Fin 8)
  /-- TPC_WAKE (R366): TPC.CMD WAKE wakes the tile. -/
  | tpcWake (fn : Fin 32) (t : Fin 8)
  /-- TPC_OFF (R368): TPC.CMD OFF takes an idle tile to Off, or sets CMDREJ. -/
  | tpcOff (fn : Fin 32) (t : Fin 8)
  /-- TPC_ON (R368): TPC.CMD ON powers up an Off tile. -/
  | tpcOn (fn : Fin 32) (t : Fin 8)
  /-- TILE_POWER_UP_COMPLETE (R368): A tile leaving Off reaches Run in the tile reset state. -/
  | tilePowerUpComplete (t : Fin 8)
  /-- FABRIC_REGION_IDLE (R363): A fabric region idle for FAB_CFG.IDLE cycles is gated, stopping the PLL when all are. -/
  | fabricRegionIdle (i : Fin 5)
  /-- FABRIC_REGION_UNGATE (R363): A request ungates a fabric region within 64 FCLK cycles. -/
  | fabricRegionUngate (i : Fin 5)
  /-- HBM_IDLE_TIMEOUT (R363): A stack without access for HBM_CFG.IDLE enters self-refresh. -/
  | hbmIdleTimeout (k : Fin 8)
  /-- HBM_SELF_REFRESH_EXIT (R363): A request brings a stack out of self-refresh within 2 us. -/
  | hbmSelfRefreshExit (k : Fin 8)
  /-- PCM_SAMPLE (R369): Every 100 us the PCM samples rails and sensors and updates power, energy and temperature. -/
  | pcmSample (rails : List (Nat × Nat)) (temps : List Nat) (uj : List Nat)
  /-- CHECKPOINT_SNAPSHOT (R318): The snapshot point is reached and block tracking begins. -/
  | checkpointSnapshot
  /-- HELD_WRITE_RELEASE (R319): A write held on a block proceeds once the block is shadowed or copied. -/
  | heldWriteRelease (block : Nat)
  /-- CHECKPOINT_IMAGE_FINISH (R321): Every data write is acknowledged and the header, then MAGIC, is written. -/
  | checkpointImageFinish
  /-- MBX_GO (R423): Writing FRV.MBX_CTL.GO submits the mailbox request as one unit command. -/
  | mbxGo
  /-- GET_USR (R411): The unit command GET_USR returns a unit's USR. -/
  | getUsr (q : UReq)
  /-- ONLINE (R411): The unit command ONLINE brings an OFF or QUARANTINED unit into BRINGUP. -/
  | online (q : UReq)
  /-- OFFLINE (R411): The unit command OFFLINE takes a unit to OFF. -/
  | offline (q : UReq)
  /-- QUARANTINE (R413): The unit command QUARANTINE takes an unleased ONLINE unit out of service. -/
  | quarantine (q : UReq)
  /-- FORCE_QUARANTINE (R414): The unit command FORCE_QUARANTINE takes a unit out of service, halting its work and quagging its messages. -/
  | forceQuarantine (q : UReq)
  /-- FEN_FORM (R411): The unit command FEN_FORM starts formation as FEN.CTL.FORM does. -/
  | fenForm (q : UReq)
  /-- FEN_DISSOLVE (R411): The unit command FEN_DISSOLVE dissolves as FEN.CTL.DISSOLVE does. -/
  | fenDissolve (q : UReq)
  /-- SVN_COMMIT (R421): SVN_COMMIT blows rollback fuses up to ARG. -/
  | svnCommit (q : UReq)
  /-- FW_STATUS (R411): FW_STATUS returns FRV.STATUS. -/
  | fwStatus (q : UReq)
  /-- SET_POLICY (R411): SET_POLICY sets FRV.POLICY.SESSION. -/
  | setPolicy (q : UReq)
  /-- SET_ENDPOINT_ID (R406): MCTP Set Endpoint ID assigns the endpoint's EID. -/
  | setEndpointId (m : MReq) (id : BitVec 8)
  /-- GET_ENDPOINT_ID (R406): MCTP Get Endpoint ID returns the EID. -/
  | getEndpointId (m : MReq)
  /-- GET_ENDPOINT_UUID (R406): MCTP Get Endpoint UUID returns the UUID. -/
  | getEndpointUuid (m : MReq)
  /-- GET_MCTP_VERSION_SUPPORT (R406): MCTP Get MCTP Version Support returns supported versions. -/
  | getMctpVersionSupport (m : MReq)
  /-- GET_MESSAGE_TYPE_SUPPORT (R406): MCTP Get Message Type Support returns supported types. -/
  | getMessageTypeSupport (m : MReq)
  /-- GET_VENDOR_DEFINED_MESSAGE_SUPPORT (R406): MCTP Get Vendor Defined Message Support returns vendor support. -/
  | getVendorDefinedMessageSupport (m : MReq)
  /-- SET_TID (R416): PLDM SetTID sets the terminus ID. -/
  | setTid (m : MReq) (id : BitVec 8)
  /-- GET_TID (R416): PLDM GetTID returns the terminus ID. -/
  | getTid (m : MReq)
  /-- GET_PLDM_VERSION (R416): PLDM GetPLDMVersion returns a type's version. -/
  | getPldmVersion (m : MReq) (ty : BitVec 8)
  /-- GET_PLDM_TYPES (R416): PLDM GetPLDMTypes returns supported types. -/
  | getPldmTypes (m : MReq)
  /-- GET_PLDM_COMMANDS (R416): PLDM GetPLDMCommands returns supported commands. -/
  | getPldmCommands (m : MReq) (ty : BitVec 8)
  /-- GET_PDR_REPOSITORY_INFO (R416): PLDM GetPDRRepositoryInfo describes the PDR repository. -/
  | getPdrRepositoryInfo (m : MReq)
  /-- GET_PDR (R416): PLDM GetPDR returns a PDR. -/
  | getPdr (m : MReq) (handle : BitVec 32)
  /-- GET_SENSOR_READING (R416): PLDM GetSensorReading returns a numeric sensor. -/
  | getSensorReading (m : MReq) (id : BitVec 16)
  /-- GET_STATE_SENSOR_READINGS (R416): PLDM GetStateSensorReadings returns state sensors. -/
  | getStateSensorReadings (m : MReq) (id : BitVec 16)
  /-- SET_NUMERIC_SENSOR_ENABLE (R416): PLDM SetNumericSensorEnable enables a numeric sensor. -/
  | setNumericSensorEnable (m : MReq) (id : BitVec 16) (on : Bool)
  /-- SET_STATE_SENSOR_ENABLES (R416): PLDM SetStateSensorEnables enables state sensors. -/
  | setStateSensorEnables (m : MReq) (id : BitVec 16) (on : Bool)
  /-- SET_EVENT_RECEIVER (R416): PLDM SetEventReceiver registers the event receiver. -/
  | setEventReceiver (m : MReq) (id : BitVec 8)
  /-- GET_EVENT_RECEIVER (R416): PLDM GetEventReceiver returns the event receiver. -/
  | getEventReceiver (m : MReq)
  /-- SENSOR_POLL (R416): At least every 10 ms Fenreeve reads the sensors and sends PlatformEventMessage on changes. -/
  | sensorPoll
  /-- QUERY_DEVICE_IDENTIFIERS (R417): PLDM QueryDeviceIdentifiers returns the device identifiers. -/
  | queryDeviceIdentifiers (m : MReq)
  /-- GET_FIRMWARE_PARAMETERS (R417): PLDM GetFirmwareParameters returns component parameters. -/
  | getFirmwareParameters (m : MReq)
  /-- REQUEST_UPDATE (R417): PLDM RequestUpdate starts an update, or is refused while one runs. -/
  | requestUpdate (m : MReq)
  /-- PASS_COMPONENT_TABLE (R417): PLDM PassComponentTable passes the component table. -/
  | passComponentTable (m : MReq) (id : BitVec 16)
  /-- UPDATE_COMPONENT (R418): PLDM UpdateComponent erases the inactive slot and begins the transfer. -/
  | updateComponent (m : MReq) (id : BitVec 16) (size : Nat)
  /-- FIRMWARE_DATA_RECEIVE (R418): Image data arrives for RequestFirmwareData and is written; after the last, the slot is verified. -/
  | firmwareDataReceive (m : MReq) (data : List Byte)
  /-- ACTIVATE_FIRMWARE (R418): PLDM ActivateFirmware restarts Fenreeve through the boot ROM. -/
  | activateFirmware (m : MReq) (selfContained : Bool)
  /-- GET_STATUS (R417): PLDM GetStatus returns update status. -/
  | getStatus (m : MReq)
  /-- CANCEL_UPDATE_COMPONENT (R417): PLDM CancelUpdateComponent cancels the component update. -/
  | cancelUpdateComponent (m : MReq)
  /-- CANCEL_UPDATE (R417): PLDM CancelUpdate cancels the update. -/
  | cancelUpdate (m : MReq)
  /-- GET_VERSION (R419): SPDM GET_VERSION returns supported versions. -/
  | getVersion (m : MReq)
  /-- GET_CAPABILITIES (R419): SPDM GET_CAPABILITIES returns capabilities. -/
  | getCapabilities (m : MReq)
  /-- NEGOTIATE_ALGORITHMS (R419): SPDM NEGOTIATE_ALGORITHMS selects algorithms. -/
  | negotiateAlgorithms (m : MReq) (supported : Bool)
  /-- GET_DIGESTS (R419): SPDM GET_DIGESTS returns certificate chain digests. -/
  | getDigests (m : MReq)
  /-- GET_CERTIFICATE (R419): SPDM GET_CERTIFICATE returns the slot 0 chain. -/
  | getCertificate (m : MReq) (slot : BitVec 8) (off len : Nat)
  /-- CHALLENGE (R419): SPDM CHALLENGE proves the device identity. -/
  | challenge (m : MReq) (slot : BitVec 8)
  /-- GET_MEASUREMENTS (R419): SPDM GET_MEASUREMENTS returns measurement blocks. -/
  | getMeasurements (m : MReq) (index : BitVec 8)
  /-- KEY_EXCHANGE (R419): SPDM KEY_EXCHANGE starts a secured session. -/
  | keyExchange (m : MReq) (id : Nat)
  /-- FINISH (R419): SPDM FINISH completes session establishment. -/
  | finish (m : MReq) (id : Nat) (valid : Bool)
  /-- HEARTBEAT (R419): SPDM HEARTBEAT keeps a session alive. -/
  | heartbeat (m : MReq) (id : Nat)
  /-- KEY_UPDATE (R419): SPDM KEY_UPDATE updates session keys. -/
  | keyUpdate (m : MReq) (id : Nat)
  /-- END_SESSION (R419): SPDM END_SESSION ends a session. -/
  | endSession (m : MReq) (id : Nat)
  /-- BOOT_ROM (R420): After cold reset the boot ROM verifies the slots and runs the newest valid image or enters RECOVERY. -/
  | bootRom
  /-- ONLINE_RETRY (R466): Every 100 ms firmware retries an ONLINE that was answered BUSY. -/
  | onlineRetry
  /-- UNIT_FAIL_DECLARE (R425): The FLT declares a unit failed, sets FAILED and FAILMAP, logs it and starts recovery. -/
  | unitFailDeclare (code unit : BitVec 8)
  /-- FAILURE_NOTICE_RECEIVE (R428): A member receives a failure notice and marks the rank or unit lost. -/
  | failureNoticeReceive (rank : Fin 64) (n : Notice)
  /-- HEARTBEAT_SEND (R428): Every HB_US microseconds the FLT sends a heartbeat to every member. -/
  | heartbeatSend
  /-- HEARTBEAT_RECEIVE (R428): A heartbeat from a rank restarts its miss count. -/
  | heartbeatReceive (rank : Fin 64)
  /-- HEARTBEAT_MISS (R428): HB_MISS periods pass without a heartbeat and the rank is declared failed. -/
  | heartbeatMiss (rank : Fin 64)
  /-- FENCE_COMPLETE_REPORT (R431): A member's report that its fence is complete is received. -/
  | fenceCompleteReport (rank : Fin 64) (i : Nat)
  /-- DRAIN_FENCE_COMPLETE (R431): The fence for a lost party completes and Quags, aborts and reclaims follow. -/
  | drainFenceComplete (i : Nat)
  /-- FEN_STOP_NOTICE (R429): A FEN_STOP notice arrives and every tile halts as under a Fen stop. -/
  | fenStopNotice (rank : Fin 64)
  /-- FENSTOP_CLR (R429): Writing FLT.CTL.FENSTOP_CLR clears this device's Fen stop. -/
  | fenstopClr
  /-- FLT_INJECT (R453): Writing FLT.INJECT with GO makes the FLT act as though the named event occurred. -/
  | fltInject (code unit : BitVec 8)
  /-- LOG_SEL_WRITE (R452): Writing FLT.LOG_SEL latches one log record into LOG_D0-LOG_D3. -/
  | logSelWrite (i : BitVec 6)
  /-- COLD_RESET (R456): POR_L low, group-1 rail loss or REFCLK loss holds the whole device in cold reset. -/
  | coldReset
  /-- COLD_RESET_END (R457): Cold reset ends, every block takes its reset value and the straps are sampled. -/
  | coldResetEnd (straps : BitVec 3)
  /-- WARM_RESET (R458): PERST_L, Hot Reset or link down ends every command, resets tiles and clears HIU state. -/
  | warmReset (perst : Bool)
  /-- TILE_RESET (R459): A tile reset stops issue, drains or abandons operations, recovers leases and reinitialises the tile. -/
  | tileReset (t : Fin 8)
  /-- TILE_RESET_DRAIN_TIMEOUT (R459): 1 ms after a tile reset starts, unretired operations are abandoned. -/
  | tileResetDrainTimeout (t : Fin 8)
  /-- PERST_L_RELEASE (R465): PERST_L is released and the HIU begins linking, completing configuration requests without retry status within 100 ms. -/
  | perstLRelease
  /-- HBM_TRAINING_COMPLETE (R409): An HBM4 stack finishes training and its USR moves from BRINGUP to ONLINE, or the stack fails as HBM_TRAIN. -/
  | hbmTrainingComplete (k : Fin 8) (good : Bool)
  /-- MSIX_VECTOR_UNMASK (R397): The host unmasks an MSI-X vector whose Pending Bit is set, and the held message is sent. -/
  | msixVectorUnmask (fn : Fin 32) (vec : Fin 64)
  /-- ALLOTMENT_RETURN (R252): A draining channel's or group's returned allotment reaches the queue's home, which lowers ALLOTTED and may take a DRAINING queue to OFF. -/
  | allotmentReturn (i : Nat)
  /-- PCIE_COMPLETION_TIMEOUT (R374): A non-posted request of the HIU to the host gets no completion in time and fails with AER completion timeout, e.g. putting a ring in ERR with cause FETCH. -/
  | pcieCompletionTimeout (fn : Fin 32) (r : Fin 64)
  /-- MODULE_INTERRUPT (R484): MOD_INT_L goes low and Fenreeve firmware reads the module state over the module bus. -/
  | moduleInterrupt (k : Fin 4)
  /-- SMBUS_CLOCK_LOW_TIMEOUT (R482): SMB_SCL stays low beyond the 25-35 ms SMBus clock-low timeout and the device resets its SMBus interface. -/
  | smbusClockLowTimeout
  /-- BOUNDARY_SCAN (R486): The IEEE 1149.1 TAP is clocked or reset on TCK, TMS, TDI and TRST_L, running BYPASS, IDCODE, SAMPLE/PRELOAD or EXTEST. -/
  | boundaryScan (tms tdi trst : Bool)
  deriving DecidableEq, Repr

end Sys2Proof
end

