-- ==== Sys2Proof/Machine/KveState.lean ====
section
/-! DEFINITION. KV cache engine state between a walk request and its last descriptor (chapter 11), and the Carr as a
whole. -/
namespace Sys2Proof.Machine

/-- A walk request (Table 11-3): the operation it serves, and the registers WALK starts with. -/
structure WalkReq where
  seq : Nat
  g1 : Nat
  g2 : Nat
  g3 : Nat
  g4 : Nat
  deriving DecidableEq, Repr

/-- The KVE: requests not yet passed to WALK, the request being answered, the descriptors accepted for it and how many they were,
of which a KV.RELEASE leaves those it has not acted on, and whether the LAST descriptor of the running walker has been accepted. -/
structure Kve where
  queue : List WalkReq
  cur : Option WalkReq
  got : List Nat
  seen : Nat
  ended : Bool
  deriving DecidableEq, Repr

/-- No walk outstanding. -/
def Kve.reset : Kve := ⟨[], none, [], 0, false⟩

/-- One Carr beside its registers. `rec` keeps retired tags' progress (R200); `slots` and `progs` hold the SFU's table
records and program images; `ls` is the local store by offset; `icache` the instruction words threads have fetched since
the last invalidation; `invHeld` and `invWait` the held lower half of TMU.INV and what a running invalidation waits for
(R223, R492); `future` fields of the Reedbed serve R96. -/
structure Tile where
  threads : Vector Thread 4
  dregs : SMap DReg
  traps : List Trap
  csr : TrapCsr
  active : Option Trap
  doubleFault : Bool
  halt : HaltK
  nanStop : Option NanStop
  nanFen : Bool
  job : Option CurJob
  launches : List Job
  ops : SMap OpRec
  done : SMap ProgRec
  nextTag : Nat
  opSeq : Nat
  lastOp : Option OpRec
  lastTag : Nat
  sigDone : BitVec 32
  holds : List Hold
  rb : Reedbed
  slots : SMap Nat
  progs : SMap Nat
  tlb : List TlbEnt
  wcache : List WcEnt
  walks : List Walk
  invHeld : Nat
  invWait : List Who
  tdm : List TdmDesc
  tdmNext : Nat
  lep : Lep
  forced : Bool
  kve : Kve
  ls : SMap Byte
  icache : SMap Nat
  cycles : Nat
  tpc : Tpc
  resetting : Bool
  deriving DecidableEq, Repr

/-- A Carr after tile reset (R459). -/
def Tile.reset : Tile where
  threads := Vector.replicate 4 .reset
  dregs := []
  traps := []
  csr := .reset
  active := none
  doubleFault := false
  halt := .none
  nanStop := none
  nanFen := false
  job := none
  launches := []
  ops := []
  done := []
  nextTag := 0
  opSeq := 0
  lastOp := none
  lastTag := 0
  sigDone := 0#32
  holds := []
  rb := .reset
  slots := []
  progs := []
  tlb := []
  wcache := []
  walks := []
  invHeld := 0
  invWait := []
  tdm := []
  tdmNext := 0
  lep := .reset
  forced := false
  kve := .reset
  ls := []
  icache := []
  cycles := 0
  tpc := .reset
  resetting := false

end Sys2Proof.Machine
end

