-- ==== Sys2Proof/Machine/MgmtState.lean ====
section
/-! DEFINITION. State of Moss beside its registers: the fault controller, the TBU, the PCM, Fenreeve, and the package's pins (chapters 14 and
16 to 19). -/
namespace Sys2Proof.Machine

/-! ### Fault controller (chapter 17) -/

/-- A lost party (R430): a tile of a rank, a port of this device, a rank, the path to a rank, or a function of a rank; `unit` names a
stack or table set whose failure is recovered in the same order (R445) without making a party lost. -/
inductive Party where
  | tile (rank t : Nat)
  | port (p : Nat)
  | rank (d : Nat)
  | path (d : Nat)
  | fn (rank f : Nat)
  | unit (u : Nat)
  deriving DecidableEq, Repr

/-- What follows a fence's reclaim: nothing, the power-down of a failed unit (R426), or the rest of a tile reset (R459). -/
inductive After where
  | nothing
  | powerDown (u : Nat)
  | reset (t : Nat)
  deriving DecidableEq, Repr

/-- A drain fence (R431): its party, what follows, and the ranks, this device among them, whose part is not complete. -/
structure Fence where
  party : Party
  after : After
  waiting : List Nat
  deriving DecidableEq, Repr

/-- The FLT beside its registers: incomplete fences, heartbeat periods missed by rank, failed units not brought back, and tiles of other
ranks declared lost and not heard from since. -/
structure Flt where
  fences : List Fence
  misses : SMap Nat
  down : List Nat
  gone : List (Nat × Nat)
  deriving DecidableEq, Repr

/-- After cold reset. -/
def Flt.reset : Flt := ⟨[], [], [], []⟩

/-! ### Time (chapter 14) -/

/-- A time exchange in progress (R356), times in 2^-32 ns: SYNC's departure and arrival, DREQ's departure, and whether this device has
stepped since. -/
structure Exch where
  xseq : Nat
  t1 : Nat
  t2 : Nat
  t3 : Nat
  stepped : Bool
  deriving DecidableEq, Repr

/-- The TBU beside its registers: the held lower half of SET_NS (R492), the next exchange number, the exchange in progress, the
doubled delays of the last 16 accepted exchanges (2^-32 ns), the rate term in 2^-64, the cycles the phase term still lasts, consecutive
good exchanges, consecutive good PPS edges, the second numbers pulsed, as ranges (R360), the second number in which SET_NS last stepped
the count (R352), and Fenreeve's latch of FRAC (R353). -/
structure Tbu where
  held : Nat
  xseq : Nat
  exch : Option Exch
  delays : List Int
  rate : Int
  left : Nat
  good : Nat
  ppsGood : Nat
  pulsed : List (Nat × Nat)
  setSec : Option Nat
  frvFrac : Nat
  deriving DecidableEq, Repr

/-- After cold reset. -/
def Tbu.reset : Tbu := ⟨0, 0, none, [], 0, 0, 0, 0, [], none, 0⟩

/-! ### Fenreeve (chapter 16) -/

/-- A firmware update in progress (R417, R418): the stage (0 requested, 1 table passed, 2 transferring, 3 verified), the image's length
and the bytes received. -/
structure Upd where
  stage : Nat
  size : Nat
  got : Nat
  deriving DecidableEq, Repr

/-- An SPDM session: established or still in its handshake, and the keys updated so far. -/
structure Session where
  up : Bool
  keys : Nat
  deriving DecidableEq, Repr

/-- Fenreeve beside its registers: the flash by address (0xFF where unlisted), blown rollback fuses, recorded measurements 1 to 4, the
mailbox request in progress, whether a FORCE_QUARANTINE has been accepted, the terminus ID, the event receiver, disabled
sensors, the readings last polled, the update in progress, how far the SPDM negotiation has come (1 version, 2 capabilities, 3
algorithms), sessions by ID, units whose ONLINE is still to be applied (R466), and whether FEN_AUTO's formation is still to start. -/
structure Frv where
  flash : SMap Byte
  fuses : Nat
  meas : List Nat
  mbx : Option (Nat × Nat)
  forced : Bool
  tid : Nat
  receiver : Option Nat
  sensorsOff : List Nat
  polled : SMap Nat
  update : Option Upd
  spdm : Nat
  sessions : SMap Session
  retry : List Nat
  auto : Bool
  deriving DecidableEq, Repr

/-- After cold reset, with empty flash and no rollback fuse blown. -/
def Frv.reset : Frv := ⟨[], 0, [], none, false, 0, none, [], [], none, 0, [], [], false⟩

/-! ### Pins (chapter 19) -/

/-- States of the IEEE 1149.1 TAP controller. -/
inductive TapSt where
  | reset | idle | selDr | capDr | shDr | ex1Dr | paDr | ex2Dr | upDr | selIr | capIr | shIr | ex1Ir | paIr | ex2Ir | upIr
  deriving DecidableEq, Repr

/-- The boundary-scan instructions (R486). -/
inductive TapInsn where
  | bypass | idcode | sample | extest
  deriving DecidableEq, Repr

/-- The TAP: its controller state, instruction, shift register (as an integer) and the boundary register's latched outputs. -/
structure Tap where
  st : TapSt
  insn : TapInsn
  sh : Nat
  latch : Nat
  deriving DecidableEq, Repr

/-- Nominal rail voltages in mV and tolerances in percent (Table 19-5). -/
def railNominal : List (Nat × Nat) :=
  [(750, 5), (1800, 5), (1800, 3), (800, 3), (750, 3), (750, 3), (1800, 5), (1050, 3), (1800, 5), (1050, 3), (400, 3), (900, 3), (750, 3),
    (900, 3), (750, 3)]

/-- The pins and the power-on state: cold reset held, PERST_L low, THERMTRIP_L asserted, PPS_OUT high, REF10M_OUT high and the TBU cycles
since its last edge, up to 40 (R361), the sampled straps (bit 0 SMB_ADDR, 1 AUTO_ON, 2 FEN_AUTO), the TAP, and the rail voltages last
measured in mV. -/
structure Pins where
  cold : Bool
  perst : Bool
  therm : Bool
  pps : Bool
  ref10m : Bool
  refAge : Nat
  straps : Nat
  tap : Tap
  rails : List Nat
  deriving DecidableEq, Repr

/-- As a cold reset ends (R457), with PERST_L still low and every rail at its nominal voltage; the straps are the board's. REF10M_OUT has
been low (DESIGN CHOICE, unsafe, log entry 4). -/
def Pins.reset : Pins := ⟨false, true, false, false, false, 40, Config.straps % 8, ⟨.reset, .idcode, 0, 0⟩, railNominal.map (·.1)⟩

end Sys2Proof.Machine
end

