-- ==== Sys2Proof/Machine/State.lean ====
section
/-! DEFINITION. The whole state of the ZX4 as plain data, its reset, and the reasons a step can stop. -/
namespace Sys2Proof.Machine

/-- Reasons a command stops with a fault. No command of this model faults. -/
inductive Fault where
  /-- Raised by no meaning: every stop of the spec is an effect on the state (safe). -/
  | unreachable
  deriving DecidableEq, Repr

/-- Reasons a command is refused. -/
inductive Refusal where
  /-- Raised by the dispatch for a command with no meaning yet (safe: the machine stops). -/
  | notModelled (mnemonic : String)
  deriving DecidableEq, Repr

/-- A ring command from its fetch to the end of its record's life (R384 to R401): its number, its 64 bytes as an integer, whether it has
started, completed and has its record, whether a reset ended it, whether bytes it needs from another rank have been asked for,
whether its record was refused, its status and RESULT, a LAUNCH's finished tiles as (tile, status, trap PC), its position reached and its
total (R398), and the time it completed (R392). -/
structure RCmd where
  seq : Nat
  body : Nat
  started : Bool
  done : Bool
  recorded : Bool
  aborted : Bool
  asked : Bool
  refused : Bool
  status : Nat
  result : Nat
  jobs : List (Nat × Nat × Nat)
  pos : Nat
  total : Nat
  time : Nat
  deriving DecidableEq, Repr

/-- A work ring beside its registers: the PROD last taken, commands fetched so far, the commands in fetch, started or
lately done, and the records since the last message (R397). -/
structure Ring where
  prod : Nat
  fetched : Nat
  cmds : List RCmd
  irqPend : Nat
  deriving DecidableEq, Repr

/-- A ring that is OFF. -/
def Ring.off : Ring := ⟨0, 0, [], 0⟩

/-- A PCIe function beside its registers: rings; the configuration items of Table 15-1, of which VF Enable, NumVFs, ARI and the VFs' BAR2
size are the PF's, with BAR2 sizes as powers of two above 1 GiB, Max Payload Size and Max Read Request Size as powers of two above 128
bytes, and AER's uncorrectable error status; MSI-X mask and pending bits; and the translations ATS has given (R381): by page the host's
page and whether it may be written, or a refusal, which of the pages the ATC holds, oldest first, and those asked for. -/
structure Fn where
  rings : SMap Ring
  d3hot : Bool
  ats : Bool
  atomicOp : Bool
  vfEnable : Bool
  numVfs : Nat
  ari : Bool
  bar2 : Nat
  vfBar2 : Nat
  mps : Nat
  mrrs : Nat
  aer : Nat
  msixEnable : Bool
  msixMask : BitVec 64
  msixPend : BitVec 64
  trans : SMap (Option (Nat × Bool))
  atc : List Nat
  atcAsked : List Nat
  deriving DecidableEq, Repr

/-- A function after reset: every vector is masked, BAR2 has its largest size, payloads have their smallest and read requests 512 bytes
(PRESUMED, unsafe, log entry 20). -/
def Fn.reset : Fn :=
  { rings := [], d3hot := false, ats := false, atomicOp := false, vfEnable := false, numVfs := 0, ari := false, bar2 := 9, vfBar2 := 9
    mps := 0, mrrs := 2, aer := 0, msixEnable := false, msixMask := BitVec.allOnes 64, msixPend := 0#64, trans := [], atc := [], atcAsked := [] }

/-- The running CHECKPOINT or RESTORE job (R317 to R324): its command, the CKD's regions as (base, blocks) and areas, the time and EPOCH
of its snapshot, block states in CKD order (0 PENDING, 1 READING, 2 SHADOWED, 3 COPIED), the shadow slot of each SHADOWED block,
held writes in arrival order, the stage (0 before the image is opened, 1 copying, 2 closing), and blocks whose image writes are
acknowledged. -/
structure CkJob where
  fn : Nat
  ring : Nat
  seq : Nat
  restore : Bool
  ckd : Nat
  regions : List (Nat × Nat)
  image : Nat
  shadow : Nat
  shadowBlocks : Nat
  bmap : Nat
  start : Nat
  epoch : Option Nat
  blocks : List Nat
  slots : SMap Nat
  held : List HeldWrite
  stage : Nat
  acked : List Nat
  deriving DecidableEq, Repr

/-- A record of the fault log (Table 17-7): LOG_D0 to LOG_D3. -/
structure LogRec where
  time : Nat
  d1 : Nat
  info : Nat
  epoch : Nat
  deriving DecidableEq, Repr

/-- An event of class UNIT or DEVICE reported to the FLT and not yet declared (R425). -/
structure Report where
  code : Nat
  unit : Nat
  info : Nat
  deriving DecidableEq, Repr

/-- What the device sends to the outside, latest last: messages; a port's flits, and as each codeword pair is full the symbols of a lane
(R327); a write to host memory with its attributes (R380). -/
inductive Out where
  | msix (fn vec : Nat)
  | flit (port : Nat) (f : BitVec 2048)
  | lane (port lane : Nat) (symbols : List Nat)
  | hostWrite (addr len : Nat) (noSnoop relaxed : Bool)
  | other (what : String) (data : List Nat)
  deriving DecidableEq, Repr

/-- What a stopped tile's registers read (R13): the tile and its registers as they stood at the stop, and the units of its send buffer then in
use. -/
structure Seen where
  tile : Tile
  regs : SMap Nat
  sbuf : Nat
  deriving DecidableEq, Repr

/-- The ZX4. Register fields stand in `regs` by key (their reset value when unlisted); `mem` is memory by device physical
address (zero when unlisted), Fen windows included; `hostMem` is host memory; `poison` lists poisoned 32-byte granules; `ns` and `frac` are
the TBU count; `pcm` holds the PCM's power samples by rail, latest first; `mroute` is what the Sluices know of multicast groups of other ranks
whose grant requests came to or through this device: the DEVID of the neighbour they came from, the group, a member (R265); `relaxed` holds bytes written with Relaxed Ordering that have not reached
host memory (R380); `served` the rings that have had their command in the HIU's present turn (R384); and `seen` what a
stopped tile's registers read (R13). -/
structure State where
  regs : SMap Nat
  tiles : Vector Tile 8
  fns : SMap Fn
  served : List (Nat × Nat)
  seen : SMap Seen
  mem : SMap Byte
  hostMem : SMap Byte
  relaxed : List (Nat × Byte)
  poison : List Nat
  net : List NetMsg
  mroute : List (Nat × Peer × QRef)
  comb : SMap CombSlot
  ck : Option CkJob
  ports : SMap Port
  rx : List RxPkt
  rem : SMap RemReq
  remWait : List RemReq
  fen : FenForm
  ns : Nat
  frac : Nat
  log : List LogRec
  reports : List Report
  flt : Flt
  tbu : Tbu
  pcm : List (List Nat)
  frv : Frv
  pins : Pins
  out : List Out
  freeCtr : Nat
  pending : List Instr
  deriving DecidableEq, Repr

/-- The device right after a cold reset ends (R457) (DESIGN CHOICE, unsafe, log entry 4). -/
def State.reset : State where
  regs := []
  tiles := Vector.replicate 8 .reset
  fns := []
  served := []
  seen := []
  mem := []
  hostMem := []
  relaxed := []
  poison := []
  net := []
  mroute := []
  comb := []
  ck := none
  ports := []
  rx := []
  rem := []
  remWait := []
  fen := .none
  ns := 0
  frac := 0
  log := []
  reports := []
  flt := .reset
  tbu := .reset
  pcm := []
  frv := .reset
  pins := .reset
  out := []
  freeCtr := 0
  pending := []

end Sys2Proof.Machine
end

