-- ==== Sys2Proof/Machine/Ops.lean ====
section
/-! DEFINITION. The shared operations over the state: register fields, tiles, functions, memory and free values. -/
namespace Sys2Proof.Machine

/-! ### Register fields -/

/-- The key of a register field: block, instance, offset and low bit. -/
def Fld.key (f : Fld) (inst idx : Nat) : Nat :=
  ((f.blk.num * 32 + inst % 32) * 1048576 + (f.off + f.stride * idx) % 1048576) * 64 + f.lo

/-- Read a field. -/
def State.rd (s : State) (f : Fld) (inst : Nat) (idx : Nat := 0) : Nat := s.regs.getD (f.key inst idx) f.rst

/-- Write a field: the low bits of the value; the reset value is not listed. -/
def State.wr (s : State) (f : Fld) (inst : Nat) (v : Nat) (idx : Nat := 0) : State :=
  { s with regs := s.regs.set f.rst (f.key inst idx) (v % 2 ^ f.w) }

/-- A field as a flag. -/
def State.flag (s : State) (f : Fld) (inst : Nat) (idx : Nat := 0) : Bool := decide (s.rd f inst idx ≠ 0)

/-- Add to a counter, saturating at its largest value. -/
def State.count (s : State) (f : Fld) (inst : Nat) (n : Nat) (idx : Nat := 0) : State :=
  s.wr f inst (min (s.rd f inst idx + n) (2 ^ f.w - 1)) idx

/-- Write several fields of one register entry. -/
def State.wrs (s : State) (inst idx : Nat) (l : List (Fld × Nat)) : State :=
  l.foldl (fun s p => s.wr p.1 inst p.2 idx) s

/-! ### Tiles, functions, output, free values -/

/-- A tile. -/
def State.tile (s : State) (t : Fin 8) : Tile := s.tiles[t]

/-- Replace a tile. -/
def State.setTile (s : State) (t : Fin 8) (x : Tile) : State := { s with tiles := s.tiles.set t x }

/-- Change a tile. -/
def State.onTile (s : State) (t : Fin 8) (f : Tile → Tile) : State := s.setTile t (f (s.tile t))

/-- A tile's units act: the tile is in Run. A halted tile's operations still run to retirement (Table 7-14). -/
def State.unitsRun (s : State) (t : Fin 8) : Bool := s.rd F.TPC_STATUS_STATE t.val = 0 && !s.flag F.TPC_STATUS_ENTERING t.val

/-- A tile's LEP runs: with the tile, or woken with its memory (R258). -/
def State.lepRuns (s : State) (t : Fin 8) : Bool :=
  s.unitsRun t || (s.rd F.TPC_STATUS_STATE t.val ≠ 0 && s.rd F.TPC_STATUS_STATE t.val ≠ 4 && s.flag F.TPC_STATUS_MEMWAKE t.val)

/-- A PCIe function. -/
def State.fn (s : State) (f : Nat) : Fn := s.fns.getD f .reset

/-- Change a function. -/
def State.onFn (s : State) (f : Nat) (g : Fn → Fn) : State := { s with fns := s.fns.set .reset f (g (s.fn f)) }

/-- Send a unit to the outside (DESIGN CHOICE, safe, log entry 9). -/
def State.emit (s : State) (o : Out) : State := { s with out := s.out ++ [o] }

/-- Draw the i-th free number of this step (DESIGN CHOICE, safe, log entry 5). -/
def State.free (s : State) (i : Nat) : Nat := Config.freeNat s.freeCtr i

/-- Move past the free numbers of a step. -/
def State.drawn (s : State) : State := { s with freeCtr := s.freeCtr + 1 }

/-- A tile number from a natural number. -/
def tileOf (n : Nat) : Fin 8 := ⟨n % 8, Nat.mod_lt _ (by decide)⟩

/-- The index of a thread. -/
def thrIx : Thr → Fin 4
  | .main => 0 | .msg => 1 | .walk => 2 | .svc => 3

/-- A thread. -/
def Tile.thr (x : Tile) (h : Fin 4) : Thread := x.threads[h]

/-- Change a thread. -/
def Tile.onThr (x : Tile) (h : Fin 4) (f : Thread → Thread) : Tile :=
  { x with threads := x.threads.set h (f x.threads[h]) }

/-- The outcome of a meaning. -/
abbrev Out3 := Host.Outcome State Fault Refusal

/-- The outcome of a meaning that always has an effect: the state computed, with the queue as it was, since a command
changes everything but the queue (DESIGN CHOICE, unsafe, log entry 1). -/
def ok (s t : State) : Out3 := .next { t with pending := s.pending }

end Sys2Proof.Machine
end

