-- ==== Sys2Proof/Machine/Memory.lean ====
section
/-! DEFINITION. The device address map, assignment of memory to functions, bytes and poison, and address translation
(chapters 9 and 15). -/
namespace Sys2Proof.Machine

/-! ### The address map (R206, R208) -/

/-- Where a device physical address lies (Table 9-1). -/
inductive Region where
  | peat (t : Nat)
  | mere (t : Nat)
  | hbm (k off : Nat)
  | host (off : Nat)
  | fen (rank off : Nat)
  | unmapped
  deriving DecidableEq, Repr

/-- Peat, Mere and HBM4 ranges of Table 9-1. -/
def deviceRegion (pa : Nat) : Region :=
  if pa < 0x1000000000 then .peat (pa / 0x200000000)
  else if pa < 0x1020000000 then
    let o := pa - 0x1000000000
    if o % 0x4000000 < 0x3000000 then .mere (o / 0x4000000) else .unmapped
  else if 0x4000000000 ≤ pa ∧ pa < 0xC000000000 then
    let o := pa - 0x4000000000
    if o % 0x1000000000 < 0xC00000000 then .hbm (o / 0x1000000000) (o % 0x1000000000) else .unmapped
  else .unmapped

/-- Table 9-1. -/
def regionOf (pa : Nat) : Region :=
  if 0x10000000000 ≤ pa ∧ pa < 0x20000000000 then .host (pa - 0x10000000000)
  else if 0x800000000000 ≤ pa ∧ pa < 0x800000000000 + 64 * 0x10000000000 then
    .fen ((pa - 0x800000000000) / 0x10000000000) ((pa - 0x800000000000) % 0x10000000000)
  else deviceRegion pa

/-- The device's own Fen rank (rank 0 in no Fen). -/
def State.rank (s : State) : Nat := s.rd F.FEN_STATUS_RANK 0

/-- An address of the device's own rank window is the local address its offset names (R208). -/
def State.localise (s : State) (pa : Nat) : Nat :=
  match regionOf pa with
  | .fen d off => if d = s.rank then off else pa
  | _ => pa

/-- A local memory range of the device. -/
def Region.isDevice : Region → Bool
  | .peat _ | .mere _ | .hbm _ _ => true
  | _ => false

/-- Whether a rank may be reached: a member of a FORMED Fen that is not failed and has a valid route (R208, R342). -/
def State.rankReachable (s : State) (d : Nat) : Bool :=
  s.rd F.FEN_STATUS_STATE 0 = 2 && bits (s.rd F.FEN_MEMBERS_MASK 0) d 1 = 1 && bits (s.rd F.FLT_FENFAIL_RANKS 0) d 1 = 0 && s.flag F.FEN_ROUTE_VALID 0 d

/-- The region an access reaches, unmapped where R206 or R208 says so. -/
def State.region (s : State) (pa : Nat) : Region :=
  match regionOf pa with
  | .fen d off =>
    if d = s.rank then deviceRegion off
    else if (deviceRegion off).isDevice && s.rankReachable d then .fen d off else .unmapped
  | r => r

/-! ### Assignment (R377, R380) -/

/-- VF f (1 to 31) has an enabled partition. -/
def State.partOn (s : State) (f : Nat) : Bool := s.flag F.HIU_PART_CFG_EN 0 (f - 1)

/-- The virtual function numbers. -/
def vfNums : List Nat := (List.range 31).map (· + 1)

/-- VF f's partition holds tile t. -/
def State.vfHasTile (s : State) (f t : Nat) : Bool :=
  s.partOn f && decide (bits (s.rd F.HIU_PART_CFG_TILES 0 (f - 1)) t 1 = 1)

/-- The function that owns tile t (R377). -/
def State.ownerOf (s : State) (t : Nat) : Nat := (vfNums.find? (fun f => s.vfHasTile f t)).getD 0

/-- The four fields of each of the eight PART_HBM entries. -/
def partHbm : List (Fld × Fld × Fld × Fld) :=
  [(F.HIU_PART_HBM0_V, F.HIU_PART_HBM0_STACK, F.HIU_PART_HBM0_FIRST, F.HIU_PART_HBM0_COUNT),
   (F.HIU_PART_HBM1_V, F.HIU_PART_HBM1_STACK, F.HIU_PART_HBM1_FIRST, F.HIU_PART_HBM1_COUNT),
   (F.HIU_PART_HBM2_V, F.HIU_PART_HBM2_STACK, F.HIU_PART_HBM2_FIRST, F.HIU_PART_HBM2_COUNT),
   (F.HIU_PART_HBM3_V, F.HIU_PART_HBM3_STACK, F.HIU_PART_HBM3_FIRST, F.HIU_PART_HBM3_COUNT),
   (F.HIU_PART_HBM4_V, F.HIU_PART_HBM4_STACK, F.HIU_PART_HBM4_FIRST, F.HIU_PART_HBM4_COUNT),
   (F.HIU_PART_HBM5_V, F.HIU_PART_HBM5_STACK, F.HIU_PART_HBM5_FIRST, F.HIU_PART_HBM5_COUNT),
   (F.HIU_PART_HBM6_V, F.HIU_PART_HBM6_STACK, F.HIU_PART_HBM6_FIRST, F.HIU_PART_HBM6_COUNT),
   (F.HIU_PART_HBM7_V, F.HIU_PART_HBM7_STACK, F.HIU_PART_HBM7_FIRST, F.HIU_PART_HBM7_COUNT)]

/-- VF f's registers list gigabyte g of stack k, its partition enabled or not. -/
def State.vfListsGib (s : State) (f k g : Nat) : Bool :=
  partHbm.any (fun e =>
    s.flag e.1 0 (f - 1) && decide (s.rd e.2.1 0 (f - 1) = k) && decide (s.rd e.2.2.1 0 (f - 1) ≤ g) &&
      decide (g ≤ s.rd e.2.2.1 0 (f - 1) + s.rd e.2.2.2 0 (f - 1)))

/-- VF f holds gigabyte g of stack k. -/
def State.vfHasGib (s : State) (f k g : Nat) : Bool := s.partOn f && s.vfListsGib f k g

/-- Function f's assignment includes tile t (R377). -/
def State.hasTile (s : State) (f t : Nat) : Bool := if f = 0 then decide (s.ownerOf t = 0) else s.vfHasTile f t

/-- The lowest-numbered enabled host window mapping of f that covers an offset (R380). -/
def State.hwin (s : State) (f off : Nat) : Option Nat :=
  (List.range 16).find? (fun n =>
    s.flag F.HIU_HWIN_CFG_EN f n &&
      decide (s.rd F.HIU_HWIN_CFG_OFF f n * 0x200000 ≤ off) &&
      decide (off < (s.rd F.HIU_HWIN_CFG_OFF f n + s.rd F.HIU_HWIN_CFG_PAGES f n) * 0x200000))

/-- The host address of a host window offset through mapping n. -/
def State.hwinAddr (s : State) (f n off : Nat) : Nat :=
  (s.rd F.HIU_HWIN_HOST_HADDR f n * 0x200000 + (off - s.rd F.HIU_HWIN_CFG_OFF f n * 0x200000)) % 2 ^ 64

/-- A managed unit is in service: neither QUARANTINED, FAILED, nor failed and not yet brought back (R413, R425, R446). -/
def State.unitIn (s : State) (u : Nat) : Bool :=
  s.rd F.FRV_USR_STATE 0 u ≠ 3 && s.rd F.FRV_USR_STATE 0 u ≠ 4 && !s.flt.down.contains u

/-- What ATS lets function f do with a host address: all, where ATS is off or no translation has come yet, else what the answer allows
(R381). -/
def State.atsOk (s : State) (f a : Nat) (wr : Bool) : Bool :=
  if !(s.fn f).ats then true
  else match (s.fn f).trans.find? (a / 4096) with
    | none => true
    | some none => false
    | some (some (_, w)) => !wr || w

/-- The host address an access of function f uses: translated, where ATS is on and has answered. -/
def State.hostAddr (s : State) (f n off : Nat) : Nat :=
  let a := s.hwinAddr f n off
  if !(s.fn f).ats then a
  else match (s.fn f).trans.find? (a / 4096) with
    | some (some (h, _)) => h * 4096 + a % 4096
    | _ => a

/-- Function f's host window maps an offset for an access. -/
def State.hostOk (s : State) (f off : Nat) (wr : Bool) : Bool :=
  match s.hwin f off with
  | some n => s.atsOk f (s.hwinAddr f n off) wr
  | none => false

/-- An address lies within function f's assignment (R377), whose units are in service. -/
def State.assigned (s : State) (f pa : Nat) (wr : Bool := false) : Bool :=
  match s.region pa with
  | .peat t | .mere t => s.hasTile f t && s.unitIn t
  | .hbm k off =>
    s.unitIn (8 + k) &&
      if f = 0 then vfNums.all (fun v => !s.vfHasGib v k (off / 0x40000000)) else s.vfHasGib f k (off / 0x40000000)
  | .host off => (f = 0 || s.partOn f) && s.hostOk f off wr
  | .fen _ _ => f = 0 || (s.partOn f && s.flag F.HIU_PART_CFG_FEN 0 (f - 1))
  | .unmapped => false

/-- The memory an address reaches is Off (R493). -/
def State.memOff (s : State) (pa : Nat) : Bool :=
  match s.region pa with
  | .peat t | .mere t => s.rd F.TPC_STATUS_STATE t = 4
  | .hbm k _ => s.rd F.HMC_STATUS_STATE k = 0
  | _ => false

/-! ### Faults of an access -/

/-- What stops an access (R218, R220, R215). The number is the level whose entry faulted. -/
inductive MFault where
  | novalid (level : Nat)
  | malformed (level : Nat)
  | perm | unmapped | assign | off
  | poison
  deriving DecidableEq, Repr

/-- The trap cause (Table 7-13). -/
def MFault.cause : MFault → Nat
  | .novalid _ | .malformed _ => 4
  | .poison => 16
  | _ => 5

/-- TMU.FAULT_STATUS.CAUSE and FAULT_VA.LEVEL; a poisoned read records none. -/
def MFault.record : MFault → Option (Nat × Nat)
  | .novalid l => some (0, l) | .malformed l => some (1, l) | .perm => some (2, 7) | .unmapped => some (3, 7)
  | .assign => some (4, 7) | .off => some (5, 7) | .poison => none

/-- The checks of R220 on a physical address, in order. -/
def State.paCheck (s : State) (f pa : Nat) (wr : Bool := false) : Except MFault Unit :=
  if s.region pa = .unmapped then .error .unmapped
  else if !s.assigned f pa wr then .error .assign
  else if s.memOff pa then .error .off
  else .ok ()

/-! ### Bytes and poison -/

/-- A byte of host memory as the device reads it: behind the device's own relaxed writes to it. -/
def State.hostByte (s : State) (a : Nat) : Byte :=
  match s.relaxed.reverse.find? (fun p => decide (p.1 = a)) with
  | some p => p.2
  | none => s.hostMem.getD a 0

/-- A byte as function f reads it: the host window goes to host memory (R209) (DESIGN CHOICE, unsafe, log entry 3). -/
def State.byteAt (s : State) (f pa : Nat) : Byte :=
  match s.region pa with
  | .host off => match s.hwin f off with
    | some n => s.hostByte (s.hostAddr f n off)
    | none => 0
  | _ => s.mem.getD (s.localise pa) 0

/-- Consecutive bytes. -/
def State.readBytes (s : State) (f pa n : Nat) : List Byte := (List.range n).map (fun i => s.byteAt f (pa + i))

/-- A little-endian integer of bytes (R3). -/
def leNat : List Byte → Nat
  | [] => 0
  | b :: l => b.toNat + 256 * leNat l

/-- The n low bytes of an integer, little-endian. -/
def leBytes : Nat → Nat → List Byte
  | 0, _ => []
  | n + 1, v => BitVec.ofNat 8 v :: leBytes n (v / 256)

/-- A little-endian integer in memory. -/
def State.readNat (s : State) (f pa n : Nat) : Nat := leNat (s.readBytes f pa n)

/-- The granule of an address is poisoned. -/
def State.isPoison (s : State) (pa : Nat) : Bool := s.poison.contains (s.localise pa / 32)

/-- The first poisoned granule of a range, by its lowest byte in the range. -/
def State.poisonIn (s : State) (pa n : Nat) : Bool :=
  n ≠ 0 && (List.range ((pa + n - 1) / 32 - pa / 32 + 1)).any (fun i => s.isPoison ((pa / 32 + i) * 32))

/-- A byte written through mapping n of function f: one with RELAX = 1 reaches host memory later, in no order (R380). -/
def State.hostPut (s : State) (f n a : Nat) (b : Byte) : State :=
  if s.flag F.HIU_HWIN_CFG_RELAX f n then { s with relaxed := s.relaxed ++ [(a, b)] } else { s with hostMem := s.hostMem.set 0 a b }

/-- One byte that relaxed order holds back reaches host memory. -/
def State.relaxLand (s : State) (k : Nat) : State :=
  match s.relaxed[k % s.relaxed.length]? with
  | none => s
  | some p => { s with relaxed := s.relaxed.eraseIdx (k % s.relaxed.length), hostMem := s.hostMem.set 0 p.1 p.2 }

/-- Every byte that relaxed order holds back reaches host memory, in a free order. -/
def State.relaxedOut (s : State) : State :=
  if s.relaxed = [] then s else ((List.range s.relaxed.length).foldl (fun u i => u.relaxLand (s.free i)) s).drawn

/-- Write one byte, without any gate. -/
def State.putByte (s : State) (f pa : Nat) (b : Byte) : State :=
  match s.region pa with
  | .host off => match s.hwin f off with
    | some n => s.hostPut f n (s.hostAddr f n off) b
    | none => s
  | _ => { s with mem := s.mem.set 0 (s.localise pa) b }

/-- Write consecutive bytes one by one. -/
def State.putBytes (s : State) (f : Nat) : Nat → List Byte → State
  | _, [] => s
  | pa, b :: l => (s.putByte f pa b).putBytes f (pa + 1) l

/-- A write that covers all 32 bytes of a granule clears its poison (R214). -/
def State.clearPoison (s : State) (pa n : Nat) : State :=
  { s with poison := s.poison.filter (fun g =>
      !(decide (s.localise pa ≤ g * 32) && decide (g * 32 + 32 ≤ s.localise pa + n))) }

/-- Mark a granule poisoned. -/
def State.markPoison (s : State) (pa : Nat) : State :=
  if s.isPoison pa then s else { s with poison := s.poison ++ [s.localise pa / 32] }

/-- Poison travels with a copy of n bytes between granule-aligned addresses (R214). -/
def State.copyPoison (s : State) (src dst n : Nat) : State :=
  let a := s.localise src / 32
  let b := s.localise dst / 32
  let k := n / 32
  { s with poison := s.poison.filter (fun g => !(decide (b ≤ g) && decide (g < b + k))) ++
      (s.poison.filter (fun g => decide (a ≤ g) && decide (g < a + k))).map (fun g => g - a + b) }

/-! ### Traffic of the stacks (Table 9-9) -/

/-- Bytes read from an address: a stack counts them. -/
def State.tookBytes (s : State) (pa n : Nat) : State :=
  match s.region pa with
  | .hbm k _ => s.count F.HMC_CNT_RD_BYTES k n
  | _ => s

/-- Bytes written at an address: a stack counts them. -/
def State.gaveBytes (s : State) (pa n : Nat) : State :=
  match s.region pa with
  | .hbm k _ => s.count F.HMC_CNT_WR_BYTES k n
  | _ => s

/-! ### Wakes (R202, R211, R363, R366, R367) -/

/-- A wake request reaches a tile's TPC, for the whole tile or for its memory only. A tile in Run, waking, or in Off takes no
notice, but a request for the whole tile extends a wake of its memory; a request during an entry waits for its end. -/
def State.wakeTile (s : State) (t : Fin 8) (full : Bool) : State :=
  let st := s.rd F.TPC_STATUS_STATE t.val
  let entering := s.flag F.TPC_STATUS_ENTERING t.val
  if st = 4 || (st = 0 && !entering) || (!full && !entering && s.flag F.TPC_STATUS_MEMWAKE t.val) then s
  else
    let s1 := s.onTile t (fun x => { x with tpc := { x.tpc with full := x.tpc.full || full, mem := x.tpc.mem || !full } })
    if entering then s1 else s1.wr F.TPC_STATUS_WAKING t.val 1

/-- What an access may need awake: a tile's memory, an HBM4 stack, or a fabric region. -/
inductive WakeT where
  | mem (t : Nat)
  | stack (k : Nat)
  | fab (i : Nat)
  deriving DecidableEq, Repr

/-- The fabric region of a tile's column (R363). -/
def tileFab (t : Nat) : Nat := t % 4

/-- What an access to an address reaches, from a tile or (none) from FB4. -/
def State.crosses (s : State) (t : Option (Fin 8)) (pa : Nat) : List WakeT :=
  let here : List WakeT := match t with | some u => [.fab (tileFab u.val)] | none => [.fab 4]
  match s.region pa with
  | .peat u | .mere u => if t = some (tileOf u) then [] else .mem u :: .fab (tileFab u) :: here
  | .hbm k _ => .stack k :: .fab 4 :: here
  | .host _ | .fen _ _ => .fab 4 :: here
  | .unmapped => []

/-- A target serves accesses: Run, memory awake, or Off, which refuses instead of waking (R202, R203). -/
def State.awake (s : State) : WakeT → Bool
  | .mem u => s.rd F.TPC_STATUS_STATE u = 0 || s.rd F.TPC_STATUS_STATE u = 4 || s.flag F.TPC_STATUS_MEMWAKE u
  | .stack k => s.rd F.HMC_STATUS_STATE k = 2 || s.rd F.HMC_STATUS_STATE k = 0
  | .fab i => bits (s.rd F.PCM_STATUS_FABGATED 0) i 1 = 0

/-- A fabric region runs again, and with it the fabric PLL (R363). -/
def State.ungate (s : State) (i : Nat) : State :=
  let g := s.rd F.PCM_STATUS_FABGATED 0
  let g1 := if bits g i 1 = 1 then g - 2 ^ i else g
  (s.wr F.PCM_STATUS_FABGATED 0 g1).wr F.PCM_STATUS_FPLL_OFF 0 0

/-- A stack leaves self-refresh; FB4 is never gated while a stack is Active (R363). -/
def State.stackUp (s : State) (k : Nat) : State := (s.wr F.HMC_STATUS_STATE k 2).ungate 4

/-- Raise a wake request for a target that is not awake. A region and a stack answer it at once: how long they take is timing (DESIGN
CHOICE, unsafe, log entry 46); a tile's memory answers with TILE_WAKE_COMPLETE. -/
def State.raiseWake (s : State) (w : WakeT) : State :=
  if s.awake w then s
  else match w with
    | .mem u => s.wakeTile (tileOf u) false
    | .stack k => s.stackUp k
    | .fab i => s.ungate i

/-- An access to an address asks for what it reaches to be awake; it is then served (R211, R363). -/
def State.wakeFor (s : State) (t : Option (Fin 8)) (pa : Nat) : State := (s.crosses t pa).foldl (fun s w => s.raiseWake w) s

/-! ### ATS translations (R381) -/

/-- The untranslated host page an access of function f reaches, while ATS is on. -/
def State.hostPage (s : State) (f pa : Nat) : Option Nat :=
  if !(s.fn f).ats then none
  else match s.region pa with
    | .host off => (s.hwin f off).map (fun n => s.hwinAddr f n off / 4096)
    | _ => none

/-- The ATC holds no translation for an access, which then waits for one. -/
def State.atsNeeds (s : State) (f pa : Nat) : Bool :=
  match s.hostPage f pa with
  | some p => !(s.fn f).atc.contains p
  | none => false

/-- A translation an access needs has been asked for and not come. -/
def State.atsWaits (s : State) (f pa : Nat) : Bool :=
  match s.hostPage f pa with
  | some p => (s.fn f).atcAsked.contains p
  | none => false

/-- Send a Translation Request for the page of an access, unless the ATC has it or it is asked for. -/
def State.atsAsk (s : State) (f pa : Nat) : State :=
  match s.hostPage f pa with
  | some p =>
    if (s.fn f).atc.contains p || (s.fn f).atcAsked.contains p then s
    else (s.onFn f (fun x => { x with atcAsked := x.atcAsked ++ [p] })).emit (.other "ATS_REQUEST" [f, p])
  | none => s

/-- Ask for what accesses of function f need. -/
def State.atsAsks (s : State) (f : Nat) (l : List Nat) : State := if (s.fn f).ats then l.foldl (fun s a => s.atsAsk f a) s else s

/-! ### The copy-before-write shadow of a checkpoint (R319) -/

/-- Block number of an address among a job's regions, and the block's base. -/
def blockOf : List (Nat × Nat) → Nat → Nat → Option (Nat × Nat)
  | [], _, _ => none
  | (b, n) :: l, k, pa =>
    if b ≤ pa ∧ pa < b + n * 65536 then some (k + (pa - b) / 65536, b + (pa - b) / 65536 * 65536)
    else blockOf l (k + n) pa

/-- A free shadow slot of the job. -/
def CkJob.freeSlot (j : CkJob) : Option Nat :=
  (List.range j.shadowBlocks).find? (fun i => !j.slots.any (fun p => decide (p.2 = i)))

/-- What the gate says of a write to an address: it proceeds, it proceeds after the block is shadowed, or it is held. -/
inductive Gate where
  | pass
  | shadow (block base slot : Nat)
  | hold
  deriving DecidableEq, Repr

/-- What the state of an address's block says of a write to it (R319). -/
def State.blockGate (s : State) (pa : Nat) : Gate :=
  match s.ck with
  | none => .pass
  | some j =>
    if j.restore || j.epoch.isNone then .pass
    else match blockOf j.regions 0 (s.localise pa) with
      | none => .pass
      | some (k, base) =>
        match j.blocks[k]?.getD 3 with
        | 0 => match j.freeSlot with
          | some sl => .shadow k base sl
          | none => .hold
        | 1 => .hold
        | _ => .pass

/-- The gate of R319 for a write to an address: what its block's state says, but behind a write still held on the same block, so that
they proceed in their arrival order. -/
def State.gate (s : State) (pa : Nat) : Gate :=
  match s.ck with
  | none => .pass
  | some j =>
    if j.held.any (fun h => decide (s.localise h.pa / 65536 = s.localise pa / 65536)) then .hold else s.blockGate pa

/-- Put a block's state into the job and, unless it is a RESTORE, into BMAP (R319, R324). -/
def State.blockTo (s : State) (j : CkJob) (k st : Nat) : State :=
  let a := j.bmap + k / 4
  let b := (s.byteAt 0 a).toNat
  let lo := 2 * (k % 4)
  let s1 := if j.restore then s else (s.wakeFor none a).putByte 0 a (BitVec.ofNat 8 (b - bits b lo 2 * 2 ^ lo + Config.bmapCode st % 4 * 2 ^ lo))
  { s1 with ck := some { j with blocks := j.blocks.set k st } }

/-- Copy a PENDING block whole, its poison with it, into its shadow slot and mark it SHADOWED (SHADOW_COPY). -/
def State.shadowCopy (s : State) (block base slot : Nat) : State :=
  match s.ck with
  | none => s
  | some j =>
    let at_ := j.shadow + slot * 65536
    (((s.wakeFor none at_).putBytes 0 at_ (s.readBytes 0 base 65536)).copyPoison base at_ 65536).blockTo { j with slots := j.slots.put block slot } block 2

/-! ### Requests to other ranks (R208, R329, R340, R344) -/

/-- A port beside its registers. -/
def State.port (s : State) (p : Nat) : Port := s.ports.getD p .reset

/-- Change a port. -/
def State.onPort (s : State) (p : Nat) (f : Port → Port) : State := { s with ports := s.ports.set .reset p (f (s.port p)) }

/-- The output port toward a rank for a packet of a source rank (R340), when the route is VALID. -/
def State.routePort (s : State) (d src : Nat) : Option Nat :=
  if !s.flag F.FEN_ROUTE_VALID 0 d then none
  else if s.flag F.FEN_ROUTE_PAIR 0 d && src % 2 = 1 then some (s.rd F.FEN_ROUTE_PORT2 0 d)
  else some (s.rd F.FEN_ROUTE_PORT 0 d)

/-- The dateline class of a packet of class `c` that leaves on a port, having arrived on a port of dimension `from`, or first
sent here (R341). -/
def State.dlOut (s : State) (src : Option Nat) (c out : Nat) : Nat :=
  if s.flag F.FEN_PORTMAP_DATELINE 0 out then 1
  else match src with
    | some i => if s.rd F.FEN_PORTMAP_DIM 0 i = s.rd F.FEN_PORTMAP_DIM 0 out then c else 0
    | none => 0

/-- A rank has been declared failed (R428). -/
def State.failed (s : State) (d : Nat) : Bool := bits (s.rd F.FLT_FENFAIL_RANKS 0) d 1 = 1

/-- Queue a packet of this device toward a rank (R329); with no route, or toward a failed rank, it is discarded (R431). -/
def State.sendPkt (s : State) (k : Pkt) (vc d : Nat) (poison : Bool) : State :=
  if s.failed d then s
  else match s.routePort d s.rank with
  | none => s
  | some p => s.onPort p (fun x => { x with queue := x.queue ++ [⟨k, vc, d, s.rank, s.dlOut none 0 p, poison, 0⟩] })

/-- The other members of the Fen that are not failed. -/
def State.peers (s : State) : List Nat :=
  (List.range 64).filter (fun d => bits (s.rd F.FEN_MEMBERS_MASK 0) d 1 = 1 && d ≠ s.rank && !s.failed d)

/-- Send a message of the FLT to every other member (R427 to R429). -/
def State.tellMembers (s : State) (kind : MgmtKind) (data : List Nat) : State :=
  s.peers.foldl (fun s d => s.sendPkt (.mgmt kind data) 6 d false) s

/-- The lowest tag no request in flight holds (R344). -/
def State.freeRemTag (s : State) : Option Nat := (List.range (s.rem.length + 1)).find? (fun i => (s.rem.find? i).isNone && i < 4096)

/-- The virtual channel of a memory request (R330). -/
def RemReq.vc (r : RemReq) : Nat := if r.bulk then 7 else 2

/-- Send a request under a tag (R344), or let it wait for one. -/
def State.request (s : State) (r : RemReq) : State :=
  match s.freeRemTag with
  | none => { s with remWait := s.remWait ++ [r] }
  | some tag =>
    ({ s with rem := s.rem.put tag r }.count F.FEN_CNT_REMREQ_COUNT 0 1).sendPkt
      (.mem ⟨r.mop, 0, r.n, tag, r.addr, false⟩ r.data false) r.vc r.rank false

/-- Write requests for a range of another rank's memory, none across a 256 B boundary (R330). -/
def State.remoteWrite (s : State) (rank : Nat) (bulk : Bool) (who : Who) : Nat → Nat → List Byte → State
  | 0, _, _ => s
  | _, _, [] => s
  | k + 1, off, b :: bs =>
    let n := min (256 - off % 256) (bs.length + 1)
    (s.request ⟨who, mopWr, off, n, rank, (b :: bs).take n, bulk⟩).remoteWrite rank bulk who k (off + n) ((b :: bs).drop n)

/-- A signed number as 32 bits. -/
def low32 (x : Int) : Nat := (x % 4294967296).toNat

/-- The bytes an update leaves (R305, R306). While SEEN is 0, CURMAX holds no recorded value, so the first one recorded stands (DEDUCED,
unsafe, log entry 11). -/
def State.updBytes (s : State) (f pa : Nat) : MemUpd → List Byte
  | .put bs => bs
  | .addw n => leBytes 8 ((s.readNat f pa 8 + n) % 2 ^ 64)
  | .add n =>
    let v := s.readNat f pa 8
    leBytes 8 (v / 2 ^ 48 * 2 ^ 48 + min (v % 2 ^ 48 + n) (2 ^ 48 - 1))
  | .curmax m =>
    let w := s.readNat f pa 8
    leBytes 8 (w / 2 ^ 33 * 2 ^ 33 + 2 ^ 32 + low32 (if bits w 32 1 = 1 then max (sext 32 w) m else m))
  | .clear => []

/-- Bytes an update covers, for poison. -/
def MemUpd.span : MemUpd → Nat
  | .put bs => bs.length
  | .add _ | .addw _ | .curmax _ => 8
  | .clear => 32

/-- Perform an update at its memory, which counts what it writes. -/
def State.perform (s : State) (f pa : Nat) (u : MemUpd) : State :=
  let bs := s.updBytes f pa u
  ((s.putBytes f pa bs).clearPoison pa u.span).gaveBytes pa bs.length

/-- An update of this device's memory or of host memory that lies in one checkpoint block: at once, after a shadow copy, or held (R319). -/
def State.update (s : State) (f pa : Nat) (u : MemUpd) (who : Who := .none) : State :=
  match s.gate pa with
  | .pass => s.perform f pa u
  | .shadow k base slot => (s.shadowCopy k base slot).perform f pa u
  | .hold => match s.ck with
    | some j => { s with ck := some { j with held := j.held ++ [⟨f, pa, u, who⟩] } }
    | none => s

/-- A write to the host window leaves with its mapping's attributes; a completion record's has Relaxed Ordering clear (R380, R392). -/
def State.hostSent (s : State) (f pa n : Nat) : State :=
  match s.region pa with
  | .host off => match s.hwin f off with
    | some w => s.emit (.hostWrite (s.hostAddr f w off) n (s.flag F.HIU_HWIN_CFG_NOSNOOP f w) (s.flag F.HIU_HWIN_CFG_RELAX f w))
    | none => s
  | _ => s

/-- Bytes put into host memory with Relaxed Ordering clear. -/
def State.hostPlain (s : State) (f : Nat) : Nat → List Byte → State
  | _, [] => s
  | pa, b :: l =>
    (match s.region pa with
      | .host off => match s.hwin f off with
        | some n => ({ s with hostMem := s.hostMem.set 0 (s.hostAddr f n off) b } : State)
        | none => s
      | _ => s).hostPlain f (pa + 1) l

/-- Write bytes that lie in one checkpoint block. A write to another rank's window leaves as write requests, and the bytes stand in this
device's image of the window. -/
def State.writeBytes (s : State) (f pa : Nat) (bs : List Byte) (who : Who := .none) (bulk : Bool := false) : State :=
  match s.region pa with
  | .fen d off => ((s.putBytes f pa bs).clearPoison pa bs.length).remoteWrite d bulk who (bs.length / 256 + 2) off bs
  | .host _ => (s.hostSent f pa bs.length).perform f pa (.put bs)
  | _ => s.update f pa (.put bs) who

/-- An atomic update of a statistics word (R306); in another rank's window it leaves as a write. -/
def State.updateWord (s : State) (f pa : Nat) (u : MemUpd) : State :=
  match s.region pa with
  | .fen _ _ => s.writeBytes f pa (s.updBytes f pa u)
  | _ => s.update f pa u

/-- Writes just made become a waiter's own. -/
def State.claim (s : State) (w : Who) : State :=
  let own (r : RemReq) : RemReq := if r.who = .none then { r with who := w } else r
  { s with
    rem := s.rem.map (fun p => (p.1, own p.2))
    remWait := s.remWait.map own
    ck := s.ck.map (fun j => { j with held := j.held.map (fun h => if h.who = .none then { h with who := w } else h) }) }

/-- Some write or request of a waiter is still in flight, waiting for a tag, or held. -/
def State.owes (s : State) (p : Who → Bool) : Bool :=
  s.rem.any (fun e => p e.2.who) || s.remWait.any (fun r => p r.who) ||
    (match s.ck with | some j => j.held.any (fun h => p h.who) | none => false)

/-- Write an n-byte little-endian integer. -/
def State.writeNat (s : State) (f pa n v : Nat) : State := s.writeBytes f pa (leBytes n v)

/-! ### Translation (R216 to R222) -/

/-- A successful translation of a page. -/
structure Leaf where
  lg : Nat
  pa : Nat
  r : Bool
  w : Bool
  x : Bool
  deriving DecidableEq, Repr

/-- What reading one table entry gives. -/
inductive WalkRes where
  | down (level table : Nat)
  | leaf (l : Leaf)
  | fail (e : MFault)
  deriving DecidableEq, Repr

/-- The address field of an entry. -/
def ptePa (e : Nat) : Nat := bits e 12 40 * 4096

/-- A level-0 group of 16 entries maps one 64 KiB page (R219); each entry read keeps R218, and poison in any of them ends the walk. -/
def State.groupOk (s : State) (table idx : Nat) : Except MFault Leaf :=
  let base := idx / 16 * 16
  let es := (List.range 16).map (fun i => s.readNat 0 (table + 8 * (base + i)) 8)
  let e0 := es.headD 0
  let ok := bits e0 12 4 = 0 && es.zipIdx.all (fun p =>
    decide (bits p.1 0 2 = 1) && decide (bits p.1 5 1 = 1) && decide (bits p.1 6 6 = 0) && decide (bits p.1 52 12 = 0) && decide (bits p.1 2 3 = bits e0 2 3) &&
      decide (ptePa p.1 = ptePa e0 + 4096 * p.2))
  if s.poisonIn (table + 8 * base) 128 then .error .poison
  else if ok then .ok ⟨16, ptePa e0, bits e0 2 1 = 1, bits e0 3 1 = 1, bits e0 4 1 = 1⟩ else .error (.malformed 0)

/-- Read the entry of one level and apply R218 and R219. -/
def State.walkEntry (s : State) (level table va : Nat) : WalkRes :=
  if !(deviceRegion table).isDevice then .fail (.malformed level)
  else
    let idx := bits va (12 + 9 * level) 9
    let at_ := table + 8 * idx
    if s.memOff at_ then .fail .off
    else if s.isPoison at_ then .fail .poison
    else
      let e := s.readNat 0 at_ 8
      let tbit := decide (bits e 1 1 = 1)
      let cont := decide (bits e 5 1 = 1)
      if bits e 0 1 = 0 then .fail (.novalid level)
      else if bits e 6 6 ≠ 0 ∨ bits e 52 12 ≠ 0 then .fail (.malformed level)
      else if (level = 3 ∧ !tbit) ∨ (level = 0 ∧ tbit) ∨ (cont ∧ level ≠ 0) then .fail (.malformed level)
      else if tbit then
        if (deviceRegion (ptePa e)).isDevice then .down (level - 1) (ptePa e) else .fail (.malformed level)
      else if cont then
        match s.groupOk table idx with
        | .ok l => .leaf l
        | .error e => .fail e
      else
        let lg := 12 + 9 * level
        if ptePa e % 2 ^ lg ≠ 0 then .fail (.malformed level)
        else .leaf ⟨lg, ptePa e, bits e 2 1 = 1, bits e 3 1 = 1, bits e 4 1 = 1⟩

/-- How many table entries that reads: none outside the device or in Off memory, 16 of a group, else one (R219, Table 9-7). -/
def State.walkReads (s : State) (level table va : Nat) : Nat :=
  let at_ := table + 8 * bits va (12 + 9 * level) 9
  if !(deviceRegion table).isDevice || s.memOff at_ then 0
  else
    let e := s.readNat 0 at_ 8
    if level = 0 ∧ !s.isPoison at_ ∧ bits e 0 2 = 1 ∧ bits e 5 7 = 1 ∧ bits e 52 12 = 0 then 16 else 1

/-- Walk from a table down to a leaf. -/
def State.walkFrom (s : State) (va : Nat) : Nat → Nat → Nat → Except MFault Leaf
  | 0, level, _ => .error (.malformed level)
  | k + 1, level, table =>
    match s.walkEntry level table va with
    | .down l tb => s.walkFrom va k l tb
    | .leaf l => .ok l
    | .fail e => .error e

/-- A cached translation of an address. -/
def Tile.tlbHit (x : Tile) (va : Nat) : Option TlbEnt := x.tlb.find? (fun e => e.va / 2 ^ e.lg = va / 2 ^ e.lg)

/-- The permission check of R220. -/
def permOk (k : AccK) (r w x : Bool) : Bool :=
  match k with
  | .read => r | .write => w | .atomic => r && w | .fetch => x

/-- The page a tile virtual address lies in: a TLB entry or a fresh walk. -/
def State.pageOf (s : State) (t : Fin 8) (va : Nat) : Except MFault Leaf :=
  match (s.tile t).tlbHit va with
  | some e => .ok ⟨e.lg, e.pa, e.r, e.w, e.x⟩
  | none => s.walkFrom va 4 3 (s.rd F.TMU_ROOT_PA t.val * 4096)

/-- Translate and check an address for a tile's access (R216, R220); the address is taken modulo 2^48 (R494). -/
def State.translate (s : State) (t : Fin 8) (k : AccK) (va0 : Nat) : Except MFault Nat :=
  let va := va0 % 2 ^ 48
  let f := s.ownerOf t.val
  let wr := k = .write || k = .atomic
  if s.rd F.TMU_CTL_EN t.val = 0 then (s.paCheck f va wr).map (fun _ => va)
  else
    match s.pageOf t va with
    | .error e => .error e
    | .ok l =>
      if !permOk k l.r l.w l.x then .error .perm
      else
        let pa := l.pa + va % 2 ^ l.lg
        (s.paCheck f pa wr).map (fun _ => pa)

/-- The deepest cached table pointer for an address (R221). -/
def Tile.wcHit (x : Tile) (va : Nat) : Option WcEnt :=
  (x.wcache.filter (fun e => decide (e.va / 2 ^ (12 + 9 * e.level) = va / 2 ^ (12 + 9 * e.level)))).foldl
    (fun b e => match b with
      | none => some e
      | some c => if e.level < c.level then some e else b) none

/-- The last n elements of a list. -/
def keepLast {α : Type} (n : Nat) (l : List α) : List α := l.drop (l.length - n)

/-- Walk to the leaf of an address at once, counting the table entries read and caching those that may be cached (R221). -/
def State.walkCached (t : Fin 8) (va : Nat) : Nat → Nat → Nat → State → State
  | 0, _, _, s => s
  | k + 1, level, table, s =>
    let s1 := s.count F.TMU_CNT_WALK_COUNT t.val (s.walkReads level table va)
    match s.walkEntry level table va with
    | .down l tb => State.walkCached t va k l tb (s1.onTile t (fun x => { x with wcache := keepLast 64 (x.wcache ++ [⟨level, va, tb⟩]) }))
    | .leaf l => s1.onTile t (fun x =>
        { x with tlb := keepLast 2048 (x.tlb ++ [⟨va / 2 ^ l.lg * 2 ^ l.lg, l.lg, l.pa, l.r, l.w, l.x⟩]) })
    | .fail _ => s1

/-- The local store's range (R160). -/
abbrev lsBase : Nat := 0xFFFFFFFC0000

/-- The translation of one page for an operation, a block, an instruction fetch or the KVE: a TLB hit, or a miss and its walk. -/
def State.touchPage (s : State) (t : Fin 8) (va : Nat) : State :=
  let root := s.rd F.TMU_ROOT_PA t.val * 4096
  if lsBase ≤ va || ((s.tile t).tlbHit va).isSome then s
  else
    let s1 := s.count F.TMU_CNT_MISS_COUNT t.val 1
    if !(deviceRegion root).isDevice then s1
    else match (s.tile t).wcHit va with
      | some e => State.walkCached t va 4 (e.level - 1) e.pa s1
      | none => State.walkCached t va 4 3 root s1

/-- The translations of the pages of addresses, each an address in its page (R221; what leaves no trace at EN = 0). -/
def State.touchPages (s : State) (t : Fin 8) (l : List Nat) : State :=
  if s.rd F.TMU_CTL_EN t.val = 0 then s else l.foldl (fun s va => s.touchPage t (va % 2 ^ 48)) s

/-- Latch the TMU fault record or count a further fault (R238). -/
def State.tmuRecord (s : State) (t : Fin 8) (e : MFault) (va : Nat) (wr fetch oper : Bool) (tag : Nat) : State :=
  match e.record with
  | none => s
  | some (c, l) =>
    if s.flag F.TMU_FAULT_STATUS_VALID t.val then s.count F.TMU_FAULT_STATUS_COUNT t.val 1
    else s.wrs t.val 0 [(F.TMU_FAULT_STATUS_VALID, 1), (F.TMU_FAULT_STATUS_CAUSE, c),
      (F.TMU_FAULT_STATUS_WRITE, wr.toNat), (F.TMU_FAULT_STATUS_FETCH, fetch.toNat),
      (F.TMU_FAULT_STATUS_OPER, oper.toNat), (F.TMU_FAULT_STATUS_TAG, tag), (F.TMU_FAULT_STATUS_COUNT, 0),
      (F.TMU_FAULT_VA_VA, va % 2 ^ 48), (F.TMU_FAULT_VA_LEVEL, l)]

/-- Read n bytes at a tile virtual address that do not cross a page. -/
def State.loadVa (s : State) (t : Fin 8) (va n : Nat) : Except MFault Nat :=
  match s.translate t .read va with
  | .error e => .error e
  | .ok pa => if s.poisonIn pa n then .error .poison else .ok (s.readNat (s.ownerOf t.val) pa n)

end Sys2Proof.Machine
end

