-- ==== Sys2Proof/Machine/Operands.lean ====
section
/-! DEFINITION. Tensor descriptors: fields, addresses, footprints, legality, and reading a tensor (chapters 2 and 7). -/
namespace Sys2Proof.Machine

/-! ### Fields (Table 7-3) -/

/-- A descriptor taken apart. `n0` to `n3` are element counts (SIZE + 1); `ndim` is NDIM, one less than the dimensions. -/
structure TDesc where
  base : Nat
  sbase : Nat
  fmtc : Nat
  ndim : Nat
  rdim : Nat
  tso : Int
  stat : Nat
  statv : Bool
  rsv : Nat
  n0 : Nat
  n1 : Nat
  n2 : Nat
  n3 : Nat
  stride1 : Nat
  s2 : Nat
  s3 : Nat
  deriving DecidableEq, Repr

/-- Take a descriptor register apart. -/
def TDesc.of (d : DReg) : TDesc :=
  let v := d.toNat
  { base := bits v 0 48, sbase := bits v 48 48, fmtc := bits v 96 4, ndim := bits v 100 2, rdim := bits v 102 2
    tso := sext 16 (bits v 104 16), stat := bits v 120 12, statv := bits v 132 1 = 1, rsv := bits v 133 3
    n0 := bits v 136 24 + 1, n1 := bits v 160 12 + 1, n2 := bits v 172 12 + 1, n3 := bits v 184 8 + 1
    stride1 := bits v 192 32, s2 := bits v 224 16, s3 := bits v 240 16 }

/-- The format, when FMT is defined. -/
def TDesc.fmt? (d : TDesc) : Option Fmt := Fmt.ofCode d.fmtc

/-- The format of a legal descriptor. -/
def TDesc.fmt (d : TDesc) : Fmt := d.fmt?.getD .l16

/-- Size of a dimension. -/
def TDesc.dim (d : TDesc) : Nat → Nat
  | 0 => d.n0 | 1 => d.n1 | 2 => d.n2 | _ => d.n3

/-- Element stride of a dimension (R166). -/
def TDesc.str (d : TDesc) : Nat → Nat
  | 0 => 1 | 1 => d.stride1 | 2 => d.s2 * d.stride1 | _ => d.s3 * (d.s2 * d.stride1)

/-- Number of elements. -/
def TDesc.count (d : TDesc) : Nat := d.n0 * d.n1 * d.n2 * d.n3

/-- Number of rows along dimension 0. -/
def TDesc.rows (d : TDesc) : Nat := d.n1 * d.n2 * d.n3

/-! ### Addresses (R166) -/

/-- Coordinate k of the element with linear index i. -/
def TDesc.coord (d : TDesc) (i : Nat) : Nat → Nat
  | 0 => i % d.n0
  | 1 => i / d.n0 % d.n1
  | 2 => i / (d.n0 * d.n1) % d.n2
  | _ => i / (d.n0 * d.n1 * d.n2)

/-- The linear index of coordinates. -/
def TDesc.index (d : TDesc) (c0 c1 c2 c3 : Nat) : Nat := c0 + d.n0 * (c1 + d.n1 * (c2 + d.n2 * c3))

/-- Element offset of linear index i, in elements. -/
def TDesc.off (d : TDesc) (i : Nat) : Nat :=
  d.coord i 0 + d.coord i 1 * d.str 1 + d.coord i 2 * d.str 2 + d.coord i 3 * d.str 3

/-- Scale-byte offset of linear index i. -/
def TDesc.soff (d : TDesc) (i : Nat) : Nat :=
  let term (k : Nat) : Nat :=
    if k < d.rdim then d.coord i k * d.str k
    else if k = d.rdim then d.coord i k / 32 * d.str k
    else d.coord i k * (d.str k / 32)
  term 0 + term 1 + term 2 + term 3

/-- Address of an element. -/
def TDesc.eaddr (d : TDesc) (i : Nat) : Nat := d.base + d.fmt.bytes * d.off i

/-- Address of an element's scale byte (L8, L8W) or low-array element (L32S). -/
def TDesc.saddr (d : TDesc) (i : Nat) : Nat :=
  if d.fmt = .l32s then d.sbase + 2 * d.off i else d.sbase + d.soff i

/-! ### Footprints (R167) -/

/-- Largest coordinate of each dimension. -/
def TDesc.lastIndex (d : TDesc) : Nat := d.count - 1

/-- The element interval; offsets rise with every coordinate, so it runs from BASE to the last element's last byte. -/
def TDesc.elemIvl (d : TDesc) : Ivl := ⟨d.base, d.eaddr d.lastIndex + d.fmt.bytes - 1⟩

/-- The scale or low-array interval. -/
def TDesc.auxIvl (d : TDesc) : Option Ivl :=
  if d.fmt.scaled then some ⟨d.sbase, d.saddr d.lastIndex⟩
  else if d.fmt = .l32s then some ⟨d.sbase, d.saddr d.lastIndex + 1⟩
  else none

/-- One or two closed byte intervals. -/
def TDesc.footprint (d : TDesc) : List Ivl := d.elemIvl :: d.auxIvl.toList

/-- Two closed intervals share a byte (R188). -/
def Ivl.meets (a b : Ivl) : Bool := decide (a.lo ≤ b.hi) && decide (b.lo ≤ a.hi)

/-- Some interval of one list shares a byte with one of the other. -/
def ivlsMeet (a b : List Ivl) : Bool := a.any (fun x => b.any (fun y => x.meets y))

/-! ### Legality (R168) -/

/-- The clauses of R168 that a descriptor breaks by itself. -/
def TDesc.badShape (d : TDesc) : Bool :=
  decide (d.rsv ≠ 0) || decide (d.ndim < d.rdim) ||
    (d.ndim < 1 && d.n1 ≠ 1) || (d.ndim < 2 && d.n2 ≠ 1) || (d.ndim < 3 && d.n3 ≠ 1) ||
    (2 ≤ d.ndim && d.s2 = 0) || (d.ndim = 3 && d.s3 = 0)

/-- Some stride above RDIM and up to NDIM is not a multiple of 32. -/
def TDesc.badScaleStride (d : TDesc) : Bool :=
  d.fmt.scaled && [1, 2, 3].any (fun k => d.rdim < k && k ≤ d.ndim && d.str k % 32 ≠ 0)

/-- An address wraps modulo 2^48 (R494), or the footprint touches the local store (R160). -/
def TDesc.badRange (d : TDesc) : Bool := d.footprint.any (fun v => decide (lsBase ≤ v.hi))

/-- BASE or SBASE is not a multiple of the element size, or SBASE is set for a format without a second array. -/
def TDesc.badBase (d : TDesc) : Bool :=
  d.base % d.fmt.bytes ≠ 0 || d.sbase % d.fmt.bytes ≠ 0 || (d.auxIvl.isNone && d.sbase ≠ 0)

/-- Legal for an operation whose unit accepts the formats `acc` names. -/
def TDesc.legal (acc : Fmt → Bool) (d : TDesc) : Bool :=
  match d.fmt? with
  | none => false
  | some f => acc f && !d.badShape && !d.badBase && !d.badScaleStride && !d.badRange

/-- No two elements share an address. -/
def TDesc.injective (d : TDesc) : Bool := decide ((List.range d.count).map d.off).Nodup

/-- Legal as a destination. -/
def TDesc.legalDst (acc : Fmt → Bool) (d : TDesc) : Bool := d.legal acc && d.injective

/-- The log formats a unit computes on. -/
def Fmt.log : Fmt → Bool
  | .l8 | .l8w | .l16 | .l32 => true | _ => false

/-- Equal sizes. -/
def TDesc.sameShape (a b : TDesc) : Bool := a.n0 = b.n0 && a.n1 = b.n1 && a.n2 = b.n2 && a.n3 = b.n3

/-- A source shape the VSU broadcasts to a destination (R173). -/
def TDesc.broadcasts (src dst : TDesc) : Bool :=
  [0, 1, 2, 3].all (fun k => src.dim k = dst.dim k || src.dim k = 1)

/-- The source's linear index for a destination's linear index, size-1 dimensions broadcast. -/
def TDesc.bcast (src dst : TDesc) (i : Nat) : Nat :=
  let c (k : Nat) : Nat := if src.dim k = 1 then 0 else dst.coord i k
  src.index (c 0) (c 1) (c 2) (c 3)

/-! ### Reading (R40, R41) -/

/-- A memory fault with the tile virtual address that faulted. -/
structure VFault where
  f : MFault
  va : Nat
  deriving DecidableEq, Repr

/-- Read n bytes at a tile virtual address; the address is named when the access faults. -/
def State.loadAt (s : State) (t : Fin 8) (va n : Nat) : Except VFault Nat :=
  match s.loadVa t va n with
  | .ok v => .ok v
  | .error e => .error ⟨e, va⟩

/-- One element's stored codes: the element and its scale byte or low half. -/
def State.readCode (s : State) (t : Fin 8) (d : TDesc) (i : Nat) : Except VFault (Nat × Nat) :=
  match s.loadAt t (d.eaddr i) d.fmt.bytes with
  | .error e => .error e
  | .ok c =>
    match d.auxIvl with
    | none => .ok (c, 0)
    | some _ =>
      match s.loadAt t (d.saddr i) (if d.fmt = .l32s then 2 else 1) with
      | .error e => .error e
      | .ok a => .ok (c, a)

/-- Read every code in linear order; the first element that faults decides. -/
def State.readCodes (s : State) (t : Fin 8) (d : TDesc) : Except VFault (List (Nat × Nat)) :=
  (List.range d.count).mapM (fun i => s.readCode t d i)

/-- The value of stored codes under a format and TSO. -/
def codeVal (f : Fmt) (tso : Int) (c : Nat × Nat) : Val :=
  match f with
  | .l8 | .l8w => decodeBlockElem f c.2 c.1 tso
  | .l16 => decodeL16 c.1 tso
  | .l32 => decodeL32 c.1 tso
  | .l32s => decodeL32S c.1 c.2 tso
  | f => decodeIeee f c.1 tso

/-- A source element as a conversion takes it: L32S into L16 is its high array (Table 2-5), the rest the exact value (DEDUCED, unsafe, log entry 45). -/
def cvtVal (dst src : Fmt) (tso : Int) (c : Nat × Nat) : Val :=
  if dst = .l16 ∧ src = .l32s then decodeL16 c.1 tso else codeVal src tso c

/-- Read a tensor's values in linear order. -/
def State.readVals (s : State) (t : Fin 8) (d : TDesc) : Except VFault (List Val) :=
  match s.readCodes t d with
  | .error e => .error e
  | .ok cs => .ok (cs.map (codeVal d.fmt d.tso))

/-- Element i of a list of values. -/
def valAt (l : List Val) (i : Nat) : Val := (l[i]?).getD .zero

/-! ### Encoding a destination (R39, R42, R43) -/

/-- The linear indices of each block of a destination, in the order of their first elements. -/
def TDesc.blocks (d : TDesc) : List (List Nat) :=
  let firsts := (List.range d.count).filter (fun i => d.coord i d.rdim % 32 = 0)
  let step := match d.rdim with | 0 => 1 | 1 => d.n0 | 2 => d.n0 * d.n1 | _ => d.n0 * d.n1 * d.n2
  firsts.map (fun i => (List.range (min 32 (d.dim d.rdim - d.coord i d.rdim))).map (fun j => i + j * step))

/-- What encoding a whole destination gives: codes by linear index with the element's scale byte or low half, counts,
and the NaNs written in index order (index, created). -/
structure EncOut where
  codes : List (Nat × Nat)
  counts : Counts
  nans : List (Nat × Bool)
  deriving DecidableEq, Repr

/-- Encode values in linear order into an unblocked format. An L32S result that saturates L32 and then its pair counts both (R33; DEDUCED,
unsafe, log entry 45). -/
def encodeFlat (f : Fmt) (r : Rnd) (tso : Int) (vs : List Val) : EncOut :=
  let one (p : Val × Nat) : (Nat × Nat) × Counts :=
    match f with
    | .l32s =>
      let e := encodeWide .l32 r tso p.2 p.1
      let m := splitL32S e.code
      (m.1, e.counts.add m.2)
    | .l16 | .l32 => let e := encodeWide f r tso p.2 p.1; ((e.code, 0), e.counts)
    | f => let e := encodeIeee f r tso p.1; ((e.code, 0), e.counts)
  let outs := vs.zipIdx.map one
  ⟨outs.map (·.1), outs.foldl (fun c o => c.add o.2) .none,
    vs.zipIdx.filterMap (fun p => match p.1 with | .nan c => some (p.2, c) | _ => none)⟩

/-- Encode values in linear order into L8 or L8W blocks. -/
def encodeBlocks (d : TDesc) (r : Rnd) (vs : List Val) : EncOut :=
  let one (b : List Nat) : List (Nat × (Nat × Nat)) × Counts × Option (Nat × Bool) :=
    let o := encodeBlock d.fmt r d.tso (b.map (fun i => (i, valAt vs i)))
    ((b.zip o.codes).map (fun p => (p.1, (p.2, o.scale))), o.counts, o.nan.map (fun n => ((b[n.1]?).getD 0, n.2)))
  let outs := d.blocks.map one
  let cells := outs.flatMap (·.1)
  ⟨(List.range d.count).map (fun i => ((cells.find? (fun p => p.1 = i)).map (·.2)).getD (0, 0)),
    outs.foldl (fun c o => c.add o.2.1) .none,
    (List.range d.count).filterMap (fun i => (outs.filterMap (·.2.2)).find? (fun p => p.1 = i))⟩

/-- Encode values in linear order for a destination. -/
def TDesc.encode (d : TDesc) (r : Rnd) (vs : List Val) : EncOut :=
  if d.fmt.scaled then encodeBlocks d r vs else encodeFlat d.fmt r d.tso vs

/-! ### Writing -/

/-- The byte ranges a destination writes for an element. -/
def TDesc.cells (d : TDesc) (i : Nat) : List (Nat × Nat) :=
  (d.eaddr i, d.fmt.bytes) ::
    (if d.fmt.scaled then [(d.saddr i, 1)] else if d.fmt = .l32s then [(d.saddr i, 2)] else [])

/-- Translate every byte range of a destination; the first that faults decides. -/
def State.writable (s : State) (t : Fin 8) (d : TDesc) : Except VFault Unit :=
  ((List.range d.count).flatMap d.cells).foldl (fun r c =>
    match r with
    | .error e => .error e
    | .ok _ => match s.translate t .write c.1 with
      | .ok _ => .ok ()
      | .error e => .error ⟨e, c.1⟩) (.ok ())

/-- Store an n-byte integer at a tile virtual address that translates; elsewhere nothing. -/
def State.storeVa (s : State) (t : Fin 8) (va n v : Nat) : State :=
  match s.translate t .write va with
  | .ok pa => s.writeNat (s.ownerOf t.val) pa n v
  | .error _ => s

/-- The memory addresses of a destination's bytes, with their lengths. -/
def State.dstRanges (s : State) (t : Fin 8) (d : TDesc) : List (Nat × Nat) :=
  ((List.range d.count).flatMap d.cells).filterMap (fun c => match s.translate t .write c.1 with
    | .ok pa => some (s.localise pa, c.2)
    | .error _ => none)

/-- A granule that a tensor operation has written whole is no longer poisoned (R214, R230). -/
def State.clearWhole (s : State) (t : Fin 8) (d : TDesc) : State :=
  if s.poison = [] then s
  else
    let rs := s.dstRanges t d
    let whole (g : Nat) : Bool := (List.range 32).all (fun b => rs.any (fun r => decide (r.1 ≤ 32 * g + b) && decide (32 * g + b < r.1 + r.2)))
    (s.poison.filter whole).foldl (fun s g => s.update (s.ownerOf t.val) (32 * g) .clear) s

/-- Store the codes of a destination: each element with its scale byte or low half, so that no reader sees one without the other (R197). -/
def State.storeCodes (s : State) (t : Fin 8) (d : TDesc) (cs : List (Nat × Nat)) : State :=
  (cs.zipIdx.foldl (fun s p =>
    let s := s.storeVa t (d.eaddr p.2) d.fmt.bytes p.1.1
    if d.fmt.scaled then s.storeVa t (d.saddr p.2) 1 p.1.2
    else if d.fmt = .l32s then s.storeVa t (d.saddr p.2) 2 p.1.2 else s) s).clearWhole t d

/-- Every byte of a destination that can be written takes a free value: R178 leaves the contents undefined where a
write faulted (DESIGN CHOICE, safe, log entry 5). -/
def State.scrambleDst (s : State) (t : Fin 8) (d : TDesc) : State :=
  let cs := (List.range d.count).flatMap d.cells
  (cs.zipIdx.foldl (fun s' p => s'.storeVa t p.1.1 p.1.2 (s.free p.2)) s).drawn

end Sys2Proof.Machine
end

