-- ==== Sys2Proof/Machine/Flags.lean ====
section
/-! DEFINITION. What an operation's results record beside memory: arithmetic counters, Scale Statistics, the first-NaN record,
the Fen stop of this device, and the fault log (chapters 2, 3, 12 and 17). -/
namespace Sys2Proof.Machine

/-! ### The fault log (R425, R452) -/

/-- Append a record; the log keeps the 64 most recent (R452). -/
def State.logRec (s : State) (cls code unit rank info epoch : Nat) : State :=
  let r : LogRec := ⟨s.ns % 2 ^ 64, cls + code * 2 ^ 4 + unit * 2 ^ 12 + rank * 2 ^ 20, info % 2 ^ 64, epoch % 65536⟩
  { s.wr F.FLT_STATUS_LOG_PROD 0 (s.rd F.FLT_STATUS_LOG_PROD 0 + 1) with log := keepLast 64 (s.log ++ [r]) }

/-! ### Scale Statistics (R304 to R306) -/

/-- The physical address of a tile's Scale Statistics entry. -/
def State.statEntry (s : State) (t : Fin 8) (n : Nat) : Nat := s.rd F.VSU_SSTAT_BASE_PA t.val * 4096 + 128 * n

/-- A destination reports to a table entry: STATV = 1 and EN = 1 (R304). -/
def State.statOn (s : State) (t : Fin 8) (d : TDesc) : Bool := d.statv && s.flag F.VSU_SSTAT_BASE_EN t.val

/-- The entry lies outside the function's assignment (R304). -/
def State.statBad (s : State) (t : Fin 8) (n : Nat) : Bool :=
  match s.paCheck (s.ownerOf t.val) (s.statEntry t n) with
  | .ok _ => false
  | .error _ => true

/-- Add to a 48-bit saturating counter in memory, at that memory (R305, R306); a poisoned word is left as it is (R215). -/
def State.memCount (s : State) (f pa n : Nat) : State := if n = 0 ∨ s.isPoison pa then s else s.updateWord f pa (.add n)

/-- ceil(128 log2 |v|) of a finite nonzero value (R305). What only stands for an overflow or an underflow (a division by zero, an
overflow class, a register OVF or UNF) has no finite nonzero value and records none (DEDUCED, unsafe, log entry 11). -/
def Val.stat : Val → Option Int
  | .fin _ e => if e = overflowExp ∨ e = -overflowExp then none else some (cdiv e step16)
  | _ => none

/-- The largest recorded value among those handed to rounding. -/
def statMax (vs : List Val) : Option Int :=
  match vs.filterMap Val.stat with
  | [] => none
  | l => some (maxInt l)

/-- Apply CURMAX and SEEN of an entry, at its memory (R305, R306); a poisoned word is left as it is (R215). -/
def State.statRaise (s : State) (f pa : Nat) : Option Int → State
  | none => s
  | some m => if s.isPoison (pa + 8) then s else s.updateWord f (pa + 8) (.curmax m)

/-- Add an operation's counts to the entry its destination names, or to the tile counters (R44, R61, R304). -/
def State.addCounts (s : State) (t : Fin 8) (d : TDesc) (c : Counts) : State :=
  if s.statOn t d then
    let f := s.ownerOf t.val
    let pa := s.statEntry t d.stat
    ((((s.memCount f (pa + 16) c.under).memCount f (pa + 24) c.sat).memCount f (pa + 32) c.inf).memCount f (pa + 40)
      c.zeroBlk).memCount f (pa + 48) c.nanBlk
  else
    ((((s.count F.VSU_CNT_UNDERFLOW_COUNT t.val c.under).count F.VSU_CNT_SAT_COUNT t.val c.sat).count
      F.VSU_CNT_INF_COUNT t.val c.inf).count F.VSU_CNT_ZERO_BLOCK_COUNT t.val c.zeroBlk).count
      F.VSU_CNT_NAN_BLOCK_COUNT t.val c.nanBlk

/-- Record the values handed to rounding for a destination (R305). -/
def State.addStats (s : State) (t : Fin 8) (d : TDesc) (vs : List Val) : State :=
  if s.statOn t d then s.statRaise (s.ownerOf t.val) (s.statEntry t d.stat) (statMax vs) else s

/-- The lowest poisoned granule of a table entry that a destination's counts and values would update (R215): the maximum and the first two
counters lie in the entry's first granule, the others in its second. -/
def State.statPoison (s : State) (t : Fin 8) (d : TDesc) (c : Counts) (vs : List Val) : Option Nat :=
  let pa := s.statEntry t d.stat
  if !s.statOn t d then none
  else if ((statMax vs).isSome || c.under ≠ 0 || c.sat ≠ 0) && s.isPoison pa then some pa
  else if (c.inf ≠ 0 || c.zeroBlk ≠ 0 || c.nanBlk ≠ 0) && s.isPoison (pa + 32) then some (pa + 32)
  else none

/-! ### The first-NaN record and the Fen stop (R74 to R79) -/

/-- UNIT codes of Table 3-8. -/
abbrev unitRb : Nat := 0
/-- The VSU. -/
abbrev unitVsu : Nat := 1
/-- The SFU. -/
abbrev unitSfu : Nat := 2
/-- The KVE. -/
abbrev unitKve : Nat := 3
/-- TDM engine e. -/
abbrev unitTdm (e : Nat) : Nat := 4 + e

/-- Which operation wrote: unit, tag, issuing instruction's address, destination descriptor index, sequence number. -/
structure NanSite where
  unit : Nat
  tag : Nat
  iaddr : Nat
  desc : Nat
  seq : Nat
  deriving DecidableEq, Repr

/-- The tile acts as under HALT_TILE with a given operation as the recorded one (R77); an earlier stop stands. -/
def Tile.stopAfter (x : Tile) (seq : Nat) (op : Option OpRec) (fen : Bool) : Tile :=
  { x with nanStop := some (x.nanStop.getD ⟨seq, op⟩), nanFen := x.nanFen || fen }

/-- A tile acts on a Fen stop (R78): the latest operation issued is the recorded one. A tile halted already shows HALTED
and FEN_STOP. -/
def State.fenStopTile (s : State) (t : Fin 8) : State :=
  let s := s.onTile t (fun x => x.stopAfter (x.opSeq - 1) x.lastOp true)
  if (s.tile t).halt = .nan then (s.wr F.VSU_NAN_STATUS_HALTED t.val 1).wr F.VSU_NAN_STATUS_FEN_STOP t.val 1 else s

/-- The eight tiles. -/
def allTiles : List (Fin 8) := [0, 1, 2, 3, 4, 5, 6, 7]

/-- The device's Fen stop (R429): asserted, counted, logged with a code, and delivered to every tile. -/
def State.fenStop (s : State) (code unit rank : Nat) : State :=
  let s := (s.wr F.FLT_STATUS_FENSTOP 0 1).count F.FLT_CNT_FENSTOP_COUNT 0 1
  let s := s.logRec 4 code unit rank 0 0
  allTiles.foldl (fun s t => s.fenStopTile t) s

/-- HALT_FEN signals the FLT, which broadcasts to every member (R77, R429). -/
def State.fenStopLocal (s : State) (t : Fin 8) : State :=
  (s.fenStop 0x40 t.val 0).tellMembers .fenStop []

/-- The qualifying NaNs of one destination, in index order (R74). -/
def State.qualify (s : State) (t : Fin 8) (nans : List (Nat × Bool)) : List (Nat × Bool) :=
  if s.flag F.VSU_ARITH_CTL_NAN_CAPTURE t.val then nans else nans.filter (·.2)

/-- Latch the first-NaN record or count (R74 to R77). -/
def State.recordNans (s : State) (t : Fin 8) (site : NanSite) (d : TDesc) (nans : List (Nat × Bool)) : State :=
  match s.qualify t nans with
  | [] => s
  | n :: rest =>
    if s.flag F.VSU_NAN_STATUS_VALID t.val then s.count F.VSU_NAN_STATUS_NAN_COUNT t.val (rest.length + 1)
    else
      let s := s.wrs t.val 0 [(F.VSU_NAN_STATUS_VALID, 1), (F.VSU_NAN_STATUS_CLASS, if n.2 then 0 else 1),
        (F.VSU_NAN_STATUS_UNIT, site.unit), (F.VSU_NAN_STATUS_NAN_COUNT, min rest.length 0xFFFFFFFF),
        (F.VSU_NAN_OP_TAG, site.tag), (F.VSU_NAN_OP_DESC, site.desc), (F.VSU_NAN_OP_IADDR, site.iaddr),
        (F.VSU_NAN_COORD01_C0, d.coord n.1 0), (F.VSU_NAN_COORD01_C1, d.coord n.1 1),
        (F.VSU_NAN_COORD23_C2, d.coord n.1 2), (F.VSU_NAN_COORD23_C3, d.coord n.1 3), (F.VSU_NAN_TIME_TIME_NS, s.ns)]
      match s.rd F.VSU_ARITH_CTL_NAN_MODE t.val with
      | 0 => s
      | 2 => (s.onTile t (fun x => x.stopAfter site.seq (x.ops.find? site.tag) false)).fenStopLocal t
      | _ => s.onTile t (fun x => x.stopAfter site.seq (x.ops.find? site.tag) false)

end Sys2Proof.Machine
end

