-- ==== Sys2Proof/Machine/Lode.lean ====
section
/-! DEFINITION. Lode endpoints (chapter 10): headers, ranks, acceptance, credits, arrival, append, release and dispatch. -/
namespace Sys2Proof.Machine

/-! ### The header (Tables 10-2 to 10-4) -/

/-- The fields of a message header; `ln` is LEN. -/
structure Hdr where
  handler : Nat
  kind : Nat
  last : Bool
  auto : Bool
  ln : Nat
  stile : Nat
  srank : Nat
  chan : Nat
  group : Nat
  dq : Nat
  dtile : Nat
  drank : Nat
  crank : Nat
  seq : Nat
  time : Nat
  offset : Nat
  respq : Nat
  resp : Bool
  qcause : Nat
  deriving DecidableEq, Repr

/-- The 256 header bits as an integer (Table 10-2). -/
def Hdr.pack (h : Hdr) : Nat :=
  h.handler % 1024 + h.kind % 8 * 2 ^ 10 + h.last.toNat * 2 ^ 13 + h.auto.toNat * 2 ^ 14 + h.ln % 8192 * 2 ^ 16 +
    (h.stile % 8 + h.srank % 64 * 2 ^ 3 + h.chan % 512 * 2 ^ 9 + h.group % 32 * 2 ^ 18) * 2 ^ 32 +
    (h.dq % 256 + h.dtile % 8 * 2 ^ 8 + h.drank % 64 * 2 ^ 11 + h.crank % 256 * 2 ^ 17) * 2 ^ 64 +
    h.seq % 2 ^ 32 * 2 ^ 96 + h.time % 2 ^ 64 * 2 ^ 128 + h.offset % 2 ^ 32 * 2 ^ 192 +
    (h.respq % 256 + h.resp.toNat * 2 ^ 8 + h.qcause % 16 * 2 ^ 9) * 2 ^ 224

/-- Take a header apart. -/
def Hdr.of (n : Nat) : Hdr :=
  ⟨bits n 0 10, bits n 10 3, bits n 13 1 = 1, bits n 14 1 = 1, bits n 16 13, bits n 32 3, bits n 35 6, bits n 41 9,
    bits n 50 5, bits n 64 8, bits n 72 3, bits n 75 6, bits n 81 8, bits n 96 32, bits n 128 64, bits n 192 32,
    bits n 224 8, bits n 232 1 = 1, bits n 233 4⟩

/-- KIND codes (Table 10-3). -/
abbrev kRequest : Nat := 0
/-- A message sent to a multicast group. -/
abbrev kMcast : Nat := 1
/-- A reply. -/
abbrev kResponse : Nat := 2
/-- In place of a message. -/
abbrev kQuag : Nat := 3

/-- A reserved KIND or an RSV bit of the header is set (FORMAT, R254). -/
def hdrMalformed (n : Nat) : Bool :=
  6 ≤ bits n 10 3 || bits n 15 1 ≠ 0 || bits n 29 3 ≠ 0 || bits n 55 9 ≠ 0 || bits n 89 7 ≠ 0 || bits n 237 19 ≠ 0

/-- The Quag of a header (R244): KIND QUAG, LEN 0 and a QCAUSE; RSV bits read 0. -/
def quagOf (n cause : Nat) : Nat := ({ Hdr.of n with kind := kQuag, ln := 0, qcause := cause }).pack

/-! ### LEP state -/

/-- Change a tile's LEP. -/
def State.onLep (s : State) (t : Fin 8) (f : Lep → Lep) : State := s.onTile t (fun x => { x with lep := f x.lep })

/-- A receive queue. -/
def State.queue (s : State) (t : Fin 8) (q : Nat) : LepQueue := (s.tile t).lep.queues.getD q .off

/-- Change a receive queue. -/
def State.onQueue (s : State) (t : Fin 8) (q : Nat) (f : LepQueue → LepQueue) : State :=
  s.onLep t (fun l => { l with queues := l.queues.set .off q (f (l.queues.getD q .off)) })

/-- Q_STATUS.STATE: 0 OFF, 1 READY, 2 DRAINING, 3 ERR. -/
def State.qState (s : State) (t : Fin 8) (q : Nat) : Nat := s.rd F.LEP_Q_STATUS_STATE t.val q

/-- Move a queue to a state; EPOCH increments on every change (Table 10-7). -/
def State.qMove (s : State) (t : Fin 8) (q st : Nat) : State :=
  if s.qState t q = st then s
  else (s.wr F.LEP_Q_STATUS_STATE t.val st q).wr F.LEP_Q_STATUS_EPOCH t.val (s.rd F.LEP_Q_STATUS_EPOCH t.val q + 1) q

/-- Slots granted as credits (Q_STATUS.ALLOTTED). -/
def LepQueue.allotted (q : LepQueue) : Nat := q.allots.foldl (fun n a => n + a.n) 0

/-- A DRAINING queue becomes OFF once it holds no message, no allotment and no reservation (R252). -/
def State.qCheck (s : State) (t : Fin 8) (q : Nat) : State :=
  let x := s.queue t q
  if s.qState t q = 2 ∧ x.slots = [] ∧ x.allots = [] ∧ x.resv = [] then
    (s.qMove t q 0).onQueue t q (fun x => { LepQueue.off with baseRsv := x.baseRsv })
  else s

/-- Bytes of a slot: header and payload capacity (R242). -/
def State.slotSize (s : State) (t : Fin 8) (q : Nat) : Nat := 32 + 32 * 2 ^ s.rd F.LEP_Q_CFG_CAP t.val q

/-- A slot's tile virtual address. -/
def State.slotVa (s : State) (t : Fin 8) (q slot : Nat) : Nat :=
  (s.rd F.LEP_Q_BASE_VA t.val q + slot * s.slotSize t q) % 2 ^ 48

/-- The lowest-numbered free slot of a queue (R255). -/
def State.freeSlotOf (s : State) (t : Fin 8) (q : Nat) : Option Nat :=
  (List.range (s.rd F.LEP_Q_CFG_SLOTS t.val q)).find? (fun i => ((s.queue t q).slots.find? i).isNone)

/-- Write bytes into the local store at an offset. -/
def Tile.putLs (x : Tile) : Nat → List Byte → Tile
  | _, [] => x
  | off, b :: l => Tile.putLs { x with ls := x.ls.set 0 (off % 262144) b } (off + 1) l

/-- Write a queue slot through its recorded physical range (R242). -/
def State.writeSlot (s : State) (t : Fin 8) (q slot : Nat) (bs : List Byte) : State :=
  match (s.queue t q).ring with
  | some (.mem pa) => s.writeBytes 0 (pa + slot * s.slotSize t q) bs
  | some (.store off) => s.onTile t (fun x => x.putLs (off + slot * s.slotSize t q) bs)
  | none => s

/-- The rank a unit between LEPs goes to, and the virtual channel it rides (R268); grant and allotment traffic rides as requests
and answers do (DESIGN CHOICE, unsafe, log entry 12). -/
def NetMsg.way : NetMsg → Nat × Nat
  | .msg h _ _ _ _ => ((Hdr.of h).drank, if (Hdr.of h).kind ≤ 1 then 0 else 1)
  | .credit src _ => (src.rank, 1)
  | .grantReq _ q _ _ => (q.rank, 0)
  | .grantRep src _ _ _ => (src.rank, 1)
  | .allotRet _ q => (q.rank, 1)
  | .placed src _ _ => (src.rank, 1)

/-- The tile whose LEP takes a unit. -/
def NetMsg.home : NetMsg → Fin 8
  | .msg h _ _ _ _ => tileOf (Hdr.of h).dtile
  | .credit src _ | .grantRep src _ _ _ | .placed src _ _ => tileOf src.tile
  | .grantReq _ q _ _ | .allotRet _ q => tileOf q.tile

/-- Payload bytes of a unit. -/
def NetMsg.len : NetMsg → Nat
  | .msg _ p _ _ _ => p.length
  | _ => 0

/-- The unit carries poison. -/
def NetMsg.poisoned : NetMsg → Bool
  | .msg _ _ b _ _ => b
  | _ => false

/-- The LEP and memory of a tile are awake (R258). -/
def State.lepAwake (s : State) (t : Fin 8) : Bool :=
  s.rd F.TPC_STATUS_STATE t.val = 0 || (s.rd F.TPC_STATUS_STATE t.val ≠ 4 && s.flag F.TPC_STATUS_MEMWAKE t.val)

/-- A unit for a sleeping tile wakes its LEP and memory (R258). -/
def State.lepWake (s : State) (t : Fin 8) : State := if s.lepAwake t then s else s.wakeTile t false

/-- A unit enters the Sluices of this device, where it waits while its tile wakes. -/
def State.netPut (s : State) (m : NetMsg) : State := { s with net := s.net ++ [m] }.lepWake m.home

/-- Send between LEPs: on the device, or as a packet to another rank (R268). -/
def State.send (s : State) (m : NetMsg) : State :=
  if m.way.1 = s.rank then s.netPut m
  else s.sendPkt (.lode m) m.way.2 m.way.1 m.poisoned

/-- Send the copies of a multicast: one for each member on this device, and one over each port toward the others (R265). -/
def State.sendCopies (s : State) (copy : QRef → NetMsg) (ds : List QRef) : State :=
  let s1 := (ds.filter (fun d => decide (d.rank = s.rank))).foldl (fun s d => s.netPut (copy d)) s
  let far := ds.filter (fun d => decide (d.rank ≠ s.rank) && !s.failed d.rank)
  (List.range 16).foldl (fun s p =>
    match far.find? (fun d => decide (s.routePort d.rank s.rank = some p)) with
    | none => s
    | some d => s.sendPkt (.lode (copy d)) 0 d.rank (copy d).poisoned) s1

/-- Units of this device between LEPs: on the device, and in port queues not yet wholly sent. -/
def State.lodeOut (s : State) : List NetMsg :=
  s.net ++ s.ports.flatMap (fun p => p.2.queue.filterMap (fun k => match k.pkt with | .lode m => some m | _ => none))

/-- The tile's own end as a sender. -/
def State.peer (s : State) (t : Fin 8) (grp : Bool) (n : Nat) : Peer := ⟨s.rank, t.val, grp, n⟩

/-! ### Destinations -/

/-- The Fen rank a LOCAL flag and FRANK name. -/
def State.destRank (s : State) (loc fr : Nat) : Nat := if loc = 1 then s.rank else fr

/-- A channel's destination queue. -/
def State.chanDest (s : State) (t : Fin 8) (c : Nat) : QRef :=
  ⟨s.destRank (s.rd F.LEP_CHAN_CFG_LOCAL t.val c) (s.rd F.LEP_CHAN_CFG_FRANK t.val c), s.rd F.LEP_CHAN_CFG_TILE t.val c,
    s.rd F.LEP_CHAN_CFG_QUEUE t.val c⟩

/-- Member m of group g: two entries to a register. -/
def State.member (s : State) (t : Fin 8) (g m : Nat) : QRef :=
  let i := g * 32 + m / 2
  if m % 2 = 0 then
    ⟨s.destRank (s.rd F.LEP_MEMBER_LOCAL0 t.val i) (s.rd F.LEP_MEMBER_FRANK0 t.val i), s.rd F.LEP_MEMBER_TILE0 t.val i,
      s.rd F.LEP_MEMBER_QUEUE0 t.val i⟩
  else
    ⟨s.destRank (s.rd F.LEP_MEMBER_LOCAL1 t.val i) (s.rd F.LEP_MEMBER_FRANK1 t.val i), s.rd F.LEP_MEMBER_TILE1 t.val i,
      s.rd F.LEP_MEMBER_QUEUE1 t.val i⟩

/-- The members of a group. -/
def State.members (s : State) (t : Fin 8) (g : Nat) : List QRef :=
  (List.range (s.rd F.LEP_GRP_CFG_COUNT t.val g)).map (fun m => s.member t g m)

/-- Merge source i of a queue of 240 to 255, when listed (R266). -/
def State.mergeSrc (s : State) (t : Fin 8) (q i : Nat) : Option Peer :=
  let j := (q - 240) * 32 + i / 2
  let mk (v ti fr ch mc : Fld) : Option Peer :=
    if s.flag v t.val j then
      let grp := s.flag mc t.val j
      some ⟨s.rd fr t.val j, s.rd ti t.val j, grp, if grp then s.rd ch t.val j % 32 else s.rd ch t.val j⟩
    else none
  if i % 2 = 0 then mk F.LEP_MSRC_VALID0 F.LEP_MSRC_TILE0 F.LEP_MSRC_FRANK0 F.LEP_MSRC_CHAN0 F.LEP_MSRC_MC0
  else mk F.LEP_MSRC_VALID1 F.LEP_MSRC_TILE1 F.LEP_MSRC_FRANK1 F.LEP_MSRC_CHAN1 F.LEP_MSRC_MC1

/-- List positions of a merge queue whose entry names a source. -/
def State.mergePos (s : State) (t : Fin 8) (q : Nat) (p : Peer) : Option Nat :=
  (List.range 64).find? (fun i => s.mergeSrc t q i = some p)

/-- A rank is this device or may be reached (R208, R342). -/
def State.reach (s : State) (d : Nat) : Bool := decide (d = s.rank) || s.rankReachable d

/-- A channel's destination may be reached (R342). -/
def State.chanReach (s : State) (t : Fin 8) (c : Nat) : Bool := s.reach (s.chanDest t c).rank

/-- Every member of a group may be reached. -/
def State.groupReach (s : State) (t : Fin 8) (g : Nat) : Bool := (s.members t g).all (fun d => s.reach d.rank)

/-- A tensor operation's message leaves for a queue, and is remembered until it stands there (Table 8-4). -/
def State.noteSent (s : State) (t : Fin 8) (src : Peer) (seq : Nat) (op : Option Nat) (qs : List QRef) : State :=
  match op with
  | none => s
  | some k => s.onLep t (fun l => { l with sent := l.sent ++ qs.map (fun q => ⟨src, seq, q, k⟩) })

/-- A message of a channel or group stands in its queue: its sender forgets it, told by a notice where it is another rank's
(DESIGN CHOICE, unsafe, log entry 12). -/
def State.wasPlaced (s : State) (src : Peer) (q : QRef) (seq : Nat) : State :=
  if src.rank = s.rank then
    s.onLep (tileOf src.tile) (fun l => { l with sent := l.sent.filter (fun m => !(decide (m.src = src) && decide (m.q = q) && decide (m.seq = seq))) })
  else s.send (.placed src q seq)

/-! ### Acceptance (R248) -/

/-- The 32 B units of the request send buffer that messages of this tile in flight occupy; a multicast counts once. -/
def State.sbufUsed (s : State) (t : Fin 8) : Nat :=
  let mine := s.lodeOut.filterMap (fun m => match m with
    | .msg h _ _ src _ => if src.rank = s.rank ∧ src.tile = t.val ∧ (Hdr.of h).kind ≤ 1 then some (src, Hdr.of h) else none
    | _ => none)
  let once := mine.foldl (fun (acc : List (Peer × Hdr)) p =>
    if p.1.grp && acc.any (fun r => decide (r.1 = p.1) && decide (r.2.seq = p.2.seq)) then acc else acc ++ [p]) []
  once.foldl (fun n p => n + (p.2.ln + 63) / 32) 0

/-- The send buffer has room for a payload (R241, R248). -/
def State.sbufRoom (s : State) (t : Fin 8) (ln : Nat) : Bool := decide (s.sbufUsed t + (ln + 63) / 32 ≤ 1024)

/-- A free slot of a response queue can be reserved (R253). -/
def State.canReserve (s : State) (t : Fin 8) (q : Nat) : Bool :=
  s.qState t q = 1 && s.flag F.LEP_Q_CFG_RESP t.val q && decide ((s.queue t q).resv.length < s.rd F.LEP_Q_CFG_SLOTS t.val q)

/-- What a send carries beside its channel or group; `op` numbers the operation that sends. -/
structure SendArgs where
  handler : Nat
  last : Bool
  offset : Nat
  payload : List Byte
  poison : Bool
  op : Option Nat
  deriving DecidableEq, Repr

/-- A send on a channel: accepted with every resource taken, or nothing (R248, R252, R253). -/
def State.acceptChan (s : State) (t : Fin 8) (c : Nat) (a : SendArgs) : Option State :=
  let resp := s.flag F.LEP_CHAN_CFG_RESP t.val c
  let rq := s.rd F.LEP_CHAN_CFG_RESPQ t.val c
  if s.rd F.LEP_CHAN_CRED_STATE t.val c = 2 && 1 ≤ s.rd F.LEP_CHAN_CRED_AVAIL t.val c && s.chanReach t c &&
      (!resp || s.canReserve t rq) && s.sbufRoom t a.payload.length then
    let d := s.chanDest t c
    let seq := (s.tile t).lep.chanSeq.getD c 0
    let h : Hdr := ⟨a.handler, kRequest, a.last, false, a.payload.length, t.val, s.rank, c, 0, d.queue, d.tile, d.rank,
      s.rd F.LEP_CHAN_CFG_RANK t.val c, seq, s.ns, a.offset, if resp then rq else 0, resp, 0⟩
    let s1 := s.wr F.LEP_CHAN_CRED_AVAIL t.val (s.rd F.LEP_CHAN_CRED_AVAIL t.val c - 1) c
    let s2 := if resp then s1.onQueue t rq (fun x => { x with resv := x.resv ++ [⟨c, seq, d.rank, d.tile, none⟩] }) else s1
    let s3 := (s2.onLep t (fun l => { l with chanSeq := l.chanSeq.set 0 c ((seq + 1) % 2 ^ 32) })).noteSent t (s.peer t false c) seq a.op [d]
    some ((s3.count F.LEP_CNT_SENT_COUNT t.val 1).send (.msg h.pack a.payload a.poison (s.peer t false c) a.op))
  else none

/-- The key of a group member's credit count. -/
def memKey (g m : Nat) : Nat := g * 64 + m

/-- A send to a multicast group: one credit of every member, one copy to each, all or nothing (R248, R265). -/
def State.acceptGroup (s : State) (t : Fin 8) (g : Nat) (a : SendArgs) : Option State :=
  let ms := s.members t g
  let lep := (s.tile t).lep
  if s.rd F.LEP_GRP_STATE_STATE t.val g = 2 && s.groupReach t g && ms.zipIdx.all (fun m => decide (1 ≤ lep.grpCred.getD (memKey g m.2) 0)) &&
      s.sbufRoom t a.payload.length then
    let seq := lep.grpSeq.getD g 0
    let copy (d : QRef) : NetMsg :=
      let h : Hdr := ⟨a.handler, kMcast, a.last, false, a.payload.length, t.val, s.rank, 0, g, d.queue, d.tile, d.rank,
        s.rd F.LEP_GRP_CFG_RANK t.val g, seq, s.ns, a.offset, 0, false, 0⟩
      .msg h.pack a.payload a.poison (s.peer t true g) a.op
    let s1 := s.onLep t (fun l => { l with
      grpSeq := l.grpSeq.set 0 g ((seq + 1) % 2 ^ 32)
      grpCred := ms.zipIdx.foldl (fun c m => c.set 0 (memKey g m.2) (c.getD (memKey g m.2) 0 - 1)) l.grpCred })
    some (((s1.noteSent t (s.peer t true g) seq a.op ms).count F.LEP_CNT_SENT_COUNT t.val 1).sendCopies copy ms)
  else none

/-! ### Ranks and replies (R247, R249, R250) -/

/-- A thread's current rank: that of the queue whose message it holds. -/
def State.curRank (s : State) (t : Fin 8) (th : Nat) : Option Nat :=
  ((s.tile t).lep.held.find? th).map (fun h => s.rd F.LEP_Q_CFG_RANK t.val h.queue)

/-- A send of rank r breaks the rank rule. -/
def State.breaksRank (s : State) (t : Fin 8) (th r : Nat) : Bool :=
  match s.curRank t th with
  | none => false
  | some c => decide (r ≤ c)

/-- A RESPONSE to a request into the slot it reserved (R243, R249, R250). -/
def State.respond (s : State) (t : Fin 8) (req : Hdr) (handler : Nat) (payload : List Byte) (auto : Bool) : State :=
  let h : Hdr := ⟨handler, kResponse, !auto, auto, payload.length, t.val, s.rank, req.chan, 0, req.respq, req.stile, req.srank,
    0, req.seq, s.ns, 0, 0, false, 0⟩
  s.send (.msg h.pack payload false (s.peer t false req.chan) none)

/-- Free a slot that has been taken: its credit returns or its reservation ends, and an unanswered request is answered
(R250, R252, R253). -/
def State.releaseSlot (s : State) (t : Fin 8) (q slot : Nat) (replied : Bool) : State :=
  match (s.queue t q).slots.find? slot with
  | none => s
  | some sl =>
    let h := Hdr.of sl.hdr
    let s1 := s.onQueue t q (fun x => { x with
      slots := x.slots.erase slot
      resv := if sl.resp then x.resv.filter (fun r => decide (r.slot ≠ some slot)) else x.resv })
    let s2 := if !sl.resp && (s.queue t q).allots.any (fun a => decide (a.src = sl.src)) then
      s1.send (.credit sl.src ⟨s.rank, t.val, q⟩) else s1
    let s3 := if h.resp && !sl.resp && !replied then s2.respond t h 0 [] true else s2
    s3.qCheck t q

/-- Release the message a thread holds, if any (R261, R263). -/
def State.releaseHeld (s : State) (t : Fin 8) (th : Nat) : State :=
  match (s.tile t).lep.held.find? th with
  | none => s
  | some h => (s.onLep t (fun l => { l with held := l.held.erase th })).releaseSlot t h.queue h.slot h.replied

/-- The end of a thread's unit of work: its message is released and its rotation starts again (R262, R263). -/
def State.unitEnded (s : State) (t : Fin 8) (th : Nat) : State :=
  (s.releaseHeld t th).onLep t (fun l => { l with
    selLast := l.selLast.erase th
    selWait := l.selWait.filter (fun w => decide (w.1 ≠ th)) })

/-! ### Channels and groups (R251, R252, R265) -/

/-- A channel in DRAINING whose credits are all back returns its allotment and is OFF (R252). -/
def State.chanDrained (s : State) (t : Fin 8) (c : Nat) : State :=
  if s.rd F.LEP_CHAN_CRED_STATE t.val c = 3 ∧ s.rd F.LEP_CHAN_CRED_AVAIL t.val c = s.rd F.LEP_CHAN_CRED_ALLOT t.val c then
    (s.wrs t.val c [(F.LEP_CHAN_CRED_STATE, 0), (F.LEP_CHAN_CRED_AVAIL, 0), (F.LEP_CHAN_CRED_CAUSE, 0)]).send
      (.allotRet (s.peer t false c) (s.chanDest t c))
  else s

/-- MAXLEN is a multiple of 32 from 32 to 4,096 (Table 10-7). -/
def maxlenOk (n : Nat) : Bool := n % 32 = 0 && 32 ≤ n && n ≤ 4096

/-- The cause of a local refusal of a channel's enable: MAXLEN, the response queue or the route. -/
def State.chanRefusal (s : State) (t : Fin 8) (c : Nat) : Option Nat :=
  if !maxlenOk (s.rd F.LEP_CHAN_CFG_MAXLEN t.val c) then some 0
  else if s.flag F.LEP_CHAN_CFG_RESP t.val c &&
      !(s.qState t (s.rd F.LEP_CHAN_CFG_RESPQ t.val c) = 1 && s.flag F.LEP_Q_CFG_RESP t.val (s.rd F.LEP_CHAN_CFG_RESPQ t.val c)) then
    some 0
  else if !s.reach (s.chanDest t c).rank then some 3
  else none

/-- Put CHAN_CFG's fields from a 64-bit write. -/
def State.putChanCfg (s : State) (t : Fin 8) (c v : Nat) : State :=
  s.wrs t.val c [(F.LEP_CHAN_CFG_EN, bits v 0 1), (F.LEP_CHAN_CFG_LOCAL, bits v 1 1), (F.LEP_CHAN_CFG_RESP, bits v 2 1),
    (F.LEP_CHAN_CFG_QUEUE, bits v 8 8), (F.LEP_CHAN_CFG_TILE, bits v 16 3), (F.LEP_CHAN_CFG_FRANK, bits v 19 6),
    (F.LEP_CHAN_CFG_RANK, bits v 32 8), (F.LEP_CHAN_CFG_RESPQ, bits v 40 8), (F.LEP_CHAN_CFG_MAXLEN, bits v 48 13)]

/-- Enable a channel (R251): PENDING with a grant request, or REFUSED at once. -/
def State.chanEnable (s : State) (t : Fin 8) (c : Nat) : State :=
  let s := s.onLep t (fun l => { l with chanSeq := l.chanSeq.erase c })
  match s.chanRefusal t c with
  | some cause => s.wrs t.val c [(F.LEP_CHAN_CRED_STATE, 4), (F.LEP_CHAN_CRED_CAUSE, cause), (F.LEP_CHAN_CRED_AVAIL, 0)]
  | none => (s.wrs t.val c [(F.LEP_CHAN_CRED_STATE, 1), (F.LEP_CHAN_CRED_CAUSE, 0), (F.LEP_CHAN_CRED_AVAIL, 0)]).send
      (.grantReq (s.peer t false c) (s.chanDest t c) (s.rd F.LEP_CHAN_CFG_RANK t.val c) (s.rd F.LEP_CHAN_CRED_ALLOT t.val c))

/-- CHANNEL_ENABLE (R251): a CHAN_CFG write with EN = 1; without effect while the channel is not OFF. -/
def execChannelEnable (t : Fin 8) (c : Fin 512) (val : BitVec 64) (s : State) : Out3 :=
  ok s (if s.lepRuns t ∧ s.rd F.LEP_CHAN_CRED_STATE t.val c.val = 0 ∧ bits val.toNat 0 1 = 1 then
    (s.putChanCfg t c.val val.toNat).chanEnable t c.val else s)

/-- Writing CHAN_CFG.EN = 0 (R251, R252): DRAINING from READY or PENDING, OFF from REFUSED. -/
def State.chanDisable (s : State) (t : Fin 8) (c : Nat) : State :=
  let s := s.wr F.LEP_CHAN_CFG_EN t.val 0 c
  match s.rd F.LEP_CHAN_CRED_STATE t.val c with
  | 2 => (s.wr F.LEP_CHAN_CRED_STATE t.val 3 c).chanDrained t c
  | 1 => s.wr F.LEP_CHAN_CRED_STATE t.val 3 c
  | 4 => s.wrs t.val c [(F.LEP_CHAN_CRED_STATE, 0), (F.LEP_CHAN_CRED_CAUSE, 0)]
  | _ => s

/-- CHANNEL_DISABLE (R252). -/
def execChannelDisable (t : Fin 8) (c : Fin 512) (s : State) : Out3 :=
  ok s (if s.lepRuns t then s.chanDisable t c.val else s)

/-- Return every grant a group has been given (R265). -/
def State.groupReturn (s : State) (t : Fin 8) (g : Nat) : State :=
  let lep := (s.tile t).lep
  let s1 := (s.members t g).zipIdx.foldl (fun s m =>
    if lep.grpGrant.find? (memKey g m.2) = some 0 then s.send (.allotRet (s.peer t true g) m.1) else s) s
  s1.onLep t (fun l => { l with
    grpGrant := l.grpGrant.filter (fun p => decide (p.1 / 64 ≠ g))
    grpCred := l.grpCred.filter (fun p => decide (p.1 / 64 ≠ g)) })

/-- A group in DRAINING whose credits are all back returns its grants and is OFF. -/
def State.groupDrained (s : State) (t : Fin 8) (g : Nat) : State :=
  let lep := (s.tile t).lep
  if s.rd F.LEP_GRP_STATE_STATE t.val g = 3 ∧ (s.members t g).zipIdx.all (fun m =>
      decide (lep.grpGrant.find? (memKey g m.2) = some 0) &&
        decide (lep.grpCred.getD (memKey g m.2) 0 = s.rd F.LEP_GRP_CFG_ALLOT t.val g)) then
    (s.groupReturn t g).wrs t.val g [(F.LEP_GRP_STATE_STATE, 0), (F.LEP_GRP_STATE_CAUSE, 0)]
  else s

/-- Put GRP_CFG's fields from a 64-bit write. -/
def State.putGrpCfg (s : State) (t : Fin 8) (g v : Nat) : State :=
  s.wrs t.val g [(F.LEP_GRP_CFG_EN, bits v 0 1), (F.LEP_GRP_CFG_COUNT, bits v 1 7), (F.LEP_GRP_CFG_RANK, bits v 8 8),
    (F.LEP_GRP_CFG_MAXLEN, bits v 16 13), (F.LEP_GRP_CFG_ALLOT, bits v 32 16)]

/-- Enable a group (R265): a grant request to every member's home, or REFUSED at once. -/
def State.groupEnable (s : State) (t : Fin 8) (g : Nat) : State :=
  let s := s.onLep t (fun l => { l with
    grpSeq := l.grpSeq.erase g
    grpGrant := l.grpGrant.filter (fun p => decide (p.1 / 64 ≠ g))
    grpCred := l.grpCred.filter (fun p => decide (p.1 / 64 ≠ g)) })
  let n := s.rd F.LEP_GRP_CFG_COUNT t.val g
  let ms := s.members t g
  let refuse (cause : Nat) : State := s.wrs t.val g [(F.LEP_GRP_STATE_STATE, 4), (F.LEP_GRP_STATE_CAUSE, cause)]
  if n < 1 || 64 < n || !decide ms.Nodup then refuse 3
  else if !maxlenOk (s.rd F.LEP_GRP_CFG_MAXLEN t.val g) then refuse 0
  else if !ms.all (fun d => s.reach d.rank) then refuse 3
  else ms.foldl (fun s d => s.send (.grantReq (s.peer t true g) d (s.rd F.LEP_GRP_CFG_RANK t.val g)
      (s.rd F.LEP_GRP_CFG_ALLOT t.val g)))
    (s.wrs t.val g [(F.LEP_GRP_STATE_STATE, 1), (F.LEP_GRP_STATE_CAUSE, 0)])

/-- GROUP_ENABLE (R265): a GRP_CFG write with EN = 1; without effect while the group is not OFF. -/
def execGroupEnable (t : Fin 8) (g : Fin 32) (val : BitVec 64) (s : State) : Out3 :=
  ok s (if s.lepRuns t ∧ s.rd F.LEP_GRP_STATE_STATE t.val g.val = 0 ∧ bits val.toNat 0 1 = 1 then
    (s.putGrpCfg t g.val val.toNat).groupEnable t g.val else s)

/-- Writing GRP_CFG.EN = 0, as R252 for a channel. -/
def State.groupDisable (s : State) (t : Fin 8) (g : Nat) : State :=
  let s := s.wr F.LEP_GRP_CFG_EN t.val 0 g
  match s.rd F.LEP_GRP_STATE_STATE t.val g with
  | 2 => (s.wr F.LEP_GRP_STATE_STATE t.val 3 g).groupDrained t g
  | 1 => s.wr F.LEP_GRP_STATE_STATE t.val 3 g
  | 4 => s.wrs t.val g [(F.LEP_GRP_STATE_STATE, 0), (F.LEP_GRP_STATE_CAUSE, 0)]
  | _ => s

/-- GRP_STATE.AVAIL: the least credits held for any member. -/
def State.groupAvail (s : State) (t : Fin 8) (g : Nat) : Nat :=
  match (s.members t g).zipIdx.map (fun m => (s.tile t).lep.grpCred.getD (memKey g m.2) 0) with
  | [] => 0
  | a :: l => l.foldl min a

/-- Take a message out of the network. -/
def State.netDrop (s : State) (i : Nat) : State := { s with net := s.net.eraseIdx i }

/-- The home's answer to a grant request (R251): none grants, some c refuses. -/
def State.grantCause (s : State) (t : Fin 8) (q : Nat) (src : Peer) (crank allot : Nat) : Option Nat :=
  if s.qState t q ≠ 1 || s.flag F.LEP_Q_CFG_RESP t.val q then some 0
  else if s.rd F.LEP_Q_CFG_RANK t.val q ≠ crank then some 1
  else if s.flag F.LEP_Q_CFG_MERGE t.val q && (s.mergePos t q src).isNone then some 0
  else if s.rd F.LEP_Q_CFG_SLOTS t.val q < (s.queue t q).allotted + allot then some 2
  else none

/-- GRANT_REQUEST (R251): the queue's home grants or refuses a request that has arrived. -/
def execGrantRequest (i : Nat) (s : State) : Out3 :=
  ok s (match s.net[i]? with
    | some (.grantReq src q crank allot) =>
      let t := tileOf q.tile
      if q.rank ≠ s.rank || !s.lepAwake t then s.lepWake t
      else
        let s1 := s.netDrop i
        match s.grantCause t q.queue src crank allot with
        | some c => s1.send (.grantRep src q (some c) 0)
        | none => (s1.onQueue t q.queue (fun x => { x with allots := x.allots ++ [⟨src, allot, none⟩] })).send
            (.grantRep src q none (s.rd F.LEP_Q_STATUS_EPOCH t.val q.queue))
    | _ => s)

/-- A grant reply at a channel (R251). -/
def State.chanGrant (s : State) (t : Fin 8) (c : Nat) (q : QRef) (cause : Option Nat) (epoch : Nat) : State :=
  match s.rd F.LEP_CHAN_CRED_STATE t.val c, cause with
  | 1, none => s.wrs t.val c [(F.LEP_CHAN_CRED_STATE, 2), (F.LEP_CHAN_CRED_AVAIL, s.rd F.LEP_CHAN_CRED_ALLOT t.val c),
      (F.LEP_CHAN_CRED_EPOCH, epoch)]
  | 1, some k => s.wrs t.val c [(F.LEP_CHAN_CRED_STATE, 4), (F.LEP_CHAN_CRED_CAUSE, k)]
  | 3, none => (s.wr F.LEP_CHAN_CRED_STATE t.val 0 c).send (.allotRet (s.peer t false c) q)
  | 3, some _ => s.wr F.LEP_CHAN_CRED_STATE t.val 0 c
  | _, none => s.send (.allotRet (s.peer t false c) q)
  | _, some _ => s

/-- A grant reply at a group (R265): READY when every member has granted, REFUSED when any refused. -/
def State.groupGrant (s : State) (t : Fin 8) (g : Nat) (q : QRef) (cause : Option Nat) : State :=
  let ms := s.members t g
  match firstIdx (fun d => decide (d = q)) ms 0, s.rd F.LEP_GRP_STATE_STATE t.val g with
  | some m, st =>
    if st = 1 ∨ st = 3 then
      let s1 := s.onLep t (fun l => { l with
        grpGrant := l.grpGrant.put (memKey g m) (match cause with | none => 0 | some c => c + 1)
        grpCred := if cause.isNone then l.grpCred.set 0 (memKey g m) (s.rd F.LEP_GRP_CFG_ALLOT t.val g) else l.grpCred })
      let ans := ms.zipIdx.map (fun p => (s1.tile t).lep.grpGrant.find? (memKey g p.2))
      if ans.any (·.isNone) then s1
      else
        match (ans.filterMap id).find? (fun a => decide (a ≠ 0)) with
        | none => if st = 1 then s1.wr F.LEP_GRP_STATE_STATE t.val 2 g else s1.groupDrained t g
        | some a => if st = 1 then (s1.groupReturn t g).wrs t.val g [(F.LEP_GRP_STATE_STATE, 4), (F.LEP_GRP_STATE_CAUSE, a - 1)]
          else (s1.groupReturn t g).wr F.LEP_GRP_STATE_STATE t.val 0 g
    else if cause.isNone then s.send (.allotRet (s.peer t true g) q) else s
  | none, _ => if cause.isNone then s.send (.allotRet (s.peer t true g) q) else s

/-- CREDIT_GRANT (R251): a grant reply that has arrived at its channel or group. -/
def execCreditGrant (i : Nat) (s : State) : Out3 :=
  ok s (match s.net[i]? with
    | some (.grantRep src q cause epoch) =>
      let t := tileOf src.tile
      if src.rank ≠ s.rank || !s.lepAwake t then s.lepWake t
      else if src.grp then (s.netDrop i).groupGrant t src.num q cause
      else (s.netDrop i).chanGrant t src.num q cause epoch
    | _ => s)

/-- A credit back at its channel or group member (R252). -/
def State.creditBack (s : State) (src : Peer) (q : QRef) : State :=
  let t := tileOf src.tile
  if src.grp then
    match firstIdx (fun d => decide (d = q)) (s.members t src.num) 0 with
    | none => s
    | some m =>
      if s.rd F.LEP_GRP_STATE_STATE t.val src.num = 2 ∨ s.rd F.LEP_GRP_STATE_STATE t.val src.num = 3 then
        (s.onLep t (fun l => { l with
          grpCred := l.grpCred.set 0 (memKey src.num m) (min (l.grpCred.getD (memKey src.num m) 0 + 1) (s.rd F.LEP_GRP_CFG_ALLOT t.val src.num)) })).groupDrained t src.num
      else s
  else if s.rd F.LEP_CHAN_CRED_STATE t.val src.num = 2 ∨ s.rd F.LEP_CHAN_CRED_STATE t.val src.num = 3 then
    (s.wr F.LEP_CHAN_CRED_AVAIL t.val (min (s.rd F.LEP_CHAN_CRED_AVAIL t.val src.num + 1)
      (s.rd F.LEP_CHAN_CRED_ALLOT t.val src.num)) src.num).chanDrained t src.num
  else s

/-- CREDIT_RETURN (R252): a CREDIT message that has arrived, or a notice of a message placed. -/
def execCreditReturn (i : Nat) (s : State) : Out3 :=
  ok s (match s.net[i]? with
    | some (.credit src q) =>
      if src.rank ≠ s.rank || !s.lepAwake (tileOf src.tile) then s.lepWake (tileOf src.tile) else (s.netDrop i).creditBack src q
    | some (.placed src q seq) =>
      if src.rank ≠ s.rank || !s.lepAwake (tileOf src.tile) then s.lepWake (tileOf src.tile) else (s.netDrop i).wasPlaced src q seq
    | _ => s)

/-- ALLOTMENT_RETURN (R252): a returned allotment that has arrived at the queue's home. -/
def execAllotmentReturn (i : Nat) (s : State) : Out3 :=
  ok s (match s.net[i]? with
    | some (.allotRet src q) =>
      let t := tileOf q.tile
      if q.rank ≠ s.rank || !s.lepAwake t then s.lepWake t
      else ((s.netDrop i).onQueue t q.queue (fun x => { x with
        allots := x.allots.filter (fun a => decide (a.src ≠ src)) })).qCheck t q.queue
    | _ => s)

/-! ### Queues (R242, R252) -/

/-- Put Q_CFG's fields from a 64-bit write. -/
def State.putQCfg (s : State) (t : Fin 8) (q v : Nat) : State :=
  s.wrs t.val q [(F.LEP_Q_CFG_EN, bits v 0 1), (F.LEP_Q_CFG_MODE, bits v 1 1), (F.LEP_Q_CFG_RESP, bits v 2 1),
    (F.LEP_Q_CFG_MERGE, bits v 3 1), (F.LEP_Q_CFG_ORDERED, bits v 4 1), (F.LEP_Q_CFG_RANK, bits v 8 8),
    (F.LEP_Q_CFG_SLOTS, bits v 16 13), (F.LEP_Q_CFG_CAP, bits v 29 3)]

/-- The RSV bits of Q_CFG in a write. -/
def qcfgRsv (v : Nat) : Bool := bits v 5 3 ≠ 0 || bits v 32 32 ≠ 0

/-- The page starts a range touches. -/
def pageStarts (va n : Nat) : List Nat :=
  va :: (List.range ((va % 4096 + n - 1) / 4096)).map (fun i => (va / 4096 + i + 1) * 4096)

/-- Translate a ring once for reading and writing (R242): the physical base when every page translates and the range is
contiguous, else the address that faulted with its fault, or none when only contiguity fails. -/
def State.ringBase (s : State) (t : Fin 8) (va n : Nat) : Except (Option VFault) Nat :=
  match s.translate t .atomic va with
  | .error e => .error (some ⟨e, va⟩)
  | .ok pa =>
    (pageStarts va n).foldl (fun r p =>
      match r with
      | .error e => .error e
      | .ok b => match s.translate t .atomic p with
        | .error e => .error (some ⟨e, p⟩)
        | .ok x => if x = pa + (p - va) then .ok b else .error none) (.ok pa)

/-- What Q_CFG and Q_BASE hold is no ring (R242). -/
def State.ringBad (s : State) (t : Fin 8) (q : Nat) (rsv : Bool) : Bool :=
  let va := s.rd F.LEP_Q_BASE_VA t.val q
  let slots := s.rd F.LEP_Q_CFG_SLOTS t.val q
  let merge := s.flag F.LEP_Q_CFG_MERGE t.val q
  va % 32 ≠ 0 || slots = 0 || 4096 < slots || (merge && q < 240) || (s.flag F.LEP_Q_CFG_ORDERED t.val q && !merge) || rsv || (s.queue t q).baseRsv

/-- The ring an enable would record, or none for ERR (R242). -/
def State.ringFor (s : State) (t : Fin 8) (q : Nat) (rsv : Bool) : Except (Option VFault) RingAt :=
  let va := s.rd F.LEP_Q_BASE_VA t.val q
  let n := s.rd F.LEP_Q_CFG_SLOTS t.val q * s.slotSize t q
  if s.ringBad t q rsv then .error none
  else if lsBase ≤ va then (if va + n ≤ 2 ^ 48 then .ok (.store (va - lsBase)) else .error none)
  else if lsBase < va + n then .error none
  else match s.ringBase t va n with
    | .error e => .error e
    | .ok pa => if deviceRegion pa = .mere t.val ∧ deviceRegion (pa + n - 1) = .mere t.val then .ok (.mem pa) else .error none

/-- Enable a queue (R242): its ring's pages are translated, and it is READY with its ring recorded, or ERR. -/
def State.queueEnable (s : State) (t : Fin 8) (q : Nat) (rsv : Bool) : State :=
  let va := s.rd F.LEP_Q_BASE_VA t.val q
  let r := s.ringFor t q rsv
  let s := if s.ringBad t q rsv then s else s.touchPages t (pageStarts va (s.rd F.LEP_Q_CFG_SLOTS t.val q * s.slotSize t q))
  match r with
  | .ok r => (s.onQueue t q (fun x => { LepQueue.off with baseRsv := x.baseRsv, ring := some r })).qMove t q 1
  | .error (some f) => (s.tmuRecord t f.f f.va false false false 0).qMove t q 3
  | .error none => s.qMove t q 3

/-- QUEUE_ENABLE (R242): a Q_CFG write with EN = 1; without effect while the queue is not OFF. -/
def execQueueEnable (t : Fin 8) (q : Fin 256) (val : BitVec 64) (s : State) : Out3 :=
  ok s (if s.lepRuns t ∧ s.qState t q.val = 0 ∧ bits val.toNat 0 1 = 1 then
    (s.putQCfg t q.val val.toNat).queueEnable t q.val (qcfgRsv val.toNat) else s)

/-- Writing Q_CFG.EN = 0 (R242, R252). -/
def State.queueDisable (s : State) (t : Fin 8) (q : Nat) : State :=
  let s := s.wr F.LEP_Q_CFG_EN t.val 0 q
  match s.qState t q with
  | 1 => (s.qMove t q 2).qCheck t q
  | 3 => s.qMove t q 0
  | _ => s

/-- QUEUE_DISABLE (R252). -/
def execQueueDisable (t : Fin 8) (q : Fin 256) (s : State) : Out3 :=
  ok s (if s.lepRuns t then s.queueDisable t q.val else s)

/-! ### Arrival and append (R254 to R256, R266) -/

/-- Latch the QREC record or count a further Quag (R270), and count it (R433). -/
def State.quagFormed (s : State) (t : Fin 8) (q hdr : Nat) : State :=
  let h := Hdr.of hdr
  let s := (s.count F.LEP_CNT_QUAG_COUNT t.val 1).count F.FLT_CNT_QUAG_COUNT 0 1
  if s.flag F.LEP_QREC_STATUS_VALID t.val then s.count F.LEP_QREC_STATUS_COUNT t.val 1
  else s.wrs t.val 0 [(F.LEP_QREC_STATUS_VALID, 1), (F.LEP_QREC_STATUS_CAUSE, h.qcause), (F.LEP_QREC_STATUS_QUEUE, q),
    (F.LEP_QREC_STATUS_COUNT, 0), (F.LEP_QREC_HDR_SRC, bits hdr 32 32), (F.LEP_QREC_HDR_SEQ, h.seq)]

/-- Put a message or Quag into the lowest free slot; it waits there to be appended (R255). -/
def State.place (s : State) (t : Fin 8) (q hdr : Nat) (payload : List Byte) (src : Peer) (resv : Option Nat) : State :=
  match s.freeSlotOf t q with
  | none => s
  | some slot =>
    let s1 := s.onQueue t q (fun x => { x with
      slots := x.slots.put slot ⟨hdr, src, resv.isSome, .written⟩
      landed := x.landed ++ [slot]
      resv := match resv with
        | none => x.resv
        | some k => x.resv.zipIdx.map (fun p => if p.2 = k then { p.1 with slot := some slot } else p.1) })
    s1.writeSlot t q slot (leBytes 32 hdr ++ payload)

/-- The QCAUSE the arrival checks give, if any (R254, R414). -/
def State.arrivalCause (s : State) (t : Fin 8) (hdr : Nat) (poison : Bool) : Option Nat :=
  let h := Hdr.of hdr
  if (s.tile t).forced then some 6
  else if hdrMalformed hdr then some 2
  else if 32 * 2 ^ s.rd F.LEP_Q_CFG_CAP t.val h.dq < h.ln then some 3
  else if (h.kind = kRequest ∨ h.kind = kMcast) ∧ h.crank ≠ s.rd F.LEP_Q_CFG_RANK t.val h.dq then some 4
  else if poison then some 1
  else none

/-- The open reservation a RESPONSE answers (R249, R253). -/
def State.resvOf (s : State) (t : Fin 8) (h : Hdr) : Option Nat :=
  firstIdx (fun r => decide (r.chan = h.chan) && decide (r.seq = h.seq) && decide (r.rank = h.srank) &&
    decide (r.tile = h.stile) && r.slot.isNone) (s.queue t h.dq).resv 0

/-- A message at its home LEP: checked, replaced by a Quag where R254 says so, and written into its slot. A message for a
queue that is not enabled, and a RESPONSE without a reservation, are discarded. -/
def State.arrive (s : State) (hdr : Nat) (payload : List Byte) (poison : Bool) (src : Peer) : State :=
  let h := Hdr.of hdr
  let t := tileOf h.dtile
  let s := if h.kind ≤ kMcast then s.wasPlaced src ⟨h.drank, h.dtile, h.dq⟩ h.seq else s
  if s.qState t h.dq ≠ 1 ∧ s.qState t h.dq ≠ 2 then s
  else
    let put (s : State) (hdr : Nat) (pl : List Byte) : State :=
      if h.kind = kResponse then
        match s.resvOf t h with
        | none => s
        | some k => s.place t h.dq hdr pl src (some k)
      else s.place t h.dq hdr pl src none
    if h.kind = kResponse && (s.resvOf t h).isNone then s
    else match s.arrivalCause t hdr poison with
      | none => put s hdr payload
      | some c => put ((s.quagFormed t h.dq (quagOf hdr c)).count F.FLT_CNT_OP_COUNT 0 1) (quagOf hdr c) []

/-- Entry i is a message for this device, its tile's LEP is awake, and no earlier message of its source for the same queue
is still on its way (R256, R258). -/
def State.mayArrive (s : State) (i : Nat) : Bool :=
  match s.net[i]? with
  | some (.msg hdr _ _ src _) =>
    let h := Hdr.of hdr
    decide (h.drank = s.rank) && s.lepAwake (tileOf h.dtile) && (s.net.take i).all (fun m => match m with
      | .msg h2 _ _ src2 _ => !(decide (src2 = src) && decide ((Hdr.of h2).dtile = h.dtile) && decide ((Hdr.of h2).dq = h.dq) &&
          decide ((Hdr.of h2).drank = h.drank))
      | _ => true)
  | _ => false

/-- MESSAGE_ARRIVAL (R254). -/
def execMessageArrival (i : Nat) (s : State) : Out3 :=
  ok s (match s.net[i]? with
    | some (.msg hdr payload poison src _) =>
      if s.mayArrive i then (s.netDrop i).arrive hdr payload poison src else s.lepWake (tileOf (Hdr.of hdr).dtile)
    | _ => s)

/-- No write of the slot's bytes is still held by a checkpoint (R255, R319). -/
def State.slotAcked (s : State) (t : Fin 8) (q slot : Nat) : Bool :=
  match (s.queue t q).ring, s.ck with
  | some (.mem pa), some j => j.held.all (fun w =>
      let a := pa + slot * s.slotSize t q
      decide (w.pa + w.upd.span ≤ a) || decide (a + s.slotSize t q ≤ w.pa))
  | _, _ => true

/-- No earlier message of the slot's channel or group still waits to be appended (R256). -/
def LepQueue.firstOfSrc (x : LepQueue) (slot : Nat) : Bool :=
  let src (k : Nat) : Option Peer := (x.slots.find? k).map (·.src)
  (x.landed.takeWhile (fun k => decide (k ≠ slot))).all (fun k => decide (src k ≠ src slot))

/-- A written message may be appended: after the earlier ones of its source, and in round order in an ORDERED queue (R256, R266). -/
def State.mayAppend (s : State) (t : Fin 8) (q slot : Nat) : Bool :=
  s.slotAcked t q slot && (s.queue t q).firstOfSrc slot &&
    (!s.flag F.LEP_Q_CFG_ORDERED t.val q ||
      match (s.queue t q).slots.find? slot with
      | none => false
      | some sl => match s.mergePos t q sl.src with
        | none => true
        | some i =>
          let r := (s.queue t q).rounds.getD i 0
          (List.range 64).all (fun j => decide (j = i) || (s.mergeSrc t q j).isNone ||
            (if j < i then decide (r < (s.queue t q).rounds.getD j 0) else decide (r ≤ (s.queue t q).rounds.getD j 0))))

/-- Append a written slot to its queue's FIFO; in a DISPATCH queue it wakes the tile (R258). -/
def State.append (s : State) (t : Fin 8) (q slot : Nat) : State :=
  match (s.queue t q).slots.find? slot with
  | none => s
  | some sl =>
    let pos := s.mergePos t q sl.src
    let woken := if s.flag F.LEP_Q_CFG_MODE t.val q then s else s.wakeTile t true
    (woken.onQueue t q (fun x => { x with
      slots := x.slots.put slot { sl with st := .appended }
      landed := x.landed.filter (fun k => decide (k ≠ slot))
      fifo := x.fifo ++ [slot]
      allots := x.allots.map (fun a => if a.src = sl.src then { a with last := some (Hdr.of sl.hdr).seq } else a)
      rounds := match pos with
        | some i => if s.flag F.LEP_Q_CFG_ORDERED t.val q then x.rounds.set 0 i (x.rounds.getD i 0 + 1) else x.rounds
        | none => x.rounds })).count F.LEP_CNT_RECV_COUNT t.val 1

/-! ### Dispatch (R259, R260) -/

/-- A DISPATCH queue that holds a message. -/
def State.dispatchable (s : State) (t : Fin 8) (q : Nat) : Bool :=
  !s.flag F.LEP_Q_CFG_MODE t.val q && (s.queue t q).fifo ≠ []

/-- The queue R259 picks: one passed over 64 times, else the highest RANK, lowest index first. -/
def State.pickQueue (s : State) (t : Fin 8) : Option Nat :=
  let qs := ((s.tile t).lep.queues.map (·.1)).filter (fun q => s.dispatchable t q)
  match qs.find? (fun q => decide (64 ≤ (s.queue t q).passed)) with
  | some q => some q
  | none => qs.foldl (fun b q => match b with
      | none => some q
      | some p => if s.rd F.LEP_Q_CFG_RANK t.val p < s.rd F.LEP_Q_CFG_RANK t.val q then some q else b) none

/-- Start a thread's unit of work: the pc and g1 upward, every other register zero (R161, R162, R164). -/
def Thread.start (x : Thread) (pc : Nat) (regs : List Nat) : Thread :=
  { x with st := .ready, wait := .none, pc := pc % 2 ^ 48, p := 0#8, hsteps := 0
           g := regs.zipIdx.foldl (fun g p => g.set 0 (p.2 + 1) (BitVec.ofNat 64 p.1)) ([] : SMap Word) }

/-- The tile can start or issue instructions: in Run, not halted and not resetting. -/
def State.tileRuns (s : State) (t : Fin 8) : Bool :=
  s.rd F.TPC_STATUS_STATE t.val = 0 && !s.flag F.TPC_STATUS_ENTERING t.val && !(s.tile t).resetting && (s.tile t).halt = .none

/-- Count a dispatch among the waiting queues (R259). -/
def State.passOver (s : State) (t : Fin 8) (q : Nat) : State :=
  s.onLep t (fun l => { l with queues := l.queues.map (fun p => (p.1, { p.2 with
    passed := if p.1 = q || !s.dispatchable t p.1 then 0 else p.2.passed + 1 })) })

/-- The handler table entry a message runs: entry 0 for a Quag, entry 0 with the mark when its own is not VALID (R260). -/
def State.handlerOf (s : State) (t : Fin 8) (h : Hdr) : Option (Nat × Bool) :=
  let ent (i : Nat) : Option Nat :=
    if s.flag F.LEP_HT_VALID t.val i then some (s.rd F.LEP_HT_ENTRY t.val i * 4) else none
  if h.kind = kQuag then (ent 0).map (fun e => (e, false))
  else match ent h.handler with
    | some e => some (e, false)
    | none => (ent 0).map (fun e => (e, true))

/-- Take the head of a DISPATCH queue and start its handler, or release it unhandled (R259 to R261). -/
def State.dispatch (s : State) (t : Fin 8) (q : Nat) : State :=
  match (s.queue t q).fifo with
  | [] => s
  | slot :: rest =>
    match (s.queue t q).slots.find? slot with
    | none => s
    | some sl =>
      let h := Hdr.of sl.hdr
      let s1 := (s.passOver t q).onQueue t q (fun x => { x with fifo := rest, slots := x.slots.put slot { sl with st := .held } })
      match s.handlerOf t h with
      | none => (s1.releaseSlot t q slot false).count F.LEP_CNT_UNHANDLED_COUNT t.val 1
      | some (e, rep) =>
        (s1.onLep t (fun l => { l with held := l.held.put 1 ⟨q, slot, false⟩ })).onTile t (fun x => x.onThr 1 (fun th =>
          th.start e [bits sl.hdr 0 64, bits sl.hdr 64 64, bits sl.hdr 128 64, bits sl.hdr 192 64,
            (s.slotVa t q slot + 32) % 2 ^ 48, h.ln, q + rep.toNat * 256]))

/-- HANDLER_DISPATCH (R259). -/
def execHandlerDispatch (t : Fin 8) (s : State) : Out3 :=
  ok s (if ((s.tile t).thr 1).st = .idle && !s.flag F.LEP_CTL_DSTOP t.val && s.tileRuns t then
    match s.pickQueue t with
    | some q => s.dispatch t q
    | none => s
  else s)

end Sys2Proof.Machine
end

