-- ==== Sys2Proof/Machine/Traps.lean ====
section
/-! DEFINITION. Traps (chapter 7): raising, taking, the actions, halts and the NaN stop; trap holds (R199); KV failures. -/
namespace Sys2Proof.Machine

/-- Trap causes (Table 7-13). -/
abbrev cIllegalInsn : Nat := 0x01
/-- An illegal descriptor. -/
abbrev cIllegalDesc : Nat := 0x02
/-- A misaligned scalar access or branch target. -/
abbrev cMisalign : Nat := 0x03
/-- No valid translation. -/
abbrev cPageFault : Nat := 0x04
/-- An access forbidden or outside the assignment. -/
abbrev cAccess : Nat := 0x05
/-- R96. -/
abbrev cRbState : Nat := 0x06
/-- R113. -/
abbrev cRedGroup : Nat := 0x07
/-- R135. -/
abbrev cSfSlot : Nat := 0x08
/-- R150. -/
abbrev cRange : Nat := 0x09
/-- R77, R78. -/
abbrev cNanHalt : Nat := 0x0A
/-- R107. -/
abbrev cLongInexact : Nat := 0x0B
/-- R247. -/
abbrev cRank : Nat := 0x0C
/-- R163. -/
abbrev cHandlerBound : Nat := 0x0D
/-- THR.SVCALL. -/
abbrev cSvcall : Nat := 0x0E
/-- THR.BREAK. -/
abbrev cBreak : Nat := 0x0F
/-- A poisoned read. -/
abbrev cMemPoison : Nat := 0x10
/-- Job status TILE_HALT (Table 15-5). -/
abbrev stTileHalt : Nat := 0x20

/-! ### Ends of units of work -/

/-- Pending traps of a thread whose unit of work has ended no longer act on it. -/
def Tile.staleTraps (x : Tile) (th : Nat) : Tile :=
  let f (tr : Trap) : Trap := if tr.thread = th ∧ tr.kind ≠ 2 then { tr with stale := true } else tr
  { x with traps := x.traps.map f, active := x.active.map f }

/-- Put a thread into a state; a thread of a tile stopped by a NaN or Fen stop shows HALTED until GO and takes it then. -/
def Tile.setSt (x : Tile) (h : Fin 4) (st : ThState) : Tile :=
  x.onThr h (fun y => if y.st = .halted then { y with prev := st, wait := .none } else { y with st := st, wait := .none })

/-- A thread becomes IDLE and its message is released (R161, R261, R263). -/
def State.endThread (s : State) (t : Fin 8) (h : Fin 4) : State :=
  (s.unitEnded t h.val).onTile t (fun x => (x.setSt h .idle).staleTraps h.val)

/-- MAIN ends its job program, with a status cause when an END action ended it (R161, Table 7-14). -/
def State.endMain (s : State) (t : Fin 8) (cause : Option Nat) (pc : Nat) : State :=
  (s.endThread t 0).onTile t (fun x => { x with
    job := x.job.map (fun j => { j with
      ended := true
      cause := if j.cause.isSome then j.cause else cause
      trapPc := if j.cause.isNone && cause.isSome then pc else j.trapPc }) })

/-- Release a trap hold (R199): its dependents wait for it no longer, once the trapped operation has retired (R190). -/
def Tile.releaseHold (x : Tile) (seq : Nat) : Tile :=
  { x with
    holds := x.holds.filter (fun h => decide (h.seq ≠ seq))
    ops := if x.ops.any (fun p => decide (p.2.seq = seq)) then x.ops
      else x.ops.map (fun p => (p.1, { p.2 with deps := p.2.deps.filter (fun d => decide (d ≠ seq)) })) }

/-- Trap holds of a halted tile stay until tile reset (R199). -/
def Tile.keepHolds (x : Tile) : Tile := { x with holds := x.holds.map (fun h => { h with forever := true }) }

/-- HALT (Table 7-14): every thread stops, the job ends with TILE_HALT, and the tile stays halted. -/
def State.haltTile (s : State) (t : Fin 8) : State :=
  s.onTile t (fun x =>
    { x.keepHolds with
      halt := .trap
      threads := x.threads.map (fun y => { y with st := .halted, wait := .none })
      job := x.job.map (fun j => { j with
        ended := true
        halt := some (j.halt.getD stTileHalt)
        trapPc := if j.halt.isNone then (match x.active with | some a => a.pc | none => 0) else j.trapPc }) })

/-! ### Operation traps (R178, R199) -/

/-- A contained error (class OP of Table 17-1) counts in the FLT's device-wide total. -/
def State.countOp (s : State) (cause : Nat) : State :=
  if cause = cPageFault ∨ cause = cAccess ∨ cause = cMemPoison then s.count F.FLT_CNT_OP_COUNT 0 1 else s

/-- Operation traps pending: raised and not yet answered by an action. -/
def Tile.opTraps (x : Tile) : Nat :=
  (x.traps.filter (fun tr => decide (tr.kind = 2))).length +
    (match x.active with | some a => if a.kind = 2 then 1 else 0 | none => 0)

/-- Another operation trap may be raised: fewer than 16 are pending, and its hold would be no 17th (R178, R199). -/
def Tile.trapRoom (x : Tile) (held : Bool) : Bool := decide (x.opTraps < 16) && (!held || decide (x.holds.length < 16))

/-- END on an operation trap: the hold is released and the job ends with the cause. -/
def State.endOp (s : State) (t : Fin 8) (tr : Trap) : State :=
  (s.onTile t (fun x => x.releaseHold tr.seq)).endMain t (some tr.cause) tr.pc

/-- Put an operation trap before SVC; with no handler END applies at once (R180). -/
def State.pushOp (s : State) (t : Fin 8) (tr : Trap) : State :=
  if s.rd F.TCC_SVC_VEC_VEC t.val = 0 then s.endOp t tr
  else s.onTile t (fun x => { x with traps := x.traps ++ [tr] })

/-- The trap an operation raises. -/
def OpRec.mkTrap (r : OpRec) (cause info desc : Nat) (held : Bool) : Trap :=
  ⟨cause, 2, 0, r.tag, desc, r.iaddr, r.iaddr, info % 2 ^ 64, r.insn, r.seq, r.d, held, false⟩

/-- An operation's trap becomes pending: its last effect, with a trap hold unless its cause holds nothing. -/
def State.opTrapNow (s : State) (t : Fin 8) (tag : Nat) (r : OpRec) (tr : Trap) : State :=
  ((s.countOp tr.cause).onTile t (fun x => { x with
    ops := x.ops.put tag { r with st := .ack, acks := 0, trap := none, trapped := tr.held }
    holds := if tr.held then x.holds ++ [⟨r.seq, tag, r.reads, r.writes, false⟩] else x.holds })).pushOp t tr

/-- Raise an operation trap, or hold the operation at that point, in RUN or ACK, while 16 are pending (R178, R186). -/
def State.raiseOp (s : State) (t : Fin 8) (tag cause info desc : Nat) (held : Bool) : State :=
  match (s.tile t).ops.find? tag with
  | none => s
  | some r =>
    let tr := r.mkTrap cause info desc held
    if (s.tile t).trapRoom held then s.opTrapNow t tag r tr
    else s.onTile t (fun x => { x with ops := x.ops.put tag { r with st := if r.st = .ack then .ack else .run, trap := some tr } })

/-- The index of a T instruction's descriptor operand k, when it is not null. -/
def insnD (insn k : Nat) : Option Nat :=
  let f := bits insn (15 + 6 * k) 6
  if f < 32 then some f else none

/-- The first non-null descriptor operand (TRAP_OP, Table 7-15). -/
def firstDesc (insn : Nat) : Nat := (((List.range 4).filterMap (insnD insn)).head?).getD 0

/-- The descriptor index of operand k, or the first non-null one. -/
def descIx (insn k : Nat) : Nat := (insnD insn k).getD (firstDesc insn)

/-- A memory fault of an operation: the TMU record and the operation trap (R215, R218, R220, R238). -/
def State.opFault (s : State) (t : Fin 8) (tag : Nat) (k : Nat) (wr : Bool) (f : VFault) : State :=
  let insn := (((s.tile t).ops.find? tag).map (·.insn)).getD 0
  (s.tmuRecord t f.f f.va wr false true tag).raiseOp t tag f.f.cause f.va (descIx insn k) true

/-- The oldest operation held at a trap that there is room for, with its trap. -/
def Tile.heldTrap (x : Tile) : Option (Nat × OpRec × Trap) :=
  (x.ops.filterMap (fun p => p.2.trap.bind (fun tr => if x.trapRoom tr.held then some (p.1, p.2, tr) else none))).foldl (fun b p => match b with
    | none => some p
    | some q => if p.2.1.seq < q.2.1.seq then some p else b) none

/-- HELD_TRAP_RAISE (R178): the oldest operation held at its trap raises it once there is room. -/
def execHeldTrapRaise (t : Fin 8) (s : State) : Out3 :=
  ok s (match (s.tile t).heldTrap with
    | some (tag, r, tr) => s.opTrapNow t tag r tr
    | none => s)

/-! ### KV failures (R274, R280, R303) -/

/-- A sequence table entry's address (R272). -/
def State.seqAddr (s : State) (t : Fin 8) (n : Nat) : Nat := s.rd F.KVE_STAB_BASE_PA t.val + 64 * n

/-- A KV operation fails: the ERR record latches or counts, and the ACCESS operation trap names the entry. -/
def State.kvFail (s : State) (t : Fin 8) (tag sq cause info : Nat) : State :=
  let s := if s.flag F.KVE_ERR_VALID t.val then s.count F.KVE_ERR_COUNT t.val 1
    else s.wrs t.val 0 [(F.KVE_ERR_VALID, 1), (F.KVE_ERR_CAUSE, cause), (F.KVE_ERR_TAG, tag), (F.KVE_ERR_SEQ, sq),
      (F.KVE_ERR_COUNT, 0), (F.KVE_ERR_INFO_INFO, info)]
  let insn := (((s.tile t).ops.find? tag).map (·.insn)).getD 0
  s.raiseOp t tag cAccess (s.seqAddr t sq) (firstDesc insn) true

/-- The tag of an unretired operation by sequence number. -/
def Tile.tagOf (x : Tile) (seq : Nat) : Option Nat := (List.find? (fun p => decide (p.2.seq = seq)) x.ops).map (·.1)

/-- The KVE drops the request in progress and its operation fails (R280); a KV.FORK first drops what it added. -/
def State.walkFail (s : State) (t : Fin 8) (cause info : Nat) : State :=
  match (s.tile t).kve.cur with
  | none => s
  | some rq =>
    let s1 := s.onTile t (fun x => { x with kve := { x.kve with cur := none, got := [] } })
    match (s1.tile t).tagOf rq.seq with
    | none => s1
    | some tag => s1.kvFail t tag (bits rq.g1 0 16) cause info

/-- The end of a walker (R280): a request still unanswered fails with cause WALK and the logical page that was due. -/
def State.endWalk (s : State) (t : Fin 8) : State :=
  let s1 := s.endThread t 2
  match (s1.tile t).kve.cur with
  | some q => (s1.walkFail t 5 (bits q.g2 0 24 + (s1.tile t).kve.seen)).onTile t (fun x => { x with kve := { x.kve with ended := false } })
  | none => s1.onTile t (fun x => { x with kve := { x.kve with ended := false } })

/-! ### Synchronous and issue traps (R177, R179, R180) -/

/-- END for a thread's trap (Table 7-14); SVC itself becomes IDLE. -/
def State.endUnit (s : State) (t : Fin 8) (tr : Trap) : State :=
  if tr.stale then s
  else match tr.thread with
    | 0 => s.endMain t (some tr.cause) tr.pc
    | 1 => s.endThread t 1
    | 2 => s.endWalk t
    | _ => s.endThread t 3

/-- Report a unit to the FLT (R179, R425). -/
def State.report (s : State) (code unit info : Nat) : State := { s with reports := s.reports ++ [⟨code, unit, info⟩] }

/-- A trap SVC raises while it handles one (R179). -/
def State.doubleFault (s : State) (t : Fin 8) (pc : Nat) : State :=
  let tag := match (s.tile t).active with | some a => a.tag | none => 0
  ((s.onTile t (fun x => { x with doubleFault := true })).haltTile t).report 0x20 t.val (tag + pc * 256)

/-- Raise a synchronous (kind 0) or issue (kind 1) trap of a thread (R177). -/
def State.raiseSync (s : State) (t : Fin 8) (h : Fin 4) (kind cause info insn : Nat) : State :=
  let th := (s.tile t).thr h
  if h = 3 ∧ (s.tile t).active.isSome then s.doubleFault t th.pc
  else
    let ret := if cause = cSvcall ∨ cause = cBreak then (th.pc + 4) % 2 ^ 48 else th.pc
    let tr : Trap := ⟨cause, kind, h.val, 0, 0, th.pc, ret, info % 2 ^ 64, insn, 0, [], false, false⟩
    let s := s.countOp cause
    if s.rd F.TCC_SVC_VEC_VEC t.val = 0 then s.endUnit t tr
    else s.onTile t (fun x => { x.onThr h (fun y => { y with st := .trap, wait := .none }) with traps := x.traps ++ [tr] })

/-- TRAP_CAUSE (Table 7-15). -/
def Trap.causeWord (tr : Trap) : Nat := tr.cause + tr.kind * 32 + tr.thread * 256

/-- SVC takes the oldest pending trap (R179), or END applies to it when there is no handler (R180) (DEDUCED, unsafe, log entry 37). -/
def State.takeTrap (s : State) (t : Fin 8) : State :=
  match (s.tile t).traps with
  | [] => s
  | tr :: rest =>
    let s1 := s.onTile t (fun x => { x with traps := rest })
    if s.rd F.TCC_SVC_VEC_VEC t.val = 0 then if tr.kind = 2 then s1.endOp t tr else s1.endUnit t tr
    else
      (s1.count F.TCC_CNT_TRAP_COUNT t.val 1).onTile t (fun x =>
        let svc := x.thr 3
        { x.onThr 3 (fun y => { y with st := .ready, wait := .none, pc := s.rd F.TCC_SVC_VEC_VEC t.val }) with
          active := some tr
          csr := { x.csr with
            cause := tr.causeWord, pc := tr.pc, op := if tr.kind = 2 then tr.tag + tr.desc * 256 else 0, info := tr.info
            retpc := tr.retpc, insn := #v[bits tr.insn 0 32, bits tr.insn 32 32, bits tr.insn 64 32, bits tr.insn 96 32]
            epc := svc.pc, action := none, svcPrev := svc.st } })

/-- SVC can take a trap: it handles none, and the tile is in Run and not halted by HALT. -/
def State.svcTakes (s : State) (t : Fin 8) : Bool :=
  (s.tile t).active.isNone && (s.tile t).halt ≠ .trap && s.rd F.TPC_STATUS_STATE t.val = 0 && !(s.tile t).resetting

/-- TRAP_TAKE (R179). -/
def execTrapTake (t : Fin 8) (s : State) : Out3 := ok s (if s.svcTakes t then s.takeTrap t else s)

/-! ### The NaN stop (R77 to R79) -/

/-- Once every issued operation has retired after a NaN or Fen stop: HALTED, the job ends with NAN_HALT, and SVC gets the
NAN_HALT trap (R77, R78). A tile that a HALT action has halted only shows HALTED and FEN_STOP. -/
def State.nanCheck (s : State) (t : Fin 8) : State :=
  let x := s.tile t
  match x.nanStop with
  | none => s
  | some st =>
    let s1 := (s.wr F.VSU_NAN_STATUS_HALTED t.val 1).wr F.VSU_NAN_STATUS_FEN_STOP t.val (if x.nanFen then 1 else 0)
    if x.halt = .nan || x.ops ≠ [] then s
    else if x.halt = .trap then s1.onTile t (fun x => { x with nanStop := none })
    else if 16 ≤ x.opTraps then s
    else
      let s2 := if x.job.isSome then s1.endMain t none 0 else s1
      let s3 := s2.onTile t (fun x => { x with
        halt := .nan
        job := x.job.map (fun j => { j with
          halt := some (j.halt.getD cNanHalt), trapPc := match st.op with | some r => r.iaddr | none => 0 })
        threads := x.threads.zipIdx.map (fun p => if p.2 = 3 then p.1 else { p.1 with st := .halted, prev := p.1.st }) })
      let tr : Trap := match st.op with
        | some r => r.mkTrap cNanHalt 0 (descIx r.insn 0) false
        | none => ⟨cNanHalt, 2, 0, 0, 0, 0, 0, 0, 0, st.seq, [], false, false⟩
      s3.pushOp t tr

/-- Every tile's stop takes effect as soon as it can. -/
def State.settle (s : State) : State := allTiles.foldl (fun s t => s.nanCheck t) s

/-- Resume a tile halted by a NaN or Fen stop (R79); GO while a stop is still pending cancels it (DESIGN CHOICE, unsafe, log entry 46). -/
def State.nanResume (s : State) (t : Fin 8) : State :=
  if s.flag F.VSU_NAN_STATUS_VALID t.val || s.flag F.FLT_STATUS_FENSTOP 0 || (s.tile t).halt = .trap then s
  else
    ((s.wr F.VSU_NAN_STATUS_HALTED t.val 0).wr F.VSU_NAN_STATUS_FEN_STOP t.val 0).onTile t (fun x => { x with
      halt := .none, nanStop := none, nanFen := false
      threads := if x.halt = .nan then x.threads.map (fun y => if y.st = .halted then { y with st := y.prev } else y)
        else x.threads })

/-- NAN_RESUME_GO (R79). -/
def execNanResumeGo (t : Fin 8) (s : State) : Out3 := ok s (s.nanResume t)

end Sys2Proof.Machine
end

