-- ==== Sys2Proof/Machine/Scalar.lean ====
section
/-! DEFINITION. The path every Psirra-S instruction takes on a thread (chapter 7): issue, fetch, effect, and how it ends. -/
namespace Sys2Proof.Machine

/-! ### Registers (R158, R160) -/

/-- g[i]; g0 reads zero. -/
def Thread.getG (x : Thread) (i : Nat) : Word := if i = 0 then 0 else x.g.getD i 0

/-- Write g[i]; g0 ignores it. -/
def Thread.setG (x : Thread) (i : Nat) (v : Word) : Thread := if i = 0 then x else { x with g := x.g.set 0 i v }

/-- p[i]; p0 reads 1. -/
def Thread.getP (x : Thread) (i : Nat) : Bool := if i = 0 then true else x.p.getLsbD i

/-- Write p[i]; p0 ignores it. -/
def Thread.setP (x : Thread) (i : Nat) (b : Bool) : Thread :=
  if i = 0 then x
  else { x with p := if b then x.p ||| BitVec.ofNat 8 (2 ^ i) else x.p &&& ~~~ (BitVec.ofNat 8 (2 ^ i)) }

/-- A descriptor register. -/
def Tile.getD (x : Tile) (i : Nat) : DReg := x.dregs.getD i 0

/-- Write a descriptor register. -/
def Tile.setD (x : Tile) (i : Nat) (v : DReg) : Tile := { x with dregs := x.dregs.set 0 i v }

/-- A thread of a tile of the state. -/
def State.thr (s : State) (t : Fin 8) (h : Fin 4) : Thread := (s.tile t).thr h

/-- Change a thread. -/
def State.onThr (s : State) (t : Fin 8) (h : Fin 4) (f : Thread → Thread) : State := s.onTile t (fun x => x.onThr h f)

/-- g[i] of a thread. -/
def State.g (s : State) (t : Fin 8) (h : Fin 4) (i : Nat) : Word := (s.thr t h).getG i

/-- Write g[i] of a thread. -/
def State.setG (s : State) (t : Fin 8) (h : Fin 4) (i : Nat) (v : Word) : State := s.onThr t h (fun y => y.setG i v)

/-- Write p[i] of a thread. -/
def State.setP (s : State) (t : Fin 8) (h : Fin 4) (i : Nat) (b : Bool) : State := s.onThr t h (fun y => y.setP i b)

/-! ### Instruction words (Table 7-4) -/

/-- Encode a format R word: class code, FN and fields. -/
def rWord (cls fn : Nat) (a : RArgs) : Nat :=
  cls + a.gd.toNat * 2 ^ 3 + a.ga.toNat * 2 ^ 9 + a.gb.toNat * 2 ^ 15 + fn * 2 ^ 21 + a.x.toNat * 2 ^ 27

/-- Encode a format I word. -/
def iWord (cls fn : Nat) (a : IArgs) : Nat :=
  cls + a.gd.toNat * 2 ^ 3 + a.ga.toNat * 2 ^ 9 + fn * 2 ^ 15 + a.imm.toNat * 2 ^ 19

/-- Encode a format B word. -/
def bWord (fn : Nat) (a : BArgs) : Nat := 2 + fn * 2 ^ 3 + a.p.toNat * 2 ^ 6 + a.n.toNat * 2 ^ 9 + a.off.toNat * 2 ^ 10

/-- Format classes (Table 7-4). -/
abbrev clsAlu : Nat := 0
/-- Immediate ALU. -/
abbrev clsAlui : Nat := 1
/-- Memory. -/
abbrev clsMem : Nat := 3
/-- CSR. -/
abbrev clsCsr : Nat := 4
/-- Threads. -/
abbrev clsThr : Nat := 5

/-! ### How an instruction ends -/

/-- What an instruction does once issued: it retires and goes on, retires and jumps, traps without effect, waits in STALL, or
ends in a state of its own. -/
inductive Act where
  | next (s : State)
  | jump (s : State) (pc : Nat)
  | trap (cause info : Nat)
  | wait (s : State) (w : Wait)
  | done (s : State)

/-- A pending trap that SVC can take comes before any instruction (R157). -/
def State.svcFirst (s : State) (t : Fin 8) : Bool := (s.tile t).traps ≠ [] && s.svcTakes t

/-- A stalled thread's instruction is to be tried again. -/
def Wait.again : Wait → Bool
  | .retry | .noTag | .answered => true
  | _ => false

/-- The thread can execute an instruction now: the tile in Run and not stopped by DBG_STOP, no trap for SVC to take first, the thread
READY, or in STALL with its instruction to be tried again (DESIGN CHOICE, safe, log entry 13). -/
def State.canIssue (s : State) (t : Fin 8) (h : Fin 4) : Bool :=
  s.rd F.TPC_STATUS_STATE t.val = 0 && !s.flag F.TPC_STATUS_ENTERING t.val && !(s.tile t).resetting && !s.flag F.TCC_CTL_DBG_STOP t.val &&
    !s.svcFirst t && ((s.thr t h).st = .ready || ((s.thr t h).st = .stall && (s.thr t h).wait.again))

/-- Fetch the words at the pc: a cached fetch needs no translation (R183); the local store holds no instruction (R160). -/
def State.fetchCheck (s : State) (t : Fin 8) (h : Fin 4) (n : Nat) : Except VFault Unit :=
  let pc := (s.thr t h).pc
  if ((s.tile t).icache.find? pc).isSome then .ok ()
  else if lsBase ≤ pc then .error ⟨.perm, pc⟩
  else match s.translate t .fetch pc with
    | .error e => .error ⟨e, pc⟩
    | .ok pa => if s.poisonIn pa n then .error ⟨.poison, pc⟩ else .ok ()

/-- A fetch that the instruction cache does not serve is translated (R221) and reaches its memory. -/
def State.fetchReach (s : State) (t : Fin 8) (h : Fin 4) (n : Nat) : State :=
  let pc := (s.thr t h).pc
  if ((s.tile t).icache.find? pc).isSome || lsBase ≤ pc then s
  else
    let s1 := s.touchPages t [pc]
    match s.translate t .fetch pc with
    | .ok pa => (s1.wakeFor (some t) pa).tookBytes pa n
    | .error _ => s1

/-- A fetch waits for a host translation (R381). -/
def State.fetchAts (s : State) (t : Fin 8) (h : Fin 4) : Option State :=
  let pc := (s.thr t h).pc
  if ((s.tile t).icache.find? pc).isSome || lsBase ≤ pc then none
  else match s.translate t .fetch pc with
    | .ok pa => if s.atsNeeds (s.ownerOf t.val) pa then some (s.atsAsk (s.ownerOf t.val) pa) else none
    | .error _ => none

/-- Cache the words fetched at the pc. -/
def State.cacheInsn (s : State) (t : Fin 8) (h : Fin 4) (word : Nat) : State :=
  s.onTile t (fun x => { x with icache := x.icache.put (x.thr h).pc word })

/-- Retire an instruction: INSTRET and, in a handler, HSTEPS count; the thread is READY at its next pc. -/
def State.retireAt (s : State) (t : Fin 8) (h : Fin 4) (pc : Nat) : State :=
  s.onThr t h (fun y => { y with
    st := .ready, wait := .none, pc := pc % 2 ^ 48, instret := y.instret + 1
    hsteps := if h = 1 then y.hsteps + 1 else y.hsteps })

/-- THR.SVCALL and THR.BREAK are executed, and count, although they end in a trap (R163, R177). -/
def Thread.counted (y : Thread) (h : Fin 4) (cause : Nat) : Thread :=
  if cause = cSvcall ∨ cause = cBreak then { y with instret := y.instret + 1, hsteps := if h = 1 then y.hsteps + 1 else y.hsteps } else y

/-- Apply what an instruction of n bytes does. -/
def State.act (s : State) (t : Fin 8) (h : Fin 4) (n kind word : Nat) : Act → State
  | .next s' => s'.retireAt t h ((s.thr t h).pc + n)
  | .jump s' pc => s'.retireAt t h pc
  | .trap c i => (s.onThr t h (fun y => y.counted h c)).raiseSync t h kind c i word
  | .wait s' w => s'.onThr t h (fun y => { y with st := .stall, wait := w })
  | .done s' => s'

/-- A fetch that faulted: the TMU record and a synchronous trap with no instruction word (R179, R238). -/
def State.fetchFault (s : State) (t : Fin 8) (h : Fin 4) (f : VFault) : State :=
  (s.tmuRecord t f.f f.va false true false 0).raiseSync t h 0 f.f.cause f.va 0

/-- Issue a Psirra-S instruction on a thread. The handler bound (R163) comes before the fetch. -/
def State.scalar (s : State) (t : Fin 8) (th : Thr) (word : Nat) (body : State → Act) : State :=
  let h := thrIx th
  if !s.canIssue t h then s
  else if h = 1 ∧ 4096 ≤ (s.thr t h).hsteps then s.raiseSync t h 0 cHandlerBound 0 word
  else match s.fetchCheck t h 4 with
    | .error f => (s.fetchReach t h 4).fetchFault t h f
    | .ok _ => match s.fetchAts t h with
    | some s1 => s1
    | none =>
      let s1 := ((s.fetchReach t h 4).cacheInsn t h word).count F.TCC_CNT_ISSUE_S_COUNT t.val (if (s.thr t h).st = .ready then 1 else 0)
      s1.act t h 4 0 word (body s1)

/-- ILLEGAL_INSN unless a condition on the fields holds (R171, Tables 7-10 to 7-12). -/
def Act.ifLegal (b : Bool) (a : Act) : Act := if b then a else .trap cIllegalInsn 0

/-! ### Access to registers by an instruction -/

/-- An instruction that writes g[GD] from the thread's registers. -/
def State.toG (s : State) (t : Fin 8) (th : Thr) (gd : BitVec 6) (v : Word) : Act := .next (s.setG t (thrIx th) gd.toNat v)

/-- An instruction that writes p[GD[2:0]]; GD[5:3] must be zero. -/
def State.toP (s : State) (t : Fin 8) (th : Thr) (gd : BitVec 6) (b : Bool) : Act :=
  Act.ifLegal (gd.toNat < 8) (.next (s.setP t (thrIx th) gd.toNat b))

/-- g[GA] of the issuing thread. -/
def State.ga (s : State) (t : Fin 8) (th : Thr) (ga : BitVec 6) : Word := s.g t (thrIx th) ga.toNat

end Sys2Proof.Machine
end

