-- ==== Sys2Proof/Machine/Alu.lean ====
section
/-! DEFINITION. ALU, ALUI and BR instructions (Tables 7-10 and 7-11). -/
namespace Sys2Proof.Machine

/-! ### Shared forms -/

/-- g[GD] = f(g[GA], g[GB]); X unused. -/
def State.alu2 (s : State) (t : Fin 8) (th : Thr) (fn : Nat) (a : RArgs) (f : Word → Word → Word) : State :=
  s.scalar t th (rWord clsAlu fn a) (fun s => Act.ifLegal (a.x = 0) (s.toG t th a.gd (f (s.ga t th a.ga) (s.ga t th a.gb))))

/-- g[GD] = f(g[GA]); GB and X unused. -/
def State.alu1 (s : State) (t : Fin 8) (th : Thr) (fn : Nat) (a : RArgs) (f : Word → Word) : State :=
  s.scalar t th (rWord clsAlu fn a) (fun s => Act.ifLegal (a.x = 0 && a.gb = 0) (s.toG t th a.gd (f (s.ga t th a.ga))))

/-- p[GD[2:0]] = a comparison of g[GA] with g[GB]. -/
def State.aluCmp (s : State) (t : Fin 8) (th : Thr) (fn : Nat) (a : RArgs) (f : Word → Word → Bool) : State :=
  s.scalar t th (rWord clsAlu fn a) (fun s => Act.ifLegal (a.x = 0) (s.toP t th a.gd (f (s.ga t th a.ga) (s.ga t th a.gb))))

/-- p[GD[2:0]] = p[GA[2:0]] op p[GB[2:0]]. -/
def State.aluPred (s : State) (t : Fin 8) (th : Thr) (fn : Nat) (a : RArgs) (f : Bool → Bool → Bool) : State :=
  s.scalar t th (rWord clsAlu fn a) (fun s => Act.ifLegal (a.x = 0 && a.ga.toNat < 8 && a.gb.toNat < 8)
    (s.toP t th a.gd (f ((s.thr t (thrIx th)).getP a.ga.toNat) ((s.thr t (thrIx th)).getP a.gb.toNat))))

/-- The sign-extended immediate. -/
def immW (a : IArgs) : Word := a.imm.signExtend 64

/-- g[GD] = f(g[GA]) with an immediate inside f. -/
def State.aluImm (s : State) (t : Fin 8) (th : Thr) (fn : Nat) (a : IArgs) (f : Word → Word) : State :=
  s.scalar t th (iWord clsAlui fn a) (fun s => s.toG t th a.gd (f (s.ga t th a.ga)))

/-- A shift by IMM[5:0]; IMM[12:6] must be zero. -/
def State.aluShift (s : State) (t : Fin 8) (th : Thr) (fn : Nat) (a : IArgs) (f : Word → Nat → Word) : State :=
  s.scalar t th (iWord clsAlui fn a) (fun s => Act.ifLegal (a.imm.toNat < 64) (s.toG t th a.gd (f (s.ga t th a.ga) a.imm.toNat)))

/-- p[GD[2:0]] = a comparison of g[GA] with the immediate. -/
def State.aluCmpImm (s : State) (t : Fin 8) (th : Thr) (fn : Nat) (a : IArgs) (f : Word → Word → Bool) : State :=
  s.scalar t th (iWord clsAlui fn a) (fun s => s.toP t th a.gd (f (s.ga t th a.ga) (immW a)))

/-- An instruction that names descriptor register i: ILLEGAL_INSN unless MAIN issues it (R158) and i is below 32. -/
def Act.onD (th : Thr) (i : BitVec 6) (legal : Bool) (a : Act) : Act := Act.ifLegal (th = .main && i.toNat < 32 && legal) a

/-! ### Word functions -/

/-- Count of leading zeros. -/
def clz64 (w : Word) : Word := BitVec.ofNat 64 (if w = 0 then 64 else 63 - w.toNat.log2)

/-- Population count. -/
def popc64 (w : Word) : Word := BitVec.ofNat 64 (((List.range 64).filter (fun i => w.getLsbD i)).length)

/-- Unsigned high half of the product. -/
def mulhu64 (a b : Word) : Word := BitVec.ofNat 64 (a.toNat * b.toNat / 2 ^ 64)

/-- Unsigned quotient; all ones for a zero divisor. -/
def divu64 (a b : Word) : Word := if b = 0 then BitVec.allOnes 64 else a / b

/-- Unsigned remainder; the dividend for a zero divisor. -/
def remu64 (a b : Word) : Word := if b = 0 then a else a % b

/-- Word k of a descriptor register. -/
def dWord (d : DReg) (k : Nat) : Word := BitVec.ofNat 64 (bits d.toNat (64 * k) 64)

/-- Replace w bits from bit lo of a descriptor register. -/
def dPut (d : DReg) (lo w v : Nat) : DReg := BitVec.ofNat 256 (d.toNat - bits d.toNat lo w * 2 ^ lo + v % 2 ^ w * 2 ^ lo)

/-! ### ALU -/

/-- ALU.ADD. -/
def execAluAdd (t : Fin 8) (th : Thr) (a : RArgs) (s : State) : Out3 := ok s (s.alu2 t th 0x00 a (· + ·))
/-- ALU.SUB. -/
def execAluSub (t : Fin 8) (th : Thr) (a : RArgs) (s : State) : Out3 := ok s (s.alu2 t th 0x01 a (· - ·))
/-- ALU.AND. -/
def execAluAnd (t : Fin 8) (th : Thr) (a : RArgs) (s : State) : Out3 := ok s (s.alu2 t th 0x02 a (· &&& ·))
/-- ALU.OR. -/
def execAluOr (t : Fin 8) (th : Thr) (a : RArgs) (s : State) : Out3 := ok s (s.alu2 t th 0x03 a (· ||| ·))
/-- ALU.XOR. -/
def execAluXor (t : Fin 8) (th : Thr) (a : RArgs) (s : State) : Out3 := ok s (s.alu2 t th 0x04 a (· ^^^ ·))
/-- ALU.SLL by g[GB][5:0]. -/
def execAluSll (t : Fin 8) (th : Thr) (a : RArgs) (s : State) : Out3 :=
  ok s (s.alu2 t th 0x05 a (fun x y => x <<< (y.toNat % 64)))
/-- ALU.SRL by g[GB][5:0]. -/
def execAluSrl (t : Fin 8) (th : Thr) (a : RArgs) (s : State) : Out3 :=
  ok s (s.alu2 t th 0x06 a (fun x y => x >>> (y.toNat % 64)))
/-- ALU.SRA by g[GB][5:0]. -/
def execAluSra (t : Fin 8) (th : Thr) (a : RArgs) (s : State) : Out3 :=
  ok s (s.alu2 t th 0x07 a (fun x y => x.sshiftRight (y.toNat % 64)))
/-- ALU.MUL. -/
def execAluMul (t : Fin 8) (th : Thr) (a : RArgs) (s : State) : Out3 := ok s (s.alu2 t th 0x08 a (· * ·))
/-- ALU.MULHU. -/
def execAluMulhu (t : Fin 8) (th : Thr) (a : RArgs) (s : State) : Out3 := ok s (s.alu2 t th 0x09 a mulhu64)
/-- ALU.DIVU. -/
def execAluDivu (t : Fin 8) (th : Thr) (a : RArgs) (s : State) : Out3 := ok s (s.alu2 t th 0x0A a divu64)
/-- ALU.REMU. -/
def execAluRemu (t : Fin 8) (th : Thr) (a : RArgs) (s : State) : Out3 := ok s (s.alu2 t th 0x0B a remu64)
/-- ALU.MIN. -/
def execAluMin (t : Fin 8) (th : Thr) (a : RArgs) (s : State) : Out3 :=
  ok s (s.alu2 t th 0x0C a (fun x y => if x.slt y then x else y))
/-- ALU.MAX. -/
def execAluMax (t : Fin 8) (th : Thr) (a : RArgs) (s : State) : Out3 :=
  ok s (s.alu2 t th 0x0D a (fun x y => if x.slt y then y else x))
/-- ALU.MINU. -/
def execAluMinu (t : Fin 8) (th : Thr) (a : RArgs) (s : State) : Out3 :=
  ok s (s.alu2 t th 0x0E a (fun x y => if x.ult y then x else y))
/-- ALU.MAXU. -/
def execAluMaxu (t : Fin 8) (th : Thr) (a : RArgs) (s : State) : Out3 :=
  ok s (s.alu2 t th 0x0F a (fun x y => if x.ult y then y else x))
/-- ALU.CLZ. -/
def execAluClz (t : Fin 8) (th : Thr) (a : RArgs) (s : State) : Out3 := ok s (s.alu1 t th 0x10 a clz64)
/-- ALU.POPC. -/
def execAluPopc (t : Fin 8) (th : Thr) (a : RArgs) (s : State) : Out3 := ok s (s.alu1 t th 0x11 a popc64)
/-- ALU.SEL by p[X[2:0]]. -/
def execAluSel (t : Fin 8) (th : Thr) (a : RArgs) (s : State) : Out3 :=
  ok s (s.scalar t th (rWord clsAlu 0x12 a) (fun s => Act.ifLegal (a.x.toNat < 8)
    (s.toG t th a.gd (if (s.thr t (thrIx th)).getP a.x.toNat then s.ga t th a.ga else s.ga t th a.gb))))
/-- ALU.CMPEQ. -/
def execAluCmpeq (t : Fin 8) (th : Thr) (a : RArgs) (s : State) : Out3 := ok s (s.aluCmp t th 0x18 a (fun x y => decide (x = y)))
/-- ALU.CMPNE. -/
def execAluCmpne (t : Fin 8) (th : Thr) (a : RArgs) (s : State) : Out3 := ok s (s.aluCmp t th 0x19 a (fun x y => decide (x ≠ y)))
/-- ALU.CMPLT. -/
def execAluCmplt (t : Fin 8) (th : Thr) (a : RArgs) (s : State) : Out3 := ok s (s.aluCmp t th 0x1A a (fun x y => x.slt y))
/-- ALU.CMPLTU. -/
def execAluCmpltu (t : Fin 8) (th : Thr) (a : RArgs) (s : State) : Out3 := ok s (s.aluCmp t th 0x1B a (fun x y => x.ult y))
/-- ALU.CMPGE. -/
def execAluCmpge (t : Fin 8) (th : Thr) (a : RArgs) (s : State) : Out3 := ok s (s.aluCmp t th 0x1C a (fun x y => !x.slt y))
/-- ALU.CMPGEU. -/
def execAluCmpgeu (t : Fin 8) (th : Thr) (a : RArgs) (s : State) : Out3 := ok s (s.aluCmp t th 0x1D a (fun x y => !x.ult y))
/-- ALU.PAND. -/
def execAluPand (t : Fin 8) (th : Thr) (a : RArgs) (s : State) : Out3 := ok s (s.aluPred t th 0x20 a (· && ·))
/-- ALU.POR. -/
def execAluPor (t : Fin 8) (th : Thr) (a : RArgs) (s : State) : Out3 := ok s (s.aluPred t th 0x21 a (· || ·))
/-- ALU.PXOR. -/
def execAluPxor (t : Fin 8) (th : Thr) (a : RArgs) (s : State) : Out3 := ok s (s.aluPred t th 0x22 a (fun x y => x ^^ y))
/-- ALU.PNOT; GB must be zero. -/
def execAluPnot (t : Fin 8) (th : Thr) (a : RArgs) (s : State) : Out3 :=
  ok s (s.scalar t th (rWord clsAlu 0x23 a) (fun s => Act.ifLegal (a.x = 0 && a.ga.toNat < 8 && a.gb = 0)
    (s.toP t th a.gd (!(s.thr t (thrIx th)).getP a.ga.toNat))))
/-- ALU.PMOVG: p7 to p0 in the low byte. -/
def execAluPmovg (t : Fin 8) (th : Thr) (a : RArgs) (s : State) : Out3 :=
  ok s (s.scalar t th (rWord clsAlu 0x24 a) (fun s => Act.ifLegal (a.x = 0 && a.ga = 0 && a.gb = 0)
    (s.toG t th a.gd (((s.thr t (thrIx th)).p ||| 1#8).zeroExtend 64))))
/-- ALU.DSETW: word X[1:0] of d[GD[4:0]] = g[GA]. -/
def execAluDsetw (t : Fin 8) (th : Thr) (a : RArgs) (s : State) : Out3 :=
  ok s (s.scalar t th (rWord clsAlu 0x30 a) (fun s => Act.onD th a.gd (a.gb = 0 && a.x.toNat < 4)
    (.next (s.onTile t (fun y => y.setD a.gd.toNat (dPut (y.getD a.gd.toNat) (64 * a.x.toNat) 64 (s.ga t th a.ga).toNat))))))
/-- ALU.DGETW: g[GD] = word X[1:0] of d[GA[4:0]]. -/
def execAluDgetw (t : Fin 8) (th : Thr) (a : RArgs) (s : State) : Out3 :=
  ok s (s.scalar t th (rWord clsAlu 0x31 a) (fun s => Act.onD th a.ga (a.gb = 0 && a.x.toNat < 4)
    (s.toG t th a.gd (dWord ((s.tile t).getD a.ga.toNat) a.x.toNat))))
/-- ALU.DADDB: BASE += g[GA] modulo 2^48. -/
def execAluDaddb (t : Fin 8) (th : Thr) (a : RArgs) (s : State) : Out3 :=
  ok s (s.scalar t th (rWord clsAlu 0x32 a) (fun s => Act.onD th a.gd (a.gb = 0 && a.x = 0)
    (.next (s.onTile t (fun y => y.setD a.gd.toNat (dPut (y.getD a.gd.toNat) 0 48
      (bits (y.getD a.gd.toNat).toNat 0 48 + (s.ga t th a.ga).toNat)))))))
/-- ALU.DADDS: SBASE += g[GA] modulo 2^48. -/
def execAluDadds (t : Fin 8) (th : Thr) (a : RArgs) (s : State) : Out3 :=
  ok s (s.scalar t th (rWord clsAlu 0x33 a) (fun s => Act.onD th a.gd (a.gb = 0 && a.x = 0)
    (.next (s.onTile t (fun y => y.setD a.gd.toNat (dPut (y.getD a.gd.toNat) 48 48
      (bits (y.getD a.gd.toNat).toNat 48 48 + (s.ga t th a.ga).toNat)))))))

/-! ### ALUI -/

/-- ALU.ADDI. -/
def execAluAddi (t : Fin 8) (th : Thr) (a : IArgs) (s : State) : Out3 := ok s (s.aluImm t th 0x0 a (fun x => x + (immW a)))
/-- ALU.ANDI. -/
def execAluAndi (t : Fin 8) (th : Thr) (a : IArgs) (s : State) : Out3 := ok s (s.aluImm t th 0x1 a (fun x => x &&& (immW a)))
/-- ALU.ORI. -/
def execAluOri (t : Fin 8) (th : Thr) (a : IArgs) (s : State) : Out3 := ok s (s.aluImm t th 0x2 a (fun x => x ||| (immW a)))
/-- ALU.XORI. -/
def execAluXori (t : Fin 8) (th : Thr) (a : IArgs) (s : State) : Out3 := ok s (s.aluImm t th 0x3 a (fun x => x ^^^ (immW a)))
/-- ALU.SLLI. -/
def execAluSlli (t : Fin 8) (th : Thr) (a : IArgs) (s : State) : Out3 := ok s (s.aluShift t th 0x4 a (fun x n => x <<< n))
/-- ALU.SRLI. -/
def execAluSrli (t : Fin 8) (th : Thr) (a : IArgs) (s : State) : Out3 := ok s (s.aluShift t th 0x5 a (fun x n => x >>> n))
/-- ALU.SRAI. -/
def execAluSrai (t : Fin 8) (th : Thr) (a : IArgs) (s : State) : Out3 :=
  ok s (s.aluShift t th 0x6 a (fun x n => x.sshiftRight n))
/-- ALU.MOVI; GA unused. -/
def execAluMovi (t : Fin 8) (th : Thr) (a : IArgs) (s : State) : Out3 :=
  ok s (s.scalar t th (iWord clsAlui 0x7 a) (fun s => Act.ifLegal (a.ga = 0) (s.toG t th a.gd (immW a))))
/-- ALU.SHIN: shift left 13 and insert the immediate. -/
def execAluShin (t : Fin 8) (th : Thr) (a : IArgs) (s : State) : Out3 :=
  ok s (s.aluImm t th 0x8 a (fun x => (x <<< 13) ||| a.imm.zeroExtend 64))
/-- ALU.CMPEQI. -/
def execAluCmpeqi (t : Fin 8) (th : Thr) (a : IArgs) (s : State) : Out3 :=
  ok s (s.aluCmpImm t th 0x9 a (fun x y => decide (x = y)))
/-- ALU.CMPNEI. -/
def execAluCmpnei (t : Fin 8) (th : Thr) (a : IArgs) (s : State) : Out3 :=
  ok s (s.aluCmpImm t th 0xA a (fun x y => decide (x ≠ y)))
/-- ALU.CMPLTI. -/
def execAluCmplti (t : Fin 8) (th : Thr) (a : IArgs) (s : State) : Out3 := ok s (s.aluCmpImm t th 0xB a (fun x y => x.slt y))
/-- ALU.CMPLTUI. -/
def execAluCmpltui (t : Fin 8) (th : Thr) (a : IArgs) (s : State) : Out3 := ok s (s.aluCmpImm t th 0xC a (fun x y => x.ult y))

/-! ### BR (R497) -/

/-- The target of a relative branch. -/
def State.brTarget (s : State) (t : Fin 8) (th : Thr) (a : BArgs) : Nat :=
  ((((s.thr t (thrIx th)).pc : Int) + 4 * a.off.toInt) % 2 ^ 48).toNat

/-- Write the return address into g62. -/
def State.link (s : State) (t : Fin 8) (th : Thr) : State :=
  s.setG t (thrIx th) 62 (BitVec.ofNat 64 (((s.thr t (thrIx th)).pc + 4) % 2 ^ 48))

/-- Jump to the address in g[OFF[5:0]], which must be 4 B aligned (R176); P and N unused. -/
def State.brReg (s : State) (t : Fin 8) (th : Thr) (a : BArgs) (lnk : Bool) : Act :=
  let v := (s.ga t th (a.off.setWidth 6)).toNat
  Act.ifLegal (a.p = 0 && !a.n && a.off.toNat < 64)
    (if v % 4 ≠ 0 then .trap cMisalign v else .jump (if lnk then s.link t th else s) v)

/-- BR.J; P and N must be zero. -/
def execBrJ (t : Fin 8) (th : Thr) (a : BArgs) (s : State) : Out3 :=
  ok s (s.scalar t th (bWord 0 a) (fun s => Act.ifLegal (a.p = 0 && !a.n) (.jump s (s.brTarget t th a))))
/-- BR.BP. -/
def execBrBp (t : Fin 8) (th : Thr) (a : BArgs) (s : State) : Out3 :=
  ok s (s.scalar t th (bWord 1 a) (fun s =>
    if (s.thr t (thrIx th)).getP a.p.toNat ^^ a.n then .jump s (s.brTarget t th a) else .next s))
/-- BR.CALL. -/
def execBrCall (t : Fin 8) (th : Thr) (a : BArgs) (s : State) : Out3 :=
  ok s (s.scalar t th (bWord 2 a) (fun s => Act.ifLegal (a.p = 0 && !a.n) (.jump (s.link t th) (s.brTarget t th a))))
/-- BR.JR. -/
def execBrJr (t : Fin 8) (th : Thr) (a : BArgs) (s : State) : Out3 :=
  ok s (s.scalar t th (bWord 3 a) (fun s => s.brReg t th a false))
/-- BR.CALLR. -/
def execBrCallr (t : Fin 8) (th : Thr) (a : BArgs) (s : State) : Out3 :=
  ok s (s.scalar t th (bWord 4 a) (fun s => s.brReg t th a true))

end Sys2Proof.Machine
end

