-- ==== Sys2Proof/Machine/Mem.lean ====
section
/-! DEFINITION. Scalar memory and CSR instructions (Tables 7-11 and 7-15) and the page walks of scalar accesses (R216 to R221). -/
namespace Sys2Proof.Machine

/-! ### Page walks of scalar accesses -/

/-- Start a walk for a thread's access, or join the walk of its page; with eight walks running the access is tried again
(R221). -/
def State.startWalk (s : State) (t : Fin 8) (h : Fin 4) (va : Nat) (wr : Bool) : Act :=
  let s1 := s.count F.TMU_CNT_MISS_COUNT t.val 1
  let x := s.tile t
  match firstIdx (fun w => decide (w.va / 4096 = va / 4096)) x.walks 0 with
  | some i =>
    .wait (s1.onTile t (fun x => { x with walks := x.walks.modify i (fun w => { w with
      waiters := w.waiters ++ [(h.val, va, wr)] }) })) .walk
  | none =>
    if 8 ≤ x.walks.length then .wait s .retry
    else
      let root := s.rd F.TMU_ROOT_PA t.val * 4096
      let w : Walk := match x.wcHit va with
        | some e => ⟨va, e.level - 1, e.pa, [(h.val, va, wr)]⟩
        | none => ⟨va, 3, root, [(h.val, va, wr)]⟩
      .wait (s1.onTile t (fun x => { x with walks := x.walks ++ [w] })) .walk

/-- A walk ends with a fault for each waiting thread (R218, R238). -/
def State.walkFault (s : State) (t : Fin 8) (e : MFault) : List (Nat × Nat × Bool) → State
  | [] => s
  | (h, va, wr) :: l =>
    let h4 : Fin 4 := ⟨h % 4, Nat.mod_lt _ (by decide)⟩
    let word := ((s.tile t).icache.find? (s.thr t h4).pc).getD 0
    (((s.tmuRecord t e va wr false false 0).raiseSync t h4 0 e.cause va word)).walkFault t e l

/-- Waiting threads try their instruction again. -/
def Tile.walkDone (x : Tile) (ws : List (Nat × Nat × Bool)) : Tile :=
  ws.foldl (fun x w =>
    let h : Fin 4 := ⟨w.1 % 4, Nat.mod_lt _ (by decide)⟩
    if (x.thr h).wait = .walk then x.onThr h (fun y => { y with wait := .retry }) else x) x

/-- WALK_ENTRY_RETURN (R217): the entry that walk i waits for has been read. -/
def execWalkEntryReturn (t : Fin 8) (i : Nat) (s : State) : Out3 :=
  ok s (match (s.tile t).walks[i]? with
    | none => s
    | some w =>
      let drop (s : State) : State := s.onTile t (fun x => { x with walks := x.walks.eraseIdx i })
      let s1 := s.count F.TMU_CNT_WALK_COUNT t.val (s.walkReads w.level w.table w.va)
      match s.walkEntry w.level w.table w.va with
      | .down l tb =>
        s1.onTile t (fun x => { x with
          wcache := keepLast 64 (x.wcache ++ [⟨w.level, w.va, tb⟩])
          walks := x.walks.modify i (fun w => { w with level := l, table := tb }) })
      | .leaf l =>
        (drop s1).onTile t (fun x =>
          let e : TlbEnt := ⟨w.va / 2 ^ l.lg * 2 ^ l.lg, l.lg, l.pa, l.r, l.w, l.x⟩
          Tile.walkDone { x with tlb := keepLast 2048 (x.tlb ++ [e]) } w.waiters)
      | .fail e => (drop s1).walkFault t e w.waiters)

/-! ### Access -/

/-- Where a scalar access goes once translated: an offset of the local store, a physical address, or what the instruction does
instead. -/
inductive Reach where
  | store (off : Nat)
  | phys (pa : Nat)
  | stop (a : Act)

/-- A scalar access of n bytes to a tile virtual address (R160, R176, R216, R220). -/
def State.reachVa (s : State) (t : Fin 8) (h : Fin 4) (va n : Nat) (k : AccK) : Reach :=
  let wr := k = .write || k = .atomic
  let fault (e : MFault) : Reach :=
    .stop (.done ((s.tmuRecord t e va wr false false 0).raiseSync t h 0 e.cause va
      (((s.tile t).icache.find? (s.thr t h).pc).getD 0)))
  let check (pa : Nat) : Reach :=
    match s.paCheck (s.ownerOf t.val) pa wr with
    | .error e => fault e
    | .ok _ => .phys pa
  if va % n ≠ 0 then .stop (.trap cMisalign va)
  else if lsBase ≤ va then .store (va - lsBase)
  else if s.rd F.TMU_CTL_EN t.val = 0 then check va
  else match (s.tile t).tlbHit va with
    | some e => if permOk k e.r e.w e.x then check (e.pa + va % 2 ^ e.lg) else fault .perm
    | none =>
      if (deviceRegion (s.rd F.TMU_ROOT_PA t.val * 4096)).isDevice then .stop (s.startWalk t h va wr)
      else fault (.malformed 3)

/-- The address of a MEM instruction: g[GA] + sext(IMM) modulo 2^48 (R494). -/
def State.memVa (s : State) (t : Fin 8) (th : Thr) (a : IArgs) : Nat :=
  ((s.ga t th a.ga) + a.imm.signExtend 64).toNat % 2 ^ 48

/-- The issuing thread as a waiter. -/
def State.whoAmI (s : State) (t : Fin 8) (th : Thr) (va : Nat) : Who :=
  .scalar t.val (thrIx th).val va (s.thr t (thrIx th)).pc

/-- Read from the local store. -/
def Tile.loadLs (x : Tile) (off n : Nat) : Nat := leNat ((List.range n).map (fun i => x.ls.getD ((off + i) % 262144) 0))

/-- A store of the thread's own to these bytes is still held (R159, R319): its later load waits for it. -/
def State.ownHeld (s : State) (t : Fin 8) (th : Thr) (pa n : Nat) : Bool :=
  match s.ck with
  | none => false
  | some j => j.held.any (fun h => (match h.who with | .scalar u k _ _ => u = t.val && k = (thrIx th).val | _ => false) &&
      decide (s.localise h.pa < s.localise pa + n) && decide (s.localise pa < s.localise h.pa + h.upd.span))

/-- Send a read or an atomic to another rank and wait for its answer (R159, R344). -/
def State.askRemote (s : State) (t : Fin 8) (th : Thr) (va mop d off n : Nat) (data : List Byte) : Act :=
  .wait (s.request ⟨s.whoAmI t th va, mop, off, n, d, data, false⟩) .remote

/-- A load: the value read at the address, put where the instruction puts it. -/
def State.load (s : State) (t : Fin 8) (th : Thr) (va n : Nat) (put : State → Nat → Act) : Act :=
  match s.reachVa t (thrIx th) va n .read with
  | .stop a => a
  | .store off => put s ((s.tile t).loadLs off n)
  | .phys pa =>
    let get : Act :=
      if s.atsNeeds (s.ownerOf t.val) pa then .wait (s.atsAsk (s.ownerOf t.val) pa) .retry
      else if s.ownHeld t th pa n then .wait s .retry
      else if s.poisonIn pa n then .trap cMemPoison va
      else put ((s.wakeFor (some t) pa).tookBytes pa n) (s.readNat (s.ownerOf t.val) pa n)
    match s.region pa with
    | .fen d off => if (s.thr t (thrIx th)).wait = .answered then get else s.askRemote t th va mopRd d off n []
    | _ => get

/-- A store of the low bytes of a value (DEDUCED, unsafe, log entry 28). -/
def State.store (s : State) (t : Fin 8) (th : Thr) (va n v : Nat) : Act :=
  match s.reachVa t (thrIx th) va n .write with
  | .stop a => a
  | .store off => .next (s.onTile t (fun x => x.putLs off (leBytes n v)))
  | .phys pa =>
    if s.atsNeeds (s.ownerOf t.val) pa then .wait (s.atsAsk (s.ownerOf t.val) pa) .retry
    else .next ((s.wakeFor (some t) pa).writeBytes (s.ownerOf t.val) pa (leBytes n v) (s.whoAmI t th va))

/-- An atomic: the old value goes to g[GD], the memory takes the new value if there is one (R176, R235). An answered request
to another rank leaves the memory's work done there. -/
def State.atomic (s : State) (t : Fin 8) (th : Thr) (a : IArgs) (mop : Nat) (args : List Byte) (new : Nat → Option Nat) : Act :=
  let va := s.memVa t th a
  let f := s.ownerOf t.val
  let put (s : State) (old : Nat) : Act := .next (s.setG t (thrIx th) a.gd.toNat (BitVec.ofNat 64 old))
  match s.reachVa t (thrIx th) va 8 .atomic with
  | .stop b => b
  | .store off =>
    let old := (s.tile t).loadLs off 8
    put (match new old with
      | some v => s.onTile t (fun x => x.putLs off (leBytes 8 v))
      | none => s) old
  | .phys pa =>
    let old := s.readNat f pa 8
    let s := (s.wakeFor (some t) pa).tookBytes pa 8
    let here : Act :=
      if s.atsNeeds f pa then .wait (s.atsAsk f pa) .retry
      else if s.poisonIn pa 8 then .trap cMemPoison va
      else match new old with
        | none => put s old
        | some v => if s.gate pa = .hold then .wait s .retry else put (s.writeBytes f pa (leBytes 8 v) (s.whoAmI t th va)) old
    match s.region pa with
    | .host _ => if (s.fn f).atomicOp then here else .trap cAccess va
    | .fen d off =>
      if (s.thr t (thrIx th)).wait = .answered then
        if s.poisonIn pa 8 then .trap cMemPoison va
        else put (match new old with | some v => s.putBytes f pa (leBytes 8 v) | none => s) old
      else s.askRemote t th va mop d off (if mop = mopCas then 16 else 8) args
    | _ => here

/-! ### MEM instructions (Table 7-11) -/

/-- A MEM instruction: FN and effect. -/
def State.memInsn (s : State) (t : Fin 8) (th : Thr) (fn : Nat) (a : IArgs) (body : State → Act) : State :=
  s.scalar t th (iWord clsMem fn a) body

/-- A load into g[GD], zero-extended. -/
def State.ldG (s : State) (t : Fin 8) (th : Thr) (fn n : Nat) (a : IArgs) : State :=
  s.memInsn t th fn a (fun s => s.load t th (s.memVa t th a) n (fun s v => s.toG t th a.gd (BitVec.ofNat 64 v)))

/-- A store from g[GD]. -/
def State.stG (s : State) (t : Fin 8) (th : Thr) (fn n : Nat) (a : IArgs) : State :=
  s.memInsn t th fn a (fun s => s.store t th (s.memVa t th a) n (s.g t (thrIx th) a.gd.toNat).toNat)

/-- MEM.LD8U. -/
def execMemLd8u (t : Fin 8) (th : Thr) (a : IArgs) (s : State) : Out3 := ok s (s.ldG t th 0 1 a)
/-- MEM.LD16U. -/
def execMemLd16u (t : Fin 8) (th : Thr) (a : IArgs) (s : State) : Out3 := ok s (s.ldG t th 1 2 a)
/-- MEM.LD32U. -/
def execMemLd32u (t : Fin 8) (th : Thr) (a : IArgs) (s : State) : Out3 := ok s (s.ldG t th 2 4 a)
/-- MEM.LD64. -/
def execMemLd64 (t : Fin 8) (th : Thr) (a : IArgs) (s : State) : Out3 := ok s (s.ldG t th 3 8 a)
/-- MEM.ST8. -/
def execMemSt8 (t : Fin 8) (th : Thr) (a : IArgs) (s : State) : Out3 := ok s (s.stG t th 4 1 a)
/-- MEM.ST16. -/
def execMemSt16 (t : Fin 8) (th : Thr) (a : IArgs) (s : State) : Out3 := ok s (s.stG t th 5 2 a)
/-- MEM.ST32. -/
def execMemSt32 (t : Fin 8) (th : Thr) (a : IArgs) (s : State) : Out3 := ok s (s.stG t th 6 4 a)
/-- MEM.ST64. -/
def execMemSt64 (t : Fin 8) (th : Thr) (a : IArgs) (s : State) : Out3 := ok s (s.stG t th 7 8 a)

/-- MEM.AMOADD. -/
def execMemAmoadd (t : Fin 8) (th : Thr) (a : IArgs) (s : State) : Out3 :=
  ok s (s.memInsn t th 8 a (fun s =>
    let v := (s.g t (thrIx th) a.gd.toNat).toNat
    s.atomic t th a mopAdd (leBytes 8 v) (fun old => some ((old + v) % 2 ^ 64))))

/-- MEM.AMOSWP. -/
def execMemAmoswp (t : Fin 8) (th : Thr) (a : IArgs) (s : State) : Out3 :=
  ok s (s.memInsn t th 9 a (fun s =>
    let v := (s.g t (thrIx th) a.gd.toNat).toNat
    s.atomic t th a mopSwap (leBytes 8 v) (fun _ => some v)))

/-- MEM.AMOCAS: GD is even and at most 62. -/
def execMemAmocas (t : Fin 8) (th : Thr) (a : IArgs) (s : State) : Out3 :=
  ok s (s.memInsn t th 10 a (fun s =>
    let c := (s.g t (thrIx th) a.gd.toNat).toNat
    let v := (s.g t (thrIx th) (a.gd.toNat + 1)).toNat
    Act.ifLegal (a.gd.toNat % 2 = 0)
      (s.atomic t th a mopCas (leBytes 8 c ++ leBytes 8 v) (fun old => if old = c then some v else none))))

/-- MEM.DLD: the descriptor registers belong to MAIN (R158). -/
def execMemDld (t : Fin 8) (th : Thr) (a : IArgs) (s : State) : Out3 :=
  ok s (s.memInsn t th 11 a (fun s => Act.ifLegal (th = .main && a.gd.toNat < 32)
    (s.load t th (s.memVa t th a) 32 (fun s v => .next (s.onTile t (fun x => x.setD a.gd.toNat (BitVec.ofNat 256 v)))))))

/-- MEM.DST. -/
def execMemDst (t : Fin 8) (th : Thr) (a : IArgs) (s : State) : Out3 :=
  ok s (s.memInsn t th 12 a (fun s => Act.ifLegal (th = .main && a.gd.toNat < 32)
    (s.store t th (s.memVa t th a) 32 ((s.tile t).getD a.gd.toNat).toNat)))

/-- A thread's earlier stores and atomics outside the local store that are not yet acknowledged (R159). -/
def State.threadOwes (s : State) (t : Fin 8) (h : Fin 4) : Bool :=
  s.owes (fun w => match w with | .scalar t' h' _ _ => decide (t' = t.val) && decide (h' = h.val) | _ => false)

/-- MEM.FENCE: every earlier access of the thread completes first. -/
def execMemFence (t : Fin 8) (th : Thr) (a : IArgs) (s : State) : Out3 :=
  ok s (s.memInsn t th 13 a (fun s => Act.ifLegal (a.gd.toNat = 0 && a.ga.toNat = 0 && a.imm.toNat = 0)
    (if s.threadOwes t (thrIx th) then .wait s .retry else .next s)))

/-! ### CSRs (R181, R182, Table 7-15) -/

/-- A tag-free count: the tags with no record. -/
def Tile.tagsFree (x : Tile) : Nat := 256 - x.ops.length

/-- Tokens with an unretired signaller (R192). -/
def Tile.armed (x : Tile) : BitVec 32 :=
  x.ops.foldl (fun m p => if p.2.stok = 0 then m else m ||| BitVec.ofNat 32 (2 ^ p.2.stok)) 0#32

/-- Tokens signalled (R193). -/
def Tile.signalled (x : Tile) : BitVec 32 := x.sigDone &&& ~~~x.armed &&& 0xFFFFFFFE#32

/-- The value a CSR reads, or none for a number Table 7-15 does not list. -/
def State.csrVal (s : State) (t : Fin 8) (h : Fin 4) (n : Nat) : Option Nat :=
  let x := s.tile t
  match n with
  | 0x000 => some h.val
  | 0x001 => some (t.val + s.rank * 256 + s.ownerOf t.val * 65536)
  | 0x010 => some (s.ns % 2 ^ 64)
  | 0x011 => some (x.thr h).timeFrac
  | 0x020 => some x.cycles
  | 0x021 => some (x.thr h).instret
  | 0x022 => some (x.thr 1).hsteps
  | 0x030 => some (s.rd F.TCC_SVC_VEC_VEC t.val)
  | 0x031 => some x.csr.cause
  | 0x032 => some x.csr.pc
  | 0x033 => some x.csr.op
  | 0x034 => some x.csr.info
  | 0x035 => some 0
  | 0x036 => some x.csr.retpc
  | 0x038 => some x.csr.insn[0]
  | 0x039 => some x.csr.insn[1]
  | 0x03A => some x.csr.insn[2]
  | 0x03B => some x.csr.insn[3]
  | 0x03C => some x.csr.epc
  | 0x040 => some x.csr.walkEntry
  | 0x041 => some 0
  | 0x050 => some x.tagsFree
  | 0x051 => some x.signalled.toNat
  | _ => none

/-- The side effect of reading TIME_NS: the fraction latches for the thread. -/
def State.csrRead (s : State) (t : Fin 8) (h : Fin 4) (n : Nat) : State :=
  if n = 0x010 then s.onThr t h (fun y => { y with timeFrac := s.frac }) else s

/-- Invalidate the instruction cache (R183). -/
def State.icInv (s : State) (t : Fin 8) : State := s.onTile t (fun x => { x with icache := [] })

/-- Change the trap CSRs. -/
def State.onCsr (s : State) (t : Fin 8) (f : TrapCsr → TrapCsr) : State := s.onTile t (fun x => { x with csr := f x.csr })

/-- Write a CSR; a read-only one ignores the write (R5). -/
def State.csrPut (s : State) (t : Fin 8) (n v : Nat) : State :=
  match n with
  | 0x035 => s.onCsr t (fun c => { c with action := some (v % 8) })
  | 0x036 => s.onCsr t (fun c => { c with retpc := v % 2 ^ 48 })
  | 0x038 => s.onCsr t (fun c => { c with insn := c.insn.set 0 (v % 2 ^ 32) })
  | 0x039 => s.onCsr t (fun c => { c with insn := c.insn.set 1 (v % 2 ^ 32) })
  | 0x03A => s.onCsr t (fun c => { c with insn := c.insn.set 2 (v % 2 ^ 32) })
  | 0x03B => s.onCsr t (fun c => { c with insn := c.insn.set 3 (v % 2 ^ 32) })
  | 0x040 => s.onCsr t (fun c => { c with walkEntry := v % 2 ^ 48 })
  | 0x041 => s.icInv t
  | _ => s

/-- A CSR instruction: the legality of R182, then the old value to g[GD] when it is read and a new value when it is written. -/
def State.csrOp (s : State) (t : Fin 8) (th : Thr) (fn : Nat) (a : IArgs) (useD useA : Bool)
    (new : Nat → Nat → Option Nat) : State :=
  s.scalar t th (iWord clsCsr fn a) (fun s =>
    let n := a.imm.toNat
    let h := thrIx th
    match s.csrVal t h n with
    | none => .trap cIllegalInsn 0
    | some old =>
      let s1 := if useD then (s.csrRead t h n).setG t h a.gd.toNat (BitVec.ofNat 64 old) else s
      Act.ifLegal ((useD || a.gd.toNat = 0) && (useA || a.ga.toNat = 0) && (!useA || th = .svc))
        (match new old (s.ga t th a.ga).toNat with
          | none => .next s1
          | some v => .next (s1.csrPut t n v)))

/-- CSR.RD. -/
def execCsrRd (t : Fin 8) (th : Thr) (a : IArgs) (s : State) : Out3 :=
  ok s (s.csrOp t th 0 a true false (fun _ _ => none))
/-- CSR.WR. -/
def execCsrWr (t : Fin 8) (th : Thr) (a : IArgs) (s : State) : Out3 :=
  ok s (s.csrOp t th 1 a false true (fun _ v => some v))
/-- CSR.SET. -/
def execCsrSet (t : Fin 8) (th : Thr) (a : IArgs) (s : State) : Out3 :=
  ok s (s.csrOp t th 2 a false true (fun o v => some (o ||| v)))
/-- CSR.CLR. -/
def execCsrClr (t : Fin 8) (th : Thr) (a : IArgs) (s : State) : Out3 :=
  ok s (s.csrOp t th 3 a false true (fun o v => some (o - (o &&& v))))
/-- CSR.SWAP. -/
def execCsrSwap (t : Fin 8) (th : Thr) (a : IArgs) (s : State) : Out3 :=
  ok s (s.csrOp t th 4 a true true (fun _ v => some v))

/-- TCC_ICINV: a write of TCC.CTL.ICINV. -/
def execTccIcinv (t : Fin 8) (s : State) : Out3 := ok s (if s.unitsRun t then s.icInv t else s)

end Sys2Proof.Machine
end

