-- ==== Sys2Proof/Machine/Thr.lean ====
section
/-! DEFINITION. Thread control (Table 7-12) but THR.TRET, and the scalar Lode instructions (R246 to R249, R262, R263). -/
namespace Sys2Proof.Machine

/-! ### Thread control -/

/-- Every field of a format R instruction that names no operand is zero. -/
def rEmpty (a : RArgs) : Bool := a.gd.toNat = 0 && a.ga.toNat = 0 && a.gb.toNat = 0 && a.x.toNat = 0

/-- A THR instruction of class code 5. -/
def State.thrInsn (s : State) (t : Fin 8) (th : Thr) (fn : Nat) (a : RArgs) (body : State → Act) : State :=
  s.scalar t th (rWord clsThr fn a) body

/-- The instruction retires and the thread goes on to another state. -/
def State.retireTo (s : State) (t : Fin 8) (th : Thr) (f : State → State) : Act :=
  .done (f (s.retireAt t (thrIx th) ((s.thr t (thrIx th)).pc + 4)))

/-- THR.YIELD: the thread gives up its turn; which thread issues next is the sender's choice (DESIGN CHOICE, safe, log entry 13). -/
def execThrYield (t : Fin 8) (th : Thr) (a : RArgs) (s : State) : Out3 :=
  ok s (s.thrInsn t th 0 a (fun s => Act.ifLegal (rEmpty a) (.next s)))

/-- THR.END (R161). -/
def execThrEnd (t : Fin 8) (th : Thr) (a : RArgs) (s : State) : Out3 :=
  ok s (s.thrInsn t th 1 a (fun s => Act.ifLegal (rEmpty a && th = .main)
    (s.retireTo t th (fun s => s.endMain t none 0))))

/-- THR.HEND (R261). -/
def execThrHend (t : Fin 8) (th : Thr) (a : RArgs) (s : State) : Out3 :=
  ok s (s.thrInsn t th 2 a (fun s => Act.ifLegal (rEmpty a && th = .msg) (s.retireTo t th (fun s => s.endThread t 1))))

/-- THR.WEND (R280). -/
def execThrWend (t : Fin 8) (th : Thr) (a : RArgs) (s : State) : Out3 :=
  ok s (s.thrInsn t th 3 a (fun s => Act.ifLegal (rEmpty a && th = .walk) (s.retireTo t th (fun s => s.endWalk t))))

/-- THR.PARK: SVC waits for a trap; its held message is released (R263). -/
def execThrPark (t : Fin 8) (th : Thr) (a : RArgs) (s : State) : Out3 :=
  ok s (s.thrInsn t th 5 a (fun s => Act.ifLegal (rEmpty a && th = .svc)
    (s.retireTo t th (fun s => (s.unitEnded t 3).onTile t (fun x => x.setSt 3 .parked)))))

/-- THR.SVCALL: X is the call code. -/
def execThrSvcall (t : Fin 8) (th : Thr) (a : RArgs) (s : State) : Out3 :=
  ok s (s.thrInsn t th 6 a (fun _ => Act.ifLegal (a.gd.toNat = 0 && a.ga.toNat = 0 && a.gb.toNat = 0 && th ≠ .svc)
    (.trap cSvcall a.x.toNat)))

/-- THR.BREAK. -/
def execThrBreak (t : Fin 8) (th : Thr) (a : RArgs) (s : State) : Out3 :=
  ok s (s.thrInsn t th 7 a (fun _ => Act.ifLegal (rEmpty a) (.trap cBreak 0)))

/-! ### LODE.SENDR and LODE.SENDM -/

/-- The control word's bits outside its fields. -/
def ctlRsv (c : Nat) : Bool := bits c 9 7 ≠ 0 || bits c 26 5 ≠ 0 || bits c 48 16 ≠ 0

/-- A scalar send once its payload is read: REPLY, or a message on a channel; p[X[2:0]] says whether it was accepted (DEDUCED, unsafe, log entry 38). A
READY channel whose rank may not be reached gives ACCESS (R342). -/
def State.scalarSend (s : State) (t : Fin 8) (th : Thr) (a : RArgs) (payload : List Byte) : Act :=
  let h := thrIx th
  let c := (s.ga t th a.ga).toNat
  let handler := bits c 16 10
  let put (s : State) (b : Bool) : Act := .next (s.setP t h (a.x.toNat % 8) b)
  if bits c 31 1 = 1 then
    match (s.tile t).lep.held.find? h.val with
    | none => .trap cRank 0
    | some hd =>
      match (s.queue t hd.queue).slots.find? hd.slot with
      | none => .trap cRank 0
      | some sl =>
        let req := Hdr.of sl.hdr
        if !req.resp || hd.replied || sl.resp then .trap cRank 0
        else put (((s.respond t req handler payload false).count F.LEP_CNT_SENT_COUNT t.val 1).onLep t (fun l =>
          { l with held := l.held.put h.val { hd with replied := true } })) true
  else
    let ch := bits c 0 9
    if s.breaksRank t h.val (s.rd F.LEP_CHAN_CFG_RANK t.val ch) then .trap cRank 0
    else if s.rd F.LEP_CHAN_CRED_STATE t.val ch = 2 ∧ !s.chanReach t ch then .trap cAccess 0
    else match s.acceptChan t ch ⟨handler, true, 0, payload, false, none⟩ with
      | some s' => put s' true
      | none => put (s.count F.LEP_CNT_NOCREDIT_COUNT t.val 1) false

/-- LODE.SENDR (R246). -/
def execLodeSendr (t : Fin 8) (th : Thr) (a : RArgs) (s : State) : Out3 :=
  ok s (s.thrInsn t th 8 a (fun s =>
    Act.ifLegal (a.gd.toNat = 0 && a.x.toNat < 8 && a.gb.toNat ≤ 56 && !ctlRsv (s.ga t th a.ga).toNat)
      (s.scalarSend t th a ((List.range 8).flatMap (fun k => leBytes 8 (s.g t (thrIx th) (a.gb.toNat + k)).toNat)))))

/-- Read n bytes for a thread, a granule at a time, with the state its reads leave; reads of another rank are sent together and awaited. -/
def State.gatherVa (s : State) (t : Fin 8) (th : Thr) (va n : Nat) : Except Act (List Byte × State) :=
  let h := thrIx th
  let f := s.ownerOf t.val
  let chunk (r : Except Act (List Byte × State × List RemReq)) (i : Nat) : Except Act (List Byte × State × List RemReq) :=
    match r with
    | .error e => .error e
    | .ok (bs, u, rq) =>
      let a := (va + 32 * i) % 2 ^ 48
      let k := min 32 (n - 32 * i)
      match s.reachVa t h a 32 .read with
      | .stop e => .error e
      | .store off => .ok (bs ++ leBytes k ((s.tile t).loadLs off k), u, rq)
      | .phys pa =>
        let get : Except Act (List Byte × State × List RemReq) :=
          if s.atsNeeds f pa then .error (.wait (s.atsAsk f pa) .retry)
          else if s.ownHeld t th pa k then .error (.wait s .retry)
          else if s.poisonIn pa k then .error (.trap cMemPoison va)
          else .ok (bs ++ s.readBytes f pa k, (u.wakeFor (some t) pa).tookBytes pa k, rq)
        match s.region pa with
        | .fen d off =>
          if (s.thr t h).wait = .answered then get else .ok (bs, u, rq ++ [⟨s.whoAmI t th va, mopRd, off, k, d, [], false⟩])
        | _ => get
  match (List.range ((n + 31) / 32)).foldl chunk (.ok ([], s, [])) with
  | .error e => .error e
  | .ok (bs, u, rq) => if rq = [] then .ok (bs, u) else .error (.wait (rq.foldl (fun s r => s.request r) s) .remote)

/-- LODE.SENDM (R246): the payload is read before acceptance is tested. -/
def execLodeSendm (t : Fin 8) (th : Thr) (a : RArgs) (s : State) : Out3 :=
  ok s (s.thrInsn t th 9 a (fun s =>
    let c := (s.ga t th a.ga).toNat
    let n := bits c 32 16
    let va := (s.g t (thrIx th) a.gb.toNat).toNat % 2 ^ 48
    Act.ifLegal (a.gd.toNat = 0 && a.x.toNat < 8 && !ctlRsv c && n ≤ 4096 &&
        (bits c 31 1 = 1 || n ≤ s.rd F.LEP_CHAN_CFG_MAXLEN t.val (bits c 0 9)))
      (if n ≠ 0 ∧ va % 32 ≠ 0 then .trap cMisalign va
      else match s.gatherVa t th va n with
        | .error e => e
        | .ok (bs, u) => u.scalarSend t th a bs)))

/-! ### LODE.SELECT (R262, R263) -/

/-- The queues a SELECT names, in list order, a repeat left out. -/
def selList (a b : Nat) : List Nat :=
  ((List.range 8).map (fun i => bits a (8 * i) 8) ++ (List.range 8).map (fun i => bits b (8 * i) 8)).foldl
    (fun l q => if l.contains q then l else l ++ [q]) []

/-- The list positions of the queues, a repeat counting at its first position. -/
def selPos (a b q : Nat) : Nat :=
  (firstIdx (fun x => decide (x = q))
    ((List.range 8).map (fun i => bits a (8 * i) 8) ++ (List.range 8).map (fun i => bits b (8 * i) 8)) 0).getD 0

/-- A queue holds a message for SELECT, and no thread that began to wait for the queue earlier has a claim on it. -/
def State.selectable (s : State) (t : Fin 8) (h q : Nat) : Bool :=
  (s.qState t q = 1 || s.qState t q = 2) && s.flag F.LEP_Q_CFG_MODE t.val q && (s.queue t q).fifo ≠ [] &&
    ((s.tile t).lep.selWait.takeWhile (fun w => decide (w.1 ≠ h))).all (fun w => !w.2.contains q)

/-- The queue a SELECT picks: the first in priority, or the first after the position selected last (stored plus one). -/
def State.selPick (s : State) (t : Fin 8) (h a b : Nat) (rot : Bool) : Option Nat :=
  let c := (selList a b).filter (fun q => s.selectable t h q)
  let last := (s.tile t).lep.selLast.getD h 0
  if rot then
    match c.find? (fun q => decide (last ≤ selPos a b q)) with
    | some q => some q
    | none => c.head?
  else c.head?

/-- Take the head message of a queue for a thread. -/
def State.selTake (s : State) (t : Fin 8) (h q pos : Nat) : Option (State × Nat) :=
  match (s.queue t q).fifo with
  | [] => none
  | slot :: rest =>
    some ((s.onQueue t q (fun x => { x with
        fifo := rest
        slots := match x.slots.find? slot with
          | some sl => x.slots.put slot { sl with st := .held }
          | none => x.slots })).onLep t (fun l => { l with
        held := l.held.put h ⟨q, slot, false⟩
        selLast := l.selLast.put h (pos + 1)
        selWait := l.selWait.filter (fun w => decide (w.1 ≠ h)) }), slot)

/-- A thread waits in LODE.SELECT; one already waiting keeps its place. -/
def Lep.selBlock (l : Lep) (h : Nat) (qs : List Nat) : Lep :=
  { l with selWait :=
      if l.selWait.any (fun w => decide (w.1 = h)) then l.selWait.map (fun w => if w.1 = h then (h, qs) else w)
      else l.selWait ++ [(h, qs)] }

/-- LODE.SELECT. -/
def execLodeSelect (t : Fin 8) (th : Thr) (a : RArgs) (s : State) : Out3 :=
  ok s (s.thrInsn t th 10 a (fun s =>
    let h := thrIx th
    let ga := (s.ga t th a.ga).toNat
    let gb := (s.g t h a.gb.toNat).toNat
    let x := a.x.toNat
    Act.ifLegal (th ≠ .msg && x < 8)
      (let s1 := s.releaseHeld t h.val
       let put (s : State) (v : Nat) : Act := .next (s.setG t h a.gd.toNat (BitVec.ofNat 64 v))
       if bits x 2 1 = 1 then put s1 0xFFFF
       else match s1.selPick t h.val ga gb (bits x 0 1 = 1) with
        | some q => match s1.selTake t h.val q (selPos ga gb q) with
          | some (s2, slot) => put s2 (s.slotVa t q slot * 65536 + q)
          | none => put s1 0xFFFF
        | none =>
          if bits x 1 1 = 1 then put s1 0xFFFF
          else .wait (s1.onLep t (fun l => l.selBlock h.val (selList ga gb))) .retry)))

end Sys2Proof.Machine
end

