-- ==== Sys2Proof/Machine/Plan.lean ====
section
/-! DEFINITION. What every Psirra-T operation shares: its words, the legality checks of R168 and R171, reading its tensors and
writing its destinations. -/
namespace Sys2Proof.Machine

/-! ### Words (Tables 7-5 and 7-7) -/

/-- The four words of a Psirra-T instruction. -/
def tWord (op : TOp) (a : TArgs) : Nat :=
  7 + op.cls * 2 ^ 3 + op.num * 2 ^ 6 + a.pg.toNat * 2 ^ 11 + a.d0.toNat * 2 ^ 15 + a.d1.toNat * 2 ^ 21 + a.d2.toNat * 2 ^ 27 +
    a.d3.toNat * 2 ^ 33 + a.rc.toNat * 2 ^ 39 + a.seed.toNat * 2 ^ 42 + a.wtok.toNat * 2 ^ 58 + a.stok.toNat * 2 ^ 63 +
    a.ga.toNat * 2 ^ 68 + a.gb.toNat * 2 ^ 74 + a.xf.toNat * 2 ^ 80

/-- The operand fields of an instruction's words. -/
def tArgs (w : Nat) : TArgs :=
  ⟨BitVec.ofNat 4 (bits w 11 4), BitVec.ofNat 6 (bits w 15 6), BitVec.ofNat 6 (bits w 21 6), BitVec.ofNat 6 (bits w 27 6),
    BitVec.ofNat 6 (bits w 33 6), BitVec.ofNat 3 (bits w 39 3), BitVec.ofNat 16 (bits w 42 16), BitVec.ofNat 5 (bits w 58 5),
    BitVec.ofNat 5 (bits w 63 5), BitVec.ofNat 6 (bits w 68 6), BitVec.ofNat 6 (bits w 74 6), BitVec.ofNat 48 (bits w 80 48)⟩

/-- An XF field, its low bit numbered as Table 7-7 numbers it. -/
def xfOf (a : TArgs) (lo w : Nat) : Nat := bits a.xf.toNat (lo - 80) w

/-- An XF field of an issued operation. -/
def OpRec.xfb (r : OpRec) (lo w : Nat) : Nat := bits r.insn lo w

/-- A descriptor operand is null. -/
def isNull (d : BitVec 6) : Bool := d.toNat = 0x20

/-- Operand k of an issued operation, when it is not null. -/
def OpRec.desc (r : OpRec) (k : Nat) : Option TDesc := (insnD r.insn k).map (fun _ => TDesc.of (r.d.getD k 0))

/-- Operand k taken as a descriptor. -/
def OpRec.td (r : OpRec) (k : Nat) : TDesc := TDesc.of (r.d.getD k 0)

/-! ### Legality (R171, R496) -/

/-- How an operation uses a descriptor operand: not at all, always, or it may be null. -/
inductive DUse where
  | no | yes | opt
  deriving DecidableEq, Repr

/-- A descriptor operand field agrees with its use, and holds no reserved code. -/
def DUse.ok (u : DUse) (d : BitVec 6) : Bool :=
  match u with
  | .no => isNull d
  | .yes => d.toNat < 32
  | .opt => d.toNat ≤ 32

/-- The fields an operation uses: descriptor operands, XF bits as a mask of [127:80], rounding, scalar registers, tokens. -/
structure TUse where
  d0 : DUse
  d1 : DUse
  d2 : DUse
  d3 : DUse
  xf : Nat
  rnd : Bool
  ga : Bool
  gb : Bool
  tok : Bool
  deriving DecidableEq, Repr

/-- R171 for the fields every operation shares. -/
def TUse.legal (u : TUse) (a : TArgs) : Bool :=
  u.d0.ok a.d0 && u.d1.ok a.d1 && u.d2.ok a.d2 && u.d3.ok a.d3 &&
    decide (a.xf.toNat &&& u.xf = a.xf.toNat) &&
    (if u.rnd then a.rc.toNat % 4 ≠ 3 else a.rc.toNat = 0 && a.seed.toNat = 0) &&
    (u.ga || a.ga.toNat = 0) && (u.gb || a.gb.toNat = 0) && (u.tok || (a.wtok.toNat = 0 && a.stok.toNat = 0))

/-! ### Issue plans -/

/-- What issue finds out about an operation: its intervals and its progress total. -/
structure Plan where
  reads : List Ivl
  writes : List Ivl
  total : Nat
  deriving DecidableEq, Repr

/-- What an issuing instruction offers its checks: the fields, the captured descriptors and the scalar operands. -/
structure TIn where
  a : TArgs
  d : List DReg
  ga : Word
  gb : Word
  deriving DecidableEq, Repr

/-- Operand k as a descriptor. -/
def TIn.td (i : TIn) (k : Nat) : TDesc := TDesc.of (i.d.getD k 0)

/-- Operand k when it is not null. -/
def TIn.opt (i : TIn) (k : Nat) : Option TDesc :=
  let f := match k with | 0 => i.a.d0 | 1 => i.a.d1 | 2 => i.a.d2 | _ => i.a.d3
  if isNull f then none else some (i.td k)

/-- A plan, or the cause of the first condition that fails. -/
def planIf (l : List (Bool × Nat)) (p : Plan) : Except Nat Plan :=
  match l.find? (fun c => !c.1) with
  | some c => .error c.2
  | none => .ok p

/-- The intervals of operands that are not null. -/
def footprints (l : List (Option TDesc)) : List Ivl := l.flatMap (fun o => match o with | some d => d.footprint | none => [])

/-! ### Reading and writing for an issued operation -/

/-- What an operation's rounding is: RC, SEED and the lanes of its unit (R53, R56). -/
def OpRec.rnd (r : OpRec) (lanes : Nat) : Rnd :=
  ⟨(RMode.ofRc (bits r.insn 39 2)).getD .rne, bits r.insn 41 1 = 1, bits r.insn 42 16, lanes, false⟩

/-- A conversion's rounding: an L32 source bound for L16 is narrowed by truncation (R30, R31) where the operation asks for it
under RTZ-log (Table 2-5 names no selector; DESIGN CHOICE, safe, log entry 14). -/
def OpRec.cvtRnd (r : OpRec) (lanes : Nat) : Rnd :=
  { r.rnd lanes with
    trunc := (r.td 0).fmt = .l16 && (r.td 1).fmt = .l32 && (r.rnd lanes).mode = .rtz && Config.narrowTrunc (r.op = .vsCvt) }

/-- A fault of an operation with the operand it concerns. -/
structure OpFault where
  k : Nat
  wr : Bool
  f : VFault
  deriving DecidableEq, Repr

/-- The first byte of the lowest poisoned granule that a tensor covers, when it is below a bound (R215). -/
def State.lowPoison (s : State) (t : Fin 8) (d : TDesc) (b : Nat) : Nat :=
  ((List.range d.count).flatMap d.cells).foldl (fun b c =>
    match s.translate t .read c.1 with
    | .ok pa => if s.poisonIn pa c.2 ∧ c.1 / 32 * 32 < b then c.1 / 32 * 32 else b
    | .error _ => b) b

/-- Read operand k of an operation; the first fault decides, and poison names the lowest granule. -/
def State.readOp (s : State) (t : Fin 8) (r : OpRec) (k : Nat) : Except OpFault (List Val) :=
  match s.readVals t (r.td k) with
  | .ok v => .ok v
  | .error f =>
    if f.f = .poison then .error ⟨k, false, ⟨.poison, s.lowPoison t (r.td k) (f.va / 32 * 32)⟩⟩ else .error ⟨k, false, f⟩

/-- Read the stored codes of operand k. -/
def State.codesOp (s : State) (t : Fin 8) (r : OpRec) (k : Nat) : Except OpFault (List (Nat × Nat)) :=
  match s.readCodes t (r.td k) with
  | .ok v => .ok v
  | .error f =>
    if f.f = .poison then .error ⟨k, false, ⟨.poison, s.lowPoison t (r.td k) (f.va / 32 * 32)⟩⟩ else .error ⟨k, false, f⟩

/-- The operands an operation's unit reads as tensors. -/
def OpRec.srcs (r : OpRec) : List Nat :=
  let opt (k : Nat) : List Nat := if (r.desc k).isSome then [k] else []
  match r.op with
  | .mmPass => if r.xfb 84 1 = 1 then [1] else [1, 2]
  | .mmPreload | .mvCopy | .mvTrans | .kvAppend | .ldSend | .ldMcast | .ldTreduce => [1]
  | .vsAdd | .vsSub | .vsMul | .vsDiv | .vsMax | .vsMin | .vsCmp | .mvGather => [1, 2]
  | .vsSel => [1, 2, 3]
  | .vsNeg | .vsAbs | .vsHalve | .vsDouble | .vsScale | .vsCvt | .vsRsum => [1]
  | .sfEval | .sfRnorm => 1 :: opt 2
  | .sfSmax => if r.xfb 80 2 = 2 then [1, 3] else [1]
  | .kvAttn => if r.xfb 80 2 = 2 then [1, 3] else [1]
  | .mmDrain | .vsStatpick | .sfLoad | .sfPload | .mvFill | .kvSeqset | .kvGather | .kvFork | .kvRelease | .ldRecv | .syNop | .syFence | .syWake
  | .ctSync | .ctWaittag | .ctTag => []

/-- The lowest poisoned granule that an operation's sources cover, below a bound (R215). -/
def State.srcPoison (s : State) (t : Fin 8) (r : OpRec) (b : Nat) : Nat := r.srcs.foldl (fun b k => s.lowPoison t (r.td k) b) b

/-- Pieces of memory read at tile virtual addresses, as the stacks count them (Table 9-9). -/
def State.tookVas (s : State) (t : Fin 8) (l : List (Nat × Nat)) : State :=
  l.foldl (fun a c => match s.translate t .read c.1 with
    | .ok pa => a.tookBytes pa c.2
    | .error _ => a) s

/-- The byte ranges of every element of a tensor. -/
def TDesc.allCells (d : TDesc) : List (Nat × Nat) := (List.range d.count).flatMap d.cells

/-- The bytes an operation reads of its sources, as the stacks count them (Table 9-9). -/
def State.tookSrcs (s : State) (t : Fin 8) (r : OpRec) : State := r.srcs.foldl (fun a k => a.tookVas t (r.td k).allCells) s

/-! ### Memory of other ranks -/

/-- The pieces of n bytes from an address, none across a block of a size. -/
def piecesOf (z a n : Nat) : List (Nat × Nat) :=
  (List.range ((a % z + n + z - 1) / z)).map (fun i =>
    let lo := max a (a / z * z + z * i)
    (lo, min (a + n) (a / z * z + z * i + z) - lo))

/-- The pieces of n bytes from an address by granule. -/
def granules (a n : Nat) : List (Nat × Nat) := piecesOf 32 a n

/-- Pieces of virtual ranges that lie in another rank's memory. -/
def State.farPieces (s : State) (t : Fin 8) (l : List (Nat × Nat)) : List (Nat × Nat × Nat) :=
  (l.flatMap (fun p => piecesOf 256 p.1 p.2)).filterMap (fun c => match s.translate t .read c.1 with
    | .ok pa => match s.region pa with
      | .fen d off => some (d, off, c.2)
      | _ => none
    | .error _ => none)

/-- Read requests to other ranks for an operation (R344). -/
def State.askFar (s : State) (t : Fin 8) (seq : Nat) (l : List (Nat × Nat × Nat)) : State :=
  l.foldl (fun s p => s.request ⟨.op t.val seq, mopRd, p.2.1, p.2.2, p.1, [], false⟩) s

/-- The physical address of a page of tile virtual addresses, whatever its permissions. -/
def State.pagePa (s : State) (t : Fin 8) (va : Nat) : Option Nat :=
  if s.rd F.TMU_CTL_EN t.val = 0 then some va
  else match s.pageOf t va with
    | .ok l => some (l.pa + va % 2 ^ l.lg)
    | .error _ => none

/-- The tile virtual pages of intervals, by their first byte covered. -/
def ivlPages (l : List Ivl) : List Nat := l.flatMap (fun v => (piecesOf 4096 v.lo (v.hi + 1 - v.lo)).map (·.1))

/-- The pages of the host window an operation's footprint reaches, for ATS (R381): none while its function's ATS is off. -/
def State.opHost (s : State) (t : Fin 8) (r : OpRec) : List Nat :=
  if !(s.fn (s.ownerOf t.val)).ats then []
  else (ivlPages (r.reads ++ r.writes)).filterMap (fun a => if lsBase ≤ a then none else match s.pagePa t a with
    | some pa => match s.region pa with | .host _ => some pa | _ => none
    | none => none)

/-- Reads of an operation from other ranks, or host translations that it needs, are outstanding. -/
def State.opReadsOut (s : State) (t : Fin 8) (seq : Nat) : Bool :=
  let mine (r : RemReq) : Bool := r.who = .op t.val seq && r.mop = mopRd
  s.rem.any (fun e => mine e.2) || s.remWait.any mine ||
    (s.tile t).ops.any (fun p => decide (p.2.seq = seq) && (s.opHost t p.2).any (fun a => s.atsWaits (s.ownerOf t.val) a))

/-- A packet of a memory request still in a port's queue names this tag. -/
def State.tagQueued (s : State) (tag : Nat) : Bool :=
  s.ports.any (fun p => p.2.queue.any (fun k => match k.pkt with
    | .mem h _ _ => h.tag = tag && h.mop < 8
    | _ => false))

/-- Writes of an operation are not acknowledged (R195): held by a checkpoint, waiting for a tag, or to another rank and not yet
wholly accepted by a port. -/
def State.opOwes (s : State) (t : Fin 8) (seq : Nat) : Bool :=
  let w : Who := .op t.val seq
  s.remWait.any (fun r => r.who = w) || (match s.ck with | some j => j.held.any (fun h => h.who = w) | none => false) ||
    s.rem.any (fun e => e.2.who = w && s.tagQueued e.1)

/-! ### Ends -/

/-- The end of an operation's effects, with the acknowledgements still due (R187, R195). -/
def State.opOver (s : State) (t : Fin 8) (tag acks : Nat) : State :=
  s.onTile t (fun x => { x with ops := match x.ops.find? tag with
    | some r => x.ops.put tag { r with st := .ack, pos := r.total, acks := acks }
    | none => x.ops })

/-- The end of an operation's effects: its last write waits for one acknowledgement. -/
def State.opDone (s : State) (t : Fin 8) (tag : Nat) : State := s.opOver t tag 1

/-- The end of an operation whose statistics updates may have met a poisoned granule of the table: the MEM_POISON trap names it (R215, R306;
DEDUCED, unsafe, log entry 11). -/
def State.opDoneOr (s : State) (t : Fin 8) (tag desc : Nat) (bad : Option Nat) : State :=
  match bad with
  | none => s.opDone t tag
  | some g => s.raiseOp t tag cMemPoison (g % 2 ^ 48) desc true

/-- An operation whose access faulted: what it may have written of its destinations is undefined (R178). -/
def State.opFaulted (s : State) (t : Fin 8) (tag : Nat) (ds : List TDesc) (e : OpFault) : State :=
  let f : VFault := match (s.tile t).ops.find? tag with
    | some r => if e.f.f = .poison ∧ r.srcs.contains e.k then ⟨.poison, s.srcPoison t r e.f.va⟩ else e.f
    | none => e.f
  (ds.foldl (fun s d => s.scrambleDst t d) s).opFault t tag e.k e.wr f

/-- A destination to be written: its operand, its descriptor, the values and their rounding. -/
structure DstWr where
  k : Nat
  vs : List Val
  r : Rnd

/-- Whether a destination's bytes can be written. -/
def State.dstOk (s : State) (t : Fin 8) (r : OpRec) (k : Nat) : Except OpFault Unit :=
  match s.writable t (r.td k) with
    | .ok _ => .ok ()
    | .error f => .error ⟨k, true, f⟩

/-- Round values into a destination, store them, and record counts, statistics and NaNs (R44, R74, R304). -/
def State.writeDst (s : State) (t : Fin 8) (r : OpRec) (unit : Nat) (w : DstWr) : State :=
  let d := r.td w.k
  let e := d.encode w.r w.vs
  let s := s.storeCodes t d e.codes
  let s := (s.addCounts t d e.counts).addStats t d w.vs
  s.recordNans t ⟨unit, r.tag, r.iaddr, descIx r.insn w.k, r.seq⟩ d e.nans

/-- Count the results the SFU writes (Table 6-13). -/
def State.sfResults (s : State) (t : Fin 8) (unit n : Nat) : State :=
  if unit = unitSfu then s.count F.SFU_CNT_RESULT_COUNT t.val n else s

/-- Write an operation's destinations and end its effects, or fault before any of them counts. -/
def State.finishOp (s : State) (t : Fin 8) (tag : Nat) (r : OpRec) (unit : Nat) (ws : List DstWr) : State :=
  match ws.foldl (fun e w => match e with
      | .error f => .error f
      | .ok _ => s.dstOk t r w.k) (.ok () : Except OpFault Unit) with
  | .error f => s.opFaulted t tag (ws.map (fun w => r.td w.k)) f
  | .ok _ =>
    let bad := ws.findSome? (fun w => (s.statPoison t (r.td w.k) ((r.td w.k).encode w.r w.vs).counts w.vs).map (fun g => (w.k, g)))
    ((ws.foldl (fun s w => s.writeDst t r unit w) s).sfResults t unit (r.td 0).count).opDoneOr t tag
      (descIx r.insn ((bad.map (·.1)).getD 0)) (bad.map (·.2))

end Sys2Proof.Machine
end

