-- ==== Sys2Proof/Machine/Vsu.lean ====
section
/-! DEFINITION. The VSU (VS class): issue checks and effects of every VS operation (R173, R304 to R311). -/
namespace Sys2Proof.Machine

/-! ### Issue checks -/

/-- Two descriptors name one tensor: equal BASE, SBASE, shape and strides (R310). -/
def TDesc.sameTensor (a b : TDesc) : Bool :=
  a.base = b.base && a.sbase = b.sbase && a.sameShape b && a.ndim = b.ndim && a.stride1 = b.stride1 && a.s2 = b.s2 && a.s3 = b.s3

/-- L16 or L32. -/
def Fmt.plain : Fmt → Bool
  | .l16 | .l32 => true | _ => false

/-- L32S with TSO 0. -/
def TDesc.master (d : TDesc) : Bool := d.fmt = .l32s && d.tso = 0

/-- The update form of R310. -/
def updateForm (d0 d1 d2 : TDesc) : Bool := d0.master && d1.master && d0.sameTensor d1 && d2.fmt.plain

/-- Formats VS.CVT accepts: log and IEEE, and the L32S forms of R310; IEEE to IEEE is two conversions in one (DEDUCED, unsafe, log entry
45). -/
def cvtForm (d0 d1 : TDesc) : Bool :=
  if d0.fmt = .l32s then d0.master && d1.fmt.plain
  else if d1.fmt = .l32s then d1.master && d0.fmt.plain
  else true

/-- Every defined format. -/
def anyFmt (_ : Fmt) : Bool := true

/-- The number of sources of a VS operation. -/
def TOp.vsSources : TOp → Nat
  | .vsAdd | .vsSub | .vsMul | .vsDiv | .vsMax | .vsMin | .vsCmp => 2
  | .vsSel => 3
  | _ => 1

/-- Fields of the VS operations (Table 7-8). -/
def TOp.vsUse (op : TOp) : TUse :=
  let n := op.vsSources
  { d0 := .yes, d1 := .yes, d2 := if 2 ≤ n then .yes else .no, d3 := if 3 ≤ n then .yes else .no
    xf := match op with | .vsScale => 0xFFFF | .vsCmp => 7 | .vsRsum => 1 | _ => 0
    rnd := true, ga := false, gb := false, tok := true }

/-- The formats of a VS operation's descriptors are accepted (R47, R310). -/
def vsFormats (op : TOp) (d0 : TDesc) (src : List TDesc) : Bool :=
  match op with
  | .vsCvt => (src.head?.map (cvtForm d0)).getD false
  | .vsAdd | .vsSub | .vsMul | .vsDiv =>
    (d0.fmt.log && src.all (fun d => d.fmt.log)) || updateForm d0 (src.getD 0 d0) (src.getD 1 d0)
  | _ => d0.fmt.log && src.all (fun d => d.fmt.log)

/-- The shapes agree (R173). -/
def vsShapes (op : TOp) (d0 : TDesc) (src : List TDesc) : Bool :=
  if op = .vsRsum then d0.n0 = 1 && src.all (fun d => [1, 2, 3].all (fun k => d.dim k = d0.dim k || d.dim k = 1))
  else src.all (fun d => d.broadcasts d0)

/-- Issue checks of a VS operation but VS.STATPICK. -/
def vsPlan (op : TOp) (i : TIn) : Except Nat Plan :=
  let d0 := i.td 0
  let src := (List.range op.vsSources).map (fun k => i.td (k + 1))
  planIf
    [(op.vsUse.legal i.a && (op ≠ .vsCmp || xfOf i.a 80 3 ≠ 7), cIllegalInsn),
     (d0.legalDst anyFmt && src.all (fun d => d.legal anyFmt) && vsFormats op d0 src && vsShapes op d0 src, cIllegalDesc)]
    ⟨footprints (src.map some), d0.footprint, if op = .vsRsum then (i.td 1).count else d0.count⟩

/-- Issue checks of VS.STATPICK (R308). -/
def statpickPlan (i : TIn) : Except Nat Plan :=
  let d0 := i.td 0
  planIf
    [((⟨.yes, .no, .no, .no, 0, false, true, false, true⟩ : TUse).legal i.a && i.ga.toNat < 8192, cIllegalInsn),
     (d0.legalDst (fun f => f = .l32) && d0.tso = 0 && d0.count = 1, cIllegalDesc)]
    ⟨[], d0.footprint, 1⟩

/-! ### Effects -/

/-- One element of an elementwise VS operation (Table 7-8). -/
def vsElem (r : OpRec) (wide : Bool) (a b c : Val) : Val :=
  match r.op with
  | .vsAdd => vAdd wide a b
  | .vsSub => vAdd wide a (vNeg b)
  | .vsMul => vMul a b
  | .vsDiv => vDiv a b
  | .vsMax => vMax a b
  | .vsMin => vMin a b
  | .vsNeg => vNeg a
  | .vsAbs => vAbs a
  | .vsHalve => vHalve a
  | .vsDouble => vDouble a
  | .vsScale => vScale (sext 16 (r.xfb 80 16)) a
  | .vsCmp => if condHolds (r.xfb 80 3) a b then .one else .zero
  | .vsSel => if c.isNan then .nan false else if c = .zero then b else a
  | _ => a

/-- The destination's values from the sources' values. -/
def vsValues (r : OpRec) (srcs : List (TDesc × List Val)) : List Val :=
  let d0 := r.td 0
  let wide := srcs.any (fun p => p.1.fmt = .l32 || p.1.fmt = .l32s)
  let get (k i : Nat) : Val :=
    match srcs[k]? with
    | some p => valAt p.2 (p.1.bcast d0 i)
    | none => .zero
  (List.range d0.count).map (fun i => vsElem r wide (get 0 i) (get 1 i) (get 2 i))

/-- The row sums of a source (R70, R112). -/
def rsumValues (r : OpRec) (d : TDesc) (vs : List Val) : List Val :=
  let d0 := r.td 0
  let sq := r.xfb 80 1 = 1
  (List.range d0.count).map (fun i =>
    let row (c : Nat) : Val :=
      let lin := d.index c (if d.n1 = 1 then 0 else d0.coord i 1) (if d.n2 = 1 then 0 else d0.coord i 2)
        (if d.n3 = 1 then 0 else d0.coord i 3)
      if sq then vDouble (valAt vs lin) else valAt vs lin
    (rowSum ((List.range d.n0).map (fun c => (row c).lin (d.fmt = .l32)))).toVal)

/-- Read one source; VS.CVT takes each element as a conversion does. -/
def State.readSrc (s : State) (t : Fin 8) (r : OpRec) (k : Nat) : Except OpFault (List Val) :=
  if r.op = .vsCvt then
    match s.codesOp t r k with
    | .ok cs => .ok (cs.map (cvtVal (r.td 0).fmt (r.td k).fmt (r.td k).tso))
    | .error e => .error e
  else s.readOp t r k

/-- Read the first n sources. -/
def State.readSrcs (s : State) (t : Fin 8) (r : OpRec) (n : Nat) : Except OpFault (List (TDesc × List Val)) :=
  (List.range n).mapM (fun k =>
    match s.readSrc t r (k + 1) with
    | .ok v => .ok (r.td (k + 1), v)
    | .error e => .error e)

/-- Run a VS operation but VS.STATPICK. -/
def State.runVs (s : State) (t : Fin 8) (tag : Nat) (r : OpRec) : State :=
  match s.readSrcs t r r.op.vsSources with
  | .error e => s.opFaulted t tag [r.td 0] e
  | .ok srcs =>
    let vs := match r.op, srcs with
      | .vsRsum, p :: _ => rsumValues r p.1 p.2
      | _, _ => vsValues r srcs
    s.finishOp t tag r unitVsu [⟨0, vs, if r.op = .vsCvt then r.cvtRnd 256 else r.rnd 256⟩]

/-! ### VS.STATPICK (R304, R308, R309) -/

/-- Another VS.STATPICK with COMMIT = 1 on the entry is unretired (R309). -/
def State.statRace (s : State) (t : Fin 8) (tag pa : Nat) : Bool :=
  allTiles.any (fun u => (s.tile u).ops.any (fun p =>
    !(decide (u = t) && decide (p.1 = tag)) && p.2.op = .vsStatpick && bits p.2.ga.toNat 12 1 = 1 &&
      s.statEntry u (bits p.2.ga.toNat 0 12) = pa))

/-- The lowest poisoned granule of a table entry (R215). -/
def State.entryPoison (s : State) (pa : Nat) : Option Nat := ([0, 32, 64, 96] : List Nat).findSome? (fun o => if s.isPoison (pa + o) then some (pa + o) else none)

/-- Commit the interval to the ring (R308); nothing else reaches the entry within the step, so the exchange is one atomic one. -/
def State.statCommit (s : State) (f pa : Nat) : State :=
  let w0 := s.readNat f pa 8
  let w1 := s.readNat f (pa + 8) 8
  let head := bits w0 48 4
  let s := s.writeNat f (pa + 8) 8 (w1 / 2 ^ 33 * 2 ^ 33)
  let s := s.writeNat f (pa + 64 + 4 * head) 4 (if bits w1 32 1 = 1 then bits w1 0 32 else 0x80000000)
  s.writeNat f pa 8 (w0 % 2 ^ 48 + (head + 1) % 16 * 2 ^ 48 + min (bits w0 52 5 + 1) 16 * 2 ^ 52 + bits w0 57 7 * 2 ^ 57)

/-- The ring, HEAD and NVALID take free values (R309; DESIGN CHOICE, safe, log entry 5). -/
def State.statScramble (s : State) (f pa : Nat) : State :=
  let w0 := s.readNat f pa 8
  let s' := s.writeNat f pa 8 (w0 % 2 ^ 48 + s.free 0 % 512 * 2 ^ 48 + bits w0 57 7 * 2 ^ 57)
  ((List.range 16).foldl (fun s' i => s'.writeNat f (pa + 64 + 4 * i) 4 (s.free (i + 1) % 2 ^ 32)) s').drawn

/-- The TSO an entry's ring gives (R308). -/
def State.statTso (s : State) (f pa : Nat) : Int :=
  let w0 := s.readNat f pa 8
  let head := bits w0 48 4
  let ring := (List.range (bits w0 52 5)).map (fun k => s.readNat f (pa + 64 + 4 * ((head + 31 - k) % 16)) 4)
  match ring.filter (fun x => decide (x ≠ 0x80000000)) with
  | [] => sext 16 (bits w0 32 16)
  | l => min (max (maxInt (l.map (sext 32)) + (bits w0 0 16 : Nat) - sext 16 (bits w0 16 16)) (-32768)) 32767

/-- VS.STATPICK's exchange waits while a checkpoint holds writes to the entry's block (R308, R319). -/
def State.statHeld (s : State) (t : Fin 8) (r : OpRec) : Bool :=
  r.op = .vsStatpick && s.flag F.VSU_SSTAT_BASE_EN t.val && s.gate (s.statEntry t (bits r.ga.toNat 0 12)) = .hold

/-- Run VS.STATPICK. -/
def State.runStatpick (s : State) (t : Fin 8) (tag : Nat) (r : OpRec) : State :=
  let f := s.ownerOf t.val
  let n := bits r.ga.toNat 0 12
  let pa := s.statEntry t n
  if !s.flag F.VSU_SSTAT_BASE_EN t.val || s.statBad t n then
    s.raiseOp t tag cAccess (pa % 2 ^ 48) (descIx r.insn 0) true
  else match s.entryPoison pa, s.dstOk t r 0 with
    | some g, _ => s.raiseOp t tag cMemPoison (g % 2 ^ 48) (descIx r.insn 0) true
    | _, .error e => s.opFaulted t tag [r.td 0] e
    | _, .ok _ =>
      let s1 := if bits r.ga.toNat 12 1 = 1 then
          (if s.statRace t tag pa then (s.statCommit f pa).statScramble f pa else s.statCommit f pa) else s
      let tso := s1.statTso f pa
      let w0 := s1.readNat f pa 8
      let s2 := s1.writeNat f pa 8 (w0 % 2 ^ 32 + (tso % 65536).toNat * 2 ^ 32 + w0 / 2 ^ 48 * 2 ^ 48)
      (s2.storeVa t ((r.td 0).eaddr 0) 4 (low32 tso)).opDone t tag

end Sys2Proof.Machine
end

