-- ==== Sys2Proof/Machine/Sfu.lean ====
section
/-! DEFINITION. The SFU (SF class): issue checks, slots and programs, and effects of every SF operation (chapter 6). -/
namespace Sys2Proof.Machine

/-! ### Issue checks -/

/-- FN names a micro-program. -/
def fnIsProg (fn : Nat) : Bool := 0x40 ≤ fn && fn < 0x80

/-- FN names an SFU_COMPAT function. -/
def fnIsCompat (fn : Nat) : Bool := 0x88 ≤ fn && fn < 0x90

/-- FN codes of Table 6-2. -/
def fnOk (fn : Nat) : Bool := fn < 8 || (0x40 ≤ fn && fn < 0x90)

/-- Issue checks of SF.EVAL (R128, R129, R145). -/
def sfEvalPlan (i : TIn) : Except Nat Plan :=
  let fn := xfOf i.a 80 8
  let d0 := i.td 0
  let d1 := i.td 1
  let d2 := i.opt 2
  let compat (d : TDesc) : Bool := !fnIsCompat fn || (d.fmt = .l16 && d.tso = 0)
  planIf
    [((⟨.yes, .yes, if fnIsProg fn then .opt else .no, .no, 0xFF, true, false, false, true⟩ : TUse).legal i.a && fnOk fn,
        cIllegalInsn),
     (d0.legalDst Fmt.log && d1.legal Fmt.log && d0.sameShape d1 && compat d0 && compat d1 &&
        (d2.map (fun d => d.legal Fmt.log && d.sameShape d0)).getD true, cIllegalDesc)]
    ⟨footprints [some d1, d2], d0.footprint, d0.count⟩

/-- Issue checks of SF.LOAD and SF.PLOAD: only BASE is used, for n bytes. -/
def sfLoadPlan (i : TIn) (mask n : Nat) : Except Nat Plan :=
  let b := (i.td 1).base
  planIf
    [((⟨.no, .yes, .no, .no, mask, false, false, false, true⟩ : TUse).legal i.a, cIllegalInsn),
     (b + n ≤ lsBase, cIllegalDesc)]
    ⟨[⟨b, b + n - 1⟩], [], n⟩

/-- A per-row statistics tensor for a source: M × 1 in L32 (R146, R148). -/
def statShape (d src : TDesc) : Bool := d.n0 = 1 && d.rows = src.rows

/-- Issue checks of SF.RNORM (R146). -/
def sfRnormPlan (i : TIn) : Except Nat Plan :=
  let d0 := i.td 0
  let d1 := i.td 1
  let g := i.opt 2
  let st := i.opt 3
  planIf
    [((⟨.yes, .yes, .opt, .opt, 0xFFFF, true, false, false, true⟩ : TUse).legal i.a, cIllegalInsn),
     (d0.legalDst Fmt.log && d1.legal Fmt.log && d0.sameShape d1 && d1.rows ≤ 1024 &&
        (g.map (fun d => d.legal (fun f => f = .l16) && d.n0 = d1.n0 && d.rows = 1)).getD true &&
        (st.map (fun d => d.legalDst (fun f => f = .l32) && statShape d d1)).getD true, cIllegalDesc)]
    ⟨footprints [some d1, g], d0.footprint ++ footprints [st], 2 * d0.count⟩

/-- Issue checks of SF.SMAX (R148, R152). -/
def sfSmaxPlan (i : TIn) : Except Nat Plan :=
  let m := xfOf i.a 80 2
  let d0 := i.td 0
  let d1 := i.td 1
  let st := i.opt 3
  planIf
    [((⟨.yes, .yes, .no, if m = 2 then .yes else .opt, 3, true, false, false, true⟩ : TUse).legal i.a && m ≠ 3, cIllegalInsn),
     (d0.legalDst Fmt.log && d1.legal (fun f => f.scaled || f = .l16) && d0.sameShape d1 && d1.rows ≤ 1024 &&
        (st.map (fun d => (if m = 2 then d.legal (fun f => f = .l32) else d.legalDst (fun f => f = .l32)) &&
          statShape d d1)).getD true, cIllegalDesc)]
    (if m = 2 then ⟨footprints [some d1, st], d0.footprint, d0.count⟩
     else ⟨d1.footprint, d0.footprint ++ footprints [st], 2 * d0.count⟩)

/-! ### Slots and programs (R134 to R137, R141) -/

/-- Read a range of tile virtual addresses, a granule at a time. -/
def State.readRange (s : State) (t : Fin 8) (va n : Nat) : Except VFault (List Byte) :=
  (List.range ((va % 32 + n + 31) / 32)).foldl (fun r i =>
    match r with
    | .error e => .error e
    | .ok bs =>
      let lo := max va (va / 32 * 32 + 32 * i)
      let hi := min (va + n) (va / 32 * 32 + 32 * i + 32)
      match s.loadAt t lo (hi - lo) with
      | .ok v => .ok (bs ++ leBytes (hi - lo) v)
      | .error e => .error (if e.f = .poison then ⟨.poison, e.va / 32 * 32⟩ else e)) (.ok [])

/-- The slots a FN reads, by the program loaded now. -/
def State.fnSlots (s : State) (t : Fin 8) (fn : Nat) : List Nat :=
  if fn < 8 then [fn] else if fnIsProg fn then (((s.tile t).progs.find? (fn - 0x40)).map progSlots).getD [] else []

/-- A slot is READY: its table set is in service (R413). -/
def State.slotReady (s : State) (t : Fin 8) (n : Nat) : Bool := s.rd F.SFU_SLOT_STATE_STATE t.val n = 2 && s.unitIn t.val && s.unitIn (32 + t.val)

/-- A program is loaded: its PROG_VALID bit is set, and its table set is in service (R135, R413). -/
def State.progReady (s : State) (t : Fin 8) (n : Nat) : Bool :=
  ((s.tile t).progs.find? n).isSome && bits (s.rd F.SFU_PROG_VALID_VALID t.val) n 1 = 1 && s.unitIn t.val && s.unitIn (32 + t.val)

/-- The resources an SF operation reads and writes: slots 0 to 7, programs as 64 + p; a program not yet loaded may name any
slot (R135). -/
def State.sfRes (s : State) (t : Fin 8) (op : TOp) (xf : Nat) : List Nat × List Nat :=
  match op with
  | .sfLoad => ([], [xf % 8])
  | .sfPload => ([], [64 + xf % 64])
  | .sfEval =>
    let fn := xf % 256
    if fn < 8 then ([fn], [])
    else if fnIsProg fn then
      let pend := (s.tile t).ops.any (fun p => p.2.op = .sfPload && p.2.xfb 80 6 = fn - 0x40)
      ((fn - 0x40 + 64) :: (if pend then List.range 8 else s.fnSlots t fn), [])
    else ([], [])
  | _ => ([], [])

/-- Two resource uses conflict. -/
def resClash (a b : List Nat × List Nat) : Bool :=
  a.2.any (fun x => b.1.contains x || b.2.contains x) || a.1.any (fun x => b.2.contains x)

/-- A slot's STATE changes twice over a load: LOADING, then its outcome (R136). -/
def State.slotLoaded (s : State) (t : Fin 8) (n st tid crc : Nat) : State :=
  s.wrs t.val n [(F.SFU_SLOT_STATE_STATE, st), (F.SFU_SLOT_STATE_OWNER, s.ownerOf t.val),
    (F.SFU_SLOT_STATE_EPOCH, s.rd F.SFU_SLOT_STATE_EPOCH t.val n + 2), (F.SFU_SLOT_INFO_TABLE_ID, tid),
    (F.SFU_SLOT_INFO_CRC, crc)]

/-- Run SF.LOAD (R134). -/
def State.runSfLoad (s : State) (t : Fin 8) (tag : Nat) (r : OpRec) : State :=
  let n := r.xfb 80 3
  match s.readRange t (r.td 1).base 4224 with
  | .error f => s.opFaulted t tag [] ⟨1, false, f⟩
  | .ok bs =>
    let rec_ := leNat bs
    if recordOk rec_ then
      (((s.slotLoaded t n 2 (recId rec_) (recCrc rec_)).onTile t (fun x => { x with slots := x.slots.put n rec_ })).opOver t tag 0)
    else (((s.slotLoaded t n 3 0 0).onTile t (fun x => { x with slots := x.slots.erase n })).opOver t tag 0)

/-- Set or clear a program's bit of SFU.PROG_VALID. -/
def State.progMark (s : State) (t : Fin 8) (p : Nat) (on : Bool) : State :=
  let v := s.rd F.SFU_PROG_VALID_VALID t.val
  s.wr F.SFU_PROG_VALID_VALID t.val (v - bits v p 1 * 2 ^ p + on.toNat * 2 ^ p)

/-- Run SF.PLOAD (R141). -/
def State.runSfPload (s : State) (t : Fin 8) (tag : Nat) (r : OpRec) : State :=
  let n := r.xfb 80 6
  match s.readRange t (r.td 1).base 320 with
  | .error f => s.opFaulted t tag [] ⟨1, false, f⟩
  | .ok bs =>
    let img := leNat bs
    if progOk img then ((s.progMark t n true).onTile t (fun x => { x with progs := x.progs.put n img })).opOver t tag 0
    else ((s.progMark t n false).onTile t (fun x => { x with progs := x.progs.erase n })).opOver t tag 0

/-! ### SF.EVAL -/

/-- A NaN result of an evaluation whose own operands hold no NaN is a created one, whatever step formed it (R71, R140) (DEDUCED, unsafe, log entry 37). -/
def asCreated : Val → Val
  | .nan _ => .nan true
  | v => v

/-- The function a FN names, on the SRC and SRC2 elements. -/
def Tile.sfFn (x : Tile) (fn : Nat) (a b : Val) : Val :=
  let slot (n : Nat) : Nat := x.slots.getD n 0
  if a.isNan || b.isNan then .nan false
  else asCreated (if fn < 8 then tableEval (slot fn) a
    else if fnIsProg fn then progEval (x.progs.getD (fn - 0x40) 0) slot a b
    else builtinEval (fn - 0x80) a)

/-- An SFU_COMPAT evaluation: M2 codes, no counts and no statistics (R144, R145). -/
def State.runCompat (s : State) (t : Fin 8) (tag : Nat) (r : OpRec) (fn : Nat) (cs : List (Nat × Nat)) : State :=
  let d := r.td 0
  match s.dstOk t r 0 with
  | .error e => s.opFaulted t tag [d] e
  | .ok _ =>
    let out := cs.map (fun c => compatCode (fn - 0x88) c.1)
    let nans := (cs.zip out).zipIdx.filterMap (fun p => if p.1.2 = 0x8000 then some (p.2, decide (p.1.1.1 ≠ 0x8000)) else none)
    (((s.storeCodes t d (out.map (fun c => (c, 0)))).recordNans t ⟨unitSfu, r.tag, r.iaddr, descIx r.insn 0, r.seq⟩ d
      nans).sfResults t unitSfu d.count).opDone t tag

/-- The slots and program an SF.EVAL needs are there (R135). -/
def State.sfReady (s : State) (t : Fin 8) (fn : Nat) : Bool :=
  (!fnIsProg fn || s.progReady t (fn - 0x40)) && (s.fnSlots t fn).all (fun n => s.slotReady t n)

/-- Run SF.EVAL (R129, R130, R135, R142). -/
def State.runSfEval (s : State) (t : Fin 8) (tag : Nat) (r : OpRec) : State :=
  let fn := r.xfb 80 8
  if !s.sfReady t fn then s.raiseOp t tag cSfSlot 0 (firstDesc r.insn) true
  else if fnIsCompat fn then
    match s.codesOp t r 1 with
    | .error e => s.opFaulted t tag [r.td 0] e
    | .ok cs => s.runCompat t tag r fn cs
  else match s.readOp t r 1, (if (r.desc 2).isSome then s.readOp t r 2 else .ok []) with
    | .error e, _ => s.opFaulted t tag [r.td 0] e
    | _, .error e => s.opFaulted t tag [r.td 0] e
    | .ok vs, .ok ws =>
      let f := (s.tile t).sfFn fn
      s.finishOp t tag r unitSfu [⟨0, vs.zipIdx.map (fun p => f p.1 (valAt ws p.2)), r.rnd 128⟩]

/-! ### SF.RNORM and SF.SMAX -/

/-- The rows of a source in linear order. -/
def TDesc.rowsOf (d : TDesc) (vs : List Val) : List (List Val) :=
  (List.range d.rows).map (fun i => (List.range d.n0).map (fun c => valAt vs (i * d.n0 + c)))

/-- RNE-log with SAT, for STAT tensors. -/
def statRnd : Rnd := ⟨.rne, false, 0, 128, false⟩

/-- The STAT write of an operation whose operand 3 is not null. -/
def OpRec.statWr (r : OpRec) (vs : List Val) : List DstWr := if (r.desc 3).isSome then [⟨3, vs, statRnd⟩] else []

/-- Run SF.RNORM (R146, R147). -/
def State.runRnorm (s : State) (t : Fin 8) (tag : Nat) (r : OpRec) : State :=
  let d1 := r.td 1
  match s.readOp t r 1, (if (r.desc 2).isSome then s.readOp t r 2 else .ok (List.replicate d1.n0 .one)) with
  | .error e, _ => s.opFaulted t tag [r.td 0] e
  | _, .error e => s.opFaulted t tag [r.td 0] e
  | .ok vs, .ok gs =>
    let rows := (d1.rowsOf vs).map (fun xs => rnormRow (d1.fmt = .l32) xs gs (decodeL16 (r.xfb 80 16) 0))
    s.finishOp t tag r unitSfu (⟨0, rows.flatMap (·.1), r.rnd 128⟩ :: r.statWr (rows.map (·.2)))

/-- Latch the RANGE record or count a further fault (R155), count it, and raise RANGE (R150). -/
def State.rangeTrap (s : State) (t : Fin 8) (tag : Nat) (r : OpRec) (k row col : Nat) : State :=
  let s := s.count F.SFU_CNT_RANGE_COUNT t.val 1
  let s := if s.flag F.SFU_RANGE_STATUS_VALID t.val then s.count F.SFU_RANGE_STATUS_COUNT t.val 1
    else s.wrs t.val 0 [(F.SFU_RANGE_STATUS_VALID, 1), (F.SFU_RANGE_STATUS_COUNT, 0), (F.SFU_RANGE_OP_TAG, tag),
      (F.SFU_RANGE_OP_DESC, descIx r.insn k), (F.SFU_RANGE_OP_IADDR, r.iaddr), (F.SFU_RANGE_POS_ROW, row),
      (F.SFU_RANGE_POS_COL, col)]
  s.raiseOp t tag cRange 0 (descIx r.insn k) true

/-- One row of SF.SMAX in a mode. -/
def smaxRow (mode : Nat) (lam : Val) (xs : List Val) : SmaxRow :=
  match mode with
  | 0 => smaxRange xs
  | 1 => smaxOnline xs
  | _ => smaxFromStat lam xs

/-- The first faulting row and its column. -/
def firstFault (rows : List SmaxRow) : Option (Nat × Nat) :=
  rows.zipIdx.findSome? (fun p => match p.1 with | .faulted c => some (p.2, c) | _ => none)

/-- The outputs of rows that did not fault. -/
def SmaxRow.outs : SmaxRow → List Val
  | .ok p _ => p
  | .faulted _ => []

/-- The STAT value of a row that did not fault. -/
def SmaxRow.statOf : SmaxRow → Val
  | .ok _ v => v
  | .faulted _ => .zero

/-- Run SF.SMAX (R148 to R153). -/
def State.runSmax (s : State) (t : Fin 8) (tag : Nat) (r : OpRec) : State :=
  let d1 := r.td 1
  let mode := r.xfb 80 2
  match s.readOp t r 1, (if mode = 2 then s.readOp t r 3 else .ok []) with
  | .error e, _ => s.opFaulted t tag [r.td 0] e
  | _, .error e => s.opFaulted t tag [r.td 0] e
  | .ok vs, .ok ls =>
    let rows := (d1.rowsOf vs).zipIdx.map (fun p => smaxRow mode (valAt ls p.2) p.1)
    match firstFault rows with
    | some (row, col) => s.rangeTrap t tag r 1 row col
    | none =>
      s.finishOp t tag r unitSfu (⟨0, rows.flatMap SmaxRow.outs, r.rnd 128⟩ ::
        (if mode = 2 then [] else r.statWr (rows.map SmaxRow.statOf)))

end Sys2Proof.Machine
end

