-- ==== Sys2Proof/Machine/Wire.lean ====
section
/-! DEFINITION. Bytes on the combiner path: the entries of a REDUCE message (Tables 5-3 and 5-4). -/
namespace Sys2Proof.Machine

/-! ### 40-bit floats (R89, R90) -/

/-- The 40 bits of a float: sign, exponent field with bias 511, 29 fraction bits; zero is all zero. -/
def Dy.f40 (d : Dy) : Nat :=
  let n := d.m.natAbs
  let l := n.log2
  if n = 0 then 0
  else (if d.m < 0 then 2 ^ 39 else 0) + ((l : Int) + d.x + 511).toNat % 1024 * 2 ^ 29 + (if l ≤ 29 then n * 2 ^ (29 - l) else n / 2 ^ (l - 29)) % 2 ^ 29

/-- The value of 40 float bits. -/
def Dy.of40 (w : Nat) : Dy :=
  if bits w 29 10 = 0 then .zero else .ofSigned (bits w 39 1 = 1) (2 ^ 29 + bits w 0 29) ((bits w 29 10 : Int) - 540)

/-! ### Classes (Table 5-4) -/

/-- CLASS and CREATED. -/
def Cls.code : Cls → Nat
  | .fin => 0 | .pinf => 1 | .ninf => 2 | .nan c => 3 + 8 * c.toNat | .ovfP => 4 | .ovfN => 5

/-- The class of a code; a reserved one is a NaN, created. -/
def Cls.ofCode (b : Nat) : Cls :=
  match bits b 0 3 with
  | 0 => .fin | 1 => .pinf | 2 => .ninf | 3 => .nan (bits b 3 1 = 1) | 4 => .ovfP | 5 => .ovfN | _ => .nan true

/-! ### Entries (Table 5-3) -/

/-- An entry's 12 or 24 bytes. -/
def Entry.bytes : Entry → List Byte
  | .std p =>
    let v (d : Dy) : List Byte := leBytes 5 (if p.cls = .fin then d.f40 else 0)
    v p.hi ++ v p.lo ++ leBytes 2 p.cls.code
  | .long l => leBytes 20 (l.acc % 2 ^ 160).toNat ++ leBytes 2 (l.anchor.getD 0 % 65536).toNat ++
      leBytes 2 (l.cls.code + l.anchor.isSome.toNat * 16 + l.lx.toNat * 32)

/-- The entry that bytes hold. -/
def Entry.ofBytes (long : Bool) (bs : List Byte) : Entry :=
  let w := leNat bs
  if long then
    .long ⟨.ofCode (bits w 176 6), sext 160 (bits w 0 160), if bits w 180 1 = 1 then some (sext 16 (bits w 160 16)) else none, bits w 181 1 = 1, []⟩
  else
    let c := Cls.ofCode (bits w 80 4)
    .std (if c = .fin then ⟨c, .of40 (bits w 0 40), .of40 (bits w 40 40)⟩ else .ofCls c)

/-- Bytes of an entry in a mode. -/
def entrySize (long : Bool) : Nat := if long then 24 else 12

/-- The payload of a row: its entries in column order. -/
def rowBytes (es : List Entry) : List Byte := es.flatMap Entry.bytes

/-- The entries of a row's payload. -/
def rowOf (long : Bool) (bs : List Byte) : List Entry :=
  (List.range 32).map (fun c => Entry.ofBytes long ((bs.drop (entrySize long * c)).take (entrySize long)))

end Sys2Proof.Machine
end

