-- ==== Sys2Proof/Machine/Combiner.lean ====
section
/-! DEFINITION. The Sluice tree combiner (chapter 5; R347): reduction group descriptors, parts, combination row by row, and the
root's encoder. -/
namespace Sys2Proof.Machine

/-! ### Reduction group descriptors (Table 5-2) -/

/-- SLOT. -/
def rgdSlot (w : Nat) : Nat := bits w 0 4
/-- TILES. -/
def rgdTiles (w : Nat) : Nat := bits w 4 8
/-- ROOT. -/
def rgdRoot (w : Nat) : Nat := bits w 12 3
/-- RESULT. -/
def rgdResult (w : Nat) : Nat := bits w 15 5
/-- FEN. -/
def rgdFen (w : Nat) : Bool := bits w 20 1 = 1
/-- FEN_GROUP. -/
def rgdGroup (w : Nat) : Nat := bits w 21 6
/-- EPOCH. -/
def rgdEpoch (w : Nat) : Nat := bits w 32 16

/-- What the parts of one group must share (R113); FEN_GROUP counts only under FEN = 1 (Table 5-2). -/
def rgdKey (w : Nat) : Nat × Nat := (bits w 0 21 + bits w 32 16 * 2 ^ 21, if rgdFen w then rgdGroup w else 0)

/-- An illegal reduction group descriptor for a tile: an RSV bit, or a TILES bit that must be set (R113). -/
def rgdBad (d : DReg) (t : Nat) : Bool :=
  let v := d.toNat
  v / 2 ^ 64 ≠ 0 || bits v 27 5 ≠ 0 || bits v 48 16 ≠ 0 || bits (rgdTiles v) t 1 = 0 || bits (rgdTiles v) (rgdRoot v) 1 = 0

/-- A combiner slot. -/
def State.cslot (s : State) (n : Nat) : CombSlot := s.comb.getD n .reset

/-- Change a combiner slot. -/
def State.onSlot (s : State) (n : Nat) (f : CombSlot → CombSlot) : State :=
  { s with comb := s.comb.set .reset n (f (s.cslot n)) }

/-- EPOCH is the slot's current lease epoch. -/
def State.rgdCurrent (s : State) (w : Nat) : Bool := decide (rgdEpoch w = (s.cslot (rgdSlot w)).epoch)

/-- A RESULT descriptor that holds the rows and columns of a drain of m × n (R98, R99, R118) or, with `elems`, the elements of LODE.TREDUCE
(R267). -/
def resultOk (d : TDesc) (m n elems blkdir : Nat) : Bool :=
  if elems = 0 then d.legalDst Fmt.log && n ≤ d.n0 && m ≤ d.n1 && d.n2 = 1 && d.n3 = 1 && (!d.fmt.scaled || d.rdim = blkdir)
  else d.legalDst (fun f => f = .l16 || f = .l32) && elems ≤ d.count

/-! ### Writing part of a destination -/

/-- Encode some elements of a destination; of a block format, the blocks whose first element is among them. -/
def TDesc.encodeSome (d : TDesc) (r : Rnd) (xs : List (Nat × Val)) : List (Nat × Nat × Nat) × Counts × List (Nat × Bool) :=
  if d.fmt.scaled then
    let at_ (i : Nat) : Val := ((xs.find? (fun p => p.1 = i)).map (·.2)).getD .zero
    let outs := (d.blocks.filter (fun b => xs.any (fun p => p.1 = b.headD 0))).map (fun b =>
      (b, encodeBlock d.fmt r d.tso (b.map (fun i => (i, at_ i)))))
    ((outs.flatMap (fun o => (o.1.zip o.2.codes).map (fun p => (p.1, p.2, o.2.scale)))).filter (fun c => xs.any (fun p => p.1 = c.1)),
      outs.foldl (fun c o => c.add o.2.counts) .none,
      outs.filterMap (fun o => o.2.nan.map (fun n => ((o.1[n.1]?).getD 0, n.2))))
  else
    let outs := xs.map (fun p => (p.1, encodeWide d.fmt r d.tso p.1 p.2))
    (outs.map (fun o => (o.1, o.2.code, 0)), outs.foldl (fun c o => c.add o.2.counts) .none,
      xs.filterMap (fun p => match p.2 with | .nan c => some (p.1, c) | _ => none))

/-- The bytes of some elements can be written. -/
def State.writableAt (s : State) (t : Fin 8) (d : TDesc) (is : List Nat) : Except VFault Unit :=
  (is.flatMap d.cells).foldl (fun r c =>
    match r with
    | .error e => .error e
    | .ok _ => match s.translate t .write c.1 with
      | .ok _ => .ok ()
      | .error e => .error ⟨e, c.1⟩) (.ok ())

/-- Store some elements' codes. -/
def State.storeCells (s : State) (t : Fin 8) (d : TDesc) (cs : List (Nat × Nat × Nat)) : State :=
  cs.foldl (fun s p =>
    let s := s.storeVa t (d.eaddr p.1) d.fmt.bytes p.2.1
    if d.fmt.scaled then s.storeVa t (d.saddr p.1) 1 p.2.2 else s) s

/-! ### The LONG_INEXACT record (R107) -/

/-- Latch the RB.LX record from the entries a drain read with LONG_INEXACT, in row and column order, or count them. -/
def State.lxRecord (s : State) (t : Fin 8) (tag desc iaddr : Nat) (l : List (Nat × Nat)) : State :=
  match l with
  | [] => s
  | p :: rest =>
    if s.flag F.RB_LX_STATUS_VALID t.val then s.count F.RB_LX_STATUS_COUNT t.val (rest.length + 1)
    else s.wrs t.val 0 [(F.RB_LX_STATUS_VALID, 1), (F.RB_LX_STATUS_COUNT, min rest.length 0xFFFFFFFF), (F.RB_LX_OP_TAG, tag),
      (F.RB_LX_OP_DESC, desc), (F.RB_LX_OP_IADDR, iaddr), (F.RB_LX_COORD_ROW, p.1), (F.RB_LX_COORD_COL, p.2)]

/-! ### Ends of the operations (R102, R107, R120 to R123) -/

/-- Apply to an unretired operation of a tile that has not trapped, found by its sequence number. -/
def State.onSeq (s : State) (t : Fin 8) (seq : Nat) (f : State → Nat → OpRec → State) : State :=
  match (s.tile t).tagOf seq with
  | none => s
  | some tag => match (s.tile t).ops.find? tag with
    | some r => if r.trapped || r.trap.isSome || r.st = .ack then s else f s tag r
    | none => s

/-- The phase of an MM operation or LODE.TREDUCE whose drain read an entry with LONG_INEXACT: LX_TRAP may raise the trap at its last effect
(Table 4-8). -/
abbrev phaseLx : Nat := 4

/-- A participant's last row, or the root's last write, is issued; its acknowledgements are outstanding. -/
def State.partAcked (s : State) (t : Fin 8) (seq acks : Nat) (lx : Bool) : State :=
  s.onSeq t seq (fun s tag r => s.onTile t (fun x => { x with
    ops := x.ops.put tag { r with st := .ack, pos := r.total, acks := acks, phase := if lx then phaseLx else r.phase } }))

/-- A participant's operation completes with a status; a LODE.TREDUCE takes it until it retires. -/
def State.partEnded (s : State) (t : Fin 8) (seq status : Nat) : State :=
  match (s.tile t).tagOf seq with
  | none => s
  | some tag => match (s.tile t).ops.find? tag with
    | some r =>
      if r.trapped || r.trap.isSome || (r.st = .ack && r.op ≠ .ldTreduce) then s
      else s.onTile t (fun x => { x with ops := x.ops.put tag { r with st := .ack, acks := 0, status := status } })
    | none => s

/-- A part's operation has its acknowledgement outstanding. -/
def State.ackPart (s : State) (p : CombPart) (acks : Nat) (lx : Bool) : State := s.partAcked (tileOf p.tile) p.op.seq acks lx

/-- A part's operation completes with a status. -/
def State.endPart (s : State) (p : CombPart) (status : Nat) : State := s.partEnded (tileOf p.tile) p.op.seq status

/-! ### Fen reduction groups (R347) -/

/-- EN, ALLRED, ROOT and MEMBERS of a group as this device holds them. -/
def State.rgrpCfg (s : State) (g : Nat) : Nat :=
  s.rd F.FEN_RGRP_CFG_EN 0 g + s.rd F.FEN_RGRP_CFG_ALLRED 0 g * 2 + s.rd F.FEN_RGRP_CFG_ROOT 0 g * 4 +
    s.rd F.FEN_RGRP_MEM_MEMBERS 0 g * 256

/-- The members of a group in rank order. -/
def State.rgrpMembers (s : State) (g : Nat) : List Nat :=
  (List.range 64).filter (fun r => bits (s.rd F.FEN_RGRP_MEM_MEMBERS 0 g) r 1 = 1)

/-- The other members of a group's Fen group; none under FEN = 0. -/
def State.rgdPeers (s : State) (w : Nat) : List Nat :=
  if rgdFen w then (s.rgrpMembers (rgdGroup w)).filter (fun r => r ≠ s.rank) else []

/-- This device holds the root of the group's tree. -/
def State.rootHere (s : State) (w : Nat) : Bool := !rgdFen w || s.rd F.FEN_RGRP_CFG_ROOT 0 (rgdGroup w) = s.rank

/-- The group's encoded rows go to every member. -/
def State.rgdAllred (s : State) (w : Nat) : Bool := rgdFen w && s.flag F.FEN_RGRP_CFG_ALLRED 0 (rgdGroup w)

/-- Encoded rows of a group are written into the RESULT of this device's root tile. -/
def State.encodesHere (s : State) (w : Nat) : Bool := s.rootHere w || s.rgdAllred w

/-- A packet of the combiner path. -/
def State.sendRed (s : State) (k : Pkt) (d : Nat) : State := s.sendPkt k 4 d false

/-- Tell the other members of a group how it stands (DESIGN CHOICE, unsafe, log entry 46): 0, every row has been combined; 1, the group
has retired at its root; else the status it ends with. -/
def State.tellGroup (s : State) (w status : Nat) : State := (s.rgdPeers w).foldl (fun s r => s.sendRed (.redEnd w status) r) s

/-! ### A group at its slot (R113, R121 to R123) -/

/-- What the parts of one group must share. -/
def CombPart.key (p : CombPart) : (Nat × Nat) × Nat × Nat × Bool × Nat := (rgdKey p.rgd, p.m, p.n, p.long, p.elems)

/-- The same of a row from another rank. -/
def PartRow.key (p : PartRow) : (Nat × Nat) × Nat × Nat × Bool × Nat := (rgdKey p.rgd, p.m, p.n, p.long, p.elems)

/-- Rows from other ranks are of the current group while one of its rows is still to be combined here. -/
def CombSlot.open_ (c : CombSlot) : Bool := match c.parts with | [] => true | p :: _ => decide (c.done.length < p.m)

/-- Parts of one group that disagree, on this device or with a row from another rank (R122, R347). -/
def CombSlot.disagree (c : CombSlot) (cfg : Nat) : Bool :=
  let far := if c.open_ then c.far else []
  match c.parts.map CombPart.key ++ far.map PartRow.key with
  | [] => false
  | k :: l => l.any (fun q => q ≠ k) || c.parts.any (fun p => c.parts.any (fun q => bits (rgdTiles p.rgd) q.tile 1 = 0)) || far.any (fun q => q.cfg ≠ cfg)

/-- A tile of a group is lost: a tile of this device out of service, or a tile of another member declared lost (R123, R446). -/
def State.tileGone (s : State) (w : Nat) : Bool :=
  (List.range 8).any (fun t => bits (rgdTiles w) t 1 = 1 && (!s.unitIn t || s.flt.gone.any (fun g => g.2 = t && (s.rgdPeers w).contains g.1)))

/-- Why the group at a slot cannot go on: it disagrees, its Fen group is not enabled or leaves this device out, or a participant is lost. -/
def State.groupStatus (s : State) (c : CombSlot) : Option Nat :=
  match c.rgd with
  | none => none
  | some w =>
    let g := rgdGroup w
    if c.fail.isSome || c.closing then none
    else if c.disagree (s.rgrpCfg g) then some 0x26
    else if rgdFen w && (!s.flag F.FEN_RGRP_CFG_EN 0 g || !(s.rgrpMembers g).contains s.rank) then some 0x26
    else if s.tileGone w || (s.rgdPeers w).any (fun r => !s.reach r) then some 0x27
    else none

/-- The group of a slot ends with a status (R122, R123): the operations of its parts complete with it, the other members are told, and
under RED_ABORT the slot's epoch moves on. `heard` is the rank whose notice said so. -/
def State.groupFail (s : State) (n status : Nat) (heard : List Nat) : State :=
  let c := s.cslot n
  let w := c.rgd.getD 0
  let s1 := c.parts.foldl (fun s p => s.endPart p status) s
  let s2 := s1.onSlot n (fun c => { CombSlot.reset with
    epoch := if status = 0x27 ∧ c.epoch = rgdEpoch w then (c.epoch + 1) % 65536 else c.epoch
    rgd := some w, wait := c.wait, fail := some status, seen := c.parts.map (·.tile)
    ends := (s.rgdPeers w).filter (fun r => !heard.contains r && s.reach r) })
  s2.tellGroup w status

/-- Nothing more of an ended group is to come: every tile of it has come or is lost, unless its epoch has passed, and every member's notice. -/
def State.failOver (s : State) (c : CombSlot) (st : Nat) : Bool :=
  c.ends = [] && (st = 0x27 || (List.range 8).all (fun t => bits (rgdTiles (c.rgd.getD 0)) t 1 = 0 || c.seen.contains t || !s.unitIn t))

/-- The root operation of a group whose last row is written has retired. -/
def State.rootRetired (s : State) (c : CombSlot) : Bool :=
  match c.parts.find? (fun p => p.tile = rgdRoot p.rgd) with
  | none => true
  | some p => ((s.tile (tileOf p.tile)).tagOf p.op.seq).isNone

/-- Free a slot; what has arrived of the next group stays. -/
def State.slotFree (s : State) (n : Nat) : State :=
  s.onSlot n (fun c => { CombSlot.reset with epoch := c.epoch, wait := c.wait, far := c.far })

/-- What is to be done with the first waiting part that need not wait. -/
inductive Joins where
  | ended (status : Nat)
  | joins
  deriving DecidableEq, Repr

/-- Every tile of the group has its part. -/
def CombSlot.full (c : CombSlot) : Bool :=
  (List.range 8).all (fun t => bits (rgdTiles (c.rgd.getD 0)) t 1 = 0 || c.parts.any (fun p => p.tile = t))

/-- Whether a waiting part still waits: one whose epoch has passed ends, as does a part of an ended group; a tile's second drain waits until
the group has retired at the root (R121). -/
def CombSlot.joins (c : CombSlot) (p : CombPart) : Option Joins :=
  if rgdEpoch p.rgd ≠ c.epoch then some (.ended 0x27)
  else match c.rgd, c.fail with
    | some w, some st => if st ≠ 0x27 ∧ bits (rgdTiles w) p.tile 1 = 1 ∧ !c.seen.contains p.tile then some (.ended st) else none
    | none, _ => some .joins
    | some _, none => if c.parts.any (fun q => q.tile = p.tile) || (c.full && c.parts ≠ []) then none else some .joins

/-- LODE.TREDUCE's last message is in the LEP's send buffer once its group holds the slot, since the path's credits for the whole group are
held with it (R114, Table 8-2); the root's lasts as a drain does (DEDUCED, unsafe, log entry 48). -/
def State.treduceSent (s : State) (p : CombPart) : State :=
  if p.elems ≠ 0 && !(p.tile = rgdRoot p.rgd && s.encodesHere p.rgd) then s.ackPart p 0 false else s

/-- Bring a slot up to date: a group that is over frees it, and waiting parts join or end. -/
def State.slotGo (n : Nat) : Nat → State → State
  | 0, s => s
  | k + 1, s =>
    let c := s.cslot n
    if c.closing && s.rootRetired c then State.slotGo n k ((s.slotFree n).tellGroup (c.rgd.getD 0) 1)
    else if (match c.fail with | some st => s.failOver c st | none => false) then State.slotGo n k (s.slotFree n)
    else match c.wait.find? (fun p => (c.joins p).isSome) with
      | none => s
      | some p =>
        let s1 := s.onSlot n (fun c => { c with wait := c.wait.filter (fun q => decide (q ≠ p)) })
        match c.joins p with
        | some (.ended st) => State.slotGo n k ((s1.endPart p st).onSlot n (fun c => { c with seen := c.seen ++ [p.tile] }))
        | _ =>
          let s2 := s1.onSlot n (fun c => { c with rgd := some (c.rgd.getD p.rgd), parts := c.parts ++ [p] })
          match s2.groupStatus (s2.cslot n) with
          | some st => State.slotGo n k (s2.groupFail n st [])
          | none => State.slotGo n k (s2.treduceSent p)

/-- Bring a slot up to date; 2,048 operations at most are unretired. -/
def State.slotJoin (s : State) (n : Nat) : State := State.slotGo n 4096 s

/-- A part reaches its slot, or waits there (R121). -/
def State.sendPart (s : State) (p : CombPart) : State :=
  (s.onSlot (rgdSlot p.rgd) (fun c => { c with wait := c.wait ++ [p] })).slotJoin (rgdSlot p.rgd)

/-! ### The root's encoder (R118) -/

/-- The elements of a RESULT that a combined row fills. -/
def rowElems (d : TDesc) (p : CombPart) (row : Nat) (es : List Entry) : List (Nat × Val) :=
  let n := if p.elems = 0 then p.n else min 32 (p.elems - 32 * row)
  (List.range n).map (fun c => ((if p.elems = 0 then row * d.n0 else 32 * row) + c, ((es[c]?).getD (Entry.zero false)).toVal))

/-- The rows that are encoded together with one: its group of 32 where blocks run along M, else itself (R98). -/
def rowGroup (d : TDesc) (m row : Nat) : List Nat :=
  if d.fmt.scaled && d.rdim = 1 then (List.range 32).filterMap (fun j =>
    if row / 32 * 32 + j < m then some (row / 32 * 32 + j) else none) else [row]

/-- The RESULT descriptor a root part's operation captured. -/
def CombPart.result (p : CombPart) : TDesc := TDesc.of (p.op.d.getD 4 0)

/-- Send a row's encoded cells to the other members under all-reduce (R119). -/
def State.sendEncoded (s : State) (p : CombPart) (row : Nat) (cs : List (Nat × Nat × Nat)) : State :=
  if s.rgdAllred p.rgd then
    let mine := cs.filter (fun c => (if p.elems = 0 then c.1 / p.result.n0 else c.1 / 32) = row)
    (s.rgdPeers p.rgd).foldl (fun s r => s.sendRed (.encoded p.rgd row mine) r) s
  else s

/-- Write encoded cells into the root tile's RESULT; a fault is the root operation's trap. -/
def State.putResult (s : State) (t : Fin 8) (tag : Nat) (r : OpRec) (cs : List (Nat × Nat × Nat)) : State :=
  let d := TDesc.of (r.d.getD 4 0)
  match s.writableAt t d (cs.map (·.1)) with
  | .ok _ => (s.storeCells t d cs).claim (.op t.val r.seq)
  | .error f => (s.tmuRecord t f.f f.va true false true tag).raiseOp t tag f.f.cause f.va (rgdResult (r.d.getD 0 0).toNat) true

/-- What the root tile records of rows it has written: counts, statistics, NaNs and LONG_INEXACT; a poisoned statistics entry is its trap. -/
def State.rootRecords (s : State) (t : Fin 8) (tag : Nat) (r : OpRec) (c : Counts) (vs : List Val) (nans : List (Nat × Bool)) (lx : List (Nat × Nat)) : State :=
  let d := TDesc.of (r.d.getD 4 0)
  let desc := rgdResult (r.d.getD 0 0).toNat
  let bad := s.statPoison t d c vs
  let s := ((s.addCounts t d c).addStats t d vs).claim (.op t.val r.seq)
  let s := (s.recordNans t ⟨unitRb, tag, r.iaddr, desc, r.seq⟩ d nans).lxRecord t tag desc r.iaddr lx
  match bad with
  | none => s
  | some g => s.raiseOp t tag cMemPoison (g % 2 ^ 48) desc true

/-- Encode the rows of a group that are whole, for the root part `p` (R98, R118); rows for the other members are encoded even when the root's
own operation has trapped. -/
def State.encodeRows (s : State) (n : Nat) (p : CombPart) (row : Nat) : State :=
  let t := tileOf p.tile
  let d := p.result
  let c := s.cslot n
  let rows := rowGroup d p.m row
  if rows.all (fun i => (c.got.find? i).isSome) then
    let ents := rows.map (fun i => (i, c.got.getD i []))
    let xs := ents.flatMap (fun e => rowElems d p e.1 e.2)
    let o := d.encodeSome (p.op.rnd 32) xs
    let lx := ents.flatMap (fun e => ((List.range p.n).filter (fun k => ((e.2[k]?).getD (Entry.zero false)).lx)).map (fun k => (e.1, k)))
    let s := rows.foldl (fun s i => s.sendEncoded p i o.1) (s.onSeq t p.op.seq (fun s tag r => s.putResult t tag r o.1))
    let s := s.onSeq t p.op.seq (fun s tag r => s.rootRecords t tag r o.2.1 (xs.map (·.2)) o.2.2 lx)
    s.onSlot n (fun c => { c with got := c.got.filter (fun e => !rows.contains e.1), enc := c.enc ++ rows, lx := c.lx || lx ≠ [] })
  else s

/-! ### COMBINER_ROW (R110 to R122) -/

/-- A device's row in the tile tree (R110, R111). -/
def tileRow (parts : List CombPart) (row : Nat) : List Entry :=
  let leaf (col t : Nat) : Option Entry := (parts.find? (fun p => p.tile = t)).bind (fun p => (p.rows[row]?).bind (fun bs => (rowOf p.long bs)[col]?))
  (List.range 32).filterMap (fun col => treeRoot Entry.combine 3 ((List.range 8).map (leaf col)))

/-- Two rows at a node, the first the left operand. -/
def combineRows (a b : List Entry) : List Entry := (a.zip b).map (fun p => p.1.combine p.2)

/-- Climb the Fen tree from level `k` with this device's row: the rank to send it to, or none at the top; nothing while a right
operand's row is missing (R347). -/
def climb (ms : List Nat) (me : Nat) (far : Nat → Option (List Entry)) : Nat → Nat → List Entry → Option (Option Nat × List Entry)
  | 0, _, es => some (none, es)
  | f + 1, k, es =>
    let sib := (me / 2 ^ k) / 2 * 2 + (1 - (me / 2 ^ k) % 2)
    match ms.find? (fun r => r / 2 ^ k = sib) with
    | none => climb ms me far f (k + 1) es
    | some r =>
      if (me / 2 ^ k) % 2 = 1 then some (some r, es)
      else match far r with
        | none => none
        | some b => climb ms me far f (k + 1) (combineRows es b)

/-- A row from another rank. -/
def CombSlot.farRow (c : CombSlot) (rank row : Nat) : Option (List Entry) :=
  (c.far.find? (fun p => p.rank = rank && p.row = row)).map (fun p => rowOf p.long p.payload)

/-- A row of the whole tree has come to the root tile: encode it (R118 to R120). -/
def State.rootRow (s : State) (n : Nat) (p : CombPart) (row : Nat) (es : List Entry) : State :=
  (s.onSlot n (fun c => { c with got := c.got.put row es, top := c.top ++ [row] })).encodeRows n p row

/-- Acknowledgements the root's operation waits for: one, or one from each member under all-reduce (R120). -/
def State.rootAcks (s : State) (w : Nat) : Nat := if s.rgdAllred w then (s.rgrpMembers (rgdGroup w)).length else 1

/-- At the root, once every row is combined the participants are acknowledged, and once every row is encoded the root's operation awaits its
acknowledgements (R120). -/
def State.slotFinish (s : State) (n : Nat) : State :=
  let c := s.cslot n
  match c.parts.find? (fun p => p.tile = rgdRoot p.rgd) with
  | none => s
  | some root =>
    if !s.rootHere root.rgd || c.fail.isSome || c.closing || c.top.length < root.m then s
    else
      let s1 := if c.acked then s else
        ((c.parts.foldl (fun s q => if q.tile = root.tile then s else s.ackPart q 1 false) s).onSlot n (fun c => { c with acked := true })).tellGroup
          root.rgd 0
      if c.enc.length < root.m then s1
      else ((s1.ackPart root (s.rootAcks root.rgd) c.lx).onSlot n (fun c => { c with closing := true })).slotJoin n

/-- A partial row for another rank. -/
def State.sendRow (s : State) (p : CombPart) (row : Nat) (es : List Entry) (d : Nat) : State :=
  s.sendRed (.red ⟨s.rank, p.rgd, p.m, p.n, p.long, p.elems, s.rgrpCfg (rgdGroup p.rgd), row, rowBytes es⟩) d

/-- A row of a group of the Fen at this device's nodes: combined with the rows that came for it, and passed on or encoded (R347). -/
def State.fenRow (s : State) (n row : Nat) (root : CombPart) : State :=
  let c := s.cslot n
  let rootRank := s.rd F.FEN_RGRP_CFG_ROOT 0 (rgdGroup root.rgd)
  if c.done.contains row then s
  else match climb (s.rgrpMembers (rgdGroup root.rgd)) s.rank (fun r => c.farRow r row) 6 0 (tileRow c.parts row) with
    | none => s
    | some (dst, es) =>
      let s := s.onSlot n (fun c => { c with done := c.done ++ [row], far := c.far.filter (fun q => !(q.row = row && s.rank < q.rank)) })
      match dst with
      | some d => s.sendRow root row es d
      | none => if rootRank = s.rank then s.rootRow n root row es else s.sendRow root row es rootRank

/-- At the root, a row of the whole tree that the lowest member has sent. -/
def State.topRow (s : State) (n row : Nat) (root : CombPart) : State :=
  let c := s.cslot n
  match c.far.find? (fun q => q.rank < s.rank && q.row = row) with
  | some q =>
    if s.rootHere root.rgd && c.done.contains row && !c.top.contains row then
      (s.onSlot n (fun c => { c with far := c.far.filter (fun p => decide (p ≠ q)) })).rootRow n root row (rowOf q.long q.payload)
    else s
  | none => s

/-- A row of the group at this device's nodes. -/
def State.stepRow (s : State) (n row : Nat) : State :=
  let c := s.cslot n
  match c.parts.find? (fun p => p.tile = rgdRoot p.rgd) with
  | none => s
  | some root =>
    if !c.full || root.m ≤ row || c.fail.isSome || c.closing then s
    else if rgdFen root.rgd then (s.fenRow n row root).topRow n row root
    else if c.done.contains row then s
    else (s.onSlot n (fun c => { c with done := c.done ++ [row] })).rootRow n root row (tileRow c.parts row)

/-- An encoded row from the group's root, written into this device's RESULT (R119). -/
def State.encodedIn (s : State) (n row : Nat) (cs : List (Nat × Nat × Nat)) : State :=
  match (s.cslot n).parts.find? (fun q => q.tile = rgdRoot q.rgd) with
  | none => s
  | some root =>
    let s1 := (s.onSeq (tileOf root.tile) root.op.seq (fun s tag r => s.putResult (tileOf root.tile) tag r cs)).onSlot n
      (fun c => { c with enc := c.enc ++ [row] })
    if root.m ≤ (s1.cslot n).enc.length then s1.ackPart root 1 false else s1

/-- How a member says its group stands (R120 to R123). -/
def State.redEndIn (s : State) (n w status rank : Nat) : State :=
  let c := s.cslot n
  match status with
  | 0 =>
    if c.fail.isSome then s
    else (c.parts.foldl (fun s q => if q.tile = rgdRoot q.rgd && s.encodesHere q.rgd then s else s.ackPart q 1 false) s).onSlot n
      (fun c => { c with acked := true })
  | 1 => if c.fail.isSome then s else (c.parts.foldl (fun s q => s.ackPart q 1 false) s).slotFree n
  | st =>
    if c.fail.isSome then s.onSlot n (fun c => { c with ends := c.ends.filter (fun r => decide (r ≠ rank)) })
    else (s.onSlot n (fun c => { c with rgd := some (c.rgd.getD w) })).groupFail n st [rank]

/-- A packet of the combiner path can be taken in: rows and notices of a rank whose notice has come are of a later group and wait, as does
the end of a later group. -/
def CombSlot.takes (c : CombSlot) (rank : Nat) : Pkt → Bool
  | .redEnd _ st => st ≤ 1 || (if c.fail.isSome then c.ends.contains rank else !c.acked && !c.closing)
  | _ => true

/-- The combiner path's packets for a slot of this device. -/
def State.redFor (s : State) (n : Nat) (p : RxPkt) : Bool :=
  p.drank = s.rank && (match p.pkt with
    | .red r => rgdSlot r.rgd = n
    | .encoded w _ _ | .redEnd w _ => rgdSlot w = n
    | _ => false)

/-- Take one packet in. -/
def State.redTake (s : State) (n : Nat) (p : RxPkt) : State :=
  match p.pkt with
  | .red r => if (s.cslot n).fail.isSome && (s.cslot n).ends.contains p.srank then s else s.onSlot n (fun c => { c with far := c.far ++ [r] })
  | .encoded _ row cs => s.encodedIn n row cs
  | .redEnd w st => s.redEndIn n w st p.srank
  | _ => s

/-- Take in what has arrived from other ranks for a slot, in order of arrival. -/
def State.redArrive (s : State) (n : Nat) : State :=
  s.rx.foldl (fun s p =>
    if s.redFor n p && (s.cslot n).takes p.srank p.pkt then ({ s with rx := s.rx.erase p } : State).redTake n p else s) s

/-- COMBINER_ROW (R120): what has arrived at a slot is taken in, a group that cannot go on ends, and the row is combined, passed on or
encoded when every part of it is present. -/
def State.combine (s : State) (n row : Nat) : State :=
  let s := (s.redArrive n).slotJoin n
  match s.groupStatus (s.cslot n) with
  | some st => (s.groupFail n st []).slotJoin n
  | none => (s.stepRow n row).slotFinish n

/-- COMBINER_ROW. -/
def execCombinerRow (slot : Fin 16) (row : Nat) (s : State) : Out3 := ok s ((s.combine slot.val row).settle)

end Sys2Proof.Machine
end

