-- ==== Sys2Proof/Machine/Reedbed.lean ====
section
/-! DEFINITION. The Reedbed (MM class): issue checks, the panel path, passes, preloads and drains (chapter 4). -/
namespace Sys2Proof.Machine

/-! ### Issue checks (R82, R83, R95, R96, R98, R113) -/

/-- The size of an MM operand along its reduction dimension. -/
def TDesc.kDim (d : TDesc) : Nat := d.dim d.rdim

/-- The size of an MM operand along the other of dimensions 0 and 1. -/
def TDesc.oDim (d : TDesc) : Nat := d.dim (1 - d.rdim)

/-- The linear index of reduction index k and other index j. -/
def TDesc.kIndex (d : TDesc) (k j : Nat) : Nat := if d.rdim = 0 then k + d.n0 * j else j + d.n0 * k

/-- Formats the Reedbed multiplies (R83). -/
def Fmt.reed : Fmt → Bool
  | .l8 | .l8w | .l16 => true | _ => false

/-- Formats a preload accepts (R95). -/
def Fmt.preload : Fmt → Bool
  | .l16 | .l32 => true | _ => false

/-- Two dimensions only. -/
def TDesc.flat (d : TDesc) : Bool := d.n2 = 1 && d.n3 = 1

/-- A legal A or B operand. -/
def TDesc.reedOperand (d : TDesc) : Bool := d.legal Fmt.reed && d.rdim ≤ 1 && d.flat

/-- The bank an instruction names. -/
def bankIx (a : TArgs) : Fin 2 := ⟨xfOf a 80 1, by have : xfOf a 80 1 < 2 := Nat.mod_lt _ (by decide); exact this⟩

/-- A legal destination in memory of a drain (R97 to R99). -/
def TDesc.drainDst (d : TDesc) (blkdir : Nat) : Bool :=
  d.legalDst Fmt.log && d.flat && d.n0 ≤ 32 && d.n1 ≤ 1024 && (!d.fmt.scaled || d.rdim = blkdir)

/-- The legality of a drain's destination, to memory or to the combiner for m × n (R98, R113, R118). -/
def TIn.drainOk (i : TIn) (t m n : Nat) : Bool :=
  let blkdir := xfOf i.a 86 1
  if xfOf i.a 87 1 = 0 then (i.td 0).drainDst blkdir
  else
    let g := i.d.getD 0 0
    !rgdBad g t && (rgdRoot g.toNat ≠ t || resultOk (TDesc.of (i.d.getD 4 0)) m n 0 blkdir)

/-- RED_GROUP: a drain to the combiner presents the slot's epoch (R113). -/
def State.drainEpoch (s : State) (i : TIn) : Bool := xfOf i.a 87 1 = 0 || s.rgdCurrent (i.d.getD 0 0).toNat

/-- Issue checks of MM.PASS. Under REUSE = 1 the B field is null (Table 7-8, R171); R86 has it ignored (DEDUCED, unsafe, log entry 48). -/
def State.mmPassPlan (s : State) (t : Fin 8) (i : TIn) : Except Nat Plan :=
  let x := s.tile t
  let last := xfOf i.a 85 1 = 1
  let reuse := xfOf i.a 84 1 = 1
  let long := xfOf i.a 83 1 = 1
  let init := xfOf i.a 81 2
  let da := i.td 1
  let db := i.td 2
  let p : PanelShape := if reuse then x.rb.futurePanel.getD ⟨da.kDim, 1, da.fmt⟩ else ⟨db.kDim, db.oDim, db.fmt⟩
  let f := x.rb.future[bankIx i.a]
  let l16 := decide (da.fmt = .l16) || decide (p.fmt = .l16)
  let target := xfOf i.a 87 1 = 1
  planIf
    [((⟨if last then .yes else .no, .yes, if reuse then .no else .yes, .no, if last then 0xFF else 0x3F, last, false, false, true⟩ :
        TUse).legal i.a, cIllegalInsn),
     (da.reedOperand && (reuse || (db.reedOperand && da.kDim = p.k)) && da.kDim ≤ (if l16 then 512 else 1024) &&
        da.oDim ≤ 1024 && p.n ≤ 32 && !(long && l16) && (!last || i.drainOk t.val da.oDim p.n), cIllegalDesc),
     (!(2 ≤ init && (!f.valid || f.long != long)) && !(init % 2 = 1 && !f.bias) &&
        (!reuse || (x.rb.futurePanel.map (·.k)) = some da.kDim), cRbState),
     (!last || s.drainEpoch i, cRedGroup)]
    ⟨da.footprint ++ (if reuse then [] else db.footprint), if last && !target then (i.td 0).footprint else [],
      da.oDim + (if last then (if target then da.oDim else (i.td 0).n1) else 0)⟩

/-- Issue checks of MM.PRELOAD. -/
def mmPreloadPlan (i : TIn) : Except Nat Plan :=
  let d := i.td 1
  let bias := xfOf i.a 88 1 = 1
  planIf
    [((⟨.no, .yes, .no, .no, 0x109, false, false, false, true⟩ : TUse).legal i.a, cIllegalInsn),
     (d.legal Fmt.preload && d.flat && d.n0 ≤ 32 && d.n1 ≤ (if bias then 1 else 1024), cIllegalDesc)]
    ⟨d.footprint, [], d.n1⟩

/-- Issue checks of MM.DRAIN. -/
def State.mmDrainPlan (s : State) (t : Fin 8) (i : TIn) : Except Nat Plan :=
  let f := (s.tile t).rb.future[bankIx i.a]
  let target := xfOf i.a 87 1 = 1
  planIf
    [((⟨.yes, .no, .no, .no, 0xC1, true, false, false, true⟩ : TUse).legal i.a, cIllegalInsn),
     (i.drainOk t.val f.m f.n, cIllegalDesc),
     (f.valid, cRbState),
     (s.drainEpoch i, cRedGroup)]
    ⟨[], if target then [] else (i.td 0).footprint, if target then f.m else (i.td 0).n1⟩

/-- What an issued MM operation will leave of the banks and the panel (R96). -/
def Reedbed.issued (rb : Reedbed) (op : TOp) (i : TIn) : Reedbed :=
  let b := bankIx i.a
  let f := rb.future[b]
  let long := xfOf i.a 83 1 = 1
  match op with
  | .mmPass =>
    let p : Option PanelShape := if xfOf i.a 84 1 = 1 then rb.futurePanel else some ⟨(i.td 2).kDim, (i.td 2).oDim, (i.td 2).fmt⟩
    { rb with
      futurePanel := p
      future := rb.future.set b ⟨true, if 2 ≤ xfOf i.a 81 2 then f.long else long, f.bias, (i.td 1).oDim, (p.map (·.n)).getD 1⟩ }
  | .mmPreload =>
    { rb with future := rb.future.set b (if xfOf i.a 88 1 = 1 then { f with bias := true }
        else ⟨true, long, f.bias, (i.td 1).n1, (i.td 1).n0⟩) }
  | .kvAttn => { rb with futurePanel := none, future := Vector.replicate 2 ⟨false, false, false, 0, 0⟩ }
  | _ => rb

/-! ### The panel path (R85) -/

/-- An MM operation that has not begun, or an unretired KV.ATTN, which holds the Reedbed until it retires (R84, R297). -/
def OpRec.unbegun (r : OpRec) : Bool := (r.op.cls = 0 && (r.st = .wait || r.st = .wake || r.st = .queued)) || r.op = .kvAttn

/-- The oldest operation a test holds of, with its tag. -/
def Tile.oldest (x : Tile) (p : OpRec → Bool) : Option (Nat × OpRec) :=
  x.ops.foldl (fun b e => if p e.2 then (match b with
    | none => some e
    | some q => if e.2.seq < q.2.seq then some e else b) else b) none

/-- The oldest MM operation not begun (R84). -/
def Tile.rbHead (x : Tile) : Option (Nat × OpRec) := x.oldest OpRec.unbegun

/-- Change the Reedbed. -/
def State.onRb (s : State) (t : Fin 8) (f : Reedbed → Reedbed) : State := s.onTile t (fun x => { x with rb := f x.rb })

/-- A pass that has not begun and brings its own panel. -/
def OpRec.bringsPanel (r : OpRec) : Bool := r.op = .mmPass && r.unbegun && r.xfb 84 1 = 0

/-- The oldest pass in the Reedbed's queue whose panel has not been fetched, while a landing slot stays free for each earlier pass: the
panel registers are used in issue order (Table 8-3; DEDUCED, unsafe, log entry 48). -/
def Tile.nextFetch (x : Tile) : Option (Nat × OpRec) :=
  match x.oldest (fun r => r.bringsPanel && r.st = .queued && r.phase = 0) with
  | some (tag, r) =>
    if x.rb.landing.length + (x.ops.filter (fun o => o.2.bringsPanel && o.2.phase = 0 && decide (o.2.seq < r.seq))).length < 3 then some (tag, r) else none
  | none => none

/-- A panel read whole, as (value, scale byte) by reduction index and column. -/
def panelOf (seq : Nat) (d : TDesc) (cs : List (Nat × Nat)) : Panel :=
  ⟨seq, d.kDim, d.oDim, d.fmt, d.tso, (List.range d.kDim).flatMap (fun k => (List.range d.oDim).map (fun n =>
    let c := (cs[d.kIndex k n]?).getD (0, 0)
    (codeVal d.fmt d.tso c, c.2)))⟩

/-! ### Accumulation (R88 to R94) -/

/-- One product (R63 to R65). -/
def product (a b : Val) : Cls × Dy :=
  match vMul a b with
  | .fin s e => (.fin, productDy s (fdiv e step16))
  | .zero => (.fin, .zero)
  | v => (v.cls, .zero)

/-- A DPU's in-unit sum: exact, or with an L16 operand rounded once below 2^(emax - 90) (R88). -/
def inUnit (l16 : Bool) (ps : List (Cls × Dy)) : Cls × Dy :=
  let c := ps.foldl (fun c p => c.comb p.1) .fin
  let vs := ps.filterMap (fun p => if p.1 = .fin ∧ p.2.m ≠ 0 then some p.2 else none)
  let sum := vs.foldl Dy.add .zero
  (c, if l16 && vs ≠ [] then sum.roundGrain (maxInt (vs.map Dy.exp) - 90) else sum)

/-- The pair of an in-unit sum. -/
def pairOf (u : Cls × Dy) : Pair := if u.1 = .fin then .ofDy u.2 else .ofCls u.1

/-- What one DPU row contributes to an output: the products of its slice, and the scale bytes of the slice's block pair. -/
structure Slice where
  ps : List (Cls × Dy)
  ea : Nat
  eb : Nat

/-- The column sum of R89. -/
def columnStd (l16 : Bool) (sl : List Slice) : Pair := sl.foldl (fun p x => pairAdd p (pairOf (inUnit l16 x.ps))) .zero

/-- A column of a Long pass into an entry (R91, R92); `ts` is TSOa + TSOb. -/
def columnLong (ts : Int) (sl : List Slice) (e : LEntry) : LEntry :=
  sl.foldl (fun e x =>
    let scaled := 1 ≤ x.ea && x.ea ≤ 254 && 1 ≤ x.eb && x.eb ≤ 254
    if scaled then
      let an := ((x.ea : Int) - 127) + ((x.eb : Int) - 127) + fdiv ts 128
      x.ps.foldl (fun e p => if p.1 = .fin ∧ p.2.m = 0 then e else e.addProduct an p.1 p.2) (e.fix an)
    else x.ps.foldl (fun e p => e.addHeld p.1 p.2) e) e

/-- The 32 slices of an output. -/
def slices (a : List (Val × Nat)) (p : Panel) (l n : Nat) : List Slice :=
  (List.range 32).map (fun r =>
    let ks := (List.range l).filterMap (fun j => if l * r + j < p.k ∧ n < p.n then some (l * r + j) else none)
    let pa (k : Nat) : Val × Nat := (a[k]?).getD (.zero, 0)
    let pb (k : Nat) : Val × Nat := (p.cells[k * p.n + n]?).getD (.zero, 0)
    ⟨ks.map (fun k => product (pa k).1 (pb k).1), ((ks.head?).map (fun k => (pa k).2)).getD 0, ((ks.head?).map (fun k => (pb k).2)).getD 0⟩)

/-- A bank entry. -/
def Bank.entry (b : Bank) (m n : Nat) : Entry := b.entries.getD (m * 32 + n) (.zero b.long)

/-- Write a bank entry. -/
def Bank.put (b : Bank) (m n : Nat) (e : Entry) : Bank := { b with entries := b.entries.set (.zero b.long) (m * 32 + n) e }

/-- A bias value of a column. -/
def Bank.biasAt (b : Bank) (n : Nat) : Cls × Dy := (b.bias[n]?).getD (.fin, .zero)

/-- A value as an entry starts from it: the pair (value, 0), or held until the anchor is fixed (R94). -/
def Entry.ofLin (long : Bool) (v : Cls × Dy) : Entry := if long then .long (LEntry.zero.addHeld v.1 v.2) else .std (pairOf v)

/-- Add a bias value to an entry (INIT = ACC_BIAS). -/
def Entry.addLin (e : Entry) (v : Cls × Dy) : Entry :=
  match e with
  | .std p => .std (pairAdd p (pairOf v))
  | .long l => .long (l.addHeld v.1 v.2)

/-- The entry a pass starts from (Table 4-5). -/
def Bank.start (b : Bank) (init : Nat) (long : Bool) (p : Panel) (m n : Nat) : Entry :=
  match init with
  | 0 => .zero long
  | 1 => if n < p.n then .ofLin long (b.biasAt n) else .zero long
  | 2 => b.entry m n
  | _ => if n < p.n then (b.entry m n).addLin (b.biasAt n) else b.entry m n

/-- The overflow class of an entry. -/
def Entry.ovf : Entry → Bool
  | .std p => p.cls = .ovfP || p.cls = .ovfN
  | .long _ => false

/-- One entry after a pass. -/
def passEntry (long l16 : Bool) (ts : Int) (sl : List Slice) (e : Entry) : Entry :=
  match e with
  | .std p => .std (pairAdd p (columnStd l16 sl))
  | .long l => if long then .long (columnLong ts sl l) else .long l

/-- The bank after a pass of `mr` rows of A, and the entries that entered an overflow class (R82, R87 to R94). -/
def Bank.pass (b : Bank) (init : Nat) (long : Bool) (p : Panel) (fa : Fmt) (ta : Int) (mr : Nat) (row : Nat → List (Val × Nat)) : Bank × Nat :=
  let l16 := decide (fa = .l16) || decide (p.fmt = .l16)
  let l := if l16 then 16 else 32
  let b0 : Bank := if init < 2 then { b with valid := true, long := long, m := mr, n := p.n, entries := [] } else { b with m := mr, n := p.n }
  (List.range mr).foldl (fun acc m =>
    (List.range 32).foldl (fun acc n =>
      let e0 := b.start init long p m n
      let e := passEntry long l16 (ta + p.tso) (slices (row m) p l n) e0
      (acc.1.put m n e, acc.2 + (if e.ovf && !e0.ovf then 1 else 0))) acc) (b0, 0)

/-- The bank of an operation. -/
def OpRec.bank (r : OpRec) : Fin 2 := ⟨r.xfb 80 1, by have : r.xfb 80 1 < 2 := Nat.mod_lt _ (by decide); exact this⟩

/-- Free contents of a bank entry (DESIGN CHOICE, safe, log entry 5). -/
def freeEntry (long : Bool) (x y : Nat) : Entry :=
  let c : Cls := match x % 8 with | 0 => .pinf | 1 => .ninf | 2 => .nan (y % 2 = 0) | _ => .fin
  if long then .long ⟨c, sext 160 y, some (sext 16 (x / 8)), x / 524288 % 2 = 1, []⟩
  else .std ⟨c, .ofSigned (x / 8 % 2 = 1) (x / 16 % 2 ^ 30) (sext 10 (x / 2 ^ 40)), .ofSigned (y % 2 = 1) (y / 2 % 2 ^ 30) (sext 10 (y / 2 ^ 40))⟩

/-- A pass or preload whose read faulted leaves its extent of the bank with free contents (R178, DESIGN CHOICE, safe, log entry 5). -/
def State.scrambleBank (s : State) (t : Fin 8) (bi : Fin 2) (long : Bool) (m n : Nat) : State :=
  (s.onRb t (fun rb =>
    let b0 : Bank := { rb.banks[bi] with valid := true, long := long, m := m, n := n, entries := [] }
    { rb with banks := rb.banks.set bi ((List.range (m * n)).foldl (fun b i =>
        b.put (i / n) (i % n) (freeEntry long (s.free (2 * i)) (s.free (2 * i + 1)))) b0) })).drawn

/-! ### Drains (R97 to R102) -/

/-- Apply unless an operation has trapped or is held at its trap. -/
def State.unlessTrapped (s : State) (t : Fin 8) (tag : Nat) (f : State → State) : State :=
  match (s.tile t).ops.find? tag with
  | some r => if r.trapped || r.trap.isSome then s else f s
  | none => s

/-- A bank's part of a reduction group: a REDUCE message a row (R114). -/
def OpRec.combPart (r : OpRec) (t : Nat) (b : Bank) : CombPart :=
  ⟨t, r, (r.d.getD 0 0).toNat, b.m, b.n, b.long, 0, (List.range b.m).map (fun i => rowBytes ((List.range 32).map (fun j => (b.entry i j).settle)))⟩

/-- The cycles a drain waits for its write path or its combiner input are timing: a free number (R101, R124, DESIGN CHOICE, safe, log entry 5). -/
def State.drainStall (s : State) (t : Fin 8) : State := (s.count F.RB_CNT_STALL_DRAIN_COUNT t.val (s.free 0)).drawn

/-- A drain that read an entry with LONG_INEXACT (R107). -/
def State.markLx (s : State) (t : Fin 8) (tag : Nat) (any : Bool) : State :=
  if any then s.onTile t (fun x => match x.ops.find? tag with
    | some r => { x with ops := x.ops.put tag { r with phase := phaseLx } }
    | none => x) else s

/-- Drain a bank (R97 to R100): encode it into DST, or send its rows to the combiner. -/
def State.drain (s0 : State) (t : Fin 8) (tag : Nat) (r : OpRec) : State :=
  let s := s0.drainStall t
  let b := (s.tile t).rb.banks[r.bank]
  if r.xfb 87 1 = 1 then
    (s.onTile t (fun x => { x with ops := x.ops.put tag { r with st := .run, pos := r.total - b.m } })).sendPart (r.combPart t.val b)
  else
    let d := r.td 0
    let at_ (i : Nat) : Entry := b.entry (i / d.n0) (i % d.n0)
    let lx := (List.range d.count).filterMap (fun i => if (at_ i).lx then some (i / d.n0, i % d.n0) else none)
    let desc := descIx r.insn 0
    ((((s.lxRecord t tag desc r.iaddr lx).finishOp t tag r unitRb
      [⟨0, (List.range d.count).map (fun i => (at_ i).toVal), r.rnd 32⟩]).claim (.op t.val r.seq)).unlessTrapped t tag (fun s => s.markLx t tag (lx ≠ [])))

/-! ### Running MM operations (R84 to R87, R94, R95) -/

/-- A value's bank image (R94). -/
def preloadLin (f : Fmt) (v : Val) : Cls × Dy := v.lin (f = .l32)

/-- Run MM.PRELOAD (R95). -/
def State.runPreload (s : State) (t : Fin 8) (tag : Nat) (r : OpRec) : State :=
  let d := r.td 1
  let long := r.xfb 83 1 = 1
  match s.readOp t r 1 with
  | .error e =>
    let s1 := if r.xfb 88 1 = 1 then s.onRb t (fun rb => { rb with banks := rb.banks.set r.bank { rb.banks[r.bank] with
        biasValid := true, bias := (List.range 32).map (fun i => (.fin, ⟨sext 30 (s.free i), sext 10 (s.free i / 2 ^ 30)⟩)) } }) |>.drawn
      else s.scrambleBank t r.bank long d.n1 d.n0
    s1.opFaulted t tag [] e
  | .ok vs =>
    let lin (i : Nat) : Cls × Dy := preloadLin d.fmt (valAt vs i)
    ((s.tookSrcs t r).onRb t (fun rb =>
      let b := rb.banks[r.bank]
      let b' : Bank := if r.xfb 88 1 = 1 then
          { b with biasValid := true, bias := (List.range 32).map (fun n => if n < d.n0 then lin n else (.fin, .zero)) }
        else (List.range d.count).foldl (fun b i => b.put (i / d.n0) (i % d.n0) (Entry.ofLin long (lin i)))
          { b with valid := true, long := long, m := d.n1, n := d.n0, entries := [] }
      { rb with banks := rb.banks.set r.bank b' })).opOver t tag 0

/-- The end of a pass: its final bank update, or its chasing drain (R99, R102). -/
def State.passEnd (s : State) (t : Fin 8) (tag : Nat) (r : OpRec) : State := if r.xfb 85 1 = 1 then s.drain t tag r else s.opOver t tag 0

/-- Run MM.PASS against the active panel, and its chasing drain (R82, R86 to R94, R99). Under REUSE = 1, after a pass whose panel could not be
read, that is the panel active before it, and with none the bank takes free contents (R178; DESIGN CHOICE, unsafe, log entry 46). -/
def State.runPass (s : State) (t : Fin 8) (tag : Nat) (r : OpRec) : State :=
  let d := r.td 1
  let long := r.xfb 83 1 = 1
  let s := (s.count F.RB_CNT_PASS_COUNT t.val 1).count F.RB_CNT_ROW_COUNT t.val d.oDim
  match (s.tile t).rb.active, s.codesOp t r 1 with
  | none, _ => (s.scrambleBank t r.bank long d.oDim 32).passEnd t tag r
  | some p, .error e => (s.scrambleBank t r.bank long d.oDim p.n).opFaulted t tag [] e
  | some p, .ok cs =>
    let row (m : Nat) : List (Val × Nat) := (List.range d.kDim).map (fun k =>
      let c := (cs[d.kIndex k m]?).getD (0, 0)
      (codeVal d.fmt d.tso c, c.2))
    let o := (s.tile t).rb.banks[r.bank].pass (r.xfb 81 2) long p d.fmt d.tso d.oDim row
    (((s.tookVas t (d.allCells)).onRb t (fun rb => { rb with banks := rb.banks.set r.bank o.1 })).count F.RB_CNT_ACC_OVF_COUNT t.val o.2).passEnd t tag r

/-- A pass whose panel could not be read (phase 2) faults when its turn comes; a panel that can be read by then is fetched again. -/
def State.panelFault (s : State) (t : Fin 8) (tag : Nat) (r : OpRec) : State :=
  match s.codesOp t r 2 with
  | .error e => (s.scrambleBank t r.bank (r.xfb 83 1 = 1) (r.td 1).oDim (r.td 2).oDim).opFaulted t tag [] e
  | .ok _ => s.onTile t (fun x => { x with ops := x.ops.put tag { r with phase := 0 } })

/-- Preloads and drains begin by themselves when every earlier MM operation has begun (R84). -/
def State.rbAdvance (s : State) (t : Fin 8) : Nat → State
  | 0 => s
  | k + 1 =>
    match (s.tile t).rbHead with
    | some (tag, r) =>
      if r.st = .queued ∧ !s.opReadsOut t r.seq then
        match r.op with
        | .mmPreload => (s.runPreload t tag r).rbAdvance t k
        | .mmDrain => (s.drain t tag r).rbAdvance t k
        | .mmPass => if r.phase = 2 then (s.panelFault t tag r).rbAdvance t k else s
        | _ => s
      else s
    | none => s

/-- Let the Reedbed begin what it can; 256 operations at most are unretired. -/
def State.rbRun (s : State) (t : Fin 8) : State := s.rbAdvance t 256

/-- Fetch the next panel (R85). -/
def State.panelFetch (s : State) (t : Fin 8) : State :=
  if !s.unitsRun t || 3 ≤ (s.tile t).rb.landing.length then s
  else match (s.tile t).nextFetch with
    | none => s
    | some (tag, r) =>
      if s.opReadsOut t r.seq then s
      else match s.codesOp t r 2 with
      | .error _ => (s.onTile t (fun x => { x with ops := x.ops.put tag { r with phase := 2 } })).rbRun t
      | .ok cs => ((s.tookVas t (r.td 2).allCells).onRb t (fun rb => { rb with landing := rb.landing ++ [panelOf r.seq (r.td 2) cs] })).onTile t (fun x =>
          { x with ops := x.ops.put tag { r with phase := 1 } })

/-- PANEL_FETCH (R85). -/
def execPanelFetch (t : Fin 8) (s : State) : Out3 := ok s (s.panelFetch t).settle

/-- The landed panel of the oldest pass that is to bring one: panels enter the shadow in issue order (R84, Table 8-3). -/
def Tile.firstLanded (x : Tile) : Option Panel := (x.oldest OpRec.bringsPanel).bind (fun o => x.rb.landing.find? (fun p => p.seq = o.2.seq))

/-- PANEL_TO_SHADOW (R85): a whole landed panel moves once the shadow is empty. -/
def execPanelToShadow (t : Fin 8) (s : State) : Out3 :=
  ok s (if !s.unitsRun t || (s.tile t).rb.shadow.isSome then s
    else match (s.tile t).firstLanded with
      | none => s
      | some p => s.onRb t (fun rb => { rb with shadow := some p, landing := rb.landing.filter (fun q => decide (q.seq ≠ p.seq)) }))

/-- Start the pass at the head of the order: its panel becomes active and the shadow is freed, or it reuses the active panel
(R84 to R87). -/
def State.passStart (s : State) (t : Fin 8) : State :=
  if !s.unitsRun t then s
  else match (s.tile t).rbHead with
    | none => s
    | some (tag, r) =>
      if r.op ≠ .mmPass ∨ r.st ≠ .queued ∨ s.opReadsOut t r.seq then s
      else if r.xfb 84 1 = 1 then (s.runPass t tag r).rbRun t
      else match (s.tile t).rb.shadow with
        | none => s
        | some p =>
          if p.seq = r.seq then ((s.onRb t (fun rb => { rb with active := some p, shadow := none })).runPass t tag r).rbRun t
          else s

/-- PASS_START (R87). -/
def execPassStart (t : Fin 8) (s : State) : Out3 := ok s (s.passStart t).settle

end Sys2Proof.Machine
end

