-- ==== Sys2Proof/Machine/Tdm.lean ====
section
/-! DEFINITION. The TDM engines (MV class; R46, R173, R174, R225 to R229, R239): issue checks, conversions, byte copies by
descriptor, blocks and failures. -/
namespace Sys2Proof.Machine

/-! ### Issue checks -/

/-- Bytes a destination receives: elements, and scale bytes or the low array (Table 8-6). -/
def TDesc.allBytes (d : TDesc) : Nat :=
  d.count * d.fmt.bytes + (if d.fmt.scaled then d.blocks.length else if d.fmt = .l32s then 2 * d.count else 0)

/-- MV.COPY is a byte copy: equal FMT and TSO, and for block formats equal block dimensions. -/
def byteCopy (d s : TDesc) : Bool := d.fmtc = s.fmtc && d.tso = s.tso && (!d.fmt.scaled || d.rdim = s.rdim)

/-- Fields of the MV operations (Table 7-9); ENG codes 5 to 7 are reserved. -/
def TOp.mvLegal (op : TOp) (a : TArgs) : Bool :=
  let u : TUse := match op with
    | .mvFill => ⟨.yes, .no, .no, .no, 7, false, true, false, true⟩
    | .mvGather => ⟨.yes, .yes, .yes, .no, 7, true, false, false, true⟩
    | _ => ⟨.yes, .yes, .no, .no, 7, true, false, false, true⟩
  u.legal a && xfOf a 80 3 ≤ 4

/-- The descriptors of an MV operation are legal (R35, R46, R168, R173, R174). -/
def TOp.mvDescs (op : TOp) (d0 d1 d2 : TDesc) : Bool :=
  match op with
  | .mvFill => d0.legalDst Fmt.log
  | .mvCopy => d0.legalDst anyFmt && d1.legal anyFmt && d0.sameShape d1 && (d0.fmt ≠ .l32s || byteCopy d0 d1)
  | .mvTrans => d0.legalDst Fmt.log && d1.legal Fmt.log && d0.n0 = d1.n1 && d0.n1 = d1.n0 && d0.n2 = d1.n2 && d0.n3 = d1.n3
  | _ => d0.legalDst Fmt.log && d1.legal Fmt.log && d2.legal (fun f => f = .l32) && d2.tso = 0 && d0.n0 = d1.n0 &&
      d0.n2 = d1.n2 && d0.n3 = d1.n3 && d2.count = d0.n1

/-- Issue checks of an MV operation. -/
def mvPlan (op : TOp) (i : TIn) : Except Nat Plan :=
  let d0 := i.td 0
  planIf
    [(op.mvLegal i.a, cIllegalInsn), (op.mvDescs d0 (i.td 1) (i.td 2), cIllegalDesc)]
    ⟨footprints [i.opt 1, i.opt 2], d0.footprint, d0.allBytes⟩

/-! ### Conversions inside an engine -/

/-- The source's linear index for a destination's linear index of MV.TRANS: dimensions 0 and 1 exchanged. -/
def TDesc.transIx (d s : TDesc) (i : Nat) : Nat := s.index (d.coord i 1) (d.coord i 0) (d.coord i 2) (d.coord i 3)

/-- Destination values of a conversion from the sources' codes; an index out of range selects a created NaN (R174). A copy from L32S to L32
or to IEEE converts the exact value, and one from IEEE to IEEE goes through it (R46, R48; DEDUCED, unsafe, log entry 45). -/
def mvValues (op : TOp) (d s : TDesc) (cs idx : List (Nat × Nat)) : List Val :=
  let val (i : Nat) : Val := cvtVal d.fmt s.fmt s.tso ((cs[i]?).getD (0, 0))
  (List.range d.count).map (fun i =>
    match op with
    | .mvTrans => val (d.transIx s i)
    | .mvGather =>
      let row := ((idx[d.coord i 1]?).getD (0, 0)).1
      if row < s.n1 then val (s.index (d.coord i 0) row (d.coord i 2) (d.coord i 3)) else .nan true
    | _ => val i)

/-- Count bytes an engine has written. -/
def State.tdmBytes (s : State) (t : Fin 8) (e n : Nat) : State := s.count F.TDM_CNT_BYTES_COUNT t.val n e

/-- A block NaN that an out-of-range row of MV.GATHER brought is created (R174). -/
def gatherNans (d : TDesc) (vs : List Val) (nans : List (Nat × Bool)) : List (Nat × Bool) :=
  if d.fmt.scaled then nans.map (fun n => (n.1, n.2 ||
    ((d.blocks.find? (fun b => b.contains n.1)).getD []).any (fun i => valAt vs i = .nan true))) else nans

/-- Run a conversion in engine e. -/
def State.runConvert (s : State) (t : Fin 8) (tag : Nat) (r : OpRec) (e : Nat) : State :=
  let d := r.td 0
  match s.codesOp t r 1, (if r.op = .mvGather then s.codesOp t r 2 else .ok []) with
  | .error f, _ => s.opFaulted t tag [d] f
  | _, .error f => s.opFaulted t tag [d] f
  | .ok cs, .ok idx =>
    match s.dstOk t r 0 with
    | .error f => s.opFaulted t tag [d] f
    | .ok _ =>
      let vs := mvValues r.op d (r.td 1) cs idx
      let o := d.encode (if r.op = .mvCopy then r.cvtRnd 32 else r.rnd 32) vs
      let bad := s.statPoison t d o.counts vs
      let s := ((s.tookSrcs t r).storeCodes t d o.codes).tdmBytes t e d.allBytes
      let s := (s.addCounts t d o.counts).addStats t d vs
      (s.recordNans t ⟨unitTdm e, r.tag, r.iaddr, descIx r.insn 0, r.seq⟩ d
        (if r.op = .mvGather then gatherNans d vs o.nans else o.nans)).opDoneOr t tag (descIx r.insn 0) bad

/-- Run MV.FILL: one code, and one scale byte, everywhere; it rounds nothing. -/
def State.runFill (s : State) (t : Fin 8) (tag : Nat) (r : OpRec) (e : Nat) : State :=
  let d := r.td 0
  let c : Nat × Nat := (bits r.ga.toNat 0 (8 * d.fmt.bytes), if d.fmt.scaled then bits r.ga.toNat 32 8 else 0)
  match s.dstOk t r 0 with
  | .error f => s.opFaulted t tag [d] f
  | .ok _ =>
    let nans := if (codeVal d.fmt d.tso c).isNan then (List.range d.count).map (fun i => (i, false)) else []
    (((s.storeCodes t d (List.replicate d.count c)).tdmBytes t e d.allBytes).recordNans t
      ⟨unitTdm e, r.tag, r.iaddr, descIx r.insn 0, r.seq⟩ d nans).opDone t tag

/-! ### Byte copies: expansion into descriptors (R225) -/

/-- A two-dimensional copy: source, destination, bytes per row, rows, strides. -/
structure Copy2 where
  src : Nat
  dst : Nat
  len : Nat
  rows : Nat
  ss : Nat
  ds : Nat
  deriving DecidableEq, Repr

/-- Elements a row chunk holds at most, so that ROWLEN can name its bytes. -/
abbrev rowChunk : Nat := 4194304

/-- The element rows of a tensor pair, a chunk of dimension 0 at a time. -/
def elemCopies (s d : TDesc) (esz : Nat) (sa da : Nat → Nat) : List Copy2 :=
  (List.range d.n3).flatMap (fun c3 => (List.range d.n2).flatMap (fun c2 =>
    (List.range ((d.n0 + rowChunk - 1) / rowChunk)).map (fun j =>
      let n := min rowChunk (d.n0 - j * rowChunk)
      let i (c1 : Nat) : Nat := d.index (j * rowChunk) c1 c2 c3
      let k (c1 : Nat) : Nat := s.index (j * rowChunk) c1 c2 c3
      ⟨sa (k 0), da (i 0), n * esz, d.n1, if d.n1 = 1 then 0 else sa (k 1) - sa (k 0), if d.n1 = 1 then 0 else da (i 1) - da (i 0)⟩)))

/-- The scale bytes of a block-format pair with equal block dimensions. -/
def scaleCopies (s d : TDesc) : List Copy2 :=
  let step (k : Nat) : Nat := if d.rdim = k then 32 else 1
  let cnt (k : Nat) : Nat := (d.dim k + step k - 1) / step k
  (List.range (cnt 3)).flatMap (fun c3 => (List.range (cnt 2)).map (fun c2 =>
    let i (c1 : Nat) : Nat := d.index 0 (c1 * step 1) (c2 * step 2) (c3 * step 3)
    ⟨s.saddr (i 0), d.saddr (i 0), cnt 0, cnt 1, if cnt 1 = 1 then 0 else s.saddr (i 1) - s.saddr (i 0),
      if cnt 1 = 1 then 0 else d.saddr (i 1) - d.saddr (i 0)⟩))

/-- The descriptors a byte copy expands into: elements, then scale bytes or low arrays (Table 7-9). -/
def copyList (s d : TDesc) : List Copy2 :=
  elemCopies s d d.fmt.bytes s.eaddr d.eaddr ++
    (if d.fmt.scaled then scaleCopies s d else if d.fmt = .l32s then elemCopies s d 2 s.saddr d.saddr else [])

/-- A descriptor enters the tile's pool on an engine. -/
def Tile.addDesc (x : Tile) (e : Nat) (o : TdmOwner) (c : Copy2) (flags caddr cval : Nat) : Tile :=
  { x with
    tdm := x.tdm ++ [⟨x.tdmNext, e, o, c.src, c.dst, c.len, c.rows, flags, c.ss, c.ds, caddr, cval, false, 0, none, 0, none, none⟩]
    tdmNext := x.tdmNext + 1 }

/-- Descriptors bound to an engine. -/
def Tile.bound (x : Tile) (e : Nat) : Nat := (x.tdm.filter (fun d => decide (d.engine = e))).length

/-! ### Starting MV operations (R191, R229) -/

/-- The engine an MV operation names, if any. -/
def OpRec.eng (r : OpRec) : Option Nat := if r.xfb 80 3 < 4 then some (r.xfb 80 3) else none

/-- The engine an MV operation is bound to: the one it names, or the one it was given at dispatch. -/
def OpRec.engine (r : OpRec) : Nat := r.eng.getD (r.work.headD 0)

/-- An MV operation that has not started its use of an engine. -/
def OpRec.mvWaiting (r : OpRec) : Bool := r.op.cls = 3 && (r.st = .wait || r.st = .wake || r.st = .queued)

/-- Operations bound to an engine and waiting for it, and its descriptors. -/
def Tile.load (x : Tile) (e : Nat) : Nat :=
  x.bound e + (x.ops.filter (fun p => p.2.op.cls = 3 && p.2.st = .queued && p.2.engine = e)).length

/-- The engine ENG = 4 binds at dispatch: the lowest with the least bound to it (DESIGN CHOICE, unsafe, log entry 15). -/
def Tile.freeEngine (x : Tile) : Nat :=
  ([1, 2, 3] : List Nat).foldl (fun b e => if x.load e < x.load b then e else b) 0

/-- A QUEUED MV operation may start: no older one that names its engine still waits, and a descriptor is free (R191, R196, R229). -/
def Tile.mvMay (x : Tile) (r : OpRec) : Bool :=
  r.op.cls = 3 && r.st = .queued &&
    (match r.eng with
     | none => true
     | some e => x.ops.all (fun p => !(p.2.mvWaiting && p.2.eng = some e && decide (p.2.seq < r.seq)))) &&
    x.tdm.length < 64

/-- An MV operation with descriptors still to form: `phase` counts those formed, and `work` holds its engine. -/
def OpRec.mvForming (r : OpRec) : Bool :=
  r.op = .mvCopy && r.st = .run && r.trap.isNone && byteCopy (r.td 0) (r.td 1) && decide (r.phase < (copyList (r.td 1) (r.td 0)).length)

/-- Form a byte copy's descriptors while the pool has room (R229). -/
def Tile.formDescs (x : Tile) (tag : Nat) (r : OpRec) : Tile :=
  let e := r.work.headD 0
  let n := 64 - x.tdm.length
  let cs := ((copyList (r.td 1) (r.td 0)).drop r.phase).take n
  let y := cs.foldl (fun y c => y.addDesc e (.mv r.seq) c 0 0 0) x
  { y with ops := y.ops.put tag { r with phase := r.phase + cs.length } }

/-- Start one MV operation. -/
def State.mvStart (s : State) (t : Fin 8) (tag : Nat) (r : OpRec) : State :=
  let e := r.engine
  if r.op = .mvFill then (s.runFill t tag r e).claim (.op t.val r.seq)
  else if r.op = .mvCopy && byteCopy (r.td 0) (r.td 1) then
    s.onTile t (fun x => x.formDescs tag { r with st := .run, work := [e] })
  else (s.runConvert t tag r e).claim (.op t.val r.seq)

/-- Feed the engines: first the oldest copy still forming descriptors, then the oldest that may start. -/
def State.mvPump (s : State) (t : Fin 8) : Nat → State
  | 0 => s
  | k + 1 =>
    let x := s.tile t
    match (if x.tdm.length < 64 then x.oldest OpRec.mvForming else none) with
    | some (tag, r) => (s.onTile t (fun x => x.formDescs tag r)).mvPump t k
    | none => match x.oldest (fun r => x.mvMay r && !s.opReadsOut t r.seq) with
      | some (tag, r) => (s.mvStart t tag r).mvPump t k
      | none => s

/-- Start what the engines can start. -/
def State.mvRun (s : State) (t : Fin 8) : State := s.mvPump t 512

/-! ### Blocks (R226, R227) -/

/-- Bytes of a descriptor; `rowLen` and `rows` hold counts. -/
def TdmDesc.bytes (d : TdmDesc) : Nat := d.rowLen * d.rows

/-- Blocks of a descriptor, or those of one whose command was ended (R401). -/
def TdmDesc.blocks (d : TdmDesc) : Nat :=
  match d.cut with
  | some n => min n ((d.bytes + 65535) / 65536)
  | none => (d.bytes + 65535) / 65536

/-- The pieces of bytes [lo, lo + n) of a descriptor at one side, none across a 32-byte granule or a row. -/
def pieces (base stride rowLen : Nat) : Nat → Nat → Nat → List (Nat × Nat)
  | 0, _, _ => []
  | _, _, 0 => []
  | f + 1, lo, n + 1 =>
    let a := base + lo / rowLen * stride + lo % rowLen
    let k := min (n + 1) (min (rowLen - lo % rowLen) (32 - a % 32))
    (a % 2 ^ 48, k) :: pieces base stride rowLen f (lo + k) (n + 1 - k)

/-- The source and destination pieces of block b. -/
def TdmDesc.block (d : TdmDesc) (b : Nat) : List (Nat × Nat) × List (Nat × Nat) :=
  let n := min 65536 (d.bytes - b * 65536)
  (pieces d.src d.sstride d.rowLen n (b * 65536) n, pieces d.dst d.dstride d.rowLen n (b * 65536) n)

/-- The function a descriptor acts for. -/
def State.tdmFn (s : State) (t : Fin 8) (d : TdmDesc) : Nat :=
  match d.owner with
  | .mv _ | .kv _ => s.ownerOf t.val
  | .copy f _ _ => f
  | .ck _ => match s.ck with | some j => j.fn | none => 0

/-- Where one address of a descriptor lies. -/
def State.tdmPa (s : State) (t : Fin 8) (d : TdmDesc) (phys wr : Bool) (a : Nat) : Except MFault Nat :=
  if phys then (s.paCheck (s.tdmFn t d) a wr).map (fun _ => a)
  else if lsBase ≤ a then .error .unmapped else s.translate t (if wr then .write else .read) a

/-- SPHYS. -/
def TdmDesc.sphys (d : TdmDesc) : Bool := bits d.flags 0 1 = 1
/-- DPHYS. -/
def TdmDesc.dphys (d : TdmDesc) : Bool := bits d.flags 1 1 = 1

/-- The faults of a block: address, physical or not, and fault (R227). -/
def State.blockFaults (s : State) (t : Fin 8) (d : TdmDesc) (b : Nat) : List (Nat × Bool × Bool × MFault) :=
  let p := d.block b
  p.1.filterMap (fun c => match s.tdmPa t d d.sphys false c.1 with
    | .error e => some (c.1, d.sphys, false, e)
    | .ok pa => if s.poisonIn pa c.2 then some (c.1 / 32 * 32, d.sphys, false, .poison) else none) ++
  p.2.filterMap (fun c => match s.tdmPa t d d.dphys true c.1 with
    | .error e => some (c.1, d.dphys, true, e)
    | .ok _ => none)

/-- The TDM cause of a fault (Table 9-8). -/
def MFault.tdmCause : MFault → Nat
  | .novalid _ | .malformed _ => 0
  | .poison => 2
  | _ => 1

/-- Latch an engine's ERR record or count a further failure (R238, R239). -/
def State.tdmErr (s : State) (t : Fin 8) (d : TdmDesc) (cause addr : Nat) (phys : Bool) : State :=
  let tag := match d.owner with | .mv seq | .kv seq => ((s.tile t).tagOf seq).getD 0 | _ => 0
  if s.flag F.TDM_ERR_VALID t.val d.engine then s.count F.TDM_ERR_COUNT t.val 1 d.engine
  else s.wrs t.val d.engine [(F.TDM_ERR_VALID, 1), (F.TDM_ERR_CAUSE, cause),
    (F.TDM_ERR_HOST, match d.owner with | .copy _ _ _ => 1 | _ => 0), (F.TDM_ERR_TAG, tag), (F.TDM_ERR_COUNT, 0),
    (F.TDM_ERR_ADDR_ADDR, addr), (F.TDM_ERR_ADDR_PHYS, phys.toNat)]

/-- Replace a descriptor. -/
def Tile.putDesc (x : Tile) (d : TdmDesc) : Tile := { x with tdm := x.tdm.map (fun e => if e.id = d.id then d else e) }

/-- A descriptor of a tile. -/
def Tile.desc (x : Tile) (id : Nat) : Option TdmDesc := x.tdm.find? (fun d => d.id = id)

/-- A descriptor fails: the record, and its cause until it completes. -/
def State.tdmFail (s : State) (t : Fin 8) (d : TdmDesc) (cause addr : Nat) (phys : Bool) : State :=
  (s.tdmErr t d cause addr phys).onTile t (fun x => x.putDesc { d with failed := some cause, failAt := addr })

/-- The lowest fault of a list. -/
def lowestFault : List (Nat × Bool × Bool × MFault) → Option (Nat × Bool × Bool × MFault)
  | [] => none
  | f :: l => match lowestFault l with
    | some g => if g.1 < f.1 then some g else some f
    | none => some f

/-- The bytes of a block read, as the stacks count them (Table 9-9). -/
def State.tookBlock (s : State) (t : Fin 8) (d : TdmDesc) (b : Nat) : State :=
  (d.block b).1.foldl (fun a c => match s.tdmPa t d d.sphys false c.1 with
    | .ok pa => (a.wakeFor (some t) pa).tookBytes pa c.2
    | .error _ => a) s

/-- The physical addresses of a block's pieces, both sides, as far as they translate. -/
def State.blockPas (s : State) (t : Fin 8) (d : TdmDesc) (b : Nat) : List Nat :=
  let p := d.block b
  let at_ (wr : Bool) (a : Nat) : Option Nat := match s.tdmPa t d (if wr then d.dphys else d.sphys) wr a with
    | .ok pa => some pa
    | .error _ => none
  p.1.filterMap (fun c => at_ false c.1) ++ p.2.filterMap (fun c => at_ true c.1)

/-- A block waits for host translations (R381). -/
def State.blockAts (s : State) (t : Fin 8) (d : TdmDesc) (b : Nat) : Bool :=
  (s.fn (s.tdmFn t d)).ats && (s.blockPas t d b).any (fun a => s.atsWaits (s.tdmFn t d) a)

/-- Read a block whole. -/
def State.readBlock (s : State) (t : Fin 8) (d : TdmDesc) (b : Nat) : List Byte :=
  (d.block b).1.flatMap (fun c => match s.tdmPa t d d.sphys false c.1 with
    | .ok pa => s.readBytes (s.tdmFn t d) pa c.2
    | .error _ => List.replicate c.2 0)

/-- Write a block; the TMU has translated the block's virtual addresses (DESIGN CHOICE, unsafe, log entry 8). -/
def State.writeBlock (s : State) (t : Fin 8) (d : TdmDesc) (b : Nat) (bs : List Byte) : State :=
  let p := d.block b
  let s := s.touchPages t ((if d.sphys then [] else p.1.map (·.1)) ++ (if d.dphys then [] else p.2.map (·.1)))
  (p.2.foldl (fun (p : State × List Byte) c =>
    (match p.1.tdmPa t d d.dphys true c.1 with
     | .ok pa => (p.1.wakeFor (some t) pa).writeBytes (p.1.tdmFn t d) pa (p.2.take c.2) (.tdm t.val d.id) (match d.owner with | .ck _ => true | _ => false)
     | .error _ => p.1, p.2.drop c.2)) (s, bs)).1

/-- Read requests for the parts of a block that lie in another rank's memory, and Translation Requests for those in the host window. -/
def State.askBlock (s0 : State) (t : Fin 8) (d : TdmDesc) (b : Nat) : State :=
  let s := if (s0.fn (s0.tdmFn t d)).ats then s0.atsAsks (s0.tdmFn t d) (s0.blockPas t d b) else s0
  (d.block b).1.foldl (fun s c => match s.tdmPa t d d.sphys false c.1 with
    | .ok pa => match s.region pa with
      | .fen r off => s.request ⟨.tdm t.val d.id, mopRd, off, c.2, r, [], false⟩
      | _ => s
    | .error _ => s) s

/-- Reads of a descriptor from another rank are outstanding. -/
def State.readsOut (s : State) (t : Fin 8) (id : Nat) : Bool :=
  let mine (r : RemReq) : Bool := r.who = .tdm t.val id && r.mop = mopRd
  s.rem.any (fun e => mine e.2) || s.remWait.any mine

/-- Descriptors of the same engine that came before. -/
def Tile.before (x : Tile) (d : TdmDesc) : List TdmDesc := (x.tdm.takeWhile (fun e => decide (e.id ≠ d.id))).filter (fun e => decide (e.engine = d.engine))

/-- Start a descriptor and issue its first block's read, in its engine's order (R225, EFENCE). -/
def State.descStart (s : State) (t : Fin 8) (id : Nat) : State :=
  match (s.tile t).desc id with
  | none => s
  | some d =>
    let prev := (s.tile t).before d
    if d.started || prev.any (fun e => !e.started) || (bits d.flags 3 1 = 1 && prev ≠ []) then s
    else
      let s1 := s.onTile t (fun x => x.putDesc { d with started := true })
      if bits d.flags 4 12 ≠ 0 || (bits d.flags 2 1 = 1 && d.caddr % 8 ≠ 0) then s1.tdmFail t { d with started := true } 4 d.src d.sphys
      else s1.askBlock t d 0

/-- Progress of the MV operation that owns a descriptor. -/
def State.mvProgress (s : State) (t : Fin 8) (d : TdmDesc) (n : Nat) : State :=
  match d.owner with
  | .mv seq => match (s.tile t).tagOf seq with
    | some tag => s.onTile t (fun x => match x.ops.find? tag with
      | some r => { x with ops := x.ops.put tag { r with pos := min (r.pos + n) r.total } }
      | none => x)
    | none => s
  | _ => s

/-- The operation of a descriptor that copies elements with scale bytes or low halves: no reader sees one without the other (R39, R197), so
its writes are issued together once every block of it has been read. -/
def Tile.pairCopy (x : Tile) (d : TdmDesc) : Option OpRec :=
  match d.owner with
  | .mv seq => ((x.tagOf seq).bind (fun tag => x.ops.find? tag)).bind (fun r => if (r.td 0).auxIvl.isSome then some r else none)
  | _ => none

/-- With a block of a descriptor, every block of its operation has been read. -/
def Tile.lastBlock (x : Tile) (r : OpRec) (d : TdmDesc) : Bool :=
  !r.mvForming && d.landed + 1 = d.blocks && x.tdm.all (fun e => e.id = d.id || decide (e.owner ≠ .mv r.seq) || decide (e.blocks ≤ e.landed))

/-- Write every element of a byte copy with its scale byte or low half. -/
def State.writePairs (s : State) (t : Fin 8) (r : OpRec) (d : TdmDesc) : State :=
  match s.codesOp t r 1 with
  | .ok cs => (s.storeCodes t (r.td 0) cs).claim (.tdm t.val d.id)
  | .error _ => s

/-- The writes of a block that has been read: at once, or with the last block of a copy whose arrays change together. -/
def State.blockWrites (s : State) (t : Fin 8) (d : TdmDesc) : State :=
  match (s.tile t).pairCopy d with
  | none => s.writeBlock t d d.landed (s.readBlock t d d.landed)
  | some r => if (s.tile t).lastBlock r d then s.writePairs t r d else s

/-- A block has been read whole: its writes are issued, or the descriptor fails and writes nothing of it (R226, R227). -/
def State.blockLanded (s : State) (t : Fin 8) (id : Nat) : State :=
  match (s.tile t).desc id with
  | none => s
  | some d =>
    if !d.started || d.failed.isSome || d.bad.isSome || d.blocks ≤ d.landed || s.readsOut t id || s.blockAts t d d.landed ||
        ((s.tile t).before d).any (fun e => e.failed.isNone && e.landed < e.blocks) then s
    else match lowestFault (s.blockFaults t d d.landed) with
      | some (a, phys, wr, f) =>
        (if phys then s else s.tmuRecord t f a wr false true (match d.owner with
          | .mv seq => ((s.tile t).tagOf seq).getD 0 | _ => 0)).tdmFail t d f.tdmCause a phys
      | none =>
        let n := min 65536 (d.bytes - d.landed * 65536)
        let s1 := ((((s.tookBlock t d d.landed).blockWrites t d)).tdmBytes t d.engine n).mvProgress t d n
        let d1 := { d with landed := d.landed + 1 }
        (s1.onTile t (fun x => x.putDesc d1)).askBlock t d1 d1.landed

/-- The trap cause of a failed descriptor (R227); a remote error is ACCESS (R344). -/
def tdmTrap (cause : Nat) : Nat := match cause with | 0 => cPageFault | 2 => cMemPoison | _ => cAccess

/-- A descriptor of an MV operation has completed and left the pool: the operation ends with its last descriptor, or traps and
drops those that remain (R227, R228). -/
def State.mvDescDone (s : State) (t : Fin 8) (seq : Nat) (d : TdmDesc) : State :=
  match (s.tile t).tagOf seq with
  | none => s
  | some tag => match (s.tile t).ops.find? tag with
    | none => s
    | some r =>
      let mine (e : TdmDesc) : Bool := match e.owner with | .mv q => q = seq | _ => false
      match d.failed with
      | some c =>
        (s.onTile t (fun x => { x with tdm := x.tdm.filter (fun e => !mine e) })).raiseOp t tag (tdmTrap c) d.failAt
          (descIx r.insn 0) true
      | none =>
        if (s.tile t).tdm.any mine || r.mvForming then s
        else s.onTile t (fun x => { x with ops := x.ops.put tag { r with st := .ack, pos := r.total, acks := 0 } })

/-- A descriptor may complete: failed, or every block landed and no write of it outstanding (R228). -/
def State.descReady (s : State) (t : Fin 8) (d : TdmDesc) : Bool :=
  d.failed.isSome || ((d.started || d.cut.isSome) && d.blocks ≤ d.landed && !s.owes (fun w => w = .tdm t.val d.id))

/-- The completion write of a descriptor with CMPL (R228): done once, and the flag cleared. -/
def State.descCmpl (s : State) (t : Fin 8) (d : TdmDesc) : State :=
  match s.tdmPa t d d.dphys true d.caddr with
  | .ok pa => (s.writeBytes (s.tdmFn t d) pa (leBytes 8 d.cval) (.tdm t.val d.id)).onTile t (fun x => x.putDesc { d with flags := d.flags - 4 })
  | .error f => s.tdmFail t d f.tdmCause d.caddr d.dphys

end Sys2Proof.Machine
end

