-- ==== Sys2Proof/Machine/Ld.lean ====
section
/-! DEFINITION. Tensor operations of the LEP (LD class): LODE.SEND, LODE.MCAST, LODE.RECV and LODE.TREDUCE, and acceptance and append
of messages (R245 to R248, R255, R264, R267). -/
namespace Sys2Proof.Machine

/-! ### Issue checks -/

/-- The channel an operation sends on. -/
def ldChan (ga : Word) : Nat := bits ga.toNat 0 9
/-- The group an operation sends to. -/
def ldGroup (ga : Word) : Nat := bits ga.toNat 0 5
/-- The queue an operation receives from. -/
def ldQueue (ga : Word) : Nat := bits ga.toNat 0 8

/-- L16 or L32. -/
def ldFmt (f : Fmt) : Bool := f = .l16 || f = .l32

/-- Issue checks of LODE.SEND and LODE.MCAST; the rank rule is an issue trap against MAIN's current rank (R247). -/
def State.ldSendPlan (s : State) (t : Fin 8) (mcast : Bool) (i : TIn) : Except Nat Plan :=
  let d := i.td 1
  let rank := if mcast then s.rd F.LEP_GRP_CFG_RANK t.val (ldGroup i.ga) else s.rd F.LEP_CHAN_CFG_RANK t.val (ldChan i.ga)
  planIf
    [((⟨.no, .yes, .no, .no, 0x3FF, false, true, false, true⟩ : TUse).legal i.a, cIllegalInsn),
     (d.legal ldFmt, cIllegalDesc),
     (!s.breaksRank t 0 rank, cRank)]
    ⟨d.footprint, [], d.count * d.fmt.bytes⟩

/-- Issue checks of LODE.RECV (R264). -/
def State.ldRecvPlan (s : State) (t : Fin 8) (i : TIn) : Except Nat Plan :=
  let d := i.td 0
  planIf
    [((⟨.yes, .no, .no, .no, 0, false, true, false, true⟩ : TUse).legal i.a && s.flag F.LEP_Q_CFG_MODE t.val (ldQueue i.ga), cIllegalInsn),
     (d.legalDst ldFmt, cIllegalDesc)]
    ⟨[], d.footprint, d.count * d.fmt.bytes⟩

/-- Issue checks of LODE.TREDUCE (R267). -/
def State.treducePlan (s : State) (t : Fin 8) (i : TIn) : Except Nat Plan :=
  let d := i.td 1
  let g := i.d.getD 0 0
  planIf
    [((⟨.yes, .yes, .no, .no, 0, true, false, false, true⟩ : TUse).legal i.a, cIllegalInsn),
     (d.legal ldFmt && d.count ≤ 2 ^ 29 && !rgdBad g t.val &&
        (rgdRoot g.toNat ≠ t.val || resultOk (TDesc.of (i.d.getD 4 0)) 0 0 d.count 0), cIllegalDesc),
     (s.rgdCurrent g.toNat, cRedGroup)]
    ⟨d.footprint, [], (d.count + 31) / 32 * 384⟩

/-! ### LODE.SEND and LODE.MCAST (R245, R248, R436) -/

/-- The tile virtual address of a byte of a tensor's elements in linear order. -/
def TDesc.byteVa (d : TDesc) (k : Nat) : Nat := (d.eaddr (k / d.fmt.bytes) + k % d.fmt.bytes) % 2 ^ 48

/-- The virtual pieces of element bytes [k, k + n) of a tensor, none across an element. -/
def TDesc.bytePieces (d : TDesc) : Nat → Nat → Nat → List (Nat × Nat)
  | 0, _, _ => []
  | _, _, 0 => []
  | f + 1, k, n + 1 =>
    let m := min (n + 1) (d.fmt.bytes - k % d.fmt.bytes)
    (d.byteVa k, m) :: d.bytePieces f (k + m) (n + 1 - m)

/-- Read a message's payload: its bytes and whether it is poisoned (R436), or the fault. -/
def State.payload (s : State) (t : Fin 8) (d : TDesc) (k n : Nat) : Except VFault (List Byte × Bool) :=
  (d.bytePieces n k n).foldl (fun r c =>
    match r with
    | .error e => .error e
    | .ok (bs, p) => match s.translate t .read c.1 with
      | .error e => .error ⟨e, c.1⟩
      | .ok pa => .ok (bs ++ s.readBytes (s.ownerOf t.val) pa c.2, p || s.poisonIn pa c.2)) (.ok ([], false))

/-- An older operation of the same channel or group has not sent its last message (R191). -/
def Tile.sendBehind (x : Tile) (r : OpRec) : Bool :=
  let key (q : OpRec) : Nat := if q.op = .ldMcast then ldGroup q.ga else ldChan q.ga
  x.ops.any (fun p => p.2.op = r.op && decide (p.2.seq < r.seq) && p.2.st ≠ .ack && decide (key p.2 = key r))

/-- The channel or group of a sending operation is READY and its destinations may be reached (R342), and its MAXLEN. -/
def State.sendPath (s : State) (t : Fin 8) (r : OpRec) : Bool × Nat :=
  if r.op = .ldMcast then (s.rd F.LEP_GRP_STATE_STATE t.val (ldGroup r.ga) = 2 && s.groupReach t (ldGroup r.ga), s.rd F.LEP_GRP_CFG_MAXLEN t.val (ldGroup r.ga))
  else (s.rd F.LEP_CHAN_CRED_STATE t.val (ldChan r.ga) = 2 && s.chanReach t (ldChan r.ga), s.rd F.LEP_CHAN_CFG_MAXLEN t.val (ldChan r.ga))

/-- A sending operation offers its next message: accepted with every resource, waiting, or ended by a trap (R245, R248). -/
def State.sendNext (s : State) (t : Fin 8) (tag : Nat) (r : OpRec) : State :=
  let d := r.td 1
  let p := s.sendPath t r
  let va := d.byteVa r.pos
  if (s.tile t).sendBehind r then s
  else if !p.1 then s.raiseOp t tag cAccess va (descIx r.insn 1) true
  else
    let n := min p.2 (r.total - r.pos)
    match s.payload t d r.pos n with
    | .error f => s.opFault t tag 1 false f
    | .ok (bs, poison) =>
      let a : SendArgs := ⟨r.xfb 80 10, r.pos + n = r.total, r.pos, bs, poison, some r.seq⟩
      match (if r.op = .ldMcast then s.acceptGroup t (ldGroup r.ga) a else s.acceptChan t (ldChan r.ga) a) with
      | none => s
      | some s1 => (s1.tookVas t (d.bytePieces n r.pos n)).onTile t (fun x => { x with ops := x.ops.put tag (if r.pos + n = r.total
          then { r with st := .ack, pos := r.total, acks := 0 } else { r with st := .run, pos := r.pos + n }) })

/-- A tensor send in RUN offers its next message. -/
def State.messageAccept (s : State) (t : Fin 8) (tag : Nat) : State :=
  match (s.tile t).ops.find? tag with
  | some r => if (r.op = .ldSend ∨ r.op = .ldMcast) ∧ r.st = .run ∧ r.trap.isNone then s.sendNext t tag r else s
  | none => s

/-- MESSAGE_ACCEPT (R248). -/
def execMessageAccept (t : Fin 8) (tag : BitVec 8) (s : State) : Out3 := ok s (s.messageAccept t tag.toNat).settle

/-! ### LODE.RECV (R264) -/

/-- Bytes of a queue slot from an offset. -/
def State.slotBytes (s : State) (t : Fin 8) (q slot off n : Nat) : List Byte :=
  match (s.queue t q).ring with
  | some (.mem pa) => s.readBytes 0 (pa + slot * s.slotSize t q + off) n
  | some (.store o) => leBytes n ((s.tile t).loadLs (o + slot * s.slotSize t q + off) n)
  | none => []

/-- The payload of a queue slot has become poisoned in memory. -/
def State.slotPoison (s : State) (t : Fin 8) (q slot n : Nat) : Bool :=
  match (s.queue t q).ring with
  | some (.mem pa) => s.poisonIn (pa + slot * s.slotSize t q + 32) n
  | _ => false

/-- Write payload bytes at element bytes [k, ..) of a destination; the first address that faults. -/
def State.putPayload (s : State) (t : Fin 8) (d : TDesc) (k : Nat) (bs : List Byte) : Except VFault State :=
  match (d.bytePieces bs.length k bs.length).foldl (fun (r : Except VFault (State × List Byte)) c =>
      match r with
      | .error e => .error e
      | .ok (s, bs) => match s.translate t .write c.1 with
        | .error e => .error ⟨e, c.1⟩
        | .ok pa => .ok (s.writeBytes (s.ownerOf t.val) pa (bs.take c.2), bs.drop c.2)) (.ok (s, bs)) with
  | .error e => .error e
  | .ok p => .ok p.1

/-- The head message of a queue leaves its FIFO for an operation. -/
def State.takeHead (s : State) (t : Fin 8) (q slot : Nat) : State :=
  s.onQueue t q (fun x => { x with fifo := x.fifo.drop 1, slots := match x.slots.find? slot with
    | some sl => x.slots.put slot { sl with st := .held }
    | none => x.slots })

/-- One step of a receiving operation: release a slot whose write is acknowledged, or take the head message. -/
def State.recvStep (s : State) (t : Fin 8) (tag : Nat) (r : OpRec) : Option State :=
  let d := r.td 0
  let q := ldQueue r.ga
  let put (s : State) (f : OpRec → OpRec) : State := s.onTile t (fun x => { x with ops := x.ops.put tag (f r) })
  match r.work with
  | slot :: _ =>
    if s.opOwes t r.seq then none
    else some (put (s.releaseSlot t q slot false) (fun r =>
      if r.pos = r.total then { r with work := [], st := .ack, acks := 0 } else { r with work := [] }))
  | [] =>
    match (s.queue t q).fifo with
    | [] => none
    | slot :: _ =>
      let h := Hdr.of (((s.queue t q).slots.find? slot).map (·.hdr) |>.getD 0)
      let va := d.byteVa r.pos
      if h.kind = kQuag then
        some (((s.takeHead t q slot).releaseSlot t q slot false).raiseOp t tag cMemPoison va (descIx r.insn 0) true)
      else if r.total - r.pos < h.ln then some (s.raiseOp t tag cAccess va (descIx r.insn 0) true)
      else if s.slotPoison t q slot h.ln then
        some (((s.takeHead t q slot).releaseSlot t q slot false).raiseOp t tag cMemPoison va (descIx r.insn 0) true)
      else match s.putPayload t d r.pos (s.slotBytes t q slot 32 h.ln) with
        | .error f => some (s.opFault t tag 0 true f)
        | .ok s1 =>
          some (((s1.claim (.op t.val r.seq)).takeHead t q slot).onTile t (fun x => { x with
            ops := x.ops.put tag { r with st := .run, pos := r.pos + h.ln, work := [slot] } }))

/-- A receiving operation that can act. -/
def OpRec.receiving (r : OpRec) : Bool := r.op = .ldRecv && (r.st = .queued || r.st = .run) && r.trap.isNone

/-- Receiving operations act, the oldest of each queue first. -/
def State.recvPump (s : State) (t : Fin 8) : Nat → State
  | 0 => s
  | k + 1 =>
    let go := (s.tile t).ops.filterMap (fun p => if p.2.receiving && !(s.tile t).ops.any (fun o => o.2.receiving &&
        decide (o.2.seq < p.2.seq) && decide (ldQueue o.2.ga = ldQueue p.2.ga)) then (s.recvStep t p.1 p.2) else none)
    match go with
    | s1 :: _ => s1.recvPump t k
    | [] => s

/-- Let receiving operations take what the queues hold. -/
def State.recvRun (s : State) (t : Fin 8) : State := s.recvPump t 8192

/-- MESSAGE_APPEND (R255): the earliest written message that may be appended; a waiting LODE.RECV takes it. -/
def execMessageAppend (t : Fin 8) (q : Fin 256) (s : State) : Out3 :=
  ok s (match (s.queue t q.val).landed.find? (fun k => s.mayAppend t q.val k) with
    | some slot => ((s.append t q.val slot).recvRun t).settle
    | none => s)

/-! ### LODE.TREDUCE (R267) -/

/-- Run LODE.TREDUCE: its elements as rows of Standard partials, the last row padded with zero. -/
def State.runTreduce (s : State) (t : Fin 8) (tag : Nat) (r : OpRec) : State :=
  let d := r.td 1
  match s.readOp t r 1 with
  | .error e => s.opFaulted t tag [] e
  | .ok vs =>
    let m := (d.count + 31) / 32
    let rows := (List.range m).map (fun i => rowBytes ((List.range 32).map (fun c => Entry.ofLin false (preloadLin d.fmt (valAt vs (32 * i + c))))))
    (s.onTile t (fun x => { x with ops := x.ops.put tag { r with st := .run } })).sendPart
      ⟨t.val, r, (r.d.getD 0 0).toNat, m, 32, false, d.count, rows⟩

end Sys2Proof.Machine
end

