-- ==== Sys2Proof/Machine/KveAttn.lean ====
section
/-! DEFINITION. The arithmetic of KV.ATTN (R294, R295, R301). -/
namespace Sys2Proof.Machine

/-! ### NaNs that arise inside (R295): a NaN formed on the way stays created in what it makes NaN. -/

/-- A created NaN among values. -/
def anyCreated (vs : List Val) : Bool := vs.any (fun v => decide (v = .nan true))

/-- The class of a NaN that comes from others is theirs. -/
def Val.carry (vs : List Val) (v : Val) : Val := if v = .nan false ∧ anyCreated vs then .nan true else v

/-- The same of a pair. -/
def Pair.carry (vs : List Val) (p : Pair) : Pair := if p.cls = .nan false ∧ anyCreated vs then { p with cls := .nan true } else p

/-! ### Sums in pass order (R89, R298) -/

/-- One pass of up to 512 products with an L16 operand. -/
def dotCol (a b : List Val) : Pair :=
  let ps := List.zipWith product a b
  columnStd true ((List.range 32).map (fun r => ⟨(ps.drop (16 * r)).take 16, 0, 0⟩))

/-- Passes of 512 accumulated into a bank entry. -/
def dotAcc : Nat → Pair → List Val → List Val → Pair
  | 0, p, _, _ => p
  | k + 1, p, a, b => if a = [] then p else dotAcc k (pairAdd p (dotCol (a.take 512) (b.take 512))) (a.drop 512) (b.drop 512)

/-- A whole product sum. -/
def dotFull (a b : List Val) : Pair := (dotAcc (a.length / 512 + 1) .zero a b).carry (a ++ b)

/-! ### Rounding inside the operation -/

/-- round16 of R294; a NaN keeps its class. -/
def round16 (v : Val) : Val :=
  match v with
  | .nan c => .nan c
  | v => decodeL16 (encodeWide .l16 statRnd 0 0 v).code 0

/-- A value at or beyond the overflow edge of a format (Table 3-3). -/
def beyond (f : Fmt) (tso : Int) (v : Val) : Bool := (encodeWide f statRnd tso 0 v).counts.sat ≠ 0

/-- Multiply by 2^(n / 128). -/
def vScale128 (n : Int) (v : Val) : Val :=
  match v with
  | .fin s e => .fin s (e + n * step16)
  | v => v

/-! ### One query row -/

/-- A candidate key of one row: its position, whether the row sees it, its score (-Inf when not) and its value row. -/
structure AKey where
  pos : Nat
  vis : Bool
  s : Val
  v : List Val
  deriving DecidableEq, Repr

/-- The running state of a row: m, U and Z. -/
structure ARow where
  m : Val
  u : List Pair
  z : Pair
  deriving DecidableEq, Repr

/-- e[j] before round16: in RANGE and FROMSTAT modes, or against a maximum in ONLINE mode. -/
def attnExp (online : Bool) (m s : Val) : Val :=
  match s with
  | .nan c => .nan c
  | .inf true => .zero
  | s => if online then
      (if m = .inf false then (if s = .inf false then .nan true else .zero) else powVal (onlineD m s))
    else powVal (smaxA s)

/-- Scale a row's sums to a new maximum. -/
def ARow.raise (a : ARow) (mc : Val) : ARow :=
  if a.m.lt mc then
    match a.m with
    | .inf true => { a with m := mc }
    | _ =>
      let f := if mc = .inf false then (fun (p : Pair) => if p.cls = .fin then .zero else p) else
        match onlineD mc a.m with
        | some d => scalePair (max d (-(4096 * oct)))
        | none => fun p => p
      ⟨mc, a.u.map f, f a.z⟩
  else a

/-- One chunk of a row (R294). -/
def ARow.chunk (online : Bool) (a : ARow) (ks : List AKey) : ARow :=
  let a1 := if online then a.raise (((ks.map (·.s)).filter (fun s => !s.isNan)).foldl vMax (.inf true)) else a
  let es := ks.map (fun k => round16 (attnExp online a1.m k.s))
  { a1 with
    u := a1.u.zipIdx.map (fun p =>
      let vs := ks.map (fun k => valAt k.v p.2)
      (dotAcc 2 p.1 es vs).carry (es ++ vs))
    z := pairAdd a1.z (rowSum (es.map (fun e => e.lin false))) }

/-- Cut candidates into chunks of 1,024. -/
def chunks1024 : Nat → List AKey → List (List AKey)
  | 0, _ => []
  | k + 1, xs => if xs = [] then [] else xs.take 1024 :: chunks1024 k (xs.drop 1024)

/-- A whole row over its candidates. -/
def attnRow (online : Bool) (dv : Nat) (ks : List AKey) : ARow :=
  (chunks1024 (ks.length / 1024 + 1) ks).foldl (ARow.chunk online) ⟨.inf true, List.replicate dv .zero, .zero⟩

/-- value(m) + ln Z, with value(m) zero when there is no m. -/
def attnStat (m : Option Val) (z : Val) : Val :=
  match z with
  | .fin _ e =>
    let ln := (Dy.mk e (-48)).mul ln2
    match m with
    | some (.fin s x) => ((realOf s x).add ln).toVal
    | some (.inf b) => .inf b
    | some (.nan c) => .nan c
    | _ => ln.toVal
  | .zero => .inf true
  | v => v

/-- What a row gives: output and statistic, or a RANGE fault at a key position (0xFFFF_FFFF for U, Z or stat). -/
inductive ARes where
  | ok (o : List Val) (stat : Val)
  | faulted (col : Nat)
  deriving DecidableEq, Repr

/-- The mode of a KV.ATTN: SMODE and OUT codes, and the formats and TSOs of D0 and D3. -/
structure AMode where
  smode : Nat
  out : Nat
  f0 : Fmt
  t0 : Int
  t3 : Int
  deriving DecidableEq, Repr

/-- A row in NORM or UNNORM (R294, R295). -/
def attnOut (md : AMode) (dv : Nat) (ks : List AKey) : ARes :=
  let range := md.smode = 0
  let nan := ks.any (fun k => k.s.isNan)
  match (if range ∧ !nan then ks.find? (fun k => beyond .l16 0 (attnExp false .zero k.s)) else none) with
  | some k => .faulted k.pos
  | none =>
    if !ks.any (·.vis) then
      .ok (List.replicate dv .zero) (if md.out = 0 then .inf true else .zero)
    else
      let a := attnRow (md.smode = 1) dv ks
      let z := a.z.toVal
      let us := a.u.map Pair.toVal
      let st := if md.out = 0 then attnStat (if md.smode = 1 then some a.m else none) z else z
      if range && (beyond .l32 md.t3 st || (md.out = 1 && us.any (beyond md.f0 md.t0))) then .faulted 0xFFFFFFFF
      else .ok (if md.out = 0 then us.map (fun u => (vDiv u z).carry [u, z]) else us) st

/-- A row in PROBS (R294, R301): every position of the range, in order. -/
def attnProbs (lam : Val) (first n : Nat) (ks : List AKey) : ARes :=
  let row := (List.range n).map (fun i => ((ks.find? (fun k => decide (k.pos = first + i))).map (·.s)).getD (.inf true))
  match smaxFromStat lam row with
  | .ok p _ => .ok (p.map (Val.carry (ks.map (·.s)))) lam
  | .faulted c => .faulted c

/-! ### The operation -/

/-- What a KV.ATTN computes from: queries by row (r + Mq * h), rows per head, candidates with their latent rows, up-projection
column by head, head dimension, and which rows see which keys. -/
structure AIn where
  q : List (List Val)
  mq : Nat
  cands : List (Nat × List Val)
  up : Option (Nat → Nat → List Val)
  dh : Nat
  sscale : Int
  sees : Nat → Nat → Bool

/-- Key and value rows of head h's candidates. -/
def AIn.keys (i : AIn) (h : Nat) : List (Nat × List Val × List Val) :=
  i.cands.map (fun c => match i.up with
    | none => (c.1, c.2, c.2)
    | some w =>
      let x (n : Nat) : Val := round16 (dotFull c.2 (w h n)).toVal
      (c.1, (List.range i.dh).map x, (List.range i.dh).map (fun n => x (i.dh + n))))

/-- The scored keys of row r of a head whose keys are given. -/
def AIn.scored (i : AIn) (r : Nat) (q : List Val) (ks : List (Nat × List Val × List Val)) : List AKey :=
  ks.map (fun k => ⟨k.1, i.sees r k.1, if i.sees r k.1 then round16 (vScale128 i.sscale (dotFull q k.2.1).toVal) else .inf true, k.2.2⟩)

/-- Every row's result, in linear order. -/
def AIn.run (i : AIn) (f : Nat → List AKey → ARes) : List ARes :=
  (List.range (i.q.length / i.mq)).flatMap (fun h =>
    let ks := i.keys h
    (List.range i.mq).map (fun r => f (h * i.mq + r) (i.scored r ((i.q[h * i.mq + r]?).getD []) ks)))

/-- The first faulting row and its column. -/
def firstAFault (rows : List ARes) : Option (Nat × Nat) :=
  rows.zipIdx.findSome? (fun p => match p.1 with | .faulted c => some (p.2, c) | _ => none)

/-- Outputs of a row. -/
def ARes.outs : ARes → List Val
  | .ok o _ => o
  | .faulted _ => []

/-- The statistic of a row. -/
def ARes.statOf : ARes → Val
  | .ok _ v => v
  | .faulted _ => .zero

end Sys2Proof.Machine
end

