-- ==== Sys2Proof/Machine/Kve.lean ====
section
/-! DEFINITION. The KVE (KV class; chapter 11): sequence table entries, pages and references, walks, and the KV operations. -/
namespace Sys2Proof.Machine

/-! ### Sequence table entries (Table 11-1) -/

/-- An entry or record taken apart; `raw` is its 64 bytes. -/
structure SeqEnt where
  raw : Nat
  st : Nat
  wmode : Nat
  psize : Nat
  home : Nat
  owner : Nat
  rank : Nat
  epoch : Nat
  len : Nat
  win : Nat
  vbase : Nat
  wctx : Nat
  grows : Nat
  gcount : Nat
  glist : Nat
  tso : Int
  stat : Nat
  statv : Bool
  rdone : Nat
  deriving DecidableEq, Repr

/-- Take 64 bytes apart. -/
def SeqEnt.of (v : Nat) : SeqEnt :=
  { raw := v, st := bits v 0 2, wmode := bits v 2 1, psize := bits v 3 1, home := bits v 4 3, owner := bits v 7 5
    rank := 16 * (bits v 12 6 + 1), epoch := bits v 32 16, len := bits v 64 25, win := bits v 96 24, vbase := bits v 128 48
    wctx := bits v 192 64, grows := bits v 256 48, gcount := bits v 304 7, glist := bits v 320 48, tso := sext 16 (bits v 384 16)
    stat := bits v 400 12, statv := bits v 412 1 = 1, rdone := bits v 416 24 }

/-- An RSV bit of Table 11-1 is set. -/
def seqRsv (v : Nat) : Bool :=
  [(18, 14), (48, 16), (89, 7), (120, 8), (176, 16), (311, 9), (368, 16), (413, 3), (440, 8), (448, 64)].any
    (fun p => bits v p.1 p.2 ≠ 0)

/-- P, the tokens of a page. -/
def SeqEnt.p (e : SeqEnt) : Nat := if e.psize = 0 then 16 else 256
/-- RB, the bytes of a row. -/
def SeqEnt.rb (e : SeqEnt) : Nat := 2 * e.rank
/-- Rg, the ring length of a windowed sequence (R281). -/
def SeqEnt.ring (e : SeqEnt) : Nat := (e.win + e.p - 1) / e.p + 1
/-- Pages of LEN tokens. -/
def SeqEnt.pages (e : SeqEnt) : Nat := (e.len + e.p - 1) / e.p
/-- The first page held (R281). -/
def SeqEnt.heldFrom (e : SeqEnt) : Nat := if e.win = 0 then 0 else e.pages - e.ring
/-- The number of pages held. -/
def SeqEnt.held (e : SeqEnt) : Nat := e.pages - e.heldFrom
/-- A token below LEN whose page is held. -/
def SeqEnt.holds (e : SeqEnt) (j : Nat) : Bool := decide (j < e.len) && decide (e.heldFrom ≤ j / e.p)
/-- The tile virtual address of a token in translated mode (R277). -/
def SeqEnt.tokenVa (e : SeqEnt) (j : Nat) : Nat :=
  (e.vbase + (if e.win = 0 then j else (j / e.p % e.ring) * e.p + j % e.p) * e.rb) % 2 ^ 48

/-- Replace bits of an integer. -/
def setBits (v lo w x : Nat) : Nat := v - bits v lo w * 2 ^ lo + x % 2 ^ w * 2 ^ lo

/-- The sequence of a KV operation. -/
def OpRec.kvSeq (r : OpRec) : Nat := bits r.ga.toNat 0 16

/-- Memory as it will be when a checkpoint has released the writes it holds: what the next atomic update of a home KVE meets (R276, R319;
DEDUCED, unsafe, log entry 48). -/
def State.landed (s : State) : State :=
  match s.ck with
  | some j => j.held.foldl (fun s h => s.perform h.fn h.pa h.upd) s
  | none => s

/-- Read an entry; its home tile sees its own writes to it. -/
def State.seqEnt (s : State) (t : Fin 8) (n : Nat) : SeqEnt :=
  let e := SeqEnt.of (s.landed.readNat 0 (s.seqAddr t n) 64)
  if e.home = t.val then e else SeqEnt.of (s.readNat 0 (s.seqAddr t n) 64)

/-- Write bits of an entry, in the aligned eight bytes that hold them. -/
def State.seqSet (s : State) (t : Fin 8) (n lo w x : Nat) : State :=
  let pa := s.seqAddr t n + lo / 64 * 8
  (s.wakeFor (some t) pa).writeNat 0 pa 8 (setBits (s.landed.readNat 0 pa 8) (lo % 64) w x)

/-- The KVE reads n bytes at a physical address: what lies on the way wakes, and a stack counts them (R211, Table 9-9). -/
def State.kvTouch (s : State) (t : Fin 8) (pa n : Nat) : State := (s.wakeFor (some t) pa).tookBytes pa n

/-! ### Failures -/

/-- Why a KV operation stops: an access at a tile virtual address, memory the KVE addresses physically, or a failure of Table 11-9
with its INFO, open where no position, page or frame is involved. -/
inductive KErr where
  | va (f : VFault) (wr : Bool)
  | mem (poison : Bool)
  | fail (cause : Nat) (info : Option Nat)

/-- Causes of Table 11-9. -/
abbrev kNoSeq : Nat := 0
/-- OWNER. -/
abbrev kOwner : Nat := 1
/-- NOTHOME. -/
abbrev kNotHome : Nat := 2
/-- MODE. -/
abbrev kMode : Nat := 3
/-- RECORD. -/
abbrev kRecord : Nat := 4
/-- WALK. -/
abbrev kWalk : Nat := 5
/-- REFS. -/
abbrev kRefs : Nat := 6
/-- POOL. -/
abbrev kPool : Nat := 7
/-- LENGTH. -/
abbrev kLength : Nat := 8
/-- RETAIN. -/
abbrev kRetain : Nat := 9
/-- SCRATCH. -/
abbrev kScratch : Nat := 10

/-- A KV operation takes its operation trap (R215, R274, R277, R493); a value that the rules leave open is free. -/
def State.kvErr (s : State) (t : Fin 8) (tag : Nat) (r : OpRec) (e : KErr) : State :=
  match e with
  | .va f wr => s.opFault t tag (if r.op = .kvSeqset || r.op = .kvAppend then 1 else 0) wr f
  | .mem true => (s.raiseOp t tag cMemPoison (s.free 0 % 2 ^ 48) (firstDesc r.insn) true).drawn
  | .mem false => s.raiseOp t tag cAccess (s.seqAddr t r.kvSeq) (firstDesc r.insn) true
  | .fail c (some i) => s.kvFail t tag r.kvSeq c i
  | .fail c none => (s.kvFail t tag r.kvSeq c (s.free 0 % 2 ^ 48)).drawn

/-- Memory the KVE reads or writes by physical address for a function: every byte in device memory, assigned, not Off and, for a read,
not poisoned; no byte is no access. -/
def State.kvMem (s : State) (f pa n : Nat) (rd : Bool) : Except KErr Unit :=
  if (piecesOf 4096 pa n).any (fun c => !(s.region c.1).isDevice || !s.assigned f c.1 || s.memOff c.1) then .error (.mem false)
  else if rd && s.poisonIn pa n then .error (.mem true)
  else .ok ()

/-- The sequence table entry can be read. -/
def State.seqMem (s : State) (t : Fin 8) (n : Nat) : Except KErr Unit :=
  let pa := s.seqAddr t n
  if !(s.region pa).isDevice || s.memOff pa then .error (.mem false)
  else if s.poisonIn pa 64 then .error (.mem true)
  else .ok ()

/-! ### Rows -/

/-- Where a latent row lies: a device physical address in a frame, or a tile virtual address. -/
inductive RowAt where
  | frame (pa : Nat)
  | va (a : Nat)
  deriving DecidableEq, Repr

/-- Read a row's bytes. -/
def State.rowBytes (s : State) (t : Fin 8) (at_ : RowAt) (n : Nat) : Except KErr (List Byte) :=
  match at_ with
  | .frame pa => match s.kvMem (s.ownerOf t.val) pa n true with
    | .ok _ => .ok (s.readBytes (s.ownerOf t.val) pa n)
    | .error e => .error e
  | .va a => match s.readRange t a n with
    | .ok bs => .ok bs
    | .error f => .error (.va f false)

/-- The L16 codes of a row. -/
def codesOf : List Byte → List Nat
  | a :: b :: l => (a.toNat + 256 * b.toNat) :: codesOf l
  | _ => []

/-- The values of a row of a sequence. -/
def State.rowVals (s : State) (t : Fin 8) (e : SeqEnt) (at_ : RowAt) : Except KErr (List Val) :=
  match s.rowBytes t at_ e.rb with
  | .ok bs => .ok ((codesOf bs).map (fun c => decodeL16 c e.tso))
  | .error x => .error x

/-- An access to a row: its translations, and the wake of what it crosses. -/
def State.reachRow (s : State) (t : Fin 8) (at_ : RowAt) (n : Nat) : State :=
  match at_ with
  | .frame pa => s.wakeFor (some t) pa
  | .va a =>
    let ps := (piecesOf 4096 a n).map (·.1)
    ps.foldl (fun s va => match s.translate t .read va with
      | .ok pa => s.wakeFor (some t) pa
      | .error _ => s) (s.touchPages t ps)

/-- A read of a row: the access, and the bytes a stack counts. -/
def State.tookRow (s : State) (t : Fin 8) (at_ : RowAt) (n : Nat) : State :=
  let s1 := s.reachRow t at_ n
  match at_ with
  | .frame pa => s1.tookBytes pa n
  | .va a => s1.tookVas t (piecesOf 4096 a n)

/-- Write a row's bytes for an operation. -/
def State.putRow (s0 : State) (t : Fin 8) (at_ : RowAt) (bs : List Byte) : Except KErr State :=
  let s := s0.reachRow t at_ bs.length
  match at_ with
  | .frame pa => match s.kvMem (s.ownerOf t.val) pa bs.length false with
    | .ok _ => .ok (s.writeBytes (s.ownerOf t.val) pa bs)
    | .error e => .error e
  | .va a =>
    (granules a bs.length).foldl (fun r c =>
      match r with
      | .error e => .error e
      | .ok s => match s.translate t .write c.1 with
        | .ok pa => .ok (s.writeBytes (s.ownerOf t.val) pa ((bs.drop (c.1 - a)).take c.2))
        | .error f => .error (.va ⟨f, c.1⟩ true)) (.ok s)

/-- The global positions of a sequence (R282): none without a window. -/
def State.globals (s : State) (t : Fin 8) (e : SeqEnt) : Except KErr (List Nat) :=
  if e.win = 0 then .ok []
  else match s.readRange t e.glist (4 * e.gcount) with
    | .ok bs => .ok ((List.range e.gcount).map (fun i => leNat ((bs.drop (4 * i)).take 4)))
    | .error f => .error (.va f false)

/-- The address of global row g (R283). -/
def SeqEnt.growVa (e : SeqEnt) (g : Nat) : Nat := (e.grows + g * e.rb) % 2 ^ 48

/-! ### Frames and references (R275, R276) -/

/-- A frame's address. -/
def State.frameAt (s : State) (t : Fin 8) (k f : Nat) : Nat :=
  s.rd F.KVE_POOL_BASE_PA t.val k + f * s.rd F.KVE_POOL_CFG_FSTRIDE t.val k

/-- A PRT entry's address. -/
def State.prtAt (s : State) (t : Fin 8) (k f : Nat) : Nat := s.rd F.KVE_PRT_BASE_PA t.val k + 8 * f

/-- Set REFS of a PRT entry; EPOCH counts leaving 0 and returning to it (Table 11-2). -/
def State.prtSet (s : State) (pa v refs : Nat) : State :=
  let v1 := setBits v 0 16 refs
  s.writeNat 0 pa 8 (if (bits v 0 16 = 0) ≠ (refs = 0) then setBits v1 32 16 (bits v 32 16 + 1) else v1)

/-- A PRT entry's memory can be used. -/
def State.prtMem (s : State) (pa : Nat) : Except KErr Unit :=
  if !(s.region pa).isDevice || s.memOff pa then .error (.mem false)
  else if s.poisonIn pa 8 then .error (.mem true) else .ok ()

/-- TAKE: REFS goes from 0 to 1 and HOME names this tile. -/
def State.refTake (s0 : State) (t : Fin 8) (k f : Nat) : Except KErr State :=
  let pa := s0.prtAt t k f
  match s0.prtMem pa with
  | .error e => .error e
  | .ok _ =>
    let s := s0.kvTouch t pa 8
    let v := s.landed.readNat 0 pa 8
    if bits v 0 16 ≠ 0 then .error (.fail kRefs (some f)) else .ok (s.prtSet pa (setBits v 16 3 t.val) 1)

/-- Increment REFS of a frame. -/
def State.refInc (s0 : State) (t : Fin 8) (k f : Nat) : Except KErr State :=
  let pa := s0.prtAt t k f
  match s0.prtMem pa with
  | .error e => .error e
  | .ok _ =>
    let s := s0.kvTouch t pa 8
    let v := s.landed.readNat 0 pa 8
    if bits v 0 16 = 0xFFFF then .error (.fail kRefs (some f)) else .ok (s.prtSet pa v (bits v 0 16 + 1))

/-- The freed-frame ring is full (Table 11-8). -/
def State.freeFull (s : State) (t : Fin 8) : Bool :=
  decide (s.rd F.KVE_FREE_CFG_ENTRIES t.val ≤ (s.rd F.KVE_FREE_PROD_PROD t.val + 2 ^ 32 - s.rd F.KVE_FREE_CONS_CONS t.val) % 2 ^ 32)

/-- Append a frame to the freed-frame ring (R289). -/
def State.freeAppend (s : State) (t : Fin 8) (k f : Nat) : State :=
  let prod := s.rd F.KVE_FREE_PROD_PROD t.val
  let pa := s.rd F.KVE_FREE_BASE_PA t.val + 4 * (prod % s.rd F.KVE_FREE_CFG_ENTRIES t.val)
  ((s.wakeFor (some t) pa).writeNat 0 pa 4 (f + k * 2 ^ 24)).wr F.KVE_FREE_PROD_PROD t.val (prod + 1)

/-- Decrement REFS of a frame; one left at 0 goes to the freed-frame ring, and while that is full nothing is done. -/
def State.refDec (s0 : State) (t : Fin 8) (k f : Nat) : Except KErr (Option State) :=
  let pa := s0.prtAt t k f
  match s0.prtMem pa with
  | .error e => .error e
  | .ok _ =>
    let s := s0.kvTouch t pa 8
    let v := s.landed.readNat 0 pa 8
    if bits v 0 16 = 0 ∨ bits v 16 3 ≠ t.val then .error (.fail kRefs (some f))
    else if bits v 0 16 = 1 then
      if s.freeFull t then .ok none else .ok (some ((s.prtSet pa v 0).freeAppend t k f))
    else .ok (some (s.prtSet pa v (bits v 0 16 - 1)))

/-- Take a reference back (R288). -/
def State.refUndo (s : State) (t : Fin 8) (k f : Nat) : State :=
  let pa := s.prtAt t k f
  let v := s.landed.readNat 0 pa 8
  s.prtSet pa v (bits v 0 16 - 1)

/-! ### Page descriptors (Table 11-4) -/

/-- FRAME. -/
def pdFrame (d : Nat) : Nat := bits d 0 24
/-- TAKE. -/
def pdTake (d : Nat) : Bool := bits d 24 1 = 1
/-- SV. -/
def pdSv (d : Nat) : Bool := bits d 25 1 = 1
/-- COPY. -/
def pdCopy (d : Nat) : Bool := bits d 26 1 = 1
/-- SFRAME. -/
def pdSframe (d : Nat) : Nat := bits d 64 24

/-- A flag or RSV bit of a descriptor breaks R279 for a request's kind. -/
def pdBad (kind d : Nat) : Bool :=
  bits d 28 4 ≠ 0 || bits d 56 8 ≠ 0 || bits d 88 40 ≠ 0 || (kind ≠ 1 && bits d 24 3 ≠ 0) ||
    (pdCopy d && !(pdTake d && pdSv d)) || (!pdSv d && pdSframe d ≠ 0)

/-- Where page p of a sequence lies among a request's descriptors from page `first`. -/
def State.pageFrame (s : State) (t : Fin 8) (e : SeqEnt) (first : Nat) (ds : List Nat) (p : Nat) : Nat :=
  s.frameAt t e.psize (pdFrame ((ds[p - first]?).getD 0))

/-- Where a held token's row lies. -/
def State.tokenAt (s : State) (t : Fin 8) (e : SeqEnt) (first : Nat) (ds : List Nat) (j : Nat) : RowAt :=
  if e.wmode = 0 then .va (e.tokenVa j) else .frame (s.pageFrame t e first ds (j / e.p) + j % e.p * e.rb)

/-! ### Issue checks (R284, R293) -/

/-- RANK of a LIVE entry agrees with a row width; another entry is judged when the operation starts (DEDUCED, unsafe, log entry 16). -/
def State.rankOk (s : State) (t : Fin 8) (n width : Nat) : Bool :=
  let e := s.seqEnt t n
  e.st ≠ 1 || e.rank = width

/-- D0 and D1 of a KV.ATTN in their formats and shapes (R293). -/
def attnShapes (i : TIn) : Bool :=
  let d0 := i.td 0
  let d1 := i.td 1
  let d3 := i.td 3
  let smode := xfOf i.a 80 2
  let out := xfOf i.a 82 2
  let kcount := bits i.gb.toNat 24 24
  let dv := match i.opt 2 with | some d2 => d2.n0 / 2 | none => d1.n0
  d1.legal Fmt.reed && d1.n3 = 1 && d1.n2 ≤ 64 && d1.n1 * d1.n2 ≤ 1024 &&
    (match i.opt 2 with
     | some d2 => d2.legal Fmt.reed && d2.rdim = 1 && d2.n0 % 64 = 0 && 64 ≤ d2.n0 && d2.n0 ≤ 512 && d2.n2 = d1.n2 && d2.n3 = 1 &&
         d1.n0 = d2.n0 / 2
     | none => true) &&
    d0.legalDst (if out = 1 then fun f => f = .l32 else ldFmt) && d0.n3 = 1 && d0.n1 = d1.n1 && d0.n2 = d1.n2 &&
    d0.n0 = (if out = 2 then kcount else dv) &&
    (if smode = 2 then d3.legal (fun f => f = .l32) else d3.legalDst (fun f => f = .l32)) &&
    d3.n0 = 1 && d3.n1 = d1.n1 && d3.n2 = d1.n2 && d3.n3 = 1

/-- Fields of the KV operations (Table 11-5, R496). -/
def TOp.kvUse : TOp → TUse
  | .kvSeqset => ⟨.no, .yes, .no, .no, 0, false, true, false, true⟩
  | .kvAppend => ⟨.no, .yes, .no, .no, 0, true, true, false, true⟩
  | .kvGather => ⟨.yes, .no, .no, .no, 0, true, true, true, true⟩
  | .kvAttn => ⟨.yes, .yes, .opt, .yes, 0x1F, true, true, true, true⟩
  | .kvFork => ⟨.no, .no, .no, .no, 0, false, true, true, true⟩
  | _ => ⟨.no, .no, .no, .no, 0, false, true, false, true⟩

/-- Bits of g[GA] and g[GB] that Table 11-5 defines: their widths from bit 0. -/
def TOp.kvWidths : TOp → Nat × Nat
  | .kvGather => (16, 24)
  | .kvAttn => (40, 64)
  | .kvFork => (16, 16)
  | _ => (16, 64)

/-- An SMODE and OUT pair of R293. -/
def attnModes (smode out : Nat) : Bool := smode ≠ 3 && out ≠ 3 && (out ≠ 1 || smode = 0) && (out ≠ 2 || smode = 2)

/-- The descriptors of a KV operation are legal. -/
def State.kvDescs (s : State) (t : Fin 8) (op : TOp) (i : TIn) : Bool :=
  let n := bits i.ga.toNat 0 16
  match op with
  | .kvSeqset => (i.td 1).base + 64 ≤ lsBase
  | .kvAppend => (i.td 1).legal (fun f => f = .l16) && (i.td 1).flat && s.rankOk t n (i.td 1).n0
  | .kvGather => (i.td 0).legalDst ldFmt && (i.td 0).flat && s.rankOk t n (i.td 0).n0
  | .kvAttn => attnShapes i && s.rankOk t n (match i.opt 2 with | some d => d.n1 | none => (i.td 1).n0)
  | _ => true

/-- The intervals of a KV operation. -/
def kvFoot (op : TOp) (i : TIn) : List Ivl × List Ivl :=
  match op with
  | .kvSeqset => ([⟨(i.td 1).base, (i.td 1).base + 63⟩], [])
  | .kvAppend => ((i.td 1).footprint, [])
  | .kvGather => ([], (i.td 0).footprint)
  | .kvAttn =>
    if xfOf i.a 80 2 = 2 then (footprints [i.opt 1, i.opt 2, i.opt 3], (i.td 0).footprint)
    else (footprints [i.opt 1, i.opt 2], footprints [i.opt 0, i.opt 3])
  | _ => ([], [])

/-- A KV operation's progress total as far as issue knows it (Table 11-6): rows, one entry, and nothing yet of what the sequence decides. -/
def kvTotalAt (op : TOp) (i : TIn) : Nat :=
  match op with
  | .kvSeqset => 1
  | .kvAppend => (i.td 1).n1
  | .kvGather => (i.td 0).n1
  | _ => 0

/-- Issue checks of a KV operation. -/
def State.kvPlan (s : State) (t : Fin 8) (op : TOp) (i : TIn) : Except Nat Plan :=
  planIf
    [(op.kvUse.legal i.a && i.ga.toNat < 2 ^ op.kvWidths.1 && i.gb.toNat < 2 ^ op.kvWidths.2 &&
        (op ≠ .kvAttn || attnModes (xfOf i.a 80 2) (xfOf i.a 82 2)), cIllegalInsn),
     (s.kvDescs t op i, cIllegalDesc)]
    ⟨(kvFoot op i).1, (kvFoot op i).2, kvTotalAt op i⟩

/-! ### Visibility (R281 to R283) -/

/-- Key j is visible to the query at position i. -/
def SeqEnt.visible (e : SeqEnt) (gl : List Nat) (causal : Bool) (i j : Nat) : Bool :=
  decide (j < e.len) && (!causal || decide (j ≤ i)) && (e.win = 0 || decide (i < j + e.win) || gl.contains j)

/-- The candidate keys of a KV.ATTN, in ascending position (R294). -/
def attnCands (e : SeqEnt) (gl : List Nat) (r : OpRec) : List Nat :=
  let q0 := bits r.ga.toNat 16 24
  let first := bits r.gb.toNat 0 24
  let n := bits r.gb.toNat 24 24
  let stop := if n = 0 then e.len else min e.len (first + n)
  ((List.range (stop - first)).map (· + first)).filter (fun j =>
    (List.range (r.td 1).n1).any (fun x => e.visible gl (r.xfb 84 1 = 1) (q0 + x) j))

/-- The tokens a reading operation wants. -/
def OpRec.kvTokens (r : OpRec) (e : SeqEnt) (gl : List Nat) : List Nat :=
  if r.op = .kvAttn then attnCands e gl r
  else ((List.range (r.td 0).n1).map (· + bits r.gb.toNat 0 24)).filter (fun j => decide (j < e.len))

/-! ### Walk requests (R278) -/

/-- The pages an operation asks WALK for, as (first, count), the request's kind, and XCTX. -/
def State.kvPages (s : State) (t : Fin 8) (r : OpRec) (e : SeqEnt) (gl : List Nat) : Nat × Nat × Nat × Nat :=
  match r.op with
  | .kvAppend =>
    let last := (e.len + (r.td 1).n1 - 1) / e.p
    (e.len / e.p, last + 1 - e.len / e.p, 1, e.len % e.p)
  | .kvFork => (e.heldFrom, e.held, 2, (s.seqEnt t (bits r.gb.toNat 0 16)).wctx)
  | .kvRelease => (e.heldFrom + e.rdone, e.held - e.rdone, 3, 0)
  | _ =>
    match ((r.kvTokens e gl).filter e.holds).map (· / e.p) with
    | [] => (0, 0, 0, 0)
    | p :: ps => (p, ((p :: ps).getLast?.getD p) + 1 - p, 0, 0)

/-- The request's registers (Table 11-3). -/
def walkReq (r : OpRec) (e : SeqEnt) (w : Nat × Nat × Nat × Nat) : WalkReq :=
  ⟨r.seq, r.kvSeq + w.2.2.1 * 65536 + (if w.2.2.1 = 2 then bits r.gb.toNat 0 16 else 0) * 2 ^ 32, w.1 + w.2.1 * 2 ^ 24, e.wctx, w.2.2.2⟩

/-! ### Conditions of the operations (R274, R281, R285 to R289, R297) -/

/-- STATE, OWNER and HOME (R274). -/
def State.kvState (s : State) (t : Fin 8) (r : OpRec) (e : SeqEnt) : Except KErr Unit :=
  if r.op = .kvSeqset then (if e.st = 0 then .ok () else .error (.fail kNoSeq none))
  else if !(e.st = 1 || (r.op = .kvRelease && e.st = 2)) then .error (.fail kNoSeq none)
  else if e.owner ≠ s.ownerOf t.val then .error (.fail kOwner none)
  else if e.home ≠ t.val ∧ (r.op = .kvAppend ∨ r.op = .kvFork ∨ r.op = .kvRelease) then .error (.fail kNotHome none)
  else .ok ()

/-- Bytes of scratch a KV.ATTN needs (R297). -/
def OpRec.attnScratch (r : OpRec) : Nat :=
  2048 * ((r.td 1).n1 * (r.td 1).n2) + (match r.desc 2 with | some d => 4096 * (d.n0 / 2) | none => 0)

/-- The scratch region lies in the tile's own Mere and is large enough. -/
def State.scratchOk (s : State) (t : Fin 8) (n : Nat) : Bool :=
  let va := s.rd F.KVE_SCRATCH_VA t.val
  n ≤ s.rd F.KVE_SCRATCH_LEN_BYTES t.val &&
    (List.range ((n + 4095) / 4096 + 1)).all (fun i => match s.translate t .write (min (va + 4096 * i) (va + n - 1)) with
      | .ok pa => s.region pa = .mere t.val
      | .error _ => false)

/-- What the operation itself demands of its sequence once the entry is read. -/
def State.kvCheck (s : State) (t : Fin 8) (r : OpRec) (e : SeqEnt) (gl : List Nat) : Except KErr Unit :=
  match r.op with
  | .kvAppend =>
    if (r.td 1).n0 ≠ e.rank then .error (.mem false)
    else if e.statv && s.flag F.VSU_SSTAT_BASE_EN t.val && s.statBad t e.stat then .error (.mem false)
    else if 2 ^ 24 < e.len + (r.td 1).n1 ∨ (e.win ≠ 0 ∧ (e.ring - 1) * e.p < (r.td 1).n1) then .error (.fail kLength (some e.len))
    else .ok ()
  | .kvGather => if (r.td 0).n0 ≠ e.rank then .error (.mem false) else .ok ()
  | .kvAttn =>
    if (match r.desc 2 with | some d => d.n1 | none => (r.td 1).n0) ≠ e.rank then .error (.mem false)
    else if !s.scratchOk t r.attnScratch then .error (.fail kScratch none)
    else match (attnCands e gl r).find? (fun j => !e.holds j && !gl.contains j) with
      | some j => .error (.fail kRetain (some j))
      | none => .ok ()
  | .kvFork =>
    let ch := bits r.gb.toNat 0 16
    let c := s.seqEnt t ch
    if !(s.seqMem t ch matches .ok _) then s.seqMem t ch
    else if c.st = 1 ∧ c.owner ≠ s.ownerOf t.val then .error (.fail kOwner none)
    else if e.wmode = 0 ∨ c.wmode = 0 ∨ c.home ≠ e.home ∨ c.psize ≠ e.psize ∨ c.rank ≠ e.rank ∨ c.win ≠ e.win ∨ c.tso ≠ e.tso ∨
        c.gcount ≠ e.gcount then .error (.fail kMode none)
    else if c.st ≠ 1 ∨ c.len ≠ 0 then .error (.fail kLength (some c.len))
    else .ok ()
  | _ => .ok ()

/-- A list of positions rises strictly. -/
def rising : List Nat → Bool
  | a :: b :: l => decide (a < b) && rising (b :: l)
  | _ => true

/-- A record for KV.SEQSET is good (R285). -/
def State.recordGood (s : State) (t : Fin 8) (e : SeqEnt) : Except KErr Bool :=
  if !(e.home = t.val && !seqRsv e.raw && e.st = 1 && e.len ≤ 2 ^ 24 && (if e.wmode = 0 then e.vbase % 32 = 0 else e.vbase = 0) &&
      e.gcount ≤ 64 && (e.wmode = 0 || e.p * e.rb ≤ s.rd F.KVE_POOL_CFG_FSTRIDE t.val e.psize)) then .ok false
  else match s.readRange t e.glist (4 * e.gcount) with
    | .error f => .error (.va f false)
    | .ok bs => .ok (rising ((List.range e.gcount).map (fun i => leNat ((bs.drop (4 * i)).take 4))))

/-! ### Effects -/

/-- Change an operation's record. -/
def State.onOp (s : State) (t : Fin 8) (tag : Nat) (f : OpRec → OpRec) : State :=
  s.onTile t (fun x => match x.ops.find? tag with
    | some r => { x with ops := x.ops.put tag (f r) }
    | none => x)

/-- KV.SEQSET (R285). -/
def State.runSeqset (s0 : State) (t : Fin 8) (tag : Nat) (r : OpRec) (old : SeqEnt) : State :=
  let s := s0.tookVas t (granules (r.td 1).base 64)
  match s.readRange t (r.td 1).base 64 with
  | .error f => s.kvErr t tag r (.va f false)
  | .ok bs =>
    let rec_ := leNat bs
    match s.recordGood t (SeqEnt.of rec_) with
    | .error e => s.kvErr t tag r e
    | .ok false => s.kvErr t tag r (.fail kRecord none)
    | .ok true =>
      let v := setBits (setBits (setBits rec_ 7 5 (s.ownerOf t.val)) 32 16 (old.epoch + 1)) 416 24 0
      let n := SeqEnt.of rec_
      let s1 := (s.tookRow t (.va n.glist) (4 * n.gcount)).wakeFor (some t) (s.seqAddr t r.kvSeq)
      (s1.writeNat 0 (s1.seqAddr t r.kvSeq) 64 v).opDone t tag

/-- Rounding of the KVE. -/
def OpRec.kvRnd (r : OpRec) : Rnd := r.rnd (max 1 Config.kveLanes)

/-- The stored rows of a sequence as a destination: n rows of RANK codes that report to its STAT entry (R286). -/
def SeqEnt.dst (e : SeqEnt) (n : Nat) : TDesc :=
  { base := 0, sbase := 0, fmtc := 2, ndim := 1, rdim := 0, tso := e.tso, stat := e.stat, statv := e.statv, rsv := 0
    n0 := e.rank, n1 := n, n2 := 1, n3 := 1, stride1 := e.rank, s2 := 1, s3 := 1 }

/-- The descriptor a page copy takes: physical to physical, in the engine with the least bound to it (R225; DEDUCED, unsafe, log entry 48). -/
def State.kvDesc (s : State) (t : Fin 8) (seq src dst n : Nat) : TdmDesc :=
  { id := 0, engine := (s.tile t).freeEngine, owner := .kv seq, src, dst, rowLen := n - 1, rows := 0, flags := 3, sstride := 0, dstride := 0
    caddr := 0, cval := 0, started := true, landed := 0, failed := none, failAt := 0, bad := none, cut := none }

/-- A page copy's descriptor fails: TDM.ERR as for any other (R227, R239). -/
def State.kvCopyFail (s : State) (t : Fin 8) (seq src dst n : Nat) (atDst : Bool) (x : KErr) : State × Option KErr :=
  (match x with
    | .mem p => s.tdmErr t (s.kvDesc t seq src dst n) (if p then 2 else 1) (if atDst then dst else src) true
    | _ => s, some x)

/-- The COPY step of an append (R279, R286), each by one TDM descriptor. -/
def State.kvCopies (t : Fin 8) (seq : Nat) (e : SeqEnt) : List Nat → State → State × Option KErr
  | [], s => (s, none)
  | d :: ds, s =>
    if !pdCopy d then State.kvCopies t seq e ds s
    else
      let src := s.frameAt t e.psize (pdSframe d)
      let dst := s.frameAt t e.psize (pdFrame d)
      let n := e.len % e.p * e.rb
      match s.rowBytes t (.frame src) n with
      | .error x => s.kvCopyFail t seq src dst n false x
      | .ok bs => match (s.tookRow t (.frame src) n).putRow t (.frame dst) bs with
        | .error x => s.kvCopyFail t seq src dst n true x
        | .ok s1 => State.kvCopies t seq e ds ((s1.count F.KVE_CNT_COW_COUNT t.val 1).tdmBytes t (s.tile t).freeEngine n)

/-- Write row i of an append to its page and, when its position is listed, to the global store (R283). -/
def State.kvRow (s : State) (t : Fin 8) (e : SeqEnt) (gl ds : List Nat) (i : Nat) (bs : List Byte) : Except KErr State :=
  let j := e.len + i
  match s.putRow t (s.tokenAt t e (e.len / e.p) ds j) bs with
  | .error x => .error x
  | .ok s1 => match firstIdx (fun g => decide (g = j)) gl 0 with
    | some g => s1.putRow t (.va (e.growVa g)) bs
    | none => .ok s1

/-- The rows of an append, in order; what was written before an error stays (R286). The state, the rows written, and the error. -/
def State.kvRows (s : State) (t : Fin 8) (e : SeqEnt) (gl ds codes : List Nat) : Nat → Nat → State × Nat × Option KErr
  | 0, i => (s, i, none)
  | k + 1, i =>
    let bs := ((codes.drop (i * e.rank)).take e.rank).flatMap (leBytes 2)
    match s.kvRow t e gl ds i bs with
    | .error x => (s, i, some x)
    | .ok s1 => s1.kvRows t e gl ds codes k (i + 1)

/-- TAKE and SV of the descriptors that remain (R286): a decrement that finds the freed-frame ring full waits there. -/
def State.kvTakes (s : State) (t : Fin 8) (tag : Nat) (r : OpRec) (k : Nat) : List Nat → State
  | [] => s.onOp t tag (fun q => { q with st := .run, phase := 3, work := r.work.take 1, acks := 1 })
  | d :: ds =>
    match (if pdTake d then s.refTake t k (pdFrame d) else .ok s) with
    | .error x => s.kvErr t tag r x
    | .ok s1 =>
      if pdSv d then
        match s1.refDec t k (pdSframe d) with
        | .error x => s1.kvErr t tag r x
        | .ok none => s1.onOp t tag (fun q => { q with st := .run, phase := 2, work := r.work.take 1 ++ setBits d 24 1 0 :: ds })
        | .ok (some s2) => s2.kvTakes t tag r k ds
      else s1.kvTakes t tag r k ds

/-- KV.APPEND up to its references (R286); a failure keeps the counts of the rows it has written. A NaN it writes is recorded with D1's
descriptor, since it has no destination descriptor, at its row's place among the rows appended (R74; DESIGN CHOICE, unsafe, log entry 46). -/
def State.runAppend (s : State) (t : Fin 8) (tag : Nat) (r : OpRec) (e : SeqEnt) (gl ds : List Nat) : State :=
  match s.readOp t r 1 with
  | .error f => s.opFault t tag f.k f.wr f.f
  | .ok vs =>
    let c := State.kvCopies t r.seq e ds (s.tookSrcs t r)
    match c.2 with
    | some x => c.1.kvErr t tag r x
    | none =>
      let all := encodeFlat .l16 r.kvRnd e.tso vs
      let w := c.1.kvRows t e gl ds (all.codes.map (·.1)) (r.td 1).n1 0
      let n := w.2.1
      let d := e.dst n
      let vs := vs.take (n * e.rank)
      let o := encodeFlat .l16 r.kvRnd e.tso vs
      let bad := w.1.statPoison t d o.counts vs
      let s2 := (w.1.addCounts t d o.counts).addStats t d vs
      let s3 := (s2.recordNans t ⟨unitKve, r.tag, r.iaddr, descIx r.insn 1, r.seq⟩ d o.nans).onOp t tag (fun q => { q with pos := n })
      match w.2.2, bad with
      | some x, _ => s3.kvErr t tag r x
      | none, some g => s3.raiseOp t tag cMemPoison (g % 2 ^ 48) (firstDesc r.insn) true
      | none, none => s3.kvTakes t tag r e.psize ds

/-- The LEN write of an append whose earlier writes are acknowledged (R286). -/
def State.appendLen (s : State) (t : Fin 8) (tag : Nat) (r : OpRec) : State :=
  let e := SeqEnt.of (r.work.headD 0)
  (((s.seqSet t r.kvSeq 64 32 (e.len + r.total)).count F.KVE_CNT_APPEND_COUNT t.val r.total).claim (.op t.val r.seq)).opDone t tag

/-- Where a token that is held or global is read from (R283). -/
def State.readAt (s : State) (t : Fin 8) (e : SeqEnt) (gl : List Nat) (first : Nat) (ds : List Nat) (j : Nat) : RowAt :=
  if e.holds j then s.tokenAt t e first ds j
  else .va (e.growVa ((firstIdx (fun g => decide (g = j)) gl 0).getD 0))

/-- KV.GATHER (R287). -/
def State.runGather (s0 : State) (t : Fin 8) (tag : Nat) (r : OpRec) (e : SeqEnt) (gl : List Nat) (first : Nat) (ds : List Nat) : State :=
  let js := (List.range (r.td 0).n1).map (· + bits r.gb.toNat 0 24)
  let there (j : Nat) : Bool := decide (j < e.len) && (e.holds j || gl.contains j)
  let s := (js.filter there).foldl (fun s j => s.tookRow t (s.readAt t e gl first ds j) e.rb) s0
  let rows := js.mapM (fun j =>
    if there j then s.rowVals t e (s.readAt t e gl first ds j)
    else .ok (List.replicate e.rank (.nan true)))
  match rows with
  | .error x => s.kvErr t tag r x
  | .ok rows => s.finishOp t tag r unitKve [⟨0, rows.flatMap id, r.kvRnd⟩]

/-- Reedbed passes and rows of a KV.ATTN over n candidates (Table 11-7). -/
def attnPasses (r : OpRec) (rank : Nat) : Nat → Nat → Nat × Nat
  | 0, _ => (0, 0)
  | k + 1, n =>
    if n = 0 then (0, 0)
    else
      let c := min n 1024
      let up (a b : Nat) : Nat := (a + b - 1) / b
      let mq := (r.td 1).n1
      let h := (r.td 1).n2
      let one : List (Nat × Nat) := match r.desc 2 with
        | some d =>
          let dh := d.n0 / 2
          [(h * (2 * dh / 32) * up rank 512, c), (h * up c 32 * up dh 512, mq), (h * up c 512 * (dh / 32), mq)]
        | none => [(up c 32 * up rank 512, mq * h), (up c 512 * (rank / 32), mq * h)]
      let rest := attnPasses r rank k (n - c)
      (rest.1 + (one.map (·.1)).sum, rest.2 + (one.map (fun p => p.1 * p.2)).sum)

/-- The scratch region takes contents that no rule gives (R297; DESIGN CHOICE, safe, log entry 5). -/
def State.scratchUsed (s : State) (t : Fin 8) (n : Nat) : State :=
  let va := s.rd F.KVE_SCRATCH_VA t.val
  ((List.range n).foldl (fun s' i => s'.storeVa t (va + i) 1 (s.free i)) s).drawn

/-- KV.ATTN over its candidates' rows (R293 to R297). The latent is read once when it is expanded, and for the scores and the output when it
is absorbed (R298). -/
def State.runAttn (s0 : State) (t : Fin 8) (tag : Nat) (r : OpRec) (e : SeqEnt) (gl : List Nat) (first : Nat) (ds : List Nat) : State :=
  let smode := r.xfb 80 2
  let out := r.xfb 82 2
  let d1 := r.td 1
  let cands := attnCands e gl r
  let s := (if (r.desc 2).isSome then cands else cands ++ cands).foldl (fun s j => s.tookRow t (s.readAt t e gl first ds j) e.rb) (s0.tookSrcs t r)
  match s.readOp t r 1, (if (r.desc 2).isSome then s.readOp t r 2 else .ok []), (if smode = 2 then s.readOp t r 3 else .ok []),
      cands.mapM (fun j => match s.rowVals t e (s.readAt t e gl first ds j) with
        | .ok v => (.ok (j, v) : Except KErr (Nat × List Val))
        | .error x => .error x) with
  | .error f, _, _, _ => s.opFaulted t tag [] f
  | _, .error f, _, _ => s.opFaulted t tag [] f
  | _, _, .error f, _ => s.opFaulted t tag [] f
  | _, _, _, .error x => s.kvErr t tag r x
  | .ok qs, .ok ws, .ok ls, .ok rows =>
    let d2 := r.td 2
    let inp : AIn :=
      { q := d1.rowsOf qs, mq := d1.n1, cands := rows
        up := if (r.desc 2).isSome then some (fun h n => (List.range e.rank).map (fun k => valAt ws (d2.index n k h 0))) else none
        dh := d2.n0 / 2, sscale := sext 16 (bits r.gb.toNat 48 16)
        sees := fun x j => e.visible gl (r.xfb 84 1 = 1) (bits r.ga.toNat 16 24 + x) j }
    let d0 := r.td 0
    let md : AMode := ⟨smode, out, d0.fmt, d0.tso, (r.td 3).tso⟩
    let res := inp.run (fun i ks => if out = 2 then attnProbs (valAt ls i) (bits r.gb.toNat 0 24) d0.n0 ks
      else attnOut md d0.n0 ks)
    let ps := attnPasses r e.rank (cands.length / 1024 + 1) cands.length
    let s1 := ((s.count F.RB_CNT_PASS_COUNT t.val ps.1).count F.RB_CNT_ROW_COUNT t.val ps.2).count F.KVE_CNT_KEYS_COUNT t.val cands.length
    let s2 := s1.scratchUsed t r.attnScratch
    match firstAFault res with
    | some (row, col) => s2.rangeTrap t tag r 1 row col
    | none =>
      s2.finishOp t tag r unitKve (⟨0, res.flatMap ARes.outs, r.kvRnd⟩ ::
        (if smode = 2 then [] else [⟨3, res.map ARes.statOf, statRnd⟩]))

/-- Increment a list of frames; the state, how many were added, and what went wrong. -/
def State.forkRefs (s : State) (t : Fin 8) (k : Nat) : List Nat → Nat → State × Nat × Option KErr
  | [], n => (s, n, none)
  | d :: ds, n => match s.refInc t k (pdFrame d) with
    | .error x => (s, n, some x)
    | .ok s1 => s1.forkRefs t k ds (n + 1)

/-- Copy the parent's global rows into the child's store. -/
def State.forkRows (s : State) (t : Fin 8) (e c : SeqEnt) : Nat → State × Option KErr
  | 0 => (s, none)
  | n + 1 =>
    let g := e.gcount - (n + 1)
    match s.rowBytes t (.va (e.growVa g)) e.rb with
    | .error x => (s, some x)
    | .ok bs => match (s.tookRow t (.va (e.growVa g)) e.rb).putRow t (.va (c.growVa g)) bs with
      | .error x => (s, some x)
      | .ok s1 => s1.forkRows t e c n

/-- KV.FORK (R288). -/
def State.runFork (s : State) (t : Fin 8) (tag : Nat) (r : OpRec) (e : SeqEnt) (ds : List Nat) : State :=
  let ch := bits r.gb.toNat 0 16
  let a := s.forkRefs t e.psize ds 0
  let undo (s : State) : State := (ds.take a.2.1).foldl (fun s d => s.refUndo t e.psize (pdFrame d)) s
  match a.2.2 with
  | some x => (undo a.1).kvErr t tag r x
  | none =>
    let b := a.1.forkRows t e (s.seqEnt t ch) (if e.win = 0 then 0 else e.gcount)
    match b.2 with
    | some x => (undo b.1).kvErr t tag r x
    | none => (b.1.seqSet t ch 64 32 e.len).opDone t tag

/-- The last step of KV.RELEASE: FREE, with LEN and RDONE 0 (R289). -/
def State.releaseEnd (s : State) (t : Fin 8) (tag : Nat) (r : OpRec) : State :=
  let n := r.kvSeq
  let e := s.seqEnt t n
  ((((s.seqSet t n 64 32 0).seqSet t n 416 24 0).seqSet t n 0 64
    (setBits (setBits e.raw 0 2 0 % 2 ^ 64) 32 16 (e.epoch + 1))).claim (.op t.val r.seq)).opDone t tag

/-- KV.RELEASE acts on the descriptors it has (R289): after each decrement it writes RDONE, and it waits while the ring is full. A descriptor
leaves the queue, and counts as consumed, when it is acted on (Table 11-8). -/
def State.releaseRefs (s : State) (t : Fin 8) (tag : Nat) (r : OpRec) (e : SeqEnt) : List Nat → State
  | [] =>
    let s1 := s.onTile t (fun x => { x with kve := { x.kve with got := [] } })
    if (s1.tile t).kve.cur.any (fun q => decide (q.seq = r.seq)) then s1 else s1.releaseEnd t tag r
  | d :: ds =>
    match s.refDec t e.psize (pdFrame d) with
    | .error x =>
      ((s.count F.KVE_CNT_DESC_COUNT t.val 1).onTile t (fun x => { x with kve := { x.kve with
        got := [], cur := if x.kve.cur.any (fun q => decide (q.seq = r.seq)) then none else x.kve.cur } })).kvErr t tag r x
    | .ok none => s.onTile t (fun x => { x with kve := { x.kve with got := d :: ds } })
    | .ok (some s1) =>
      let n := r.kvSeq
      (((s1.count F.KVE_CNT_DESC_COUNT t.val 1).seqSet t n 416 24 ((s1.seqEnt t n).rdone + 1)).onOp t tag (fun q => { q with pos := q.pos + 1 })).releaseRefs t tag r e ds

/-- KV.RELEASE marks its entry RELEASING (R289). -/
def State.releaseMark (s : State) (t : Fin 8) (r : OpRec) (e : SeqEnt) : State :=
  if e.st = 2 then s
  else s.seqSet t r.kvSeq 0 64 (setBits (setBits e.raw 0 2 2 % 2 ^ 64) 32 16 (e.epoch + 1))

/-- The global positions an operation reads (R282): KV.SEQSET and KV.RELEASE read none of their entry's, and KV.FORK copies rows only. -/
def State.kvGlobals (s : State) (t : Fin 8) (r : OpRec) (e : SeqEnt) : Except KErr (List Nat) :=
  if r.op = .kvAppend ∨ r.op = .kvGather ∨ r.op = .kvAttn then s.globals t e else .ok []

/-- Run an operation whose pages, if it needs any, are known. -/
def State.kvExec (s : State) (t : Fin 8) (tag : Nat) (r : OpRec) (e : SeqEnt) (ds : List Nat) : State :=
  match s.kvGlobals t r e with
  | .error x => s.kvErr t tag r x
  | .ok gl =>
    let first := (s.kvPages t r e gl).1
    (match r.op with
      | .kvSeqset => s.runSeqset t tag r e
      | .kvAppend => s.runAppend t tag r e gl ds
      | .kvGather => s.runGather t tag r e gl first ds
      | .kvAttn => s.runAttn t tag r e gl first ds
      | .kvFork => s.runFork t tag r e ds
      | _ => s.releaseRefs t tag r e ds).claim (.op t.val r.seq)

/-! ### Starting operations (R191, R274, R278, R290) -/

/-- The rows an operation reads at tile virtual addresses. -/
def OpRec.kvRanges (r : OpRec) (e : SeqEnt) (gl : List Nat) : List (Nat × Nat) :=
  if r.op = .kvGather ∨ r.op = .kvAttn then
    (r.kvTokens e gl).filterMap (fun j =>
      if e.holds j then (if e.wmode = 0 then some (e.tokenVa j, e.rb) else none)
      else (firstIdx (fun g => decide (g = j)) gl 0).map (fun g => (e.growVa g, e.rb)))
  else if r.op = .kvFork then (List.range (if e.win = 0 then 0 else e.gcount)).map (fun g => (e.growVa g, e.rb))
  else []

/-- The rows an append writes at tile virtual addresses. -/
def OpRec.kvWrites (r : OpRec) (e : SeqEnt) (gl : List Nat) : List (Nat × Nat) :=
  if r.op = .kvAppend then
    (List.range (r.td 1).n1).flatMap (fun i =>
      (if e.wmode = 0 then [(e.tokenVa (e.len + i), e.rb)] else []) ++
        ((firstIdx (fun g => decide (g = e.len + i)) gl 0).map (fun g => (e.growVa g, e.rb))).toList)
  else []

/-- An operation's progress total (Table 11-6). -/
def OpRec.kvTotal (r : OpRec) (e : SeqEnt) (gl : List Nat) : Nat :=
  match r.op with
  | .kvAppend => (r.td 1).n1
  | .kvGather => (r.td 0).n1
  | .kvAttn => (attnCands e gl r).length
  | .kvFork | .kvRelease => e.held
  | _ => 1

/-- The host pages an operation's rows reach and the ATC does not hold (R381). -/
def State.kvHost (s : State) (t : Fin 8) (l : List (Nat × Nat)) : List Nat :=
  let f := s.ownerOf t.val
  if !(s.fn f).ats then []
  else (l.flatMap (fun p => (piecesOf 4096 p.1 p.2).map (·.1))).filterMap (fun a => match s.translate t .read a with
    | .ok pa => if s.atsNeeds f pa then some pa else none
    | .error _ => none)

/-- Start an operation whose conditions hold: ask other ranks, queue a walk request, or run it. -/
def State.kvGo (s : State) (t : Fin 8) (tag : Nat) (r : OpRec) (e : SeqEnt) (gl : List Nat) : State :=
  let far := if r.phase = 0 then s.farPieces t (r.kvRanges e gl) else []
  let host := if r.phase = 0 then s.kvHost t (r.kvRanges e gl ++ r.kvWrites e gl) else []
  if far ≠ [] ∨ host ≠ [] then
    ((s.askFar t r.seq far).atsAsks (s.ownerOf t.val) host).onOp t tag (fun q => { q with phase := 4, work := [e.raw] })
  else
    let s1 := if r.op = .kvRelease then s.releaseMark t r e else s
    let w := s1.kvPages t r e gl
    let r1 : OpRec := { r with st := .run, phase := 1, work := [e.raw], total := r.kvTotal e gl, pos := if r.op = .kvRelease then e.rdone else 0 }
    let s2 := s1.onOp t tag (fun _ => r1)
    if r.op ≠ .kvSeqset ∧ e.wmode = 1 ∧ w.2.1 ≠ 0 then
      s2.onTile t (fun x => { x with kve := { x.kve with queue := x.kve.queue ++ [walkReq r e w] } })
    else s2.kvExec t tag r1 e []

/-- Start an operation: the entry, its conditions, then its work. -/
def State.kvStart (s : State) (t : Fin 8) (tag : Nat) (r : OpRec) : State :=
  match s.seqMem t r.kvSeq with
  | .error x => s.kvErr t tag r x
  | .ok _ =>
    let e := match r.work with | v :: _ => SeqEnt.of v | [] => s.seqEnt t r.kvSeq
    match s.kvState t r e with
    | .error x => s.kvErr t tag r x
    | .ok _ =>
      match s.kvGlobals t r e with
      | .error x => s.kvErr t tag r x
      | .ok gl => match s.kvCheck t r e gl with
        | .error x => s.kvErr t tag r x
        | .ok _ => ((s.kvTouch t (s.seqAddr t r.kvSeq) 64).tookRow t (.va e.glist) (4 * gl.length)).kvGo t tag r e gl

/-- KV.ATTN and KV.GATHER read their entry at dispatch (R292). -/
def State.kvCapture (s : State) (t : Fin 8) (r : OpRec) : OpRec :=
  if r.op = .kvAttn ∨ r.op = .kvGather then { r with work := [(s.seqEnt t r.kvSeq).raw] } else r

/-- A QUEUED KV operation may start: older ones on its sequence have started, and those that change the entry are over; a KV.ATTN
waits for its place in the MM order (R84, R191, R297). -/
def State.kvMay (s : State) (t : Fin 8) (r : OpRec) : Bool :=
  let x := s.tile t
  let reads (q : OpRec) : Bool := q.op = .kvAttn || q.op = .kvGather
  r.op.cls = 4 && r.st = .queued && r.trap.isNone && !s.opReadsOut t r.seq && (r.phase ≠ 4 || (s.fn (s.ownerOf t.val)).atcAsked = []) &&
    x.ops.all (fun p =>
      let q := p.2
      !(q.op.cls = 4 && decide (q.seq < r.seq) && q.kvSeq = r.kvSeq) ||
        (q.st = .ack || (q.st = .run && (reads r || reads q)))) &&
    (r.op ≠ .kvAttn || (x.rbHead.map (fun p => p.2.seq)) = some r.seq)

/-- An operation that waited on a full freed-frame ring goes on. -/
def State.kvResume (s : State) (t : Fin 8) : State :=
  (s.tile t).ops.foldl (fun s p =>
    let r := p.2
    if r.trap.isSome ∨ r.st ≠ .run then s
    else
      let e := SeqEnt.of (r.work.headD 0)
      if r.op = .kvAppend ∧ r.phase = 2 then (s.kvTakes t p.1 r e.psize (r.work.drop 1)).claim (.op t.val r.seq)
      else if r.op = .kvRelease ∧ (s.tile t).kve.got ≠ [] then (s.releaseRefs t p.1 r e (s.tile t).kve.got).claim (.op t.val r.seq)
      else s) s

/-- Start what the KVE may start, oldest first. -/
def State.kvPump (s : State) (t : Fin 8) : Nat → State
  | 0 => s
  | k + 1 => match (s.tile t).oldest (fun r => s.kvMay t r) with
    | some (tag, r) => (s.kvStart t tag r).kvPump t k
    | none => s

/-- Let the KVE go on. -/
def State.kvRun (s : State) (t : Fin 8) : State := (s.kvResume t).kvPump t 512

/-- The KVE waits on a full freed-frame ring (CNT_FREE_STALL). -/
def State.kvStalled (s : State) (t : Fin 8) : Bool :=
  (s.tile t).ops.any (fun p => p.2.st = .run && p.2.trap.isNone &&
    ((p.2.op = .kvAppend && p.2.phase = 2) || (p.2.op = .kvRelease && (s.tile t).kve.got ≠ [])))

/-! ### WALK_REQUEST and KV.EMIT (R164, R278 to R280) -/

/-- Pass the oldest request to WALK, one at a time, and start the walker. -/
def State.walkRequest (s : State) (t : Fin 8) : State :=
  let x := s.tile t
  match x.kve.queue with
  | [] => s
  | q :: rest =>
    if !s.tileRuns t || x.kve.cur.isSome || x.kve.got ≠ [] || (x.thr 2).st ≠ .idle then s
    else s.onTile t (fun x => { x.onThr 2 (fun th => th.start x.csr.walkEntry [q.g1, q.g2, q.g3, q.g4]) with
      kve := ⟨rest, some q, [], 0, false⟩ })

/-- WALK_REQUEST (R278). -/
def execWalkRequest (t : Fin 8) (s : State) : Out3 := ok s (s.walkRequest t)

/-- Descriptors in the queue: those a KV.RELEASE has not acted on; every other kind is taken in at once. -/
def Tile.dqCount (x : Tile) : Nat :=
  if x.kve.cur.any (fun q => decide (bits q.g1 16 2 ≠ 3)) then 0 else x.kve.got.length

/-- The record of the operation a request serves. -/
def Tile.walkOp (x : Tile) (q : WalkReq) : Option (Nat × OpRec) := List.find? (fun p => decide (p.2.seq = q.seq)) x.ops

/-- What is wrong with a descriptor, as cause and INFO (R280); a frame that the sequence's page no longer fits is refused where rows would be
read or written (Table 11-9, POOL). -/
def State.pdFault (s : State) (t : Fin 8) (q : WalkReq) (e : SeqEnt) (d : Nat) : Option (Nat × Nat) :=
  let seen := (s.tile t).kve.seen
  let page := bits q.g2 0 24 + seen
  let n := s.rd F.KVE_POOL_CFG_COUNT t.val e.psize
  if bits d 32 24 ≠ page ∨ (bits d 27 1 = 1) ≠ (seen + 1 = bits q.g2 24 24) ∨ pdBad (bits q.g1 16 2) d then some (kWalk, page)
  else if n ≤ pdFrame d then some (kPool, pdFrame d)
  else if pdSv d ∧ n ≤ pdSframe d then some (kPool, pdSframe d)
  else if bits q.g1 16 2 < 2 ∧ s.rd F.KVE_POOL_CFG_FSTRIDE t.val e.psize < e.p * e.rb then some (kPool, pdFrame d)
  else none

/-- A descriptor is accepted for the request in progress; with no request left it has no effect. -/
def State.kvAccept (s : State) (t : Fin 8) (d : Nat) : State :=
  match (s.tile t).kve.cur with
  | none => s
  | some q =>
    match (s.tile t).walkOp q with
    | none => s
    | some (tag, r) =>
      let e := SeqEnt.of (r.work.headD 0)
      let bad := s.pdFault t q e d
      let s := if bad.isNone ∧ bits q.g1 16 2 = 3 then s else s.count F.KVE_CNT_DESC_COUNT t.val 1
      match bad with
      | some (c, i) => s.walkFail t c i
      | none =>
        let last := bits d 27 1 = 1
        let got := (s.tile t).kve.got ++ [d]
        let s1 := s.onTile t (fun x => { x with kve := { x.kve with
          got := got, seen := x.kve.seen + 1, cur := if last then none else some q, ended := last } })
        if bits q.g1 16 2 = 3 then (s1.releaseRefs t tag r e got).claim (.op t.val r.seq)
        else if last then
          (s1.onTile t (fun x => { x with kve := { x.kve with got := [] } })).kvExec t tag r e got
        else s1

/-- KV.EMIT (R279, R280). -/
def execKvEmit (t : Fin 8) (th : Thr) (a : RArgs) (s : State) : Out3 :=
  ok s (s.thrInsn t th 11 a (fun s =>
    Act.ifLegal (a.gd.toNat = 0 && a.x.toNat = 0 && th = .walk && !(s.tile t).kve.ended)
      (if 32 ≤ (s.tile t).dqCount then .wait s .retry
       else .next ((s.kvAccept t ((s.ga t th a.ga).toNat + (s.g t (thrIx th) a.gb.toNat).toNat * 2 ^ 64)).kvRun t)))).settle

end Sys2Proof.Machine
end

