-- ==== Sys2Proof/Machine/Issue.lean ====
section
/-! DEFINITION. Issue of Psirra-T instructions (R156, R157, R159, R168 to R172, R178, R185, R188 to R194, R202), and every T instruction
(Tables 7-8 and 7-9). -/
namespace Sys2Proof.Machine

/-! ### Wake targets (R202) -/

/-- The queues an operation's messages go to. -/
def State.sendsTo (s : State) (t : Fin 8) (r : OpRec) : List QRef :=
  match r.op with
  | .ldSend => [s.chanDest t (ldChan r.ga)]
  | .ldMcast => s.members t (ldGroup r.ga)
  | _ => []

/-- What an operation reaches through the fabric beside its footprint: the LEPs its messages go to, and the combiner's root tile. -/
def State.linkTargets (s : State) (t : Fin 8) (r : OpRec) : List WakeT :=
  let link (rank tile : Nat) : List WakeT :=
    if rank ≠ s.rank then [.fab 4] else if tile = t.val then [] else [.mem tile, .fab (tileFab tile)]
  let g := (r.d.getD 0 0).toNat
  let comb : Bool := r.op = .ldTreduce || (r.op.cls = 0 && r.xfb 87 1 = 1)
  (if r.op.cls = 5 || comb then [WakeT.fab (tileFab t.val)] else []) ++ (s.sendsTo t r).flatMap (fun d => link d.rank d.tile) ++
    (if comb then link s.rank (rgdRoot g) ++ (if rgdFen g then [WakeT.fab 4] else []) else [])

/-- The wake targets of an operation (R202). -/
def State.wakeTargets (s : State) (t : Fin 8) (r : OpRec) : List WakeT :=
  (((ivlPages (r.reads ++ r.writes)).filterMap (fun a => s.pagePa t a)).flatMap (fun pa => s.crosses (some t) pa) ++ s.linkTargets t r).eraseDups

/-- Ask for every target of an operation that is not awake. -/
def State.wakeAll (s : State) (t : Fin 8) (r : OpRec) : State := (s.wakeTargets t r).foldl (fun s w => s.raiseWake w) s

/-! ### Taking a tag (R185, R188, R192, R194, R199) -/

/-- The first free tag, next-fit. -/
def Tile.freeTag (x : Tile) : Option Nat :=
  ((List.range 256).map (fun i => (x.nextTag + i) % 256)).find? (fun g => (x.ops.find? g).isNone)

/-- Two sets of intervals conflict (R188). -/
def clash (r1 w1 r2 w2 : List Ivl) : Bool := ivlsMeet r1 w2 || ivlsMeet w1 r2 || ivlsMeet w1 w2

/-- Sequence numbers an operation waits for by footprint: unretired operations and trap holds, but a reissue neither waits for the
hold it takes over nor for what waits on it (Table 7-14). -/
def Tile.hazards (x : Tile) (p : Plan) (hold : Option Nat) : List Nat :=
  let behind (r : OpRec) : Bool := match hold with | some q => r.deps.contains q | none => false
  (x.ops.filter (fun o => !behind o.2 && clash p.reads p.writes o.2.reads o.2.writes)).map (fun o => o.2.seq) ++
    (x.holds.filter (fun h => decide (hold ≠ some h.seq) && clash p.reads p.writes h.reads h.writes)).map (·.seq)

/-- An earlier operation that a fence of a code waits for (Table 8-4). -/
def fenceWaits (fcls : Nat) (r : OpRec) : Bool :=
  match fcls with
  | 1 => r.writes ≠ []
  | 2 => r.op.cls = 5
  | _ => true

/-- Sequence numbers an operation waits for through its token, fences, and its own fence class (R192, R194). -/
def Tile.tokenDeps (x : Tile) (op : TOp) (a : TArgs) : List Nat :=
  (x.ops.filter (fun o =>
    let r := o.2
    (a.wtok.toNat ≠ 0 && r.stok = a.wtok.toNat) || r.op = .syFence ||
      (op = .syFence && fenceWaits (xfOf a 80 4) r))).map (fun o => o.2.seq)

/-- Token t is signalled (R193) (DEDUCED, unsafe, log entry 40). -/
def Tile.signal (x : Tile) (tok : Nat) : Tile :=
  if tok = 0 then x else { x with sigDone := x.sigDone ||| BitVec.ofNat 32 (2 ^ tok) }

/-- An instruction issues as an operation under a tag; the TMU translates its footprint (R202, DESIGN CHOICE, unsafe, log entry 8). -/
def State.takeTag (s : State) (t : Fin 8) (tag : Nat) (op : TOp) (a : TArgs) (iaddr : Nat) (i : TIn) (p : Plan) (hold : Option Nat) : State :=
  let x := s.tile t
  let r : OpRec :=
    { op := op, tag := tag, st := .wait, ready := false, seq := x.opSeq, insn := tWord op a, iaddr := iaddr, d := i.d, ga := i.ga, gb := i.gb
      reads := p.reads, writes := p.writes, deps := x.hazards p hold, tdeps := x.tokenDeps op a, stok := a.stok.toNat
      pos := 0, total := p.total, acks := 0, trap := none, trapped := false, status := 0, phase := 0, work := [] }
  let s1 := (s.count F.TSC_CNT_ISSUE_COUNT t.val 1).onTile t (fun x => { x with
    ops := x.ops.put tag r, done := x.done.erase tag, nextTag := (tag + 1) % 256, opSeq := x.opSeq + 1, lastOp := some r, lastTag := tag
    rb := x.rb.issued op i })
  (s1.wakeAll t r).touchPages t (ivlPages (p.reads ++ p.writes))

/-! ### Issue checks of every operation -/

/-- Fields of the SY and CT operations (Table 7-9); those that take no tag carry no token. -/
def TOp.ctUse : TOp → TUse
  | .syNop => ⟨.no, .no, .no, .no, 0, false, false, false, true⟩
  | .syFence => ⟨.no, .no, .no, .no, 0xF, false, false, false, true⟩
  | .syWake => ⟨.no, .no, .no, .no, 0xFF, false, false, false, false⟩
  | .ctWaittag => ⟨.no, .no, .no, .no, 0, false, true, false, false⟩
  | .ctTag => ⟨.no, .no, .no, .no, 0, false, false, true, false⟩
  | _ => ⟨.no, .no, .no, .no, 0, false, false, false, false⟩

/-- Issue checks of an SY or CT operation. -/
def ctPlan (op : TOp) (i : TIn) : Except Nat Plan :=
  planIf [(op.ctUse.legal i.a && (op ≠ .syFence || xfOf i.a 80 4 ≤ 4), cIllegalInsn)] ⟨[], [], 1⟩

/-- The issue checks of an operation, in the order ILLEGAL_INSN, ILLEGAL_DESC, RB_STATE, RED_GROUP, RANK. -/
def State.planOf (s : State) (t : Fin 8) (op : TOp) (i : TIn) : Except Nat Plan :=
  match op with
  | .mmPass => s.mmPassPlan t i
  | .mmPreload => mmPreloadPlan i
  | .mmDrain => s.mmDrainPlan t i
  | .vsStatpick => statpickPlan i
  | .sfEval => sfEvalPlan i
  | .sfLoad => sfLoadPlan i 7 4224
  | .sfPload => sfLoadPlan i 63 320
  | .sfRnorm => sfRnormPlan i
  | .sfSmax => sfSmaxPlan i
  | .mvCopy | .mvFill | .mvGather | .mvTrans => mvPlan op i
  | .kvSeqset | .kvAppend | .kvGather | .kvAttn | .kvFork | .kvRelease => s.kvPlan t op i
  | .ldSend => s.ldSendPlan t false i
  | .ldMcast => s.ldSendPlan t true i
  | .ldRecv => s.ldRecvPlan t i
  | .ldTreduce => s.treducePlan t i
  | .syNop | .syFence | .syWake | .ctSync | .ctWaittag | .ctTag => ctPlan op i
  | .vsAdd | .vsSub | .vsMul | .vsDiv | .vsMax | .vsMin | .vsNeg | .vsAbs | .vsHalve | .vsDouble | .vsScale | .vsCmp | .vsSel
  | .vsCvt | .vsRsum => vsPlan op i

/-- An operation whose D0 is a reduction group descriptor. -/
def TOp.isGroup (op : TOp) (a : TArgs) : Bool :=
  op = .ldTreduce || ((op = .mmDrain || (op = .mmPass && xfOf a 85 1 = 1)) && xfOf a 87 1 = 1)

/-- The descriptors an instruction captures (R169): D0 to D3, and on a group's root tile the RESULT descriptor (R118). -/
def Tile.capture (x : Tile) (t : Nat) (op : TOp) (a : TArgs) : List DReg :=
  let get (f : BitVec 6) : DReg := if f.toNat < 32 then x.getD f.toNat else 0
  let g := get a.d0
  [g, get a.d1, get a.d2, get a.d3] ++
    (if op.isGroup a && rgdRoot g.toNat = t then [x.getD (rgdResult g.toNat)] else [])

/-! ### The issue path -/

/-- SY.WAKE (R175): wake the named tiles of the same function that are in Doze, Nap or Sleep. -/
def State.syWakes (s : State) (t : Fin 8) (mask : Nat) : State :=
  allTiles.foldl (fun s u => if bits mask u.val 1 = 1 ∧ s.ownerOf u.val = s.ownerOf t.val then s.wakeTile u true else s) s

/-- What an instruction that takes no tag does. -/
def State.ctAct (s : State) (t : Fin 8) (op : TOp) (i : TIn) : Act :=
  let x := s.tile t
  match op with
  | .syWake => .next (s.syWakes t (xfOf i.a 80 8))
  | .ctSync => if x.ops = [] then .next s else .wait s .retry
  | .ctWaittag => if (x.ops.find? (bits i.ga.toNat 0 8)).isNone then .next s else .wait s .retry
  | _ => .next (s.setG t 0 i.a.gb.toNat (BitVec.ofNat 64 x.lastTag))

/-- The tile stops issuing: a NaN or Fen stop whose recorded operation has retired (R77, R78). -/
def Tile.nanStopped (x : Tile) : Bool :=
  match x.nanStop with
  | some st => (x.tagOf st.seq).isNone
  | none => false

/-- A Psirra-T instruction on MAIN once fetched (R159, R172, R178, R185): MAIN stalls before it while 16 operation traps are pending; a predicated-off one is not checked (DEDUCED, unsafe, log entry 44). -/
def State.issueAct (s : State) (t : Fin 8) (op : TOp) (a : TArgs) : Act :=
  let x := s.tile t
  if s.threadOwes t 0 || 16 ≤ x.opTraps || x.nanStopped then .wait s .retry
  else if (x.thr 0).getP (a.pg.toNat % 8) = (bits a.pg.toNat 3 1 = 1) then .next (s.onTile t (fun x => x.signal a.stok.toNat))
  else
    let i : TIn := ⟨a, x.capture t.val op a, s.g t 0 a.ga.toNat, s.g t 0 a.gb.toNat⟩
    match s.planOf t op i with
    | .error c => .trap c 0
    | .ok p =>
      if op.cls = 7 || op = .syWake then s.ctAct t op i
      else match x.freeTag with
        | none => .wait s .noTag
        | some tag => .next (s.takeTag t tag op a (x.thr 0).pc i p none)

/-- Issue a Psirra-T instruction on a thread (R156, R163, R170, R183). -/
def State.issueT (s : State) (t : Fin 8) (th : Thr) (op : TOp) (a : TArgs) : State :=
  let h := thrIx th
  let word := tWord op a
  if !s.canIssue t h then s
  else if h = 1 ∧ 4096 ≤ (s.thr t h).hsteps then s.raiseSync t h 0 cHandlerBound 0 word
  else match s.fetchCheck t h 16 with
    | .error f => (s.fetchReach t h 16).fetchFault t h f
    | .ok _ => match s.fetchAts t h with
    | some s1 => s1
    | none =>
      let s1 := ((s.fetchReach t h 16).cacheInsn t h word).count F.TCC_CNT_ISSUE_T_COUNT t.val (if (s.thr t h).st = .ready then 1 else 0)
      if (s.thr t h).pc % 16 ≠ 0 then s1.raiseSync t h 0 cIllegalInsn 0 (word % 2 ^ 32)
      else if h ≠ 0 then s1.raiseSync t h 1 cIllegalInsn 0 word
      else s1.act t h 16 1 word (s1.issueAct t op a)

/-! ### The instructions -/

/-- MM.PASS (R82, R95, R99). -/
def execMmPass (t : Fin 8) (th : Thr) (a : TArgs) (s : State) : Out3 := ok s (s.issueT t th .mmPass a)

/-- MM.PRELOAD (R82, R95, R99). -/
def execMmPreload (t : Fin 8) (th : Thr) (a : TArgs) (s : State) : Out3 := ok s (s.issueT t th .mmPreload a)

/-- MM.DRAIN (R82, R95, R99). -/
def execMmDrain (t : Fin 8) (th : Thr) (a : TArgs) (s : State) : Out3 := ok s (s.issueT t th .mmDrain a)

/-- VS.ADD (Table 7-8). -/
def execVsAdd (t : Fin 8) (th : Thr) (a : TArgs) (s : State) : Out3 := ok s (s.issueT t th .vsAdd a)

/-- VS.SUB (Table 7-8). -/
def execVsSub (t : Fin 8) (th : Thr) (a : TArgs) (s : State) : Out3 := ok s (s.issueT t th .vsSub a)

/-- VS.MUL (Table 7-8). -/
def execVsMul (t : Fin 8) (th : Thr) (a : TArgs) (s : State) : Out3 := ok s (s.issueT t th .vsMul a)

/-- VS.DIV (Table 7-8). -/
def execVsDiv (t : Fin 8) (th : Thr) (a : TArgs) (s : State) : Out3 := ok s (s.issueT t th .vsDiv a)

/-- VS.MAX (Table 7-8). -/
def execVsMax (t : Fin 8) (th : Thr) (a : TArgs) (s : State) : Out3 := ok s (s.issueT t th .vsMax a)

/-- VS.MIN (Table 7-8). -/
def execVsMin (t : Fin 8) (th : Thr) (a : TArgs) (s : State) : Out3 := ok s (s.issueT t th .vsMin a)

/-- VS.NEG (Table 7-8). -/
def execVsNeg (t : Fin 8) (th : Thr) (a : TArgs) (s : State) : Out3 := ok s (s.issueT t th .vsNeg a)

/-- VS.ABS (Table 7-8). -/
def execVsAbs (t : Fin 8) (th : Thr) (a : TArgs) (s : State) : Out3 := ok s (s.issueT t th .vsAbs a)

/-- VS.HALVE (Table 7-8). -/
def execVsHalve (t : Fin 8) (th : Thr) (a : TArgs) (s : State) : Out3 := ok s (s.issueT t th .vsHalve a)

/-- VS.DOUBLE (Table 7-8). -/
def execVsDouble (t : Fin 8) (th : Thr) (a : TArgs) (s : State) : Out3 := ok s (s.issueT t th .vsDouble a)

/-- VS.SCALE (Table 7-8). -/
def execVsScale (t : Fin 8) (th : Thr) (a : TArgs) (s : State) : Out3 := ok s (s.issueT t th .vsScale a)

/-- VS.CMP (Table 7-8). -/
def execVsCmp (t : Fin 8) (th : Thr) (a : TArgs) (s : State) : Out3 := ok s (s.issueT t th .vsCmp a)

/-- VS.SEL (Table 7-8). -/
def execVsSel (t : Fin 8) (th : Thr) (a : TArgs) (s : State) : Out3 := ok s (s.issueT t th .vsSel a)

/-- VS.CVT (Table 7-8). -/
def execVsCvt (t : Fin 8) (th : Thr) (a : TArgs) (s : State) : Out3 := ok s (s.issueT t th .vsCvt a)

/-- VS.RSUM (Table 7-8). -/
def execVsRsum (t : Fin 8) (th : Thr) (a : TArgs) (s : State) : Out3 := ok s (s.issueT t th .vsRsum a)

/-- VS.STATPICK (Table 7-8). -/
def execVsStatpick (t : Fin 8) (th : Thr) (a : TArgs) (s : State) : Out3 := ok s (s.issueT t th .vsStatpick a)

/-- SF.EVAL (Table 7-8). -/
def execSfEval (t : Fin 8) (th : Thr) (a : TArgs) (s : State) : Out3 := ok s (s.issueT t th .sfEval a)

/-- SF.LOAD (Table 7-8). -/
def execSfLoad (t : Fin 8) (th : Thr) (a : TArgs) (s : State) : Out3 := ok s (s.issueT t th .sfLoad a)

/-- SF.PLOAD (Table 7-8). -/
def execSfPload (t : Fin 8) (th : Thr) (a : TArgs) (s : State) : Out3 := ok s (s.issueT t th .sfPload a)

/-- SF.RNORM (Table 7-8). -/
def execSfRnorm (t : Fin 8) (th : Thr) (a : TArgs) (s : State) : Out3 := ok s (s.issueT t th .sfRnorm a)

/-- SF.SMAX (Table 7-8). -/
def execSfSmax (t : Fin 8) (th : Thr) (a : TArgs) (s : State) : Out3 := ok s (s.issueT t th .sfSmax a)

/-- MV.COPY (Table 7-9). -/
def execMvCopy (t : Fin 8) (th : Thr) (a : TArgs) (s : State) : Out3 := ok s (s.issueT t th .mvCopy a)

/-- MV.FILL (Table 7-9). -/
def execMvFill (t : Fin 8) (th : Thr) (a : TArgs) (s : State) : Out3 := ok s (s.issueT t th .mvFill a)

/-- MV.GATHER (Table 7-9). -/
def execMvGather (t : Fin 8) (th : Thr) (a : TArgs) (s : State) : Out3 := ok s (s.issueT t th .mvGather a)

/-- MV.TRANS (Table 7-9). -/
def execMvTrans (t : Fin 8) (th : Thr) (a : TArgs) (s : State) : Out3 := ok s (s.issueT t th .mvTrans a)

/-- KV.SEQSET (Table 11-5). -/
def execKvSeqset (t : Fin 8) (th : Thr) (a : TArgs) (s : State) : Out3 := ok s (s.issueT t th .kvSeqset a)

/-- KV.APPEND (Table 11-5). -/
def execKvAppend (t : Fin 8) (th : Thr) (a : TArgs) (s : State) : Out3 := ok s (s.issueT t th .kvAppend a)

/-- KV.GATHER (Table 11-5). -/
def execKvGather (t : Fin 8) (th : Thr) (a : TArgs) (s : State) : Out3 := ok s (s.issueT t th .kvGather a)

/-- KV.ATTN (Table 11-5). -/
def execKvAttn (t : Fin 8) (th : Thr) (a : TArgs) (s : State) : Out3 := ok s (s.issueT t th .kvAttn a)

/-- KV.FORK (Table 11-5). -/
def execKvFork (t : Fin 8) (th : Thr) (a : TArgs) (s : State) : Out3 := ok s (s.issueT t th .kvFork a)

/-- KV.RELEASE (Table 11-5). -/
def execKvRelease (t : Fin 8) (th : Thr) (a : TArgs) (s : State) : Out3 := ok s (s.issueT t th .kvRelease a)

/-- LODE.SEND (Table 7-9). -/
def execLodeSend (t : Fin 8) (th : Thr) (a : TArgs) (s : State) : Out3 := ok s (s.issueT t th .ldSend a)

/-- LODE.MCAST (Table 7-9). -/
def execLodeMcast (t : Fin 8) (th : Thr) (a : TArgs) (s : State) : Out3 := ok s (s.issueT t th .ldMcast a)

/-- LODE.RECV (Table 7-9). -/
def execLodeRecv (t : Fin 8) (th : Thr) (a : TArgs) (s : State) : Out3 := ok s (s.issueT t th .ldRecv a)

/-- LODE.TREDUCE (Table 7-9). -/
def execLodeTreduce (t : Fin 8) (th : Thr) (a : TArgs) (s : State) : Out3 := ok s (s.issueT t th .ldTreduce a)

/-- SY.NOP (Table 7-9). -/
def execSyNop (t : Fin 8) (th : Thr) (a : TArgs) (s : State) : Out3 := ok s (s.issueT t th .syNop a)

/-- SY.FENCE (Table 7-9). -/
def execSyFence (t : Fin 8) (th : Thr) (a : TArgs) (s : State) : Out3 := ok s (s.issueT t th .syFence a)

/-- SY.WAKE (Table 7-9). -/
def execSyWake (t : Fin 8) (th : Thr) (a : TArgs) (s : State) : Out3 := ok s (s.issueT t th .syWake a)

/-- CT.SYNC (Table 7-9). -/
def execCtSync (t : Fin 8) (th : Thr) (a : TArgs) (s : State) : Out3 := ok s (s.issueT t th .ctSync a)

/-- CT.WAITTAG (Table 7-9). -/
def execCtWaittag (t : Fin 8) (th : Thr) (a : TArgs) (s : State) : Out3 := ok s (s.issueT t th .ctWaittag a)

/-- CT.TAG (Table 7-9). -/
def execCtTag (t : Fin 8) (th : Thr) (a : TArgs) (s : State) : Out3 := ok s (s.issueT t th .ctTag a)

end Sys2Proof.Machine
end

