-- ==== Sys2Proof/Machine/Tsc.lean ====
section
/-! DEFINITION. An operation's life in the TSC (R186, R187, R190 to R204): leaving WAIT and WAKE, dispatch, acknowledgement, retirement, and
the progress snapshot. -/
namespace Sys2Proof.Machine

/-! ### Leaving WAIT and WAKE -/

/-- Each message an LD operation before a fence sent has been placed in its queue (Table 8-4, LODE). -/
def State.lodePlaced (s : State) (t : Fin 8) (seq : Nat) : Bool := (s.tile t).lep.sent.all (fun m => decide (seq ≤ m.op))

/-- Every write of an earlier operation to another rank has been acknowledged by its memory (Table 8-4, FEN). -/
def State.fenWritesDone (s : State) (t : Fin 8) (seq : Nat) : Bool :=
  !s.owes (fun w => match w with | .op u q => decide (u = t.val) && decide (q < seq) | _ => false)

/-- A fence's condition beyond the retirement of its class (R194); HOST waits until no relaxed order holds a write back from the host (R380). -/
def State.fenceHolds (s : State) (t : Fin 8) (r : OpRec) : Bool :=
  match r.xfb 80 4 with
  | 2 => s.lodePlaced t r.seq
  | 3 => s.fenWritesDone t r.seq
  | 4 => s.relaxed.isEmpty
  | _ => true

/-- The operation's last effect is done, with nothing left to acknowledge. -/
def OpRec.finished (r : OpRec) : OpRec := { r with st := .ack, pos := r.total, acks := 0 }

/-- An operation leaves WAIT (R190): SY.NOP and a fence whose condition holds have had their last effect; another goes on to WAKE,
or is ready when every target is awake. -/
def State.leaveWait (s : State) (t : Fin 8) (tag : Nat) : State :=
  match (s.tile t).ops.find? tag with
  | none => s
  | some r =>
    if r.st ≠ .wait || r.ready || r.deps ≠ [] || r.tdeps ≠ [] || !s.unitsRun t then s
    else s.onOp t tag (fun r =>
      if r.op = .syNop then r.finished
      else if r.op = .syFence then (if s.fenceHolds t r then r.finished else { r with st := .run })
      else if (s.wakeTargets t r).all (fun w => s.awake w) then { r with ready := true }
      else { r with st := .wake }) |>.wakeAll t r

/-- OPERATION_LEAVE_WAIT (R190). -/
def execOperationLeaveWait (t : Fin 8) (tag : BitVec 8) (s : State) : Out3 := ok s (s.leaveWait t tag.toNat).settle

/-- OPERATION_LEAVE_WAKE (R202): every target is in Run; a target that sleeps again is asked for again. -/
def execOperationLeaveWake (t : Fin 8) (tag : BitVec 8) (s : State) : Out3 :=
  ok s (match (s.tile t).ops.find? tag.toNat with
    | none => s
    | some r =>
      if r.st ≠ .wake then s
      else if (s.wakeTargets t r).all (fun w => s.awake w) then s.onOp t tag.toNat (fun r => { r with ready := true })
      else s.wakeAll t r)

/-! ### Dispatch (R196, R203, R304) -/

/-- The bytes such an operation reads, as the stacks count them (Table 9-9); a message's are counted as it is accepted. -/
def State.tookDirect (s : State) (t : Fin 8) (r : OpRec) : State :=
  match r.op with
  | .sfLoad => s.tookVas t (granules (r.td 1).base 4224)
  | .sfPload => s.tookVas t (granules (r.td 1).base 320)
  | .ldSend | .ldMcast => s
  | _ => s.tookSrcs t r

/-- Run an operation of the VSU, the SFU or the LEP that stands in its unit's queue. -/
def State.runDirect (s0 : State) (t : Fin 8) (tag : Nat) (r : OpRec) : State :=
  let s := s0.tookDirect t r
  (match r.op with
    | .vsStatpick => s.runStatpick t tag r
    | .sfEval => s.runSfEval t tag r
    | .sfLoad => s.runSfLoad t tag r
    | .sfPload => s.runSfPload t tag r
    | .sfRnorm => s.runRnorm t tag r
    | .sfSmax => s.runSmax t tag r
    | .ldSend | .ldMcast => s.onOp t tag (fun r => { r with st := .run })
    | .ldTreduce => s.runTreduce t tag r
    | _ => if r.op.cls = 1 then s.runVs t tag r else s).claim (.op t.val r.seq)

/-- An operation that its unit runs as soon as it has what it reads. -/
def OpRec.direct (r : OpRec) : Bool := (r.op.cls = 1 || r.op.cls = 2 || (r.op.cls = 5 && r.op ≠ .ldRecv)) && r.st = .queued

/-- An SF operation waits in its unit's queue while an earlier one that uses its slot or program is unretired (R135, R191). -/
def State.sfWaits (s : State) (t : Fin 8) (r : OpRec) : Bool :=
  r.op.cls = 2 && (s.tile t).ops.any (fun o => o.2.op.cls = 2 && decide (o.2.seq < r.seq) &&
    resClash (s.sfRes t o.2.op (o.2.xfb 80 8)) (s.sfRes t r.op (r.xfb 80 8)))

/-- A direct operation of a class can run: what it reads is here, and nothing of its unit holds it. -/
def State.directMay (s : State) (t : Fin 8) (cls : Nat) (r : OpRec) : Bool :=
  r.op.cls = cls && r.direct && !s.opReadsOut t r.seq && !s.statHeld t r && !s.sfWaits t r

/-- Run the direct operations of a class that can run, oldest first. -/
def State.directPump (t : Fin 8) (cls : Nat) : Nat → State → State
  | 0, s => s
  | k + 1, s => match (s.tile t).oldest (fun r => s.directMay t cls r) with
    | some (tag, r) => State.directPump t cls k (s.runDirect t tag r)
    | none => s

/-- Every unit of a tile does what it can, in the order of the UNIT codes, so that of the NaNs of one command the lowest UNIT is recorded
first (R75). -/
def State.unitsGo (s : State) (t : Fin 8) : State :=
  let s1 := State.directPump t 2 256 (State.directPump t 1 256 (s.rbRun t))
  ((State.directPump t 5 256 ((s1.kvRun t).mvRun t)).recvRun t)

/-- Operands an operation writes, an odd one out being RESULT as operand 4. -/
def OpRec.dests (r : OpRec) : List Nat :=
  let also3 : List Nat := if (r.desc 3).isSome ∧ r.xfb 80 2 ≠ 2 then [3] else []
  match r.op with
  | .mmPass => if r.xfb 85 1 = 0 then [] else if r.xfb 87 1 = 0 then [0] else if r.d.length = 5 then [4] else []
  | .mmDrain => if r.xfb 87 1 = 0 then [0] else if r.d.length = 5 then [4] else []
  | .ldTreduce => if r.d.length = 5 then [4] else []
  | .sfRnorm => if (r.desc 3).isSome then [0, 3] else [0]
  | .sfSmax | .kvAttn => 0 :: also3
  | .mmPreload | .vsStatpick | .sfLoad | .sfPload | .kvSeqset | .kvAppend | .kvFork | .kvRelease | .ldSend | .ldMcast | .syNop
  | .syFence | .syWake | .ctSync | .ctWaittag | .ctTag => []
  | _ => [0]

/-- The Scale Statistics entry outside the assignment that an operation names, with its operand (R304). -/
def State.badStat (s : State) (t : Fin 8) (r : OpRec) : Option Nat :=
  r.dests.find? (fun k => s.statOn t (r.td k) && s.statBad t (r.td k).stat)

/-- The lowest address of an operation's footprint that lies in Off memory (R203). -/
def State.offAddr (s : State) (t : Fin 8) (r : OpRec) : Option Nat :=
  ((ivlPages (r.reads ++ r.writes)).filter (fun a => match s.pagePa t a with | some pa => s.memOff pa | none => false)).foldl
    (fun b a => match b with | some c => some (min a c) | none => some a) none

/-- The descriptor operand whose footprint holds an address. -/
def OpRec.descAt (r : OpRec) (a : Nat) : Nat :=
  match [0, 1, 2, 3].find? (fun k => match r.desc k with
    | some d => d.footprint.any (fun v => decide (v.lo ≤ a) && decide (a ≤ v.hi))
    | none => false) with
  | some k => descIx r.insn k
  | none => firstDesc r.insn

/-- An operation enters its unit's queue, or takes ACCESS at dispatch. -/
def State.enqueue (s : State) (t : Fin 8) (tag : Nat) (r : OpRec) : State :=
  match s.offAddr t r with
  | some a => s.raiseOp t tag cAccess a (r.descAt a) true
  | none => match s.badStat t r with
    | some k => s.raiseOp t tag cAccess (s.statEntry t (r.td k).stat % 2 ^ 48) (descIx r.insn k) true
    | none =>
      let work := if r.op.cls = 3 ∧ r.eng.isNone then [(s.tile t).freeEngine] else r.work
      let far := if r.op = .mvCopy ∧ byteCopy (r.td 0) (r.td 1) then [] else
        s.farPieces t (r.reads.map (fun v => (v.lo, v.hi + 1 - v.lo)))
      (((s.askFar t r.seq far).atsAsks (s.ownerOf t.val) (s.opHost t r)).onOp t tag (fun r => { s.kvCapture t r with st := .queued, work := work })).unitsGo t

/-- An operation may be dispatched. -/
def OpRec.dispatchable (r : OpRec) : Bool := (r.st = .wait || r.st = .wake) && r.ready

/-- OPERATION_DISPATCH (R196): the oldest ready operation of a class; under SERIAL the oldest ready of all, and only when no other
operation runs. -/
def State.dispatchOp (s : State) (t : Fin 8) (cls : Nat) : State :=
  let x := s.tile t
  let serial := s.flag F.TSC_CTL_SERIAL t.val
  if !s.unitsRun t || (serial && x.ops.any (fun p => p.2.st = .queued || p.2.st = .run || p.2.st = .ack)) then s
  else match x.oldest (fun r => r.dispatchable && (serial || r.op.cls = cls)) with
    | some (tag, r) => if r.op.cls = cls then s.enqueue t tag r else s
    | none => s

/-- OPERATION_DISPATCH (R196). -/
def execOperationDispatch (t : Fin 8) (cls : BitVec 3) (s : State) : Out3 := ok s (s.dispatchOp t cls.toNat).settle

/-! ### Acknowledgement (R195) -/

/-- A drain, or the root's part of a group, read an entry with LONG_INEXACT (Table 4-8). -/
def OpRec.lxDue (r : OpRec) : Bool := (r.op.cls = 0 || r.op = .ldTreduce) && r.phase = phaseLx

/-- The descriptor register LONG_INEXACT names: DST, or RESULT of a combined result. -/
def OpRec.lxDesc (r : OpRec) : Nat :=
  if r.op = .ldTreduce ∨ r.xfb 87 1 = 1 then rgdResult (r.d.getD 0 0).toNat else descIx r.insn 0

/-- WRITE_ACKNOWLEDGE: the writes of an operation issued so far are acknowledged, and a drain may raise LONG_INEXACT at its last effect
(R107); an append may then write LEN, and a fence may find its condition met. -/
def State.writeAck (s : State) (t : Fin 8) (tag : Nat) : State :=
  match (s.tile t).ops.find? tag with
  | none => s
  | some r =>
    if s.opOwes t r.seq || r.trap.isSome then s
    else if r.op = .syFence ∧ r.st = .run then (if s.fenceHolds t r then s.onOp t tag OpRec.finished else s)
    else if r.op = .kvAppend ∧ r.st = .run ∧ r.phase = 3 then s.appendLen t tag r
    else if r.st = .ack then
      let s1 := s.onOp t tag (fun r => { r with acks := r.acks - 1 })
      if r.acks = 1 ∧ r.lxDue ∧ s.flag F.RB_CTL_LX_TRAP t.val then s1.raiseOp t tag cLongInexact 0 r.lxDesc false else s1
    else s

/-- WRITE_ACKNOWLEDGE (R195). -/
def execWriteAcknowledge (t : Fin 8) (tag : BitVec 8) (s : State) : Out3 := ok s ((s.writeAck t tag.toNat).unitsGo t).settle

/-! ### Retirement (R187, R192, R193, R199, R200) -/

/-- An operation's dependents are released; those that overlap a trapped one wait on its hold (R199). -/
def OpRec.release (r : OpRec) (seq : Nat) (held : Bool) : OpRec :=
  { r with
    deps := if held then r.deps else r.deps.filter (fun d => decide (d ≠ seq))
    tdeps := r.tdeps.filter (fun d => decide (d ≠ seq)) }

/-- The job takes a retired operation's status (R395). -/
def CurJob.took (j : CurJob) (r : OpRec) : CurJob :=
  { j with
    retired := j.retired + 1
    mismatch := j.mismatch || r.status = 0x26
    abort := j.abort || r.status = 0x27 }

/-- The tile after an operation's record is gone. -/
def Tile.retired (x : Tile) (tag : Nat) (r : OpRec) : Tile :=
  ({ x with
    ops := (x.ops.erase tag).map (fun p => (p.1, p.2.release r.seq (r.trapped && x.holds.any (fun h => decide (h.seq = r.seq)))))
    done := x.done.put tag ⟨r.op, r.seq, r.total⟩
    job := x.job.map (fun j => j.took r)
    rb := if r.op = .kvAttn then { x.rb with banks := Vector.replicate 2 .reset, active := none } else x.rb } : Tile).signal r.stok

/-- Combiner slots whose group has ended take the parts that waited. -/
def State.slotsJoin (s : State) : State := (List.range 16).foldl (fun s n => s.slotJoin n) s

/-- OPERATION_RETIRE (R187): after its last effect is acknowledged. -/
def State.retireOp (s : State) (t : Fin 8) (tag : Nat) : State :=
  match (s.tile t).ops.find? tag with
  | none => s
  | some r =>
    if r.st ≠ .ack || r.acks ≠ 0 || r.trap.isSome then s
    else ((((s.count F.TSC_CNT_RETIRE_COUNT t.val 1).onTile t (fun x => x.retired tag r)).slotsJoin).unitsGo t)

/-- OPERATION_RETIRE (R187). -/
def execOperationRetire (t : Fin 8) (tag : BitVec 8) (s : State) : Out3 := ok s (s.retireOp t tag.toNat).settle

/-! ### Progress (R200, R201) -/

/-- Per-mille of a running operation. -/
def perMille (pos total : Nat) : Nat := min 999 (1000 * pos / total)

/-- The position a snapshot shows before retirement: SY operations and KV.SEQSET stay at 0 until then (Tables 8-6, 11-6). -/
def OpRec.shown (r : OpRec) : Nat := if r.op.cls = 6 ∨ r.op = .kvSeqset then 0 else r.pos

/-- Latch a tag's snapshot (R201). -/
def State.progSel (s : State) (t : Fin 8) (tag : Nat) : State :=
  let put (st cls op seq pos total pm : Nat) : State :=
    s.wrs t.val 0 [(F.TSC_PROG_SEL_TAG, tag), (F.TSC_PROG_POS_POSITION, pos), (F.TSC_PROG_POS_PERMILLE, pm), (F.TSC_PROG_TOTAL_TOTAL, total),
      (F.TSC_PROG_INFO_STATE, st), (F.TSC_PROG_INFO_CLASS, cls), (F.TSC_PROG_INFO_OP, op), (F.TSC_PROG_INFO_SEQ, seq)]
  match (s.tile t).ops.find? tag with
  | some r => put r.st.code r.op.cls r.op.num r.seq r.shown r.total (perMille r.shown r.total)
  | none => match (s.tile t).done.find? tag with
    | some d => put 0 d.op.cls d.op.num d.seq d.total d.total 1000
    | none => put 0 0 0 0 0 0 0

/-- PROG_SEL_WRITE (R201); a tile whose domain does not run ignores it (R13). -/
def execProgSelWrite (t : Fin 8) (val : BitVec 64) (s : State) : Out3 :=
  ok s (if s.unitsRun t then s.progSel t (bits val.toNat 0 8) else s)

/-! ### THR.TRET (R180, Table 7-14) -/

/-- Actions a cause allows (Table 7-13); codes from HALT up are always allowed. -/
def actionOk (cause kind action : Nat) : Bool :=
  if 3 ≤ action then true
  else match action with
    | 1 => cause = cSfSlot || cause = cRange
    | 0 => !(cause = cHandlerBound || (kind = 2 && (cause = cPageFault || cause = cAccess || cause = cMemPoison)))
    | _ => true

/-- The operation a class and number name. -/
def topOf (cls num : Nat) : Option TOp :=
  [.mmPass, .mmPreload, .mmDrain, .vsAdd, .vsSub, .vsMul, .vsDiv, .vsMax, .vsMin, .vsNeg, .vsAbs, .vsHalve, .vsDouble, .vsScale, .vsCmp,
    .vsSel, .vsCvt, .vsRsum, .vsStatpick, .sfEval, .sfLoad, .sfPload, .sfRnorm, .sfSmax, .mvCopy, .mvFill, .mvGather, .mvTrans,
    .kvSeqset, .kvAppend, .kvGather, .kvAttn, .kvFork, .kvRelease, .ldSend, .ldMcast, .ldRecv, .ldTreduce, .syNop, .syFence,
    .syWake, .ctSync, .ctWaittag, .ctTag].find? (fun (o : TOp) => decide (o.cls = cls) && decide (o.num = num))

/-- A trap hold passes to a reissued operation (R199). -/
def Tile.passHold (x : Tile) (old new : Nat) : Tile :=
  { x with
    holds := x.holds.filter (fun h => decide (h.seq ≠ old))
    ops := x.ops.map (fun p => (p.1, { p.2 with deps := p.2.deps.map (fun d => if d = old then new else d) })) }

/-- REISSUE (Table 7-14) of an instruction word; none while no tag is free or a NaN stop has stopped issue (R77). A reissue that may not
be is END; a reserved OP fails the check of R171. -/
def State.reissueWord (s : State) (t : Fin 8) (tr : Trap) (w : Nat) : Option State :=
  let x := s.tile t
  let a := tArgs w
  if bits w 0 6 ≠ bits tr.insn 0 6 ∨ bits w 15 24 ≠ bits tr.insn 15 24 then some (s.endOp t tr)
  else match topOf (bits w 3 3) (bits w 6 5) with
  | none => some (s.endOp t { tr with cause := cIllegalInsn })
  | some op =>
    if x.nanStopped then none
    else
      let i : TIn := ⟨a, tr.descs, s.g t 0 a.ga.toNat, s.g t 0 a.gb.toNat⟩
      match s.planOf t op i with
      | .error c => some (s.endOp t { tr with cause := c })
      | .ok p => match x.freeTag with
        | none => none
        | some tag => some ((s.takeTag t tag op a tr.pc i p (some tr.seq)).onTile t (fun y => y.passHold tr.seq x.opSeq))

/-- The instruction in TRAP_INSN. -/
def TrapCsr.insnWord (c : TrapCsr) : Nat := c.insn[0] + c.insn[1] * 2 ^ 32 + c.insn[2] * 2 ^ 64 + c.insn[3] * 2 ^ 96

/-- REISSUE of the instruction in TRAP_INSN. -/
def State.reissue (s : State) (t : Fin 8) (tr : Trap) : Option State := s.reissueWord t tr (s.tile t).csr.insnWord

/-- Apply an action to the active trap (Table 7-14); none while a reissue waits for a tag. -/
def State.applyAction (s : State) (t : Fin 8) (tr : Trap) (action : Nat) : Option State :=
  let act := if actionOk tr.cause tr.kind action then action else 2
  if 3 ≤ act then some (s.haltTile t)
  else if tr.kind = 2 then
    match act with
    | 0 => some (s.onTile t (fun x => x.releaseHold tr.seq))
    | 1 => s.reissue t tr
    | _ => some (s.endOp t tr)
  else if act = 2 then some (s.endUnit t tr)
  else if tr.stale then some s
  else some (s.onTile t (fun x =>
    let h : Fin 4 := ⟨tr.thread % 4, Nat.mod_lt _ (by decide)⟩
    x.onThr h (fun y => if y.st = .trap then { y with st := .ready, wait := .none, pc := x.csr.retpc % 2 ^ 48 } else y)))

/-- SVC's own trap resumed: it is what it was, READY at TRAP_RETPC; any other trap returns SVC to what it did (R180). -/
def State.leaveSvc (s : State) (t : Fin 8) (tr : Trap) : State :=
  s.onTile t (fun x =>
    let x1 := { x with active := none }
    if (x1.thr 3).st = .halted then x1
    else if tr.thread = 3 ∧ tr.kind ≠ 2 then x1
    else x1.onThr 3 (fun y => match x.csr.svcPrev with
      | .idle => { y with st := .idle, wait := .none }
      | .parked => { y with st := .parked, wait := .none }
      | _ => { y with st := .ready, wait := .none, pc := x.csr.epc }))

/-- THR.TRET (R180). -/
def execThrTret (t : Fin 8) (th : Thr) (a : RArgs) (s : State) : Out3 :=
  ok s (s.thrInsn t th 4 a (fun s =>
    Act.ifLegal (rEmpty a && th = .svc) (match (s.tile t).active with
      | none => .trap cIllegalInsn 0
      | some tr =>
        let s1 := s.retireAt t 3 ((s.thr t 3).pc + 4)
        let s2 := if tr.thread = 3 ∧ tr.kind ≠ 2 then s1.onTile t (fun x => x.onThr 3 (fun y => { y with st := .trap })) else s1
        match s2.applyAction t tr ((s.tile t).csr.action.getD 0) with
        | none => .wait s .retry
        | some s3 => .done (s3.leaveSvc t tr)))).settle

end Sys2Proof.Machine
end

