-- ==== Sys2Proof/Machine/Unit.lean ====
section
/-! DEFINITION. What management and the fault controller share: Unit State Registers (R408, R409), the fault log (R452), function
events and MSI-X messages (R397, R400). -/
namespace Sys2Proof.Machine

/-! ### Unit State Registers -/

/-- STATE codes of Table 16-5. -/
abbrev uOff : Nat := 0
/-- Being brought up. -/
abbrev uBringup : Nat := 1
/-- In service. -/
abbrev uOnline : Nat := 2
/-- Out of service by command. -/
abbrev uQuar : Nat := 3
/-- Declared failed. -/
abbrev uFailed : Nat := 4

/-- CAUSE codes of Table 16-4. -/
abbrev byCmd : Nat := 1
/-- A BAR0 write. -/
abbrev byDirect : Nat := 2
/-- The unit's own hardware. -/
abbrev byPath : Nat := 3
/-- The fault controller. -/
abbrev byFlt : Nat := 4
/-- FORCE_QUARANTINE. -/
abbrev byForce : Nat := 5
/-- A change of OWNER. -/
abbrev byPart : Nat := 6

/-- A unit's STATE. -/
def State.usr (s : State) (u : Nat) : Nat := s.rd F.FRV_USR_STATE 0 u

/-- A transition of a unit (R409): a change of STATE or OWNER increments EPOCH and writes CAUSE; a unit brought up or online counts as
failed no longer. -/
def State.usrTo (s : State) (u st owner cause : Nat) : State :=
  if st = s.usr u ∧ owner = s.rd F.FRV_USR_OWNER 0 u then s
  else
    let s1 := s.wrs 0 u [(F.FRV_USR_STATE, st), (F.FRV_USR_OWNER, owner), (F.FRV_USR_CAUSE, cause),
      (F.FRV_USR_EPOCH, s.rd F.FRV_USR_EPOCH 0 u + 1)]
    if st = uBringup ∨ st = uOnline then { s1 with flt := { s1.flt with down := s1.flt.down.filter (fun v => decide (v ≠ u)) } } else s1

/-- A change of STATE. -/
def State.usrState (s : State) (u st cause : Nat) : State := s.usrTo u st (s.rd F.FRV_USR_OWNER 0 u) cause

/-- A change of OWNER (R378). -/
def State.usrOwner (s : State) (u owner : Nat) : State := s.usrTo u (s.usr u) owner byPart

/-- A tile's STATE, its table set following it to OFF (Table 16-5) and to FAILED (R425), and to ONLINE where AUTO_ON still has that to do (R466). -/
def State.tileUsr (s : State) (t st cause : Nat) : State :=
  let s1 := s.usrState t st cause
  if st = uOff ∨ st = uBringup then (if s1.usr (32 + t) = uOff then s1 else s1.usrState (32 + t) uOff cause)
  else if st = uFailed then s1.usrState (32 + t) uFailed cause
  else if st = uOnline ∧ s.frv.retry.contains (32 + t) ∧ s.rd F.FRV_STATUS_BOOT 0 = 1 then
    ({ s1 with frv := { s1.frv with retry := s1.frv.retry.filter (fun u => decide (u ≠ 32 + t)) } } : State).usrState (32 + t) uOnline byCmd
  else s1

/-- Tiles' OWNERs follow the partitions (R377, R378). -/
def State.ownersNow (s : State) : State :=
  (List.range 8).foldl (fun s t => (s.usrOwner t (s.ownerOf t)).usrOwner (32 + t) (s.ownerOf t)) s

/-! ### The fault log (R452, Table 17-7) -/

/-- Append a record: class, code, unit, rank and INFO. -/
def State.logEvent (s : State) (cls code unit rank info : Nat) : State :=
  s.logRec cls code unit rank info (if unit < 40 then s.rd F.FRV_USR_EPOCH 0 unit else 0)

/-- Log entry i: the record k with k mod 64 = i among those kept. -/
def State.logEntry (s : State) (i : Nat) : Option LogRec :=
  let first := s.rd F.FLT_STATUS_LOG_PROD 0 + 2 ^ 32 - s.log.length
  s.log[(i + 64 - first % 64) % 64]?

/-- LOG_SEL_WRITE (R452): the four registers take one record; an entry with none reads zero. -/
def State.logSel (s : State) (i : Nat) : State :=
  let r := (s.logEntry i).getD ⟨0, 0, 0, 0⟩
  ((((s.wr F.FLT_LOG_SEL_INDEX 0 i).wr F.FLT_LOG_D_D 0 r.time 0).wr F.FLT_LOG_D_D 0 r.d1 1).wr F.FLT_LOG_D_D 0 r.info 2).wr
    F.FLT_LOG_D_D 0 r.epoch 3

/-- LOG_SEL_WRITE. -/
def execLogSelWrite (i : BitVec 6) (s : State) : Out3 := ok s (s.logSel i.toNat)

/-- An event of class OP is counted and logged (Table 17-1) (DEDUCED, unsafe, log entry 21). -/
def State.opEvent (s : State) (code unit info : Nat) : State :=
  (s.count F.FLT_CNT_OP_COUNT 0 1).logEvent 1 code unit 0 info

/-! ### MSI-X and function events (R397, R400) -/

/-- A function takes accesses and sends messages: the PF, or one of NumVFs VFs while VF Enable is set, with ARI for one beyond number 7; not
while PERST_L is low (R374, R458, Table 15-1). -/
def State.fnLive (s : State) (f : Nat) : Bool :=
  !s.pins.perst && !s.pins.cold && (f = 0 || ((s.fn 0).vfEnable && decide (f ≤ (s.fn 0).numVfs) && (decide (f ≤ 7) || (s.fn 0).ari)))

/-- AER reports an error of a function (Table 15-1): its status bit is set, at its place in PCI Express's uncorrectable error status
(PRESUMED, unsafe, log entry 20). -/
def State.aerErr (s : State) (f bit : Nat) : State :=
  (s.onFn f (fun x => { x with aer := if bits x.aer bit 1 = 1 then x.aer else x.aer + 2 ^ bit })).emit (.other "AER" [f, bit])

/-- AER bit of a poisoned TLP. -/
abbrev aerPoison : Nat := 12
/-- AER bit of a completion timeout. -/
abbrev aerTimeout : Nat := 14
/-- AER bit of a completer abort. -/
abbrev aerAbort : Nat := 15
/-- AER bit of an unsupported request. -/
abbrev aerUnsupported : Nat := 20

/-- The AER bit of a failed completion. -/
def cplBit : Sys2Proof.CplErr → Nat
  | .poisoned => aerPoison
  | .abort => aerAbort
  | .unsupported => aerUnsupported

/-- Send a function's vector, or set its Pending Bit while it is masked or MSI-X is off. -/
def State.msix (s : State) (f vec : Nat) : State :=
  if !s.fnLive f then s
  else if (s.fn f).msixEnable && !(s.fn f).msixMask.getLsbD vec then s.emit (.msix f vec)
  else s.onFn f (fun x => { x with msixPend := x.msixPend ||| (1#64 <<< vec) })

/-- Set an EVT_STATUS bit; a new one sends the event vector. -/
def State.event (s : State) (f : Nat) (b : Fld) : State :=
  if s.flag b f then s
  else
    let s1 := s.wr b f 1
    if s1.flag F.HIU_EVT_CFG_EN f then s1.msix f (s1.rd F.HIU_EVT_CFG_VEC f) else s1

/-- Send the message of a vector whose Pending Bit is set, once it is unmasked. -/
def State.unmask (s : State) (f vec : Nat) : State :=
  let s1 := s.onFn f (fun x => { x with msixMask := x.msixMask &&& ~~~(1#64 <<< vec) })
  if (s1.fn f).msixPend.getLsbD vec && (s1.fn f).msixEnable then
    (s1.onFn f (fun x => { x with msixPend := x.msixPend &&& ~~~(1#64 <<< vec) })).emit (.msix f vec)
  else s1

/-- MSIX_VECTOR_UNMASK (R397). -/
def execMsixVectorUnmask (fn : Fin 32) (vec : Fin 64) (s : State) : Out3 :=
  ok s (if s.fnLive fn.val then s.unmask fn.val vec.val else s)

end Sys2Proof.Machine
end

