-- ==== Sys2Proof/Machine/MemUnit.lean ====
section
/-! DEFINITION. What the memories do (R213, R214, R230, R235) and the TMU's invalidation (R223). -/
namespace Sys2Proof.Machine

/-! ### Memories (R213, R214, R235) -/

/-- The memory that holds an address of this device, when it is not Off (R493). -/
def State.memoryAt (s : State) (pa : Nat) : Option Region :=
  let r := s.region pa
  if r.isDevice ∧ !s.memOff pa then some r else none

/-- Count a corrected error (R213). -/
def State.countCe (s : State) (r : Region) : State :=
  match r with
  | .peat t => s.count F.TMU_MEM_CE_PEAT t 1
  | .mere t => s.count F.TMU_MEM_CE_MERE t 1
  | .hbm k _ => s.count F.HMC_CNT_CE_COUNT k 1
  | _ => s

/-- Count an uncorrectable error; a stack also keeps the granule's address (R214, Table 9-9). -/
def State.countUe (s : State) (r : Region) (pa : Nat) : State :=
  match r with
  | .peat t => s.count F.TMU_MEM_UE_PEAT t 1
  | .mere t => s.count F.TMU_MEM_UE_MERE t 1
  | .hbm k _ => (s.count F.HMC_CNT_UE_COUNT k 1).wr F.HMC_UE_ADDR_PA k (s.localise pa / 32 * 32)
  | _ => s

/-- The unit a memory belongs to (Table 16-3). -/
def Region.unit : Region → Nat
  | .peat t | .mere t => t
  | .hbm k _ => 8 + k
  | _ => 0xFF

/-- What a memory does when a read of a granule finds an error; making poison is logged (Table 17-1). -/
def State.memErr (s : State) (r : Region) (pa : Nat) (e : MemErr) : State :=
  match e with
  | .none => s
  | .single => s.countCe r
  | .multi => ((s.countUe r pa).markPoison pa).opEvent 0x10 r.unit (s.localise pa / 32 * 32)

/-- MEMORY_READ (R213): one granule is read, with what its check bits find. -/
def execMemoryRead (pa : Nat) (err : MemErr) (s : State) : Out3 :=
  ok s (match s.memoryAt pa with
    | some r => (s.tookBytes pa 32).memErr r pa err
    | none => s)

/-- PATROL_SCRUB (R213): a stack scrubs while SCRUB_EN is 1. -/
def execPatrolScrub (pa : Nat) (err : MemErr) (s : State) : Out3 :=
  ok s (match s.memoryAt pa with
    | some r => match r with
      | .hbm k _ => if s.flag F.HMC_CTL_SCRUB_EN k then s.memErr r pa err else s
      | _ => s.memErr r pa err
    | none => s)

/-- What the checks of the partly covered granules of a write find (R214). -/
def State.writeErrs (s : State) (r : Region) : List (Nat × Nat) → List MemErr → State
  | [], _ => s
  | p :: l, es =>
    (if p.2 = 32 then s else s.memErr r p.1 (es.headD .none)).writeErrs r l es.tail

/-- MEMORY_WRITE (R214, R319, Table 9-5): one write of up to 256 bytes that lies in one memory; `errs` has, granule by granule, what the check of a
partly covered granule finds. -/
def execMemoryWrite (pa : Nat) (data : List Byte) (errs : List MemErr) (s : State) : Out3 :=
  ok s (match s.memoryAt pa with
    | some r =>
      if data.length ≤ 256 ∧ pa / 256 = (pa + data.length - 1) / 256 then
        (s.writeErrs r (granules pa data.length) errs).writeBytes 0 pa data
      else s
    | none => s)

/-- The value an atomic leaves (R176, R306). -/
def amoNew (o : Sys2Proof.AmoOp) (old x y : Nat) : Nat :=
  match o with
  | .add => (old + x) % 2 ^ 64
  | .swap => x
  | .cas => if old = x then y else old
  | .max => max old x

/-- MEMORY_ATOMIC (R235): done at the memory in one step, unless the granule is poisoned (R215) or a checkpoint holds the block (R319). -/
def execMemoryAtomic (pa : Nat) (op : AmoOp) (x y : BitVec 64) (s : State) : Out3 :=
  ok s (match s.memoryAt pa with
    | some _ =>
      if pa % 8 ≠ 0 ∨ s.isPoison pa ∨ s.gate pa = .hold then s
      else (s.tookBytes pa 8).writeNat 0 pa 8 (amoNew op (s.readNat 0 pa 8) x.toNat y.toNat)
    | none => s)

/-! ### TMU invalidation (R223) -/

/-- Two address ranges share a byte. -/
def overlap (a n b m : Nat) : Bool := decide (a < b + m) && decide (b < a + n)

/-- What an invalidation is to remove: everything, or a range of virtual addresses. -/
structure InvScope where
  all : Bool
  va : Nat
  len : Nat

/-- A range of addresses lies in the scope. -/
def InvScope.hits (v : InvScope) (a n : Nat) : Bool := v.all || overlap a n v.va v.len

/-- A waiter's access lies in the scope. -/
def InvScope.hitsWho (v : InvScope) (t : Fin 8) (x : Tile) : Who → Bool
  | .scalar u _ va _ => u = t.val && v.hits va 32
  | .op u seq => u = t.val && x.ops.any (fun p => decide (p.2.seq = seq) &&
      (p.2.reads ++ p.2.writes).any (fun i => v.hits i.lo (i.hi + 1 - i.lo)))
  | .tdm u _ => u = t.val
  | _ => false

/-- The accesses in flight that were translated through what is removed: of threads, of running operations, and of started
descriptors with a virtual address. -/
def State.invAccesses (s : State) (t : Fin 8) (v : InvScope) : List Who :=
  let x := s.tile t
  ((s.rem.map (·.2.who) ++ s.remWait.map (·.who) ++ (match s.ck with | some j => j.held.map (·.who) | none => [])).filter (v.hitsWho t x)) ++
    ((x.ops.map (fun p => (p.2, Who.op t.val p.2.seq))).filter (fun p => (p.1.st = .run || p.1.acks ≠ 0) && v.hitsWho t x p.2)).map (·.2) ++
    ((x.tdm.filter (fun d => d.started && !(d.sphys && d.dphys))).map (fun d => Who.tdm t.val d.id))

/-- Remove what the scope covers; walks that run through a removed table entry start again at the root. -/
def Tile.invalidate (x : Tile) (v : InvScope) (root : Nat) : Tile :=
  { x with
    tlb := x.tlb.filter (fun e => !v.hits e.va (2 ^ e.lg))
    wcache := x.wcache.filter (fun e => !v.hits (e.va / 2 ^ (12 + 9 * e.level) * 2 ^ (12 + 9 * e.level)) (2 ^ (12 + 9 * e.level)))
    walks := x.walks.map (fun w => if v.hits w.va 1 then { w with level := 3, table := root } else w) }

/-- Start an invalidation, or set OVERRUN while one runs. -/
def State.tmuInv (s : State) (t : Fin 8) (val : Nat) : State :=
  if s.flag F.TMU_INV_STATUS_BUSY t.val then s.wr F.TMU_INV_STATUS_OVERRUN t.val 1
  else
    let v : InvScope := ⟨bits val 0 1 = 0, bits val 12 36 * 4096, s.rd F.TMU_INV_LEN_PAGES t.val * 4096⟩
    (s.wr F.TMU_INV_STATUS_BUSY t.val 1).onTile t (fun x =>
      { x.invalidate v (s.rd F.TMU_ROOT_PA t.val * 4096) with invWait := s.invAccesses t v })

/-- TMU_INV (R223, R492): a write of the upper half, the lower half with it or as last held; a 64-bit write's lower half is then held as
well (DESIGN CHOICE, unsafe, log entry 46). A tile whose domain does not run ignores it (R13). -/
def execTmuInv (t : Fin 8) (hi : BitVec 32) (lo : Option (BitVec 32)) (s : State) : Out3 :=
  ok s (if s.unitsRun t then
    let l := match lo with | some b => b.toNat | none => (s.tile t).invHeld
    (s.tmuInv t (l + hi.toNat * 2 ^ 32)).onTile t (fun x => { x with invHeld := l })
  else s)

/-- An access the invalidation waits for is still in flight. -/
def State.invOpen (s : State) (t : Fin 8) (w : Who) : Bool :=
  s.owes (fun v => v = w) || (match w with
    | .op _ seq => (s.tile t).ops.any (fun p => decide (p.2.seq = seq) && (p.2.st = .run || p.2.acks ≠ 0))
    | .tdm _ id => ((s.tile t).desc id).isSome
    | _ => false)

/-- TMU_INV_COMPLETE (R223): BUSY clears once no access through a removed entry is in flight. -/
def execTmuInvComplete (t : Fin 8) (s : State) : Out3 :=
  ok s (if (s.tile t).invWait.any (fun w => s.invOpen t w) then s
    else (s.wr F.TMU_INV_STATUS_BUSY t.val 0).onTile t (fun x => { x with invWait := [] }))

end Sys2Proof.Machine
end

