-- ==== Sys2Proof/Machine/Hiu.lean ====
section
/-! DEFINITION. Work rings of the HIU (chapter 15): commands, completion records, ring states, and the plain commands. -/
namespace Sys2Proof.Machine

/-! ### Rings and their commands (R382 to R385, R393) -/

/-- RING_STATUS.STATE codes (Table 15-8). -/
abbrev rOff : Nat := 0
/-- Serving commands. -/
abbrev rReady : Nat := 1
/-- In error. -/
abbrev rErr : Nat := 2
/-- DRAINING or RESETTING. -/
abbrev rDrain : Nat := 3

/-- Completion statuses (Table 15-5). -/
abbrev stFormat : Nat := 0x21
/-- Outside the assignment, unmapped, or atomic refused. -/
abbrev stAccess : Nat := 0x22
/-- A named tile is in Off. -/
abbrev stOff : Nat := 0x23
/-- WAIT_TIMEOUT. -/
abbrev stTimeout : Nat := 0x24
/-- Ended by a ring reset. -/
abbrev stAborted : Nat := 0x25

/-- A ring's STATE. -/
def State.rState (s : State) (f r : Nat) : Nat := s.rd F.HIU_RING_STATUS_STATE f r

/-- A ring's SIZE (Table 15-8). -/
def State.rSize (s : State) (f r : Nat) : Nat :=
  let k := s.rd F.HIU_RING_CFG_LOG2SIZE f r
  if 4 ≤ k ∧ k ≤ 16 then 2 ^ k else 16

/-- A ring's structured state. -/
def State.ring (s : State) (f r : Nat) : Ring := (s.fn f).rings.getD r .off

/-- Change a ring. -/
def State.onRing (s : State) (f r : Nat) (g : Ring → Ring) : State :=
  s.onFn f (fun x => { x with rings := x.rings.set .off r (g (x.rings.getD r .off)) })

/-- A difference of 32-bit counts. -/
def sub32 (a b : Nat) : Nat := (a + 2 ^ 32 - b % 2 ^ 32) % 2 ^ 32

/-- A field of a command, by byte offset and size (Tables 15-2 and 15-3). -/
def RCmd.field (c : RCmd) (off size : Nat) : Nat := bits c.body (8 * off) (8 * size)

/-- OPCODE. -/
def RCmd.op (c : RCmd) : Nat := c.field 0 1

/-- A command of a ring. -/
def State.rcmd (s : State) (f r seq : Nat) : Option RCmd := (s.ring f r).cmds.find? (fun c => c.seq = seq)

/-- Change a command. -/
def State.onCmd (s : State) (f r seq : Nat) (g : RCmd → RCmd) : State :=
  s.onRing f r (fun x => { x with cmds := x.cmds.map (fun c => if c.seq = seq then g c else c) })

/-- Some RSV field of a command's header or body is nonzero, or its OPCODE is reserved (R385). -/
def RCmd.malformed (c : RCmd) : Bool :=
  let z (off n : Nat) : Bool := c.field off n = 0
  let hdr := bits c.body 9 7 = 0 && z 2 6
  let body := match c.op with
    | 1 => bits c.body (8 * 0x10 + 48) 16 = 0 && bits c.body (8 * 0x18 + 52) 12 = 0 && z 0x25 3 && bits c.body (8 * 0x28 + 48) 16 = 0 && z 0x30 16
    | 2 => bits c.body (8 * 0x10 + 52) 12 = 0 && bits c.body (8 * 0x18 + 52) 12 = 0 && bits c.body (8 * 0x20 + 24) 8 = 0 &&
        bits c.body (8 * 0x26 + 3) 1 = 0 && bits c.body (8 * 0x26 + 7) 1 = 0 && z 0x27 1 && bits c.body (8 * 0x28 + 48) 16 = 0 &&
        bits c.body (8 * 0x30 + 48) 16 = 0 && z 0x38 8
    | 3 => bits c.body (8 * 0x10 + 52) 12 = 0 && z 0x21 31
    | 4 => bits c.body (8 * 0x10 + 52) 12 = 0 && z 0x21 3 && z 0x28 24
    | 5 | 6 => bits c.body (8 * 0x10 + 52) 12 = 0 && z 0x18 40
    | 7 => z 0x10 48
    | _ => false
  !(hdr && body)

/-- A 4 KiB page start of every page a span touches lies within function f's assignment, and its memory is not Off. -/
def State.spanOk (s : State) (f pa n : Nat) (wr : Bool) : Bool :=
  n = 0 || (pageStarts pa n).all (fun a => match s.paCheck f a wr with | .ok _ => true | .error _ => false)

/-- A span lies within the assignment, whatever its memory's power state (R14). -/
def State.spanIn (s : State) (f pa n : Nat) (wr : Bool) : Bool :=
  n = 0 || (pageStarts pa n).all (fun a => s.assigned f a wr && decide (s.region a ≠ .unmapped))

/-! ### Errors, records and messages (R392 to R397, R400) -/

/-- A ring that is READY, DRAINING or RESETTING enters ERR. -/
def State.ringErr (s : State) (f r cause : Nat) : State :=
  if s.rState f r = rReady ∨ s.rState f r = rDrain then
    (s.wrs f r [(F.HIU_RING_STATUS_STATE, rErr), (F.HIU_RING_STATUS_RESETTING, 0), (F.HIU_RING_STATUS_ERRCAUSE, cause)]).event f F.HIU_EVT_STATUS_RING_ERR
  else s

/-- A record with NOIRQ = 0 has been written: the message follows at IRQ_COUNT, or at once with no delay (R397). -/
def State.recordIrq (s : State) (f r : Nat) : State :=
  let n := (s.ring f r).irqPend + 1
  if max 1 (s.rd F.HIU_RING_CFG_IRQ_COUNT f r) ≤ n ∨ s.rd F.HIU_RING_CFG_IRQ_DELAY f r = 0 then
    (s.onRing f r (fun x => { x with irqPend := 0 })).msix f (s.rd F.HIU_RING_CFG_VEC f r)
  else s.onRing f r (fun x => { x with irqPend := n })

/-- The 32 bytes of a command's record (Table 15-4). -/
def State.recordBytes (s : State) (f r : Nat) (c : RCmd) : List Byte :=
  let tail := s.rd F.HIU_CQ_TAIL_TAIL f r
  leBytes 4 c.seq ++ leBytes 1 c.op ++ leBytes 1 c.status ++ leBytes 2 (1 - tail / s.rSize f r % 2) ++ leBytes 8 (c.field 8 8) ++
    leBytes 8 c.result ++ leBytes 8 c.time

/-- A completion slot's address. -/
def State.slotPa (s : State) (f r k : Nat) : Nat := s.rd F.HIU_CQ_BASE_PA f r * 4096 + k % s.rSize f r * 32

/-- A part of a record is written, to host memory with Relaxed Ordering clear (R392). -/
def State.recordPart (s : State) (f pa : Nat) (bs : List Byte) (who : Who) : State :=
  match s.region pa with
  | .host off => match s.hwin f off with
    | some n => (s.emit (.hostWrite (s.hostAddr f n off) bs.length (s.flag F.HIU_HWIN_CFG_NOSNOOP f n) false)).hostPlain f pa bs
    | none => s
  | _ => (s.wakeFor none pa).writeBytes f pa bs who

/-- The HIU reads n bytes: what lies on the way wakes, and a stack counts them (R211, R366, Table 9-9). -/
def State.hiuTook (s : State) (pa n : Nat) : State := (piecesOf 4096 pa n).foldl (fun s c => (s.wakeFor none c.1).tookBytes c.1 c.2) s

/-- Host translations that an access to a range needs are asked for (R381); none when it has them all. -/
def State.hiuAts (s : State) (f pa n : Nat) : Option State :=
  let ps := (piecesOf 4096 pa n).map (·.1)
  if ps.any (fun a => s.atsNeeds f a) then some (s.atsAsks f ps) else none

/-- A record is written at an address, 0x08-0x1F and then 0x00-0x07 (R392), and the command's interrupt follows unless NOIRQ is set. -/
def State.recordPut (s : State) (f r : Nat) (c : RCmd) (pa : Nat) : State :=
  let bs := s.recordBytes f r c
  let w : Who := .cmd f r c.seq
  let s1 := ((s.recordPart f (pa + 8) (bs.drop 8) w).recordPart f pa (bs.take 8) w).wr F.HIU_CQ_TAIL_TAIL f (s.rd F.HIU_CQ_TAIL_TAIL f r + 1) r
  let s2 := s1.onCmd f r c.seq (fun c => { c with recorded := true })
  if bits c.body 8 1 = 0 then s2.recordIrq f r else s2

/-- Write the record of a completed command, when its slot may be written now (R392), its first eight bytes last; a refused write is
CQWRITE, and leaves the command with no record (R400; DEDUCED, unsafe, log entry 39). -/
def State.record (s : State) (f r : Nat) (c : RCmd) : State :=
  let tail := s.rd F.HIU_CQ_TAIL_TAIL f r
  let pa := s.slotPa f r tail
  match s.paCheck f pa true with
  | .error _ => (s.ringErr f r 4).onCmd f r c.seq (fun c => { c with refused := true })
  | .ok _ => match s.hiuAts f pa 32 with
  | some s1 => s1
  | none =>
    if s.gate pa = .hold then s
    else s.recordPut f r c pa

/-- Records of completed commands that could not be written before. -/
def State.recordsDue (s : State) (f r : Nat) : State :=
  ((s.ring f r).cmds.filter (fun c => c.done && !c.recorded && !c.refused)).foldl (fun s c => s.record f r c) s

/-- A command completes with a status, a RESULT and its last position; a reset has given it its own status (R401). -/
def State.complete (s : State) (f r seq status result pos : Nat) : State :=
  match s.rcmd f r seq with
  | none => s
  | some c =>
    if c.done || !c.started then s
    else
      let st := if c.aborted then (if c.op = 5 || c.op = 6 then 0x34 else stAborted) else status
      (s.onCmd f r seq (fun c => { c with done := true, status := st, result := result, pos := pos, time := s.ns })).recordsDue f r

/-! ### Starts (R384, R393) -/

/-- The first command not yet started. -/
def State.front (s : State) (f r : Nat) : Option RCmd := (s.ring f r).cmds.find? (fun c => !c.started)

/-- The ring's next command may start: READY, no earlier WAIT or FENCE runs, and a completion slot is free. -/
def State.ringMay (s : State) (f r : Nat) : Bool :=
  s.rState f r = rReady && s.fnLive f &&
    (s.ring f r).cmds.all (fun c => !(c.started && !c.done && (c.op = 4 || c.op = 7))) &&
    decide (sub32 (s.rd F.HIU_CQ_TAIL_RES f r) (s.rd F.HIU_CQ_HEAD_HEAD f r) < s.rSize f r)

/-- Start a command with its total, the ring's command of this turn (R384); commands older than the last SIZE are forgotten (R398). -/
def State.start (s : State) (f r : Nat) (c : RCmd) (total : Nat) : State :=
  let s1 := ((s.count F.HIU_CNT_CMD_COUNT f 1).wr F.HIU_RING_STATUS_CONS f (s.rd F.HIU_RING_STATUS_CONS f r + 1) r).wr F.HIU_CQ_TAIL_RES f
    (s.rd F.HIU_CQ_TAIL_RES f r + 1) r
  let n := s.rSize f r
  let turn := if s.served.contains (f, r) then [(f, r)] else s.served ++ [(f, r)]
  (({ s1 with served := turn } : State).onCmd f r c.seq (fun c => { c with started := true, total := total % 2 ^ 48 })).onRing f r (fun x => { x with
    cmds := x.cmds.filter (fun d => !(d.recorded || d.refused) || decide (sub32 c.seq d.seq < n) || decide (sub32 d.seq c.seq < n)) })

/-- A command's total as its own fields give it (Table 15-7); a checkpoint's comes from its CKD. -/
def RCmd.ownTotal (c : RCmd) : Nat :=
  match c.op with
  | 1 => bits c.body (8 * 0x28) 48 * ((List.range 8).filter (fun k => bits c.body (8 * 0x24 + k) 1 = 1)).length
  | 2 => (bits c.body (8 * 0x20) 24 + 1) * (c.field 0x24 2 + 1)
  | 3 | 4 | 7 => 1
  | _ => 0

/-- A command completes at its check, without effect (R384); a SIGNAL, WAIT or FENCE has then its last position (Table 15-7). -/
def State.startFail (s : State) (f r : Nat) (c : RCmd) (total status : Nat) : State :=
  (s.start f r c total).complete f r c.seq status 0 (if c.op = 3 || c.op = 4 || c.op = 7 then 1 else 0)

/-- A ring leaves DRAINING or RESETTING for OFF once every started command has its record (R401) (DEDUCED, unsafe, log entry 39). -/
def State.ringOff (s : State) (f r : Nat) : State :=
  if s.rState f r = rDrain ∧ (s.ring f r).cmds.all (fun c => !c.started || c.recorded || c.refused) then
    s.wrs f r [(F.HIU_RING_STATUS_STATE, rOff), (F.HIU_RING_STATUS_RESETTING, 0), (F.HIU_RING_CFG_EN, 0)]
  else s

/-- A running FENCE whose earlier commands all have their records completes (R391). -/
def State.fenceDone (s : State) (f r : Nat) : State :=
  match (s.ring f r).cmds.find? (fun c => c.started && !c.done && c.op = 7) with
  | none => s
  | some c =>
    if (s.ring f r).cmds.all (fun d => !d.started || d.recorded || d.refused || d.seq = c.seq) then s.complete f r c.seq 0 0 1 else s

/-- Commands that break R385 complete at their turn. -/
def State.badFronts (s : State) (f r : Nat) : Nat → State
  | 0 => s
  | k + 1 => match s.front f r with
    | none => s
    | some c =>
      if c.malformed && s.ringMay f r then ((s.startFail f r c c.ownTotal stFormat).fenceDone f r).badFronts f r k else s

/-- What a ring does by itself after a change: records, the end of a FENCE, malformed commands, the end of DRAINING. -/
def State.sweep (s : State) (f r : Nat) : State :=
  let s1 := (s.recordsDue f r).fenceDone f r
  (s1.badFronts f r ((s1.ring f r).cmds.length)).ringOff f r

/-- Sweep every ring that holds commands. -/
def State.sweepAll (s : State) : State :=
  s.fns.foldl (fun s p => p.2.rings.foldl (fun s q => s.sweep p.1 q.1) s) s

/-! ### Doorbells and fetches (R383, R384) -/

/-- A function takes BAR accesses: live, and not in D3hot (Table 15-1). -/
def State.fnTakes (s : State) (f : Nat) : Bool := s.fnLive f && !(s.fn f).d3hot

/-- DOORBELL (R383). -/
def execDoorbell (fn : Fin 32) (r : Fin 64) (prod : BitVec 32) (s : State) : Out3 :=
  ok s (if !s.fnTakes fn.val then s
  else if s.rState fn.val r.val ≠ rReady then s.event fn.val F.HIU_EVT_STATUS_DB_IGNORED
  else if (s.ring fn.val r.val).prod = prod.toNat then s
  else if s.rSize fn.val r.val < sub32 prod.toNat (s.rd F.HIU_RING_STATUS_CONS fn.val r.val) then s.ringErr fn.val r.val 2
  else s.onRing fn.val r.val (fun x => { x with prod := prod.toNat }))

/-- A command's 64 bytes have arrived whole. -/
def State.fetchTake (s : State) (f r body : Nat) : State :=
  (s.onRing f r (fun x => { x with
    cmds := x.cmds ++ [⟨x.fetched, body, false, false, false, false, false, false, 0, 0, [], 0, 0, 0⟩]
    fetched := (x.fetched + 1) % 2 ^ 32 })).sweep f r

/-- A host write through BAR2 is not yet visible (R233): a checkpoint holds it, or its memory has not answered. -/
def State.bar2Owes (s : State) : Bool :=
  let mine (w : Who) : Bool := match w with | .bar2 _ _ => true | _ => false
  s.rem.any (fun e => mine e.2.who && e.2.mop = mopWr) || s.remWait.any (fun r => mine r.who && r.mop = mopWr) ||
    (match s.ck with | some j => j.held.any (fun h => mine h.who) | none => false)

/-- Fetch the next command: at most 16 not yet started, at most what PROD covers, and after every host write through BAR2 (R233). -/
def State.fetch (s : State) (f r : Nat) (fail : Option Sys2Proof.CplErr) : State :=
  let x := s.ring f r
  let pa := s.rd F.HIU_RING_BASE_PA f r * 4096 + x.fetched % s.rSize f r * 64
  if s.rState f r ≠ rReady || !s.fnLive f || x.fetched = x.prod ||
      16 ≤ (x.cmds.filter (fun c => !c.started)).length || s.owes (fun w => w = .cmd f r x.fetched) || s.bar2Owes then s
  else match s.paCheck f pa with
    | .error _ => s.ringErr f r 3
    | .ok _ => match s.hiuAts f pa 64 with
    | some s1 => s1
    | none => match s.region pa with
      | .fen d off => (s.wakeFor none pa).request ⟨.cmd f r x.fetched, mopRd, off, 64, d, [], false⟩
      | g => match g, fail with
        | .host _, some e => (s.ringErr f r 3).aerErr f (cplBit e)
        | _, _ => if s.poisonIn pa 64 then (s.hiuTook pa 64).ringErr f r 3 else (s.hiuTook pa 64).fetchTake f r (s.readNat f pa 64)

/-- COMMAND_FETCH (R384, R400): `fail` says that the completion of a read from host memory failed, which AER reports (R374). -/
def execCommandFetch (fn : Fin 32) (r : Fin 64) (fail : Option CplErr) (s : State) : Out3 := ok s (s.fetch fn.val r.val fail)

/-! ### LAUNCH and jobs (R386, R395, R161) -/

/-- The tiles a mask names. -/
def maskTiles (m : Nat) : List (Fin 8) := allTiles.filter (fun t => bits m t.val 1 = 1)

/-- TILES of a LAUNCH. -/
def RCmd.tiles (c : RCmd) : List (Fin 8) := maskTiles (c.field 0x24 1)

/-- The status a LAUNCH completes with at its check, if any. -/
def State.launchCheck (s : State) (f : Nat) (c : RCmd) : Option Nat :=
  let n := c.field 0x20 4
  if c.tiles = [] ∨ n % 32 ≠ 0 ∨ 4096 < n then some stFormat
  else if c.tiles.any (fun t => !(s.hasTile f t.val && s.unitIn t.val)) || !s.spanIn f (c.field 0x18 8) n false then some stAccess
  else if c.tiles.any (fun t => s.rd F.TPC_STATUS_STATE t.val = 4) then some stOff
  else if c.tiles.any (fun t => (s.tile t).halt ≠ .none) then some stTileHalt
  else none

/-- Put a LAUNCH into its tiles' queues and wake them (R15, R386). -/
def State.launch (s : State) (f r : Nat) (c : RCmd) : State :=
  c.tiles.foldl (fun s t =>
    (s.onTile t (fun x => { x with
      launches := x.launches ++ [⟨f, r, c.seq, c.field 0x10 8, c.field 0x18 8, c.field 0x20 4, false, none⟩] })).wakeTile t true) s

/-- The rows of a COPY's source or destination. -/
def copyRows (base stride rows : Nat) : List Nat := (List.range rows).map (fun i => base + i * stride)

/-- The status a COPY completes with at its check, if any. -/
def State.copyCheck (s : State) (f : Nat) (c : RCmd) : Option Nat :=
  let n := bits c.body (8 * 0x20) 24 + 1
  let rows := c.field 0x24 2 + 1
  let t := bits c.body (8 * 0x26) 3
  if 4 < bits c.body (8 * 0x26 + 4) 3 then some stFormat
  else if !(s.hasTile f t && s.unitIn t) || (copyRows (c.field 0x10 8) (c.field 0x28 8) rows).any (fun a => !s.spanIn f a n false) ||
      (copyRows (c.field 0x18 8) (c.field 0x30 8) rows).any (fun a => !s.spanIn f a n true) then some stAccess
  else if s.rd F.TPC_STATUS_STATE t = 4 then some stOff
  else none

/-- A command's target can take it (R384): room in every named tile's launch queue, a free descriptor, or the checkpoint engine. -/
def State.accepts (s : State) (f : Nat) (c : RCmd) : Bool :=
  match c.op with
  | 1 => (s.launchCheck f c).isSome || c.tiles.all (fun t => decide ((s.tile t).launches.length < 8))
  | 2 => (s.copyCheck f c).isSome || decide ((s.tile (tileOf (bits c.body (8 * 0x26) 3))).tdm.length < 64)
  | 5 | 6 => s.ck.isNone
  | _ => true

/-- A ring has its turn (R384): it has had none in this round, or no other ring that has had none holds a command that may start. -/
def State.turnOk (s : State) (f r : Nat) : Bool :=
  !s.served.contains (f, r) || s.fns.all (fun p => p.2.rings.all (fun q =>
    decide ((p.1, q.1) = (f, r)) || s.served.contains (p.1, q.1) || (match s.front p.1 q.1 with
      | some c => c.malformed || !s.ringMay p.1 q.1 || !s.accepts p.1 c
      | none => true)))

/-- The front command of a ring, when it has an opcode, is well-formed and may start in this turn. -/
def State.ready (s : State) (f r op : Nat) : Option RCmd :=
  match s.front f r with
  | none => none
  | some c => if c.op = op && !c.malformed && s.ringMay f r && s.turnOk f r then some c else none

/-- LAUNCH (R386). -/
def execLaunch (fn : Fin 32) (r : Fin 64) (s : State) : Out3 :=
  let f := fn.val
  ok s (match s.ready f r.val 1 with
    | none => s
    | some c =>
      let total := c.field 0x28 8 * c.tiles.length
      match s.launchCheck f c with
      | some st => (s.startFail f r.val c total st).sweep f r.val
      | none =>
        if c.tiles.any (fun t => 8 ≤ (s.tile t).launches.length) then s
        else ((s.start f r.val c total).launch f r.val c).sweep f r.val)

/-- A tile's part of a LAUNCH is over: its status and trap PC, and the operations it retired; the last part completes the command, which
reports its lowest tile that was not OK (R395). -/
def State.launchPart (s : State) (j : Job) (t status trapPc retired : Nat) : State :=
  match s.rcmd j.fn j.ring j.seq with
  | none => s
  | some c =>
    let jobs := c.jobs ++ [(t, status, trapPc)]
    let s1 := s.onCmd j.fn j.ring j.seq (fun c => { c with jobs := jobs, pos := c.pos + retired })
    if jobs.length < c.tiles.length then s1
    else
      let bad := (List.range 8).filterMap (fun k => jobs.find? (fun e => e.1 = k && e.2.1 ≠ 0))
      match bad with
      | [] => (s1.complete j.fn j.ring j.seq 0 0 (c.pos + retired)).sweep j.fn j.ring
      | b :: _ => (s1.complete j.fn j.ring j.seq b.2.1 (b.1 + 8 + b.2.2 % 2 ^ 48 * 2 ^ 16) (c.pos + retired)).sweep j.fn j.ring

/-- Parts of the argument block that lie in another rank's memory, none across 256 bytes. -/
def State.argFar (s : State) (j : Job) : List (Nat × Nat × Nat) :=
  (piecesOf 256 j.arg j.argLen).filterMap (fun p => match s.region p.1 with | .fen d off => some (d, off, p.2) | _ => none)

/-- The cause that ends a job whose argument cannot be copied (R386). -/
def State.argFault (s : State) (j : Job) : Option Nat :=
  match j.bad with
  | some c => some c
  | none => (granules j.arg j.argLen).findSome? (fun p => match s.paCheck j.fn p.1 with
    | .error _ => some cAccess
    | .ok _ => if s.isPoison p.1 then some cMemPoison else none)

/-- Begin the head LAUNCH of a tile: the argument is copied and MAIN starts, or the job ends at once (R161, R193, R386). -/
def State.jobBegin (s : State) (t : Fin 8) (j : Job) : State :=
  let s1 := s.onTile t (fun x => { x with
    launches := x.launches.drop 1
    sigDone := 0#32
    job := some ⟨j, false, none, none, 0, false, false, 0⟩ })
  match s.argFault j with
  | some c => (s1.countOp c).onTile t (fun x => { x with job := x.job.map (fun k => { k with ended := true, cause := some c }) })
  | none => (s1.hiuTook j.arg j.argLen).onTile t (fun x =>
      let y := x.putLs 0 (s.readBytes j.fn j.arg j.argLen)
      { y.onThr 0 (fun h => h.start j.entry [lsBase]) with dregs := [] })

/-- JOB_START (R161): the tile runs, has no job, and its head LAUNCH has all of its argument. -/
def execJobStart (t : Fin 8) (s : State) : Out3 :=
  ok s (match (s.tile t).launches with
    | [] => s
    | j :: rest =>
      if (s.tile t).job.isSome || !s.tileRuns t then s
      else
        let far := s.argFar j
        if far ≠ [] ∧ !j.asked then
          far.foldl (fun s p => s.request ⟨.cmd j.fn j.ring j.seq, mopRd, p.2.1, p.2.2, p.1, [], false⟩)
            (s.onTile t (fun x => { x with launches := { j with asked := true } :: rest }))
        else if far ≠ [] ∧ s.owes (fun w => w = .cmd j.fn j.ring j.seq) then s
        else (s.hiuAts j.fn j.arg j.argLen).getD (s.jobBegin t j))

/-- The status of a tile's job (R395). -/
def CurJob.status (j : CurJob) : Nat :=
  match j.halt with
  | some c => c
  | none => match j.cause with
    | some c => c
    | none => if j.mismatch then 0x26 else if j.abort then 0x27 else 0

/-- Operations that wait behind a hold that stays: on the hold itself, on one of them by footprint, token or fence, or behind one of them in
the order their unit keeps (R84, R135, R191, R290); found in rounds. -/
def Tile.stuck (x : Tile) (held : OpRec → Bool) (behind : OpRec → OpRec → Bool) : Nat → List Nat → List Nat
  | 0, l => l
  | k + 1, l =>
    let l1 := (x.ops.filter (fun o => held o.2 || (o.2.deps ++ o.2.tdeps).any (fun d => l.contains d) ||
      (o.2.st ≠ .run && o.2.st ≠ .ack && x.ops.any (fun p => l.contains p.2.seq && behind o.2 p.2)))).map (fun o => o.2.seq)
    if l1 = l then l else x.stuck held behind k l1

/-- An operation starts only after an older one of its unit: in the MM order, on one KV sequence, with a common SFU slot or program, or in the
engine both name. -/
def State.startsAfter (s : State) (t : Fin 8) (o p : OpRec) : Bool :=
  let rb (o : OpRec) : Bool := o.op.cls = 0 || o.op = .kvAttn
  decide (p.seq < o.seq) && ((rb o && rb p) || (o.op.cls = 4 && p.op.cls = 4 && o.kvSeq = p.kvSeq) ||
    (o.op.cls = 2 && p.op.cls = 2 && resClash (s.sfRes t p.op (p.xfb 80 8)) (s.sfRes t o.op (o.xfb 80 8))) ||
    (o.op.cls = 3 && p.op.cls = 3 && o.eng.isSome && o.eng = p.eng))

/-- A job has completed: MAIN has ended, every operation has retired but those behind a hold that stays, every operation trap is handled,
and no hold of it remains (R161, R199). -/
def State.jobOver (s : State) (t : Fin 8) : Bool :=
  let x := s.tile t
  let halted := x.halt = .trap
  match x.job with
  | none => false
  | some j =>
    j.ended && x.holds.all (·.forever) &&
      (x.ops = [] || (halted &&
        (let l := x.stuck (fun o => o.deps.any (fun d => x.holds.any (fun h => decide (h.seq = d)))) (s.startsAfter t) 257 []
         x.ops.all (fun p => l.contains p.2.seq)))) &&
      (halted || (x.traps.all (fun tr => tr.kind ≠ 2) && (match x.active with | some a => decide (a.kind ≠ 2) | none => true)))

/-- Take the finished job off its tile and report it. -/
def State.jobEnd (s : State) (t : Fin 8) : State :=
  match (s.tile t).job with
  | none => s
  | some j => (s.onTile t (fun x => { x with job := none })).launchPart j.job t.val j.status j.trapPc j.retired

/-- JOB_COMPLETE (R161, R395). -/
def execJobComplete (t : Fin 8) (s : State) : Out3 := ok s (if s.jobOver t then s.jobEnd t else s)

/-! ### COPY (R387) -/

/-- The memories a COPY's rows reach wake as it starts (R211, R366). -/
def State.copyWakes (s : State) (c : RCmd) : State :=
  let n := bits c.body (8 * 0x20) 24
  let rows := c.field 0x24 2 + 1
  (copyRows (c.field 0x10 8) (c.field 0x28 8) rows ++ copyRows (c.field 0x18 8) (c.field 0x30 8) rows).foldl
    (fun s a => (s.wakeFor none a).wakeFor none (a + n)) s

/-- COPY (R387): one physically addressed descriptor on the named engine, once the tile's pool has room. -/
def execCopy (fn : Fin 32) (r : Fin 64) (s : State) : Out3 :=
  let f := fn.val
  ok s (match s.ready f r.val 2 with
    | none => s
    | some c =>
      let n := bits c.body (8 * 0x20) 24 + 1
      let rows := c.field 0x24 2 + 1
      let t := tileOf (bits c.body (8 * 0x26) 3)
      match s.copyCheck f c with
      | some st => (s.startFail f r.val c (n * rows) st).sweep f r.val
      | none =>
        if 64 ≤ (s.tile t).tdm.length then s
        else
          let e := bits c.body (8 * 0x26 + 4) 3
          let d : Copy2 := ⟨c.field 0x10 8, c.field 0x18 8, n, rows, c.field 0x28 8, c.field 0x30 8⟩
          ((((s.start f r.val c (n * rows)).onTile t (fun x =>
            x.addDesc (if e < 4 then e else x.freeEngine) (.copy f r.val c.seq) d 3 0 0)).wakeTile t true).copyWakes c).sweep f r.val)

/-- A COPY's descriptor has completed (R227, R387). -/
def State.copyDone (s : State) (f r seq : Nat) (d : TdmDesc) : State :=
  let n := min (d.landed * 65536) d.bytes
  let st := match d.failed with
    | none => 0
    | some 2 => 0x29
    | some 3 => 0x2A
    | some _ => 0x28
  (s.complete f r seq st n n).sweep f r

/-! ### SIGNAL, WAIT and FENCE (R388, R389, R391) -/

/-- The status a SIGNAL completes with at its check, if any; a reserved SOP, or an ADDR that Table 15-3 does not allow, is a malformed command
(R10; DESIGN CHOICE, unsafe, log entry 46). -/
def State.signalCheck (s : State) (f : Nat) (c : RCmd) : Option Nat :=
  let a := c.field 0x10 8
  let sop := c.field 0x20 1
  if 1 < sop ∨ a % 8 ≠ 0 then some stFormat
  else match s.paCheck f a true with
    | .error _ => some stAccess
    | .ok _ => match s.region a with
      | .host _ => if sop = 1 && !(s.fn f).atomicOp then some stAccess else none
      | _ => if sop = 1 && s.isPoison a then some stAccess else none

/-- The effect of a started SIGNAL. -/
def State.signalGo (s : State) (f r : Nat) (c : RCmd) : State :=
  let a := c.field 0x10 8
  let v := c.field 0x18 8
  if c.field 0x20 1 = 0 then (s.wakeFor none a).writeBytes f a (leBytes 8 v) (.cmd f r c.seq)
  else match s.region a with
    | .fen d off => (s.wakeFor none a).request ⟨.cmd f r c.seq, mopAdd, off, 8, d, leBytes 8 v, false⟩
    | .host _ => s.writeBytes f a (leBytes 8 ((s.readNat f a 8 + v) % 2 ^ 64)) (.cmd f r c.seq)
    | _ => (s.hiuTook a 8).update f a (.addw v) (.cmd f r c.seq)

/-- A started SIGNAL's write is not yet acknowledged (Table 8-5): held or without a tag; to another rank, a WRITE until its port has
taken it, an ADD until the memory answers. -/
def State.signalOwes (s : State) (f r : Nat) (c : RCmd) : Bool :=
  let w : Who := .cmd f r c.seq
  s.remWait.any (fun q => q.who = w) || (match s.ck with | some j => j.held.any (fun h => h.who = w) | none => false) ||
    s.rem.any (fun e => e.2.who = w && (e.2.mop ≠ mopWr || s.tagQueued e.1))

/-- A started SIGNAL completes once its write is acknowledged. -/
def State.signalDone (s : State) (f r seq : Nat) : State :=
  match s.rcmd f r seq with
  | none => s
  | some c => if c.done || s.signalOwes f r c then s else (s.complete f r seq 0 0 1).sweep f r

/-- SIGNAL (R388); an addition to a block that a checkpoint holds is done at its release (R319). -/
def execSignal (fn : Fin 32) (r : Fin 64) (s : State) : Out3 :=
  let f := fn.val
  ok s (match s.ready f r.val 3 with
    | none => s
    | some c => match s.signalCheck f c with
      | some st => (s.startFail f r.val c 1 st).sweep f r.val
      | none =>
        (s.hiuAts f (c.field 0x10 8) 8).getD (((s.start f r.val c 1).signalGo f r.val c).signalDone f r.val c.seq))

/-- COND of a WAIT holds of a value. -/
def RCmd.holds (c : RCmd) (v : Nat) : Bool :=
  match c.field 0x20 1 with
  | 0 => v = c.field 0x18 8
  | 1 => v ≠ c.field 0x18 8
  | _ => c.field 0x18 8 ≤ v

/-- A WAIT has read a value: it completes, or keeps waiting with the value read. -/
def State.waitRead (s : State) (f r seq v : Nat) : State :=
  match s.rcmd f r seq with
  | none => s
  | some c => if c.holds v then (s.complete f r seq 0 v 1).sweep f r else s.onCmd f r seq (fun c => { c with result := v })

/-- A running WAIT reads its address: from memory at once, from another rank by a request, one at a time. A poisoned value satisfies
nothing (R215). -/
def State.waitPoll (s : State) (f r : Nat) (c : RCmd) : State :=
  let a := c.field 0x10 8
  match s.paCheck f a with
  | .error _ => (s.complete f r c.seq stAccess c.result 1).sweep f r
  | .ok _ => match s.region a with
    | .fen d off => if s.owes (fun w => w = .cmd f r c.seq) then s else (s.wakeFor none a).request ⟨.cmd f r c.seq, mopRd, off, 8, d, [], false⟩
    | _ => match s.hiuAts f a 8 with
      | some s1 => s1
      | none => if s.isPoison a then s.hiuTook a 8 else (s.hiuTook a 8).waitRead f r c.seq (s.readNat f a 8)

/-- WAIT (R389); a reserved COND, or an ADDR that Table 15-3 does not allow, is a malformed command (R10; DESIGN CHOICE, unsafe, log
entry 46). -/
def execWait (fn : Fin 32) (r : Fin 64) (s : State) : Out3 :=
  let f := fn.val
  ok s (match s.ready f r.val 4 with
    | none => s
    | some c =>
      let a := c.field 0x10 8
      if 2 < c.field 0x20 1 ∨ a % 8 ≠ 0 then (s.startFail f r.val c 1 stFormat).sweep f r.val
      else match s.paCheck f a with
        | .error _ => (s.startFail f r.val c 1 stAccess).sweep f r.val
        | .ok _ => (s.start f r.val c 1).waitPoll f r.val c)

/-- The WAIT a ring runs. -/
def State.waiting (s : State) (f r : Nat) : Option RCmd := (s.ring f r).cmds.find? (fun c => c.started && !c.done && c.op = 4)

/-- WAIT_POLL (R389). -/
def execWaitPoll (fn : Fin 32) (r : Fin 64) (s : State) : Out3 :=
  ok s (match s.waiting fn.val r.val with
    | some c => s.waitPoll fn.val r.val c
    | none => s)

/-- WAIT_TIMEOUT (R389): a TIMEOUT of 0 never passes. -/
def execWaitTimeout (fn : Fin 32) (r : Fin 64) (s : State) : Out3 :=
  ok s (match s.waiting fn.val r.val with
    | some c => if c.field 0x24 4 = 0 then s else (s.complete fn.val r.val c.seq stTimeout c.result 1).sweep fn.val r.val
    | none => s)

/-- FENCE (R391). -/
def execFence (fn : Fin 32) (r : Fin 64) (s : State) : Out3 :=
  ok s (match s.ready fn.val r.val 7 with
    | some c => (s.start fn.val r.val c 1).sweep fn.val r.val
    | none => s)

/-- IRQ_DELAY_EXPIRY (R397). -/
def execIrqDelayExpiry (fn : Fin 32) (r : Fin 64) (s : State) : Out3 :=
  ok s (if (s.ring fn.val r.val).irqPend = 0 then s
  else (s.onRing fn.val r.val (fun x => { x with irqPend := 0 })).msix fn.val (s.rd F.HIU_RING_CFG_VEC fn.val r.val))

/-! ### Enable, disable and the ring's registers (R382, R393, R398, R401) -/

/-- Put RING_CFG's interrupt fields, and while OFF its size. -/
def State.putRingCfg (s : State) (f r v : Nat) (size : Bool) : State :=
  let s1 := s.wrs f r [(F.HIU_RING_CFG_VEC, bits v 8 6), (F.HIU_RING_CFG_IRQ_COUNT, bits v 16 8), (F.HIU_RING_CFG_IRQ_DELAY, bits v 24 16)]
  if size then s1.wr F.HIU_RING_CFG_LOG2SIZE f (bits v 1 5) r else s1

/-- Both rings lie within the assignment. -/
def State.ringIn (s : State) (f r : Nat) : Bool :=
  s.spanIn f (s.rd F.HIU_RING_BASE_PA f r * 4096) (s.rSize f r * 64) false &&
    s.spanIn f (s.rd F.HIU_CQ_BASE_PA f r * 4096) (s.rSize f r * 32) true

/-- A RING_CFG write with EN = 1 (R382). -/
def State.ringEnable (s : State) (f r v : Nat) : State :=
  if s.rState f r ≠ rOff then s.putRingCfg f r v false
  else
    let s1 := (s.putRingCfg f r v true).wr F.HIU_RING_CFG_EN f 1 r
    if s1.ringIn f r then
      (s1.wrs f r [(F.HIU_RING_STATUS_STATE, rReady), (F.HIU_RING_STATUS_ERRCAUSE, 0), (F.HIU_RING_STATUS_CONS, 0), (F.HIU_CQ_HEAD_HEAD, 0),
        (F.HIU_CQ_TAIL_TAIL, 0), (F.HIU_CQ_TAIL_RES, 0)]).onRing f r (fun _ => .off)
    else
      (s1.wrs f r [(F.HIU_RING_STATUS_STATE, rErr), (F.HIU_RING_STATUS_ERRCAUSE, 1)]).event f F.HIU_EVT_STATUS_RING_ERR

/-- RING_ENABLE (R382): a RING_CFG write with EN = 1. -/
def execRingEnable (fn : Fin 32) (r : Fin 64) (val : BitVec 64) (s : State) : Out3 :=
  ok s (if s.fnTakes fn.val ∧ bits val.toNat 0 1 = 1 then s.ringEnable fn.val r.val val.toNat else s)

/-- A RING_CFG write with EN = 0 (R401). -/
def State.ringDisable (s : State) (f r v : Nat) : State :=
  let st := s.rState f r
  let s1 := (s.putRingCfg f r v (st = rOff)).wr F.HIU_RING_CFG_EN f 0 r
  if st = rReady ∨ st = rErr then
    ((s1.wr F.HIU_RING_STATUS_STATE f rDrain r).onRing f r (fun x => { x with
      cmds := x.cmds.filter (·.started) })).sweep f r
  else s1

/-- RING_DISABLE (R401): a RING_CFG write with EN = 0. -/
def execRingDisable (fn : Fin 32) (r : Fin 64) (val : BitVec 64) (s : State) : Out3 :=
  ok s (if s.fnTakes fn.val ∧ bits val.toNat 0 1 = 0 then s.ringDisable fn.val r.val val.toNat else s)

/-- CQ_HEAD_WRITE (R382, R393): taken while the ring is not OFF; a HEAD beyond TAIL is a DOORBELL error. -/
def State.cqHead (s : State) (f r v : Nat) : State :=
  if s.rState f r = rOff then s
  else
    let h := s.rd F.HIU_CQ_HEAD_HEAD f r
    let s1 := s.wr F.HIU_CQ_HEAD_HEAD f v r
    if sub32 (s.rd F.HIU_CQ_TAIL_TAIL f r) h < sub32 v h then s1.ringErr f r 2 else s1.sweep f r

/-- CQ_HEAD_WRITE. -/
def execCqHeadWrite (fn : Fin 32) (r : Fin 64) (val : BitVec 32) (s : State) : Out3 :=
  ok s (if s.fnTakes fn.val then s.cqHead fn.val r.val val.toNat else s)

/-- The tile's running job belongs to a command. -/
def Tile.runs (x : Tile) (f r seq : Nat) : Option CurJob :=
  match x.job with
  | some j => if j.job.fn = f ∧ j.job.ring = r ∧ j.job.seq = seq then some j else none
  | none => none

/-- The descriptor of a COPY command. -/
def State.copyDesc (s : State) (f r seq : Nat) : Option TdmDesc :=
  (s.tiles.toList.flatMap (·.tdm)).find? (fun d => d.owner = .copy f r seq)

/-- Bytes of a descriptor's writes that are not acknowledged: held, without a tag, or not yet taken by a port. -/
def State.tdmOwed (s : State) (t id : Nat) : Nat :=
  let w : Who := .tdm t id
  let sum (l : List Nat) : Nat := l.foldl (· + ·) 0
  sum ((s.remWait.filter (fun q => q.who = w && q.mop = mopWr)).map (·.n)) +
    sum ((s.rem.filter (fun e => e.2.who = w && e.2.mop = mopWr && s.tagQueued e.1)).map (·.2.n)) +
    (match s.ck with | some j => sum ((j.held.filter (fun h => h.who = w)).map (fun h => h.upd.span)) | none => 0)

/-- The bytes of a descriptor whose writes are acknowledged. -/
def State.tdmAcked (s : State) (d : TdmDesc) : Nat :=
  min (d.landed * 65536) d.bytes - (allTiles.foldl (fun n t => if (s.tile t).tdm.contains d then n + s.tdmOwed t.val d.id else n) 0)

/-- A command's position (Table 15-7). -/
def State.cmdPos (s : State) (f r : Nat) (c : RCmd) : Nat :=
  if c.done then c.pos
  else match c.op with
    | 1 => s.tiles.toList.foldl (fun n x => n + (match x.runs f r c.seq with | some j => j.retired | none => 0)) c.pos
    | 2 => match s.copyDesc f r c.seq with
      | some d => s.tdmAcked d
      | none => 0
    | 5 | 6 => match s.ck with
      | some j => if j.fn = f ∧ j.ring = r ∧ j.seq = c.seq then 65536 * j.acked.length else 0
      | none => 0
    | _ => 0

/-- A started command has not begun on its target (Table 15-8, QUEUED). -/
def State.cmdQueued (s : State) (f r : Nat) (c : RCmd) : Bool :=
  match c.op with
  | 1 => c.jobs = [] && s.tiles.toList.all (fun x => (x.runs f r c.seq).isNone)
  | 2 => match s.copyDesc f r c.seq with
    | some d => !d.started
    | none => false
  | _ => false

/-- RING_PROG_SEL_WRITE (R398): one consistent snapshot. -/
def State.ringProg (s : State) (f r seq : Nat) : State :=
  let put (st pos pm total : Nat) : State :=
    s.wrs f r [(F.HIU_RING_PROG_SEL_SEQ, seq), (F.HIU_RING_PROG_POS_STATE, st), (F.HIU_RING_PROG_POS_POSITION, pos),
      (F.HIU_RING_PROG_POS_PERMILLE, pm), (F.HIU_RING_PROG_TOTAL_TOTAL, total)]
  match s.rcmd f r seq with
  | none => put 0 0 0 0
  | some c =>
    if !c.started || s.rSize f r < sub32 (s.rd F.HIU_RING_STATUS_CONS f r) seq then put 0 0 0 0
    else
      let pos := s.cmdPos f r c
      if c.recorded then put 3 pos 1000 c.total
      else put (if s.cmdQueued f r c then 1 else 2) pos (if c.total = 0 then 0 else min 999 (1000 * pos / c.total)) c.total

/-- RING_PROG_SEL_WRITE. -/
def execRingProgSelWrite (fn : Fin 32) (r : Fin 64) (val : BitVec 32) (s : State) : Out3 :=
  ok s (if s.fnTakes fn.val then s.ringProg fn.val r.val val.toNat else s)

/-- TIME_NOW_READ (R353, R399): the count goes to the reader, and the function's latch takes the fraction. -/
def execTimeNowRead (fn : Fin 32) (s : State) : Out3 :=
  ok s (if s.fnTakes fn.val then (s.wr F.HIU_TIME_NOW_FRAC_FRAC fn.val s.frac).emit (.other "TIME_NOW" [fn.val, s.ns]) else s)

end Sys2Proof.Machine
end

