-- ==== Sys2Proof/Machine/Ckpt.lean ====
section
/-! DEFINITION. The checkpoint engine (R317 to R324) and the start, blocks and end of every TDM descriptor (R225 to R229). -/
namespace Sys2Proof.Machine

/-! ### The checkpoint descriptor (R317, Table 12-2) -/

/-- A CKD's fields, read whole. -/
structure Ckd where
  nreg : Nat
  image : Nat
  shadow : Nat
  sblocks : Nat
  bmap : Nat
  start : Nat
  regions : List (Nat × Nat)

/-- Read the CKD at an address. -/
def State.readCkd (s : State) (f pa : Nat) : Ckd :=
  let n := s.readNat f pa 2
  ⟨n, s.readNat f (pa + 8) 8, s.readNat f (pa + 0x10) 8, s.readNat f (pa + 0x18) 4, s.readNat f (pa + 0x20) 8, s.readNat f (pa + 0x28) 8,
    (List.range (min n 64)).map (fun i => (s.readNat f (pa + 0x40 + 16 * i) 8, s.readNat f (pa + 0x48 + 16 * i) 4))⟩

/-- Bytes of a CKD with n regions. -/
def ckdBytes (n : Nat) : Nat := 0x40 + 16 * min n 64

/-- An RSV field of the CKD is not zero. -/
def State.ckdRsv (s : State) (f pa n : Nat) : Bool :=
  s.readNat f (pa + 2) 6 ≠ 0 || s.readNat f (pa + 0x1C) 4 ≠ 0 || s.readNat f (pa + 0x30) 16 ≠ 0 ||
    (List.range (min n 64)).any (fun i => s.readNat f (pa + 0x4C + 16 * i) 4 ≠ 0)

/-- Blocks of all regions. -/
def Ckd.total (d : Ckd) : Nat := d.regions.foldl (fun n r => n + r.2) 0

/-- Bytes of the block map. -/
def Ckd.bmapBytes (d : Ckd) : Nat := (d.total + 3) / 4

/-- Both ends of a range of this device lie in one memory of a kind. -/
def State.inOne (s : State) (p : Region → Bool) (a n : Nat) : Bool :=
  match deviceRegion (s.localise a), deviceRegion (s.localise (a + n - 1)) with
  | .peat t, .peat u => t = u && p (.peat t)
  | .mere t, .mere u => t = u && p (.mere t)
  | .hbm k o, .hbm l _ => k = l && p (.hbm k o)
  | _, _ => false

/-- A stack's memory. -/
def Region.isHbm : Region → Bool
  | .hbm _ _ => true
  | _ => false

/-- No two of the ranges overlap. -/
def disjoint : List (Nat × Nat) → Bool
  | [] => true
  | p :: l => l.all (fun q => !overlap p.1 p.2 q.1 q.2) && disjoint l

/-- The CKD breaks R317; RESTORE takes one with START_TIME 0 (R324). -/
def State.ckdBad (s : State) (f pa : Nat) (d : Ckd) (restore : Bool) : Bool :=
  s.ckdRsv f pa d.nreg || d.nreg < 1 || 64 < d.nreg || 2 ^ 52 ≤ d.image || 2 ^ 52 ≤ d.shadow || 2 ^ 52 ≤ d.bmap ||
    d.regions.any (fun r => decide (2 ^ 52 ≤ r.1) || r.2 = 0 || r.1 % 65536 ≠ 0 || !s.inOne (fun _ => true) r.1 (r.2 * 65536)) ||
    d.image % 4096 ≠ 0 || d.shadow % 65536 ≠ 0 || d.bmap % 65536 ≠ 0 ||
    !(match regionOf d.image with
      | .fen k _ => decide (k ≠ s.rank) && decide (bits (s.rd F.FEN_MEMBERS_MASK 0) k 1 = 1)
      | .host _ => true
      | _ => false) ||
    d.sblocks < 8 || !s.inOne Region.isHbm d.shadow (d.sblocks * 65536) || !s.inOne Region.isHbm d.bmap d.bmapBytes ||
    !disjoint ((s.localise d.shadow, d.sblocks * 65536) :: (s.localise d.bmap, d.bmapBytes) ::
      d.regions.map (fun r => (s.localise r.1, r.2 * 65536))) || (restore && d.start ≠ 0)

/-- Every address the job uses lies within the assignment, in memory that is not Off (R14, R493). -/
def State.ckdAccess (s : State) (f : Nat) (d : Ckd) (restore : Bool) : Bool :=
  d.regions.all (fun r => s.spanOk f r.1 (r.2 * 65536) restore) && s.spanOk f d.shadow (d.sblocks * 65536) true &&
    s.spanOk f d.bmap d.bmapBytes true && s.spanOk f d.image (4096 + d.total * 65536) (!restore)

/-! ### The end of a job (R322) -/

/-- The writes a job held proceed, in their order of arrival. -/
def State.release (s : State) (l : List HeldWrite) : State := l.foldl (fun s h => s.perform h.fn h.pa h.upd) s

/-- Commands whose last write has been acknowledged. -/
def State.signalsDone (s : State) : State :=
  s.fns.foldl (fun s p => p.2.rings.foldl (fun s q =>
    (q.2.cmds.filter (fun c => c.started && !c.done && c.op = 3)).foldl (fun s c => s.signalDone p.1 q.1 c.seq) s) s) s

/-- Every tile's units, and every ring, do what they now can. -/
def State.allGo (s : State) : State := (allTiles.foldl (fun s t => s.unitsGo t) s).signalsDone.sweepAll

/-- The job ends: tracking stops, held writes proceed, its descriptors go, and its command completes. -/
def State.ckEnd (s : State) (status : Nat) : State :=
  match s.ck with
  | none => s
  | some j =>
    let s1 := ({ s with ck := none } : State).release j.held
    let s2 := allTiles.foldl (fun s t => s.onTile t (fun x => { x with
      tdm := x.tdm.filter (fun d => match d.owner with | .ck _ => false | _ => true) })) s1
    let n := 65536 * j.acked.length + (if status = 0 then 4096 else 0)
    (s2.complete j.fn j.ring j.seq status (if status = 0 then j.epoch.getD 0 else 0) n).allGo

/-! ### Blocks and descriptors (R319, R320) -/

/-- The address of block k. -/
def blockAddr : List (Nat × Nat) → Nat → Nat
  | [], _ => 0
  | (b, n) :: l, k => if k < n then b + k * 65536 else blockAddr l (k - n)

/-- The tile whose TDM3 moves block k. -/
def State.blockTile (s : State) (j : CkJob) (k : Nat) : Nat :=
  match deviceRegion (s.localise (blockAddr j.regions k)) with
  | .peat t | .mere t => t
  | .hbm h _ => h
  | _ => 0

/-- Blocks a started descriptor carries. -/
def State.ckFlying (s : State) : List Nat :=
  (s.tiles.toList.flatMap (·.tdm)).filterMap (fun d => match d.owner with | .ck b => b | _ => none)

/-- Blocks of a state that no descriptor carries, lowest first. -/
def State.ckLeft (s : State) (j : CkJob) (st : Nat) : List Nat :=
  (List.range j.blocks.length).filter (fun k => decide (j.blocks[k]?.getD 3 = st) && !s.ckFlying.contains k)

/-- Descriptors of the job in a tile's pool that carry no block yet, and all of them. -/
def Tile.ckDescs (x : Tile) : Nat × Nat :=
  ((x.tdm.filter (fun d => d.owner = .ck none)).length, (x.tdm.filter (fun d => match d.owner with | .ck _ => true | _ => false)).length)

/-- Form descriptors on a tile's TDM3: at most 8, and no more than it has blocks to move. -/
def State.ckFeedTile (s : State) (j : CkJob) (t : Fin 8) : State :=
  let x := s.tile t
  let left := ((s.ckLeft j 0 ++ s.ckLeft j 2).filter (fun k => s.blockTile j k = t.val)).length
  let n := min (min (8 - x.ckDescs.2) (64 - x.tdm.length)) (left - x.ckDescs.1)
  s.onTile t (fun x => (List.range n).foldl (fun x _ => x.addDesc 3 (.ck none) ⟨0, 0, 65536, 1, 0, 0⟩ 3 0 0) x)

/-- The job wakes each memory it uses, the regions', the shadow's and the block map's, and each TDM3 that still has blocks to move, and no
TCC (R320). -/
def State.ckWake (s : State) (j : CkJob) : State :=
  let s1 := ((j.regions.map (·.1)) ++ [j.shadow, j.bmap]).foldl (fun s a => s.wakeFor none a) s
  allTiles.foldl (fun s t =>
    if (List.range j.blocks.length).any (fun k => s.blockTile j k = t.val && !j.acked.contains k) then s.wakeTile t false else s) s1

/-- Feed every TDM3, once the image is open and the snapshot taken; what has gone to sleep again is woken. -/
def State.ckFeed (s : State) : State :=
  match s.ck with
  | none => s
  | some j => if j.stage = 1 ∧ j.epoch.isSome then allTiles.foldl (fun s t => s.ckFeedTile j t) (s.ckWake j) else s

/-! ### The image (R321, Table 12-3) -/

/-- The magic word of a complete image. -/
def ckMagic : Nat := 0x4B435845

/-- Numbers of bytes. -/
def natsOf (l : List Byte) : List Nat := l.map (·.toNat)

/-- Where region i's data begin in the image. -/
def CkJob.dataAt (j : CkJob) (i : Nat) : Nat := j.image + 0x1000 + ((j.regions.take i).foldl (fun n r => n + r.2) 0) * 65536

/-- CRC-32 of region i's data in the image. -/
def State.regionCrc (s : State) (j : CkJob) (i : Nat) : Nat :=
  crc32 (natsOf (s.readBytes j.fn (j.dataAt i) ((j.regions[i]?.getD (0, 0)).2 * 65536)))

/-- The header from byte 0x018 to the end of the region table. -/
def State.headTail (s : State) (j : CkJob) : List Byte :=
  leBytes 8 (65536 * j.blocks.length) ++ List.replicate 32 0 ++
    j.regions.zipIdx.flatMap (fun r => leBytes 8 r.1.1 ++ leBytes 4 r.1.2 ++ leBytes 4 (s.regionCrc j r.2))

/-- The header from byte 0x004 to the end of the region table. -/
def State.header (s : State) (j : CkJob) : List Byte :=
  let a := leBytes 2 1 ++ leBytes 2 j.regions.length ++ leBytes 8 (j.epoch.getD 0) ++ leBytes 4 (s.rank + j.fn * 64)
  let b := s.headTail j
  a ++ leBytes 4 (crc32 (natsOf (a ++ b))) ++ b

/-- Write a part of the image. -/
def State.ckWrite (s : State) (j : CkJob) (off : Nat) (bs : List Byte) : State := s.writeBytes j.fn (j.image + off) bs .ckpt true

/-- A CHECKPOINT's image header matches the CKD (R324). -/
def State.imageOk (s : State) (j : CkJob) : Bool :=
  let a := j.image
  let n := j.regions.length
  s.readNat j.fn a 4 = ckMagic && s.readNat j.fn (a + 4) 2 = 1 && s.readNat j.fn (a + 6) 2 = n &&
    s.readNat j.fn (a + 0x14) 4 = crc32 (natsOf (s.readBytes j.fn (a + 4) 16 ++ s.readBytes j.fn (a + 0x18) (0x28 + 16 * n))) &&
    j.regions.zipIdx.all (fun r => s.readNat j.fn (a + 0x40 + 16 * r.2) 8 = r.1.1 && s.readNat j.fn (a + 0x48 + 16 * r.2) 4 = r.1.2)

/-- Move the job to its next stage as its image accesses are acknowledged. -/
def State.ckAdvance (s : State) : State :=
  if s.owes (fun w => w = .ckpt) then s
  else match s.ck with
    | none => s
    | some j => if s.atsNeeds j.fn j.image then s.atsAsk j.fn j.image else match j.stage with
      | 0 =>
        if j.restore then
          if s.poisonIn j.image (0x40 + 16 * j.regions.length) then s.ckEnd 0x32
          else if s.imageOk j then
            ({ s with ck := some { j with stage := 1, epoch := some (s.readNat j.fn (j.image + 8) 8) } } : State).ckFeed
          else s.ckEnd 0x35
        else ({ s with ck := some { j with stage := 1 } } : State).ckFeed
      | 2 =>
        let s1 := ({ s with ck := some { j with stage := 3 } } : State).ckWrite j 0 (leBytes 4 ckMagic)
        if s1.owes (fun w => w = .ckpt) then s1 else s1.ckEnd 0
      | 3 => s.ckEnd 0
      | _ => s

/-! ### Starting a job (R318, R324) -/

/-- Begin a job whose CKD has passed its checks: every block PENDING, the image opened by a zero MAGIC or its header read. -/
def State.ckBegin (s : State) (f r : Nat) (c : RCmd) (d : Ckd) (restore : Bool) : State :=
  let j : CkJob := ⟨f, r, c.seq, restore, c.field 0x10 8, d.regions, d.image, d.shadow, d.sblocks, d.bmap, d.start, none,
    List.replicate d.total 0, [], [], 0, []⟩
  let s0 : State := if restore then s else s.putBytes 0 d.bmap (List.replicate d.bmapBytes (BitVec.ofNat 8 (Config.bmapCode 0 % 4 * 0x55)))
  let s1 := ({ s0 with ck := some j } : State).ckWake j
  (if restore then
    (piecesOf 256 d.image (0x40 + 16 * d.nreg)).foldl (fun s p => match s.region p.1 with
      | .fen k off => s.request ⟨.ckpt, mopRd, off, p.2, k, [], true⟩
      | _ => s) s1
   else s1.ckWrite j 0 (leBytes 4 0)).ckAdvance

/-- Parts of a CKD in another rank's memory. -/
def State.ckdFar (s : State) (pa : Nat) : List (Nat × Nat × Nat) :=
  (piecesOf 256 pa (ckdBytes 64)).filterMap (fun p => match s.region p.1 with | .fen d off => some (d, off, p.2) | _ => none)

/-- CHECKPOINT and RESTORE begin once the engine is free (R318). -/
def State.ckCommand (s : State) (f r op : Nat) : State :=
  match s.ready f r op with
  | none => s
  | some c =>
    let pa := c.field 0x10 8
    let far := s.ckdFar pa
    if s.ck.isSome then s
    else if !s.spanOk f pa 0x40 false then (s.startFail f r c 0 0x31).sweep f r
    else if (s.hiuAts f pa 0x40).isSome then s.atsAsk f pa
    else if far ≠ [] ∧ !c.asked then
      far.foldl (fun s p => s.request ⟨.cmd f r c.seq, mopRd, p.2.1, p.2.2, p.1, [], false⟩) (s.onCmd f r c.seq (fun c => { c with asked := true }))
    else if far ≠ [] ∧ s.owes (fun w => w = .cmd f r c.seq) then s
    else
      let d := s.readCkd f pa
      let total := 4096 + 65536 * d.total
      if !s.spanOk f pa (ckdBytes d.nreg) false then (s.startFail f r c 0 0x31).sweep f r
      else if (s.hiuAts f pa (ckdBytes d.nreg)).isSome then (s.hiuAts f pa (ckdBytes d.nreg)).getD s
      else if s.poisonIn pa (ckdBytes d.nreg) then (s.startFail f r c 0 0x32).sweep f r
      else if s.ckdBad f pa d (op = 6) then (s.startFail f r c total 0x30).sweep f r
      else if !s.ckdAccess f d (op = 6) then (s.startFail f r c total 0x31).sweep f r
      else (((s.hiuTook pa (ckdBytes d.nreg)).start f r c total).ckBegin f r c d (op = 6)).sweep f r

/-- CHECKPOINT (R317, R318, R390). -/
def execCheckpoint (fn : Fin 32) (r : Fin 64) (s : State) : Out3 := ok s (s.ckCommand fn.val r.val 5)

/-- RESTORE (R324, R390). -/
def execRestore (fn : Fin 32) (r : Fin 64) (s : State) : Out3 := ok s (s.ckCommand fn.val r.val 6)

/-- CHECKPOINT_SNAPSHOT (R318): the job has started and the count has reached START_TIME. -/
def execCheckpointSnapshot (s : State) : Out3 :=
  ok s (match s.ck with
    | some j => if !j.restore && j.epoch.isNone && decide (j.start ≤ s.ns) then
        ({ s with ck := some { j with epoch := some s.ns } } : State).ckFeed else s
    | none => s)

/-- HELD_WRITE_RELEASE (R319): the oldest write held on a block proceeds once the block is COPIED or SHADOWED, or can be shadowed. -/
def execHeldWriteRelease (block : Nat) (s : State) : Out3 :=
  ok s (match s.ck with
    | none => s
    | some j => match j.held.find? (fun h => (blockOf j.regions 0 (s.localise h.pa)).any (fun b => decide (b.1 = block))) with
      | none => s
      | some h =>
        let g := s.blockGate h.pa
        let s1 : State := match g with
          | .shadow k base slot => s.shadowCopy k base slot
          | _ => s
        if g = .hold then s
        else match s1.ck with
          | some j1 => (({ s1 with ck := some { j1 with held := j1.held.erase h } } : State).release [h]).allGo
          | none => s)

/-- CHECKPOINT_IMAGE_FINISH (R321): every data write is acknowledged, and the header, then MAGIC, is written. -/
def execCheckpointImageFinish (s : State) : Out3 :=
  ok s (match s.ck with
    | some j =>
      if s.atsNeeds j.fn j.image then s.atsAsk j.fn j.image
      else if !j.restore && j.stage = 1 && j.epoch.isSome && j.acked.length = j.blocks.length then
        (({ s with ck := some { j with stage := 2 } } : State).ckWrite j 4 (s.header j)).ckAdvance
      else s
    | none => s)

/-! ### Descriptors (R225 to R229) -/

/-- The block a descriptor of the job takes at its start: the tile's lowest SHADOWED one, else, when none is SHADOWED anywhere, its lowest
PENDING one (R320). -/
def State.ckPick (s : State) (j : CkJob) (t : Fin 8) : Option Nat :=
  let sh := s.ckLeft j 2
  match sh.find? (fun k => s.blockTile j k = t.val) with
  | some k => some k
  | none => if sh = [] then (s.ckLeft j 0).find? (fun k => s.blockTile j k = t.val) else none

/-- A descriptor of the job takes its block: a PENDING one becomes READING, a SHADOWED one is sent from its shadow block. -/
def State.ckTake (s : State) (t : Fin 8) (d : TdmDesc) : State :=
  match s.ck with
  | none => s
  | some j => match s.ckPick j t with
    | none => s
    | some k =>
      let img := j.image + 0x1000 + k * 65536
      let reg := blockAddr j.regions k
      let put (s : State) (src dst : Nat) : State :=
        (s.onTile t (fun x => x.putDesc { d with owner := .ck (some k), src := src, dst := dst })).descStart t d.id
      if j.restore then put s img reg
      else match j.slots.find? k with
        | some sl => put s (j.shadow + sl * 65536) img
        | none => put (s.blockTo j k 1) reg img

/-- The engines of a tile can work: its domain runs, or for the checkpoint its memory is awake (R320, R366). -/
def State.tdmRuns (s : State) (t : Fin 8) (ck : Bool) : Bool :=
  s.unitsRun t || (ck && s.rd F.TPC_STATUS_STATE t.val ≠ 4 && s.flag F.TPC_STATUS_MEMWAKE t.val)

/-- TDM_DESCRIPTOR_START (R225, R226); a checkpoint's wakes a TDM3 that sleeps. -/
def execTdmDescriptorStart (t : Fin 8) (id : Nat) (s : State) : Out3 :=
  ok s (match (s.tile t).desc id with
    | none => s
    | some d => match d.owner with
      | .ck b => if !s.tdmRuns t true then s.wakeTile t false else if b.isNone then s.ckTake t d else s.descStart t id
      | _ => if s.tdmRuns t false then s.descStart t id else s)

/-- A block of the job has been read whole: a READING block is COPIED (R319). -/
def State.ckLanded (s : State) (d : TdmDesc) : State :=
  match s.ck, d.owner with
  | some j, .ck (some k) => if j.blocks[k]?.getD 3 = 1 then s.blockTo j k 3 else s
  | _, _ => s

/-- TDM_BLOCK_LANDED (R226, R227). -/
def execTdmBlockLanded (t : Fin 8) (id : Nat) (s : State) : Out3 :=
  ok s (match (s.tile t).desc id with
    | none => s
    | some d =>
      let s1 := s.blockLanded t id
      match (s1.tile t).desc id with
      | some e => if d.landed < e.landed then s1.ckLanded e else s1
      | none => s1)

/-- A block of the job has reached its destination: its shadow block is free again; a RESTORE whose last block this is checks its CRCs
(R320, R324). -/
def State.ckBlockDone (s : State) (d : TdmDesc) : State :=
  match s.ck, d.owner with
  | some j, .ck (some k) => match d.failed with
    | some 2 => s.ckEnd 0x32
    | some 3 => s.ckEnd 0x33
    | some _ => s.ckEnd 0x31
    | none =>
      let j1 := { j with acked := j.acked ++ [k], slots := j.slots.erase k }
      let s1 := ({ s with ck := some j1 } : State).blockTo j1 k 3
      if j.restore && j1.acked.length = j1.blocks.length then
        if (List.range j.regions.length).all (fun i => s1.regionCrc j1 i = s1.readNat j.fn (j.image + 0x4C + 16 * i) 4) then s1.ckEnd 0
        else s1.ckEnd 0x36
      else s1.ckFeed
  | _, _ => s

/-- A completed descriptor leaves the pool and its owner is told (R227, R228). -/
def State.descDone (s : State) (t : Fin 8) (d : TdmDesc) : State :=
  let s1 := s.onTile t (fun x => { x with tdm := x.tdm.filter (fun e => decide (e.id ≠ d.id)) })
  (match d.owner with
    | .mv seq => s1.mvDescDone t seq d
    | .copy f r seq => s1.copyDone f r seq d
    | .ck _ => s1.ckBlockDone d
    | .kv _ => s1).mvRun t

/-- TDM_DESCRIPTOR_COMPLETE (R228): every write is acknowledged; with CMPL the completion write comes first. -/
def execTdmDescriptorComplete (t : Fin 8) (id : Nat) (s : State) : Out3 :=
  ok s (match (s.tile t).desc id with
    | none => s
    | some d =>
      if !s.descReady t d then s
      else
        let s1 := if d.failed.isNone && d.cut.isNone && bits d.flags 2 1 = 1 then s.descCmpl t d else s
        match (s1.tile t).desc id with
        | some e => if s1.descReady t e then ((s1.descDone t e).ckFeed).settle else s1
        | none => s1)

end Sys2Proof.Machine
end

