-- ==== Sys2Proof/Machine/Frame.lean ====
section
/-! DEFINITION. Bytes on a Causeway link (R326 to R330): packets, flits, and codeword pairs. -/
namespace Sys2Proof.Machine

/-! ### Lode units (Tables 10-2 and 13-3) -/

/-- A header with nothing in it. -/
def Hdr.zero : Hdr := ⟨0, 0, false, false, 0, 0, 0, 0, 0, 0, 0, 0, 0, 0, 0, 0, 0, false, 0⟩

/-- KIND of a CREDIT message. -/
abbrev kCredit : Nat := 4
/-- KIND of a REDUCE message. -/
abbrev kReduce : Nat := 5

/-- What a CREDIT message carries (R252, R265): HANDLER says which it is, 0 a credit, 1 a grant request with its ALLOT in OFFSET, 2 the answer
with its cause plus one in OFFSET and the queue's EPOCH in SEQ, 3 a returned allotment, 4 a notice that the message SEQ is placed. LAST
marks a group, and the channel or group stands in the SRC word (DESIGN CHOICE, unsafe, log entry 46). -/
def creditHdr (code : Nat) (src : Peer) (q : QRef) (toSrc : Bool) (crank off seq : Nat) : Hdr :=
  { Hdr.zero with
    handler := code, kind := kCredit, last := src.grp
    stile := if toSrc then q.tile else src.tile, srank := if toSrc then q.rank else src.rank
    dtile := if toSrc then src.tile else q.tile, drank := if toSrc then src.rank else q.rank
    chan := if src.grp then 0 else src.num, group := if src.grp then src.num else 0
    dq := q.queue, crank := crank, offset := off, seq := seq }

/-- A unit's header and payload. -/
def NetMsg.wire : NetMsg → List Byte
  | .msg h p _ _ _ => leBytes 32 h ++ p
  | .credit src q => leBytes 32 (creditHdr 0 src q true 0 0 0).pack
  | .grantReq src q crank allot => leBytes 32 (creditHdr 1 src q false crank allot 0).pack
  | .grantRep src q cause epoch => leBytes 32 (creditHdr 2 src q true 0 (match cause with | some c => c + 1 | none => 0) epoch).pack
  | .allotRet src q => leBytes 32 (creditHdr 3 src q false 0 0 0).pack
  | .placed src q seq => leBytes 32 (creditHdr 4 src q true 0 0 seq).pack

/-- The sender that a header names: a group for MCAST, else a channel. -/
def Hdr.sender (h : Hdr) : Peer := if h.kind = kMcast then ⟨h.srank, h.stile, true, h.group⟩ else ⟨h.srank, h.stile, false, h.chan⟩

/-- The unit that a header and payload are; a CREDIT code of none is no unit. -/
def netOf (hdr : Nat) (payload : List Byte) (poison : Bool) : Option NetMsg :=
  let h := Hdr.of hdr
  if h.kind ≠ kCredit then some (.msg hdr payload poison h.sender none)
  else
    let num := if h.last then h.group else h.chan
    let out : Peer := ⟨h.srank, h.stile, h.last, num⟩
    let back : Peer := ⟨h.drank, h.dtile, h.last, num⟩
    let there : QRef := ⟨h.drank, h.dtile, h.dq⟩
    let here : QRef := ⟨h.srank, h.stile, h.dq⟩
    match h.handler with
    | 0 => some (.credit back here)
    | 1 => some (.grantReq out there h.crank h.offset)
    | 2 => some (.grantRep back here (if h.offset = 0 then none else some (h.offset - 1)) h.seq)
    | 3 => some (.allotRet out there)
    | 4 => some (.placed back here h.seq)
    | _ => none

/-! ### REDUCE messages (R114, R347) -/

/-- The header of a REDUCE message. Of the fields that a message between LEPs uses, HANDLER holds SLOT and FEN_GROUP; channel RESULT, the root tile
and ALLRED; group N - 1; queue TILES; CRANK and RESPQ the epoch; RESP whether it is LODE.TREDUCE; QCAUSE, AUTO and LAST the group's ROOT; SEQ the
row; TIME MEMBERS; OFFSET the elements or M (DESIGN CHOICE, unsafe, log entry 46). -/
def redHdr (rgd srank d row n ln time off : Nat) (tred : Bool) (cfg : Nat) : Hdr :=
  let root := bits cfg 2 6
  { handler := rgdSlot rgd + rgdGroup rgd * 16, kind := kReduce, last := bits root 5 1 = 1, auto := bits root 4 1 = 1, ln := ln
    stile := rgdRoot rgd, srank := srank, chan := rgdResult rgd + rgdRoot rgd * 2 ^ 5 + bits cfg 1 1 * 2 ^ 8, group := n - 1
    dq := rgdTiles rgd, dtile := rgdRoot rgd, drank := d, crank := rgdEpoch rgd % 256, seq := row, time := time, offset := off
    respq := rgdEpoch rgd / 256, resp := tred, qcause := root % 16 }

/-- The RGD that a REDUCE header names; it is one of a Fen group. -/
def Hdr.rgd (h : Hdr) : Nat :=
  h.handler % 16 + h.dq * 2 ^ 4 + bits h.chan 5 3 * 2 ^ 12 + bits h.chan 0 5 * 2 ^ 15 + 2 ^ 20 + h.handler / 16 * 2 ^ 21 + (h.crank + h.respq * 256) * 2 ^ 32

/-- The group configuration that a REDUCE header names; its sender holds the group enabled. -/
def Hdr.rgrpCfg (h : Hdr) : Nat :=
  1 + bits h.chan 8 1 * 2 + (h.qcause + h.auto.toNat * 16 + h.last.toNat * 32) * 4 + h.time * 256

/-- A partial row as a header and payload. -/
def PartRow.wire (r : PartRow) (d : Nat) : List Byte :=
  leBytes 32 (redHdr r.rgd r.rank d r.row r.n r.payload.length (r.cfg / 256) (if r.elems = 0 then r.m else r.elems) (decide (r.elems ≠ 0)) r.cfg).pack ++
    r.payload

/-- An encoded cell's bytes: element, code, and scale or low code. -/
def cellBytes (c : Nat × Nat × Nat) : List Byte := leBytes 4 c.1 ++ leBytes 4 c.2.1 ++ leBytes 4 c.2.2

/-- The cells of a payload. -/
def cellsOf (bs : List Byte) : List (Nat × Nat × Nat) :=
  (List.range (bs.length / 12)).map (fun i =>
    let at_ (k : Nat) : Nat := leNat ((bs.drop (12 * i + k)).take 4)
    (at_ 0, at_ 4, at_ 8))

/-- The packet that a REDUCE header and payload are: a partial row names its group's MEMBERS; encoded cells and a notice do not. -/
def redOf (h : Hdr) (bs : List Byte) : Pkt :=
  if h.time ≠ 0 then
    .red { rank := h.srank, rgd := h.rgd, m := if h.resp then (h.offset + 31) / 32 else h.offset, n := h.group + 1, long := bs.length = 768,
           elems := if h.resp then h.offset else 0, cfg := h.rgrpCfg, row := h.seq, payload := bs }
  else if bs = [] then .redEnd h.rgd h.offset
  else .encoded h.rgd h.seq (cellsOf bs)

/-! ### Memory packets (Table 13-5) -/

/-- A memory header's 128 bits. -/
def MemHdr.pack (h : MemHdr) : Nat :=
  h.mop % 16 + h.status % 16 * 2 ^ 4 + (h.n - 1) % 256 * 2 ^ 8 + h.tag % 4096 * 2 ^ 16 + h.addr % 2 ^ 52 * 2 ^ 32

/-- Take a memory header apart. -/
def MemHdr.of (w : Nat) : MemHdr :=
  ⟨bits w 0 4, bits w 4 4, bits w 8 8 + 1, bits w 16 12, bits w 32 52, decide (bits w 28 4 ≠ 0) || decide (bits w 84 44 ≠ 0)⟩

/-! ### Management packets -/

/-- The codes of the messages of Fenreeve and the FLT, in a packet's first 8 bytes; their data follow in words of 8 bytes (DESIGN CHOICE, unsafe, log
entry 27). -/
def MgmtKind.code : MgmtKind → Nat
  | .hello => 0 | .assign => 1 | .assignAck => 2 | .commit => 3 | .notice => 4 | .heartbeat => 5 | .fenceDone => 6 | .fenStop => 7 | .flr => 8

/-- The message of a code. -/
def MgmtKind.ofCode (n : Nat) : Option MgmtKind :=
  [.hello, .assign, .assignAck, .commit, .notice, .heartbeat, .fenceDone, .fenStop, .flr].find? (fun k => decide (MgmtKind.code k = n))

/-! ### Packets (Table 13-3) -/

/-- A packet's bytes, to a rank. -/
def Pkt.wire (k : Pkt) (srank d : Nat) : List Byte :=
  match k with
  | .lode m => m.wire
  | .mem h data _ => leBytes 16 h.pack ++ data
  | .red r => r.wire d
  | .encoded rgd row cs => leBytes 32 (redHdr rgd srank d row 1 (12 * cs.length) 0 0 false 0).pack ++ cs.flatMap cellBytes
  | .redEnd rgd status => leBytes 32 (redHdr rgd srank d 0 1 0 0 status false 0).pack
  | .mgmt kind data => leBytes 8 kind.code ++ data.flatMap (leBytes 8)
  | .raw bs => bs

/-- The packet that bytes received on a virtual channel are. -/
def Pkt.parse (vc : Nat) (bs : List Byte) (poison : Bool) : Pkt :=
  if vc ≤ 1 then
    if bs.length < 32 then .raw bs
    else match netOf (leNat (bs.take 32)) (bs.drop 32) poison with
      | some m => .lode m
      | none => .raw bs
  else if vc = 2 ∨ vc = 3 ∨ vc = 7 then
    if bs.length < 16 then .raw bs else .mem (.of (leNat (bs.take 16))) (bs.drop 16) poison
  else if vc = 4 then
    if bs.length < 32 ∨ (Hdr.of (leNat (bs.take 32))).kind ≠ kReduce then .raw bs else redOf (.of (leNat (bs.take 32))) (bs.drop 32)
  else match MgmtKind.ofCode (leNat (bs.take 8)) with
    | some k => if bs.length < 8 then .raw bs
        else .mgmt k ((List.range (bs.length / 8 - 1)).map (fun i => leNat ((bs.drop (8 * i + 8)).take 8)))
    | none => .raw bs

/-! ### Flits (Table 13-2) -/

/-- The FTYPE code; the reserved ones are not sent. -/
def FType.code : FType → Nat
  | .data => 0 | .idle => 1 | .linkid => 2 | .time => 3 | .reserved => 4

/-- The FTYPE of a code. -/
def FType.ofCode : Nat → FType
  | 0 => .data | 1 => .idle | 2 => .linkid | 3 => .time | _ => .reserved

/-- Bytes 0 to 11. -/
def Flit.head (f : Flit) : Nat :=
  let c0 := f.creds[0]?
  let c1 := f.creds[1]?
  let cred (c : Option (Nat × Nat × Nat)) : Nat := match c with | some x => x.1 % 8 + 2 ^ 3 + x.2.2 % 1024 * 2 ^ 4 | none => 0
  let cls (c : Option (Nat × Nat × Nat)) : Nat := match c with | some x => x.2.1 % 2 | none => 0
  f.vc % 8 + f.sop.toNat * 2 ^ 3 + f.eop.toNat * 2 ^ 4 + f.poison.toNat * 2 ^ 5 + f.dl % 2 * 2 ^ 6 + f.plen % 256 * 2 ^ 8 + f.drank % 64 * 2 ^ 16 +
    f.srank % 64 * 2 ^ 22 + f.ftype.code * 2 ^ 28 +
    (f.seq % 4096 + f.ack % 4096 * 2 ^ 12 + f.ackv.toNat * 2 ^ 24 + f.nak.toNat * 2 ^ 25) * 2 ^ 32 +
    (cred c0 + cred c1 * 2 ^ 14 + cls c0 * 2 ^ 28 + cls c1 * 2 ^ 29) * 2 ^ 64

/-- Bytes 0 to 251. -/
def Flit.body (f : Flit) : List Byte := leBytes 12 f.head ++ (f.payload ++ List.replicate (240 - f.payload.length) 0#8).take 240

/-- The CRC-32 of bytes (R133). -/
def crcOf (bs : List Byte) : Nat := crc32 (bs.map (·.toNat))

/-- The 2,048 bits of a flit from its three parts of Table 13-2, the first byte lowest: the 12 header bytes, the 240 payload bytes and the CRC32. -/
def flitWord (head : BitVec 96) (payload : BitVec 1920) (crc : BitVec 32) : BitVec 2048 := crc ++ payload ++ head

/-- The 256 bytes of a flit, as an integer in byte order. -/
def Flit.word (f : Flit) : BitVec 2048 := BitVec.ofNat 2048 (leNat f.body + crcOf f.body * 2 ^ 2016)

/-- Take a flit apart. -/
def Flit.of (w : BitVec 2048) : Flit :=
  let n := w.toNat
  let cred (lo cls : Nat) : List (Nat × Nat × Nat) :=
    if bits n (64 + lo + 3) 1 = 1 then [(bits n (64 + lo) 3, bits n (64 + cls) 1, bits n (64 + lo + 4) 10)] else []
  { vc := bits n 0 3, sop := bits n 3 1 = 1, eop := bits n 4 1 = 1, poison := bits n 5 1 = 1, dl := bits n 6 1, plen := bits n 8 8
    drank := bits n 16 6, srank := bits n 22 6, ftype := .ofCode (bits n 28 4), seq := bits n 32 12, ack := bits n 44 12, ackv := bits n 56 1 = 1
    nak := bits n 57 1 = 1, creds := cred 0 28 ++ cred 14 29, payload := leBytes 240 (n / 2 ^ 96) }

/-- A received flit's CRC matches. -/
def flitCrc (w : BitVec 2048) : Bool := decide (crcOf (leBytes 252 w.toNat) = w.toNat / 2 ^ 2016)

/-- No RSV bit of a received flit is set. -/
def flitRsv (w : BitVec 2048) : Bool := decide (bits w.toNat 7 1 = 0) && decide (bits w.toNat 58 6 = 0) && decide (bits w.toNat 94 2 = 0)

/-- Flits of a packet of so many bytes. -/
def flitsOf (bytes : Nat) : Nat := max 1 ((bytes + 239) / 240)

/-- A packet's bytes as a port sends them. -/
def TxPkt.wire (k : TxPkt) : List Byte := k.pkt.wire k.srank k.drank

/-- The flits of a packet. -/
def TxPkt.flits (k : TxPkt) : Nat := flitsOf k.wire.length

/-! ### LINKID and TIME payloads (R328, Table 14-1) -/

/-- The payload of a LINKID flit: DEVID, then the port number (DESIGN CHOICE, unsafe, log entry 46). -/
def linkidBytes (devid port : Nat) : List Byte := leBytes 8 devid ++ leBytes 1 port

/-- The payload of a TIME flit of TTYPE, XSEQ, TS_NS, TS_FRAC and, in an ANNOUNCE, MRANK, DEPTH, SRC and ERRBND. -/
def timeBytes (l : List Nat) : List Byte :=
  let at_ (i : Nat) : Nat := l.getD i 0
  leBytes 2 (at_ 0 % 256) ++ leBytes 2 (at_ 1) ++ leBytes 8 (at_ 2) ++ leBytes 4 (at_ 3) ++ leBytes 1 (at_ 4) ++ leBytes 1 (at_ 5) ++ leBytes 2 (at_ 6 % 256) ++
    leBytes 4 (at_ 7)

/-- A TIME flit's payload is well-formed: its TTYPE is known, and its RSV bytes are 0 (R355). -/
def Flit.timeOk (f : Flit) : Bool :=
  let b (i : Nat) : Nat := (f.payload.getD i 0#8).toNat
  1 ≤ b 0 && b 0 ≤ 4 && b 1 = 0 && b 19 = 0 && (List.range 8).all (fun i => b (24 + i) = 0)

/-! ### Codeword pairs (R326, R327) -/

/-- Multiply in GF(2^10), over x^10 + x^3 + 1 (IEEE 802.3; PRESUMED, unsafe, log entry 47). -/
def gfMul (a b : Nat) : Nat :=
  ((List.range 10).foldl (fun (p : Nat × Nat) i =>
    let acc := if bits b i 1 = 1 then p.1 ^^^ p.2 else p.1
    (acc, if 512 ≤ p.2 then (p.2 * 2) ^^^ 0x409 else p.2 * 2)) (0, a % 1024)).1

/-- The generator of RS(544,514), the product of x - 2^j for j from 0 to 29, without its leading coefficient, the highest power first. -/
def rsGen : List Nat :=
  ((List.range 30).foldl (fun (p : List Nat × Nat) _ =>
    ((p.1 ++ [0]).zipWith (fun a b => a ^^^ b) (0 :: p.1.map (fun c => gfMul c p.2)), gfMul p.2 2)) ([1], 1)).1.drop 1

/-- The 30 parity symbols of a message, the remainder of division by the generator. -/
def rsParity (g msg : List Nat) : List Nat :=
  msg.foldl (fun r m =>
    let k := m ^^^ r.headD 0
    (r.drop 1 ++ [0]).zipWith (fun a c => a ^^^ gfMul c k) g) (List.replicate 30 0)

/-- The 10-bit symbols of a message of n symbols, lowest bits first. -/
def symbolsOf (n w : Nat) : List Nat := (List.range n).map (fun i => bits w (10 * i) 10)

/-- Scramble n bits by 1 + x^39 + x^58, lowest first: the result, and the last 58 bits sent. -/
def scramble (n w st : Nat) : Nat × Nat :=
  (List.range n).foldl (fun p i =>
    let b := (bits w i 1 + bits p.2 38 1 + bits p.2 57 1) % 2
    (p.1 + b * 2 ^ i, (p.2 * 2 + b) % 2 ^ 58)) (0, st)

/-- The two codewords of a pair: its header and five scrambled flits, with the scrambler's state after them (PRESUMED, unsafe, log entry 47). -/
def pairWords (pseq scram : Nat) (flits : List (BitVec 2048)) : (List Nat × List Nat) × Nat :=
  let d := flits.foldr (fun f n => f.toNat + n * 2 ^ 2048) 0
  let x := scramble 10240 d scram
  let m := pseq % 2 ^ 24 + x.1 * 2 ^ 40
  let a := symbolsOf 514 (m % 2 ^ 5140)
  let b := symbolsOf 514 (m / 2 ^ 5140)
  ((a ++ rsParity rsGen a, b ++ rsParity rsGen b), x.2)

/-- The symbols of a codeword that go to the i-th of n lanes. -/
def laneOf (n i : Nat) (cw : List Nat) : List Nat := (List.range (cw.length / n)).map (fun k => cw.getD (n * k + i) 0)

end Sys2Proof.Machine
end

