-- ==== Sys2Proof/Machine/Power.lean ====
section
/-! DEFINITION. Power states of tiles, fabric regions and stacks, the state a tile reset leaves, and the PCM (R363 to R370, R459, R485). -/
namespace Sys2Proof.Machine

/-- Moss runs: no cold reset is held (R12, R456). -/
def State.moss (s : State) : Bool := !s.pins.cold

/-! ### Idleness (R204, R365) -/

/-- A tile is idle; what could happen at once, a pending trap's take or a queued LAUNCH's start, has happened before (DEDUCED, unsafe, log entry 22). -/
def State.tileIdle (s : State) (t : Fin 8) : Bool :=
  let x := s.tile t
  x.ops.isEmpty && x.holds.isEmpty && x.threads.toList.all (fun y => y.st = .idle || y.st = .parked) && x.traps.isEmpty &&
    x.launches.isEmpty && (s.pickQueue t).isNone && x.tdm.isEmpty && !x.resetting &&
    (match s.ck with
      | some j => j.held.all (fun h => match deviceRegion (s.localise h.pa) with | .peat u | .mere u => decide (u ≠ t.val) | _ => true)
      | none => true)

/-- The deepest state idleness leads to (Table 14-9, MAXDEPTH). -/
def State.maxDepth (s : State) (t : Fin 8) : Nat :=
  let d := s.rd F.TPC_CTL_MAXDEPTH t.val
  if d = 1 ∨ d = 2 then d else 3

/-- The offset of a register key. -/
def keyOff (k : Nat) : Nat := k / 64 % 1048576

/-- The registers of some of a tile's blocks. -/
def State.tileRegs (s : State) (t : Fin 8) (l : List Blk) : SMap Nat := s.regs.filter (fun e => l.any (fun b => decide (e.1 / 67108864 = b.num * 32 + t.val)))

/-- The blocks of a tile's own power domain. -/
def tileBlks : List Blk := [.tcc, .tsc, .rb, .vsu, .sfu, .kve, .lep, .tmu, .tdm]

/-- The blocks that run with a tile's memory, for an access (R366). -/
def memBlks : List Blk := [.lep, .tdm]

/-- What the tile's registers read from now on: all of them as they stand, where its units stop; those of the LEP and the TDM, where they
stop after a wake of the memory alone (R13). -/
def State.stopSeen (s : State) (t : Fin 8) : State :=
  if s.unitsRun t then { s with seen := s.seen.put t.val ⟨s.tile t, s.tileRegs t tileBlks, s.sbufUsed t⟩ }
  else if s.lepRuns t then
    match s.seen.find? t.val with
    | some k => { s with seen := s.seen.put t.val ⟨{ k.tile with lep := (s.tile t).lep, tdm := (s.tile t).tdm },
        k.regs.filter (fun e => memBlks.all (fun b => decide (e.1 / 67108864 ≠ b.num * 32 + t.val))) ++ s.tileRegs t memBlks, s.sbufUsed t⟩ }
    | none => s
  else s

/-- An entry begins (R364). -/
def State.enter (s : State) (t : Fin 8) (target : Nat) : State :=
  (s.stopSeen t |>.wr F.TPC_STATUS_ENTERING t.val 1).onTile t (fun x => { x with tpc := ⟨target, false, false⟩ })

/-- Neither an entry nor a wake is in progress. -/
def State.tpcQuiet (s : State) (t : Fin 8) : Bool := !s.flag F.TPC_STATUS_ENTERING t.val && !s.flag F.TPC_STATUS_WAKING t.val

/-- The tile has been idle for a threshold: it enters the state, or its memory, woken alone, returns to it (R365, R366). -/
def State.idleTo (s : State) (t : Fin 8) (target threshold : Nat) : State :=
  let st := s.rd F.TPC_STATUS_STATE t.val
  if threshold ≠ 0 ∧ s.tpcQuiet t ∧ s.tileIdle t ∧ target ≤ s.maxDepth t ∧
      (st < target ∨ (st = target ∧ s.flag F.TPC_STATUS_MEMWAKE t.val)) then s.enter t target else s

/-- TILE_IDLE_DOZE (R365). -/
def execTileIdleDoze (t : Fin 8) (s : State) : Out3 := ok s (s.idleTo t 1 (s.rd F.TPC_CTL_DOZE_IDLE t.val))

/-- TILE_IDLE_NAP (R365). -/
def execTileIdleNap (t : Fin 8) (s : State) : Out3 := ok s (s.idleTo t 2 (s.rd F.TPC_CTL_NAP_IDLE t.val))

/-- TILE_IDLE_SLEEP (R365). -/
def execTileIdleSleep (t : Fin 8) (s : State) : Out3 := ok s (s.idleTo t 3 (s.rd F.TPC_CTL_SLEEP_IDLE t.val))

/-! ### What Sleep, Off and a tile reset leave (R105, R137, R221, R271, R364, R459, R460) -/

/-- A thread whose registers are lost: free values. -/
def Thread.lost (y : Thread) (s : State) (h : Nat) : Thread :=
  { y with
    pc := s.free (h * 128) % 2 ^ 48
    p := BitVec.ofNat 8 (s.free (h * 128 + 1))
    g := (List.range 63).foldl (fun (g : SMap Word) k => g.set 0 (k + 1) (BitVec.ofNat 64 (s.free (h * 128 + 2 + k)))) [] }

/-- What Sleep loses (Table 14-4). -/
def State.sleepLoss (s : State) (t : Fin 8) : State :=
  (s.onTile t (fun x => { x with
    rb := .reset
    icache := []
    tlb := []
    wcache := []
    nextTag := 0
    dregs := if (x.thr 0).st = .idle then
        (List.range 32).foldl (fun (d : SMap DReg) k => d.set 0 k (BitVec.ofNat 256 (s.free (512 + k)))) [] else x.dregs
    threads := x.threads.zipIdx.map (fun p => if p.1.st = .idle then p.1.lost s p.2 else p.1) })).drawn

/-- Take memory out of the lists: its contents are lost (DESIGN CHOICE, unsafe, log entry 3). -/
def State.dropMem (s : State) (p : Region → Bool) : State :=
  { s with
    mem := s.mem.filter (fun e => !p (deviceRegion e.1))
    poison := s.poison.filter (fun g => !p (deviceRegion (g * 32))) }

/-- A tile's Peat and Mere. -/
def Region.ofTile (t : Nat) : Region → Bool
  | .peat u | .mere u => u = t
  | _ => false

/-- A stack's memory. -/
def Region.ofStack (k : Nat) : Region → Bool
  | .hbm j _ => j = k
  | _ => false

/-- Give the registers of a block's instance their reset values, but those at kept offsets. -/
def State.clearBlk (s : State) (b : Blk) (inst : Nat) (keep : Nat → Bool) : State :=
  { s with regs := s.regs.filter (fun e => !(decide (e.1 / 67108864 = b.num * 32 + inst) && !keep (keyOff e.1))) }

/-- Offsets a tile reset keeps: TCC.SVC_VEC; TMU.CTL and ROOT; the KVE bases; the first-NaN record and VSU.SSTAT_BASE; the RB.LX and
RANGE records (Table 18-4). -/
def keptOff (b : Blk) (o : Nat) : Bool :=
  match b with
  | .tcc => o = 0x30
  | .tmu => o ≤ 8
  | .kve => (8 ≤ o && o < 0x40) || o = 0x50 || o = 0x58
  | .vsu => (8 ≤ o && o < 0x30) || o = 0x80
  | .rb => 0x10 ≤ o && o < 0x28
  | .sfu => 8 ≤ o && o < 0x20
  | _ => false

/-- A tile reset clears a TPC's counters and CMDREJ, and leaves CTL and the state (R373, Table 18-4) (DESIGN CHOICE, unsafe, log entry 46). -/
def State.tpcFresh (s : State) (t : Fin 8) : State :=
  s.wrs t.val 0 [(F.TPC_STATUS_CMDREJ, 0), (F.TPC_CNT_WAKE_COUNT, 0), (F.TPC_CNT_SLEEP_US_COUNT, 0), (F.TPC_CNT_NAP_US_COUNT, 0),
    (F.TPC_CNT_RUN_US_COUNT, 0), (F.TPC_CNT_THROTTLE_COUNT, 0)]

/-- A tile's registers and inner state as a tile reset leaves them. Power-up is one of its triggers (R459), so the registers that every reset
narrower than a cold reset keeps, the first-NaN, RB.LX and RANGE records among them, stand through Off (R80, R106, R154) (DEDUCED, unsafe,
log entry 41). -/
def State.tileFresh (s : State) (t : Fin 8) : State :=
  let s1 := tileBlks.foldl (fun s b => s.clearBlk b t.val (keptOff b)) (s.tpcFresh t)
  let s2 := (s1.wr F.VSU_NAN_STATUS_HALTED t.val 0).wr F.VSU_NAN_STATUS_FEN_STOP t.val 0
  s2.setTile t .reset

/-- A tile that comes up while a Fen stop is asserted is halted by it (R460). -/
def State.underStop (s : State) (t : Fin 8) : State :=
  if s.flag F.FLT_STATUS_FENSTOP 0 then
    ((s.wr F.VSU_NAN_STATUS_HALTED t.val 1).wr F.VSU_NAN_STATUS_FEN_STOP t.val 1).onTile t (fun x => { x with
      halt := .nan
      nanStop := some ⟨0, none⟩
      nanFen := true
      threads := x.threads.zipIdx.map (fun p => if p.2 = 3 then p.1 else { p.1 with st := .halted, prev := p.1.st }) })
  else s

/-- What Off clears at once (R271, R137); the registers that are not running keep the values that reads return (R13) (DEDUCED, unsafe, log entry 41). -/
def State.tileOff (s : State) (t : Fin 8) : State :=
  ((s.clearBlk .lep t.val (fun _ => false)).onTile t (fun x => { Tile.reset with
    threads := x.threads
    csr := x.csr
    active := x.active
    doubleFault := x.doubleFault
    halt := x.halt
    done := x.done
    nextTag := x.nextTag
    sigDone := x.sigDone
    cycles := x.cycles })).dropMem (Region.ofTile t.val)

/-! ### Wakes (R366, R367) -/

/-- TILE_WAKE_REQUEST (R366): for the whole tile, or for its memory only. -/
def execTileWakeRequest (t : Fin 8) (full : Bool) (s : State) : Out3 := ok s (s.wakeTile t full)

/-- A wake completes: the whole tile reaches Run, or only its memory is up. -/
def State.wakeDone (s : State) (t : Fin 8) : State :=
  let st := s.rd F.TPC_STATUS_STATE t.val
  if !s.flag F.TPC_STATUS_WAKING t.val || st = 4 then s
  else
    let s1 := (s.wr F.TPC_STATUS_WAKING t.val 0).onTile t (fun x => { x with tpc := .reset })
    if (s.tile t).tpc.full then
      let s2 := (s1.wr F.TPC_STATUS_STATE t.val 0).wr F.TPC_STATUS_MEMWAKE t.val 0
      if 2 ≤ st then s2.count F.TPC_CNT_WAKE_COUNT t.val 1 else s2
    else s1.wr F.TPC_STATUS_MEMWAKE t.val 1

/-- TILE_WAKE_COMPLETE (R364). -/
def execTileWakeComplete (t : Fin 8) (s : State) : Out3 := ok s (s.wakeDone t)

/-- TPC_WAKE (R366): written by the physical function or Fenreeve; refused during a tile reset (R459). -/
def execTpcWake (fn : Fin 32) (t : Fin 8) (s : State) : Out3 :=
  ok s (if fn.val ≠ 0 then s else if (s.tile t).resetting then s.wr F.TPC_STATUS_CMDREJ t.val 1 else s.wakeTile t true)

/-! ### Off and On (R368) -/

/-- TPC.CMD OFF as a unit takes it, or none when it refuses. -/
def State.tpcOff (s : State) (t : Fin 8) (cause : Nat) : Option State :=
  if s.rd F.TPC_STATUS_STATE t.val = 4 ∧ s.tpcQuiet t then some s
  else if s.tpcQuiet t && s.tileIdle t then some ((s.enter t 4).tileUsr t.val uOff cause)
  else none

/-- TPC_OFF (R368). -/
def execTpcOff (fn : Fin 32) (t : Fin 8) (s : State) : Out3 :=
  ok s (if fn.val ≠ 0 then s else (s.tpcOff t byDirect).getD (s.wr F.TPC_STATUS_CMDREJ t.val 1))

/-- TPC.CMD ON as a unit takes it, or none when it cannot. -/
def State.tpcOn (s : State) (t : Fin 8) (cause : Nat) : Option State :=
  if s.rd F.TPC_STATUS_STATE t.val = 4 && s.tpcQuiet t && s.moss then
    some ((s.wr F.TPC_STATUS_WAKING t.val 1).tileUsr t.val uBringup cause)
  else none

/-- TPC_ON (R368). -/
def execTpcOn (fn : Fin 32) (t : Fin 8) (s : State) : Out3 :=
  ok s (if fn.val ≠ 0 then s
  else if (s.tile t).resetting then s.wr F.TPC_STATUS_CMDREJ t.val 1
  else (s.tpcOn t byDirect).getD s)

/-- TILE_POWER_UP_COMPLETE (R368): Run, in the state of a tile reset, with Peat and Mere undefined. -/
def execTilePowerUpComplete (t : Fin 8) (s : State) : Out3 :=
  ok s (if s.rd F.TPC_STATUS_STATE t.val = 4 ∧ s.flag F.TPC_STATUS_WAKING t.val then
    let s1 := (s.tileFresh t).dropMem (Region.ofTile t.val)
    let s2 := s1.wrs t.val 0 [(F.TPC_STATUS_STATE, 0), (F.TPC_STATUS_WAKING, 0), (F.TPC_STATUS_MEMWAKE, 0)]
    ((s2.count F.TPC_CNT_WAKE_COUNT t.val 1).tileUsr t.val uOnline byPath).underStop t
  else s)

/-! ### Fabric regions and stacks (R363, Table 9-9) -/

/-- FB4 must run: a port is in TRAINING, UP or RETRAIN, the PCIe link is up, or a stack is Active (DEDUCED, unsafe, log entry 22). -/
def State.fb4Needed (s : State) : Bool :=
  (List.range 16).any (fun p => decide (1 ≤ s.rd F.CWP_STATUS_STATE p) && decide (s.rd F.CWP_STATUS_STATE p ≤ 3)) || !s.pins.perst ||
    (List.range 8).any (fun k => s.rd F.HMC_STATUS_STATE k = 2)

/-- FABRIC_REGION_IDLE (R363). -/
def execFabricRegionIdle (i : Fin 5) (s : State) : Out3 :=
  ok s (if i.val = 4 ∧ s.fb4Needed then s
  else
    let g := s.rd F.PCM_STATUS_FABGATED 0
    let g1 := if bits g i.val 1 = 1 then g else g + 2 ^ i.val
    (s.wr F.PCM_STATUS_FABGATED 0 g1).wr F.PCM_STATUS_FPLL_OFF 0 (if g1 = 31 then 1 else 0))

/-- FABRIC_REGION_UNGATE (R363): the fabric PLL runs again. -/
def execFabricRegionUngate (i : Fin 5) (s : State) : Out3 := ok s (s.ungate i.val)

/-- HBM_IDLE_TIMEOUT (R363): an Active stack enters Self-refresh. -/
def execHbmIdleTimeout (k : Fin 8) (s : State) : Out3 :=
  ok s (if s.rd F.HMC_STATUS_STATE k.val = 2 then s.wr F.HMC_STATUS_STATE k.val 3 else s)

/-- HBM_SELF_REFRESH_EXIT (R363). -/
def execHbmSelfRefreshExit (k : Fin 8) (s : State) : Out3 :=
  ok s (if s.rd F.HMC_STATUS_STATE k.val = 3 then s.stackUp k.val else s)

/-- A stack goes to Off and loses its contents. -/
def State.stackOff (s : State) (k : Nat) : State := (s.wr F.HMC_STATUS_STATE k 0).dropMem (Region.ofStack k)

/-! ### The PCM (R369, R370, R485) -/

/-- The mean of the first n samples of a list. -/
def meanOf (l : List Nat) (n : Nat) : Nat :=
  let m := l.take n
  if m = [] then 0 else m.foldl (· + ·) 0 / m.length

/-- Rail r of the samples. -/
def railOf (l : List (List Nat)) (r : Nat) : List Nat := l.map (fun x => x.getD r 0)

/-- Device power of the samples. -/
def totalOf (l : List (List Nat)) : List Nat := l.map (fun x => x.foldl (· + ·) 0)

/-- Raise or lower the throttle duty by 1/64 (R370) (DEDUCED, unsafe, log entry 43). -/
def State.throttle (s : State) (high : Bool) : State :=
  let d := s.rd F.PCM_STATUS_DUTY 0
  let d1 := if high then min (d + 1) 63 else d - 1
  (s.wr F.PCM_STATUS_DUTY 0 d1).wr F.PCM_STATUS_THROTTLE 0 (if high || d1 ≠ 0 then 1 else 0)

/-- The critical limit of sensor i: tiles, FB4, then the stacks. -/
def critLimit (i : Nat) : Nat := if i < 9 then 110 else 105

/-- The unit of sensor i; FB4 is no unit. -/
def sensorUnit (i : Nat) : Nat := if i < 8 then i else if i = 8 then 0xFF else i - 1

/-- A tile begins its way to Off; one that is powering up stays there. -/
def State.tileToOff (s : State) (t : Fin 8) : State :=
  let s1 := s.wr F.TPC_STATUS_WAKING t.val 0
  if s.rd F.TPC_STATUS_STATE t.val = 4 then (if s.flag F.TPC_STATUS_WAKING t.val then s1.tileUsr t.val uOff byPath else s) else s1.enter t 4

/-- Every tile begins its way to Off, and every stack is Off (R370). -/
def State.allOff (s : State) : State :=
  let s1 := allTiles.foldl (fun s t => s.tileToOff t) s
  (List.range 8).foldl (fun s k => s.stackOff k) s1

/-- A new critical temperature: reported, THERMTRIP_L asserted, and everything moved to Off. -/
def State.critical (s : State) (temps : List Nat) : State :=
  let hot := temps.zipIdx.filter (fun p => decide (critLimit p.2 ≤ p.1))
  match hot with
  | [] =>
    if s.pins.therm && temps.zipIdx.all (fun p => decide (p.1 + 10 ≤ critLimit p.2)) then { s with pins := { s.pins with therm := false } } else s
  | p :: _ =>
    if s.pins.therm then s
    else
      (((({ s with pins := { s.pins with therm := true } } : State).report 0x30 (sensorUnit p.2) 0).tellMembers .notice [0, s.rank]).emit
        (.other "THERMTRIP" [1])).allOff

/-- One sample: powers averaged, energies, temperatures, throttling, and the critical limits. `rails` gives each rail's current in mA and
voltage in mV, `temps` the tile, FB4 and stack temperatures, `uj` each tile's energy since the last sample. -/
def State.pcmSample (s : State) (rails : List (Nat × Nat)) (temps uj : List Nat) : State :=
  let pw := (List.range 16).map (fun r => if r = 15 then 0 else ((rails[r]?.getD (0, 0)).1 * (rails[r]?.getD (0, 0)).2) / 1000)
  let l := (pw :: s.pcm).take 2550
  let n := max 1 (s.rd F.PCM_CTL_AVG_MS 0) * 10
  let s1 : State := { s with pcm := l, pins := { s.pins with rails := (List.range 15).map (fun r => (rails[r]?.getD (0, 0)).2) } }
  let s2 := (List.range 16).foldl (fun s r => s.wr F.PCM_RAIL_MW 0 (meanOf (railOf l r) n) r) s1
  let s3 := s2.wr F.PCM_POWER_MW 0 (meanOf (totalOf l) n)
  let s4 := (List.range 8).foldl (fun s t => (s.wr F.PCM_ENERGY_UJ 0 (s.rd F.PCM_ENERGY_UJ 0 t + uj.getD t 0) t).wr F.HMC_STATUS_TEMP t (temps.getD (9 + t) 0)) s3
  let s5 := (List.range 9).foldl (fun s i => s.wr F.PCM_TEMP_DEGC 0 (temps.getD i 0) i) s4
  let high := decide (s.rd F.PCM_PLIMIT_WATTS 0 * 1000 < meanOf (totalOf l) 100) || (temps.take 9).any (fun c => decide (s.rd F.PCM_TLIMIT_DEGC 0 ≤ c))
  (s5.throttle high).critical (temps.take 17)

/-- PCM_SAMPLE (R369, R370, R485). -/
def execPcmSample (rails : List (Nat × Nat)) (temps uj : List Nat) (s : State) : Out3 :=
  ok s (if s.moss then s.pcmSample rails temps uj else s)

end Sys2Proof.Machine
end

