-- ==== Sys2Proof/Machine/Remote.lean ====
section
/-! DEFINITION. Memory requests and responses between ranks (R208, R341, R343, R344, R432) and packets passed on. -/
namespace Sys2Proof.Machine

/-! ### What a requester does with an answer (R344, R432) -/

/-- Response statuses (Table 13-5). -/
abbrev rsOk : Nat := 0
/-- Refused. -/
abbrev rsAccess : Nat := 1
/-- Poisoned data. -/
abbrev rsPoison : Nat := 2
/-- No answer will come. -/
abbrev rsAbort : Nat := 3

/-- The address of another rank's byte in this device's map (R208). -/
def fenPa (d off : Nat) : Nat := 0x800000000000 + d * 0x10000000000 + off

/-- Mark or clear the poison of the granules a range touches. -/
def State.setPoison (s : State) (pa n : Nat) (b : Bool) : State :=
  (granules pa n).foldl (fun s p =>
    if b then s.markPoison p.1 else { s with poison := s.poison.filter (fun g => decide (g ≠ p.1 / 32)) }) s

/-- An answer's data take their place in this device's image of the other rank's memory. -/
def State.imageData (s : State) (r : RemReq) (status : Nat) (data : List Byte) : State :=
  let pa := fenPa r.rank r.addr
  if r.mop = mopWr ∨ rsPoison < status ∨ status = rsAccess then s
  else (s.putBytes 0 pa data).setPoison pa data.length (status = rsPoison)

/-- The tile virtual address at which an operation meets a physical address, as far as its intervals show it. -/
def State.opVa (s : State) (t : Fin 8) (r : OpRec) (pa : Nat) : Nat :=
  ((((r.reads ++ r.writes).flatMap (fun v => piecesOf 256 v.lo (v.hi + 1 - v.lo))).map (·.1)).find? (fun a => s.pagePa t a = some pa)).getD
    (pa % 2 ^ 48)

/-- A refused or aborted access of a thread: the ACCESS trap at the access's instruction. -/
def State.scalarFail (s : State) (t : Fin 8) (h : Fin 4) (va pc : Nat) : State :=
  if ((s.tile t).thr h).st = .idle then s.countOp cAccess
  else (s.onTile t (fun x => x.onThr h (fun y => { y with pc := pc }))).raiseSync t h 0 cAccess va (((s.tile t).icache.find? pc).getD 0)

/-- An answer for a thread. -/
def State.scalarAnswer (s : State) (t : Fin 8) (h : Fin 4) (va pc mop status : Nat) : State :=
  if status = rsAccess ∨ status = rsAbort then s.scalarFail t h va pc
  else if mop = mopWr then s
  else s.onTile t (fun x => x.onThr h (fun y => if y.st = .stall ∧ y.wait = .remote then { y with wait := .answered } else y))

/-- Apply to an unretired operation that has not trapped. -/
def State.onSeqAny (s : State) (t : Fin 8) (seq : Nat) (f : State → Nat → OpRec → State) : State :=
  match (s.tile t).tagOf seq with
  | none => s
  | some tag => match (s.tile t).ops.find? tag with
    | some o => if o.trapped || o.trap.isSome then s else f s tag o
    | none => s

/-- An answer for an operation. -/
def State.opAnswer (s : State) (t : Fin 8) (seq : Nat) (r : RemReq) (status : Nat) : State :=
  if status = rsAccess ∨ status = rsAbort then
    s.onSeqAny t seq (fun s tag o =>
      let va := s.opVa t o (fenPa r.rank r.addr)
      s.raiseOp t tag cAccess va (o.descAt va) true)
  else s.unitsGo t

/-- An answer for a TDM descriptor: a failure of cause REMOTE, at the lowest address refused once every answer is here (R239); for the
checkpoint's, a refusal stays apart from an abort (Table 12-4). -/
def State.tdmAnswer (s : State) (t : Fin 8) (id : Nat) (r : RemReq) (status : Nat) : State :=
  match (s.tile t).desc id with
  | none => s
  | some d =>
    if d.failed.isSome then s
    else
      let pa := fenPa r.rank r.addr
      let bad := if status = rsAccess ∨ status = rsAbort then
          let c := match d.owner with | .ck _ => if status = rsAccess then 1 else 3 | _ => 3
          match d.bad with
            | some b => some (b.1, min b.2 pa)
            | none => some (c, pa)
        else d.bad
      let s1 := s.onTile t (fun x => x.putDesc { d with bad := bad })
      match bad with
      | none => s1
      | some (c, a) =>
        if s1.rem.any (fun e => e.2.who = .tdm t.val id) || s1.remWait.any (fun q => q.who = .tdm t.val id) then s1
        else
          let s2 := s1.tdmFail t { d with bad := none } 3 (a % 2 ^ 52) true
          if c = 1 then s2.onTile t (fun x => x.putDesc { d with bad := none, failed := some 1, failAt := a }) else s2

/-- An answer for a ring's command: a fetch, a record, a LAUNCH's argument, a SIGNAL, a WAIT, or a CKD. -/
def State.cmdAnswer (s : State) (f r seq : Nat) (q : RemReq) (status : Nat) : State :=
  let bad := status = rsAccess || status = rsAbort
  match s.rcmd f r seq with
  | none =>
    if seq ≠ (s.ring f r).fetched ∨ q.mop ≠ mopRd ∨ s.rState f r ≠ rReady then s
    else if status ≠ rsOk then s.ringErr f r 3
    else s.fetchTake f r (s.readNat 0 (fenPa q.rank q.addr) 64)
  | some c =>
    if c.done then
      let cq := s.slotPa f r 0
      if bad && decide (cq ≤ fenPa q.rank q.addr) && decide (fenPa q.rank q.addr < cq + 32 * s.rSize f r) then
        ((s.onCmd f r seq (fun c => { c with recorded := false, refused := true })).ringErr f r 4).sweep f r
      else s
    else match c.op with
      | 1 => if bad then
          allTiles.foldl (fun s t => s.onTile t (fun x => { x with
            launches := x.launches.map (fun j => if j.fn = f ∧ j.ring = r ∧ j.seq = seq ∧ j.asked then { j with bad := some cAccess } else j) })) s
        else s
      | 3 => if status = rsOk then s.signalDone f r seq else (s.complete f r seq stAccess 0 1).sweep f r
      | 4 =>
        if bad then (s.complete f r seq stAccess c.result 1).sweep f r
        else if status = rsPoison then s
        else s.waitRead f r seq (s.readNat 0 (fenPa q.rank q.addr) 8)
      | 5 | 6 => if bad && !c.started then (s.startFail f r c 0 (if status = rsAccess then 0x31 else 0x33)).sweep f r else s
      | _ => s

/-- Deliver an answer to whoever waits for it. -/
def State.answer (s : State) (r : RemReq) (status : Nat) (data : List Byte) : State :=
  let s1 := s.imageData r status data
  match r.who with
  | .none => s1
  | .scalar t h va pc => s1.scalarAnswer (tileOf t) ⟨h % 4, Nat.mod_lt _ (by decide)⟩ va pc r.mop status
  | .op t seq => s1.opAnswer (tileOf t) seq r status
  | .tdm t id => s1.tdmAnswer (tileOf t) id r status
  | .ckpt => if status = rsAccess then s1.ckEnd 0x31 else if status = rsAbort then s1.ckEnd 0x33 else s1.ckAdvance
  | .cmd f ring seq => s1.cmdAnswer f ring seq r status
  | .bar2 f n =>
    if r.mop = mopWr then s1
    else if status = rsAccess ∨ status = rsAbort then s1.emit (.other "BAR2_UR" [f, n])
    else s1.emit (.other "BAR2_DATA" (f :: (if status = rsPoison then 1 else 0) :: data.map (·.toNat)))

/-- The oldest request that waits for a tag takes one (R344). -/
def State.remNext (s : State) : State :=
  match s.remWait with
  | [] => s
  | r :: l => ({ s with remWait := l } : State).request r

/-- A request in flight ends with a status. -/
def State.remEnd (s : State) (tag : Nat) (r : RemReq) (status : Nat) (data : List Byte) : State :=
  (({ s with rem := s.rem.erase tag } : State).remNext).answer r status data

/-- Take a received packet out. -/
def State.rxDrop (s : State) (i : Nat) : State := { s with rx := s.rx.eraseIdx i }

/-- The response's MOP. -/
def rspMop (mop : Nat) : Nat := if mop = mopRd then mopRdRsp else if mop = mopWr then mopWrAck else mopAmoRsp

/-- A response answers a request: the MOP is its own, the STATUS none of the reserved ones, and no RSV bit is set. -/
def MemHdr.answers (h : MemHdr) (r : RemReq) : Bool := h.mop = rspMop r.mop && decide (h.status ≤ rsAbort) && !h.rsv

/-- REMOTE_MEMORY_RESPONSE (R344): a response for this device; one that no request awaits is discarded, and so is one of a reserved MOP or
STATUS, or with an RSV bit set (Table 13-5; DESIGN CHOICE, unsafe, log entry 46). -/
def execRemoteMemoryResponse (i : Nat) (s : State) : Out3 :=
  ok s (match s.rx[i]? with
    | some p => match p.pkt with
      | .mem h data _ =>
        if p.drank ≠ s.rank || h.mop < 8 then s
        else match s.rem.find? h.tag with
          | some r => if r.rank = p.srank && h.answers r then ((s.rxDrop i).remEnd h.tag r h.status data).settle else s.rxDrop i
          | none => s.rxDrop i
      | _ => s
    | none => s)

/-! ### What a target does with a request (R343, R330) -/

/-- An inbound window permits an operation of a rank on a range. -/
def State.windowOk (s : State) (src a n mop : Nat) : Bool :=
  (List.range 16).any (fun w =>
    s.flag F.FEN_INWIN_PERM_EN 0 w && decide (s.rd F.FEN_INWIN_BASE_BASE 0 w ≤ a) && decide (a + n - 1 ≤ s.rd F.FEN_INWIN_LIMIT_LIMIT 0 w) &&
      decide (bits (s.rd F.FEN_INWIN_RANKS_RANKS 0 w) src 1 = 1) &&
      s.flag (match mop with | 0 => F.FEN_INWIN_PERM_R | 1 => F.FEN_INWIN_PERM_W | _ => F.FEN_INWIN_PERM_AMO) 0 w)

/-- The bytes of memory a request touches; an atomic touches 8. -/
def MemHdr.span (h : MemHdr) : Nat := if h.mop = mopRd ∨ h.mop = mopWr then h.n else 8

/-- The packet keeps the rules of Table 13-5: a known MOP, its LEN, no 256 B boundary crossed, atomics aligned. What a target does with a
request that does not, a reserved MOP or a set RSV bit among them, is not stated (R10, R330): it answers ACCESS and counts no refusal, since no inbound
window refused it (DESIGN CHOICE, unsafe, log entry 46). -/
def MemHdr.formOk (h : MemHdr) : Bool :=
  if h.status ≠ 0 ∨ h.rsv then false
  else if h.mop ≤ 1 then decide (1 ≤ h.n) && decide (h.n ≤ 256) && decide (h.addr / 256 = (h.addr + h.n - 1) / 256)
  else decide (h.mop ≤ 4) && decide (h.addr % 8 = 0) && decide (h.n = if h.mop = mopCas then 16 else 8)

/-- Where a request lies is a memory of this device, whole. -/
def inDevice (a n : Nat) : Bool :=
  match deviceRegion a, deviceRegion (a + n - 1) with
  | .peat t, .peat u => t = u
  | .mere t, .mere u => t = u
  | .hbm k _, .hbm l _ => k = l
  | _, _ => false

/-- The memory of an address is in service and not Off (R413, R493). -/
def State.memServes (s : State) (a : Nat) : Bool :=
  !s.memOff a && (match deviceRegion a with
    | .peat t | .mere t => s.unitIn t
    | .hbm k _ => s.unitIn (8 + k)
    | _ => false)

/-- What a remote atomic leaves (R235). -/
def amoRemote (mop old : Nat) (data : List Byte) : Nat :=
  let v := leNat (data.take 8)
  if mop = mopAdd then (old + v) % 2 ^ 64
  else if mop = mopSwap then v
  else if old = v then leNat (data.drop 8) else old

/-- Perform a permitted request: the memory after it, the status, and the response's data. -/
def State.performMem (s : State) (h : MemHdr) (data : List Byte) (poison : Bool) : State × Nat × List Byte :=
  if h.mop = mopRd then (s, if s.poisonIn h.addr h.n then rsPoison else rsOk, s.readBytes 0 h.addr h.n)
  else if h.mop = mopWr then
    let s1 := s.writeBytes 0 h.addr data
    (if poison then s1.setPoison h.addr h.n true else s1, rsOk, [])
  else
    let old := s.readNat 0 h.addr 8
    if s.isPoison h.addr then (s, rsPoison, leBytes 8 old)
    else (s.writeNat 0 h.addr 8 (amoRemote h.mop old data), rsOk, leBytes 8 old)

/-- A request reaches its memory by FB4: what lies on the way wakes, and a stack counts what is read (R211, R363, Table 9-9). -/
def State.reachMem (s : State) (h : MemHdr) : State :=
  let s1 := s.wakeFor none h.addr
  if h.mop = mopWr then s1 else s1.tookBytes h.addr h.span

/-- A response goes back to its requester, unless that is a lost party (R431). -/
def State.respondMem (s : State) (src : Nat) (h : MemHdr) (status : Nat) (data : List Byte) : State :=
  if bits (s.rd F.FLT_FENFAIL_RANKS 0) src 1 = 1 then s
  else s.sendPkt (.mem ⟨rspMop h.mop, status, h.n, h.tag, h.addr, false⟩ data (status = rsPoison)) 3 src (status = rsPoison)

/-- A request at its target; one whose block a checkpoint holds waits (R319). -/
def State.serveMem (s : State) (src : Nat) (h : MemHdr) (data : List Byte) (poison : Bool) : Option State :=
  if !(h.formOk && inDevice h.addr h.span && s.windowOk src h.addr h.span h.mop) then
    some (((if h.formOk then s.count F.FEN_CNT_REFUSED_COUNT 0 1 else s)).respondMem src h rsAccess [])
  else if !s.memServes h.addr then some (s.respondMem src h rsAccess [])
  else if h.mop ≠ mopRd ∧ s.gate h.addr = .hold then none
  else
    let p := (s.reachMem h).performMem h data poison
    some (p.1.respondMem src h p.2.1 p.2.2)

/-- REMOTE_MEMORY_REQUEST (R343). -/
def execRemoteMemoryRequest (i : Nat) (s : State) : Out3 :=
  ok s (match s.rx[i]? with
    | some p => match p.pkt with
      | .mem h data _ =>
        if p.drank ≠ s.rank || 8 ≤ h.mop then s
        else ((s.rxDrop i).serveMem p.srank h data p.poison).getD s
      | _ => s
    | none => s)

/-! ### Packets on their way (R265, R329, R335, R341) -/

/-- The neighbour at a port. -/
def State.nextDev (s : State) (p : Nat) : Nat := s.rd F.CWP_PEER_DEVID_DEVID p

/-- The members of a multicast that came from a neighbour: those whose grant requests came the same way, or, of a group unknown here, the one
that its header names. -/
def State.mcastTo (s : State) (p : Nat) (src : Peer) (hdr : Nat) : List QRef :=
  let named : QRef := ⟨(Hdr.of hdr).drank, (Hdr.of hdr).dtile, (Hdr.of hdr).dq⟩
  let l := (s.mroute.filter (fun m => m.1 = s.nextDev p && decide (m.2.1 = src))).map (·.2.2)
  if l.contains named then l else named :: l

/-- A multicast's copy for a member: its own DST. -/
def copyFor (hdr : Nat) (q : QRef) : Nat := ({ Hdr.of hdr with dq := q.queue, dtile := q.tile, drank := q.rank } : Hdr).pack

/-- The ranks a packet goes on to: of a multicast, every member's but this device's. -/
def State.rxDests (s : State) (k : RxPkt) : List Nat :=
  match k.pkt with
  | .lode (.msg hdr _ _ src _) => if src.grp then ((s.mcastTo k.port src hdr).map (·.rank)).filter (fun d => decide (d ≠ s.rank)) else [k.drank]
  | _ => [k.drank]

/-- Queue a packet at an output port. -/
def State.forwardOn (s : State) (k : RxPkt) (pkt : Pkt) (d o : Nat) : State :=
  s.onPort o (fun x => { x with queue := x.queue ++ [⟨pkt, k.vc, d, k.srank, s.dlOut (some k.port) k.dl o, k.poison, 0⟩] })

/-- A multicast goes on: one copy over each port that leads to a member of another rank. -/
def State.forwardMcast (s : State) (k : RxPkt) (hdr : Nat) (pl : List Byte) (b : Bool) (src : Peer) : State :=
  let far := (s.mcastTo k.port src hdr).filter (fun d => decide (d.rank ≠ s.rank) && !s.failed d.rank)
  (List.range 16).foldl (fun u o =>
    match far.find? (fun d => decide (s.routePort d.rank k.srank = some o)) with
    | none => u
    | some d => u.forwardOn k (.lode (.msg (copyFor hdr d) pl b src none)) d.rank o) s

/-- PACKET_FORWARD (R331, R335, R341): a whole packet for another rank is queued at its output port, after every earlier one of its flow; with
no route it is discarded. -/
def execPacketForward (i : Nat) (s : State) : Out3 :=
  ok s (match s.rx[i]? with
    | some p =>
      if p.drank = s.rank || (s.rx.take i).any (fun q => q.vc = p.vc && q.srank = p.srank && (s.rxDests q).any (fun d => (s.rxDests p).contains d)) then s
      else match p.pkt with
        | .lode (.msg hdr pl b src op) =>
          if src.grp then (s.rxDrop i).forwardMcast p hdr pl b src
          else match s.routePort p.drank p.srank with
            | none => s.rxDrop i
            | some o => (s.rxDrop i).forwardOn p (.lode (.msg hdr pl b src op)) p.drank o
        | k => match s.routePort p.drank p.srank with
          | none => s.rxDrop i
          | some o => (s.rxDrop i).forwardOn p k p.drank o
    | none => s)

end Sys2Proof.Machine
end

