-- ==== Sys2Proof/Machine/Flt.lean ====
section
/-! DEFINITION. Lost parties, drain fences, and the Quags, aborts and reclaim that follow them (R346, R430 to R445). -/
namespace Sys2Proof.Machine

/-! ### Lost parties (R430) -/

/-- The party's loss loses a tile of a rank: the tile itself, its rank, or the path to it. -/
def Party.losesTile (x : Party) (rank t : Nat) : Bool :=
  match x with
  | .tile r u => r = rank && u = t
  | .rank d | .path d => d = rank
  | _ => false

/-- The party's loss loses a rank, or the path to it. -/
def Party.losesRank (x : Party) (d : Nat) : Bool :=
  match x with
  | .rank r | .path r => r = d
  | _ => false

/-- The tile whose memory an address names. -/
def addrTile (a : Nat) : Option Nat :=
  match deviceRegion a with
  | .peat t | .mere t => some t
  | _ => none

/-- A memory request for an address of a rank goes to the party. -/
def Party.losesMem (x : Party) (rank a : Nat) : Bool :=
  x.losesRank rank || (match addrTile a with | some t => x.losesTile rank t | none => false)

/-- The (rank, tile) a unit comes from, and the one it goes to. -/
def NetMsg.ends : NetMsg → (Nat × Nat) × (Nat × Nat)
  | .msg h _ _ _ _ => (((Hdr.of h).srank, (Hdr.of h).stile), ((Hdr.of h).drank, (Hdr.of h).dtile))
  | .credit src q => ((q.rank, q.tile), (src.rank, src.tile))
  | .grantReq src q _ _ => ((src.rank, src.tile), (q.rank, q.tile))
  | .grantRep src q _ _ => ((q.rank, q.tile), (src.rank, src.tile))
  | .allotRet src q => ((src.rank, src.tile), (q.rank, q.tile))
  | .placed src q _ => ((q.rank, q.tile), (src.rank, src.tile))

/-- A unit comes from the party. -/
def NetMsg.comesFrom (m : NetMsg) (x : Party) : Bool := x.losesTile m.ends.1.1 m.ends.1.2

/-- A unit is bound for the party. -/
def NetMsg.goesTo (m : NetMsg) (x : Party) : Bool := x.losesTile m.ends.2.1 m.ends.2.2

/-- A packet for a rank is bound for the party. -/
def Pkt.goesTo (k : Pkt) (x : Party) (drank : Nat) : Bool :=
  x.losesRank drank || (match k with
    | .lode m => m.goesTo x
    | .mem h _ _ => decide (h.mop < 8) && x.losesMem drank h.addr
    | _ => false)

/-- A packet of a rank comes from the party. -/
def Pkt.comesFrom (k : Pkt) (x : Party) (srank : Nat) : Bool :=
  x.losesRank srank || (match k with
    | .lode m => m.comesFrom x
    | _ => false)

/-! ### Fences (R431) -/

/-- Units bound for the party are discarded; a packet partly sent goes on whole. -/
def State.dropTo (s : State) (x : Party) : State :=
  { s with
    net := s.net.filter (fun m => !m.goesTo x)
    rx := s.rx.filter (fun p => !p.pkt.goesTo x p.drank)
    ports := s.ports.map (fun p => (p.1, { p.2 with queue := p.2.queue.filter (fun k => decide (k.sent ≠ 0) || !k.pkt.goesTo x k.drank) })) }

/-- No stage of this device holds a unit from the party, nor one on its way to it. -/
def State.fenceClear (s : State) (x : Party) : Bool :=
  s.net.all (fun m => !m.comesFrom x) && s.rx.all (fun p => !p.pkt.comesFrom x p.srank) &&
    s.ports.all (fun p => p.2.queue.all (fun k => !k.pkt.comesFrom x k.srank && !k.pkt.goesTo x k.drank))

/-- FLT.STATUS shows the incomplete fences. -/
def State.fencesShown (s : State) : State :=
  (s.wr F.FLT_STATUS_FENCING 0 (if s.flt.fences.isEmpty then 0 else 1)).wr F.FLT_STATUS_FENCES 0 s.flt.fences.length

/-- A party of this device alone, which its peers do not fence. -/
def Party.isLocal : Party → Bool
  | .port _ | .path _ | .unit _ => true
  | _ => false

/-- Start the fence of a party, unless one runs already. -/
def State.startFence (s : State) (x : Party) (after : After) : State :=
  if s.flt.fences.any (fun f => f.party = x) then
    { s with flt := { s.flt with fences := s.flt.fences.map (fun f => if f.party = x ∧ after ≠ .nothing then { f with after := after } else f) } }
  else
    let s1 := s.dropTo x
    let others := if x.isLocal || s.rd F.FEN_STATUS_STATE 0 ≠ 2 then [] else s.peers.filter (fun d => !x.losesRank d)
    ({ s1 with flt := { s1.flt with fences := s1.flt.fences ++ [⟨x, after, s.rank :: others⟩] } } : State).fencesShown

/-! ### A failed port (R346, R431 step 3) -/

/-- The whole packets a port still holds: those its retry window ends, then those it has not sent whole. -/
def Port.packets (x : Port) : List TxPkt := (x.window.filterMap (·.pkt) ++ x.queue).map (fun k => { k with sent := 0 })

/-- The other port of a route's pair, while it is UP. -/
def State.otherPort (s : State) (d p : Nat) : Option Nat :=
  let a := s.rd F.FEN_ROUTE_PORT 0 d
  let b := s.rd F.FEN_ROUTE_PORT2 0 d
  let o := if a = p then b else a
  if s.flag F.FEN_ROUTE_VALID 0 d && s.flag F.FEN_ROUTE_PAIR 0 d && (a = p || b = p) && o ≠ p && s.rd F.CWP_STATUS_STATE o = 2 then
    some o else none

/-- The port's packets move to the paired ports of their routes; those with none are discarded. -/
def State.movePackets (s : State) (p : Nat) : State :=
  (s.port p).packets.foldl (fun s k =>
      match s.otherPort k.drank p with
      | some o => s.onPort o (fun x => { x with queue := x.queue ++ [k] })
      | none => s)
    (s.onPort p (fun x => { x with queue := [], window := [], replay := none, replays := 0 }))

/-- A route uses a port. -/
def State.routeUses (s : State) (d p : Nat) : Bool :=
  s.flag F.FEN_ROUTE_VALID 0 d && (s.rd F.FEN_ROUTE_PORT 0 d = p || (s.flag F.FEN_ROUTE_PAIR 0 d && s.rd F.FEN_ROUTE_PORT2 0 d = p))

/-- A follower's parent port follows its route to the Tidemaster (R354). -/
def State.parentNow (s : State) : State :=
  if s.flag F.TBU_STATUS_MASTER 0 then s else s.wr F.TBU_STATUS_PPORT 0 (s.rd F.FEN_ROUTE_PORT 0 (s.rd F.TBU_STATUS_MRANK 0))

/-- Routes through a lost port: with `pairs` they move to the paired port, and without one they become not VALID. -/
def State.rerouteFrom (s : State) (p : Nat) (pairs : Bool) : State :=
  ((List.range 64).foldl (fun s d =>
    if s.routeUses d p then
      match s.otherPort d p with
      | some o => if pairs then (s.wr F.FEN_ROUTE_PORT 0 o d).wr F.FEN_ROUTE_PORT2 0 o d else s
      | none => (s.wr F.FEN_ROUTE_VALID 0 0 d).startFence (.path d) .nothing
    else s) s).parentNow

/-- A port stops (R334, R445 step 2): it sends no new DATA flit, and its packets and routes change. -/
def State.portLost (s : State) (p : Nat) (after : After) : State := ((s.movePackets p).rerouteFrom p false).startFence (.port p) after

/-! ### Quags after a fence (R434, R435) -/

/-- Written messages of a queue that may be appended are. -/
def State.appendLanded (s : State) (t : Fin 8) (q : Nat) : State :=
  (s.queue t q).landed.foldl (fun s k => if s.mayAppend t q k then s.append t q k else s) s

/-- A reclaim increments the queue's EPOCH (Table 17-3). -/
def State.queueEpoch (s : State) (t : Fin 8) (q : Nat) : State :=
  s.wr F.LEP_Q_STATUS_EPOCH t.val (s.rd F.LEP_Q_STATUS_EPOCH t.val q + 1) q

/-- The tail Quag of a source (R434). -/
def State.tailHdr (s : State) (t : Fin 8) (q : Nat) (a : Allot) : Hdr :=
  ⟨0, kQuag, false, false, 0, a.src.tile, a.src.rank, if a.src.grp then 0 else a.src.num, if a.src.grp then a.src.num else 0, q, t.val,
    s.rank, s.rd F.LEP_Q_CFG_RANK t.val q, (match a.last with | some n => n + 1 | none => 0), 0, 0, 0, false, 5⟩

/-- End a lost source's stream at a queue: a tail Quag while a slot of its allotment is free, and its allotment is removed. -/
def State.endSource (s : State) (t : Fin 8) (q : Nat) (src : Peer) : State :=
  match (s.queue t q).allots.find? (fun a => a.src = src) with
  | none => s
  | some a =>
    let used := ((s.queue t q).slots.filter (fun p => decide (p.2.src = src) && !p.2.resp)).length
    let s1 := if used < a.n then
        let h := (s.tailHdr t q a).pack
        let s2 := (s.quagFormed t q h).place t q h [] src none
        match s.freeSlotOf t q with
        | some k => if s2.mayAppend t q k then s2.append t q k else s2
        | none => s2
      else s
    ((s1.onQueue t q (fun y => { y with allots := y.allots.filter (fun b => decide (b.src ≠ src)) })).queueEpoch t q).qCheck t q

/-- Put a Quag into the reserved slot of a request whose responder is lost (R435). -/
def State.endRequest (s : State) (t : Fin 8) (q : Nat) (r : Resv) : State :=
  match firstIdx (fun v => decide (v = r)) (s.queue t q).resv 0 with
  | none => s
  | some k =>
    let h := (⟨0, kQuag, false, false, 0, r.tile, r.rank, r.chan, 0, q, t.val, s.rank, 0, r.seq, 0, 0, 0, false, 5⟩ : Hdr).pack
    ((s.quagFormed t q h).place t q h [] ⟨r.rank, r.tile, false, r.chan⟩ (some k)).queueEpoch t q

/-- The tiles whose LEPs survive. -/
def State.survivors (s : State) (x : Party) : List (Fin 8) := allTiles.filter (fun t => !x.losesTile s.rank t.val)

/-- Tail Quags, then Quags in reserved slots, at every surviving LEP. -/
def State.fenceQuags (s : State) (x : Party) : State :=
  (s.survivors x).foldl (fun s t =>
    let qs := ((s.tile t).lep.queues.map (·.1)).filter (fun q => s.qState t q = 1 || s.qState t q = 2)
    let s1 := qs.foldl (fun s q =>
      let s1 := s.appendLanded t q
      ((s1.queue t q).allots.filter (fun a => x.losesTile a.src.rank a.src.tile)).foldl (fun s a => s.endSource t q a.src) s1) s
    let s2 := qs.foldl (fun s q =>
      ((s.queue t q).resv.filter (fun r => r.slot.isNone && x.losesTile r.rank r.tile)).foldl (fun s r => s.endRequest t q r) s) s1
    s2.recvRun t) s

/-! ### Aborted memory requests (R432) -/

/-- A waiter on a tile. -/
def Who.onTile (w : Who) (t : Nat) : Bool :=
  match w with
  | .scalar u _ _ _ | .op u _ | .tdm u _ => u = t
  | _ => false

/-- Requests of a lost tile of this device are awaited by nobody. -/
def State.forget (s : State) (x : Party) : State :=
  let f (r : RemReq) : RemReq := if allTiles.any (fun t => x = .tile s.rank t.val && r.who.onTile t.val) then { r with who := .none } else r
  { s with rem := s.rem.map (fun p => (p.1, f p.2)), remWait := s.remWait.map f }

/-- Every unanswered request to the party ends with ABORT. -/
def State.fenceAborts (s : State) (x : Party) : State :=
  let hit (r : RemReq) : Bool := x.losesMem r.rank r.addr
  let s0 := s.forget x
  let s1 := (s0.remWait.filter hit).foldl (fun s r => s.answer r rsAbort []) { s0 with remWait := s0.remWait.filter (fun r => !hit r) }
  (s1.rem.filter (fun p => hit p.2)).foldl (fun s p =>
    match s.rem.find? p.1 with
    | some r => if r = p.2 then s.remEnd p.1 r rsAbort [] else s
    | none => s) s1

/-! ### Leases of a lost home (R439) -/

/-- A channel or group toward a lost home is REFUSED with cause UNREACHABLE. -/
def State.homesLost (s : State) (x : Party) : State :=
  (s.survivors x).foldl (fun s t =>
    let up (st : Nat) : Bool := 1 ≤ st && st ≤ 3
    let cs := (List.range 512).filter (fun c => up (s.rd F.LEP_CHAN_CRED_STATE t.val c) && x.losesTile (s.chanDest t c).rank (s.chanDest t c).tile)
    let s1 := cs.foldl (fun s c => s.wrs t.val c [(F.LEP_CHAN_CRED_STATE, 4), (F.LEP_CHAN_CRED_CAUSE, 3), (F.LEP_CHAN_CRED_AVAIL, 0)]) s
    let gs := (List.range 32).filter (fun g => up (s.rd F.LEP_GRP_STATE_STATE t.val g) && (s.members t g).any (fun d => x.losesTile d.rank d.tile))
    (gs.foldl (fun s g => (s.groupReturn t g).wrs t.val g [(F.LEP_GRP_STATE_STATE, 4), (F.LEP_GRP_STATE_CAUSE, 3)]) s1).dropTo x) s

/-! ### Reduction slots (R123) -/

/-- A reduction group has a part of the party. -/
def State.rgdLost (s : State) (x : Party) (w : Nat) : Bool :=
  let there (d : Nat) : Bool := rgdFen w && (s.rgrpMembers (rgdGroup w)).contains d
  match x with
  | .tile r t => bits (rgdTiles w) t 1 = 1 && (r = s.rank || there r)
  | .rank d | .path d => there d
  | _ => false

/-- A tile of another rank is lost. -/
def State.markGone (s : State) (x : Party) : State :=
  match x with
  | .tile r t => if r = s.rank || s.flt.gone.contains (r, t) then s else { s with flt := { s.flt with gone := s.flt.gone ++ [(r, t)] } }
  | _ => s

/-- A slot's group that has a part of the party ends with RED_ABORT at its home and on every member, and the slot's epoch moves on; the
party's part of an ended group and its notice are no longer awaited. -/
def State.slotReclaim (s : State) (x : Party) (n : Nat) : State :=
  let s1 := s.onSlot n (fun c => { c with
    ends := c.ends.filter (fun d => !x.losesRank d)
    seen := c.seen ++ (match x with | .tile r t => if r = s.rank then [t] else [] | _ => []) })
  let c := s1.cslot n
  (match (match c.rgd with | some w => some w | none => (c.far.head?).map PartRow.rgd) with
    | some w => if s.rgdLost x w && c.fail.isNone then (s1.onSlot n (fun c => { c with rgd := some w })).groupFail n 0x27 [] else s1
    | none => s1).slotJoin n

/-- Every slot's. -/
def State.slotsReclaim (s : State) (x : Party) : State := (List.range 16).foldl (fun s n => s.slotReclaim x n) (s.markGone x)

/-! ### KV sequences and page references (R440) -/

/-- The lowest-numbered ONLINE tile of a function's assignment. -/
def State.newHome (s : State) (f : Nat) : Option Nat := (List.range 8).find? (fun t => s.hasTile f t && s.usr t = uOnline && s.unitIn t)

/-- The numbers n of the aligned records of `size` bytes from a base, fewer than `count`, of which one of the first `k` bytes is not zero. -/
def State.listedRecords (s : State) (base size k count : Nat) : List Nat :=
  (s.mem.filterMap (fun e => if base ≤ e.1 ∧ (e.1 - base) % size < k ∧ (e.1 - base) / size < count then some ((e.1 - base) / size) else none)).eraseDups

/-- Move a LIVE sequence of a tile's table to RELEASING, on a new home if it gets one. -/
def State.seqLost (s : State) (t : Fin 8) (n : Nat) (home : Option Nat) : State :=
  let e := s.seqEnt t n
  let s1 := (s.seqSet t n 0 2 2).seqSet t n 32 16 (e.epoch + 1)
  match home with
  | some h => s1.seqSet t n 4 3 h
  | none => s1

/-- The sequences of a tile's table; a table base of 0, its reset value, names none (DEDUCED, unsafe, log entry 23). -/
def State.tableSeqs (s : State) (t : Fin 8) : List Nat :=
  if s.rd F.KVE_STAB_BASE_PA t.val = 0 then [] else s.listedRecords (s.seqAddr t 0) 64 1 65536

/-- The sequences and page references of a lost home tile. -/
def State.kvTileLost (s : State) (t : Fin 8) : State :=
  let s1 := (s.tableSeqs t).foldl (fun s n =>
    let e := s.seqEnt t n
    if e.st = 1 ∧ e.home = t.val then s.seqLost t n (s.newHome e.owner) else s) s
  match s.newHome (s.ownerOf t.val) with
  | none => s1
  | some h => [0, 1].foldl (fun s k =>
      (s.listedRecords (s.rd F.KVE_PRT_BASE_PA t.val k) 8 2 (s.rd F.KVE_POOL_CFG_COUNT t.val k)).foldl (fun s f =>
        let pa := s.prtAt t k f
        let v := s.readNat 0 pa 8
        if bits v 0 16 ≠ 0 ∧ bits v 16 3 = t.val then s.writeNat 0 pa 8 (setBits v 16 3 h) else s) s) s1

/-- The sequences of a function that was reset. -/
def State.kvFnLost (s : State) (f : Nat) : State :=
  allTiles.foldl (fun s t => (s.tableSeqs t).foldl (fun s n =>
    let e := s.seqEnt t n
    if e.st = 1 ∧ e.owner = f then s.seqLost t n none else s) s) s

/-- KV references of a lost party; a tile reset alone keeps its sequences. -/
def State.kvReclaim (s : State) (x : Party) (after : After) : State :=
  match x, after with
  | .tile r t, .reset _ => if r = s.rank ∧ t < 8 then s else s
  | .tile r t, _ => if r = s.rank then s.kvTileLost (tileOf t) else s
  | .fn r f, _ => if r = s.rank then s.kvFnLost f else s
  | _, _ => s

/-! ### Region locks (R441 to R443) -/

/-- A held lock word names the party as its holder. -/
def Party.holdsLock (x : Party) (w : Nat) : Bool :=
  bits w 0 1 = 1 && (match x with
    | .tile r t => bits w 1 6 = r && bits w 7 3 = t
    | .rank d => bits w 1 6 = d
    | .fn r f => bits w 1 6 = r && bits w 10 5 = f
    | _ => false)

/-- The addresses of the registered lock words. -/
def State.lockWords (s : State) : List Nat :=
  if s.flag F.FLT_LREG_CFG_EN 0 then
    (List.range (min 1024 (s.rd F.FLT_LREG_CFG_COUNT 0))).filterMap (fun i =>
      let e := s.readNat 0 (s.rd F.FLT_LREG_BASE_PA 0 * 8 + 8 * i) 8
      let pa := bits e 0 52
      if bits e 63 1 = 1 ∧ (s.region pa).isDevice ∧ !s.memOff pa then some pa else none)
  else []

/-- The free word a reclaim writes: EPOCH is incremented and USER kept. -/
def lockFreed (w : Nat) : Nat := (bits w 16 16 + 1) % 65536 * 2 ^ 16 + bits w 32 32 * 2 ^ 32

/-- Free every registered word the party holds. -/
def State.lockReclaim (s : State) (x : Party) : State :=
  s.lockWords.foldl (fun s pa =>
    let w := s.readNat 0 pa 8
    if x.holdsLock w then (s.writeNat 0 pa 8 (lockFreed w)).count F.FLT_CNT_RECLAIM_COUNT 0 1 else s) s

/-! ### SFU slots (R136) -/

/-- A slot becomes EMPTY; EPOCH counts changes of STATE. -/
def State.sfuEmpty (s : State) (t : Fin 8) (n : Nat) : State :=
  if s.rd F.SFU_SLOT_STATE_STATE t.val n = 0 then s
  else s.wrs t.val n [(F.SFU_SLOT_STATE_STATE, 0), (F.SFU_SLOT_STATE_EPOCH, s.rd F.SFU_SLOT_STATE_EPOCH t.val n + 1)]

/-- Every slot of a tile becomes EMPTY. -/
def State.sfuEmptyAll (s : State) (t : Fin 8) : State := (List.range 8).foldl (fun s n => s.sfuEmpty t n) s

/-- The slots of a lost tile, and those leased to a lost function. -/
def State.sfuReclaim (s : State) (x : Party) : State :=
  match x with
  | .tile r t => if r = s.rank then s.sfuEmptyAll (tileOf t) else s
  | .fn r f => if r = s.rank then (allTiles).foldl (fun s t => if s.hasTile f t.val then s.sfuEmptyAll t else s) s else s
  | _ => s

/-! ### Messages on their way (R265, R431) -/

/-- What operations have sent to a lost tile is no longer waited for, and no multicast goes to it or comes from it. -/
def State.sentReclaim (s : State) (x : Party) : State :=
  let s1 := allTiles.foldl (fun s t => s.onLep t (fun l => { l with sent := l.sent.filter (fun m => !x.losesTile m.q.rank m.q.tile) })) s
  { s1 with mroute := s1.mroute.filter (fun m => !x.losesTile m.2.1.rank m.2.1.tile && !x.losesTile m.2.2.rank m.2.2.tile) }

/-! ### The end of a fence (R438, R445, R426, R459) -/

/-- Quags, aborts and reclaim, in the order of R445 and R438. -/
def State.recover (s : State) (x : Party) (after : After) : State :=
  ((((((s.fenceQuags x).fenceAborts x).homesLost x).slotsReclaim x).kvReclaim x after).lockReclaim x).sfuReclaim x |>.sentReclaim x

/-- A failed unit is powered down (R426). -/
def State.powerDown (s : State) (u : Nat) : State :=
  if s.usr u ≠ uFailed then s
  else if u < 8 then
    (((s.stopSeen (tileOf u)).wrs u 0 [(F.TPC_STATUS_STATE, 4), (F.TPC_STATUS_ENTERING, 0), (F.TPC_STATUS_WAKING, 0), (F.TPC_STATUS_MEMWAKE, 0)]).tileOff (tileOf u)).tileUsr
      u uOff byFlt
  else if u < 16 then (s.stackOff (u - 8)).usrState u uOff byFlt
  else if u < 32 then
    (((s.wr F.CWP_CTL_EN (u - 16) 0).wr F.CWP_STATUS_STATE (u - 16) 0).onPort (u - 16) (fun _ => .reset)).usrState u uOff byFlt
  else s

/-- Blocks of a checkpoint that the tile's descriptors were reading are to be read again. -/
def State.ckDropped (s : State) (t : Fin 8) : State :=
  (s.tile t).tdm.foldl (fun s d => match d.owner, s.ck with
    | .ck (some k), some j => if j.blocks[k]? = some 1 then s.blockTo j k 0 else s
    | _, _ => s) s

/-- A tile reset in progress completes: the tile is in Run with its reset state, its memory kept (R459, R461). -/
def State.resetDone (s0 : State) (t : Fin 8) : State :=
  let s := s0.ckDropped t
  if !(s.tile t).resetting then s else
  let s1 := (s.tileFresh t).wrs t.val 0 [(F.TPC_STATUS_STATE, 0), (F.TPC_STATUS_ENTERING, 0), (F.TPC_STATUS_WAKING, 0), (F.TPC_STATUS_MEMWAKE, 0)]
  ((if s1.usr t.val = uBringup then s1.tileUsr t.val uOnline byPath else s1).underStop t).ckFeed

/-- A fence completes on every member: recovery, and then what follows. -/
def State.fenceEnd (s : State) (i : Nat) : State :=
  match s.flt.fences[i]? with
  | none => s
  | some f =>
    let s1 := ({ s with flt := { s.flt with fences := s.flt.fences.eraseIdx i } } : State).fencesShown
    let s2 := match f.party with
      | .port p => (s1.movePackets p).rerouteFrom p true
      | _ => s1.recover f.party f.after
    (match f.after with
      | .nothing => s2
      | .powerDown u => s2.powerDown u
      | .reset t => s2.resetDone (tileOf t)).settle

/-- A rank's part of a fence is complete. -/
def State.fencePart (s : State) (i rank : Nat) : State :=
  { s with flt := { s.flt with fences := s.flt.fences.zipIdx.map (fun p =>
      if p.2 = i then { p.1 with waiting := p.1.waiting.filter (fun d => decide (d ≠ rank)) } else p.1) } }

/-- DRAIN_FENCE_COMPLETE (R431): this device's part of its i-th fence is complete, and is reported; with every member's part complete, so
is the fence. -/
def execDrainFenceComplete (i : Nat) (s : State) : Out3 :=
  ok s (match s.flt.fences[i]? with
    | none => s
    | some f =>
      if f.waiting = [] then s.fenceEnd i
      else if f.waiting.contains s.rank && s.fenceClear f.party then
        let s1 := s.fencePart i s.rank
        let s2 := if f.party.isLocal then s1 else s1.tellMembers .fenceDone []
        if (s2.flt.fences[i]?).any (fun g => g.waiting.isEmpty) then s2.fenceEnd i else s2
      else s)

/-- FENCE_COMPLETE_REPORT (R431): a member reports its part of the i-th fence. -/
def execFenceCompleteReport (rank : Fin 64) (i : Nat) (s : State) : Out3 :=
  ok s (match s.flt.fences[i]? with
    | none => s
    | some f =>
      if f.waiting.contains rank.val && rank.val ≠ s.rank then
        let s1 := s.fencePart i rank.val
        if f.waiting = [rank.val] then s1.fenceEnd i else s1
      else s)

end Sys2Proof.Machine
end

