-- ==== Sys2Proof/Machine/Fail.lean ====
section
/-! DEFINITION. Declaring failures: units, devices and ranks, notices, heartbeats, forced quarantine and Fen stops (R354, R414, R424 to R430,
R445, R446, R453). -/
namespace Sys2Proof.Machine

/-! ### Tidemaster (R354) -/

/-- The Fen rank that leads. -/
def State.leads (s : State) : Bool := s.rd F.FEN_STATUS_STATE 0 = 2 && s.rd F.FEN_STATUS_LEADER 0 = s.rank

/-- The time priority of a member, as its HELLO named it. -/
def State.prioOf (s : State) (devid : Nat) : Nat :=
  if devid = s.rd F.FEN_DEVID_DEVID 0 then s.rd F.TBU_CTL_TMPRIO 0
  else match s.fen.hellos.find? (fun h => h.devid = devid) with | some h => h.prio | none => 0

/-- The member the leader chooses: the highest priority, then the lowest rank, among members not failed. -/
def State.pickMaster (s : State) : Nat :=
  match (s.fen.plan.filter (fun a => !s.failed a.rank)).foldl (fun (b : Option (Nat × Nat)) a =>
      let p := s.prioOf a.devid
      match b with
      | none => some (p, a.rank)
      | some (q, r) => if q < p ∨ (q = p ∧ a.rank < r) then some (p, a.rank) else b) none with
  | some b => b.2
  | none => s.rank

/-- PPSSTATE follows the role and IN_EN (R359): off on a follower and without IN_EN, acquire when they allow edges. -/
def State.ppsRole (s : State) : State :=
  if s.flag F.TBU_STATUS_MASTER 0 && s.flag F.TBU_PPS_CFG_IN_EN 0 then
    (if s.rd F.TBU_STATUS_PPSSTATE 0 = 0 then s.wr F.TBU_STATUS_PPSSTATE 0 1 else s)
  else ({ s with tbu := { s.tbu with ppsGood := 0 } } : State).wr F.TBU_STATUS_PPSSTATE 0 0

/-- PPS_OUT stays low under GATE while the servo is neither MASTER nor LOCKED, and without OUT_EN (R360, R481). -/
def State.ppsGate (s : State) : State :=
  let sv := s.rd F.TBU_STATUS_SERVO 0
  if s.flag F.TBU_PPS_CFG_OUT_EN 0 && (!s.flag F.TBU_PPS_CFG_GATE 0 || sv = 0 || sv = 2) then s
  else { s with pins := { s.pins with pps := false } }

/-- The servo starts anew, with no correction. -/
def State.servoFresh (s : State) : State := { s with tbu := { s.tbu with exch := none, delays := [], rate := 0, left := 0, good := 0 } }

/-- The device is its own Tidemaster: servo state MASTER, its count kept, and no correction. -/
def State.ownMaster (s : State) : State :=
  let s1 := s.wrs 0 0 [(F.TBU_STATUS_MASTER, 1), (F.TBU_STATUS_SERVO, 0), (F.TBU_STATUS_MRANK, s.rank), (F.TBU_STATUS_PPORT, 0),
    (F.TBU_STATUS_DEPTH, 0), (F.TBU_STATUS_ERRBND, 0), (F.TBU_INC_INC, 2 ^ 32)]
  s1.servoFresh.ppsRole

/-- The Tidemaster is rank m: this device takes the role, or follows. -/
def State.setMaster (s : State) (m : Nat) : State :=
  if m = s.rank then (if s.flag F.TBU_STATUS_MASTER 0 then s.wr F.TBU_STATUS_MRANK 0 m else s.ownMaster)
  else
    let s1 := if s.flag F.TBU_STATUS_MASTER 0 then
        (s.wrs 0 0 [(F.TBU_STATUS_MASTER, 0), (F.TBU_STATUS_SERVO, 1), (F.TBU_INC_INC, 2 ^ 32)]).servoFresh.ppsRole.ppsGate
      else s
    s1.wrs 0 0 [(F.TBU_STATUS_MRANK, m), (F.TBU_STATUS_PPORT, s.rd F.FEN_ROUTE_PORT 0 m), (F.TBU_STATUS_DEPTH, s.fen.hops.getD m 0)]

/-! ### What a declaration does (R425 to R427, R445, R446) -/

/-- The PLDM state sensor event of a unit, when Fenreeve runs and has an event receiver (R416, R427). -/
def State.unitEvent (s : State) (u : Nat) : State :=
  let st := s.usr u
  match s.frv.receiver with
  | none => s
  | some e =>
    if s.rd F.FRV_STATUS_BOOT 0 ≠ 1 || s.frv.sensorsOff.contains (0x40 + u) || s.frv.polled.getD (0x40 + u) 0 = st then s
    else ({ s with frv := { s.frv with polled := s.frv.polled.set 0 (0x40 + u) st } } : State).emit
      (.other "PLDM_EVENT" [e, 0x40 + u, st, s.rd F.FRV_USR_EPOCH 0 u])

/-- The owning function, the PF, management and the Fen learn of a declaration. -/
def State.notify (s : State) (u owner : Nat) : State :=
  ((((s.event owner F.HIU_EVT_STATUS_FLT).event 0 F.HIU_EVT_STATUS_FLT).unitEvent u).tellMembers .notice [1, u])

/-- A tile's jobs end with TILE_HALT: the running one and those queued. -/
def State.killJobs (s : State) (t : Fin 8) : State :=
  let l := (s.tile t).launches
  let s1 := (s.onTile t (fun x => { x with launches := [] })).jobEnd t
  l.foldl (fun s j => s.launchPart j t.val stTileHalt 0 0) s1

/-- A unit stops, and what its loss makes lost is fenced (R414, R430, R445 steps 2 and 4). -/
def State.stopUnit (s : State) (u : Nat) (after : After) : State :=
  if u < 8 then (((s.haltTile (tileOf u)).killJobs (tileOf u)).startFence (.tile s.rank u) after)
  else if u < 16 then s.startFence (.unit u) after
  else if u < 32 then s.portLost (u - 16) after
  else s

/-- A unit becomes FAILED (R425) (DEDUCED, unsafe, log entry 24). -/
def State.markFailed (s : State) (u : Nat) : State :=
  let s1 := if u < 8 then s.tileUsr u uFailed byFlt else s.usrState u uFailed byFlt
  let s2 := if 16 ≤ u ∧ u < 32 then s1.wr F.CWP_STATUS_STATE (u - 16) 4 else s1
  let new := ((if u < 8 then [u, 32 + u] else [u]).filter (fun v => !s2.flt.down.contains v))
  ({ s2 with flt := { s2.flt with down := s2.flt.down ++ new } } : State).wr F.FLT_FAILMAP_UNITS 0 (s2.rd F.FLT_FAILMAP_UNITS 0 ||| 2 ^ u)

/-- What follows the mark. -/
def State.failRest (s : State) (u owner : Nat) : State := (s.notify u owner).stopUnit u (.powerDown u)

/-- Declare a unit failed, unless it is already (DEDUCED, unsafe, log entry 29). -/
def State.declareUnit (s : State) (code u info : Nat) : State :=
  if 40 ≤ u ∨ s.usr u = uFailed then s
  else (((s.markFailed u).count F.FLT_CNT_UNIT_COUNT 0 1).logEvent 2 code u 0 info).failRest u (s.rd F.FRV_USR_OWNER 0 u)

/-- Declare the device failed (class DEVICE): its peers hear of it before anything goes to Off, and every unit fails. -/
def State.declareDevice (s : State) (code u : Nat) : State :=
  let s1 := (List.range 40).foldl (fun s v => if s.usr v = uFailed then s else s.markFailed v) s
  let s2 := ((s1.count F.FLT_CNT_DEVICE_COUNT 0 1).logEvent 3 code u 0 0).tellMembers .notice [0, s.rank]
  ((List.range 40).foldl (fun s1 v => if s.usr v = uFailed then s1 else s1.failRest v (s.rd F.FRV_USR_OWNER 0 v)) s2).allOff

/-- Declare a rank failed, by lost heartbeats or by a notice (R428). -/
def State.declareRank (s : State) (code d : Nat) : State :=
  if d = s.rank || s.failed d || bits (s.rd F.FEN_MEMBERS_MASK 0) d 1 = 0 then s
  else
    let s1 := (s.wr F.FLT_FENFAIL_RANKS 0 (s.rd F.FLT_FENFAIL_RANKS 0 ||| 2 ^ d)).count F.FLT_CNT_DEVICE_COUNT 0 1
    let s2 := (s1.logRec 3 code 0xFF d 0 0).event 0 F.HIU_EVT_STATUS_FLT
    let s3 : State := { s2 with flt := { s2.flt with fences := s2.flt.fences.map (fun f => { f with waiting := f.waiting.filter (fun r => decide (r ≠ d)) }) } }
    let s4 := if code = 0x32 then s3.tellMembers .notice [0, d] else s3
    let s5 := if s4.leads ∧ s4.rd F.TBU_STATUS_MRANK 0 = d then
        (s4.setMaster s4.pickMaster).tellMembers .commit [s4.rd F.FEN_STATUS_FEPOCH 0, s4.pickMaster] else s4
    s5.startFence (.rank d) .nothing

/-- FORCE_QUARANTINE's effect (R414). -/
def State.forceMessages (s : State) (t : Fin 8) : State :=
  let mine (m : NetMsg) : Bool := match m with
    | .msg h _ _ _ _ => (Hdr.of h).drank = s.rank && (Hdr.of h).dtile = t.val
    | _ => false
  let s1 := (s.net.filter mine).foldl (fun s m => match m with
    | .msg h p b src _ => s.arrive h p b src
    | _ => s) { s with net := s.net.filter (fun m => !mine m) }
  ((s1.tile t).lep.queues.map (·.1)).foldl (fun s q =>
    ((s.queue t q).slots.filter (fun p => decide (p.2.st ≠ .held) && decide ((Hdr.of p.2.hdr).kind ≠ kQuag))).foldl (fun s p =>
      let h := quagOf p.2.hdr 6
      (((s.quagFormed t q h).onQueue t q (fun x => { x with slots := x.slots.put p.1 { p.2 with hdr := h } }))).writeSlot t q p.1 (leBytes 32 h)) s) s1

/-- FORCE_QUARANTINE of a unit (R414): a transition, and the stop of the unit with a fence and no power-down. -/
def State.forceUnit (s : State) (u : Nat) : State :=
  let s1 := ((s.usrState u uQuar byForce).wr F.FRV_LAST_FORCE_NS 0 s.ns).count F.FLT_CNT_UNIT_COUNT 0 1
  let s2 := s1.logEvent 2 0x25 u 0 0
  let s3 : State := if u < 8 then (s2.onTile (tileOf u) (fun x => { x with forced := true })).forceMessages (tileOf u)
    else if 32 ≤ u then (s2.sfuEmptyAll (tileOf u)).wr F.SFU_PROG_VALID_VALID (u % 8) 0
    else s2
  ({ s3 with frv := { s3.frv with forced := true } } : State).notify u (s.rd F.FRV_USR_OWNER 0 u) |>.stopUnit u .nothing

/-- A Fen stop that starts here is sent to every member (R429). -/
def State.fenStopAll (s : State) (unit : Nat) : State := (s.fenStop 0x40 unit 0).tellMembers .fenStop []

/-- Act on an event of a log code at a unit (Table 17-7). -/
def State.faultEvent (s : State) (code u info : Nat) : State :=
  if code = 0x10 then s.opEvent 0x10 u info
  else if 0x20 ≤ code ∧ code ≤ 0x24 then s.declareUnit code u info
  else if code = 0x25 then (if u < 40 then s.forceUnit u else s)
  else if code = 0x30 ∨ code = 0x31 then s.declareDevice code u
  else if code = 0x32 ∨ code = 0x33 then s.declareRank code (u % 64)
  else if code = 0x40 then s.fenStopAll u
  else if code = 0x41 then s.fenStop 0x41 u 0
  else s

/-- UNIT_FAIL_DECLARE (R425): the FLT acts on a reported event, or on an uncorrectable internal error of a tile, a stack's command path or
the fabric, which the command itself reports. -/
def execUnitFailDeclare (code unit : BitVec 8) (s : State) : Out3 :=
  ok s (match s.reports.find? (fun r => r.code = code.toNat && r.unit = unit.toNat) with
    | none => if code.toNat = 0x21 ∨ code.toNat = 0x24 ∨ code.toNat = 0x31 then (s.faultEvent code.toNat unit.toNat 0).settle else s
    | some r => (({ s with reports := s.reports.erase r } : State).faultEvent r.code r.unit r.info).settle)

/-- FLT_INJECT (R453): ignored while a tag is allocated on a VF's tile or a fence is incomplete. -/
def execFltInject (code unit : BitVec 8) (s : State) : Out3 :=
  ok s (if allTiles.any (fun t => s.ownerOf t.val ≠ 0 && (s.tile t).ops ≠ []) || s.flt.fences ≠ [] then s
    else (s.faultEvent code.toNat unit.toNat 0).settle)

/-! ### Messages of the FLT (R427 to R430) -/

/-- A member other than this device, of a FORMED Fen. -/
def State.isPeer (s : State) (d : Nat) : Bool := s.rd F.FEN_STATUS_STATE 0 = 2 && d ≠ s.rank && bits (s.rd F.FEN_MEMBERS_MASK 0) d 1 = 1

/-- FAILURE_NOTICE_RECEIVE (R428, R430): a failed rank is failed here too; a lost tile or function of the sender is fenced. -/
def execFailureNoticeReceive (rank : Fin 64) (n : Notice) (s : State) : Out3 :=
  ok s (if s.isPeer rank.val then
    match n with
    | .rank d => s.declareRank 0x33 d
    | .unit u => if u < 8 then s.startFence (.tile rank.val u) .nothing else s
    | .fn f => s.startFence (.fn rank.val f) .nothing
  else s)

/-- HEARTBEAT_SEND (R428): a heartbeat to every other member, and one more period without theirs. -/
def execHeartbeatSend (s : State) : Out3 :=
  ok s (if s.rd F.FEN_STATUS_STATE 0 = 2 then
    let s1 := s.tellMembers .heartbeat []
    { s1 with flt := { s1.flt with misses := s.peers.foldl (fun m d => m.set 0 d (m.getD d 0 + 1)) s1.flt.misses } }
  else s)

/-- HEARTBEAT_RECEIVE. -/
def execHeartbeatReceive (rank : Fin 64) (s : State) : Out3 :=
  ok s (if s.isPeer rank.val then { s with flt := { s.flt with misses := s.flt.misses.erase rank.val } } else s)

/-- HEARTBEAT_MISS (R428): HB_MISS periods have passed without a heartbeat of a rank. -/
def execHeartbeatMiss (rank : Fin 64) (s : State) : Out3 :=
  ok s (if s.isPeer rank.val && max 1 (s.rd F.FLT_CTL_HB_MISS 0) ≤ s.flt.misses.getD rank.val 0 then (s.declareRank 0x32 rank.val).settle else s)

/-- FEN_STOP_NOTICE (R429): every tile acts as R78 states. -/
def execFenStopNotice (rank : Fin 64) (s : State) : Out3 :=
  ok s (if s.isPeer rank.val then (s.fenStop 0x41 0xFF rank.val).settle else s)

/-- FENSTOP_CLR (R429): this device's stop is cleared. -/
def execFenstopClr (s : State) : Out3 := ok s (s.wr F.FLT_STATUS_FENSTOP 0 0)

end Sys2Proof.Machine
end

