-- ==== Sys2Proof/Machine/Reset.lean ====
section
/-! DEFINITION. Resets of every scope, partitions, BAR2, PCI Express configuration and ATS, and the ends of power entries and of stack training
(R364, R374 to R381, R401, R402, R456 to R465). -/
namespace Sys2Proof.Machine

/-! ### Tile reset (R459) -/

/-- Parts of LAUNCH commands queued on a tile that a test picks are removed, and reported as over. -/
def State.dropLaunches (s : State) (t : Fin 8) (p : Job → Bool) : State :=
  ((s.tile t).launches.filter p).foldl (fun s j => s.launchPart j t.val stAborted 0 0)
    (s.onTile t (fun x => { x with launches := x.launches.filter (fun j => !p j) }))

/-- A tile reset is triggered: no thread issues, queued LAUNCHes go, and the tile wakes. A tile in Off, or on its way there, is
unaffected, and a reset in progress goes on. -/
def State.resetTile (s : State) (t : Fin 8) : State :=
  if s.rd F.TPC_STATUS_STATE t.val = 4 || (s.flag F.TPC_STATUS_ENTERING t.val && (s.tile t).tpc.target = 4) || (s.tile t).resetting then s
  else ((s.dropLaunches t (fun _ => true)).onTile t (fun x => { x with resetting := true })).wakeTile t true

/-- The tile is a lost party, whose recovery ends in its reset state. -/
def State.resetFence (s : State) (t : Fin 8) : State :=
  (s.tellMembers .notice [1, t.val]).startFence (.tile s.rank t.val) (.reset t.val)

/-- The tile is being reset and is in Run. -/
def State.resetAwake (s : State) (t : Fin 8) : Bool :=
  (s.tile t).resetting && s.rd F.TPC_STATUS_STATE t.val = 0 && !s.flag F.TPC_STATUS_ENTERING t.val

/-- TILE_RESET (R459): every issued operation has retired. -/
def execTileReset (t : Fin 8) (s : State) : Out3 :=
  ok s (if s.resetAwake t ∧ (s.tile t).ops = [] ∧ (s.tile t).tdm.all (fun d => match d.owner with | .ck _ => true | _ => false) then
    s.resetFence t else s)

/-- The bytes of an operation's destinations that memory holds. -/
def State.destBytes (s : State) (t : Fin 8) (r : OpRec) : List Nat :=
  (r.writes.flatMap (fun v => (List.range (v.hi + 1 - v.lo)).map (fun i => v.lo + i))).filterMap (fun a =>
    if lsBase ≤ a then none else s.pagePa t a)

/-- The destination bytes of an abandoned operation become free values (DESIGN CHOICE, safe, log entry 5). -/
def State.abandonOp (s : State) (t : Fin 8) (r : OpRec) : State :=
  if r.st = .ack ∨ r.trapped then s
  else ((s.destBytes t r).zipIdx.foldl (fun s p => s.writeBytes (s.ownerOf t.val) p.1 [BitVec.ofNat 8 (s.free p.2)]) s).drawn

/-- Operations still unretired are abandoned, with their descriptors; a COPY ends ABORTED. -/
def State.abandonAll (s : State) (t : Fin 8) : State :=
  let x := s.tile t
  let s1 := x.ops.foldl (fun s p => s.abandonOp t p.2) s
  let s2 := s1.onTile t (fun x => { x with
    ops := []
    tdm := x.tdm.filter (fun d => match d.owner with | .ck _ => true | _ => false) })
  x.tdm.foldl (fun s d => match d.owner with
    | .copy f r seq => (s.complete f r seq stAborted (min (d.landed * 65536) d.bytes) 0).sweep f r
    | _ => s) s2

/-- TILE_RESET_DRAIN_TIMEOUT (R459): 1 ms has passed with operations unretired. -/
def execTileResetDrainTimeout (t : Fin 8) (s : State) : Out3 :=
  ok s (if s.resetAwake t ∧ !((s.tile t).ops = [] ∧ (s.tile t).tdm = []) ∧ !s.flt.fences.any (fun f => f.party = .tile s.rank t.val) then
    (s.abandonAll t).resetFence t else s)

/-! ### Ends of power entries and of training (R364, R368, R409) -/

/-- POWER_ENTRY_COMPLETE (R364, R367): the state is reached; Sleep loses what Table 14-4 says, Off loses everything and makes the tile a
lost party, and a wake asked for meanwhile starts. -/
def execPowerEntryComplete (t : Fin 8) (s : State) : Out3 :=
  ok s (if !s.flag F.TPC_STATUS_ENTERING t.val then s
  else
    let target := (s.tile t).tpc.target
    let s1 := s.stopSeen t |>.wrs t.val 0 [(F.TPC_STATUS_STATE, target), (F.TPC_STATUS_ENTERING, 0), (F.TPC_STATUS_MEMWAKE, 0)]
    if target = 4 then
      ((((s1.onTile t (fun x => { x with tpc := .reset })).killJobs t).tileOff t).tellMembers .notice [1, t.val]).startFence (.tile s.rank t.val) .nothing
    else
      let s2 := (if target = 3 then s1.sleepLoss t else s1).onTile t (fun x => { x with tpc := { x.tpc with target := 0 } })
      if (s2.tile t).tpc.full || (s2.tile t).tpc.mem || (s2.tile t).launches ≠ [] then
        (s2.onTile t (fun x => { x with tpc := { x.tpc with full := x.tpc.full || x.launches ≠ [] } })).wr F.TPC_STATUS_WAKING t.val 1
      else s2)

/-- HBM_TRAINING_COMPLETE (R409, Table 17-1): a stack in Training becomes Active, or its failure is reported. -/
def execHbmTrainingComplete (k : Fin 8) (good : Bool) (s : State) : Out3 :=
  ok s (if s.rd F.HMC_STATUS_STATE k.val ≠ 1 then s
  else if good then
    let s1 := s.stackUp k.val
    if s1.usr (8 + k.val) = uBringup then s1.usrState (8 + k.val) uOnline byPath else s1
  else s.report 0x23 (8 + k.val) 0)

/-! ### Ring and function resets (R401, R402) -/

/-- End a started command (R401). -/
def State.endCmd (s : State) (f r : Nat) (c : RCmd) : State :=
  let mine (j : Job) : Bool := j.fn = f && j.ring = r && j.seq = c.seq
  let s1 := s.onCmd f r c.seq (fun c => { c with aborted := true })
  match c.op with
  | 1 => allTiles.foldl (fun s t =>
      let s2 := if ((s.tile t).runs f r c.seq).isSome then s.endMain t none 0 else s
      s2.dropLaunches t mine) s1
  | 2 => match s1.copyDesc f r c.seq with
    | none => s1
    | some d => allTiles.foldl (fun s t => s.onTile t (fun x => { x with tdm := x.tdm.map (fun e =>
        if e.owner = d.owner then { e with cut := some (min d.blocks (d.landed + (if d.started then 1 else 0))) } else e) })) s1
  | 5 | 6 => s1.ckEnd 0x34
  | _ => s1.complete f r c.seq 0 c.result 1

/-- Stop a ring's starts and end what has started. -/
def State.ringEnd (s : State) (f r : Nat) : State :=
  let s1 := (s.wrs f r [(F.HIU_RING_STATUS_STATE, rDrain), (F.HIU_RING_STATUS_RESETTING, 1)]).onRing f r (fun x => { x with
    cmds := x.cmds.filter (·.started) })
  ((s1.ring f r).cmds.filter (fun c => !c.done)).foldl (fun s c => s.endCmd f r c) s1

/-- RING_RESET (R401): RING_CTL.RESET is written. -/
def execRingReset (fn : Fin 32) (r : Fin 64) (s : State) : Out3 :=
  ok s (if s.fnTakes fn.val ∧ s.rState fn.val r.val ≠ rOff then ((s.ringEnd fn.val r.val).sweep fn.val r.val).settle else s)

/-- A waiter is a command of function f. -/
def Who.ofFn (w : Who) (f : Nat) : Bool :=
  match w with
  | .cmd g _ _ | .bar2 g _ => g = f
  | _ => false

/-- Every command of a function ends as R401 ends it, with no record; nothing waits for an answer any more. -/
def State.fnEnd (s : State) (f : Nat) : State :=
  let s1 := s.onFn f (fun x => { x with rings := x.rings.map (fun p => (p.1, { p.2 with
    cmds := p.2.cmds.map (fun c => { c with recorded := true }), irqPend := 0 })) })
  let s2 := (s1.fn f).rings.foldl (fun s p => s.ringEnd f p.1) s1
  let s3 := s2.onFn f (fun x => { x with rings := [] })
  let own (r : RemReq) : RemReq := if r.who.ofFn f then { r with who := .none } else r
  { s3 with rem := s3.rem.map (fun p => (p.1, own p.2)), remWait := s3.remWait.map own }

/-- The registers of a function's HIU return to reset; the PART registers stay unless the reset is warm (R402, R403, R458). -/
def State.fnClear (s : State) (f : Nat) (keepPart : Bool) : State :=
  let s1 := s.clearBlk .hiu f (fun o => keepPart && 0x80000 ≤ o)
  { s1 with fns := s1.fns.erase f }

/-- The leases a function held are reclaimed, here and across the Fen (R430). -/
def State.fnLost (s : State) (f : Nat) : State := (s.tellMembers .notice [2, f]).startFence (.fn s.rank f) .nothing

/-- A function-level reset of one function (R402). -/
def State.flr (s : State) (f : Nat) : State :=
  let s1 := s.fnEnd f
  let s2 := allTiles.foldl (fun s t => if s.hasTile f t.val then s.resetTile t else s) s1
  (s2.fnLost f).fnClear f true

/-- FUNCTION_LEVEL_RESET (R402): of a VF, or of the PF with every VF. -/
def execFunctionLevelReset (fn : Fin 32) (s : State) : Out3 :=
  ok s (if !s.fnLive fn.val then s
  else if fn.val = 0 then ((vfNums.foldl (fun s f => s.flr f) s).flr 0).settle
  else (s.flr fn.val).settle)

/-! ### Warm and cold reset (R456 to R458) -/

/-- A warm reset (R458). -/
def State.warm (s : State) : State :=
  let fs := (List.range 32).filter (fun f => f = 0 || s.partOn f)
  let s1 := (List.range 32).foldl (fun s f => s.fnEnd f) s
  let s2 := allTiles.foldl (fun s t => s.resetTile t) s1
  let s3 := fs.foldl (fun s f => s.fnLost f) s2
  ((List.range 32).foldl (fun s f => s.fnClear f false) s3).ownersNow

/-- WARM_RESET: by PERST_L, or by Hot Reset or link down. -/
def execWarmReset (perst : Bool) (s : State) : Out3 :=
  ok s (if s.pins.cold then { s with pins := { s.pins with perst := s.pins.perst || perst } }
  else ({ s with pins := { s.pins with perst := s.pins.perst || perst } } : State).warm.settle)

/-- PERST_L_RELEASE (R465): the PCIe link comes up, and FB4 runs (R363). -/
def execPerstLRelease (s : State) : Out3 := ok s (({ s with pins := { s.pins with perst := false } } : State).ungate 4)

/-- COLD_RESET (R456): every block takes its reset value and is held; host memory, the flash and the fuses are not part of the device's
reset, and PERST_L is the host's. -/
def execColdReset (s : State) : Out3 :=
  ok s { State.reset with
    hostMem := s.hostMem
    frv := { Frv.reset with flash := s.frv.flash, fuses := s.frv.fuses }
    pins := { Pins.reset with cold := true, perst := s.pins.perst, straps := s.pins.straps, rails := s.pins.rails }
    out := s.out
    freeCtr := s.freeCtr }

/-- COLD_RESET_END (R457): the straps are sampled: SMB_ADDR, AUTO_ON and FEN_AUTO. -/
def execColdResetEnd (straps : BitVec 3) (s : State) : Out3 :=
  ok s (if s.pins.cold then
    ({ s with pins := { s.pins with cold := false, straps := straps.toNat } } : State).wr F.FRV_ADDR_SMBADDR 0 (0x4E + straps.toNat % 2)
  else s)

/-! ### Partitions (R378) -/

/-- Write PART_CFG's FEN and TILES. -/
def State.putPart (s : State) (f v : Nat) : State :=
  s.wrs 0 (f - 1) [(F.HIU_PART_CFG_FEN, bits v 1 1), (F.HIU_PART_CFG_TILES, bits v 8 8)]

/-- The partition in VF f's registers is valid. -/
def State.partValid (s : State) (f : Nat) : Bool :=
  let tiles := s.rd F.HIU_PART_CFG_TILES 0 (f - 1)
  let others := vfNums.filter (fun g => g ≠ f && s.partOn g)
  tiles ≠ 0 &&
    partHbm.all (fun e => !s.flag e.1 0 (f - 1) || decide (s.rd e.2.2.1 0 (f - 1) + s.rd e.2.2.2 0 (f - 1) ≤ 47)) &&
    others.all (fun g => (List.range 8).all (fun t => !(bits tiles t 1 = 1 && s.vfHasTile g t)) &&
      (List.range 8).all (fun k => (List.range 48).all (fun b => !(s.vfListsGib f k b && s.vfHasGib g k b))))

/-- PART_ENABLE (R378): the PF writes a VF's PART_CFG with EN = 1. -/
def execPartEnable (f : Fin 32) (val : BitVec 64) (s : State) : Out3 :=
  ok s (if !s.fnTakes 0 || f.val = 0 || s.partOn f.val || bits val.toNat 0 1 = 0 then s
  else
    let s1 := s.putPart f.val val.toNat
    if s1.partValid f.val then (s1.wr F.HIU_PART_CFG_EN 0 1 (f.val - 1)).ownersNow else s1.wr F.HIU_PART_STATUS_ERR 0 1 (f.val - 1))

/-- A ring of the function is READY or RESETTING. -/
def State.ringsBusy (s : State) (f : Nat) : Bool :=
  (List.range 64).any (fun r => s.rState f r = rReady || s.flag F.HIU_RING_STATUS_RESETTING f r)

/-- PART_DISABLE (R378): the PF writes a VF's PART_CFG with EN = 0. -/
def execPartDisable (f : Fin 32) (val : BitVec 64) (s : State) : Out3 :=
  ok s (if !s.fnTakes 0 || f.val = 0 || bits val.toNat 0 1 = 1 then s
  else if s.partOn f.val && s.ringsBusy f.val then s.wr F.HIU_PART_STATUS_ERR 0 1 (f.val - 1)
  else ((s.putPart f.val val.toNat).wr F.HIU_PART_CFG_EN 0 0 (f.val - 1)).ownersNow)

/-! ### BAR2 (R379) -/

/-- The host may not reach an address through a function's BAR2. -/
def State.bar2Refused (s : State) (f pa n : Nat) (wr : Bool) : Bool :=
  (granules pa n).any (fun p => (match s.paCheck f p.1 wr with | .ok _ => false | .error _ => true) ||
    (match s.region p.1 with | .host _ => true | _ => false))

/-- The size of a function's BAR2 (Table 15-1, R375): the VFs' is set in the PF's SR-IOV capability. -/
def State.bar2Size (s : State) (f : Nat) : Nat := 2 ^ (30 + (if f = 0 then (s.fn 0).bar2 else (s.fn 0).vfBar2))

/-- A BAR2 access reaches memory: what lies on the way wakes, a stack counts what is read, and host translations are none of its (R211, R363). -/
def State.bar2Reach (s : State) (pa n : Nat) (wr : Bool) : State :=
  (piecesOf 4096 pa n).foldl (fun s c => let s1 := s.wakeFor none c.1; if wr then s1 else s1.tookBytes c.1 c.2) s

/-- The parts of a range in other ranks' windows, none across 256 bytes. -/
def State.farOf (s : State) (pa n : Nat) : List (Nat × Nat × Nat) :=
  (piecesOf 256 pa n).filterMap (fun p => match s.region p.1 with | .fen d off => some (d, off, p.2) | _ => none)

/-- BAR2_ACCESS (R375, R379): a write of bytes, or a read of `len` bytes; what lies beyond BAR2 is not the function's. -/
def execBar2Access (fn : Fin 32) (off len : Nat) (data : Option (List Byte)) (s : State) : Out3 :=
  let f := fn.val
  let pa := s.rd F.HIU_BAR2_BASE_PA f * 2 ^ 30 + off
  ok s (if !s.fnTakes f || decide (s.bar2Size f < off + len) then s
  else match data with
    | some bs =>
      if s.bar2Refused f pa bs.length true then s.event f F.HIU_EVT_STATUS_BAR2_REFUSED
      else (s.bar2Reach pa bs.length true).writeBytes f pa bs (.bar2 f bs.length)
    | none =>
      if s.bar2Refused f pa len false then ((s.event f F.HIU_EVT_STATUS_BAR2_REFUSED).emit (.other "BAR2_UR" [f, len])).aerErr f aerUnsupported
      else if s.farOf pa len ≠ [] then (s.farOf pa len).foldl (fun s p => s.request ⟨.bar2 f len, mopRd, p.2.1, p.2.2, p.1, [], false⟩) s
      else (s.bar2Reach pa len false).emit (.other "BAR2_DATA" (f :: (s.poisonIn pa len).toNat :: (s.readBytes f pa len).map (·.toNat))))

/-! ### PCI Express configuration and ATS (R374, R381, R465) -/

/-- MSI-X is enabled: messages of unmasked pending vectors go out. -/
def State.msixOn (s : State) (f : Nat) : State :=
  (List.range 64).foldl (fun s v => if (s.fn f).msixPend.getLsbD v && !(s.fn f).msixMask.getLsbD v then s.unmask f v else s)
    (s.onFn f (fun x => { x with msixEnable := true }))

/-- A configuration item as a number; the VFs' items stand in the PF's SR-IOV capability. -/
def Fn.item (x : Fn) : Sys2Proof.CfgItem → Nat
  | .d3hot => x.d3hot.toNat
  | .ats => x.ats.toNat
  | .atomicOp => x.atomicOp.toNat
  | .vfEnable => x.vfEnable.toNat
  | .numVfs => x.numVfs
  | .ari => x.ari.toNat
  | .bar2Size => x.bar2
  | .vfBar2Size => x.vfBar2
  | .maxPayload => x.mps
  | .maxReadRequest => x.mrrs
  | .aerStatus => x.aer
  | .msixEnable => x.msixEnable.toNat
  | .msixMask v => (x.msixMask.getLsbD v.val).toNat
  | .other => 0

/-- Write a configuration item (Table 15-1). The SR-IOV items are the PF's, with NumVFs and the VFs' BAR2 size open only while VF Enable is 0; a
size or count that the table does not give is not taken; AER's status is cleared by writing ones (PRESUMED, unsafe, log entry 20). -/
def State.putItem (s : State) (f : Nat) (i : Sys2Proof.CfgItem) (v : Nat) : State :=
  let b := decide (v % 2 = 1)
  let vfs := decide (f = 0) && !(s.fn 0).vfEnable
  let put (c : Bool) (g : Fn → Fn) : State := if c then s.onFn f g else s
  match i with
  | .d3hot => put true (fun x => { x with d3hot := b })
  | .ats => put true (fun x => { x with ats := b })
  | .atomicOp => put true (fun x => { x with atomicOp := b })
  | .vfEnable => put (f = 0) (fun x => { x with vfEnable := b })
  | .numVfs => put (vfs && decide (v ≤ 31)) (fun x => { x with numVfs := v })
  | .ari => put (f = 0) (fun x => { x with ari := b })
  | .bar2Size => put (f = 0 && decide (v ≤ 9)) (fun x => { x with bar2 := v })
  | .vfBar2Size => put (vfs && decide (v ≤ 9)) (fun x => { x with vfBar2 := v })
  | .maxPayload => put (v ≤ 2) (fun x => { x with mps := v })
  | .maxReadRequest => put (v ≤ 5) (fun x => { x with mrrs := v })
  | .aerStatus => put true (fun x => { x with aer := x.aer - (x.aer &&& v) })
  | .msixEnable => if b then s.msixOn f else put true (fun x => { x with msixEnable := false })
  | .msixMask k => if b then put true (fun x => { x with msixMask := x.msixMask ||| (1#64 <<< k.val) }) else s.unmask f k.val
  | .other => s

/-- PCIE_CONFIG_REQUEST (R374, R465): a read or a write, answered whatever Fenreeve and the power state of the function. -/
def execPcieConfigRequest (fn : Fin 32) (item : CfgItem) (val : Option Nat) (s : State) : Out3 :=
  ok s (if !s.fnLive fn.val then s
  else match val with
    | some v => (s.putItem fn.val item v).emit (.other "CFG_DONE" [fn.val])
    | none => s.emit (.other "CFG_DATA" [fn.val, (s.fn fn.val).item item]))

/-- Translations the ATC holds, of all functions. -/
def State.atcUsed (s : State) : Nat := s.fns.foldl (fun n p => n + p.2.atc.length) 0

/-- A full ATC gives up the oldest translation of the lowest function that holds one; an access already waiting still uses it (DESIGN CHOICE, unsafe,
log entry 18). -/
def State.atcEvict (s : State) : State :=
  if s.atcUsed < 512 then s
  else match List.find? (fun (p : Nat × Fn) => decide (p.2.atc ≠ [])) s.fns with
    | some p => s.onFn p.1 (fun x => { x with atc := x.atc.drop 1 })
    | none => s

/-- ATS_TRANSLATION_COMPLETION (R381): the answer to a Translation Request is cached, a refusal as well, and what waited for it goes on. -/
def execAtsTranslationCompletion (fn : Fin 32) (page : Nat) (host : Option Nat) (writable : Bool) (s : State) : Out3 :=
  ok s (if s.fnLive fn.val ∧ (s.fn fn.val).ats then
    let s1 := if (s.fn fn.val).atc.contains page then s else s.atcEvict
    (((s1.onFn fn.val (fun x => { x with
      trans := x.trans.put page (host.map (fun h => (h, writable)))
      atc := if x.atc.contains page then x.atc else x.atc ++ [page]
      atcAsked := x.atcAsked.filter (fun p => decide (p ≠ page)) })).ckAdvance).allGo).settle
  else s)

/-- Operations and descriptors of a function that have begun ask again for translations that have been taken from them. -/
def State.atsAgain (s : State) (f : Nat) : State :=
  allTiles.foldl (fun s t =>
    let x := s.tile t
    let s1 := if s.ownerOf t.val = f then (x.ops.filter (fun p => p.2.st = .queued || p.2.st = .run)).foldl (fun s p => s.atsAsks f (s.opHost t p.2)) s else s
    (x.tdm.filter (fun d => d.started && s.tdmFn t d = f)).foldl (fun s d => s.atsAsks f (s.blockPas t d d.landed)) s1) s

/-- ATS_INVALIDATION_REQUEST (R381): the translations of a range are removed, and the completion follows; every access made through them
was acknowledged when it was made, but those that relaxed order holds back. -/
def execAtsInvalidationRequest (fn : Fin 32) (addr len : Nat) (s : State) : Out3 :=
  ok s (if s.fnLive fn.val then
    let out (p : Nat) : Bool := overlap (p * 4096) 4096 addr len
    let s1 := s.relaxedOut
    ((s1.onFn fn.val (fun x => { x with trans := x.trans.filter (fun p => !out p.1), atc := x.atc.filter (fun p => !out p) })).atsAgain fn.val).emit
      (.other "ATS_INV_DONE" [fn.val])
  else s)

/-- PCIE_COMPLETION_TIMEOUT (R374, R400): a ring's fetch got no completion, which AER reports. -/
def execPcieCompletionTimeout (fn : Fin 32) (r : Fin 64) (s : State) : Out3 :=
  ok s (if s.fnLive fn.val ∧ s.rState fn.val r.val = rReady ∧ (s.ring fn.val r.val).fetched ≠ (s.ring fn.val r.val).prod then
    (s.ringErr fn.val r.val 3).aerErr fn.val aerTimeout
  else s)

end Sys2Proof.Machine
end

