-- ==== Sys2Proof/Machine/Cwp.lean ====
section
/-! DEFINITION. Causeway ports: training, flits, credits, and retry (R326 to R337). -/
namespace Sys2Proof.Machine

/-! ### States and training (R334, R336) -/

/-- STATE codes (Table 13-6). -/
abbrev pOff : Nat := 0
/-- Training the lanes. -/
abbrev pTrain : Nat := 1
/-- Flits flow. -/
abbrev pUp : Nat := 2
/-- Retraining. -/
abbrev pRetrain : Nat := 3
/-- Failed. -/
abbrev pFailed : Nat := 4

/-- A port's STATE. -/
def State.pState (s : State) (p : Nat) : Nat := s.rd F.CWP_STATUS_STATE p

/-- The port's USR follows its hardware, but while it is out of service. -/
def State.portUsr (s : State) (p st cause : Nat) : State :=
  if s.usr (16 + p) = uQuar ∨ s.usr (16 + p) = uFailed then s else s.usrState (16 + p) st cause

/-- Fenreeve firmware reads a PROFILE = 1 port's module and sets the transmitter's equaliser (R484). -/
def State.moduleSet (s : State) (p : Nat) : State :=
  if s.flag F.CWP_CTL_PROFILE p && s.rd F.FRV_STATUS_BOOT 0 = 1 then s.emit (.other "MODULE_EQ" [p / 4, p % 4]) else s

/-- No lane is locked, and none precodes (Table 13-7). -/
def State.lanesLost (s : State) (p : Nat) : State :=
  (List.range 8).foldl (fun s l => (s.wr F.CWP_LANE_LOCK p 0 l).wr F.CWP_LANE_PRECODE p 0 l) (s.wr F.CWP_STATUS_LANEOK p 0)

/-- The link is down: no credit is held, nothing is known of the peer or the lanes, and what was begun on a port starts anew. -/
def State.linkLost (s : State) (p : Nat) (f : Port → Port) : State :=
  let s1 := (s.lanesLost p).wrs p 0 [(F.CWP_STATUS_X4, 0), (F.CWP_STATUS_HALF, 0), (F.CWP_STATUS_PEERV, 0)]
  let s2 := (List.range 8).foldl (fun s v => (s.wr F.CWP_VC_TXCRED0 p 0 v).wr F.CWP_VC_TXCRED1 p 0 v) s1
  s2.onPort p (fun x => f { Port.reset with queue := x.packets, pseq := x.pseq, scram := x.scram })

/-- A port starts to train: nothing is known of its peer or its lanes; its fabric region runs (R337, R363). -/
def State.portTrain (s : State) (p cause : Nat) : State :=
  let s1 := (s.wrs p 0 [(F.CWP_CTL_EN, 1), (F.CWP_STATUS_STATE, pTrain)]).ungate 4
  ((s1.linkLost p (fun x => { x with attempts := 1 })).portUsr p uBringup cause).moduleSet p

/-- Write CWP.CTL's other fields. -/
def State.putPortCtl (s : State) (p v : Nat) : State :=
  s.wrs p 0 [(F.CWP_CTL_PROFILE, bits v 1 1), (F.CWP_CTL_ALLOW_X4, bits v 2 1)]

/-- Enter RETRAIN (R334); buffers and the retry window are kept, and the codeword pair being sent is lost. -/
def State.portRetrain (s : State) (p : Nat) : State :=
  if s.pState p = pUp then
    ((((s.wr F.CWP_STATUS_STATE p pRetrain).lanesLost p).count F.CWP_CNT_RETRAIN_COUNT p 1).onPort p (fun x => { x with
      quick := true, attempts := 0, pair := [] })).portUsr p uBringup byPath
  else s

/-- PORT_ENABLE (R336): the PF writes CWP.CTL with EN = 1; a port already enabled only takes the other fields. -/
def execPortEnable (p : Fin 16) (val : BitVec 64) (s : State) : Out3 :=
  ok s (if !s.fnTakes 0 || bits val.toNat 0 1 = 0 then s
  else
    let s1 := s.putPortCtl p.val val.toNat
    if s.flag F.CWP_CTL_EN p.val then (if bits val.toNat 3 1 = 1 then s1.portRetrain p.val else s1) else s1.portTrain p.val byDirect)

/-- EN = 0: the lanes are quiet; packets not yet acknowledged stay queued (DEDUCED, unsafe, log entry 30). -/
def State.portDisable (s : State) (p cause : Nat) : State :=
  ((s.wrs p 0 [(F.CWP_CTL_EN, 0), (F.CWP_STATUS_STATE, pOff)]).linkLost p (fun x => x)).portUsr p uOff cause

/-- PORT_DISABLE (R336): the PF writes CWP.CTL with EN = 0. -/
def execPortDisable (p : Fin 16) (val : BitVec 64) (s : State) : Out3 :=
  ok s (if !s.fnTakes 0 || bits val.toNat 0 1 = 1 then s
  else
    let s1 := s.putPortCtl p.val val.toNat
    if s.flag F.CWP_CTL_EN p.val then s1.portDisable p.val byDirect else s1)

/-- PORT_RETRAIN (R334): CWP.CTL.RETRAIN is written. -/
def execPortRetrain (p : Fin 16) (s : State) : Out3 := ok s (if s.fnTakes 0 then s.portRetrain p.val else s)

/-- CODEWORD_LOCK_LOSS (R334). -/
def execCodewordLockLoss (p : Fin 16) (s : State) : Out3 := ok s (s.portRetrain p.val)

/-- REPLAY_LIMIT (R334): the oldest SEQ has been replayed 8 times. -/
def execReplayLimit (p : Fin 16) (s : State) : Out3 := ok s (if 8 ≤ (s.port p.val).replays then s.portRetrain p.val else s)

/-- LINKID_FLIT (R336): the peer's DEVID and port number. -/
def execLinkidFlit (p : Fin 16) (devid : BitVec 64) (port : BitVec 4) (s : State) : Out3 :=
  ok s (if s.pState p.val = pTrain then
    ((s.wrs p.val 0 [(F.CWP_PEER_DEVID_DEVID, devid.toNat), (F.CWP_STATUS_PEER_PORT, port.toNat), (F.CWP_STATUS_PEERV, 1)]).count
      F.CWP_CNT_RXFLIT_COUNT p.val 1).onPort p.val (fun x => { x with linkid := true })
  else s)

/-- Receive buffers of Table 13-4 in flits, by virtual channel. -/
def vcSize (v : Nat) : Nat :=
  match v with
  | 0 | 1 | 7 => 32
  | 2 | 3 | 4 => 16
  | 5 => 2
  | _ => 8

/-- The field of TXCRED of a class. -/
def txCred (cls : Nat) : Fld := if cls = 0 then F.CWP_VC_TXCRED0 else F.CWP_VC_TXCRED1

/-- A link comes up anew: each end holds a credit for every slot of the other's buffers. -/
def State.freshCredits (s : State) (p : Nat) : State :=
  (List.range 8).foldl (fun s v => (s.wr F.CWP_VC_TXCRED0 p (vcSize v) v).wr F.CWP_VC_TXCRED1 p (vcSize v) v)
    (s.onPort p (fun x => { x with peerCred := (List.range 16).map (fun k => (k, vcSize (k / 2))) }))

/-- Lanes a port can run on: all eight, or a whole half when ALLOW_X4 is 1, the lower one first: (X4, HALF). -/
def State.lanesRun (s : State) (p lanes : Nat) : Option (Nat × Nat) :=
  if lanes = 0xFF then some (0, 0)
  else if s.flag F.CWP_CTL_ALLOW_X4 p then
    (if bits lanes 0 4 = 0xF then some (1, 0) else if bits lanes 4 4 = 0xF then some (1, 1) else none)
  else none

/-- TRAINING_COMPLETE (R334, R336): the lanes named are trained and locked; a retrained port replays what is not acknowledged. -/
def execTrainingComplete (p : Fin 16) (lanes precode : BitVec 8) (s : State) : Out3 :=
  ok s (match s.lanesRun p.val lanes.toNat with
    | none => s
    | some (x4, half) =>
      let fresh := s.pState p.val = pTrain && (s.port p.val).linkid
      if !(fresh || s.pState p.val = pRetrain) then s
      else
        let s1 := s.wrs p.val 0 [(F.CWP_STATUS_STATE, pUp), (F.CWP_STATUS_X4, x4), (F.CWP_STATUS_HALF, half), (F.CWP_STATUS_LANEOK, lanes.toNat)]
        let s2 := (List.range 8).foldl (fun s l => (s.wr F.CWP_LANE_LOCK p.val (bits lanes.toNat l 1) l).wr F.CWP_LANE_PRECODE p.val (bits precode.toNat l 1) l) s1
        let s3 := if fresh then s2.freshCredits p.val
          else s2.onPort p.val (fun x => { x with replay := if x.window = [] then none else some 0, rxBad := false, nakDue := false })
        (s3.onPort p.val (fun x => { x with rxPos := 0, rxUe := (false, false) })).portUsr p.val uOnline byPath)

/-- An attempt of full training fails: another follows, or after three the port is FAILED and reports to the FLT. -/
def State.attemptFails (s : State) (p : Nat) : State :=
  if (s.port p).attempts < 3 then s.onPort p (fun x => { x with attempts := x.attempts + 1, linkid := if s.pState p = pTrain then false else x.linkid })
  else (s.wr F.CWP_STATUS_STATE p pFailed).report 0x22 (16 + p) 0

/-- TRAINING_ATTEMPT_TIMEOUT (R334, R336): 500 ms of full training have passed. -/
def execTrainingAttemptTimeout (p : Fin 16) (s : State) : Out3 :=
  ok s (if s.pState p.val = pTrain ∨ (s.pState p.val = pRetrain ∧ !(s.port p.val).quick) then s.attemptFails p.val else s)

/-- RETRAIN_TIMEOUT (R334): quick retraining has not completed in 1 ms, and the port trains in full. -/
def execRetrainTimeout (p : Fin 16) (s : State) : Out3 :=
  ok s (if s.pState p.val = pRetrain ∧ (s.port p.val).quick then s.onPort p.val (fun x => { x with quick := false, attempts := 1 }) else s)

/-! ### Receive buffers and credits (R331) -/

/-- Slots of a port's receive buffer in use. -/
def State.heldFlits (s : State) (p v cls : Nat) : Nat :=
  (s.rx.filter (fun k => k.port = p && k.vc = v && k.dl = cls)).foldl (fun n k => n + flitsOf k.bytes) 0 +
    (match (s.port p).parts.find? v with | some k => if k.dl = cls then k.flits else 0 | none => 0)

/-- Credits due back to the peer, as (virtual channel, class, flits). -/
def State.dueCredits (s : State) (p : Nat) : List (Nat × Nat × Nat) :=
  (List.range 16).filterMap (fun k =>
    let n := vcSize (k / 2) - (s.port p).peerCred.getD k 0 - s.heldFlits p (k / 2) (k % 2)
    if n = 0 then none else some (k / 2, k % 2, n))

/-! ### Sending (R327, R331, R332) -/

/-- A flit with no payload. -/
def Flit.idle : Flit := ⟨0, false, false, false, 0, 0, 0, 0, .idle, 0, 0, false, false, [], []⟩

/-- The lanes a port runs on; in TRAINING all eight (DESIGN CHOICE, unsafe, log entry 46). -/
def State.lanes (s : State) (p : Nat) : List Nat :=
  if s.flag F.CWP_STATUS_X4 p then (List.range 4).map (fun l => l + 4 * s.rd F.CWP_STATUS_HALF p) else List.range 8

/-- Five flits fill a codeword pair: its symbols go round-robin to the lanes (R327). -/
def State.sendPair (s : State) (p : Nat) : State :=
  let x := s.port p
  let w := pairWords x.pseq x.scram x.pair
  let ls := s.lanes p
  let s1 := ls.zipIdx.foldl (fun s l => s.emit (.lane p l.1 (laneOf ls.length l.2 w.1.1 ++ laneOf ls.length l.2 w.1.2))) s
  s1.onPort p (fun x => { x with pair := [], pseq := (x.pseq + 1) % 2 ^ 24, scram := w.2 })

/-- A flit leaves, in its codeword pair. -/
def State.putFlit (s : State) (p : Nat) (f : Flit) : State :=
  let s1 := ((s.count F.CWP_CNT_TXFLIT_COUNT p 1).emit (.flit p f.word)).onPort p (fun x => { x with pair := x.pair ++ [f.word] })
  if 5 ≤ (s1.port p).pair.length then s1.sendPair p else s1

/-- Send a flit: it carries the acknowledgement, a due NAK, and up to two credit returns. -/
def State.sendFlit (s : State) (p : Nat) (f : Flit) : State :=
  let x := s.port p
  let creds := (s.dueCredits p).take 2
  (s.onPort p (fun x => { x with
    owed := 0
    nakDue := false
    peerCred := creds.foldl (fun (m : SMap Nat) c => m.put (c.1 * 2 + c.2.1) (m.getD (c.1 * 2 + c.2.1) 0 + c.2.2)) x.peerCred })).putFlit p
      { f with ack := (x.rxSeq + 4095) % 4096, ackv := x.rxSeen, nak := x.nakDue, creds := creds }

/-- A TIME flit leaves: hardware inserts the departure time of SYNC and DREQ, and a DREQ's is kept (Table 14-1, R356). -/
def State.sendTime (s : State) (p : Nat) (info : List Nat) : State :=
  let stamped := match info with
    | t :: x :: _ :: _ :: l => if t = 1 ∨ t = 2 then t :: x :: s.ns % 2 ^ 64 :: s.frac :: l else info
    | l => l
  let s1 := (s.onPort p (fun x => { x with time := x.time.drop 1 })).wr F.CWP_VC_TXCRED0 p (s.rd F.CWP_VC_TXCRED0 p 5 - 1) 5
  let s2 : State := match info.head?, s1.tbu.exch with
    | some 2, some e => { s1 with tbu := { s1.tbu with exch := some { e with t3 := s.ns * 2 ^ 32 + s.frac } } }
    | _, _ => s1
  s2.sendFlit p { Flit.idle with vc := 5, ftype := .time, plen := 32, srank := s.rank, payload := timeBytes stamped }

/-- The packet of a virtual channel a port sends next: the first queued. -/
def Port.head (x : Port) (v : Nat) : Option TxPkt := x.queue.find? (fun k => k.vc = v)

/-- A virtual channel has a DATA flit ready: a packet begun, or one whose credits are all held. -/
def State.vcReady (s : State) (p v : Nat) : Bool :=
  match (s.port p).head v with
  | none => false
  | some k => (s.port p).window.length < 512 && (k.sent ≠ 0 || decide (k.flits ≤ s.rd (txCred k.dl) p v))

/-- Replace the first packet of a virtual channel, or take it out. -/
def replaceHead (v : Nat) (n : Option TxPkt) : List TxPkt → List TxPkt
  | [] => []
  | k :: l => if k.vc = v then n.toList ++ l else k :: replaceHead v n l

/-- The next flit of a packet begun or to begin: 240 bytes of it, but in its last (R329). -/
def TxPkt.flit (k : TxPkt) (seq : Nat) : Flit :=
  let part := (k.wire.drop (240 * k.sent)).take 240
  { Flit.idle with
    vc := k.vc, sop := decide (k.sent = 0), eop := decide (k.sent + 1 = k.flits), poison := k.poison, dl := k.dl, plen := part.length
    drank := k.drank, srank := k.srank, ftype := .data, seq := seq, payload := part }

/-- Send the next DATA flit of a virtual channel; its packet's first flit takes the credits of all. -/
def State.sendData (s : State) (p v : Nat) : State :=
  match (s.port p).head v with
  | none => s
  | some k =>
    let last := decide (k.sent + 1 = k.flits)
    let s1 := if k.sent = 0 then s.wr (txCred k.dl) p (s.rd (txCred k.dl) p v - k.flits) v else s
    let f := k.flit (s.port p).txSeq
    (s1.onPort p (fun x => { x with
      queue := replaceHead v (if last then none else some { k with sent := k.sent + 1 }) x.queue
      window := x.window ++ [⟨f, if last then some k else none⟩]
      txSeq := (x.txSeq + 1) % 4096 })).sendFlit p f

/-- Weights of the rotation (Table 13-4), in its order. -/
def vcWeights : List (Nat × Nat) := [(0, 2), (1, 4), (2, 2), (3, 4), (4, 4), (7, 1)]

/-- The virtual channel the rotation serves: the current one while its weight lasts, else the next that is ready, with its weight. -/
def State.rotate (s : State) (p : Nat) : Option (Nat × Nat) :=
  let x := s.port p
  let ws := vcWeights.filter (fun w => w.1 > x.rotVc) ++ vcWeights.filter (fun w => w.1 ≤ x.rotVc)
  if 0 < x.rotLeft && s.vcReady p x.rotVc then some (x.rotVc, x.rotLeft - 1)
  else (ws.find? (fun w => s.vcReady p w.1)).map (fun w => (w.1, w.2 - 1))

/-- Replay the next flit of the retry window. -/
def State.sendReplay (s : State) (p i : Nat) : State :=
  match (s.port p).window[i]? with
  | none => s.onPort p (fun x => { x with replay := none })
  | some w =>
    ((s.onPort p (fun x => { x with replay := if i + 1 < x.window.length then some (i + 1) else none })).count F.CWP_CNT_REPLAY_COUNT p 1).sendFlit p w.flit

/-- What follows TIME in a flit time: a replay, MGMT, the rotation, or IDLE. A port out of service sends no new DATA flit. -/
def State.transmitData (s : State) (p : Nat) : State :=
  let fresh := s.unitIn (16 + p)
  match (s.port p).replay with
  | some i => s.sendReplay p i
  | none =>
    if fresh && s.vcReady p 6 then s.sendData p 6
    else match (if fresh then s.rotate p else none) with
      | some (v, n) => (s.onPort p (fun x => { x with rotVc := v, rotLeft := n })).sendData p v
      | none => s.sendFlit p .idle

/-- One flit time of an output port (R331, R332): a TIME flit when one is ready and a credit is held, else the rest. -/
def State.transmit (s : State) (p : Nat) : State :=
  match (s.port p).time with
  | info :: _ => if 1 ≤ s.rd F.CWP_VC_TXCRED0 p 5 then s.sendTime p info else s.transmitData p
  | [] => s.transmitData p

/-- A flit time of a port in TRAINING: it tells its peer its DEVID and port number (R328, R336). -/
def State.sendLinkid (s : State) (p : Nat) : State :=
  s.putFlit p { Flit.idle with ftype := .linkid, plen := 9, srank := s.rank, payload := linkidBytes (s.rd F.FEN_DEVID_DEVID 0) p }

/-- FLIT_TRANSMIT (R331): a SIGNAL's write that the port has now taken completes (Table 8-5, R388). -/
def execFlitTransmit (p : Fin 16) (s : State) : Out3 :=
  ok s (if s.pState p.val = pUp then (s.transmit p.val).signalsDone else if s.pState p.val = pTrain then s.sendLinkid p.val else s)

/-- ACK_TIMER (R332): good flits wait for their acknowledgement, and an IDLE flit carries it. -/
def execAckTimer (p : Fin 16) (s : State) : Out3 :=
  ok s (if s.pState p.val = pUp ∧ (s.port p.val).owed ≠ 0 then s.sendFlit p.val .idle else s)

/-! ### Receiving (R328, R332, R333, R335) -/

/-- Flits up to an acknowledged SEQ leave the retry window; a NAK replays what is left, all of it where no SEQ is acknowledged yet. -/
def State.acked (s : State) (p : Nat) (f : Flit) : State :=
  if !f.ackv && !f.nak then s
  else s.onPort p (fun x =>
    let k := if !f.ackv then 0 else match firstIdx (fun w => decide (w.flit.seq = f.ack)) x.window 0 with | some i => i + 1 | none => 0
    let w := x.window.drop k
    { x with
      window := w
      replays := if k ≠ 0 then (if f.nak && w ≠ [] then 1 else 0) else if f.nak && w ≠ [] then x.replays + 1 else x.replays
      replay := if f.nak then (if w = [] then none else some 0)
        else match x.replay with | some i => if w.length ≤ i - k then none else some (i - k) | none => none })

/-- Credit returns raise TXCRED, up to the buffer's size. -/
def State.credited (s : State) (p : Nat) (f : Flit) : State :=
  f.creds.foldl (fun s c => s.wr (txCred c.2.1) p (min (s.rd (txCred c.2.1) p c.1 + c.2.2) (vcSize c.1)) c.1) s

/-- A packet of a failed or fenced rank is not accepted (R431). -/
def State.refuses (s : State) (d : Nat) : Bool := s.failed d || s.flt.fences.any (fun f => f.party = .path d || f.party = .rank d)

/-- The tile of a rank that sent a unit. -/
def NetMsg.origin : NetMsg → Nat × Nat
  | .msg _ _ _ src _ | .grantReq src _ _ _ | .allotRet src _ => (src.rank, src.tile)
  | .credit _ q | .grantRep _ q _ _ | .placed _ q _ => (q.rank, q.tile)

/-- Tiles of other ranks that were lost are heard from again. -/
def State.heard (s : State) (l : List (Nat × Nat)) : State := { s with flt := { s.flt with gone := s.flt.gone.filter (fun g => !l.contains g) } }

/-- What a unit that passes says of a multicast group's members (R265). -/
def State.learn (s : State) (p : Nat) (m : NetMsg) : State :=
  let others (src : Peer) (q : QRef) : List (Nat × Peer × QRef) := s.mroute.filter (fun e => !(decide (e.2.1 = src) && decide (e.2.2 = q)))
  match m with
  | .grantReq src q _ _ => if src.grp then { s with mroute := others src q ++ [(s.nextDev p, src, q)] } else s
  | .allotRet src q | .grantRep src q (some _) _ => { s with mroute := others src q }
  | _ => s

/-- A multicast arrives: a copy for each member here, and the packet waits to go on where members lie further on (R265). -/
def State.mcastIn (s : State) (k : RxPkt) (hdr : Nat) (pl : List Byte) (b : Bool) (src : Peer) : State :=
  let ms := s.mcastTo k.port src hdr
  let here (q : QRef) : Bool := decide (q.rank = s.rank) && (q.queue = (Hdr.of hdr).dq && q.tile = (Hdr.of hdr).dtile ||
    (s.queue (tileOf q.tile) q.queue).allots.any (fun a => decide (a.src = src)))
  let s1 := (ms.filter here).foldl (fun s q => s.netPut (.msg (copyFor hdr q) pl b src none)) s
  match ms.find? (fun q => decide (q.rank ≠ s.rank)) with
  | none => s1
  | some d => { s1 with rx := s1.rx ++ [{ k with drank := d.rank, pkt := .lode (.msg hdr pl b src none) }] }

/-- A unit between LEPs arrives for a tile here. -/
def State.lodeIn (s : State) (m : NetMsg) : State := (s.heard [m.origin]).netPut m

/-- A whole packet has arrived: units between LEPs go to them, FLT and Fenreeve messages to their receivers, the rest wait; bytes that are no
packet of Table 13-3 are discarded. -/
def State.packetIn (s : State) (k : RxPkt) : State :=
  if s.refuses k.srank then s
  else
    let s1 := match k.pkt with | .lode m => s.learn k.port m | _ => s
    match k.pkt with
    | .lode (.msg h pl b src op) =>
      if src.grp then (s1.heard [(src.rank, src.tile)]).mcastIn k h pl (b || k.poison) src
      else if k.drank = s.rank then s1.lodeIn (.msg h pl (b || k.poison) src op)
      else { s1 with rx := s1.rx ++ [k] }
    | .lode m => if k.drank = s.rank then s1.lodeIn m else { s1 with rx := s1.rx ++ [k] }
    | .red r =>
      if k.drank = s.rank then
        { s1.heard (((List.range 8).filter (fun t => bits (rgdTiles r.rgd) t 1 = 1)).map (fun t => (r.rank, t))) with rx := s1.rx ++ [k] }
      else { s1 with rx := s1.rx ++ [k] }
    | .mgmt _ _ | .raw _ => if k.drank = s.rank then s1 else { s1 with rx := s1.rx ++ [k] }
    | _ => { s1 with rx := s1.rx ++ [k] }

/-- A good DATA flit in sequence joins its packet (R329, R331). -/
def State.flitJoins (s : State) (p : Nat) (f : Flit) : State :=
  let key := f.vc * 2 + f.dl % 2
  let bs := f.payload.take f.plen
  let part : RxPart := match f.sop, (s.port p).parts.find? f.vc with
    | false, some k => { k with poison := k.poison || f.poison, bytes := k.bytes ++ bs, flits := k.flits + 1 }
    | _, _ => ⟨f.dl % 2, f.drank, f.srank, f.poison, bs, 1⟩
  let s1 := s.onPort p (fun x => { x with
    rxSeq := (x.rxSeq + 1) % 4096
    rxSeen := true
    rxBad := false
    owed := x.owed + 1
    peerCred := x.peerCred.put key (x.peerCred.getD key 0 - 1)
    parts := if f.eop then x.parts.erase f.vc else x.parts.put f.vc part })
  let s2 := if f.eop then
      s1.packetIn ⟨p, f.vc, part.dl, part.drank, part.srank, part.poison, part.bytes.length, .parse f.vc part.bytes part.poison⟩
    else s1
  if 16 ≤ (s2.port p).owed then s2.sendFlit p .idle else s2

/-- A bad flit: counted once until the replay arrives, and answered with a NAK. -/
def State.badFlit (s : State) (p : Nat) : State :=
  (s.count F.CWP_CNT_BADFLIT_COUNT p 1).onPort p (fun x => { x with rxBad := true, nakDue := true })

/-! ### Codewords and the time protocol's loss (R326, R327, R356) -/

/-- A codeword's symbol errors by lane: up to 15 are corrected, and counted on their lanes (R326, Table 13-7). -/
def State.codeword (s : State) (p : Nat) (err : List Nat) : State :=
  if 15 < err.sum then s.count F.CWP_CNT_FEC_UE_COUNT p 1
  else if err.sum = 0 then s
  else ((err.take 8).zipIdx.foldl (fun s k => s.count F.CWP_LANE_SYMERR p k.1 k.2) s).count F.CWP_CNT_FEC_CE_COUNT p 1

/-- Move to the next flit of the pair: the first codeword ends in flit 2 and holds flits 0 and 1 whole, the second holds 3 and 4, and its
errors are known with flit 2. -/
def Port.nextFlit (x : Port) (err : List Nat) : Port :=
  { x with
    rxPos := (x.rxPos + 1) % 5
    rxUe := if x.rxPos = 0 then (decide (15 < err.sum), false) else if x.rxPos = 2 then (x.rxUe.1, decide (15 < err.sum)) else x.rxUe }

/-- A codeword of the flit at a place of its pair did not decode. -/
def flitUe (pos : Nat) (ue : Bool × Bool) : Bool := if pos ≤ 1 then ue.1 else if pos = 2 then ue.1 || ue.2 else ue.2

/-- FEN.STATUS.STATE. -/
def State.fenState (s : State) : Nat := s.rd F.FEN_STATUS_STATE 0

/-- The device takes part in a time tree. -/
def State.inTree (s : State) : Bool := s.fenState = 2 || s.fenState = 3

/-- A port is the parent port, or the parallel port of the route to the Tidemaster. -/
def State.isParent (s : State) (p : Nat) : Bool :=
  s.inTree && !s.flag F.TBU_STATUS_MASTER 0 &&
    (p = s.rd F.TBU_STATUS_PPORT 0 || (s.flag F.FEN_ROUTE_PAIR 0 (s.rd F.TBU_STATUS_MRANK 0) && p = s.rd F.FEN_ROUTE_PORT2 0 (s.rd F.TBU_STATUS_MRANK 0)))

/-- An exchange is rejected: nothing is applied, and the run of good exchanges ends. -/
def State.rejectX (s : State) : State :=
  let s1 := s.count F.TBU_CNT_REJECT_COUNT 0 1
  { s1 with tbu := { s1.tbu with exch := none, good := 0 } }

/-- A flit of an exchange is lost. -/
def State.lostX (s : State) : State := (s.count F.TBU_CNT_LOSTX_COUNT 0 1).rejectX

/-- A bad TIME flit is discarded and counted (R333); from the parent, its exchange is lost (R356). -/
def State.timeDrop (s : State) (p : Nat) : State :=
  let s1 := s.count F.CWP_CNT_TIMEDROP_COUNT p 1
  if s1.isParent p then s1.lostX else s1

/-- A flit at a port in UP; `good` says that its codewords decoded, its CRC matches and no RSV bit is set. -/
def State.flitIn (s : State) (p : Nat) (f : Flit) (good : Bool) : State :=
  match f.ftype with
  | .time =>
    if good && f.timeOk then
      ((s.acked p f).credited p f).onPort p (fun x => { x with peerCred := x.peerCred.put 10 (x.peerCred.getD 10 0 - 1) })
    else s.timeDrop p
  | .reserved => s.badFlit p
  | .idle | .linkid => if good then (s.acked p f).credited p f else s.badFlit p
  | .data =>
    if !good then s.badFlit p
    else
      let s1 := (s.acked p f).credited p f
      if f.seq = (s.port p).rxSeq then s1.flitJoins p f
      else if (s.port p).rxBad then s1
      else s1.badFlit p

/-- FLIT_RECEIVE (R327, R332, R333): the next flit of the port's codeword pairs, with the symbol errors by lane of the codeword whose decoding it
waits for, the first with flit 0 and the second with flit 2. -/
def execFlitReceive (p : Fin 16) (head : BitVec 96) (payload : BitVec 1920) (crc : BitVec 32) (err : List Nat) (s : State) : Out3 :=
  ok s (if s.pState p.val = pUp then
    let w := flitWord head payload crc
    let pos := (s.port p.val).rxPos
    let s1 := ((if pos = 0 ∨ pos = 2 then s.codeword p.val err else s).onPort p.val (fun x => x.nextFlit err)).count F.CWP_CNT_RXFLIT_COUNT p.val 1
    s1.flitIn p.val (.of w) (!flitUe pos (s1.port p.val).rxUe && flitCrc w && flitRsv w)
  else s)

end Sys2Proof.Machine
end

