-- ==== Sys2Proof/Machine/Fen.lean ====
section
/-! DEFINITION. Fen formation and dissolution: the connection graph, ranks, routes and port maps, and the messages of Fenreeve (R338 to R342,
R354, R462). -/
namespace Sys2Proof.Machine

/-! ### The connection graph -/

/-- The devices heard, by ascending DEVID; a device is named by its place. -/
abbrev Graph := List Hello

/-- Insert a HELLO by DEVID. -/
def insHello (h : Hello) : List Hello → List Hello
  | [] => [h]
  | g :: l => if h.devid < g.devid then h :: g :: l else if h.devid = g.devid then h :: l else g :: insHello h l

/-- The place of a DEVID. -/
def Graph.at (g : Graph) (devid : Nat) : Option Nat := firstIdx (fun h => decide (h.devid = devid)) g 0

/-- Links of device u, as (port, device), by ascending port. -/
def Graph.links (g : Graph) (u : Nat) : List (Nat × Nat) :=
  match g[u]? with
  | none => []
  | some h => (List.range 16).filterMap (fun p =>
      match h.links.find? (fun l => l.1 = p) with
      | some l => (g.at l.2.1).bind (fun v => if v = u then none else some (p, v))
      | none => none)

/-- Neighbours of u, in the order of their lowest ports. -/
def Graph.nbrs (g : Graph) (u : Nat) : List Nat := ((g.links u).map (·.2)).eraseDups

/-- Ports of u toward v. -/
def Graph.portsTo (g : Graph) (u v : Nat) : List Nat := ((g.links u).filter (fun l => l.2 = v)).map (·.1)

/-- v is a neighbour of u. -/
def Graph.adj (g : Graph) (u v : Nat) : Bool := (g.nbrs u).contains v

/-! ### Rings and tori (R339, R340) -/

/-- Ways to pair the neighbours of the leader into dimensions: each as (positive, negative) neighbour, a dimension's positive neighbour being
the one on the lower port, and the dimensions in the order of those ports. -/
def pairings : Nat → List Nat → List (List (Nat × Nat))
  | 0, l => if l.isEmpty then [[]] else []
  | _, [] => [[]]
  | k + 1, a :: l => l.flatMap (fun b => (pairings k (l.filter (fun c => decide (c ≠ b)))).map (fun r => (a, b) :: r))

/-- Walk a ring: from `u` by `v` on, straight ahead, until the origin. At each device the way ahead is the one neighbour that is not behind and not
beside a neighbour to the side of the device behind. -/
def Graph.ring (g : Graph) (o : Nat) : Nat → Nat → Nat → List Nat → Option (List Nat)
  | 0, _, _, _ => none
  | k + 1, u, v, sides =>
    if v = o then some []
    else
      match (g.nbrs v).filter (fun w => decide (w ≠ u) && !sides.any (fun x => g.adj x w)) with
      | [w] => (Graph.ring g o k v w ((g.nbrs v).filter (fun x => decide (x ≠ u) && decide (x ≠ w)))).map (fun l => v :: l)
      | _ => none

/-- The ring of a dimension through the origin, in coordinate order. -/
def Graph.axis (g : Graph) (o : Nat) (d : Nat × Nat) : Option (List Nat) :=
  match g.ring o 17 o d.1 ((g.nbrs o).filter (fun x => decide (x ≠ d.1) && decide (x ≠ d.2))) with
  | some l => if l.getLast? = some d.2 ∧ 2 ≤ l.length ∧ l.length ≤ 15 then some (o :: l) else none
  | none => none

/-- The device at given coordinates, from those before it: on an axis, or the common neighbour of two devices before it that is not the device
before both. `cells` lists devices by their linear coordinate so far. -/
def Graph.cell (g : Graph) (axes : List (List Nat)) (cells : List Nat) (xs ms : List Nat) : Option Nat :=
  let nz := ((xs.zip ms).zipIdx).filter (fun p => decide (p.1.1 ≠ 0))
  let lin := (xs.zip ms).foldl (fun n p => n + p.1 * p.2) 0
  match nz with
  | [] => axes.head?.bind (·.head?)
  | [p] => (axes[p.2]?).bind (fun l => l[p.1.1]?)
  | p :: q :: _ =>
    match cells[lin - p.1.2]?, cells[lin - q.1.2]?, cells[lin - p.1.2 - q.1.2]? with
    | some a, some b, some c =>
      match (g.nbrs a).filter (fun w => decide (w ≠ c) && g.adj b w) with
      | [w] => some w
      | _ => none
    | _, _, _ => none

/-- Coordinates of a linear coordinate. -/
def coordsOf (ds : List Nat) (n : Nat) : List Nat :=
  match ds with
  | [] => []
  | d :: l => n % d :: coordsOf l (n / d)

/-- The linear coordinate of coordinates. -/
def linearOf (ds xs : List Nat) : Nat :=
  match ds, xs with
  | d :: l, x :: r => x + d * linearOf l r
  | _, _ => 0

/-- Steps between coordinates of successive dimensions. -/
def strides (ds : List Nat) : List Nat := (List.range ds.length).map (fun i => (ds.take i).foldl (· * ·) 1)

/-- Change one coordinate by one step, around its ring. -/
def stepCoord (ds xs : List Nat) (i : Nat) (pos : Bool) : List Nat :=
  let d := ds.getD i 1
  xs.set i ((xs.getD i 0 + (if pos then 1 else d - 1)) % d)

/-- A ring or torus: its sizes, and the devices by linear coordinate. -/
structure Torus where
  ds : List Nat
  cells : List Nat
  deriving DecidableEq, Repr

/-- The device a step away. -/
def Torus.next (t : Torus) (n i : Nat) (pos : Bool) : Nat := t.cells.getD (linearOf t.ds (stepCoord t.ds (coordsOf t.ds n) i pos)) 0

/-- Every device stands once, and has just the neighbours of its place, each on one or two ports. -/
def Torus.good (g : Graph) (t : Torus) : Bool :=
  t.cells.length = g.length && t.cells.eraseDups.length = g.length &&
    (List.range t.cells.length).all (fun n =>
      let u := t.cells.getD n 0
      let vs := (List.range t.ds.length).flatMap (fun i => [t.next n i true, t.next n i false])
      (g.nbrs u).length = vs.length && vs.all (fun v => g.adj u v && (g.portsTo u v).length ≤ 2))

/-- The torus of one pairing. -/
def Graph.torusOf (g : Graph) (o : Nat) (ps : List (Nat × Nat)) : Option Torus :=
  let axes := ps.filterMap (g.axis o)
  if axes.length ≠ ps.length then none
  else
    let ds := axes.map List.length
    let n := ds.foldl (· * ·) 1
    if n ≠ g.length then none
    else
      let cells := (List.range n).foldl (fun (c : Option (List Nat)) k =>
        c.bind (fun l => (g.cell axes l (coordsOf ds k) (strides ds)).map (fun w => l ++ [w]))) (some [])
      cells.bind (fun l => if Torus.good g ⟨ds, l⟩ then some ⟨ds, l⟩ else none)

/-- The graph as a ring or torus from the leader's origin (R340). -/
def Graph.torus (g : Graph) (o : Nat) : Option Torus :=
  let ns := g.nbrs o
  if ns.length = 2 ∨ ns.length = 4 ∨ ns.length = 6 then (pairings 3 ns).findSome? (g.torusOf o) else none

/-! ### Routes (R340) -/

/-- The first step of a torus route: the first dimension that differs, the shorter way round, the positive way on a tie. -/
def Torus.step (t : Torus) (a b : Nat) : Option (Nat × Bool) :=
  let xs := coordsOf t.ds a
  let ys := coordsOf t.ds b
  ((List.range t.ds.length).find? (fun i => xs.getD i 0 ≠ ys.getD i 0)).map (fun i =>
    let d := t.ds.getD i 1
    (i, decide (2 * ((ys.getD i 0 + d - xs.getD i 0) % d) ≤ d)))

/-- Hops of a torus route. -/
def Torus.hops (t : Torus) (a b : Nat) : Nat :=
  let xs := coordsOf t.ds a
  let ys := coordsOf t.ds b
  ((List.range t.ds.length).map (fun i =>
    let d := t.ds.getD i 1
    let f := (ys.getD i 0 + d - xs.getD i 0) % d
    min f (d - f))).foldl (· + ·) 0

/-- The device itself in its table. -/
def RouteEnt.self : RouteEnt := ⟨0, 0, false, true, true, 0, 0⟩

/-- The route of device u to device v in a torus. -/
def Torus.route (g : Graph) (t : Torus) (u v : Nat) : RouteEnt :=
  if u = v then .self
  else
    let a := (firstIdx (fun w => decide (w = u)) t.cells 0).getD 0
    let b := (firstIdx (fun w => decide (w = v)) t.cells 0).getD 0
    match t.step a b with
    | none => .self
    | some (i, pos) =>
      let ps := g.portsTo u (t.next a i pos)
      ⟨ps.headD 0, ps.getD 1 0, decide (2 ≤ ps.length), true, false, t.hops a b, 0⟩

/-- PORTMAP of device u in a torus: dimension, DATELINE, UPLINK. -/
def Torus.portmap (g : Graph) (t : Torus) (u : Nat) : List (Nat × Bool × Bool) :=
  let a := (firstIdx (fun w => decide (w = u)) t.cells 0).getD 0
  (List.range 16).map (fun p =>
    match (g.links u).find? (fun l => l.1 = p) with
    | none => (3, false, false)
    | some (_, v) =>
      match (List.range t.ds.length).find? (fun i => t.next a i true = v || t.next a i false = v) with
      | none => (3, false, false)
      | some i =>
        let x := (coordsOf t.ds a).getD i 0
        let last := t.ds.getD i 1 - 1
        (i, (t.next a i true = v && x = last) || (t.next a i false = v && x = 0), false))

/-- Distances from rank 0 over the graph, breadth first: one round each. -/
def Graph.levels (g : Graph) : Nat → List Nat → Nat → SMap Nat → SMap Nat
  | 0, _, _, m => m
  | k + 1, front, d, m =>
    let m1 := front.foldl (fun (m : SMap Nat) u => if (m.find? u).isNone then m.put u d else m) m
    Graph.levels g k (((front.flatMap g.nbrs).filter (fun v => (m1.find? v).isNone)).eraseDups) (d + 1) m1

/-- The link from u to v leads up: to the lower level, and within a level to the lower rank. -/
def linkUp (lv rk : SMap Nat) (u v : Nat) : Bool :=
  decide (lv.getD v 999 < lv.getD u 999) || (decide (lv.getD v 999 = lv.getD u 999) && decide (rk.getD v 0 < rk.getD u 0))

/-- Hops of the shortest path to v that takes no up link after a down link: a device that may still go up has the entry 2u, one that may only go
down 2u + 1. Rounds of relaxation back from v. -/
def Graph.toward (g : Graph) (lv rk : SMap Nat) (v : Nat) : Nat → SMap Nat → SMap Nat
  | 0, m => m
  | k + 1, m =>
    let m1 := (List.range g.length).foldl (fun (m1 : SMap Nat) u =>
      if u = v then m1 else
      (g.nbrs u).foldl (fun (m1 : SMap Nat) w =>
        let up := linkUp lv rk u w
        let better (key d : Nat) (m1 : SMap Nat) : SMap Nat := if d < m1.getD key 9999 then m1.put key d else m1
        if up then better (2 * u) (m.getD (2 * w) 9999 + 1) m1
        else better (2 * u + 1) (m.getD (2 * w + 1) 9999 + 1) (better (2 * u) (m.getD (2 * w + 1) 9999 + 1) m1)) m1) m
    Graph.toward g lv rk v k m1

/-- The up/down route of u to v: the lowest port that starts a shortest path. -/
def Graph.upDown (g : Graph) (lv rk : SMap Nat) (u v : Nat) : RouteEnt :=
  if u = v then .self
  else
    let m := g.toward lv rk v (2 * g.length) [(2 * v, 0), (2 * v + 1, 0)]
    let h := m.getD (2 * u) 9999
    if 9999 ≤ h then ⟨0, 0, false, false, false, 0, 0⟩
    else match (g.links u).find? (fun l => (if linkUp lv rk u l.2 then m.getD (2 * l.2) 9999 else m.getD (2 * l.2 + 1) 9999) + 1 = h) with
      | some l => ⟨l.1, 0, false, true, false, h, 0⟩
      | none => ⟨0, 0, false, false, false, 0, 0⟩

/-- PORTMAP of device u under up/down routing. -/
def Graph.upPorts (g : Graph) (lv rk : SMap Nat) (u : Nat) : List (Nat × Bool × Bool) :=
  (List.range 16).map (fun p =>
    match (g.links u).find? (fun l => l.1 = p) with
    | none => (3, false, false)
    | some l => (3, false, linkUp lv rk u l.2))

/-! ### The leader's plan (R338, R339) -/

/-- The devices by rank: by the plan, else by coordinates, else by DEVID. -/
def rankOrder (g : Graph) (t : Option Torus) (plan : Option (List Nat)) : List Nat :=
  match plan, t with
  | some l, _ => l.filterMap g.at
  | none, some t => t.cells
  | none, none => List.range g.length

/-- The far port of a link. -/
def Graph.farPort (g : Graph) (u p : Nat) : Nat :=
  match g[u]? with
  | some h => (match h.links.find? (fun l => l.1 = p) with | some l => l.2.2 | none => 16)
  | none => 16

/-- The ports of device u whose far devices' routes to v begin over the link (R354). -/
def Graph.kidPorts (g : Graph) (route : Nat → Nat → RouteEnt) (u v : Nat) : Nat :=
  (g.links u).foldl (fun m l =>
    let r := route l.2 v
    if r.valid && !r.isLocal && r.port = g.farPort u l.1 then m + 2 ^ l.1 else m) 0

/-- What the leader at place o sends each member, in rank order (DESIGN CHOICE, unsafe, log entry 31). -/
def planFen (g : Graph) (o : Nat) (plan : Option (List Nat)) : List Assignment :=
  let t := if g.length ≤ 1 then none else g.torus o
  let order := rankOrder g t plan
  let rk : SMap Nat := order.zipIdx.foldl (fun (m : SMap Nat) p => m.put p.1 p.2) []
  let lv := if t.isSome then [] else g.levels (g.length + 1) [order.headD 0] 0 []
  let route (u v : Nat) : RouteEnt := match t with | some t => t.route g u v | none => g.upDown lv rk u v
  let dim (i : Nat) : Nat := match t with | some t => (t.ds.getD i 1) - 1 | none => 0
  order.zipIdx.map (fun p =>
    { devid := match g[p.1]? with | some h => h.devid | none => 0
      rank := p.2
      size := g.length
      members := 2 ^ g.length - 1
      shape := if g.length ≤ 1 then 0 else if t.isSome then 1 else 2
      dx := dim 0
      dy := dim 1
      dz := dim 2
      portmap := match t with | some t => t.portmap g p.1 | none => g.upPorts lv rk p.1
      routes := order.map (fun v => { route p.1 v with kids := g.kidPorts route p.1 v })
      leader := rk.getD o 0 })

/-! ### Formation -/

/-- Fenreeve firmware runs (R404, R420). -/
def State.fwRuns (s : State) : Bool := s.rd F.FRV_STATUS_BOOT 0 = 1

/-- This device's own DEVID. -/
def State.devid (s : State) : Nat := s.rd F.FEN_DEVID_DEVID 0

/-- The HELLO of this device: each UP port's peer and peer port. -/
def State.ownHello (s : State) : Hello :=
  ⟨s.devid, s.rd F.FEN_STATUS_FEPOCH 0, s.rd F.TBU_CTL_TMPRIO 0, s.fen.hellos.map (·.devid),
    (List.range 16).filterMap (fun p =>
      if s.pState p = pUp ∧ s.flag F.CWP_STATUS_PEERV p then some (p, s.rd F.CWP_PEER_DEVID_DEVID p, s.rd F.CWP_STATUS_PEER_PORT p) else none)⟩

/-- A HELLO as message data: DEVID, FEPOCH, TMPRIO, the number of DEVIDs heard, those, then the links. -/
def Hello.data (h : Hello) : List Nat :=
  [h.devid, h.fepoch, h.prio, h.heard.length] ++ h.heard ++ h.links.flatMap (fun l => [l.1, l.2.1, l.2.2])

/-- A PORTMAP entry as in its register. -/
def portWord (m : Nat × Bool × Bool) : Nat := m.1 % 4 + m.2.1.toNat * 4 + m.2.2.toNat * 8

/-- A ROUTE entry as in its register, with the hops above it at bit 16 and the children's ports at bit 32. -/
def RouteEnt.word (r : RouteEnt) : Nat :=
  r.port % 16 + r.port2 % 16 * 16 + r.pair.toNat * 2 ^ 8 + r.valid.toNat * 2 ^ 9 + r.isLocal.toNat * 2 ^ 10 + r.hops % 2 ^ 16 * 2 ^ 16 +
    r.kids % 2 ^ 16 * 2 ^ 32

/-- An assignment as message data: DEVID, rank, SIZE, MEMBERS, SHAPE, the leader, the port map and the routing table. -/
def Assignment.data (a : Assignment) : List Nat :=
  [a.devid, a.rank, a.size, a.members, a.shape, a.dx, a.dy, a.dz, a.leader] ++ a.portmap.map portWord ++ a.routes.map RouteEnt.word

/-- Send a formation message on every UP port but one, before ranks are known (R338). -/
def State.flood (s : State) (kind : MgmtKind) (data : List Nat) (but : Option Nat) : State :=
  (List.range 16).foldl (fun s p =>
    if s.pState p = pUp ∧ but ≠ some p then
      s.onPort p (fun x => { x with queue := x.queue ++ [⟨.mgmt kind data, 6, 0, s.rank, 0, false, 0⟩] })
    else s) s

/-- The membership of a device alone: rank 0 of one, no routes. -/
def State.fenAlone (s : State) : State :=
  let s1 := s.wrs 0 0 [(F.FEN_STATUS_RANK, 0), (F.FEN_STATUS_SIZE, 1), (F.FEN_STATUS_LEADER, 0), (F.FEN_MEMBERS_MASK, 1), (F.FEN_SHAPE_KIND, 0),
    (F.FEN_SHAPE_DX, 0), (F.FEN_SHAPE_DY, 0), (F.FEN_SHAPE_DZ, 0)]
  let s2 := (List.range 16).foldl (fun s p => s.wrs 0 p [(F.FEN_PORTMAP_DIM, 3), (F.FEN_PORTMAP_DATELINE, 0), (F.FEN_PORTMAP_UPLINK, 0)]) s1
  (List.range 64).foldl (fun s d => s.wrs 0 d [(F.FEN_ROUTE_PORT, 0), (F.FEN_ROUTE_PORT2, 0), (F.FEN_ROUTE_PAIR, 0), (F.FEN_ROUTE_VALID, 0),
    (F.FEN_ROUTE_LOCAL, 0)]) s2

/-- Leave a Fen: what is outstanding toward each member ends as for a lost path (R342, R439, R462), and the device is alone. -/
def State.fenLeave (s : State) : State :=
  let s1 := ((List.range 64).filter (fun d => decide (bits (s.rd F.FEN_MEMBERS_MASK 0) d 1 = 1) && decide (d ≠ s.rank))).foldl (fun s d =>
    (s.dropTo (.path d)).recover (.path d) .nothing) s
  let gone (x : Party) : Bool := match x with | .tile d _ | .fn d _ => decide (d ≠ s.rank) | .rank _ | .path _ => true | _ => false
  let fs := (s1.flt.fences.filter (fun f => !gone f.party)).map (fun f => { f with waiting := if f.waiting.contains s.rank then [0] else [] })
  ({ s1 with rx := s1.rx.filter (fun k => k.drank = s.rank), flt := { s1.flt with fences := fs, misses := [] } } : State).fencesShown.fenAlone

/-- FEN.CTL.FORM and FEN_FORM (R338 step 1, R354): FORMING, and this device's HELLO on every UP port. -/
def State.fenForm (s : State) : State :=
  let s1 := if s.fenState = 2 ∨ s.fenState = 3 then s.fenLeave else s
  let s2 := (({ s1 with fen := .none } : State).wrs 0 0 [(F.FEN_STATUS_STATE, 1), (F.FEN_STATUS_CAUSE, 0)]).setMaster s1.rank
  (s2.flood .hello s2.ownHello.data none).settle

/-- FEN_CTL_FORM (R338): the PF writes FEN.CTL.FORM. -/
def execFenCtlForm (s : State) : Out3 := ok s (if s.fnTakes 0 && s.fwRuns then s.fenForm else s)

/-- HELLO_RECEIVE (R338): a new HELLO is recorded and flooded on; this device's own then names its sender too. -/
def execHelloReceive (p : Fin 16) (h : Hello) (s : State) : Out3 :=
  ok s (if s.fwRuns && s.fenState = 1 && h.devid ≠ s.devid && !s.fen.hellos.contains h then
    let isNew := !s.fen.hellos.any (fun g => g.devid = h.devid)
    let s1 := ({ s with fen := { s.fen with hellos := insHello h s.fen.hellos } } : State).flood .hello h.data (some p.val)
    if isNew then s1.flood .hello s1.ownHello.data none else s1
  else s)

/-- Formation fails with a cause (Table 13-8); no rank is assigned. -/
def State.fenFail (s : State) (cause : Nat) : State :=
  ({ s with fen := .none } : State).fenAlone.wrs 0 0 [(F.FEN_STATUS_STATE, 4), (F.FEN_STATUS_CAUSE, cause)]

/-- Write an assignment (R338 step 4). -/
def State.takeAssignment (s : State) (a : Assignment) : State :=
  let s1 := s.fenAlone.wrs 0 0 [(F.FEN_STATUS_RANK, a.rank), (F.FEN_STATUS_SIZE, a.size), (F.FEN_STATUS_LEADER, a.leader), (F.FEN_MEMBERS_MASK, a.members),
    (F.FEN_SHAPE_KIND, a.shape), (F.FEN_SHAPE_DX, a.dx), (F.FEN_SHAPE_DY, a.dy), (F.FEN_SHAPE_DZ, a.dz)]
  let s2 := (a.portmap.take 16).zipIdx.foldl (fun s p =>
    s.wrs 0 p.2 [(F.FEN_PORTMAP_DIM, p.1.1), (F.FEN_PORTMAP_DATELINE, p.1.2.1.toNat), (F.FEN_PORTMAP_UPLINK, p.1.2.2.toNat)]) s1
  let s3 := (a.routes.take 64).zipIdx.foldl (fun s p =>
    s.wrs 0 p.2 [(F.FEN_ROUTE_PORT, p.1.port), (F.FEN_ROUTE_PORT2, p.1.port2), (F.FEN_ROUTE_PAIR, p.1.pair.toNat), (F.FEN_ROUTE_VALID, p.1.valid.toNat),
      (F.FEN_ROUTE_LOCAL, p.1.isLocal.toNat)]) s2
  { s3 with fen := { s3.fen with hops := (a.routes.take 64).map (·.hops), kids := (a.routes.take 64).map (·.kids) } }

/-- The plan's DEVIDs by rank, when the leader uses one: ranks 0 to SIZE - 1. -/
def State.planList (s : State) : List Nat := (List.range 64).map (fun r => s.rd F.FEN_PLAN_DEVID 0 r)

/-- The plan lists just the devices heard, at ranks 0 to SIZE - 1. -/
def State.planFits (s : State) (g : Graph) : Bool :=
  let l := s.planList.take g.length
  g.length ≤ 64 && (s.planList.drop g.length).all (· = 0) && g.all (fun h => l.contains h.devid)

/-- COMMIT takes effect on this device (R338 step 5, R354, R462). -/
def State.fenFormed (s : State) (fepoch master : Nat) : State :=
  let s1 := s.wrs 0 0 [(F.FEN_STATUS_STATE, 2), (F.FEN_STATUS_CAUSE, 0), (F.FEN_STATUS_FEPOCH, fepoch), (F.FLT_FENFAIL_RANKS, 0)]
  ({ s1 with flt := { s1.flt with misses := [] } } : State).setMaster master

/-- The highest FEPOCH of any member. -/
def State.topEpoch (s : State) : Nat := s.fen.hellos.foldl (fun n h => max n h.fepoch) (s.rd F.FEN_STATUS_FEPOCH 0)

/-- Every member has acknowledged: the leader sends COMMIT and is FORMED itself. -/
def State.leaderCommit (s : State) : State :=
  if s.fen.plan.all (fun a => s.fen.acks.contains a.devid) then
    let e := (s.topEpoch + 1) % 65536
    let s0 := s.wr F.FLT_FENFAIL_RANKS 0 0
    let m := s0.pickMaster
    (s0.flood .commit [e, m] none).fenFormed e m
  else s

/-- The leader's work when FORM_WAIT ends (R338 step 3 and 4, R339). -/
def State.leaderPlan (s : State) : State :=
  let g : Graph := insHello s.ownHello s.fen.hellos
  let plan := s.flag F.FEN_CTL_USE_PLAN 0
  if plan && !s.planFits g then s.fenFail 1
  else if 64 < g.length then s.fenFail 2
  else
    let l := planFen g ((g.at s.devid).getD 0) (if plan then some (s.planList.take g.length) else none)
    let s1 : State := { s with fen := { s.fen with leads := true, plan := l, acks := [s.devid] } }
    let s2 := (l.filter (fun a => decide (a.devid ≠ s.devid))).foldl (fun s a => s.flood .assign a.data none) s1
    match l.find? (fun a => a.devid = s.devid) with
    | some a => (s2.takeAssignment a).leaderCommit
    | none => s2

/-- FORM_WAIT_EXPIRY (R338): the device with the lowest DEVID heard leads. -/
def execFormWaitExpiry (s : State) : Out3 :=
  ok s (if s.fwRuns && s.fenState = 1 && s.fen.plan.isEmpty && s.fen.hellos.all (fun h => s.devid < h.devid) then s.leaderPlan else s)

/-- Pass a formation message on, once, over every UP port: members the leader does not reach directly hear it so (R338; DEDUCED, unsafe, log
entry 48). -/
def State.relay (s : State) (kind : MgmtKind) (key : Nat) (data : List Nat) : State :=
  if s.fen.relayed.contains (kind.code, key) then s
  else ({ s with fen := { s.fen with relayed := s.fen.relayed ++ [(kind.code, key)] } } : State).flood kind data none

/-- FEN_ASSIGNMENT_RECEIVE (R338 step 4): this device's own is written and acknowledged; another's is passed on. -/
def execFenAssignmentReceive (a : Assignment) (s : State) : Out3 :=
  ok s (if s.fwRuns && s.fenState = 1 && !s.fen.leads then
    if a.devid = s.devid then
      let s1 := s.takeAssignment a
      ({ s1 with fen := { s1.fen with plan := [a] } } : State).relay .assignAck s.devid [s.devid]
    else s.relay .assign a.devid a.data
  else s)

/-- FEN_ASSIGNMENT_ACK (R338 step 5): a member passes it on toward the leader. -/
def execFenAssignmentAck (devid : BitVec 64) (s : State) : Out3 :=
  ok s (if s.fwRuns && s.fenState = 1 then
    if s.fen.leads then
      if s.fen.plan.any (fun a => a.devid = devid.toNat) then
        ({ s with fen := { s.fen with acks := if s.fen.acks.contains devid.toNat then s.fen.acks else s.fen.acks ++ [devid.toNat] } } : State).leaderCommit
      else s
    else s.relay .assignAck devid.toNat [devid.toNat]
  else s)

/-- FEN_COMMIT (R338 step 5, R354): a member that has acknowledged enters FORMED, and passes it on; in a FORMED Fen of that FEPOCH it names a
Tidemaster chosen anew, which a member that did not know of it passes on (DEDUCED, unsafe, log entry 25). -/
def execFenCommit (fepoch : BitVec 16) (master : BitVec 6) (s : State) : Out3 :=
  ok s (if s.fwRuns && s.fenState = 1 && !s.fen.leads && !s.fen.plan.isEmpty then
    (s.relay .commit fepoch.toNat [fepoch.toNat, master.toNat]).fenFormed fepoch.toNat master.toNat
  else if s.fwRuns && s.fenState = 2 && s.rd F.FEN_STATUS_FEPOCH 0 = fepoch.toNat then
    (if s.rd F.TBU_STATUS_MRANK 0 = master.toNat then s else s.flood .commit [fepoch.toNat, master.toNat] none).setMaster master.toNat
  else s)

/-- FORMATION_TIMEOUT (R338). -/
def execFormationTimeout (s : State) : Out3 := ok s (if s.fenState = 1 then s.fenFail 3 else s)

/-! ### Dissolution (R342) -/

/-- FEN.CTL.DISSOLVE and FEN_DISSOLVE: role, parent and depth of the time tree stay (R354). -/
def State.fenDissolve (s : State) : State := s.wr F.FEN_STATUS_STATE 0 3

/-- FEN_CTL_DISSOLVE (R342): the PF writes FEN.CTL.DISSOLVE. -/
def execFenCtlDissolve (s : State) : Out3 := ok s (if s.fnTakes 0 && s.fwRuns then s.fenDissolve else s)

/-- DISSOLVE_COMPLETE (R342): the retry windows are empty and every remote tag has returned, or 10 ms have passed. -/
def execDissolveComplete (s : State) : Out3 :=
  ok s (if s.fenState = 3 then
    let s1 := ({ s.fenLeave with fen := .none } : State).wrs 0 0 [(F.FEN_STATUS_STATE, 0), (F.FEN_STATUS_CAUSE, 0)]
    (if s1.flag F.TBU_STATUS_MASTER 0 then s1.wrs 0 0 [(F.TBU_STATUS_MRANK, 0), (F.TBU_STATUS_PPORT, 0), (F.TBU_STATUS_DEPTH, 0)] else s1.ownMaster).settle
  else s)

end Sys2Proof.Machine
end

