-- ==== Sys2Proof/Machine/Tbu.lean ====
section
/-! DEFINITION. The TBU: setting and reading the count, the time tree's exchanges, the servo, PPS (R350 to R360, R480, R492). Times and offsets are
integers in units of 2^-32 ns unless a name says otherwise. -/
namespace Sys2Proof.Machine

/-! ### The count -/

/-- The count NS.FRAC in units of 2^-32 ns. -/
def State.count96 (s : State) : Nat := s.ns % 2 ^ 64 * 2 ^ 32 + s.frac % 2 ^ 32

/-- The difference of two counts, as a signed number modulo 2^96. -/
def diff96 (a b : Nat) : Int :=
  let d : Nat := (a + 2 ^ 96 - b % 2 ^ 96) % 2 ^ 96
  if d < 2 ^ 95 then (d : Int) else (d : Int) - 2 ^ 96

/-- A signed number of w bits. -/
def signed (w v : Nat) : Int := if v % 2 ^ w < 2 ^ (w - 1) then ((v % 2 ^ w : Nat) : Int) else ((v % 2 ^ w : Nat) : Int) - 2 ^ w

/-- A signed number kept to w bits. -/
def unsigned (w : Nat) (v : Int) : Nat := (v % 2 ^ w).toNat

/-- The count is set: a step (R350), which spoils the exchange it falls in (R356). -/
def State.stepTo (s : State) (c : Nat) : State :=
  { s.count F.TBU_CNT_STEP_COUNT 0 1 with
    ns := c / 2 ^ 32 % 2 ^ 64
    frac := c % 2 ^ 32
    tbu := { s.tbu with exch := s.tbu.exch.map (fun e => { e with stepped := true }) } }

/-- Step the count by a signed amount. -/
def State.stepBy (s : State) (d : Int) : State := s.stepTo (((s.count96 : Int) + d) % 2 ^ 96).toNat

/-- TBU_NOW_READ (R353): NS goes to the reader, whose own latch takes FRAC: the PF's, which NOW_FRAC shows it, or Fenreeve's. -/
def execTbuNowRead (s : State) (frv : Bool := false) : Out3 :=
  ok s (if frv then (if s.moss && (s.rd F.FRV_STATUS_BOOT 0 = 1 || s.rd F.FRV_STATUS_BOOT 0 = 2) then ({ s with tbu := { s.tbu with frvFrac := s.frac } } : State).emit (.other "TBU_NOW" [1, s.ns]) else s)
  else if s.fnTakes 0 then (s.wr F.TBU_NOW_FRAC_FRAC 0 s.frac).emit (.other "TBU_NOW" [0, s.ns])
  else s)

/-! ### The increment (R350, R357) -/

/-- A quotient of the servo, rounded one way or the other where it is not whole: the spec gives no rounding (DESIGN CHOICE, safe, log entry 5). -/
def State.quot (s : State) (i : Nat) (n : Int) (d : Nat) : Int :=
  if n % (d : Int) = 0 then n / (d : Int) else n / (d : Int) + ((s.free i % 2 : Nat) : Int)

/-- 100 ppm in units of 2^-64. -/
def rateLimit : Int := 2 ^ 64 / 10000

/-- The smallest INC of R350. -/
abbrev incMin : Int := 0x0FF000000
/-- The largest. -/
abbrev incMax : Int := 0x101000000

/-- Set INC to one nanosecond less a correction of n / d units of 2^-64 per cycle, within R350. -/
def State.setInc (s : State) (i : Nat) (n : Int) (d : Nat) : State :=
  s.wr F.TBU_INC_INC 0 (max incMin (min incMax (2 ^ 32 - s.quot i n (d * 2 ^ 32)))).toNat

/-- The exchange period in cycles. -/
def State.period (s : State) : Nat := max 1 (s.rd F.TBU_SYNC_CFG_PERIOD 0)

/-- Apply an offset of th2 / 2 through INC over the next PERIOD, with the rate term added; the rate term then takes its share. -/
def State.slew (s : State) (th2 : Int) : State :=
  let s1 := s.setInc 0 (th2 * 2 ^ 31 + s.tbu.rate * s.period) s.period
  let r := s.tbu.rate + s.quot 1 (th2 * 2 ^ 25) s.period
  { s1 with tbu := { s1.tbu with rate := max (-rateLimit) (min rateLimit r), left := s.period } }

/-- The phase term is zero, and only the rate term remains. -/
def State.phaseOff (s : State) : State :=
  let s1 := s.setInc 2 s.tbu.rate 1
  { s1 with tbu := { s1.tbu with left := 0 } }

/-- TBU_SET_NS (R352, R492): a write of the upper half, the lower half with it or as last held; a 64-bit write's lower half is then held as
well (DESIGN CHOICE, unsafe, log entry 46). The step ends the correction in progress, and the next is made from the next second on. -/
def execTbuSetNs (hi : BitVec 32) (lo : Option (BitVec 32)) (s : State) : Out3 :=
  ok s (if s.fnTakes 0 then
    let l := match lo with | some b => b.toNat | none => s.tbu.held
    let s1 : State := { s with tbu := { s.tbu with held := l } }
    if s.flag F.TBU_STATUS_MASTER 0 then
      let s2 := (s1.stepTo ((l + hi.toNat * 2 ^ 32) * 2 ^ 32 + s.rd F.TBU_SET_FRAC_FRAC 0)).phaseOff
      ({ s2 with tbu := { s2.tbu with setSec := some (s2.ns / 1000000000) } } : State).drawn
    else s1.wr F.TBU_STATUS_SETREJ 0 1
  else s)

/-- The step threshold in units of 2^-32 ns. -/
def State.stepLimit (s : State) : Nat := s.rd F.TBU_SYNC_CFG_STEP_NS 0 * 2 ^ 32

/-- The servo's state, with the gate of PPS_OUT. -/
def State.servoTo (s : State) (v : Nat) : State := (s.wr F.TBU_STATUS_SERVO 0 v).ppsGate

/-! ### Sending (R356) -/

/-- A port that leads to a child, or the parallel port toward the same device while that one is UP and it is not. -/
def State.livePort (s : State) (p : Nat) : Option Nat :=
  if s.pState p = pUp then some p
  else (List.range 16).find? (fun q => s.pState q = pUp && s.rd F.CWP_PEER_DEVID_DEVID q = s.rd F.CWP_PEER_DEVID_DEVID p)

/-- The ports that lead to children of the time tree (R354). -/
def State.childPorts (s : State) : List Nat :=
  let m := s.fen.kids.getD (s.rd F.TBU_STATUS_MRANK 0) 0
  (((List.range 16).filter (fun p => bits m p 1 = 1)).filterMap s.livePort).eraseDups

/-- Make a TIME flit ready on a port. -/
def State.timeFlit (s : State) (p : Nat) (info : List Nat) : State := s.onPort p (fun x => { x with time := x.time ++ [info] })

/-- SRC of ANNOUNCE (Table 14-1); it has no code for a follower in ACQUIRE, whose SRC is free among those of Table 14-1 (DESIGN CHOICE, safe, log entry 5). -/
def State.annSrc (s : State) : Nat :=
  match s.rd F.TBU_STATUS_SERVO 0 with
  | 0 => (match s.rd F.TBU_STATUS_PPSSTATE 0 with | 2 => 1 | 3 => 2 | _ => 0)
  | 2 => 3
  | 3 => 4
  | _ => s.free 0 % 5

/-- SYNC_PERIOD (R356): SYNC and ANNOUNCE to each child. -/
def execSyncPeriod (s : State) : Out3 :=
  ok s (if s.inTree then
    let s1 : State := ({ s with tbu := { s.tbu with xseq := (s.tbu.xseq + 1) % 65536 } } : State).drawn
    s.childPorts.foldl (fun a p => (a.timeFlit p [1, s.tbu.xseq, 0, 0]).timeFlit p [4, s.tbu.xseq, 0, 0, s.rd F.TBU_STATUS_MRANK 0, s.rd F.TBU_STATUS_DEPTH 0,
      s.annSrc, s.rd F.TBU_STATUS_ERRBND 0]) s1
  else s)

/-! ### The child's side (R356, R357) -/

/-- An exchange in progress is lost. -/
def State.lostOpen (s : State) : State := if s.tbu.exch.isSome then s.lostX else s

/-- SYNC_RECEIVE (R356): t1 and t2, and DREQ. -/
def execSyncReceive (p : Fin 16) (xseq : BitVec 16) (ns : BitVec 64) (frac : BitVec 32) (s : State) : Out3 :=
  ok s (if s.isParent p.val then
    let s1 := s.lostOpen
    ({ s1 with tbu := { s1.tbu with exch := some ⟨xseq.toNat, ns.toNat * 2 ^ 32 + frac.toNat, s.count96, 0, false⟩ } } : State).timeFlit p.val
      [2, xseq.toNat, 0, 0]
  else s)

/-- DREQ_RECEIVE (R356): t4, and DRSP. -/
def execDreqReceive (p : Fin 16) (xseq : BitVec 16) (s : State) : Out3 :=
  ok s (if s.inTree then s.timeFlit p.val [3, xseq.toNat, s.ns % 2 ^ 64, s.frac] else s)

/-- DRSP_TIMEOUT (R356). -/
def execDrspTimeout (s : State) : Out3 := ok s s.lostOpen

/-- D differs from its mean over the accepted exchanges, at most 16, by more than DGUARD; d2 is 2 D. -/
def State.delayBad (s : State) (d2 : Int) : Bool :=
  let n := s.tbu.delays.length
  n ≠ 0 && decide (2 * n * (s.rd F.TBU_SYNC_CFG_DGUARD 0 * 2 ^ 24) < (d2 * n - s.tbu.delays.foldl (· + ·) 0).natAbs)

/-- 0.25 ns, doubled. -/
abbrev quarter2 : Nat := 2 ^ 31

/-- Act on an accepted offset th2 / 2 (R357, Table 14-2) (DEDUCED, unsafe, log entry 32). -/
def State.servo (s : State) (th2 : Int) : State :=
  if 2 * s.stepLimit < th2.natAbs then
    let s1 := (s.stepBy (-(s.quot 3 th2 2))).servoTo 1
    ({ s1 with tbu := { s1.tbu with good := 0 } } : State).phaseOff
  else
    let s1 := s.slew th2
    let g := if th2.natAbs ≤ quarter2 then s.tbu.good + 1 else 0
    let sv := if s.rd F.TBU_STATUS_SERVO 0 = 2 then 2 else if 16 ≤ g then 2 else 1
    ({ s1 with tbu := { s1.tbu with good := g } } : State).servoTo sv

/-- DRSP_RECEIVE (R356, R357): θ and D; the exchange is accepted and applied, or rejected. -/
def execDrspReceive (p : Fin 16) (xseq : BitVec 16) (ns : BitVec 64) (frac : BitVec 32) (stepped : Bool) (s : State) : Out3 :=
  ok s (match s.tbu.exch with
    | none => s
    | some e =>
      if !s.isParent p.val || e.xseq ≠ xseq.toNat || e.t3 = 0 then s
      else
        let a := diff96 e.t2 e.t1
        let b := diff96 (ns.toNat * 2 ^ 32 + frac.toNat) e.t3
        let th2 := a - b - signed 32 (s.rd F.TBU_ASYM_ASYM 0 (s.rd F.TBU_STATUS_PPORT 0)) * 2 ^ 24
        let d2 := a + b
        if e.stepped || stepped || s.delayBad d2 then s.rejectX
        else
          let s1 := (s.count F.TBU_CNT_EXCH_COUNT 0 1).wrs 0 0 [(F.TBU_LAST_X_THETA, unsigned 32 (s.quot 4 th2 (2 ^ 25))),
            (F.TBU_LAST_X_DELAY, unsigned 32 (s.quot 5 d2 (2 ^ 25))), (F.TBU_STATUS_ERRBND, s.free 6)]
          (({ s1 with tbu := { s1.tbu with exch := none, delays := keepLast 16 (s.tbu.delays ++ [d2]) } } : State).servo th2).drawn)

/-- SERVO_HOLDOVER (R357): the rate term is frozen, and the phase term is zero. -/
def execServoHoldover (s : State) : Out3 :=
  ok s (if !s.flag F.TBU_STATUS_MASTER 0 && s.rd F.TBU_STATUS_SERVO 0 = 2 then
    let s1 := s.phaseOff
    (({ s1 with tbu := { s1.tbu with good := 0 } } : State).servoTo 3).drawn
  else s)

/-- ANNOUNCE_RECEIVE (R354): the Tidemaster's rank, and the depth and error bound behind this device's own; the spec gives no formula for its
estimate of the bound, which is a free value (DESIGN CHOICE, safe, log entry 5). -/
def execAnnounceReceive (p : Fin 16) (mrank depth _src : BitVec 8) (_errbnd : BitVec 32) (s : State) : Out3 :=
  ok s (if s.isParent p.val then
    let m := mrank.toNat % 64
    let s1 := if m ≠ s.rd F.TBU_STATUS_MRANK 0 ∧ s.fenState = 2 then s.setMaster m else s
    if s1.flag F.TBU_STATUS_MASTER 0 then s1
    else (s1.wrs 0 0 [(F.TBU_STATUS_DEPTH, depth.toNat + 1), (F.TBU_STATUS_ERRBND, s.free 0)]).drawn
  else s)

/-! ### PPS (R351, R359, R360, R480) -/

/-- A TBU second in units of 2^-32 ns. -/
abbrev second96 : Nat := 1000000000 * 2 ^ 32

/-- How far a count lies from the nearest TBU second; halfway, either second may be taken (DESIGN CHOICE, safe, log entry 5). -/
def State.ppsError (s : State) (c : Int) : Int :=
  let r := c % (second96 : Int)
  if 2 * r < second96 ∨ (2 * r = second96 ∧ s.free 7 % 2 = 0) then r else r - second96

/-- An accepted PPS_IN edge with its error on the Tidemaster. -/
def State.ppsApply (s : State) (err : Int) : State :=
  let g := if err.natAbs ≤ 2 ^ 32 then s.tbu.ppsGood + 1 else 0
  let s1 := if s.stepLimit < err.natAbs then (s.stepBy (-err)).phaseOff else s.slew (2 * err)
  let s2 : State := { s1 with tbu := { s1.tbu with ppsGood := g } }
  if 8 ≤ g then s2.wr F.TBU_STATUS_PPSSTATE 0 2
  else if s2.rd F.TBU_STATUS_PPSSTATE 0 = 0 then s2.wr F.TBU_STATUS_PPSSTATE 0 1
  else s2

/-- The count has reached no second since SET_NS stepped it (R352). -/
def State.sameSecond (s : State) : Bool := s.tbu.setSec = some (s.ns / 1000000000)

/-- PPS_IN_EDGE (R359, R480): `short` says that the input did not stay high for 100 ns; no correction is made before the second that follows a
step by SET_NS (R352). -/
def execPpsInEdge (short : Bool) (s : State) : Out3 :=
  ok s (if short then s.count F.TBU_CNT_PPSREJ_COUNT 0 1
  else
    let s1 := s.wr F.TBU_PPSIN_TS_NS 0 (s.ns % 2 ^ 64)
    if s.flag F.TBU_STATUS_MASTER 0 && s.flag F.TBU_PPS_CFG_IN_EN 0 then
      if s.sameSecond then s1 else
      let err := s.ppsError ((s.count96 : Int) + signed 32 (s.rd F.TBU_PPSIN_ADJ_ADJ 0) * 2 ^ 24)
      if 100000 * 2 ^ 32 < err.natAbs ∧ s.rd F.TBU_STATUS_PPSSTATE 0 = 2 then s1.count F.TBU_CNT_PPSREJ_COUNT 0 1
      else (s1.ppsApply err).drawn
    else s1)

/-- PPS_HOLD_TIMEOUT (R359): no edge accepted for 2 s. -/
def execPpsHoldTimeout (s : State) : Out3 :=
  ok s (if s.rd F.TBU_STATUS_PPSSTATE 0 ≠ 0 then
    ({ s with tbu := { s.tbu with ppsGood := 0 } } : State).wr F.TBU_STATUS_PPSSTATE 0 3
  else s)

/-- The number of the last TBU second plus PPSOUT_ADJ. -/
def State.pulseSecond (s : State) : Nat := (((s.count96 : Int) - signed 32 (s.rd F.TBU_PPSOUT_ADJ_ADJ 0) * 2 ^ 24) / (second96 : Int)).toNat

/-- Add a second number to the ranges pulsed. -/
def addPulse (k : Nat) : List (Nat × Nat) → List (Nat × Nat)
  | [] => [(k, k)]
  | r :: l => if k = r.2 + 1 then (r.1, k) :: l else r :: addPulse k l

/-- TBU_SECOND (R360): PPS_OUT rises, once for each second number; in HOLDOVER the error bound has grown by 20 ns (R358). -/
def execTbuSecond (s : State) : Out3 :=
  ok s (
    let s1 := if s.rd F.TBU_STATUS_SERVO 0 = 3 then s.wr F.TBU_STATUS_ERRBND 0 (min (2 ^ 32 - 1) (s.rd F.TBU_STATUS_ERRBND 0 + 20 * 256)) else s
    let k := s.pulseSecond
    let sv := s.rd F.TBU_STATUS_SERVO 0
    if s.flag F.TBU_PPS_CFG_OUT_EN 0 && (!s.flag F.TBU_PPS_CFG_GATE 0 || sv = 0 || sv = 2) && s.tbu.pulsed.all (fun r => k < r.1 || r.2 < k) then
      ({ s1 with pins := { s1.pins with pps := true }, tbu := { s1.tbu with pulsed := addPulse k s1.tbu.pulsed } } : State).emit (.other "PPS_OUT" [1, k])
    else s1)

/-- PPS_WIDTH_EXPIRY (R360): WIDTH milliseconds after the pulse. -/
def execPpsWidthExpiry (s : State) : Out3 :=
  ok s (if s.pins.pps then ({ s with pins := { s.pins with pps := false } } : State).emit (.other "PPS_OUT" [0]) else s)

end Sys2Proof.Machine
end

