-- ==== Sys2Proof/Machine/Lease.lean ====
section
/-! DEFINITION. LEASED of a Unit State Register, and its value (R410, R437, R441, Table 16-4). -/
namespace Sys2Proof.Machine

/-- The tile that is home to a lock word (Table 17-3): the tile whose memory holds it, and Tk for stack Hk. -/
def State.lockHome (s : State) (pa : Nat) : Option Nat :=
  match s.region pa with
  | .peat t | .mere t => some t
  | .hbm k _ => some k
  | _ => none

/-- The held lock words that are registered. -/
def State.heldLocks (s : State) : List (Nat × Nat) :=
  (s.lockWords.map (fun pa => (pa, s.readNat 0 pa 8))).filter (fun p => decide (bits p.2 0 1 = 1))

/-- Credits and response reservations of a tile, as home or as holder. -/
def State.creditLeased (s : State) (t : Fin 8) : Bool :=
  (s.tile t).lep.queues.any (fun q => decide (q.2.allots ≠ []) || q.2.resv.any (fun r => r.slot.isNone)) ||
    (List.range 512).any (fun c => s.rd F.LEP_CHAN_CRED_STATE t.val c = 2 || s.rd F.LEP_CHAN_CRED_STATE t.val c = 3) ||
    (List.range 32).any (fun g => s.rd F.LEP_GRP_STATE_STATE t.val g = 2 || s.rd F.LEP_GRP_STATE_STATE t.val g = 3)

/-- A reduction slot's group has parts, on a tile or on its root. -/
def State.slotLeased (s : State) (t : Fin 8) : Bool :=
  s.comb.any (fun e => (e.2.parts ++ e.2.wait).any (fun p => p.tile = t.val || rgdRoot p.rgd = t.val) || e.2.far.any (fun p => rgdRoot p.rgd = t.val) ||
    (match e.2.rgd with | some w => rgdRoot w = t.val | none => false))

/-- A page reference names the tile as its home. -/
def State.pageLeased (s : State) (t : Fin 8) : Bool :=
  [0, 1].any (fun k => (s.listedRecords (s.rd F.KVE_PRT_BASE_PA t.val k) 8 2 (s.rd F.KVE_POOL_CFG_COUNT t.val k)).any (fun f =>
    let v := s.readNat 0 (s.prtAt t k f) 8
    bits v 0 16 ≠ 0 && bits v 16 3 = t.val))

/-- A region lock has the tile as its home or its holder. -/
def State.lockLeased (s : State) (t : Nat) : Bool :=
  s.heldLocks.any (fun p => s.lockHome p.1 = some t || (bits p.2 1 6 = s.rank && bits p.2 7 3 = t))

/-- LEASED of a tile. -/
def State.tileLeased (s : State) (t : Fin 8) : Bool :=
  decide ((s.tile t).ops ≠ []) || s.creditLeased t || s.slotLeased t || s.pageLeased t || s.lockLeased t.val

/-- An address lies in a stack. -/
def State.inStack (s : State) (k pa : Nat) : Bool :=
  match s.region pa with
  | .hbm j _ => j = k
  | _ => false

/-- A block of a started descriptor still has bytes of a stack to move. -/
def State.descUses (s : State) (t : Fin 8) (d : TdmDesc) (k : Nat) : Bool :=
  d.started && ((List.range d.blocks).filter (fun b => decide (d.landed ≤ b))).any (fun b =>
    let p := d.block b
    let at_ (phys wr : Bool) (c : Nat × Nat) : Bool := match s.tdmPa t d phys wr c.1 with | .ok pa => s.inStack k pa | .error _ => false
    p.1.any (at_ d.sphys false) || p.2.any (at_ d.dphys true))

/-- LEASED of a stack: a region lock on its memory, or an access outstanding: of a TDM engine, of another rank, or held by a checkpoint. -/
def State.stackLeased (s : State) (k : Nat) : Bool :=
  s.heldLocks.any (fun p => s.inStack k p.1) ||
    allTiles.any (fun t => (s.tile t).tdm.any (fun d => s.descUses t d k)) ||
    s.rx.any (fun x => match x.pkt with | .mem h _ _ => decide (h.mop < 8) && x.drank = s.rank && s.inStack k h.addr | _ => false) ||
    (match s.ck with | some j => j.held.any (fun h => s.inStack k h.pa) | none => false)

/-- LEASED of a table set: an unretired SF operation reads one of its slots or programs, or a slot is LOADING. -/
def State.tableLeased (s : State) (t : Fin 8) : Bool :=
  (s.tile t).ops.any (fun p => (s.sfRes t p.2.op (p.2.xfb 80 8)).1 ≠ []) || (List.range 8).any (fun n => s.rd F.SFU_SLOT_STATE_STATE t.val n = 1)

/-- LEASED of a unit (R410). -/
def State.leased (s : State) (u : Nat) : Bool :=
  if u < 8 then s.tileLeased (tileOf u)
  else if u < 16 then s.stackLeased (u - 8)
  else if u < 32 then decide ((s.port (u - 16)).window ≠ [])
  else s.tableLeased (tileOf u)

/-- A unit's USR (Table 16-4). -/
def State.usrVal (s : State) (u : Nat) : Nat :=
  s.usr u + (s.leased u).toNat * 2 ^ 3 + s.rd F.FRV_USR_CAUSE 0 u * 2 ^ 4 + s.rd F.FRV_USR_OWNER 0 u * 2 ^ 8 + s.rd F.FRV_USR_EPOCH 0 u * 2 ^ 16

end Sys2Proof.Machine
end

