-- ==== Sys2Proof/Machine/Frv.lean ====
section
/-! DEFINITION. Fenreeve: unit commands, the mailbox, boot and rollback fuses (R404 to R415, R420 to R423, R455, R465, R466). -/
namespace Sys2Proof.Machine

/-! ### Answers -/

/-- FRV.STATUS. -/
def State.frvStatus (s : State) : Nat :=
  s.rd F.FRV_STATUS_BOOT 0 + s.rd F.FRV_STATUS_SLOT 0 * 2 ^ 2 + s.rd F.FRV_STATUS_UPDATING 0 * 2 ^ 3 + s.rd F.FRV_STATUS_SVN 0 * 2 ^ 8 +
    s.rd F.FRV_STATUS_FUSESVN 0 * 2 ^ 16 + s.rd F.FRV_STATUS_SEQ 0 * 2 ^ 32

/-- Fenreeve answers messages of a kind: all while RUNNING, the permitted ones in RECOVERY too (R404, R420). -/
def State.answers (s : State) (inRecovery : Bool) : Bool :=
  s.moss && (s.fwRuns || (inRecovery && s.rd F.FRV_STATUS_BOOT 0 = 2))

/-- STATUS codes of Table 16-8. -/
abbrev ucOk : Nat := 0
/-- EXPECT differs. -/
abbrev ucStale : Nat := 1
/-- LEASED is 1. -/
abbrev ucLeased : Nat := 2
/-- The unit's STATE is not accepted. -/
abbrev ucState : Nat := 3
/-- A reserved unit. -/
abbrev ucUnit : Nat := 4
/-- A malformed command. -/
abbrev ucCmd : Nat := 5
/-- R407. -/
abbrev ucDenied : Nat := 6
/-- Too soon after another FORCE_QUARANTINE. -/
abbrev ucRate : Nat := 7
/-- The unit refuses at this moment. -/
abbrev ucBusy : Nat := 8

/-- A unit command as Fenreeve takes it: the origin (none is the mailbox), and whether it came in an established SPDM session. -/
structure UCmd where
  origin : Option Origin
  session : Bool
  cmd : Nat
  unit : Nat
  expect : Nat
  arg : Nat
  rsv : Bool
  deriving DecidableEq, Repr

/-- Units a command takes, and the STATEs it takes them from (Table 16-7). -/
def unitsOf (cmd : Nat) : Option (Nat × Nat × List Nat) :=
  match cmd with
  | 1 => some (0, 0x27, [])
  | 2 => some (0, 0x27, [uOff, uQuar])
  | 3 => some (0, 0x1F, [uOnline, uQuar])
  | 4 => some (0, 0x27, [uOnline])
  | 5 => some (0, 0x27, [uOnline, uBringup])
  | 6 | 7 | 8 | 9 | 10 => some (0xFF, 0xFF, [])
  | _ => none

/-- A reserved UNIT (Table 16-3). -/
def unitReserved (u : Nat) : Bool := 0x28 ≤ u && u ≤ 0xFE

/-- GET_USR and FW_STATUS. -/
def UCmd.readOnly (c : UCmd) : Bool := c.cmd = 1 || c.cmd = 9

/-- BAD_CMD: a reserved CMD, an RSV bit, or a UNIT that the command does not take. -/
def UCmd.bad (c : UCmd) : Bool :=
  match unitsOf c.cmd with
  | none => true
  | some (lo, hi, _) => c.rsv || (!unitReserved c.unit && !(lo ≤ c.unit && c.unit ≤ hi))

/-- DENIED (R407). -/
def State.ucDeny (s : State) (c : UCmd) : Bool :=
  ((c.cmd = 8 || c.cmd = 10) && c.origin ≠ some .smb) ||
    (s.flag F.FRV_POLICY_SESSION 0 && c.origin.isSome && !c.session && !c.readOnly)

/-- EXPECT differs from the EPOCH of the unit, or from FEPOCH for the device (DEDUCED, unsafe, log entry 33). -/
def State.ucIsStale (s : State) (c : UCmd) : Bool :=
  !c.readOnly && c.expect ≠ (if c.unit = 0xFF then s.rd F.FEN_STATUS_FEPOCH 0 else s.rd F.FRV_USR_EPOCH 0 c.unit)

/-- The STATE is not one the command accepts; a table set needs its tile ONLINE, and SVN_COMMIT a count that R421 allows. -/
def State.ucBadState (s : State) (c : UCmd) : Bool :=
  match unitsOf c.cmd with
  | none => false
  | some (_, _, l) =>
    (l ≠ [] && !l.contains (s.usr c.unit)) || (c.cmd = 2 && 32 ≤ c.unit && s.usr (c.unit - 32) ≠ uOnline) ||
      (c.cmd = 8 && (c.arg < s.rd F.FRV_STATUS_FUSESVN 0 || s.rd F.FRV_STATUS_SVN 0 < c.arg || 64 < c.arg))

/-- RATE: less than 1,000,000 TBU nanoseconds since the last accepted FORCE_QUARANTINE. -/
def State.ucTooSoon (s : State) (c : UCmd) : Bool := c.cmd = 5 && s.frv.forced && s.ns < s.rd F.FRV_LAST_FORCE_NS 0 + 1000000

/-- The rails that supply a unit (Table 18-1). -/
def railsOf (u : Nat) : List Nat :=
  if u < 8 ∨ 32 ≤ u then [3, 4, 6, 7] else if u < 16 then [8, 9, 10] else [11, 12]

/-- Rail r was last measured within its tolerance (Table 19-5). -/
def State.railOk (s : State) (r : Nat) : Bool :=
  match railNominal[r]? with
  | none => true
  | some (mv, pc) => decide (mv * (100 - pc) ≤ s.pins.rails.getD r 0 * 100) && decide (s.pins.rails.getD r 0 * 100 ≤ mv * (100 + pc))

/-- ONLINE as the unit takes it (Table 16-7), or none where it must answer BUSY (R455, R368, R459). -/
def State.unitOnline (s : State) (u : Nat) : Option State :=
  if !(railsOf u).all s.railOk then none
  else if u < 8 then
    let t := tileOf u
    if (s.tile t).resetting || !s.tpcQuiet t then none
    else if s.usr u = uQuar ∧ s.rd F.TPC_STATUS_STATE u ≠ 4 then
      some (((s.tileUsr u uBringup byCmd).onTile t (fun x => { x with forced := false })).resetTile t)
    else (s.onTile t (fun x => { x with forced := false })).tpcOn t byCmd
  else if u < 16 then some (((s.stackOff (u - 8)).wr F.HMC_STATUS_STATE (u - 8) 1).usrState u uBringup byCmd)
  else if u < 32 then some ((s.usrState u uBringup byCmd).portTrain (u - 16) byCmd)
  else some ((s.sfuEmptyAll (tileOf u)).usrState u uOnline byCmd)

/-- OFFLINE as the unit takes it, or none where it must answer BUSY. -/
def State.unitOffline (s : State) (u : Nat) : Option State :=
  if u < 8 then s.tpcOff (tileOf u) byCmd
  else if u < 16 then some ((s.stackOff (u - 8)).usrState u uOff byCmd)
  else some ((s.portDisable (u - 16) byCmd).usrState u uOff byCmd)

/-- Blow rollback fuses up to a count (R421). -/
def State.svnCommit (s : State) (n : Nat) : State :=
  ({ s with frv := { s.frv with fuses := n } } : State).wr F.FRV_STATUS_FUSESVN 0 n

/-- The effect of a command that no earlier condition of Table 16-8 refuses, or none where it is BUSY. -/
def State.ucApply (s : State) (c : UCmd) : Option State :=
  match c.cmd with
  | 2 => s.unitOnline c.unit
  | 3 => s.unitOffline c.unit
  | 4 => some (s.usrState c.unit uQuar byCmd)
  | 5 => some (s.forceUnit c.unit)
  | 6 => some s.fenForm
  | 7 => some s.fenDissolve
  | 8 => if s.frv.update.isSome then none else some (s.svnCommit c.arg)
  | 10 => some (s.wr F.FRV_POLICY_SESSION 0 (c.arg % 2))
  | _ => some s

/-- Perform a unit command: its STATUS, by the first condition of Table 16-8 that holds, and the state after it. -/
def State.ucRun (s : State) (c : UCmd) : Nat × State :=
  if c.bad then (ucCmd, s)
  else if s.ucDeny c then (ucDenied, s)
  else if unitReserved c.unit then (ucUnit, s)
  else if s.ucIsStale c then (ucStale, s)
  else if s.ucBadState c then (ucState, s)
  else if (c.cmd = 3 ∨ c.cmd = 4) ∧ s.leased c.unit then (ucLeased, s)
  else if s.ucTooSoon c then (ucRate, s)
  else match s.ucApply c with
    | some s1 => (ucOk, s1.settle)
    | none => (ucBusy, s)

/-- Bytes 8 to 15 of a response: the USR, FRV.STATUS for the device, and a free value for a reserved unit, of which the spec says nothing. -/
def State.ucUsr (s : State) (u : Nat) : Nat := if u < 40 then s.usrVal u else if u = 0xFF then s.frvStatus else s.free 0 % 2 ^ 64

/-- Answer a unit command (R411, R412, R422). -/
def State.ucAnswer (s : State) (c : UCmd) : State :=
  let (st, s0) := s.ucRun c
  let s1 := s0.count F.FRV_CNT_CMD_COUNT 0 1
  let s2 := if st = ucStale then s1.count F.FRV_CNT_STALE_COUNT 0 1 else s1
  let v := s2.ucUsr c.unit
  let s3 := s2.drawn
  match c.origin with
  | none =>
    ({ s3 with frv := { s3.frv with mbx := none } } : State).wrs 0 0 [(F.FRV_MBX_RSP0_D, c.cmd + c.unit * 2 ^ 8 + st * 2 ^ 16), (F.FRV_MBX_RSP1_D, v),
      (F.FRV_MBX_STATUS_BUSY, 0), (F.FRV_MBX_STATUS_DONE, 1)]
  | some o => s3.emit (.other "UNIT_RESPONSE" [match o with | .smb => 0 | .vdm => 1, c.cmd, c.unit, st, v])

/-- The request in the mailbox (Table 16-6). -/
def ucOfMbx (r : Nat × Nat) : UCmd := ⟨none, false, bits r.1 0 8, bits r.1 8 8, bits r.1 16 16, bits r.1 32 32, r.2 ≠ 0⟩

/-- A mailbox request that Fenreeve does not answer ends BUSY with no response (DEDUCED, unsafe, log entry 26). -/
def State.mbxDrop (s : State) : State := ({ s with frv := { s.frv with mbx := none } } : State).wr F.FRV_MBX_STATUS_BUSY 0 0

/-- MBX_GO (R423): the request is copied; a GO while BUSY is ignored. A reserved CMD is answered here, and a request that Fenreeve does not
answer is dropped. -/
def execMbxGo (s : State) : Out3 :=
  ok s (if !s.fnTakes 0 then s
  else if s.flag F.FRV_MBX_STATUS_BUSY 0 then s.wr F.FRV_MBX_STATUS_OVERRUN 0 1
  else
    let r := (s.rd F.FRV_MBX_REQ0_D 0, s.rd F.FRV_MBX_REQ1_D 0)
    let c := ucOfMbx r
    let s1 := ({ s with frv := { s.frv with mbx := some r } } : State).wr F.FRV_MBX_STATUS_BUSY 0 1
    if !s1.answers c.readOnly then s1.mbxDrop
    else if (unitsOf c.cmd).isNone then s1.ucAnswer c
    else s1)

/-- Fenreeve serves the request the mailbox holds. -/
def State.serveMbx (s : State) : State :=
  match s.frv.mbx with
  | some r => if s.answers (ucOfMbx r).readOnly then s.ucAnswer (ucOfMbx r) else s.mbxDrop
  | none => s

/-- An MCTP message comes (R404, R406, R407, R420): one of another type, or that fails its integrity check, is counted and discarded;
a mailbox request that arrived before it is served first; one that Fenreeve does not answer has no effect. -/
def State.take (s : State) (m : MReq) (inRecovery : Bool) (f : State → State) : State :=
  if !s.answers true then s
  else if !m.good || !m.known then s.count F.FRV_CNT_DROP_COUNT 0 1
  else
    let s1 := s.serveMbx
    if s1.answers inRecovery then f s1 else s1

/-- A message lies in an established SPDM session (R407). -/
def State.secured (s : State) (m : MReq) : Bool := match m.session with | some k => (s.frv.sessions.find? k).any (·.up) | none => false

/-- Fenreeve comes to a unit command of a given CMD: the one the mailbox holds, or one in an MCTP message. -/
def State.unitCommand (s : State) (cmd : Nat) (q : UReq) : State :=
  match q with
  | .mbx => if s.frv.mbx.any (fun r => bits r.1 0 8 = cmd) then s.serveMbx else s
  | .mctp m u e a rsv =>
    let c : UCmd := ⟨some m.origin, s.secured m, cmd, u.toNat, e.toNat, a.toNat, rsv⟩
    s.take m c.readOnly (fun s => s.ucAnswer c)

/-- GET_USR (R411). -/
def execGetUsr (q : UReq) (s : State) : Out3 := ok s (s.unitCommand 1 q)
/-- ONLINE (R411). -/
def execOnline (q : UReq) (s : State) : Out3 := ok s (s.unitCommand 2 q)
/-- OFFLINE (R411). -/
def execOffline (q : UReq) (s : State) : Out3 := ok s (s.unitCommand 3 q)
/-- QUARANTINE (R411, R413). -/
def execQuarantine (q : UReq) (s : State) : Out3 := ok s (s.unitCommand 4 q)
/-- FORCE_QUARANTINE (R411, R414). -/
def execForceQuarantine (q : UReq) (s : State) : Out3 := ok s (s.unitCommand 5 q)
/-- FEN_FORM (R411, R338). -/
def execFenForm (q : UReq) (s : State) : Out3 := ok s (s.unitCommand 6 q)
/-- FEN_DISSOLVE (R411, R342). -/
def execFenDissolve (q : UReq) (s : State) : Out3 := ok s (s.unitCommand 7 q)
/-- SVN_COMMIT (R421). -/
def execSvnCommit (q : UReq) (s : State) : Out3 := ok s (s.unitCommand 8 q)
/-- FW_STATUS (R411). -/
def execFwStatus (q : UReq) (s : State) : Out3 := ok s (s.unitCommand 9 q)
/-- SET_POLICY (R411). -/
def execSetPolicy (q : UReq) (s : State) : Out3 := ok s (s.unitCommand 10 q)

/-! ### The flash and the boot ROM (Table 16-11, R420) -/

/-- Bytes of the flash; an erased byte reads 0xFF. -/
def State.flashBytes (s : State) (a n : Nat) : List Nat := (List.range n).map (fun i => (s.frv.flash.getD (a + i) 0xFF#8).toNat)

/-- A little-endian number in the flash. -/
def State.flashNat (s : State) (a n : Nat) : Nat := (s.flashBytes a n).foldr (fun b v => b + 256 * v) 0

/-- The base of a slot. -/
def slotBase (b : Nat) : Nat := b * 0x800000

/-- Bytes of a slot. -/
abbrev flashSlot : Nat := 0x800000

/-- LEN of a slot's header. -/
def State.imgLen (s : State) (b : Nat) : Nat := s.flashNat (slotBase b + 0x10) 4
/-- SVN. -/
def State.imgSvn (s : State) (b : Nat) : Nat := s.flashNat (slotBase b + 8) 4
/-- SEQ. -/
def State.imgSeq (s : State) (b : Nat) : Nat := s.flashNat (slotBase b + 0xC) 4
/-- KEYIDX. -/
def State.imgKey (s : State) (b : Nat) : Nat := s.flashNat (slotBase b + 0x18) 1
/-- DIGEST. -/
def State.imgDigest (s : State) (b : Nat) : Nat := s.flashNat (slotBase b + 0x20) 48

/-- A header stands (steps 2 and 3 of R420). -/
def State.headerOk (s : State) (b : Nat) : Bool :=
  let a := slotBase b
  s.flashNat a 4 = 0x4656524E && s.flashNat (a + 4) 2 = 1 && s.flashNat (a + 6) 2 = 0 && s.flashNat (a + 0x19) 7 = 0 &&
    s.flashNat (a + 0x110) 240 = 0 && decide (1 ≤ s.imgLen b) && decide (s.imgLen b ≤ flashSlot - 512) && decide (s.imgKey b < 4) &&
    bits Config.revoked (s.imgKey b) 1 = 0 && Config.sha384 (s.flashBytes (a + 0x50) 96) = Config.rootHash (s.imgKey b) &&
    Config.p384Ok (s.flashNat (a + 0x50) 96) (Config.sha384 (s.flashBytes a 0xB0)) (s.flashNat (a + 0xB0) 96) && decide (s.frv.fuses ≤ s.imgSvn b)

/-- A slot's code has its DIGEST (step 4). -/
def State.codeOk (s : State) (b : Nat) : Bool := Config.sha384 (s.flashBytes (slotBase b + 0x200) (s.imgLen b)) = s.imgDigest b

/-- The slots that stand, higher SEQ first and slot A first on a tie. -/
def State.candidates (s : State) : List Nat :=
  let l := [0, 1].filter s.headerOk
  if l = [0, 1] ∧ s.imgSeq 0 < s.imgSeq 1 then [1, 0] else l

/-- The configuration region of the flash, as its listed bytes. -/
def State.cfgRegion (s : State) : List (Nat × BitVec 8) := s.frv.flash.filter (fun e => decide (0x1000000 ≤ e.1) && decide (e.1 ≤ 0x10FFFFF))

/-- The port enable mask of the configuration region; none without a good region. -/
def State.portMask (s : State) : Nat := if Config.cfgGood s.cfgRegion then Config.cfgWord s.cfgRegion 2 else 0

/-- Firmware applies a good configuration region after a cold boot. -/
def State.applyConfig (s : State) : State :=
  if !Config.cfgGood s.cfgRegion then s
  else
    let w := Config.cfgWord s.cfgRegion
    let s1 := s.wrs 0 0 [(F.FEN_CTL_USE_PLAN, w 0), (F.TBU_CTL_TMPRIO, w 1), (F.FRV_POLICY_SESSION, w 4)]
    let s2 := (List.range 16).foldl (fun s p => (s.wr F.CWP_CTL_PROFILE p (bits (w 3) p 1)).wr F.TBU_ASYM_ASYM 0 (w (16 + p)) p) s1
    let s3 := (List.range 64).foldl (fun s r => s.wr F.FEN_PLAN_DEVID 0 (w (64 + r)) r) s2
    let s4 := if w 5 % 2 = 1 then s3.wr F.PCM_HBM_CFG_IDLE 0 (w 6) else s3
    if w 7 % 2 = 1 then s4.wr F.PCM_PLIMIT_WATTS 0 (w 8) else s4

/-- Firmware applies ONLINE to an OFF unit; one that answers BUSY, or a table set whose tile is not ONLINE yet, is tried again (R466). -/
def State.tryOnline (s : State) (u : Nat) : State :=
  let keep (s : State) : State := { s with frv := { s.frv with retry := s.frv.retry.filter (fun v => decide (v ≠ u)) ++ [u] } }
  let drop (s : State) : State := { s with frv := { s.frv with retry := s.frv.retry.filter (fun v => decide (v ≠ u)) } }
  if 32 ≤ u ∧ s.usr (u - 32) ≠ uOnline then keep s
  else if s.usr u ≠ uOff then drop s
  else match s.unitOnline u with
    | some s1 => drop s1
    | none => keep s

/-- FEN_AUTO's formation starts once every enabled port is UP or FAILED (R466). -/
def State.fenAuto (s : State) : State :=
  if s.frv.auto && s.fwRuns && (List.range 16).all (fun p => bits s.portMask p 1 = 0 || s.pState p = pUp || s.pState p = pFailed) then
    ({ s with frv := { s.frv with auto := false } } : State).fenForm
  else s

/-- The units AUTO_ON brings up, in order. -/
def State.autoUnits (s : State) : List Nat :=
  (List.range 8).map (· + 8) ++ List.range 8 ++ (List.range 8).map (· + 32) ++ ((List.range 16).filter (fun p => bits s.portMask p 1 = 1)).map (· + 16)

/-- A slot's image runs: measurements, FRV.STATUS, and after a cold boot the configuration region and the straps. FWVER is the firmware's
own code, a free value (DESIGN CHOICE, safe, log entry 5). -/
def State.bootSlot (s : State) (b : Nat) (cold : Bool) : State :=
  let s1 : State := { s with frv := { s.frv with
    meas := [Config.romMeasure, s.imgDigest b, s.imgSvn b, s.imgSeq b, b, s.frv.fuses, Config.revoked, s.imgKey b] } }
  let s2 := (s1.wrs 0 0 [(F.FRV_STATUS_BOOT, 1), (F.FRV_STATUS_SLOT, b), (F.FRV_STATUS_SVN, s.imgSvn b), (F.FRV_STATUS_FUSESVN, s.frv.fuses),
    (F.FRV_STATUS_SEQ, s.imgSeq b), (F.FRV_FWVER_VER, s.free 0)]).drawn
  if !cold then s2
  else
    let s3 := s2.applyConfig
    let s4 := if bits s.pins.straps 1 1 = 1 then s3.autoUnits.foldl (fun s u => s.tryOnline u) s3 else s3
    ({ s4 with frv := { s4.frv with auto := bits s.pins.straps 2 1 = 1 } } : State).fenAuto

/-- BOOT_ROM (R420): the first candidate in order whose code has its DIGEST runs, or Fenreeve enters RECOVERY. -/
def execBootRom (s : State) : Out3 :=
  ok s (let boot := s.rd F.FRV_STATUS_BOOT 0
    if !s.moss || (boot ≠ 0 && boot ≠ 3) then s
    else match s.candidates.find? s.codeOk with
      | some b => (s.bootSlot b (boot = 0)).settle
      | none => s.wrs 0 0 [(F.FRV_STATUS_BOOT, 2), (F.FRV_STATUS_FUSESVN, s.frv.fuses)])

/-- ONLINE_RETRY (R466): every 100 ms while RUNNING. -/
def execOnlineRetry (s : State) : Out3 :=
  ok s (if s.answers false then (s.frv.retry.foldl (fun s u => s.tryOnline u) s).fenAuto.settle else s)

end Sys2Proof.Machine
end

