-- ==== Sys2Proof/Machine/Mctp.lean ====
section
/-! DEFINITION. Fenreeve's standard messages: MCTP control, PLDM base, monitoring and firmware update, and SPDM (R406, R416 to R419). An answer
goes out by its name, with the data that this specification gives it. -/
namespace Sys2Proof.Machine

/-! ### Answers -/

/-- The origin as a number. -/
def originNum (o : Origin) : Nat := match o with | .smb => 0 | .vdm => 1

/-- Answer a message. -/
def State.reply (s : State) (m : MReq) (what : String) (data : List Nat) : State := s.emit (.other what (originNum m.origin :: data))

/-- The EID of a transport. -/
def eidFld (o : Origin) : Fld := match o with | .smb => F.FRV_ADDR_EID_SMB | .vdm => F.FRV_ADDR_EID_VDM

/-! ### MCTP control (DSP0236) -/

/-- SET_ENDPOINT_ID (R406): the bus owner of the transport assigns its EID; DSP0236 refuses 0x00 and 0xFF. -/
def execSetEndpointId (m : MReq) (id : BitVec 8) (s : State) : Out3 :=
  ok s (s.take m true (fun s =>
    if id = 0#8 ∨ id = 0xFF#8 then s.reply m "SET_ENDPOINT_ID" [1, s.rd (eidFld m.origin) 0]
    else (s.wr (eidFld m.origin) 0 id.toNat).reply m "SET_ENDPOINT_ID" [0, id.toNat]))

/-- GET_ENDPOINT_ID. -/
def execGetEndpointId (m : MReq) (s : State) : Out3 := ok s (s.take m true (fun s => s.reply m "GET_ENDPOINT_ID" [s.rd (eidFld m.origin) 0]))

/-- GET_ENDPOINT_UUID. -/
def execGetEndpointUuid (m : MReq) (s : State) : Out3 := ok s (s.take m true (fun s => s.reply m "GET_ENDPOINT_UUID" [Config.uuid]))

/-- GET_MCTP_VERSION_SUPPORT. -/
def execGetMctpVersionSupport (m : MReq) (s : State) : Out3 := ok s (s.take m true (fun s => s.reply m "GET_MCTP_VERSION_SUPPORT" []))

/-- GET_MESSAGE_TYPE_SUPPORT: the types of Table 16-2. -/
def execGetMessageTypeSupport (m : MReq) (s : State) : Out3 :=
  ok s (s.take m true (fun s => s.reply m "GET_MESSAGE_TYPE_SUPPORT" [0x00, 0x01, 0x05, 0x06, 0x7E]))

/-- GET_VENDOR_DEFINED_MESSAGE_SUPPORT. -/
def execGetVendorDefinedMessageSupport (m : MReq) (s : State) : Out3 := ok s (s.take m true (fun s => s.reply m "GET_VENDOR_DEFINED_MESSAGE_SUPPORT" []))

/-! ### PLDM base (DSP0240) -/

/-- SET_TID; DSP0240 reserves 0x00 and 0xFF. -/
def execSetTid (m : MReq) (id : BitVec 8) (s : State) : Out3 :=
  ok s (s.take m true (fun s =>
    if id = 0#8 ∨ id = 0xFF#8 then s.reply m "SET_TID" [1]
    else ({ s with frv := { s.frv with tid := id.toNat } } : State).reply m "SET_TID" [0]))

/-- GET_TID. -/
def execGetTid (m : MReq) (s : State) : Out3 := ok s (s.take m true (fun s => s.reply m "GET_TID" [s.frv.tid]))

/-- PLDM types supported (R416, R417). -/
def pldmTypes : List Nat := [0, 2, 5]

/-- GET_PLDM_VERSION: whether the type is supported. -/
def execGetPldmVersion (m : MReq) (ty : BitVec 8) (s : State) : Out3 :=
  ok s (s.take m true (fun s => s.reply m "GET_PLDM_VERSION" [ty.toNat, (pldmTypes.contains ty.toNat).toNat]))

/-- GET_PLDM_TYPES. -/
def execGetPldmTypes (m : MReq) (s : State) : Out3 := ok s (s.take m true (fun s => s.reply m "GET_PLDM_TYPES" pldmTypes))

/-- GET_PLDM_COMMANDS. -/
def execGetPldmCommands (m : MReq) (ty : BitVec 8) (s : State) : Out3 :=
  ok s (s.take m true (fun s => s.reply m "GET_PLDM_COMMANDS" [ty.toNat, (pldmTypes.contains ty.toNat).toNat]))

/-! ### PLDM monitoring (DSP0248, Table 16-9) -/

/-- Numeric sensors. -/
def numericSensors : List Nat := 1 :: (List.range 16).map (· + 0x10) ++ (List.range 8).map (· + 0x20) ++ [0x28] ++ (List.range 8).map (· + 0x30) ++ [0x81]

/-- State sensors. -/
def stateSensors : List Nat := (List.range 40).map (· + 0x40) ++ [0x80, 0x82]

/-- What a sensor reads now (Table 16-9): powers in W, temperatures in °C, the error bound in ns. -/
def State.sensorNow (s : State) (id : Nat) : Nat :=
  if id = 1 then s.rd F.PCM_POWER_MW 0 / 1000
  else if id < 0x20 then s.rd F.PCM_RAIL_MW 0 (id - 0x10) / 1000
  else if id ≤ 0x28 then s.rd F.PCM_TEMP_DEGC 0 (id - 0x20)
  else if id < 0x40 then s.rd F.HMC_STATUS_TEMP (id - 0x30)
  else if id < 0x68 then s.usr (id - 0x40)
  else if id = 0x80 then s.rd F.TBU_STATUS_SERVO 0
  else if id = 0x81 then s.rd F.TBU_STATUS_ERRBND 0 / 256
  else s.fenState

/-- A sensor is enabled. -/
def State.sensorOn (s : State) (id : Nat) : Bool := !s.frv.sensorsOff.contains id

/-- Event data of a sensor: a unit's EPOCH. -/
def State.sensorData (s : State) (id : Nat) : List Nat := if 0x40 ≤ id ∧ id < 0x68 then [s.rd F.FRV_USR_EPOCH 0 (id - 0x40)] else []

/-- The reading last taken differs as an event: a state change, or a numeric threshold crossed. -/
def sensorEvent (id old new : Nat) : Bool :=
  if stateSensors.contains id then old ≠ new else decide (old < Config.threshold id) ≠ decide (new < Config.threshold id)

/-- Poll one sensor, and tell the event receiver of an event. -/
def State.pollOne (s : State) (id : Nat) : State :=
  let old := s.frv.polled.getD id 0
  let v := s.sensorNow id
  let s1 : State := { s with frv := { s.frv with polled := s.frv.polled.set 0 id v } }
  match s.frv.receiver with
  | some e => if s.sensorOn id && sensorEvent id old v then s1.emit (.other "PLDM_EVENT" ([e, id, v] ++ s.sensorData id)) else s1
  | none => s1

/-- SENSOR_POLL (R416): every sensor is read; firmware also sees whether FEN_AUTO's formation may start (R466). -/
def execSensorPoll (s : State) : Out3 :=
  ok s (if s.answers false then ((numericSensors ++ stateSensors).foldl (fun s id => s.pollOne id) s).fenAuto.settle else s)

/-- GET_PDR_REPOSITORY_INFO: one PDR for each sensor. -/
def execGetPdrRepositoryInfo (m : MReq) (s : State) : Out3 :=
  ok s (s.take m false (fun s => s.reply m "GET_PDR_REPOSITORY_INFO" [(numericSensors ++ stateSensors).length]))

/-- GET_PDR. -/
def execGetPdr (m : MReq) (handle : BitVec 32) (s : State) : Out3 := ok s (s.take m false (fun s => s.reply m "GET_PDR" [handle.toNat]))

/-- Answer with a sensor of a list: its number, whether it is enabled, and its reading. -/
def State.sensorReply (s : State) (m : MReq) (what : String) (l : List Nat) (id : Nat) : State :=
  s.reply m what (if l.contains id then [0, id, (s.sensorOn id).toNat, s.frv.polled.getD id 0] ++ s.sensorData id else [1, id])

/-- GET_SENSOR_READING. -/
def execGetSensorReading (m : MReq) (id : BitVec 16) (s : State) : Out3 :=
  ok s (s.take m false (fun s => s.sensorReply m "GET_SENSOR_READING" numericSensors id.toNat))

/-- GET_STATE_SENSOR_READINGS. -/
def execGetStateSensorReadings (m : MReq) (id : BitVec 16) (s : State) : Out3 :=
  ok s (s.take m false (fun s => s.sensorReply m "GET_STATE_SENSOR_READINGS" stateSensors id.toNat))

/-- Enable or disable a sensor of a list. -/
def State.sensorEnable (s : State) (m : MReq) (what : String) (l : List Nat) (id : Nat) (on : Bool) : State :=
  if l.contains id then
    let off := s.frv.sensorsOff.filter (fun i => decide (i ≠ id))
    ({ s with frv := { s.frv with sensorsOff := if on then off else off ++ [id] } } : State).reply m what [0, id]
  else s.reply m what [1, id]

/-- SET_NUMERIC_SENSOR_ENABLE. -/
def execSetNumericSensorEnable (m : MReq) (id : BitVec 16) (on : Bool) (s : State) : Out3 :=
  ok s (s.take m false (fun s => s.sensorEnable m "SET_NUMERIC_SENSOR_ENABLE" numericSensors id.toNat on))

/-- SET_STATE_SENSOR_ENABLES. -/
def execSetStateSensorEnables (m : MReq) (id : BitVec 16) (on : Bool) (s : State) : Out3 :=
  ok s (s.take m false (fun s => s.sensorEnable m "SET_STATE_SENSOR_ENABLES" stateSensors id.toNat on))

/-- SET_EVENT_RECEIVER. -/
def execSetEventReceiver (m : MReq) (id : BitVec 8) (s : State) : Out3 :=
  ok s (s.take m false (fun s => ({ s with frv := { s.frv with receiver := some id.toNat } } : State).reply m "SET_EVENT_RECEIVER" [0]))

/-- GET_EVENT_RECEIVER. -/
def execGetEventReceiver (m : MReq) (s : State) : Out3 :=
  ok s (s.take m false (fun s => s.reply m "GET_EVENT_RECEIVER" s.frv.receiver.toList))

/-! ### PLDM firmware update (DSP0267; R417, R418) -/

/-- Put an update in its place, and show whether one is in progress (PRESUMED, unsafe, log entry 34). -/
def State.setUpd (s : State) (u : Option Upd) : State :=
  ({ s with frv := { s.frv with update := u } } : State).wr F.FRV_STATUS_UPDATING 0 (if u.isSome then 1 else 0)

/-- The inactive slot. -/
def State.idleSlot (s : State) : Nat := 1 - s.rd F.FRV_STATUS_SLOT 0

/-- The maximum transfer size. -/
def maxTransfer (o : Origin) : Nat := match o with | .smb => 256 | .vdm => 4096

/-- QUERY_DEVICE_IDENTIFIERS. -/
def execQueryDeviceIdentifiers (m : MReq) (s : State) : Out3 := ok s (s.take m true (fun s => s.reply m "QUERY_DEVICE_IDENTIFIERS" []))

/-- GET_FIRMWARE_PARAMETERS: the one component, and the versions of the running and of the other image. -/
def execGetFirmwareParameters (m : MReq) (s : State) : Out3 :=
  ok s (s.take m true (fun s => s.reply m "GET_FIRMWARE_PARAMETERS" [1, s.rd F.FRV_STATUS_SEQ 0, s.imgSeq s.idleSlot]))

/-- REQUEST_UPDATE: one update at a time. -/
def execRequestUpdate (m : MReq) (s : State) : Out3 :=
  ok s (s.take m true (fun s =>
    if s.frv.update.isSome then s.reply m "REQUEST_UPDATE" [1] else (s.setUpd (some ⟨0, 0, 0⟩)).reply m "REQUEST_UPDATE" [0, maxTransfer m.origin]))

/-- PASS_COMPONENT_TABLE: the component is 0x0001. -/
def execPassComponentTable (m : MReq) (id : BitVec 16) (s : State) : Out3 :=
  ok s (s.take m true (fun s =>
    match s.frv.update with
    | some u => if u.stage = 0 ∧ id = 1#16 then (s.setUpd (some { u with stage := 1 })).reply m "PASS_COMPONENT_TABLE" [0] else s.reply m "PASS_COMPONENT_TABLE" [1]
    | none => s.reply m "PASS_COMPONENT_TABLE" [1]))

/-- Erase a slot of the flash. -/
def State.eraseSlot (s : State) (b : Nat) : State :=
  { s with frv := { s.frv with flash := s.frv.flash.filter (fun e => !(decide (slotBase b ≤ e.1) && decide (e.1 < slotBase b + flashSlot))) } }

/-- The device asks for the image's next bytes. -/
def State.askData (s : State) (m : MReq) (u : Upd) : State := s.reply m "REQUEST_FIRMWARE_DATA" [u.got, min (maxTransfer m.origin) (u.size - u.got)]

/-- UPDATE_COMPONENT (R418): the inactive slot is erased and the transfer begins. -/
def execUpdateComponent (m : MReq) (id : BitVec 16) (size : Nat) (s : State) : Out3 :=
  ok s (s.take m true (fun s =>
    match s.frv.update with
    | some u =>
      if u.stage = 1 ∧ id = 1#16 ∧ 0 < size ∧ size ≤ flashSlot then
        let u1 : Upd := ⟨2, size, 0⟩
        (((s.eraseSlot s.idleSlot).setUpd (some u1)).reply m "UPDATE_COMPONENT" [0]).askData m u1
      else s.reply m "UPDATE_COMPONENT" [1]
    | none => s.reply m "UPDATE_COMPONENT" [1]))

/-- Write bytes to the flash. -/
def State.putFlash (s : State) (a : Nat) (l : List Byte) : State :=
  { s with frv := { s.frv with flash := l.zipIdx.foldl (fun (f : SMap Byte) p => f.set 0xFF#8 (a + p.2) p.1) s.frv.flash } }

/-- The written slot verifies: steps 2 to 4 of R420, and SEQ above the running image's; in RECOVERY no image runs. -/
def State.slotVerifies (s : State) (b : Nat) : Bool :=
  s.headerOk b && s.codeOk b && (!s.fwRuns || decide (s.rd F.FRV_STATUS_SEQ 0 < s.imgSeq b))

/-- FIRMWARE_DATA_RECEIVE (R418): the answer to RequestFirmwareData is written; after the last the slot is verified. -/
def execFirmwareDataReceive (m : MReq) (data : List Byte) (s : State) : Out3 :=
  ok s (s.take m true (fun s =>
    match s.frv.update with
    | some u =>
      if u.stage ≠ 2 ∨ data = [] ∨ data.length ≠ min (maxTransfer m.origin) (u.size - u.got) then s
      else
        let b := s.idleSlot
        let u1 : Upd := { u with got := u.got + data.length }
        let s1 := (s.putFlash (slotBase b + u.got) data).setUpd (some u1)
        if u1.got < u.size then s1.askData m u1
        else
          let s2 := s1.reply m "TRANSFER_COMPLETE" [0]
          if s2.slotVerifies b then
            ((s2.setUpd (some { u1 with stage := 3 })).reply m "VERIFY_COMPLETE" [0]).reply m "APPLY_COMPLETE" [0]
          else (s2.setUpd (some { u1 with stage := 1 })).reply m "VERIFY_COMPLETE" [1]
    | none => s))

/-- ACTIVATE_FIRMWARE (R418): accepted only as self-contained activation of an applied image; Fenreeve restarts, and sessions end. -/
def execActivateFirmware (m : MReq) (selfContained : Bool) (s : State) : Out3 :=
  ok s (s.take m true (fun s =>
    match s.frv.update with
    | some u =>
      if u.stage = 3 ∧ selfContained then
        let s1 := (s.reply m "ACTIVATE_FIRMWARE" [0]).setUpd none
        ({ s1 with frv := { s1.frv with sessions := [], spdm := 0 } } : State).mbxDrop.wr F.FRV_STATUS_BOOT 0 3
      else s.reply m "ACTIVATE_FIRMWARE" [1]
    | none => s.reply m "ACTIVATE_FIRMWARE" [1]))

/-- GET_STATUS: the stage, and the bytes received. -/
def execGetStatus (m : MReq) (s : State) : Out3 :=
  ok s (s.take m true (fun s => s.reply m "GET_STATUS" (match s.frv.update with | some u => [1, u.stage, u.got] | none => [0])))

/-- CANCEL_UPDATE_COMPONENT: the transfer ends, and the component may be sent again. -/
def execCancelUpdateComponent (m : MReq) (s : State) : Out3 :=
  ok s (s.take m true (fun s =>
    match s.frv.update with
    | some u => if u.stage = 2 then (s.setUpd (some ⟨1, 0, 0⟩)).reply m "CANCEL_UPDATE_COMPONENT" [0] else s.reply m "CANCEL_UPDATE_COMPONENT" [1]
    | none => s.reply m "CANCEL_UPDATE_COMPONENT" [1]))

/-- CANCEL_UPDATE. -/
def execCancelUpdate (m : MReq) (s : State) : Out3 :=
  ok s (s.take m true (fun s => if s.frv.update.isSome then (s.setUpd none).reply m "CANCEL_UPDATE" [0] else s.reply m "CANCEL_UPDATE" [1]))

/-! ### SPDM (DSP0274; R419, Table 16-10) -/

/-- How far the negotiation has come (PRESUMED, unsafe, log entry 34). -/
def State.setSpdm (s : State) (n : Nat) : State := { s with frv := { s.frv with spdm := n } }

/-- GET_VERSION: 1.3; the negotiation starts anew. -/
def execGetVersion (m : MReq) (s : State) : Out3 := ok s (s.take m false (fun s => (s.setSpdm 1).reply m "VERSION" [0x13]))

/-- GET_CAPABILITIES. -/
def execGetCapabilities (m : MReq) (s : State) : Out3 :=
  ok s (s.take m false (fun s => if 1 ≤ s.frv.spdm then (s.setSpdm 2).reply m "CAPABILITIES" [] else s.reply m "SPDM_ERROR" []))

/-- NEGOTIATE_ALGORITHMS: `supported` says that the request offers the algorithms of R419. -/
def execNegotiateAlgorithms (m : MReq) (supported : Bool) (s : State) : Out3 :=
  ok s (s.take m false (fun s => if 2 ≤ s.frv.spdm ∧ supported then (s.setSpdm 3).reply m "ALGORITHMS" [] else s.reply m "SPDM_ERROR" []))

/-- Answer an SPDM request that needs the negotiation complete. -/
def State.spdmDo (s : State) (m : MReq) (good : Bool) (f : State → State) : State := if s.frv.spdm = 3 ∧ good then f s else s.reply m "SPDM_ERROR" []

/-- GET_DIGESTS: slot 0. -/
def execGetDigests (m : MReq) (s : State) : Out3 := ok s (s.take m false (fun s => s.spdmDo m true (fun s => s.reply m "DIGESTS" [0])))

/-- GET_CERTIFICATE: a portion of the slot 0 chain. -/
def execGetCertificate (m : MReq) (slot : BitVec 8) (off len : Nat) (s : State) : Out3 :=
  ok s (s.take m false (fun s => s.spdmDo m (slot = 0#8) (fun s => s.reply m "CERTIFICATE" [0, off, len])))

/-- CHALLENGE. -/
def execChallenge (m : MReq) (slot : BitVec 8) (s : State) : Out3 :=
  ok s (s.take m false (fun s => s.spdmDo m (slot = 0#8) (fun s => s.reply m "CHALLENGE_AUTH" [0])))

/-- SFU.SLOT_INFO of every slot of every tile, as bytes in tile then slot order. -/
def State.slotInfos (s : State) : List Nat :=
  (List.range 8).flatMap (fun t => (List.range 8).flatMap (fun n =>
    (leBytes 8 (s.rd F.SFU_SLOT_INFO_TABLE_ID t n + s.rd F.SFU_SLOT_INFO_CRC t n * 2 ^ 32)).map (·.toNat)))

/-- A measurement block (Table 16-10). -/
def State.measure (s : State) (i : Nat) : List Nat :=
  let l := s.frv.meas
  match i with
  | 1 => l.take 1
  | 2 => (l.drop 1).take 1
  | 3 => [s.rd F.FRV_STATUS_SVN 0, s.rd F.FRV_STATUS_SEQ 0, s.rd F.FRV_STATUS_SLOT 0, s.rd F.FRV_STATUS_FUSESVN 0]
  | 4 => l.drop 6
  | 5 => (List.range 8).flatMap (fun t => [s.rd F.RB_LPT_CRC_CRC t, s.rd F.SFU_ROM_CRC_BUILTIN t, s.rd F.SFU_ROM_CRC_COMPAT t])
  | 6 => [Config.sha384 s.slotInfos]
  | _ => [s.rd F.FEN_STATUS_FEPOCH 0, s.rank, s.rd F.FEN_STATUS_SIZE 0, s.rd F.FEN_MEMBERS_MASK 0]

/-- GET_MEASUREMENTS: the number of blocks (0), one block, or all (0xFF). -/
def execGetMeasurements (m : MReq) (index : BitVec 8) (s : State) : Out3 :=
  ok s (s.take m false (fun s => s.spdmDo m (index.toNat ≤ 7 || index = 0xFF#8) (fun s =>
    s.reply m "MEASUREMENTS" (if index = 0#8 then [0, 7]
      else if index = 0xFF#8 then index.toNat :: (List.range 7).flatMap (fun i => s.measure (i + 1))
      else index.toNat :: s.measure index.toNat))))

/-- Change a session. -/
def State.setSession (s : State) (id : Nat) (x : Option Session) : State :=
  { s with frv := { s.frv with sessions := match x with | some y => s.frv.sessions.put id y | none => s.frv.sessions.erase id } }

/-- KEY_EXCHANGE: a session in its handshake. -/
def execKeyExchange (m : MReq) (id : Nat) (s : State) : Out3 :=
  ok s (s.take m false (fun s => s.spdmDo m (s.frv.sessions.find? id).isNone (fun s => (s.setSession id (some ⟨false, 0⟩)).reply m "KEY_EXCHANGE_RSP" [id])))

/-- FINISH: a valid one establishes the session, another ends it. -/
def execFinish (m : MReq) (id : Nat) (valid : Bool) (s : State) : Out3 :=
  ok s (s.take m false (fun s =>
    match s.frv.sessions.find? id with
    | some x =>
      if x.up then s.reply m "SPDM_ERROR" []
      else if valid then (s.setSession id (some { x with up := true })).reply m "FINISH_RSP" [id]
      else (s.setSession id none).reply m "SPDM_ERROR" []
    | none => s.reply m "SPDM_ERROR" []))

/-- Act on an established session. -/
def State.inSession (s : State) (m : MReq) (id : Nat) (f : Session → State) : State :=
  match s.frv.sessions.find? id with
  | some x => if x.up && m.session = some id then f x else s.reply m "SPDM_ERROR" []
  | none => s.reply m "SPDM_ERROR" []

/-- HEARTBEAT: the session is kept alive. -/
def execHeartbeat (m : MReq) (id : Nat) (s : State) : Out3 :=
  ok s (s.take m false (fun s => s.inSession m id (fun _ => s.reply m "HEARTBEAT_ACK" [id])))

/-- KEY_UPDATE. -/
def execKeyUpdate (m : MReq) (id : Nat) (s : State) : Out3 :=
  ok s (s.take m false (fun s => s.inSession m id (fun x => (s.setSession id (some { x with keys := x.keys + 1 })).reply m "KEY_UPDATE_ACK" [id])))

/-- END_SESSION. -/
def execEndSession (m : MReq) (id : Nat) (s : State) : Out3 :=
  ok s (s.take m false (fun s => s.inSession m id (fun _ => (s.setSession id none).reply m "END_SESSION_ACK" [id])))

end Sys2Proof.Machine
end

