-- ==== Sys2Proof/Machine/Pins.lean ====
section
/-! DEFINITION. Pins: the module bus, the SMBus timeout, and boundary scan (R482, R484, R486). -/
namespace Sys2Proof.Machine

/-- MODULE_INTERRUPT (R484): MOD_INT_L is low, and firmware reads the state of the modules of bus k. -/
def execModuleInterrupt (k : Fin 4) (s : State) : Out3 :=
  ok s (if s.answers false then (List.range 4).foldl (fun s n => s.emit (.other "MODULE_READ" [k.val, n])) s else s)

/-- SMBUS_CLOCK_LOW_TIMEOUT (R482): the SMBus interface is reset; the lands are released in ROM and RESTARTING. -/
def execSmbusClockLowTimeout (s : State) : Out3 := ok s (if s.answers true then s.emit (.other "SMBUS_RESET" []) else s)

/-! ### Boundary scan (R486, IEEE 1149.1) -/

/-- The next TAP controller state. -/
def TapSt.next (x : TapSt) (tms : Bool) : TapSt :=
  match x, tms with
  | .reset, true => .reset
  | .reset, false => .idle
  | .idle, true => .selDr
  | .idle, false => .idle
  | .selDr, true => .selIr
  | .selDr, false => .capDr
  | .capDr, true => .ex1Dr
  | .capDr, false => .shDr
  | .shDr, true => .ex1Dr
  | .shDr, false => .shDr
  | .ex1Dr, true => .upDr
  | .ex1Dr, false => .paDr
  | .paDr, true => .ex2Dr
  | .paDr, false => .paDr
  | .ex2Dr, true => .upDr
  | .ex2Dr, false => .shDr
  | .upDr, true => .selDr
  | .upDr, false => .idle
  | .selIr, true => .reset
  | .selIr, false => .capIr
  | .capIr, true => .ex1Ir
  | .capIr, false => .shIr
  | .shIr, true => .ex1Ir
  | .shIr, false => .shIr
  | .ex1Ir, true => .upIr
  | .ex1Ir, false => .paIr
  | .paIr, true => .ex2Ir
  | .paIr, false => .paIr
  | .ex2Ir, true => .upIr
  | .ex2Ir, false => .shIr
  | .upIr, true => .selDr
  | .upIr, false => .idle

/-- IDCODE. -/
abbrev idcode : Nat := 0x1B409A5F

/-- The length of the data register an instruction selects. -/
def TapInsn.len (i : TapInsn) : Nat :=
  match i with
  | .bypass => 1
  | .idcode => 32
  | .sample | .extest => Config.bsrLen

/-- The instruction of a code; an unused code selects BYPASS (IEEE 1149.1) (PRESUMED, unsafe, log entry 35). -/
def tapInsn (code : Nat) : TapInsn :=
  match Config.irCode code with
  | 1 => .idcode
  | 2 => .sample
  | 3 => .extest
  | _ => .bypass

/-- Shift a register of a length by one bit, TDI entering at its top. -/
def shiftIn (len sh : Nat) (tdi : Bool) : Nat := sh / 2 + (if tdi then 2 ^ (len - 1) else 0)

/-- One cycle of TCK: the present state captures, shifts or updates, and the next is entered. -/
def State.tck (s : State) (tms tdi : Bool) : State :=
  let x := s.pins.tap
  let nx := x.st.next tms
  let y : Tap := match x.st with
    | .reset => { x with insn := .idcode }
    | .capDr => { x with sh := match x.insn with | .bypass => 0 | .idcode => idcode | _ => Config.bsrCapture s.freeCtr % 2 ^ Config.bsrLen }
    | .shDr => { x with sh := shiftIn x.insn.len x.sh tdi }
    | .upDr => { x with latch := match x.insn with | .sample | .extest => x.sh | _ => x.latch }
    | .capIr => { x with sh := 1 }
    | .shIr => { x with sh := shiftIn Config.irLen x.sh tdi }
    | .upIr => { x with insn := tapInsn x.sh }
    | _ => x
  let s1 : State := { s with pins := { s.pins with tap := { y with st := nx, insn := if nx = .reset then .idcode else y.insn } } }
  let s2 := if x.st = .shDr ∨ x.st = .shIr then s1.emit (.other "TDO" [x.sh % 2]) else s1
  if y.insn = .extest ∧ (x.st = .upDr ∨ x.st = .upIr) then s2.emit (.other "EXTEST" [y.latch]) else s2

/-- BOUNDARY_SCAN (R486): TRST_L (asserted when `trst`) resets the TAP, else TCK clocks it. -/
def execBoundaryScan (tms tdi trst : Bool) (s : State) : Out3 :=
  ok s ((if trst then { s with pins := { s.pins with tap := { s.pins.tap with st := .reset, insn := .idcode } } } else s.tck tms tdi).drawn)

end Sys2Proof.Machine
end

