-- ==== Sys2Proof/Machine/RegWrite.lean ====
section
/-! DEFINITION. BAR0 writes (chapter 0): where an offset leads, what a field's access code makes of a write, and the registers whose
write is an operation. -/
namespace Sys2Proof.Machine

/-! ### Where an offset leads (Tables 0-1 to 0-4, R376) -/

/-- The register blocks of a tile's window by their sub-offset. -/
def tileBlock : Nat → Option Blk
  | 0 => some .tcc | 1 => some .tsc | 2 => some .rb | 3 => some .vsu | 4 => some .sfu
  | 5 => some .kve | 6 => some .lep | 7 => some .tmu | 8 => some .tdm | 9 => some .tpc
  | _ => none

/-- The block, its instance, and the offset within it. -/
def bar0At (fn off : Nat) : Option (Blk × Nat × Nat) :=
  if off < 0x100000 then some (.hiu, if off < 0x80000 then fn else 0, off)
  else if off < 0x900000 then
    (tileBlock ((off - 0x100000) % 0x100000 / 0x10000)).map (fun b => (b, (off - 0x100000) / 0x100000, off % 0x10000))
  else if 0x1000000 ≤ off ∧ off < 0x1100000 then some (.cwp, (off - 0x1000000) / 0x10000, off % 0x10000)
  else if 0x1200000 ≤ off ∧ off < 0x1280000 then some (.hmc, (off - 0x1200000) / 0x10000, off % 0x10000)
  else if 0x1400000 ≤ off ∧ off < 0x1500000 then some (.tbu, 0, off - 0x1400000)
  else if 0x1500000 ≤ off ∧ off < 0x1600000 then some (.flt, 0, off - 0x1500000)
  else if 0x1600000 ≤ off ∧ off < 0x1700000 then some (.pcm, 0, off - 0x1600000)
  else if 0x1700000 ≤ off ∧ off < 0x1800000 then some (.fen, 0, off - 0x1700000)
  else if 0x1800000 ≤ off ∧ off < 0x1900000 then some (.frv, 0, off - 0x1800000)
  else none

/-- A block of a tile's window. -/
def Blk.ofTile : Blk → Bool
  | .tcc | .tsc | .rb | .vsu | .sfu | .kve | .lep | .tmu | .tdm | .tpc => true
  | _ => false

/-- The entry of a register that lies at an offset. -/
def Fld.entry (f : Fld) (off : Nat) : Option Nat :=
  if off < f.off then none
  else if f.stride = 0 then (if off = f.off then some 0 else none)
  else if (off - f.off) % f.stride = 0 ∧ (off - f.off) / f.stride < f.count then some ((off - f.off) / f.stride) else none

/-- The register at an 8-byte aligned offset of a block, its first field, and the entry. -/
def regAt (b : Blk) (off : Nat) : Option (List Fld × Fld × Nat) :=
  (blockRegs b).findSome? (fun l => l.head?.bind (fun f => (f.entry off).map (fun i => (l, f, i))))

/-- A tile's block runs: with the tile, or with its memory (R366); the TPC always does (R13). -/
def State.blkRuns (s : State) (t : Fin 8) (b : Blk) : Bool := b = .tpc || s.unitsRun t || (memBlks.contains b && s.lepRuns t)

/-- The accessing function reaches the register (R376), and its domain runs (R13): the fabric runs while the PCIe link is up (DEDUCED, unsafe, log entry 36). -/
def State.reaches (s : State) (fn : Nat) (b : Blk) (inst off : Nat) : Bool :=
  if b.ofTile then (fn = 0 || (s.hasTile fn inst && s.unitIn inst)) && s.blkRuns (tileOf inst) b
  else if b = .hiu then fn = 0 || off < 0x80000
  else fn = 0

/-! ### Storing fields (R5, R492) -/

/-- A write as a register sees it: its old value with the written half replaced, the written bits alone, and which halves it carries. -/
structure RegW where
  merged : Nat
  bitsIn : Nat
  lo : Bool
  hi : Bool
  deriving DecidableEq, Repr

/-- The value of a register's fields. -/
def State.regVal (s : State) (l : List Fld) (inst idx : Nat) : Nat :=
  l.foldl (fun n f => n + s.rd f inst idx * 2 ^ f.lo) 0

/-- A write of `width` bytes at byte `at4` (0 or 4) of a register with an old value. -/
def RegW.of (old at4 width val : Nat) : RegW :=
  if width = 8 then ⟨val, val, true, true⟩
  else
    let x := val % 2 ^ 32
    if at4 = 0 then ⟨old / 2 ^ 32 * 2 ^ 32 + x, x, true, false⟩ else ⟨old % 2 ^ 32 + x * 2 ^ 32, x * 2 ^ 32, false, true⟩

/-- A field's part of a write (Table 0-4). -/
def State.fieldPut (s : State) (f : Fld) (inst idx : Nat) (w : RegW) : State :=
  match f.acc with
  | .rw => s.wr f inst (bits w.merged f.lo f.w) idx
  | .w1c => s.wr f inst (s.rd f inst idx &&& (2 ^ f.w - 1 - bits w.bitsIn f.lo f.w)) idx
  | .ro | .wo => s

/-- Every field's part. -/
def State.regPut (s : State) (l : List Fld) (inst idx : Nat) (w : RegW) : State := l.foldl (fun s f => s.fieldPut f inst idx w) s

/-! ### Registers whose write is an operation -/

/-- The state an operation leaves. -/
def State.after (s : State) : Out3 → State
  | .next t => t
  | _ => s

/-- Queue, channel, group and ring numbers, and functions and ports, from an entry or instance. -/
def finOf (n : Nat) (h : 0 < n) (i : Nat) : Fin n := ⟨i % n, Nat.mod_lt _ h⟩

/-- LEP registers (R242, R251, R252, R265): a configuration is taken while OFF, and else only EN = 0 acts. -/
def State.lepWrite (s : State) (l : List Fld) (f : Fld) (t : Fin 8) (i : Nat) (w : RegW) : State :=
  let put := s.regPut l t.val i w
  let m := BitVec.ofNat 64 w.merged
  let en := bits w.merged 0 1 = 1
  if f = F.LEP_CHAN_CFG_EN then
    if s.rd F.LEP_CHAN_CRED_STATE t.val i = 0 then
      (if w.lo && en then s.after (execChannelEnable t (finOf 512 (by decide) i) m s) else put)
    else if w.lo && !en then s.after (execChannelDisable t (finOf 512 (by decide) i) s) else s
  else if f = F.LEP_CHAN_CRED_ALLOT then (if s.rd F.LEP_CHAN_CRED_STATE t.val i = 0 then put else s)
  else if f = F.LEP_GRP_CFG_EN then
    if s.rd F.LEP_GRP_STATE_STATE t.val i = 0 then
      (if w.lo && en then s.after (execGroupEnable t (finOf 32 (by decide) i) m s) else put)
    else if w.lo && !en then s.groupDisable t i else s
  else if f = F.LEP_Q_CFG_EN then
    if s.qState t i = 0 then (if w.lo && en then s.after (execQueueEnable t (finOf 256 (by decide) i) m s) else put)
    else if w.lo && !en then s.after (execQueueDisable t (finOf 256 (by decide) i) s) else s
  else if f = F.LEP_Q_BASE_VA then
    if w.hi then put.onQueue t i (fun x => { x with baseRsv := bits w.bitsIn 48 16 ≠ 0 }) else put
  else put

/-- HIU registers (R378, R382, R383, R393, R398, R401). -/
def State.hiuWrite (s : State) (l : List Fld) (f : Fld) (fn : Fin 32) (inst i off : Nat) (w : RegW) : State :=
  let put := s.regPut l inst i w
  let m := BitVec.ofNat 64 w.merged
  let x := BitVec.ofNat 32 w.bitsIn
  let r : Fin 64 := finOf 64 (by decide) i
  let on := bits w.merged 0 1 = 1
  if f = F.HIU_DOORBELL_PROD then (if w.lo then s.after (execDoorbell fn r x s) else s)
  else if f = F.HIU_RING_CFG_EN then
    if !w.lo then put else if on then s.after (execRingEnable fn r m s) else s.after (execRingDisable fn r m s)
  else if f = F.HIU_RING_BASE_PA ∨ f = F.HIU_CQ_BASE_PA then (if s.rState inst i = rOff then put else s)
  else if f = F.HIU_RING_CTL_RESET then
    (if w.lo && bits w.bitsIn 0 1 = 1 then s.after (execRingReset fn r s) else s)
  else if f = F.HIU_CQ_HEAD_HEAD then (if w.lo then s.after (execCqHeadWrite fn r x s) else s)
  else if f = F.HIU_RING_PROG_SEL_SEQ then (if w.lo then s.after (execRingProgSelWrite fn r x s) else s)
  else if f = F.HIU_PART_CFG_EN then
    let v : Fin 32 := finOf 32 (by decide) (i + 1)
    if !w.lo then s else if on then s.after (execPartEnable v m s) else s.after (execPartDisable v m s)
  else if f = F.HIU_PART_STATUS_ERR ∨ off < 0x80000 then put
  else if s.partOn (i + 1) then s
  else put

/-- Registers of a tile's other blocks. -/
def State.tileWrite (s : State) (l : List Fld) (f : Fld) (fn t : Nat) (i : Nat) (w : RegW) : State :=
  let k := tileOf t
  let put := s.regPut l t i w
  let set := w.lo && bits w.bitsIn 0 1 = 1
  if f = F.TCC_CTL_ICINV then (if set then put.after (execTccIcinv k put) else put)
  else if f = F.TSC_PROG_SEL_TAG then (if w.lo then s.after (execProgSelWrite k (BitVec.ofNat 64 w.bitsIn) s) else s)
  else if f = F.VSU_NAN_STATUS_VALID then
    if set then put.wrs t 0 [(F.VSU_NAN_STATUS_HALTED, 0), (F.VSU_NAN_STATUS_FEN_STOP, 0)] else put
  else if f = F.VSU_NAN_RESUME_GO then (if set then s.after (execNanResumeGo k s) else s)
  else if f = F.KVE_FREE_CONS_CONS then put.kvRun k
  else if f = F.TMU_INV_SCOPE then
    let lo := BitVec.ofNat 32 w.bitsIn
    if w.hi then s.after (execTmuInv k (BitVec.ofNat 32 (w.bitsIn / 2 ^ 32)) (if w.lo then some lo else none) s)
    else s.onTile k (fun x => { x with invHeld := lo.toNat })
  else if f = F.TPC_CMD_OP then
    let g : Fin 32 := finOf 32 (by decide) fn
    if !w.lo then s
    else match bits w.bitsIn 0 2 with
      | 1 => s.after (execTpcWake g k s)
      | 2 => s.after (execTpcOff g k s)
      | 3 => s.after (execTpcOn g k s)
      | _ => s
  else put

/-- Registers of Moss and of the fabric, which only the PF reaches. -/
def State.deviceWrite (s : State) (l : List Fld) (f : Fld) (inst i : Nat) (w : RegW) : State :=
  let put := s.regPut l inst i w
  let m := BitVec.ofNat 64 w.merged
  let set (b : Nat) : Bool := w.lo && bits w.bitsIn b 1 = 1
  if f = F.CWP_CTL_EN then
    let p : Fin 16 := finOf 16 (by decide) inst
    if !w.lo then s
    else if bits w.merged 0 1 = 1 then s.after (execPortEnable p m s) else s.after (execPortDisable p m s)
  else if f = F.TBU_SET_NS_NS then
    let lo := BitVec.ofNat 32 w.bitsIn
    if w.hi then s.after (execTbuSetNs (BitVec.ofNat 32 (w.bitsIn / 2 ^ 32)) (if w.lo then some lo else none) s)
    else { s with tbu := { s.tbu with held := lo.toNat } }
  else if f = F.TBU_PPS_CFG_IN_EN then put.ppsRole.ppsGate
  else if f = F.FLT_CTL_FENSTOP_CLR then (if set 0 then put.after (execFenstopClr put) else put)
  else if f = F.FLT_LOG_SEL_INDEX then (if w.lo then s.after (execLogSelWrite (BitVec.ofNat 6 w.bitsIn) s) else s)
  else if f = F.FLT_INJECT_CODE then
    if set 16 then s.after (execFltInject (BitVec.ofNat 8 w.bitsIn) (BitVec.ofNat 8 (bits w.bitsIn 8 8)) s) else s
  else if f = F.FEN_CTL_FORM then
    let s1 := if set 1 then put.after (execFenCtlDissolve put) else put
    if set 0 then s1.after (execFenCtlForm s1) else s1
  else if f = F.FRV_MBX_CTL_GO then (if set 0 then s.after (execMbxGo s) else s)
  else if f = F.FRV_MBX_REQ0_D ∨ f = F.FRV_MBX_REQ1_D then (if s.flag F.FRV_MBX_STATUS_BUSY 0 then s else put)
  else put

/-- A write that has reached its register. -/
def State.regWrite (s : State) (l : List Fld) (f : Fld) (fn : Fin 32) (inst i off : Nat) (w : RegW) : State :=
  match f.blk with
  | .lep => s.lepWrite l f (tileOf inst) i w
  | .hiu => s.hiuWrite l f fn inst i off w
  | .cwp | .hmc | .tbu | .flt | .pcm | .fen | .frv => s.deviceWrite l f inst i w
  | _ => s.tileWrite l f fn.val inst i w

/-- An access R9 allows: 4 or 8 bytes, naturally aligned. -/
def bar0Ok (off width : Nat) : Bool := (width = 4 || width = 8) && off % width = 0

/-- REGISTER_WRITE (R5, R9, R491, R492): an aligned write reaches its register, where the function reaches it and the domain runs; any
other access is completed with Unsupported Request. A register whose write is an operation of its own performs it. -/
def execRegisterWrite (fn : Fin 32) (off width : Nat) (val : BitVec 64) (s : State) : Out3 :=
  ok s (if !s.fnTakes fn.val then s
  else if !bar0Ok off width then s.emit (.other "UR" [fn.val, off])
  else match bar0At fn.val off with
    | none => s
    | some (b, inst, o) => match regAt b (o / 8 * 8) with
      | none => s
      | some (l, f, i) =>
        if s.reaches fn.val b inst o then
          (s.regWrite l f fn inst i o (RegW.of (s.regVal l inst i) (o % 8) width val.toNat)).settle
        else s)

end Sys2Proof.Machine
end

