-- ==== Sys2Proof/Machine/Dispatch.lean ====
section
/-! DEFINITION. The dispatch: one arm per command, each a direct call of its meaning. -/
namespace Sys2Proof.Machine

/-- A command's effect on everything but the queue. -/
def exec (i : Instr) (s : State) : Host.Outcome State Fault Refusal :=
  match i with
  | .registerWrite fn off width val => Sys2Proof.Machine.execRegisterWrite fn off width val s
  | .pcieConfigRequest fn item val => Sys2Proof.Machine.execPcieConfigRequest fn item val s
  | .doorbell fn r prod => Sys2Proof.Machine.execDoorbell fn r prod s
  | .commandFetch fn r fail => Sys2Proof.Machine.execCommandFetch fn r fail s
  | .launch fn r => Sys2Proof.Machine.execLaunch fn r s
  | .copy fn r => Sys2Proof.Machine.execCopy fn r s
  | .signal fn r => Sys2Proof.Machine.execSignal fn r s
  | .wait fn r => Sys2Proof.Machine.execWait fn r s
  | .waitPoll fn r => Sys2Proof.Machine.execWaitPoll fn r s
  | .waitTimeout fn r => Sys2Proof.Machine.execWaitTimeout fn r s
  | .checkpoint fn r => Sys2Proof.Machine.execCheckpoint fn r s
  | .restore fn r => Sys2Proof.Machine.execRestore fn r s
  | .fence fn r => Sys2Proof.Machine.execFence fn r s
  | .jobStart t => Sys2Proof.Machine.execJobStart t s
  | .jobComplete t => Sys2Proof.Machine.execJobComplete t s
  | .irqDelayExpiry fn r => Sys2Proof.Machine.execIrqDelayExpiry fn r s
  | .ringEnable fn r val => Sys2Proof.Machine.execRingEnable fn r val s
  | .ringDisable fn r val => Sys2Proof.Machine.execRingDisable fn r val s
  | .ringReset fn r => Sys2Proof.Machine.execRingReset fn r s
  | .cqHeadWrite fn r val => Sys2Proof.Machine.execCqHeadWrite fn r val s
  | .ringProgSelWrite fn r val => Sys2Proof.Machine.execRingProgSelWrite fn r val s
  | .timeNowRead fn => Sys2Proof.Machine.execTimeNowRead fn s
  | .partEnable f val => Sys2Proof.Machine.execPartEnable f val s
  | .partDisable f val => Sys2Proof.Machine.execPartDisable f val s
  | .bar2Access fn off len data => Sys2Proof.Machine.execBar2Access fn off len data s
  | .functionLevelReset fn => Sys2Proof.Machine.execFunctionLevelReset fn s
  | .atsInvalidationRequest fn addr len => Sys2Proof.Machine.execAtsInvalidationRequest fn addr len s
  | .atsTranslationCompletion fn page host writable => Sys2Proof.Machine.execAtsTranslationCompletion fn page host writable s
  | .operationLeaveWait t tag => Sys2Proof.Machine.execOperationLeaveWait t tag s
  | .operationLeaveWake t tag => Sys2Proof.Machine.execOperationLeaveWake t tag s
  | .operationDispatch t cls => Sys2Proof.Machine.execOperationDispatch t cls s
  | .operationRetire t tag => Sys2Proof.Machine.execOperationRetire t tag s
  | .heldTrapRaise t => Sys2Proof.Machine.execHeldTrapRaise t s
  | .writeAcknowledge t tag => Sys2Proof.Machine.execWriteAcknowledge t tag s
  | .progSelWrite t val => Sys2Proof.Machine.execProgSelWrite t val s
  | .trapTake t => Sys2Proof.Machine.execTrapTake t s
  | .nanResumeGo t => Sys2Proof.Machine.execNanResumeGo t s
  | .tccIcinv t => Sys2Proof.Machine.execTccIcinv t s
  | .mmPass t th a => Sys2Proof.Machine.execMmPass t th a s
  | .mmPreload t th a => Sys2Proof.Machine.execMmPreload t th a s
  | .mmDrain t th a => Sys2Proof.Machine.execMmDrain t th a s
  | .panelFetch t => Sys2Proof.Machine.execPanelFetch t s
  | .panelToShadow t => Sys2Proof.Machine.execPanelToShadow t s
  | .passStart t => Sys2Proof.Machine.execPassStart t s
  | .combinerRow slot row => Sys2Proof.Machine.execCombinerRow slot row s
  | .sfEval t th a => Sys2Proof.Machine.execSfEval t th a s
  | .sfLoad t th a => Sys2Proof.Machine.execSfLoad t th a s
  | .sfPload t th a => Sys2Proof.Machine.execSfPload t th a s
  | .sfRnorm t th a => Sys2Proof.Machine.execSfRnorm t th a s
  | .sfSmax t th a => Sys2Proof.Machine.execSfSmax t th a s
  | .vsAdd t th a => Sys2Proof.Machine.execVsAdd t th a s
  | .vsSub t th a => Sys2Proof.Machine.execVsSub t th a s
  | .vsMul t th a => Sys2Proof.Machine.execVsMul t th a s
  | .vsDiv t th a => Sys2Proof.Machine.execVsDiv t th a s
  | .vsMax t th a => Sys2Proof.Machine.execVsMax t th a s
  | .vsMin t th a => Sys2Proof.Machine.execVsMin t th a s
  | .vsNeg t th a => Sys2Proof.Machine.execVsNeg t th a s
  | .vsAbs t th a => Sys2Proof.Machine.execVsAbs t th a s
  | .vsHalve t th a => Sys2Proof.Machine.execVsHalve t th a s
  | .vsDouble t th a => Sys2Proof.Machine.execVsDouble t th a s
  | .vsScale t th a => Sys2Proof.Machine.execVsScale t th a s
  | .vsCmp t th a => Sys2Proof.Machine.execVsCmp t th a s
  | .vsSel t th a => Sys2Proof.Machine.execVsSel t th a s
  | .vsCvt t th a => Sys2Proof.Machine.execVsCvt t th a s
  | .vsRsum t th a => Sys2Proof.Machine.execVsRsum t th a s
  | .vsStatpick t th a => Sys2Proof.Machine.execVsStatpick t th a s
  | .mvCopy t th a => Sys2Proof.Machine.execMvCopy t th a s
  | .mvFill t th a => Sys2Proof.Machine.execMvFill t th a s
  | .mvGather t th a => Sys2Proof.Machine.execMvGather t th a s
  | .mvTrans t th a => Sys2Proof.Machine.execMvTrans t th a s
  | .kvSeqset t th a => Sys2Proof.Machine.execKvSeqset t th a s
  | .kvAppend t th a => Sys2Proof.Machine.execKvAppend t th a s
  | .kvGather t th a => Sys2Proof.Machine.execKvGather t th a s
  | .kvAttn t th a => Sys2Proof.Machine.execKvAttn t th a s
  | .kvFork t th a => Sys2Proof.Machine.execKvFork t th a s
  | .kvRelease t th a => Sys2Proof.Machine.execKvRelease t th a s
  | .walkRequest t => Sys2Proof.Machine.execWalkRequest t s
  | .lodeSend t th a => Sys2Proof.Machine.execLodeSend t th a s
  | .lodeMcast t th a => Sys2Proof.Machine.execLodeMcast t th a s
  | .lodeRecv t th a => Sys2Proof.Machine.execLodeRecv t th a s
  | .lodeTreduce t th a => Sys2Proof.Machine.execLodeTreduce t th a s
  | .syNop t th a => Sys2Proof.Machine.execSyNop t th a s
  | .syFence t th a => Sys2Proof.Machine.execSyFence t th a s
  | .syWake t th a => Sys2Proof.Machine.execSyWake t th a s
  | .ctSync t th a => Sys2Proof.Machine.execCtSync t th a s
  | .ctWaittag t th a => Sys2Proof.Machine.execCtWaittag t th a s
  | .ctTag t th a => Sys2Proof.Machine.execCtTag t th a s
  | .aluAdd t th a => Sys2Proof.Machine.execAluAdd t th a s
  | .aluSub t th a => Sys2Proof.Machine.execAluSub t th a s
  | .aluAnd t th a => Sys2Proof.Machine.execAluAnd t th a s
  | .aluOr t th a => Sys2Proof.Machine.execAluOr t th a s
  | .aluXor t th a => Sys2Proof.Machine.execAluXor t th a s
  | .aluSll t th a => Sys2Proof.Machine.execAluSll t th a s
  | .aluSrl t th a => Sys2Proof.Machine.execAluSrl t th a s
  | .aluSra t th a => Sys2Proof.Machine.execAluSra t th a s
  | .aluMul t th a => Sys2Proof.Machine.execAluMul t th a s
  | .aluMulhu t th a => Sys2Proof.Machine.execAluMulhu t th a s
  | .aluDivu t th a => Sys2Proof.Machine.execAluDivu t th a s
  | .aluRemu t th a => Sys2Proof.Machine.execAluRemu t th a s
  | .aluMin t th a => Sys2Proof.Machine.execAluMin t th a s
  | .aluMax t th a => Sys2Proof.Machine.execAluMax t th a s
  | .aluMinu t th a => Sys2Proof.Machine.execAluMinu t th a s
  | .aluMaxu t th a => Sys2Proof.Machine.execAluMaxu t th a s
  | .aluClz t th a => Sys2Proof.Machine.execAluClz t th a s
  | .aluPopc t th a => Sys2Proof.Machine.execAluPopc t th a s
  | .aluSel t th a => Sys2Proof.Machine.execAluSel t th a s
  | .aluCmpeq t th a => Sys2Proof.Machine.execAluCmpeq t th a s
  | .aluCmpne t th a => Sys2Proof.Machine.execAluCmpne t th a s
  | .aluCmplt t th a => Sys2Proof.Machine.execAluCmplt t th a s
  | .aluCmpltu t th a => Sys2Proof.Machine.execAluCmpltu t th a s
  | .aluCmpge t th a => Sys2Proof.Machine.execAluCmpge t th a s
  | .aluCmpgeu t th a => Sys2Proof.Machine.execAluCmpgeu t th a s
  | .aluPand t th a => Sys2Proof.Machine.execAluPand t th a s
  | .aluPor t th a => Sys2Proof.Machine.execAluPor t th a s
  | .aluPxor t th a => Sys2Proof.Machine.execAluPxor t th a s
  | .aluPnot t th a => Sys2Proof.Machine.execAluPnot t th a s
  | .aluPmovg t th a => Sys2Proof.Machine.execAluPmovg t th a s
  | .aluDsetw t th a => Sys2Proof.Machine.execAluDsetw t th a s
  | .aluDgetw t th a => Sys2Proof.Machine.execAluDgetw t th a s
  | .aluDaddb t th a => Sys2Proof.Machine.execAluDaddb t th a s
  | .aluDadds t th a => Sys2Proof.Machine.execAluDadds t th a s
  | .aluAddi t th a => Sys2Proof.Machine.execAluAddi t th a s
  | .aluAndi t th a => Sys2Proof.Machine.execAluAndi t th a s
  | .aluOri t th a => Sys2Proof.Machine.execAluOri t th a s
  | .aluXori t th a => Sys2Proof.Machine.execAluXori t th a s
  | .aluSlli t th a => Sys2Proof.Machine.execAluSlli t th a s
  | .aluSrli t th a => Sys2Proof.Machine.execAluSrli t th a s
  | .aluSrai t th a => Sys2Proof.Machine.execAluSrai t th a s
  | .aluMovi t th a => Sys2Proof.Machine.execAluMovi t th a s
  | .aluShin t th a => Sys2Proof.Machine.execAluShin t th a s
  | .aluCmpeqi t th a => Sys2Proof.Machine.execAluCmpeqi t th a s
  | .aluCmpnei t th a => Sys2Proof.Machine.execAluCmpnei t th a s
  | .aluCmplti t th a => Sys2Proof.Machine.execAluCmplti t th a s
  | .aluCmpltui t th a => Sys2Proof.Machine.execAluCmpltui t th a s
  | .brJ t th a => Sys2Proof.Machine.execBrJ t th a s
  | .brBp t th a => Sys2Proof.Machine.execBrBp t th a s
  | .brCall t th a => Sys2Proof.Machine.execBrCall t th a s
  | .brJr t th a => Sys2Proof.Machine.execBrJr t th a s
  | .brCallr t th a => Sys2Proof.Machine.execBrCallr t th a s
  | .memLd8u t th a => Sys2Proof.Machine.execMemLd8u t th a s
  | .memLd16u t th a => Sys2Proof.Machine.execMemLd16u t th a s
  | .memLd32u t th a => Sys2Proof.Machine.execMemLd32u t th a s
  | .memLd64 t th a => Sys2Proof.Machine.execMemLd64 t th a s
  | .memSt8 t th a => Sys2Proof.Machine.execMemSt8 t th a s
  | .memSt16 t th a => Sys2Proof.Machine.execMemSt16 t th a s
  | .memSt32 t th a => Sys2Proof.Machine.execMemSt32 t th a s
  | .memSt64 t th a => Sys2Proof.Machine.execMemSt64 t th a s
  | .memAmoadd t th a => Sys2Proof.Machine.execMemAmoadd t th a s
  | .memAmoswp t th a => Sys2Proof.Machine.execMemAmoswp t th a s
  | .memAmocas t th a => Sys2Proof.Machine.execMemAmocas t th a s
  | .memDld t th a => Sys2Proof.Machine.execMemDld t th a s
  | .memDst t th a => Sys2Proof.Machine.execMemDst t th a s
  | .memFence t th a => Sys2Proof.Machine.execMemFence t th a s
  | .walkEntryReturn t ix => Sys2Proof.Machine.execWalkEntryReturn t ix s
  | .csrRd t th a => Sys2Proof.Machine.execCsrRd t th a s
  | .csrWr t th a => Sys2Proof.Machine.execCsrWr t th a s
  | .csrSet t th a => Sys2Proof.Machine.execCsrSet t th a s
  | .csrClr t th a => Sys2Proof.Machine.execCsrClr t th a s
  | .csrSwap t th a => Sys2Proof.Machine.execCsrSwap t th a s
  | .thrYield t th a => Sys2Proof.Machine.execThrYield t th a s
  | .thrEnd t th a => Sys2Proof.Machine.execThrEnd t th a s
  | .thrHend t th a => Sys2Proof.Machine.execThrHend t th a s
  | .thrWend t th a => Sys2Proof.Machine.execThrWend t th a s
  | .thrTret t th a => Sys2Proof.Machine.execThrTret t th a s
  | .thrPark t th a => Sys2Proof.Machine.execThrPark t th a s
  | .thrSvcall t th a => Sys2Proof.Machine.execThrSvcall t th a s
  | .thrBreak t th a => Sys2Proof.Machine.execThrBreak t th a s
  | .lodeSendr t th a => Sys2Proof.Machine.execLodeSendr t th a s
  | .lodeSendm t th a => Sys2Proof.Machine.execLodeSendm t th a s
  | .lodeSelect t th a => Sys2Proof.Machine.execLodeSelect t th a s
  | .kvEmit t th a => Sys2Proof.Machine.execKvEmit t th a s
  | .memoryRead pa err => Sys2Proof.Machine.execMemoryRead pa err s
  | .memoryWrite pa data errs => Sys2Proof.Machine.execMemoryWrite pa data errs s
  | .memoryAtomic pa op x y => Sys2Proof.Machine.execMemoryAtomic pa op x y s
  | .patrolScrub pa err => Sys2Proof.Machine.execPatrolScrub pa err s
  | .tmuInv t hi lo => Sys2Proof.Machine.execTmuInv t hi lo s
  | .tmuInvComplete t => Sys2Proof.Machine.execTmuInvComplete t s
  | .tdmDescriptorStart t id => Sys2Proof.Machine.execTdmDescriptorStart t id s
  | .tdmBlockLanded t id => Sys2Proof.Machine.execTdmBlockLanded t id s
  | .tdmDescriptorComplete t id => Sys2Proof.Machine.execTdmDescriptorComplete t id s
  | .channelEnable t c val => Sys2Proof.Machine.execChannelEnable t c val s
  | .channelDisable t c => Sys2Proof.Machine.execChannelDisable t c s
  | .grantRequest ix => Sys2Proof.Machine.execGrantRequest ix s
  | .creditGrant ix => Sys2Proof.Machine.execCreditGrant ix s
  | .queueEnable t q val => Sys2Proof.Machine.execQueueEnable t q val s
  | .queueDisable t q => Sys2Proof.Machine.execQueueDisable t q s
  | .groupEnable t g val => Sys2Proof.Machine.execGroupEnable t g val s
  | .messageAccept t tag => Sys2Proof.Machine.execMessageAccept t tag s
  | .messageArrival ix => Sys2Proof.Machine.execMessageArrival ix s
  | .messageAppend t q => Sys2Proof.Machine.execMessageAppend t q s
  | .creditReturn ix => Sys2Proof.Machine.execCreditReturn ix s
  | .handlerDispatch t => Sys2Proof.Machine.execHandlerDispatch t s
  | .remoteMemoryRequest ix => Sys2Proof.Machine.execRemoteMemoryRequest ix s
  | .remoteMemoryResponse ix => Sys2Proof.Machine.execRemoteMemoryResponse ix s
  | .portEnable p val => Sys2Proof.Machine.execPortEnable p val s
  | .portDisable p val => Sys2Proof.Machine.execPortDisable p val s
  | .portRetrain p => Sys2Proof.Machine.execPortRetrain p s
  | .linkidFlit p devid port => Sys2Proof.Machine.execLinkidFlit p devid port s
  | .trainingComplete p lanes precode => Sys2Proof.Machine.execTrainingComplete p lanes precode s
  | .trainingAttemptTimeout p => Sys2Proof.Machine.execTrainingAttemptTimeout p s
  | .retrainTimeout p => Sys2Proof.Machine.execRetrainTimeout p s
  | .codewordLockLoss p => Sys2Proof.Machine.execCodewordLockLoss p s
  | .replayLimit p => Sys2Proof.Machine.execReplayLimit p s
  | .flitTransmit p => Sys2Proof.Machine.execFlitTransmit p s
  | .flitReceive p head payload crc err => Sys2Proof.Machine.execFlitReceive p head payload crc err s
  | .ackTimer p => Sys2Proof.Machine.execAckTimer p s
  | .packetForward ix => Sys2Proof.Machine.execPacketForward ix s
  | .fenCtlForm => Sys2Proof.Machine.execFenCtlForm s
  | .helloReceive p h => Sys2Proof.Machine.execHelloReceive p h s
  | .formWaitExpiry => Sys2Proof.Machine.execFormWaitExpiry s
  | .fenAssignmentReceive a => Sys2Proof.Machine.execFenAssignmentReceive a s
  | .fenAssignmentAck devid => Sys2Proof.Machine.execFenAssignmentAck devid s
  | .fenCommit fepoch master => Sys2Proof.Machine.execFenCommit fepoch master s
  | .formationTimeout => Sys2Proof.Machine.execFormationTimeout s
  | .fenCtlDissolve => Sys2Proof.Machine.execFenCtlDissolve s
  | .dissolveComplete => Sys2Proof.Machine.execDissolveComplete s
  | .tbuSetNs hi lo => Sys2Proof.Machine.execTbuSetNs hi lo s
  | .tbuNowRead frv => Sys2Proof.Machine.execTbuNowRead s frv
  | .syncPeriod => Sys2Proof.Machine.execSyncPeriod s
  | .syncReceive p xseq ns frac => Sys2Proof.Machine.execSyncReceive p xseq ns frac s
  | .dreqReceive p xseq => Sys2Proof.Machine.execDreqReceive p xseq s
  | .drspReceive p xseq ns frac stepped => Sys2Proof.Machine.execDrspReceive p xseq ns frac stepped s
  | .announceReceive p mrank depth src errbnd => Sys2Proof.Machine.execAnnounceReceive p mrank depth src errbnd s
  | .drspTimeout => Sys2Proof.Machine.execDrspTimeout s
  | .servoHoldover => Sys2Proof.Machine.execServoHoldover s
  | .ppsInEdge short => Sys2Proof.Machine.execPpsInEdge short s
  | .ppsHoldTimeout => Sys2Proof.Machine.execPpsHoldTimeout s
  | .tbuSecond => Sys2Proof.Machine.execTbuSecond s
  | .ppsWidthExpiry => Sys2Proof.Machine.execPpsWidthExpiry s
  | .tileIdleDoze t => Sys2Proof.Machine.execTileIdleDoze t s
  | .tileIdleNap t => Sys2Proof.Machine.execTileIdleNap t s
  | .tileIdleSleep t => Sys2Proof.Machine.execTileIdleSleep t s
  | .powerEntryComplete t => Sys2Proof.Machine.execPowerEntryComplete t s
  | .tileWakeRequest t full => Sys2Proof.Machine.execTileWakeRequest t full s
  | .tileWakeComplete t => Sys2Proof.Machine.execTileWakeComplete t s
  | .tpcWake fn t => Sys2Proof.Machine.execTpcWake fn t s
  | .tpcOff fn t => Sys2Proof.Machine.execTpcOff fn t s
  | .tpcOn fn t => Sys2Proof.Machine.execTpcOn fn t s
  | .tilePowerUpComplete t => Sys2Proof.Machine.execTilePowerUpComplete t s
  | .fabricRegionIdle ix => Sys2Proof.Machine.execFabricRegionIdle ix s
  | .fabricRegionUngate ix => Sys2Proof.Machine.execFabricRegionUngate ix s
  | .hbmIdleTimeout k => Sys2Proof.Machine.execHbmIdleTimeout k s
  | .hbmSelfRefreshExit k => Sys2Proof.Machine.execHbmSelfRefreshExit k s
  | .pcmSample rails temps uj => Sys2Proof.Machine.execPcmSample rails temps uj s
  | .checkpointSnapshot => Sys2Proof.Machine.execCheckpointSnapshot s
  | .heldWriteRelease block => Sys2Proof.Machine.execHeldWriteRelease block s
  | .checkpointImageFinish => Sys2Proof.Machine.execCheckpointImageFinish s
  | .mbxGo => Sys2Proof.Machine.execMbxGo s
  | .getUsr q => Sys2Proof.Machine.execGetUsr q s
  | .online q => Sys2Proof.Machine.execOnline q s
  | .offline q => Sys2Proof.Machine.execOffline q s
  | .quarantine q => Sys2Proof.Machine.execQuarantine q s
  | .forceQuarantine q => Sys2Proof.Machine.execForceQuarantine q s
  | .fenForm q => Sys2Proof.Machine.execFenForm q s
  | .fenDissolve q => Sys2Proof.Machine.execFenDissolve q s
  | .svnCommit q => Sys2Proof.Machine.execSvnCommit q s
  | .fwStatus q => Sys2Proof.Machine.execFwStatus q s
  | .setPolicy q => Sys2Proof.Machine.execSetPolicy q s
  | .setEndpointId m id => Sys2Proof.Machine.execSetEndpointId m id s
  | .getEndpointId m => Sys2Proof.Machine.execGetEndpointId m s
  | .getEndpointUuid m => Sys2Proof.Machine.execGetEndpointUuid m s
  | .getMctpVersionSupport m => Sys2Proof.Machine.execGetMctpVersionSupport m s
  | .getMessageTypeSupport m => Sys2Proof.Machine.execGetMessageTypeSupport m s
  | .getVendorDefinedMessageSupport m => Sys2Proof.Machine.execGetVendorDefinedMessageSupport m s
  | .setTid m id => Sys2Proof.Machine.execSetTid m id s
  | .getTid m => Sys2Proof.Machine.execGetTid m s
  | .getPldmVersion m ty => Sys2Proof.Machine.execGetPldmVersion m ty s
  | .getPldmTypes m => Sys2Proof.Machine.execGetPldmTypes m s
  | .getPldmCommands m ty => Sys2Proof.Machine.execGetPldmCommands m ty s
  | .getPdrRepositoryInfo m => Sys2Proof.Machine.execGetPdrRepositoryInfo m s
  | .getPdr m handle => Sys2Proof.Machine.execGetPdr m handle s
  | .getSensorReading m id => Sys2Proof.Machine.execGetSensorReading m id s
  | .getStateSensorReadings m id => Sys2Proof.Machine.execGetStateSensorReadings m id s
  | .setNumericSensorEnable m id on => Sys2Proof.Machine.execSetNumericSensorEnable m id on s
  | .setStateSensorEnables m id on => Sys2Proof.Machine.execSetStateSensorEnables m id on s
  | .setEventReceiver m id => Sys2Proof.Machine.execSetEventReceiver m id s
  | .getEventReceiver m => Sys2Proof.Machine.execGetEventReceiver m s
  | .sensorPoll => Sys2Proof.Machine.execSensorPoll s
  | .queryDeviceIdentifiers m => Sys2Proof.Machine.execQueryDeviceIdentifiers m s
  | .getFirmwareParameters m => Sys2Proof.Machine.execGetFirmwareParameters m s
  | .requestUpdate m => Sys2Proof.Machine.execRequestUpdate m s
  | .passComponentTable m id => Sys2Proof.Machine.execPassComponentTable m id s
  | .updateComponent m id size => Sys2Proof.Machine.execUpdateComponent m id size s
  | .firmwareDataReceive m data => Sys2Proof.Machine.execFirmwareDataReceive m data s
  | .activateFirmware m selfContained => Sys2Proof.Machine.execActivateFirmware m selfContained s
  | .getStatus m => Sys2Proof.Machine.execGetStatus m s
  | .cancelUpdateComponent m => Sys2Proof.Machine.execCancelUpdateComponent m s
  | .cancelUpdate m => Sys2Proof.Machine.execCancelUpdate m s
  | .getVersion m => Sys2Proof.Machine.execGetVersion m s
  | .getCapabilities m => Sys2Proof.Machine.execGetCapabilities m s
  | .negotiateAlgorithms m supported => Sys2Proof.Machine.execNegotiateAlgorithms m supported s
  | .getDigests m => Sys2Proof.Machine.execGetDigests m s
  | .getCertificate m slot off len => Sys2Proof.Machine.execGetCertificate m slot off len s
  | .challenge m slot => Sys2Proof.Machine.execChallenge m slot s
  | .getMeasurements m index => Sys2Proof.Machine.execGetMeasurements m index s
  | .keyExchange m id => Sys2Proof.Machine.execKeyExchange m id s
  | .finish m id valid => Sys2Proof.Machine.execFinish m id valid s
  | .heartbeat m id => Sys2Proof.Machine.execHeartbeat m id s
  | .keyUpdate m id => Sys2Proof.Machine.execKeyUpdate m id s
  | .endSession m id => Sys2Proof.Machine.execEndSession m id s
  | .bootRom => Sys2Proof.Machine.execBootRom s
  | .onlineRetry => Sys2Proof.Machine.execOnlineRetry s
  | .unitFailDeclare code unit => Sys2Proof.Machine.execUnitFailDeclare code unit s
  | .failureNoticeReceive rank n => Sys2Proof.Machine.execFailureNoticeReceive rank n s
  | .heartbeatSend => Sys2Proof.Machine.execHeartbeatSend s
  | .heartbeatReceive rank => Sys2Proof.Machine.execHeartbeatReceive rank s
  | .heartbeatMiss rank => Sys2Proof.Machine.execHeartbeatMiss rank s
  | .fenceCompleteReport rank ix => Sys2Proof.Machine.execFenceCompleteReport rank ix s
  | .drainFenceComplete ix => Sys2Proof.Machine.execDrainFenceComplete ix s
  | .fenStopNotice rank => Sys2Proof.Machine.execFenStopNotice rank s
  | .fenstopClr => Sys2Proof.Machine.execFenstopClr s
  | .fltInject code unit => Sys2Proof.Machine.execFltInject code unit s
  | .logSelWrite ix => Sys2Proof.Machine.execLogSelWrite ix s
  | .coldReset => Sys2Proof.Machine.execColdReset s
  | .coldResetEnd straps => Sys2Proof.Machine.execColdResetEnd straps s
  | .warmReset perst => Sys2Proof.Machine.execWarmReset perst s
  | .tileReset t => Sys2Proof.Machine.execTileReset t s
  | .tileResetDrainTimeout t => Sys2Proof.Machine.execTileResetDrainTimeout t s
  | .perstLRelease => Sys2Proof.Machine.execPerstLRelease s
  | .hbmTrainingComplete k good => Sys2Proof.Machine.execHbmTrainingComplete k good s
  | .msixVectorUnmask fn vec => Sys2Proof.Machine.execMsixVectorUnmask fn vec s
  | .allotmentReturn ix => Sys2Proof.Machine.execAllotmentReturn ix s
  | .pcieCompletionTimeout fn r => Sys2Proof.Machine.execPcieCompletionTimeout fn r s
  | .moduleInterrupt k => Sys2Proof.Machine.execModuleInterrupt k s
  | .smbusClockLowTimeout => Sys2Proof.Machine.execSmbusClockLowTimeout s
  | .boundaryScan tms tdi trst => Sys2Proof.Machine.execBoundaryScan tms tdi trst s

end Sys2Proof.Machine
end

