-- ==== Sys2Proof/Machine/Tick.lean ====
section
/-! DEFINITION. A tick of the clocks while no command waits (DESIGN CHOICE, unsafe, log entry 2): one TBU clock cycle, with the QCLK and FCLK cycles that fall
in it. -/
namespace Sys2Proof.Machine

/-- A pass at the head of the order is ready and waits for its panel (Table 4-10, CNT_STALL_PANEL). -/
def State.panelStall (s : State) (t : Fin 8) : Bool :=
  match (s.tile t).rbHead with
  | none => false
  | some (_, r) => r.op = .mmPass && r.st = .queued && !s.opReadsOut t r.seq && r.xfb 84 1 ≠ 1 &&
      (match (s.tile t).rb.shadow with
        | some p => decide (p.seq ≠ r.seq)
        | none => true)

/-- MAIN waits for a free tag (Table 7-17, CNT_STALL_TAG). -/
def Tile.tagStall (x : Tile) : Bool := (x.thr 0).st = .stall && (x.thr 0).wait = .noTag && 256 ≤ x.ops.length

/-- A drain waits for its reduction slot, which an earlier group holds (R124). -/
def State.drainWaits (s : State) (t : Fin 8) : Bool := s.comb.any (fun e => e.2.wait.any (fun p => p.tile = t.val && p.op.op.cls = 0))

/-- n QCLK cycles of a tile in Run: CYCLE (Table 7-15) and the counters of waiting cycles; which cycles a throttle holds is timing, a
free number of them (R370, DESIGN CHOICE, safe, log entry 5). -/
def State.tileCycles (s : State) (t : Fin 8) (n : Nat) : State :=
  if !s.unitsRun t then s
  else
    let x := s.tile t
    let put (c : Bool) (f : Fld) (s : State) : State := if c then s.count f t.val n else s
    let s1 := s.onTile t (fun x => { x with cycles := (x.cycles + n) % 2 ^ 64 })
    let s2 := put x.tagStall F.TCC_CNT_STALL_TAG_COUNT s1
    let s3 := put (x.ops.any (fun p => p.2.st = .wait)) F.TSC_CNT_HAZARD_COUNT s2
    let s4 := put (x.ops.any (fun p => p.2.st = .wake)) F.TSC_CNT_WAKE_COUNT s3
    let s5 := put (s.panelStall t) F.RB_CNT_STALL_PANEL_COUNT s4
    let s6 := put (s.kvStalled t) F.KVE_CNT_FREE_STALL_COUNT s5
    let s7 := put (s.drainWaits t) F.RB_CNT_STALL_DRAIN_COUNT s6
  if s.rd F.PCM_STATUS_DUTY 0 = 0 then s7 else s7.count F.TPC_CNT_THROTTLE_COUNT t.val (min n (s.free (8 * s.ns + t.val)))

/-- A microsecond of a tile's power state (Table 14-9). -/
def State.tileMicro (s : State) (t : Fin 8) : State :=
  match s.rd F.TPC_STATUS_STATE t.val with
  | 0 => s.count F.TPC_CNT_RUN_US_COUNT t.val 1
  | 2 => s.count F.TPC_CNT_NAP_US_COUNT t.val 1
  | 3 => s.count F.TPC_CNT_SLEEP_US_COUNT t.val 1
  | _ => s

/-- The count rises by INC (R350), and the servo's phase term ends with its period (R357). -/
def State.countTick (s : State) : State :=
  let c := (s.count96 + s.rd F.TBU_INC_INC 0) % 2 ^ 96
  let s1 : State := { s with ns := c / 2 ^ 32, frac := c % 2 ^ 32, tbu := { s.tbu with left := s.tbu.left - 1 } }
  if s.tbu.left = 1 then s1.phaseOff else s1

/-- REF10M_OUT's time in its period of 100 ns, in units of 2^-32 ns: REF10M_CFG.ADJ after a count whose NS is a multiple of 100 (R361). -/
def State.refTime (s : State) : Nat := (((s.count96 : Int) - signed 32 (s.rd F.TBU_REF10M_CFG_ADJ 0) * 2 ^ 24) % (100 * 2 ^ 32)).toNat

/-- REF10M_OUT in a cycle (R361): high in the first half of its period. After a step it takes its new phase by moving one edge: an edge comes no
sooner than 40 ns after the last, and not where the next would follow it sooner; without EN it stays low. -/
def State.refTick (s : State) : State :=
  let x := s.refTime
  let level := decide (x < 50 * 2 ^ 32)
  let rest := 50 * 2 ^ 32 - x % (50 * 2 ^ 32)
  let aged : State := { s with pins := { s.pins with refAge := min 40 (s.pins.refAge + 1) } }
  let edge (b : Bool) : State := ({ s with pins := { s.pins with ref10m := b, refAge := 0 } } : State).emit (.other "REF10M_OUT" [b.toNat])
  if !s.flag F.TBU_REF10M_CFG_EN 0 then (if s.pins.ref10m then edge false else aged)
  else if level ≠ s.pins.ref10m && decide (39 ≤ s.pins.refAge) && decide (40 * 2 ^ 32 ≤ rest) then edge level
  else aged

/-- One TBU tick: the count rises and REF10M_OUT follows it; a tile in Run runs 1.25 QCLK cycles, as five in four ticks; at a microsecond the power counters
count; a request that waits for a tag counts a cycle (R344); one byte that relaxed order holds back, a free one, reaches host memory (R380). Nothing
runs while cold reset is held. -/
def State.tick (s : State) : State :=
  if !s.moss then s
  else
    let s1 := s.countTick.refTick
    let s2 := allTiles.foldl (fun u t => u.tileCycles t (if s.ns % 4 = 3 then 2 else 1)) s1
    let s3 := if s1.ns / 1000 = s.ns / 1000 then s2 else allTiles.foldl (fun u t => u.tileMicro t) s2
    let s4 := if s.remWait ≠ [] then s3.count F.FEN_CNT_TAGWAIT_COUNT 0 1 else s3
    if s4.relaxed = [] then s4 else (s4.relaxLand (s.free s.ns)).drawn

end Sys2Proof.Machine
end

