-- ==== Sys2Proof/Machine/View.lean ====
section
/-! DEFINITION. What a BAR0 read returns (R5, R9, R376, R491, R492): the fields the model computes from the rest of the state, and the others
as held. No row of the table reads a register; statements and comparisons do. -/
namespace Sys2Proof.Machine

/-- Bank state of Table 4-9: a chasing drain reads 3. -/
def State.bankState (s : State) (t : Fin 8) (b : Fin 2) : Nat :=
  let x := s.tile t
  let runs (p : OpRec → Bool) : Bool := x.ops.any (fun e => e.2.op.cls = 0 && e.2.st = .run && e.2.bank = b && p e.2)
  if runs (fun r => r.op = .mmDrain || (r.op = .mmPass && r.xfb 85 1 = 1)) then 3
  else if runs (fun _ => true) then 2
  else if x.rb.banks[b].valid then 1 else 0

/-- Unretired operations of a class (their unit's BUSY). -/
def Tile.classCount (x : Tile) (c : Nat) : Nat := (x.ops.filter (fun p => decide (p.2.op.cls = c))).length

/-- Those of them that the unit has received (its QUEUED): operations in WAIT or WAKE are not dispatched. -/
def Tile.received (x : Tile) (c : Nat) : Nat :=
  (x.ops.filter (fun p => decide (p.2.op.cls = c) && p.2.st ≠ .wait && p.2.st ≠ .wake)).length

/-- A bit as a number. -/
def bit (b : Bool) : Nat := b.toNat

/-- Free slots of a port's receive buffer: none while there is no link (Table 13-7). -/
def State.rxFree (s : State) (p v cls : Nat) : Nat :=
  if s.pState p = pUp ∨ s.pState p = pRetrain then vcSize v - s.heldFlits p v cls else 0

/-- Fields of TCC, TSC, RB, SFU, KVE and TDM that the model computes. -/
def State.tileField (s : State) (f : Fld) (t : Fin 8) (i : Nat) : Option Nat :=
  let x := s.tile t
  if f = F.TCC_STATUS_MAIN_STATE then some (x.thr 0).st.code
  else if f = F.TCC_STATUS_MSG_STATE then some (x.thr 1).st.code
  else if f = F.TCC_STATUS_WALK_STATE then some (x.thr 2).st.code
  else if f = F.TCC_STATUS_SVC_STATE then some (x.thr 3).st.code
  else if f = F.TCC_STATUS_TRAP_ACTIVE then some (bit x.active.isSome)
  else if f = F.TCC_STATUS_DOUBLE_FAULT then some (bit x.doubleFault)
  else if f = F.TCC_STATUS_OPTRAPS then some x.opTraps
  else if f = F.TCC_PC_PC then some (x.threads[i]?.getD .reset).pc
  else if f = F.TCC_TRAP_CAUSE_COPY then some x.csr.cause
  else if f = F.TCC_TRAP_PC_COPY then some x.csr.pc
  else if f = F.TCC_TRAP_OP_COPY then some x.csr.op
  else if f = F.TCC_TRAP_INFO_COPY then some x.csr.info
  else if f = F.TSC_INFLIGHT_COUNT then some x.ops.length
  else if f = F.TSC_INFLIGHT_WAITING then some (x.ops.filter (fun p => p.2.st = .wait || p.2.st = .wake)).length
  else if f = F.TSC_INFLIGHT_NEXT_TAG then some x.nextTag
  else if f = F.TSC_INFLIGHT_HOLDS then some x.holds.length
  else if f = F.TSC_TOKENS_SIGNALLED then some (x.signalled.toNat / 2)
  else if f = F.TSC_TOKENS_ARMED then some (x.armed.toNat / 2)
  else if f = F.TSC_TAGMAP_ALLOC then
    some ((x.ops.filter (fun p => decide (p.1 / 64 = i))).foldl (fun n p => n + 2 ^ (p.1 % 64)) 0)
  else if f = F.RB_STATUS_BUSY then some (min 1 (x.classCount 0))
  else if f = F.RB_STATUS_BANKA_STATE then some (s.bankState t 0)
  else if f = F.RB_STATUS_BANKB_STATE then some (s.bankState t 1)
  else if f = F.RB_STATUS_BANKA_MODE then some (bit x.rb.banks[0].long)
  else if f = F.RB_STATUS_BANKB_MODE then some (bit x.rb.banks[1].long)
  else if f = F.RB_STATUS_BIASA_VALID then some (bit x.rb.banks[0].biasValid)
  else if f = F.RB_STATUS_BIASB_VALID then some (bit x.rb.banks[1].biasValid)
  else if f = F.RB_STATUS_PANEL_VALID then some (bit x.rb.active.isSome)
  else if f = F.RB_STATUS_SHADOW_FULL then some (bit x.rb.shadow.isSome)
  else if f = F.RB_STATUS_LANDED then some x.rb.landing.length
  else if f = F.RB_STATUS_QUEUED then some (x.received 0)
  else if f = F.SFU_STATUS_BUSY then some (min 1 (x.classCount 2))
  else if f = F.SFU_STATUS_QUEUED then some (x.received 2)
  else if f = F.SFU_ROM_CRC_COMPAT then some romCrcCompat
  else if f = F.KVE_STATUS_BUSY then some (min 1 (x.classCount 4))
  else if f = F.KVE_STATUS_QUEUED then some (x.received 4)
  else if f = F.KVE_STATUS_WALKING then some (bit (x.kve.cur.isSome || x.kve.queue ≠ []))
  else if f = F.KVE_STATUS_DQ_COUNT then some x.dqCount
  else if f = F.TDM_STATUS_BUSY then some (bit (x.tdm.any (fun d => d.engine = i && d.started)))
  else if f = F.TDM_STATUS_DESC then some (x.tdm.filter (fun d => decide (d.engine = i))).length
  else if f = F.TDM_POOL_INFLIGHT then some x.tdm.length
  else none

/-- Fields of the LEP that the model computes; `sbuf` units of its send buffer are in use. -/
def State.lepField (s : State) (f : Fld) (t : Fin 8) (i sbuf : Nat) : Option Nat :=
  let x := s.tile t
  let q := s.queue t i
  if f = F.LEP_STATUS_MSG_BUSY then some (bit (x.lep.held.find? 1).isSome)
  else if f = F.LEP_STATUS_MSGQ then some (match x.lep.held.find? 1 with | some h => h.queue | none => 0)
  else if f = F.LEP_STATUS_SBUF_FREE then some (1024 - sbuf)
  else if f = F.LEP_Q_STATUS_COUNT then some q.fifo.length
  else if f = F.LEP_Q_STATUS_ALLOTTED then some q.allotted
  else if f = F.LEP_Q_USE_FREE then some (if s.qState t i = 0 then 0 else s.rd F.LEP_Q_CFG_SLOTS t.val i - q.slots.length)
  else if f = F.LEP_Q_USE_HELD then some (q.slots.filter (fun p => p.2.st = .held)).length
  else if f = F.LEP_Q_USE_RESERVED then some q.resv.length
  else if f = F.LEP_GRP_STATE_AVAIL then some (s.groupAvail t i)
  else none

/-- A tile's block as its registers show it: live while it runs, else as it stood when it stopped (R13). -/
def State.asSeen (s : State) (t : Fin 8) (b : Blk) : State × Nat :=
  if s.blkRuns t b then (s, s.sbufUsed t)
  else match s.seen.find? t.val with
    | none => (s, s.sbufUsed t)
    | some k => ({ s with
        tiles := s.tiles.set t k.tile
        regs := k.regs ++ s.regs.filter (fun e => tileBlks.all (fun b => decide (e.1 / 67108864 ≠ b.num * 32 + t.val))) }, k.sbuf)

/-- A field as a read sees it, of a block that runs. -/
def State.liveView (s : State) (fn : Nat) (f : Fld) (inst i sbuf : Nat) : Nat :=
  let o : Option Nat := match f.blk with
    | .lep => s.lepField f (tileOf inst) i sbuf
    | .tcc | .tsc | .rb | .sfu | .kve | .tdm => s.tileField f (tileOf inst) i
    | .hiu =>
      if f = F.HIU_FUNC_FN then some fn
      else if f = F.HIU_FUNC_TILES then some ((List.range 8).foldl (fun n k => if s.hasTile fn k && s.unitIn k then n + 2 ^ k else n) 0)
      else if f = F.HIU_TIME_NOW_NS then some s.ns
      else none
    | .tbu => if f = F.TBU_NOW_NS_NS then some s.ns else none
    | .cwp =>
      if f = F.CWP_VC_RXFREE0 then some (s.rxFree inst i 0)
      else if f = F.CWP_VC_RXFREE1 then some (s.rxFree inst i 1)
      else none
    | .frv => if f = F.FRV_USR_LEASED then some (bit (s.leased i)) else none
    | _ => none
  o.getD (s.rd f inst i) % 2 ^ f.w

/-- A field as a read sees it. -/
def State.fieldView (s : State) (fn : Nat) (f : Fld) (inst i : Nat) : Nat :=
  if f.blk.ofTile then (s.asSeen (tileOf inst) f.blk).1.liveView fn f inst i (s.asSeen (tileOf inst) f.blk).2
  else s.liveView fn f inst i 0

/-- A 64-bit register as a read sees it; a WO field reads zero. -/
def State.regView (s : State) (fn : Nat) (l : List Fld) (inst i : Nat) : Nat :=
  l.foldl (fun n f => if f.acc = .wo then n else n + s.fieldView fn f inst i * 2 ^ f.lo) 0

/-- A block whose function may read it (R376). -/
def State.shows (s : State) (fn : Nat) (b : Blk) (inst off : Nat) : Bool :=
  if b.ofTile then fn = 0 || (s.hasTile fn inst && s.unitIn inst)
  else if b = .hiu then fn = 0 || off < 0x80000
  else fn = 0

/-- A BAR0 read: none is Unsupported Request (DEDUCED, unsafe, log entry 43). -/
def State.bar0Read (s : State) (fn off width : Nat) : Option Nat :=
  if !s.fnTakes fn || !bar0Ok off width then none
  else match bar0At fn off with
    | none => some 0
    | some (b, inst, o) => match regAt b (o / 8 * 8) with
      | none => some 0
      | some (l, _, i) =>
        if s.shows fn b inst o then
          let v := s.regView fn l inst i
          some (if width = 8 then v else if o % 8 = 0 then v % 2 ^ 32 else v / 2 ^ 32)
        else some 0

end Sys2Proof.Machine
end

