-- ==== Sys2Proof/WellFormed.lean ====
section
/-! DEFINITION. Well-formed commands: the operands a command of the table can carry. -/
namespace Sys2Proof

/-- What is wrong with an ill-formed command. -/
inductive Ill where
  /-- A BAR0 offset beyond 64 MiB (R375), or an access wider than 8 bytes. -/
  | bar0
  /-- An enabling write whose EN bit is 0, or a disabling one whose EN bit is 1. -/
  | enBit
  /-- PART_CFG of function 0, which has none (R377). -/
  | partFn
  /-- A BAR2 access of no bytes, with another number of bytes than it says, or beyond the largest BAR2 (R375). -/
  | bar2
  /-- A page number beyond a 64-bit host address (R381). -/
  | page
  /-- A memory access outside the 52-bit address space, or one that is not one granule, one write of up to 256 bytes, or an aligned
  8-byte atomic (R214, R235). -/
  | memory
  /-- A received flit without one count of wrong symbols a lane (R326, R327). -/
  | flit
  /-- A HELLO or an assignment whose fields exceed their widths (R337, R338). -/
  | fen
  /-- A sample without 15 rails, 17 temperatures and 8 energies (R369). -/
  | sample
  /-- A transfer of no bytes, or of more than an MCTP message carries (R417). -/
  | transfer
  /-- A notice that names a rank, unit or function that cannot be (Tables 16-3 and 17-1). -/
  | notice
  deriving DecidableEq, Repr

/-- Reject on a condition. -/
def Ill.when (c : Bool) (i : Ill) : Option Ill := if c then some i else none

/-- The fields of a HELLO are within their widths. -/
def helloFits (h : Machine.Hello) : Bool := h.devid < 2 ^ 64 && h.fepoch < 2 ^ 16 && h.prio < 2 ^ 8

/-- The fields of an assignment are within their widths. -/
def assignFits (a : Machine.Assignment) : Bool :=
  a.devid < 2 ^ 64 && a.rank < 64 && 1 ≤ a.size && a.size ≤ 64 && a.members < 2 ^ 64 && a.shape < 4 && a.leader < 64 &&
    a.portmap.length = 16 && a.routes.length = 64

/-- A notice names a rank, unit or function there can be. -/
def noticeFits : Notice → Bool
  | .rank d => d < 64
  | .unit u => u < 40
  | .fn f => f < 32

/-- What is wrong with a command, if anything. -/
def illFormed (c : Instr) : Option Ill :=
  match c with
  | .registerWrite _ off width _ => Ill.when (0x4000000 ≤ off || 8 < width) .bar0
  | .ringEnable _ _ v | .channelEnable _ _ v | .queueEnable _ _ v | .groupEnable _ _ v | .portEnable _ v => Ill.when (!v.getLsbD 0) .enBit
  | .ringDisable _ _ v | .portDisable _ v => Ill.when (v.getLsbD 0) .enBit
  | .partEnable f v => (Ill.when (f.val = 0) .partFn).or (Ill.when (!v.getLsbD 0) .enBit)
  | .partDisable f v => (Ill.when (f.val = 0) .partFn).or (Ill.when (v.getLsbD 0) .enBit)
  | .bar2Access _ off len data => Ill.when (len = 0 || 2 ^ 39 < off + len || (match data with | some bs => bs.length ≠ len | none => false)) .bar2
  | .atsTranslationCompletion _ page host _ => Ill.when (2 ^ 52 ≤ page || 2 ^ 52 ≤ host.getD 0) .page
  | .memoryRead pa _ | .patrolScrub pa _ => Ill.when (2 ^ 52 ≤ pa || pa % 32 ≠ 0) .memory
  | .memoryWrite pa data _ =>
    Ill.when (2 ^ 52 ≤ pa || data.length = 0 || pa / 256 ≠ (pa + data.length - 1) / 256) .memory
  | .memoryAtomic pa _ _ _ => Ill.when (2 ^ 52 ≤ pa || pa % 8 ≠ 0) .memory
  | .flitReceive _ _ _ _ err => Ill.when (decide (err.length ≠ 8)) .flit
  | .helloReceive _ h => Ill.when (!helloFits h) .fen
  | .fenAssignmentReceive a => Ill.when (!assignFits a) .fen
  | .pcmSample rails temps uj => Ill.when (rails.length ≠ 15 || temps.length ≠ 17 || uj.length ≠ 8) .sample
  | .firmwareDataReceive _ data => Ill.when (data.length = 0) .transfer
  | .failureNoticeReceive _ n => Ill.when (!noticeFits n) .notice
  | _ => none

/-- A command is well-formed. -/
abbrev wellFormed (c : Instr) : Prop := illFormed c = none

end Sys2Proof
end

