-- ==== Sys2Proof/Safety.lean ====
section
/-! DEFINITION. What claims call a well-kept state and a safe step. -/
namespace Sys2Proof.Machine

/-- A memory is in its one canonical form: addresses rise strictly, and no listed byte is 0, what an unlisted address reads as (DESIGN CHOICE, unsafe, log entry 3). -/
abbrev Memory.wf (m : SMap Byte) : Bool := SMap.wf 0 m

/-- Device memory and host memory are in canonical form. -/
def State.memWf (s : State) : Bool := Memory.wf s.mem && Memory.wf s.hostMem

/-- A step is safe: it answers a next state. -/
def State.stepSafe (s : State) : Prop := ∃ t, step s = .next t

/-! ### Psirra-S instructions: when one issues, and what retiring it leaves alone -/

/-- A thread can issue a Psirra-S instruction now, within the handler bound, and its word can be fetched at once. -/
def State.issues (s : State) (t : Fin 8) (th : Thr) : Prop :=
  s.canIssue t (thrIx th) = true ∧ (th = .msg → (s.thr t 1).hsteps < 4096) ∧ s.fetchCheck t (thrIx th) 4 = .ok () ∧ s.fetchAts t (thrIx th) = none

/-- The state once a thread's fetch has reached its memory: unchanged where the instruction cache serves it. -/
def State.sought (s : State) (t : Fin 8) (th : Thr) : State := s.fetchReach t (thrIx th) 4

/-- The state once a thread's word is fetched: cached, and counted unless the instruction is tried again. -/
def State.fetched (s : State) (t : Fin 8) (th : Thr) (word : Nat) : State :=
  ((s.sought t th).cacheInsn t (thrIx th) word).count F.TCC_CNT_ISSUE_S_COUNT t.val (if (s.thr t (thrIx th)).st = .ready then 1 else 0)

/-- Reaching memory changes only translations held, wake requests, and the registers that show or count these and the stacks' traffic. -/
def State.reachOnly (s r : State) : Prop :=
  r = { s with regs := r.regs, tiles := r.tiles } ∧
  (∀ v, r.tile v = { s.tile v with tlb := (r.tile v).tlb, wcache := (r.tile v).wcache, tpc := (r.tile v).tpc }) ∧
  ∀ k, r.regs.find? k = s.regs.find? k ∨
    ∃ f ∈ [F.TMU_CNT_MISS_COUNT, F.TMU_CNT_WALK_COUNT, F.TPC_STATUS_WAKING, F.HMC_STATUS_STATE, F.HMC_CNT_RD_BYTES, F.PCM_STATUS_FABGATED, F.PCM_STATUS_FPLL_OFF],
      ∃ i, k = f.key i 0

/-- From r, where an instruction's accesses have reached their memory, nothing differs but one thread, its tile's instruction cache and the
tile's count of issued Psirra-S instructions. -/
def State.onlyThread (s r u : State) (t : Fin 8) (th : Thr) : Prop :=
  s.reachOnly r ∧ u = { r with regs := u.regs, tiles := u.tiles } ∧
  (∀ k, k ≠ F.TCC_CNT_ISSUE_S_COUNT.key t.val 0 → u.regs.find? k = r.regs.find? k) ∧
  (∀ v, v ≠ t → u.tile v = r.tile v) ∧
  u.tile t = { r.tile t with threads := (u.tile t).threads, icache := (u.tile t).icache } ∧
  (∀ h, h ≠ thrIx th → u.thr t h = s.thr t h)

/-- A thread has retired an instruction and is READY at a pc; its general and predicate registers apart, it is as it was. -/
def Thread.retired (x y : Thread) (th : Thr) (pc : Nat) : Prop :=
  y = { x with
    g := y.g, p := y.p, st := .ready, wait := .none, pc := pc % 2 ^ 48, instret := x.instret + 1
    hsteps := if th = .msg then x.hsteps + 1 else x.hsteps }

/-- The instruction wrote a general register; a write of g0 is discarded. -/
def Thread.wroteG (x y : Thread) (i : Nat) (v : Word) : Prop :=
  (∀ j, y.getG j = if j = i ∧ i ≠ 0 then v else x.getG j) ∧ ∀ j, j < 8 → y.getP j = x.getP j

/-- The instruction wrote a predicate; a write of p0 is discarded. -/
def Thread.wroteP (x y : Thread) (i : Nat) (b : Bool) : Prop :=
  (∀ j, j < 8 → y.getP j = if j = i ∧ i ≠ 0 then b else x.getP j) ∧ ∀ j, y.getG j = x.getG j

/-- A Psirra-S instruction, its accesses having left r, wrote one general register and went on to the next word; nothing else changed. -/
def State.ranGAt (s r u : State) (t : Fin 8) (th : Thr) (i : Nat) (v : Word) : Prop :=
  s.onlyThread r u t th ∧ (s.thr t (thrIx th)).retired (u.thr t (thrIx th)) th ((s.thr t (thrIx th)).pc + 4) ∧
    (s.thr t (thrIx th)).wroteG (u.thr t (thrIx th)) i v

/-- A Psirra-S instruction of no other access than its fetch wrote one general register and went on to the next word; nothing else changed. -/
def State.ranG (s u : State) (t : Fin 8) (th : Thr) (i : Nat) (v : Word) : Prop := s.ranGAt (s.sought t th) u t th i v

/-- A Psirra-S instruction wrote one predicate and went on to the next word; nothing else changed. -/
def State.ranP (s u : State) (t : Fin 8) (th : Thr) (i : Nat) (b : Bool) : Prop :=
  s.onlyThread (s.sought t th) u t th ∧ (s.thr t (thrIx th)).retired (u.thr t (thrIx th)) th ((s.thr t (thrIx th)).pc + 4) ∧
    (s.thr t (thrIx th)).wroteP (u.thr t (thrIx th)) i b

/-- A Psirra-S instruction went to a pc and wrote at most g62; nothing else changed. -/
def State.jumped (s u : State) (t : Fin 8) (th : Thr) (pc : Nat) (link : Option Word) : Prop :=
  s.onlyThread (s.sought t th) u t th ∧ (s.thr t (thrIx th)).retired (u.thr t (thrIx th)) th pc ∧
    (match link with
      | none => (s.thr t (thrIx th)).wroteG (u.thr t (thrIx th)) 0 0
      | some v => (s.thr t (thrIx th)).wroteG (u.thr t (thrIx th)) 62 v)

/-! ### What a command gives -/

/-- The command has its effect: exec answers a next state, u with the queue as it was before. -/
def State.gives (s : State) (c : Instr) (u : State) : Prop := exec c s = .next { u with pending := s.pending }

/-- Command c is a message for Fenreeve (R404, R406, R407, R420): without effect while Fenreeve answers none; counted and discarded where its check
fails or its type is unknown; else, once the mailbox's request is served, answered as f says, where Fenreeve still answers its kind. -/
def State.serves (s : State) (m : MReq) (inRecovery : Bool) (c : Instr) (f : State → State) : Prop :=
  (s.answers true = false → s.gives c s) ∧
  (s.answers true = true → m.good = false ∨ m.known = false → s.gives c (s.count F.FRV_CNT_DROP_COUNT 0 1)) ∧
  (s.answers true = true → m.good = true → m.known = true →
    (s.serveMbx.answers inRecovery = true → s.gives c (f s.serveMbx)) ∧ (s.serveMbx.answers inRecovery = false → s.gives c s.serveMbx))

/-- The thread's instruction is fetched, changes the state as f says, retires and goes on to the next word (4 bytes). -/
def State.retires (s : State) (t : Fin 8) (th : Thr) (c : Instr) (f : State → State) : Prop :=
  ∃ w, s.gives c ((f (s.fetched t th w)).retireAt t (thrIx th) ((s.thr t (thrIx th)).pc + 4))

/-- The thread's instruction is fetched and raises a synchronous trap with a cause and TRAP_INFO; it has no other effect. -/
def State.trapsWith (s : State) (t : Fin 8) (th : Thr) (c : Instr) (cause info : Nat) : Prop :=
  ∃ w, s.gives c ((s.fetched t th w).raiseSync t (thrIx th) 0 cause info w)

/-! ### Psirra-T instructions -/

/-- The Psirra-T instructions that take a tag, with their operations (Tables 7-8 and 7-9). -/
def tagged : List ((Fin 8 → Thr → TArgs → Instr) × TOp) :=
  [(.mmPass, .mmPass), (.mmPreload, .mmPreload), (.mmDrain, .mmDrain), (.vsAdd, .vsAdd), (.vsSub, .vsSub), (.vsMul, .vsMul), (.vsDiv, .vsDiv),
    (.vsMax, .vsMax), (.vsMin, .vsMin), (.vsNeg, .vsNeg), (.vsAbs, .vsAbs), (.vsHalve, .vsHalve), (.vsDouble, .vsDouble),
    (.vsScale, .vsScale), (.vsCmp, .vsCmp), (.vsSel, .vsSel), (.vsCvt, .vsCvt), (.vsRsum, .vsRsum), (.vsStatpick, .vsStatpick),
    (.sfEval, .sfEval), (.sfLoad, .sfLoad), (.sfPload, .sfPload), (.sfRnorm, .sfRnorm), (.sfSmax, .sfSmax), (.mvCopy, .mvCopy),
    (.mvFill, .mvFill), (.mvGather, .mvGather), (.mvTrans, .mvTrans), (.kvSeqset, .kvSeqset), (.kvAppend, .kvAppend),
    (.kvGather, .kvGather), (.kvAttn, .kvAttn), (.kvFork, .kvFork), (.kvRelease, .kvRelease), (.lodeSend, .ldSend),
    (.lodeMcast, .ldMcast), (.lodeRecv, .ldRecv), (.lodeTreduce, .ldTreduce), (.syNop, .syNop), (.syFence, .syFence)]

/-- The Psirra-T instructions that take none. -/
def untagged : List ((Fin 8 → Thr → TArgs → Instr) × TOp) :=
  [(.syWake, .syWake), (.ctSync, .ctSync), (.ctWaittag, .ctWaittag), (.ctTag, .ctTag)]

/-- MAIN can issue a Psirra-T instruction now: its 16 bytes can be fetched at once at an aligned pc, and no earlier access of MAIN is owed (R159). -/
def State.issuesT (s : State) (t : Fin 8) : Prop :=
  s.canIssue t 0 = true ∧ s.fetchCheck t 0 16 = .ok () ∧ s.fetchAts t 0 = none ∧ (s.thr t 0).pc % 16 = 0 ∧ s.threadOwes t 0 = false

/-- Nothing holds MAIN before a Psirra-T instruction: fewer than 16 operation traps are pending (R178), and no NaN stop has stopped issue (R77). -/
def Tile.issueOpen (x : Tile) : Prop := x.opTraps < 16 ∧ x.nanStopped = false

/-- The instruction's predicate holds (R172). -/
def State.predHolds (s : State) (t : Fin 8) (a : TArgs) : Prop :=
  (s.thr t 0).getP (a.pg.toNat % 8) = !decide (bits a.pg.toNat 3 1 = 1)

/-- The state once a thread's tensor instruction is fetched: cached, and counted unless it is tried again. -/
def State.fetchedT (s : State) (t : Fin 8) (h : Fin 4) (word : Nat) : State :=
  ((s.fetchReach t h 16).cacheInsn t h word).count F.TCC_CNT_ISSUE_T_COUNT t.val (if (s.thr t h).st = .ready then 1 else 0)

/-- What issue captures of an instruction: its fields, its descriptors, g[GA] and g[GB]. -/
def State.captured (s : State) (t : Fin 8) (op : TOp) (a : TArgs) : TIn :=
  ⟨a, (s.tile t).capture t.val op a, s.g t 0 a.ga.toNat, s.g t 0 a.gb.toNat⟩

end Sys2Proof.Machine
end

