-- ==== Sys2Proof/Certificates/Slice0/Obligations.lean ====
section
/-! DEFINITION. The statements for the provers. -/
open Sys2Proof Sys2Proof.Machine

/-! ### Psirra-S instructions -/

/-- The ALU instructions of Table 7-10: each writes its destination with the function of its operands, computed on integers; a 13-bit immediate is sign-extended; a write of g0 is
discarded; the thread goes on to the next word, and nothing else changes. -/
def Obligations.AluResult : Prop :=
  (∀ p ∈ ([(Instr.aluAdd, fun x y => BitVec.ofNat 64 (x.toNat + y.toNat)),
      (Instr.aluSub, fun x y => BitVec.ofInt 64 ((x.toNat : Int) - y.toNat)),
      (Instr.aluAnd, fun x y => x &&& y), (Instr.aluOr, fun x y => x ||| y), (Instr.aluXor, fun x y => x ^^^ y),
      (Instr.aluSll, fun x y => BitVec.ofNat 64 (x.toNat * 2 ^ (y.toNat % 64))),
      (Instr.aluSrl, fun x y => BitVec.ofNat 64 (x.toNat / 2 ^ (y.toNat % 64))),
      (Instr.aluSra, fun x y => BitVec.ofInt 64 (x.toInt / 2 ^ (y.toNat % 64))),
      (Instr.aluMul, fun x y => BitVec.ofNat 64 (x.toNat * y.toNat)),
      (Instr.aluMulhu, fun x y => BitVec.ofNat 64 (x.toNat * y.toNat / 2 ^ 64)),
      (Instr.aluDivu, fun x y => if y.toNat = 0 then BitVec.ofNat 64 (2 ^ 64 - 1) else BitVec.ofNat 64 (x.toNat / y.toNat)),
      (Instr.aluRemu, fun x y => if y.toNat = 0 then x else BitVec.ofNat 64 (x.toNat % y.toNat)),
      (Instr.aluMin, fun x y => if x.toInt ≤ y.toInt then x else y), (Instr.aluMax, fun x y => if y.toInt ≤ x.toInt then x else y),
      (Instr.aluMinu, fun x y => if x.toNat ≤ y.toNat then x else y), (Instr.aluMaxu, fun x y => if y.toNat ≤ x.toNat then x else y)] :
      List ((Fin 8 → Thr → RArgs → Instr) × (Word → Word → Word))),
    ∀ t th a s, s.issues t th → a.x = 0 →
      ∃ u, exec (p.1 t th a) s = .next u ∧ s.ranG u t th a.gd.toNat (p.2 (s.g t (thrIx th) a.ga.toNat) (s.g t (thrIx th) a.gb.toNat))) ∧
  ((∀ p ∈ ([(Instr.aluAddi, fun x i => BitVec.ofInt 64 ((x.toNat : Int) + i.toInt)), (Instr.aluAndi, fun x i => x &&& BitVec.ofInt 64 i.toInt),
      (Instr.aluOri, fun x i => x ||| BitVec.ofInt 64 i.toInt), (Instr.aluXori, fun x i => x ^^^ BitVec.ofInt 64 i.toInt),
      (Instr.aluShin, fun x i => BitVec.ofNat 64 (x.toNat * 2 ^ 13 + i.toNat))] :
      List ((Fin 8 → Thr → IArgs → Instr) × (Word → BitVec 13 → Word))),
    ∀ t th a s, s.issues t th →
      ∃ u, exec (p.1 t th a) s = .next u ∧ s.ranG u t th a.gd.toNat (p.2 (s.g t (thrIx th) a.ga.toNat) a.imm)) ∧
  (∀ p ∈ ([(Instr.aluSlli, fun x n => BitVec.ofNat 64 (x.toNat * 2 ^ n)), (Instr.aluSrli, fun x n => BitVec.ofNat 64 (x.toNat / 2 ^ n)),
      (Instr.aluSrai, fun x n => BitVec.ofInt 64 (x.toInt / 2 ^ n))] : List ((Fin 8 → Thr → IArgs → Instr) × (Word → Nat → Word))),
    ∀ t th a s, s.issues t th → a.imm.toNat < 64 →
      ∃ u, exec (p.1 t th a) s = .next u ∧ s.ranG u t th a.gd.toNat (p.2 (s.g t (thrIx th) a.ga.toNat) a.imm.toNat)) ∧
  (∀ t th a s, s.issues t th → a.ga = 0 →
    ∃ u, exec (.aluMovi t th a) s = .next u ∧ s.ranG u t th a.gd.toNat (BitVec.ofInt 64 a.imm.toInt))) ∧
  (∀ t th a s, s.issues t th →
    (a.x = 0 → a.gb = 0 → ∃ u n, exec (.aluClz t th a) s = .next u ∧ s.ranG u t th a.gd.toNat (BitVec.ofNat 64 n) ∧ n ≤ 64 ∧
      (∀ i, i < 64 → 64 ≤ i + n → (s.g t (thrIx th) a.ga.toNat).getLsbD i = false) ∧
      (n < 64 → (s.g t (thrIx th) a.ga.toNat).getLsbD (63 - n) = true)) ∧
    (a.x = 0 → a.gb = 0 → ∃ u, exec (.aluPopc t th a) s = .next u ∧ s.ranG u t th a.gd.toNat
      (BitVec.ofNat 64 ((List.range 64).countP (fun i => (s.g t (thrIx th) a.ga.toNat).getLsbD i)))) ∧
    (a.x.toNat < 8 → ∃ u, exec (.aluSel t th a) s = .next u ∧ s.ranG u t th a.gd.toNat
      (if (s.thr t (thrIx th)).getP a.x.toNat then s.g t (thrIx th) a.ga.toNat else s.g t (thrIx th) a.gb.toNat)) ∧
    (a.x = 0 → a.ga = 0 → a.gb = 0 → ∃ u v, exec (.aluPmovg t th a) s = .next u ∧ s.ranG u t th a.gd.toNat v ∧
      (∀ j, j < 8 → v.getLsbD j = (s.thr t (thrIx th)).getP j) ∧ ∀ j, 8 ≤ j → v.getLsbD j = false))

/-- Comparisons and predicate logic (Table 7-10): the result goes to p[GD], and a write of p0 is discarded.
Branches (R497): the target is counted from the branch itself; the return address goes to g62. -/
def Obligations.PredicateAndBranchResult : Prop :=
  ((∀ p ∈ ([(Instr.aluCmpeq, fun x y => decide (x = y)), (Instr.aluCmpne, fun x y => decide (x ≠ y)),
      (Instr.aluCmplt, fun x y => decide (x.toInt < y.toInt)), (Instr.aluCmpltu, fun x y => decide (x.toNat < y.toNat)),
      (Instr.aluCmpge, fun x y => decide (y.toInt ≤ x.toInt)), (Instr.aluCmpgeu, fun x y => decide (y.toNat ≤ x.toNat))] :
      List ((Fin 8 → Thr → RArgs → Instr) × (Word → Word → Bool))),
    ∀ t th a s, s.issues t th → a.x = 0 → a.gd.toNat < 8 →
      ∃ u, exec (p.1 t th a) s = .next u ∧ s.ranP u t th a.gd.toNat (p.2 (s.g t (thrIx th) a.ga.toNat) (s.g t (thrIx th) a.gb.toNat))) ∧
  (∀ p ∈ ([(Instr.aluCmpeqi, fun x i => decide (x.toInt = i.toInt)), (Instr.aluCmpnei, fun x i => decide (x.toInt ≠ i.toInt)),
      (Instr.aluCmplti, fun x i => decide (x.toInt < i.toInt)), (Instr.aluCmpltui, fun x i => decide (x.toNat < (BitVec.ofInt 64 i.toInt).toNat))] :
      List ((Fin 8 → Thr → IArgs → Instr) × (Word → BitVec 13 → Bool))),
    ∀ t th a s, s.issues t th → a.gd.toNat < 8 →
      ∃ u, exec (p.1 t th a) s = .next u ∧ s.ranP u t th a.gd.toNat (p.2 (s.g t (thrIx th) a.ga.toNat) a.imm)) ∧
  (∀ p ∈ ([(Instr.aluPand, and), (Instr.aluPor, or), (Instr.aluPxor, xor)] : List ((Fin 8 → Thr → RArgs → Instr) × (Bool → Bool → Bool))),
    ∀ t th a s, s.issues t th → a.x = 0 → a.gd.toNat < 8 → a.ga.toNat < 8 → a.gb.toNat < 8 →
      ∃ u, exec (p.1 t th a) s = .next u ∧
        s.ranP u t th a.gd.toNat (p.2 ((s.thr t (thrIx th)).getP a.ga.toNat) ((s.thr t (thrIx th)).getP a.gb.toNat))) ∧
  (∀ t th a s, s.issues t th → a.x = 0 → a.gd.toNat < 8 → a.ga.toNat < 8 → a.gb = 0 →
    ∃ u, exec (.aluPnot t th a) s = .next u ∧ s.ranP u t th a.gd.toNat (!(s.thr t (thrIx th)).getP a.ga.toNat))) ∧
  (∀ t th a s, s.issues t th →
    let pc := (s.thr t (thrIx th)).pc
    let dst := (((pc : Int) + 4 * a.off.toInt) % 2 ^ 48).toNat
    let ret := BitVec.ofNat 64 ((pc + 4) % 2 ^ 48)
    (a.p = 0 → a.n = false → ∃ u, exec (.brJ t th a) s = .next u ∧ s.jumped u t th dst none) ∧
    (∃ u, exec (.brBp t th a) s = .next u ∧
      s.jumped u t th (if xor ((s.thr t (thrIx th)).getP a.p.toNat) a.n then dst else pc + 4) none) ∧
    (a.p = 0 → a.n = false → ∃ u, exec (.brCall t th a) s = .next u ∧ s.jumped u t th dst (some ret)) ∧
    (a.p = 0 → a.n = false → a.off.toNat < 64 → (s.g t (thrIx th) a.off.toNat).toNat % 4 = 0 →
      (∃ u, exec (.brJr t th a) s = .next u ∧ s.jumped u t th (s.g t (thrIx th) a.off.toNat).toNat none) ∧
      (∃ u, exec (.brCallr t th a) s = .next u ∧ s.jumped u t th (s.g t (thrIx th) a.off.toNat).toNat (some ret))))

/-- A field an ALU instruction does not use must be zero, a predicate number is below 8 and a shift amount below 64; else ILLEGAL_INSN
is raised and nothing is written (R171). -/
def Obligations.IllegalFieldsTrap : Prop :=
  (∀ c ∈ ([Instr.aluAdd, Instr.aluSub, Instr.aluAnd, Instr.aluOr, Instr.aluXor, Instr.aluSll, Instr.aluSrl, Instr.aluSra, Instr.aluMul,
      Instr.aluMulhu, Instr.aluDivu, Instr.aluRemu, Instr.aluMin, Instr.aluMax, Instr.aluMinu, Instr.aluMaxu] : List (Fin 8 → Thr → RArgs → Instr)),
    ∀ t th (a : RArgs) (s : State), s.issues t th → a.x ≠ 0 → s.trapsWith t th (c t th a) cIllegalInsn 0) ∧
  (∀ c ∈ ([Instr.aluCmpeq, Instr.aluCmpne, Instr.aluCmplt, Instr.aluCmpltu, Instr.aluCmpge, Instr.aluCmpgeu, Instr.aluPand, Instr.aluPor,
      Instr.aluPxor, Instr.aluPnot] : List (Fin 8 → Thr → RArgs → Instr)),
    ∀ t th (a : RArgs) (s : State), s.issues t th → a.x ≠ 0 ∨ 8 ≤ a.gd.toNat → s.trapsWith t th (c t th a) cIllegalInsn 0) ∧
  (∀ c ∈ ([Instr.aluClz, Instr.aluPopc] : List (Fin 8 → Thr → RArgs → Instr)),
    ∀ t th (a : RArgs) (s : State), s.issues t th → a.x ≠ 0 ∨ a.gb ≠ 0 → s.trapsWith t th (c t th a) cIllegalInsn 0) ∧
  (∀ c ∈ ([Instr.aluSlli, Instr.aluSrli, Instr.aluSrai] : List (Fin 8 → Thr → IArgs → Instr)),
    ∀ t th (a : IArgs) (s : State), s.issues t th → 64 ≤ a.imm.toNat → s.trapsWith t th (c t th a) cIllegalInsn 0) ∧
  (∀ c ∈ ([Instr.aluDsetw, Instr.aluDaddb, Instr.aluDadds] : List (Fin 8 → Thr → RArgs → Instr)),
    ∀ t th (a : RArgs) (s : State), s.issues t th → th ≠ .main ∨ 32 ≤ a.gd.toNat → s.trapsWith t th (c t th a) cIllegalInsn 0) ∧
  (∀ t th (a : RArgs) (s : State), s.issues t th → th ≠ .main ∨ 32 ≤ a.ga.toNat → s.trapsWith t th (.aluDgetw t th a) cIllegalInsn 0)

/-- The descriptor register instructions (Table 7-10): DSETW replaces one 64-bit word, DGETW reads one, DADDB and DADDS add to BASE and
SBASE modulo 2^48; nothing else changes.
CSR instructions (Table 7-15, R182): a CSR reads its value; a read of TIME_NS latches the fraction; only SVC writes, and a read-only CSR
ignores a write; SET and CLR set and clear the bits of g[GA]. A CSR that is not in the table is ILLEGAL_INSN. -/
def Obligations.RegisterTransferResult : Prop :=
  (∀ t (a : RArgs) s, s.issues t .main → a.gb = 0 →
    let old := (s.tile t).getD a.gd.toNat
    let v := (s.g t 0 a.ga.toNat)
    (a.x.toNat < 4 → a.gd.toNat < 32 → ∃ d, s.retires t .main (.aluDsetw t .main a) (fun x => x.onTile t (fun y => y.setD a.gd.toNat d)) ∧
      ∀ j, j < 256 → d.getLsbD j = if j / 64 = a.x.toNat then v.getLsbD (j % 64) else old.getLsbD j) ∧
    (a.x.toNat < 4 → a.ga.toNat < 32 → ∃ u, exec (.aluDgetw t .main a) s = .next u ∧
      s.ranG u t .main a.gd.toNat (((s.tile t).getD a.ga.toNat).extractLsb' (64 * a.x.toNat) 64)) ∧
    (a.x = 0 → a.gd.toNat < 32 → ∃ d, s.retires t .main (.aluDaddb t .main a) (fun x => x.onTile t (fun y => y.setD a.gd.toNat d)) ∧
      d.toNat % 2 ^ 48 = (old.toNat + v.toNat) % 2 ^ 48 ∧ d.toNat / 2 ^ 48 = old.toNat / 2 ^ 48) ∧
    (a.x = 0 → a.gd.toNat < 32 → ∃ d, s.retires t .main (.aluDadds t .main a) (fun x => x.onTile t (fun y => y.setD a.gd.toNat d)) ∧
      d.toNat % 2 ^ 48 = old.toNat % 2 ^ 48 ∧ d.toNat / 2 ^ 48 % 2 ^ 48 = (old.toNat / 2 ^ 48 + v.toNat) % 2 ^ 48 ∧
      d.toNat / 2 ^ 96 = old.toNat / 2 ^ 96)) ∧
  (∀ t th (a : IArgs) (s : State), s.issues t th →
    let v := (s.g t (thrIx th) a.ga.toNat).toNat
    let x := s.tile t
    (s.csrVal t (thrIx th) a.imm.toNat = none →
      ∀ c ∈ ([Instr.csrRd, Instr.csrWr, Instr.csrSet, Instr.csrClr, Instr.csrSwap] : List (Fin 8 → Thr → IArgs → Instr)),
        s.trapsWith t th (c t th a) cIllegalInsn 0) ∧
    (th ≠ .svc → ∀ c ∈ ([Instr.csrWr, Instr.csrSet, Instr.csrClr, Instr.csrSwap] : List (Fin 8 → Thr → IArgs → Instr)),
      s.trapsWith t th (c t th a) cIllegalInsn 0) ∧
    (a.ga = 0 → ∀ p ∈ ([(0x000, (thrIx th).val), (0x001, t.val + s.rank * 256 + s.ownerOf t.val * 65536), (0x011, (s.thr t (thrIx th)).timeFrac),
        (0x021, (s.thr t (thrIx th)).instret), (0x022, (s.thr t 1).hsteps), (0x031, x.csr.cause), (0x032, x.csr.pc), (0x033, x.csr.op),
        (0x034, x.csr.info), (0x035, 0), (0x036, x.csr.retpc), (0x03C, x.csr.epc), (0x040, x.csr.walkEntry), (0x050, 256 - x.ops.length)] :
        List (Nat × Nat)),
      a.imm.toNat = p.1 → ∃ u, exec (.csrRd t th a) s = .next u ∧ s.ranG u t th a.gd.toNat (BitVec.ofNat 64 p.2)) ∧
    (a.ga = 0 → a.imm.toNat = 0x010 → s.retires t th (.csrRd t th a) (fun u =>
      (u.onThr t (thrIx th) (fun y => { y with timeFrac := s.frac })).setG t (thrIx th) a.gd.toNat (BitVec.ofNat 64 s.ns))) ∧
    (th = .svc → a.gd = 0 → ∀ p ∈ ([(0x035, fun n c => { c with action := some (n % 8) }), (0x036, fun n c => { c with retpc := n % 2 ^ 48 }),
        (0x038, fun n c => { c with insn := c.insn.set 0 (n % 2 ^ 32) }), (0x040, fun n c => { c with walkEntry := n % 2 ^ 48 })] :
        List (Nat × (Nat → TrapCsr → TrapCsr))),
      a.imm.toNat = p.1 → ∀ old, s.csrVal t 3 p.1 = some old →
        s.retires t .svc (.csrWr t .svc a) (fun u => u.onTile t (fun y => { y with csr := p.2 v y.csr })) ∧
        s.retires t .svc (.csrSet t .svc a) (fun u => u.onTile t (fun y => { y with csr := p.2 (old ||| v) y.csr })) ∧
        s.retires t .svc (.csrClr t .svc a) (fun u => u.onTile t (fun y => { y with csr := p.2 (old - (old &&& v)) y.csr }))) ∧
    (th = .svc → a.imm.toNat = 0x036 → s.retires t .svc (.csrSwap t .svc a) (fun u =>
      (u.setG t 3 a.gd.toNat (BitVec.ofNat 64 x.csr.retpc)).onTile t (fun y => { y with csr := { y.csr with retpc := v % 2 ^ 48 } }))) ∧
    (th = .svc → a.gd = 0 → a.imm.toNat = 0x031 → s.retires t .svc (.csrWr t .svc a) id) ∧
    (th = .svc → a.gd = 0 → a.imm.toNat = 0x041 → s.retires t .svc (.csrWr t .svc a) (fun u => u.onTile t (fun y => { y with icache := [] }))) ∧
    (s.unitsRun t = true → s.gives (.tccIcinv t) (s.onTile t (fun y => { y with icache := [] }))) ∧
    (s.unitsRun t = false → s.gives (.tccIcinv t) s))

/-- Loads (Table 7-11, R176, R494): the address is g[GA] plus the sign-extended immediate modulo 2^48; a load reads the local store or memory,
little-endian and zero-extended, and changes nothing but its register, what reaching the memory changes apart; a misaligned or poisoned one
traps.
Stores (Table 7-11, R214): the low bytes of g[GD] go to the address translated for a write, every other byte of memory keeps its value,
and no scalar register changes; a store of less than a granule clears no poison.
That a byte nothing has written reads 0 is the model's choice (log entry 3). -/
def Obligations.LoadStoreResult : Prop :=
  ((∀ p ∈ ([(Instr.memLd8u, 1), (Instr.memLd16u, 2), (Instr.memLd32u, 4), (Instr.memLd64, 8)] : List ((Fin 8 → Thr → IArgs → Instr) × Nat)),
    ∀ t th (a : IArgs) (s : State), s.issues t th →
      let va := ((s.g t (thrIx th) a.ga.toNat).toNat + (BitVec.ofInt 64 a.imm.toInt).toNat) % 2 ^ 48
      let r := s.sought t th
      (va % p.2 ≠ 0 → s.trapsWith t th (p.1 t th a) cMisalign va) ∧
      (va % p.2 = 0 → lsBase ≤ va → ∃ u, exec (p.1 t th a) s = .next u ∧
        s.ranG u t th a.gd.toNat (BitVec.ofNat 64 (leNat ((List.range p.2).map (fun i => (s.tile t).ls.getD (va - lsBase + i) 0))))) ∧
      (∀ pa, r.reachVa t (thrIx th) va p.2 .read = .phys pa → (∀ d o, s.region pa ≠ .fen d o) → s.atsNeeds (s.ownerOf t.val) pa = false →
          s.ownHeld t th pa p.2 = false →
        (s.poisonIn pa p.2 = true → s.trapsWith t th (p.1 t th a) cMemPoison va) ∧
        (s.poisonIn pa p.2 = false → ∃ u, exec (p.1 t th a) s = .next u ∧ s.ranGAt ((r.wakeFor (some t) pa).tookBytes pa p.2) u t th a.gd.toNat
          (BitVec.ofNat 64 (leNat ((List.range p.2).map (fun i => s.byteAt (s.ownerOf t.val) (pa + i)))))))) ∧
  (∀ t (a : IArgs) (s : State), s.issues t .main → a.gd.toNat < 32 →
    let va := s.memVa t .main a
    (va % 32 = 0 → lsBase ≤ va → s.retires t .main (.memDld t .main a) (fun x => x.onTile t (fun y => y.setD a.gd.toNat
      (BitVec.ofNat 256 (leNat ((List.range 32).map (fun i => (s.tile t).ls.getD (va - lsBase + i) 0))))))) ∧
    (∀ pa, (s.sought t .main).reachVa t 0 va 32 .read = .phys pa → (∀ d o, s.region pa ≠ .fen d o) → s.atsNeeds (s.ownerOf t.val) pa = false →
        s.ownHeld t .main pa 32 = false → s.poisonIn pa 32 = false →
      s.retires t .main (.memDld t .main a) (fun x => ((x.wakeFor (some t) pa).tookBytes pa 32).onTile t (fun y => y.setD a.gd.toNat
        (BitVec.ofNat 256 (leNat ((List.range 32).map (fun i => s.byteAt (s.ownerOf t.val) (pa + i)))))))))) ∧
  ((∀ p ∈ ([(Instr.memSt8, 1), (Instr.memSt16, 2), (Instr.memSt32, 4), (Instr.memSt64, 8)] : List ((Fin 8 → Thr → IArgs → Instr) × Nat)),
    ∀ t th (a : IArgs) (s : State), s.issues t th →
      let va := s.memVa t th a
      let v := (s.g t (thrIx th) a.gd.toNat).toNat
      (va % p.2 ≠ 0 → s.trapsWith t th (p.1 t th a) cMisalign va) ∧
      (va % p.2 = 0 → lsBase ≤ va → ∃ ls : SMap Byte, s.retires t th (p.1 t th a) (fun x => x.onTile t (fun y => { y with ls := ls })) ∧
        ∀ k, ls.getD k 0 = if va - lsBase ≤ k ∧ k < va - lsBase + p.2 then BitVec.ofNat 8 (v / 256 ^ (k - (va - lsBase)))
          else (s.tile t).ls.getD k 0) ∧
      (∀ pa, (s.sought t th).reachVa t (thrIx th) va p.2 .write = .phys pa → (s.region pa).isDevice = true → s.gate pa = .pass →
        ∃ m : SMap Byte, s.retires t th (p.1 t th a) (fun x => { (x.wakeFor (some t) pa).gaveBytes pa p.2 with mem := m }) ∧
          ∀ k, m.getD k 0 = if s.localise pa ≤ k ∧ k < s.localise pa + p.2 then BitVec.ofNat 8 (v / 256 ^ (k - s.localise pa))
            else s.mem.getD k 0)) ∧
  (∀ t (a : IArgs) (s : State), s.issues t .main → a.gd.toNat < 32 →
    let va := s.memVa t .main a
    let v := ((s.tile t).getD a.gd.toNat).toNat
    ∀ pa, (s.sought t .main).reachVa t 0 va 32 .write = .phys pa → (s.region pa).isDevice = true → s.gate pa = .pass →
      ∃ (m : SMap Byte) (p : List Nat), s.retires t .main (.memDst t .main a) (fun x => { (x.wakeFor (some t) pa).gaveBytes pa 32 with mem := m, poison := p }) ∧
        (∀ k, m.getD k 0 = if s.localise pa ≤ k ∧ k < s.localise pa + 32 then BitVec.ofNat 8 (v / 256 ^ (k - s.localise pa))
          else s.mem.getD k 0) ∧
        ∀ g, g ∈ p ↔ g ∈ s.poison ∧ ¬(s.localise pa ≤ g * 32 ∧ g * 32 + 32 ≤ s.localise pa + 32)))

/-- The atomics (Table 7-11, R176, R235) on device memory: the old value goes to g[GD]; AMOADD adds, AMOSWP swaps, and AMOCAS stores g[GD + 1]
only where the old value is g[GD]; an odd GD of AMOCAS and a misaligned address trap. MEM.FENCE goes on once nothing of the thread is owed. -/
def Obligations.AtomicResult : Prop :=
  (∀ t th (a : IArgs) (s : State), s.issues t th →
    let va := s.memVa t th a
    let g := fun i => (s.g t (thrIx th) i).toNat
    let d := a.gd.toNat
    (∀ c ∈ ([Instr.memAmoadd, Instr.memAmoswp] : List (Fin 8 → Thr → IArgs → Instr)),
      va % 8 ≠ 0 → s.trapsWith t th (c t th a) cMisalign va) ∧
    (d % 2 = 1 → s.trapsWith t th (.memAmocas t th a) cIllegalInsn 0) ∧
    ∀ pa, (s.sought t th).reachVa t (thrIx th) va 8 .atomic = .phys pa → (s.region pa).isDevice = true → s.gate pa = .pass → s.poisonIn pa 8 = false →
      let old := s.readNat (s.ownerOf t.val) pa 8
      ∀ p ∈ ([(Instr.memAmoadd, (old + g d) % 2 ^ 64, true, 8), (Instr.memAmoswp, g d, true, 8),
          (Instr.memAmocas, if old = g d then g (d + 1) else old, decide (d % 2 = 0), if old = g d then 8 else 0)] :
          List ((Fin 8 → Thr → IArgs → Instr) × Nat × Bool × Nat)),
        p.2.2.1 = true → ∃ m : SMap Byte, s.retires t th (p.1 t th a) (fun x =>
          ({ ((x.wakeFor (some t) pa).tookBytes pa 8).gaveBytes pa p.2.2.2 with mem := m } : State).setG t (thrIx th) d (BitVec.ofNat 64 old)) ∧
          ∀ k, m.getD k 0 = if s.localise pa ≤ k ∧ k < s.localise pa + 8 then BitVec.ofNat 8 (p.2.1 / 256 ^ (k - s.localise pa))
            else s.mem.getD k 0) ∧
  (∀ t th (a : IArgs) (s : State), s.issues t th → a.gd = 0 → a.ga = 0 → a.imm = 0 → s.threadOwes t (thrIx th) = false →
    s.retires t th (.memFence t th a) id)

/-- Thread control (Table 7-12, R161, R261, R263): the instructions of another thread than theirs are ILLEGAL_INSN; YIELD goes on; END, HEND and
PARK retire and put the thread into its next state, releasing the message it held; a job's END marks it ended. -/
def Obligations.ThreadControlResult : Prop :=
  ∀ t (s : State),
    let z : RArgs := ⟨0, 0, 0, 0⟩
    (∀ p ∈ ([(Instr.thrEnd, Thr.main), (Instr.thrHend, Thr.msg), (Instr.thrWend, Thr.walk), (Instr.thrPark, Thr.svc)] :
        List ((Fin 8 → Thr → RArgs → Instr) × Thr)),
      ∀ th, th ≠ p.2 → s.issues t th → s.trapsWith t th (p.1 t th z) cIllegalInsn 0) ∧
    (∀ th, s.issues t th → s.retires t th (.thrYield t th z) id) ∧
    (s.issues t .main → (s.tile t).lep.held.find? 0 = none →
      ∃ u, exec (.thrEnd t .main z) s = .next u ∧ (u.thr t 0).st = .idle ∧ (u.thr t 0).instret = (s.thr t 0).instret + 1 ∧
        (∀ j, (s.tile t).job = some j → (u.tile t).job = some { j with ended := true }) ∧ u.mem = s.mem ∧
        ∀ h, h ≠ 0 → u.thr t h = s.thr t h) ∧
    (s.issues t .msg → ∃ w, s.gives (.thrHend t .msg z) (((s.fetched t .msg w).retireAt t 1 ((s.thr t 1).pc + 4)).endThread t 1)) ∧
    (s.issues t .walk → ∃ w, s.gives (.thrWend t .walk z) (((s.fetched t .walk w).retireAt t 2 ((s.thr t 2).pc + 4)).endWalk t)) ∧
    (s.issues t .svc → ∃ w, s.gives (.thrPark t .svc z)
      ((((s.fetched t .svc w).retireAt t 3 ((s.thr t 3).pc + 4)).unitEnded t 3).onTile t (fun x => x.setSt 3 .parked)))

/-- SVCALL and BREAK execute, and so count (R163), and raise their traps (Table 7-13) with the return address after them; SVC cannot call itself. A raised trap waits before SVC
and stops its thread (R177); with no handler the thread's unit of work ends (R180).
SVC takes the oldest pending trap (R179, Table 7-15): it starts at SVC_VEC with the trap CSRs filled and its own state kept; THR.TRET applies the action
set, of which one that the trap does not allow is END, and returns SVC to what it did (R180, Table 7-14); with RESUME a trapped thread is READY at TRAP_RETPC.
That CNT_TRAP counts and the trap CSRs change only when SVC takes a trap is the model's reading (log entry 37). -/
def Obligations.TrapResult : Prop :=
  ((∀ t th (a : RArgs) (s : State), s.issues t th → a.gd = 0 → a.ga = 0 → a.gb = 0 →
    let ran := fun (y : Thread) => { y with instret := y.instret + 1, hsteps := if th = .msg then y.hsteps + 1 else y.hsteps }
    (th ≠ .svc → ∃ w, s.gives (.thrSvcall t th a) (((s.fetched t th w).onThr t (thrIx th) ran).raiseSync t (thrIx th) 0 cSvcall a.x.toNat w)) ∧
    (th = .svc → s.trapsWith t th (.thrSvcall t th a) cIllegalInsn 0) ∧
    (a.x = 0 → ∃ w, s.gives (.thrBreak t th a) (((s.fetched t th w).onThr t (thrIx th) ran).raiseSync t (thrIx th) 0 cBreak 0 w))) ∧
  (∀ t (s : State) h kind cause info insn, s.rd F.TCC_SVC_VEC_VEC t.val ≠ 0 → (h ≠ 3 ∨ (s.tile t).active = none) →
    cause ≠ cPageFault → cause ≠ cAccess → cause ≠ cMemPoison →
    s.raiseSync t h kind cause info insn = s.onTile t (fun x =>
      { x.onThr h (fun y => { y with st := .trap, wait := .none }) with
        traps := x.traps ++ [⟨cause, kind, h.val, 0, 0, (s.thr t h).pc,
          if cause = cSvcall ∨ cause = cBreak then ((s.thr t h).pc + 4) % 2 ^ 48 else (s.thr t h).pc,
          info % 2 ^ 64, insn, 0, [], false, false⟩] })) ∧
  (∀ t (s : State) (h : Fin 4) kind cause info insn, s.rd F.TCC_SVC_VEC_VEC t.val = 0 → (h ≠ 3 ∨ (s.tile t).active = none) →
    cause ≠ cPageFault → cause ≠ cAccess → cause ≠ cMemPoison →
    s.raiseSync t h kind cause info insn = (if h = 0 then s.endMain t (some cause) (s.thr t 0).pc else if h = 1 then s.endThread t 1
      else if h = 2 then s.endWalk t else s.endThread t 3)) ∧
  (∀ t (s : State) kind cause info insn, (s.tile t).active ≠ none → s.raiseSync t 3 kind cause info insn = s.doubleFault t (s.thr t 3).pc)) ∧
  ((∀ t (s : State) tr rest, (s.tile t).traps = tr :: rest → (s.tile t).active = none → (s.tile t).halt ≠ .trap →
    s.rd F.TPC_STATUS_STATE t.val = 0 → (s.tile t).resetting = false → s.rd F.TCC_SVC_VEC_VEC t.val ≠ 0 →
    s.gives (.trapTake t) ((s.count F.TCC_CNT_TRAP_COUNT t.val 1).onTile t (fun x =>
      { x.onThr 3 (fun y => { y with st := .ready, wait := .none, pc := s.rd F.TCC_SVC_VEC_VEC t.val }) with
        traps := rest
        active := some tr
        csr := { x.csr with
          cause := tr.cause + tr.kind * 32 + tr.thread * 256, pc := tr.pc, op := if tr.kind = 2 then tr.tag + tr.desc * 256 else 0
          info := tr.info, retpc := tr.retpc, insn := #v[bits tr.insn 0 32, bits tr.insn 32 32, bits tr.insn 64 32, bits tr.insn 96 32]
          epc := (s.thr t 3).pc, action := none, svcPrev := (s.thr t 3).st } }))) ∧
  (∀ t (s : State), (s.tile t).traps = [] ∨ (s.tile t).active ≠ none ∨ (s.tile t).halt = .trap ∨ s.rd F.TPC_STATUS_STATE t.val ≠ 0 ∨ (s.tile t).resetting = true →
    s.gives (.trapTake t) s) ∧
  (∀ t (s : State) tr, s.issues t .svc → (s.tile t).active = some tr → tr.kind = 2 ∨ tr.thread < 3 →
    ∃ w, let s1 := (s.fetched t .svc w).retireAt t 3 ((s.thr t 3).pc + 4)
      ∀ s2, s1.applyAction t tr ((s.tile t).csr.action.getD 0) = some s2 → s.gives (.thrTret t .svc ⟨0, 0, 0, 0⟩) (s2.leaveSvc t tr).settle) ∧
  (∀ t (s : State) tr a, (3 ≤ a → s.applyAction t tr a = some (s.haltTile t)) ∧
    (a = 2 ∨ (a < 2 ∧ actionOk tr.cause tr.kind a = false) → s.applyAction t tr a = some (if tr.kind = 2 then s.endOp t tr else s.endUnit t tr)) ∧
    (a = 0 → tr.kind = 2 → actionOk tr.cause 2 0 = true → s.applyAction t tr a = some (s.onTile t (fun x => x.releaseHold tr.seq)))) ∧
  (∀ cause kind, (actionOk cause kind 1 = true ↔ cause = cSfSlot ∨ cause = cRange) ∧
    (actionOk cause kind 0 = false ↔ cause = cHandlerBound ∨ (kind = 2 ∧ (cause = cPageFault ∨ cause = cAccess ∨ cause = cMemPoison)))) ∧
  (∀ t (s : State) tr, s.issues t .svc → (s.tile t).active = some tr → tr.kind ≠ 2 → tr.thread < 3 → tr.stale = false →
    actionOk tr.cause tr.kind 0 = true → ((s.tile t).csr.action = none ∨ (s.tile t).csr.action = some 0) → (s.tile t).csr.svcPrev = .parked →
    (s.thr t ⟨tr.thread % 4, Nat.mod_lt _ (by decide)⟩).st = .trap → (∀ u, (s.tile u).nanStop = none) →
    ∃ u, exec (.thrTret t .svc ⟨0, 0, 0, 0⟩) s = .next u ∧ (u.tile t).active = none ∧ (u.thr t 3).st = .parked ∧
      u.thr t ⟨tr.thread % 4, Nat.mod_lt _ (by decide)⟩ = { s.thr t ⟨tr.thread % 4, Nat.mod_lt _ (by decide)⟩ with
        st := .ready, wait := .none, pc := (s.tile t).csr.retpc % 2 ^ 48 } ∧
      u.mem = s.mem))

/-! ### Psirra-T instructions and operations -/

/-- A tensor instruction whose issue checks pass takes the next free tag (R185) as an operation in WAIT with what it captured (R169), waits
for every unretired operation its footprint conflicts with (R188), and MAIN goes on 16 bytes further; memory and other tags are as before.
Which thread issues is the sender's choice (log entry 13). -/
def Obligations.TensorInstructionIssues : Prop :=
  ∀ p ∈ tagged, ∀ t (a : TArgs) (s : State) plan tag, s.issuesT t → s.predHolds t a → (s.tile t).issueOpen →
    (s.fetchedT t 0 (tWord p.2 a)).planOf t p.2 (s.captured t p.2 a) = .ok plan → (s.tile t).freeTag = some tag →
    ∃ u r, exec (p.1 t .main a) s = .next u ∧ (u.tile t).ops.find? tag = some r ∧
      r.op = p.2 ∧ r.tag = tag ∧ r.st = .wait ∧ r.ready = false ∧ r.seq = (s.tile t).opSeq ∧ r.insn = tWord p.2 a ∧ r.iaddr = (s.thr t 0).pc ∧
      r.d = (s.tile t).capture t.val p.2 a ∧ r.ga = s.g t 0 a.ga.toNat ∧ r.gb = s.g t 0 a.gb.toNat ∧
      r.reads = plan.reads ∧ r.writes = plan.writes ∧ r.stok = a.stok.toNat ∧ r.total = plan.total ∧
      (∀ o ∈ (s.tile t).ops, clash plan.reads plan.writes o.2.reads o.2.writes = true → o.2.seq ∈ r.deps) ∧
      (∀ g, g ≠ tag → (u.tile t).ops.find? g = (s.tile t).ops.find? g) ∧
      (u.tile t).opSeq = (s.tile t).opSeq + 1 ∧ (u.tile t).nextTag = (tag + 1) % 256 ∧
      (u.thr t 0).pc = ((s.thr t 0).pc + 16) % 2 ^ 48 ∧ (u.thr t 0).st = .ready ∧ (u.thr t 0).instret = (s.thr t 0).instret + 1 ∧
      (u.thr t 0).g = (s.thr t 0).g ∧ u.mem = s.mem ∧ u.hostMem = s.hostMem

/-- What keeps a tensor instruction from issuing: a failed check is an issue trap with its cause (R178), an unaligned pc and another thread than
MAIN are ILLEGAL_INSN (R156), and 16 pending operation traps hold it in STALL, before its predicate and its checks. -/
def Obligations.TensorInstructionRejected : Prop :=
  ∀ p ∈ tagged ++ untagged, ∀ t (a : TArgs) (s : State),
    let w := tWord p.2 a
    (∀ c, s.issuesT t → s.predHolds t a → (s.tile t).issueOpen → (s.fetchedT t 0 w).planOf t p.2 (s.captured t p.2 a) = .error c →
      s.gives (p.1 t .main a) ((s.fetchedT t 0 w).raiseSync t 0 1 c 0 w)) ∧
    (s.canIssue t 0 = true → s.fetchCheck t 0 16 = .ok () → s.fetchAts t 0 = none → (s.thr t 0).pc % 16 ≠ 0 →
      s.gives (p.1 t .main a) ((s.fetchedT t 0 w).raiseSync t 0 0 cIllegalInsn 0 (w % 2 ^ 32))) ∧
    (s.issuesT t → 16 ≤ (s.tile t).opTraps →
      s.gives (p.1 t .main a) ((s.fetchedT t 0 w).onThr t 0 (fun y => { y with st := .stall, wait := .retry }))) ∧
    (∀ th, th ≠ .main → s.canIssue t (thrIx th) = true → (s.thr t 1).hsteps < 4096 → s.fetchCheck t (thrIx th) 16 = .ok () →
      s.fetchAts t (thrIx th) = none → (s.thr t (thrIx th)).pc % 16 = 0 → s.gives (p.1 t th a) ((s.fetchedT t (thrIx th) w).raiseSync t (thrIx th) 1 cIllegalInsn 0 w))

/-- A tensor instruction whose predicate reads 0 at issue (R172) takes no tag and has no effect; if it names STOK the token is signalled at once, as though an operation had retired; MAIN goes on
16 bytes further.
That the predicate is tested before the checks of R171 is the model's reading (log entry 44). -/
def Obligations.PredicateOffInstruction : Prop :=
  ∀ p ∈ tagged ++ untagged, ∀ t (a : TArgs) (s : State), s.issuesT t → (s.tile t).issueOpen → ¬s.predHolds t a →
    s.gives (p.1 t .main a) (((s.fetchedT t 0 (tWord p.2 a)).onTile t (fun x => x.signal a.stok.toNat)).retireAt t 0 ((s.thr t 0).pc + 16)) ∧
    ∃ u, exec (p.1 t .main a) s = .next u ∧ (u.tile t).ops = (s.tile t).ops ∧ (a.stok.toNat ≠ 0 → (u.tile t).sigDone.getLsbD a.stok.toNat = true) ∧
      (u.tile t).nextTag = (s.tile t).nextTag ∧ (u.tile t).opSeq = (s.tile t).opSeq ∧ (u.tile t).dregs = (s.tile t).dregs ∧ (u.thr t 0).g = (s.thr t 0).g ∧
      (u.thr t 0).p = (s.thr t 0).p ∧ (u.thr t 0).pc = ((s.thr t 0).pc + 16) % 2 ^ 48 ∧ u.mem = s.mem ∧ u.hostMem = s.hostMem ∧ s.reachOnly (s.fetchReach t 0 16) ∧
      (∀ v, v ≠ t → u.tile v = (s.fetchReach t 0 16).tile v)

/-- The tensor instructions that take no tag (Table 7-9): CT.SYNC goes on once no operation is unretired, CT.WAITTAG once its tag is free,
CT.TAG reads the latest tag, and SY.WAKE asks for the wake of tiles of the same function (R175); each then goes on 16 bytes further. -/
def Obligations.ControlInstructionResult : Prop :=
  ∀ t (a : TArgs) (s : State), s.issuesT t → s.predHolds t a → (s.tile t).issueOpen →
    let next := (s.thr t 0).pc + 16
    let stall := fun (x : State) => x.onThr t 0 (fun y => { y with st := .stall, wait := .retry })
    ((TOp.ctUse .ctSync).legal a = true →
      ((s.tile t).ops = [] → s.gives (.ctSync t .main a) ((s.fetchedT t 0 (tWord .ctSync a)).retireAt t 0 next)) ∧
      ((s.tile t).ops ≠ [] → s.gives (.ctSync t .main a) (stall (s.fetchedT t 0 (tWord .ctSync a))))) ∧
    ((TOp.ctUse .ctWaittag).legal a = true →
      ((s.tile t).ops.find? ((s.g t 0 a.ga.toNat).toNat % 256) = none →
        s.gives (.ctWaittag t .main a) ((s.fetchedT t 0 (tWord .ctWaittag a)).retireAt t 0 next)) ∧
      ((s.tile t).ops.find? ((s.g t 0 a.ga.toNat).toNat % 256) ≠ none →
        s.gives (.ctWaittag t .main a) (stall (s.fetchedT t 0 (tWord .ctWaittag a))))) ∧
    ((TOp.ctUse .ctTag).legal a = true →
      s.gives (.ctTag t .main a) (((s.fetchedT t 0 (tWord .ctTag a)).setG t 0 a.gb.toNat (BitVec.ofNat 64 (s.tile t).lastTag)).retireAt t 0 next)) ∧
    ((TOp.ctUse .syWake).legal a = true →
      s.gives (.syWake t .main a) (((s.fetchedT t 0 (tWord .syWake a)).syWakes t (xfOf a 80 8)).retireAt t 0 next))

/-- How an operation begins (R190, R196, R202): it leaves WAIT once nothing holds it, is ready when every memory it needs is awake and else
waits in WAKE, every target asked to wake, and asked again while one sleeps; and the oldest ready operation of a class is dispatched, unless its unit does not run. -/
def Obligations.OperationBegins : Prop :=
  (∀ t tag (s : State) r, (s.tile t).ops.find? tag.toNat = some r → r.st = .wait → r.ready = false → r.deps = [] → r.tdeps = [] →
    s.unitsRun t = true →
    (r.op ≠ .syNop → r.op ≠ .syFence →
      ((s.wakeTargets t r).all (fun w => s.awake w) = true →
        s.gives (.operationLeaveWait t tag) (s.onOp t tag.toNat (fun r => { r with ready := true })).settle) ∧
      ((s.wakeTargets t r).all (fun w => s.awake w) = false →
        s.gives (.operationLeaveWait t tag) ((s.onOp t tag.toNat (fun r => { r with st := .wake })).wakeAll t r).settle)) ∧
    (r.op = .syNop ∨ (r.op = .syFence ∧ s.fenceHolds t r = true) → s.gives (.operationLeaveWait t tag)
      ((s.onOp t tag.toNat (fun r => { r with st := .ack, pos := r.total, acks := 0 })).wakeAll t r).settle)) ∧
  (∀ t tag (s : State) r, (s.tile t).ops.find? tag.toNat = some r → r.st = .wake →
    ((s.wakeTargets t r).all (fun w => s.awake w) = true →
      s.gives (.operationLeaveWake t tag) (s.onOp t tag.toNat (fun r => { r with ready := true }))) ∧
    ((s.wakeTargets t r).all (fun w => s.awake w) = false → s.gives (.operationLeaveWake t tag) (s.wakeAll t r))) ∧
  (∀ t cls (s : State), s.unitsRun t = true → s.flag F.TSC_CTL_SERIAL t.val = false →
    (∀ tag r, (s.tile t).ops.find? tag = some r → r.dispatchable = true → r.op.cls = cls.toNat →
      (∀ o ∈ (s.tile t).ops, o.1 ≠ tag → o.2.dispatchable = true → o.2.op.cls = cls.toNat → r.seq < o.2.seq) →
      SMap.risesFrom none (s.tile t).ops = true →
      s.gives (.operationDispatch t cls) (s.enqueue t tag r).settle) ∧
    ((∀ o ∈ (s.tile t).ops, o.2.dispatchable = true → o.2.op.cls ≠ cls.toNat) → s.gives (.operationDispatch t cls) s.settle)) ∧
  (∀ t cls (s : State), s.unitsRun t = false → s.gives (.operationDispatch t cls) s.settle)

/-- How an operation ends (R107, R187, R193, R195, R200): acknowledged writes count down, a drain with LONG_INEXACT under LX_TRAP takes its trap at
the last of them, and an operation with none left retires: its tag is
free, its progress record stands, its token is signalled and what waited for it waits no longer. -/
def Obligations.OperationEnds : Prop :=
  (∀ t tag (s : State) r, (s.tile t).ops.find? tag.toNat = some r → r.st = .ack → r.trap = none →
    (s.opOwes t r.seq = false →
      let done := s.onOp t tag.toNat (fun r => { r with acks := r.acks - 1 })
      let lx := r.acks = 1 ∧ r.lxDue = true ∧ s.flag F.RB_CTL_LX_TRAP t.val = true
      (¬lx → s.gives (.writeAcknowledge t tag) (done.unitsGo t).settle) ∧
      (lx → s.gives (.writeAcknowledge t tag) ((done.raiseOp t tag.toNat cLongInexact 0 r.lxDesc false).unitsGo t).settle)) ∧
    (r.acks = 0 → s.gives (.operationRetire t tag)
      ((((s.count F.TSC_CNT_RETIRE_COUNT t.val 1).onTile t (fun x => x.retired tag.toNat r)).slotsJoin.unitsGo t).settle)) ∧
    (r.acks ≠ 0 → s.gives (.operationRetire t tag) s.settle)) ∧
  (∀ (x : Tile) tag r,
    (x.retired tag r).ops.find? tag = none ∧ (x.retired tag r).done.find? tag = some ⟨r.op, r.seq, r.total⟩ ∧
      (r.stok ≠ 0 → r.stok < 32 → (x.retired tag r).sigDone.getLsbD r.stok = true) ∧
      (∀ g o, g ≠ tag → x.ops.find? g = some o → ∃ q, (x.retired tag r).ops.find? g = some q ∧ r.seq ∉ q.tdeps ∧
        (r.trapped = false → r.seq ∉ q.deps) ∧ ∀ k, k ≠ r.seq → (k ∈ q.deps ↔ k ∈ o.deps)))

/-- The tile's other commands: TSC.PROG_SEL latches a tag's snapshot (R201), the oldest held trap is raised once fewer than 16 are pending
and its hold would be no 17th (R178, R199), and GO resumes a tile after a NaN stop once the record is cleared (R79). -/
def Obligations.TileCommandResult : Prop :=
  (∀ t (v : BitVec 64) (s : State) r, s.unitsRun t = true → (s.tile t).ops.find? (v.toNat % 256) = some r → r.op.cls ≠ 6 → r.op ≠ .kvSeqset →
    s.gives (.progSelWrite t v) (s.wrs t.val 0 [(F.TSC_PROG_SEL_TAG, v.toNat % 256), (F.TSC_PROG_POS_POSITION, r.pos),
      (F.TSC_PROG_POS_PERMILLE, min 999 (1000 * r.pos / r.total)), (F.TSC_PROG_TOTAL_TOTAL, r.total), (F.TSC_PROG_INFO_STATE, r.st.code),
      (F.TSC_PROG_INFO_CLASS, r.op.cls), (F.TSC_PROG_INFO_OP, r.op.num), (F.TSC_PROG_INFO_SEQ, r.seq)])) ∧
  (∀ t (v : BitVec 64) (s : State), s.unitsRun t = false → s.gives (.progSelWrite t v) s) ∧
  (∀ t (s : State) tag r tr, (s.tile t).ops.find? tag = some r → r.trap = some tr → (s.tile t).trapRoom tr.held = true →
    SMap.risesFrom none (s.tile t).ops = true →
    (∀ o ∈ (s.tile t).ops, o.1 ≠ tag → ∀ x, o.2.trap = some x → (s.tile t).trapRoom x.held = true → r.seq < o.2.seq) →
    s.gives (.heldTrapRaise t) (s.opTrapNow t tag r tr)) ∧
  (∀ t (s : State), 16 ≤ (s.tile t).opTraps → s.gives (.heldTrapRaise t) s) ∧
  (∀ t (s : State), s.flag F.VSU_NAN_STATUS_VALID t.val = false → s.flag F.FLT_STATUS_FENSTOP 0 = false → (s.tile t).halt = .nan →
    s.gives (.nanResumeGo t) (((s.wr F.VSU_NAN_STATUS_HALTED t.val 0).wr F.VSU_NAN_STATUS_FEN_STOP t.val 0).onTile t (fun x => { x with
      halt := .none, nanStop := none, nanFen := false
      threads := x.threads.map (fun y => if y.st = .halted then { y with st := y.prev } else y) }))) ∧
  (∀ t (s : State), s.flag F.VSU_NAN_STATUS_VALID t.val = true → s.gives (.nanResumeGo t) s)

/-- The Reedbed's panels (R84 to R87): the next panel is fetched into the landing buffer of three, the panel of the oldest pass that is to bring one moves
to an empty shadow, and a pass starts when its own panel is in the shadow, which becomes active; a pass that reuses the active panel needs none.
A combiner row of a group of one device (R118 to R120): once every tile of the group has its part, the row is combined over the tiles, encoded
by the root and counted done; parts that disagree end the group with REDUCE_MISMATCH (R122), a group that lost a participant with RED_ABORT (R123). -/
def Obligations.ReedbedCommandResult : Prop :=
  ((∀ t (s : State) tag r cs, s.unitsRun t = true → (s.tile t).rb.landing.length < 3 → (s.tile t).nextFetch = some (tag, r) →
    s.opReadsOut t r.seq = false → s.codesOp t r 2 = .ok cs →
    s.gives (.panelFetch t) ((s.tookVas t (r.td 2).allCells).onTile t (fun x => { x with
      rb := { x.rb with landing := x.rb.landing ++ [panelOf r.seq (r.td 2) cs] }, ops := x.ops.put tag { r with phase := 1 } })).settle) ∧
  (∀ t (s : State), (s.tile t).rb.landing.length = 3 → s.gives (.panelFetch t) s.settle) ∧
  (∀ t (s : State) tag r, s.unitsRun t = true → (s.tile t).rb.shadow = none → (s.tile t).oldest OpRec.bringsPanel = some (tag, r) →
    (∀ p, (s.tile t).rb.landing.find? (fun p => p.seq = r.seq) = some p → s.gives (.panelToShadow t) (s.onTile t (fun x => { x with
      rb := { x.rb with shadow := some p, landing := x.rb.landing.filter (fun q => decide (q.seq ≠ p.seq)) } }))) ∧
    ((∀ p ∈ (s.tile t).rb.landing, p.seq ≠ r.seq) → s.gives (.panelToShadow t) s)) ∧
  (∀ t (s : State) p, (s.tile t).rb.shadow = some p → s.gives (.panelToShadow t) s) ∧
  (∀ t (s : State) tag r, s.unitsRun t = true → (s.tile t).rbHead = some (tag, r) → r.op = .mmPass → r.st = .queued → s.opReadsOut t r.seq = false →
    (r.xfb 84 1 = 1 → s.gives (.passStart t) ((s.runPass t tag r).rbRun t).settle) ∧
    (∀ p, r.xfb 84 1 = 0 → (s.tile t).rb.shadow = some p → p.seq = r.seq →
      s.gives (.passStart t) (((s.onRb t (fun rb => { rb with active := some p, shadow := none })).runPass t tag r).rbRun t).settle) ∧
    (r.xfb 84 1 = 0 → (∀ p, (s.tile t).rb.shadow = some p → p.seq ≠ r.seq) → s.gives (.passStart t) s.settle))) ∧
  (∀ (n : Fin 16) row (s : State) w root, (s.redArrive n.val).slotJoin n.val = s → (s.cslot n.val).rgd = some w → (s.cslot n.val).fail = none →
    (s.cslot n.val).closing = false → (s.cslot n.val).parts.find? (fun p => p.tile = rgdRoot p.rgd) = some root →
    ((s.cslot n.val).disagree (s.rgrpCfg (rgdGroup w)) = true → s.gives (.combinerRow n row) ((s.groupFail n.val 0x26 []).slotJoin n.val).settle) ∧
    ((s.cslot n.val).disagree (s.rgrpCfg (rgdGroup w)) = false → rgdFen w = false → s.tileGone w = true →
      s.gives (.combinerRow n row) ((s.groupFail n.val 0x27 []).slotJoin n.val).settle) ∧
    ((s.cslot n.val).disagree (s.rgrpCfg (rgdGroup w)) = false → rgdFen w = false → s.tileGone w = false → rgdFen root.rgd = false →
      (∀ u < 8, bits (rgdTiles w) u 1 = 1 → ∃ p ∈ (s.cslot n.val).parts, p.tile = u) → row < root.m → row ∉ (s.cslot n.val).done →
      s.gives (.combinerRow n row) (((s.onSlot n.val (fun c => { c with done := c.done ++ [row] })).rootRow n.val root row
        (tileRow (s.cslot n.val).parts row)).slotFinish n.val).settle))

/-- The walker (R278 to R280): the oldest request starts WALK at WALK_ENTRY with the request in its registers; only WALK emits, a full descriptor
queue holds it, and a descriptor is accepted for the request in progress. -/
def Obligations.WalkerResult : Prop :=
  (∀ t (s : State) q rest, (s.tile t).kve.queue = q :: rest → s.tileRuns t = true → (s.tile t).kve.cur = none → (s.tile t).kve.got = [] →
    (s.thr t 2).st = .idle →
    s.gives (.walkRequest t) (s.onTile t (fun x => { x.onThr 2 (fun th => th.start x.csr.walkEntry [q.g1, q.g2, q.g3, q.g4]) with
      kve := { x.kve with queue := rest, cur := some q, got := [], seen := 0, ended := false } }))) ∧
  (∀ t (s : State), (s.thr t 2).st ≠ .idle → s.gives (.walkRequest t) s) ∧
  (∀ t (a : RArgs) (s : State), s.issues t .walk → a.gd = 0 → a.x = 0 → (s.tile t).kve.ended = false →
    ((s.tile t).dqCount < 32 → ∃ w, s.gives (.kvEmit t .walk a)
      ((((s.fetched t .walk w).kvAccept t ((s.g t 2 a.ga.toNat).toNat + (s.g t 2 a.gb.toNat).toNat * 2 ^ 64)).kvRun t).retireAt t 2 ((s.thr t 2).pc + 4)).settle) ∧
    (32 ≤ (s.tile t).dqCount → ∃ w, s.gives (.kvEmit t .walk a)
      ((s.fetched t .walk w).onThr t 2 (fun y => { y with st := .stall, wait := .retry })).settle)) ∧
  (∀ t th (a : RArgs) (s : State), s.issues t th → th ≠ .walk → ∃ w, s.gives (.kvEmit t th a)
    ((s.fetched t th w).raiseSync t (thrIx th) 0 cIllegalInsn 0 w).settle)

/-- What the memories do (R213, R214, R235): a single-bit error of a read is counted as corrected, a multi-bit one poisons its granule and is
counted and logged, an Off memory does nothing, a write of one memory stores its bytes, an atomic leaves the table's value, and an HBM
stack scrubs only while SCRUB_EN is 1.
The TMU's walks and invalidation (R217, R221, R223): an entry that points down moves the walk on and is cached, a leaf ends it with a TLB
entry and its waiters try again; TMU.INV removes what its scope covers and is BUSY until no access through it is in flight. -/
def Obligations.MemoryAndTranslationResult : Prop :=
  ((∀ pa (s : State) t, s.region pa = .peat t → s.memOff pa = false →
    s.gives (.memoryRead pa .none) s ∧
    s.gives (.memoryRead pa .single) (s.count F.TMU_MEM_CE_PEAT t 1) ∧
    s.gives (.memoryRead pa .multi) (((s.count F.TMU_MEM_UE_PEAT t 1).markPoison pa).opEvent 0x10 t (s.localise pa / 32 * 32)) ∧
    s.gives (.patrolScrub pa .single) (s.count F.TMU_MEM_CE_PEAT t 1)) ∧
  (∀ pa (s : State) k off, s.region pa = .hbm k off → s.memOff pa = false →
    s.gives (.memoryRead pa .single) ((s.count F.HMC_CNT_RD_BYTES k 32).count F.HMC_CNT_CE_COUNT k 1) ∧
    (s.flag F.HMC_CTL_SCRUB_EN k = true → s.gives (.patrolScrub pa .single) (s.count F.HMC_CNT_CE_COUNT k 1)) ∧
    (s.flag F.HMC_CTL_SCRUB_EN k = false → ∀ e, s.gives (.patrolScrub pa e) s)) ∧
  (∀ pa (s : State), s.memOff pa = true → (∀ e, s.gives (.memoryRead pa e) s) ∧ (∀ d e, s.gives (.memoryWrite pa d e) s) ∧
    ∀ o x y, s.gives (.memoryAtomic pa o x y) s) ∧
  (∀ pa (data : List Byte) (s : State), (s.region pa).isDevice = true → (∀ k o, s.region pa ≠ .hbm k o) → s.memOff pa = false → s.gate pa = .pass →
    pa % 32 = 0 → data.length % 32 = 0 → 0 < data.length → pa % 256 + data.length ≤ 256 →
    ∃ (m : SMap Byte) (p : List Nat), s.gives (.memoryWrite pa data []) { s with mem := m, poison := p } ∧
      (∀ i, i < data.length → m.getD (s.localise pa + i) 0 = data[i]?.getD 0) ∧
      (∀ k, k < s.localise pa ∨ s.localise pa + data.length ≤ k → m.getD k 0 = s.mem.getD k 0) ∧
      ∀ g, g ∈ p ↔ g ∈ s.poison ∧ (g * 32 < s.localise pa ∨ s.localise pa + data.length ≤ g * 32)) ∧
  (∀ pa (x y : BitVec 64) (s : State), (s.region pa).isDevice = true → s.memOff pa = false → s.gate pa = .pass → pa % 8 = 0 → s.isPoison pa = false →
    let old := s.readNat 0 pa 8
    let r := (s.tookBytes pa 8).gaveBytes pa 8
    ∀ p ∈ ([(Sys2Proof.AmoOp.add, (old + x.toNat) % 2 ^ 64), (.swap, x.toNat), (.cas, if old = x.toNat then y.toNat else old), (.max, max old x.toNat)] :
      List (Sys2Proof.AmoOp × Nat)),
      ∃ m : SMap Byte, s.gives (.memoryAtomic pa p.1 x y) { r with mem := m } ∧
        ∀ k, m.getD k 0 = if s.localise pa ≤ k ∧ k < s.localise pa + 8 then BitVec.ofNat 8 (p.2 / 256 ^ (k - s.localise pa)) else s.mem.getD k 0)) ∧
  ((∀ t i (s : State) w, (s.tile t).walks[i]? = some w →
    let s1 := s.count F.TMU_CNT_WALK_COUNT t.val (s.walkReads w.level w.table w.va)
    (∀ l tb, s.walkEntry w.level w.table w.va = .down l tb →
      s.gives (.walkEntryReturn t i) (s1.onTile t (fun x => { x with
        wcache := keepLast 64 (x.wcache ++ [⟨w.level, w.va, tb⟩])
        walks := x.walks.modify i (fun w => { w with level := l, table := tb }) }))) ∧
    (∀ l, s.walkEntry w.level w.table w.va = .leaf l → ∃ u, exec (.walkEntryReturn t i) s = .next u ∧
      (u.tile t).tlbHit w.va ≠ none ∧ (u.tile t).walks = (s.tile t).walks.eraseIdx i ∧
      (u.tile t).tlb = keepLast 2048 ((s.tile t).tlb ++ [⟨w.va / 2 ^ l.lg * 2 ^ l.lg, l.lg, l.pa, l.r, l.w, l.x⟩]) ∧ u.regs = s1.regs ∧ u.mem = s.mem) ∧
    (∀ e, s.walkEntry w.level w.table w.va = .fail e →
      s.gives (.walkEntryReturn t i) ((s1.onTile t (fun x => { x with walks := x.walks.eraseIdx i })).walkFault t e w.waiters))) ∧
  (∀ t (hi lo : BitVec 32) (s : State), s.unitsRun t = true → s.flag F.TMU_INV_STATUS_BUSY t.val = true →
    s.gives (.tmuInv t hi (some lo)) ((s.wr F.TMU_INV_STATUS_OVERRUN t.val 1).onTile t (fun x => { x with invHeld := lo.toNat }))) ∧
  (∀ t (hi lo : BitVec 32) (s : State), s.unitsRun t = true → s.flag F.TMU_INV_STATUS_BUSY t.val = false →
    ∃ u, exec (.tmuInv t hi (some lo)) s = .next u ∧ u.flag F.TMU_INV_STATUS_BUSY t.val = true ∧ u.mem = s.mem ∧
      (lo.toNat % 2 = 0 → (u.tile t).tlb = []) ∧
      (lo.toNat % 2 = 1 → ∀ e, e ∈ (u.tile t).tlb ↔ e ∈ (s.tile t).tlb ∧
        overlap e.va (2 ^ e.lg) (bits (lo.toNat + hi.toNat * 2 ^ 32) 12 36 * 4096) (s.rd F.TMU_INV_LEN_PAGES t.val * 4096) = false)) ∧
  (∀ t (s : State), (∀ w ∈ (s.tile t).invWait, s.invOpen t w = false) →
    s.gives (.tmuInvComplete t) ((s.wr F.TMU_INV_STATUS_BUSY t.val 0).onTile t (fun x => { x with invWait := [] }))) ∧
  (∀ t (s : State) w, w ∈ (s.tile t).invWait → s.invOpen t w = true → s.gives (.tmuInvComplete t) s))

/-- TDM descriptors (R197, R225 to R228): a descriptor starts in its engine's order and asks for its first block; a block that has landed is counted, and
written at once or, of a copy whose two arrays change together, with the last one, unless its bytes fault, when nothing of it is written; and a descriptor
whose writes are acknowledged leaves the pool and its owner is told. -/
def Obligations.TdmDescriptorResult : Prop :=
  ∀ t (s : State) d, d ∈ (s.tile t).tdm → (s.tile t).desc d.id = some d → (∀ b, d.owner ≠ .ck b) →
    (s.unitsRun t = true → d.started = false → (s.tile t).before d = [] → bits d.flags 4 12 = 0 → (bits d.flags 2 1 = 0 ∨ d.caddr % 8 = 0) →
      s.gives (.tdmDescriptorStart t d.id) ((s.onTile t (fun x => x.putDesc { d with started := true })).askBlock t d 0)) ∧
    (d.started = true → s.gives (.tdmDescriptorStart t d.id) s) ∧
    (d.started = true → d.failed = none → d.bad = none → d.landed < d.blocks → s.readsOut t d.id = false → s.blockAts t d d.landed = false →
      (s.tile t).before d = [] →
      (∀ a phys wr f, lowestFault (s.blockFaults t d d.landed) = some (a, phys, wr, f) → phys = true →
        ∃ u, exec (.tdmBlockLanded t d.id) s = .next u ∧ u.mem = s.mem ∧ u.hostMem = s.hostMem ∧
          ∃ e, (u.tile t).desc d.id = some e ∧ e.failed = some f.tdmCause ∧ e.failAt = a ∧ e.landed = d.landed) ∧
      (lowestFault (s.blockFaults t d d.landed) = none →
        let n := min 65536 (d.bytes - d.landed * 65536)
        s.gives (.tdmBlockLanded t d.id) ((((((s.tookBlock t d d.landed).blockWrites t d).tdmBytes t d.engine n).mvProgress t d n).onTile t (fun x =>
          x.putDesc { d with landed := d.landed + 1 })).askBlock t { d with landed := d.landed + 1 } (d.landed + 1)))) ∧
    ((s.tile t).pairCopy d = none → s.blockWrites t d = s.writeBlock t d d.landed (s.readBlock t d d.landed)) ∧
    (∀ r, (s.tile t).pairCopy d = some r → (s.tile t).lastBlock r d = false → s.blockWrites t d = s) ∧
    (s.descReady t d = false → s.gives (.tdmDescriptorComplete t d.id) s) ∧
    (s.descReady t d = true → bits d.flags 2 1 = 0 → s.gives (.tdmDescriptorComplete t d.id) ((s.descDone t d).ckFeed).settle)

/-! ### Lode -/

/-- Enabling and disabling a channel (R251, R252): an enable of a channel that is OFF records CHAN_CFG and asks the queue's home for the allotment, or is
REFUSED when MAXLEN is not legal; a disable drains a READY channel until its credits are back, and a REFUSED one is OFF at once. An LEP that does
not run takes neither (R13).
That CHAN_CFG takes nothing but EN = 0 while the channel is not OFF is the model's reading (log entry 36). -/
def Obligations.ChannelEnableAndDisable : Prop :=
  ∀ t (c : Fin 512) (s : State),
    let st := s.rd F.LEP_CHAN_CRED_STATE t.val c.val
    (s.lepRuns t = false → (∀ val, s.gives (.channelEnable t c val) s) ∧ s.gives (.channelDisable t c) s) ∧
    (∀ val : BitVec 64, st ≠ 0 → s.gives (.channelEnable t c val) s) ∧
    (∀ val : BitVec 64, s.lepRuns t = true → st = 0 → bits val.toNat 0 1 = 1 →
      let s1 := (s.putChanCfg t c.val val.toNat).onLep t (fun l => { l with chanSeq := l.chanSeq.erase c.val })
      (maxlenOk (bits val.toNat 48 13) = false → s.gives (.channelEnable t c val)
        (s1.wrs t.val c.val [(F.LEP_CHAN_CRED_STATE, 4), (F.LEP_CHAN_CRED_CAUSE, 0), (F.LEP_CHAN_CRED_AVAIL, 0)])) ∧
      (maxlenOk (bits val.toNat 48 13) = true → bits val.toNat 2 1 = 0 → bits val.toNat 1 1 = 1 → s.gives (.channelEnable t c val)
        ((s1.wrs t.val c.val [(F.LEP_CHAN_CRED_STATE, 1), (F.LEP_CHAN_CRED_CAUSE, 0), (F.LEP_CHAN_CRED_AVAIL, 0)]).send
          (.grantReq ⟨s.rank, t.val, false, c.val⟩ ⟨s.rank, bits val.toNat 16 3, bits val.toNat 8 8⟩ (bits val.toNat 32 8)
            (s.rd F.LEP_CHAN_CRED_ALLOT t.val c.val))))) ∧
    (s.lepRuns t = true →
     let s0 := s.wr F.LEP_CHAN_CFG_EN t.val 0 c.val
     (st = 0 ∨ st = 3 → s.gives (.channelDisable t c) s0) ∧
     (st = 1 → s.gives (.channelDisable t c) (s0.wr F.LEP_CHAN_CRED_STATE t.val 3 c.val)) ∧
     (st = 4 → s.gives (.channelDisable t c) (s0.wrs t.val c.val [(F.LEP_CHAN_CRED_STATE, 0), (F.LEP_CHAN_CRED_CAUSE, 0)])) ∧
     (st = 2 → s.rd F.LEP_CHAN_CRED_AVAIL t.val c.val ≠ s.rd F.LEP_CHAN_CRED_ALLOT t.val c.val →
       s.gives (.channelDisable t c) (s0.wr F.LEP_CHAN_CRED_STATE t.val 3 c.val)) ∧
     (st = 2 → s.rd F.LEP_CHAN_CRED_AVAIL t.val c.val = s.rd F.LEP_CHAN_CRED_ALLOT t.val c.val →
       s.gives (.channelDisable t c) (((s0.wr F.LEP_CHAN_CRED_STATE t.val 3 c.val).wrs t.val c.val
         [(F.LEP_CHAN_CRED_STATE, 0), (F.LEP_CHAN_CRED_AVAIL, 0), (F.LEP_CHAN_CRED_CAUSE, 0)]).send (.allotRet ⟨s.rank, t.val, false, c.val⟩ (s.chanDest t c.val)))))

/-- Grants and credits (R251, R252): the queue's home grants a request that fits and refuses the others with its cause; a grant makes a PENDING channel
READY with its allotment; a returned credit adds one, up to the allotment; a returned allotment leaves the queue. A unit for a sleeping LEP wakes its memory and waits (R258).
The virtual channels of grants and allotments are the model's choice (log entry 12). -/
def Obligations.GrantAndCreditResult : Prop :=
  (∀ i (s : State) src q crank allot, s.net[i]? = some (.grantReq src q crank allot) → q.rank = s.rank →
    let t := tileOf q.tile
    (s.lepAwake t = false → s.gives (.grantRequest i) (s.wakeTile t false)) ∧
    (s.lepAwake t = true → s.qState t q.queue ≠ 1 → s.gives (.grantRequest i) ((s.netDrop i).send (.grantRep src q (some 0) 0))) ∧
    (s.lepAwake t = true → s.qState t q.queue = 1 → s.flag F.LEP_Q_CFG_RESP t.val q.queue = false →
      (s.rd F.LEP_Q_CFG_RANK t.val q.queue ≠ crank → s.gives (.grantRequest i) ((s.netDrop i).send (.grantRep src q (some 1) 0))) ∧
      (s.rd F.LEP_Q_CFG_RANK t.val q.queue = crank → s.flag F.LEP_Q_CFG_MERGE t.val q.queue = false →
        (s.rd F.LEP_Q_CFG_SLOTS t.val q.queue < (s.queue t q.queue).allotted + allot →
          s.gives (.grantRequest i) ((s.netDrop i).send (.grantRep src q (some 2) 0))) ∧
        ((s.queue t q.queue).allotted + allot ≤ s.rd F.LEP_Q_CFG_SLOTS t.val q.queue →
          s.gives (.grantRequest i) (((s.netDrop i).onQueue t q.queue (fun x => { x with allots := x.allots ++ [⟨src, allot, none⟩] })).send
            (.grantRep src q none (s.rd F.LEP_Q_STATUS_EPOCH t.val q.queue))))))) ∧
  (∀ i (s : State) src q cause epoch, s.net[i]? = some (.grantRep src q cause epoch) → src.rank = s.rank → src.grp = false →
    s.lepAwake (tileOf src.tile) = true → s.rd F.LEP_CHAN_CRED_STATE (tileOf src.tile).val src.num = 1 →
    s.gives (.creditGrant i) (match cause with
      | none => (s.netDrop i).wrs (tileOf src.tile).val src.num [(F.LEP_CHAN_CRED_STATE, 2),
          (F.LEP_CHAN_CRED_AVAIL, s.rd F.LEP_CHAN_CRED_ALLOT (tileOf src.tile).val src.num), (F.LEP_CHAN_CRED_EPOCH, epoch)]
      | some k => (s.netDrop i).wrs (tileOf src.tile).val src.num [(F.LEP_CHAN_CRED_STATE, 4), (F.LEP_CHAN_CRED_CAUSE, k)])) ∧
  (∀ i (s : State) src q, s.net[i]? = some (.credit src q) → src.rank = s.rank → src.grp = false → s.lepAwake (tileOf src.tile) = true →
    s.rd F.LEP_CHAN_CRED_STATE (tileOf src.tile).val src.num = 2 →
    s.gives (.creditReturn i) ((s.netDrop i).wr F.LEP_CHAN_CRED_AVAIL (tileOf src.tile).val
      (min (s.rd F.LEP_CHAN_CRED_AVAIL (tileOf src.tile).val src.num + 1) (s.rd F.LEP_CHAN_CRED_ALLOT (tileOf src.tile).val src.num)) src.num)) ∧
  (∀ i (s : State) src q, s.net[i]? = some (.allotRet src q) → q.rank = s.rank → s.lepAwake (tileOf q.tile) = true → s.qState (tileOf q.tile) q.queue = 1 →
    s.gives (.allotmentReturn i) ((s.netDrop i).onQueue (tileOf q.tile) q.queue (fun x => { x with allots := x.allots.filter (fun a => decide (a.src ≠ src)) })))

/-- Queues and groups (R242, R252, R265): an enable of a queue that is OFF with a legal ring in the local store makes it READY and empty, one with no slots
makes it ERR; a disable of an ERR queue makes it OFF, and of a READY one drains it; a group's enable asks every member's home or is REFUSED.
That Q_CFG and GRP_CFG take nothing but EN = 0 while the queue or group is not OFF, and that reserved bits of Q_BASE are remembered until the enable, are the model's readings (log entry 36). -/
def Obligations.QueueAndGroupEnable : Prop :=
  (∀ t (q : Fin 256) (s : State), s.qState t q.val ≠ 0 → ∀ val, s.gives (.queueEnable t q val) s) ∧
  (∀ t (q : Fin 256) (val : BitVec 64) (s : State), s.lepRuns t = true → s.qState t q.val = 0 → bits val.toNat 0 1 = 1 →
    let va := s.rd F.LEP_Q_BASE_VA t.val q.val
    let slots := bits val.toNat 16 13
    (slots = 0 → s.gives (.queueEnable t q val) ((s.putQCfg t q.val val.toNat).qMove t q.val 3)) ∧
    (1 ≤ slots → slots ≤ 4096 → va % 32 = 0 → lsBase ≤ va → va + slots * (32 + 32 * 2 ^ bits val.toNat 29 3) ≤ 2 ^ 48 → bits val.toNat 3 2 = 0 →
      qcfgRsv val.toNat = false → (s.queue t q.val).baseRsv = false →
      s.gives (.queueEnable t q val) (((s.putQCfg t q.val val.toNat).onQueue t q.val (fun x =>
        { LepQueue.off with baseRsv := x.baseRsv, ring := some (.store (va - lsBase)) })).qMove t q.val 1))) ∧
  (∀ t (q : Fin 256) (s : State), s.lepRuns t = false → (∀ val, s.gives (.queueEnable t q val) s) ∧ s.gives (.queueDisable t q) s) ∧
  (∀ t (q : Fin 256) (s : State), s.lepRuns t = true → (s.qState t q.val = 3 → s.gives (.queueDisable t q) ((s.wr F.LEP_Q_CFG_EN t.val 0 q.val).qMove t q.val 0)) ∧
    (s.qState t q.val = 1 → s.gives (.queueDisable t q) (((s.wr F.LEP_Q_CFG_EN t.val 0 q.val).qMove t q.val 2).qCheck t q.val))) ∧
  (∀ (s : State) t q st, s.qState t q ≠ st → s.qMove t q st = (s.wr F.LEP_Q_STATUS_STATE t.val st q).wr F.LEP_Q_STATUS_EPOCH t.val
    (s.rd F.LEP_Q_STATUS_EPOCH t.val q + 1) q) ∧
  (∀ t (g : Fin 32) (val : BitVec 64) (s : State), s.lepRuns t = true →
    let s1 := (s.putGrpCfg t g.val val.toNat).onLep t (fun l => { l with
      grpSeq := l.grpSeq.erase g.val
      grpGrant := l.grpGrant.filter (fun p => decide (p.1 / 64 ≠ g.val))
      grpCred := l.grpCred.filter (fun p => decide (p.1 / 64 ≠ g.val)) })
    (s.rd F.LEP_GRP_STATE_STATE t.val g.val ≠ 0 → s.gives (.groupEnable t g val) s) ∧
    (s.rd F.LEP_GRP_STATE_STATE t.val g.val = 0 → bits val.toNat 0 1 = 1 →
      (bits val.toNat 1 7 = 0 ∨ 64 < bits val.toNat 1 7 → s.gives (.groupEnable t g val)
        (s1.wrs t.val g.val [(F.LEP_GRP_STATE_STATE, 4), (F.LEP_GRP_STATE_CAUSE, 3)])) ∧
      (1 ≤ bits val.toNat 1 7 → bits val.toNat 1 7 ≤ 64 → maxlenOk (bits val.toNat 16 13) = true → (s1.members t g.val).Nodup →
        (∀ d ∈ s1.members t g.val, s.reach d.rank = true) → s.gives (.groupEnable t g val)
        ((s1.members t g.val).foldl (fun x d => x.send (.grantReq (s.peer t true g.val) d (bits val.toNat 8 8) (bits val.toNat 32 16)))
          (s1.wrs t.val g.val [(F.LEP_GRP_STATE_STATE, 1), (F.LEP_GRP_STATE_CAUSE, 0)])))))

/-- A message's way (R248, R254 to R256, R258): a tensor send offers its next message and goes on when it is accepted, or traps where its destination may
not be reached (R342); an arriving message wakes a sleeping LEP and is placed in the lowest
free slot, a bad one is replaced by a Quag, one for a queue that is not enabled is discarded; and the first placed message that may be is appended.
How a sender learns that a message of its is placed is the model's choice (log entry 12). -/
def Obligations.MessageTransferResult : Prop :=
  (∀ t tag (s : State) r, (s.tile t).ops.find? tag.toNat = some r → r.op = .ldSend ∨ r.op = .ldMcast → r.st = .run → r.trap = none →
    (s.tile t).sendBehind r = false → (s.sendPath t r).1 = false →
    s.gives (.messageAccept t tag) (s.raiseOp t tag.toNat cAccess ((r.td 1).byteVa r.pos) (descIx r.insn 1) true).settle) ∧
  (∀ t tag (s : State) r bs poison, (s.tile t).ops.find? tag.toNat = some r → r.op = .ldSend → r.st = .run → r.trap = none → (s.tile t).sendBehind r = false →
    (s.sendPath t r).1 = true →
    let n := min (s.sendPath t r).2 (r.total - r.pos)
    s.payload t (r.td 1) r.pos n = .ok (bs, poison) →
    (∀ s1, s.acceptChan t (ldChan r.ga) ⟨r.xfb 80 10, r.pos + n = r.total, r.pos, bs, poison, some r.seq⟩ = some s1 →
      s.gives (.messageAccept t tag) ((s1.tookVas t ((r.td 1).bytePieces n r.pos n)).onTile t (fun x => { x with ops := x.ops.put tag.toNat (if r.pos + n = r.total
        then { r with st := .ack, pos := r.total, acks := 0 } else { r with st := .run, pos := r.pos + n }) })).settle) ∧
    (s.acceptChan t (ldChan r.ga) ⟨r.xfb 80 10, r.pos + n = r.total, r.pos, bs, poison, some r.seq⟩ = none → s.gives (.messageAccept t tag) s.settle)) ∧
  (∀ i (s : State) hdr payload poison src op, s.net[i]? = some (.msg hdr payload poison src op) →
    let h := Hdr.of hdr
    let t := tileOf h.dtile
    let s1 := if h.kind ≤ kMcast then (s.netDrop i).wasPlaced src ⟨h.drank, h.dtile, h.dq⟩ h.seq else s.netDrop i
    (s.mayArrive i = false → s.lepAwake t = true → s.gives (.messageArrival i) s) ∧
    (s.lepAwake t = false → s.gives (.messageArrival i) (s.wakeTile t false)) ∧
    (s.mayArrive i = true → s.qState t h.dq ≠ 1 → s.qState t h.dq ≠ 2 → s.gives (.messageArrival i) s1) ∧
    (s.mayArrive i = true → s.qState t h.dq = 1 → h.kind ≠ kResponse →
      (s.arrivalCause t hdr poison = none → s.gives (.messageArrival i) (s1.place t h.dq hdr payload src none)) ∧
      (∀ c, s.arrivalCause t hdr poison = some c → s.gives (.messageArrival i)
        (((s1.quagFormed t h.dq (quagOf hdr c)).count F.FLT_CNT_OP_COUNT 0 1).place t h.dq (quagOf hdr c) [] src none)))) ∧
  (∀ (s : State) t q hdr payload src slot, s.freeSlotOf t q = some slot → (∀ i, i < slot → ((s.queue t q).slots.find? i).isSome = true) ∧
    s.place t q hdr payload src none = (s.onQueue t q (fun x => { x with
      slots := x.slots.put slot ⟨hdr, src, false, .written⟩, landed := x.landed ++ [slot] })).writeSlot t q slot (leBytes 32 hdr ++ payload)) ∧
  (∀ t (q : Fin 256) (s : State) slot, (s.queue t q.val).landed.find? (fun k => s.mayAppend t q.val k) = some slot →
    s.gives (.messageAppend t q) ((s.append t q.val slot).recvRun t).settle) ∧
  (∀ t (q : Fin 256) (s : State), (∀ k ∈ (s.queue t q.val).landed, s.mayAppend t q.val k = false) → s.gives (.messageAppend t q) s) ∧
  (∀ (s : State) t q slot sl, (s.queue t q).slots.find? slot = some sl → ((s.append t q slot).queue t q).fifo = (s.queue t q).fifo ++ [slot] ∧
    ((s.append t q slot).queue t q).slots.find? slot = some { sl with st := .appended })

/-- Dispatch (R259, R260): the MSG thread, when idle, takes the head of the waiting queue of the highest rank, unless one was passed over 64 times, and
starts the message's handler with the header and the payload's address in its registers. -/
def Obligations.HandlerDispatchResult : Prop :=
  (∀ t (s : State) q slot rest sl e rep, (s.thr t 1).st = .idle → s.flag F.LEP_CTL_DSTOP t.val = false → s.tileRuns t = true → s.pickQueue t = some q →
    (s.queue t q).fifo = slot :: rest → (s.queue t q).slots.find? slot = some sl → s.handlerOf t (Hdr.of sl.hdr) = some (e, rep) →
    ∃ u, exec (.handlerDispatch t) s = .next u ∧ (u.thr t 1).st = .ready ∧ (u.thr t 1).pc = e % 2 ^ 48 ∧ (u.thr t 1).hsteps = 0 ∧
      (u.thr t 1).getG 1 = BitVec.ofNat 64 (bits sl.hdr 0 64) ∧ (u.thr t 1).getG 4 = BitVec.ofNat 64 (bits sl.hdr 192 64) ∧
      (u.thr t 1).getG 5 = BitVec.ofNat 64 ((s.slotVa t q slot + 32) % 2 ^ 48) ∧ (u.thr t 1).getG 6 = BitVec.ofNat 64 (Hdr.of sl.hdr).ln ∧
      (u.thr t 1).getG 7 = BitVec.ofNat 64 (q + rep.toNat * 256) ∧ (u.thr t 1).getG 8 = 0 ∧
      (u.tile t).lep.held.find? 1 = some ⟨q, slot, false⟩ ∧ (u.queue t q).fifo = rest ∧ u.mem = s.mem ∧ ∀ h, h ≠ 1 → u.thr t h = s.thr t h) ∧
  (∀ t (s : State), (s.thr t 1).st ≠ .idle ∨ s.flag F.LEP_CTL_DSTOP t.val = true → s.gives (.handlerDispatch t) s) ∧
  (∀ (s : State) t q, s.pickQueue t = some q → (∀ p ∈ (s.tile t).lep.queues, (s.queue t p.1).passed < 64) →
    s.dispatchable t q = true ∧ ∀ p ∈ (s.tile t).lep.queues, s.dispatchable t p.1 = true → s.rd F.LEP_Q_CFG_RANK t.val p.1 ≤ s.rd F.LEP_Q_CFG_RANK t.val q)

/-- Scalar sends and SELECT (R246 to R248, R262): an accepted message takes a credit and leaves with its header, and the predicate says so; with no credit the
predicate is false and the send is counted; a send to a rank not above the held one is a RANK trap; SELECT takes the head of the queue it picks.
That a scalar send sets LAST is the model's reading (log entry 38). -/
def Obligations.ScalarLodeResult : Prop :=
  (∀ t th (a : RArgs) (s : State), s.issues t th → a.gd = 0 → a.x.toNat < 8 → a.gb.toNat ≤ 56 →
    let c := (s.g t (thrIx th) a.ga.toNat).toNat
    let ch := bits c 0 9
    let avail := s.rd F.LEP_CHAN_CRED_AVAIL t.val ch
    ctlRsv c = false → bits c 31 1 = 0 →
    (s.breaksRank t (thrIx th).val (s.rd F.LEP_CHAN_CFG_RANK t.val ch) = true → s.trapsWith t th (.lodeSendr t th a) cRank 0) ∧
    (s.breaksRank t (thrIx th).val (s.rd F.LEP_CHAN_CFG_RANK t.val ch) = false → s.rd F.LEP_CHAN_CRED_STATE t.val ch = 2 → s.chanReach t ch = false →
      s.trapsWith t th (.lodeSendr t th a) cAccess 0) ∧
    (s.breaksRank t (thrIx th).val (s.rd F.LEP_CHAN_CFG_RANK t.val ch) = false → s.rd F.LEP_CHAN_CRED_STATE t.val ch ≠ 2 ∨ s.chanReach t ch = true → avail = 0 →
      s.retires t th (.lodeSendr t th a) (fun x => (x.count F.LEP_CNT_NOCREDIT_COUNT t.val 1).setP t (thrIx th) a.x.toNat false)) ∧
    (s.breaksRank t (thrIx th).val (s.rd F.LEP_CHAN_CFG_RANK t.val ch) = false → s.rd F.LEP_CHAN_CRED_STATE t.val ch = 2 → 1 ≤ avail →
      s.flag F.LEP_CHAN_CFG_RESP t.val ch = false → s.rd F.LEP_CHAN_CFG_LOCAL t.val ch = 1 → s.rank < 64 → s.sbufRoom t 64 = true →
      ∃ u h, exec (.lodeSendr t th a) s = .next u ∧ u.rd F.LEP_CHAN_CRED_AVAIL t.val ch = (avail - 1) % 2 ^ F.LEP_CHAN_CRED_AVAIL.w ∧
        (a.x ≠ 0 → (u.thr t (thrIx th)).getP a.x.toNat = true) ∧ (u.thr t (thrIx th)).pc = ((s.thr t (thrIx th)).pc + 4) % 2 ^ 48 ∧
        u.net = s.net ++ [.msg (Hdr.pack h) ((List.range 8).flatMap (fun k => leBytes 8 (s.g t (thrIx th) (a.gb.toNat + k)).toNat)) false
          ⟨s.rank, t.val, false, ch⟩ none] ∧
        h.handler = bits c 16 10 ∧ h.kind = kRequest ∧ h.last = true ∧ h.ln = 64 ∧ h.stile = t.val ∧ h.srank = s.rank ∧ h.chan = ch ∧
        h.dq = s.rd F.LEP_CHAN_CFG_QUEUE t.val ch ∧ h.dtile = s.rd F.LEP_CHAN_CFG_TILE t.val ch ∧ h.drank = s.rank ∧
        h.crank = s.rd F.LEP_CHAN_CFG_RANK t.val ch ∧ h.seq = (s.tile t).lep.chanSeq.getD ch 0 ∧ h.time = s.ns ∧ u.mem = s.mem)) ∧
  (∀ t th (a : RArgs) (s : State), s.issues t th → a.gd = 0 → a.x.toNat < 8 →
    let c := (s.g t (thrIx th) a.ga.toNat).toNat
    let n := bits c 32 16
    let va := (s.g t (thrIx th) a.gb.toNat).toNat % 2 ^ 48
    ctlRsv c = false → bits c 31 1 = 0 → 0 < n → n ≤ 4096 → n ≤ s.rd F.LEP_CHAN_CFG_MAXLEN t.val (bits c 0 9) →
    (va % 32 ≠ 0 → s.trapsWith t th (.lodeSendm t th a) cMisalign va) ∧
    (∀ bs v, va % 32 = 0 → (s.fetched t th (rWord clsThr 9 a)).gatherVa t th va n = .ok (bs, v) →
      s.breaksRank t (thrIx th).val (s.rd F.LEP_CHAN_CFG_RANK t.val (bits c 0 9)) = false →
      (s.rd F.LEP_CHAN_CRED_STATE t.val (bits c 0 9) ≠ 2 ∨ s.chanReach t (bits c 0 9) = true → s.rd F.LEP_CHAN_CRED_AVAIL t.val (bits c 0 9) = 0 →
        s.gives (.lodeSendm t th a) (((v.count F.LEP_CNT_NOCREDIT_COUNT t.val 1).setP t (thrIx th) a.x.toNat false).retireAt t (thrIx th)
          ((s.thr t (thrIx th)).pc + 4))) ∧
      (∀ s1, v.acceptChan t (bits c 0 9) ⟨bits c 16 10, true, 0, bs, false, none⟩ = some s1 →
        s.gives (.lodeSendm t th a) ((s1.setP t (thrIx th) a.x.toNat true).retireAt t (thrIx th) ((s.thr t (thrIx th)).pc + 4))))) ∧
  (∀ t th (a : RArgs) (s : State), s.issues t th → th ≠ .msg → a.x.toNat < 8 → (s.tile t).lep.held.find? (thrIx th).val = none →
    let ga := (s.g t (thrIx th) a.ga.toNat).toNat
    let gb := (s.g t (thrIx th) a.gb.toNat).toNat
    (bits a.x.toNat 2 1 = 1 → ∃ u, exec (.lodeSelect t th a) s = .next u ∧ s.ranG u t th a.gd.toNat 0xFFFF) ∧
    (bits a.x.toNat 2 1 = 0 → s.selPick t (thrIx th).val ga gb (bits a.x.toNat 0 1 = 1) = none → bits a.x.toNat 1 1 = 1 →
      ∃ u, exec (.lodeSelect t th a) s = .next u ∧ s.ranG u t th a.gd.toNat 0xFFFF) ∧
    (∀ q slot rest, bits a.x.toNat 2 1 = 0 → s.selPick t (thrIx th).val ga gb (bits a.x.toNat 0 1 = 1) = some q → (s.queue t q).fifo = slot :: rest →
      ∃ u, exec (.lodeSelect t th a) s = .next u ∧ (u.thr t (thrIx th)).pc = ((s.thr t (thrIx th)).pc + 4) % 2 ^ 48 ∧
        (a.gd ≠ 0 → (u.thr t (thrIx th)).getG a.gd.toNat = BitVec.ofNat 64 (s.slotVa t q slot * 65536 + q)) ∧
        (u.tile t).lep.held.find? (thrIx th).val = some ⟨q, slot, false⟩ ∧ (u.queue t q).fifo = rest ∧ u.mem = s.mem)) ∧
  (∀ t (a : RArgs) (s : State), s.issues t .msg → s.trapsWith t .msg (.lodeSelect t .msg a) cIllegalInsn 0)

/-! ### Work rings -/

/-- Enabling and disabling a ring (R382, R401): an OFF ring whose buffers lie in the assignment becomes READY with its counts zero, another is ERR with BASE and
an event; while it is not OFF only the interrupt fields change; a disable drains it; a function in D3hot takes no write.
That ERRCAUSE is kept by EN = 0, and that ERR ends a reset, are the model's readings (log entry 39). -/
def Obligations.RingEnableAndDisable : Prop :=
  (∀ (f : Fin 32) (r : Fin 64) (val : BitVec 64) (p : BitVec 32) (s : State), s.fnTakes f.val = false →
    s.gives (.ringEnable f r val) s ∧ s.gives (.ringDisable f r val) s ∧ s.gives (.doorbell f r p) s ∧ s.gives (.cqHeadWrite f r p) s ∧
      s.gives (.ringProgSelWrite f r p) s ∧ s.gives (.timeNowRead f) s) ∧
  (∀ (f : Fin 32) (r : Fin 64) (val : BitVec 64) (s : State), s.fnTakes f.val = true → bits val.toNat 0 1 = 1 →
    let s1 := (s.putRingCfg f.val r.val val.toNat true).wr F.HIU_RING_CFG_EN f.val 1 r.val
    (s.rState f.val r.val ≠ 0 → s.gives (.ringEnable f r val) (s.putRingCfg f.val r.val val.toNat false)) ∧
    (s.rState f.val r.val = 0 → s1.ringIn f.val r.val = true → s.gives (.ringEnable f r val)
      ((s1.wrs f.val r.val [(F.HIU_RING_STATUS_STATE, 1), (F.HIU_RING_STATUS_ERRCAUSE, 0), (F.HIU_RING_STATUS_CONS, 0), (F.HIU_CQ_HEAD_HEAD, 0),
        (F.HIU_CQ_TAIL_TAIL, 0), (F.HIU_CQ_TAIL_RES, 0)]).onRing f.val r.val (fun _ => .off))) ∧
    (s.rState f.val r.val = 0 → s1.ringIn f.val r.val = false → s.gives (.ringEnable f r val)
      ((s1.wrs f.val r.val [(F.HIU_RING_STATUS_STATE, 2), (F.HIU_RING_STATUS_ERRCAUSE, 1)]).event f.val F.HIU_EVT_STATUS_RING_ERR))) ∧
  (∀ (f : Fin 32) (r : Fin 64) (val : BitVec 64) (s : State), s.fnTakes f.val = true → bits val.toNat 0 1 = 0 →
    (s.rState f.val r.val = 0 → s.gives (.ringDisable f r val) ((s.putRingCfg f.val r.val val.toNat true).wr F.HIU_RING_CFG_EN f.val 0 r.val)) ∧
    (s.rState f.val r.val = 1 ∨ s.rState f.val r.val = 2 → s.gives (.ringDisable f r val)
      (((((s.putRingCfg f.val r.val val.toNat false).wr F.HIU_RING_CFG_EN f.val 0 r.val).wr F.HIU_RING_STATUS_STATE f.val 3 r.val).onRing f.val r.val
        (fun x => { x with cmds := x.cmds.filter (fun c => c.started) })).sweep f.val r.val))) ∧
  (∀ (s : State) f r cause, (s.rState f r = 1 ∨ s.rState f r = 3 → s.ringErr f r cause =
      (s.wrs f r [(F.HIU_RING_STATUS_STATE, 2), (F.HIU_RING_STATUS_RESETTING, 0), (F.HIU_RING_STATUS_ERRCAUSE, cause)]).event f F.HIU_EVT_STATUS_RING_ERR) ∧
    (s.rState f r = 0 ∨ s.rState f r = 2 → s.ringErr f r cause = s))

/-- A doorbell (R383): one that does not change PROD is ignored, one with PROD - CONS above SIZE modulo 2^32 puts the ring in ERR with cause DOORBELL (2), one to a ring that is not READY is ignored and sets
DB_IGNORED, and any other gives PROD; command k is then read from slot k mod SIZE. -/
def Obligations.DoorbellActed : Prop :=
  (∀ (f : Fin 32) (r : Fin 64) (prod : BitVec 32) (s : State), s.fnTakes f.val = true →
    (s.rState f.val r.val ≠ 1 → s.gives (.doorbell f r prod) (s.event f.val F.HIU_EVT_STATUS_DB_IGNORED)) ∧
    (s.rState f.val r.val = 1 → (s.ring f.val r.val).prod = prod.toNat → s.gives (.doorbell f r prod) s) ∧
    (s.rState f.val r.val = 1 → (s.ring f.val r.val).prod ≠ prod.toNat →
      (s.rSize f.val r.val < (prod.toNat + 2 ^ 32 - s.rd F.HIU_RING_STATUS_CONS f.val r.val % 2 ^ 32) % 2 ^ 32 → s.gives (.doorbell f r prod)
        ((s.wrs f.val r.val [(F.HIU_RING_STATUS_STATE, 2), (F.HIU_RING_STATUS_RESETTING, 0), (F.HIU_RING_STATUS_ERRCAUSE, 2)]).event f.val
          F.HIU_EVT_STATUS_RING_ERR)) ∧
      ((prod.toNat + 2 ^ 32 - s.rd F.HIU_RING_STATUS_CONS f.val r.val % 2 ^ 32) % 2 ^ 32 ≤ s.rSize f.val r.val →
        s.gives (.doorbell f r prod) (s.onRing f.val r.val (fun x => { x with prod := prod.toNat }))))) ∧
  (∀ (f : Fin 32) (r : Fin 64) (s : State), s.rState f.val r.val = 1 → s.fnLive f.val = true →
    let x := s.ring f.val r.val
    let pa := s.rd F.HIU_RING_BASE_PA f.val r.val * 4096 + x.fetched % s.rSize f.val r.val * 64
    x.fetched ≠ x.prod → (x.cmds.filter (fun c => !c.started)).length < 16 → s.owes (fun w => w = .cmd f.val r.val x.fetched) = false → s.bar2Owes = false →
    s.paCheck f.val pa = .ok () → s.hiuAts f.val pa 64 = none → (∀ d o, s.region pa ≠ .fen d o) → s.poisonIn pa 64 = false →
    s.gives (.commandFetch f r none) ((s.hiuTook pa 64).fetchTake f.val r.val (s.readNat f.val pa 64)))

/-- A FENCE (R391): it completes when every earlier command of its ring has its record, and before it completes no later command of its ring starts. -/
def Obligations.FenceOrdersRing : Prop :=
  (∀ (s : State) f r c, (s.ring f r).cmds.find? (fun c => c.started && !c.done && c.op = 7) = some c →
    ((∀ d ∈ (s.ring f r).cmds, d.started = true → d.seq ≠ c.seq → d.recorded = true) → s.fenceDone f r = s.complete f r c.seq 0 0 1) ∧
    ((∃ d ∈ (s.ring f r).cmds, d.started = true ∧ d.seq ≠ c.seq ∧ d.recorded = false ∧ d.refused = false) → s.fenceDone f r = s)) ∧
  (∀ (f : Fin 32) (r : Fin 64) (s : State) c, c ∈ (s.ring f.val r.val).cmds → c.started = true → c.done = false → c.op = 7 →
    ∀ i ∈ [Instr.launch f r, .copy f r, .signal f r, .wait f r, .checkpoint f r, .restore f r, .fence f r], s.gives i s)

/-- Fetches and CQ_HEAD (R233, R374, R384, R393, R400): a fetch that follows every host write through BAR2 takes the next 64 bytes as a command, and a refused,
poisoned or failed one is a FETCH error, a failed one from host memory an AER error too; a HEAD up to TAIL is taken, and one beyond it is a DOORBELL error.
A ring's interrupt, progress and time registers (R397 to R399): the delay's end sends the vector for the records that wait, PROG_SEL latches a command's
state, and a read of TIME_NOW gives the count and latches its fraction. -/
def Obligations.RingRegisterResult : Prop :=
  ((∀ (f : Fin 32) (r : Fin 64) (s : State), s.rState f.val r.val = 1 → s.fnLive f.val = true →
    let x := s.ring f.val r.val
    let pa := s.rd F.HIU_RING_BASE_PA f.val r.val * 4096 + x.fetched % s.rSize f.val r.val * 64
    x.fetched ≠ x.prod → (x.cmds.filter (fun c => !c.started)).length < 16 → s.owes (fun w => w = .cmd f.val r.val x.fetched) = false → s.bar2Owes = false →
    (∀ e fail, s.paCheck f.val pa = .error e → s.gives (.commandFetch f r fail) (s.ringErr f.val r.val 3)) ∧
    (s.paCheck f.val pa = .ok () → s.hiuAts f.val pa 64 = none →
      (∀ o e, s.region pa = .host o → s.gives (.commandFetch f r (some e)) ((s.ringErr f.val r.val 3).aerErr f.val (cplBit e))) ∧
      ((∀ d o, s.region pa ≠ .fen d o) →
        (s.poisonIn pa 64 = true → s.gives (.commandFetch f r none) ((s.hiuTook pa 64).ringErr f.val r.val 3)) ∧
        (s.poisonIn pa 64 = false → s.gives (.commandFetch f r none) (((s.hiuTook pa 64).onRing f.val r.val (fun x => { x with
          cmds := x.cmds ++ [⟨x.fetched, s.readNat f.val pa 64, false, false, false, false, false, false, 0, 0, [], 0, 0, 0⟩]
          fetched := (x.fetched + 1) % 2 ^ 32 })).sweep f.val r.val))))) ∧
  (∀ (f : Fin 32) (r : Fin 64) fail (s : State), s.rState f.val r.val ≠ 1 ∨ (s.ring f.val r.val).fetched = (s.ring f.val r.val).prod →
    s.gives (.commandFetch f r fail) s) ∧
  (∀ (f : Fin 32) (r : Fin 64) (v : BitVec 32) (s : State), s.fnTakes f.val = true →
    let h := s.rd F.HIU_CQ_HEAD_HEAD f.val r.val
    let tail := s.rd F.HIU_CQ_TAIL_TAIL f.val r.val
    (s.rState f.val r.val = 0 → s.gives (.cqHeadWrite f r v) s) ∧
    (s.rState f.val r.val ≠ 0 → sub32 v.toNat h ≤ sub32 tail h → s.gives (.cqHeadWrite f r v) ((s.wr F.HIU_CQ_HEAD_HEAD f.val v.toNat r.val).sweep f.val r.val)) ∧
    (s.rState f.val r.val ≠ 0 → sub32 tail h < sub32 v.toNat h →
      s.gives (.cqHeadWrite f r v) ((s.wr F.HIU_CQ_HEAD_HEAD f.val v.toNat r.val).ringErr f.val r.val 2)))) ∧
  ((∀ (f : Fin 32) (r : Fin 64) (s : State), ((s.ring f.val r.val).irqPend = 0 → s.gives (.irqDelayExpiry f r) s) ∧
    ((s.ring f.val r.val).irqPend ≠ 0 → s.gives (.irqDelayExpiry f r)
      ((s.onRing f.val r.val (fun x => { x with irqPend := 0 })).msix f.val (s.rd F.HIU_RING_CFG_VEC f.val r.val)))) ∧
  (∀ (f : Fin 32) (r : Fin 64) (v : BitVec 32) (s : State), s.fnTakes f.val = true →
    let put := fun st pos pm total => s.wrs f.val r.val [(F.HIU_RING_PROG_SEL_SEQ, v.toNat), (F.HIU_RING_PROG_POS_STATE, st),
      (F.HIU_RING_PROG_POS_POSITION, pos), (F.HIU_RING_PROG_POS_PERMILLE, pm), (F.HIU_RING_PROG_TOTAL_TOTAL, total)]
    (s.rcmd f.val r.val v.toNat = none → s.gives (.ringProgSelWrite f r v) (put 0 0 0 0)) ∧
    (∀ c, s.rcmd f.val r.val v.toNat = some c → sub32 (s.rd F.HIU_RING_STATUS_CONS f.val r.val) v.toNat ≤ s.rSize f.val r.val →
      (c.started = false → s.gives (.ringProgSelWrite f r v) (put 0 0 0 0)) ∧
      (c.started = true → c.recorded = true → s.gives (.ringProgSelWrite f r v) (put 3 (s.cmdPos f.val r.val c) 1000 c.total)) ∧
      (c.started = true → c.recorded = false → c.total ≠ 0 → s.cmdQueued f.val r.val c = false → s.gives (.ringProgSelWrite f r v)
        (put 2 (s.cmdPos f.val r.val c) (min 999 (1000 * s.cmdPos f.val r.val c / c.total)) c.total)))) ∧
  (∀ (f : Fin 32) (s : State), s.fnTakes f.val = true →
    s.gives (.timeNowRead f) ((s.wr F.HIU_TIME_NOW_FRAC_FRAC f.val s.frac).emit (.other "TIME_NOW" [f.val, s.ns]))) ∧
  (∀ (f : Fin 32) (v : Fin 64) (s : State), s.fnLive f.val = true → (s.fn f.val).msixEnable = true → (s.fn f.val).msixPend.getLsbD v.val = true →
    ∃ u, exec (.msixVectorUnmask f v) s = .next u ∧ u.out = s.out ++ [.msix f.val v.val] ∧ (u.fn f.val).msixMask.getLsbD v.val = false ∧
      (u.fn f.val).msixPend.getLsbD v.val = false ∧ (∀ w, w ≠ v.val → (u.fn f.val).msixMask.getLsbD w = (s.fn f.val).msixMask.getLsbD w) ∧ u.mem = s.mem))

/-- LAUNCH, job start and job end (R161, R386, R395): a LAUNCH that names no tile is FORMAT, one that names a tile in Off is OFF; a good one joins its tiles'
queues; a job starts with its argument in the local store and MAIN at ENTRY with g1 at the local store; a finished job's last part completes the command. -/
def Obligations.LaunchAndJobResult : Prop :=
  (∀ (f : Fin 32) (r : Fin 64) (s : State) c, s.ready f.val r.val 1 = some c →
    let total := c.field 0x28 8 * c.tiles.length
    (∀ st, s.launchCheck f.val c = some st → s.gives (.launch f r) ((s.startFail f.val r.val c total st).sweep f.val r.val)) ∧
    (s.launchCheck f.val c = none → (∀ t ∈ c.tiles, (s.tile t).launches.length < 8) →
      s.gives (.launch f r) (((s.start f.val r.val c total).launch f.val r.val c).sweep f.val r.val)) ∧
    (s.launchCheck f.val c = none → (∃ t ∈ c.tiles, (s.tile t).launches.length = 8) → s.gives (.launch f r) s)) ∧
  (∀ (f : Fin 32) (r : Fin 64) (s : State), s.ready f.val r.val 1 = none → s.gives (.launch f r) s) ∧
  (∀ (s : State) f (c : RCmd), c.tiles = [] → s.launchCheck f c = some 0x21) ∧
  (∀ (s : State) f (c : RCmd) t, t ∈ c.tiles → c.field 0x20 4 = 0 → (∀ u ∈ c.tiles, s.hasTile f u.val = true ∧ s.unitIn u.val = true) →
    s.rd F.TPC_STATUS_STATE t.val = 4 → s.launchCheck f c = some 0x23) ∧
  (∀ t (s : State) j rest, (s.tile t).launches = j :: rest → (s.tile t).job = none → s.tileRuns t = true → s.argFar j = [] → s.argFault j = none →
    s.hiuAts j.fn j.arg j.argLen = none →
    ∃ u, exec (.jobStart t) s = .next u ∧ (u.thr t 0).st = .ready ∧ (u.thr t 0).pc = j.entry % 2 ^ 48 ∧ (u.thr t 0).getG 1 = BitVec.ofNat 64 lsBase ∧
      (u.thr t 0).getG 2 = 0 ∧ (u.tile t).dregs = [] ∧ (u.tile t).sigDone = 0 ∧ (u.tile t).launches = rest ∧
      (u.tile t).job = some ⟨j, false, none, none, 0, false, false, 0⟩ ∧ u.mem = s.mem ∧
      (j.argLen ≤ 262144 → ∀ i, i < j.argLen → (u.tile t).ls.getD i 0 = s.byteAt j.fn (j.arg + i))) ∧
  (∀ t (s : State), (s.tile t).launches = [] ∨ (s.tile t).job ≠ none → s.gives (.jobStart t) s) ∧
  (∀ t (s : State) j, (s.tile t).job = some j → s.jobOver t = true → s.gives (.jobComplete t)
    ((s.onTile t (fun x => { x with job := none })).launchPart j.job t.val j.status j.trapPc j.retired)) ∧
  (∀ t (s : State) j, (s.tile t).job = some j → j.ended = false → s.gives (.jobComplete t) s)

/-- COPY, SIGNAL, WAIT and FENCE (R387 to R391): each completes at its check with its status, or starts: a COPY as one descriptor, a SIGNAL writes or adds its
value, a WAIT reads until its condition holds or its time is over, and a FENCE waits for the commands before it. Which engine ENG = 4 names is the model's
choice (log entry 15). -/
def Obligations.RingCommandResult : Prop :=
  (∀ (f : Fin 32) (r : Fin 64) (s : State), (s.ready f.val r.val 2 = none → s.gives (.copy f r) s) ∧ (s.ready f.val r.val 3 = none → s.gives (.signal f r) s) ∧
    (s.ready f.val r.val 4 = none → s.gives (.wait f r) s) ∧ (s.ready f.val r.val 7 = none → s.gives (.fence f r) s) ∧
    (s.waiting f.val r.val = none → s.gives (.waitPoll f r) s ∧ s.gives (.waitTimeout f r) s)) ∧
  (∀ (f : Fin 32) (r : Fin 64) (s : State) c, s.ready f.val r.val 2 = some c →
    let n := bits c.body 256 24 + 1
    let rows := c.field 0x24 2 + 1
    let t := tileOf (bits c.body 304 3)
    let e := bits c.body 308 3
    (∀ st, s.copyCheck f.val c = some st → s.gives (.copy f r) ((s.startFail f.val r.val c (n * rows) st).sweep f.val r.val)) ∧
    (s.copyCheck f.val c = none → (s.tile t).tdm.length < 64 → s.gives (.copy f r)
      (((((s.start f.val r.val c (n * rows)).onTile t (fun x => x.addDesc (if e < 4 then e else x.freeEngine) (.copy f.val r.val c.seq)
        ⟨c.field 0x10 8, c.field 0x18 8, n, rows, c.field 0x28 8, c.field 0x30 8⟩ 3 0 0)).wakeTile t true).copyWakes c).sweep f.val r.val)) ∧
    (s.copyCheck f.val c = none → 64 ≤ (s.tile t).tdm.length → s.gives (.copy f r) s)) ∧
  (∀ (f : Fin 32) (r : Fin 64) (s : State) c, s.ready f.val r.val 3 = some c →
    let a := c.field 0x10 8
    (a % 8 ≠ 0 → s.gives (.signal f r) ((s.startFail f.val r.val c 1 0x21).sweep f.val r.val)) ∧
    (s.signalCheck f.val c = none → s.hiuAts f.val a 8 = none →
      let u := s.start f.val r.val c 1
      let v := c.field 0x18 8
      (c.field 0x20 1 = 0 → s.gives (.signal f r) (((u.wakeFor none a).writeBytes f.val a (leBytes 8 v) (.cmd f.val r.val c.seq)).signalDone
        f.val r.val c.seq)) ∧
      (c.field 0x20 1 = 1 → (s.region a).isDevice = true → s.gives (.signal f r)
        (((u.hiuTook a 8).update f.val a (.addw v) (.cmd f.val r.val c.seq)).signalDone f.val r.val c.seq)) ∧
      (∀ o, c.field 0x20 1 = 1 → s.region a = .host o → s.gives (.signal f r) ((u.writeBytes f.val a
        (leBytes 8 ((s.readNat f.val a 8 + v) % 2 ^ 64)) (.cmd f.val r.val c.seq)).signalDone f.val r.val c.seq)))) ∧
  (∀ (s : State) f pa v who, s.gate pa = .pass → s.update f pa (.addw v) who =
    ((s.putBytes f pa (leBytes 8 ((s.readNat f pa 8 + v) % 2 ^ 64))).clearPoison pa 8).gaveBytes pa 8) ∧
  (∀ (f : Fin 32) (r : Fin 64) (s : State) c, s.ready f.val r.val 4 = some c →
    (2 < c.field 0x20 1 ∨ c.field 0x10 8 % 8 ≠ 0 → s.gives (.wait f r) ((s.startFail f.val r.val c 1 0x21).sweep f.val r.val)) ∧
    (c.field 0x20 1 ≤ 2 → c.field 0x10 8 % 8 = 0 → s.paCheck f.val (c.field 0x10 8) = .ok () →
      s.gives (.wait f r) ((s.start f.val r.val c 1).waitPoll f.val r.val c))) ∧
  (∀ (f : Fin 32) (r : Fin 64) (s : State) c, s.waiting f.val r.val = some c → s.rcmd f.val r.val c.seq = some c →
    let a := c.field 0x10 8
    let v := s.readNat f.val a 8
    (s.paCheck f.val a = .ok () → (∀ d o, s.region a ≠ .fen d o) → s.hiuAts f.val a 8 = none →
      (s.isPoison a = true → s.gives (.waitPoll f r) (s.hiuTook a 8)) ∧
      (s.isPoison a = false → c.holds v = true → s.gives (.waitPoll f r) (((s.hiuTook a 8).complete f.val r.val c.seq 0 v 1).sweep f.val r.val)) ∧
      (s.isPoison a = false → c.holds v = false →
        s.gives (.waitPoll f r) ((s.hiuTook a 8).onCmd f.val r.val c.seq (fun c => { c with result := v })))) ∧
    (c.field 0x24 4 ≠ 0 → s.gives (.waitTimeout f r) ((s.complete f.val r.val c.seq 0x24 c.result 1).sweep f.val r.val)) ∧
    (c.field 0x24 4 = 0 → s.gives (.waitTimeout f r) s)) ∧
  (∀ (f : Fin 32) (r : Fin 64) (s : State) c, s.ready f.val r.val 7 = some c → s.gives (.fence f r) ((s.start f.val r.val c 1).sweep f.val r.val)) ∧
  (∀ (c : RCmd) v, (c.field 0x20 1 = 0 → (c.holds v = true ↔ v = c.field 0x18 8)) ∧ (c.field 0x20 1 = 1 → (c.holds v = true ↔ v ≠ c.field 0x18 8)) ∧
    (c.field 0x20 1 = 2 → (c.holds v = true ↔ c.field 0x18 8 ≤ v)))

/-- A command's completion record (R392, Table 15-4): with its slot writable it is written at TAIL, low byte first: SEQ, OPCODE, status, the phase, the tag, RESULT and
the TBU count at which it completed; TAIL counts it and no other byte of memory changes. -/
def Obligations.CompletionRecordWritten : Prop :=
  ∀ (s : State) f r (c : RCmd),
    let tail := s.rd F.HIU_CQ_TAIL_TAIL f r
    let pa := s.rd F.HIU_CQ_BASE_PA f r * 4096 + tail % s.rSize f r * 32
    s.paCheck f pa true = .ok () → (s.region pa).isDevice = true → s.gate pa = .pass →
    (∀ k, (s.record f r c).mem.getD k 0 = if s.localise pa ≤ k ∧ k < s.localise pa + 32 then
        (leBytes 4 c.seq ++ leBytes 1 c.op ++ leBytes 1 c.status ++ leBytes 2 (1 - tail / s.rSize f r % 2) ++ leBytes 8 (c.field 8 8) ++
          leBytes 8 c.result ++ leBytes 8 c.time)[k - s.localise pa]?.getD 0
      else s.mem.getD k 0) ∧
    (s.record f r c).rd F.HIU_CQ_TAIL_TAIL f r = (tail + 1) % 2 ^ 32 ∧ (s.record f r c).hostMem = s.hostMem

/-- Checkpoints (R317 to R324): a job starts once the engine is free and its CKD passes; the snapshot is taken at START_TIME; a held write proceeds once its block
may be written; and the image is closed once every block is acknowledged. -/
def Obligations.CheckpointResult : Prop :=
  (∀ (f : Fin 32) (r : Fin 64) (s : State), (s.ready f.val r.val 5 = none ∨ s.ck ≠ none → s.gives (.checkpoint f r) s) ∧
    (s.ready f.val r.val 6 = none ∨ s.ck ≠ none → s.gives (.restore f r) s)) ∧
  (∀ p ∈ ([(Instr.checkpoint, 5, false), (Instr.restore, 6, true)] : List ((Fin 32 → Fin 64 → Instr) × Nat × Bool)), ∀ (f : Fin 32) (r : Fin 64) (s : State) c,
    s.ready f.val r.val p.2.1 = some c → s.ck = none →
    let pa := c.field 0x10 8
    let d := s.readCkd f.val pa
    (s.spanOk f.val pa 0x40 false = false → s.gives (p.1 f r) ((s.startFail f.val r.val c 0 0x31).sweep f.val r.val)) ∧
    (s.spanOk f.val pa 0x40 false = true → s.hiuAts f.val pa 0x40 = none → s.ckdFar pa = [] → s.spanOk f.val pa (ckdBytes d.nreg) false = true →
      s.hiuAts f.val pa (ckdBytes d.nreg) = none → s.poisonIn pa (ckdBytes d.nreg) = false →
      (s.ckdBad f.val pa d p.2.2 = true → s.gives (p.1 f r) ((s.startFail f.val r.val c (4096 + 65536 * d.total) 0x30).sweep f.val r.val)) ∧
      (s.ckdBad f.val pa d p.2.2 = false → s.ckdAccess f.val d p.2.2 = true →
        s.gives (p.1 f r) ((((s.hiuTook pa (ckdBytes d.nreg)).start f.val r.val c (4096 + 65536 * d.total)).ckBegin f.val r.val c d p.2.2).sweep f.val r.val)))) ∧
  (∀ (s : State) j, s.ck = some j → j.restore = false → j.epoch = none →
    (j.start ≤ s.ns → s.gives .checkpointSnapshot ({ s with ck := some { j with epoch := some s.ns } } : State).ckFeed) ∧
    (s.ns < j.start → s.gives .checkpointSnapshot s)) ∧
  (∀ (s : State) j block h, s.ck = some j → j.held.find? (fun h => (blockOf j.regions 0 (s.localise h.pa)).any (fun b => decide (b.1 = block))) = some h →
    (s.blockGate h.pa = .pass → s.gives (.heldWriteRelease block)
      (({ s with ck := some { j with held := j.held.erase h } } : State).release [h]).allGo) ∧
    (∀ k base slot j1, s.blockGate h.pa = .shadow k base slot → (s.shadowCopy k base slot).ck = some j1 → s.gives (.heldWriteRelease block)
      (({ s.shadowCopy k base slot with ck := some { j1 with held := j1.held.erase h } } : State).release [h]).allGo) ∧
    (s.blockGate h.pa = .hold → s.gives (.heldWriteRelease block) s)) ∧
  (∀ (s : State) j, s.ck = some j → j.restore = false → j.stage = 1 → j.epoch ≠ none → s.atsNeeds j.fn j.image = false →
    (j.acked.length = j.blocks.length → s.gives .checkpointImageFinish
      (({ s with ck := some { j with stage := 2 } } : State).ckWrite j 4 (s.header j)).ckAdvance) ∧
    (j.acked.length ≠ j.blocks.length → s.gives .checkpointImageFinish s))

/-! ### Registers, functions, partitions -/

/-- A BAR0 write (R5, R9, R13, R376, R491, R492): one of another size or alignment is answered with Unsupported Request and writes nothing; one that names no
register, or a register the function does not reach, writes nothing; RW fields take the written bits and W1C fields drop them; a 32-bit write keeps the other half;
and a register whose write is an operation performs it.
That a fabric block takes BAR0 writes whenever its function takes accesses is the model's reading (log entry 36). -/
def Obligations.RegisterWriteResult : Prop :=
  (∀ (fn : Fin 32) (off width : Nat) (val : BitVec 64) (s : State), s.fnTakes fn.val = false → s.gives (.registerWrite fn off width val) s) ∧
  (∀ (fn : Fin 32) (off width : Nat) (val : BitVec 64) (s : State), s.fnTakes fn.val = true → (width ≠ 4 ∧ width ≠ 8) ∨ off % width ≠ 0 →
    s.gives (.registerWrite fn off width val) (s.emit (.other "UR" [fn.val, off]))) ∧
  (∀ (fn : Fin 32) (off width : Nat) (val : BitVec 64) (s : State), s.fnTakes fn.val = true → width = 4 ∨ width = 8 → off % width = 0 →
    (bar0At fn.val off = none → s.gives (.registerWrite fn off width val) s) ∧
    (∀ b inst o, bar0At fn.val off = some (b, inst, o) →
      (regAt b (o / 8 * 8) = none ∨ s.reaches fn.val b inst o = false → s.gives (.registerWrite fn off width val) s) ∧
      (∀ l f i, regAt b (o / 8 * 8) = some (l, f, i) → s.reaches fn.val b inst o = true →
        s.gives (.registerWrite fn off width val) (s.regWrite l f fn inst i o (RegW.of (s.regVal l inst i) (o % 8) width val.toNat)).settle) ∧
      (∀ l f i, regAt b (o / 8 * 8) = some (l, f, i) → s.reaches fn.val b inst o = true → f.blk = .sfu ∨ f.blk = .hmc ∨ f.blk = .pcm →
        s.gives (.registerWrite fn off width val) (s.regPut l inst i (RegW.of (s.regVal l inst i) (o % 8) width val.toNat)).settle))) ∧
  (∀ (fn : Fin 32) (t : Fin 8) inst i off (val : BitVec 64) (s : State) l, inst = t.val →
    let v := val.toNat
    let w : RegW := ⟨v, v, true, true⟩
    let x : BitVec 32 := BitVec.ofNat 32 v
    let hi : BitVec 32 := BitVec.ofNat 32 (v / 2 ^ 32)
    let r : Fin 64 := finOf 64 (by decide) i
    let vf : Fin 32 := finOf 32 (by decide) (i + 1)
    let does := fun (f : Fld) (c : Instr) => ∀ u, exec c s = .next u → s.regWrite l f fn inst i off w = u
    does F.HIU_DOORBELL_PROD (.doorbell fn r x) ∧ does F.HIU_CQ_HEAD_HEAD (.cqHeadWrite fn r x) ∧ does F.HIU_RING_PROG_SEL_SEQ (.ringProgSelWrite fn r x) ∧
    does F.TSC_PROG_SEL_TAG (.progSelWrite t val) ∧ does F.TMU_INV_SCOPE (.tmuInv t hi (some x)) ∧ does F.TBU_SET_NS_NS (.tbuSetNs hi (some x)) ∧
    does F.FLT_LOG_SEL_INDEX (.logSelWrite (BitVec.ofNat 6 v)) ∧
    (bits v 0 1 = 1 → does F.HIU_RING_CFG_EN (.ringEnable fn r val) ∧ does F.HIU_RING_CTL_RESET (.ringReset fn r) ∧ does F.HIU_PART_CFG_EN (.partEnable vf val) ∧
      does F.VSU_NAN_RESUME_GO (.nanResumeGo t) ∧ does F.FRV_MBX_CTL_GO .mbxGo ∧ does F.CWP_CTL_EN (.portEnable (finOf 16 (by decide) inst) val)) ∧
    (bits v 0 1 = 0 → does F.HIU_RING_CFG_EN (.ringDisable fn r val) ∧ does F.HIU_PART_CFG_EN (.partDisable vf val) ∧
      does F.CWP_CTL_EN (.portDisable (finOf 16 (by decide) inst) val)) ∧
    (bits v 16 1 = 1 → does F.FLT_INJECT_CODE (.fltInject (BitVec.ofNat 8 v) (BitVec.ofNat 8 (bits v 8 8)))) ∧
    (let c : Fin 512 := finOf 512 (by decide) i
     let g : Fin 32 := finOf 32 (by decide) i
     let q : Fin 256 := finOf 256 (by decide) i
     (bits v 0 1 = 1 → (s.rd F.LEP_CHAN_CRED_STATE t.val i = 0 → does F.LEP_CHAN_CFG_EN (.channelEnable t c val)) ∧
       (s.rd F.LEP_GRP_STATE_STATE t.val i = 0 → does F.LEP_GRP_CFG_EN (.groupEnable t g val)) ∧ (s.qState t i = 0 → does F.LEP_Q_CFG_EN (.queueEnable t q val))) ∧
     (bits v 0 1 = 0 → (s.rd F.LEP_CHAN_CRED_STATE t.val i ≠ 0 → does F.LEP_CHAN_CFG_EN (.channelDisable t c)) ∧
       (s.qState t i ≠ 0 → does F.LEP_Q_CFG_EN (.queueDisable t q))))) ∧
  (∀ (val : BitVec 64) (s : State) (t : Fin 8), s.fnTakes 0 = true →
    let off := 0x100000 * (t.val + 1) + 0x90000 + F.TPC_CMD_OP.off
    (bits val.toNat 0 2 = 1 → ∀ u, exec (.tpcWake 0 t) s = .next u → s.gives (.registerWrite 0 off 8 val) u.settle) ∧
    (bits val.toNat 0 2 = 2 → ∀ u, exec (.tpcOff 0 t) s = .next u → s.gives (.registerWrite 0 off 8 val) u.settle) ∧
    (bits val.toNat 0 2 = 3 → ∀ u, exec (.tpcOn 0 t) s = .next u → s.gives (.registerWrite 0 off 8 val) u.settle)) ∧
  (∀ (s : State) (f : Fld) inst idx (w : RegW),
    (f.acc = .rw → (s.fieldPut f inst idx w).rd f inst idx = bits w.merged f.lo f.w) ∧
    (f.acc = .w1c → (s.fieldPut f inst idx w).rd f inst idx = s.rd f inst idx &&& (2 ^ f.w - 1 - bits w.bitsIn f.lo f.w)) ∧
    (f.acc = .ro ∨ f.acc = .wo → s.fieldPut f inst idx w = s)) ∧
  (∀ old val, RegW.of old 0 8 val = ⟨val, val, true, true⟩ ∧ RegW.of old 0 4 val = ⟨old / 2 ^ 32 * 2 ^ 32 + val % 2 ^ 32, val % 2 ^ 32, true, false⟩ ∧
    RegW.of old 4 4 val = ⟨old % 2 ^ 32 + val % 2 ^ 32 * 2 ^ 32, val % 2 ^ 32 * 2 ^ 32, false, true⟩) ∧
  (∀ (i : BitVec 6) (s : State), s.gives (.logSelWrite i) (
    let r := (s.logEntry i.toNat).getD ⟨0, 0, 0, 0⟩
    s.wr F.FLT_LOG_SEL_INDEX 0 i.toNat |>.wr F.FLT_LOG_D_D 0 r.time 0 |>.wr F.FLT_LOG_D_D 0 r.d1 1 |>.wr F.FLT_LOG_D_D 0 r.info 2 |>.wr F.FLT_LOG_D_D 0 r.epoch 3))

/-- PCI Express configuration, ATS and resets of rings and functions (R374, R381, R401, R402, R465): a request is answered and a written item takes its value; an answered
translation is cached and what waited for it goes on; an invalidation removes those of its range; a fetch with no completion is a FETCH error and an AER error; a reset ends
what has started.
That MSI-X vectors are masked at reset, which writes of an item are taken, and that the translation cache holds 512 entries at most before it evicts are the model's choices (log entries 20 and 18). -/
def Obligations.PcieFunctionResult : Prop :=
  (∀ (fn : Fin 32) (s : State), s.fnLive fn.val = false → (∀ item val, s.gives (.pcieConfigRequest fn item val) s) ∧
    (∀ addr len, s.gives (.atsInvalidationRequest fn addr len) s) ∧ (∀ page host wr, s.gives (.atsTranslationCompletion fn page host wr) s) ∧
    (∀ r, s.gives (.pcieCompletionTimeout fn r) s) ∧ (∀ r, s.gives (.ringReset fn r) s) ∧ s.gives (.functionLevelReset fn) s) ∧
  (∀ (fn : Fin 32) (s : State), s.fnLive fn.val = true →
    (∀ item, s.gives (.pcieConfigRequest fn item none) (s.emit (.other "CFG_DATA" [fn.val, (s.fn fn.val).item item])) ∧
      ∀ v, s.gives (.pcieConfigRequest fn item (some v)) ((s.putItem fn.val item v).emit (.other "CFG_DONE" [fn.val]))) ∧
    (∀ v, let b := decide (v % 2 = 1)
      s.putItem fn.val .d3hot v = s.onFn fn.val (fun x => { x with d3hot := b }) ∧ s.putItem fn.val .ats v = s.onFn fn.val (fun x => { x with ats := b }) ∧
      s.putItem fn.val .atomicOp v = s.onFn fn.val (fun x => { x with atomicOp := b }) ∧
      (fn.val = 0 → s.putItem 0 .vfEnable v = s.onFn 0 (fun x => { x with vfEnable := b })) ∧
      (fn.val = 0 → (s.fn 0).vfEnable = false → v ≤ 31 → s.putItem 0 .numVfs v = s.onFn 0 (fun x => { x with numVfs := v })) ∧
      (fn.val ≠ 0 → s.putItem fn.val .vfEnable v = s ∧ s.putItem fn.val .numVfs v = s)) ∧
    (∀ addr len, s.relaxed = [] → s.gives (.atsInvalidationRequest fn addr len)
      (((s.onFn fn.val (fun x => { x with
        trans := x.trans.filter (fun p => !overlap (p.1 * 4096) 4096 addr len)
        atc := x.atc.filter (fun p => !overlap (p * 4096) 4096 addr len) })).atsAgain fn.val).emit (.other "ATS_INV_DONE" [fn.val]))) ∧
    (∀ page host wr, ((s.fn fn.val).ats = false → s.gives (.atsTranslationCompletion fn page host wr) s) ∧
      ((s.fn fn.val).ats = true → page ∉ (s.fn fn.val).atc → s.atcUsed < 512 → s.gives (.atsTranslationCompletion fn page host wr)
        (((s.onFn fn.val (fun x => { x with
          trans := x.trans.put page (host.map (fun h => (h, wr))), atc := x.atc ++ [page]
          atcAsked := x.atcAsked.filter (fun p => decide (p ≠ page)) })).ckAdvance).allGo).settle)) ∧
    (∀ r : Fin 64, s.rState fn.val r.val = 1 → (s.ring fn.val r.val).fetched ≠ (s.ring fn.val r.val).prod →
      s.gives (.pcieCompletionTimeout fn r) ((s.ringErr fn.val r.val 3).aerErr fn.val aerTimeout)) ∧
    (∀ r : Fin 64, s.rState fn.val r.val ≠ 1 → s.gives (.pcieCompletionTimeout fn r) s)) ∧
  (∀ (fn : Fin 32) (r : Fin 64) (s : State), s.fnTakes fn.val = true →
    (s.rState fn.val r.val = 0 → s.gives (.ringReset fn r) s) ∧
    (s.rState fn.val r.val ≠ 0 → s.gives (.ringReset fn r) (((s.ringEnd fn.val r.val).sweep fn.val r.val).settle))) ∧
  (∀ (fn : Fin 32) (s : State), s.fnLive fn.val = true →
    (fn.val ≠ 0 → s.gives (.functionLevelReset fn) (s.flr fn.val).settle) ∧
    (fn.val = 0 → s.gives (.functionLevelReset fn) (((vfNums.foldl (fun s f => s.flr f) s).flr 0).settle))) ∧
  (∀ (s : State) f keep, (s.fnClear f keep).fn f = .reset)

/-- Partitions and BAR2 (R378, R379): a valid partition of an idle VF is enabled and gives its tiles their OWNER, an invalid one sets ERR; a partition whose rings are busy
stays; a BAR2 write puts its bytes in memory, a read answers the bytes, an access outside the assignment sets the event bit, and one beyond BAR2's size (R375)
is none.
Which PART registers a partition in use takes is the model's reading (log entry 36). -/
def Obligations.PartitionAndBar2Result : Prop :=
  (∀ (f : Fin 32) (val : BitVec 64) (s : State), s.fnTakes 0 = true → f.val ≠ 0 → s.partOn f.val = false → bits val.toNat 0 1 = 1 →
    let s1 := s.wrs 0 (f.val - 1) [(F.HIU_PART_CFG_FEN, bits val.toNat 1 1), (F.HIU_PART_CFG_TILES, bits val.toNat 8 8)]
    (s1.partValid f.val = true → s.gives (.partEnable f val) (s1.wr F.HIU_PART_CFG_EN 0 1 (f.val - 1)).ownersNow) ∧
    (s1.partValid f.val = false → s.gives (.partEnable f val) (s1.wr F.HIU_PART_STATUS_ERR 0 1 (f.val - 1)))) ∧
  (∀ (f : Fin 32) (val : BitVec 64) (s : State), s.fnTakes 0 = false ∨ f.val = 0 → s.gives (.partEnable f val) s ∧ s.gives (.partDisable f val) s) ∧
  (∀ (f : Fin 32) (val : BitVec 64) (s : State), s.partOn f.val = true → s.gives (.partEnable f val) s) ∧
  (∀ (s : State) f, 0 < f → s.rd F.HIU_PART_CFG_TILES 0 (f - 1) = 0 → s.partValid f = false) ∧
  (∀ (f : Fin 32) (val : BitVec 64) (s : State), s.fnTakes 0 = true → f.val ≠ 0 → bits val.toNat 0 1 = 0 →
    (s.partOn f.val = true → s.ringsBusy f.val = true → s.gives (.partDisable f val) (s.wr F.HIU_PART_STATUS_ERR 0 1 (f.val - 1))) ∧
    (s.ringsBusy f.val = false → s.gives (.partDisable f val)
      ((s.wrs 0 (f.val - 1) [(F.HIU_PART_CFG_FEN, bits val.toNat 1 1), (F.HIU_PART_CFG_TILES, bits val.toNat 8 8), (F.HIU_PART_CFG_EN, 0)]).ownersNow))) ∧
  (∀ (fn : Fin 32) (off len : Nat) data (s : State), s.fnTakes fn.val = false → s.gives (.bar2Access fn off len data) s) ∧
  (∀ (fn : Fin 32) (off len : Nat) data (s : State), s.bar2Size fn.val < off + len → s.gives (.bar2Access fn off len data) s) ∧
  (∀ (fn : Fin 32) (off len : Nat) bs (s : State), s.fnTakes fn.val = true → off + len ≤ s.bar2Size fn.val →
    let pa := s.rd F.HIU_BAR2_BASE_PA fn.val * 2 ^ 30 + off
    (s.bar2Refused fn.val pa bs.length true = true → s.gives (.bar2Access fn off len (some bs)) (s.event fn.val F.HIU_EVT_STATUS_BAR2_REFUSED)) ∧
    (s.bar2Refused fn.val pa bs.length true = false →
      s.gives (.bar2Access fn off len (some bs)) ((s.bar2Reach pa bs.length true).writeBytes fn.val pa bs (.bar2 fn.val bs.length))) ∧
    (s.bar2Refused fn.val pa len false = true → s.gives (.bar2Access fn off len none)
      (((s.event fn.val F.HIU_EVT_STATUS_BAR2_REFUSED).emit (.other "BAR2_UR" [fn.val, len])).aerErr fn.val aerUnsupported)) ∧
    (s.bar2Refused fn.val pa len false = false → s.farOf pa len = [] → s.gives (.bar2Access fn off len none)
      ((s.bar2Reach pa len false).emit (.other "BAR2_DATA" (fn.val :: (s.poisonIn pa len).toNat :: (s.readBytes fn.val pa len).map (·.toNat))))))

/-! ### Causeway ports -/

/-- Port states (R334, R336, R337, Table 13-6): EN = 1 begins training, with FB4 running, EN = 0 turns the port off and keeps its packets; an UP port retrains; LINKID names the
peer; training completes on eight lanes, or a half that ALLOW_X4 allows, with fresh credits; an attempt that fails is followed by another, and after three the port is FAILED and
reports. That EN = 0 keeps queued packets is the model's reading (log entry 30). -/
def Obligations.PortTrainingResult : Prop :=
  (∀ (p : Fin 16) (val : BitVec 64) (s : State), s.fnTakes 0 = false →
    s.gives (.portEnable p val) s ∧ s.gives (.portDisable p val) s ∧ s.gives (.portRetrain p) s) ∧
  (∀ (p : Fin 16) (val : BitVec 64) (s : State), s.fnTakes 0 = true → bits val.toNat 0 1 = 1 →
    let s1 := s.wrs p.val 0 [(F.CWP_CTL_PROFILE, bits val.toNat 1 1), (F.CWP_CTL_ALLOW_X4, bits val.toNat 2 1)]
    (s.flag F.CWP_CTL_EN p.val = false → ∃ u, exec (.portEnable p val) s = .next u ∧ u.pState p.val = 1 ∧ u.flag F.CWP_CTL_EN p.val = true ∧
      u.flag F.CWP_STATUS_PEERV p.val = false ∧ u.rd F.CWP_STATUS_LANEOK p.val = 0 ∧ (∀ l, l < 8 → u.rd F.CWP_LANE_LOCK p.val l = 0) ∧
      bits (u.rd F.PCM_STATUS_FABGATED 0) 4 1 = 0 ∧
      u.port p.val = { Port.reset with
        queue := (s.port p.val).packets, attempts := 1, pseq := (s.port p.val).pseq, scram := (s.port p.val).scram } ∧
      (∀ q, q ≠ p.val → u.port q = s.port q) ∧ u.mem = s.mem) ∧
    (s.flag F.CWP_CTL_EN p.val = true → (bits val.toNat 3 1 = 0 → s.gives (.portEnable p val) s1) ∧
      (bits val.toNat 3 1 = 1 → s.gives (.portEnable p val) (s1.portRetrain p.val)))) ∧
  (∀ (p : Fin 16) (val : BitVec 64) (s : State), s.fnTakes 0 = true → bits val.toNat 0 1 = 0 → s.flag F.CWP_CTL_EN p.val = true →
    ∃ u, exec (.portDisable p val) s = .next u ∧ u.pState p.val = 0 ∧ u.flag F.CWP_CTL_EN p.val = false ∧ u.flag F.CWP_STATUS_PEERV p.val = false ∧
      (∀ l, l < 8 → u.rd F.CWP_LANE_LOCK p.val l = 0) ∧
      u.port p.val = { Port.reset with queue := (s.port p.val).packets, pseq := (s.port p.val).pseq, scram := (s.port p.val).scram } ∧
      (∀ q, q ≠ p.val → u.port q = s.port q) ∧ u.mem = s.mem) ∧
  (∀ (p : Fin 16) (s : State), s.pState p.val ≠ 2 → s.gives (.portRetrain p) s ∧ s.gives (.codewordLockLoss p) s ∧ s.gives (.replayLimit p) s) ∧
  (∀ (p : Fin 16) (s : State), s.pState p.val = 2 →
    let u := ((((s.wr F.CWP_STATUS_STATE p.val 3).lanesLost p.val).count F.CWP_CNT_RETRAIN_COUNT p.val 1).onPort p.val (fun x => { x with
      quick := true, attempts := 0, pair := [] })).portUsr p.val 1 3
    (s.fnTakes 0 = true → s.gives (.portRetrain p) u) ∧ s.gives (.codewordLockLoss p) u ∧ (8 ≤ (s.port p.val).replays → s.gives (.replayLimit p) u) ∧
      ((s.port p.val).replays < 8 → s.gives (.replayLimit p) s)) ∧
  (∀ (p : Fin 16) (d : BitVec 64) (n : BitVec 4) (s : State), (s.pState p.val ≠ 1 → s.gives (.linkidFlit p d n) s) ∧
    (s.pState p.val = 1 → s.gives (.linkidFlit p d n) (((s.wrs p.val 0 [(F.CWP_PEER_DEVID_DEVID, d.toNat), (F.CWP_STATUS_PEER_PORT, n.toNat),
      (F.CWP_STATUS_PEERV, 1)]).count F.CWP_CNT_RXFLIT_COUNT p.val 1).onPort p.val (fun x => { x with linkid := true })))) ∧
  (∀ (p : Fin 16) (lanes pre : BitVec 8) (s : State),
    (s.lanesRun p.val lanes.toNat = none ∨ (s.pState p.val ≠ 3 ∧ (s.pState p.val = 1 → (s.port p.val).linkid = false)) → s.gives (.trainingComplete p lanes pre) s) ∧
    (∀ r, s.lanesRun p.val lanes.toNat = some r → s.pState p.val = 3 ∨ (s.pState p.val = 1 ∧ (s.port p.val).linkid = true) →
      ∃ u, exec (.trainingComplete p lanes pre) s = .next u ∧ u.pState p.val = 2 ∧ u.rd F.CWP_STATUS_LANEOK p.val = lanes.toNat ∧ u.rd F.CWP_STATUS_X4 p.val = r.1 ∧
        u.rd F.CWP_STATUS_HALF p.val = r.2 ∧
        (∀ l, l < 8 → u.rd F.CWP_LANE_LOCK p.val l = bits lanes.toNat l 1 ∧ u.rd F.CWP_LANE_PRECODE p.val l = bits pre.toNat l 1) ∧
        (s.pState p.val = 1 → ∀ v, v < 8 → u.rd F.CWP_VC_TXCRED0 p.val v = vcSize v ∧ u.rd F.CWP_VC_TXCRED1 p.val v = vcSize v) ∧
        (s.pState p.val = 3 → (u.port p.val).replay = if (s.port p.val).window = [] then none else some 0) ∧ u.mem = s.mem)) ∧
  (∀ (s : State) p, s.lanesRun p 0xFF = some (0, 0) ∧ (s.flag F.CWP_CTL_ALLOW_X4 p = true → s.lanesRun p 0x1F = some (1, 0) ∧ s.lanesRun p 0xF0 = some (1, 1)) ∧
    (s.flag F.CWP_CTL_ALLOW_X4 p = false → ∀ n, n ≠ 0xFF → s.lanesRun p n = none) ∧ s.lanesRun p 0x7E = none) ∧
  (∀ (p : Fin 16) (s : State),
    (s.pState p.val ≠ 1 → (s.pState p.val ≠ 3 ∨ (s.port p.val).quick = true) → s.gives (.trainingAttemptTimeout p) s) ∧
    (s.pState p.val = 1 → (s.port p.val).attempts < 3 →
      s.gives (.trainingAttemptTimeout p) (s.onPort p.val (fun x => { x with attempts := x.attempts + 1, linkid := false }))) ∧
    (s.pState p.val = 1 ∨ (s.pState p.val = 3 ∧ (s.port p.val).quick = false) → 3 ≤ (s.port p.val).attempts →
      s.gives (.trainingAttemptTimeout p) ((s.wr F.CWP_STATUS_STATE p.val 4).report 0x22 (16 + p.val) 0)) ∧
    (s.pState p.val = 3 → (s.port p.val).quick = true → s.gives (.retrainTimeout p) (s.onPort p.val (fun x => { x with quick := false, attempts := 1 }))) ∧
    (s.pState p.val ≠ 3 ∨ (s.port p.val).quick = false → s.gives (.retrainTimeout p) s))

/-- Flits (R326 to R328, R331 to R333, R335, R356): an UP port sends a TIME flit that has a credit first, then a replay, then MGMT, then the rotation, else IDLE, each with the
acknowledgement and counted, five to a codeword pair; a port in TRAINING sends LINKID; a DATA flit takes the next SEQ
and joins the retry window; a good DATA flit in order is accepted and acknowledged flits leave the window; a bad one is counted and answered with NAK once; a TIME flit is never
replayed; a codeword with more than 15 symbol errors makes its flits bad.
That a quarantined port sends only IDLE, and what a LINKID flit carries, are the model's readings (log entries 30 and 46). -/
def Obligations.PortTrafficResult : Prop :=
  (∀ (p : Fin 16) (s : State), (s.pState p.val ≠ 2 → s.pState p.val ≠ 1 → s.gives (.flitTransmit p) s) ∧
    (s.pState p.val = 1 → s.gives (.flitTransmit p) (s.putFlit p.val { Flit.idle with
      ftype := .linkid, plen := 9, srank := s.rank, payload := leBytes 8 (s.rd F.FEN_DEVID_DEVID 0) ++ leBytes 1 p.val })) ∧
    (s.pState p.val ≠ 2 → (∀ head payload crc err, s.gives (.flitReceive p head payload crc err) s) ∧ s.gives (.ackTimer p) s)) ∧
  (∀ (p : Fin 16) (s : State), s.pState p.val = 2 →
    let x := s.port p.val
    (∀ info rest, x.time = info :: rest → 1 ≤ s.rd F.CWP_VC_TXCRED0 p.val 5 → s.gives (.flitTransmit p) (s.sendTime p.val info).signalsDone) ∧
    (x.time = [] ∨ s.rd F.CWP_VC_TXCRED0 p.val 5 = 0 →
      (∀ i w, x.replay = some i → x.window[i]? = some w → s.gives (.flitTransmit p)
        (((s.onPort p.val (fun x => { x with replay := if i + 1 < x.window.length then some (i + 1) else none })).count F.CWP_CNT_REPLAY_COUNT p.val 1).sendFlit p.val
          w.flit).signalsDone) ∧
      (x.replay = none → s.unitIn (16 + p.val) = true →
        (s.vcReady p.val 6 = true → s.gives (.flitTransmit p) (s.sendData p.val 6).signalsDone) ∧
        (s.vcReady p.val 6 = false → (∀ v n, s.rotate p.val = some (v, n) →
            s.gives (.flitTransmit p) ((s.onPort p.val (fun x => { x with rotVc := v, rotLeft := n })).sendData p.val v).signalsDone) ∧
          (s.rotate p.val = none → s.gives (.flitTransmit p) (s.sendFlit p.val .idle).signalsDone))) ∧
      (x.replay = none → s.unitIn (16 + p.val) = false → s.gives (.flitTransmit p) (s.sendFlit p.val .idle).signalsDone)) ∧
    (x.owed ≠ 0 → s.gives (.ackTimer p) (s.sendFlit p.val .idle)) ∧ (x.owed = 0 → s.gives (.ackTimer p) s)) ∧
  (∀ (s : State) p f, let g := { f with
        ack := ((s.port p).rxSeq + 4095) % 4096, ackv := (s.port p).rxSeen, nak := (s.port p).nakDue, creds := (s.dueCredits p).take 2 }
    ((s.port p).pair.length < 4 → (s.sendFlit p f).out = s.out ++ [.flit p g.word] ∧ ((s.sendFlit p f).port p).pair = (s.port p).pair ++ [g.word] ∧
      ((s.sendFlit p f).port p).pseq = (s.port p).pseq) ∧
    ((s.port p).pair.length = 4 → (∃ l, (s.sendFlit p f).out = s.out ++ .flit p g.word :: l ∧ l.length = (s.lanes p).length) ∧
      ((s.sendFlit p f).port p).pair = [] ∧ ((s.sendFlit p f).port p).pseq = ((s.port p).pseq + 1) % 2 ^ 24) ∧
    ((s.sendFlit p f).port p).owed = 0 ∧ ((s.sendFlit p f).port p).nakDue = false ∧
    (s.sendFlit p f).rd F.CWP_CNT_TXFLIT_COUNT p = min (s.rd F.CWP_CNT_TXFLIT_COUNT p + 1) (2 ^ 48 - 1)) ∧
  (∀ (s : State) p v k, (s.port p).head v = some k → ∃ w, ((s.sendData p v).port p).window = (s.port p).window ++ [w] ∧ w.flit.seq = (s.port p).txSeq ∧ w.flit.vc = v ∧
    w.flit.sop = decide (k.sent = 0) ∧ w.flit.eop = decide (k.sent + 1 = k.flits) ∧ w.flit.payload = (k.wire.drop (240 * k.sent)).take 240 ∧
    ((s.sendData p v).port p).txSeq = ((s.port p).txSeq + 1) % 4096) ∧
  (∀ (p : Fin 16) head payload crc err (s : State), s.pState p.val = 2 →
    let w := flitWord head payload crc
    let x := s.port p.val
    let s0 := if x.rxPos = 0 ∨ x.rxPos = 2 then s.codeword p.val err else s
    let s1 := (s0.onPort p.val (fun x => x.nextFlit err)).count F.CWP_CNT_RXFLIT_COUNT p.val 1
    let f := Flit.of w
    let s2 := (s1.acked p.val f).credited p.val f
    let good := flitUe x.rxPos (x.nextFlit err).rxUe = false ∧ flitCrc w = true ∧ flitRsv w = true
    (f.ftype = .data → good → f.seq = x.rxSeq → s.gives (.flitReceive p head payload crc err) (s2.flitJoins p.val f)) ∧
    (f.ftype = .data → good → f.seq ≠ x.rxSeq → x.rxBad = true → s.gives (.flitReceive p head payload crc err) s2) ∧
    (f.ftype = .data → good → f.seq ≠ x.rxSeq → x.rxBad = false → s.gives (.flitReceive p head payload crc err) (s2.badFlit p.val)) ∧
    (f.ftype = .idle ∨ f.ftype = .linkid → good → s.gives (.flitReceive p head payload crc err) s2) ∧
    (f.ftype = .reserved ∨ (f.ftype ≠ .time ∧ ¬good) → s.gives (.flitReceive p head payload crc err) (s1.badFlit p.val)) ∧
    (f.ftype = .time → ¬good ∨ f.timeOk = false → s.gives (.flitReceive p head payload crc err) (s1.timeDrop p.val)) ∧
    (f.ftype = .time → good → f.timeOk = true → s.gives (.flitReceive p head payload crc err)
      (s2.onPort p.val (fun x => { x with peerCred := x.peerCred.put 10 (x.peerCred.getD 10 0 - 1) })))) ∧
  (∀ (x : Port) err, (x.rxPos = 0 → (x.nextFlit err).rxUe = (decide (15 < err.sum), false)) ∧
    (x.rxPos = 2 → (x.nextFlit err).rxUe = (x.rxUe.1, decide (15 < err.sum)))) ∧
  (∀ (s : State) p err, (15 < err.sum → s.codeword p err = s.count F.CWP_CNT_FEC_UE_COUNT p 1) ∧ (err.sum = 0 → s.codeword p err = s) ∧
    (0 < err.sum → err.sum ≤ 15 → (s.codeword p err).rd F.CWP_CNT_FEC_CE_COUNT p = min (s.rd F.CWP_CNT_FEC_CE_COUNT p + 1) (2 ^ 48 - 1))) ∧
  (∀ (s : State) p, (s.badFlit p).rd F.CWP_CNT_BADFLIT_COUNT p = min (s.rd F.CWP_CNT_BADFLIT_COUNT p + 1) (2 ^ 48 - 1) ∧ ((s.badFlit p).port p).nakDue = true ∧
    ((s.badFlit p).port p).rxBad = true) ∧
  (∀ (s : State) p f w rest, f.ackv = true → f.nak = false → (s.port p).window = w :: rest → w.flit.seq = f.ack → ((s.acked p f).port p).window = rest) ∧
  (∀ (s : State) p f, f.ackv = false → (f.nak = false → s.acked p f = s) ∧
    (f.nak = true → (s.port p).window ≠ [] → ((s.acked p f).port p).window = (s.port p).window ∧ ((s.acked p f).port p).replay = some 0))

/-! ### The Fen and remote memory -/

/-- Formation (R338 to R340, R342, R354, R462): FORM floods this device's HELLO and is FORMING; a new HELLO is recorded and flooded on; the device with the lowest DEVID
heard leads, and fails on a plan that does not fit or on more than 64 devices; an assignment is taken and acknowledged, and another device's is passed on once, as are
acknowledgements and COMMIT (log entry 27); COMMIT makes the device FORMED with its FEPOCH; a
timeout is FAILED with cause 3 and leaves the device alone; DISSOLVE is DISSOLVING until it completes.
What of formation the spec leaves to Fenreeve is the model's choice (log entry 31). -/
def Obligations.FormationResult : Prop :=
  (∀ (s : State), s.fnTakes 0 = false ∨ s.fwRuns = false → s.gives .fenCtlForm s ∧ s.gives .fenCtlDissolve s) ∧
  (∀ (s : State), s.fnTakes 0 = true → s.fwRuns = true →
    (let s1 := if s.fenState = 2 ∨ s.fenState = 3 then s.fenLeave else s
     let s2 := (({ s1 with fen := .none } : State).wrs 0 0 [(F.FEN_STATUS_STATE, 1), (F.FEN_STATUS_CAUSE, 0)]).setMaster s1.rank
     s2.fenState = 1 ∧ s2.fen = .none ∧ s.gives .fenCtlForm (s2.flood .hello s2.ownHello.data none).settle) ∧
    s.gives .fenCtlDissolve (s.wr F.FEN_STATUS_STATE 0 3)) ∧
  (∀ (s : State) k d but p, p < 16 → ((s.flood k d but).port p).queue = if s.pState p = 2 ∧ but ≠ some p then
    (s.port p).queue ++ [⟨.mgmt k d, 6, 0, s.rank, 0, false, 0⟩] else (s.port p).queue) ∧
  (∀ (p : Fin 16) (h : Hello) (s : State),
    (s.fwRuns = false ∨ s.fenState ≠ 1 ∨ h.devid = s.devid ∨ h ∈ s.fen.hellos → s.gives (.helloReceive p h) s) ∧
    (s.fwRuns = true → s.fenState = 1 → h.devid ≠ s.devid → h ∉ s.fen.hellos →
      let s1 := ({ s with fen := { s.fen with hellos := insHello h s.fen.hellos } } : State).flood .hello h.data (some p.val)
      ((∃ g ∈ s.fen.hellos, g.devid = h.devid) → s.gives (.helloReceive p h) s1) ∧
      ((∀ g ∈ s.fen.hellos, g.devid ≠ h.devid) → s.gives (.helloReceive p h) (s1.flood .hello s1.ownHello.data none)))) ∧
  (∀ (s : State), (s.fwRuns = false ∨ s.fenState ≠ 1 ∨ s.fen.plan ≠ [] ∨ (∃ h ∈ s.fen.hellos, h.devid ≤ s.devid) → s.gives .formWaitExpiry s) ∧
    (s.fwRuns = true → s.fenState = 1 → s.fen.plan = [] → (∀ h ∈ s.fen.hellos, s.devid < h.devid) →
      let g := insHello s.ownHello s.fen.hellos
      (s.flag F.FEN_CTL_USE_PLAN 0 = true → s.planFits g = false → s.gives .formWaitExpiry (s.fenFail 1)) ∧
      (s.flag F.FEN_CTL_USE_PLAN 0 = false → 64 < g.length → s.gives .formWaitExpiry (s.fenFail 2)) ∧
      (s.flag F.FEN_CTL_USE_PLAN 0 = false → s.fen.hellos = [] → ∃ u, exec .formWaitExpiry s = .next u ∧ u.fenState = 2 ∧ u.rd F.FEN_STATUS_SIZE 0 = 1 ∧
        u.rank = 0 ∧ u.rd F.FEN_MEMBERS_MASK 0 = 1 ∧ u.rd F.FEN_STATUS_FEPOCH 0 = (s.rd F.FEN_STATUS_FEPOCH 0 + 1) % 65536))) ∧
  (∀ (a : Assignment) (s : State), (s.fwRuns = false ∨ s.fenState ≠ 1 ∨ s.fen.leads = true → s.gives (.fenAssignmentReceive a) s) ∧
    (s.fwRuns = true → s.fenState = 1 → s.fen.leads = false → a.devid ≠ s.devid → s.gives (.fenAssignmentReceive a) (s.relay .assign a.devid a.data)) ∧
    (s.fwRuns = true → s.fenState = 1 → s.fen.leads = false → a.devid = s.devid →
      ∃ u, exec (.fenAssignmentReceive a) s = .next u ∧ u.rank = a.rank % 64 ∧ u.rd F.FEN_STATUS_SIZE 0 = a.size % 128 ∧ u.rd F.FEN_MEMBERS_MASK 0 = a.members % 2 ^ 64 ∧
        (∀ i e, i < 64 → a.routes[i]? = some e → u.rd F.FEN_ROUTE_PORT 0 i = e.port % 16 ∧ u.flag F.FEN_ROUTE_VALID 0 i = e.valid) ∧ u.fen.plan = [a] ∧ u.fenState = 1 ∧
        u.mem = s.mem ∧ ∃ v : State, v.fen.relayed = s.fen.relayed ∧ v.rank = a.rank % 64 ∧ u = v.relay .assignAck s.devid [s.devid])) ∧
  (∀ (d : BitVec 64) (s : State),
    (s.fwRuns = false ∨ s.fenState ≠ 1 ∨ (s.fen.leads = true ∧ ∀ a ∈ s.fen.plan, a.devid ≠ d.toNat) → s.gives (.fenAssignmentAck d) s) ∧
    (s.fwRuns = true → s.fenState = 1 → s.fen.leads = false → s.gives (.fenAssignmentAck d) (s.relay .assignAck d.toNat [d.toNat])) ∧
    (s.fwRuns = true → s.fenState = 1 → s.fen.leads = true → (∃ a ∈ s.fen.plan, a.devid = d.toNat) →
      let s1 : State := { s with fen := { s.fen with acks := if s.fen.acks.contains d.toNat then s.fen.acks else s.fen.acks ++ [d.toNat] } }
      ((∃ a ∈ s.fen.plan, a.devid ∉ s1.fen.acks) → s.gives (.fenAssignmentAck d) s1) ∧
      ((∀ a ∈ s.fen.plan, a.devid ∈ s1.fen.acks) → ∃ u, exec (.fenAssignmentAck d) s = .next u ∧ u.fenState = 2 ∧
        u.rd F.FEN_STATUS_FEPOCH 0 = (s.topEpoch + 1) % 65536))) ∧
  (∀ (e : BitVec 16) (m : BitVec 6) (s : State), s.fwRuns = true →
    (s.fenState = 1 → s.fen.leads = false → s.fen.plan ≠ [] → s.gives (.fenCommit e m) ((s.relay .commit e.toNat [e.toNat, m.toNat]).fenFormed e.toNat m.toNat)) ∧
    (s.fenState = 2 → s.rd F.FEN_STATUS_FEPOCH 0 = e.toNat → s.gives (.fenCommit e m)
      ((if s.rd F.TBU_STATUS_MRANK 0 = m.toNat then s else s.flood .commit [e.toNat, m.toNat] none).setMaster m.toNat)) ∧
    (s.fenState = 2 → s.rd F.FEN_STATUS_FEPOCH 0 ≠ e.toNat → s.gives (.fenCommit e m) s)) ∧
  (∀ (s : State) k key d, ((k.code, key) ∈ s.fen.relayed → s.relay k key d = s) ∧
    ((k.code, key) ∉ s.fen.relayed → ∃ v : State, v.fen.relayed = s.fen.relayed ++ [(k.code, key)] ∧ v.port = s.port ∧ v.regs = s.regs ∧ s.relay k key d = v.flood k d none)) ∧
  (∀ (s : State) e m, (s.fenFormed e m).fenState = 2 ∧ (s.fenFormed e m).rd F.FEN_STATUS_FEPOCH 0 = e % 65536) ∧
  (∀ (s : State), (s.fenState ≠ 1 → s.gives .formationTimeout s) ∧ (s.fenState = 1 → s.gives .formationTimeout (s.fenFail 3)) ∧
    (s.fenState ≠ 3 → s.gives .dissolveComplete s) ∧
    (s.fenState = 3 → ∃ u : State, s.gives .dissolveComplete u.settle ∧ u.fenState = 0 ∧ u.rd F.FEN_STATUS_SIZE 0 = 1 ∧ u.rank = 0 ∧ u.rd F.FEN_MEMBERS_MASK 0 = 1)) ∧
  (∀ (s : State) c, c < 4 → (s.fenFail c).fenState = 4 ∧ (s.fenFail c).rd F.FEN_STATUS_CAUSE 0 = c ∧ (s.fenFail c).rank = 0 ∧ (s.fenFail c).rd F.FEN_STATUS_SIZE 0 = 1 ∧
    ∀ d, d < 64 → (s.fenFail c).flag F.FEN_ROUTE_VALID 0 d = false)

/-- Requests and responses between ranks, and packets passed on (R329, R341, R343, R344): a request outside every window, or to memory not served, is refused with ACCESS;
a permitted read answers its bytes, a write is made, an atomic answers the old value; a response ends its request and one that nothing awaits is discarded; a packet for
another rank goes to its output port behind those of its flow. -/
def Obligations.RemoteMemoryResult : Prop :=
  (∀ i (s : State), s.rx[i]? = none → s.gives (.remoteMemoryRequest i) s ∧ s.gives (.remoteMemoryResponse i) s ∧ s.gives (.packetForward i) s) ∧
  (∀ i (s : State) p h data f, s.rx[i]? = some p → p.pkt = .mem h data f → (p.drank ≠ s.rank ∨ 8 ≤ h.mop → s.gives (.remoteMemoryRequest i) s) ∧
    (p.drank ≠ s.rank ∨ h.mop < 8 → s.gives (.remoteMemoryResponse i) s)) ∧
  (∀ i (s : State) p h data f, s.rx[i]? = some p → p.pkt = .mem h data f → p.drank = s.rank → h.mop < 8 →
    let s1 : State := { s with rx := s.rx.eraseIdx i }
    (h.formOk = false → s.gives (.remoteMemoryRequest i) (s1.respondMem p.srank h 1 [])) ∧
    (h.formOk = true → inDevice h.addr h.span = false ∨ s1.windowOk p.srank h.addr h.span h.mop = false →
      s.gives (.remoteMemoryRequest i) ((s1.count F.FEN_CNT_REFUSED_COUNT 0 1).respondMem p.srank h 1 [])) ∧
    (h.formOk = true → inDevice h.addr h.span = true → s1.windowOk p.srank h.addr h.span h.mop = true →
      (s1.memServes h.addr = false → s.gives (.remoteMemoryRequest i) (s1.respondMem p.srank h 1 [])) ∧
      (s1.memServes h.addr = true →
        let s2 := s1.reachMem h
        (h.mop = 0 → s.gives (.remoteMemoryRequest i) (s2.respondMem p.srank h (if s2.poisonIn h.addr h.n then 2 else 0) (s2.readBytes 0 h.addr h.n))) ∧
        (h.mop = 1 → s1.gate h.addr ≠ .hold → s.gives (.remoteMemoryRequest i)
          ((if p.poison then (s2.writeBytes 0 h.addr data).setPoison h.addr h.n true else s2.writeBytes 0 h.addr data).respondMem p.srank h 0 [])) ∧
        (2 ≤ h.mop → s1.gate h.addr ≠ .hold → s2.isPoison h.addr = false → s.gives (.remoteMemoryRequest i)
          ((s2.writeNat 0 h.addr 8 (amoRemote h.mop (s2.readNat 0 h.addr 8) data)).respondMem p.srank h 0 (leBytes 8 (s2.readNat 0 h.addr 8)))) ∧
        (2 ≤ h.mop → s1.gate h.addr ≠ .hold → s2.isPoison h.addr = true → s.gives (.remoteMemoryRequest i)
          (s2.respondMem p.srank h 2 (leBytes 8 (s2.readNat 0 h.addr 8)))) ∧
        (h.mop ≠ 0 → s1.gate h.addr = .hold → s.gives (.remoteMemoryRequest i) s)))) ∧
  (∀ old data, amoRemote 2 old data = (old + leNat (data.take 8)) % 2 ^ 64 ∧ amoRemote 3 old data = leNat (data.take 8) ∧
    amoRemote 4 old data = if old = leNat (data.take 8) then leNat (data.drop 8) else old) ∧
  (∀ (s : State) src a n, (∀ w, w < 16 → s.flag F.FEN_INWIN_PERM_EN 0 w = false) → s.windowOk src a n 0 = false ∧ s.windowOk src a n 1 = false) ∧
  (∀ i (s : State) p h data f, s.rx[i]? = some p → p.pkt = .mem h data f → p.drank = s.rank → 8 ≤ h.mop →
    let s1 : State := { s with rx := s.rx.eraseIdx i }
    (s.rem.find? h.tag = none → s.gives (.remoteMemoryResponse i) s1) ∧
    (∀ r, s.rem.find? h.tag = some r → (r.rank ≠ p.srank ∨ h.answers r = false → s.gives (.remoteMemoryResponse i) s1) ∧
      (r.rank = p.srank → h.answers r = true → s.gives (.remoteMemoryResponse i) (((({ s1 with rem := s1.rem.erase h.tag } : State).remNext).answer r h.status data).settle)))) ∧
  (∀ (h : MemHdr) (r : RemReq), h.answers r = true ↔ h.mop = rspMop r.mop ∧ h.status ≤ 3 ∧ h.rsv = false) ∧
  (∀ i (s : State) p, s.rx[i]? = some p →
    let s1 : State := { s with rx := s.rx.eraseIdx i }
    let first := ∀ q ∈ s.rx.take i, q.vc = p.vc → q.srank = p.srank → ∀ d ∈ s.rxDests q, d ∉ s.rxDests p
    (p.drank = s.rank ∨ ¬first → s.gives (.packetForward i) s) ∧
    (p.drank ≠ s.rank → first →
      ((∀ hdr pl b src op, p.pkt ≠ .lode (.msg hdr pl b src op) ∨ src.grp = false) →
        (s.routePort p.drank p.srank = none → s.gives (.packetForward i) s1) ∧
        (∀ o, s.routePort p.drank p.srank = some o → s.gives (.packetForward i) (s1.onPort o (fun x => { x with
          queue := x.queue ++ [⟨p.pkt, p.vc, p.drank, p.srank, s.dlOut (some p.port) p.dl o, p.poison, 0⟩] })))) ∧
      (∀ hdr pl b src op, p.pkt = .lode (.msg hdr pl b src op) → src.grp = true → s.gives (.packetForward i) (s1.forwardMcast p hdr pl b src)))) ∧
  (∀ (s : State) p hdr pl b src op, p.pkt = .lode (.msg hdr pl b src op) → src.grp = false → s.rxDests p = [p.drank])

/-! ### Time -/

/-- The count and PPS (R352, R353, R359, R360, R492): SET_NS steps the Tidemaster's count and is refused on a follower; a read of NOW_NS latches FRAC for its reader, the PF or Fenreeve; a short PPS_IN edge is
rejected, another leaves its time and, where edges steer the count, its error is applied, but not before the second that follows a step by SET_NS; PPS_OUT pulses once for each second while it is enabled and not gated.
Which second a PPS pulse belongs to, and the growth of ERRBND, are the model's readings (log entry 32). -/
def Obligations.TimeCountResult : Prop :=
  (∀ (hi : BitVec 32) lo (s : State), s.fnTakes 0 = false → s.gives (.tbuSetNs hi lo) s ∧ s.gives (.tbuNowRead false) s) ∧
  (∀ (hi lo : BitVec 32) (s : State), s.fnTakes 0 = true →
    (s.flag F.TBU_STATUS_MASTER 0 = true → s.rd F.TBU_SET_FRAC_FRAC 0 < 2 ^ 32 → ∃ u, exec (.tbuSetNs hi (some lo)) s = .next u ∧
      u.ns = lo.toNat + hi.toNat * 2 ^ 32 ∧ u.frac = s.rd F.TBU_SET_FRAC_FRAC 0 ∧
      u.tbu = { s.tbu with held := lo.toNat, exch := s.tbu.exch.map (fun e => { e with stepped := true }), left := 0, setSec := some (u.ns / 1000000000) } ∧
      u.rd F.TBU_CNT_STEP_COUNT 0 = min (s.rd F.TBU_CNT_STEP_COUNT 0 + 1) (2 ^ F.TBU_CNT_STEP_COUNT.w - 1) ∧ u.mem = s.mem ∧ u.tiles = s.tiles) ∧
    (s.flag F.TBU_STATUS_MASTER 0 = false → s.gives (.tbuSetNs hi (some lo)) (({ s with tbu := { s.tbu with held := lo.toNat } } : State).wr F.TBU_STATUS_SETREJ 0 1)) ∧
    (s.tbu.held = lo.toNat → exec (.tbuSetNs hi none) s = exec (.tbuSetNs hi (some lo)) s) ∧
    s.gives (.tbuNowRead false) ((s.wr F.TBU_NOW_FRAC_FRAC 0 s.frac).emit (.other "TBU_NOW" [0, s.ns]))) ∧
  (∀ (s : State), (s.pins.cold = true ∨ (s.rd F.FRV_STATUS_BOOT 0 ≠ 1 ∧ s.rd F.FRV_STATUS_BOOT 0 ≠ 2) → s.gives (.tbuNowRead true) s) ∧
    (s.pins.cold = false → s.rd F.FRV_STATUS_BOOT 0 = 1 ∨ s.rd F.FRV_STATUS_BOOT 0 = 2 →
      s.gives (.tbuNowRead true) (({ s with tbu := { s.tbu with frvFrac := s.frac } } : State).emit (.other "TBU_NOW" [1, s.ns])))) ∧
  (∀ (s : State), s.gives (.ppsInEdge true) (s.count F.TBU_CNT_PPSREJ_COUNT 0 1) ∧
    (s.flag F.TBU_STATUS_MASTER 0 = false ∨ s.flag F.TBU_PPS_CFG_IN_EN 0 = false → s.gives (.ppsInEdge false) (s.wr F.TBU_PPSIN_TS_NS 0 (s.ns % 2 ^ 64))) ∧
    (s.flag F.TBU_STATUS_MASTER 0 = true → s.flag F.TBU_PPS_CFG_IN_EN 0 = true → s.tbu.setSec = some (s.ns / 1000000000) →
      s.gives (.ppsInEdge false) (s.wr F.TBU_PPSIN_TS_NS 0 (s.ns % 2 ^ 64))) ∧
    (s.flag F.TBU_STATUS_MASTER 0 = true → s.flag F.TBU_PPS_CFG_IN_EN 0 = true → s.tbu.setSec ≠ some (s.ns / 1000000000) →
      let err := s.ppsError ((s.count96 : Int) + signed 32 (s.rd F.TBU_PPSIN_ADJ_ADJ 0) * 2 ^ 24)
      (100000 * 2 ^ 32 < err.natAbs → s.rd F.TBU_STATUS_PPSSTATE 0 = 2 →
        s.gives (.ppsInEdge false) ((s.wr F.TBU_PPSIN_TS_NS 0 (s.ns % 2 ^ 64)).count F.TBU_CNT_PPSREJ_COUNT 0 1)) ∧
      (err.natAbs ≤ 100000 * 2 ^ 32 ∨ s.rd F.TBU_STATUS_PPSSTATE 0 ≠ 2 →
        s.gives (.ppsInEdge false) (((s.wr F.TBU_PPSIN_TS_NS 0 (s.ns % 2 ^ 64)).ppsApply err).drawn))) ∧
    (s.rd F.TBU_STATUS_PPSSTATE 0 = 0 → s.gives .ppsHoldTimeout s) ∧
    (s.rd F.TBU_STATUS_PPSSTATE 0 ≠ 0 →
      s.gives .ppsHoldTimeout (({ s with tbu := { s.tbu with ppsGood := 0 } } : State).wr F.TBU_STATUS_PPSSTATE 0 3))) ∧
  (∀ (s : State), s.rd F.TBU_STATUS_SERVO 0 = 0 ∨ s.rd F.TBU_STATUS_SERVO 0 = 2 →
    (s.flag F.TBU_PPS_CFG_OUT_EN 0 = false → s.gives .tbuSecond s) ∧
    (s.flag F.TBU_PPS_CFG_OUT_EN 0 = true → (∃ r ∈ s.tbu.pulsed, r.1 ≤ s.pulseSecond ∧ s.pulseSecond ≤ r.2) → s.gives .tbuSecond s) ∧
    (s.flag F.TBU_PPS_CFG_OUT_EN 0 = true → (∀ r ∈ s.tbu.pulsed, s.pulseSecond < r.1 ∨ r.2 < s.pulseSecond) → s.gives .tbuSecond
      (({ s with pins := { s.pins with pps := true }, tbu := { s.tbu with pulsed := addPulse s.pulseSecond s.tbu.pulsed } } : State).emit (.other "PPS_OUT" [1, s.pulseSecond])))) ∧
  (∀ (s : State), s.rd F.TBU_STATUS_SERVO 0 = 3 → s.flag F.TBU_PPS_CFG_GATE 0 = true →
    s.gives .tbuSecond (s.wr F.TBU_STATUS_ERRBND 0 (min (2 ^ 32 - 1) (s.rd F.TBU_STATUS_ERRBND 0 + 5120)))) ∧
  (∀ (s : State), (s.pins.pps = false → s.gives .ppsWidthExpiry s) ∧
    (s.pins.pps = true → s.gives .ppsWidthExpiry (({ s with pins := { s.pins with pps := false } } : State).emit (.other "PPS_OUT" [0]))))

/-- Exchanges and the servo (R354, R356, R357): a parent sends SYNC and ANNOUNCE to each child; a SYNC from the parent starts an exchange and answers DREQ; DREQ is answered with DRSP and
its arrival time; a DRSP ends its exchange, which is rejected after a step or outside DGUARD, and else moves the servo; a lost exchange is counted; HOLDOVER follows LOCKED.
That a rejected exchange ends the run of good ones, and the order of rate and phase terms, are the model's readings (log entry 32). -/
def Obligations.TimeServoResult : Prop :=
  (∀ (s : State), (s.inTree = false → s.gives .syncPeriod s) ∧ (s.inTree = true → s.gives .syncPeriod (s.childPorts.foldl (fun a p =>
    (a.timeFlit p [1, s.tbu.xseq, 0, 0]).timeFlit p [4, s.tbu.xseq, 0, 0, s.rd F.TBU_STATUS_MRANK 0, s.rd F.TBU_STATUS_DEPTH 0, s.annSrc, s.rd F.TBU_STATUS_ERRBND 0])
    ({ s with tbu := { s.tbu with xseq := (s.tbu.xseq + 1) % 65536 } } : State).drawn))) ∧
  (∀ (s : State), (s.rd F.TBU_STATUS_SERVO 0 = 0 → s.annSrc = if s.rd F.TBU_STATUS_PPSSTATE 0 = 2 then 1 else if s.rd F.TBU_STATUS_PPSSTATE 0 = 3 then 2 else 0) ∧
    (s.rd F.TBU_STATUS_SERVO 0 = 2 → s.annSrc = 3) ∧ (s.rd F.TBU_STATUS_SERVO 0 = 3 → s.annSrc = 4)) ∧
  (∀ (p : Fin 16) (x : BitVec 16) (ns : BitVec 64) (fr : BitVec 32) (s : State), (s.isParent p.val = false → s.gives (.syncReceive p x ns fr) s) ∧
    (s.isParent p.val = true → s.tbu.exch = none → s.gives (.syncReceive p x ns fr)
      (({ s with tbu := { s.tbu with exch := some ⟨x.toNat, ns.toNat * 2 ^ 32 + fr.toNat, s.count96, 0, false⟩ } } : State).onPort p.val (fun y => { y with
        time := y.time ++ [[2, x.toNat, 0, 0]] }))) ∧
    (s.isParent p.val = true → s.tbu.exch ≠ none → ∃ u, exec (.syncReceive p x ns fr) s = .next u ∧
      u.tbu.exch = some ⟨x.toNat, ns.toNat * 2 ^ 32 + fr.toNat, s.count96, 0, false⟩ ∧ u.tbu.good = 0 ∧
      u.rd F.TBU_CNT_LOSTX_COUNT 0 = min (s.rd F.TBU_CNT_LOSTX_COUNT 0 + 1) (2 ^ F.TBU_CNT_LOSTX_COUNT.w - 1) ∧
      u.rd F.TBU_CNT_REJECT_COUNT 0 = min (s.rd F.TBU_CNT_REJECT_COUNT 0 + 1) (2 ^ F.TBU_CNT_REJECT_COUNT.w - 1)) ∧
    (s.inTree = false → s.gives (.dreqReceive p x) s) ∧
    (s.inTree = true → s.gives (.dreqReceive p x) (s.onPort p.val (fun y => { y with time := y.time ++ [[3, x.toNat, s.ns % 2 ^ 64, s.frac]] })))) ∧
  (∀ (s : State), (s.tbu.exch = none → s.gives .drspTimeout s) ∧ (s.tbu.exch ≠ none → ∃ u, exec .drspTimeout s = .next u ∧ u.tbu.exch = none ∧ u.tbu.good = 0 ∧
    u.rd F.TBU_CNT_LOSTX_COUNT 0 = min (s.rd F.TBU_CNT_LOSTX_COUNT 0 + 1) (2 ^ F.TBU_CNT_LOSTX_COUNT.w - 1))) ∧
  (∀ (p : Fin 16) (x : BitVec 16) (ns : BitVec 64) (fr : BitVec 32) st (s : State),
    (s.tbu.exch = none ∨ s.isParent p.val = false → s.gives (.drspReceive p x ns fr st) s) ∧
    (∀ e, s.tbu.exch = some e → s.isParent p.val = true →
      (e.xseq ≠ x.toNat ∨ e.t3 = 0 → s.gives (.drspReceive p x ns fr st) s) ∧
      (e.xseq = x.toNat → e.t3 ≠ 0 →
        let a := diff96 e.t2 e.t1
        let b := diff96 (ns.toNat * 2 ^ 32 + fr.toNat) e.t3
        let th2 := a - b - signed 32 (s.rd F.TBU_ASYM_ASYM 0 (s.rd F.TBU_STATUS_PPORT 0)) * 2 ^ 24
        (e.stepped = true ∨ st = true ∨ s.delayBad (a + b) = true → s.gives (.drspReceive p x ns fr st) s.rejectX) ∧
        (e.stepped = false → st = false → s.delayBad (a + b) = false → ∃ u, exec (.drspReceive p x ns fr st) s = .next u ∧ u.tbu.exch = none ∧
          u.tbu.delays = keepLast 16 (s.tbu.delays ++ [a + b]) ∧ u.rd F.TBU_CNT_EXCH_COUNT 0 = min (s.rd F.TBU_CNT_EXCH_COUNT 0 + 1) (2 ^ F.TBU_CNT_EXCH_COUNT.w - 1) ∧
          (th2.natAbs ≤ 2 * s.stepLimit → u.ns = s.ns ∧ u.frac = s.frac ∧
            u.rd F.TBU_STATUS_SERVO 0 = if s.rd F.TBU_STATUS_SERVO 0 = 2 ∨ (th2.natAbs ≤ 2 ^ 31 ∧ 15 ≤ s.tbu.good) then 2 else 1) ∧
          (2 * s.stepLimit < th2.natAbs → u.rd F.TBU_STATUS_SERVO 0 = 1 ∧ u.tbu.good = 0 ∧ u.tbu.left = 0 ∧
            u.rd F.TBU_CNT_STEP_COUNT 0 = min (s.rd F.TBU_CNT_STEP_COUNT 0 + 1) (2 ^ F.TBU_CNT_STEP_COUNT.w - 1)))))) ∧
  (∀ (p : Fin 16) (m d src : BitVec 8) (eb : BitVec 32) (s : State), (s.isParent p.val = false → s.gives (.announceReceive p m d src eb) s) ∧
    (s.isParent p.val = true → s.rd F.TBU_STATUS_MRANK 0 = m.toNat % 64 → ∃ u, exec (.announceReceive p m d src eb) s = .next u ∧
      u.rd F.TBU_STATUS_MRANK 0 = m.toNat % 64 ∧ u.rd F.TBU_STATUS_DEPTH 0 = (d.toNat + 1) % 2 ^ F.TBU_STATUS_DEPTH.w ∧ u.rd F.TBU_STATUS_SERVO 0 = s.rd F.TBU_STATUS_SERVO 0)) ∧
  (∀ (s : State), (s.flag F.TBU_STATUS_MASTER 0 = true ∨ s.rd F.TBU_STATUS_SERVO 0 ≠ 2 → s.gives .servoHoldover s) ∧
    (s.flag F.TBU_STATUS_MASTER 0 = false → s.rd F.TBU_STATUS_SERVO 0 = 2 → ∃ u, exec .servoHoldover s = .next u ∧ u.rd F.TBU_STATUS_SERVO 0 = 3 ∧ u.tbu.good = 0 ∧
      u.tbu.left = 0 ∧ u.tbu.rate = s.tbu.rate ∧ u.ns = s.ns ∧ u.frac = s.frac)) ∧
  (∀ (s : State) i n d, (s.setInc i n d).rd F.TBU_INC_INC 0 ≥ 0x0FF000000 ∧ (s.setInc i n d).rd F.TBU_INC_INC 0 ≤ 0x101000000)

/-! ### Power -/

/-- Tile power states (R13, R364 to R368): idleness past a threshold that MAXDEPTH allows begins an entry; the entry ends in its state, or starts the wake asked for meanwhile; a wake
ends in Run, or with the memory up alone; WAKE, OFF and ON do so by the PF, and OFF of a tile that is not idle is rejected; power-up ends in Run with the tile's memory cleared.
That the memory of a tile that was Off reads 0 is the model's choice (log entry 3), and the idle conditions are its reading (log entry 22). -/
def Obligations.TilePowerResult : Prop :=
  (∀ p ∈ ([(Instr.tileIdleDoze, 1, F.TPC_CTL_DOZE_IDLE), (Instr.tileIdleNap, 2, F.TPC_CTL_NAP_IDLE), (Instr.tileIdleSleep, 3, F.TPC_CTL_SLEEP_IDLE)] :
      List ((Fin 8 → Instr) × Nat × Fld)), ∀ (t : Fin 8) (s : State),
    (s.rd p.2.2 t.val = 0 ∨ s.tpcQuiet t = false ∨ s.tileIdle t = false ∨ s.maxDepth t < p.2.1 ∨ p.2.1 < s.rd F.TPC_STATUS_STATE t.val ∨
      (s.rd F.TPC_STATUS_STATE t.val = p.2.1 ∧ s.flag F.TPC_STATUS_MEMWAKE t.val = false) → s.gives (p.1 t) s) ∧
    (s.rd p.2.2 t.val ≠ 0 → s.tpcQuiet t = true → s.tileIdle t = true → p.2.1 ≤ s.maxDepth t →
      s.rd F.TPC_STATUS_STATE t.val < p.2.1 ∨ (s.rd F.TPC_STATUS_STATE t.val = p.2.1 ∧ s.flag F.TPC_STATUS_MEMWAKE t.val = true) →
      s.gives (p.1 t) (((s.stopSeen t).wr F.TPC_STATUS_ENTERING t.val 1).onTile t (fun x => { x with tpc := ⟨p.2.1, false, false⟩ })))) ∧
  (∀ (t : Fin 8) (s : State), ∃ k, s.stopSeen t = { s with seen := k }) ∧
  (∀ (t : Fin 8) (s : State), (s.flag F.TPC_STATUS_ENTERING t.val = false → s.gives (.powerEntryComplete t) s) ∧
    (s.flag F.TPC_STATUS_ENTERING t.val = true →
      let s1 := (s.stopSeen t).wrs t.val 0 [(F.TPC_STATUS_STATE, (s.tile t).tpc.target), (F.TPC_STATUS_ENTERING, 0), (F.TPC_STATUS_MEMWAKE, 0)]
      ((s.tile t).tpc.target = 4 → s.gives (.powerEntryComplete t)
        (((((s1.onTile t (fun x => { x with tpc := .reset })).killJobs t).tileOff t).tellMembers .notice [1, t.val]).startFence (.tile s.rank t.val) .nothing)) ∧
      ((s.tile t).tpc.target < 4 → ∃ u, exec (.powerEntryComplete t) s = .next u ∧ u.rd F.TPC_STATUS_STATE t.val = (s.tile t).tpc.target ∧
        u.flag F.TPC_STATUS_ENTERING t.val = false ∧ u.flag F.TPC_STATUS_MEMWAKE t.val = false ∧ u.mem = s.mem ∧
        (s.flag F.TPC_STATUS_WAKING t.val = false → (u.flag F.TPC_STATUS_WAKING t.val = true ↔
          (s.tile t).tpc.full = true ∨ (s.tile t).tpc.mem = true ∨ (s.tile t).launches ≠ [])) ∧
        ((s.tile t).tpc.target < 3 → (u.tile t).threads = (s.tile t).threads ∧ (u.tile t).dregs = (s.tile t).dregs ∧ (u.tile t).icache = (s.tile t).icache) ∧
        ((s.tile t).tpc.target = 3 → (u.tile t).icache = [] ∧ (u.tile t).tlb = [] ∧ (u.tile t).wcache = [] ∧ (u.tile t).rb = .reset ∧ (u.tile t).ls = (s.tile t).ls ∧
          (∀ h, (s.thr t h).st ≠ .idle → u.thr t h = s.thr t h) ∧ ((s.thr t 0).st ≠ .idle → (u.tile t).dregs = (s.tile t).dregs))))) ∧
  (∀ (t : Fin 8) full (s : State),
    (s.rd F.TPC_STATUS_STATE t.val = 4 ∨ (s.rd F.TPC_STATUS_STATE t.val = 0 ∧ s.flag F.TPC_STATUS_ENTERING t.val = false) → s.gives (.tileWakeRequest t full) s) ∧
    (1 ≤ s.rd F.TPC_STATUS_STATE t.val → s.rd F.TPC_STATUS_STATE t.val ≤ 3 → s.flag F.TPC_STATUS_ENTERING t.val = false →
      (full = true ∨ s.flag F.TPC_STATUS_MEMWAKE t.val = false → s.gives (.tileWakeRequest t full)
        ((s.onTile t (fun x => { x with tpc := { x.tpc with full := x.tpc.full || full, mem := x.tpc.mem || !full } })).wr F.TPC_STATUS_WAKING t.val 1)) ∧
      (full = false → s.flag F.TPC_STATUS_MEMWAKE t.val = true → s.gives (.tileWakeRequest t full) s)) ∧
    (s.rd F.TPC_STATUS_STATE t.val ≠ 4 → s.flag F.TPC_STATUS_ENTERING t.val = true → s.gives (.tileWakeRequest t full)
      (s.onTile t (fun x => { x with tpc := { x.tpc with full := x.tpc.full || full, mem := x.tpc.mem || !full } }))) ∧
    (s.flag F.TPC_STATUS_WAKING t.val = false ∨ s.rd F.TPC_STATUS_STATE t.val = 4 → s.gives (.tileWakeComplete t) s) ∧
    (s.flag F.TPC_STATUS_WAKING t.val = true → s.rd F.TPC_STATUS_STATE t.val < 4 → ∃ u, exec (.tileWakeComplete t) s = .next u ∧
      u.flag F.TPC_STATUS_WAKING t.val = false ∧ (u.tile t) = { s.tile t with tpc := .reset } ∧
      ((s.tile t).tpc.full = true → u.rd F.TPC_STATUS_STATE t.val = 0 ∧ u.flag F.TPC_STATUS_MEMWAKE t.val = false ∧
        u.rd F.TPC_CNT_WAKE_COUNT t.val = if 2 ≤ s.rd F.TPC_STATUS_STATE t.val then min (s.rd F.TPC_CNT_WAKE_COUNT t.val + 1) (2 ^ F.TPC_CNT_WAKE_COUNT.w - 1)
          else s.rd F.TPC_CNT_WAKE_COUNT t.val) ∧
      ((s.tile t).tpc.full = false → u.rd F.TPC_STATUS_STATE t.val = s.rd F.TPC_STATUS_STATE t.val ∧ u.flag F.TPC_STATUS_MEMWAKE t.val = true))) ∧
  (∀ (fn : Fin 32) (t : Fin 8) (s : State), fn.val ≠ 0 → s.gives (.tpcWake fn t) s ∧ s.gives (.tpcOff fn t) s ∧ s.gives (.tpcOn fn t) s) ∧
  (∀ (t : Fin 8) (s : State),
    ((s.tile t).resetting = true → s.gives (.tpcWake 0 t) (s.wr F.TPC_STATUS_CMDREJ t.val 1) ∧ s.gives (.tpcOn 0 t) (s.wr F.TPC_STATUS_CMDREJ t.val 1)) ∧
    ((s.tile t).resetting = false → exec (.tpcWake 0 t) s = exec (.tileWakeRequest t true) s) ∧
    (s.tpcQuiet t = false ∨ (s.rd F.TPC_STATUS_STATE t.val ≠ 4 ∧ s.tileIdle t = false) → s.gives (.tpcOff 0 t) (s.wr F.TPC_STATUS_CMDREJ t.val 1)) ∧
    (s.rd F.TPC_STATUS_STATE t.val ≠ 4 → s.tpcQuiet t = true → s.tileIdle t = true → s.gives (.tpcOff 0 t)
      ((((s.stopSeen t).wr F.TPC_STATUS_ENTERING t.val 1).onTile t (fun x => { x with tpc := ⟨4, false, false⟩ })).tileUsr t.val 0 2)) ∧
    (s.rd F.TPC_STATUS_STATE t.val = 4 → s.tpcQuiet t = true → s.gives (.tpcOff 0 t) s ∧
      ((s.tile t).resetting = false → s.pins.cold = false → s.gives (.tpcOn 0 t) ((s.wr F.TPC_STATUS_WAKING t.val 1).tileUsr t.val 1 2))) ∧
    (s.rd F.TPC_STATUS_STATE t.val ≠ 4 ∨ s.tpcQuiet t = false → (s.tile t).resetting = false → s.gives (.tpcOn 0 t) s) ∧
    (s.rd F.TPC_STATUS_STATE t.val ≠ 4 ∨ s.flag F.TPC_STATUS_WAKING t.val = false → s.gives (.tilePowerUpComplete t) s) ∧
    (s.rd F.TPC_STATUS_STATE t.val = 4 → s.flag F.TPC_STATUS_WAKING t.val = true → ∃ u, exec (.tilePowerUpComplete t) s = .next u ∧ u.rd F.TPC_STATUS_STATE t.val = 0 ∧
      u.flag F.TPC_STATUS_WAKING t.val = false ∧ (∀ a, deviceRegion a = .peat t.val ∨ deviceRegion a = .mere t.val → u.mem.getD a 0 = 0) ∧
      (∀ a, deviceRegion a ≠ .peat t.val → deviceRegion a ≠ .mere t.val → u.mem.getD a 0 = s.mem.getD a 0) ∧
      (s.flag F.FLT_STATUS_FENSTOP 0 = false → u.tile t = .reset)))

/-- Fabric regions, stacks and the PCM (R363, R369, R370, R409, R485): an idle region is gated, but FB4 only when nothing needs it; a region's ungating starts the PLL; an Active stack enters
Self-refresh and leaves it; training makes a stack Active, or reports it; a sample records power, temperatures and energies, and raises or
lowers the throttle duty by one; at a critical limit it is reported, THERMTRIP_L is asserted, and every tile and stack goes to Off.
What keeps fabric region 4 needed is the model's reading (log entry 22). -/
def Obligations.FabricAndSensorResult : Prop :=
  (∀ (i : Fin 5) (s : State), (i.val = 4 → s.fb4Needed = true → s.gives (.fabricRegionIdle i) s) ∧
    (i.val ≠ 4 ∨ s.fb4Needed = false → ∃ u, exec (.fabricRegionIdle i) s = .next u ∧ (∃ g p, u = (s.wr F.PCM_STATUS_FABGATED 0 g).wr F.PCM_STATUS_FPLL_OFF 0 p) ∧
      (s.rd F.PCM_STATUS_FABGATED 0 < 32 → ∀ j, j < 5 → bits (u.rd F.PCM_STATUS_FABGATED 0) j 1 = if j = i.val then 1 else bits (s.rd F.PCM_STATUS_FABGATED 0) j 1) ∧
      (s.rd F.PCM_STATUS_FABGATED 0 < 32 → (u.flag F.PCM_STATUS_FPLL_OFF 0 = true ↔ u.rd F.PCM_STATUS_FABGATED 0 = 31)) ∧ u.mem = s.mem ∧ u.tiles = s.tiles) ∧
    (∃ u, exec (.fabricRegionUngate i) s = .next u ∧
      (s.rd F.PCM_STATUS_FABGATED 0 < 32 → ∀ j, j < 5 → bits (u.rd F.PCM_STATUS_FABGATED 0) j 1 = if j = i.val then 0 else bits (s.rd F.PCM_STATUS_FABGATED 0) j 1) ∧
      u.flag F.PCM_STATUS_FPLL_OFF 0 = false ∧ u.mem = s.mem ∧ u.tiles = s.tiles)) ∧
  (∀ (k : Fin 8) (s : State), (s.rd F.HMC_STATUS_STATE k.val = 2 → s.gives (.hbmIdleTimeout k) (s.wr F.HMC_STATUS_STATE k.val 3)) ∧
    (s.rd F.HMC_STATUS_STATE k.val ≠ 2 → s.gives (.hbmIdleTimeout k) s) ∧
    (s.rd F.HMC_STATUS_STATE k.val = 3 → s.gives (.hbmSelfRefreshExit k) ((s.wr F.HMC_STATUS_STATE k.val 2).ungate 4)) ∧
    (s.rd F.HMC_STATUS_STATE k.val ≠ 3 → s.gives (.hbmSelfRefreshExit k) s) ∧
    (s.rd F.HMC_STATUS_STATE k.val ≠ 1 → ∀ g, s.gives (.hbmTrainingComplete k g) s) ∧
    (s.rd F.HMC_STATUS_STATE k.val = 1 → s.gives (.hbmTrainingComplete k false) { s with reports := s.reports ++ [⟨0x23, 8 + k.val, 0⟩] } ∧
      (s.usr (8 + k.val) = 1 → s.gives (.hbmTrainingComplete k true) (((s.wr F.HMC_STATUS_STATE k.val 2).ungate 4).usrState (8 + k.val) 2 3)) ∧
      (s.usr (8 + k.val) ≠ 1 → s.gives (.hbmTrainingComplete k true) ((s.wr F.HMC_STATUS_STATE k.val 2).ungate 4)))) ∧
  (∀ rails temps uj (s : State), s.pins.cold = true → s.gives (.pcmSample rails temps uj) s) ∧
  (∀ rails temps uj (s : State), s.pins.cold = false → (∀ i c, (temps.take 17)[i]? = some c → c < if i < 9 then 110 else 105) →
    s.pins.therm = false → ∃ u, exec (.pcmSample rails temps uj) s = .next u ∧
      (∀ i, i < 9 → u.rd F.PCM_TEMP_DEGC 0 i = temps.getD i 0 % 2 ^ F.PCM_TEMP_DEGC.w) ∧
      (∀ k, k < 8 → u.rd F.HMC_STATUS_TEMP k = temps.getD (9 + k) 0 % 2 ^ F.HMC_STATUS_TEMP.w) ∧
      (∀ t, t < 8 → u.rd F.PCM_ENERGY_UJ 0 t = (s.rd F.PCM_ENERGY_UJ 0 t + uj.getD t 0) % 2 ^ F.PCM_ENERGY_UJ.w) ∧
      (let pw := (List.range 16).map (fun r => if r = 15 then 0 else ((rails[r]?.getD (0, 0)).1 * (rails[r]?.getD (0, 0)).2) / 1000)
       let l := (pw :: s.pcm).take 2550
       let high := s.rd F.PCM_PLIMIT_WATTS 0 * 1000 < meanOf (totalOf l) 100 ∨ ∃ i c, i < 9 ∧ temps[i]? = some c ∧ s.rd F.PCM_TLIMIT_DEGC 0 ≤ c
       let d := s.rd F.PCM_STATUS_DUTY 0
       u.rd F.PCM_POWER_MW 0 = meanOf (totalOf l) (max 1 (s.rd F.PCM_CTL_AVG_MS 0) * 10) % 2 ^ F.PCM_POWER_MW.w ∧
       (high → u.rd F.PCM_STATUS_DUTY 0 = min (d + 1) 63 ∧ u.flag F.PCM_STATUS_THROTTLE 0 = true) ∧
       (¬high → d < 64 → u.rd F.PCM_STATUS_DUTY 0 = d - 1 ∧ (u.flag F.PCM_STATUS_THROTTLE 0 = true ↔ 1 < d))) ∧
      u.mem = s.mem ∧ u.tiles = s.tiles ∧ u.pins.therm = false) ∧
  (∀ rails temps uj (s : State), s.pins.cold = false → s.pins.therm = false →
    (∃ i c, (temps.take 17)[i]? = some c ∧ (if i < 9 then 110 else 105) ≤ c) → ∃ u, exec (.pcmSample rails temps uj) s = .next u ∧ u.pins.therm = true ∧
      u.out = s.out ++ [.other "THERMTRIP" [1]] ∧ (∃ x, u.reports = s.reports ++ [⟨0x30, x, 0⟩]) ∧ (∀ k, k < 8 → u.rd F.HMC_STATUS_STATE k = 0) ∧
      (∀ t : Fin 8, u.rd F.TPC_STATUS_STATE t.val = 4 ∨ (u.flag F.TPC_STATUS_ENTERING t.val = true ∧ (u.tile t).tpc.target = 4)))

/-! ### Management -/

/-- Unit commands (R407, R410 to R414, R421 to R423, Table 16-8): the first condition that holds gives the STATUS, and a refused command changes nothing else; an accepted one acts on its
unit; every answer is counted; the mailbox takes one request at a time, and GO while it is BUSY is OVERRUN;
a mailbox request that arrived before a message is served first, and a message that fails its check or is of another type is counted and discarded.
EXPECT of a command without a unit, the RATE test, and the end of a request that Fenreeve does not answer are the model's readings (log entries 33 and 26). -/
def Obligations.UnitCommandResult : Prop :=
  (∀ p ∈ ([(Instr.getUsr, 1), (Instr.online, 2), (Instr.offline, 3), (Instr.quarantine, 4), (Instr.forceQuarantine, 5), (Instr.fenForm, 6), (Instr.fenDissolve, 7),
      (Instr.svnCommit, 8), (Instr.fwStatus, 9), (Instr.setPolicy, 10)] : List ((UReq → Instr) × Nat)), ∀ (s : State),
    (∀ (m : MReq) u e a rsv,
      let c : UCmd := ⟨some m.origin, s.secured m, p.2, BitVec.toNat u, BitVec.toNat e, BitVec.toNat a, rsv⟩
      s.serves m c.readOnly (p.1 (.mctp m u e a rsv)) (fun v => v.ucAnswer c)) ∧
    (s.frv.mbx = none → s.gives (p.1 .mbx) s) ∧
    (∀ r, s.frv.mbx = some r → (bits r.1 0 8 ≠ p.2 → s.gives (p.1 .mbx) s) ∧
      (bits r.1 0 8 = p.2 → s.answers (ucOfMbx r).readOnly = true → s.gives (p.1 .mbx) (s.ucAnswer (ucOfMbx r))) ∧
      (bits r.1 0 8 = p.2 → s.answers (ucOfMbx r).readOnly = false → s.gives (p.1 .mbx) s.mbxDrop))) ∧
  (∀ (s : State), (s.frv.mbx = none → s.serveMbx = s) ∧ (∀ r, s.frv.mbx = some r →
    s.serveMbx = if s.answers (ucOfMbx r).readOnly then s.ucAnswer (ucOfMbx r) else s.mbxDrop)) ∧
  (∀ (s : State) (m : MReq), s.secured m = true ↔ ∃ k x, m.session = some k ∧ s.frv.sessions.find? k = some x ∧ x.up = true) ∧
  (∀ (s : State), (s.fnTakes 0 = false → s.gives .mbxGo s) ∧
    (s.fnTakes 0 = true → s.flag F.FRV_MBX_STATUS_BUSY 0 = true → s.gives .mbxGo (s.wr F.FRV_MBX_STATUS_OVERRUN 0 1)) ∧
    (s.fnTakes 0 = true → s.flag F.FRV_MBX_STATUS_BUSY 0 = false →
      let r := (s.rd F.FRV_MBX_REQ0_D 0, s.rd F.FRV_MBX_REQ1_D 0)
      let s1 := ({ s with frv := { s.frv with mbx := some r } } : State).wr F.FRV_MBX_STATUS_BUSY 0 1
      (s.answers (ucOfMbx r).readOnly = true → 1 ≤ bits r.1 0 8 → bits r.1 0 8 ≤ 10 → s.gives .mbxGo s1) ∧
      (s.answers (ucOfMbx r).readOnly = true → bits r.1 0 8 = 0 ∨ 10 < bits r.1 0 8 → s.gives .mbxGo (s1.ucAnswer (ucOfMbx r))) ∧
      (s.answers (ucOfMbx r).readOnly = false → s.gives .mbxGo s1.mbxDrop))) ∧
  (∀ (s : State) (c : UCmd), (c.bad = true → s.ucRun c = (5, s)) ∧ (c.bad = false → s.ucDeny c = true → s.ucRun c = (6, s)) ∧
    (c.bad = false → s.ucDeny c = false →
      (0x28 ≤ c.unit → c.unit ≤ 0xFE → s.ucRun c = (4, s)) ∧
      (c.unit < 0x28 ∨ c.unit = 0xFF → (s.ucIsStale c = true → s.ucRun c = (1, s)) ∧ (s.ucIsStale c = false →
        (s.ucBadState c = true → s.ucRun c = (3, s)) ∧ (s.ucBadState c = false →
          (c.cmd = 3 ∨ c.cmd = 4 → s.leased c.unit = true → s.ucRun c = (2, s)) ∧
          (c.cmd = 3 ∨ c.cmd = 4 → s.leased c.unit = false → c.cmd = 4 → s.ucRun c = (0, (s.usrState c.unit 3 1).settle)) ∧
          (c.cmd = 5 → s.frv.forced = true → s.ns < s.rd F.FRV_LAST_FORCE_NS 0 + 1000000 → s.ucRun c = (7, s)) ∧
          (c.cmd = 5 → s.frv.forced = false ∨ s.rd F.FRV_LAST_FORCE_NS 0 + 1000000 ≤ s.ns → s.ucRun c = (0, (s.forceUnit c.unit).settle)) ∧
          (c.cmd = 2 → (∀ s1, s.unitOnline c.unit = some s1 → s.ucRun c = (0, s1.settle)) ∧ (s.unitOnline c.unit = none → s.ucRun c = (8, s))) ∧
          (c.cmd = 3 → s.leased c.unit = false → (∀ s1, s.unitOffline c.unit = some s1 → s.ucRun c = (0, s1.settle)) ∧ (s.unitOffline c.unit = none → s.ucRun c = (8, s))) ∧
          (c.cmd = 6 → s.ucRun c = (0, s.fenForm.settle)) ∧ (c.cmd = 7 → s.ucRun c = (0, s.fenDissolve.settle)) ∧
          (c.cmd = 8 → (s.frv.update ≠ none → s.ucRun c = (8, s)) ∧ (s.frv.update = none → s.ucRun c =
            (0, (({ s with frv := { s.frv with fuses := c.arg } } : State).wr F.FRV_STATUS_FUSESVN 0 c.arg).settle))) ∧
          (c.cmd = 10 → s.ucRun c = (0, (s.wr F.FRV_POLICY_SESSION 0 (c.arg % 2)).settle)) ∧ (c.cmd = 1 ∨ c.cmd = 9 → s.ucRun c = (0, s.settle))))))) ∧
  (∀ (s : State) (c : UCmd), let v := (s.ucRun c).2
    (s.ucAnswer c).rd F.FRV_CNT_CMD_COUNT 0 = min (v.rd F.FRV_CNT_CMD_COUNT 0 + 1) (2 ^ F.FRV_CNT_CMD_COUNT.w - 1) ∧
    (s.ucAnswer c).rd F.FRV_CNT_STALE_COUNT 0 =
      if (s.ucRun c).1 = 1 then min (v.rd F.FRV_CNT_STALE_COUNT 0 + 1) (2 ^ F.FRV_CNT_STALE_COUNT.w - 1) else v.rd F.FRV_CNT_STALE_COUNT 0) ∧
  (∀ (s : State) (c : UCmd) o, c.origin = some o → ∃ v, (s.ucAnswer c).out = (s.ucRun c).2.out ++
    [.other "UNIT_RESPONSE" [match o with | .smb => 0 | .vdm => 1, c.cmd, c.unit, (s.ucRun c).1, v]] ∧ (s.ucAnswer c).mem = (s.ucRun c).2.mem ∧
    (s.ucAnswer c).tiles = (s.ucRun c).2.tiles) ∧
  (∀ (s : State) (c : UCmd), c.origin = none → (s.ucAnswer c).flag F.FRV_MBX_STATUS_BUSY 0 = false ∧ (s.ucAnswer c).flag F.FRV_MBX_STATUS_DONE 0 = true ∧
    (s.ucAnswer c).frv.mbx = none ∧ (c.cmd < 256 → c.unit < 256 → (s.ucAnswer c).rd F.FRV_MBX_RSP0_D 0 = c.cmd + c.unit * 2 ^ 8 + (s.ucRun c).1 * 2 ^ 16)) ∧
  (∀ (s : State) u st own cause, u < 40 → st < 8 → own < 32 → st ≠ s.usr u ∨ own ≠ s.rd F.FRV_USR_OWNER 0 u → (s.usrTo u st own cause).usr u = st ∧
    (s.usrTo u st own cause).rd F.FRV_USR_OWNER 0 u = own ∧ (s.usrTo u st own cause).rd F.FRV_USR_EPOCH 0 u = (s.rd F.FRV_USR_EPOCH 0 u + 1) % 2 ^ F.FRV_USR_EPOCH.w)

/-- Standard messages (R404, R406, R416, R419, R420): one that fails its integrity check is counted and discarded; in ROM and RESTARTING none is answered, in RECOVERY MCTP control, PLDM base and
firmware update alone; each answer goes out with its data, and SET commands take their value; SPDM requests out of order are ERROR.
Where the spec points to DMTF documents the model takes their rules from outside it: refused EIDs and TIDs, and the order of SPDM requests (log entry 34). -/
def Obligations.ManagementMessageResult : Prop :=
  (∀ (m : MReq) inR f (s : State), (s.answers true = false → s.take m inR f = s) ∧
    (s.answers true = true → m.good = false ∨ m.known = false → s.take m inR f = s.count F.FRV_CNT_DROP_COUNT 0 1) ∧
    (s.answers true = true → m.good = true → m.known = true →
      (s.serveMbx.answers inR = true → s.take m inR f = f s.serveMbx) ∧ (s.serveMbx.answers inR = false → s.take m inR f = s.serveMbx))) ∧
  (∀ (s : State) b, s.answers b = true ↔ s.pins.cold = false ∧ (s.rd F.FRV_STATUS_BOOT 0 = 1 ∨ (b = true ∧ s.rd F.FRV_STATUS_BOOT 0 = 2))) ∧
  (∀ (m : MReq) (s : State), let v := s.serveMbx
    let r : String → List Nat → State → State := fun n l u => u.emit (.other n ((match m.origin with | .smb => 0 | .vdm => 1) :: l))
    (∀ id : BitVec 8, s.serves m true (.setEndpointId m id) (fun s => if id.toNat = 0 ∨ id.toNat = 255 then r "SET_ENDPOINT_ID" [1, s.rd (eidFld m.origin) 0] s
      else r "SET_ENDPOINT_ID" [0, id.toNat] (s.wr (eidFld m.origin) 0 id.toNat))) ∧
    s.serves m true (.getEndpointId m) (fun s => r "GET_ENDPOINT_ID" [s.rd (eidFld m.origin) 0] s) ∧
    s.serves m true (.getEndpointUuid m) (r "GET_ENDPOINT_UUID" [Config.uuid]) ∧
    s.serves m true (.getMctpVersionSupport m) (r "GET_MCTP_VERSION_SUPPORT" []) ∧
    s.serves m true (.getMessageTypeSupport m) (r "GET_MESSAGE_TYPE_SUPPORT" [0x00, 0x01, 0x05, 0x06, 0x7E]) ∧
    s.serves m true (.getVendorDefinedMessageSupport m) (r "GET_VENDOR_DEFINED_MESSAGE_SUPPORT" []) ∧
    (∀ id : BitVec 8, s.serves m true (.setTid m id) (fun s => if id.toNat = 0 ∨ id.toNat = 255 then r "SET_TID" [1] s
      else r "SET_TID" [0] { s with frv := { s.frv with tid := id.toNat } })) ∧
    s.serves m true (.getTid m) (fun s => r "GET_TID" [s.frv.tid] s) ∧
    (∀ ty : BitVec 8, s.serves m true (.getPldmVersion m ty) (r "GET_PLDM_VERSION" [ty.toNat, if ty.toNat = 0 ∨ ty.toNat = 2 ∨ ty.toNat = 5 then 1 else 0]) ∧
      s.serves m true (.getPldmCommands m ty) (r "GET_PLDM_COMMANDS" [ty.toNat, if ty.toNat = 0 ∨ ty.toNat = 2 ∨ ty.toNat = 5 then 1 else 0])) ∧
    s.serves m true (.getPldmTypes m) (r "GET_PLDM_TYPES" [0, 2, 5]) ∧
    s.serves m false (.getPdrRepositoryInfo m) (r "GET_PDR_REPOSITORY_INFO" [(numericSensors ++ stateSensors).length]) ∧
    (∀ h : BitVec 32, s.serves m false (.getPdr m h) (r "GET_PDR" [h.toNat])) ∧
    (∀ id : BitVec 8, s.serves m false (.setEventReceiver m id) (fun s => r "SET_EVENT_RECEIVER" [0] { s with frv := { s.frv with receiver := some id.toNat } })) ∧
    s.serves m false (.getEventReceiver m) (fun s => r "GET_EVENT_RECEIVER" s.frv.receiver.toList s) ∧
    (∀ p ∈ ([(Instr.getSensorReading, Instr.setNumericSensorEnable, "GET_SENSOR_READING", "SET_NUMERIC_SENSOR_ENABLE", numericSensors),
        (Instr.getStateSensorReadings, Instr.setStateSensorEnables, "GET_STATE_SENSOR_READINGS", "SET_STATE_SENSOR_ENABLES", stateSensors)] :
        List ((MReq → BitVec 16 → Instr) × (MReq → BitVec 16 → Bool → Instr) × String × String × List Nat)), ∀ id : BitVec 16,
      (id.toNat ∉ p.2.2.2.2 → s.serves m false (p.1 m id) (r p.2.2.1 [1, id.toNat]) ∧ ∀ on, s.serves m false (p.2.1 m id on) (r p.2.2.2.1 [1, id.toNat])) ∧
      (id.toNat ∈ p.2.2.2.2 →
        s.serves m false (p.1 m id) (fun s => r p.2.2.1 ([0, id.toNat, if id.toNat ∈ s.frv.sensorsOff then 0 else 1, s.frv.polled.getD id.toNat 0] ++ s.sensorData id.toNat) s) ∧
        ∀ on, s.serves m false (p.2.1 m id on) (fun s =>
          let l := s.frv.sensorsOff.filter (fun i => decide (i ≠ id.toNat))
          r p.2.2.2.1 [0, id.toNat] { s with frv := { s.frv with sensorsOff := if on then l else l ++ [id.toNat] } }))) ∧
    s.serves m false (.getVersion m) (fun s => r "VERSION" [0x13] { s with frv := { s.frv with spdm := 1 } }) ∧
    s.serves m false (.getCapabilities m) (fun s => if s.frv.spdm = 0 then r "SPDM_ERROR" [] s else r "CAPABILITIES" [] { s with frv := { s.frv with spdm := 2 } }) ∧
    s.serves m false (.negotiateAlgorithms m true) (fun s => if s.frv.spdm < 2 then r "SPDM_ERROR" [] s else r "ALGORITHMS" [] { s with frv := { s.frv with spdm := 3 } }) ∧
    s.serves m false (.negotiateAlgorithms m false) (r "SPDM_ERROR" []) ∧
    (∀ id (f : State → Session → State) (c : Instr), (c = .heartbeat m id ∧ f = (fun s _ => r "HEARTBEAT_ACK" [id] s)) ∨
        (c = .keyUpdate m id ∧ f = fun s x => r "KEY_UPDATE_ACK" [id] { s with frv := { s.frv with sessions := s.frv.sessions.put id { x with keys := x.keys + 1 } } }) ∨
        (c = .endSession m id ∧ f = fun s _ => r "END_SESSION_ACK" [id] { s with frv := { s.frv with sessions := s.frv.sessions.erase id } }) →
      (∀ x, v.frv.sessions.find? id = some x → x.up = true → m.session = some id → s.serves m false c (fun s => f s x)) ∧
      (v.frv.sessions.find? id = none ∨ m.session ≠ some id ∨ (∃ x, v.frv.sessions.find? id = some x ∧ x.up = false) → s.serves m false c (r "SPDM_ERROR" []))) ∧
    (∀ id, (v.frv.sessions.find? id = none → s.serves m false (.finish m id true) (r "SPDM_ERROR" [])) ∧
      (∀ x, v.frv.sessions.find? id = some x → x.up = true → ∀ b, s.serves m false (.finish m id b) (r "SPDM_ERROR" [])) ∧
      (∀ x, v.frv.sessions.find? id = some x → x.up = false →
        s.serves m false (.finish m id true) (fun s => r "FINISH_RSP" [id] { s with frv := { s.frv with sessions := s.frv.sessions.put id { x with up := true } } }) ∧
        s.serves m false (.finish m id false) (fun s => r "SPDM_ERROR" [] { s with frv := { s.frv with sessions := s.frv.sessions.erase id } }))) ∧
    (v.frv.spdm ≠ 3 → ∀ sl off len ix k, ∀ c ∈ [Instr.getDigests m, .getCertificate m sl off len, .challenge m sl, .getMeasurements m ix, .keyExchange m k],
      s.serves m false c (r "SPDM_ERROR" [])) ∧
    (v.frv.spdm = 3 → s.serves m false (.getDigests m) (r "DIGESTS" [0]) ∧
      (∀ off len, s.serves m false (.getCertificate m 0 off len) (r "CERTIFICATE" [0, off, len])) ∧ s.serves m false (.challenge m 0) (r "CHALLENGE_AUTH" [0]) ∧
      (∀ sl off len, sl ≠ 0 → s.serves m false (.getCertificate m sl off len) (r "SPDM_ERROR" []) ∧ s.serves m false (.challenge m sl) (r "SPDM_ERROR" [])) ∧
      s.serves m false (.getMeasurements m 0) (r "MEASUREMENTS" [0, 7]) ∧
      s.serves m false (.getMeasurements m 0xFF) (fun s => r "MEASUREMENTS" (255 :: (List.range 7).flatMap (fun i => s.measure (i + 1))) s) ∧
      (∀ i : BitVec 8, 7 < i.toNat → i.toNat < 255 → s.serves m false (.getMeasurements m i) (r "SPDM_ERROR" [])) ∧
      (∀ id, v.frv.sessions.find? id ≠ none → s.serves m false (.keyExchange m id) (r "SPDM_ERROR" [])) ∧
      (∀ i : BitVec 8, 1 ≤ i.toNat → i.toNat ≤ 7 → s.serves m false (.getMeasurements m i) (fun s => r "MEASUREMENTS" (i.toNat :: s.measure i.toNat) s)) ∧
      (∀ id, v.frv.sessions.find? id = none →
        s.serves m false (.keyExchange m id) (fun s => r "KEY_EXCHANGE_RSP" [id] { s with frv := { s.frv with sessions := s.frv.sessions.put id ⟨false, 0⟩ } }))))

/-- Firmware update (R417, R418) and sensor polls (R416): an update passes from its request through the component table and the transfer to a verified slot, each request out of its turn refused;
the inactive slot is erased before the transfer and holds the bytes received; activation restarts Fenreeve, ends the sessions and leaves BOOT RESTARTING; a poll reads every sensor.
The stages and their order are taken from DMTF documents (log entry 34). -/
def Obligations.FirmwareUpdateResult : Prop :=
  (∀ (m : MReq) (s : State), let v := s.serveMbx
    let r : String → List Nat → State → State := fun n l u => u.emit (.other n ((match m.origin with | .smb => 0 | .vdm => 1) :: l))
    let upd : Upd → State → State := fun u s => ({ s with frv := { s.frv with update := some u } } : State).wr F.FRV_STATUS_UPDATING 0 1
    let off : State → State := fun s => ({ s with frv := { s.frv with update := none } } : State).wr F.FRV_STATUS_UPDATING 0 0
    s.serves m true (.queryDeviceIdentifiers m) (r "QUERY_DEVICE_IDENTIFIERS" []) ∧
    s.serves m true (.getFirmwareParameters m) (fun s => r "GET_FIRMWARE_PARAMETERS" [1, s.rd F.FRV_STATUS_SEQ 0, s.imgSeq (1 - s.rd F.FRV_STATUS_SLOT 0)] s) ∧
    (v.frv.update = none →
      s.serves m true (.requestUpdate m) (fun s => r "REQUEST_UPDATE" [0, match m.origin with | .smb => 256 | .vdm => 4096] (upd ⟨0, 0, 0⟩ s)) ∧
      (∀ id, s.serves m true (.passComponentTable m id) (r "PASS_COMPONENT_TABLE" [1])) ∧ (∀ id n, s.serves m true (.updateComponent m id n) (r "UPDATE_COMPONENT" [1])) ∧
      (∀ d, s.serves m true (.firmwareDataReceive m d) id) ∧ (∀ b, s.serves m true (.activateFirmware m b) (r "ACTIVATE_FIRMWARE" [1])) ∧
      s.serves m true (.getStatus m) (r "GET_STATUS" [0]) ∧ s.serves m true (.cancelUpdateComponent m) (r "CANCEL_UPDATE_COMPONENT" [1]) ∧
      s.serves m true (.cancelUpdate m) (r "CANCEL_UPDATE" [1])) ∧
    (∀ u, v.frv.update = some u → s.serves m true (.requestUpdate m) (r "REQUEST_UPDATE" [1]) ∧
      s.serves m true (.getStatus m) (r "GET_STATUS" [1, u.stage, u.got]) ∧ s.serves m true (.cancelUpdate m) (fun s => r "CANCEL_UPDATE" [0] (off s)) ∧
      (u.stage = 0 → s.serves m true (.passComponentTable m 1) (fun s => r "PASS_COMPONENT_TABLE" [0] (upd { u with stage := 1 } s)) ∧
        ∀ id, id ≠ 1 → s.serves m true (.passComponentTable m id) (r "PASS_COMPONENT_TABLE" [1])) ∧
      (u.stage ≠ 0 → ∀ id, s.serves m true (.passComponentTable m id) (r "PASS_COMPONENT_TABLE" [1])) ∧
      (u.stage = 1 → ∀ n, 0 < n → n ≤ 0x800000 → s.serves m true (.updateComponent m 1 n) (fun s =>
        r "REQUEST_FIRMWARE_DATA" [0, min (match m.origin with | .smb => 256 | .vdm => 4096) n] (r "UPDATE_COMPONENT" [0] (upd ⟨2, n, 0⟩ (s.eraseSlot (1 - s.rd F.FRV_STATUS_SLOT 0)))))) ∧
      (u.stage = 1 → ∀ id n, id ≠ 1 ∨ n = 0 ∨ 0x800000 < n → s.serves m true (.updateComponent m id n) (r "UPDATE_COMPONENT" [1])) ∧
      (u.stage ≠ 1 → ∀ id n, s.serves m true (.updateComponent m id n) (r "UPDATE_COMPONENT" [1])) ∧
      (u.stage = 2 → s.serves m true (.cancelUpdateComponent m) (fun s => r "CANCEL_UPDATE_COMPONENT" [0] (upd ⟨1, 0, 0⟩ s)) ∧
        ∀ d, d ≠ [] → d.length = min (match m.origin with | .smb => 256 | .vdm => 4096) (u.size - u.got) → u.got + d.length < u.size →
          s.serves m true (.firmwareDataReceive m d) (fun s => (upd { u with got := u.got + d.length } (s.putFlash ((1 - s.rd F.FRV_STATUS_SLOT 0) * 0x800000 + u.got) d)).askData m
            { u with got := u.got + d.length })) ∧
      (u.stage = 2 → ∀ d, d ≠ [] → d.length = min (match m.origin with | .smb => 256 | .vdm => 4096) (u.size - u.got) → u.size ≤ u.got + d.length →
        s.serves m true (.firmwareDataReceive m d) (fun s =>
          let w := r "TRANSFER_COMPLETE" [0] (upd { u with got := u.got + d.length } (s.putFlash ((1 - s.rd F.FRV_STATUS_SLOT 0) * 0x800000 + u.got) d))
          if w.slotVerifies (1 - s.rd F.FRV_STATUS_SLOT 0) then r "APPLY_COMPLETE" [0] (r "VERIFY_COMPLETE" [0] (upd ⟨3, u.size, u.got + d.length⟩ w))
          else r "VERIFY_COMPLETE" [1] (upd ⟨1, u.size, u.got + d.length⟩ w))) ∧
      (∀ d, u.stage ≠ 2 ∨ d = [] ∨ d.length ≠ min (match m.origin with | .smb => 256 | .vdm => 4096) (u.size - u.got) →
        s.serves m true (.firmwareDataReceive m d) id) ∧
      (u.stage ≠ 2 → s.serves m true (.cancelUpdateComponent m) (r "CANCEL_UPDATE_COMPONENT" [1])) ∧
      (u.stage = 3 → s.serves m true (.activateFirmware m true) (fun s =>
        let s1 := off (r "ACTIVATE_FIRMWARE" [0] s)
        ({ s1 with frv := { s1.frv with sessions := [], spdm := 0 } } : State).mbxDrop.wr F.FRV_STATUS_BOOT 0 3)) ∧
      (s.serves m true (.activateFirmware m false) (r "ACTIVATE_FIRMWARE" [1])) ∧
      (u.stage ≠ 3 → ∀ b, s.serves m true (.activateFirmware m b) (r "ACTIVATE_FIRMWARE" [1])))) ∧
  (∀ (s : State) b, s.slotVerifies b = true ↔ s.headerOk b = true ∧ s.codeOk b = true ∧ (s.fwRuns = true → s.rd F.FRV_STATUS_SEQ 0 < s.imgSeq b)) ∧
  (∀ (s : State) b a, (s.eraseSlot b).frv.flash.getD a 0xFF = if b * 0x800000 ≤ a ∧ a < b * 0x800000 + 0x800000 then 0xFF else s.frv.flash.getD a 0xFF) ∧
  (∀ (s : State) k d a, (s.putFlash k d).frv.flash.getD a 0xFF = if k ≤ a ∧ a < k + d.length then d[a - k]?.getD 0 else s.frv.flash.getD a 0xFF) ∧
  (∀ (s : State), (s.answers false = false → s.gives .sensorPoll s) ∧ (s.answers false = true →
    let u := (numericSensors ++ stateSensors).foldl (fun s id => s.pollOne id) s
    s.gives .sensorPoll u.fenAuto.settle ∧ (∀ id ∈ numericSensors ++ stateSensors, u.frv.polled.getD id 0 = s.sensorNow id) ∧ u.regs = s.regs ∧ u.mem = s.mem))

/-! ### Failures, boot, resets and pins -/

/-- Failures (R425 to R431): a reported event is declared, once; a unit becomes FAILED and is counted; notices and heartbeats of a member alone count; a rank that misses HB_MISS periods fails; a fence ends when every member has completed its part.
The details of notices and records are the model's readings (log entry 29). -/
def Obligations.FailureResult : Prop :=
  (∀ (code unit : BitVec 8) (s : State),
    (∀ r, s.reports.find? (fun r => r.code = code.toNat && r.unit = unit.toNat) = some r → s.gives (.unitFailDeclare code unit)
      (({ s with reports := s.reports.erase r } : State).faultEvent r.code r.unit r.info).settle) ∧
    ((∀ r ∈ s.reports, r.code ≠ code.toNat ∨ r.unit ≠ unit.toNat) → 
      (code.toNat ≠ 0x21 → code.toNat ≠ 0x24 → code.toNat ≠ 0x31 → s.gives (.unitFailDeclare code unit) s) ∧
      (code.toNat = 0x21 ∨ code.toNat = 0x24 ∨ code.toNat = 0x31 → s.gives (.unitFailDeclare code unit) (s.faultEvent code.toNat unit.toNat 0).settle))) ∧
  (∀ (s : State) u info, (∀ c, 0x20 ≤ c → c ≤ 0x24 → s.faultEvent c u info = s.declareUnit c u info) ∧ s.faultEvent 0x30 u info = s.declareDevice 0x30 u ∧
    s.faultEvent 0x31 u info = s.declareDevice 0x31 u ∧ s.faultEvent 0x32 u info = s.declareRank 0x32 (u % 64) ∧ s.faultEvent 0x40 u info = s.fenStopAll u ∧
    s.faultEvent 0x10 u info = (s.count F.FLT_CNT_OP_COUNT 0 1).logEvent 1 0x10 u 0 info) ∧
  (∀ (s : State) c u info, (s.usr u = 4 → s.declareUnit c u info = s) ∧ (u < 40 → s.usr u ≠ 4 → (s.markFailed u).usr u = 4 ∧
    bits ((s.markFailed u).rd F.FLT_FAILMAP_UNITS 0) u 1 = 1 ∧ (s.markFailed u).mem = s.mem)) ∧
  (∀ (r : Fin 64) (s : State), (s.isPeer r.val = false →
      (∀ n, s.gives (.failureNoticeReceive r n) s) ∧ s.gives (.heartbeatReceive r) s ∧ s.gives (.heartbeatMiss r) s ∧ s.gives (.fenStopNotice r) s) ∧
    (s.isPeer r.val = true → (∀ d, s.gives (.failureNoticeReceive r (.rank d)) (s.declareRank 0x33 d)) ∧
      (∀ u, s.gives (.failureNoticeReceive r (.unit u)) (if u < 8 then s.startFence (.tile r.val u) .nothing else s)) ∧
      (∀ f, s.gives (.failureNoticeReceive r (.fn f)) (s.startFence (.fn r.val f) .nothing)) ∧
      s.gives (.heartbeatReceive r) { s with flt := { s.flt with misses := s.flt.misses.erase r.val } } ∧
      (s.flt.misses.getD r.val 0 < max 1 (s.rd F.FLT_CTL_HB_MISS 0) → s.gives (.heartbeatMiss r) s) ∧
      (max 1 (s.rd F.FLT_CTL_HB_MISS 0) ≤ s.flt.misses.getD r.val 0 → s.gives (.heartbeatMiss r) (s.declareRank 0x32 r.val).settle) ∧
      s.gives (.fenStopNotice r) (s.fenStop 0x41 0xFF r.val).settle)) ∧
  (∀ (s : State), (s.rd F.FEN_STATUS_STATE 0 ≠ 2 → s.gives .heartbeatSend s) ∧
    (s.rd F.FEN_STATUS_STATE 0 = 2 → ∃ u, exec .heartbeatSend s = .next u ∧ u.mem = s.mem ∧ u.regs = s.regs ∧ u.tiles = s.tiles ∧
      ∀ d ∈ s.peers, u.flt.misses.getD d 0 = s.flt.misses.getD d 0 + 1) ∧
    s.gives .fenstopClr (s.wr F.FLT_STATUS_FENSTOP 0 0)) ∧
  (∀ i (r : Fin 64) (s : State), (s.flt.fences[i]? = none → s.gives (.drainFenceComplete i) s ∧ s.gives (.fenceCompleteReport r i) s) ∧
    (∀ f, s.flt.fences[i]? = some f →
      (f.waiting = [] → s.gives (.drainFenceComplete i) (s.fenceEnd i)) ∧
      (f.waiting ≠ [] → s.rank ∉ f.waiting ∨ s.fenceClear f.party = false → s.gives (.drainFenceComplete i) s) ∧
      (s.rank ∈ f.waiting → s.fenceClear f.party = true →
        let s1 := if f.party.isLocal then s.fencePart i s.rank else (s.fencePart i s.rank).tellMembers .fenceDone []
        ((∀ d ∈ f.waiting, d = s.rank) → s.gives (.drainFenceComplete i) (s1.fenceEnd i)) ∧ ((∃ d ∈ f.waiting, d ≠ s.rank) → s.gives (.drainFenceComplete i) s1)) ∧
      (r.val ∉ f.waiting ∨ r.val = s.rank → s.gives (.fenceCompleteReport r i) s) ∧
      (r.val ≠ s.rank → f.waiting = [r.val] → s.gives (.fenceCompleteReport r i) ((s.fencePart i r.val).fenceEnd i)) ∧
      (r.val ≠ s.rank → r.val ∈ f.waiting → f.waiting ≠ [r.val] → s.gives (.fenceCompleteReport r i) (s.fencePart i r.val))))

/-- An injected event (R453): while no tag is allocated on a VF's tile and no fence is incomplete it acts as the same event reported and declared, records and counts alike; otherwise it is ignored. -/
def Obligations.InjectActsAsDetected : Prop :=
  ∀ (code unit : BitVec 8) (s : State),
    ((∃ t : Fin 8, s.ownerOf t.val ≠ 0 ∧ (s.tile t).ops ≠ []) ∨ s.flt.fences ≠ [] → s.gives (.fltInject code unit) s) ∧
    ((∀ t : Fin 8, s.ownerOf t.val = 0 ∨ (s.tile t).ops = []) → s.flt.fences = [] →
      exec (.fltInject code unit) s = exec (.unitFailDeclare code unit) { s with reports := ⟨code.toNat, unit.toNat, 0⟩ :: s.reports })

/-- Boot (R420, R466): the boot ROM runs the first slot in order that stands and whose code has its digest, or Fenreeve is in RECOVERY; it acts only in ROM and RESTARTING; firmware tries again the
units whose ONLINE is still to be applied.
Pins (R482, R484, R486): a module interrupt reads the four modules of its bus, a clock held low resets the SMBus interface, and boundary scan follows the TAP: reset by TRST_L or five cycles of
TMS, IDCODE after it, and BYPASS as one bit.
The TAP's states and the meaning of an unused instruction code come from IEEE 1149.1 (log entry 35). -/
def Obligations.BootAndPinResult : Prop :=
  (∀ (s : State),
    (s.pins.cold = true ∨ s.rd F.FRV_STATUS_BOOT 0 = 1 ∨ s.rd F.FRV_STATUS_BOOT 0 = 2 → s.gives .bootRom s) ∧
    (s.pins.cold = false → s.rd F.FRV_STATUS_BOOT 0 = 0 ∨ s.rd F.FRV_STATUS_BOOT 0 = 3 →
      (∀ b, List.find? s.codeOk s.candidates = some b → s.gives .bootRom (s.bootSlot b (s.rd F.FRV_STATUS_BOOT 0 = 0)).settle) ∧
      ((∀ b ∈ s.candidates, s.codeOk b = false) → s.gives .bootRom (s.wrs 0 0 [(F.FRV_STATUS_BOOT, 2), (F.FRV_STATUS_FUSESVN, s.frv.fuses)]))) ∧
    (∀ b ∈ s.candidates, s.headerOk b = true ∧ b < 2) ∧
    (∀ b, s.headerOk b = true → s.frv.fuses ≤ s.imgSvn b ∧ s.flashNat (b * 0x800000) 4 = 0x4656524E) ∧
    (s.headerOk 0 = true → s.headerOk 1 = true → s.candidates = if s.imgSeq 0 < s.imgSeq 1 then [1, 0] else [0, 1]) ∧
    (∀ b, b < 2 → s.imgSvn b < 128 → s.imgSeq b < 2 ^ 32 → (s.bootSlot b false).rd F.FRV_STATUS_BOOT 0 = 1 ∧ (s.bootSlot b false).rd F.FRV_STATUS_SLOT 0 = b ∧
      (s.bootSlot b false).rd F.FRV_STATUS_SVN 0 = s.imgSvn b ∧ (s.bootSlot b false).rd F.FRV_STATUS_SEQ 0 = s.imgSeq b ∧ (s.bootSlot b false).mem = s.mem ∧
      (s.bootSlot b false).frv.flash = s.frv.flash) ∧
    (s.answers false = false → s.gives .onlineRetry s) ∧
    (s.answers false = true → s.gives .onlineRetry (s.frv.retry.foldl (fun s u => s.tryOnline u) s).fenAuto.settle)) ∧
  ((∀ (k : Fin 4) (s : State), (s.answers false = false → s.gives (.moduleInterrupt k) s) ∧ (s.answers false = true → ∃ u, exec (.moduleInterrupt k) s = .next u ∧
    u = { s with out := s.out ++ [.other "MODULE_READ" [k.val, 0], .other "MODULE_READ" [k.val, 1], .other "MODULE_READ" [k.val, 2], .other "MODULE_READ" [k.val, 3]] })) ∧
  (∀ (s : State), (s.answers true = false → s.gives .smbusClockLowTimeout s) ∧
    (s.answers true = true → s.gives .smbusClockLowTimeout { s with out := s.out ++ [.other "SMBUS_RESET" []] })) ∧
  (∀ tms tdi (s : State), (∃ u, exec (.boundaryScan tms tdi true) s = .next u ∧ u.pins = { s.pins with tap := { s.pins.tap with st := .reset, insn := .idcode } } ∧
      u.regs = s.regs ∧ u.mem = s.mem ∧ u.tiles = s.tiles ∧ u.out = s.out) ∧
    (∃ u, exec (.boundaryScan tms tdi false) s = .next u ∧ u.pins.tap.st = s.pins.tap.st.next tms ∧ u.regs = s.regs ∧ u.mem = s.mem ∧ u.tiles = s.tiles ∧
      (u.pins.tap.st = .reset → u.pins.tap.insn = .idcode) ∧
      (s.pins.tap.st = .shDr → u.pins.tap.sh = s.pins.tap.sh / 2 + (if tdi then 2 ^ (s.pins.tap.insn.len - 1) else 0)) ∧
      (s.pins.tap.st = .shDr → .other "TDO" [s.pins.tap.sh % 2] ∈ u.out) ∧
      (s.pins.tap.st = .capDr → s.pins.tap.insn = .idcode → u.pins.tap.sh = 0x1B409A5F) ∧ (s.pins.tap.st = .capDr → s.pins.tap.insn = .bypass → u.pins.tap.sh = 0))) ∧
  (∀ x : TapSt, ((((x.next true).next true).next true).next true).next true = .reset) ∧ TapInsn.len .bypass = 1 ∧ TapInsn.len .idcode = 32)

/-- Resets (R456 to R459): a cold reset gives every block its reset value and leaves host memory, the flash and the fuses; its end samples the straps; a warm reset ends what the functions do,
resets the tiles and gives every function and its rings their reset values; a tile reset waits until its operations retire, or abandons them after 1 ms.
That memory reads 0 after a cold reset, and that a tile reset clears the TPC's counters and CMDREJ, are the model's choices (log entries 3 and 46). -/
def Obligations.ResetResult : Prop :=
  (∀ (s : State), ∃ u, exec .coldReset s = .next u ∧ u.regs = [] ∧ (∀ t, u.tile t = .reset) ∧ u.mem = [] ∧ u.fns = [] ∧ u.ports = [] ∧ u.log = [] ∧ u.ns = 0 ∧ u.frac = 0 ∧
    u.hostMem = s.hostMem ∧ u.frv.flash = s.frv.flash ∧ u.frv.fuses = s.frv.fuses ∧ u.pins.cold = true ∧ u.pins.perst = s.pins.perst) ∧
  (∀ (st : BitVec 3) (s : State), (s.pins.cold = false → s.gives (.coldResetEnd st) s) ∧
    (s.pins.cold = true → s.gives (.coldResetEnd st) (({ s with pins := { s.pins with cold := false, straps := st.toNat } } : State).wr F.FRV_ADDR_SMBADDR 0 (0x4E + st.toNat % 2))) ∧
    s.gives .perstLRelease (({ s with pins := { s.pins with perst := false } } : State).ungate 4)) ∧
  (∀ perst (s : State), let s1 : State := { s with pins := { s.pins with perst := s.pins.perst || perst } }
    (s.pins.cold = true → s.gives (.warmReset perst) s1) ∧
    (s.pins.cold = false → s.gives (.warmReset perst) s1.warm.settle ∧ (∀ f, f < 32 → (s1.warm).fn f = .reset) ∧
      (∀ f r, f < 32 → r < 64 → s1.warm.rState f r = 0))) ∧
  (∀ (t : Fin 8) (s : State), (s.resetAwake t = false → s.gives (.tileReset t) s ∧ s.gives (.tileResetDrainTimeout t) s) ∧
    (s.resetAwake t = true → ((s.tile t).ops ≠ [] → s.gives (.tileReset t) s) ∧
      ((s.tile t).ops = [] → (∀ d ∈ (s.tile t).tdm, ∃ k, d.owner = .ck k) →
        s.gives (.tileReset t) ((s.tellMembers .notice [1, t.val]).startFence (.tile s.rank t.val) (.reset t.val))) ∧
      ((s.tile t).ops = [] → (s.tile t).tdm = [] → s.gives (.tileResetDrainTimeout t) s) ∧
      ((∃ f ∈ s.flt.fences, f.party = .tile s.rank t.val) → s.gives (.tileResetDrainTimeout t) s) ∧
      ((s.tile t).ops ≠ [] → (∀ f ∈ s.flt.fences, f.party ≠ .tile s.rank t.val) → s.gives (.tileResetDrainTimeout t) ((s.abandonAll t).resetFence t)))) ∧
  (∀ (s : State) (t : Fin 8), (s.tileFresh t).tile t = .reset ∧ (s.tileFresh t).mem = s.mem ∧
    (s.tileFresh t).rd F.TCC_SVC_VEC_VEC t.val = s.rd F.TCC_SVC_VEC_VEC t.val ∧ (s.tileFresh t).rd F.TMU_ROOT_PA t.val = s.rd F.TMU_ROOT_PA t.val ∧
    (∀ c, c < 512 → (s.tileFresh t).rd F.LEP_CHAN_CRED_STATE t.val c = 0) ∧ (∀ v, v ≠ t → (s.tileFresh t).tile v = s.tile v) ∧
    (s.tileFresh t).flag F.TPC_STATUS_CMDREJ t.val = false ∧ (s.tileFresh t).rd F.TPC_CNT_WAKE_COUNT t.val = 0 ∧
    (s.tileFresh t).rd F.TPC_CTL_MAXDEPTH t.val = s.rd F.TPC_CTL_MAXDEPTH t.val)

/-! ### The queue, the clocks, reset, and the whole machine -/

/-- A step takes the command at the front of the queue and runs it with the queue's rest; with no command waiting the clocks tick (log entry 2). -/
def Obligations.StepRunsFrontCommand : Prop :=
  (∀ c (s : State), step { s with pending := c :: s.pending } = exec c s) ∧ (∀ c rest (s : State), s.pending = c :: rest → step s = exec c { s with pending := rest }) ∧
    (∀ (s : State), s.pending = [] → step s = .next s.tick)

/-- Every command answers a next state, in every state, and leaves the queue as it is; so every step does. -/
def Obligations.EveryCommandAnswers : Prop :=
  (∀ c (s : State), ∃ u, exec c s = .next u ∧ u.pending = s.pending) ∧ (∀ (s : State), s.stepSafe)

/-- A tick (R350, R357, R361, log entry 2): the count rises by INC, and the servo's phase term counts down; REF10M_OUT follows the count, its edges at least 40 ns apart; device memory,
rings, ports and the queue do not change, and host memory only by a byte that relaxed order held back; nothing runs in a cold reset. -/
def Obligations.TickResult : Prop :=
  ∀ (s : State), s.pending = [] → (s.pins.cold = true → step s = .next s) ∧
    (s.pins.cold = false → ∃ u, step s = .next u ∧ u.ns * 2 ^ 32 + u.frac = (s.count96 + s.rd F.TBU_INC_INC 0) % 2 ^ 96 ∧ u.frac < 2 ^ 32 ∧ u.tbu.left = s.tbu.left - 1 ∧
      (s.tbu.left ≠ 1 → u.rd F.TBU_INC_INC 0 = s.rd F.TBU_INC_INC 0 ∧ u.tbu = { s.tbu with left := s.tbu.left - 1 }) ∧
      u.mem = s.mem ∧ u.fns = s.fns ∧ u.ports = s.ports ∧ u.net = s.net ∧ u.pending = [] ∧
      (s.relaxed = [] → u.hostMem = s.hostMem ∧ u.relaxed = [] ∧ u.freeCtr = s.freeCtr) ∧
      (s.relaxed ≠ [] → ∃ p ∈ s.relaxed, u.hostMem = s.hostMem.set 0 p.1 p.2 ∧ u.relaxed.length + 1 = s.relaxed.length) ∧
      (let v := s.countTick
       let x := v.refTime
       (s.flag F.TBU_REF10M_CFG_EN 0 = false → u.pins.ref10m = false) ∧
       (s.flag F.TBU_REF10M_CFG_EN 0 = true → 39 ≤ s.pins.refAge → 40 * 2 ^ 32 ≤ 50 * 2 ^ 32 - x % (50 * 2 ^ 32) → u.pins.ref10m = decide (x < 50 * 2 ^ 32)) ∧
       (s.flag F.TBU_REF10M_CFG_EN 0 = true → s.pins.refAge < 39 → u.pins.ref10m = s.pins.ref10m) ∧
       u.pins = { s.pins with ref10m := u.pins.ref10m, refAge := if u.pins.ref10m = s.pins.ref10m then min 40 (s.pins.refAge + 1) else 0 } ∧
       u.out = if u.pins.ref10m = s.pins.ref10m then s.out else s.out ++ [.other "REF10M_OUT" [u.pins.ref10m.toNat]]) ∧
      (∀ t h, u.thr t h = s.thr t h) ∧ (∀ t, s.rd F.TPC_STATUS_STATE t.val ≠ 0 → u.tile t = s.tile t) ∧
      (∀ t : Fin 8, u.rd F.TPC_CNT_RUN_US_COUNT t.val = if u.ns / 1000 ≠ s.ns / 1000 ∧ s.rd F.TPC_STATUS_STATE t.val = 0 then
        min (s.rd F.TPC_CNT_RUN_US_COUNT t.val + 1) (2 ^ F.TPC_CNT_RUN_US_COUNT.w - 1) else s.rd F.TPC_CNT_RUN_US_COUNT t.val))

/-- What the spec says of a ZX4 right after a cold reset (R2, R354, R368, R404, R409, R457): every tile is Off, every stack and port is OFF, every unit reads OFF, Fenreeve is in its ROM, the device is a
Fen of one that is its own Tidemaster with the nominal increment, no ring and no partition is enabled, the log is empty, and CHIP_REV reads 0xB0.
Registers the spec gives no reset value, the general registers among them, are 0 by the model's choice (log entry 4). -/
def Obligations.ResetValues : Prop :=
  let s := State.reset
  s.rd F.HIU_CHIP_REV_REV 0 = 0xB0 ∧ (∀ t, t < 8 → s.rd F.TPC_STATUS_STATE t = 4) ∧ (∀ k, k < 8 → s.rd F.HMC_STATUS_STATE k = 0) ∧ (∀ p, p < 16 → s.pState p = 0 ∧ s.flag F.CWP_CTL_EN p = false) ∧
    (∀ u, u < 40 → s.usr u = 0) ∧ s.rd F.FRV_STATUS_BOOT 0 = 0 ∧ s.fenState = 0 ∧ s.rank = 0 ∧ s.rd F.FEN_STATUS_SIZE 0 = 1 ∧ s.rd F.FEN_MEMBERS_MASK 0 = 1 ∧
    s.flag F.TBU_STATUS_MASTER 0 = true ∧ s.rd F.TBU_STATUS_SERVO 0 = 0 ∧ s.rd F.TBU_INC_INC 0 = 2 ^ 32 ∧ s.count96 = 0 ∧ (∀ f r, f < 32 → r < 64 → s.rState f r = 0) ∧
    (∀ f, 0 < f → f < 32 → s.partOn f = false) ∧ s.log = [] ∧ s.flt.fences = [] ∧ s.rd F.FLT_FAILMAP_UNITS 0 = 0 ∧ s.flag F.FLT_STATUS_FENSTOP 0 = false ∧
    s.rd F.PCM_PLIMIT_WATTS 0 = 820 ∧ s.rd F.PCM_TLIMIT_DEGC 0 = 100 ∧ s.rd F.FLT_CTL_HB_MISS 0 = 10 ∧ s.pending = [] ∧
    (∀ (t : Fin 8) (h : Fin 4) j, (s.thr t h).st = .idle ∧ (s.thr t h).getG 0 = 0 ∧ (s.tile t).ops = [] ∧ ((s.tile t).ls.getD j 0) = 0)

/-- The state after reset has its memories in canonical form.
That a byte nothing has written reads 0, and so is not listed, is the model's choice (log entry 3). -/
def Obligations.ResetMemoryCanonical : Prop := State.reset.memWf = true

/-- Every step keeps device memory and host memory in canonical form: addresses rise strictly, and no listed byte is zero.
That a byte nothing has written reads 0, and so is not listed, is the model's choice (log entry 3). -/
def Obligations.MemoryStaysCanonical : Prop := ∀ (s u : State), s.memWf = true → step s = .next u → u.memWf = true

/-- Reading and writing memory (R3): a byte reads as the last one written there, and a write leaves every other byte alone; a number is stored low byte first.
That a byte nothing has written reads 0 is the model's choice (log entry 3). -/
def Obligations.MemoryReadsWhatWasWritten : Prop :=
  (∀ (m : SMap Byte) a b k, (m.set 0 a b).getD k 0 = if k = a then b else m.getD k 0) ∧
  (∀ (s : State) f pa bs, (∀ i, i < bs.length → (s.region (pa + i)).isDevice = true ∧ s.localise (pa + i) = s.localise pa + i) → (∀ k, (s.putBytes f pa bs).mem.getD k 0 =
    if s.localise pa ≤ k ∧ k < s.localise pa + bs.length then bs[k - s.localise pa]?.getD 0 else s.mem.getD k 0) ∧ (s.putBytes f pa bs).hostMem = s.hostMem ∧
      (s.putBytes f pa bs).regs = s.regs ∧ (s.putBytes f pa bs).tiles = s.tiles) ∧
  (∀ n v i, i < n → (leBytes n v)[i]? = some (BitVec.ofNat 8 (v / 256 ^ i))) ∧ (∀ n v, leNat (leBytes n v) = v % 256 ^ n)

/-- The words of a Psirra-T instruction (Figure 7-2, Tables 7-6, 7-8 and 7-9): each instruction's word gives back its operands and its operation, at every value of every field, and no two
instructions share a word. -/
def Obligations.TensorWordRoundTrip : Prop :=
  (∀ p ∈ tagged ++ untagged, ∀ a : TArgs, tWord p.2 a < 2 ^ 128 ∧ tArgs (tWord p.2 a) = a ∧ bits (tWord p.2 a) 0 3 = 7 ∧
    topOf (bits (tWord p.2 a) 3 3) (bits (tWord p.2 a) 6 5) = some p.2) ∧
  (∀ p ∈ tagged ++ untagged, ∀ q ∈ tagged ++ untagged, ∀ a b : TArgs, tWord p.2 a = tWord q.2 b → p.2 = q.2 ∧ a = b)

/-- A Lode header (Table 10-2): a header whose fields fit packs into 32 bytes and comes apart as it was, and a 32-byte header whose reserved bits are zero packs again to the same bytes. -/
def Obligations.LodeHeaderRoundTrip : Prop :=
  (∀ h : Hdr, h.handler < 1024 → h.kind < 8 → h.ln < 8192 → h.stile < 8 → h.srank < 64 → h.chan < 512 → h.group < 32 → h.dq < 256 → h.dtile < 8 → h.drank < 64 →
    h.crank < 256 → h.seq < 2 ^ 32 → h.time < 2 ^ 64 → h.offset < 2 ^ 32 → h.respq < 256 → h.qcause < 16 → h.pack < 2 ^ 256 ∧ Hdr.of h.pack = h) ∧
  (∀ n, n < 2 ^ 256 → bits n 15 1 = 0 → bits n 29 3 = 0 → bits n 55 9 = 0 → bits n 89 7 = 0 → bits n 237 19 = 0 → (Hdr.of n).pack = n)
end

