-- ==== Sys2Proof/Laws/Frame.lean ====
section
/-! SUPPORT. Laws of the little-endian bytes and of a flit's word: what a port sends passes the receiver's CRC and reads as the fields it was
built from. -/
namespace Sys2Proof.Machine

@[simp] theorem leBytes_length (n v : Nat) : (leBytes n v).length = n := by
  induction n generalizing v with
  | zero => rfl
  | succ n ih => simp [leBytes, ih]

theorem leNat_lt (l : List Byte) : leNat l < 256 ^ l.length := by
  induction l with
  | nil => simp [leNat]
  | cons b l ih => have := b.isLt; simp only [leNat, List.length_cons, Nat.pow_succ]; omega

/-- Bytes of a number that begins with those of a list are that list. -/
theorem leBytes_leNat_add (l : List Byte) (v : Nat) : leBytes l.length (leNat l + 256 ^ l.length * v) = l := by
  induction l with
  | nil => rfl
  | cons b l ih =>
    have hb := b.isLt
    simp only [leNat, List.length_cons, leBytes, Nat.pow_succ]
    have e : (b.toNat + 256 * leNat l + 256 ^ l.length * 256 * v) = b.toNat + 256 * (leNat l + 256 ^ l.length * v) := by ring
    rw [e]
    congr 1
    · apply BitVec.eq_of_toNat_eq; simp only [BitVec.toNat_ofNat]; omega
    · rw [show (b.toNat + 256 * (leNat l + 256 ^ l.length * v)) / 256 = leNat l + 256 ^ l.length * v by omega]; exact ih

theorem leNat_append (a b : List Byte) : leNat (a ++ b) = leNat a + 256 ^ a.length * leNat b := by
  induction a with
  | nil => simp [leNat]
  | cons x a ih => simp only [List.cons_append, leNat, ih, List.length_cons, Nat.pow_succ]; ring

theorem leNat_leBytes (n v : Nat) : leNat (leBytes n v) = v % 256 ^ n := by
  induction n generalizing v with
  | zero => simp [leBytes, leNat, Nat.mod_one]
  | succ n ih => rw [leBytes, leNat, ih, BitVec.toNat_ofNat, pow_succ' 256 n, Nat.mod_mul]

theorem bits_mod (n lo w k : Nat) (h : lo + w ≤ k) : bits (n % 2 ^ k) lo w = bits n lo w := by
  apply Nat.eq_of_testBit_eq
  intro i
  simp only [bits, Nat.testBit_mod_two_pow, Nat.testBit_shiftRight]
  by_cases hi : i < w
  · simp [hi, show lo + i < k by omega]
  · simp [hi]

theorem crcBits_lt (k c : Nat) (h : c < 2 ^ 32) : crcBits k c < 2 ^ 32 := by
  induction k generalizing c with
  | zero => exact h
  | succ k ih =>
    simp only [crcBits]
    refine ih _ ?_
    split
    · exact Nat.xor_lt_two_pow (by omega) (by decide)
    · omega

theorem crc32_lt (bs : List Nat) : crc32 bs < 2 ^ 32 := by
  have aux : ∀ (l : List Nat) (c : Nat), c < 2 ^ 32 → l.foldl (fun c b => crcBits 8 (c ^^^ (b % 256))) c < 2 ^ 32 := by
    intro l
    induction l with
    | nil => exact fun c h => h
    | cons b l ih => exact fun c h => ih _ (crcBits_lt _ _ (Nat.xor_lt_two_pow h (by omega)))
  exact Nat.xor_lt_two_pow (aux _ _ (by decide)) (by decide)

/-- A flit's bytes 12 to 251. -/
def Flit.pad (f : Flit) : List Byte := (f.payload ++ List.replicate (240 - f.payload.length) 0#8).take 240

theorem Flit.pad_length (f : Flit) : f.pad.length = 240 := by simp [Flit.pad]; omega

theorem Flit.body_length (f : Flit) : f.body.length = 252 := by
  have := f.pad_length; simp only [Flit.pad] at this; simp only [Flit.body, List.length_append, leBytes_length, this]

theorem Flit.word_toNat (f : Flit) : f.word.toNat = leNat f.body + 256 ^ 252 * crcOf f.body := by
  have h1 := leNat_lt f.body
  have h2 : crcOf f.body < 2 ^ 32 := crc32_lt _
  rw [f.body_length] at h1
  have e : (256 : Nat) ^ 252 = 2 ^ 2016 := by rw [show (256 : Nat) = 2 ^ 8 from rfl, ← pow_mul]
  rw [e] at h1 ⊢
  rw [Flit.word, BitVec.toNat_ofNat, Nat.mul_comm (crcOf f.body), Nat.mod_eq_of_lt]
  calc leNat f.body + 2 ^ 2016 * crcOf f.body < 2 ^ 2016 * (crcOf f.body + 1) := by rw [Nat.mul_add]; omega
    _ ≤ 2 ^ 2016 * 2 ^ 32 := Nat.mul_le_mul_left _ h2
    _ = 2 ^ 2048 := by rw [← pow_add]

/-- The receiver's CRC of a flit that a port sends matches. -/
theorem flitCrc_word (f : Flit) : flitCrc f.word = true := by
  have h1 := leNat_lt f.body
  rw [f.body_length] at h1
  have e : (2 : Nat) ^ 2016 = 256 ^ 252 := by rw [show (256 : Nat) = 2 ^ 8 from rfl, ← pow_mul]
  have hb : leBytes 252 (leNat f.body + 256 ^ 252 * crcOf f.body) = f.body := by
    have := leBytes_leNat_add f.body (crcOf f.body)
    rwa [f.body_length] at this
  have hd : (leNat f.body + 256 ^ 252 * crcOf f.body) / 256 ^ 252 = crcOf f.body := by
    rw [Nat.add_mul_div_left _ _ (Nat.pos_of_ne_zero (by positivity)), Nat.div_eq_of_lt h1, Nat.zero_add]
  rw [flitCrc, Flit.word_toNat, hb, e, hd]
  exact decide_eq_true rfl

/-- Bits 0 to 95 of a flit's word are its header's. -/
theorem Flit.word_bits (f : Flit) (lo w : Nat) (h : lo + w ≤ 96) : bits f.word.toNat lo w = bits f.head lo w := by
  have e : f.word.toNat % 2 ^ 96 = f.head % 2 ^ 96 := by
    have e1 : (2 : Nat) ^ 96 = 256 ^ 12 := by norm_num
    rw [Flit.word_toNat, Flit.body, leNat_append, leBytes_length, leNat_leBytes, e1, show (256 : Nat) ^ 252 = 256 ^ 12 * 256 ^ 240 by rw [← pow_add],
      Nat.mul_assoc, Nat.add_assoc, ← Nat.mul_add, Nat.add_mul_mod_self_left, Nat.mod_mod]
  rw [← bits_mod _ _ _ _ h, e, bits_mod _ _ _ _ h]

/-- A flit's payload, as the receiver takes it. -/
theorem Flit.word_payload (f : Flit) : (Flit.of f.word).payload = f.pad := by
  have e1 : (2 : Nat) ^ 96 = 256 ^ 12 := by norm_num
  have h : f.word.toNat / 256 ^ 12 = leNat f.pad + 256 ^ 240 * crcOf f.body := by
    have hb : leNat f.body = f.head % 256 ^ 12 + 256 ^ 12 * leNat f.pad := by rw [Flit.body, leNat_append, leBytes_length, leNat_leBytes]; rfl
    rw [Flit.word_toNat, hb, show (256 : Nat) ^ 252 = 256 ^ 12 * 256 ^ 240 by rw [← pow_add], Nat.mul_assoc, Nat.add_assoc, ← Nat.mul_add,
      Nat.add_mul_div_left _ _ (by positivity), Nat.div_eq_of_lt (Nat.mod_lt _ (by positivity)), Nat.zero_add]
  have := leBytes_leNat_add f.pad (crcOf f.body)
  rw [f.pad_length] at this
  simp only [Flit.of, e1, h, this]

end Sys2Proof.Machine
end

