-- ==== Sys2Proof/Laws/Map.lean ====
section
/-! SUPPORT. Sparse maps: reading after writing, and the canonical form every operation keeps. -/
namespace Sys2Proof.Machine

variable {β : Type}

/-- Reading the key just put. -/
@[simp] theorem SMap.find_put_same (m : SMap β) (i : Nat) (b : β) : (m.put i b).find? i = some b := by
  induction m with
  | nil => simp [SMap.put, SMap.find?]
  | cons p m ih =>
    obtain ⟨k, v⟩ := p
    simp only [SMap.put]
    split
    · simp [SMap.find?]
    · split
      · simp [SMap.find?]
      · simp_all [SMap.find?]

/-- Reading another key than the one put. -/
theorem SMap.find_put_ne (m : SMap β) {i j : Nat} (b : β) (h : j ≠ i) : (m.put i b).find? j = m.find? j := by
  induction m with
  | nil => simp [SMap.put, SMap.find?, h]
  | cons p m ih =>
    obtain ⟨k, v⟩ := p
    simp only [SMap.put]
    split
    · simp [SMap.find?, h]
    · split
      · subst_vars; simp [SMap.find?, h]
      · simp [SMap.find?, ih]

/-- A key below a bound is listed nowhere above it. -/
theorem SMap.find_none_of_rises {m : SMap β} {b i : Nat} (h : SMap.risesFrom (some b) m = true) (hi : i ≤ b) : m.find? i = none := by
  induction m generalizing b with
  | nil => rfl
  | cons p m ih =>
    obtain ⟨k, v⟩ := p
    simp only [SMap.risesFrom, Bool.and_eq_true, decide_eq_true_eq] at h
    have : i ≠ k := by omega
    simp only [SMap.find?, this, if_false]
    exact ih h.2 (by omega)

/-- A lower bound holds for the smaller. -/
theorem SMap.rises_weaken {m : SMap β} {a b : Nat} (h : SMap.risesFrom (some b) m = true) (hab : a ≤ b) :
    SMap.risesFrom (some a) m = true := by
  cases m with
  | nil => rfl
  | cons p m =>
    obtain ⟨k, v⟩ := p
    simp only [SMap.risesFrom, Bool.and_eq_true, decide_eq_true_eq] at h ⊢
    exact ⟨by omega, h.2⟩

/-- Rising keys above a bound rise without one. -/
theorem SMap.rises_none {m : SMap β} {b : Nat} (h : SMap.risesFrom (some b) m = true) : SMap.risesFrom none m = true := by
  cases m with
  | nil => rfl
  | cons p m =>
    obtain ⟨k, v⟩ := p
    simp only [SMap.risesFrom, Bool.and_eq_true] at h ⊢
    exact h.2

/-- Erasing keeps the keys rising above a bound. -/
theorem SMap.rises_erase {m : SMap β} {b : Nat} (i : Nat) (h : SMap.risesFrom (some b) m = true) :
    SMap.risesFrom (some b) (m.erase i) = true := by
  induction m generalizing b with
  | nil => rfl
  | cons p m ih =>
    obtain ⟨k, v⟩ := p
    simp only [SMap.risesFrom, Bool.and_eq_true, decide_eq_true_eq] at h
    simp only [SMap.erase]
    split
    · exact ih (SMap.rises_weaken h.2 (by omega))
    · simp only [SMap.risesFrom, Bool.and_eq_true, decide_eq_true_eq]
      exact ⟨h.1, ih h.2⟩

/-- Putting a key above the bound keeps the keys rising above it. -/
theorem SMap.rises_put {m : SMap β} {b i : Nat} (v : β) (h : SMap.risesFrom (some b) m = true) (hi : b < i) :
    SMap.risesFrom (some b) (m.put i v) = true := by
  induction m generalizing b with
  | nil => simp [SMap.put, SMap.risesFrom, hi]
  | cons p m ih =>
    obtain ⟨k, w⟩ := p
    simp only [SMap.risesFrom, Bool.and_eq_true, decide_eq_true_eq] at h
    simp only [SMap.put]
    split
    · rename_i hk
      simp only [SMap.risesFrom, Bool.and_eq_true, decide_eq_true_eq]
      exact ⟨hi, hk, h.2⟩
    · split
      · rename_i hk; subst hk
        simp only [SMap.risesFrom, Bool.and_eq_true, decide_eq_true_eq]
        exact ⟨hi, h.2⟩
      · simp only [SMap.risesFrom, Bool.and_eq_true, decide_eq_true_eq]
        exact ⟨h.1, ih h.2 (by omega)⟩

/-- The first bound made explicit. -/
theorem SMap.rises_cons {m : SMap β} {k : Nat} {v : β} :
    SMap.risesFrom none ((k, v) :: m) = true ↔ SMap.risesFrom (some k) m = true := by simp [SMap.risesFrom]

/-- Erasing keeps the keys rising. -/
theorem SMap.rises_erase_none {m : SMap β} (i : Nat) (h : SMap.risesFrom none m = true) : SMap.risesFrom none (m.erase i) = true := by
  induction m with
  | nil => rfl
  | cons p m ih =>
    obtain ⟨k, v⟩ := p
    rw [SMap.rises_cons] at h
    simp only [SMap.erase]
    split
    · exact ih (SMap.rises_none h)
    · rw [SMap.rises_cons]; exact SMap.rises_erase i h

/-- Putting keeps the keys rising. -/
theorem SMap.rises_put_none {m : SMap β} (i : Nat) (v : β) (h : SMap.risesFrom none m = true) :
    SMap.risesFrom none (m.put i v) = true := by
  cases m with
  | nil => rfl
  | cons p m =>
    obtain ⟨k, w⟩ := p
    rw [SMap.rises_cons] at h
    simp only [SMap.put]
    split
    · rename_i hk
      rw [SMap.rises_cons]
      simp only [SMap.risesFrom, Bool.and_eq_true, decide_eq_true_eq]
      exact ⟨hk, h⟩
    · split
      · rename_i hk; subst hk; rw [SMap.rises_cons]; exact h
      · rw [SMap.rises_cons]; exact SMap.rises_put v h (by omega)

/-- What erasing leaves listed was listed. -/
theorem SMap.mem_erase {m : SMap β} {i : Nat} {p : Nat × β} (h : p ∈ m.erase i) : p ∈ m := by
  induction m with
  | nil => exact h
  | cons q m ih =>
    obtain ⟨k, v⟩ := q
    simp only [SMap.erase] at h
    split at h
    · exact List.mem_cons_of_mem _ (ih h)
    · rcases List.mem_cons.1 h with rfl | h
      · exact List.mem_cons_self
      · exact List.mem_cons_of_mem _ (ih h)

/-- What putting lists is the new entry or was listed. -/
theorem SMap.mem_put {m : SMap β} {i : Nat} {b : β} {p : Nat × β} (h : p ∈ m.put i b) : p = (i, b) ∨ p ∈ m := by
  induction m with
  | nil => simpa [SMap.put] using h
  | cons q m ih =>
    obtain ⟨k, v⟩ := q
    simp only [SMap.put] at h
    split at h
    · rcases List.mem_cons.1 h with h | h
      · exact .inl h
      · exact .inr h
    · split at h
      · rcases List.mem_cons.1 h with h | h
        · exact .inl h
        · exact .inr (List.mem_cons_of_mem _ h)
      · rcases List.mem_cons.1 h with rfl | h
        · exact .inr List.mem_cons_self
        · exact (ih h).imp id (List.mem_cons_of_mem _)

variable [DecidableEq β]

/-- The canonical form, taken apart. -/
theorem SMap.wf_iff {d : β} {m : SMap β} : m.wf d = true ↔ SMap.risesFrom none m = true ∧ ∀ p ∈ m, p.2 ≠ d := by
  simp [SMap.wf, List.all_eq_true]

/-- Writing keeps the canonical form. -/
theorem SMap.wf_set {d : β} {m : SMap β} (i : Nat) (b : β) (h : m.wf d = true) : (m.set d i b).wf d = true := by
  rw [SMap.wf_iff] at h ⊢
  unfold SMap.set
  split
  · exact ⟨SMap.rises_erase_none i h.1, fun p hp => h.2 p (SMap.mem_erase hp)⟩
  · rename_i hb
    refine ⟨SMap.rises_put_none i b h.1, fun p hp => ?_⟩
    rcases SMap.mem_put hp with rfl | hp
    · exact hb
    · exact h.2 p hp

omit [DecidableEq β] in
/-- A filter keeps the keys rising above a bound. -/
theorem SMap.rises_filter {m : SMap β} {b : Nat} (q : Nat × β → Bool) (h : SMap.risesFrom (some b) m = true) :
    SMap.risesFrom (some b) (m.filter q) = true := by
  induction m generalizing b with
  | nil => rfl
  | cons p m ih =>
    obtain ⟨k, v⟩ := p
    simp only [SMap.risesFrom, Bool.and_eq_true, decide_eq_true_eq] at h
    by_cases hq : q (k, v) = true
    · rw [List.filter_cons_of_pos hq]
      simp only [SMap.risesFrom, Bool.and_eq_true, decide_eq_true_eq]
      exact ⟨h.1, ih h.2⟩
    · rw [List.filter_cons_of_neg hq]
      exact SMap.rises_weaken (ih h.2) (by omega)

/-- A filter keeps the canonical form. -/
theorem SMap.wf_filter {d : β} {m : SMap β} (q : Nat × β → Bool) (h : m.wf d = true) : SMap.wf d (m.filter q) = true := by
  rw [SMap.wf_iff] at h ⊢
  refine ⟨?_, fun p hp => h.2 p (List.mem_of_mem_filter hp)⟩
  induction m with
  | nil => rfl
  | cons p m ih =>
    obtain ⟨k, v⟩ := p
    have h1 := SMap.rises_cons.1 h.1
    by_cases hq : q (k, v) = true
    · rw [List.filter_cons_of_pos hq, SMap.rises_cons]; exact SMap.rises_filter q h1
    · rw [List.filter_cons_of_neg hq]
      exact ih ⟨SMap.rises_none h1, fun p hp => h.2 p (List.mem_cons_of_mem _ hp)⟩

omit [DecidableEq β] in
/-- Reading the key just erased. -/
@[simp] theorem SMap.find_erase_same (m : SMap β) (i : Nat) : (m.erase i).find? i = none := by
  induction m with
  | nil => rfl
  | cons p m ih =>
    obtain ⟨k, v⟩ := p
    simp only [SMap.erase]
    split
    · exact ih
    · rename_i hk
      simp only [SMap.find?, hk, if_false]
      exact ih

omit [DecidableEq β] in
/-- Reading another key than the one erased. -/
theorem SMap.find_erase_ne (m : SMap β) {i j : Nat} (h : j ≠ i) : (m.erase i).find? j = m.find? j := by
  induction m with
  | nil => rfl
  | cons p m ih =>
    obtain ⟨k, v⟩ := p
    simp only [SMap.erase]
    split
    · subst_vars; simp [SMap.find?, h, ih]
    · simp [SMap.find?, ih]

/-- Reading back what was written. -/
@[simp] theorem SMap.getD_set_same {d : β} (m : SMap β) (i : Nat) (b : β) : (m.set d i b).getD i d = b := by
  unfold SMap.set SMap.getD
  split
  · rename_i hb; rw [SMap.find_erase_same, Option.getD_none]; exact hb.symm
  · simp

/-- Reading another key than the one written. -/
theorem SMap.getD_set_ne {d e : β} (m : SMap β) {i j : Nat} (b : β) (h : j ≠ i) : (m.set d i b).getD j e = m.getD j e := by
  unfold SMap.set SMap.getD
  split
  · rw [SMap.find_erase_ne m h]
  · rw [SMap.find_put_ne m b h]

end Sys2Proof.Machine
end

