-- ==== Sys2Proof/Laws/MemWf.lean ====
section
/-! SUPPORT. What every function leaves of the canonical form of both memories: memory: every operation keeps the canonical form, and the state after reset has it. -/
namespace Sys2Proof.Machine

/-- The canonical form of a state written out. -/
theorem State.mk_memWf (regs tiles fns served seen mem hostMem relaxed poison net mroute comb ck ports rx rem remWait fen ns frac log reports flt tbu pcm frv pins out freeCtr pending) :
    State.memWf (State.mk regs tiles fns served seen mem hostMem relaxed poison net mroute comb ck ports rx rem remWait fen ns frac log reports flt tbu pcm frv pins out freeCtr pending) =
      (Memory.wf mem && Memory.wf hostMem) := rfl

/-- Device memory of a well-kept state. -/
theorem State.wf_mem {s : State} (h : s.memWf = true) : Memory.wf s.mem = true := by
  simp [State.memWf] at h; exact h.1

/-- Host memory of a well-kept state. -/
theorem State.wf_hostMem {s : State} (h : s.memWf = true) : Memory.wf s.hostMem = true := by
  simp [State.memWf] at h; exact h.2

/-- Either of two well-kept states. -/
theorem State.memWf_ite {c : Prop} [Decidable c] {s u : State} (h1 : s.memWf = true) (h2 : u.memWf = true) : (if c then s else u).memWf = true := by
  split <;> assumption

/-- Steps that each keep the form keep it together. -/
theorem State.memWf_foldl {α : Type} {f : State → α → State} {l : List α} {s : State} (hf : ∀ s a, s.memWf = true → (f s a).memWf = true) (h : s.memWf = true) :
    (l.foldl f s).memWf = true := by
  induction l generalizing s with
  | nil => exact h
  | cons a l ih => exact ih (hf s a h)

/-- A state another answers in place of, where it answers one. -/
theorem State.memWf_getD {o : Option State} {d : State} (ho : ∀ w, o = some w → w.memWf = true) (hd : d.memWf = true) :
    (o.getD d).memWf = true := by
  cases o with
  | none => exact hd | some w => exact ho w rfl

/-- What every step of a fold keeps, the fold keeps. -/
theorem foldl_keeps {α β : Type} {P : β → Prop} {f : β → α → β} {l : List α} {b : β} (hf : ∀ b a, P b → P (f b a)) (h : P b) :
    P (l.foldl f b) := by
  induction l generalizing b with
  | nil => exact h
  | cons a l ih => exact ih (hf b a h)
/-- The next state a meaning answers, if it answers one, is well kept. -/
def Out3.memWf (o : Out3) : Prop := ∀ w, o = .next w → w.memWf = true

/-- What an instruction body leaves is well kept. -/
def Act.memWf : Act → Prop
  | .next s | .jump s _ | .wait s _ | .done s => s.memWf = true | .trap _ _ => True

/-- An instruction that goes on. -/
theorem Act.memWf_next {s : State} (h : s.memWf = true) : (Act.next s).memWf := h

/-- An instruction that jumps. -/
theorem Act.memWf_jump {s : State} {pc : Nat} (h : s.memWf = true) : (Act.jump s pc).memWf := h

/-- An instruction that waits. -/
theorem Act.memWf_wait {s : State} {w : Wait} (h : s.memWf = true) : (Act.wait s w).memWf := h

/-- An instruction that retires itself. -/
theorem Act.memWf_done {s : State} (h : s.memWf = true) : (Act.done s).memWf := h

/-- An instruction that traps changes nothing itself. -/
theorem Act.memWf_trap {c i : Nat} : (Act.trap c i).memWf := trivial

/-- Either of two bodies. -/
theorem Act.memWf_ite {c : Prop} [Decidable c] {a b : Act} (h1 : a.memWf) (h2 : b.memWf) : (if c then a else b).memWf := by
  split <;> assumption

/-- What a reach to an address leaves, where it stops there. -/
def Reach.memWf : Reach → Prop
  | .stop a => a.memWf | _ => True

/-- A reach that stops. -/
theorem Reach.memWf_of_stop {r : Reach} {a : Act} (h : r.memWf) (e : r = .stop a) : a.memWf := by subst e; exact h

/-- A reach that stops keeps what its body keeps. -/
theorem Reach.memWf_stop {a : Act} (h : a.memWf) : (Reach.stop a).memWf := h

/-- A reach of the local store. -/
theorem Reach.memWf_store {n : Nat} : (Reach.store n).memWf := trivial

/-- A reach of an address. -/
theorem Reach.memWf_phys {n : Nat} : (Reach.phys n).memWf := trivial

/-- Either of two reaches. -/
theorem Reach.memWf_ite {c : Prop} [Decidable c] {a b : Reach} (h1 : a.memWf) (h2 : b.memWf) : (if c then a else b).memWf := by
  split <;> assumption

/-! ### State.lean -/

theorem State.reset_memWf : State.reset.memWf = true := rfl

/-! ### Ops.lean -/

theorem State.wr_memWf {s f inst v idx} (hs : State.memWf s = true) :
    (State.wr s f inst v idx).memWf = true := by
  unfold State.wr
  try dsimp only
  repeat'
    first
    | with_reducible assumption | (intro) | with_reducible apply State.memWf_ite | with_reducible apply State.memWf_foldl
    | with_reducible apply State.wf_mem | with_reducible apply State.wf_hostMem
    | (simp only [State.mk_memWf, Bool.and_eq_true]; apply And.intro)

theorem State.count_memWf {s f inst n idx} (hs : State.memWf s = true) :
    (State.count s f inst n idx).memWf = true := by
  unfold State.count
  try dsimp only
  repeat' first | with_reducible assumption | (intro) | with_reducible apply State.wr_memWf

theorem State.wrs_memWf {s inst idx l} (hs : State.memWf s = true) :
    (State.wrs s inst idx l).memWf = true := by
  unfold State.wrs
  try dsimp only
  repeat'
    first
    | with_reducible assumption | (intro) | with_reducible apply State.wr_memWf | with_reducible apply State.memWf_ite
    | with_reducible apply State.memWf_foldl

theorem State.setTile_memWf {s t x} (hs : State.memWf s = true) :
    (State.setTile s t x).memWf = true := by
  unfold State.setTile
  try dsimp only
  repeat'
    first
    | with_reducible assumption | (intro) | with_reducible apply State.memWf_ite | with_reducible apply State.memWf_foldl
    | with_reducible apply State.wf_mem | with_reducible apply State.wf_hostMem
    | (simp only [State.mk_memWf, Bool.and_eq_true]; apply And.intro)

theorem State.onTile_memWf {s t f} (hs : State.memWf s = true) :
    (State.onTile s t f).memWf = true := by
  unfold State.onTile
  try dsimp only
  repeat' first | with_reducible assumption | (intro) | with_reducible apply State.setTile_memWf

theorem State.onFn_memWf {s f g} (hs : State.memWf s = true) :
    (State.onFn s f g).memWf = true := by
  unfold State.onFn
  try dsimp only
  repeat'
    first
    | with_reducible assumption | (intro) | with_reducible apply State.memWf_ite | with_reducible apply State.memWf_foldl
    | with_reducible apply State.wf_mem | with_reducible apply State.wf_hostMem
    | (simp only [State.mk_memWf, Bool.and_eq_true]; apply And.intro)

theorem State.emit_memWf {s o} (hs : State.memWf s = true) :
    (State.emit s o).memWf = true := by
  unfold State.emit
  try dsimp only
  repeat'
    first
    | with_reducible assumption | (intro) | with_reducible apply State.memWf_ite | with_reducible apply State.memWf_foldl
    | with_reducible apply State.wf_mem | with_reducible apply State.wf_hostMem
    | (simp only [State.mk_memWf, Bool.and_eq_true]; apply And.intro)

theorem State.drawn_memWf {s} (hs : State.memWf s = true) :
    (State.drawn s).memWf = true := by
  unfold State.drawn
  try dsimp only
  repeat'
    first
    | with_reducible assumption | (intro) | with_reducible apply State.memWf_ite | with_reducible apply State.memWf_foldl
    | with_reducible apply State.wf_mem | with_reducible apply State.wf_hostMem
    | (simp only [State.mk_memWf, Bool.and_eq_true]; apply And.intro)

theorem ok_memWf {s u} (hu : State.memWf u = true) : Out3.memWf (ok s u) := by
  intro w hw
  cases hw
  exact hu

/-! ### Memory.lean -/

theorem State.hostPut_memWf {s f n a b} (hs : State.memWf s = true) : (State.hostPut s f n a b).memWf = true := by
  unfold State.hostPut
  split <;> rw [State.mk_memWf, Bool.and_eq_true]
  · exact ⟨State.wf_mem hs, State.wf_hostMem hs⟩
  · exact ⟨State.wf_mem hs, SMap.wf_set _ _ (State.wf_hostMem hs)⟩

theorem State.relaxLand_memWf {s k} (hs : State.memWf s = true) : (State.relaxLand s k).memWf = true := by
  unfold State.relaxLand
  split
  · exact hs
  · rw [State.mk_memWf, Bool.and_eq_true]
    exact ⟨State.wf_mem hs, SMap.wf_set _ _ (State.wf_hostMem hs)⟩

theorem State.relaxedOut_memWf {s} (hs : State.memWf s = true) :
    (State.relaxedOut s).memWf = true := by
  unfold State.relaxedOut
  try dsimp only
  repeat'
    first
    | with_reducible assumption | (intro) | with_reducible apply State.drawn_memWf | with_reducible apply State.relaxLand_memWf
    | with_reducible apply State.memWf_ite | with_reducible apply State.memWf_foldl

theorem State.putByte_memWf {s f pa b} (hs : State.memWf s = true) :
    (State.putByte s f pa b).memWf = true := by
  unfold State.putByte
  split
  · split
    · exact State.hostPut_memWf hs
    · exact hs
  · rw [State.mk_memWf, Bool.and_eq_true]
    exact ⟨SMap.wf_set _ _ (State.wf_mem hs), State.wf_hostMem hs⟩

theorem State.putBytes_memWf {s f pa l} (hs : State.memWf s = true) :
    (State.putBytes s f pa l).memWf = true := by
  induction l generalizing s pa with
  | nil => unfold State.putBytes; exact hs
  | cons b l ih => unfold State.putBytes; exact ih (State.putByte_memWf hs)

theorem State.clearPoison_memWf {s pa n} (hs : State.memWf s = true) :
    (State.clearPoison s pa n).memWf = true := by
  unfold State.clearPoison
  try dsimp only
  repeat'
    first
    | with_reducible assumption | (intro) | with_reducible apply State.memWf_ite | with_reducible apply State.memWf_foldl
    | with_reducible apply State.wf_mem | with_reducible apply State.wf_hostMem
    | (simp only [State.mk_memWf, Bool.and_eq_true]; apply And.intro)

theorem State.markPoison_memWf {s pa} (hs : State.memWf s = true) :
    (State.markPoison s pa).memWf = true := by
  unfold State.markPoison
  try dsimp only
  repeat'
    first
    | with_reducible assumption | (intro) | with_reducible apply State.memWf_ite | with_reducible apply State.memWf_foldl
    | with_reducible apply State.wf_mem | with_reducible apply State.wf_hostMem
    | (simp only [State.mk_memWf, Bool.and_eq_true]; apply And.intro)

theorem State.copyPoison_memWf {s src dst n} (hs : State.memWf s = true) :
    (State.copyPoison s src dst n).memWf = true := by
  unfold State.copyPoison
  try dsimp only
  repeat'
    first
    | with_reducible assumption | (intro) | with_reducible apply State.memWf_ite | with_reducible apply State.memWf_foldl
    | with_reducible apply State.wf_mem | with_reducible apply State.wf_hostMem
    | (simp only [State.mk_memWf, Bool.and_eq_true]; apply And.intro)

theorem State.tookBytes_memWf {s pa n} (hs : State.memWf s = true) :
    (State.tookBytes s pa n).memWf = true := by
  unfold State.tookBytes
  try dsimp only
  repeat'
    first
    | with_reducible assumption | (intro) | with_reducible apply State.count_memWf | with_reducible apply State.memWf_ite
    | with_reducible apply State.memWf_foldl | with_reducible apply State.wf_mem | with_reducible apply State.wf_hostMem | split

theorem State.gaveBytes_memWf {s pa n} (hs : State.memWf s = true) :
    (State.gaveBytes s pa n).memWf = true := by
  unfold State.gaveBytes
  try dsimp only
  repeat'
    first
    | with_reducible assumption | (intro) | with_reducible apply State.count_memWf | with_reducible apply State.memWf_ite
    | with_reducible apply State.memWf_foldl | with_reducible apply State.wf_mem | with_reducible apply State.wf_hostMem | split

theorem State.wakeTile_memWf {s t full} (hs : State.memWf s = true) :
    (State.wakeTile s t full).memWf = true := by
  unfold State.wakeTile
  try dsimp only
  repeat'
    first
    | with_reducible assumption | (intro) | with_reducible apply State.onTile_memWf | with_reducible apply State.wr_memWf
    | with_reducible apply State.memWf_ite

theorem State.ungate_memWf {s i} (hs : State.memWf s = true) :
    (State.ungate s i).memWf = true := by
  unfold State.ungate
  try dsimp only
  repeat' first | with_reducible assumption | (intro) | with_reducible apply State.wr_memWf

theorem State.stackUp_memWf {s k} (hs : State.memWf s = true) :
    (State.stackUp s k).memWf = true := by
  unfold State.stackUp
  try dsimp only
  repeat'
    first
    | with_reducible assumption | (intro) | with_reducible apply State.ungate_memWf | with_reducible apply State.wr_memWf

theorem State.raiseWake_memWf {s w_} (hs : State.memWf s = true) :
    (State.raiseWake s w_).memWf = true := by
  unfold State.raiseWake
  try dsimp only
  repeat'
    first
    | with_reducible assumption | (intro) | with_reducible apply State.wakeTile_memWf | with_reducible apply State.stackUp_memWf
    | with_reducible apply State.ungate_memWf | with_reducible apply State.memWf_ite | with_reducible apply State.memWf_foldl
    | with_reducible apply State.wf_mem | with_reducible apply State.wf_hostMem | split

theorem State.wakeFor_memWf {s t pa} (hs : State.memWf s = true) :
    (State.wakeFor s t pa).memWf = true := by
  unfold State.wakeFor
  try dsimp only
  repeat'
    first
    | with_reducible assumption | (intro) | with_reducible apply State.raiseWake_memWf | with_reducible apply State.memWf_ite
    | with_reducible apply State.memWf_foldl

theorem State.atsAsk_memWf {s f pa} (hs : State.memWf s = true) :
    (State.atsAsk s f pa).memWf = true := by
  unfold State.atsAsk
  try dsimp only
  repeat'
    first
    | with_reducible assumption | (intro) | with_reducible apply State.emit_memWf | with_reducible apply State.onFn_memWf
    | with_reducible apply State.memWf_ite | with_reducible apply State.memWf_foldl | with_reducible apply State.wf_mem
    | with_reducible apply State.wf_hostMem | split

theorem State.atsAsks_memWf {s f l} (hs : State.memWf s = true) :
    (State.atsAsks s f l).memWf = true := by
  unfold State.atsAsks
  try dsimp only
  repeat'
    first
    | with_reducible assumption | (intro) | with_reducible apply State.atsAsk_memWf | with_reducible apply State.memWf_ite
    | with_reducible apply State.memWf_foldl

theorem State.blockTo_memWf {s j k st} (hs : State.memWf s = true) :
    (State.blockTo s j k st).memWf = true := by
  unfold State.blockTo
  try dsimp only
  repeat'
    first
    | with_reducible assumption | (intro) | with_reducible apply State.putByte_memWf | with_reducible apply State.wakeFor_memWf
    | with_reducible apply State.memWf_ite | with_reducible apply State.memWf_foldl | with_reducible apply State.wf_mem
    | with_reducible apply State.wf_hostMem | (simp only [State.mk_memWf, Bool.and_eq_true]; apply And.intro)

theorem State.shadowCopy_memWf {s block base slot} (hs : State.memWf s = true) :
    (State.shadowCopy s block base slot).memWf = true := by
  unfold State.shadowCopy
  try dsimp only
  repeat'
    first
    | with_reducible assumption | (intro) | with_reducible apply State.blockTo_memWf | with_reducible apply State.copyPoison_memWf
    | with_reducible apply State.putBytes_memWf | with_reducible apply State.wakeFor_memWf | with_reducible apply State.memWf_ite
    | with_reducible apply State.memWf_foldl | with_reducible apply State.wf_mem | with_reducible apply State.wf_hostMem | split

theorem State.onPort_memWf {s p f} (hs : State.memWf s = true) :
    (State.onPort s p f).memWf = true := by
  unfold State.onPort
  try dsimp only
  repeat'
    first
    | with_reducible assumption | (intro) | with_reducible apply State.memWf_ite | with_reducible apply State.memWf_foldl
    | with_reducible apply State.wf_mem | with_reducible apply State.wf_hostMem
    | (simp only [State.mk_memWf, Bool.and_eq_true]; apply And.intro)

theorem State.sendPkt_memWf {s k vc d poison} (hs : State.memWf s = true) :
    (State.sendPkt s k vc d poison).memWf = true := by
  unfold State.sendPkt
  try dsimp only
  repeat'
    first
    | with_reducible assumption | (intro) | with_reducible apply State.onPort_memWf | with_reducible apply State.memWf_ite
    | with_reducible apply State.memWf_foldl | with_reducible apply State.wf_mem | with_reducible apply State.wf_hostMem | split

theorem State.tellMembers_memWf {s kind data} (hs : State.memWf s = true) :
    (State.tellMembers s kind data).memWf = true := by
  unfold State.tellMembers
  try dsimp only
  repeat'
    first
    | with_reducible assumption | (intro) | with_reducible apply State.sendPkt_memWf | with_reducible apply State.memWf_ite
    | with_reducible apply State.memWf_foldl

theorem State.request_memWf {s r} (hs : State.memWf s = true) :
    (State.request s r).memWf = true := by
  unfold State.request
  try dsimp only
  repeat'
    first
    | with_reducible assumption | (intro) | with_reducible apply State.sendPkt_memWf | with_reducible apply State.count_memWf
    | with_reducible apply State.memWf_ite | with_reducible apply State.memWf_foldl | with_reducible apply State.wf_mem
    | with_reducible apply State.wf_hostMem | (simp only [State.mk_memWf, Bool.and_eq_true]; apply And.intro) | split

theorem State.remoteWrite_memWf {s rank bulk who k off l} (hs : State.memWf s = true) :
    (State.remoteWrite s rank bulk who k off l).memWf = true := by
  induction k generalizing s off l with
  | zero => unfold State.remoteWrite; exact hs
  | succ k ih =>
    cases l with
    | nil => unfold State.remoteWrite; exact hs
    | cons b bs => unfold State.remoteWrite; exact ih (State.request_memWf hs)

theorem State.perform_memWf {s f pa u} (hs : State.memWf s = true) :
    (State.perform s f pa u).memWf = true := by
  unfold State.perform
  try dsimp only
  repeat'
    first
    | with_reducible assumption | (intro) | with_reducible apply State.gaveBytes_memWf | with_reducible apply State.clearPoison_memWf
    | with_reducible apply State.putBytes_memWf

theorem State.update_memWf {s f pa u who} (hs : State.memWf s = true) :
    (State.update s f pa u who).memWf = true := by
  unfold State.update
  try dsimp only
  repeat'
    first
    | with_reducible assumption | (intro) | with_reducible apply State.perform_memWf | with_reducible apply State.shadowCopy_memWf
    | with_reducible apply State.memWf_ite | with_reducible apply State.memWf_foldl | with_reducible apply State.wf_mem
    | with_reducible apply State.wf_hostMem | (simp only [State.mk_memWf, Bool.and_eq_true]; apply And.intro) | split

theorem State.hostSent_memWf {s f pa n} (hs : State.memWf s = true) :
    (State.hostSent s f pa n).memWf = true := by
  unfold State.hostSent
  try dsimp only
  repeat'
    first
    | with_reducible assumption | (intro) | with_reducible apply State.emit_memWf | with_reducible apply State.memWf_ite
    | with_reducible apply State.memWf_foldl | with_reducible apply State.wf_mem | with_reducible apply State.wf_hostMem | split

theorem State.hostPlain_memWf {s f pa l} (hs : State.memWf s = true) : (State.hostPlain s f pa l).memWf = true := by
  induction l generalizing s pa with
  | nil => unfold State.hostPlain; exact hs
  | cons b l ih =>
    unfold State.hostPlain
    apply ih
    split
    · split
      · rw [State.mk_memWf, Bool.and_eq_true]
        exact ⟨State.wf_mem hs, SMap.wf_set _ _ (State.wf_hostMem hs)⟩
      · exact hs
    · exact hs

theorem State.writeBytes_memWf {s f pa bs who bulk} (hs : State.memWf s = true) :
    (State.writeBytes s f pa bs who bulk).memWf = true := by
  unfold State.writeBytes
  try dsimp only
  repeat'
    first
    | with_reducible assumption | (intro) | with_reducible apply State.remoteWrite_memWf | with_reducible apply State.clearPoison_memWf
    | with_reducible apply State.putBytes_memWf | with_reducible apply State.perform_memWf | with_reducible apply State.hostSent_memWf
    | with_reducible apply State.update_memWf | with_reducible apply State.memWf_ite | with_reducible apply State.memWf_foldl
    | with_reducible apply State.wf_mem | with_reducible apply State.wf_hostMem | split

theorem State.updateWord_memWf {s f pa u} (hs : State.memWf s = true) :
    (State.updateWord s f pa u).memWf = true := by
  unfold State.updateWord
  try dsimp only
  repeat'
    first
    | with_reducible assumption | (intro) | with_reducible apply State.writeBytes_memWf | with_reducible apply State.update_memWf
    | with_reducible apply State.memWf_ite | with_reducible apply State.memWf_foldl | with_reducible apply State.wf_mem
    | with_reducible apply State.wf_hostMem | split

theorem State.claim_memWf {s w_} (hs : State.memWf s = true) :
    (State.claim s w_).memWf = true := by
  unfold State.claim
  try dsimp only
  repeat'
    first
    | with_reducible assumption | (intro) | with_reducible apply State.memWf_ite | with_reducible apply State.memWf_foldl
    | with_reducible apply State.wf_mem | with_reducible apply State.wf_hostMem
    | (simp only [State.mk_memWf, Bool.and_eq_true]; apply And.intro)

theorem State.writeNat_memWf {s f pa n v} (hs : State.memWf s = true) :
    (State.writeNat s f pa n v).memWf = true := by
  unfold State.writeNat
  try dsimp only
  repeat' first | with_reducible assumption | (intro) | with_reducible apply State.writeBytes_memWf

theorem State.walkCached_memWf {t va x2 x3 x4 x5} (hx5 : State.memWf x5 = true) :
    (State.walkCached t va x2 x3 x4 x5).memWf = true := by
  induction x2 generalizing x3 x4 x5 with
  | zero =>
    unfold State.walkCached
    try dsimp only
    repeat'
      first
      | with_reducible assumption
  | succ k ih =>
    unfold State.walkCached
    try dsimp only
    repeat'
      first
      | with_reducible assumption | (intro) | with_reducible apply ih | with_reducible apply State.count_memWf
      | with_reducible apply State.onTile_memWf | with_reducible apply State.memWf_ite | with_reducible apply State.memWf_foldl
      | with_reducible apply State.wf_mem | with_reducible apply State.wf_hostMem | split

theorem State.touchPage_memWf {s t va} (hs : State.memWf s = true) :
    (State.touchPage s t va).memWf = true := by
  unfold State.touchPage
  try dsimp only
  repeat'
    first
    | with_reducible assumption | (intro) | with_reducible apply State.count_memWf | with_reducible apply State.walkCached_memWf
    | with_reducible apply State.memWf_ite | with_reducible apply State.memWf_foldl | with_reducible apply State.wf_mem
    | with_reducible apply State.wf_hostMem | split

theorem State.touchPages_memWf {s t l} (hs : State.memWf s = true) :
    (State.touchPages s t l).memWf = true := by
  unfold State.touchPages
  try dsimp only
  repeat'
    first
    | with_reducible assumption | (intro) | with_reducible apply State.touchPage_memWf | with_reducible apply State.memWf_ite
    | with_reducible apply State.memWf_foldl

theorem State.tmuRecord_memWf {s t e_ va wr fetch oper tag} (hs : State.memWf s = true) :
    (State.tmuRecord s t e_ va wr fetch oper tag).memWf = true := by
  unfold State.tmuRecord
  try dsimp only
  repeat'
    first
    | with_reducible assumption | (intro) | with_reducible apply State.count_memWf | with_reducible apply State.wrs_memWf
    | with_reducible apply State.memWf_ite | with_reducible apply State.memWf_foldl | with_reducible apply State.wf_mem
    | with_reducible apply State.wf_hostMem | split

end Sys2Proof.Machine
end

