-- ==== Sys2Proof/Laws/MemWfTile.lean ====
section
/-! SUPPORT. What every function leaves of the canonical form of both memories: the tile: operands, counters, Lode, traps and the Psirra-S instructions. -/
namespace Sys2Proof.Machine

/-! ### Operands.lean -/

theorem State.storeVa_memWf {s t va n v} (hs : State.memWf s = true) :
    (State.storeVa s t va n v).memWf = true := by
  unfold State.storeVa
  try dsimp only
  repeat'
    first
    | with_reducible assumption | (intro) | with_reducible apply State.writeNat_memWf | with_reducible apply State.memWf_ite
    | with_reducible apply State.memWf_foldl | with_reducible apply State.wf_mem | with_reducible apply State.wf_hostMem | split

theorem State.clearWhole_memWf {s t d} (hs : State.memWf s = true) :
    (State.clearWhole s t d).memWf = true := by
  unfold State.clearWhole
  try dsimp only
  repeat'
    first
    | with_reducible assumption | (intro) | with_reducible apply State.update_memWf | with_reducible apply State.memWf_ite
    | with_reducible apply State.memWf_foldl

theorem State.storeCodes_memWf {s t d cs} (hs : State.memWf s = true) :
    (State.storeCodes s t d cs).memWf = true := by
  unfold State.storeCodes
  try dsimp only
  repeat'
    first
    | with_reducible assumption | (intro) | with_reducible apply State.clearWhole_memWf | with_reducible apply State.storeVa_memWf
    | with_reducible apply State.memWf_ite | with_reducible apply State.memWf_foldl

theorem State.scrambleDst_memWf {s t d} (hs : State.memWf s = true) :
    (State.scrambleDst s t d).memWf = true := by
  unfold State.scrambleDst
  try dsimp only
  repeat'
    first
    | with_reducible assumption | (intro) | with_reducible apply State.drawn_memWf | with_reducible apply State.storeVa_memWf
    | with_reducible apply State.memWf_ite | with_reducible apply State.memWf_foldl

/-! ### Flags.lean -/

theorem State.logRec_memWf {s cls code unit rank info epoch} (hs : State.memWf s = true) :
    (State.logRec s cls code unit rank info epoch).memWf = true := by
  unfold State.logRec
  try dsimp only
  repeat'
    first
    | with_reducible assumption | (intro) | with_reducible apply State.wr_memWf | with_reducible apply State.memWf_ite
    | with_reducible apply State.memWf_foldl | with_reducible apply State.wf_mem | with_reducible apply State.wf_hostMem
    | (simp only [State.mk_memWf, Bool.and_eq_true]; apply And.intro)

theorem State.memCount_memWf {s f pa n} (hs : State.memWf s = true) :
    (State.memCount s f pa n).memWf = true := by
  unfold State.memCount
  try dsimp only
  repeat'
    first
    | with_reducible assumption | (intro) | with_reducible apply State.updateWord_memWf | with_reducible apply State.memWf_ite

theorem State.statRaise_memWf {s f pa x3} (hs : State.memWf s = true) :
    (State.statRaise s f pa x3).memWf = true := by
  unfold State.statRaise
  try dsimp only
  repeat'
    first
    | with_reducible assumption | (intro) | with_reducible apply State.updateWord_memWf | with_reducible apply State.memWf_ite
    | with_reducible apply State.memWf_foldl | with_reducible apply State.wf_mem | with_reducible apply State.wf_hostMem | split

theorem State.addCounts_memWf {s t d c} (hs : State.memWf s = true) :
    (State.addCounts s t d c).memWf = true := by
  unfold State.addCounts
  try dsimp only
  repeat'
    first
    | with_reducible assumption | (intro) | with_reducible apply State.memCount_memWf | with_reducible apply State.count_memWf
    | with_reducible apply State.memWf_ite

theorem State.addStats_memWf {s t d vs} (hs : State.memWf s = true) :
    (State.addStats s t d vs).memWf = true := by
  unfold State.addStats
  try dsimp only
  repeat'
    first
    | with_reducible assumption | (intro) | with_reducible apply State.statRaise_memWf | with_reducible apply State.memWf_ite

theorem State.fenStopTile_memWf {s t} (hs : State.memWf s = true) :
    (State.fenStopTile s t).memWf = true := by
  unfold State.fenStopTile
  try dsimp only
  repeat'
    first
    | with_reducible assumption | (intro) | with_reducible apply State.onTile_memWf | with_reducible apply State.wr_memWf
    | with_reducible apply State.memWf_ite

theorem State.fenStop_memWf {s code unit rank} (hs : State.memWf s = true) :
    (State.fenStop s code unit rank).memWf = true := by
  unfold State.fenStop
  try dsimp only
  repeat'
    first
    | with_reducible assumption | (intro) | with_reducible apply State.count_memWf | with_reducible apply State.wr_memWf
    | with_reducible apply State.logRec_memWf | with_reducible apply State.fenStopTile_memWf | with_reducible apply State.memWf_ite
    | with_reducible apply State.memWf_foldl

theorem State.fenStopLocal_memWf {s t} (hs : State.memWf s = true) :
    (State.fenStopLocal s t).memWf = true := by
  unfold State.fenStopLocal
  try dsimp only
  repeat'
    first
    | with_reducible assumption | (intro) | with_reducible apply State.tellMembers_memWf | with_reducible apply State.fenStop_memWf

theorem State.recordNans_memWf {s t site d nans} (hs : State.memWf s = true) :
    (State.recordNans s t site d nans).memWf = true := by
  unfold State.recordNans
  try dsimp only
  repeat'
    first
    | with_reducible assumption | (intro) | with_reducible apply State.count_memWf | with_reducible apply State.wrs_memWf
    | with_reducible apply State.fenStopLocal_memWf | with_reducible apply State.onTile_memWf | with_reducible apply State.memWf_ite
    | with_reducible apply State.memWf_foldl | with_reducible apply State.wf_mem | with_reducible apply State.wf_hostMem | split

/-! ### Lode.lean -/

theorem State.onLep_memWf {s t f} (hs : State.memWf s = true) :
    (State.onLep s t f).memWf = true := by
  unfold State.onLep
  try dsimp only
  repeat' first | with_reducible assumption | (intro) | with_reducible apply State.onTile_memWf

theorem State.onQueue_memWf {s t q f} (hs : State.memWf s = true) :
    (State.onQueue s t q f).memWf = true := by
  unfold State.onQueue
  try dsimp only
  repeat' first | with_reducible assumption | (intro) | with_reducible apply State.onLep_memWf

theorem State.qMove_memWf {s t q st} (hs : State.memWf s = true) :
    (State.qMove s t q st).memWf = true := by
  unfold State.qMove
  try dsimp only
  repeat'
    first
    | with_reducible assumption | (intro) | with_reducible apply State.wr_memWf | with_reducible apply State.memWf_ite

theorem State.qCheck_memWf {s t q} (hs : State.memWf s = true) :
    (State.qCheck s t q).memWf = true := by
  unfold State.qCheck
  try dsimp only
  repeat'
    first
    | with_reducible assumption | (intro) | with_reducible apply State.onQueue_memWf | with_reducible apply State.qMove_memWf
    | with_reducible apply State.memWf_ite

theorem State.writeSlot_memWf {s t q slot bs} (hs : State.memWf s = true) :
    (State.writeSlot s t q slot bs).memWf = true := by
  unfold State.writeSlot
  try dsimp only
  repeat'
    first
    | with_reducible assumption | (intro) | with_reducible apply State.writeBytes_memWf | with_reducible apply State.onTile_memWf
    | with_reducible apply State.memWf_ite | with_reducible apply State.memWf_foldl | with_reducible apply State.wf_mem
    | with_reducible apply State.wf_hostMem | split

theorem State.lepWake_memWf {s t} (hs : State.memWf s = true) :
    (State.lepWake s t).memWf = true := by
  unfold State.lepWake
  try dsimp only
  repeat'
    first
    | with_reducible assumption | (intro) | with_reducible apply State.wakeTile_memWf | with_reducible apply State.memWf_ite

theorem State.netPut_memWf {s m} (hs : State.memWf s = true) :
    (State.netPut s m).memWf = true := by
  unfold State.netPut
  try dsimp only
  repeat'
    first
    | with_reducible assumption | (intro) | with_reducible apply State.lepWake_memWf | with_reducible apply State.memWf_ite
    | with_reducible apply State.memWf_foldl | with_reducible apply State.wf_mem | with_reducible apply State.wf_hostMem
    | (simp only [State.mk_memWf, Bool.and_eq_true]; apply And.intro)

theorem State.send_memWf {s m} (hs : State.memWf s = true) :
    (State.send s m).memWf = true := by
  unfold State.send
  try dsimp only
  repeat'
    first
    | with_reducible assumption | (intro) | with_reducible apply State.netPut_memWf | with_reducible apply State.sendPkt_memWf
    | with_reducible apply State.memWf_ite

theorem State.sendCopies_memWf {s copy ds} (hs : State.memWf s = true) :
    (State.sendCopies s copy ds).memWf = true := by
  unfold State.sendCopies
  try dsimp only
  repeat'
    first
    | with_reducible assumption | (intro) | with_reducible apply State.netPut_memWf | with_reducible apply State.sendPkt_memWf
    | with_reducible apply State.memWf_ite | with_reducible apply State.memWf_foldl | with_reducible apply State.wf_mem
    | with_reducible apply State.wf_hostMem | split

theorem State.noteSent_memWf {s t src seq op qs} (hs : State.memWf s = true) :
    (State.noteSent s t src seq op qs).memWf = true := by
  unfold State.noteSent
  try dsimp only
  repeat'
    first
    | with_reducible assumption | (intro) | with_reducible apply State.onLep_memWf | with_reducible apply State.memWf_ite
    | with_reducible apply State.memWf_foldl | with_reducible apply State.wf_mem | with_reducible apply State.wf_hostMem | split

theorem State.wasPlaced_memWf {s src q seq} (hs : State.memWf s = true) :
    (State.wasPlaced s src q seq).memWf = true := by
  unfold State.wasPlaced
  try dsimp only
  repeat'
    first
    | with_reducible assumption | (intro) | with_reducible apply State.onLep_memWf | with_reducible apply State.send_memWf
    | with_reducible apply State.memWf_ite

theorem State.acceptChan_memWf {s t c a} (hs : State.memWf s = true) :
    ∀ w, State.acceptChan s t c a = some w → w.memWf = true := by
  intro w hw
  unfold State.acceptChan at hw
  try dsimp only at hw
  repeat' split at hw
  all_goals try first
    | (rw [← Option.some.inj hw]) | (simp only [reduceCtorEq] at hw)
  all_goals repeat'
      first
      | with_reducible assumption | (intro) | with_reducible apply State.wr_memWf | with_reducible apply State.onQueue_memWf
      | with_reducible apply State.noteSent_memWf | with_reducible apply State.onLep_memWf | with_reducible apply State.send_memWf
      | with_reducible apply State.count_memWf

theorem State.acceptGroup_memWf {s t g a} (hs : State.memWf s = true) :
    ∀ w, State.acceptGroup s t g a = some w → w.memWf = true := by
  intro w hw
  unfold State.acceptGroup at hw
  try dsimp only at hw
  repeat' split at hw
  all_goals try first
    | (rw [← Option.some.inj hw]) | (simp only [reduceCtorEq] at hw)
  all_goals repeat'
      first
      | with_reducible assumption | (intro) | with_reducible apply State.onLep_memWf | with_reducible apply State.sendCopies_memWf
      | with_reducible apply State.count_memWf | with_reducible apply State.noteSent_memWf

theorem State.respond_memWf {s t req handler payload auto} (hs : State.memWf s = true) :
    (State.respond s t req handler payload auto).memWf = true := by
  unfold State.respond
  try dsimp only
  repeat' first | with_reducible assumption | (intro) | with_reducible apply State.send_memWf

theorem State.releaseSlot_memWf {s t q slot replied} (hs : State.memWf s = true) :
    (State.releaseSlot s t q slot replied).memWf = true := by
  unfold State.releaseSlot
  try dsimp only
  repeat'
    first
    | with_reducible assumption | (intro) | with_reducible apply State.onQueue_memWf | with_reducible apply State.send_memWf
    | with_reducible apply State.respond_memWf | with_reducible apply State.qCheck_memWf | with_reducible apply State.memWf_ite
    | with_reducible apply State.memWf_foldl | with_reducible apply State.wf_mem | with_reducible apply State.wf_hostMem | split

theorem State.releaseHeld_memWf {s t th} (hs : State.memWf s = true) :
    (State.releaseHeld s t th).memWf = true := by
  unfold State.releaseHeld
  try dsimp only
  repeat'
    first
    | with_reducible assumption | (intro) | with_reducible apply State.releaseSlot_memWf | with_reducible apply State.onLep_memWf
    | with_reducible apply State.memWf_ite | with_reducible apply State.memWf_foldl | with_reducible apply State.wf_mem
    | with_reducible apply State.wf_hostMem | split

theorem State.unitEnded_memWf {s t th} (hs : State.memWf s = true) :
    (State.unitEnded s t th).memWf = true := by
  unfold State.unitEnded
  try dsimp only
  repeat'
    first
    | with_reducible assumption | (intro) | with_reducible apply State.onLep_memWf | with_reducible apply State.releaseHeld_memWf

theorem State.chanDrained_memWf {s t c} (hs : State.memWf s = true) :
    (State.chanDrained s t c).memWf = true := by
  unfold State.chanDrained
  try dsimp only
  repeat'
    first
    | with_reducible assumption | (intro) | with_reducible apply State.send_memWf | with_reducible apply State.wrs_memWf
    | with_reducible apply State.memWf_ite

theorem State.putChanCfg_memWf {s t c v} (hs : State.memWf s = true) :
    (State.putChanCfg s t c v).memWf = true := by
  unfold State.putChanCfg
  try dsimp only
  repeat' first | with_reducible assumption | (intro) | with_reducible apply State.wrs_memWf

theorem State.chanEnable_memWf {s t c} (hs : State.memWf s = true) :
    (State.chanEnable s t c).memWf = true := by
  unfold State.chanEnable
  try dsimp only
  repeat'
    first
    | with_reducible assumption | (intro) | with_reducible apply State.onLep_memWf | with_reducible apply State.wrs_memWf
    | with_reducible apply State.send_memWf | with_reducible apply State.memWf_ite | with_reducible apply State.memWf_foldl
    | with_reducible apply State.wf_mem | with_reducible apply State.wf_hostMem | split

theorem execChannelEnable_memWf {t c val s} (hs : State.memWf s = true) :
    Out3.memWf (execChannelEnable t c val s) := by
  unfold execChannelEnable
  try dsimp only
  repeat'
    first
    | with_reducible assumption | with_reducible apply ok_memWf | (intro) | with_reducible apply State.chanEnable_memWf
    | with_reducible apply State.putChanCfg_memWf | with_reducible apply State.memWf_ite

theorem State.chanDisable_memWf {s t c} (hs : State.memWf s = true) :
    (State.chanDisable s t c).memWf = true := by
  unfold State.chanDisable
  try dsimp only
  repeat'
    first
    | with_reducible assumption | (intro) | with_reducible apply State.wr_memWf | with_reducible apply State.chanDrained_memWf
    | with_reducible apply State.wrs_memWf | with_reducible apply State.memWf_ite | with_reducible apply State.memWf_foldl
    | with_reducible apply State.wf_mem | with_reducible apply State.wf_hostMem | split

theorem execChannelDisable_memWf {t c s} (hs : State.memWf s = true) :
    Out3.memWf (execChannelDisable t c s) := by
  unfold execChannelDisable
  try dsimp only
  repeat'
    first
    | with_reducible assumption | with_reducible apply ok_memWf | (intro) | with_reducible apply State.chanDisable_memWf
    | with_reducible apply State.memWf_ite

theorem State.groupReturn_memWf {s t g} (hs : State.memWf s = true) :
    (State.groupReturn s t g).memWf = true := by
  unfold State.groupReturn
  try dsimp only
  repeat'
    first
    | with_reducible assumption | (intro) | with_reducible apply State.send_memWf | with_reducible apply State.onLep_memWf
    | with_reducible apply State.memWf_ite | with_reducible apply State.memWf_foldl

theorem State.groupDrained_memWf {s t g} (hs : State.memWf s = true) :
    (State.groupDrained s t g).memWf = true := by
  unfold State.groupDrained
  try dsimp only
  repeat'
    first
    | with_reducible assumption | (intro) | with_reducible apply State.wrs_memWf | with_reducible apply State.groupReturn_memWf
    | with_reducible apply State.memWf_ite

theorem State.putGrpCfg_memWf {s t g v} (hs : State.memWf s = true) :
    (State.putGrpCfg s t g v).memWf = true := by
  unfold State.putGrpCfg
  try dsimp only
  repeat' first | with_reducible assumption | (intro) | with_reducible apply State.wrs_memWf

theorem State.groupEnable_memWf {s t g} (hs : State.memWf s = true) :
    (State.groupEnable s t g).memWf = true := by
  unfold State.groupEnable
  try dsimp only
  repeat'
    first
    | with_reducible assumption | (intro) | with_reducible apply State.onLep_memWf | with_reducible apply State.wrs_memWf
    | with_reducible apply State.send_memWf | with_reducible apply State.memWf_ite | with_reducible apply State.memWf_foldl

theorem execGroupEnable_memWf {t g val s} (hs : State.memWf s = true) :
    Out3.memWf (execGroupEnable t g val s) := by
  unfold execGroupEnable
  try dsimp only
  repeat'
    first
    | with_reducible assumption | with_reducible apply ok_memWf | (intro) | with_reducible apply State.groupEnable_memWf
    | with_reducible apply State.putGrpCfg_memWf | with_reducible apply State.memWf_ite

theorem State.groupDisable_memWf {s t g} (hs : State.memWf s = true) :
    (State.groupDisable s t g).memWf = true := by
  unfold State.groupDisable
  try dsimp only
  repeat'
    first
    | with_reducible assumption | (intro) | with_reducible apply State.wr_memWf | with_reducible apply State.groupDrained_memWf
    | with_reducible apply State.wrs_memWf | with_reducible apply State.memWf_ite | with_reducible apply State.memWf_foldl
    | with_reducible apply State.wf_mem | with_reducible apply State.wf_hostMem | split

theorem State.netDrop_memWf {s i} (hs : State.memWf s = true) :
    (State.netDrop s i).memWf = true := by
  unfold State.netDrop
  try dsimp only
  repeat'
    first
    | with_reducible assumption | (intro) | with_reducible apply State.memWf_ite | with_reducible apply State.memWf_foldl
    | with_reducible apply State.wf_mem | with_reducible apply State.wf_hostMem
    | (simp only [State.mk_memWf, Bool.and_eq_true]; apply And.intro)

theorem execGrantRequest_memWf {i s} (hs : State.memWf s = true) :
    Out3.memWf (execGrantRequest i s) := by
  unfold execGrantRequest
  try dsimp only
  repeat'
    first
    | with_reducible assumption | with_reducible apply ok_memWf | (intro) | with_reducible apply State.lepWake_memWf
    | with_reducible apply State.netDrop_memWf | with_reducible apply State.send_memWf | with_reducible apply State.onQueue_memWf
    | with_reducible apply State.memWf_ite | with_reducible apply State.memWf_foldl | with_reducible apply State.wf_mem
    | with_reducible apply State.wf_hostMem | split

theorem State.chanGrant_memWf {s t c q cause epoch} (hs : State.memWf s = true) :
    (State.chanGrant s t c q cause epoch).memWf = true := by
  unfold State.chanGrant
  try dsimp only
  repeat'
    first
    | with_reducible assumption | (intro) | with_reducible apply State.wrs_memWf | with_reducible apply State.send_memWf
    | with_reducible apply State.wr_memWf | with_reducible apply State.memWf_ite | with_reducible apply State.memWf_foldl
    | with_reducible apply State.wf_mem | with_reducible apply State.wf_hostMem | split

theorem State.groupGrant_memWf {s t g q cause} (hs : State.memWf s = true) :
    (State.groupGrant s t g q cause).memWf = true := by
  unfold State.groupGrant
  try dsimp only
  repeat'
    first
    | with_reducible assumption | (intro) | with_reducible apply State.onLep_memWf | with_reducible apply State.wr_memWf
    | with_reducible apply State.groupDrained_memWf | with_reducible apply State.wrs_memWf | with_reducible apply State.groupReturn_memWf
    | with_reducible apply State.send_memWf | with_reducible apply State.memWf_ite | with_reducible apply State.memWf_foldl
    | with_reducible apply State.wf_mem | with_reducible apply State.wf_hostMem | split

theorem execCreditGrant_memWf {i s} (hs : State.memWf s = true) :
    Out3.memWf (execCreditGrant i s) := by
  unfold execCreditGrant
  try dsimp only
  repeat'
    first
    | with_reducible assumption | with_reducible apply ok_memWf | (intro) | with_reducible apply State.lepWake_memWf
    | with_reducible apply State.groupGrant_memWf | with_reducible apply State.netDrop_memWf | with_reducible apply State.chanGrant_memWf
    | with_reducible apply State.memWf_ite | with_reducible apply State.memWf_foldl | with_reducible apply State.wf_mem
    | with_reducible apply State.wf_hostMem | split

theorem State.creditBack_memWf {s src q} (hs : State.memWf s = true) :
    (State.creditBack s src q).memWf = true := by
  unfold State.creditBack
  try dsimp only
  repeat'
    first
    | with_reducible assumption | (intro) | with_reducible apply State.groupDrained_memWf | with_reducible apply State.onLep_memWf
    | with_reducible apply State.chanDrained_memWf | with_reducible apply State.wr_memWf | with_reducible apply State.memWf_ite
    | with_reducible apply State.memWf_foldl | with_reducible apply State.wf_mem | with_reducible apply State.wf_hostMem | split

theorem execCreditReturn_memWf {i s} (hs : State.memWf s = true) :
    Out3.memWf (execCreditReturn i s) := by
  unfold execCreditReturn
  try dsimp only
  repeat'
    first
    | with_reducible assumption | with_reducible apply ok_memWf | (intro) | with_reducible apply State.lepWake_memWf
    | with_reducible apply State.creditBack_memWf | with_reducible apply State.netDrop_memWf | with_reducible apply State.wasPlaced_memWf
    | with_reducible apply State.memWf_ite | with_reducible apply State.memWf_foldl | with_reducible apply State.wf_mem
    | with_reducible apply State.wf_hostMem | split

theorem execAllotmentReturn_memWf {i s} (hs : State.memWf s = true) :
    Out3.memWf (execAllotmentReturn i s) := by
  unfold execAllotmentReturn
  try dsimp only
  repeat'
    first
    | with_reducible assumption | with_reducible apply ok_memWf | (intro) | with_reducible apply State.lepWake_memWf
    | with_reducible apply State.qCheck_memWf | with_reducible apply State.onQueue_memWf | with_reducible apply State.netDrop_memWf
    | with_reducible apply State.memWf_ite | with_reducible apply State.memWf_foldl | with_reducible apply State.wf_mem
    | with_reducible apply State.wf_hostMem | split

theorem State.putQCfg_memWf {s t q v} (hs : State.memWf s = true) :
    (State.putQCfg s t q v).memWf = true := by
  unfold State.putQCfg
  try dsimp only
  repeat' first | with_reducible assumption | (intro) | with_reducible apply State.wrs_memWf

theorem State.queueEnable_memWf {s t q rsv} (hs : State.memWf s = true) :
    (State.queueEnable s t q rsv).memWf = true := by
  unfold State.queueEnable
  try dsimp only
  repeat'
    first
    | with_reducible assumption | (intro) | with_reducible apply State.touchPages_memWf | with_reducible apply State.qMove_memWf
    | with_reducible apply State.onQueue_memWf | with_reducible apply State.tmuRecord_memWf | with_reducible apply State.memWf_ite
    | with_reducible apply State.memWf_foldl | with_reducible apply State.wf_mem | with_reducible apply State.wf_hostMem | split

theorem execQueueEnable_memWf {t q val s} (hs : State.memWf s = true) :
    Out3.memWf (execQueueEnable t q val s) := by
  unfold execQueueEnable
  try dsimp only
  repeat'
    first
    | with_reducible assumption | with_reducible apply ok_memWf | (intro) | with_reducible apply State.queueEnable_memWf
    | with_reducible apply State.putQCfg_memWf | with_reducible apply State.memWf_ite

theorem State.queueDisable_memWf {s t q} (hs : State.memWf s = true) :
    (State.queueDisable s t q).memWf = true := by
  unfold State.queueDisable
  try dsimp only
  repeat'
    first
    | with_reducible assumption | (intro) | with_reducible apply State.wr_memWf | with_reducible apply State.qCheck_memWf
    | with_reducible apply State.qMove_memWf | with_reducible apply State.memWf_ite | with_reducible apply State.memWf_foldl
    | with_reducible apply State.wf_mem | with_reducible apply State.wf_hostMem | split

theorem execQueueDisable_memWf {t q s} (hs : State.memWf s = true) :
    Out3.memWf (execQueueDisable t q s) := by
  unfold execQueueDisable
  try dsimp only
  repeat'
    first
    | with_reducible assumption | with_reducible apply ok_memWf | (intro) | with_reducible apply State.queueDisable_memWf
    | with_reducible apply State.memWf_ite

theorem State.quagFormed_memWf {s t q hdr} (hs : State.memWf s = true) :
    (State.quagFormed s t q hdr).memWf = true := by
  unfold State.quagFormed
  try dsimp only
  repeat'
    first
    | with_reducible assumption | (intro) | with_reducible apply State.count_memWf | with_reducible apply State.wrs_memWf
    | with_reducible apply State.memWf_ite

theorem State.place_memWf {s t q hdr payload src resv} (hs : State.memWf s = true) :
    (State.place s t q hdr payload src resv).memWf = true := by
  unfold State.place
  try dsimp only
  repeat'
    first
    | with_reducible assumption | (intro) | with_reducible apply State.onQueue_memWf | with_reducible apply State.writeSlot_memWf
    | with_reducible apply State.memWf_ite | with_reducible apply State.memWf_foldl | with_reducible apply State.wf_mem
    | with_reducible apply State.wf_hostMem | split

theorem State.arrive_memWf {s hdr payload poison src} (hs : State.memWf s = true) :
    (State.arrive s hdr payload poison src).memWf = true := by
  unfold State.arrive
  try dsimp only
  repeat'
    first
    | with_reducible assumption | (intro) | with_reducible apply State.wasPlaced_memWf | with_reducible apply State.place_memWf
    | with_reducible apply State.count_memWf | with_reducible apply State.quagFormed_memWf | with_reducible apply State.memWf_ite
    | with_reducible apply State.memWf_foldl | with_reducible apply State.wf_mem | with_reducible apply State.wf_hostMem | split

theorem execMessageArrival_memWf {i s} (hs : State.memWf s = true) :
    Out3.memWf (execMessageArrival i s) := by
  unfold execMessageArrival
  try dsimp only
  repeat'
    first
    | with_reducible assumption | with_reducible apply ok_memWf | (intro) | with_reducible apply State.arrive_memWf
    | with_reducible apply State.netDrop_memWf | with_reducible apply State.lepWake_memWf | with_reducible apply State.memWf_ite
    | with_reducible apply State.memWf_foldl | with_reducible apply State.wf_mem | with_reducible apply State.wf_hostMem | split

theorem State.append_memWf {s t q slot} (hs : State.memWf s = true) :
    (State.append s t q slot).memWf = true := by
  unfold State.append
  try dsimp only
  repeat'
    first
    | with_reducible assumption | (intro) | with_reducible apply State.wakeTile_memWf | with_reducible apply State.count_memWf
    | with_reducible apply State.onQueue_memWf | with_reducible apply State.memWf_ite | with_reducible apply State.memWf_foldl
    | with_reducible apply State.wf_mem | with_reducible apply State.wf_hostMem | split

theorem State.passOver_memWf {s t q} (hs : State.memWf s = true) :
    (State.passOver s t q).memWf = true := by
  unfold State.passOver
  try dsimp only
  repeat' first | with_reducible assumption | (intro) | with_reducible apply State.onLep_memWf

theorem State.dispatch_memWf {s t q} (hs : State.memWf s = true) :
    (State.dispatch s t q).memWf = true := by
  unfold State.dispatch
  try dsimp only
  repeat'
    first
    | with_reducible assumption | (intro) | with_reducible apply State.onQueue_memWf | with_reducible apply State.passOver_memWf
    | with_reducible apply State.count_memWf | with_reducible apply State.releaseSlot_memWf | with_reducible apply State.onTile_memWf
    | with_reducible apply State.onLep_memWf | with_reducible apply State.memWf_ite | with_reducible apply State.memWf_foldl
    | with_reducible apply State.wf_mem | with_reducible apply State.wf_hostMem | split

theorem execHandlerDispatch_memWf {t s} (hs : State.memWf s = true) :
    Out3.memWf (execHandlerDispatch t s) := by
  unfold execHandlerDispatch
  try dsimp only
  repeat'
    first
    | with_reducible assumption | with_reducible apply ok_memWf | (intro) | with_reducible apply State.dispatch_memWf
    | with_reducible apply State.memWf_ite | with_reducible apply State.memWf_foldl | with_reducible apply State.wf_mem
    | with_reducible apply State.wf_hostMem | split

/-! ### Traps.lean -/

theorem State.endThread_memWf {s t h_} (hs : State.memWf s = true) :
    (State.endThread s t h_).memWf = true := by
  unfold State.endThread
  try dsimp only
  repeat'
    first
    | with_reducible assumption | (intro) | with_reducible apply State.onTile_memWf | with_reducible apply State.unitEnded_memWf

theorem State.endMain_memWf {s t cause pc} (hs : State.memWf s = true) :
    (State.endMain s t cause pc).memWf = true := by
  unfold State.endMain
  try dsimp only
  repeat'
    first
    | with_reducible assumption | (intro) | with_reducible apply State.onTile_memWf | with_reducible apply State.endThread_memWf

theorem State.haltTile_memWf {s t} (hs : State.memWf s = true) :
    (State.haltTile s t).memWf = true := by
  unfold State.haltTile
  try dsimp only
  repeat' first | with_reducible assumption | (intro) | with_reducible apply State.onTile_memWf

theorem State.countOp_memWf {s cause} (hs : State.memWf s = true) :
    (State.countOp s cause).memWf = true := by
  unfold State.countOp
  try dsimp only
  repeat'
    first
    | with_reducible assumption | (intro) | with_reducible apply State.count_memWf | with_reducible apply State.memWf_ite

theorem State.endOp_memWf {s t tr} (hs : State.memWf s = true) :
    (State.endOp s t tr).memWf = true := by
  unfold State.endOp
  try dsimp only
  repeat'
    first
    | with_reducible assumption | (intro) | with_reducible apply State.endMain_memWf | with_reducible apply State.onTile_memWf

theorem State.pushOp_memWf {s t tr} (hs : State.memWf s = true) :
    (State.pushOp s t tr).memWf = true := by
  unfold State.pushOp
  try dsimp only
  repeat'
    first
    | with_reducible assumption | (intro) | with_reducible apply State.endOp_memWf | with_reducible apply State.onTile_memWf
    | with_reducible apply State.memWf_ite

theorem State.opTrapNow_memWf {s t tag r tr} (hs : State.memWf s = true) :
    (State.opTrapNow s t tag r tr).memWf = true := by
  unfold State.opTrapNow
  try dsimp only
  repeat'
    first
    | with_reducible assumption | (intro) | with_reducible apply State.pushOp_memWf | with_reducible apply State.onTile_memWf
    | with_reducible apply State.countOp_memWf

theorem State.raiseOp_memWf {s t tag cause info desc held} (hs : State.memWf s = true) :
    (State.raiseOp s t tag cause info desc held).memWf = true := by
  unfold State.raiseOp
  try dsimp only
  repeat'
    first
    | with_reducible assumption | (intro) | with_reducible apply State.opTrapNow_memWf | with_reducible apply State.onTile_memWf
    | with_reducible apply State.memWf_ite | with_reducible apply State.memWf_foldl | with_reducible apply State.wf_mem
    | with_reducible apply State.wf_hostMem | split

theorem State.opFault_memWf {s t tag k wr f} (hs : State.memWf s = true) :
    (State.opFault s t tag k wr f).memWf = true := by
  unfold State.opFault
  try dsimp only
  repeat'
    first
    | with_reducible assumption | (intro) | with_reducible apply State.raiseOp_memWf | with_reducible apply State.tmuRecord_memWf

theorem execHeldTrapRaise_memWf {t s} (hs : State.memWf s = true) :
    Out3.memWf (execHeldTrapRaise t s) := by
  unfold execHeldTrapRaise
  try dsimp only
  repeat'
    first
    | with_reducible assumption | with_reducible apply ok_memWf | (intro) | with_reducible apply State.opTrapNow_memWf
    | with_reducible apply State.memWf_ite | with_reducible apply State.memWf_foldl | with_reducible apply State.wf_mem
    | with_reducible apply State.wf_hostMem | split

theorem State.kvFail_memWf {s t tag sq cause info} (hs : State.memWf s = true) :
    (State.kvFail s t tag sq cause info).memWf = true := by
  unfold State.kvFail
  try dsimp only
  repeat'
    first
    | with_reducible assumption | (intro) | with_reducible apply State.count_memWf | with_reducible apply State.wrs_memWf
    | with_reducible apply State.raiseOp_memWf | with_reducible apply State.memWf_ite

theorem State.walkFail_memWf {s t cause info} (hs : State.memWf s = true) :
    (State.walkFail s t cause info).memWf = true := by
  unfold State.walkFail
  try dsimp only
  repeat'
    first
    | with_reducible assumption | (intro) | with_reducible apply State.onTile_memWf | with_reducible apply State.kvFail_memWf
    | with_reducible apply State.memWf_ite | with_reducible apply State.memWf_foldl | with_reducible apply State.wf_mem
    | with_reducible apply State.wf_hostMem | split

theorem State.endWalk_memWf {s t} (hs : State.memWf s = true) :
    (State.endWalk s t).memWf = true := by
  unfold State.endWalk
  try dsimp only
  repeat'
    first
    | with_reducible assumption | (intro) | with_reducible apply State.endThread_memWf | with_reducible apply State.onTile_memWf
    | with_reducible apply State.walkFail_memWf | with_reducible apply State.memWf_ite | with_reducible apply State.memWf_foldl
    | with_reducible apply State.wf_mem | with_reducible apply State.wf_hostMem | split

theorem State.endUnit_memWf {s t tr} (hs : State.memWf s = true) :
    (State.endUnit s t tr).memWf = true := by
  unfold State.endUnit
  try dsimp only
  repeat'
    first
    | with_reducible assumption | (intro) | with_reducible apply State.endMain_memWf | with_reducible apply State.endThread_memWf
    | with_reducible apply State.endWalk_memWf | with_reducible apply State.memWf_ite | with_reducible apply State.memWf_foldl
    | with_reducible apply State.wf_mem | with_reducible apply State.wf_hostMem | split

theorem State.report_memWf {s code unit info} (hs : State.memWf s = true) :
    (State.report s code unit info).memWf = true := by
  unfold State.report
  try dsimp only
  repeat'
    first
    | with_reducible assumption | (intro) | with_reducible apply State.memWf_ite | with_reducible apply State.memWf_foldl
    | with_reducible apply State.wf_mem | with_reducible apply State.wf_hostMem
    | (simp only [State.mk_memWf, Bool.and_eq_true]; apply And.intro)

theorem State.doubleFault_memWf {s t pc} (hs : State.memWf s = true) :
    (State.doubleFault s t pc).memWf = true := by
  unfold State.doubleFault
  try dsimp only
  repeat'
    first
    | with_reducible assumption | (intro) | with_reducible apply State.report_memWf | with_reducible apply State.haltTile_memWf
    | with_reducible apply State.onTile_memWf

theorem State.raiseSync_memWf {s t h_ kind cause info insn} (hs : State.memWf s = true) :
    (State.raiseSync s t h_ kind cause info insn).memWf = true := by
  unfold State.raiseSync
  try dsimp only
  repeat'
    first
    | with_reducible assumption | (intro) | with_reducible apply State.doubleFault_memWf | with_reducible apply State.countOp_memWf
    | with_reducible apply State.endUnit_memWf | with_reducible apply State.onTile_memWf | with_reducible apply State.memWf_ite

theorem State.takeTrap_memWf {s t} (hs : State.memWf s = true) :
    (State.takeTrap s t).memWf = true := by
  unfold State.takeTrap
  try dsimp only
  repeat'
    first
    | with_reducible assumption | (intro) | with_reducible apply State.onTile_memWf | with_reducible apply State.endOp_memWf
    | with_reducible apply State.endUnit_memWf | with_reducible apply State.count_memWf | with_reducible apply State.memWf_ite
    | with_reducible apply State.memWf_foldl | with_reducible apply State.wf_mem | with_reducible apply State.wf_hostMem | split

theorem execTrapTake_memWf {t s} (hs : State.memWf s = true) :
    Out3.memWf (execTrapTake t s) := by
  unfold execTrapTake
  try dsimp only
  repeat'
    first
    | with_reducible assumption | with_reducible apply ok_memWf | (intro) | with_reducible apply State.takeTrap_memWf
    | with_reducible apply State.memWf_ite

theorem State.nanCheck_memWf {s t} (hs : State.memWf s = true) :
    (State.nanCheck s t).memWf = true := by
  unfold State.nanCheck
  try dsimp only
  repeat'
    first
    | with_reducible assumption | (intro) | with_reducible apply State.wr_memWf | with_reducible apply State.onTile_memWf
    | with_reducible apply State.endMain_memWf | with_reducible apply State.pushOp_memWf | with_reducible apply State.memWf_ite
    | with_reducible apply State.memWf_foldl | with_reducible apply State.wf_mem | with_reducible apply State.wf_hostMem | split

theorem State.settle_memWf {s} (hs : State.memWf s = true) :
    (State.settle s).memWf = true := by
  unfold State.settle
  try dsimp only
  repeat'
    first
    | with_reducible assumption | (intro) | with_reducible apply State.nanCheck_memWf | with_reducible apply State.memWf_ite
    | with_reducible apply State.memWf_foldl

theorem State.nanResume_memWf {s t} (hs : State.memWf s = true) :
    (State.nanResume s t).memWf = true := by
  unfold State.nanResume
  try dsimp only
  repeat'
    first
    | with_reducible assumption | (intro) | with_reducible apply State.onTile_memWf | with_reducible apply State.wr_memWf
    | with_reducible apply State.memWf_ite

theorem execNanResumeGo_memWf {t s} (hs : State.memWf s = true) :
    Out3.memWf (execNanResumeGo t s) := by
  unfold execNanResumeGo
  try dsimp only
  repeat'
    first
    | with_reducible assumption | with_reducible apply ok_memWf | (intro) | with_reducible apply State.nanResume_memWf

/-! ### Scalar.lean -/

theorem State.onThr_memWf {s t h_ f} (hs : State.memWf s = true) :
    (State.onThr s t h_ f).memWf = true := by
  unfold State.onThr
  try dsimp only
  repeat' first | with_reducible assumption | (intro) | with_reducible apply State.onTile_memWf

theorem State.setG_memWf {s t h_ i v} (hs : State.memWf s = true) :
    (State.setG s t h_ i v).memWf = true := by
  unfold State.setG
  try dsimp only
  repeat' first | with_reducible assumption | (intro) | with_reducible apply State.onThr_memWf

theorem State.setP_memWf {s t h_ i b} (hs : State.memWf s = true) :
    (State.setP s t h_ i b).memWf = true := by
  unfold State.setP
  try dsimp only
  repeat' first | with_reducible assumption | (intro) | with_reducible apply State.onThr_memWf

theorem State.fetchReach_memWf {s t h_ n} (hs : State.memWf s = true) :
    (State.fetchReach s t h_ n).memWf = true := by
  unfold State.fetchReach
  try dsimp only
  repeat'
    first
    | with_reducible assumption | (intro) | with_reducible apply State.touchPages_memWf | with_reducible apply State.tookBytes_memWf
    | with_reducible apply State.wakeFor_memWf | with_reducible apply State.memWf_ite | with_reducible apply State.memWf_foldl
    | with_reducible apply State.wf_mem | with_reducible apply State.wf_hostMem | split

theorem State.fetchAts_memWf {s t h_} (hs : State.memWf s = true) :
    ∀ w, State.fetchAts s t h_ = some w → w.memWf = true := by
  intro w hw
  unfold State.fetchAts at hw
  try dsimp only at hw
  repeat' split at hw
  all_goals try first
    | (rw [← Option.some.inj hw]) | (simp only [reduceCtorEq] at hw)
  all_goals repeat' first | with_reducible assumption | (intro) | with_reducible apply State.atsAsk_memWf

theorem State.cacheInsn_memWf {s t h_ word} (hs : State.memWf s = true) :
    (State.cacheInsn s t h_ word).memWf = true := by
  unfold State.cacheInsn
  try dsimp only
  repeat' first | with_reducible assumption | (intro) | with_reducible apply State.onTile_memWf

theorem State.retireAt_memWf {s t h_ pc} (hs : State.memWf s = true) :
    (State.retireAt s t h_ pc).memWf = true := by
  unfold State.retireAt
  try dsimp only
  repeat' first | with_reducible assumption | (intro) | with_reducible apply State.onThr_memWf

theorem State.act_memWf {s t h n kind word a} (hs : State.memWf s = true) (ha : Act.memWf a) :
    (State.act s t h n kind word a).memWf = true := by
  cases a <;> unfold State.act <;> dsimp only
  · exact State.retireAt_memWf ha
  · exact State.retireAt_memWf ha
  · exact State.raiseSync_memWf hs
  · exact State.onThr_memWf ha
  · exact ha

theorem State.fetchFault_memWf {s t h_ f} (hs : State.memWf s = true) :
    (State.fetchFault s t h_ f).memWf = true := by
  unfold State.fetchFault
  try dsimp only
  repeat'
    first
    | with_reducible assumption | (intro) | with_reducible apply State.raiseSync_memWf | with_reducible apply State.tmuRecord_memWf

theorem State.scalar_memWf {s t th word body} (hs : State.memWf s = true) (hbody : ∀ a0, State.memWf a0 = true → (body a0).memWf) :
    (State.scalar s t th word body).memWf = true := by
  unfold State.scalar
  try dsimp only
  repeat'
    first
    | with_reducible assumption | (intro) | with_reducible apply hbody | with_reducible apply State.raiseSync_memWf
    | with_reducible apply State.fetchFault_memWf | with_reducible apply State.fetchReach_memWf
    | with_reducible refine State.fetchAts_memWf ?_ _ (by assumption) | with_reducible apply State.count_memWf
    | with_reducible apply State.cacheInsn_memWf | with_reducible apply State.act_memWf | with_reducible apply Act.memWf_ite
    | with_reducible exact Act.memWf_trap | with_reducible apply Act.memWf_next | with_reducible apply Act.memWf_jump
    | with_reducible apply Act.memWf_wait | with_reducible apply Act.memWf_done | with_reducible exact Reach.memWf_store
    | with_reducible exact Reach.memWf_phys | with_reducible apply Reach.memWf_stop | with_reducible apply Reach.memWf_ite
    | with_reducible refine Reach.memWf_of_stop ?_ (by assumption) | with_reducible apply State.memWf_ite
    | with_reducible apply State.memWf_foldl | with_reducible apply State.wf_mem | with_reducible apply State.wf_hostMem | split

theorem Act.ifLegal_memWf {b a} (h : Act.memWf a) : (Act.ifLegal b a).memWf := by
  unfold Act.ifLegal; split
  · exact h
  · exact Act.memWf_trap

theorem State.toG_memWf {s t th gd v} (hs : State.memWf s = true) :
    (State.toG s t th gd v).memWf := by
  unfold State.toG
  try dsimp only
  repeat'
    first
    | with_reducible assumption | (intro) | with_reducible apply State.setG_memWf | with_reducible apply Act.memWf_ite
    | with_reducible exact Act.memWf_trap | with_reducible apply Act.memWf_next

theorem State.toP_memWf {s t th gd b} (hs : State.memWf s = true) :
    (State.toP s t th gd b).memWf := by
  unfold State.toP
  try dsimp only
  repeat'
    first
    | with_reducible assumption | (intro) | with_reducible apply Act.ifLegal_memWf | with_reducible apply State.setP_memWf
    | with_reducible apply Act.memWf_ite | with_reducible exact Act.memWf_trap | with_reducible apply Act.memWf_next

/-! ### Alu.lean -/

theorem State.alu2_memWf {s t th fn a f} (hs : State.memWf s = true) :
    (State.alu2 s t th fn a f).memWf = true := by
  unfold State.alu2
  try dsimp only
  repeat'
    first
    | with_reducible assumption | (intro) | with_reducible apply State.scalar_memWf | with_reducible apply Act.ifLegal_memWf
    | with_reducible apply State.toG_memWf

theorem State.alu1_memWf {s t th fn a f} (hs : State.memWf s = true) :
    (State.alu1 s t th fn a f).memWf = true := by
  unfold State.alu1
  try dsimp only
  repeat'
    first
    | with_reducible assumption | (intro) | with_reducible apply State.scalar_memWf | with_reducible apply Act.ifLegal_memWf
    | with_reducible apply State.toG_memWf

theorem State.aluCmp_memWf {s t th fn a f} (hs : State.memWf s = true) :
    (State.aluCmp s t th fn a f).memWf = true := by
  unfold State.aluCmp
  try dsimp only
  repeat'
    first
    | with_reducible assumption | (intro) | with_reducible apply State.scalar_memWf | with_reducible apply Act.ifLegal_memWf
    | with_reducible apply State.toP_memWf

theorem State.aluPred_memWf {s t th fn a f} (hs : State.memWf s = true) :
    (State.aluPred s t th fn a f).memWf = true := by
  unfold State.aluPred
  try dsimp only
  repeat'
    first
    | with_reducible assumption | (intro) | with_reducible apply State.scalar_memWf | with_reducible apply Act.ifLegal_memWf
    | with_reducible apply State.toP_memWf

theorem State.aluImm_memWf {s t th fn a f} (hs : State.memWf s = true) :
    (State.aluImm s t th fn a f).memWf = true := by
  unfold State.aluImm
  try dsimp only
  repeat'
    first
    | with_reducible assumption | (intro) | with_reducible apply State.scalar_memWf | with_reducible apply State.toG_memWf

theorem State.aluShift_memWf {s t th fn a f} (hs : State.memWf s = true) :
    (State.aluShift s t th fn a f).memWf = true := by
  unfold State.aluShift
  try dsimp only
  repeat'
    first
    | with_reducible assumption | (intro) | with_reducible apply State.scalar_memWf | with_reducible apply Act.ifLegal_memWf
    | with_reducible apply State.toG_memWf

theorem State.aluCmpImm_memWf {s t th fn a f} (hs : State.memWf s = true) :
    (State.aluCmpImm s t th fn a f).memWf = true := by
  unfold State.aluCmpImm
  try dsimp only
  repeat'
    first
    | with_reducible assumption | (intro) | with_reducible apply State.scalar_memWf | with_reducible apply State.toP_memWf

theorem Act.onD_memWf {th i legal a} (h : Act.memWf a) : (Act.onD th i legal a).memWf := Act.ifLegal_memWf h

theorem execAluAdd_memWf {t th a s} (hs : State.memWf s = true) :
    Out3.memWf (execAluAdd t th a s) := by
  unfold execAluAdd
  try dsimp only
  repeat' first | with_reducible assumption | with_reducible apply ok_memWf | (intro) | with_reducible apply State.alu2_memWf

theorem execAluSub_memWf {t th a s} (hs : State.memWf s = true) :
    Out3.memWf (execAluSub t th a s) := by
  unfold execAluSub
  try dsimp only
  repeat' first | with_reducible assumption | with_reducible apply ok_memWf | (intro) | with_reducible apply State.alu2_memWf

theorem execAluAnd_memWf {t th a s} (hs : State.memWf s = true) :
    Out3.memWf (execAluAnd t th a s) := by
  unfold execAluAnd
  try dsimp only
  repeat' first | with_reducible assumption | with_reducible apply ok_memWf | (intro) | with_reducible apply State.alu2_memWf

theorem execAluOr_memWf {t th a s} (hs : State.memWf s = true) :
    Out3.memWf (execAluOr t th a s) := by
  unfold execAluOr
  try dsimp only
  repeat' first | with_reducible assumption | with_reducible apply ok_memWf | (intro) | with_reducible apply State.alu2_memWf

theorem execAluXor_memWf {t th a s} (hs : State.memWf s = true) :
    Out3.memWf (execAluXor t th a s) := by
  unfold execAluXor
  try dsimp only
  repeat' first | with_reducible assumption | with_reducible apply ok_memWf | (intro) | with_reducible apply State.alu2_memWf

theorem execAluSll_memWf {t th a s} (hs : State.memWf s = true) :
    Out3.memWf (execAluSll t th a s) := by
  unfold execAluSll
  try dsimp only
  repeat' first | with_reducible assumption | with_reducible apply ok_memWf | (intro) | with_reducible apply State.alu2_memWf

theorem execAluSrl_memWf {t th a s} (hs : State.memWf s = true) :
    Out3.memWf (execAluSrl t th a s) := by
  unfold execAluSrl
  try dsimp only
  repeat' first | with_reducible assumption | with_reducible apply ok_memWf | (intro) | with_reducible apply State.alu2_memWf

theorem execAluSra_memWf {t th a s} (hs : State.memWf s = true) :
    Out3.memWf (execAluSra t th a s) := by
  unfold execAluSra
  try dsimp only
  repeat' first | with_reducible assumption | with_reducible apply ok_memWf | (intro) | with_reducible apply State.alu2_memWf

theorem execAluMul_memWf {t th a s} (hs : State.memWf s = true) :
    Out3.memWf (execAluMul t th a s) := by
  unfold execAluMul
  try dsimp only
  repeat' first | with_reducible assumption | with_reducible apply ok_memWf | (intro) | with_reducible apply State.alu2_memWf

theorem execAluMulhu_memWf {t th a s} (hs : State.memWf s = true) :
    Out3.memWf (execAluMulhu t th a s) := by
  unfold execAluMulhu
  try dsimp only
  repeat' first | with_reducible assumption | with_reducible apply ok_memWf | (intro) | with_reducible apply State.alu2_memWf

theorem execAluDivu_memWf {t th a s} (hs : State.memWf s = true) :
    Out3.memWf (execAluDivu t th a s) := by
  unfold execAluDivu
  try dsimp only
  repeat' first | with_reducible assumption | with_reducible apply ok_memWf | (intro) | with_reducible apply State.alu2_memWf

theorem execAluRemu_memWf {t th a s} (hs : State.memWf s = true) :
    Out3.memWf (execAluRemu t th a s) := by
  unfold execAluRemu
  try dsimp only
  repeat' first | with_reducible assumption | with_reducible apply ok_memWf | (intro) | with_reducible apply State.alu2_memWf

theorem execAluMin_memWf {t th a s} (hs : State.memWf s = true) :
    Out3.memWf (execAluMin t th a s) := by
  unfold execAluMin
  try dsimp only
  repeat' first | with_reducible assumption | with_reducible apply ok_memWf | (intro) | with_reducible apply State.alu2_memWf

theorem execAluMax_memWf {t th a s} (hs : State.memWf s = true) :
    Out3.memWf (execAluMax t th a s) := by
  unfold execAluMax
  try dsimp only
  repeat' first | with_reducible assumption | with_reducible apply ok_memWf | (intro) | with_reducible apply State.alu2_memWf

theorem execAluMinu_memWf {t th a s} (hs : State.memWf s = true) :
    Out3.memWf (execAluMinu t th a s) := by
  unfold execAluMinu
  try dsimp only
  repeat' first | with_reducible assumption | with_reducible apply ok_memWf | (intro) | with_reducible apply State.alu2_memWf

theorem execAluMaxu_memWf {t th a s} (hs : State.memWf s = true) :
    Out3.memWf (execAluMaxu t th a s) := by
  unfold execAluMaxu
  try dsimp only
  repeat' first | with_reducible assumption | with_reducible apply ok_memWf | (intro) | with_reducible apply State.alu2_memWf

theorem execAluClz_memWf {t th a s} (hs : State.memWf s = true) :
    Out3.memWf (execAluClz t th a s) := by
  unfold execAluClz
  try dsimp only
  repeat' first | with_reducible assumption | with_reducible apply ok_memWf | (intro) | with_reducible apply State.alu1_memWf

theorem execAluPopc_memWf {t th a s} (hs : State.memWf s = true) :
    Out3.memWf (execAluPopc t th a s) := by
  unfold execAluPopc
  try dsimp only
  repeat' first | with_reducible assumption | with_reducible apply ok_memWf | (intro) | with_reducible apply State.alu1_memWf

theorem execAluSel_memWf {t th a s} (hs : State.memWf s = true) :
    Out3.memWf (execAluSel t th a s) := by
  unfold execAluSel
  try dsimp only
  repeat'
    first
    | with_reducible assumption | with_reducible apply ok_memWf | (intro) | with_reducible apply State.scalar_memWf
    | with_reducible apply Act.ifLegal_memWf | with_reducible apply State.toG_memWf

theorem execAluCmpeq_memWf {t th a s} (hs : State.memWf s = true) :
    Out3.memWf (execAluCmpeq t th a s) := by
  unfold execAluCmpeq
  try dsimp only
  repeat'
    first
    | with_reducible assumption | with_reducible apply ok_memWf | (intro) | with_reducible apply State.aluCmp_memWf

theorem execAluCmpne_memWf {t th a s} (hs : State.memWf s = true) :
    Out3.memWf (execAluCmpne t th a s) := by
  unfold execAluCmpne
  try dsimp only
  repeat'
    first
    | with_reducible assumption | with_reducible apply ok_memWf | (intro) | with_reducible apply State.aluCmp_memWf

theorem execAluCmplt_memWf {t th a s} (hs : State.memWf s = true) :
    Out3.memWf (execAluCmplt t th a s) := by
  unfold execAluCmplt
  try dsimp only
  repeat'
    first
    | with_reducible assumption | with_reducible apply ok_memWf | (intro) | with_reducible apply State.aluCmp_memWf

theorem execAluCmpltu_memWf {t th a s} (hs : State.memWf s = true) :
    Out3.memWf (execAluCmpltu t th a s) := by
  unfold execAluCmpltu
  try dsimp only
  repeat'
    first
    | with_reducible assumption | with_reducible apply ok_memWf | (intro) | with_reducible apply State.aluCmp_memWf

theorem execAluCmpge_memWf {t th a s} (hs : State.memWf s = true) :
    Out3.memWf (execAluCmpge t th a s) := by
  unfold execAluCmpge
  try dsimp only
  repeat'
    first
    | with_reducible assumption | with_reducible apply ok_memWf | (intro) | with_reducible apply State.aluCmp_memWf

theorem execAluCmpgeu_memWf {t th a s} (hs : State.memWf s = true) :
    Out3.memWf (execAluCmpgeu t th a s) := by
  unfold execAluCmpgeu
  try dsimp only
  repeat'
    first
    | with_reducible assumption | with_reducible apply ok_memWf | (intro) | with_reducible apply State.aluCmp_memWf

theorem execAluPand_memWf {t th a s} (hs : State.memWf s = true) :
    Out3.memWf (execAluPand t th a s) := by
  unfold execAluPand
  try dsimp only
  repeat'
    first
    | with_reducible assumption | with_reducible apply ok_memWf | (intro) | with_reducible apply State.aluPred_memWf

theorem execAluPor_memWf {t th a s} (hs : State.memWf s = true) :
    Out3.memWf (execAluPor t th a s) := by
  unfold execAluPor
  try dsimp only
  repeat'
    first
    | with_reducible assumption | with_reducible apply ok_memWf | (intro) | with_reducible apply State.aluPred_memWf

theorem execAluPxor_memWf {t th a s} (hs : State.memWf s = true) :
    Out3.memWf (execAluPxor t th a s) := by
  unfold execAluPxor
  try dsimp only
  repeat'
    first
    | with_reducible assumption | with_reducible apply ok_memWf | (intro) | with_reducible apply State.aluPred_memWf

theorem execAluPnot_memWf {t th a s} (hs : State.memWf s = true) :
    Out3.memWf (execAluPnot t th a s) := by
  unfold execAluPnot
  try dsimp only
  repeat'
    first
    | with_reducible assumption | with_reducible apply ok_memWf | (intro) | with_reducible apply State.scalar_memWf
    | with_reducible apply Act.ifLegal_memWf | with_reducible apply State.toP_memWf

theorem execAluPmovg_memWf {t th a s} (hs : State.memWf s = true) :
    Out3.memWf (execAluPmovg t th a s) := by
  unfold execAluPmovg
  try dsimp only
  repeat'
    first
    | with_reducible assumption | with_reducible apply ok_memWf | (intro) | with_reducible apply State.scalar_memWf
    | with_reducible apply Act.ifLegal_memWf | with_reducible apply State.toG_memWf

theorem execAluDsetw_memWf {t th a s} (hs : State.memWf s = true) :
    Out3.memWf (execAluDsetw t th a s) := by
  unfold execAluDsetw
  try dsimp only
  repeat'
    first
    | with_reducible assumption | with_reducible apply ok_memWf | (intro) | with_reducible apply State.scalar_memWf
    | with_reducible apply Act.onD_memWf | with_reducible apply State.onTile_memWf | with_reducible apply Act.memWf_ite
    | with_reducible exact Act.memWf_trap | with_reducible apply Act.memWf_next

theorem execAluDgetw_memWf {t th a s} (hs : State.memWf s = true) :
    Out3.memWf (execAluDgetw t th a s) := by
  unfold execAluDgetw
  try dsimp only
  repeat'
    first
    | with_reducible assumption | with_reducible apply ok_memWf | (intro) | with_reducible apply State.scalar_memWf
    | with_reducible apply Act.onD_memWf | with_reducible apply State.toG_memWf

theorem execAluDaddb_memWf {t th a s} (hs : State.memWf s = true) :
    Out3.memWf (execAluDaddb t th a s) := by
  unfold execAluDaddb
  try dsimp only
  repeat'
    first
    | with_reducible assumption | with_reducible apply ok_memWf | (intro) | with_reducible apply State.scalar_memWf
    | with_reducible apply Act.onD_memWf | with_reducible apply State.onTile_memWf | with_reducible apply Act.memWf_ite
    | with_reducible exact Act.memWf_trap | with_reducible apply Act.memWf_next

theorem execAluDadds_memWf {t th a s} (hs : State.memWf s = true) :
    Out3.memWf (execAluDadds t th a s) := by
  unfold execAluDadds
  try dsimp only
  repeat'
    first
    | with_reducible assumption | with_reducible apply ok_memWf | (intro) | with_reducible apply State.scalar_memWf
    | with_reducible apply Act.onD_memWf | with_reducible apply State.onTile_memWf | with_reducible apply Act.memWf_ite
    | with_reducible exact Act.memWf_trap | with_reducible apply Act.memWf_next

theorem execAluAddi_memWf {t th a s} (hs : State.memWf s = true) :
    Out3.memWf (execAluAddi t th a s) := by
  unfold execAluAddi
  try dsimp only
  repeat'
    first
    | with_reducible assumption | with_reducible apply ok_memWf | (intro) | with_reducible apply State.aluImm_memWf

theorem execAluAndi_memWf {t th a s} (hs : State.memWf s = true) :
    Out3.memWf (execAluAndi t th a s) := by
  unfold execAluAndi
  try dsimp only
  repeat'
    first
    | with_reducible assumption | with_reducible apply ok_memWf | (intro) | with_reducible apply State.aluImm_memWf

theorem execAluOri_memWf {t th a s} (hs : State.memWf s = true) :
    Out3.memWf (execAluOri t th a s) := by
  unfold execAluOri
  try dsimp only
  repeat'
    first
    | with_reducible assumption | with_reducible apply ok_memWf | (intro) | with_reducible apply State.aluImm_memWf

theorem execAluXori_memWf {t th a s} (hs : State.memWf s = true) :
    Out3.memWf (execAluXori t th a s) := by
  unfold execAluXori
  try dsimp only
  repeat'
    first
    | with_reducible assumption | with_reducible apply ok_memWf | (intro) | with_reducible apply State.aluImm_memWf

theorem execAluSlli_memWf {t th a s} (hs : State.memWf s = true) :
    Out3.memWf (execAluSlli t th a s) := by
  unfold execAluSlli
  try dsimp only
  repeat'
    first
    | with_reducible assumption | with_reducible apply ok_memWf | (intro) | with_reducible apply State.aluShift_memWf

theorem execAluSrli_memWf {t th a s} (hs : State.memWf s = true) :
    Out3.memWf (execAluSrli t th a s) := by
  unfold execAluSrli
  try dsimp only
  repeat'
    first
    | with_reducible assumption | with_reducible apply ok_memWf | (intro) | with_reducible apply State.aluShift_memWf

theorem execAluSrai_memWf {t th a s} (hs : State.memWf s = true) :
    Out3.memWf (execAluSrai t th a s) := by
  unfold execAluSrai
  try dsimp only
  repeat'
    first
    | with_reducible assumption | with_reducible apply ok_memWf | (intro) | with_reducible apply State.aluShift_memWf

theorem execAluMovi_memWf {t th a s} (hs : State.memWf s = true) :
    Out3.memWf (execAluMovi t th a s) := by
  unfold execAluMovi
  try dsimp only
  repeat'
    first
    | with_reducible assumption | with_reducible apply ok_memWf | (intro) | with_reducible apply State.scalar_memWf
    | with_reducible apply Act.ifLegal_memWf | with_reducible apply State.toG_memWf

theorem execAluShin_memWf {t th a s} (hs : State.memWf s = true) :
    Out3.memWf (execAluShin t th a s) := by
  unfold execAluShin
  try dsimp only
  repeat'
    first
    | with_reducible assumption | with_reducible apply ok_memWf | (intro) | with_reducible apply State.aluImm_memWf

theorem execAluCmpeqi_memWf {t th a s} (hs : State.memWf s = true) :
    Out3.memWf (execAluCmpeqi t th a s) := by
  unfold execAluCmpeqi
  try dsimp only
  repeat'
    first
    | with_reducible assumption | with_reducible apply ok_memWf | (intro) | with_reducible apply State.aluCmpImm_memWf

theorem execAluCmpnei_memWf {t th a s} (hs : State.memWf s = true) :
    Out3.memWf (execAluCmpnei t th a s) := by
  unfold execAluCmpnei
  try dsimp only
  repeat'
    first
    | with_reducible assumption | with_reducible apply ok_memWf | (intro) | with_reducible apply State.aluCmpImm_memWf

theorem execAluCmplti_memWf {t th a s} (hs : State.memWf s = true) :
    Out3.memWf (execAluCmplti t th a s) := by
  unfold execAluCmplti
  try dsimp only
  repeat'
    first
    | with_reducible assumption | with_reducible apply ok_memWf | (intro) | with_reducible apply State.aluCmpImm_memWf

theorem execAluCmpltui_memWf {t th a s} (hs : State.memWf s = true) :
    Out3.memWf (execAluCmpltui t th a s) := by
  unfold execAluCmpltui
  try dsimp only
  repeat'
    first
    | with_reducible assumption | with_reducible apply ok_memWf | (intro) | with_reducible apply State.aluCmpImm_memWf

theorem State.link_memWf {s t th} (hs : State.memWf s = true) :
    (State.link s t th).memWf = true := by
  unfold State.link
  try dsimp only
  repeat' first | with_reducible assumption | (intro) | with_reducible apply State.setG_memWf

theorem State.brReg_memWf {s t th a lnk} (hs : State.memWf s = true) :
    (State.brReg s t th a lnk).memWf := by
  unfold State.brReg
  try dsimp only
  repeat'
    first
    | with_reducible assumption | (intro) | with_reducible apply Act.ifLegal_memWf | with_reducible apply State.link_memWf
    | with_reducible apply Act.memWf_ite | with_reducible exact Act.memWf_trap | with_reducible apply Act.memWf_next
    | with_reducible apply Act.memWf_jump | with_reducible apply Act.memWf_wait | with_reducible apply Act.memWf_done
    | with_reducible exact Reach.memWf_store | with_reducible exact Reach.memWf_phys | with_reducible apply Reach.memWf_stop
    | with_reducible apply Reach.memWf_ite | with_reducible refine Reach.memWf_of_stop ?_ (by assumption)
    | with_reducible apply State.memWf_ite

theorem execBrJ_memWf {t th a s} (hs : State.memWf s = true) :
    Out3.memWf (execBrJ t th a s) := by
  unfold execBrJ
  try dsimp only
  repeat'
    first
    | with_reducible assumption | with_reducible apply ok_memWf | (intro) | with_reducible apply State.scalar_memWf
    | with_reducible apply Act.ifLegal_memWf | with_reducible apply Act.memWf_ite | with_reducible exact Act.memWf_trap
    | with_reducible apply Act.memWf_next | with_reducible apply Act.memWf_jump

theorem execBrBp_memWf {t th a s} (hs : State.memWf s = true) :
    Out3.memWf (execBrBp t th a s) := by
  unfold execBrBp
  try dsimp only
  repeat'
    first
    | with_reducible assumption | with_reducible apply ok_memWf | (intro) | with_reducible apply State.scalar_memWf
    | with_reducible apply Act.memWf_ite | with_reducible exact Act.memWf_trap | with_reducible apply Act.memWf_next
    | with_reducible apply Act.memWf_jump

theorem execBrCall_memWf {t th a s} (hs : State.memWf s = true) :
    Out3.memWf (execBrCall t th a s) := by
  unfold execBrCall
  try dsimp only
  repeat'
    first
    | with_reducible assumption | with_reducible apply ok_memWf | (intro) | with_reducible apply State.scalar_memWf
    | with_reducible apply Act.ifLegal_memWf | with_reducible apply State.link_memWf | with_reducible apply Act.memWf_ite
    | with_reducible exact Act.memWf_trap | with_reducible apply Act.memWf_next | with_reducible apply Act.memWf_jump

theorem execBrJr_memWf {t th a s} (hs : State.memWf s = true) :
    Out3.memWf (execBrJr t th a s) := by
  unfold execBrJr
  try dsimp only
  repeat'
    first
    | with_reducible assumption | with_reducible apply ok_memWf | (intro) | with_reducible apply State.scalar_memWf
    | with_reducible apply State.brReg_memWf

theorem execBrCallr_memWf {t th a s} (hs : State.memWf s = true) :
    Out3.memWf (execBrCallr t th a s) := by
  unfold execBrCallr
  try dsimp only
  repeat'
    first
    | with_reducible assumption | with_reducible apply ok_memWf | (intro) | with_reducible apply State.scalar_memWf
    | with_reducible apply State.brReg_memWf

/-! ### Mem.lean -/

theorem State.startWalk_memWf {s t h_ va wr} (hs : State.memWf s = true) :
    (State.startWalk s t h_ va wr).memWf := by
  unfold State.startWalk
  try dsimp only
  repeat'
    first
    | with_reducible assumption | (intro) | with_reducible apply State.count_memWf | with_reducible apply State.onTile_memWf
    | with_reducible apply Act.memWf_ite | with_reducible exact Act.memWf_trap | with_reducible apply Act.memWf_next
    | with_reducible apply Act.memWf_jump | with_reducible apply Act.memWf_wait | with_reducible apply Act.memWf_done
    | with_reducible exact Reach.memWf_store | with_reducible exact Reach.memWf_phys | with_reducible apply Reach.memWf_stop
    | with_reducible apply Reach.memWf_ite | with_reducible refine Reach.memWf_of_stop ?_ (by assumption)
    | with_reducible apply State.memWf_ite | with_reducible apply State.memWf_foldl | with_reducible apply State.wf_mem
    | with_reducible apply State.wf_hostMem | split

theorem State.walkFault_memWf {s t e_ x3} (hs : State.memWf s = true) :
    (State.walkFault s t e_ x3).memWf = true := by
  induction x3 generalizing s with
  | nil =>
    unfold State.walkFault
    try dsimp only
    repeat'
      first
      | with_reducible assumption
  | cons b l ih =>
    unfold State.walkFault
    try dsimp only
    repeat'
      first
      | with_reducible assumption | (intro) | with_reducible apply ih | with_reducible apply State.raiseSync_memWf
      | with_reducible apply State.tmuRecord_memWf

theorem execWalkEntryReturn_memWf {t i s} (hs : State.memWf s = true) :
    Out3.memWf (execWalkEntryReturn t i s) := by
  unfold execWalkEntryReturn
  try dsimp only
  repeat'
    first
    | with_reducible assumption | with_reducible apply ok_memWf | (intro) | with_reducible apply State.onTile_memWf
    | with_reducible apply State.count_memWf | with_reducible apply State.walkFault_memWf | with_reducible apply State.memWf_ite
    | with_reducible apply State.memWf_foldl | with_reducible apply State.wf_mem | with_reducible apply State.wf_hostMem | split

theorem State.reachVa_memWf {s t h_ va n k} (hs : State.memWf s = true) :
    (State.reachVa s t h_ va n k).memWf := by
  unfold State.reachVa
  try dsimp only
  repeat'
    first
    | with_reducible assumption | (intro) | with_reducible apply State.raiseSync_memWf | with_reducible apply State.tmuRecord_memWf
    | with_reducible apply State.startWalk_memWf | with_reducible apply Act.memWf_ite | with_reducible exact Act.memWf_trap
    | with_reducible apply Act.memWf_next | with_reducible apply Act.memWf_jump | with_reducible apply Act.memWf_wait
    | with_reducible apply Act.memWf_done | with_reducible exact Reach.memWf_store | with_reducible exact Reach.memWf_phys
    | with_reducible apply Reach.memWf_stop | with_reducible apply Reach.memWf_ite
    | with_reducible refine Reach.memWf_of_stop ?_ (by assumption) | with_reducible apply State.memWf_ite
    | with_reducible apply State.memWf_foldl | with_reducible apply State.wf_mem | with_reducible apply State.wf_hostMem | split

theorem State.askRemote_memWf {s t th va mop d off n data} (hs : State.memWf s = true) :
    (State.askRemote s t th va mop d off n data).memWf := by
  unfold State.askRemote
  try dsimp only
  repeat'
    first
    | with_reducible assumption | (intro) | with_reducible apply State.request_memWf | with_reducible apply Act.memWf_ite
    | with_reducible exact Act.memWf_trap | with_reducible apply Act.memWf_next | with_reducible apply Act.memWf_jump
    | with_reducible apply Act.memWf_wait

theorem State.load_memWf {s t th va n put} (hs : State.memWf s = true) (hput : ∀ a0 a1, State.memWf a0 = true → (put a0 a1).memWf) :
    (State.load s t th va n put).memWf := by
  unfold State.load
  try dsimp only
  repeat'
    first
    | with_reducible assumption | (intro) | with_reducible apply hput | with_reducible apply State.reachVa_memWf
    | with_reducible apply State.atsAsk_memWf | with_reducible apply State.tookBytes_memWf | with_reducible apply State.wakeFor_memWf
    | with_reducible apply State.askRemote_memWf | with_reducible apply Act.memWf_ite | with_reducible exact Act.memWf_trap
    | with_reducible apply Act.memWf_next | with_reducible apply Act.memWf_jump | with_reducible apply Act.memWf_wait
    | with_reducible apply Act.memWf_done | with_reducible exact Reach.memWf_store | with_reducible exact Reach.memWf_phys
    | with_reducible apply Reach.memWf_stop | with_reducible apply Reach.memWf_ite
    | with_reducible refine Reach.memWf_of_stop ?_ (by assumption) | with_reducible apply State.memWf_ite
    | with_reducible apply State.memWf_foldl | with_reducible apply State.wf_mem | with_reducible apply State.wf_hostMem | split

theorem State.store_memWf {s t th va n v} (hs : State.memWf s = true) :
    (State.store s t th va n v).memWf := by
  unfold State.store
  try dsimp only
  repeat'
    first
    | with_reducible assumption | (intro) | with_reducible apply State.reachVa_memWf | with_reducible apply State.onTile_memWf
    | with_reducible apply State.atsAsk_memWf | with_reducible apply State.writeBytes_memWf | with_reducible apply State.wakeFor_memWf
    | with_reducible apply Act.memWf_ite | with_reducible exact Act.memWf_trap | with_reducible apply Act.memWf_next
    | with_reducible apply Act.memWf_jump | with_reducible apply Act.memWf_wait | with_reducible apply Act.memWf_done
    | with_reducible exact Reach.memWf_store | with_reducible exact Reach.memWf_phys | with_reducible apply Reach.memWf_stop
    | with_reducible apply Reach.memWf_ite | with_reducible refine Reach.memWf_of_stop ?_ (by assumption)
    | with_reducible apply State.memWf_ite | with_reducible apply State.memWf_foldl | with_reducible apply State.wf_mem
    | with_reducible apply State.wf_hostMem | split

theorem State.atomic_memWf {s t th a mop args new} (hs : State.memWf s = true) :
    (State.atomic s t th a mop args new).memWf := by
  unfold State.atomic
  try dsimp only
  repeat'
    first
    | with_reducible assumption | (intro) | with_reducible apply State.setG_memWf | with_reducible apply State.reachVa_memWf
    | with_reducible apply State.onTile_memWf | with_reducible apply State.tookBytes_memWf | with_reducible apply State.wakeFor_memWf
    | with_reducible apply State.atsAsk_memWf | with_reducible apply State.writeBytes_memWf | with_reducible apply State.putBytes_memWf
    | with_reducible apply State.askRemote_memWf | with_reducible apply Act.memWf_ite | with_reducible exact Act.memWf_trap
    | with_reducible apply Act.memWf_next | with_reducible apply Act.memWf_jump | with_reducible apply Act.memWf_wait
    | with_reducible apply Act.memWf_done | with_reducible exact Reach.memWf_store | with_reducible exact Reach.memWf_phys
    | with_reducible apply Reach.memWf_stop | with_reducible apply Reach.memWf_ite
    | with_reducible refine Reach.memWf_of_stop ?_ (by assumption) | with_reducible apply State.memWf_ite
    | with_reducible apply State.memWf_foldl | with_reducible apply State.wf_mem | with_reducible apply State.wf_hostMem | split

theorem State.memInsn_memWf {s t th fn a body} (hs : State.memWf s = true) (hbody : ∀ a0, State.memWf a0 = true → (body a0).memWf) :
    (State.memInsn s t th fn a body).memWf = true := by
  unfold State.memInsn
  try dsimp only
  repeat' first | with_reducible assumption | (intro) | with_reducible apply hbody | with_reducible apply State.scalar_memWf

theorem State.ldG_memWf {s t th fn n a} (hs : State.memWf s = true) :
    (State.ldG s t th fn n a).memWf = true := by
  unfold State.ldG
  try dsimp only
  repeat'
    first
    | with_reducible assumption | (intro) | with_reducible apply State.memInsn_memWf | with_reducible apply State.load_memWf
    | with_reducible apply State.toG_memWf

theorem State.stG_memWf {s t th fn n a} (hs : State.memWf s = true) :
    (State.stG s t th fn n a).memWf = true := by
  unfold State.stG
  try dsimp only
  repeat'
    first
    | with_reducible assumption | (intro) | with_reducible apply State.memInsn_memWf | with_reducible apply State.store_memWf

theorem execMemLd8u_memWf {t th a s} (hs : State.memWf s = true) :
    Out3.memWf (execMemLd8u t th a s) := by
  unfold execMemLd8u
  try dsimp only
  repeat' first | with_reducible assumption | with_reducible apply ok_memWf | (intro) | with_reducible apply State.ldG_memWf

theorem execMemLd16u_memWf {t th a s} (hs : State.memWf s = true) :
    Out3.memWf (execMemLd16u t th a s) := by
  unfold execMemLd16u
  try dsimp only
  repeat' first | with_reducible assumption | with_reducible apply ok_memWf | (intro) | with_reducible apply State.ldG_memWf

theorem execMemLd32u_memWf {t th a s} (hs : State.memWf s = true) :
    Out3.memWf (execMemLd32u t th a s) := by
  unfold execMemLd32u
  try dsimp only
  repeat' first | with_reducible assumption | with_reducible apply ok_memWf | (intro) | with_reducible apply State.ldG_memWf

theorem execMemLd64_memWf {t th a s} (hs : State.memWf s = true) :
    Out3.memWf (execMemLd64 t th a s) := by
  unfold execMemLd64
  try dsimp only
  repeat' first | with_reducible assumption | with_reducible apply ok_memWf | (intro) | with_reducible apply State.ldG_memWf

theorem execMemSt8_memWf {t th a s} (hs : State.memWf s = true) :
    Out3.memWf (execMemSt8 t th a s) := by
  unfold execMemSt8
  try dsimp only
  repeat' first | with_reducible assumption | with_reducible apply ok_memWf | (intro) | with_reducible apply State.stG_memWf

theorem execMemSt16_memWf {t th a s} (hs : State.memWf s = true) :
    Out3.memWf (execMemSt16 t th a s) := by
  unfold execMemSt16
  try dsimp only
  repeat' first | with_reducible assumption | with_reducible apply ok_memWf | (intro) | with_reducible apply State.stG_memWf

theorem execMemSt32_memWf {t th a s} (hs : State.memWf s = true) :
    Out3.memWf (execMemSt32 t th a s) := by
  unfold execMemSt32
  try dsimp only
  repeat' first | with_reducible assumption | with_reducible apply ok_memWf | (intro) | with_reducible apply State.stG_memWf

theorem execMemSt64_memWf {t th a s} (hs : State.memWf s = true) :
    Out3.memWf (execMemSt64 t th a s) := by
  unfold execMemSt64
  try dsimp only
  repeat' first | with_reducible assumption | with_reducible apply ok_memWf | (intro) | with_reducible apply State.stG_memWf

theorem execMemAmoadd_memWf {t th a s} (hs : State.memWf s = true) :
    Out3.memWf (execMemAmoadd t th a s) := by
  unfold execMemAmoadd
  try dsimp only
  repeat'
    first
    | with_reducible assumption | with_reducible apply ok_memWf | (intro) | with_reducible apply State.memInsn_memWf
    | with_reducible apply State.atomic_memWf

theorem execMemAmoswp_memWf {t th a s} (hs : State.memWf s = true) :
    Out3.memWf (execMemAmoswp t th a s) := by
  unfold execMemAmoswp
  try dsimp only
  repeat'
    first
    | with_reducible assumption | with_reducible apply ok_memWf | (intro) | with_reducible apply State.memInsn_memWf
    | with_reducible apply State.atomic_memWf

theorem execMemAmocas_memWf {t th a s} (hs : State.memWf s = true) :
    Out3.memWf (execMemAmocas t th a s) := by
  unfold execMemAmocas
  try dsimp only
  repeat'
    first
    | with_reducible assumption | with_reducible apply ok_memWf | (intro) | with_reducible apply State.memInsn_memWf
    | with_reducible apply Act.ifLegal_memWf | with_reducible apply State.atomic_memWf

theorem execMemDld_memWf {t th a s} (hs : State.memWf s = true) :
    Out3.memWf (execMemDld t th a s) := by
  unfold execMemDld
  try dsimp only
  repeat'
    first
    | with_reducible assumption | with_reducible apply ok_memWf | (intro) | with_reducible apply State.memInsn_memWf
    | with_reducible apply Act.ifLegal_memWf | with_reducible apply State.load_memWf | with_reducible apply State.onTile_memWf
    | with_reducible apply Act.memWf_ite | with_reducible exact Act.memWf_trap | with_reducible apply Act.memWf_next

theorem execMemDst_memWf {t th a s} (hs : State.memWf s = true) :
    Out3.memWf (execMemDst t th a s) := by
  unfold execMemDst
  try dsimp only
  repeat'
    first
    | with_reducible assumption | with_reducible apply ok_memWf | (intro) | with_reducible apply State.memInsn_memWf
    | with_reducible apply Act.ifLegal_memWf | with_reducible apply State.store_memWf

theorem execMemFence_memWf {t th a s} (hs : State.memWf s = true) :
    Out3.memWf (execMemFence t th a s) := by
  unfold execMemFence
  try dsimp only
  repeat'
    first
    | with_reducible assumption | with_reducible apply ok_memWf | (intro) | with_reducible apply State.memInsn_memWf
    | with_reducible apply Act.ifLegal_memWf | with_reducible apply Act.memWf_ite | with_reducible exact Act.memWf_trap
    | with_reducible apply Act.memWf_next | with_reducible apply Act.memWf_jump | with_reducible apply Act.memWf_wait

theorem State.csrRead_memWf {s t h_ n} (hs : State.memWf s = true) :
    (State.csrRead s t h_ n).memWf = true := by
  unfold State.csrRead
  try dsimp only
  repeat'
    first
    | with_reducible assumption | (intro) | with_reducible apply State.onThr_memWf | with_reducible apply State.memWf_ite

theorem State.icInv_memWf {s t} (hs : State.memWf s = true) :
    (State.icInv s t).memWf = true := by
  unfold State.icInv
  try dsimp only
  repeat' first | with_reducible assumption | (intro) | with_reducible apply State.onTile_memWf

theorem State.onCsr_memWf {s t f} (hs : State.memWf s = true) :
    (State.onCsr s t f).memWf = true := by
  unfold State.onCsr
  try dsimp only
  repeat' first | with_reducible assumption | (intro) | with_reducible apply State.onTile_memWf

theorem State.csrPut_memWf {s t n v} (hs : State.memWf s = true) :
    (State.csrPut s t n v).memWf = true := by
  unfold State.csrPut
  try dsimp only
  repeat'
    first
    | with_reducible assumption | (intro) | with_reducible apply State.onCsr_memWf | with_reducible apply State.icInv_memWf
    | with_reducible apply State.memWf_ite | with_reducible apply State.memWf_foldl | with_reducible apply State.wf_mem
    | with_reducible apply State.wf_hostMem | split

theorem State.csrOp_memWf {s t th fn a useD useA new} (hs : State.memWf s = true) :
    (State.csrOp s t th fn a useD useA new).memWf = true := by
  unfold State.csrOp
  try dsimp only
  repeat'
    first
    | with_reducible assumption | (intro) | with_reducible apply State.scalar_memWf | with_reducible apply State.setG_memWf
    | with_reducible apply State.csrRead_memWf | with_reducible apply Act.ifLegal_memWf | with_reducible apply State.csrPut_memWf
    | with_reducible apply Act.memWf_ite | with_reducible exact Act.memWf_trap | with_reducible apply Act.memWf_next
    | with_reducible apply Act.memWf_jump | with_reducible apply Act.memWf_wait | with_reducible apply Act.memWf_done
    | with_reducible exact Reach.memWf_store | with_reducible exact Reach.memWf_phys | with_reducible apply Reach.memWf_stop
    | with_reducible apply Reach.memWf_ite | with_reducible refine Reach.memWf_of_stop ?_ (by assumption)
    | with_reducible apply State.memWf_ite | with_reducible apply State.memWf_foldl | with_reducible apply State.wf_mem
    | with_reducible apply State.wf_hostMem | split

theorem execCsrRd_memWf {t th a s} (hs : State.memWf s = true) :
    Out3.memWf (execCsrRd t th a s) := by
  unfold execCsrRd
  try dsimp only
  repeat'
    first
    | with_reducible assumption | with_reducible apply ok_memWf | (intro) | with_reducible apply State.csrOp_memWf

theorem execCsrWr_memWf {t th a s} (hs : State.memWf s = true) :
    Out3.memWf (execCsrWr t th a s) := by
  unfold execCsrWr
  try dsimp only
  repeat'
    first
    | with_reducible assumption | with_reducible apply ok_memWf | (intro) | with_reducible apply State.csrOp_memWf

theorem execCsrSet_memWf {t th a s} (hs : State.memWf s = true) :
    Out3.memWf (execCsrSet t th a s) := by
  unfold execCsrSet
  try dsimp only
  repeat'
    first
    | with_reducible assumption | with_reducible apply ok_memWf | (intro) | with_reducible apply State.csrOp_memWf

theorem execCsrClr_memWf {t th a s} (hs : State.memWf s = true) :
    Out3.memWf (execCsrClr t th a s) := by
  unfold execCsrClr
  try dsimp only
  repeat'
    first
    | with_reducible assumption | with_reducible apply ok_memWf | (intro) | with_reducible apply State.csrOp_memWf

theorem execCsrSwap_memWf {t th a s} (hs : State.memWf s = true) :
    Out3.memWf (execCsrSwap t th a s) := by
  unfold execCsrSwap
  try dsimp only
  repeat'
    first
    | with_reducible assumption | with_reducible apply ok_memWf | (intro) | with_reducible apply State.csrOp_memWf

theorem execTccIcinv_memWf {t s} (hs : State.memWf s = true) :
    Out3.memWf (execTccIcinv t s) := by
  unfold execTccIcinv
  try dsimp only
  repeat'
    first
    | with_reducible assumption | with_reducible apply ok_memWf | (intro) | with_reducible apply State.icInv_memWf
    | with_reducible apply State.memWf_ite

/-! ### Thr.lean -/

theorem State.thrInsn_memWf {s t th fn a body} (hs : State.memWf s = true) (hbody : ∀ a0, State.memWf a0 = true → (body a0).memWf) :
    (State.thrInsn s t th fn a body).memWf = true := by
  unfold State.thrInsn
  try dsimp only
  repeat' first | with_reducible assumption | (intro) | with_reducible apply hbody | with_reducible apply State.scalar_memWf

theorem State.retireTo_memWf {s t th f} (hs : State.memWf s = true) (hf : ∀ a0, State.memWf a0 = true → (f a0).memWf = true) :
    (State.retireTo s t th f).memWf := by
  unfold State.retireTo
  try dsimp only
  repeat'
    first
    | with_reducible assumption | (intro) | with_reducible apply hf | with_reducible apply State.retireAt_memWf
    | with_reducible apply Act.memWf_ite | with_reducible exact Act.memWf_trap | with_reducible apply Act.memWf_next
    | with_reducible apply Act.memWf_jump | with_reducible apply Act.memWf_wait | with_reducible apply Act.memWf_done

theorem execThrYield_memWf {t th a s} (hs : State.memWf s = true) :
    Out3.memWf (execThrYield t th a s) := by
  unfold execThrYield
  try dsimp only
  repeat'
    first
    | with_reducible assumption | with_reducible apply ok_memWf | (intro) | with_reducible apply State.thrInsn_memWf
    | with_reducible apply Act.ifLegal_memWf | with_reducible apply Act.memWf_ite | with_reducible exact Act.memWf_trap
    | with_reducible apply Act.memWf_next

theorem execThrEnd_memWf {t th a s} (hs : State.memWf s = true) :
    Out3.memWf (execThrEnd t th a s) := by
  unfold execThrEnd
  try dsimp only
  repeat'
    first
    | with_reducible assumption | with_reducible apply ok_memWf | (intro) | with_reducible apply State.thrInsn_memWf
    | with_reducible apply Act.ifLegal_memWf | with_reducible apply State.retireTo_memWf | with_reducible apply State.endMain_memWf

theorem execThrHend_memWf {t th a s} (hs : State.memWf s = true) :
    Out3.memWf (execThrHend t th a s) := by
  unfold execThrHend
  try dsimp only
  repeat'
    first
    | with_reducible assumption | with_reducible apply ok_memWf | (intro) | with_reducible apply State.thrInsn_memWf
    | with_reducible apply Act.ifLegal_memWf | with_reducible apply State.retireTo_memWf | with_reducible apply State.endThread_memWf

theorem execThrWend_memWf {t th a s} (hs : State.memWf s = true) :
    Out3.memWf (execThrWend t th a s) := by
  unfold execThrWend
  try dsimp only
  repeat'
    first
    | with_reducible assumption | with_reducible apply ok_memWf | (intro) | with_reducible apply State.thrInsn_memWf
    | with_reducible apply Act.ifLegal_memWf | with_reducible apply State.retireTo_memWf | with_reducible apply State.endWalk_memWf

theorem execThrPark_memWf {t th a s} (hs : State.memWf s = true) :
    Out3.memWf (execThrPark t th a s) := by
  unfold execThrPark
  try dsimp only
  repeat'
    first
    | with_reducible assumption | with_reducible apply ok_memWf | (intro) | with_reducible apply State.thrInsn_memWf
    | with_reducible apply Act.ifLegal_memWf | with_reducible apply State.retireTo_memWf | with_reducible apply State.onTile_memWf
    | with_reducible apply State.unitEnded_memWf

theorem execThrSvcall_memWf {t th a s} (hs : State.memWf s = true) :
    Out3.memWf (execThrSvcall t th a s) := by
  unfold execThrSvcall
  try dsimp only
  repeat'
    first
    | with_reducible assumption | with_reducible apply ok_memWf | (intro) | with_reducible apply State.thrInsn_memWf
    | with_reducible apply Act.ifLegal_memWf | with_reducible apply Act.memWf_ite | with_reducible exact Act.memWf_trap

theorem execThrBreak_memWf {t th a s} (hs : State.memWf s = true) :
    Out3.memWf (execThrBreak t th a s) := by
  unfold execThrBreak
  try dsimp only
  repeat'
    first
    | with_reducible assumption | with_reducible apply ok_memWf | (intro) | with_reducible apply State.thrInsn_memWf
    | with_reducible apply Act.ifLegal_memWf | with_reducible apply Act.memWf_ite | with_reducible exact Act.memWf_trap

theorem State.scalarSend_memWf {s t th a payload} (hs : State.memWf s = true) :
    (State.scalarSend s t th a payload).memWf := by
  unfold State.scalarSend
  try dsimp only
  repeat'
    first
    | with_reducible assumption | (intro) | with_reducible apply State.setP_memWf | with_reducible apply State.onLep_memWf
    | with_reducible apply State.count_memWf | with_reducible apply State.respond_memWf
    | with_reducible refine State.acceptChan_memWf ?_ _ (by assumption) | with_reducible apply Act.memWf_ite
    | with_reducible exact Act.memWf_trap | with_reducible apply Act.memWf_next | with_reducible apply Act.memWf_jump
    | with_reducible apply Act.memWf_wait | with_reducible apply Act.memWf_done | with_reducible exact Reach.memWf_store
    | with_reducible exact Reach.memWf_phys | with_reducible apply Reach.memWf_stop | with_reducible apply Reach.memWf_ite
    | with_reducible refine Reach.memWf_of_stop ?_ (by assumption) | with_reducible apply State.memWf_ite
    | with_reducible apply State.memWf_foldl | with_reducible apply State.wf_mem | with_reducible apply State.wf_hostMem | split

theorem execLodeSendr_memWf {t th a s} (hs : State.memWf s = true) :
    Out3.memWf (execLodeSendr t th a s) := by
  unfold execLodeSendr
  try dsimp only
  repeat'
    first
    | with_reducible assumption | with_reducible apply ok_memWf | (intro) | with_reducible apply State.thrInsn_memWf
    | with_reducible apply Act.ifLegal_memWf | with_reducible apply State.scalarSend_memWf

theorem State.gatherVa_memWf {s t th va n} (hs : State.memWf s = true) :
    (∀ e, State.gatherVa s t th va n = .error e → e.memWf) ∧ ∀ p, State.gatherVa s t th va n = .ok p → p.2.memWf = true := by
  unfold State.gatherVa
  extract_lets h f chunk
  have key := foldl_keeps (P := fun r : Except Act (List Byte × State × List RemReq) =>
      (∀ e, r = .error e → e.memWf) ∧ ∀ p, r = .ok p → p.2.1.memWf = true)
    (l := List.range ((n + 31) / 32)) (b := .ok ([], s, [])) (f := chunk) ?_ ?_
  · split
    · refine ⟨fun e he => ?_, fun p hp => by cases hp⟩
      cases he
      exact key.1 _ (by assumption)
    · have hu := key.2 _ (by assumption)
      split
      · exact ⟨fun e he => (by cases he), fun p hp => (by cases hp; exact hu)⟩
      · exact ⟨fun e he => (by cases he; exact Act.memWf_wait (State.memWf_foldl (fun s r hs => State.request_memWf hs) hs)), fun p hp => (by cases hp)⟩
  · intro r i hr
    constructor
    · intro e he
      dsimp only [chunk] at he
      repeat' split at he
      all_goals cases he
      all_goals
        first
        | exact hr.1 _ rfl | exact Reach.memWf_of_stop (State.reachVa_memWf hs) (by assumption)
        | exact Act.memWf_wait (State.atsAsk_memWf hs) | exact Act.memWf_wait hs | exact Act.memWf_trap
    · intro p hp
      dsimp only [chunk] at hp
      repeat' split at hp
      all_goals cases hp
      all_goals have h := hr.2 _ rfl
      all_goals first | exact h | exact State.tookBytes_memWf (State.wakeFor_memWf h)
  · exact ⟨fun e he => (by cases he), fun p hp => (by cases hp; exact hs)⟩

theorem execLodeSendm_memWf {t th a s} (hs : State.memWf s = true) : Out3.memWf (execLodeSendm t th a s) := by
  refine ok_memWf (State.thrInsn_memWf hs fun s hs => ?_)
  refine Act.ifLegal_memWf (Act.memWf_ite Act.memWf_trap ?_)
  split
  · exact (State.gatherVa_memWf hs).1 _ (by assumption)
  · exact State.scalarSend_memWf ((State.gatherVa_memWf hs).2 _ (by assumption))

theorem State.selTake_memWf {s t h_ q pos} (hs : State.memWf s = true) :
    ∀ w, State.selTake s t h_ q pos = some w → w.1.memWf = true := by
  intro w hw
  unfold State.selTake at hw
  try dsimp only at hw
  repeat' split at hw
  all_goals try first
    | (rw [← Option.some.inj hw]) | (simp only [reduceCtorEq] at hw)
  all_goals repeat'
      first
      | with_reducible assumption | (intro) | with_reducible apply State.onLep_memWf | with_reducible apply State.onQueue_memWf

theorem execLodeSelect_memWf {t th a s} (hs : State.memWf s = true) :
    Out3.memWf (execLodeSelect t th a s) := by
  unfold execLodeSelect
  try dsimp only
  repeat'
    first
    | with_reducible assumption | with_reducible apply ok_memWf | (intro) | with_reducible apply State.thrInsn_memWf
    | with_reducible apply Act.ifLegal_memWf | with_reducible apply State.releaseHeld_memWf | with_reducible apply State.setG_memWf
    | with_reducible refine State.selTake_memWf ?_ _ (by assumption) | with_reducible apply State.onLep_memWf
    | with_reducible apply Act.memWf_ite | with_reducible exact Act.memWf_trap | with_reducible apply Act.memWf_next
    | with_reducible apply Act.memWf_jump | with_reducible apply Act.memWf_wait | with_reducible apply Act.memWf_done
    | with_reducible exact Reach.memWf_store | with_reducible exact Reach.memWf_phys | with_reducible apply Reach.memWf_stop
    | with_reducible apply Reach.memWf_ite | with_reducible refine Reach.memWf_of_stop ?_ (by assumption)
    | with_reducible apply State.memWf_ite | with_reducible apply State.memWf_foldl | with_reducible apply State.wf_mem
    | with_reducible apply State.wf_hostMem | split

end Sys2Proof.Machine
end

