-- ==== Sys2Proof/Laws/MemWfUnits.lean ====
section
/-! SUPPORT. What every function leaves of the canonical form of both memories: the tensor units. -/
namespace Sys2Proof.Machine

/-! ### Plan.lean -/

theorem State.tookVas_memWf {s t l} (hs : State.memWf s = true) :
    (State.tookVas s t l).memWf = true := by
  unfold State.tookVas
  try dsimp only
  repeat'
    first
    | with_reducible assumption | (intro) | with_reducible apply State.tookBytes_memWf | with_reducible apply State.memWf_ite
    | with_reducible apply State.memWf_foldl | with_reducible apply State.wf_mem | with_reducible apply State.wf_hostMem | split

theorem State.tookSrcs_memWf {s t r} (hs : State.memWf s = true) :
    (State.tookSrcs s t r).memWf = true := by
  unfold State.tookSrcs
  try dsimp only
  repeat'
    first
    | with_reducible assumption | (intro) | with_reducible apply State.tookVas_memWf | with_reducible apply State.memWf_ite
    | with_reducible apply State.memWf_foldl

theorem State.askFar_memWf {s t seq l} (hs : State.memWf s = true) :
    (State.askFar s t seq l).memWf = true := by
  unfold State.askFar
  try dsimp only
  repeat'
    first
    | with_reducible assumption | (intro) | with_reducible apply State.request_memWf | with_reducible apply State.memWf_ite
    | with_reducible apply State.memWf_foldl

theorem State.opOver_memWf {s t tag acks} (hs : State.memWf s = true) :
    (State.opOver s t tag acks).memWf = true := by
  unfold State.opOver
  try dsimp only
  repeat' first | with_reducible assumption | (intro) | with_reducible apply State.onTile_memWf

theorem State.opDone_memWf {s t tag} (hs : State.memWf s = true) :
    (State.opDone s t tag).memWf = true := by
  unfold State.opDone
  try dsimp only
  repeat' first | with_reducible assumption | (intro) | with_reducible apply State.opOver_memWf

theorem State.opDoneOr_memWf {s t tag desc bad} (hs : State.memWf s = true) :
    (State.opDoneOr s t tag desc bad).memWf = true := by
  unfold State.opDoneOr
  try dsimp only
  repeat'
    first
    | with_reducible assumption | (intro) | with_reducible apply State.opDone_memWf | with_reducible apply State.raiseOp_memWf
    | with_reducible apply State.memWf_ite | with_reducible apply State.memWf_foldl | with_reducible apply State.wf_mem
    | with_reducible apply State.wf_hostMem | split

theorem State.opFaulted_memWf {s t tag ds e_} (hs : State.memWf s = true) :
    (State.opFaulted s t tag ds e_).memWf = true := by
  unfold State.opFaulted
  try dsimp only
  repeat'
    first
    | with_reducible assumption | (intro) | with_reducible apply State.opFault_memWf | with_reducible apply State.scrambleDst_memWf
    | with_reducible apply State.memWf_ite | with_reducible apply State.memWf_foldl

theorem State.writeDst_memWf {s t r unit w_} (hs : State.memWf s = true) :
    (State.writeDst s t r unit w_).memWf = true := by
  unfold State.writeDst
  try dsimp only
  repeat'
    first
    | with_reducible assumption | (intro) | with_reducible apply State.storeCodes_memWf | with_reducible apply State.addStats_memWf
    | with_reducible apply State.addCounts_memWf | with_reducible apply State.recordNans_memWf

theorem State.sfResults_memWf {s t unit n} (hs : State.memWf s = true) :
    (State.sfResults s t unit n).memWf = true := by
  unfold State.sfResults
  try dsimp only
  repeat'
    first
    | with_reducible assumption | (intro) | with_reducible apply State.count_memWf | with_reducible apply State.memWf_ite

theorem State.finishOp_memWf {s t tag r unit ws} (hs : State.memWf s = true) :
    (State.finishOp s t tag r unit ws).memWf = true := by
  unfold State.finishOp
  try dsimp only
  repeat'
    first
    | with_reducible assumption | (intro) | with_reducible apply State.opFaulted_memWf | with_reducible apply State.opDoneOr_memWf
    | with_reducible apply State.sfResults_memWf | with_reducible apply State.writeDst_memWf | with_reducible apply State.memWf_ite
    | with_reducible apply State.memWf_foldl | with_reducible apply State.wf_mem | with_reducible apply State.wf_hostMem | split

/-! ### Vsu.lean -/

theorem State.runVs_memWf {s t tag r} (hs : State.memWf s = true) :
    (State.runVs s t tag r).memWf = true := by
  unfold State.runVs
  try dsimp only
  repeat'
    first
    | with_reducible assumption | (intro) | with_reducible apply State.opFaulted_memWf | with_reducible apply State.finishOp_memWf
    | with_reducible apply State.memWf_ite | with_reducible apply State.memWf_foldl | with_reducible apply State.wf_mem
    | with_reducible apply State.wf_hostMem | split

theorem State.statCommit_memWf {s f pa} (hs : State.memWf s = true) :
    (State.statCommit s f pa).memWf = true := by
  unfold State.statCommit
  try dsimp only
  repeat' first | with_reducible assumption | (intro) | with_reducible apply State.writeNat_memWf

theorem State.statScramble_memWf {s f pa} (hs : State.memWf s = true) :
    (State.statScramble s f pa).memWf = true := by
  unfold State.statScramble
  try dsimp only
  repeat'
    first
    | with_reducible assumption | (intro) | with_reducible apply State.writeNat_memWf | with_reducible apply State.drawn_memWf
    | with_reducible apply State.memWf_ite | with_reducible apply State.memWf_foldl

theorem State.runStatpick_memWf {s t tag r} (hs : State.memWf s = true) :
    (State.runStatpick s t tag r).memWf = true := by
  unfold State.runStatpick
  try dsimp only
  repeat'
    first
    | with_reducible assumption | (intro) | with_reducible apply State.raiseOp_memWf | with_reducible apply State.opFaulted_memWf
    | with_reducible apply State.statScramble_memWf | with_reducible apply State.statCommit_memWf | with_reducible apply State.writeNat_memWf
    | with_reducible apply State.opDone_memWf | with_reducible apply State.storeVa_memWf | with_reducible apply State.memWf_ite
    | with_reducible apply State.memWf_foldl | with_reducible apply State.wf_mem | with_reducible apply State.wf_hostMem | split

/-! ### Sfu.lean -/

theorem State.slotLoaded_memWf {s t n st tid crc} (hs : State.memWf s = true) :
    (State.slotLoaded s t n st tid crc).memWf = true := by
  unfold State.slotLoaded
  try dsimp only
  repeat' first | with_reducible assumption | (intro) | with_reducible apply State.wrs_memWf

theorem State.runSfLoad_memWf {s t tag r} (hs : State.memWf s = true) :
    (State.runSfLoad s t tag r).memWf = true := by
  unfold State.runSfLoad
  try dsimp only
  repeat'
    first
    | with_reducible assumption | (intro) | with_reducible apply State.opFaulted_memWf | with_reducible apply State.opOver_memWf
    | with_reducible apply State.onTile_memWf | with_reducible apply State.slotLoaded_memWf | with_reducible apply State.memWf_ite
    | with_reducible apply State.memWf_foldl | with_reducible apply State.wf_mem | with_reducible apply State.wf_hostMem | split

theorem State.progMark_memWf {s t p on} (hs : State.memWf s = true) :
    (State.progMark s t p on).memWf = true := by
  unfold State.progMark
  try dsimp only
  repeat' first | with_reducible assumption | (intro) | with_reducible apply State.wr_memWf

theorem State.runSfPload_memWf {s t tag r} (hs : State.memWf s = true) :
    (State.runSfPload s t tag r).memWf = true := by
  unfold State.runSfPload
  try dsimp only
  repeat'
    first
    | with_reducible assumption | (intro) | with_reducible apply State.opFaulted_memWf | with_reducible apply State.opOver_memWf
    | with_reducible apply State.onTile_memWf | with_reducible apply State.progMark_memWf | with_reducible apply State.memWf_ite
    | with_reducible apply State.memWf_foldl | with_reducible apply State.wf_mem | with_reducible apply State.wf_hostMem | split

theorem State.runCompat_memWf {s t tag r fn cs} (hs : State.memWf s = true) :
    (State.runCompat s t tag r fn cs).memWf = true := by
  unfold State.runCompat
  try dsimp only
  repeat'
    first
    | with_reducible assumption | (intro) | with_reducible apply State.opFaulted_memWf | with_reducible apply State.opDone_memWf
    | with_reducible apply State.sfResults_memWf | with_reducible apply State.recordNans_memWf | with_reducible apply State.storeCodes_memWf
    | with_reducible apply State.memWf_ite | with_reducible apply State.memWf_foldl | with_reducible apply State.wf_mem
    | with_reducible apply State.wf_hostMem | split

theorem State.runSfEval_memWf {s t tag r} (hs : State.memWf s = true) :
    (State.runSfEval s t tag r).memWf = true := by
  unfold State.runSfEval
  try dsimp only
  repeat'
    first
    | with_reducible assumption | (intro) | with_reducible apply State.raiseOp_memWf | with_reducible apply State.opFaulted_memWf
    | with_reducible apply State.runCompat_memWf | with_reducible apply State.finishOp_memWf | with_reducible apply State.memWf_ite
    | with_reducible apply State.memWf_foldl | with_reducible apply State.wf_mem | with_reducible apply State.wf_hostMem | split

theorem State.runRnorm_memWf {s t tag r} (hs : State.memWf s = true) :
    (State.runRnorm s t tag r).memWf = true := by
  unfold State.runRnorm
  try dsimp only
  repeat'
    first
    | with_reducible assumption | (intro) | with_reducible apply State.opFaulted_memWf | with_reducible apply State.finishOp_memWf
    | with_reducible apply State.memWf_ite | with_reducible apply State.memWf_foldl | with_reducible apply State.wf_mem
    | with_reducible apply State.wf_hostMem | split

theorem State.rangeTrap_memWf {s t tag r k row col} (hs : State.memWf s = true) :
    (State.rangeTrap s t tag r k row col).memWf = true := by
  unfold State.rangeTrap
  try dsimp only
  repeat'
    first
    | with_reducible assumption | (intro) | with_reducible apply State.count_memWf | with_reducible apply State.wrs_memWf
    | with_reducible apply State.raiseOp_memWf | with_reducible apply State.memWf_ite

theorem State.runSmax_memWf {s t tag r} (hs : State.memWf s = true) :
    (State.runSmax s t tag r).memWf = true := by
  unfold State.runSmax
  try dsimp only
  repeat'
    first
    | with_reducible assumption | (intro) | with_reducible apply State.opFaulted_memWf | with_reducible apply State.rangeTrap_memWf
    | with_reducible apply State.finishOp_memWf | with_reducible apply State.memWf_ite | with_reducible apply State.memWf_foldl
    | with_reducible apply State.wf_mem | with_reducible apply State.wf_hostMem | split

/-! ### Combiner.lean -/

theorem State.onSlot_memWf {s n f} (hs : State.memWf s = true) :
    (State.onSlot s n f).memWf = true := by
  unfold State.onSlot
  try dsimp only
  repeat'
    first
    | with_reducible assumption | (intro) | with_reducible apply State.memWf_ite | with_reducible apply State.memWf_foldl
    | with_reducible apply State.wf_mem | with_reducible apply State.wf_hostMem
    | (simp only [State.mk_memWf, Bool.and_eq_true]; apply And.intro)

theorem State.storeCells_memWf {s t d cs} (hs : State.memWf s = true) :
    (State.storeCells s t d cs).memWf = true := by
  unfold State.storeCells
  try dsimp only
  repeat'
    first
    | with_reducible assumption | (intro) | with_reducible apply State.storeVa_memWf | with_reducible apply State.memWf_ite
    | with_reducible apply State.memWf_foldl

theorem State.lxRecord_memWf {s t tag desc iaddr l} (hs : State.memWf s = true) :
    (State.lxRecord s t tag desc iaddr l).memWf = true := by
  unfold State.lxRecord
  try dsimp only
  repeat'
    first
    | with_reducible assumption | (intro) | with_reducible apply State.count_memWf | with_reducible apply State.wrs_memWf
    | with_reducible apply State.memWf_ite | with_reducible apply State.memWf_foldl | with_reducible apply State.wf_mem
    | with_reducible apply State.wf_hostMem | split

theorem State.onSeq_memWf {s t seq f} (hs : State.memWf s = true) (hf : ∀ a0 a1 a2, State.memWf a0 = true → (f a0 a1 a2).memWf = true) :
    (State.onSeq s t seq f).memWf = true := by
  unfold State.onSeq
  try dsimp only
  repeat'
    first
    | with_reducible assumption | (intro) | with_reducible apply hf | with_reducible apply State.memWf_ite
    | with_reducible apply State.memWf_foldl | with_reducible apply State.wf_mem | with_reducible apply State.wf_hostMem | split

theorem State.partAcked_memWf {s t seq acks lx} (hs : State.memWf s = true) :
    (State.partAcked s t seq acks lx).memWf = true := by
  unfold State.partAcked
  try dsimp only
  repeat'
    first
    | with_reducible assumption | (intro) | with_reducible apply State.onSeq_memWf | with_reducible apply State.onTile_memWf

theorem State.partEnded_memWf {s t seq status} (hs : State.memWf s = true) :
    (State.partEnded s t seq status).memWf = true := by
  unfold State.partEnded
  try dsimp only
  repeat'
    first
    | with_reducible assumption | (intro) | with_reducible apply State.onTile_memWf | with_reducible apply State.memWf_ite
    | with_reducible apply State.memWf_foldl | with_reducible apply State.wf_mem | with_reducible apply State.wf_hostMem | split

theorem State.ackPart_memWf {s p acks lx} (hs : State.memWf s = true) :
    (State.ackPart s p acks lx).memWf = true := by
  unfold State.ackPart
  try dsimp only
  repeat' first | with_reducible assumption | (intro) | with_reducible apply State.partAcked_memWf

theorem State.endPart_memWf {s p status} (hs : State.memWf s = true) :
    (State.endPart s p status).memWf = true := by
  unfold State.endPart
  try dsimp only
  repeat' first | with_reducible assumption | (intro) | with_reducible apply State.partEnded_memWf

theorem State.sendRed_memWf {s k d} (hs : State.memWf s = true) :
    (State.sendRed s k d).memWf = true := by
  unfold State.sendRed
  try dsimp only
  repeat' first | with_reducible assumption | (intro) | with_reducible apply State.sendPkt_memWf

theorem State.tellGroup_memWf {s w_ status} (hs : State.memWf s = true) :
    (State.tellGroup s w_ status).memWf = true := by
  unfold State.tellGroup
  try dsimp only
  repeat'
    first
    | with_reducible assumption | (intro) | with_reducible apply State.sendRed_memWf | with_reducible apply State.memWf_ite
    | with_reducible apply State.memWf_foldl

theorem State.groupFail_memWf {s n status heard} (hs : State.memWf s = true) :
    (State.groupFail s n status heard).memWf = true := by
  unfold State.groupFail
  try dsimp only
  repeat'
    first
    | with_reducible assumption | (intro) | with_reducible apply State.endPart_memWf | with_reducible apply State.onSlot_memWf
    | with_reducible apply State.tellGroup_memWf | with_reducible apply State.memWf_ite | with_reducible apply State.memWf_foldl

theorem State.slotFree_memWf {s n} (hs : State.memWf s = true) :
    (State.slotFree s n).memWf = true := by
  unfold State.slotFree
  try dsimp only
  repeat' first | with_reducible assumption | (intro) | with_reducible apply State.onSlot_memWf

theorem State.treduceSent_memWf {s p} (hs : State.memWf s = true) :
    (State.treduceSent s p).memWf = true := by
  unfold State.treduceSent
  try dsimp only
  repeat'
    first
    | with_reducible assumption | (intro) | with_reducible apply State.ackPart_memWf | with_reducible apply State.memWf_ite

theorem State.slotGo_memWf {n x1 x2} (hx2 : State.memWf x2 = true) :
    (State.slotGo n x1 x2).memWf = true := by
  induction x1 generalizing x2 with
  | zero =>
    unfold State.slotGo
    try dsimp only
    repeat'
      first
      | with_reducible assumption
  | succ k ih =>
    unfold State.slotGo
    try dsimp only
    repeat'
      first
      | with_reducible assumption | (intro) | with_reducible apply ih | with_reducible apply State.tellGroup_memWf
      | with_reducible apply State.slotFree_memWf | with_reducible apply State.onSlot_memWf | with_reducible apply State.endPart_memWf
      | with_reducible apply State.groupFail_memWf | with_reducible apply State.treduceSent_memWf | with_reducible apply State.memWf_ite
      | with_reducible apply State.memWf_foldl | with_reducible apply State.wf_mem | with_reducible apply State.wf_hostMem | split

theorem State.slotJoin_memWf {s n} (hs : State.memWf s = true) :
    (State.slotJoin s n).memWf = true := by
  unfold State.slotJoin
  try dsimp only
  repeat' first | with_reducible assumption | (intro) | with_reducible apply State.slotGo_memWf

theorem State.sendPart_memWf {s p} (hs : State.memWf s = true) :
    (State.sendPart s p).memWf = true := by
  unfold State.sendPart
  try dsimp only
  repeat'
    first
    | with_reducible assumption | (intro) | with_reducible apply State.slotJoin_memWf | with_reducible apply State.onSlot_memWf

theorem State.sendEncoded_memWf {s p row cs} (hs : State.memWf s = true) :
    (State.sendEncoded s p row cs).memWf = true := by
  unfold State.sendEncoded
  try dsimp only
  repeat'
    first
    | with_reducible assumption | (intro) | with_reducible apply State.sendRed_memWf | with_reducible apply State.memWf_ite
    | with_reducible apply State.memWf_foldl

theorem State.putResult_memWf {s t tag r cs} (hs : State.memWf s = true) :
    (State.putResult s t tag r cs).memWf = true := by
  unfold State.putResult
  try dsimp only
  repeat'
    first
    | with_reducible assumption | (intro) | with_reducible apply State.claim_memWf | with_reducible apply State.storeCells_memWf
    | with_reducible apply State.raiseOp_memWf | with_reducible apply State.tmuRecord_memWf | with_reducible apply State.memWf_ite
    | with_reducible apply State.memWf_foldl | with_reducible apply State.wf_mem | with_reducible apply State.wf_hostMem | split

theorem State.rootRecords_memWf {s t tag r c vs nans lx} (hs : State.memWf s = true) :
    (State.rootRecords s t tag r c vs nans lx).memWf = true := by
  unfold State.rootRecords
  try dsimp only
  repeat'
    first
    | with_reducible assumption | (intro) | with_reducible apply State.claim_memWf | with_reducible apply State.addStats_memWf
    | with_reducible apply State.addCounts_memWf | with_reducible apply State.lxRecord_memWf | with_reducible apply State.recordNans_memWf
    | with_reducible apply State.raiseOp_memWf | with_reducible apply State.memWf_ite | with_reducible apply State.memWf_foldl
    | with_reducible apply State.wf_mem | with_reducible apply State.wf_hostMem | split

theorem State.encodeRows_memWf {s n p row} (hs : State.memWf s = true) :
    (State.encodeRows s n p row).memWf = true := by
  unfold State.encodeRows
  try dsimp only
  repeat'
    first
    | with_reducible assumption | (intro) | with_reducible apply State.sendEncoded_memWf | with_reducible apply State.onSeq_memWf
    | with_reducible apply State.putResult_memWf | with_reducible apply State.rootRecords_memWf | with_reducible apply State.onSlot_memWf
    | with_reducible apply State.memWf_ite | with_reducible apply State.memWf_foldl

theorem State.rootRow_memWf {s n p row es} (hs : State.memWf s = true) :
    (State.rootRow s n p row es).memWf = true := by
  unfold State.rootRow
  try dsimp only
  repeat'
    first
    | with_reducible assumption | (intro) | with_reducible apply State.encodeRows_memWf | with_reducible apply State.onSlot_memWf

theorem State.slotFinish_memWf {s n} (hs : State.memWf s = true) :
    (State.slotFinish s n).memWf = true := by
  unfold State.slotFinish
  try dsimp only
  repeat'
    first
    | with_reducible assumption | (intro) | with_reducible apply State.tellGroup_memWf | with_reducible apply State.onSlot_memWf
    | with_reducible apply State.ackPart_memWf | with_reducible apply State.slotJoin_memWf | with_reducible apply State.memWf_ite
    | with_reducible apply State.memWf_foldl | with_reducible apply State.wf_mem | with_reducible apply State.wf_hostMem | split

theorem State.sendRow_memWf {s p row es d} (hs : State.memWf s = true) :
    (State.sendRow s p row es d).memWf = true := by
  unfold State.sendRow
  try dsimp only
  repeat' first | with_reducible assumption | (intro) | with_reducible apply State.sendRed_memWf

theorem State.fenRow_memWf {s n row root} (hs : State.memWf s = true) :
    (State.fenRow s n row root).memWf = true := by
  unfold State.fenRow
  try dsimp only
  repeat'
    first
    | with_reducible assumption | (intro) | with_reducible apply State.onSlot_memWf | with_reducible apply State.sendRow_memWf
    | with_reducible apply State.rootRow_memWf | with_reducible apply State.memWf_ite | with_reducible apply State.memWf_foldl
    | with_reducible apply State.wf_mem | with_reducible apply State.wf_hostMem | split

theorem State.topRow_memWf {s n row root} (hs : State.memWf s = true) :
    (State.topRow s n row root).memWf = true := by
  unfold State.topRow
  try dsimp only
  repeat'
    first
    | with_reducible assumption | (intro) | with_reducible apply State.rootRow_memWf | with_reducible apply State.onSlot_memWf
    | with_reducible apply State.memWf_ite | with_reducible apply State.memWf_foldl | with_reducible apply State.wf_mem
    | with_reducible apply State.wf_hostMem | split

theorem State.stepRow_memWf {s n row} (hs : State.memWf s = true) :
    (State.stepRow s n row).memWf = true := by
  unfold State.stepRow
  try dsimp only
  repeat'
    first
    | with_reducible assumption | (intro) | with_reducible apply State.topRow_memWf | with_reducible apply State.fenRow_memWf
    | with_reducible apply State.rootRow_memWf | with_reducible apply State.onSlot_memWf | with_reducible apply State.memWf_ite
    | with_reducible apply State.memWf_foldl | with_reducible apply State.wf_mem | with_reducible apply State.wf_hostMem | split

theorem State.encodedIn_memWf {s n row cs} (hs : State.memWf s = true) :
    (State.encodedIn s n row cs).memWf = true := by
  unfold State.encodedIn
  try dsimp only
  repeat'
    first
    | with_reducible assumption | (intro) | with_reducible apply State.onSlot_memWf | with_reducible apply State.onSeq_memWf
    | with_reducible apply State.putResult_memWf | with_reducible apply State.ackPart_memWf | with_reducible apply State.memWf_ite
    | with_reducible apply State.memWf_foldl | with_reducible apply State.wf_mem | with_reducible apply State.wf_hostMem | split

theorem State.redEndIn_memWf {s n w_ status rank} (hs : State.memWf s = true) :
    (State.redEndIn s n w_ status rank).memWf = true := by
  unfold State.redEndIn
  try dsimp only
  repeat'
    first
    | with_reducible assumption | (intro) | with_reducible apply State.onSlot_memWf | with_reducible apply State.ackPart_memWf
    | with_reducible apply State.slotFree_memWf | with_reducible apply State.groupFail_memWf | with_reducible apply State.memWf_ite
    | with_reducible apply State.memWf_foldl | with_reducible apply State.wf_mem | with_reducible apply State.wf_hostMem | split

theorem State.redTake_memWf {s n p} (hs : State.memWf s = true) :
    (State.redTake s n p).memWf = true := by
  unfold State.redTake
  try dsimp only
  repeat'
    first
    | with_reducible assumption | (intro) | with_reducible apply State.onSlot_memWf | with_reducible apply State.encodedIn_memWf
    | with_reducible apply State.redEndIn_memWf | with_reducible apply State.memWf_ite | with_reducible apply State.memWf_foldl
    | with_reducible apply State.wf_mem | with_reducible apply State.wf_hostMem | split

theorem State.redArrive_memWf {s n} (hs : State.memWf s = true) :
    (State.redArrive s n).memWf = true := by
  unfold State.redArrive
  try dsimp only
  repeat'
    first
    | with_reducible assumption | (intro) | with_reducible apply State.redTake_memWf | with_reducible apply State.memWf_ite
    | with_reducible apply State.memWf_foldl | with_reducible apply State.wf_mem | with_reducible apply State.wf_hostMem
    | (simp only [State.mk_memWf, Bool.and_eq_true]; apply And.intro)

theorem State.combine_memWf {s n row} (hs : State.memWf s = true) :
    (State.combine s n row).memWf = true := by
  unfold State.combine
  try dsimp only
  repeat'
    first
    | with_reducible assumption | (intro) | with_reducible apply State.slotJoin_memWf | with_reducible apply State.redArrive_memWf
    | with_reducible apply State.groupFail_memWf | with_reducible apply State.slotFinish_memWf | with_reducible apply State.stepRow_memWf
    | with_reducible apply State.memWf_ite | with_reducible apply State.memWf_foldl | with_reducible apply State.wf_mem
    | with_reducible apply State.wf_hostMem | split

theorem execCombinerRow_memWf {slot row s} (hs : State.memWf s = true) :
    Out3.memWf (execCombinerRow slot row s) := by
  unfold execCombinerRow
  try dsimp only
  repeat'
    first
    | with_reducible assumption | with_reducible apply ok_memWf | (intro) | with_reducible apply State.settle_memWf
    | with_reducible apply State.combine_memWf

/-! ### Reedbed.lean -/

theorem State.onRb_memWf {s t f} (hs : State.memWf s = true) :
    (State.onRb s t f).memWf = true := by
  unfold State.onRb
  try dsimp only
  repeat' first | with_reducible assumption | (intro) | with_reducible apply State.onTile_memWf

theorem State.scrambleBank_memWf {s t bi long m n} (hs : State.memWf s = true) :
    (State.scrambleBank s t bi long m n).memWf = true := by
  unfold State.scrambleBank
  try dsimp only
  repeat'
    first
    | with_reducible assumption | (intro) | with_reducible apply State.drawn_memWf | with_reducible apply State.onRb_memWf

theorem State.unlessTrapped_memWf {s t tag f} (hs : State.memWf s = true) (hf : ∀ a0, State.memWf a0 = true → (f a0).memWf = true) :
    (State.unlessTrapped s t tag f).memWf = true := by
  unfold State.unlessTrapped
  try dsimp only
  repeat'
    first
    | with_reducible assumption | (intro) | with_reducible apply hf | with_reducible apply State.memWf_ite
    | with_reducible apply State.memWf_foldl | with_reducible apply State.wf_mem | with_reducible apply State.wf_hostMem | split

theorem State.drainStall_memWf {s t} (hs : State.memWf s = true) :
    (State.drainStall s t).memWf = true := by
  unfold State.drainStall
  try dsimp only
  repeat'
    first
    | with_reducible assumption | (intro) | with_reducible apply State.drawn_memWf | with_reducible apply State.count_memWf

theorem State.markLx_memWf {s t tag any} (hs : State.memWf s = true) :
    (State.markLx s t tag any).memWf = true := by
  unfold State.markLx
  try dsimp only
  repeat'
    first
    | with_reducible assumption | (intro) | with_reducible apply State.onTile_memWf | with_reducible apply State.memWf_ite

theorem State.drain_memWf {s0 t tag r} (hs0 : State.memWf s0 = true) :
    (State.drain s0 t tag r).memWf = true := by
  unfold State.drain
  try dsimp only
  repeat'
    first
    | with_reducible assumption | (intro) | with_reducible apply State.drainStall_memWf | with_reducible apply State.sendPart_memWf
    | with_reducible apply State.onTile_memWf | with_reducible apply State.unlessTrapped_memWf | with_reducible apply State.claim_memWf
    | with_reducible apply State.finishOp_memWf | with_reducible apply State.lxRecord_memWf | with_reducible apply State.markLx_memWf
    | with_reducible apply State.memWf_ite

theorem State.runPreload_memWf {s t tag r} (hs : State.memWf s = true) :
    (State.runPreload s t tag r).memWf = true := by
  unfold State.runPreload
  try dsimp only
  repeat'
    first
    | with_reducible assumption | (intro) | with_reducible apply State.drawn_memWf | with_reducible apply State.onRb_memWf
    | with_reducible apply State.scrambleBank_memWf | with_reducible apply State.opFaulted_memWf | with_reducible apply State.opOver_memWf
    | with_reducible apply State.tookSrcs_memWf | with_reducible apply State.memWf_ite | with_reducible apply State.memWf_foldl
    | with_reducible apply State.wf_mem | with_reducible apply State.wf_hostMem | split

theorem State.passEnd_memWf {s t tag r} (hs : State.memWf s = true) :
    (State.passEnd s t tag r).memWf = true := by
  unfold State.passEnd
  try dsimp only
  repeat'
    first
    | with_reducible assumption | (intro) | with_reducible apply State.drain_memWf | with_reducible apply State.opOver_memWf
    | with_reducible apply State.memWf_ite

theorem State.runPass_memWf {s t tag r} (hs : State.memWf s = true) :
    (State.runPass s t tag r).memWf = true := by
  unfold State.runPass
  try dsimp only
  repeat'
    first
    | with_reducible assumption | (intro) | with_reducible apply State.count_memWf | with_reducible apply State.passEnd_memWf
    | with_reducible apply State.scrambleBank_memWf | with_reducible apply State.opFaulted_memWf | with_reducible apply State.onRb_memWf
    | with_reducible apply State.tookVas_memWf | with_reducible apply State.memWf_ite | with_reducible apply State.memWf_foldl
    | with_reducible apply State.wf_mem | with_reducible apply State.wf_hostMem | split

theorem State.panelFault_memWf {s t tag r} (hs : State.memWf s = true) :
    (State.panelFault s t tag r).memWf = true := by
  unfold State.panelFault
  try dsimp only
  repeat'
    first
    | with_reducible assumption | (intro) | with_reducible apply State.opFaulted_memWf | with_reducible apply State.scrambleBank_memWf
    | with_reducible apply State.onTile_memWf | with_reducible apply State.memWf_ite | with_reducible apply State.memWf_foldl
    | with_reducible apply State.wf_mem | with_reducible apply State.wf_hostMem | split

theorem State.rbAdvance_memWf {s t x2} (hs : State.memWf s = true) :
    (State.rbAdvance s t x2).memWf = true := by
  induction x2 generalizing s with
  | zero =>
    unfold State.rbAdvance
    try dsimp only
    repeat'
      first
      | with_reducible assumption
  | succ k ih =>
    unfold State.rbAdvance
    try dsimp only
    repeat'
      first
      | with_reducible assumption | (intro) | with_reducible apply ih | with_reducible apply State.runPreload_memWf
      | with_reducible apply State.drain_memWf | with_reducible apply State.panelFault_memWf | with_reducible apply State.memWf_ite
      | with_reducible apply State.memWf_foldl | with_reducible apply State.wf_mem | with_reducible apply State.wf_hostMem | split

theorem State.rbRun_memWf {s t} (hs : State.memWf s = true) :
    (State.rbRun s t).memWf = true := by
  unfold State.rbRun
  try dsimp only
  repeat' first | with_reducible assumption | (intro) | with_reducible apply State.rbAdvance_memWf

theorem State.panelFetch_memWf {s t} (hs : State.memWf s = true) :
    (State.panelFetch s t).memWf = true := by
  unfold State.panelFetch
  try dsimp only
  repeat'
    first
    | with_reducible assumption | (intro) | with_reducible apply State.rbRun_memWf | with_reducible apply State.onTile_memWf
    | with_reducible apply State.onRb_memWf | with_reducible apply State.tookVas_memWf | with_reducible apply State.memWf_ite
    | with_reducible apply State.memWf_foldl | with_reducible apply State.wf_mem | with_reducible apply State.wf_hostMem | split

theorem execPanelFetch_memWf {t s} (hs : State.memWf s = true) :
    Out3.memWf (execPanelFetch t s) := by
  unfold execPanelFetch
  try dsimp only
  repeat'
    first
    | with_reducible assumption | with_reducible apply ok_memWf | (intro) | with_reducible apply State.settle_memWf
    | with_reducible apply State.panelFetch_memWf

theorem execPanelToShadow_memWf {t s} (hs : State.memWf s = true) :
    Out3.memWf (execPanelToShadow t s) := by
  unfold execPanelToShadow
  try dsimp only
  repeat'
    first
    | with_reducible assumption | with_reducible apply ok_memWf | (intro) | with_reducible apply State.onRb_memWf
    | with_reducible apply State.memWf_ite | with_reducible apply State.memWf_foldl | with_reducible apply State.wf_mem
    | with_reducible apply State.wf_hostMem | split

theorem State.passStart_memWf {s t} (hs : State.memWf s = true) :
    (State.passStart s t).memWf = true := by
  unfold State.passStart
  try dsimp only
  repeat'
    first
    | with_reducible assumption | (intro) | with_reducible apply State.rbRun_memWf | with_reducible apply State.runPass_memWf
    | with_reducible apply State.onRb_memWf | with_reducible apply State.memWf_ite | with_reducible apply State.memWf_foldl
    | with_reducible apply State.wf_mem | with_reducible apply State.wf_hostMem | split

theorem execPassStart_memWf {t s} (hs : State.memWf s = true) :
    Out3.memWf (execPassStart t s) := by
  unfold execPassStart
  try dsimp only
  repeat'
    first
    | with_reducible assumption | with_reducible apply ok_memWf | (intro) | with_reducible apply State.settle_memWf
    | with_reducible apply State.passStart_memWf

/-! ### Tdm.lean -/

theorem State.tdmBytes_memWf {s t e_ n} (hs : State.memWf s = true) :
    (State.tdmBytes s t e_ n).memWf = true := by
  unfold State.tdmBytes
  try dsimp only
  repeat' first | with_reducible assumption | (intro) | with_reducible apply State.count_memWf

theorem State.runConvert_memWf {s t tag r e_} (hs : State.memWf s = true) :
    (State.runConvert s t tag r e_).memWf = true := by
  unfold State.runConvert
  try dsimp only
  repeat'
    first
    | with_reducible assumption | (intro) | with_reducible apply State.opFaulted_memWf | with_reducible apply State.tdmBytes_memWf
    | with_reducible apply State.storeCodes_memWf | with_reducible apply State.tookSrcs_memWf | with_reducible apply State.addStats_memWf
    | with_reducible apply State.addCounts_memWf | with_reducible apply State.opDoneOr_memWf | with_reducible apply State.recordNans_memWf
    | with_reducible apply State.memWf_ite | with_reducible apply State.memWf_foldl | with_reducible apply State.wf_mem
    | with_reducible apply State.wf_hostMem | split

theorem State.runFill_memWf {s t tag r e_} (hs : State.memWf s = true) :
    (State.runFill s t tag r e_).memWf = true := by
  unfold State.runFill
  try dsimp only
  repeat'
    first
    | with_reducible assumption | (intro) | with_reducible apply State.opFaulted_memWf | with_reducible apply State.opDone_memWf
    | with_reducible apply State.recordNans_memWf | with_reducible apply State.tdmBytes_memWf | with_reducible apply State.storeCodes_memWf
    | with_reducible apply State.memWf_ite | with_reducible apply State.memWf_foldl | with_reducible apply State.wf_mem
    | with_reducible apply State.wf_hostMem | split

theorem State.mvStart_memWf {s t tag r} (hs : State.memWf s = true) :
    (State.mvStart s t tag r).memWf = true := by
  unfold State.mvStart
  try dsimp only
  repeat'
    first
    | with_reducible assumption | (intro) | with_reducible apply State.claim_memWf | with_reducible apply State.runFill_memWf
    | with_reducible apply State.onTile_memWf | with_reducible apply State.runConvert_memWf | with_reducible apply State.memWf_ite

theorem State.mvPump_memWf {s t x2} (hs : State.memWf s = true) :
    (State.mvPump s t x2).memWf = true := by
  induction x2 generalizing s with
  | zero =>
    unfold State.mvPump
    try dsimp only
    repeat'
      first
      | with_reducible assumption
  | succ k ih =>
    unfold State.mvPump
    try dsimp only
    repeat'
      first
      | with_reducible assumption | (intro) | with_reducible apply ih | with_reducible apply State.onTile_memWf
      | with_reducible apply State.mvStart_memWf | with_reducible apply State.memWf_ite | with_reducible apply State.memWf_foldl
      | with_reducible apply State.wf_mem | with_reducible apply State.wf_hostMem | split

theorem State.mvRun_memWf {s t} (hs : State.memWf s = true) :
    (State.mvRun s t).memWf = true := by
  unfold State.mvRun
  try dsimp only
  repeat' first | with_reducible assumption | (intro) | with_reducible apply State.mvPump_memWf

theorem State.tdmErr_memWf {s t d cause addr phys} (hs : State.memWf s = true) :
    (State.tdmErr s t d cause addr phys).memWf = true := by
  unfold State.tdmErr
  try dsimp only
  repeat'
    first
    | with_reducible assumption | (intro) | with_reducible apply State.count_memWf | with_reducible apply State.wrs_memWf
    | with_reducible apply State.memWf_ite

theorem State.tdmFail_memWf {s t d cause addr phys} (hs : State.memWf s = true) :
    (State.tdmFail s t d cause addr phys).memWf = true := by
  unfold State.tdmFail
  try dsimp only
  repeat'
    first
    | with_reducible assumption | (intro) | with_reducible apply State.onTile_memWf | with_reducible apply State.tdmErr_memWf

theorem State.tookBlock_memWf {s t d b} (hs : State.memWf s = true) :
    (State.tookBlock s t d b).memWf = true := by
  unfold State.tookBlock
  try dsimp only
  repeat'
    first
    | with_reducible assumption | (intro) | with_reducible apply State.tookBytes_memWf | with_reducible apply State.wakeFor_memWf
    | with_reducible apply State.memWf_ite | with_reducible apply State.memWf_foldl | with_reducible apply State.wf_mem
    | with_reducible apply State.wf_hostMem | split

theorem State.writeBlock_memWf {s t d b bs} (hs : State.memWf s = true) :
    (State.writeBlock s t d b bs).memWf = true := by
  unfold State.writeBlock
  dsimp only
  refine foldl_keeps (P := fun p : State × List Byte => p.1.memWf = true) (fun p a hp => ?_) (State.touchPages_memWf hs)
  dsimp only
  split
  · exact State.writeBytes_memWf (State.wakeFor_memWf hp)
  · exact hp

theorem State.askBlock_memWf {s0 t d b} (hs0 : State.memWf s0 = true) :
    (State.askBlock s0 t d b).memWf = true := by
  unfold State.askBlock
  try dsimp only
  repeat'
    first
    | with_reducible assumption | (intro) | with_reducible apply State.atsAsks_memWf | with_reducible apply State.request_memWf
    | with_reducible apply State.memWf_ite | with_reducible apply State.memWf_foldl | with_reducible apply State.wf_mem
    | with_reducible apply State.wf_hostMem | split

theorem State.descStart_memWf {s t id} (hs : State.memWf s = true) :
    (State.descStart s t id).memWf = true := by
  unfold State.descStart
  try dsimp only
  repeat'
    first
    | with_reducible assumption | (intro) | with_reducible apply State.onTile_memWf | with_reducible apply State.tdmFail_memWf
    | with_reducible apply State.askBlock_memWf | with_reducible apply State.memWf_ite | with_reducible apply State.memWf_foldl
    | with_reducible apply State.wf_mem | with_reducible apply State.wf_hostMem | split

theorem State.mvProgress_memWf {s t d n} (hs : State.memWf s = true) :
    (State.mvProgress s t d n).memWf = true := by
  unfold State.mvProgress
  try dsimp only
  repeat'
    first
    | with_reducible assumption | (intro) | with_reducible apply State.onTile_memWf | with_reducible apply State.memWf_ite
    | with_reducible apply State.memWf_foldl | with_reducible apply State.wf_mem | with_reducible apply State.wf_hostMem | split

theorem State.writePairs_memWf {s t r d} (hs : State.memWf s = true) :
    (State.writePairs s t r d).memWf = true := by
  unfold State.writePairs
  try dsimp only
  repeat'
    first
    | with_reducible assumption | (intro) | with_reducible apply State.claim_memWf | with_reducible apply State.storeCodes_memWf
    | with_reducible apply State.memWf_ite | with_reducible apply State.memWf_foldl | with_reducible apply State.wf_mem
    | with_reducible apply State.wf_hostMem | split

theorem State.blockWrites_memWf {s t d} (hs : State.memWf s = true) :
    (State.blockWrites s t d).memWf = true := by
  unfold State.blockWrites
  try dsimp only
  repeat'
    first
    | with_reducible assumption | (intro) | with_reducible apply State.writeBlock_memWf | with_reducible apply State.writePairs_memWf
    | with_reducible apply State.memWf_ite | with_reducible apply State.memWf_foldl | with_reducible apply State.wf_mem
    | with_reducible apply State.wf_hostMem | split

theorem State.blockLanded_memWf {s t id} (hs : State.memWf s = true) :
    (State.blockLanded s t id).memWf = true := by
  unfold State.blockLanded
  try dsimp only
  repeat'
    first
    | with_reducible assumption | (intro) | with_reducible apply State.tdmFail_memWf | with_reducible apply State.tmuRecord_memWf
    | with_reducible apply State.mvProgress_memWf | with_reducible apply State.tdmBytes_memWf | with_reducible apply State.blockWrites_memWf
    | with_reducible apply State.tookBlock_memWf | with_reducible apply State.askBlock_memWf | with_reducible apply State.onTile_memWf
    | with_reducible apply State.memWf_ite | with_reducible apply State.memWf_foldl | with_reducible apply State.wf_mem
    | with_reducible apply State.wf_hostMem | split

theorem State.mvDescDone_memWf {s t seq d} (hs : State.memWf s = true) :
    (State.mvDescDone s t seq d).memWf = true := by
  unfold State.mvDescDone
  try dsimp only
  repeat'
    first
    | with_reducible assumption | (intro) | with_reducible apply State.raiseOp_memWf | with_reducible apply State.onTile_memWf
    | with_reducible apply State.memWf_ite | with_reducible apply State.memWf_foldl | with_reducible apply State.wf_mem
    | with_reducible apply State.wf_hostMem | split

theorem State.descCmpl_memWf {s t d} (hs : State.memWf s = true) :
    (State.descCmpl s t d).memWf = true := by
  unfold State.descCmpl
  try dsimp only
  repeat'
    first
    | with_reducible assumption | (intro) | with_reducible apply State.onTile_memWf | with_reducible apply State.writeBytes_memWf
    | with_reducible apply State.tdmFail_memWf | with_reducible apply State.memWf_ite | with_reducible apply State.memWf_foldl
    | with_reducible apply State.wf_mem | with_reducible apply State.wf_hostMem | split

/-! ### Ld.lean -/

theorem State.acceptEither_memWf {s t g c a} {b : Prop} [Decidable b] (hs : State.memWf s = true) :
    ∀ w, (if b then State.acceptGroup s t g a else State.acceptChan s t c a) = some w → w.memWf = true := by
  intro w hw
  split at hw
  · exact State.acceptGroup_memWf hs _ hw
  · exact State.acceptChan_memWf hs _ hw

theorem State.sendNext_memWf {s t tag r} (hs : State.memWf s = true) : (State.sendNext s t tag r).memWf = true := by
  unfold State.sendNext
  dsimp only
  split
  · exact hs
  · split
    · exact State.raiseOp_memWf hs
    · split
      · exact State.opFault_memWf hs
      · split
        · exact hs
        · exact State.onTile_memWf (State.tookVas_memWf (State.acceptEither_memWf hs _ (by assumption)))

theorem State.messageAccept_memWf {s t tag} (hs : State.memWf s = true) :
    (State.messageAccept s t tag).memWf = true := by
  unfold State.messageAccept
  try dsimp only
  repeat'
    first
    | with_reducible assumption | (intro) | with_reducible apply State.sendNext_memWf | with_reducible apply State.memWf_ite
    | with_reducible apply State.memWf_foldl | with_reducible apply State.wf_mem | with_reducible apply State.wf_hostMem | split

theorem execMessageAccept_memWf {t tag s} (hs : State.memWf s = true) :
    Out3.memWf (execMessageAccept t tag s) := by
  unfold execMessageAccept
  try dsimp only
  repeat'
    first
    | with_reducible assumption | with_reducible apply ok_memWf | (intro) | with_reducible apply State.settle_memWf
    | with_reducible apply State.messageAccept_memWf

theorem State.putPayload_memWf {s t d k bs} (hs : State.memWf s = true) :
    ∀ w, State.putPayload s t d k bs = .ok w → w.memWf = true := by
  intro w hw
  unfold State.putPayload at hw
  split at hw
  · cases hw
  · rename_i p hp
    cases hw
    refine foldl_keeps (P := fun r : Except VFault (State × List Byte) => ∀ q, r = .ok q → q.1.memWf = true) (fun r c hr => ?_)
      (fun q hq => ?_) p hp
    · intro q hq
      split at hq
      · cases hq
      · split at hq
        · cases hq
        · cases hq
          exact State.writeBytes_memWf (hr _ rfl)
    · cases hq
      exact hs

theorem State.takeHead_memWf {s t q slot} (hs : State.memWf s = true) :
    (State.takeHead s t q slot).memWf = true := by
  unfold State.takeHead
  try dsimp only
  repeat' first | with_reducible assumption | (intro) | with_reducible apply State.onQueue_memWf

theorem State.recvStep_memWf {s t tag r} (hs : State.memWf s = true) :
    ∀ w, State.recvStep s t tag r = some w → w.memWf = true := by
  intro w hw
  unfold State.recvStep at hw
  try dsimp only at hw
  repeat' split at hw
  all_goals try first
    | (rw [← Option.some.inj hw]) | (simp only [reduceCtorEq] at hw)
  all_goals repeat'
      first
      | with_reducible assumption | (intro) | with_reducible apply State.onTile_memWf | with_reducible apply State.releaseSlot_memWf
      | with_reducible apply State.raiseOp_memWf | with_reducible apply State.takeHead_memWf
      | with_reducible refine State.putPayload_memWf ?_ _ (by assumption) | with_reducible apply State.opFault_memWf
      | with_reducible apply State.claim_memWf

theorem State.recvPump_memWf {s t k} (hs : State.memWf s = true) :
    (State.recvPump s t k).memWf = true := by
  induction k generalizing s with
  | zero => unfold State.recvPump; exact hs
  | succ k ih =>
    unfold State.recvPump
    dsimp only
    split
    · rename_i s1 _ hgo
      have hm := List.mem_filterMap.1 (hgo ▸ List.mem_cons_self : s1 ∈ _)
      obtain ⟨p, -, hp⟩ := hm
      split at hp
      · exact ih (State.recvStep_memWf hs _ hp)
      · cases hp
    · exact hs

theorem State.recvRun_memWf {s t} (hs : State.memWf s = true) :
    (State.recvRun s t).memWf = true := by
  unfold State.recvRun
  try dsimp only
  repeat' first | with_reducible assumption | (intro) | with_reducible apply State.recvPump_memWf

theorem execMessageAppend_memWf {t q s} (hs : State.memWf s = true) :
    Out3.memWf (execMessageAppend t q s) := by
  unfold execMessageAppend
  try dsimp only
  repeat'
    first
    | with_reducible assumption | with_reducible apply ok_memWf | (intro) | with_reducible apply State.settle_memWf
    | with_reducible apply State.recvRun_memWf | with_reducible apply State.append_memWf | with_reducible apply State.memWf_ite
    | with_reducible apply State.memWf_foldl | with_reducible apply State.wf_mem | with_reducible apply State.wf_hostMem | split

theorem State.runTreduce_memWf {s t tag r} (hs : State.memWf s = true) :
    (State.runTreduce s t tag r).memWf = true := by
  unfold State.runTreduce
  try dsimp only
  repeat'
    first
    | with_reducible assumption | (intro) | with_reducible apply State.opFaulted_memWf | with_reducible apply State.sendPart_memWf
    | with_reducible apply State.onTile_memWf | with_reducible apply State.memWf_ite | with_reducible apply State.memWf_foldl
    | with_reducible apply State.wf_mem | with_reducible apply State.wf_hostMem | split

end Sys2Proof.Machine
end

