-- ==== Sys2Proof/Laws/MemWfTensor.lean ====
section
/-! SUPPORT. What every function leaves of the canonical form of both memories: the KV-cache engine, issue and retirement. -/
namespace Sys2Proof.Machine

/-! ### Kve.lean -/

theorem State.landed_memWf {s} (hs : State.memWf s = true) :
    (State.landed s).memWf = true := by
  unfold State.landed
  try dsimp only
  repeat'
    first
    | with_reducible assumption | (intro) | with_reducible apply State.perform_memWf | with_reducible apply State.memWf_ite
    | with_reducible apply State.memWf_foldl | with_reducible apply State.wf_mem | with_reducible apply State.wf_hostMem | split

theorem State.seqSet_memWf {s t n lo w_ x} (hs : State.memWf s = true) :
    (State.seqSet s t n lo w_ x).memWf = true := by
  unfold State.seqSet
  try dsimp only
  repeat'
    first
    | with_reducible assumption | (intro) | with_reducible apply State.writeNat_memWf | with_reducible apply State.wakeFor_memWf

theorem State.kvTouch_memWf {s t pa n} (hs : State.memWf s = true) :
    (State.kvTouch s t pa n).memWf = true := by
  unfold State.kvTouch
  try dsimp only
  repeat'
    first
    | with_reducible assumption | (intro) | with_reducible apply State.tookBytes_memWf | with_reducible apply State.wakeFor_memWf

theorem State.kvErr_memWf {s t tag r e_} (hs : State.memWf s = true) :
    (State.kvErr s t tag r e_).memWf = true := by
  unfold State.kvErr
  try dsimp only
  repeat'
    first
    | with_reducible assumption | (intro) | with_reducible apply State.opFault_memWf | with_reducible apply State.drawn_memWf
    | with_reducible apply State.raiseOp_memWf | with_reducible apply State.kvFail_memWf | with_reducible apply State.memWf_ite
    | with_reducible apply State.memWf_foldl | with_reducible apply State.wf_mem | with_reducible apply State.wf_hostMem | split

theorem State.reachRow_memWf {s t at_ n} (hs : State.memWf s = true) :
    (State.reachRow s t at_ n).memWf = true := by
  unfold State.reachRow
  try dsimp only
  repeat'
    first
    | with_reducible assumption | (intro) | with_reducible apply State.wakeFor_memWf | with_reducible apply State.touchPages_memWf
    | with_reducible apply State.memWf_ite | with_reducible apply State.memWf_foldl | with_reducible apply State.wf_mem
    | with_reducible apply State.wf_hostMem | split

theorem State.tookRow_memWf {s t at_ n} (hs : State.memWf s = true) :
    (State.tookRow s t at_ n).memWf = true := by
  unfold State.tookRow
  try dsimp only
  repeat'
    first
    | with_reducible assumption | (intro) | with_reducible apply State.reachRow_memWf | with_reducible apply State.tookBytes_memWf
    | with_reducible apply State.tookVas_memWf | with_reducible apply State.memWf_ite | with_reducible apply State.memWf_foldl
    | with_reducible apply State.wf_mem | with_reducible apply State.wf_hostMem | split

theorem State.putRow_memWf {s t at_ bs} (hs : State.memWf s = true) :
    ∀ w, State.putRow s t at_ bs = .ok w → w.memWf = true := by
  intro w hw
  have hr := State.reachRow_memWf (t := t) (at_ := at_) (n := bs.length) hs
  unfold State.putRow at hw
  generalize State.reachRow s t at_ bs.length = r at hr hw
  dsimp only at hw
  split at hw
  · split at hw
    · cases hw
      exact State.writeBytes_memWf hr
    · cases hw
  · refine foldl_keeps (P := fun r : Except KErr State => ∀ q, r = .ok q → q.memWf = true) (fun r c hr => ?_) (fun q hq => ?_) w hw
    · intro q hq
      split at hq
      · cases hq
      · split at hq
        · cases hq
          exact State.writeBytes_memWf (hr _ rfl)
        · cases hq
    · cases hq
      exact hr

theorem State.prtSet_memWf {s pa v refs} (hs : State.memWf s = true) :
    (State.prtSet s pa v refs).memWf = true := by
  unfold State.prtSet
  try dsimp only
  repeat' first | with_reducible assumption | (intro) | with_reducible apply State.writeNat_memWf

theorem State.refTake_memWf {s0 t k f} (hs0 : State.memWf s0 = true) :
    ∀ w, State.refTake s0 t k f = .ok w → w.memWf = true := by
  intro w hw
  unfold State.refTake at hw
  try dsimp only at hw
  repeat' split at hw
  all_goals try cases hw
  all_goals repeat'
      first
      | with_reducible assumption | (intro) | with_reducible apply State.kvTouch_memWf | with_reducible apply State.landed_memWf
      | with_reducible apply State.prtSet_memWf

theorem State.refInc_memWf {s0 t k f} (hs0 : State.memWf s0 = true) :
    ∀ w, State.refInc s0 t k f = .ok w → w.memWf = true := by
  intro w hw
  unfold State.refInc at hw
  try dsimp only at hw
  repeat' split at hw
  all_goals try cases hw
  all_goals repeat'
      first
      | with_reducible assumption | (intro) | with_reducible apply State.kvTouch_memWf | with_reducible apply State.landed_memWf
      | with_reducible apply State.prtSet_memWf

theorem State.freeAppend_memWf {s t k f} (hs : State.memWf s = true) :
    (State.freeAppend s t k f).memWf = true := by
  unfold State.freeAppend
  try dsimp only
  repeat'
    first
    | with_reducible assumption | (intro) | with_reducible apply State.wr_memWf | with_reducible apply State.writeNat_memWf
    | with_reducible apply State.wakeFor_memWf

theorem State.refDec_memWf {s0 t k f} (hs0 : State.memWf s0 = true) :
    ∀ w, State.refDec s0 t k f = .ok (some w) → w.memWf = true := by
  intro w hw
  unfold State.refDec at hw
  try dsimp only at hw
  repeat' split at hw
  all_goals try cases hw
  all_goals repeat'
      first
      | with_reducible assumption | (intro) | with_reducible apply State.kvTouch_memWf | with_reducible apply State.landed_memWf
      | with_reducible apply State.freeAppend_memWf | with_reducible apply State.prtSet_memWf

theorem State.refUndo_memWf {s t k f} (hs : State.memWf s = true) :
    (State.refUndo s t k f).memWf = true := by
  unfold State.refUndo
  try dsimp only
  repeat'
    first
    | with_reducible assumption | (intro) | with_reducible apply State.landed_memWf | with_reducible apply State.prtSet_memWf

theorem State.onOp_memWf {s t tag f} (hs : State.memWf s = true) :
    (State.onOp s t tag f).memWf = true := by
  unfold State.onOp
  try dsimp only
  repeat' first | with_reducible assumption | (intro) | with_reducible apply State.onTile_memWf

theorem State.runSeqset_memWf {s0 t tag r old} (hs0 : State.memWf s0 = true) :
    (State.runSeqset s0 t tag r old).memWf = true := by
  unfold State.runSeqset
  try dsimp only
  repeat'
    first
    | with_reducible assumption | (intro) | with_reducible apply State.tookVas_memWf | with_reducible apply State.kvErr_memWf
    | with_reducible apply State.wakeFor_memWf | with_reducible apply State.tookRow_memWf | with_reducible apply State.opDone_memWf
    | with_reducible apply State.writeNat_memWf | with_reducible apply State.memWf_ite | with_reducible apply State.memWf_foldl
    | with_reducible apply State.wf_mem | with_reducible apply State.wf_hostMem | split

theorem State.kvCopyFail_memWf {s t seq src dst n atDst x} (hs : State.memWf s = true) :
    (State.kvCopyFail s t seq src dst n atDst x).1.memWf = true := by
  unfold State.kvCopyFail
  try dsimp only
  repeat'
    first
    | with_reducible assumption | (intro) | with_reducible apply State.tdmErr_memWf | with_reducible apply State.memWf_ite
    | with_reducible apply State.memWf_foldl | with_reducible apply State.wf_mem | with_reducible apply State.wf_hostMem | split

theorem State.kvCopies_memWf {t seq e_ ds s} (hs : State.memWf s = true) : (State.kvCopies t seq e_ ds s).1.memWf = true := by
  induction ds generalizing s with
  | nil => exact hs
  | cons d ds ih =>
    unfold State.kvCopies
    dsimp only
    split
    · exact ih hs
    split
    · exact State.kvCopyFail_memWf hs
    split
    · exact State.kvCopyFail_memWf hs
    · exact ih (State.tdmBytes_memWf (State.count_memWf (State.putRow_memWf (State.tookRow_memWf hs) _ (by assumption))))

theorem State.kvRow_memWf {s t e_ gl ds i bs} (hs : State.memWf s = true) :
    ∀ w, State.kvRow s t e_ gl ds i bs = .ok w → w.memWf = true := by
  intro w hw
  unfold State.kvRow at hw
  try dsimp only at hw
  repeat' split at hw
  all_goals try cases hw
  all_goals repeat' first | with_reducible assumption | (intro) | with_reducible refine State.putRow_memWf ?_ _ (by assumption)

theorem State.kvRows_memWf {s t e_ gl ds codes x6 x7} (hs : State.memWf s = true) :
    (State.kvRows s t e_ gl ds codes x6 x7).1.memWf = true := by
  induction x6 generalizing s x7 with
  | zero =>
    unfold State.kvRows
    try dsimp only
    repeat'
      first
      | with_reducible assumption
  | succ k ih =>
    unfold State.kvRows
    try dsimp only
    repeat'
      first
      | with_reducible assumption | (intro) | with_reducible apply ih | with_reducible refine State.kvRow_memWf ?_ _ (by assumption)
      | with_reducible apply State.memWf_ite | with_reducible apply State.memWf_foldl | with_reducible apply State.wf_mem
      | with_reducible apply State.wf_hostMem | split

theorem State.kvTake_memWf {s t k f} {b : Bool} (hs : State.memWf s = true) :
    ∀ w, (if b then State.refTake s t k f else .ok s) = .ok w → w.memWf = true := by
  intro w hw
  split at hw
  · exact State.refTake_memWf hs _ hw
  · cases hw
    exact hs

theorem State.kvTakes_memWf {s t tag r k l} (hs : State.memWf s = true) : (State.kvTakes s t tag r k l).memWf = true := by
  induction l generalizing s r with
  | nil =>
    unfold State.kvTakes
    exact State.onOp_memWf hs
  | cons b l ih =>
    unfold State.kvTakes
    split
    · exact State.kvErr_memWf hs
    · have h1 := State.kvTake_memWf hs _ (by assumption)
      split
      · split
        · exact State.kvErr_memWf h1
        · exact State.onOp_memWf h1
        · exact ih (State.refDec_memWf h1 _ (by assumption))
      · exact ih h1

theorem State.runAppend_memWf {s t tag r e_ gl ds} (hs : State.memWf s = true) :
    (State.runAppend s t tag r e_ gl ds).memWf = true := by
  unfold State.runAppend
  try dsimp only
  repeat'
    first
    | with_reducible assumption | (intro) | with_reducible apply State.opFault_memWf | with_reducible apply State.kvCopies_memWf
    | with_reducible apply State.tookSrcs_memWf | with_reducible apply State.kvErr_memWf | with_reducible apply State.kvRows_memWf
    | with_reducible apply State.addStats_memWf | with_reducible apply State.addCounts_memWf | with_reducible apply State.onOp_memWf
    | with_reducible apply State.recordNans_memWf | with_reducible apply State.raiseOp_memWf | with_reducible apply State.kvTakes_memWf
    | with_reducible apply State.memWf_ite | with_reducible apply State.memWf_foldl | with_reducible apply State.wf_mem
    | with_reducible apply State.wf_hostMem | split

theorem State.appendLen_memWf {s t tag r} (hs : State.memWf s = true) :
    (State.appendLen s t tag r).memWf = true := by
  unfold State.appendLen
  try dsimp only
  repeat'
    first
    | with_reducible assumption | (intro) | with_reducible apply State.opDone_memWf | with_reducible apply State.claim_memWf
    | with_reducible apply State.count_memWf | with_reducible apply State.seqSet_memWf

theorem State.runGather_memWf {s0 t tag r e_ gl first ds} (hs0 : State.memWf s0 = true) :
    (State.runGather s0 t tag r e_ gl first ds).memWf = true := by
  unfold State.runGather
  try dsimp only
  repeat'
    first
    | with_reducible assumption | (intro) | with_reducible apply State.tookRow_memWf | with_reducible apply State.kvErr_memWf
    | with_reducible apply State.finishOp_memWf | with_reducible apply State.memWf_ite | with_reducible apply State.memWf_foldl
    | with_reducible apply State.wf_mem | with_reducible apply State.wf_hostMem | split

theorem State.scratchUsed_memWf {s t n} (hs : State.memWf s = true) :
    (State.scratchUsed s t n).memWf = true := by
  unfold State.scratchUsed
  try dsimp only
  repeat'
    first
    | with_reducible assumption | (intro) | with_reducible apply State.drawn_memWf | with_reducible apply State.storeVa_memWf
    | with_reducible apply State.memWf_ite | with_reducible apply State.memWf_foldl

theorem State.runAttn_memWf {s0 t tag r e_ gl first ds} (hs0 : State.memWf s0 = true) :
    (State.runAttn s0 t tag r e_ gl first ds).memWf = true := by
  unfold State.runAttn
  try dsimp only
  repeat'
    first
    | with_reducible assumption | (intro) | with_reducible apply State.tookRow_memWf | with_reducible apply State.tookSrcs_memWf
    | with_reducible apply State.opFaulted_memWf | with_reducible apply State.kvErr_memWf | with_reducible apply State.count_memWf
    | with_reducible apply State.scratchUsed_memWf | with_reducible apply State.rangeTrap_memWf | with_reducible apply State.finishOp_memWf
    | with_reducible apply State.memWf_ite | with_reducible apply State.memWf_foldl | with_reducible apply State.wf_mem
    | with_reducible apply State.wf_hostMem | split

theorem State.forkRefs_memWf {s t k x3 x4} (hs : State.memWf s = true) :
    (State.forkRefs s t k x3 x4).1.memWf = true := by
  induction x3 generalizing s x4 with
  | nil =>
    unfold State.forkRefs
    try dsimp only
    repeat'
      first
      | with_reducible assumption
  | cons b l ih =>
    unfold State.forkRefs
    try dsimp only
    repeat'
      first
      | with_reducible assumption | (intro) | with_reducible apply ih | with_reducible refine State.refInc_memWf ?_ _ (by assumption)
      | with_reducible apply State.memWf_ite | with_reducible apply State.memWf_foldl | with_reducible apply State.wf_mem
      | with_reducible apply State.wf_hostMem | split

theorem State.forkRows_memWf {s t e_ c x4} (hs : State.memWf s = true) :
    (State.forkRows s t e_ c x4).1.memWf = true := by
  induction x4 generalizing s with
  | zero =>
    unfold State.forkRows
    try dsimp only
    repeat'
      first
      | with_reducible assumption
  | succ k ih =>
    unfold State.forkRows
    try dsimp only
    repeat'
      first
      | with_reducible assumption | (intro) | with_reducible apply ih | with_reducible refine State.putRow_memWf ?_ _ (by assumption)
      | with_reducible apply State.tookRow_memWf | with_reducible apply State.memWf_ite | with_reducible apply State.memWf_foldl
      | with_reducible apply State.wf_mem | with_reducible apply State.wf_hostMem | split

theorem State.runFork_memWf {s t tag r e_ ds} (hs : State.memWf s = true) :
    (State.runFork s t tag r e_ ds).memWf = true := by
  unfold State.runFork
  try dsimp only
  repeat'
    first
    | with_reducible assumption | (intro) | with_reducible apply State.forkRefs_memWf | with_reducible apply State.refUndo_memWf
    | with_reducible apply State.kvErr_memWf | with_reducible apply State.forkRows_memWf | with_reducible apply State.opDone_memWf
    | with_reducible apply State.seqSet_memWf | with_reducible apply State.memWf_ite | with_reducible apply State.memWf_foldl
    | with_reducible apply State.wf_mem | with_reducible apply State.wf_hostMem | split

theorem State.releaseEnd_memWf {s t tag r} (hs : State.memWf s = true) :
    (State.releaseEnd s t tag r).memWf = true := by
  unfold State.releaseEnd
  try dsimp only
  repeat'
    first
    | with_reducible assumption | (intro) | with_reducible apply State.opDone_memWf | with_reducible apply State.claim_memWf
    | with_reducible apply State.seqSet_memWf

theorem State.releaseRefs_memWf {s t tag r e_ x5} (hs : State.memWf s = true) :
    (State.releaseRefs s t tag r e_ x5).memWf = true := by
  induction x5 generalizing s with
  | nil =>
    unfold State.releaseRefs
    try dsimp only
    repeat'
      first
      | with_reducible assumption | (intro) | with_reducible apply State.onTile_memWf | with_reducible apply State.releaseEnd_memWf
      | with_reducible refine State.refDec_memWf ?_ _ (by assumption) | with_reducible apply State.kvErr_memWf
      | with_reducible apply State.count_memWf | with_reducible apply State.onOp_memWf | with_reducible apply State.seqSet_memWf
      | with_reducible apply State.memWf_ite
  | cons b l ih =>
    unfold State.releaseRefs
    try dsimp only
    repeat'
      first
      | with_reducible assumption | (intro) | with_reducible apply ih | with_reducible apply State.onTile_memWf
      | with_reducible apply State.releaseEnd_memWf | with_reducible refine State.refDec_memWf ?_ _ (by assumption)
      | with_reducible apply State.kvErr_memWf | with_reducible apply State.count_memWf | with_reducible apply State.onOp_memWf
      | with_reducible apply State.seqSet_memWf | with_reducible apply State.memWf_ite | with_reducible apply State.memWf_foldl
      | with_reducible apply State.wf_mem | with_reducible apply State.wf_hostMem | split

theorem State.releaseMark_memWf {s t r e_} (hs : State.memWf s = true) :
    (State.releaseMark s t r e_).memWf = true := by
  unfold State.releaseMark
  try dsimp only
  repeat'
    first
    | with_reducible assumption | (intro) | with_reducible apply State.seqSet_memWf | with_reducible apply State.memWf_ite

theorem State.kvExec_memWf {s t tag r e_ ds} (hs : State.memWf s = true) :
    (State.kvExec s t tag r e_ ds).memWf = true := by
  unfold State.kvExec
  try dsimp only
  repeat'
    first
    | with_reducible assumption | (intro) | with_reducible apply State.kvErr_memWf | with_reducible apply State.claim_memWf
    | with_reducible apply State.runSeqset_memWf | with_reducible apply State.runAppend_memWf | with_reducible apply State.runGather_memWf
    | with_reducible apply State.runAttn_memWf | with_reducible apply State.runFork_memWf | with_reducible apply State.releaseRefs_memWf
    | with_reducible apply State.memWf_ite | with_reducible apply State.memWf_foldl | with_reducible apply State.wf_mem
    | with_reducible apply State.wf_hostMem | split

theorem State.kvGo_memWf {s t tag r e_ gl} (hs : State.memWf s = true) :
    (State.kvGo s t tag r e_ gl).memWf = true := by
  unfold State.kvGo
  try dsimp only
  repeat'
    first
    | with_reducible assumption | (intro) | with_reducible apply State.onOp_memWf | with_reducible apply State.atsAsks_memWf
    | with_reducible apply State.askFar_memWf | with_reducible apply State.releaseMark_memWf | with_reducible apply State.onTile_memWf
    | with_reducible apply State.kvExec_memWf | with_reducible apply State.memWf_ite

theorem State.kvStart_memWf {s t tag r} (hs : State.memWf s = true) :
    (State.kvStart s t tag r).memWf = true := by
  unfold State.kvStart
  try dsimp only
  repeat'
    first
    | with_reducible assumption | (intro) | with_reducible apply State.kvErr_memWf | with_reducible apply State.kvGo_memWf
    | with_reducible apply State.tookRow_memWf | with_reducible apply State.kvTouch_memWf | with_reducible apply State.memWf_ite
    | with_reducible apply State.memWf_foldl | with_reducible apply State.wf_mem | with_reducible apply State.wf_hostMem | split

theorem State.kvResume_memWf {s t} (hs : State.memWf s = true) :
    (State.kvResume s t).memWf = true := by
  unfold State.kvResume
  try dsimp only
  repeat'
    first
    | with_reducible assumption | (intro) | with_reducible apply State.claim_memWf | with_reducible apply State.kvTakes_memWf
    | with_reducible apply State.releaseRefs_memWf | with_reducible apply State.memWf_ite | with_reducible apply State.memWf_foldl

theorem State.kvPump_memWf {s t x2} (hs : State.memWf s = true) :
    (State.kvPump s t x2).memWf = true := by
  induction x2 generalizing s with
  | zero =>
    unfold State.kvPump
    try dsimp only
    repeat'
      first
      | with_reducible assumption
  | succ k ih =>
    unfold State.kvPump
    try dsimp only
    repeat'
      first
      | with_reducible assumption | (intro) | with_reducible apply ih | with_reducible apply State.kvStart_memWf
      | with_reducible apply State.memWf_ite | with_reducible apply State.memWf_foldl | with_reducible apply State.wf_mem
      | with_reducible apply State.wf_hostMem | split

theorem State.kvRun_memWf {s t} (hs : State.memWf s = true) :
    (State.kvRun s t).memWf = true := by
  unfold State.kvRun
  try dsimp only
  repeat'
    first
    | with_reducible assumption | (intro) | with_reducible apply State.kvPump_memWf | with_reducible apply State.kvResume_memWf

theorem State.walkRequest_memWf {s t} (hs : State.memWf s = true) :
    (State.walkRequest s t).memWf = true := by
  unfold State.walkRequest
  try dsimp only
  repeat'
    first
    | with_reducible assumption | (intro) | with_reducible apply State.onTile_memWf | with_reducible apply State.memWf_ite
    | with_reducible apply State.memWf_foldl | with_reducible apply State.wf_mem | with_reducible apply State.wf_hostMem | split

theorem execWalkRequest_memWf {t s} (hs : State.memWf s = true) :
    Out3.memWf (execWalkRequest t s) := by
  unfold execWalkRequest
  try dsimp only
  repeat'
    first
    | with_reducible assumption | with_reducible apply ok_memWf | (intro) | with_reducible apply State.walkRequest_memWf

theorem State.kvAccept_memWf {s t d} (hs : State.memWf s = true) :
    (State.kvAccept s t d).memWf = true := by
  unfold State.kvAccept
  try dsimp only
  repeat'
    first
    | with_reducible assumption | (intro) | with_reducible apply State.count_memWf | with_reducible apply State.walkFail_memWf
    | with_reducible apply State.onTile_memWf | with_reducible apply State.claim_memWf | with_reducible apply State.releaseRefs_memWf
    | with_reducible apply State.kvExec_memWf | with_reducible apply State.memWf_ite | with_reducible apply State.memWf_foldl
    | with_reducible apply State.wf_mem | with_reducible apply State.wf_hostMem | split

theorem execKvEmit_memWf {t th a s} (hs : State.memWf s = true) :
    Out3.memWf (execKvEmit t th a s) := by
  unfold execKvEmit
  try dsimp only
  repeat'
    first
    | with_reducible assumption | with_reducible apply ok_memWf | (intro) | with_reducible apply State.settle_memWf
    | with_reducible apply State.thrInsn_memWf | with_reducible apply Act.ifLegal_memWf | with_reducible apply State.kvRun_memWf
    | with_reducible apply State.kvAccept_memWf | with_reducible apply Act.memWf_ite | with_reducible exact Act.memWf_trap
    | with_reducible apply Act.memWf_next | with_reducible apply Act.memWf_jump | with_reducible apply Act.memWf_wait

/-! ### Issue.lean -/

theorem State.wakeAll_memWf {s t r} (hs : State.memWf s = true) :
    (State.wakeAll s t r).memWf = true := by
  unfold State.wakeAll
  try dsimp only
  repeat'
    first
    | with_reducible assumption | (intro) | with_reducible apply State.raiseWake_memWf | with_reducible apply State.memWf_ite
    | with_reducible apply State.memWf_foldl

theorem State.takeTag_memWf {s t tag op a iaddr i p hold} (hs : State.memWf s = true) :
    (State.takeTag s t tag op a iaddr i p hold).memWf = true := by
  unfold State.takeTag
  try dsimp only
  repeat'
    first
    | with_reducible assumption | (intro) | with_reducible apply State.onTile_memWf | with_reducible apply State.count_memWf
    | with_reducible apply State.touchPages_memWf | with_reducible apply State.wakeAll_memWf

theorem State.syWakes_memWf {s t mask} (hs : State.memWf s = true) :
    (State.syWakes s t mask).memWf = true := by
  unfold State.syWakes
  try dsimp only
  repeat'
    first
    | with_reducible assumption | (intro) | with_reducible apply State.wakeTile_memWf | with_reducible apply State.memWf_ite
    | with_reducible apply State.memWf_foldl

theorem State.ctAct_memWf {s t op i} (hs : State.memWf s = true) :
    (State.ctAct s t op i).memWf := by
  unfold State.ctAct
  try dsimp only
  repeat'
    first
    | with_reducible assumption | (intro) | with_reducible apply State.syWakes_memWf | with_reducible apply State.setG_memWf
    | with_reducible apply Act.memWf_ite | with_reducible exact Act.memWf_trap | with_reducible apply Act.memWf_next
    | with_reducible apply Act.memWf_jump | with_reducible apply Act.memWf_wait | with_reducible apply Act.memWf_done
    | with_reducible exact Reach.memWf_store | with_reducible exact Reach.memWf_phys | with_reducible apply Reach.memWf_stop
    | with_reducible apply Reach.memWf_ite | with_reducible refine Reach.memWf_of_stop ?_ (by assumption)
    | with_reducible apply State.memWf_ite | with_reducible apply State.memWf_foldl | with_reducible apply State.wf_mem
    | with_reducible apply State.wf_hostMem | split

theorem State.issueAct_memWf {s t op a} (hs : State.memWf s = true) :
    (State.issueAct s t op a).memWf := by
  unfold State.issueAct
  try dsimp only
  repeat'
    first
    | with_reducible assumption | (intro) | with_reducible apply State.onTile_memWf | with_reducible apply State.ctAct_memWf
    | with_reducible apply State.takeTag_memWf | with_reducible apply Act.memWf_ite | with_reducible exact Act.memWf_trap
    | with_reducible apply Act.memWf_next | with_reducible apply Act.memWf_jump | with_reducible apply Act.memWf_wait
    | with_reducible apply Act.memWf_done | with_reducible exact Reach.memWf_store | with_reducible exact Reach.memWf_phys
    | with_reducible apply Reach.memWf_stop | with_reducible apply Reach.memWf_ite
    | with_reducible refine Reach.memWf_of_stop ?_ (by assumption) | with_reducible apply State.memWf_ite
    | with_reducible apply State.memWf_foldl | with_reducible apply State.wf_mem | with_reducible apply State.wf_hostMem | split

theorem State.issueT_memWf {s t th op a} (hs : State.memWf s = true) :
    (State.issueT s t th op a).memWf = true := by
  unfold State.issueT
  try dsimp only
  repeat'
    first
    | with_reducible assumption | (intro) | with_reducible apply State.raiseSync_memWf | with_reducible apply State.fetchFault_memWf
    | with_reducible apply State.fetchReach_memWf | with_reducible refine State.fetchAts_memWf ?_ _ (by assumption)
    | with_reducible apply State.count_memWf | with_reducible apply State.cacheInsn_memWf | with_reducible apply State.act_memWf
    | with_reducible apply State.issueAct_memWf | with_reducible apply Act.memWf_ite | with_reducible exact Act.memWf_trap
    | with_reducible apply Act.memWf_next | with_reducible apply Act.memWf_jump | with_reducible apply Act.memWf_wait
    | with_reducible apply Act.memWf_done | with_reducible exact Reach.memWf_store | with_reducible exact Reach.memWf_phys
    | with_reducible apply Reach.memWf_stop | with_reducible apply Reach.memWf_ite
    | with_reducible refine Reach.memWf_of_stop ?_ (by assumption) | with_reducible apply State.memWf_ite
    | with_reducible apply State.memWf_foldl | with_reducible apply State.wf_mem | with_reducible apply State.wf_hostMem | split

theorem execMmPass_memWf {t th a s} (hs : State.memWf s = true) :
    Out3.memWf (execMmPass t th a s) := by
  unfold execMmPass
  try dsimp only
  repeat'
    first
    | with_reducible assumption | with_reducible apply ok_memWf | (intro) | with_reducible apply State.issueT_memWf

theorem execMmPreload_memWf {t th a s} (hs : State.memWf s = true) :
    Out3.memWf (execMmPreload t th a s) := by
  unfold execMmPreload
  try dsimp only
  repeat'
    first
    | with_reducible assumption | with_reducible apply ok_memWf | (intro) | with_reducible apply State.issueT_memWf

theorem execMmDrain_memWf {t th a s} (hs : State.memWf s = true) :
    Out3.memWf (execMmDrain t th a s) := by
  unfold execMmDrain
  try dsimp only
  repeat'
    first
    | with_reducible assumption | with_reducible apply ok_memWf | (intro) | with_reducible apply State.issueT_memWf

theorem execVsAdd_memWf {t th a s} (hs : State.memWf s = true) :
    Out3.memWf (execVsAdd t th a s) := by
  unfold execVsAdd
  try dsimp only
  repeat'
    first
    | with_reducible assumption | with_reducible apply ok_memWf | (intro) | with_reducible apply State.issueT_memWf

theorem execVsSub_memWf {t th a s} (hs : State.memWf s = true) :
    Out3.memWf (execVsSub t th a s) := by
  unfold execVsSub
  try dsimp only
  repeat'
    first
    | with_reducible assumption | with_reducible apply ok_memWf | (intro) | with_reducible apply State.issueT_memWf

theorem execVsMul_memWf {t th a s} (hs : State.memWf s = true) :
    Out3.memWf (execVsMul t th a s) := by
  unfold execVsMul
  try dsimp only
  repeat'
    first
    | with_reducible assumption | with_reducible apply ok_memWf | (intro) | with_reducible apply State.issueT_memWf

theorem execVsDiv_memWf {t th a s} (hs : State.memWf s = true) :
    Out3.memWf (execVsDiv t th a s) := by
  unfold execVsDiv
  try dsimp only
  repeat'
    first
    | with_reducible assumption | with_reducible apply ok_memWf | (intro) | with_reducible apply State.issueT_memWf

theorem execVsMax_memWf {t th a s} (hs : State.memWf s = true) :
    Out3.memWf (execVsMax t th a s) := by
  unfold execVsMax
  try dsimp only
  repeat'
    first
    | with_reducible assumption | with_reducible apply ok_memWf | (intro) | with_reducible apply State.issueT_memWf

theorem execVsMin_memWf {t th a s} (hs : State.memWf s = true) :
    Out3.memWf (execVsMin t th a s) := by
  unfold execVsMin
  try dsimp only
  repeat'
    first
    | with_reducible assumption | with_reducible apply ok_memWf | (intro) | with_reducible apply State.issueT_memWf

theorem execVsNeg_memWf {t th a s} (hs : State.memWf s = true) :
    Out3.memWf (execVsNeg t th a s) := by
  unfold execVsNeg
  try dsimp only
  repeat'
    first
    | with_reducible assumption | with_reducible apply ok_memWf | (intro) | with_reducible apply State.issueT_memWf

theorem execVsAbs_memWf {t th a s} (hs : State.memWf s = true) :
    Out3.memWf (execVsAbs t th a s) := by
  unfold execVsAbs
  try dsimp only
  repeat'
    first
    | with_reducible assumption | with_reducible apply ok_memWf | (intro) | with_reducible apply State.issueT_memWf

theorem execVsHalve_memWf {t th a s} (hs : State.memWf s = true) :
    Out3.memWf (execVsHalve t th a s) := by
  unfold execVsHalve
  try dsimp only
  repeat'
    first
    | with_reducible assumption | with_reducible apply ok_memWf | (intro) | with_reducible apply State.issueT_memWf

theorem execVsDouble_memWf {t th a s} (hs : State.memWf s = true) :
    Out3.memWf (execVsDouble t th a s) := by
  unfold execVsDouble
  try dsimp only
  repeat'
    first
    | with_reducible assumption | with_reducible apply ok_memWf | (intro) | with_reducible apply State.issueT_memWf

theorem execVsScale_memWf {t th a s} (hs : State.memWf s = true) :
    Out3.memWf (execVsScale t th a s) := by
  unfold execVsScale
  try dsimp only
  repeat'
    first
    | with_reducible assumption | with_reducible apply ok_memWf | (intro) | with_reducible apply State.issueT_memWf

theorem execVsCmp_memWf {t th a s} (hs : State.memWf s = true) :
    Out3.memWf (execVsCmp t th a s) := by
  unfold execVsCmp
  try dsimp only
  repeat'
    first
    | with_reducible assumption | with_reducible apply ok_memWf | (intro) | with_reducible apply State.issueT_memWf

theorem execVsSel_memWf {t th a s} (hs : State.memWf s = true) :
    Out3.memWf (execVsSel t th a s) := by
  unfold execVsSel
  try dsimp only
  repeat'
    first
    | with_reducible assumption | with_reducible apply ok_memWf | (intro) | with_reducible apply State.issueT_memWf

theorem execVsCvt_memWf {t th a s} (hs : State.memWf s = true) :
    Out3.memWf (execVsCvt t th a s) := by
  unfold execVsCvt
  try dsimp only
  repeat'
    first
    | with_reducible assumption | with_reducible apply ok_memWf | (intro) | with_reducible apply State.issueT_memWf

theorem execVsRsum_memWf {t th a s} (hs : State.memWf s = true) :
    Out3.memWf (execVsRsum t th a s) := by
  unfold execVsRsum
  try dsimp only
  repeat'
    first
    | with_reducible assumption | with_reducible apply ok_memWf | (intro) | with_reducible apply State.issueT_memWf

theorem execVsStatpick_memWf {t th a s} (hs : State.memWf s = true) :
    Out3.memWf (execVsStatpick t th a s) := by
  unfold execVsStatpick
  try dsimp only
  repeat'
    first
    | with_reducible assumption | with_reducible apply ok_memWf | (intro) | with_reducible apply State.issueT_memWf

theorem execSfEval_memWf {t th a s} (hs : State.memWf s = true) :
    Out3.memWf (execSfEval t th a s) := by
  unfold execSfEval
  try dsimp only
  repeat'
    first
    | with_reducible assumption | with_reducible apply ok_memWf | (intro) | with_reducible apply State.issueT_memWf

theorem execSfLoad_memWf {t th a s} (hs : State.memWf s = true) :
    Out3.memWf (execSfLoad t th a s) := by
  unfold execSfLoad
  try dsimp only
  repeat'
    first
    | with_reducible assumption | with_reducible apply ok_memWf | (intro) | with_reducible apply State.issueT_memWf

theorem execSfPload_memWf {t th a s} (hs : State.memWf s = true) :
    Out3.memWf (execSfPload t th a s) := by
  unfold execSfPload
  try dsimp only
  repeat'
    first
    | with_reducible assumption | with_reducible apply ok_memWf | (intro) | with_reducible apply State.issueT_memWf

theorem execSfRnorm_memWf {t th a s} (hs : State.memWf s = true) :
    Out3.memWf (execSfRnorm t th a s) := by
  unfold execSfRnorm
  try dsimp only
  repeat'
    first
    | with_reducible assumption | with_reducible apply ok_memWf | (intro) | with_reducible apply State.issueT_memWf

theorem execSfSmax_memWf {t th a s} (hs : State.memWf s = true) :
    Out3.memWf (execSfSmax t th a s) := by
  unfold execSfSmax
  try dsimp only
  repeat'
    first
    | with_reducible assumption | with_reducible apply ok_memWf | (intro) | with_reducible apply State.issueT_memWf

theorem execMvCopy_memWf {t th a s} (hs : State.memWf s = true) :
    Out3.memWf (execMvCopy t th a s) := by
  unfold execMvCopy
  try dsimp only
  repeat'
    first
    | with_reducible assumption | with_reducible apply ok_memWf | (intro) | with_reducible apply State.issueT_memWf

theorem execMvFill_memWf {t th a s} (hs : State.memWf s = true) :
    Out3.memWf (execMvFill t th a s) := by
  unfold execMvFill
  try dsimp only
  repeat'
    first
    | with_reducible assumption | with_reducible apply ok_memWf | (intro) | with_reducible apply State.issueT_memWf

theorem execMvGather_memWf {t th a s} (hs : State.memWf s = true) :
    Out3.memWf (execMvGather t th a s) := by
  unfold execMvGather
  try dsimp only
  repeat'
    first
    | with_reducible assumption | with_reducible apply ok_memWf | (intro) | with_reducible apply State.issueT_memWf

theorem execMvTrans_memWf {t th a s} (hs : State.memWf s = true) :
    Out3.memWf (execMvTrans t th a s) := by
  unfold execMvTrans
  try dsimp only
  repeat'
    first
    | with_reducible assumption | with_reducible apply ok_memWf | (intro) | with_reducible apply State.issueT_memWf

theorem execKvSeqset_memWf {t th a s} (hs : State.memWf s = true) :
    Out3.memWf (execKvSeqset t th a s) := by
  unfold execKvSeqset
  try dsimp only
  repeat'
    first
    | with_reducible assumption | with_reducible apply ok_memWf | (intro) | with_reducible apply State.issueT_memWf

theorem execKvAppend_memWf {t th a s} (hs : State.memWf s = true) :
    Out3.memWf (execKvAppend t th a s) := by
  unfold execKvAppend
  try dsimp only
  repeat'
    first
    | with_reducible assumption | with_reducible apply ok_memWf | (intro) | with_reducible apply State.issueT_memWf

theorem execKvGather_memWf {t th a s} (hs : State.memWf s = true) :
    Out3.memWf (execKvGather t th a s) := by
  unfold execKvGather
  try dsimp only
  repeat'
    first
    | with_reducible assumption | with_reducible apply ok_memWf | (intro) | with_reducible apply State.issueT_memWf

theorem execKvAttn_memWf {t th a s} (hs : State.memWf s = true) :
    Out3.memWf (execKvAttn t th a s) := by
  unfold execKvAttn
  try dsimp only
  repeat'
    first
    | with_reducible assumption | with_reducible apply ok_memWf | (intro) | with_reducible apply State.issueT_memWf

theorem execKvFork_memWf {t th a s} (hs : State.memWf s = true) :
    Out3.memWf (execKvFork t th a s) := by
  unfold execKvFork
  try dsimp only
  repeat'
    first
    | with_reducible assumption | with_reducible apply ok_memWf | (intro) | with_reducible apply State.issueT_memWf

theorem execKvRelease_memWf {t th a s} (hs : State.memWf s = true) :
    Out3.memWf (execKvRelease t th a s) := by
  unfold execKvRelease
  try dsimp only
  repeat'
    first
    | with_reducible assumption | with_reducible apply ok_memWf | (intro) | with_reducible apply State.issueT_memWf

theorem execLodeSend_memWf {t th a s} (hs : State.memWf s = true) :
    Out3.memWf (execLodeSend t th a s) := by
  unfold execLodeSend
  try dsimp only
  repeat'
    first
    | with_reducible assumption | with_reducible apply ok_memWf | (intro) | with_reducible apply State.issueT_memWf

theorem execLodeMcast_memWf {t th a s} (hs : State.memWf s = true) :
    Out3.memWf (execLodeMcast t th a s) := by
  unfold execLodeMcast
  try dsimp only
  repeat'
    first
    | with_reducible assumption | with_reducible apply ok_memWf | (intro) | with_reducible apply State.issueT_memWf

theorem execLodeRecv_memWf {t th a s} (hs : State.memWf s = true) :
    Out3.memWf (execLodeRecv t th a s) := by
  unfold execLodeRecv
  try dsimp only
  repeat'
    first
    | with_reducible assumption | with_reducible apply ok_memWf | (intro) | with_reducible apply State.issueT_memWf

theorem execLodeTreduce_memWf {t th a s} (hs : State.memWf s = true) :
    Out3.memWf (execLodeTreduce t th a s) := by
  unfold execLodeTreduce
  try dsimp only
  repeat'
    first
    | with_reducible assumption | with_reducible apply ok_memWf | (intro) | with_reducible apply State.issueT_memWf

theorem execSyNop_memWf {t th a s} (hs : State.memWf s = true) :
    Out3.memWf (execSyNop t th a s) := by
  unfold execSyNop
  try dsimp only
  repeat'
    first
    | with_reducible assumption | with_reducible apply ok_memWf | (intro) | with_reducible apply State.issueT_memWf

theorem execSyFence_memWf {t th a s} (hs : State.memWf s = true) :
    Out3.memWf (execSyFence t th a s) := by
  unfold execSyFence
  try dsimp only
  repeat'
    first
    | with_reducible assumption | with_reducible apply ok_memWf | (intro) | with_reducible apply State.issueT_memWf

theorem execSyWake_memWf {t th a s} (hs : State.memWf s = true) :
    Out3.memWf (execSyWake t th a s) := by
  unfold execSyWake
  try dsimp only
  repeat'
    first
    | with_reducible assumption | with_reducible apply ok_memWf | (intro) | with_reducible apply State.issueT_memWf

theorem execCtSync_memWf {t th a s} (hs : State.memWf s = true) :
    Out3.memWf (execCtSync t th a s) := by
  unfold execCtSync
  try dsimp only
  repeat'
    first
    | with_reducible assumption | with_reducible apply ok_memWf | (intro) | with_reducible apply State.issueT_memWf

theorem execCtWaittag_memWf {t th a s} (hs : State.memWf s = true) :
    Out3.memWf (execCtWaittag t th a s) := by
  unfold execCtWaittag
  try dsimp only
  repeat'
    first
    | with_reducible assumption | with_reducible apply ok_memWf | (intro) | with_reducible apply State.issueT_memWf

theorem execCtTag_memWf {t th a s} (hs : State.memWf s = true) :
    Out3.memWf (execCtTag t th a s) := by
  unfold execCtTag
  try dsimp only
  repeat'
    first
    | with_reducible assumption | with_reducible apply ok_memWf | (intro) | with_reducible apply State.issueT_memWf

/-! ### Tsc.lean -/

theorem State.leaveWait_memWf {s t tag} (hs : State.memWf s = true) :
    (State.leaveWait s t tag).memWf = true := by
  unfold State.leaveWait
  try dsimp only
  repeat'
    first
    | with_reducible assumption | (intro) | with_reducible apply State.wakeAll_memWf | with_reducible apply State.onOp_memWf
    | with_reducible apply State.memWf_ite | with_reducible apply State.memWf_foldl | with_reducible apply State.wf_mem
    | with_reducible apply State.wf_hostMem | split

theorem execOperationLeaveWait_memWf {t tag s} (hs : State.memWf s = true) :
    Out3.memWf (execOperationLeaveWait t tag s) := by
  unfold execOperationLeaveWait
  try dsimp only
  repeat'
    first
    | with_reducible assumption | with_reducible apply ok_memWf | (intro) | with_reducible apply State.settle_memWf
    | with_reducible apply State.leaveWait_memWf

theorem execOperationLeaveWake_memWf {t tag s} (hs : State.memWf s = true) :
    Out3.memWf (execOperationLeaveWake t tag s) := by
  unfold execOperationLeaveWake
  try dsimp only
  repeat'
    first
    | with_reducible assumption | with_reducible apply ok_memWf | (intro) | with_reducible apply State.onOp_memWf
    | with_reducible apply State.wakeAll_memWf | with_reducible apply State.memWf_ite | with_reducible apply State.memWf_foldl
    | with_reducible apply State.wf_mem | with_reducible apply State.wf_hostMem | split

theorem State.tookDirect_memWf {s t r} (hs : State.memWf s = true) :
    (State.tookDirect s t r).memWf = true := by
  unfold State.tookDirect
  try dsimp only
  repeat'
    first
    | with_reducible assumption | (intro) | with_reducible apply State.tookVas_memWf | with_reducible apply State.tookSrcs_memWf
    | with_reducible apply State.memWf_ite | with_reducible apply State.memWf_foldl | with_reducible apply State.wf_mem
    | with_reducible apply State.wf_hostMem | split

theorem State.runDirect_memWf {s0 t tag r} (hs0 : State.memWf s0 = true) :
    (State.runDirect s0 t tag r).memWf = true := by
  unfold State.runDirect
  try dsimp only
  repeat'
    first
    | with_reducible assumption | (intro) | with_reducible apply State.tookDirect_memWf | with_reducible apply State.claim_memWf
    | with_reducible apply State.runStatpick_memWf | with_reducible apply State.runSfEval_memWf | with_reducible apply State.runSfLoad_memWf
    | with_reducible apply State.runSfPload_memWf | with_reducible apply State.runRnorm_memWf | with_reducible apply State.runSmax_memWf
    | with_reducible apply State.onOp_memWf | with_reducible apply State.runTreduce_memWf | with_reducible apply State.runVs_memWf
    | with_reducible apply State.memWf_ite | with_reducible apply State.memWf_foldl | with_reducible apply State.wf_mem
    | with_reducible apply State.wf_hostMem | split

theorem State.directPump_memWf {t cls x2 x3} (hx3 : State.memWf x3 = true) :
    (State.directPump t cls x2 x3).memWf = true := by
  induction x2 generalizing x3 with
  | zero =>
    unfold State.directPump
    try dsimp only
    repeat'
      first
      | with_reducible assumption
  | succ k ih =>
    unfold State.directPump
    try dsimp only
    repeat'
      first
      | with_reducible assumption | (intro) | with_reducible apply ih | with_reducible apply State.runDirect_memWf
      | with_reducible apply State.memWf_ite | with_reducible apply State.memWf_foldl | with_reducible apply State.wf_mem
      | with_reducible apply State.wf_hostMem | split

theorem State.unitsGo_memWf {s t} (hs : State.memWf s = true) :
    (State.unitsGo s t).memWf = true := by
  unfold State.unitsGo
  try dsimp only
  repeat'
    first
    | with_reducible assumption | (intro) | with_reducible apply State.directPump_memWf | with_reducible apply State.rbRun_memWf
    | with_reducible apply State.recvRun_memWf | with_reducible apply State.mvRun_memWf | with_reducible apply State.kvRun_memWf

theorem State.enqueue_memWf {s t tag r} (hs : State.memWf s = true) :
    (State.enqueue s t tag r).memWf = true := by
  unfold State.enqueue
  try dsimp only
  repeat'
    first
    | with_reducible assumption | (intro) | with_reducible apply State.raiseOp_memWf | with_reducible apply State.unitsGo_memWf
    | with_reducible apply State.onOp_memWf | with_reducible apply State.atsAsks_memWf | with_reducible apply State.askFar_memWf
    | with_reducible apply State.memWf_ite | with_reducible apply State.memWf_foldl | with_reducible apply State.wf_mem
    | with_reducible apply State.wf_hostMem | split

theorem State.dispatchOp_memWf {s t cls} (hs : State.memWf s = true) :
    (State.dispatchOp s t cls).memWf = true := by
  unfold State.dispatchOp
  try dsimp only
  repeat'
    first
    | with_reducible assumption | (intro) | with_reducible apply State.enqueue_memWf | with_reducible apply State.memWf_ite
    | with_reducible apply State.memWf_foldl | with_reducible apply State.wf_mem | with_reducible apply State.wf_hostMem | split

theorem execOperationDispatch_memWf {t cls s} (hs : State.memWf s = true) :
    Out3.memWf (execOperationDispatch t cls s) := by
  unfold execOperationDispatch
  try dsimp only
  repeat'
    first
    | with_reducible assumption | with_reducible apply ok_memWf | (intro) | with_reducible apply State.settle_memWf
    | with_reducible apply State.dispatchOp_memWf

theorem State.writeAck_memWf {s t tag} (hs : State.memWf s = true) :
    (State.writeAck s t tag).memWf = true := by
  unfold State.writeAck
  try dsimp only
  repeat'
    first
    | with_reducible assumption | (intro) | with_reducible apply State.onOp_memWf | with_reducible apply State.appendLen_memWf
    | with_reducible apply State.raiseOp_memWf | with_reducible apply State.memWf_ite | with_reducible apply State.memWf_foldl
    | with_reducible apply State.wf_mem | with_reducible apply State.wf_hostMem | split

theorem execWriteAcknowledge_memWf {t tag s} (hs : State.memWf s = true) :
    Out3.memWf (execWriteAcknowledge t tag s) := by
  unfold execWriteAcknowledge
  try dsimp only
  repeat'
    first
    | with_reducible assumption | with_reducible apply ok_memWf | (intro) | with_reducible apply State.settle_memWf
    | with_reducible apply State.unitsGo_memWf | with_reducible apply State.writeAck_memWf

theorem State.slotsJoin_memWf {s} (hs : State.memWf s = true) :
    (State.slotsJoin s).memWf = true := by
  unfold State.slotsJoin
  try dsimp only
  repeat'
    first
    | with_reducible assumption | (intro) | with_reducible apply State.slotJoin_memWf | with_reducible apply State.memWf_ite
    | with_reducible apply State.memWf_foldl

theorem State.retireOp_memWf {s t tag} (hs : State.memWf s = true) :
    (State.retireOp s t tag).memWf = true := by
  unfold State.retireOp
  try dsimp only
  repeat'
    first
    | with_reducible assumption | (intro) | with_reducible apply State.unitsGo_memWf | with_reducible apply State.slotsJoin_memWf
    | with_reducible apply State.onTile_memWf | with_reducible apply State.count_memWf | with_reducible apply State.memWf_ite
    | with_reducible apply State.memWf_foldl | with_reducible apply State.wf_mem | with_reducible apply State.wf_hostMem | split

theorem execOperationRetire_memWf {t tag s} (hs : State.memWf s = true) :
    Out3.memWf (execOperationRetire t tag s) := by
  unfold execOperationRetire
  try dsimp only
  repeat'
    first
    | with_reducible assumption | with_reducible apply ok_memWf | (intro) | with_reducible apply State.settle_memWf
    | with_reducible apply State.retireOp_memWf

theorem State.progSel_memWf {s t tag} (hs : State.memWf s = true) :
    (State.progSel s t tag).memWf = true := by
  unfold State.progSel
  try dsimp only
  repeat'
    first
    | with_reducible assumption | (intro) | with_reducible apply State.wrs_memWf | with_reducible apply State.memWf_ite
    | with_reducible apply State.memWf_foldl | with_reducible apply State.wf_mem | with_reducible apply State.wf_hostMem | split

theorem execProgSelWrite_memWf {t val s} (hs : State.memWf s = true) :
    Out3.memWf (execProgSelWrite t val s) := by
  unfold execProgSelWrite
  try dsimp only
  repeat'
    first
    | with_reducible assumption | with_reducible apply ok_memWf | (intro) | with_reducible apply State.progSel_memWf
    | with_reducible apply State.memWf_ite

theorem State.reissueWord_memWf {s t tr n} (hs : State.memWf s = true) : ∀ w, State.reissueWord s t tr n = some w → w.memWf = true := by
  intro w hw
  unfold State.reissueWord at hw
  dsimp only at hw
  split at hw
  · obtain rfl := Option.some.inj hw
    exact State.endOp_memWf hs
  split at hw
  · obtain rfl := Option.some.inj hw
    exact State.endOp_memWf hs
  split at hw
  · cases hw
  split at hw
  · obtain rfl := Option.some.inj hw
    exact State.endOp_memWf hs
  split at hw
  · cases hw
  · obtain rfl := Option.some.inj hw
    exact State.onTile_memWf (State.takeTag_memWf hs)

theorem State.reissue_memWf {s t tr} (hs : State.memWf s = true) : ∀ w, State.reissue s t tr = some w → w.memWf = true :=
  fun w hw => State.reissueWord_memWf hs w hw

theorem State.applyAction_memWf {s t tr action} (hs : State.memWf s = true) :
    ∀ w, State.applyAction s t tr action = some w → w.memWf = true := by
  intro w hw
  unfold State.applyAction at hw
  try dsimp only at hw
  repeat' split at hw
  all_goals try first
    | (rw [← Option.some.inj hw]) | (simp only [reduceCtorEq] at hw)
  all_goals repeat'
      first
      | with_reducible assumption | (intro) | with_reducible apply State.haltTile_memWf | with_reducible apply State.onTile_memWf
      | with_reducible refine State.reissue_memWf ?_ _ (by assumption) | with_reducible apply State.endOp_memWf
      | with_reducible apply State.endUnit_memWf

theorem State.leaveSvc_memWf {s t tr} (hs : State.memWf s = true) :
    (State.leaveSvc s t tr).memWf = true := by
  unfold State.leaveSvc
  try dsimp only
  repeat' first | with_reducible assumption | (intro) | with_reducible apply State.onTile_memWf

theorem execThrTret_memWf {t th a s} (hs : State.memWf s = true) :
    Out3.memWf (execThrTret t th a s) := by
  unfold execThrTret
  try dsimp only
  repeat'
    first
    | with_reducible assumption | with_reducible apply ok_memWf | (intro) | with_reducible apply State.settle_memWf
    | with_reducible apply State.thrInsn_memWf | with_reducible apply Act.ifLegal_memWf | with_reducible apply State.retireAt_memWf
    | with_reducible apply State.onTile_memWf | with_reducible refine State.applyAction_memWf ?_ _ (by assumption)
    | with_reducible apply State.leaveSvc_memWf | with_reducible apply Act.memWf_ite | with_reducible exact Act.memWf_trap
    | with_reducible apply Act.memWf_next | with_reducible apply Act.memWf_jump | with_reducible apply Act.memWf_wait
    | with_reducible apply Act.memWf_done | with_reducible exact Reach.memWf_store | with_reducible exact Reach.memWf_phys
    | with_reducible apply Reach.memWf_stop | with_reducible apply Reach.memWf_ite
    | with_reducible refine Reach.memWf_of_stop ?_ (by assumption) | with_reducible apply State.memWf_ite
    | with_reducible apply State.memWf_foldl | with_reducible apply State.wf_mem | with_reducible apply State.wf_hostMem | split

end Sys2Proof.Machine
end

