-- ==== Sys2Proof/Laws/MemWfHost.lean ====
section
/-! SUPPORT. What every function leaves of the canonical form of both memories: the host interface, checkpoints, power and remote memory. -/
namespace Sys2Proof.Machine

/-! ### Unit.lean -/

theorem State.usrTo_memWf {s u st owner cause} (hs : State.memWf s = true) :
    (State.usrTo s u st owner cause).memWf = true := by
  unfold State.usrTo
  try dsimp only
  repeat'
    first
    | with_reducible assumption | (intro) | with_reducible apply State.wrs_memWf | with_reducible apply State.memWf_ite
    | with_reducible apply State.memWf_foldl | with_reducible apply State.wf_mem | with_reducible apply State.wf_hostMem
    | (simp only [State.mk_memWf, Bool.and_eq_true]; apply And.intro)

theorem State.usrState_memWf {s u st cause} (hs : State.memWf s = true) :
    (State.usrState s u st cause).memWf = true := by
  unfold State.usrState
  try dsimp only
  repeat' first | with_reducible assumption | (intro) | with_reducible apply State.usrTo_memWf

theorem State.usrOwner_memWf {s u owner} (hs : State.memWf s = true) :
    (State.usrOwner s u owner).memWf = true := by
  unfold State.usrOwner
  try dsimp only
  repeat' first | with_reducible assumption | (intro) | with_reducible apply State.usrTo_memWf

theorem State.tileUsr_memWf {s t st cause} (hs : State.memWf s = true) :
    (State.tileUsr s t st cause).memWf = true := by
  unfold State.tileUsr
  try dsimp only
  repeat'
    first
    | with_reducible assumption | (intro) | with_reducible apply State.usrState_memWf | with_reducible apply State.memWf_ite
    | with_reducible apply State.memWf_foldl | with_reducible apply State.wf_mem | with_reducible apply State.wf_hostMem
    | (simp only [State.mk_memWf, Bool.and_eq_true]; apply And.intro)

theorem State.ownersNow_memWf {s} (hs : State.memWf s = true) :
    (State.ownersNow s).memWf = true := by
  unfold State.ownersNow
  try dsimp only
  repeat'
    first
    | with_reducible assumption | (intro) | with_reducible apply State.usrOwner_memWf | with_reducible apply State.memWf_ite
    | with_reducible apply State.memWf_foldl

theorem State.logEvent_memWf {s cls code unit rank info} (hs : State.memWf s = true) :
    (State.logEvent s cls code unit rank info).memWf = true := by
  unfold State.logEvent
  try dsimp only
  repeat' first | with_reducible assumption | (intro) | with_reducible apply State.logRec_memWf

theorem State.logSel_memWf {s i} (hs : State.memWf s = true) :
    (State.logSel s i).memWf = true := by
  unfold State.logSel
  try dsimp only
  repeat' first | with_reducible assumption | (intro) | with_reducible apply State.wr_memWf

theorem execLogSelWrite_memWf {i s} (hs : State.memWf s = true) :
    Out3.memWf (execLogSelWrite i s) := by
  unfold execLogSelWrite
  try dsimp only
  repeat'
    first
    | with_reducible assumption | with_reducible apply ok_memWf | (intro) | with_reducible apply State.logSel_memWf

theorem State.opEvent_memWf {s code unit info} (hs : State.memWf s = true) :
    (State.opEvent s code unit info).memWf = true := by
  unfold State.opEvent
  try dsimp only
  repeat'
    first
    | with_reducible assumption | (intro) | with_reducible apply State.logEvent_memWf | with_reducible apply State.count_memWf

theorem State.aerErr_memWf {s f bit} (hs : State.memWf s = true) :
    (State.aerErr s f bit).memWf = true := by
  unfold State.aerErr
  try dsimp only
  repeat'
    first
    | with_reducible assumption | (intro) | with_reducible apply State.emit_memWf | with_reducible apply State.onFn_memWf

theorem State.msix_memWf {s f vec} (hs : State.memWf s = true) :
    (State.msix s f vec).memWf = true := by
  unfold State.msix
  try dsimp only
  repeat'
    first
    | with_reducible assumption | (intro) | with_reducible apply State.emit_memWf | with_reducible apply State.onFn_memWf
    | with_reducible apply State.memWf_ite

theorem State.event_memWf {s f b} (hs : State.memWf s = true) :
    (State.event s f b).memWf = true := by
  unfold State.event
  try dsimp only
  repeat'
    first
    | with_reducible assumption | (intro) | with_reducible apply State.wr_memWf | with_reducible apply State.msix_memWf
    | with_reducible apply State.memWf_ite

theorem State.unmask_memWf {s f vec} (hs : State.memWf s = true) :
    (State.unmask s f vec).memWf = true := by
  unfold State.unmask
  try dsimp only
  repeat'
    first
    | with_reducible assumption | (intro) | with_reducible apply State.onFn_memWf | with_reducible apply State.emit_memWf
    | with_reducible apply State.memWf_ite

theorem execMsixVectorUnmask_memWf {fn vec s} (hs : State.memWf s = true) :
    Out3.memWf (execMsixVectorUnmask fn vec s) := by
  unfold execMsixVectorUnmask
  try dsimp only
  repeat'
    first
    | with_reducible assumption | with_reducible apply ok_memWf | (intro) | with_reducible apply State.unmask_memWf
    | with_reducible apply State.memWf_ite

/-! ### MemUnit.lean -/

theorem State.countCe_memWf {s r} (hs : State.memWf s = true) :
    (State.countCe s r).memWf = true := by
  unfold State.countCe
  try dsimp only
  repeat'
    first
    | with_reducible assumption | (intro) | with_reducible apply State.count_memWf | with_reducible apply State.memWf_ite
    | with_reducible apply State.memWf_foldl | with_reducible apply State.wf_mem | with_reducible apply State.wf_hostMem | split

theorem State.countUe_memWf {s r pa} (hs : State.memWf s = true) :
    (State.countUe s r pa).memWf = true := by
  unfold State.countUe
  try dsimp only
  repeat'
    first
    | with_reducible assumption | (intro) | with_reducible apply State.count_memWf | with_reducible apply State.wr_memWf
    | with_reducible apply State.memWf_ite | with_reducible apply State.memWf_foldl | with_reducible apply State.wf_mem
    | with_reducible apply State.wf_hostMem | split

theorem State.memErr_memWf {s r pa e_} (hs : State.memWf s = true) :
    (State.memErr s r pa e_).memWf = true := by
  unfold State.memErr
  try dsimp only
  repeat'
    first
    | with_reducible assumption | (intro) | with_reducible apply State.countCe_memWf | with_reducible apply State.opEvent_memWf
    | with_reducible apply State.markPoison_memWf | with_reducible apply State.countUe_memWf | with_reducible apply State.memWf_ite
    | with_reducible apply State.memWf_foldl | with_reducible apply State.wf_mem | with_reducible apply State.wf_hostMem | split

theorem execMemoryRead_memWf {pa err s} (hs : State.memWf s = true) :
    Out3.memWf (execMemoryRead pa err s) := by
  unfold execMemoryRead
  try dsimp only
  repeat'
    first
    | with_reducible assumption | with_reducible apply ok_memWf | (intro) | with_reducible apply State.memErr_memWf
    | with_reducible apply State.tookBytes_memWf | with_reducible apply State.memWf_ite | with_reducible apply State.memWf_foldl
    | with_reducible apply State.wf_mem | with_reducible apply State.wf_hostMem | split

theorem execPatrolScrub_memWf {pa err s} (hs : State.memWf s = true) :
    Out3.memWf (execPatrolScrub pa err s) := by
  unfold execPatrolScrub
  try dsimp only
  repeat'
    first
    | with_reducible assumption | with_reducible apply ok_memWf | (intro) | with_reducible apply State.memErr_memWf
    | with_reducible apply State.memWf_ite | with_reducible apply State.memWf_foldl | with_reducible apply State.wf_mem
    | with_reducible apply State.wf_hostMem | split

theorem State.writeErrs_memWf {s r x2 x3} (hs : State.memWf s = true) :
    (State.writeErrs s r x2 x3).memWf = true := by
  induction x2 generalizing s x3 with
  | nil =>
    unfold State.writeErrs
    try dsimp only
    repeat'
      first
      | with_reducible assumption
  | cons b l ih =>
    unfold State.writeErrs
    try dsimp only
    repeat'
      first
      | with_reducible assumption | (intro) | with_reducible apply ih | with_reducible apply State.memErr_memWf
      | with_reducible apply State.memWf_ite

theorem execMemoryWrite_memWf {pa data errs s} (hs : State.memWf s = true) :
    Out3.memWf (execMemoryWrite pa data errs s) := by
  unfold execMemoryWrite
  try dsimp only
  repeat'
    first
    | with_reducible assumption | with_reducible apply ok_memWf | (intro) | with_reducible apply State.writeBytes_memWf
    | with_reducible apply State.writeErrs_memWf | with_reducible apply State.memWf_ite | with_reducible apply State.memWf_foldl
    | with_reducible apply State.wf_mem | with_reducible apply State.wf_hostMem | split

theorem execMemoryAtomic_memWf {pa op x y s} (hs : State.memWf s = true) :
    Out3.memWf (execMemoryAtomic pa op x y s) := by
  unfold execMemoryAtomic
  try dsimp only
  repeat'
    first
    | with_reducible assumption | with_reducible apply ok_memWf | (intro) | with_reducible apply State.writeNat_memWf
    | with_reducible apply State.tookBytes_memWf | with_reducible apply State.memWf_ite | with_reducible apply State.memWf_foldl
    | with_reducible apply State.wf_mem | with_reducible apply State.wf_hostMem | split

theorem State.tmuInv_memWf {s t val} (hs : State.memWf s = true) :
    (State.tmuInv s t val).memWf = true := by
  unfold State.tmuInv
  try dsimp only
  repeat'
    first
    | with_reducible assumption | (intro) | with_reducible apply State.wr_memWf | with_reducible apply State.onTile_memWf
    | with_reducible apply State.memWf_ite

theorem execTmuInv_memWf {t hi lo s} (hs : State.memWf s = true) :
    Out3.memWf (execTmuInv t hi lo s) := by
  unfold execTmuInv
  try dsimp only
  repeat'
    first
    | with_reducible assumption | with_reducible apply ok_memWf | (intro) | with_reducible apply State.onTile_memWf
    | with_reducible apply State.tmuInv_memWf | with_reducible apply State.memWf_ite

theorem execTmuInvComplete_memWf {t s} (hs : State.memWf s = true) :
    Out3.memWf (execTmuInvComplete t s) := by
  unfold execTmuInvComplete
  try dsimp only
  repeat'
    first
    | with_reducible assumption | with_reducible apply ok_memWf | (intro) | with_reducible apply State.onTile_memWf
    | with_reducible apply State.wr_memWf | with_reducible apply State.memWf_ite

/-! ### Hiu.lean -/

theorem State.onRing_memWf {s f r g} (hs : State.memWf s = true) :
    (State.onRing s f r g).memWf = true := by
  unfold State.onRing
  try dsimp only
  repeat' first | with_reducible assumption | (intro) | with_reducible apply State.onFn_memWf

theorem State.onCmd_memWf {s f r seq g} (hs : State.memWf s = true) :
    (State.onCmd s f r seq g).memWf = true := by
  unfold State.onCmd
  try dsimp only
  repeat' first | with_reducible assumption | (intro) | with_reducible apply State.onRing_memWf

theorem State.ringErr_memWf {s f r cause} (hs : State.memWf s = true) :
    (State.ringErr s f r cause).memWf = true := by
  unfold State.ringErr
  try dsimp only
  repeat'
    first
    | with_reducible assumption | (intro) | with_reducible apply State.event_memWf | with_reducible apply State.wrs_memWf
    | with_reducible apply State.memWf_ite

theorem State.recordIrq_memWf {s f r} (hs : State.memWf s = true) :
    (State.recordIrq s f r).memWf = true := by
  unfold State.recordIrq
  try dsimp only
  repeat'
    first
    | with_reducible assumption | (intro) | with_reducible apply State.msix_memWf | with_reducible apply State.onRing_memWf
    | with_reducible apply State.memWf_ite

theorem State.recordPart_memWf {s f pa bs who} (hs : State.memWf s = true) :
    (State.recordPart s f pa bs who).memWf = true := by
  unfold State.recordPart
  try dsimp only
  repeat'
    first
    | with_reducible assumption | (intro) | with_reducible apply State.hostPlain_memWf | with_reducible apply State.emit_memWf
    | with_reducible apply State.writeBytes_memWf | with_reducible apply State.wakeFor_memWf | with_reducible apply State.memWf_ite
    | with_reducible apply State.memWf_foldl | with_reducible apply State.wf_mem | with_reducible apply State.wf_hostMem | split

theorem State.hiuTook_memWf {s pa n} (hs : State.memWf s = true) :
    (State.hiuTook s pa n).memWf = true := by
  unfold State.hiuTook
  try dsimp only
  repeat'
    first
    | with_reducible assumption | (intro) | with_reducible apply State.tookBytes_memWf | with_reducible apply State.wakeFor_memWf
    | with_reducible apply State.memWf_ite | with_reducible apply State.memWf_foldl

theorem State.hiuAts_memWf {s f pa n} (hs : State.memWf s = true) :
    ∀ w, State.hiuAts s f pa n = some w → w.memWf = true := by
  intro w hw
  unfold State.hiuAts at hw
  try dsimp only at hw
  repeat' split at hw
  all_goals try first
    | (rw [← Option.some.inj hw]) | (simp only [reduceCtorEq] at hw)
  all_goals repeat' first | with_reducible assumption | (intro) | with_reducible apply State.atsAsks_memWf

theorem State.recordPut_memWf {s f r c pa} (hs : State.memWf s = true) :
    (State.recordPut s f r c pa).memWf = true := by
  unfold State.recordPut
  try dsimp only
  repeat'
    first
    | with_reducible assumption | (intro) | with_reducible apply State.wr_memWf | with_reducible apply State.recordPart_memWf
    | with_reducible apply State.onCmd_memWf | with_reducible apply State.recordIrq_memWf | with_reducible apply State.memWf_ite

theorem State.record_memWf {s f r c} (hs : State.memWf s = true) : (State.record s f r c).memWf = true := by
  unfold State.record
  extract_lets tail pa
  clear_value pa
  have ho := fun w h => State.hiuAts_memWf (f := f) (pa := pa) (n := 32) hs w h
  generalize State.hiuAts s f pa 32 = o at ho ⊢
  generalize State.gate s pa = g
  generalize State.paCheck s f pa true = g5
  cases g5 with
  | error => exact State.onCmd_memWf (State.ringErr_memWf hs) | ok =>
  cases o with
  | some => exact ho _ rfl | none => exact State.memWf_ite hs (State.recordPut_memWf hs)

theorem State.recordsDue_memWf {s f r} (hs : State.memWf s = true) :
    (State.recordsDue s f r).memWf = true := by
  unfold State.recordsDue
  try dsimp only
  repeat'
    first
    | with_reducible assumption | (intro) | with_reducible apply State.record_memWf | with_reducible apply State.memWf_ite
    | with_reducible apply State.memWf_foldl

theorem State.complete_memWf {s f r seq status result pos} (hs : State.memWf s = true) :
    (State.complete s f r seq status result pos).memWf = true := by
  unfold State.complete
  try dsimp only
  repeat'
    first
    | with_reducible assumption | (intro) | with_reducible apply State.recordsDue_memWf | with_reducible apply State.onCmd_memWf
    | with_reducible apply State.memWf_ite | with_reducible apply State.memWf_foldl | with_reducible apply State.wf_mem
    | with_reducible apply State.wf_hostMem | split

theorem State.start_memWf {s f r c total} (hs : State.memWf s = true) :
    (State.start s f r c total).memWf = true := by
  unfold State.start
  try dsimp only
  repeat'
    first
    | with_reducible assumption | (intro) | with_reducible apply State.wr_memWf | with_reducible apply State.count_memWf
    | with_reducible apply State.onRing_memWf | with_reducible apply State.onCmd_memWf | with_reducible apply State.memWf_ite
    | with_reducible apply State.memWf_foldl | with_reducible apply State.wf_mem | with_reducible apply State.wf_hostMem
    | (simp only [State.mk_memWf, Bool.and_eq_true]; apply And.intro)

theorem State.startFail_memWf {s f r c total status} (hs : State.memWf s = true) :
    (State.startFail s f r c total status).memWf = true := by
  unfold State.startFail
  try dsimp only
  repeat'
    first
    | with_reducible assumption | (intro) | with_reducible apply State.complete_memWf | with_reducible apply State.start_memWf

theorem State.ringOff_memWf {s f r} (hs : State.memWf s = true) :
    (State.ringOff s f r).memWf = true := by
  unfold State.ringOff
  try dsimp only
  repeat'
    first
    | with_reducible assumption | (intro) | with_reducible apply State.wrs_memWf | with_reducible apply State.memWf_ite

theorem State.fenceDone_memWf {s f r} (hs : State.memWf s = true) :
    (State.fenceDone s f r).memWf = true := by
  unfold State.fenceDone
  try dsimp only
  repeat'
    first
    | with_reducible assumption | (intro) | with_reducible apply State.complete_memWf | with_reducible apply State.memWf_ite
    | with_reducible apply State.memWf_foldl | with_reducible apply State.wf_mem | with_reducible apply State.wf_hostMem | split

theorem State.badFronts_memWf {s f r x3} (hs : State.memWf s = true) :
    (State.badFronts s f r x3).memWf = true := by
  induction x3 generalizing s with
  | zero =>
    unfold State.badFronts
    try dsimp only
    repeat'
      first
      | with_reducible assumption
  | succ k ih =>
    unfold State.badFronts
    try dsimp only
    repeat'
      first
      | with_reducible assumption | (intro) | with_reducible apply ih | with_reducible apply State.fenceDone_memWf
      | with_reducible apply State.startFail_memWf | with_reducible apply State.memWf_ite | with_reducible apply State.memWf_foldl
      | with_reducible apply State.wf_mem | with_reducible apply State.wf_hostMem | split

theorem State.sweep_memWf {s f r} (hs : State.memWf s = true) :
    (State.sweep s f r).memWf = true := by
  unfold State.sweep
  try dsimp only
  repeat'
    first
    | with_reducible assumption | (intro) | with_reducible apply State.fenceDone_memWf | with_reducible apply State.recordsDue_memWf
    | with_reducible apply State.ringOff_memWf | with_reducible apply State.badFronts_memWf

theorem State.sweepAll_memWf {s} (hs : State.memWf s = true) :
    (State.sweepAll s).memWf = true := by
  unfold State.sweepAll
  try dsimp only
  repeat'
    first
    | with_reducible assumption | (intro) | with_reducible apply State.sweep_memWf | with_reducible apply State.memWf_ite
    | with_reducible apply State.memWf_foldl

theorem execDoorbell_memWf {fn r prod s} (hs : State.memWf s = true) :
    Out3.memWf (execDoorbell fn r prod s) := by
  unfold execDoorbell
  try dsimp only
  repeat'
    first
    | with_reducible assumption | with_reducible apply ok_memWf | (intro) | with_reducible apply State.event_memWf
    | with_reducible apply State.ringErr_memWf | with_reducible apply State.onRing_memWf | with_reducible apply State.memWf_ite

theorem State.fetchTake_memWf {s f r body} (hs : State.memWf s = true) :
    (State.fetchTake s f r body).memWf = true := by
  unfold State.fetchTake
  try dsimp only
  repeat'
    first
    | with_reducible assumption | (intro) | with_reducible apply State.sweep_memWf | with_reducible apply State.onRing_memWf

theorem State.fetch_memWf {s f r fail} (hs : State.memWf s = true) : (State.fetch s f r fail).memWf = true := by
  unfold State.fetch
  extract_lets x pa
  clear_value pa
  refine State.memWf_ite hs ?_
  have ho := fun w h => State.hiuAts_memWf (f := f) (pa := pa) (n := 64) hs w h
  generalize State.hiuAts s f pa 64 = o at ho ⊢
  have h4 := State.hiuTook_memWf (pa := pa) (n := 64) hs
  generalize State.hiuTook s pa 64 = g2 at h4 ⊢
  generalize State.readNat s f pa 64 = g3
  generalize State.poisonIn s pa 64 = g1
  generalize State.region s pa = g
  generalize State.paCheck s f pa = g5
  cases g5 with
  | error => exact State.ringErr_memWf hs | ok =>
  cases o with
  | some => exact ho _ rfl | none =>
  cases g with
  | fen => exact State.request_memWf (State.wakeFor_memWf hs) | host => cases fail with
    | none => exact State.memWf_ite (State.ringErr_memWf h4) (State.fetchTake_memWf h4)
    | some => exact State.aerErr_memWf (State.ringErr_memWf hs)
  | _ => exact State.memWf_ite (State.ringErr_memWf h4) (State.fetchTake_memWf h4)

theorem execCommandFetch_memWf {fn r fail s} (hs : State.memWf s = true) :
    Out3.memWf (execCommandFetch fn r fail s) := by
  unfold execCommandFetch
  try dsimp only
  repeat'
    first
    | with_reducible assumption | with_reducible apply ok_memWf | (intro) | with_reducible apply State.fetch_memWf

theorem State.launch_memWf {s f r c} (hs : State.memWf s = true) :
    (State.launch s f r c).memWf = true := by
  unfold State.launch
  try dsimp only
  repeat'
    first
    | with_reducible assumption | (intro) | with_reducible apply State.wakeTile_memWf | with_reducible apply State.onTile_memWf
    | with_reducible apply State.memWf_ite | with_reducible apply State.memWf_foldl

theorem execLaunch_memWf {fn r s} (hs : State.memWf s = true) :
    Out3.memWf (execLaunch fn r s) := by
  unfold execLaunch
  try dsimp only
  repeat'
    first
    | with_reducible assumption | with_reducible apply ok_memWf | (intro) | with_reducible apply State.sweep_memWf
    | with_reducible apply State.startFail_memWf | with_reducible apply State.launch_memWf | with_reducible apply State.start_memWf
    | with_reducible apply State.memWf_ite | with_reducible apply State.memWf_foldl | with_reducible apply State.wf_mem
    | with_reducible apply State.wf_hostMem | split

theorem State.launchPart_memWf {s j t status trapPc retired} (hs : State.memWf s = true) :
    (State.launchPart s j t status trapPc retired).memWf = true := by
  unfold State.launchPart
  try dsimp only
  repeat'
    first
    | with_reducible assumption | (intro) | with_reducible apply State.onCmd_memWf | with_reducible apply State.sweep_memWf
    | with_reducible apply State.complete_memWf | with_reducible apply State.memWf_ite | with_reducible apply State.memWf_foldl
    | with_reducible apply State.wf_mem | with_reducible apply State.wf_hostMem | split

theorem State.jobBegin_memWf {s t j} (hs : State.memWf s = true) :
    (State.jobBegin s t j).memWf = true := by
  unfold State.jobBegin
  try dsimp only
  repeat'
    first
    | with_reducible assumption | (intro) | with_reducible apply State.onTile_memWf | with_reducible apply State.countOp_memWf
    | with_reducible apply State.hiuTook_memWf | with_reducible apply State.memWf_ite | with_reducible apply State.memWf_foldl
    | with_reducible apply State.wf_mem | with_reducible apply State.wf_hostMem | split

theorem execJobStart_memWf {t s} (hs : State.memWf s = true) :
    Out3.memWf (execJobStart t s) := by
  unfold execJobStart
  try dsimp only
  repeat'
    first
    | with_reducible assumption | with_reducible apply ok_memWf | (intro) | with_reducible apply State.request_memWf
    | with_reducible apply State.onTile_memWf | with_reducible refine State.hiuAts_memWf ?_ _ (by assumption)
    | with_reducible apply State.jobBegin_memWf | with_reducible refine State.memWf_getD (State.hiuAts_memWf ?_) ?_
    | with_reducible apply State.memWf_ite | with_reducible apply State.memWf_foldl | with_reducible apply State.wf_mem
    | with_reducible apply State.wf_hostMem | split

theorem State.jobEnd_memWf {s t} (hs : State.memWf s = true) :
    (State.jobEnd s t).memWf = true := by
  unfold State.jobEnd
  try dsimp only
  repeat'
    first
    | with_reducible assumption | (intro) | with_reducible apply State.launchPart_memWf | with_reducible apply State.onTile_memWf
    | with_reducible apply State.memWf_ite | with_reducible apply State.memWf_foldl | with_reducible apply State.wf_mem
    | with_reducible apply State.wf_hostMem | split

theorem execJobComplete_memWf {t s} (hs : State.memWf s = true) :
    Out3.memWf (execJobComplete t s) := by
  unfold execJobComplete
  try dsimp only
  repeat'
    first
    | with_reducible assumption | with_reducible apply ok_memWf | (intro) | with_reducible apply State.jobEnd_memWf
    | with_reducible apply State.memWf_ite

theorem State.copyWakes_memWf {s c} (hs : State.memWf s = true) :
    (State.copyWakes s c).memWf = true := by
  unfold State.copyWakes
  try dsimp only
  repeat'
    first
    | with_reducible assumption | (intro) | with_reducible apply State.wakeFor_memWf | with_reducible apply State.memWf_ite
    | with_reducible apply State.memWf_foldl

theorem execCopy_memWf {fn r s} (hs : State.memWf s = true) :
    Out3.memWf (execCopy fn r s) := by
  unfold execCopy
  try dsimp only
  repeat'
    first
    | with_reducible assumption | with_reducible apply ok_memWf | (intro) | with_reducible apply State.sweep_memWf
    | with_reducible apply State.startFail_memWf | with_reducible apply State.copyWakes_memWf | with_reducible apply State.wakeTile_memWf
    | with_reducible apply State.onTile_memWf | with_reducible apply State.start_memWf | with_reducible apply State.memWf_ite
    | with_reducible apply State.memWf_foldl | with_reducible apply State.wf_mem | with_reducible apply State.wf_hostMem | split

theorem State.copyDone_memWf {s f r seq d} (hs : State.memWf s = true) :
    (State.copyDone s f r seq d).memWf = true := by
  unfold State.copyDone
  try dsimp only
  repeat'
    first
    | with_reducible assumption | (intro) | with_reducible apply State.sweep_memWf | with_reducible apply State.complete_memWf

theorem State.signalGo_memWf {s f r c} (hs : State.memWf s = true) :
    (State.signalGo s f r c).memWf = true := by
  unfold State.signalGo
  try dsimp only
  repeat'
    first
    | with_reducible assumption | (intro) | with_reducible apply State.writeBytes_memWf | with_reducible apply State.wakeFor_memWf
    | with_reducible apply State.request_memWf | with_reducible apply State.update_memWf | with_reducible apply State.hiuTook_memWf
    | with_reducible apply State.memWf_ite | with_reducible apply State.memWf_foldl | with_reducible apply State.wf_mem
    | with_reducible apply State.wf_hostMem | split

theorem State.signalDone_memWf {s f r seq} (hs : State.memWf s = true) :
    (State.signalDone s f r seq).memWf = true := by
  unfold State.signalDone
  try dsimp only
  repeat'
    first
    | with_reducible assumption | (intro) | with_reducible apply State.sweep_memWf | with_reducible apply State.complete_memWf
    | with_reducible apply State.memWf_ite | with_reducible apply State.memWf_foldl | with_reducible apply State.wf_mem
    | with_reducible apply State.wf_hostMem | split

theorem execSignal_memWf {fn r s} (hs : State.memWf s = true) :
    Out3.memWf (execSignal fn r s) := by
  unfold execSignal
  try dsimp only
  repeat'
    first
    | with_reducible assumption | with_reducible apply ok_memWf | (intro) | with_reducible apply State.sweep_memWf
    | with_reducible apply State.startFail_memWf | with_reducible refine State.hiuAts_memWf ?_ _ (by assumption)
    | with_reducible apply State.signalDone_memWf | with_reducible apply State.signalGo_memWf | with_reducible apply State.start_memWf
    | with_reducible refine State.memWf_getD (State.hiuAts_memWf ?_) ?_ | with_reducible apply State.memWf_ite
    | with_reducible apply State.memWf_foldl | with_reducible apply State.wf_mem | with_reducible apply State.wf_hostMem | split

theorem State.waitRead_memWf {s f r seq v} (hs : State.memWf s = true) :
    (State.waitRead s f r seq v).memWf = true := by
  unfold State.waitRead
  try dsimp only
  repeat'
    first
    | with_reducible assumption | (intro) | with_reducible apply State.sweep_memWf | with_reducible apply State.complete_memWf
    | with_reducible apply State.onCmd_memWf | with_reducible apply State.memWf_ite | with_reducible apply State.memWf_foldl
    | with_reducible apply State.wf_mem | with_reducible apply State.wf_hostMem | split

theorem State.waitPoll_memWf {s f r c} (hs : State.memWf s = true) :
    (State.waitPoll s f r c).memWf = true := by
  unfold State.waitPoll
  try dsimp only
  repeat'
    first
    | with_reducible assumption | (intro) | with_reducible apply State.sweep_memWf | with_reducible apply State.complete_memWf
    | with_reducible apply State.request_memWf | with_reducible apply State.wakeFor_memWf
    | with_reducible refine State.hiuAts_memWf ?_ _ (by assumption) | with_reducible apply State.hiuTook_memWf
    | with_reducible apply State.waitRead_memWf | with_reducible refine State.memWf_getD (State.hiuAts_memWf ?_) ?_
    | with_reducible apply State.memWf_ite | with_reducible apply State.memWf_foldl | with_reducible apply State.wf_mem
    | with_reducible apply State.wf_hostMem | split

theorem execWait_memWf {fn r s} (hs : State.memWf s = true) :
    Out3.memWf (execWait fn r s) := by
  unfold execWait
  try dsimp only
  repeat'
    first
    | with_reducible assumption | with_reducible apply ok_memWf | (intro) | with_reducible apply State.sweep_memWf
    | with_reducible apply State.startFail_memWf | with_reducible apply State.waitPoll_memWf | with_reducible apply State.start_memWf
    | with_reducible apply State.memWf_ite | with_reducible apply State.memWf_foldl | with_reducible apply State.wf_mem
    | with_reducible apply State.wf_hostMem | split

theorem execWaitPoll_memWf {fn r s} (hs : State.memWf s = true) :
    Out3.memWf (execWaitPoll fn r s) := by
  unfold execWaitPoll
  try dsimp only
  repeat'
    first
    | with_reducible assumption | with_reducible apply ok_memWf | (intro) | with_reducible apply State.waitPoll_memWf
    | with_reducible apply State.memWf_ite | with_reducible apply State.memWf_foldl | with_reducible apply State.wf_mem
    | with_reducible apply State.wf_hostMem | split

theorem execWaitTimeout_memWf {fn r s} (hs : State.memWf s = true) :
    Out3.memWf (execWaitTimeout fn r s) := by
  unfold execWaitTimeout
  try dsimp only
  repeat'
    first
    | with_reducible assumption | with_reducible apply ok_memWf | (intro) | with_reducible apply State.sweep_memWf
    | with_reducible apply State.complete_memWf | with_reducible apply State.memWf_ite | with_reducible apply State.memWf_foldl
    | with_reducible apply State.wf_mem | with_reducible apply State.wf_hostMem | split

theorem execFence_memWf {fn r s} (hs : State.memWf s = true) :
    Out3.memWf (execFence fn r s) := by
  unfold execFence
  try dsimp only
  repeat'
    first
    | with_reducible assumption | with_reducible apply ok_memWf | (intro) | with_reducible apply State.sweep_memWf
    | with_reducible apply State.start_memWf | with_reducible apply State.memWf_ite | with_reducible apply State.memWf_foldl
    | with_reducible apply State.wf_mem | with_reducible apply State.wf_hostMem | split

theorem execIrqDelayExpiry_memWf {fn r s} (hs : State.memWf s = true) :
    Out3.memWf (execIrqDelayExpiry fn r s) := by
  unfold execIrqDelayExpiry
  try dsimp only
  repeat'
    first
    | with_reducible assumption | with_reducible apply ok_memWf | (intro) | with_reducible apply State.msix_memWf
    | with_reducible apply State.onRing_memWf | with_reducible apply State.memWf_ite

theorem State.putRingCfg_memWf {s f r v size} (hs : State.memWf s = true) :
    (State.putRingCfg s f r v size).memWf = true := by
  unfold State.putRingCfg
  try dsimp only
  repeat'
    first
    | with_reducible assumption | (intro) | with_reducible apply State.wrs_memWf | with_reducible apply State.wr_memWf
    | with_reducible apply State.memWf_ite

theorem State.ringEnable_memWf {s f r v} (hs : State.memWf s = true) :
    (State.ringEnable s f r v).memWf = true := by
  unfold State.ringEnable
  try dsimp only
  repeat'
    first
    | with_reducible assumption | (intro) | with_reducible apply State.putRingCfg_memWf | with_reducible apply State.wr_memWf
    | with_reducible apply State.onRing_memWf | with_reducible apply State.wrs_memWf | with_reducible apply State.event_memWf
    | with_reducible apply State.memWf_ite

theorem execRingEnable_memWf {fn r val s} (hs : State.memWf s = true) :
    Out3.memWf (execRingEnable fn r val s) := by
  unfold execRingEnable
  try dsimp only
  repeat'
    first
    | with_reducible assumption | with_reducible apply ok_memWf | (intro) | with_reducible apply State.ringEnable_memWf
    | with_reducible apply State.memWf_ite

theorem State.ringDisable_memWf {s f r v} (hs : State.memWf s = true) :
    (State.ringDisable s f r v).memWf = true := by
  unfold State.ringDisable
  try dsimp only
  repeat'
    first
    | with_reducible assumption | (intro) | with_reducible apply State.wr_memWf | with_reducible apply State.putRingCfg_memWf
    | with_reducible apply State.sweep_memWf | with_reducible apply State.onRing_memWf | with_reducible apply State.memWf_ite

theorem execRingDisable_memWf {fn r val s} (hs : State.memWf s = true) :
    Out3.memWf (execRingDisable fn r val s) := by
  unfold execRingDisable
  try dsimp only
  repeat'
    first
    | with_reducible assumption | with_reducible apply ok_memWf | (intro) | with_reducible apply State.ringDisable_memWf
    | with_reducible apply State.memWf_ite

theorem State.cqHead_memWf {s f r v} (hs : State.memWf s = true) :
    (State.cqHead s f r v).memWf = true := by
  unfold State.cqHead
  try dsimp only
  repeat'
    first
    | with_reducible assumption | (intro) | with_reducible apply State.wr_memWf | with_reducible apply State.ringErr_memWf
    | with_reducible apply State.sweep_memWf | with_reducible apply State.memWf_ite

theorem execCqHeadWrite_memWf {fn r val s} (hs : State.memWf s = true) :
    Out3.memWf (execCqHeadWrite fn r val s) := by
  unfold execCqHeadWrite
  try dsimp only
  repeat'
    first
    | with_reducible assumption | with_reducible apply ok_memWf | (intro) | with_reducible apply State.cqHead_memWf
    | with_reducible apply State.memWf_ite

theorem State.ringProg_memWf {s f r seq} (hs : State.memWf s = true) :
    (State.ringProg s f r seq).memWf = true := by
  unfold State.ringProg
  try dsimp only
  repeat'
    first
    | with_reducible assumption | (intro) | with_reducible apply State.wrs_memWf | with_reducible apply State.memWf_ite
    | with_reducible apply State.memWf_foldl | with_reducible apply State.wf_mem | with_reducible apply State.wf_hostMem | split

theorem execRingProgSelWrite_memWf {fn r val s} (hs : State.memWf s = true) :
    Out3.memWf (execRingProgSelWrite fn r val s) := by
  unfold execRingProgSelWrite
  try dsimp only
  repeat'
    first
    | with_reducible assumption | with_reducible apply ok_memWf | (intro) | with_reducible apply State.ringProg_memWf
    | with_reducible apply State.memWf_ite

theorem execTimeNowRead_memWf {fn s} (hs : State.memWf s = true) :
    Out3.memWf (execTimeNowRead fn s) := by
  unfold execTimeNowRead
  try dsimp only
  repeat'
    first
    | with_reducible assumption | with_reducible apply ok_memWf | (intro) | with_reducible apply State.emit_memWf
    | with_reducible apply State.wr_memWf | with_reducible apply State.memWf_ite

/-! ### Ckpt.lean -/

theorem State.release_memWf {s l} (hs : State.memWf s = true) :
    (State.release s l).memWf = true := by
  unfold State.release
  try dsimp only
  repeat'
    first
    | with_reducible assumption | (intro) | with_reducible apply State.perform_memWf | with_reducible apply State.memWf_ite
    | with_reducible apply State.memWf_foldl

theorem State.signalsDone_memWf {s} (hs : State.memWf s = true) :
    (State.signalsDone s).memWf = true := by
  unfold State.signalsDone
  try dsimp only
  repeat'
    first
    | with_reducible assumption | (intro) | with_reducible apply State.signalDone_memWf | with_reducible apply State.memWf_ite
    | with_reducible apply State.memWf_foldl

theorem State.allGo_memWf {s} (hs : State.memWf s = true) :
    (State.allGo s).memWf = true := by
  unfold State.allGo
  try dsimp only
  repeat'
    first
    | with_reducible assumption | (intro) | with_reducible apply State.sweepAll_memWf | with_reducible apply State.signalsDone_memWf
    | with_reducible apply State.unitsGo_memWf | with_reducible apply State.memWf_ite | with_reducible apply State.memWf_foldl

theorem State.ckEnd_memWf {s status} (hs : State.memWf s = true) :
    (State.ckEnd s status).memWf = true := by
  unfold State.ckEnd
  try dsimp only
  repeat'
    first
    | with_reducible assumption | (intro) | with_reducible apply State.release_memWf | with_reducible apply State.onTile_memWf
    | with_reducible apply State.allGo_memWf | with_reducible apply State.complete_memWf | with_reducible apply State.memWf_ite
    | with_reducible apply State.memWf_foldl | with_reducible apply State.wf_mem | with_reducible apply State.wf_hostMem
    | (simp only [State.mk_memWf, Bool.and_eq_true]; apply And.intro) | split

theorem State.ckFeedTile_memWf {s j t} (hs : State.memWf s = true) :
    (State.ckFeedTile s j t).memWf = true := by
  unfold State.ckFeedTile
  try dsimp only
  repeat' first | with_reducible assumption | (intro) | with_reducible apply State.onTile_memWf

theorem State.ckWake_memWf {s j} (hs : State.memWf s = true) :
    (State.ckWake s j).memWf = true := by
  unfold State.ckWake
  try dsimp only
  repeat'
    first
    | with_reducible assumption | (intro) | with_reducible apply State.wakeFor_memWf | with_reducible apply State.wakeTile_memWf
    | with_reducible apply State.memWf_ite | with_reducible apply State.memWf_foldl

theorem State.ckFeed_memWf {s} (hs : State.memWf s = true) :
    (State.ckFeed s).memWf = true := by
  unfold State.ckFeed
  try dsimp only
  repeat'
    first
    | with_reducible assumption | (intro) | with_reducible apply State.ckFeedTile_memWf | with_reducible apply State.ckWake_memWf
    | with_reducible apply State.memWf_ite | with_reducible apply State.memWf_foldl | with_reducible apply State.wf_mem
    | with_reducible apply State.wf_hostMem | split

theorem State.ckWrite_memWf {s j off bs} (hs : State.memWf s = true) :
    (State.ckWrite s j off bs).memWf = true := by
  unfold State.ckWrite
  try dsimp only
  repeat' first | with_reducible assumption | (intro) | with_reducible apply State.writeBytes_memWf

theorem State.ckAdvance_memWf {s} (hs : State.memWf s = true) :
    (State.ckAdvance s).memWf = true := by
  unfold State.ckAdvance
  try dsimp only
  repeat'
    first
    | with_reducible assumption | (intro) | with_reducible apply State.atsAsk_memWf | with_reducible apply State.ckEnd_memWf
    | with_reducible apply State.ckFeed_memWf | with_reducible apply State.ckWrite_memWf | with_reducible apply State.memWf_ite
    | with_reducible apply State.memWf_foldl | with_reducible apply State.wf_mem | with_reducible apply State.wf_hostMem
    | (simp only [State.mk_memWf, Bool.and_eq_true]; apply And.intro) | split

theorem State.ckBegin_memWf {s f r c d restore} (hs : State.memWf s = true) :
    (State.ckBegin s f r c d restore).memWf = true := by
  unfold State.ckBegin
  try dsimp only
  repeat'
    first
    | with_reducible assumption | (intro) | with_reducible apply State.putBytes_memWf | with_reducible apply State.ckWake_memWf
    | with_reducible apply State.ckAdvance_memWf | with_reducible apply State.request_memWf | with_reducible apply State.ckWrite_memWf
    | with_reducible apply State.memWf_ite | with_reducible apply State.memWf_foldl | with_reducible apply State.wf_mem
    | with_reducible apply State.wf_hostMem | (simp only [State.mk_memWf, Bool.and_eq_true]; apply And.intro) | split

theorem State.ckCommand_memWf {s f r op} (hs : State.memWf s = true) :
    (State.ckCommand s f r op).memWf = true := by
  unfold State.ckCommand
  try dsimp only
  repeat'
    first
    | with_reducible assumption | (intro) | with_reducible apply State.sweep_memWf | with_reducible apply State.startFail_memWf
    | with_reducible refine State.hiuAts_memWf ?_ _ (by assumption) | with_reducible apply State.atsAsk_memWf
    | with_reducible apply State.request_memWf | with_reducible apply State.onCmd_memWf | with_reducible apply State.ckBegin_memWf
    | with_reducible apply State.start_memWf | with_reducible apply State.hiuTook_memWf
    | with_reducible refine State.memWf_getD (State.hiuAts_memWf ?_) ?_ | with_reducible apply State.memWf_ite
    | with_reducible apply State.memWf_foldl | with_reducible apply State.wf_mem | with_reducible apply State.wf_hostMem | split

theorem execCheckpoint_memWf {fn r s} (hs : State.memWf s = true) :
    Out3.memWf (execCheckpoint fn r s) := by
  unfold execCheckpoint
  try dsimp only
  repeat'
    first
    | with_reducible assumption | with_reducible apply ok_memWf | (intro) | with_reducible apply State.ckCommand_memWf

theorem execRestore_memWf {fn r s} (hs : State.memWf s = true) :
    Out3.memWf (execRestore fn r s) := by
  unfold execRestore
  try dsimp only
  repeat'
    first
    | with_reducible assumption | with_reducible apply ok_memWf | (intro) | with_reducible apply State.ckCommand_memWf

theorem execCheckpointSnapshot_memWf {s} (hs : State.memWf s = true) :
    Out3.memWf (execCheckpointSnapshot s) := by
  unfold execCheckpointSnapshot
  try dsimp only
  repeat'
    first
    | with_reducible assumption | with_reducible apply ok_memWf | (intro) | with_reducible apply State.ckFeed_memWf
    | with_reducible apply State.memWf_ite | with_reducible apply State.memWf_foldl | with_reducible apply State.wf_mem
    | with_reducible apply State.wf_hostMem | (simp only [State.mk_memWf, Bool.and_eq_true]; apply And.intro) | split

theorem execHeldWriteRelease_memWf {block s} (hs : State.memWf s = true) :
    Out3.memWf (execHeldWriteRelease block s) := by
  unfold execHeldWriteRelease
  try dsimp only
  repeat'
    first
    | with_reducible assumption | with_reducible apply ok_memWf | (intro) | with_reducible apply State.shadowCopy_memWf
    | with_reducible apply State.allGo_memWf | with_reducible apply State.release_memWf | with_reducible apply State.memWf_ite
    | with_reducible apply State.memWf_foldl | with_reducible apply State.wf_mem | with_reducible apply State.wf_hostMem
    | (simp only [State.mk_memWf, Bool.and_eq_true]; apply And.intro) | split

theorem execCheckpointImageFinish_memWf {s} (hs : State.memWf s = true) :
    Out3.memWf (execCheckpointImageFinish s) := by
  unfold execCheckpointImageFinish
  try dsimp only
  repeat'
    first
    | with_reducible assumption | with_reducible apply ok_memWf | (intro) | with_reducible apply State.atsAsk_memWf
    | with_reducible apply State.ckAdvance_memWf | with_reducible apply State.ckWrite_memWf | with_reducible apply State.memWf_ite
    | with_reducible apply State.memWf_foldl | with_reducible apply State.wf_mem | with_reducible apply State.wf_hostMem
    | (simp only [State.mk_memWf, Bool.and_eq_true]; apply And.intro) | split

theorem State.ckTake_memWf {s t d} (hs : State.memWf s = true) :
    (State.ckTake s t d).memWf = true := by
  unfold State.ckTake
  try dsimp only
  repeat'
    first
    | with_reducible assumption | (intro) | with_reducible apply State.descStart_memWf | with_reducible apply State.onTile_memWf
    | with_reducible apply State.blockTo_memWf | with_reducible apply State.memWf_ite | with_reducible apply State.memWf_foldl
    | with_reducible apply State.wf_mem | with_reducible apply State.wf_hostMem | split

theorem execTdmDescriptorStart_memWf {t id s} (hs : State.memWf s = true) :
    Out3.memWf (execTdmDescriptorStart t id s) := by
  unfold execTdmDescriptorStart
  try dsimp only
  repeat'
    first
    | with_reducible assumption | with_reducible apply ok_memWf | (intro) | with_reducible apply State.wakeTile_memWf
    | with_reducible apply State.ckTake_memWf | with_reducible apply State.descStart_memWf | with_reducible apply State.memWf_ite
    | with_reducible apply State.memWf_foldl | with_reducible apply State.wf_mem | with_reducible apply State.wf_hostMem | split

theorem State.ckLanded_memWf {s d} (hs : State.memWf s = true) :
    (State.ckLanded s d).memWf = true := by
  unfold State.ckLanded
  try dsimp only
  repeat'
    first
    | with_reducible assumption | (intro) | with_reducible apply State.blockTo_memWf | with_reducible apply State.memWf_ite
    | with_reducible apply State.memWf_foldl | with_reducible apply State.wf_mem | with_reducible apply State.wf_hostMem | split

theorem execTdmBlockLanded_memWf {t id s} (hs : State.memWf s = true) :
    Out3.memWf (execTdmBlockLanded t id s) := by
  unfold execTdmBlockLanded
  try dsimp only
  repeat'
    first
    | with_reducible assumption | with_reducible apply ok_memWf | (intro) | with_reducible apply State.blockLanded_memWf
    | with_reducible apply State.ckLanded_memWf | with_reducible apply State.memWf_ite | with_reducible apply State.memWf_foldl
    | with_reducible apply State.wf_mem | with_reducible apply State.wf_hostMem | split

theorem State.ckBlockDone_memWf {s d} (hs : State.memWf s = true) :
    (State.ckBlockDone s d).memWf = true := by
  unfold State.ckBlockDone
  try dsimp only
  repeat'
    first
    | with_reducible assumption | (intro) | with_reducible apply State.ckEnd_memWf | with_reducible apply State.blockTo_memWf
    | with_reducible apply State.ckFeed_memWf | with_reducible apply State.memWf_ite | with_reducible apply State.memWf_foldl
    | with_reducible apply State.wf_mem | with_reducible apply State.wf_hostMem
    | (simp only [State.mk_memWf, Bool.and_eq_true]; apply And.intro) | split

theorem State.descDone_memWf {s t d} (hs : State.memWf s = true) :
    (State.descDone s t d).memWf = true := by
  unfold State.descDone
  try dsimp only
  repeat'
    first
    | with_reducible assumption | (intro) | with_reducible apply State.onTile_memWf | with_reducible apply State.mvRun_memWf
    | with_reducible apply State.mvDescDone_memWf | with_reducible apply State.copyDone_memWf | with_reducible apply State.ckBlockDone_memWf
    | with_reducible apply State.memWf_ite | with_reducible apply State.memWf_foldl | with_reducible apply State.wf_mem
    | with_reducible apply State.wf_hostMem | split

theorem execTdmDescriptorComplete_memWf {t id s} (hs : State.memWf s = true) :
    Out3.memWf (execTdmDescriptorComplete t id s) := by
  unfold execTdmDescriptorComplete
  try dsimp only
  repeat'
    first
    | with_reducible assumption | with_reducible apply ok_memWf | (intro) | with_reducible apply State.descCmpl_memWf
    | with_reducible apply State.settle_memWf | with_reducible apply State.ckFeed_memWf | with_reducible apply State.descDone_memWf
    | with_reducible apply State.memWf_ite | with_reducible apply State.memWf_foldl | with_reducible apply State.wf_mem
    | with_reducible apply State.wf_hostMem | split

/-! ### Power.lean -/

theorem State.stopSeen_memWf {s t} (hs : State.memWf s = true) :
    (State.stopSeen s t).memWf = true := by
  unfold State.stopSeen
  try dsimp only
  repeat'
    first
    | with_reducible assumption | (intro) | with_reducible apply State.memWf_ite | with_reducible apply State.memWf_foldl
    | with_reducible apply State.wf_mem | with_reducible apply State.wf_hostMem
    | (simp only [State.mk_memWf, Bool.and_eq_true]; apply And.intro) | split

theorem State.enter_memWf {s t target} (hs : State.memWf s = true) :
    (State.enter s t target).memWf = true := by
  unfold State.enter
  try dsimp only
  repeat'
    first
    | with_reducible assumption | (intro) | with_reducible apply State.onTile_memWf | with_reducible apply State.wr_memWf
    | with_reducible apply State.stopSeen_memWf

theorem State.idleTo_memWf {s t target threshold} (hs : State.memWf s = true) :
    (State.idleTo s t target threshold).memWf = true := by
  unfold State.idleTo
  try dsimp only
  repeat'
    first
    | with_reducible assumption | (intro) | with_reducible apply State.enter_memWf | with_reducible apply State.memWf_ite

theorem execTileIdleDoze_memWf {t s} (hs : State.memWf s = true) :
    Out3.memWf (execTileIdleDoze t s) := by
  unfold execTileIdleDoze
  try dsimp only
  repeat'
    first
    | with_reducible assumption | with_reducible apply ok_memWf | (intro) | with_reducible apply State.idleTo_memWf

theorem execTileIdleNap_memWf {t s} (hs : State.memWf s = true) :
    Out3.memWf (execTileIdleNap t s) := by
  unfold execTileIdleNap
  try dsimp only
  repeat'
    first
    | with_reducible assumption | with_reducible apply ok_memWf | (intro) | with_reducible apply State.idleTo_memWf

theorem execTileIdleSleep_memWf {t s} (hs : State.memWf s = true) :
    Out3.memWf (execTileIdleSleep t s) := by
  unfold execTileIdleSleep
  try dsimp only
  repeat'
    first
    | with_reducible assumption | with_reducible apply ok_memWf | (intro) | with_reducible apply State.idleTo_memWf

theorem State.sleepLoss_memWf {s t} (hs : State.memWf s = true) :
    (State.sleepLoss s t).memWf = true := by
  unfold State.sleepLoss
  try dsimp only
  repeat'
    first
    | with_reducible assumption | (intro) | with_reducible apply State.drawn_memWf | with_reducible apply State.onTile_memWf

theorem State.dropMem_memWf {s p} (hs : State.memWf s = true) : (State.dropMem s p).memWf = true := by
  unfold State.dropMem
  rw [State.mk_memWf, Bool.and_eq_true]
  exact ⟨SMap.wf_filter _ (State.wf_mem hs), State.wf_hostMem hs⟩

theorem State.clearBlk_memWf {s b inst keep} (hs : State.memWf s = true) :
    (State.clearBlk s b inst keep).memWf = true := by
  unfold State.clearBlk
  try dsimp only
  repeat'
    first
    | with_reducible assumption | (intro) | with_reducible apply State.memWf_ite | with_reducible apply State.memWf_foldl
    | with_reducible apply State.wf_mem | with_reducible apply State.wf_hostMem
    | (simp only [State.mk_memWf, Bool.and_eq_true]; apply And.intro)

theorem State.tpcFresh_memWf {s t} (hs : State.memWf s = true) :
    (State.tpcFresh s t).memWf = true := by
  unfold State.tpcFresh
  try dsimp only
  repeat' first | with_reducible assumption | (intro) | with_reducible apply State.wrs_memWf

theorem State.tileFresh_memWf {s t} (hs : State.memWf s = true) :
    (State.tileFresh s t).memWf = true := by
  unfold State.tileFresh
  try dsimp only
  repeat'
    first
    | with_reducible assumption | (intro) | with_reducible apply State.clearBlk_memWf | with_reducible apply State.tpcFresh_memWf
    | with_reducible apply State.wr_memWf | with_reducible apply State.setTile_memWf | with_reducible apply State.memWf_ite
    | with_reducible apply State.memWf_foldl

theorem State.underStop_memWf {s t} (hs : State.memWf s = true) :
    (State.underStop s t).memWf = true := by
  unfold State.underStop
  try dsimp only
  repeat'
    first
    | with_reducible assumption | (intro) | with_reducible apply State.onTile_memWf | with_reducible apply State.wr_memWf
    | with_reducible apply State.memWf_ite

theorem State.tileOff_memWf {s t} (hs : State.memWf s = true) :
    (State.tileOff s t).memWf = true := by
  unfold State.tileOff
  try dsimp only
  repeat'
    first
    | with_reducible assumption | (intro) | with_reducible apply State.dropMem_memWf | with_reducible apply State.onTile_memWf
    | with_reducible apply State.clearBlk_memWf

theorem execTileWakeRequest_memWf {t full s} (hs : State.memWf s = true) :
    Out3.memWf (execTileWakeRequest t full s) := by
  unfold execTileWakeRequest
  try dsimp only
  repeat'
    first
    | with_reducible assumption | with_reducible apply ok_memWf | (intro) | with_reducible apply State.wakeTile_memWf

theorem State.wakeDone_memWf {s t} (hs : State.memWf s = true) :
    (State.wakeDone s t).memWf = true := by
  unfold State.wakeDone
  try dsimp only
  repeat'
    first
    | with_reducible assumption | (intro) | with_reducible apply State.onTile_memWf | with_reducible apply State.wr_memWf
    | with_reducible apply State.count_memWf | with_reducible apply State.memWf_ite

theorem execTileWakeComplete_memWf {t s} (hs : State.memWf s = true) :
    Out3.memWf (execTileWakeComplete t s) := by
  unfold execTileWakeComplete
  try dsimp only
  repeat'
    first
    | with_reducible assumption | with_reducible apply ok_memWf | (intro) | with_reducible apply State.wakeDone_memWf

theorem execTpcWake_memWf {fn t s} (hs : State.memWf s = true) :
    Out3.memWf (execTpcWake fn t s) := by
  unfold execTpcWake
  try dsimp only
  repeat'
    first
    | with_reducible assumption | with_reducible apply ok_memWf | (intro) | with_reducible apply State.wr_memWf
    | with_reducible apply State.wakeTile_memWf | with_reducible apply State.memWf_ite

theorem State.tpcOff_memWf {s t cause} (hs : State.memWf s = true) :
    ∀ w, State.tpcOff s t cause = some w → w.memWf = true := by
  intro w hw
  unfold State.tpcOff at hw
  try dsimp only at hw
  repeat' split at hw
  all_goals try first
    | (rw [← Option.some.inj hw]) | (simp only [reduceCtorEq] at hw)
  all_goals repeat'
      first
      | with_reducible assumption | (intro) | with_reducible apply State.tileUsr_memWf | with_reducible apply State.enter_memWf

theorem execTpcOff_memWf {fn t s} (hs : State.memWf s = true) : Out3.memWf (execTpcOff fn t s) :=
  ok_memWf (State.memWf_ite hs (State.memWf_getD (State.tpcOff_memWf hs) (State.wr_memWf hs)))

theorem State.tpcOn_memWf {s t cause} (hs : State.memWf s = true) :
    ∀ w, State.tpcOn s t cause = some w → w.memWf = true := by
  intro w hw
  unfold State.tpcOn at hw
  try dsimp only at hw
  repeat' split at hw
  all_goals try first
    | (rw [← Option.some.inj hw]) | (simp only [reduceCtorEq] at hw)
  all_goals repeat'
      first
      | with_reducible assumption | (intro) | with_reducible apply State.tileUsr_memWf | with_reducible apply State.wr_memWf

theorem execTpcOn_memWf {fn t s} (hs : State.memWf s = true) : Out3.memWf (execTpcOn fn t s) :=
  ok_memWf (State.memWf_ite hs (State.memWf_ite (State.wr_memWf hs) (State.memWf_getD (State.tpcOn_memWf hs) hs)))

theorem execTilePowerUpComplete_memWf {t s} (hs : State.memWf s = true) :
    Out3.memWf (execTilePowerUpComplete t s) := by
  unfold execTilePowerUpComplete
  try dsimp only
  repeat'
    first
    | with_reducible assumption | with_reducible apply ok_memWf | (intro) | with_reducible apply State.dropMem_memWf
    | with_reducible apply State.tileFresh_memWf | with_reducible apply State.wrs_memWf | with_reducible apply State.underStop_memWf
    | with_reducible apply State.tileUsr_memWf | with_reducible apply State.count_memWf | with_reducible apply State.memWf_ite

theorem execFabricRegionIdle_memWf {i s} (hs : State.memWf s = true) :
    Out3.memWf (execFabricRegionIdle i s) := by
  unfold execFabricRegionIdle
  try dsimp only
  repeat'
    first
    | with_reducible assumption | with_reducible apply ok_memWf | (intro) | with_reducible apply State.wr_memWf
    | with_reducible apply State.memWf_ite

theorem execFabricRegionUngate_memWf {i s} (hs : State.memWf s = true) :
    Out3.memWf (execFabricRegionUngate i s) := by
  unfold execFabricRegionUngate
  try dsimp only
  repeat'
    first
    | with_reducible assumption | with_reducible apply ok_memWf | (intro) | with_reducible apply State.ungate_memWf

theorem execHbmIdleTimeout_memWf {k s} (hs : State.memWf s = true) :
    Out3.memWf (execHbmIdleTimeout k s) := by
  unfold execHbmIdleTimeout
  try dsimp only
  repeat'
    first
    | with_reducible assumption | with_reducible apply ok_memWf | (intro) | with_reducible apply State.wr_memWf
    | with_reducible apply State.memWf_ite

theorem execHbmSelfRefreshExit_memWf {k s} (hs : State.memWf s = true) :
    Out3.memWf (execHbmSelfRefreshExit k s) := by
  unfold execHbmSelfRefreshExit
  try dsimp only
  repeat'
    first
    | with_reducible assumption | with_reducible apply ok_memWf | (intro) | with_reducible apply State.stackUp_memWf
    | with_reducible apply State.memWf_ite

theorem State.stackOff_memWf {s k} (hs : State.memWf s = true) :
    (State.stackOff s k).memWf = true := by
  unfold State.stackOff
  try dsimp only
  repeat'
    first
    | with_reducible assumption | (intro) | with_reducible apply State.dropMem_memWf | with_reducible apply State.wr_memWf

theorem State.throttle_memWf {s high} (hs : State.memWf s = true) :
    (State.throttle s high).memWf = true := by
  unfold State.throttle
  try dsimp only
  repeat' first | with_reducible assumption | (intro) | with_reducible apply State.wr_memWf

theorem State.tileToOff_memWf {s t} (hs : State.memWf s = true) :
    (State.tileToOff s t).memWf = true := by
  unfold State.tileToOff
  try dsimp only
  repeat'
    first
    | with_reducible assumption | (intro) | with_reducible apply State.wr_memWf | with_reducible apply State.tileUsr_memWf
    | with_reducible apply State.enter_memWf | with_reducible apply State.memWf_ite

theorem State.allOff_memWf {s} (hs : State.memWf s = true) :
    (State.allOff s).memWf = true := by
  unfold State.allOff
  try dsimp only
  repeat'
    first
    | with_reducible assumption | (intro) | with_reducible apply State.tileToOff_memWf | with_reducible apply State.stackOff_memWf
    | with_reducible apply State.memWf_ite | with_reducible apply State.memWf_foldl

theorem State.critical_memWf {s temps} (hs : State.memWf s = true) :
    (State.critical s temps).memWf = true := by
  unfold State.critical
  try dsimp only
  repeat'
    first
    | with_reducible assumption | (intro) | with_reducible apply State.allOff_memWf | with_reducible apply State.emit_memWf
    | with_reducible apply State.tellMembers_memWf | with_reducible apply State.report_memWf | with_reducible apply State.memWf_ite
    | with_reducible apply State.memWf_foldl | with_reducible apply State.wf_mem | with_reducible apply State.wf_hostMem
    | (simp only [State.mk_memWf, Bool.and_eq_true]; apply And.intro) | split

theorem State.pcmSample_memWf {s rails temps uj} (hs : State.memWf s = true) :
    (State.pcmSample s rails temps uj).memWf = true := by
  unfold State.pcmSample
  try dsimp only
  repeat'
    first
    | with_reducible assumption | (intro) | with_reducible apply State.wr_memWf | with_reducible apply State.critical_memWf
    | with_reducible apply State.throttle_memWf | with_reducible apply State.memWf_ite | with_reducible apply State.memWf_foldl
    | with_reducible apply State.wf_mem | with_reducible apply State.wf_hostMem
    | (simp only [State.mk_memWf, Bool.and_eq_true]; apply And.intro)

theorem execPcmSample_memWf {rails temps uj s} (hs : State.memWf s = true) :
    Out3.memWf (execPcmSample rails temps uj s) := by
  unfold execPcmSample
  try dsimp only
  repeat'
    first
    | with_reducible assumption | with_reducible apply ok_memWf | (intro) | with_reducible apply State.pcmSample_memWf
    | with_reducible apply State.memWf_ite

/-! ### Remote.lean -/

theorem State.setPoison_memWf {s pa n b} (hs : State.memWf s = true) :
    (State.setPoison s pa n b).memWf = true := by
  unfold State.setPoison
  try dsimp only
  repeat'
    first
    | with_reducible assumption | (intro) | with_reducible apply State.markPoison_memWf | with_reducible apply State.memWf_ite
    | with_reducible apply State.memWf_foldl | with_reducible apply State.wf_mem | with_reducible apply State.wf_hostMem
    | (simp only [State.mk_memWf, Bool.and_eq_true]; apply And.intro)

theorem State.imageData_memWf {s r status data} (hs : State.memWf s = true) :
    (State.imageData s r status data).memWf = true := by
  unfold State.imageData
  try dsimp only
  repeat'
    first
    | with_reducible assumption | (intro) | with_reducible apply State.setPoison_memWf | with_reducible apply State.putBytes_memWf
    | with_reducible apply State.memWf_ite

theorem State.scalarFail_memWf {s t h_ va pc} (hs : State.memWf s = true) :
    (State.scalarFail s t h_ va pc).memWf = true := by
  unfold State.scalarFail
  try dsimp only
  repeat'
    first
    | with_reducible assumption | (intro) | with_reducible apply State.countOp_memWf | with_reducible apply State.raiseSync_memWf
    | with_reducible apply State.onTile_memWf | with_reducible apply State.memWf_ite

theorem State.scalarAnswer_memWf {s t h_ va pc mop status} (hs : State.memWf s = true) :
    (State.scalarAnswer s t h_ va pc mop status).memWf = true := by
  unfold State.scalarAnswer
  try dsimp only
  repeat'
    first
    | with_reducible assumption | (intro) | with_reducible apply State.scalarFail_memWf | with_reducible apply State.onTile_memWf
    | with_reducible apply State.memWf_ite

theorem State.onSeqAny_memWf {s t seq f} (hs : State.memWf s = true) (hf : ∀ a0 a1 a2, State.memWf a0 = true → (f a0 a1 a2).memWf = true) :
    (State.onSeqAny s t seq f).memWf = true := by
  unfold State.onSeqAny
  try dsimp only
  repeat'
    first
    | with_reducible assumption | (intro) | with_reducible apply hf | with_reducible apply State.memWf_ite
    | with_reducible apply State.memWf_foldl | with_reducible apply State.wf_mem | with_reducible apply State.wf_hostMem | split

theorem State.opAnswer_memWf {s t seq r status} (hs : State.memWf s = true) :
    (State.opAnswer s t seq r status).memWf = true := by
  unfold State.opAnswer
  try dsimp only
  repeat'
    first
    | with_reducible assumption | (intro) | with_reducible apply State.onSeqAny_memWf | with_reducible apply State.raiseOp_memWf
    | with_reducible apply State.unitsGo_memWf | with_reducible apply State.memWf_ite

theorem State.tdmAnswer_memWf {s t id r status} (hs : State.memWf s = true) :
    (State.tdmAnswer s t id r status).memWf = true := by
  unfold State.tdmAnswer
  try dsimp only
  repeat'
    first
    | with_reducible assumption | (intro) | with_reducible apply State.onTile_memWf | with_reducible apply State.tdmFail_memWf
    | with_reducible apply State.memWf_ite | with_reducible apply State.memWf_foldl | with_reducible apply State.wf_mem
    | with_reducible apply State.wf_hostMem | split

theorem State.cmdAnswer_memWf {s f r seq q status} (hs : State.memWf s = true) :
    (State.cmdAnswer s f r seq q status).memWf = true := by
  unfold State.cmdAnswer
  try dsimp only
  repeat'
    first
    | with_reducible assumption | (intro) | with_reducible apply State.ringErr_memWf | with_reducible apply State.fetchTake_memWf
    | with_reducible apply State.sweep_memWf | with_reducible apply State.onCmd_memWf | with_reducible apply State.onTile_memWf
    | with_reducible apply State.signalDone_memWf | with_reducible apply State.complete_memWf | with_reducible apply State.waitRead_memWf
    | with_reducible apply State.startFail_memWf | with_reducible apply State.memWf_ite | with_reducible apply State.memWf_foldl
    | with_reducible apply State.wf_mem | with_reducible apply State.wf_hostMem | split

theorem State.answer_memWf {s r status data} (hs : State.memWf s = true) :
    (State.answer s r status data).memWf = true := by
  unfold State.answer
  try dsimp only
  repeat'
    first
    | with_reducible assumption | (intro) | with_reducible apply State.imageData_memWf | with_reducible apply State.scalarAnswer_memWf
    | with_reducible apply State.opAnswer_memWf | with_reducible apply State.tdmAnswer_memWf | with_reducible apply State.ckEnd_memWf
    | with_reducible apply State.ckAdvance_memWf | with_reducible apply State.cmdAnswer_memWf | with_reducible apply State.emit_memWf
    | with_reducible apply State.memWf_ite | with_reducible apply State.memWf_foldl | with_reducible apply State.wf_mem
    | with_reducible apply State.wf_hostMem | split

theorem State.remNext_memWf {s} (hs : State.memWf s = true) :
    (State.remNext s).memWf = true := by
  unfold State.remNext
  try dsimp only
  repeat'
    first
    | with_reducible assumption | (intro) | with_reducible apply State.request_memWf | with_reducible apply State.memWf_ite
    | with_reducible apply State.memWf_foldl | with_reducible apply State.wf_mem | with_reducible apply State.wf_hostMem
    | (simp only [State.mk_memWf, Bool.and_eq_true]; apply And.intro) | split

theorem State.remEnd_memWf {s tag r status data} (hs : State.memWf s = true) :
    (State.remEnd s tag r status data).memWf = true := by
  unfold State.remEnd
  try dsimp only
  repeat'
    first
    | with_reducible assumption | (intro) | with_reducible apply State.answer_memWf | with_reducible apply State.remNext_memWf
    | with_reducible apply State.memWf_ite | with_reducible apply State.memWf_foldl | with_reducible apply State.wf_mem
    | with_reducible apply State.wf_hostMem | (simp only [State.mk_memWf, Bool.and_eq_true]; apply And.intro)

theorem State.rxDrop_memWf {s i} (hs : State.memWf s = true) :
    (State.rxDrop s i).memWf = true := by
  unfold State.rxDrop
  try dsimp only
  repeat'
    first
    | with_reducible assumption | (intro) | with_reducible apply State.memWf_ite | with_reducible apply State.memWf_foldl
    | with_reducible apply State.wf_mem | with_reducible apply State.wf_hostMem
    | (simp only [State.mk_memWf, Bool.and_eq_true]; apply And.intro)

theorem execRemoteMemoryResponse_memWf {i s} (hs : State.memWf s = true) :
    Out3.memWf (execRemoteMemoryResponse i s) := by
  unfold execRemoteMemoryResponse
  try dsimp only
  repeat'
    first
    | with_reducible assumption | with_reducible apply ok_memWf | (intro) | with_reducible apply State.settle_memWf
    | with_reducible apply State.remEnd_memWf | with_reducible apply State.rxDrop_memWf | with_reducible apply State.memWf_ite
    | with_reducible apply State.memWf_foldl | with_reducible apply State.wf_mem | with_reducible apply State.wf_hostMem | split

theorem State.performMem_memWf {s h_ data poison} (hs : State.memWf s = true) :
    (State.performMem s h_ data poison).1.memWf = true := by
  unfold State.performMem
  try dsimp only
  repeat'
    first
    | with_reducible assumption | (intro) | with_reducible apply State.writeBytes_memWf | with_reducible apply State.setPoison_memWf
    | with_reducible apply State.writeNat_memWf | with_reducible apply State.memWf_ite | with_reducible apply State.memWf_foldl
    | with_reducible apply State.wf_mem | with_reducible apply State.wf_hostMem | split

theorem State.reachMem_memWf {s h_} (hs : State.memWf s = true) :
    (State.reachMem s h_).memWf = true := by
  unfold State.reachMem
  try dsimp only
  repeat'
    first
    | with_reducible assumption | (intro) | with_reducible apply State.wakeFor_memWf | with_reducible apply State.tookBytes_memWf
    | with_reducible apply State.memWf_ite

theorem State.respondMem_memWf {s src h_ status data} (hs : State.memWf s = true) :
    (State.respondMem s src h_ status data).memWf = true := by
  unfold State.respondMem
  try dsimp only
  repeat'
    first
    | with_reducible assumption | (intro) | with_reducible apply State.sendPkt_memWf | with_reducible apply State.memWf_ite

theorem State.serveMem_memWf {s src h_ data poison} (hs : State.memWf s = true) :
    ∀ w, State.serveMem s src h_ data poison = some w → w.memWf = true := by
  intro w hw
  unfold State.serveMem at hw
  try dsimp only at hw
  repeat' split at hw
  all_goals try first
    | (rw [← Option.some.inj hw]) | (simp only [reduceCtorEq] at hw)
  all_goals repeat'
      first
      | with_reducible assumption | (intro) | with_reducible apply State.respondMem_memWf | with_reducible apply State.count_memWf
      | with_reducible apply State.performMem_memWf | with_reducible apply State.reachMem_memWf

theorem execRemoteMemoryRequest_memWf {i s} (hs : State.memWf s = true) : Out3.memWf (execRemoteMemoryRequest i s) := by
  refine ok_memWf ?_
  split
  · split
    · exact State.memWf_ite hs (State.memWf_getD (State.serveMem_memWf (State.rxDrop_memWf hs)) hs)
    · exact hs
  · exact hs

theorem State.forwardOn_memWf {s k pkt d o} (hs : State.memWf s = true) :
    (State.forwardOn s k pkt d o).memWf = true := by
  unfold State.forwardOn
  try dsimp only
  repeat' first | with_reducible assumption | (intro) | with_reducible apply State.onPort_memWf

theorem State.forwardMcast_memWf {s k hdr pl b src} (hs : State.memWf s = true) :
    (State.forwardMcast s k hdr pl b src).memWf = true := by
  unfold State.forwardMcast
  try dsimp only
  repeat'
    first
    | with_reducible assumption | (intro) | with_reducible apply State.forwardOn_memWf | with_reducible apply State.memWf_ite
    | with_reducible apply State.memWf_foldl | with_reducible apply State.wf_mem | with_reducible apply State.wf_hostMem | split

theorem execPacketForward_memWf {i s} (hs : State.memWf s = true) :
    Out3.memWf (execPacketForward i s) := by
  unfold execPacketForward
  try dsimp only
  repeat'
    first
    | with_reducible assumption | with_reducible apply ok_memWf | (intro) | with_reducible apply State.forwardMcast_memWf
    | with_reducible apply State.rxDrop_memWf | with_reducible apply State.forwardOn_memWf | with_reducible apply State.memWf_ite
    | with_reducible apply State.memWf_foldl | with_reducible apply State.wf_mem | with_reducible apply State.wf_hostMem | split

end Sys2Proof.Machine
end

