-- ==== Sys2Proof/Laws/MemWfFail.lean ====
section
/-! SUPPORT. What every function leaves of the canonical form of both memories: failures and resets. -/
namespace Sys2Proof.Machine

/-! ### Flt.lean -/

theorem State.dropTo_memWf {s x} (hs : State.memWf s = true) :
    (State.dropTo s x).memWf = true := by
  unfold State.dropTo
  try dsimp only
  repeat'
    first
    | with_reducible assumption | (intro) | with_reducible apply State.memWf_ite | with_reducible apply State.memWf_foldl
    | with_reducible apply State.wf_mem | with_reducible apply State.wf_hostMem
    | (simp only [State.mk_memWf, Bool.and_eq_true]; apply And.intro)

theorem State.fencesShown_memWf {s} (hs : State.memWf s = true) :
    (State.fencesShown s).memWf = true := by
  unfold State.fencesShown
  try dsimp only
  repeat' first | with_reducible assumption | (intro) | with_reducible apply State.wr_memWf

theorem State.startFence_memWf {s x after} (hs : State.memWf s = true) :
    (State.startFence s x after).memWf = true := by
  unfold State.startFence
  try dsimp only
  repeat'
    first
    | with_reducible assumption | (intro) | with_reducible apply State.dropTo_memWf | with_reducible apply State.fencesShown_memWf
    | with_reducible apply State.memWf_ite | with_reducible apply State.memWf_foldl | with_reducible apply State.wf_mem
    | with_reducible apply State.wf_hostMem | (simp only [State.mk_memWf, Bool.and_eq_true]; apply And.intro)

theorem State.movePackets_memWf {s p} (hs : State.memWf s = true) :
    (State.movePackets s p).memWf = true := by
  unfold State.movePackets
  try dsimp only
  repeat'
    first
    | with_reducible assumption | (intro) | with_reducible apply State.onPort_memWf | with_reducible apply State.memWf_ite
    | with_reducible apply State.memWf_foldl | with_reducible apply State.wf_mem | with_reducible apply State.wf_hostMem | split

theorem State.parentNow_memWf {s} (hs : State.memWf s = true) :
    (State.parentNow s).memWf = true := by
  unfold State.parentNow
  try dsimp only
  repeat'
    first
    | with_reducible assumption | (intro) | with_reducible apply State.wr_memWf | with_reducible apply State.memWf_ite

theorem State.rerouteFrom_memWf {s p pairs} (hs : State.memWf s = true) :
    (State.rerouteFrom s p pairs).memWf = true := by
  unfold State.rerouteFrom
  try dsimp only
  repeat'
    first
    | with_reducible assumption | (intro) | with_reducible apply State.parentNow_memWf | with_reducible apply State.wr_memWf
    | with_reducible apply State.startFence_memWf | with_reducible apply State.memWf_ite | with_reducible apply State.memWf_foldl
    | with_reducible apply State.wf_mem | with_reducible apply State.wf_hostMem | split

theorem State.portLost_memWf {s p after} (hs : State.memWf s = true) :
    (State.portLost s p after).memWf = true := by
  unfold State.portLost
  try dsimp only
  repeat'
    first
    | with_reducible assumption | (intro) | with_reducible apply State.startFence_memWf | with_reducible apply State.rerouteFrom_memWf
    | with_reducible apply State.movePackets_memWf

theorem State.appendLanded_memWf {s t q} (hs : State.memWf s = true) :
    (State.appendLanded s t q).memWf = true := by
  unfold State.appendLanded
  try dsimp only
  repeat'
    first
    | with_reducible assumption | (intro) | with_reducible apply State.append_memWf | with_reducible apply State.memWf_ite
    | with_reducible apply State.memWf_foldl

theorem State.queueEpoch_memWf {s t q} (hs : State.memWf s = true) :
    (State.queueEpoch s t q).memWf = true := by
  unfold State.queueEpoch
  try dsimp only
  repeat' first | with_reducible assumption | (intro) | with_reducible apply State.wr_memWf

theorem State.endSource_memWf {s t q src} (hs : State.memWf s = true) :
    (State.endSource s t q src).memWf = true := by
  unfold State.endSource
  try dsimp only
  repeat'
    first
    | with_reducible assumption | (intro) | with_reducible apply State.place_memWf | with_reducible apply State.quagFormed_memWf
    | with_reducible apply State.append_memWf | with_reducible apply State.qCheck_memWf | with_reducible apply State.queueEpoch_memWf
    | with_reducible apply State.onQueue_memWf | with_reducible apply State.memWf_ite | with_reducible apply State.memWf_foldl
    | with_reducible apply State.wf_mem | with_reducible apply State.wf_hostMem | split

theorem State.endRequest_memWf {s t q r} (hs : State.memWf s = true) :
    (State.endRequest s t q r).memWf = true := by
  unfold State.endRequest
  try dsimp only
  repeat'
    first
    | with_reducible assumption | (intro) | with_reducible apply State.queueEpoch_memWf | with_reducible apply State.place_memWf
    | with_reducible apply State.quagFormed_memWf | with_reducible apply State.memWf_ite | with_reducible apply State.memWf_foldl
    | with_reducible apply State.wf_mem | with_reducible apply State.wf_hostMem | split

theorem State.fenceQuags_memWf {s x} (hs : State.memWf s = true) :
    (State.fenceQuags s x).memWf = true := by
  unfold State.fenceQuags
  try dsimp only
  repeat'
    first
    | with_reducible assumption | (intro) | with_reducible apply State.appendLanded_memWf | with_reducible apply State.endSource_memWf
    | with_reducible apply State.endRequest_memWf | with_reducible apply State.recvRun_memWf | with_reducible apply State.memWf_ite
    | with_reducible apply State.memWf_foldl

theorem State.forget_memWf {s x} (hs : State.memWf s = true) :
    (State.forget s x).memWf = true := by
  unfold State.forget
  try dsimp only
  repeat'
    first
    | with_reducible assumption | (intro) | with_reducible apply State.memWf_ite | with_reducible apply State.memWf_foldl
    | with_reducible apply State.wf_mem | with_reducible apply State.wf_hostMem
    | (simp only [State.mk_memWf, Bool.and_eq_true]; apply And.intro)

theorem State.fenceAborts_memWf {s x} (hs : State.memWf s = true) :
    (State.fenceAborts s x).memWf = true := by
  unfold State.fenceAborts
  try dsimp only
  repeat'
    first
    | with_reducible assumption | (intro) | with_reducible apply State.forget_memWf | with_reducible apply State.answer_memWf
    | with_reducible apply State.remEnd_memWf | with_reducible apply State.memWf_ite | with_reducible apply State.memWf_foldl
    | with_reducible apply State.wf_mem | with_reducible apply State.wf_hostMem
    | (simp only [State.mk_memWf, Bool.and_eq_true]; apply And.intro) | split

theorem State.homesLost_memWf {s x} (hs : State.memWf s = true) :
    (State.homesLost s x).memWf = true := by
  unfold State.homesLost
  try dsimp only
  repeat'
    first
    | with_reducible assumption | (intro) | with_reducible apply State.wrs_memWf | with_reducible apply State.dropTo_memWf
    | with_reducible apply State.groupReturn_memWf | with_reducible apply State.memWf_ite | with_reducible apply State.memWf_foldl

theorem State.markGone_memWf {s x} (hs : State.memWf s = true) :
    (State.markGone s x).memWf = true := by
  unfold State.markGone
  try dsimp only
  repeat'
    first
    | with_reducible assumption | (intro) | with_reducible apply State.memWf_ite | with_reducible apply State.memWf_foldl
    | with_reducible apply State.wf_mem | with_reducible apply State.wf_hostMem
    | (simp only [State.mk_memWf, Bool.and_eq_true]; apply And.intro) | split

theorem State.slotReclaim_memWf {s x n} (hs : State.memWf s = true) :
    (State.slotReclaim s x n).memWf = true := by
  unfold State.slotReclaim
  try dsimp only
  repeat'
    first
    | with_reducible assumption | (intro) | with_reducible apply State.onSlot_memWf | with_reducible apply State.slotJoin_memWf
    | with_reducible apply State.groupFail_memWf | with_reducible apply State.memWf_ite | with_reducible apply State.memWf_foldl
    | with_reducible apply State.wf_mem | with_reducible apply State.wf_hostMem | split

theorem State.slotsReclaim_memWf {s x} (hs : State.memWf s = true) :
    (State.slotsReclaim s x).memWf = true := by
  unfold State.slotsReclaim
  try dsimp only
  repeat'
    first
    | with_reducible assumption | (intro) | with_reducible apply State.slotReclaim_memWf | with_reducible apply State.markGone_memWf
    | with_reducible apply State.memWf_ite | with_reducible apply State.memWf_foldl

theorem State.seqLost_memWf {s t n home} (hs : State.memWf s = true) :
    (State.seqLost s t n home).memWf = true := by
  unfold State.seqLost
  try dsimp only
  repeat'
    first
    | with_reducible assumption | (intro) | with_reducible apply State.seqSet_memWf | with_reducible apply State.memWf_ite
    | with_reducible apply State.memWf_foldl | with_reducible apply State.wf_mem | with_reducible apply State.wf_hostMem | split

theorem State.kvTileLost_memWf {s t} (hs : State.memWf s = true) :
    (State.kvTileLost s t).memWf = true := by
  unfold State.kvTileLost
  try dsimp only
  repeat'
    first
    | with_reducible assumption | (intro) | with_reducible apply State.seqLost_memWf | with_reducible apply State.writeNat_memWf
    | with_reducible apply State.memWf_ite | with_reducible apply State.memWf_foldl | with_reducible apply State.wf_mem
    | with_reducible apply State.wf_hostMem | split

theorem State.kvFnLost_memWf {s f} (hs : State.memWf s = true) :
    (State.kvFnLost s f).memWf = true := by
  unfold State.kvFnLost
  try dsimp only
  repeat'
    first
    | with_reducible assumption | (intro) | with_reducible apply State.seqLost_memWf | with_reducible apply State.memWf_ite
    | with_reducible apply State.memWf_foldl

theorem State.kvReclaim_memWf {s x after} (hs : State.memWf s = true) :
    (State.kvReclaim s x after).memWf = true := by
  unfold State.kvReclaim
  try dsimp only
  repeat'
    first
    | with_reducible assumption | (intro) | with_reducible apply State.kvTileLost_memWf | with_reducible apply State.kvFnLost_memWf
    | with_reducible apply State.memWf_ite | with_reducible apply State.memWf_foldl | with_reducible apply State.wf_mem
    | with_reducible apply State.wf_hostMem | split

theorem State.lockReclaim_memWf {s x} (hs : State.memWf s = true) :
    (State.lockReclaim s x).memWf = true := by
  unfold State.lockReclaim
  try dsimp only
  repeat'
    first
    | with_reducible assumption | (intro) | with_reducible apply State.count_memWf | with_reducible apply State.writeNat_memWf
    | with_reducible apply State.memWf_ite | with_reducible apply State.memWf_foldl

theorem State.sfuEmpty_memWf {s t n} (hs : State.memWf s = true) :
    (State.sfuEmpty s t n).memWf = true := by
  unfold State.sfuEmpty
  try dsimp only
  repeat'
    first
    | with_reducible assumption | (intro) | with_reducible apply State.wrs_memWf | with_reducible apply State.memWf_ite

theorem State.sfuEmptyAll_memWf {s t} (hs : State.memWf s = true) :
    (State.sfuEmptyAll s t).memWf = true := by
  unfold State.sfuEmptyAll
  try dsimp only
  repeat'
    first
    | with_reducible assumption | (intro) | with_reducible apply State.sfuEmpty_memWf | with_reducible apply State.memWf_ite
    | with_reducible apply State.memWf_foldl

theorem State.sfuReclaim_memWf {s x} (hs : State.memWf s = true) :
    (State.sfuReclaim s x).memWf = true := by
  unfold State.sfuReclaim
  try dsimp only
  repeat'
    first
    | with_reducible assumption | (intro) | with_reducible apply State.sfuEmptyAll_memWf | with_reducible apply State.memWf_ite
    | with_reducible apply State.memWf_foldl | with_reducible apply State.wf_mem | with_reducible apply State.wf_hostMem | split

theorem State.sentReclaim_memWf {s x} (hs : State.memWf s = true) :
    (State.sentReclaim s x).memWf = true := by
  unfold State.sentReclaim
  try dsimp only
  repeat'
    first
    | with_reducible assumption | (intro) | with_reducible apply State.onLep_memWf | with_reducible apply State.memWf_ite
    | with_reducible apply State.memWf_foldl | with_reducible apply State.wf_mem | with_reducible apply State.wf_hostMem
    | (simp only [State.mk_memWf, Bool.and_eq_true]; apply And.intro)

theorem State.recover_memWf {s x after} (hs : State.memWf s = true) :
    (State.recover s x after).memWf = true := by
  unfold State.recover
  try dsimp only
  repeat'
    first
    | with_reducible assumption | (intro) | with_reducible apply State.sentReclaim_memWf | with_reducible apply State.sfuReclaim_memWf
    | with_reducible apply State.lockReclaim_memWf | with_reducible apply State.kvReclaim_memWf
    | with_reducible apply State.slotsReclaim_memWf | with_reducible apply State.homesLost_memWf
    | with_reducible apply State.fenceAborts_memWf | with_reducible apply State.fenceQuags_memWf

theorem State.powerDown_memWf {s u} (hs : State.memWf s = true) :
    (State.powerDown s u).memWf = true := by
  unfold State.powerDown
  try dsimp only
  repeat'
    first
    | with_reducible assumption | (intro) | with_reducible apply State.tileUsr_memWf | with_reducible apply State.tileOff_memWf
    | with_reducible apply State.wrs_memWf | with_reducible apply State.stopSeen_memWf | with_reducible apply State.usrState_memWf
    | with_reducible apply State.stackOff_memWf | with_reducible apply State.onPort_memWf | with_reducible apply State.wr_memWf
    | with_reducible apply State.memWf_ite

theorem State.ckDropped_memWf {s t} (hs : State.memWf s = true) :
    (State.ckDropped s t).memWf = true := by
  unfold State.ckDropped
  try dsimp only
  repeat'
    first
    | with_reducible assumption | (intro) | with_reducible apply State.blockTo_memWf | with_reducible apply State.memWf_ite
    | with_reducible apply State.memWf_foldl | with_reducible apply State.wf_mem | with_reducible apply State.wf_hostMem | split

theorem State.resetDone_memWf {s0 t} (hs0 : State.memWf s0 = true) :
    (State.resetDone s0 t).memWf = true := by
  unfold State.resetDone
  try dsimp only
  repeat'
    first
    | with_reducible assumption | (intro) | with_reducible apply State.ckDropped_memWf | with_reducible apply State.wrs_memWf
    | with_reducible apply State.tileFresh_memWf | with_reducible apply State.ckFeed_memWf | with_reducible apply State.underStop_memWf
    | with_reducible apply State.tileUsr_memWf | with_reducible apply State.memWf_ite

theorem State.fenceEnd_memWf {s i} (hs : State.memWf s = true) :
    (State.fenceEnd s i).memWf = true := by
  unfold State.fenceEnd
  try dsimp only
  repeat'
    first
    | with_reducible assumption | (intro) | with_reducible apply State.fencesShown_memWf | with_reducible apply State.rerouteFrom_memWf
    | with_reducible apply State.movePackets_memWf | with_reducible apply State.recover_memWf | with_reducible apply State.settle_memWf
    | with_reducible apply State.powerDown_memWf | with_reducible apply State.resetDone_memWf | with_reducible apply State.memWf_ite
    | with_reducible apply State.memWf_foldl | with_reducible apply State.wf_mem | with_reducible apply State.wf_hostMem
    | (simp only [State.mk_memWf, Bool.and_eq_true]; apply And.intro) | split

theorem State.fencePart_memWf {s i rank} (hs : State.memWf s = true) :
    (State.fencePart s i rank).memWf = true := by
  unfold State.fencePart
  try dsimp only
  repeat'
    first
    | with_reducible assumption | (intro) | with_reducible apply State.memWf_ite | with_reducible apply State.memWf_foldl
    | with_reducible apply State.wf_mem | with_reducible apply State.wf_hostMem
    | (simp only [State.mk_memWf, Bool.and_eq_true]; apply And.intro)

theorem execDrainFenceComplete_memWf {i s} (hs : State.memWf s = true) :
    Out3.memWf (execDrainFenceComplete i s) := by
  unfold execDrainFenceComplete
  try dsimp only
  repeat'
    first
    | with_reducible assumption | with_reducible apply ok_memWf | (intro) | with_reducible apply State.fenceEnd_memWf
    | with_reducible apply State.fencePart_memWf | with_reducible apply State.tellMembers_memWf | with_reducible apply State.memWf_ite
    | with_reducible apply State.memWf_foldl | with_reducible apply State.wf_mem | with_reducible apply State.wf_hostMem | split

theorem execFenceCompleteReport_memWf {rank i s} (hs : State.memWf s = true) :
    Out3.memWf (execFenceCompleteReport rank i s) := by
  unfold execFenceCompleteReport
  try dsimp only
  repeat'
    first
    | with_reducible assumption | with_reducible apply ok_memWf | (intro) | with_reducible apply State.fencePart_memWf
    | with_reducible apply State.fenceEnd_memWf | with_reducible apply State.memWf_ite | with_reducible apply State.memWf_foldl
    | with_reducible apply State.wf_mem | with_reducible apply State.wf_hostMem | split

/-! ### Fail.lean -/

theorem State.ppsRole_memWf {s} (hs : State.memWf s = true) :
    (State.ppsRole s).memWf = true := by
  unfold State.ppsRole
  try dsimp only
  repeat'
    first
    | with_reducible assumption | (intro) | with_reducible apply State.wr_memWf | with_reducible apply State.memWf_ite
    | with_reducible apply State.memWf_foldl | with_reducible apply State.wf_mem | with_reducible apply State.wf_hostMem
    | (simp only [State.mk_memWf, Bool.and_eq_true]; apply And.intro)

theorem State.ppsGate_memWf {s} (hs : State.memWf s = true) :
    (State.ppsGate s).memWf = true := by
  unfold State.ppsGate
  try dsimp only
  repeat'
    first
    | with_reducible assumption | (intro) | with_reducible apply State.memWf_ite | with_reducible apply State.memWf_foldl
    | with_reducible apply State.wf_mem | with_reducible apply State.wf_hostMem
    | (simp only [State.mk_memWf, Bool.and_eq_true]; apply And.intro)

theorem State.servoFresh_memWf {s} (hs : State.memWf s = true) :
    (State.servoFresh s).memWf = true := by
  unfold State.servoFresh
  try dsimp only
  repeat'
    first
    | with_reducible assumption | (intro) | with_reducible apply State.memWf_ite | with_reducible apply State.memWf_foldl
    | with_reducible apply State.wf_mem | with_reducible apply State.wf_hostMem
    | (simp only [State.mk_memWf, Bool.and_eq_true]; apply And.intro)

theorem State.ownMaster_memWf {s} (hs : State.memWf s = true) :
    (State.ownMaster s).memWf = true := by
  unfold State.ownMaster
  try dsimp only
  repeat'
    first
    | with_reducible assumption | (intro) | with_reducible apply State.wrs_memWf | with_reducible apply State.ppsRole_memWf
    | with_reducible apply State.servoFresh_memWf

theorem State.setMaster_memWf {s m} (hs : State.memWf s = true) :
    (State.setMaster s m).memWf = true := by
  unfold State.setMaster
  try dsimp only
  repeat'
    first
    | with_reducible assumption | (intro) | with_reducible apply State.wr_memWf | with_reducible apply State.ownMaster_memWf
    | with_reducible apply State.ppsGate_memWf | with_reducible apply State.ppsRole_memWf | with_reducible apply State.servoFresh_memWf
    | with_reducible apply State.wrs_memWf | with_reducible apply State.memWf_ite

theorem State.unitEvent_memWf {s u} (hs : State.memWf s = true) :
    (State.unitEvent s u).memWf = true := by
  unfold State.unitEvent
  try dsimp only
  repeat'
    first
    | with_reducible assumption | (intro) | with_reducible apply State.emit_memWf | with_reducible apply State.memWf_ite
    | with_reducible apply State.memWf_foldl | with_reducible apply State.wf_mem | with_reducible apply State.wf_hostMem
    | (simp only [State.mk_memWf, Bool.and_eq_true]; apply And.intro) | split

theorem State.notify_memWf {s u owner} (hs : State.memWf s = true) :
    (State.notify s u owner).memWf = true := by
  unfold State.notify
  try dsimp only
  repeat'
    first
    | with_reducible assumption | (intro) | with_reducible apply State.tellMembers_memWf | with_reducible apply State.unitEvent_memWf
    | with_reducible apply State.event_memWf

theorem State.killJobs_memWf {s t} (hs : State.memWf s = true) :
    (State.killJobs s t).memWf = true := by
  unfold State.killJobs
  try dsimp only
  repeat'
    first
    | with_reducible assumption | (intro) | with_reducible apply State.jobEnd_memWf | with_reducible apply State.onTile_memWf
    | with_reducible apply State.launchPart_memWf | with_reducible apply State.memWf_ite | with_reducible apply State.memWf_foldl

theorem State.stopUnit_memWf {s u after} (hs : State.memWf s = true) :
    (State.stopUnit s u after).memWf = true := by
  unfold State.stopUnit
  try dsimp only
  repeat'
    first
    | with_reducible assumption | (intro) | with_reducible apply State.startFence_memWf | with_reducible apply State.killJobs_memWf
    | with_reducible apply State.haltTile_memWf | with_reducible apply State.portLost_memWf | with_reducible apply State.memWf_ite

theorem State.markFailed_memWf {s u} (hs : State.memWf s = true) :
    (State.markFailed s u).memWf = true := by
  unfold State.markFailed
  try dsimp only
  repeat'
    first
    | with_reducible assumption | (intro) | with_reducible apply State.tileUsr_memWf | with_reducible apply State.usrState_memWf
    | with_reducible apply State.wr_memWf | with_reducible apply State.memWf_ite | with_reducible apply State.memWf_foldl
    | with_reducible apply State.wf_mem | with_reducible apply State.wf_hostMem
    | (simp only [State.mk_memWf, Bool.and_eq_true]; apply And.intro)

theorem State.failRest_memWf {s u owner} (hs : State.memWf s = true) :
    (State.failRest s u owner).memWf = true := by
  unfold State.failRest
  try dsimp only
  repeat'
    first
    | with_reducible assumption | (intro) | with_reducible apply State.stopUnit_memWf | with_reducible apply State.notify_memWf

theorem State.declareUnit_memWf {s code u info} (hs : State.memWf s = true) :
    (State.declareUnit s code u info).memWf = true := by
  unfold State.declareUnit
  try dsimp only
  repeat'
    first
    | with_reducible assumption | (intro) | with_reducible apply State.failRest_memWf | with_reducible apply State.logEvent_memWf
    | with_reducible apply State.count_memWf | with_reducible apply State.markFailed_memWf | with_reducible apply State.memWf_ite

theorem State.declareDevice_memWf {s code u} (hs : State.memWf s = true) :
    (State.declareDevice s code u).memWf = true := by
  unfold State.declareDevice
  try dsimp only
  repeat'
    first
    | with_reducible assumption | (intro) | with_reducible apply State.markFailed_memWf | with_reducible apply State.tellMembers_memWf
    | with_reducible apply State.logEvent_memWf | with_reducible apply State.count_memWf | with_reducible apply State.allOff_memWf
    | with_reducible apply State.failRest_memWf | with_reducible apply State.memWf_ite | with_reducible apply State.memWf_foldl

theorem State.declareRank_memWf {s code d} (hs : State.memWf s = true) :
    (State.declareRank s code d).memWf = true := by
  unfold State.declareRank
  try dsimp only
  repeat'
    first
    | with_reducible assumption | (intro) | with_reducible apply State.count_memWf | with_reducible apply State.wr_memWf
    | with_reducible apply State.event_memWf | with_reducible apply State.logRec_memWf | with_reducible apply State.tellMembers_memWf
    | with_reducible apply State.setMaster_memWf | with_reducible apply State.startFence_memWf | with_reducible apply State.memWf_ite
    | with_reducible apply State.memWf_foldl | with_reducible apply State.wf_mem | with_reducible apply State.wf_hostMem
    | (simp only [State.mk_memWf, Bool.and_eq_true]; apply And.intro)

theorem State.forceMessages_memWf {s t} (hs : State.memWf s = true) :
    (State.forceMessages s t).memWf = true := by
  unfold State.forceMessages
  try dsimp only
  repeat'
    first
    | with_reducible assumption | (intro) | with_reducible apply State.arrive_memWf | with_reducible apply State.writeSlot_memWf
    | with_reducible apply State.onQueue_memWf | with_reducible apply State.quagFormed_memWf | with_reducible apply State.memWf_ite
    | with_reducible apply State.memWf_foldl | with_reducible apply State.wf_mem | with_reducible apply State.wf_hostMem
    | (simp only [State.mk_memWf, Bool.and_eq_true]; apply And.intro) | split

theorem State.forceUnit_memWf {s u} (hs : State.memWf s = true) :
    (State.forceUnit s u).memWf = true := by
  unfold State.forceUnit
  try dsimp only
  repeat'
    first
    | with_reducible assumption | (intro) | with_reducible apply State.count_memWf | with_reducible apply State.wr_memWf
    | with_reducible apply State.usrState_memWf | with_reducible apply State.logEvent_memWf | with_reducible apply State.forceMessages_memWf
    | with_reducible apply State.onTile_memWf | with_reducible apply State.sfuEmptyAll_memWf | with_reducible apply State.stopUnit_memWf
    | with_reducible apply State.notify_memWf | with_reducible apply State.memWf_ite | with_reducible apply State.memWf_foldl
    | with_reducible apply State.wf_mem | with_reducible apply State.wf_hostMem
    | (simp only [State.mk_memWf, Bool.and_eq_true]; apply And.intro)

theorem State.fenStopAll_memWf {s unit} (hs : State.memWf s = true) :
    (State.fenStopAll s unit).memWf = true := by
  unfold State.fenStopAll
  try dsimp only
  repeat'
    first
    | with_reducible assumption | (intro) | with_reducible apply State.tellMembers_memWf | with_reducible apply State.fenStop_memWf

theorem State.faultEvent_memWf {s code u info} (hs : State.memWf s = true) :
    (State.faultEvent s code u info).memWf = true := by
  unfold State.faultEvent
  try dsimp only
  repeat'
    first
    | with_reducible assumption | (intro) | with_reducible apply State.opEvent_memWf | with_reducible apply State.declareUnit_memWf
    | with_reducible apply State.forceUnit_memWf | with_reducible apply State.declareDevice_memWf
    | with_reducible apply State.declareRank_memWf | with_reducible apply State.fenStopAll_memWf | with_reducible apply State.fenStop_memWf
    | with_reducible apply State.memWf_ite

theorem execUnitFailDeclare_memWf {code unit s} (hs : State.memWf s = true) :
    Out3.memWf (execUnitFailDeclare code unit s) := by
  unfold execUnitFailDeclare
  try dsimp only
  repeat'
    first
    | with_reducible assumption | with_reducible apply ok_memWf | (intro) | with_reducible apply State.settle_memWf
    | with_reducible apply State.faultEvent_memWf | with_reducible apply State.memWf_ite | with_reducible apply State.memWf_foldl
    | with_reducible apply State.wf_mem | with_reducible apply State.wf_hostMem
    | (simp only [State.mk_memWf, Bool.and_eq_true]; apply And.intro) | split

theorem execFltInject_memWf {code unit s} (hs : State.memWf s = true) :
    Out3.memWf (execFltInject code unit s) := by
  unfold execFltInject
  try dsimp only
  repeat'
    first
    | with_reducible assumption | with_reducible apply ok_memWf | (intro) | with_reducible apply State.settle_memWf
    | with_reducible apply State.faultEvent_memWf | with_reducible apply State.memWf_ite

theorem execFailureNoticeReceive_memWf {rank n s} (hs : State.memWf s = true) :
    Out3.memWf (execFailureNoticeReceive rank n s) := by
  unfold execFailureNoticeReceive
  try dsimp only
  repeat'
    first
    | with_reducible assumption | with_reducible apply ok_memWf | (intro) | with_reducible apply State.declareRank_memWf
    | with_reducible apply State.startFence_memWf | with_reducible apply State.memWf_ite | with_reducible apply State.memWf_foldl
    | with_reducible apply State.wf_mem | with_reducible apply State.wf_hostMem | split

theorem execHeartbeatSend_memWf {s} (hs : State.memWf s = true) :
    Out3.memWf (execHeartbeatSend s) := by
  unfold execHeartbeatSend
  try dsimp only
  repeat'
    first
    | with_reducible assumption | with_reducible apply ok_memWf | (intro) | with_reducible apply State.tellMembers_memWf
    | with_reducible apply State.memWf_ite | with_reducible apply State.memWf_foldl | with_reducible apply State.wf_mem
    | with_reducible apply State.wf_hostMem | (simp only [State.mk_memWf, Bool.and_eq_true]; apply And.intro)

theorem execHeartbeatReceive_memWf {rank s} (hs : State.memWf s = true) :
    Out3.memWf (execHeartbeatReceive rank s) := by
  unfold execHeartbeatReceive
  try dsimp only
  repeat'
    first
    | with_reducible assumption | with_reducible apply ok_memWf | (intro) | with_reducible apply State.memWf_ite
    | with_reducible apply State.memWf_foldl | with_reducible apply State.wf_mem | with_reducible apply State.wf_hostMem
    | (simp only [State.mk_memWf, Bool.and_eq_true]; apply And.intro)

theorem execHeartbeatMiss_memWf {rank s} (hs : State.memWf s = true) :
    Out3.memWf (execHeartbeatMiss rank s) := by
  unfold execHeartbeatMiss
  try dsimp only
  repeat'
    first
    | with_reducible assumption | with_reducible apply ok_memWf | (intro) | with_reducible apply State.settle_memWf
    | with_reducible apply State.declareRank_memWf | with_reducible apply State.memWf_ite

theorem execFenStopNotice_memWf {rank s} (hs : State.memWf s = true) :
    Out3.memWf (execFenStopNotice rank s) := by
  unfold execFenStopNotice
  try dsimp only
  repeat'
    first
    | with_reducible assumption | with_reducible apply ok_memWf | (intro) | with_reducible apply State.settle_memWf
    | with_reducible apply State.fenStop_memWf | with_reducible apply State.memWf_ite

theorem execFenstopClr_memWf {s} (hs : State.memWf s = true) :
    Out3.memWf (execFenstopClr s) := by
  unfold execFenstopClr
  try dsimp only
  repeat' first | with_reducible assumption | with_reducible apply ok_memWf | (intro) | with_reducible apply State.wr_memWf

/-! ### Reset.lean -/

theorem State.dropLaunches_memWf {s t p} (hs : State.memWf s = true) :
    (State.dropLaunches s t p).memWf = true := by
  unfold State.dropLaunches
  try dsimp only
  repeat'
    first
    | with_reducible assumption | (intro) | with_reducible apply State.launchPart_memWf | with_reducible apply State.onTile_memWf
    | with_reducible apply State.memWf_ite | with_reducible apply State.memWf_foldl

theorem State.resetTile_memWf {s t} (hs : State.memWf s = true) :
    (State.resetTile s t).memWf = true := by
  unfold State.resetTile
  try dsimp only
  repeat'
    first
    | with_reducible assumption | (intro) | with_reducible apply State.wakeTile_memWf | with_reducible apply State.onTile_memWf
    | with_reducible apply State.dropLaunches_memWf | with_reducible apply State.memWf_ite

theorem State.resetFence_memWf {s t} (hs : State.memWf s = true) :
    (State.resetFence s t).memWf = true := by
  unfold State.resetFence
  try dsimp only
  repeat'
    first
    | with_reducible assumption | (intro) | with_reducible apply State.startFence_memWf | with_reducible apply State.tellMembers_memWf

theorem execTileReset_memWf {t s} (hs : State.memWf s = true) :
    Out3.memWf (execTileReset t s) := by
  unfold execTileReset
  try dsimp only
  repeat'
    first
    | with_reducible assumption | with_reducible apply ok_memWf | (intro) | with_reducible apply State.resetFence_memWf
    | with_reducible apply State.memWf_ite

theorem State.abandonOp_memWf {s t r} (hs : State.memWf s = true) :
    (State.abandonOp s t r).memWf = true := by
  unfold State.abandonOp
  try dsimp only
  repeat'
    first
    | with_reducible assumption | (intro) | with_reducible apply State.drawn_memWf | with_reducible apply State.writeBytes_memWf
    | with_reducible apply State.memWf_ite | with_reducible apply State.memWf_foldl

theorem State.abandonAll_memWf {s t} (hs : State.memWf s = true) :
    (State.abandonAll s t).memWf = true := by
  unfold State.abandonAll
  try dsimp only
  repeat'
    first
    | with_reducible assumption | (intro) | with_reducible apply State.abandonOp_memWf | with_reducible apply State.onTile_memWf
    | with_reducible apply State.sweep_memWf | with_reducible apply State.complete_memWf | with_reducible apply State.memWf_ite
    | with_reducible apply State.memWf_foldl | with_reducible apply State.wf_mem | with_reducible apply State.wf_hostMem | split

theorem execTileResetDrainTimeout_memWf {t s} (hs : State.memWf s = true) :
    Out3.memWf (execTileResetDrainTimeout t s) := by
  unfold execTileResetDrainTimeout
  try dsimp only
  repeat'
    first
    | with_reducible assumption | with_reducible apply ok_memWf | (intro) | with_reducible apply State.resetFence_memWf
    | with_reducible apply State.abandonAll_memWf | with_reducible apply State.memWf_ite

theorem execPowerEntryComplete_memWf {t s} (hs : State.memWf s = true) :
    Out3.memWf (execPowerEntryComplete t s) := by
  unfold execPowerEntryComplete
  try dsimp only
  repeat'
    first
    | with_reducible assumption | with_reducible apply ok_memWf | (intro) | with_reducible apply State.wrs_memWf
    | with_reducible apply State.stopSeen_memWf | with_reducible apply State.startFence_memWf | with_reducible apply State.tellMembers_memWf
    | with_reducible apply State.tileOff_memWf | with_reducible apply State.killJobs_memWf | with_reducible apply State.onTile_memWf
    | with_reducible apply State.sleepLoss_memWf | with_reducible apply State.wr_memWf | with_reducible apply State.memWf_ite

theorem execHbmTrainingComplete_memWf {k good s} (hs : State.memWf s = true) :
    Out3.memWf (execHbmTrainingComplete k good s) := by
  unfold execHbmTrainingComplete
  try dsimp only
  repeat'
    first
    | with_reducible assumption | with_reducible apply ok_memWf | (intro) | with_reducible apply State.stackUp_memWf
    | with_reducible apply State.usrState_memWf | with_reducible apply State.report_memWf | with_reducible apply State.memWf_ite

theorem State.endCmd_memWf {s f r c} (hs : State.memWf s = true) :
    (State.endCmd s f r c).memWf = true := by
  unfold State.endCmd
  try dsimp only
  repeat'
    first
    | with_reducible assumption | (intro) | with_reducible apply State.onCmd_memWf | with_reducible apply State.endMain_memWf
    | with_reducible apply State.dropLaunches_memWf | with_reducible apply State.onTile_memWf | with_reducible apply State.ckEnd_memWf
    | with_reducible apply State.complete_memWf | with_reducible apply State.memWf_ite | with_reducible apply State.memWf_foldl
    | with_reducible apply State.wf_mem | with_reducible apply State.wf_hostMem | split

theorem State.ringEnd_memWf {s f r} (hs : State.memWf s = true) :
    (State.ringEnd s f r).memWf = true := by
  unfold State.ringEnd
  try dsimp only
  repeat'
    first
    | with_reducible assumption | (intro) | with_reducible apply State.onRing_memWf | with_reducible apply State.wrs_memWf
    | with_reducible apply State.endCmd_memWf | with_reducible apply State.memWf_ite | with_reducible apply State.memWf_foldl

theorem execRingReset_memWf {fn r s} (hs : State.memWf s = true) :
    Out3.memWf (execRingReset fn r s) := by
  unfold execRingReset
  try dsimp only
  repeat'
    first
    | with_reducible assumption | with_reducible apply ok_memWf | (intro) | with_reducible apply State.settle_memWf
    | with_reducible apply State.sweep_memWf | with_reducible apply State.ringEnd_memWf | with_reducible apply State.memWf_ite

theorem State.fnEnd_memWf {s f} (hs : State.memWf s = true) :
    (State.fnEnd s f).memWf = true := by
  unfold State.fnEnd
  try dsimp only
  repeat'
    first
    | with_reducible assumption | (intro) | with_reducible apply State.onFn_memWf | with_reducible apply State.ringEnd_memWf
    | with_reducible apply State.memWf_ite | with_reducible apply State.memWf_foldl | with_reducible apply State.wf_mem
    | with_reducible apply State.wf_hostMem | (simp only [State.mk_memWf, Bool.and_eq_true]; apply And.intro)

theorem State.fnClear_memWf {s f keepPart} (hs : State.memWf s = true) :
    (State.fnClear s f keepPart).memWf = true := by
  unfold State.fnClear
  try dsimp only
  repeat'
    first
    | with_reducible assumption | (intro) | with_reducible apply State.clearBlk_memWf | with_reducible apply State.memWf_ite
    | with_reducible apply State.memWf_foldl | with_reducible apply State.wf_mem | with_reducible apply State.wf_hostMem
    | (simp only [State.mk_memWf, Bool.and_eq_true]; apply And.intro)

theorem State.fnLost_memWf {s f} (hs : State.memWf s = true) :
    (State.fnLost s f).memWf = true := by
  unfold State.fnLost
  try dsimp only
  repeat'
    first
    | with_reducible assumption | (intro) | with_reducible apply State.startFence_memWf | with_reducible apply State.tellMembers_memWf

theorem State.flr_memWf {s f} (hs : State.memWf s = true) :
    (State.flr s f).memWf = true := by
  unfold State.flr
  try dsimp only
  repeat'
    first
    | with_reducible assumption | (intro) | with_reducible apply State.fnEnd_memWf | with_reducible apply State.resetTile_memWf
    | with_reducible apply State.fnClear_memWf | with_reducible apply State.fnLost_memWf | with_reducible apply State.memWf_ite
    | with_reducible apply State.memWf_foldl

theorem execFunctionLevelReset_memWf {fn s} (hs : State.memWf s = true) :
    Out3.memWf (execFunctionLevelReset fn s) := by
  unfold execFunctionLevelReset
  try dsimp only
  repeat'
    first
    | with_reducible assumption | with_reducible apply ok_memWf | (intro) | with_reducible apply State.settle_memWf
    | with_reducible apply State.flr_memWf | with_reducible apply State.memWf_ite | with_reducible apply State.memWf_foldl

theorem State.warm_memWf {s} (hs : State.memWf s = true) :
    (State.warm s).memWf = true := by
  unfold State.warm
  try dsimp only
  repeat'
    first
    | with_reducible assumption | (intro) | with_reducible apply State.fnEnd_memWf | with_reducible apply State.resetTile_memWf
    | with_reducible apply State.fnLost_memWf | with_reducible apply State.ownersNow_memWf | with_reducible apply State.fnClear_memWf
    | with_reducible apply State.memWf_ite | with_reducible apply State.memWf_foldl

theorem execWarmReset_memWf {perst s} (hs : State.memWf s = true) :
    Out3.memWf (execWarmReset perst s) := by
  unfold execWarmReset
  try dsimp only
  repeat'
    first
    | with_reducible assumption | with_reducible apply ok_memWf | (intro) | with_reducible apply State.settle_memWf
    | with_reducible apply State.warm_memWf | with_reducible apply State.memWf_ite | with_reducible apply State.memWf_foldl
    | with_reducible apply State.wf_mem | with_reducible apply State.wf_hostMem
    | (simp only [State.mk_memWf, Bool.and_eq_true]; apply And.intro)

theorem execPerstLRelease_memWf {s} (hs : State.memWf s = true) :
    Out3.memWf (execPerstLRelease s) := by
  unfold execPerstLRelease
  try dsimp only
  repeat'
    first
    | with_reducible assumption | with_reducible apply ok_memWf | (intro) | with_reducible apply State.ungate_memWf
    | with_reducible apply State.memWf_ite | with_reducible apply State.memWf_foldl | with_reducible apply State.wf_mem
    | with_reducible apply State.wf_hostMem | (simp only [State.mk_memWf, Bool.and_eq_true]; apply And.intro)

theorem execColdReset_memWf {s} (hs : State.memWf s = true) :
    Out3.memWf (execColdReset s) := by
  unfold execColdReset
  try dsimp only
  repeat'
    first
    | with_reducible assumption | with_reducible apply ok_memWf | (intro) | with_reducible apply State.reset_memWf
    | with_reducible apply State.memWf_ite | with_reducible apply State.memWf_foldl | with_reducible apply State.wf_mem
    | with_reducible apply State.wf_hostMem | (simp only [State.mk_memWf, Bool.and_eq_true]; apply And.intro)

theorem execColdResetEnd_memWf {straps s} (hs : State.memWf s = true) :
    Out3.memWf (execColdResetEnd straps s) := by
  unfold execColdResetEnd
  try dsimp only
  repeat'
    first
    | with_reducible assumption | with_reducible apply ok_memWf | (intro) | with_reducible apply State.wr_memWf
    | with_reducible apply State.memWf_ite | with_reducible apply State.memWf_foldl | with_reducible apply State.wf_mem
    | with_reducible apply State.wf_hostMem | (simp only [State.mk_memWf, Bool.and_eq_true]; apply And.intro)

theorem State.putPart_memWf {s f v} (hs : State.memWf s = true) :
    (State.putPart s f v).memWf = true := by
  unfold State.putPart
  try dsimp only
  repeat' first | with_reducible assumption | (intro) | with_reducible apply State.wrs_memWf

theorem execPartEnable_memWf {f val s} (hs : State.memWf s = true) :
    Out3.memWf (execPartEnable f val s) := by
  unfold execPartEnable
  try dsimp only
  repeat'
    first
    | with_reducible assumption | with_reducible apply ok_memWf | (intro) | with_reducible apply State.putPart_memWf
    | with_reducible apply State.ownersNow_memWf | with_reducible apply State.wr_memWf | with_reducible apply State.memWf_ite

theorem execPartDisable_memWf {f val s} (hs : State.memWf s = true) :
    Out3.memWf (execPartDisable f val s) := by
  unfold execPartDisable
  try dsimp only
  repeat'
    first
    | with_reducible assumption | with_reducible apply ok_memWf | (intro) | with_reducible apply State.wr_memWf
    | with_reducible apply State.ownersNow_memWf | with_reducible apply State.putPart_memWf | with_reducible apply State.memWf_ite

theorem State.bar2Reach_memWf {s pa n wr} (hs : State.memWf s = true) :
    (State.bar2Reach s pa n wr).memWf = true := by
  unfold State.bar2Reach
  try dsimp only
  repeat'
    first
    | with_reducible assumption | (intro) | with_reducible apply State.wakeFor_memWf | with_reducible apply State.tookBytes_memWf
    | with_reducible apply State.memWf_ite | with_reducible apply State.memWf_foldl

theorem execBar2Access_memWf {fn off len data s} (hs : State.memWf s = true) :
    Out3.memWf (execBar2Access fn off len data s) := by
  unfold execBar2Access
  try dsimp only
  repeat'
    first
    | with_reducible assumption | with_reducible apply ok_memWf | (intro) | with_reducible apply State.event_memWf
    | with_reducible apply State.writeBytes_memWf | with_reducible apply State.bar2Reach_memWf | with_reducible apply State.aerErr_memWf
    | with_reducible apply State.emit_memWf | with_reducible apply State.request_memWf | with_reducible apply State.memWf_ite
    | with_reducible apply State.memWf_foldl | with_reducible apply State.wf_mem | with_reducible apply State.wf_hostMem | split

theorem State.msixOn_memWf {s f} (hs : State.memWf s = true) :
    (State.msixOn s f).memWf = true := by
  unfold State.msixOn
  try dsimp only
  repeat'
    first
    | with_reducible assumption | (intro) | with_reducible apply State.unmask_memWf | with_reducible apply State.onFn_memWf
    | with_reducible apply State.memWf_ite | with_reducible apply State.memWf_foldl

theorem State.putItem_memWf {s f i v} (hs : State.memWf s = true) :
    (State.putItem s f i v).memWf = true := by
  unfold State.putItem
  try dsimp only
  repeat'
    first
    | with_reducible assumption | (intro) | with_reducible apply State.onFn_memWf | with_reducible apply State.msixOn_memWf
    | with_reducible apply State.unmask_memWf | with_reducible apply State.memWf_ite | with_reducible apply State.memWf_foldl
    | with_reducible apply State.wf_mem | with_reducible apply State.wf_hostMem | split

theorem execPcieConfigRequest_memWf {fn item val s} (hs : State.memWf s = true) :
    Out3.memWf (execPcieConfigRequest fn item val s) := by
  unfold execPcieConfigRequest
  try dsimp only
  repeat'
    first
    | with_reducible assumption | with_reducible apply ok_memWf | (intro) | with_reducible apply State.emit_memWf
    | with_reducible apply State.putItem_memWf | with_reducible apply State.memWf_ite | with_reducible apply State.memWf_foldl
    | with_reducible apply State.wf_mem | with_reducible apply State.wf_hostMem | split

theorem State.atcEvict_memWf {s} (hs : State.memWf s = true) :
    (State.atcEvict s).memWf = true := by
  unfold State.atcEvict
  try dsimp only
  repeat'
    first
    | with_reducible assumption | (intro) | with_reducible apply State.onFn_memWf | with_reducible apply State.memWf_ite
    | with_reducible apply State.memWf_foldl | with_reducible apply State.wf_mem | with_reducible apply State.wf_hostMem | split

theorem execAtsTranslationCompletion_memWf {fn page host writable s} (hs : State.memWf s = true) :
    Out3.memWf (execAtsTranslationCompletion fn page host writable s) := by
  unfold execAtsTranslationCompletion
  try dsimp only
  repeat'
    first
    | with_reducible assumption | with_reducible apply ok_memWf | (intro) | with_reducible apply State.atcEvict_memWf
    | with_reducible apply State.settle_memWf | with_reducible apply State.allGo_memWf | with_reducible apply State.ckAdvance_memWf
    | with_reducible apply State.onFn_memWf | with_reducible apply State.memWf_ite

theorem State.atsAgain_memWf {s f} (hs : State.memWf s = true) :
    (State.atsAgain s f).memWf = true := by
  unfold State.atsAgain
  try dsimp only
  repeat'
    first
    | with_reducible assumption | (intro) | with_reducible apply State.atsAsks_memWf | with_reducible apply State.memWf_ite
    | with_reducible apply State.memWf_foldl

theorem execAtsInvalidationRequest_memWf {fn addr len s} (hs : State.memWf s = true) :
    Out3.memWf (execAtsInvalidationRequest fn addr len s) := by
  unfold execAtsInvalidationRequest
  try dsimp only
  repeat'
    first
    | with_reducible assumption | with_reducible apply ok_memWf | (intro) | with_reducible apply State.relaxedOut_memWf
    | with_reducible apply State.emit_memWf | with_reducible apply State.atsAgain_memWf | with_reducible apply State.onFn_memWf
    | with_reducible apply State.memWf_ite

theorem execPcieCompletionTimeout_memWf {fn r s} (hs : State.memWf s = true) :
    Out3.memWf (execPcieCompletionTimeout fn r s) := by
  unfold execPcieCompletionTimeout
  try dsimp only
  repeat'
    first
    | with_reducible assumption | with_reducible apply ok_memWf | (intro) | with_reducible apply State.aerErr_memWf
    | with_reducible apply State.ringErr_memWf | with_reducible apply State.memWf_ite

end Sys2Proof.Machine
end

