-- ==== Sys2Proof/Laws/MemWfLink.lean ====
section
/-! SUPPORT. What every function leaves of the canonical form of both memories: ports, the Fen and time. -/
namespace Sys2Proof.Machine

/-! ### Cwp.lean -/

theorem State.portUsr_memWf {s p st cause} (hs : State.memWf s = true) :
    (State.portUsr s p st cause).memWf = true := by
  unfold State.portUsr
  try dsimp only
  repeat'
    first
    | with_reducible assumption | (intro) | with_reducible apply State.usrState_memWf | with_reducible apply State.memWf_ite

theorem State.moduleSet_memWf {s p} (hs : State.memWf s = true) :
    (State.moduleSet s p).memWf = true := by
  unfold State.moduleSet
  try dsimp only
  repeat'
    first
    | with_reducible assumption | (intro) | with_reducible apply State.emit_memWf | with_reducible apply State.memWf_ite

theorem State.lanesLost_memWf {s p} (hs : State.memWf s = true) :
    (State.lanesLost s p).memWf = true := by
  unfold State.lanesLost
  try dsimp only
  repeat'
    first
    | with_reducible assumption | (intro) | with_reducible apply State.wr_memWf | with_reducible apply State.memWf_ite
    | with_reducible apply State.memWf_foldl

theorem State.linkLost_memWf {s p f} (hs : State.memWf s = true) :
    (State.linkLost s p f).memWf = true := by
  unfold State.linkLost
  try dsimp only
  repeat'
    first
    | with_reducible assumption | (intro) | with_reducible apply State.wrs_memWf | with_reducible apply State.lanesLost_memWf
    | with_reducible apply State.wr_memWf | with_reducible apply State.onPort_memWf | with_reducible apply State.memWf_ite
    | with_reducible apply State.memWf_foldl

theorem State.portTrain_memWf {s p cause} (hs : State.memWf s = true) :
    (State.portTrain s p cause).memWf = true := by
  unfold State.portTrain
  try dsimp only
  repeat'
    first
    | with_reducible assumption | (intro) | with_reducible apply State.ungate_memWf | with_reducible apply State.wrs_memWf
    | with_reducible apply State.moduleSet_memWf | with_reducible apply State.portUsr_memWf | with_reducible apply State.linkLost_memWf

theorem State.putPortCtl_memWf {s p v} (hs : State.memWf s = true) :
    (State.putPortCtl s p v).memWf = true := by
  unfold State.putPortCtl
  try dsimp only
  repeat' first | with_reducible assumption | (intro) | with_reducible apply State.wrs_memWf

theorem State.portRetrain_memWf {s p} (hs : State.memWf s = true) :
    (State.portRetrain s p).memWf = true := by
  unfold State.portRetrain
  try dsimp only
  repeat'
    first
    | with_reducible assumption | (intro) | with_reducible apply State.portUsr_memWf | with_reducible apply State.onPort_memWf
    | with_reducible apply State.count_memWf | with_reducible apply State.lanesLost_memWf | with_reducible apply State.wr_memWf
    | with_reducible apply State.memWf_ite

theorem execPortEnable_memWf {p val s} (hs : State.memWf s = true) :
    Out3.memWf (execPortEnable p val s) := by
  unfold execPortEnable
  try dsimp only
  repeat'
    first
    | with_reducible assumption | with_reducible apply ok_memWf | (intro) | with_reducible apply State.putPortCtl_memWf
    | with_reducible apply State.portRetrain_memWf | with_reducible apply State.portTrain_memWf | with_reducible apply State.memWf_ite

theorem State.portDisable_memWf {s p cause} (hs : State.memWf s = true) :
    (State.portDisable s p cause).memWf = true := by
  unfold State.portDisable
  try dsimp only
  repeat'
    first
    | with_reducible assumption | (intro) | with_reducible apply State.portUsr_memWf | with_reducible apply State.linkLost_memWf
    | with_reducible apply State.wrs_memWf

theorem execPortDisable_memWf {p val s} (hs : State.memWf s = true) :
    Out3.memWf (execPortDisable p val s) := by
  unfold execPortDisable
  try dsimp only
  repeat'
    first
    | with_reducible assumption | with_reducible apply ok_memWf | (intro) | with_reducible apply State.putPortCtl_memWf
    | with_reducible apply State.portDisable_memWf | with_reducible apply State.memWf_ite

theorem execPortRetrain_memWf {p s} (hs : State.memWf s = true) :
    Out3.memWf (execPortRetrain p s) := by
  unfold execPortRetrain
  try dsimp only
  repeat'
    first
    | with_reducible assumption | with_reducible apply ok_memWf | (intro) | with_reducible apply State.portRetrain_memWf
    | with_reducible apply State.memWf_ite

theorem execCodewordLockLoss_memWf {p s} (hs : State.memWf s = true) :
    Out3.memWf (execCodewordLockLoss p s) := by
  unfold execCodewordLockLoss
  try dsimp only
  repeat'
    first
    | with_reducible assumption | with_reducible apply ok_memWf | (intro) | with_reducible apply State.portRetrain_memWf

theorem execReplayLimit_memWf {p s} (hs : State.memWf s = true) :
    Out3.memWf (execReplayLimit p s) := by
  unfold execReplayLimit
  try dsimp only
  repeat'
    first
    | with_reducible assumption | with_reducible apply ok_memWf | (intro) | with_reducible apply State.portRetrain_memWf
    | with_reducible apply State.memWf_ite

theorem execLinkidFlit_memWf {p devid port s} (hs : State.memWf s = true) :
    Out3.memWf (execLinkidFlit p devid port s) := by
  unfold execLinkidFlit
  try dsimp only
  repeat'
    first
    | with_reducible assumption | with_reducible apply ok_memWf | (intro) | with_reducible apply State.onPort_memWf
    | with_reducible apply State.count_memWf | with_reducible apply State.wrs_memWf | with_reducible apply State.memWf_ite

theorem State.freshCredits_memWf {s p} (hs : State.memWf s = true) :
    (State.freshCredits s p).memWf = true := by
  unfold State.freshCredits
  try dsimp only
  repeat'
    first
    | with_reducible assumption | (intro) | with_reducible apply State.wr_memWf | with_reducible apply State.onPort_memWf
    | with_reducible apply State.memWf_ite | with_reducible apply State.memWf_foldl

theorem execTrainingComplete_memWf {p lanes precode s} (hs : State.memWf s = true) :
    Out3.memWf (execTrainingComplete p lanes precode s) := by
  unfold execTrainingComplete
  try dsimp only
  repeat'
    first
    | with_reducible assumption | with_reducible apply ok_memWf | (intro) | with_reducible apply State.wrs_memWf
    | with_reducible apply State.wr_memWf | with_reducible apply State.freshCredits_memWf | with_reducible apply State.onPort_memWf
    | with_reducible apply State.portUsr_memWf | with_reducible apply State.memWf_ite | with_reducible apply State.memWf_foldl
    | with_reducible apply State.wf_mem | with_reducible apply State.wf_hostMem | split

theorem State.attemptFails_memWf {s p} (hs : State.memWf s = true) :
    (State.attemptFails s p).memWf = true := by
  unfold State.attemptFails
  try dsimp only
  repeat'
    first
    | with_reducible assumption | (intro) | with_reducible apply State.onPort_memWf | with_reducible apply State.report_memWf
    | with_reducible apply State.wr_memWf | with_reducible apply State.memWf_ite

theorem execTrainingAttemptTimeout_memWf {p s} (hs : State.memWf s = true) :
    Out3.memWf (execTrainingAttemptTimeout p s) := by
  unfold execTrainingAttemptTimeout
  try dsimp only
  repeat'
    first
    | with_reducible assumption | with_reducible apply ok_memWf | (intro) | with_reducible apply State.attemptFails_memWf
    | with_reducible apply State.memWf_ite

theorem execRetrainTimeout_memWf {p s} (hs : State.memWf s = true) :
    Out3.memWf (execRetrainTimeout p s) := by
  unfold execRetrainTimeout
  try dsimp only
  repeat'
    first
    | with_reducible assumption | with_reducible apply ok_memWf | (intro) | with_reducible apply State.onPort_memWf
    | with_reducible apply State.memWf_ite

theorem State.sendPair_memWf {s p} (hs : State.memWf s = true) :
    (State.sendPair s p).memWf = true := by
  unfold State.sendPair
  try dsimp only
  repeat'
    first
    | with_reducible assumption | (intro) | with_reducible apply State.emit_memWf | with_reducible apply State.onPort_memWf
    | with_reducible apply State.memWf_ite | with_reducible apply State.memWf_foldl

theorem State.putFlit_memWf {s p f} (hs : State.memWf s = true) :
    (State.putFlit s p f).memWf = true := by
  unfold State.putFlit
  try dsimp only
  repeat'
    first
    | with_reducible assumption | (intro) | with_reducible apply State.onPort_memWf | with_reducible apply State.emit_memWf
    | with_reducible apply State.count_memWf | with_reducible apply State.sendPair_memWf | with_reducible apply State.memWf_ite

theorem State.sendFlit_memWf {s p f} (hs : State.memWf s = true) :
    (State.sendFlit s p f).memWf = true := by
  unfold State.sendFlit
  try dsimp only
  repeat'
    first
    | with_reducible assumption | (intro) | with_reducible apply State.putFlit_memWf | with_reducible apply State.onPort_memWf

theorem State.sendTime_memWf {s p info} (hs : State.memWf s = true) :
    (State.sendTime s p info).memWf = true := by
  unfold State.sendTime
  try dsimp only
  repeat'
    first
    | with_reducible assumption | (intro) | with_reducible apply State.wr_memWf | with_reducible apply State.onPort_memWf
    | with_reducible apply State.sendFlit_memWf | with_reducible apply State.memWf_ite | with_reducible apply State.memWf_foldl
    | with_reducible apply State.wf_mem | with_reducible apply State.wf_hostMem
    | (simp only [State.mk_memWf, Bool.and_eq_true]; apply And.intro) | split

theorem State.sendData_memWf {s p v} (hs : State.memWf s = true) :
    (State.sendData s p v).memWf = true := by
  unfold State.sendData
  try dsimp only
  repeat'
    first
    | with_reducible assumption | (intro) | with_reducible apply State.wr_memWf | with_reducible apply State.sendFlit_memWf
    | with_reducible apply State.onPort_memWf | with_reducible apply State.memWf_ite | with_reducible apply State.memWf_foldl
    | with_reducible apply State.wf_mem | with_reducible apply State.wf_hostMem | split

theorem State.sendReplay_memWf {s p i} (hs : State.memWf s = true) :
    (State.sendReplay s p i).memWf = true := by
  unfold State.sendReplay
  try dsimp only
  repeat'
    first
    | with_reducible assumption | (intro) | with_reducible apply State.onPort_memWf | with_reducible apply State.sendFlit_memWf
    | with_reducible apply State.count_memWf | with_reducible apply State.memWf_ite | with_reducible apply State.memWf_foldl
    | with_reducible apply State.wf_mem | with_reducible apply State.wf_hostMem | split

theorem State.transmitData_memWf {s p} (hs : State.memWf s = true) :
    (State.transmitData s p).memWf = true := by
  unfold State.transmitData
  try dsimp only
  repeat'
    first
    | with_reducible assumption | (intro) | with_reducible apply State.sendReplay_memWf | with_reducible apply State.sendData_memWf
    | with_reducible apply State.onPort_memWf | with_reducible apply State.sendFlit_memWf | with_reducible apply State.memWf_ite
    | with_reducible apply State.memWf_foldl | with_reducible apply State.wf_mem | with_reducible apply State.wf_hostMem | split

theorem State.transmit_memWf {s p} (hs : State.memWf s = true) :
    (State.transmit s p).memWf = true := by
  unfold State.transmit
  try dsimp only
  repeat'
    first
    | with_reducible assumption | (intro) | with_reducible apply State.sendTime_memWf | with_reducible apply State.transmitData_memWf
    | with_reducible apply State.memWf_ite | with_reducible apply State.memWf_foldl | with_reducible apply State.wf_mem
    | with_reducible apply State.wf_hostMem | split

theorem State.sendLinkid_memWf {s p} (hs : State.memWf s = true) :
    (State.sendLinkid s p).memWf = true := by
  unfold State.sendLinkid
  try dsimp only
  repeat' first | with_reducible assumption | (intro) | with_reducible apply State.putFlit_memWf

theorem execFlitTransmit_memWf {p s} (hs : State.memWf s = true) :
    Out3.memWf (execFlitTransmit p s) := by
  unfold execFlitTransmit
  try dsimp only
  repeat'
    first
    | with_reducible assumption | with_reducible apply ok_memWf | (intro) | with_reducible apply State.signalsDone_memWf
    | with_reducible apply State.transmit_memWf | with_reducible apply State.sendLinkid_memWf | with_reducible apply State.memWf_ite

theorem execAckTimer_memWf {p s} (hs : State.memWf s = true) :
    Out3.memWf (execAckTimer p s) := by
  unfold execAckTimer
  try dsimp only
  repeat'
    first
    | with_reducible assumption | with_reducible apply ok_memWf | (intro) | with_reducible apply State.sendFlit_memWf
    | with_reducible apply State.memWf_ite

theorem State.acked_memWf {s p f} (hs : State.memWf s = true) :
    (State.acked s p f).memWf = true := by
  unfold State.acked
  try dsimp only
  repeat'
    first
    | with_reducible assumption | (intro) | with_reducible apply State.onPort_memWf | with_reducible apply State.memWf_ite

theorem State.credited_memWf {s p f} (hs : State.memWf s = true) :
    (State.credited s p f).memWf = true := by
  unfold State.credited
  try dsimp only
  repeat'
    first
    | with_reducible assumption | (intro) | with_reducible apply State.wr_memWf | with_reducible apply State.memWf_ite
    | with_reducible apply State.memWf_foldl

theorem State.heard_memWf {s l} (hs : State.memWf s = true) :
    (State.heard s l).memWf = true := by
  unfold State.heard
  try dsimp only
  repeat'
    first
    | with_reducible assumption | (intro) | with_reducible apply State.memWf_ite | with_reducible apply State.memWf_foldl
    | with_reducible apply State.wf_mem | with_reducible apply State.wf_hostMem
    | (simp only [State.mk_memWf, Bool.and_eq_true]; apply And.intro)

theorem State.learn_memWf {s p m} (hs : State.memWf s = true) :
    (State.learn s p m).memWf = true := by
  unfold State.learn
  try dsimp only
  repeat'
    first
    | with_reducible assumption | (intro) | with_reducible apply State.memWf_ite | with_reducible apply State.memWf_foldl
    | with_reducible apply State.wf_mem | with_reducible apply State.wf_hostMem
    | (simp only [State.mk_memWf, Bool.and_eq_true]; apply And.intro) | split

theorem State.mcastIn_memWf {s k hdr pl b src} (hs : State.memWf s = true) :
    (State.mcastIn s k hdr pl b src).memWf = true := by
  unfold State.mcastIn
  try dsimp only
  repeat'
    first
    | with_reducible assumption | (intro) | with_reducible apply State.netPut_memWf | with_reducible apply State.memWf_ite
    | with_reducible apply State.memWf_foldl | with_reducible apply State.wf_mem | with_reducible apply State.wf_hostMem
    | (simp only [State.mk_memWf, Bool.and_eq_true]; apply And.intro) | split

theorem State.lodeIn_memWf {s m} (hs : State.memWf s = true) :
    (State.lodeIn s m).memWf = true := by
  unfold State.lodeIn
  try dsimp only
  repeat'
    first
    | with_reducible assumption | (intro) | with_reducible apply State.netPut_memWf | with_reducible apply State.heard_memWf

theorem State.packetIn_memWf {s k} (hs : State.memWf s = true) :
    (State.packetIn s k).memWf = true := by
  unfold State.packetIn
  try dsimp only
  repeat'
    first
    | with_reducible assumption | (intro) | with_reducible apply State.learn_memWf | with_reducible apply State.mcastIn_memWf
    | with_reducible apply State.heard_memWf | with_reducible apply State.lodeIn_memWf | with_reducible apply State.memWf_ite
    | with_reducible apply State.memWf_foldl | with_reducible apply State.wf_mem | with_reducible apply State.wf_hostMem
    | (simp only [State.mk_memWf, Bool.and_eq_true]; apply And.intro) | split

theorem State.flitJoins_memWf {s p f} (hs : State.memWf s = true) :
    (State.flitJoins s p f).memWf = true := by
  unfold State.flitJoins
  try dsimp only
  repeat'
    first
    | with_reducible assumption | (intro) | with_reducible apply State.onPort_memWf | with_reducible apply State.packetIn_memWf
    | with_reducible apply State.sendFlit_memWf | with_reducible apply State.memWf_ite

theorem State.badFlit_memWf {s p} (hs : State.memWf s = true) :
    (State.badFlit s p).memWf = true := by
  unfold State.badFlit
  try dsimp only
  repeat'
    first
    | with_reducible assumption | (intro) | with_reducible apply State.onPort_memWf | with_reducible apply State.count_memWf

theorem State.codeword_memWf {s p err} (hs : State.memWf s = true) :
    (State.codeword s p err).memWf = true := by
  unfold State.codeword
  try dsimp only
  repeat'
    first
    | with_reducible assumption | (intro) | with_reducible apply State.count_memWf | with_reducible apply State.memWf_ite
    | with_reducible apply State.memWf_foldl

theorem State.rejectX_memWf {s} (hs : State.memWf s = true) :
    (State.rejectX s).memWf = true := by
  unfold State.rejectX
  try dsimp only
  repeat'
    first
    | with_reducible assumption | (intro) | with_reducible apply State.count_memWf | with_reducible apply State.memWf_ite
    | with_reducible apply State.memWf_foldl | with_reducible apply State.wf_mem | with_reducible apply State.wf_hostMem
    | (simp only [State.mk_memWf, Bool.and_eq_true]; apply And.intro)

theorem State.lostX_memWf {s} (hs : State.memWf s = true) :
    (State.lostX s).memWf = true := by
  unfold State.lostX
  try dsimp only
  repeat'
    first
    | with_reducible assumption | (intro) | with_reducible apply State.rejectX_memWf | with_reducible apply State.count_memWf

theorem State.timeDrop_memWf {s p} (hs : State.memWf s = true) :
    (State.timeDrop s p).memWf = true := by
  unfold State.timeDrop
  try dsimp only
  repeat'
    first
    | with_reducible assumption | (intro) | with_reducible apply State.count_memWf | with_reducible apply State.lostX_memWf
    | with_reducible apply State.memWf_ite

theorem State.flitIn_memWf {s p f good} (hs : State.memWf s = true) :
    (State.flitIn s p f good).memWf = true := by
  unfold State.flitIn
  try dsimp only
  repeat'
    first
    | with_reducible assumption | (intro) | with_reducible apply State.onPort_memWf | with_reducible apply State.credited_memWf
    | with_reducible apply State.acked_memWf | with_reducible apply State.timeDrop_memWf | with_reducible apply State.badFlit_memWf
    | with_reducible apply State.flitJoins_memWf | with_reducible apply State.memWf_ite | with_reducible apply State.memWf_foldl
    | with_reducible apply State.wf_mem | with_reducible apply State.wf_hostMem | split

theorem execFlitReceive_memWf {p head_ payload crc err s} (hs : State.memWf s = true) :
    Out3.memWf (execFlitReceive p head_ payload crc err s) := by
  unfold execFlitReceive
  try dsimp only
  repeat'
    first
    | with_reducible assumption | with_reducible apply ok_memWf | (intro) | with_reducible apply State.count_memWf
    | with_reducible apply State.onPort_memWf | with_reducible apply State.codeword_memWf | with_reducible apply State.flitIn_memWf
    | with_reducible apply State.memWf_ite

/-! ### Fen.lean -/

theorem State.flood_memWf {s kind data but} (hs : State.memWf s = true) :
    (State.flood s kind data but).memWf = true := by
  unfold State.flood
  try dsimp only
  repeat'
    first
    | with_reducible assumption | (intro) | with_reducible apply State.onPort_memWf | with_reducible apply State.memWf_ite
    | with_reducible apply State.memWf_foldl

theorem State.fenAlone_memWf {s} (hs : State.memWf s = true) :
    (State.fenAlone s).memWf = true := by
  unfold State.fenAlone
  try dsimp only
  repeat'
    first
    | with_reducible assumption | (intro) | with_reducible apply State.wrs_memWf | with_reducible apply State.memWf_ite
    | with_reducible apply State.memWf_foldl

theorem State.fenLeave_memWf {s} (hs : State.memWf s = true) :
    (State.fenLeave s).memWf = true := by
  unfold State.fenLeave
  try dsimp only
  repeat'
    first
    | with_reducible assumption | (intro) | with_reducible apply State.recover_memWf | with_reducible apply State.dropTo_memWf
    | with_reducible apply State.fenAlone_memWf | with_reducible apply State.fencesShown_memWf | with_reducible apply State.memWf_ite
    | with_reducible apply State.memWf_foldl | with_reducible apply State.wf_mem | with_reducible apply State.wf_hostMem
    | (simp only [State.mk_memWf, Bool.and_eq_true]; apply And.intro)

theorem State.fenForm_memWf {s} (hs : State.memWf s = true) :
    (State.fenForm s).memWf = true := by
  unfold State.fenForm
  try dsimp only
  repeat'
    first
    | with_reducible assumption | (intro) | with_reducible apply State.fenLeave_memWf | with_reducible apply State.setMaster_memWf
    | with_reducible apply State.wrs_memWf | with_reducible apply State.settle_memWf | with_reducible apply State.flood_memWf
    | with_reducible apply State.memWf_ite | with_reducible apply State.memWf_foldl | with_reducible apply State.wf_mem
    | with_reducible apply State.wf_hostMem | (simp only [State.mk_memWf, Bool.and_eq_true]; apply And.intro)

theorem execFenCtlForm_memWf {s} (hs : State.memWf s = true) :
    Out3.memWf (execFenCtlForm s) := by
  unfold execFenCtlForm
  try dsimp only
  repeat'
    first
    | with_reducible assumption | with_reducible apply ok_memWf | (intro) | with_reducible apply State.fenForm_memWf
    | with_reducible apply State.memWf_ite

theorem execHelloReceive_memWf {p h_ s} (hs : State.memWf s = true) :
    Out3.memWf (execHelloReceive p h_ s) := by
  unfold execHelloReceive
  try dsimp only
  repeat'
    first
    | with_reducible assumption | with_reducible apply ok_memWf | (intro) | with_reducible apply State.flood_memWf
    | with_reducible apply State.memWf_ite | with_reducible apply State.memWf_foldl | with_reducible apply State.wf_mem
    | with_reducible apply State.wf_hostMem | (simp only [State.mk_memWf, Bool.and_eq_true]; apply And.intro)

theorem State.fenFail_memWf {s cause} (hs : State.memWf s = true) :
    (State.fenFail s cause).memWf = true := by
  unfold State.fenFail
  try dsimp only
  repeat'
    first
    | with_reducible assumption | (intro) | with_reducible apply State.wrs_memWf | with_reducible apply State.fenAlone_memWf
    | with_reducible apply State.memWf_ite | with_reducible apply State.memWf_foldl | with_reducible apply State.wf_mem
    | with_reducible apply State.wf_hostMem | (simp only [State.mk_memWf, Bool.and_eq_true]; apply And.intro)

theorem State.takeAssignment_memWf {s a} (hs : State.memWf s = true) :
    (State.takeAssignment s a).memWf = true := by
  unfold State.takeAssignment
  try dsimp only
  repeat'
    first
    | with_reducible assumption | (intro) | with_reducible apply State.wrs_memWf | with_reducible apply State.fenAlone_memWf
    | with_reducible apply State.memWf_ite | with_reducible apply State.memWf_foldl | with_reducible apply State.wf_mem
    | with_reducible apply State.wf_hostMem | (simp only [State.mk_memWf, Bool.and_eq_true]; apply And.intro)

theorem State.fenFormed_memWf {s fepoch master} (hs : State.memWf s = true) :
    (State.fenFormed s fepoch master).memWf = true := by
  unfold State.fenFormed
  try dsimp only
  repeat'
    first
    | with_reducible assumption | (intro) | with_reducible apply State.wrs_memWf | with_reducible apply State.setMaster_memWf
    | with_reducible apply State.memWf_ite | with_reducible apply State.memWf_foldl | with_reducible apply State.wf_mem
    | with_reducible apply State.wf_hostMem | (simp only [State.mk_memWf, Bool.and_eq_true]; apply And.intro)

theorem State.leaderCommit_memWf {s} (hs : State.memWf s = true) :
    (State.leaderCommit s).memWf = true := by
  unfold State.leaderCommit
  try dsimp only
  repeat'
    first
    | with_reducible assumption | (intro) | with_reducible apply State.wr_memWf | with_reducible apply State.fenFormed_memWf
    | with_reducible apply State.flood_memWf | with_reducible apply State.memWf_ite

theorem State.leaderPlan_memWf {s} (hs : State.memWf s = true) :
    (State.leaderPlan s).memWf = true := by
  unfold State.leaderPlan
  try dsimp only
  repeat'
    first
    | with_reducible assumption | (intro) | with_reducible apply State.fenFail_memWf | with_reducible apply State.flood_memWf
    | with_reducible apply State.leaderCommit_memWf | with_reducible apply State.takeAssignment_memWf | with_reducible apply State.memWf_ite
    | with_reducible apply State.memWf_foldl | with_reducible apply State.wf_mem | with_reducible apply State.wf_hostMem
    | (simp only [State.mk_memWf, Bool.and_eq_true]; apply And.intro) | split

theorem execFormWaitExpiry_memWf {s} (hs : State.memWf s = true) :
    Out3.memWf (execFormWaitExpiry s) := by
  unfold execFormWaitExpiry
  try dsimp only
  repeat'
    first
    | with_reducible assumption | with_reducible apply ok_memWf | (intro) | with_reducible apply State.leaderPlan_memWf
    | with_reducible apply State.memWf_ite

theorem State.relay_memWf {s kind key data} (hs : State.memWf s = true) :
    (State.relay s kind key data).memWf = true := by
  unfold State.relay
  try dsimp only
  repeat'
    first
    | with_reducible assumption | (intro) | with_reducible apply State.flood_memWf | with_reducible apply State.memWf_ite
    | with_reducible apply State.memWf_foldl | with_reducible apply State.wf_mem | with_reducible apply State.wf_hostMem
    | (simp only [State.mk_memWf, Bool.and_eq_true]; apply And.intro)

theorem execFenAssignmentReceive_memWf {a s} (hs : State.memWf s = true) :
    Out3.memWf (execFenAssignmentReceive a s) := by
  unfold execFenAssignmentReceive
  try dsimp only
  repeat'
    first
    | with_reducible assumption | with_reducible apply ok_memWf | (intro) | with_reducible apply State.takeAssignment_memWf
    | with_reducible apply State.relay_memWf | with_reducible apply State.memWf_ite | with_reducible apply State.memWf_foldl
    | with_reducible apply State.wf_mem | with_reducible apply State.wf_hostMem
    | (simp only [State.mk_memWf, Bool.and_eq_true]; apply And.intro)

theorem execFenAssignmentAck_memWf {devid s} (hs : State.memWf s = true) :
    Out3.memWf (execFenAssignmentAck devid s) := by
  unfold execFenAssignmentAck
  try dsimp only
  repeat'
    first
    | with_reducible assumption | with_reducible apply ok_memWf | (intro) | with_reducible apply State.leaderCommit_memWf
    | with_reducible apply State.relay_memWf | with_reducible apply State.memWf_ite | with_reducible apply State.memWf_foldl
    | with_reducible apply State.wf_mem | with_reducible apply State.wf_hostMem
    | (simp only [State.mk_memWf, Bool.and_eq_true]; apply And.intro)

theorem execFenCommit_memWf {fepoch master s} (hs : State.memWf s = true) :
    Out3.memWf (execFenCommit fepoch master s) := by
  unfold execFenCommit
  try dsimp only
  repeat'
    first
    | with_reducible assumption | with_reducible apply ok_memWf | (intro) | with_reducible apply State.fenFormed_memWf
    | with_reducible apply State.relay_memWf | with_reducible apply State.setMaster_memWf | with_reducible apply State.flood_memWf
    | with_reducible apply State.memWf_ite

theorem execFormationTimeout_memWf {s} (hs : State.memWf s = true) :
    Out3.memWf (execFormationTimeout s) := by
  unfold execFormationTimeout
  try dsimp only
  repeat'
    first
    | with_reducible assumption | with_reducible apply ok_memWf | (intro) | with_reducible apply State.fenFail_memWf
    | with_reducible apply State.memWf_ite

theorem State.fenDissolve_memWf {s} (hs : State.memWf s = true) :
    (State.fenDissolve s).memWf = true := by
  unfold State.fenDissolve
  try dsimp only
  repeat' first | with_reducible assumption | (intro) | with_reducible apply State.wr_memWf

theorem execFenCtlDissolve_memWf {s} (hs : State.memWf s = true) :
    Out3.memWf (execFenCtlDissolve s) := by
  unfold execFenCtlDissolve
  try dsimp only
  repeat'
    first
    | with_reducible assumption | with_reducible apply ok_memWf | (intro) | with_reducible apply State.fenDissolve_memWf
    | with_reducible apply State.memWf_ite

theorem execDissolveComplete_memWf {s} (hs : State.memWf s = true) :
    Out3.memWf (execDissolveComplete s) := by
  unfold execDissolveComplete
  try dsimp only
  repeat'
    first
    | with_reducible assumption | with_reducible apply ok_memWf | (intro) | with_reducible apply State.wrs_memWf
    | with_reducible apply State.fenLeave_memWf | with_reducible apply State.settle_memWf | with_reducible apply State.ownMaster_memWf
    | with_reducible apply State.memWf_ite | with_reducible apply State.memWf_foldl | with_reducible apply State.wf_mem
    | with_reducible apply State.wf_hostMem | (simp only [State.mk_memWf, Bool.and_eq_true]; apply And.intro)

/-! ### Tbu.lean -/

theorem State.stepTo_memWf {s c} (hs : State.memWf s = true) :
    (State.stepTo s c).memWf = true := by
  unfold State.stepTo
  try dsimp only
  repeat'
    first
    | with_reducible assumption | (intro) | with_reducible apply State.count_memWf | with_reducible apply State.memWf_ite
    | with_reducible apply State.memWf_foldl | with_reducible apply State.wf_mem | with_reducible apply State.wf_hostMem
    | (simp only [State.mk_memWf, Bool.and_eq_true]; apply And.intro)

theorem State.stepBy_memWf {s d} (hs : State.memWf s = true) :
    (State.stepBy s d).memWf = true := by
  unfold State.stepBy
  try dsimp only
  repeat' first | with_reducible assumption | (intro) | with_reducible apply State.stepTo_memWf

theorem execTbuNowRead_memWf {frv s} (hs : State.memWf s = true) :
    Out3.memWf (execTbuNowRead s frv) := by
  unfold execTbuNowRead
  try dsimp only
  repeat'
    first
    | with_reducible assumption | with_reducible apply ok_memWf | (intro) | with_reducible apply State.emit_memWf
    | with_reducible apply State.wr_memWf | with_reducible apply State.memWf_ite | with_reducible apply State.memWf_foldl
    | with_reducible apply State.wf_mem | with_reducible apply State.wf_hostMem
    | (simp only [State.mk_memWf, Bool.and_eq_true]; apply And.intro)

theorem State.setInc_memWf {s i n d} (hs : State.memWf s = true) :
    (State.setInc s i n d).memWf = true := by
  unfold State.setInc
  try dsimp only
  repeat' first | with_reducible assumption | (intro) | with_reducible apply State.wr_memWf

theorem State.slew_memWf {s th2} (hs : State.memWf s = true) :
    (State.slew s th2).memWf = true := by
  unfold State.slew
  try dsimp only
  repeat'
    first
    | with_reducible assumption | (intro) | with_reducible apply State.setInc_memWf | with_reducible apply State.memWf_ite
    | with_reducible apply State.memWf_foldl | with_reducible apply State.wf_mem | with_reducible apply State.wf_hostMem
    | (simp only [State.mk_memWf, Bool.and_eq_true]; apply And.intro)

theorem State.phaseOff_memWf {s} (hs : State.memWf s = true) :
    (State.phaseOff s).memWf = true := by
  unfold State.phaseOff
  try dsimp only
  repeat'
    first
    | with_reducible assumption | (intro) | with_reducible apply State.setInc_memWf | with_reducible apply State.memWf_ite
    | with_reducible apply State.memWf_foldl | with_reducible apply State.wf_mem | with_reducible apply State.wf_hostMem
    | (simp only [State.mk_memWf, Bool.and_eq_true]; apply And.intro)

theorem execTbuSetNs_memWf {hi lo s} (hs : State.memWf s = true) :
    Out3.memWf (execTbuSetNs hi lo s) := by
  unfold execTbuSetNs
  try dsimp only
  repeat'
    first
    | with_reducible assumption | with_reducible apply ok_memWf | (intro) | with_reducible apply State.phaseOff_memWf
    | with_reducible apply State.stepTo_memWf | with_reducible apply State.drawn_memWf | with_reducible apply State.wr_memWf
    | with_reducible apply State.memWf_ite | with_reducible apply State.memWf_foldl | with_reducible apply State.wf_mem
    | with_reducible apply State.wf_hostMem | (simp only [State.mk_memWf, Bool.and_eq_true]; apply And.intro)

theorem State.servoTo_memWf {s v} (hs : State.memWf s = true) :
    (State.servoTo s v).memWf = true := by
  unfold State.servoTo
  try dsimp only
  repeat'
    first
    | with_reducible assumption | (intro) | with_reducible apply State.ppsGate_memWf | with_reducible apply State.wr_memWf

theorem State.timeFlit_memWf {s p info} (hs : State.memWf s = true) :
    (State.timeFlit s p info).memWf = true := by
  unfold State.timeFlit
  try dsimp only
  repeat' first | with_reducible assumption | (intro) | with_reducible apply State.onPort_memWf

theorem execSyncPeriod_memWf {s} (hs : State.memWf s = true) :
    Out3.memWf (execSyncPeriod s) := by
  unfold execSyncPeriod
  try dsimp only
  repeat'
    first
    | with_reducible assumption | with_reducible apply ok_memWf | (intro) | with_reducible apply State.drawn_memWf
    | with_reducible apply State.timeFlit_memWf | with_reducible apply State.memWf_ite | with_reducible apply State.memWf_foldl
    | with_reducible apply State.wf_mem | with_reducible apply State.wf_hostMem
    | (simp only [State.mk_memWf, Bool.and_eq_true]; apply And.intro)

theorem State.lostOpen_memWf {s} (hs : State.memWf s = true) :
    (State.lostOpen s).memWf = true := by
  unfold State.lostOpen
  try dsimp only
  repeat'
    first
    | with_reducible assumption | (intro) | with_reducible apply State.lostX_memWf | with_reducible apply State.memWf_ite

theorem execSyncReceive_memWf {p xseq ns frac s} (hs : State.memWf s = true) :
    Out3.memWf (execSyncReceive p xseq ns frac s) := by
  unfold execSyncReceive
  try dsimp only
  repeat'
    first
    | with_reducible assumption | with_reducible apply ok_memWf | (intro) | with_reducible apply State.lostOpen_memWf
    | with_reducible apply State.timeFlit_memWf | with_reducible apply State.memWf_ite | with_reducible apply State.memWf_foldl
    | with_reducible apply State.wf_mem | with_reducible apply State.wf_hostMem
    | (simp only [State.mk_memWf, Bool.and_eq_true]; apply And.intro)

theorem execDreqReceive_memWf {p xseq s} (hs : State.memWf s = true) :
    Out3.memWf (execDreqReceive p xseq s) := by
  unfold execDreqReceive
  try dsimp only
  repeat'
    first
    | with_reducible assumption | with_reducible apply ok_memWf | (intro) | with_reducible apply State.timeFlit_memWf
    | with_reducible apply State.memWf_ite

theorem execDrspTimeout_memWf {s} (hs : State.memWf s = true) :
    Out3.memWf (execDrspTimeout s) := by
  unfold execDrspTimeout
  try dsimp only
  repeat'
    first
    | with_reducible assumption | with_reducible apply ok_memWf | (intro) | with_reducible apply State.lostOpen_memWf

theorem State.servo_memWf {s th2} (hs : State.memWf s = true) :
    (State.servo s th2).memWf = true := by
  unfold State.servo
  try dsimp only
  repeat'
    first
    | with_reducible assumption | (intro) | with_reducible apply State.servoTo_memWf | with_reducible apply State.stepBy_memWf
    | with_reducible apply State.phaseOff_memWf | with_reducible apply State.slew_memWf | with_reducible apply State.memWf_ite
    | with_reducible apply State.memWf_foldl | with_reducible apply State.wf_mem | with_reducible apply State.wf_hostMem
    | (simp only [State.mk_memWf, Bool.and_eq_true]; apply And.intro)

theorem execDrspReceive_memWf {p xseq ns frac stepped s} (hs : State.memWf s = true) :
    Out3.memWf (execDrspReceive p xseq ns frac stepped s) := by
  unfold execDrspReceive
  try dsimp only
  repeat'
    first
    | with_reducible assumption | with_reducible apply ok_memWf | (intro) | with_reducible apply State.rejectX_memWf
    | with_reducible apply State.wrs_memWf | with_reducible apply State.count_memWf | with_reducible apply State.drawn_memWf
    | with_reducible apply State.servo_memWf | with_reducible apply State.memWf_ite | with_reducible apply State.memWf_foldl
    | with_reducible apply State.wf_mem | with_reducible apply State.wf_hostMem
    | (simp only [State.mk_memWf, Bool.and_eq_true]; apply And.intro) | split

theorem execServoHoldover_memWf {s} (hs : State.memWf s = true) :
    Out3.memWf (execServoHoldover s) := by
  unfold execServoHoldover
  try dsimp only
  repeat'
    first
    | with_reducible assumption | with_reducible apply ok_memWf | (intro) | with_reducible apply State.phaseOff_memWf
    | with_reducible apply State.drawn_memWf | with_reducible apply State.servoTo_memWf | with_reducible apply State.memWf_ite
    | with_reducible apply State.memWf_foldl | with_reducible apply State.wf_mem | with_reducible apply State.wf_hostMem
    | (simp only [State.mk_memWf, Bool.and_eq_true]; apply And.intro)

theorem execAnnounceReceive_memWf {p mrank depth _src _errbnd s} (hs : State.memWf s = true) :
    Out3.memWf (execAnnounceReceive p mrank depth _src _errbnd s) := by
  unfold execAnnounceReceive
  try dsimp only
  repeat'
    first
    | with_reducible assumption | with_reducible apply ok_memWf | (intro) | with_reducible apply State.setMaster_memWf
    | with_reducible apply State.drawn_memWf | with_reducible apply State.wrs_memWf | with_reducible apply State.memWf_ite

theorem State.ppsApply_memWf {s err} (hs : State.memWf s = true) : (State.ppsApply s err).memWf = true := by
  have h1 : (if s.stepLimit < err.natAbs then (s.stepBy (-err)).phaseOff else s.slew (2 * err)).memWf = true :=
    State.memWf_ite (State.phaseOff_memWf (State.stepBy_memWf hs)) (State.slew_memWf hs)
  unfold State.ppsApply
  generalize (if s.stepLimit < err.natAbs then (s.stepBy (-err)).phaseOff else s.slew (2 * err)) = s1 at h1
  generalize (if err.natAbs ≤ 2 ^ 32 then s.tbu.ppsGood + 1 else 0) = g
  have h2 : ({ s1 with tbu := { s1.tbu with ppsGood := g } } : State).memWf = true := by rw [State.mk_memWf]; exact h1
  dsimp only
  generalize State.mk .. = s2 at h2 ⊢
  exact State.memWf_ite (State.wr_memWf h2) (State.memWf_ite (State.wr_memWf h2) h2)

theorem execPpsInEdge_memWf {short s} (hs : State.memWf s = true) :
    Out3.memWf (execPpsInEdge short s) := by
  unfold execPpsInEdge
  try dsimp only
  repeat'
    first
    | with_reducible assumption | with_reducible apply ok_memWf | (intro) | with_reducible apply State.count_memWf
    | with_reducible apply State.wr_memWf | with_reducible apply State.drawn_memWf | with_reducible apply State.ppsApply_memWf
    | with_reducible apply State.memWf_ite

theorem execPpsHoldTimeout_memWf {s} (hs : State.memWf s = true) :
    Out3.memWf (execPpsHoldTimeout s) := by
  unfold execPpsHoldTimeout
  try dsimp only
  repeat'
    first
    | with_reducible assumption | with_reducible apply ok_memWf | (intro) | with_reducible apply State.wr_memWf
    | with_reducible apply State.memWf_ite | with_reducible apply State.memWf_foldl | with_reducible apply State.wf_mem
    | with_reducible apply State.wf_hostMem | (simp only [State.mk_memWf, Bool.and_eq_true]; apply And.intro)

theorem execTbuSecond_memWf {s} (hs : State.memWf s = true) :
    Out3.memWf (execTbuSecond s) := by
  unfold execTbuSecond
  try dsimp only
  repeat'
    first
    | with_reducible assumption | with_reducible apply ok_memWf | (intro) | with_reducible apply State.wr_memWf
    | with_reducible apply State.emit_memWf | with_reducible apply State.memWf_ite | with_reducible apply State.memWf_foldl
    | with_reducible apply State.wf_mem | with_reducible apply State.wf_hostMem
    | (simp only [State.mk_memWf, Bool.and_eq_true]; apply And.intro)

theorem execPpsWidthExpiry_memWf {s} (hs : State.memWf s = true) :
    Out3.memWf (execPpsWidthExpiry s) := by
  unfold execPpsWidthExpiry
  try dsimp only
  repeat'
    first
    | with_reducible assumption | with_reducible apply ok_memWf | (intro) | with_reducible apply State.emit_memWf
    | with_reducible apply State.memWf_ite | with_reducible apply State.memWf_foldl | with_reducible apply State.wf_mem
    | with_reducible apply State.wf_hostMem | (simp only [State.mk_memWf, Bool.and_eq_true]; apply And.intro)

end Sys2Proof.Machine
end

