-- ==== Sys2Proof/Laws/MemWfMgmt.lean ====
section
/-! SUPPORT. What every function leaves of the canonical form of both memories: management, pins, register writes and the tick. -/
namespace Sys2Proof.Machine

/-! ### Frv.lean -/

theorem State.unitOnline_memWf {s u} (hs : State.memWf s = true) : ∀ w, State.unitOnline s u = some w → w.memWf = true := by
  intro w hw
  unfold State.unitOnline at hw
  split at hw
  · cases hw
  split at hw
  · extract_lets t at hw
    split at hw
    · cases hw
    split at hw
    · rw [← Option.some.inj hw]
      exact State.resetTile_memWf (State.onTile_memWf (State.tileUsr_memWf hs))
    · exact State.tpcOn_memWf (State.onTile_memWf hs) _ hw
  split at hw
  · rw [← Option.some.inj hw]
    exact State.usrState_memWf (State.wr_memWf (State.stackOff_memWf hs))
  split at hw
  · rw [← Option.some.inj hw]
    exact State.portTrain_memWf (State.usrState_memWf hs)
  · rw [← Option.some.inj hw]
    exact State.usrState_memWf (State.sfuEmptyAll_memWf hs)

theorem State.unitOffline_memWf {s u} (hs : State.memWf s = true) :
    ∀ w, State.unitOffline s u = some w → w.memWf = true := by
  intro w hw
  unfold State.unitOffline at hw
  try dsimp only at hw
  repeat' split at hw
  all_goals try first
    | (rw [← Option.some.inj hw]) | (simp only [reduceCtorEq] at hw)
  all_goals repeat'
      first
      | with_reducible assumption | (intro) | with_reducible refine State.tpcOff_memWf ?_ _ (by assumption)
      | with_reducible apply State.usrState_memWf | with_reducible apply State.stackOff_memWf | with_reducible apply State.portDisable_memWf

theorem State.svnCommit_memWf {s n} (hs : State.memWf s = true) :
    (State.svnCommit s n).memWf = true := by
  unfold State.svnCommit
  try dsimp only
  repeat'
    first
    | with_reducible assumption | (intro) | with_reducible apply State.wr_memWf | with_reducible apply State.memWf_ite
    | with_reducible apply State.memWf_foldl | with_reducible apply State.wf_mem | with_reducible apply State.wf_hostMem
    | (simp only [State.mk_memWf, Bool.and_eq_true]; apply And.intro)

theorem State.ucApply_memWf {s c} (hs : State.memWf s = true) :
    ∀ w, State.ucApply s c = some w → w.memWf = true := by
  intro w hw
  unfold State.ucApply at hw
  try dsimp only at hw
  repeat' split at hw
  all_goals try first
    | (rw [← Option.some.inj hw]) | (simp only [reduceCtorEq] at hw)
  all_goals repeat'
      first
      | with_reducible assumption | (intro) | with_reducible refine State.unitOnline_memWf ?_ _ (by assumption)
      | with_reducible refine State.unitOffline_memWf ?_ _ (by assumption) | with_reducible apply State.usrState_memWf
      | with_reducible apply State.forceUnit_memWf | with_reducible apply State.fenForm_memWf | with_reducible apply State.fenDissolve_memWf
      | with_reducible apply State.svnCommit_memWf | with_reducible apply State.wr_memWf

theorem State.ucRun_memWf {s c} (hs : State.memWf s = true) :
    (State.ucRun s c).2.memWf = true := by
  unfold State.ucRun
  try dsimp only
  repeat'
    first
    | with_reducible assumption | (intro) | with_reducible refine State.ucApply_memWf ?_ _ (by assumption)
    | with_reducible apply State.settle_memWf | with_reducible apply State.memWf_ite | with_reducible apply State.memWf_foldl
    | with_reducible apply State.wf_mem | with_reducible apply State.wf_hostMem | split

theorem State.ucAnswer_memWf {s c} (hs : State.memWf s = true) :
    (State.ucAnswer s c).memWf = true := by
  unfold State.ucAnswer
  try dsimp only
  repeat'
    first
    | with_reducible assumption | (intro) | with_reducible apply State.ucRun_memWf | with_reducible apply State.count_memWf
    | with_reducible apply State.drawn_memWf | with_reducible apply State.wrs_memWf | with_reducible apply State.emit_memWf
    | with_reducible apply State.memWf_ite | with_reducible apply State.memWf_foldl | with_reducible apply State.wf_mem
    | with_reducible apply State.wf_hostMem | (simp only [State.mk_memWf, Bool.and_eq_true]; apply And.intro) | split

theorem State.mbxDrop_memWf {s} (hs : State.memWf s = true) :
    (State.mbxDrop s).memWf = true := by
  unfold State.mbxDrop
  try dsimp only
  repeat'
    first
    | with_reducible assumption | (intro) | with_reducible apply State.wr_memWf | with_reducible apply State.memWf_ite
    | with_reducible apply State.memWf_foldl | with_reducible apply State.wf_mem | with_reducible apply State.wf_hostMem
    | (simp only [State.mk_memWf, Bool.and_eq_true]; apply And.intro)

theorem execMbxGo_memWf {s} (hs : State.memWf s = true) :
    Out3.memWf (execMbxGo s) := by
  unfold execMbxGo
  try dsimp only
  repeat'
    first
    | with_reducible assumption | with_reducible apply ok_memWf | (intro) | with_reducible apply State.wr_memWf
    | with_reducible apply State.mbxDrop_memWf | with_reducible apply State.ucAnswer_memWf | with_reducible apply State.memWf_ite
    | with_reducible apply State.memWf_foldl | with_reducible apply State.wf_mem | with_reducible apply State.wf_hostMem
    | (simp only [State.mk_memWf, Bool.and_eq_true]; apply And.intro)

theorem State.serveMbx_memWf {s} (hs : State.memWf s = true) :
    (State.serveMbx s).memWf = true := by
  unfold State.serveMbx
  try dsimp only
  repeat'
    first
    | with_reducible assumption | (intro) | with_reducible apply State.ucAnswer_memWf | with_reducible apply State.mbxDrop_memWf
    | with_reducible apply State.memWf_ite | with_reducible apply State.memWf_foldl | with_reducible apply State.wf_mem
    | with_reducible apply State.wf_hostMem | split

theorem State.take_memWf {s m inRecovery f} (hs : State.memWf s = true) (hf : ∀ a0, State.memWf a0 = true → (f a0).memWf = true) :
    (State.take s m inRecovery f).memWf = true := by
  unfold State.take
  try dsimp only
  repeat'
    first
    | with_reducible assumption | (intro) | with_reducible apply hf | with_reducible apply State.count_memWf
    | with_reducible apply State.serveMbx_memWf | with_reducible apply State.memWf_ite

theorem State.unitCommand_memWf {s cmd q} (hs : State.memWf s = true) :
    (State.unitCommand s cmd q).memWf = true := by
  unfold State.unitCommand
  try dsimp only
  repeat'
    first
    | with_reducible assumption | (intro) | with_reducible apply State.serveMbx_memWf | with_reducible apply State.take_memWf
    | with_reducible apply State.ucAnswer_memWf | with_reducible apply State.memWf_ite | with_reducible apply State.memWf_foldl
    | with_reducible apply State.wf_mem | with_reducible apply State.wf_hostMem | split

theorem execGetUsr_memWf {q s} (hs : State.memWf s = true) :
    Out3.memWf (execGetUsr q s) := by
  unfold execGetUsr
  try dsimp only
  repeat'
    first
    | with_reducible assumption | with_reducible apply ok_memWf | (intro) | with_reducible apply State.unitCommand_memWf

theorem execOnline_memWf {q s} (hs : State.memWf s = true) :
    Out3.memWf (execOnline q s) := by
  unfold execOnline
  try dsimp only
  repeat'
    first
    | with_reducible assumption | with_reducible apply ok_memWf | (intro) | with_reducible apply State.unitCommand_memWf

theorem execOffline_memWf {q s} (hs : State.memWf s = true) :
    Out3.memWf (execOffline q s) := by
  unfold execOffline
  try dsimp only
  repeat'
    first
    | with_reducible assumption | with_reducible apply ok_memWf | (intro) | with_reducible apply State.unitCommand_memWf

theorem execQuarantine_memWf {q s} (hs : State.memWf s = true) :
    Out3.memWf (execQuarantine q s) := by
  unfold execQuarantine
  try dsimp only
  repeat'
    first
    | with_reducible assumption | with_reducible apply ok_memWf | (intro) | with_reducible apply State.unitCommand_memWf

theorem execForceQuarantine_memWf {q s} (hs : State.memWf s = true) :
    Out3.memWf (execForceQuarantine q s) := by
  unfold execForceQuarantine
  try dsimp only
  repeat'
    first
    | with_reducible assumption | with_reducible apply ok_memWf | (intro) | with_reducible apply State.unitCommand_memWf

theorem execFenForm_memWf {q s} (hs : State.memWf s = true) :
    Out3.memWf (execFenForm q s) := by
  unfold execFenForm
  try dsimp only
  repeat'
    first
    | with_reducible assumption | with_reducible apply ok_memWf | (intro) | with_reducible apply State.unitCommand_memWf

theorem execFenDissolve_memWf {q s} (hs : State.memWf s = true) :
    Out3.memWf (execFenDissolve q s) := by
  unfold execFenDissolve
  try dsimp only
  repeat'
    first
    | with_reducible assumption | with_reducible apply ok_memWf | (intro) | with_reducible apply State.unitCommand_memWf

theorem execSvnCommit_memWf {q s} (hs : State.memWf s = true) :
    Out3.memWf (execSvnCommit q s) := by
  unfold execSvnCommit
  try dsimp only
  repeat'
    first
    | with_reducible assumption | with_reducible apply ok_memWf | (intro) | with_reducible apply State.unitCommand_memWf

theorem execFwStatus_memWf {q s} (hs : State.memWf s = true) :
    Out3.memWf (execFwStatus q s) := by
  unfold execFwStatus
  try dsimp only
  repeat'
    first
    | with_reducible assumption | with_reducible apply ok_memWf | (intro) | with_reducible apply State.unitCommand_memWf

theorem execSetPolicy_memWf {q s} (hs : State.memWf s = true) :
    Out3.memWf (execSetPolicy q s) := by
  unfold execSetPolicy
  try dsimp only
  repeat'
    first
    | with_reducible assumption | with_reducible apply ok_memWf | (intro) | with_reducible apply State.unitCommand_memWf

theorem State.applyConfig_memWf {s} (hs : State.memWf s = true) :
    (State.applyConfig s).memWf = true := by
  unfold State.applyConfig
  try dsimp only
  repeat'
    first
    | with_reducible assumption | (intro) | with_reducible apply State.wrs_memWf | with_reducible apply State.wr_memWf
    | with_reducible apply State.memWf_ite | with_reducible apply State.memWf_foldl

theorem State.tryOnline_memWf {s u} (hs : State.memWf s = true) : (State.tryOnline s u).memWf = true := by
  unfold State.tryOnline
  extract_lets keep drop
  have hk : ∀ s : State, s.memWf = true → (keep s).memWf = true := fun _ h => h
  have hd : ∀ s : State, s.memWf = true → (drop s).memWf = true := fun _ h => h
  refine State.memWf_ite (hk _ hs) (State.memWf_ite (hd _ hs) ?_)
  split
  · exact hd _ (State.unitOnline_memWf hs _ (by assumption))
  · exact hk _ hs

theorem State.fenAuto_memWf {s} (hs : State.memWf s = true) :
    (State.fenAuto s).memWf = true := by
  unfold State.fenAuto
  try dsimp only
  repeat'
    first
    | with_reducible assumption | (intro) | with_reducible apply State.fenForm_memWf | with_reducible apply State.memWf_ite
    | with_reducible apply State.memWf_foldl | with_reducible apply State.wf_mem | with_reducible apply State.wf_hostMem
    | (simp only [State.mk_memWf, Bool.and_eq_true]; apply And.intro)

theorem State.bootSlot_memWf {s b cold} (hs : State.memWf s = true) :
    (State.bootSlot s b cold).memWf = true := by
  unfold State.bootSlot
  try dsimp only
  repeat'
    first
    | with_reducible assumption | (intro) | with_reducible apply State.drawn_memWf | with_reducible apply State.wrs_memWf
    | with_reducible apply State.applyConfig_memWf | with_reducible apply State.tryOnline_memWf | with_reducible apply State.fenAuto_memWf
    | with_reducible apply State.memWf_ite | with_reducible apply State.memWf_foldl | with_reducible apply State.wf_mem
    | with_reducible apply State.wf_hostMem | (simp only [State.mk_memWf, Bool.and_eq_true]; apply And.intro)

theorem execBootRom_memWf {s} (hs : State.memWf s = true) :
    Out3.memWf (execBootRom s) := by
  unfold execBootRom
  try dsimp only
  repeat'
    first
    | with_reducible assumption | with_reducible apply ok_memWf | (intro) | with_reducible apply State.settle_memWf
    | with_reducible apply State.bootSlot_memWf | with_reducible apply State.wrs_memWf | with_reducible apply State.memWf_ite
    | with_reducible apply State.memWf_foldl | with_reducible apply State.wf_mem | with_reducible apply State.wf_hostMem | split

theorem execOnlineRetry_memWf {s} (hs : State.memWf s = true) :
    Out3.memWf (execOnlineRetry s) := by
  unfold execOnlineRetry
  try dsimp only
  repeat'
    first
    | with_reducible assumption | with_reducible apply ok_memWf | (intro) | with_reducible apply State.settle_memWf
    | with_reducible apply State.fenAuto_memWf | with_reducible apply State.tryOnline_memWf | with_reducible apply State.memWf_ite
    | with_reducible apply State.memWf_foldl

/-! ### Mctp.lean -/

theorem State.reply_memWf {s m what data} (hs : State.memWf s = true) :
    (State.reply s m what data).memWf = true := by
  unfold State.reply
  try dsimp only
  repeat' first | with_reducible assumption | (intro) | with_reducible apply State.emit_memWf

theorem execSetEndpointId_memWf {m id s} (hs : State.memWf s = true) :
    Out3.memWf (execSetEndpointId m id s) := by
  unfold execSetEndpointId
  try dsimp only
  repeat'
    first
    | with_reducible assumption | with_reducible apply ok_memWf | (intro) | with_reducible apply State.take_memWf
    | with_reducible apply State.reply_memWf | with_reducible apply State.wr_memWf | with_reducible apply State.memWf_ite

theorem execGetEndpointId_memWf {m s} (hs : State.memWf s = true) :
    Out3.memWf (execGetEndpointId m s) := by
  unfold execGetEndpointId
  try dsimp only
  repeat'
    first
    | with_reducible assumption | with_reducible apply ok_memWf | (intro) | with_reducible apply State.take_memWf
    | with_reducible apply State.reply_memWf

theorem execGetEndpointUuid_memWf {m s} (hs : State.memWf s = true) :
    Out3.memWf (execGetEndpointUuid m s) := by
  unfold execGetEndpointUuid
  try dsimp only
  repeat'
    first
    | with_reducible assumption | with_reducible apply ok_memWf | (intro) | with_reducible apply State.take_memWf
    | with_reducible apply State.reply_memWf

theorem execGetMctpVersionSupport_memWf {m s} (hs : State.memWf s = true) :
    Out3.memWf (execGetMctpVersionSupport m s) := by
  unfold execGetMctpVersionSupport
  try dsimp only
  repeat'
    first
    | with_reducible assumption | with_reducible apply ok_memWf | (intro) | with_reducible apply State.take_memWf
    | with_reducible apply State.reply_memWf

theorem execGetMessageTypeSupport_memWf {m s} (hs : State.memWf s = true) :
    Out3.memWf (execGetMessageTypeSupport m s) := by
  unfold execGetMessageTypeSupport
  try dsimp only
  repeat'
    first
    | with_reducible assumption | with_reducible apply ok_memWf | (intro) | with_reducible apply State.take_memWf
    | with_reducible apply State.reply_memWf

theorem execGetVendorDefinedMessageSupport_memWf {m s} (hs : State.memWf s = true) :
    Out3.memWf (execGetVendorDefinedMessageSupport m s) := by
  unfold execGetVendorDefinedMessageSupport
  try dsimp only
  repeat'
    first
    | with_reducible assumption | with_reducible apply ok_memWf | (intro) | with_reducible apply State.take_memWf
    | with_reducible apply State.reply_memWf

theorem execSetTid_memWf {m id s} (hs : State.memWf s = true) :
    Out3.memWf (execSetTid m id s) := by
  unfold execSetTid
  try dsimp only
  repeat'
    first
    | with_reducible assumption | with_reducible apply ok_memWf | (intro) | with_reducible apply State.take_memWf
    | with_reducible apply State.reply_memWf | with_reducible apply State.memWf_ite | with_reducible apply State.memWf_foldl
    | with_reducible apply State.wf_mem | with_reducible apply State.wf_hostMem
    | (simp only [State.mk_memWf, Bool.and_eq_true]; apply And.intro)

theorem execGetTid_memWf {m s} (hs : State.memWf s = true) :
    Out3.memWf (execGetTid m s) := by
  unfold execGetTid
  try dsimp only
  repeat'
    first
    | with_reducible assumption | with_reducible apply ok_memWf | (intro) | with_reducible apply State.take_memWf
    | with_reducible apply State.reply_memWf

theorem execGetPldmVersion_memWf {m ty s} (hs : State.memWf s = true) :
    Out3.memWf (execGetPldmVersion m ty s) := by
  unfold execGetPldmVersion
  try dsimp only
  repeat'
    first
    | with_reducible assumption | with_reducible apply ok_memWf | (intro) | with_reducible apply State.take_memWf
    | with_reducible apply State.reply_memWf

theorem execGetPldmTypes_memWf {m s} (hs : State.memWf s = true) :
    Out3.memWf (execGetPldmTypes m s) := by
  unfold execGetPldmTypes
  try dsimp only
  repeat'
    first
    | with_reducible assumption | with_reducible apply ok_memWf | (intro) | with_reducible apply State.take_memWf
    | with_reducible apply State.reply_memWf

theorem execGetPldmCommands_memWf {m ty s} (hs : State.memWf s = true) :
    Out3.memWf (execGetPldmCommands m ty s) := by
  unfold execGetPldmCommands
  try dsimp only
  repeat'
    first
    | with_reducible assumption | with_reducible apply ok_memWf | (intro) | with_reducible apply State.take_memWf
    | with_reducible apply State.reply_memWf

theorem State.pollOne_memWf {s id} (hs : State.memWf s = true) :
    (State.pollOne s id).memWf = true := by
  unfold State.pollOne
  try dsimp only
  repeat'
    first
    | with_reducible assumption | (intro) | with_reducible apply State.emit_memWf | with_reducible apply State.memWf_ite
    | with_reducible apply State.memWf_foldl | with_reducible apply State.wf_mem | with_reducible apply State.wf_hostMem
    | (simp only [State.mk_memWf, Bool.and_eq_true]; apply And.intro) | split

theorem execSensorPoll_memWf {s} (hs : State.memWf s = true) :
    Out3.memWf (execSensorPoll s) := by
  unfold execSensorPoll
  try dsimp only
  repeat'
    first
    | with_reducible assumption | with_reducible apply ok_memWf | (intro) | with_reducible apply State.settle_memWf
    | with_reducible apply State.fenAuto_memWf | with_reducible apply State.pollOne_memWf | with_reducible apply State.memWf_ite
    | with_reducible apply State.memWf_foldl

theorem execGetPdrRepositoryInfo_memWf {m s} (hs : State.memWf s = true) :
    Out3.memWf (execGetPdrRepositoryInfo m s) := by
  unfold execGetPdrRepositoryInfo
  try dsimp only
  repeat'
    first
    | with_reducible assumption | with_reducible apply ok_memWf | (intro) | with_reducible apply State.take_memWf
    | with_reducible apply State.reply_memWf

theorem execGetPdr_memWf {m handle s} (hs : State.memWf s = true) :
    Out3.memWf (execGetPdr m handle s) := by
  unfold execGetPdr
  try dsimp only
  repeat'
    first
    | with_reducible assumption | with_reducible apply ok_memWf | (intro) | with_reducible apply State.take_memWf
    | with_reducible apply State.reply_memWf

theorem State.sensorReply_memWf {s m what l id} (hs : State.memWf s = true) :
    (State.sensorReply s m what l id).memWf = true := by
  unfold State.sensorReply
  try dsimp only
  repeat' first | with_reducible assumption | (intro) | with_reducible apply State.reply_memWf

theorem execGetSensorReading_memWf {m id s} (hs : State.memWf s = true) :
    Out3.memWf (execGetSensorReading m id s) := by
  unfold execGetSensorReading
  try dsimp only
  repeat'
    first
    | with_reducible assumption | with_reducible apply ok_memWf | (intro) | with_reducible apply State.take_memWf
    | with_reducible apply State.sensorReply_memWf

theorem execGetStateSensorReadings_memWf {m id s} (hs : State.memWf s = true) :
    Out3.memWf (execGetStateSensorReadings m id s) := by
  unfold execGetStateSensorReadings
  try dsimp only
  repeat'
    first
    | with_reducible assumption | with_reducible apply ok_memWf | (intro) | with_reducible apply State.take_memWf
    | with_reducible apply State.sensorReply_memWf

theorem State.sensorEnable_memWf {s m what l id on} (hs : State.memWf s = true) :
    (State.sensorEnable s m what l id on).memWf = true := by
  unfold State.sensorEnable
  try dsimp only
  repeat'
    first
    | with_reducible assumption | (intro) | with_reducible apply State.reply_memWf | with_reducible apply State.memWf_ite
    | with_reducible apply State.memWf_foldl | with_reducible apply State.wf_mem | with_reducible apply State.wf_hostMem
    | (simp only [State.mk_memWf, Bool.and_eq_true]; apply And.intro)

theorem execSetNumericSensorEnable_memWf {m id on s} (hs : State.memWf s = true) :
    Out3.memWf (execSetNumericSensorEnable m id on s) := by
  unfold execSetNumericSensorEnable
  try dsimp only
  repeat'
    first
    | with_reducible assumption | with_reducible apply ok_memWf | (intro) | with_reducible apply State.take_memWf
    | with_reducible apply State.sensorEnable_memWf

theorem execSetStateSensorEnables_memWf {m id on s} (hs : State.memWf s = true) :
    Out3.memWf (execSetStateSensorEnables m id on s) := by
  unfold execSetStateSensorEnables
  try dsimp only
  repeat'
    first
    | with_reducible assumption | with_reducible apply ok_memWf | (intro) | with_reducible apply State.take_memWf
    | with_reducible apply State.sensorEnable_memWf

theorem execSetEventReceiver_memWf {m id s} (hs : State.memWf s = true) :
    Out3.memWf (execSetEventReceiver m id s) := by
  unfold execSetEventReceiver
  try dsimp only
  repeat'
    first
    | with_reducible assumption | with_reducible apply ok_memWf | (intro) | with_reducible apply State.take_memWf
    | with_reducible apply State.reply_memWf | with_reducible apply State.memWf_ite | with_reducible apply State.memWf_foldl
    | with_reducible apply State.wf_mem | with_reducible apply State.wf_hostMem
    | (simp only [State.mk_memWf, Bool.and_eq_true]; apply And.intro)

theorem execGetEventReceiver_memWf {m s} (hs : State.memWf s = true) :
    Out3.memWf (execGetEventReceiver m s) := by
  unfold execGetEventReceiver
  try dsimp only
  repeat'
    first
    | with_reducible assumption | with_reducible apply ok_memWf | (intro) | with_reducible apply State.take_memWf
    | with_reducible apply State.reply_memWf

theorem State.setUpd_memWf {s u} (hs : State.memWf s = true) :
    (State.setUpd s u).memWf = true := by
  unfold State.setUpd
  try dsimp only
  repeat'
    first
    | with_reducible assumption | (intro) | with_reducible apply State.wr_memWf | with_reducible apply State.memWf_ite
    | with_reducible apply State.memWf_foldl | with_reducible apply State.wf_mem | with_reducible apply State.wf_hostMem
    | (simp only [State.mk_memWf, Bool.and_eq_true]; apply And.intro)

theorem execQueryDeviceIdentifiers_memWf {m s} (hs : State.memWf s = true) :
    Out3.memWf (execQueryDeviceIdentifiers m s) := by
  unfold execQueryDeviceIdentifiers
  try dsimp only
  repeat'
    first
    | with_reducible assumption | with_reducible apply ok_memWf | (intro) | with_reducible apply State.take_memWf
    | with_reducible apply State.reply_memWf

theorem execGetFirmwareParameters_memWf {m s} (hs : State.memWf s = true) :
    Out3.memWf (execGetFirmwareParameters m s) := by
  unfold execGetFirmwareParameters
  try dsimp only
  repeat'
    first
    | with_reducible assumption | with_reducible apply ok_memWf | (intro) | with_reducible apply State.take_memWf
    | with_reducible apply State.reply_memWf

theorem execRequestUpdate_memWf {m s} (hs : State.memWf s = true) :
    Out3.memWf (execRequestUpdate m s) := by
  unfold execRequestUpdate
  try dsimp only
  repeat'
    first
    | with_reducible assumption | with_reducible apply ok_memWf | (intro) | with_reducible apply State.take_memWf
    | with_reducible apply State.reply_memWf | with_reducible apply State.setUpd_memWf | with_reducible apply State.memWf_ite

theorem execPassComponentTable_memWf {m id s} (hs : State.memWf s = true) :
    Out3.memWf (execPassComponentTable m id s) := by
  unfold execPassComponentTable
  try dsimp only
  repeat'
    first
    | with_reducible assumption | with_reducible apply ok_memWf | (intro) | with_reducible apply State.take_memWf
    | with_reducible apply State.reply_memWf | with_reducible apply State.setUpd_memWf | with_reducible apply State.memWf_ite
    | with_reducible apply State.memWf_foldl | with_reducible apply State.wf_mem | with_reducible apply State.wf_hostMem | split

theorem State.eraseSlot_memWf {s b} (hs : State.memWf s = true) :
    (State.eraseSlot s b).memWf = true := by
  unfold State.eraseSlot
  try dsimp only
  repeat'
    first
    | with_reducible assumption | (intro) | with_reducible apply State.memWf_ite | with_reducible apply State.memWf_foldl
    | with_reducible apply State.wf_mem | with_reducible apply State.wf_hostMem
    | (simp only [State.mk_memWf, Bool.and_eq_true]; apply And.intro)

theorem State.askData_memWf {s m u} (hs : State.memWf s = true) :
    (State.askData s m u).memWf = true := by
  unfold State.askData
  try dsimp only
  repeat' first | with_reducible assumption | (intro) | with_reducible apply State.reply_memWf

theorem execUpdateComponent_memWf {m id size s} (hs : State.memWf s = true) :
    Out3.memWf (execUpdateComponent m id size s) := by
  unfold execUpdateComponent
  try dsimp only
  repeat'
    first
    | with_reducible assumption | with_reducible apply ok_memWf | (intro) | with_reducible apply State.take_memWf
    | with_reducible apply State.askData_memWf | with_reducible apply State.reply_memWf | with_reducible apply State.setUpd_memWf
    | with_reducible apply State.eraseSlot_memWf | with_reducible apply State.memWf_ite | with_reducible apply State.memWf_foldl
    | with_reducible apply State.wf_mem | with_reducible apply State.wf_hostMem | split

theorem State.putFlash_memWf {s a l} (hs : State.memWf s = true) :
    (State.putFlash s a l).memWf = true := by
  unfold State.putFlash
  try dsimp only
  repeat'
    first
    | with_reducible assumption | (intro) | with_reducible apply State.memWf_ite | with_reducible apply State.memWf_foldl
    | with_reducible apply State.wf_mem | with_reducible apply State.wf_hostMem
    | (simp only [State.mk_memWf, Bool.and_eq_true]; apply And.intro)

theorem execFirmwareDataReceive_memWf {m data s} (hs : State.memWf s = true) :
    Out3.memWf (execFirmwareDataReceive m data s) := by
  unfold execFirmwareDataReceive
  try dsimp only
  repeat'
    first
    | with_reducible assumption | with_reducible apply ok_memWf | (intro) | with_reducible apply State.take_memWf
    | with_reducible apply State.setUpd_memWf | with_reducible apply State.putFlash_memWf | with_reducible apply State.askData_memWf
    | with_reducible apply State.reply_memWf | with_reducible apply State.memWf_ite | with_reducible apply State.memWf_foldl
    | with_reducible apply State.wf_mem | with_reducible apply State.wf_hostMem | split

theorem execActivateFirmware_memWf {m selfContained s} (hs : State.memWf s = true) :
    Out3.memWf (execActivateFirmware m selfContained s) := by
  unfold execActivateFirmware
  try dsimp only
  repeat'
    first
    | with_reducible assumption | with_reducible apply ok_memWf | (intro) | with_reducible apply State.take_memWf
    | with_reducible apply State.setUpd_memWf | with_reducible apply State.reply_memWf | with_reducible apply State.wr_memWf
    | with_reducible apply State.mbxDrop_memWf | with_reducible apply State.memWf_ite | with_reducible apply State.memWf_foldl
    | with_reducible apply State.wf_mem | with_reducible apply State.wf_hostMem
    | (simp only [State.mk_memWf, Bool.and_eq_true]; apply And.intro) | split

theorem execGetStatus_memWf {m s} (hs : State.memWf s = true) :
    Out3.memWf (execGetStatus m s) := by
  unfold execGetStatus
  try dsimp only
  repeat'
    first
    | with_reducible assumption | with_reducible apply ok_memWf | (intro) | with_reducible apply State.take_memWf
    | with_reducible apply State.reply_memWf

theorem execCancelUpdateComponent_memWf {m s} (hs : State.memWf s = true) :
    Out3.memWf (execCancelUpdateComponent m s) := by
  unfold execCancelUpdateComponent
  try dsimp only
  repeat'
    first
    | with_reducible assumption | with_reducible apply ok_memWf | (intro) | with_reducible apply State.take_memWf
    | with_reducible apply State.reply_memWf | with_reducible apply State.setUpd_memWf | with_reducible apply State.memWf_ite
    | with_reducible apply State.memWf_foldl | with_reducible apply State.wf_mem | with_reducible apply State.wf_hostMem | split

theorem execCancelUpdate_memWf {m s} (hs : State.memWf s = true) :
    Out3.memWf (execCancelUpdate m s) := by
  unfold execCancelUpdate
  try dsimp only
  repeat'
    first
    | with_reducible assumption | with_reducible apply ok_memWf | (intro) | with_reducible apply State.take_memWf
    | with_reducible apply State.reply_memWf | with_reducible apply State.setUpd_memWf | with_reducible apply State.memWf_ite

theorem State.setSpdm_memWf {s n} (hs : State.memWf s = true) :
    (State.setSpdm s n).memWf = true := by
  unfold State.setSpdm
  try dsimp only
  repeat'
    first
    | with_reducible assumption | (intro) | with_reducible apply State.memWf_ite | with_reducible apply State.memWf_foldl
    | with_reducible apply State.wf_mem | with_reducible apply State.wf_hostMem
    | (simp only [State.mk_memWf, Bool.and_eq_true]; apply And.intro)

theorem execGetVersion_memWf {m s} (hs : State.memWf s = true) :
    Out3.memWf (execGetVersion m s) := by
  unfold execGetVersion
  try dsimp only
  repeat'
    first
    | with_reducible assumption | with_reducible apply ok_memWf | (intro) | with_reducible apply State.take_memWf
    | with_reducible apply State.reply_memWf | with_reducible apply State.setSpdm_memWf

theorem execGetCapabilities_memWf {m s} (hs : State.memWf s = true) :
    Out3.memWf (execGetCapabilities m s) := by
  unfold execGetCapabilities
  try dsimp only
  repeat'
    first
    | with_reducible assumption | with_reducible apply ok_memWf | (intro) | with_reducible apply State.take_memWf
    | with_reducible apply State.reply_memWf | with_reducible apply State.setSpdm_memWf | with_reducible apply State.memWf_ite

theorem execNegotiateAlgorithms_memWf {m supported s} (hs : State.memWf s = true) :
    Out3.memWf (execNegotiateAlgorithms m supported s) := by
  unfold execNegotiateAlgorithms
  try dsimp only
  repeat'
    first
    | with_reducible assumption | with_reducible apply ok_memWf | (intro) | with_reducible apply State.take_memWf
    | with_reducible apply State.reply_memWf | with_reducible apply State.setSpdm_memWf | with_reducible apply State.memWf_ite

theorem State.spdmDo_memWf {s m good f} (hs : State.memWf s = true) (hf : ∀ a0, State.memWf a0 = true → (f a0).memWf = true) :
    (State.spdmDo s m good f).memWf = true := by
  unfold State.spdmDo
  try dsimp only
  repeat'
    first
    | with_reducible assumption | (intro) | with_reducible apply hf | with_reducible apply State.reply_memWf
    | with_reducible apply State.memWf_ite

theorem execGetDigests_memWf {m s} (hs : State.memWf s = true) :
    Out3.memWf (execGetDigests m s) := by
  unfold execGetDigests
  try dsimp only
  repeat'
    first
    | with_reducible assumption | with_reducible apply ok_memWf | (intro) | with_reducible apply State.take_memWf
    | with_reducible apply State.spdmDo_memWf | with_reducible apply State.reply_memWf

theorem execGetCertificate_memWf {m slot off len s} (hs : State.memWf s = true) :
    Out3.memWf (execGetCertificate m slot off len s) := by
  unfold execGetCertificate
  try dsimp only
  repeat'
    first
    | with_reducible assumption | with_reducible apply ok_memWf | (intro) | with_reducible apply State.take_memWf
    | with_reducible apply State.spdmDo_memWf | with_reducible apply State.reply_memWf

theorem execChallenge_memWf {m slot s} (hs : State.memWf s = true) :
    Out3.memWf (execChallenge m slot s) := by
  unfold execChallenge
  try dsimp only
  repeat'
    first
    | with_reducible assumption | with_reducible apply ok_memWf | (intro) | with_reducible apply State.take_memWf
    | with_reducible apply State.spdmDo_memWf | with_reducible apply State.reply_memWf

theorem execGetMeasurements_memWf {m index s} (hs : State.memWf s = true) :
    Out3.memWf (execGetMeasurements m index s) := by
  unfold execGetMeasurements
  try dsimp only
  repeat'
    first
    | with_reducible assumption | with_reducible apply ok_memWf | (intro) | with_reducible apply State.take_memWf
    | with_reducible apply State.spdmDo_memWf | with_reducible apply State.reply_memWf

theorem State.setSession_memWf {s id x} (hs : State.memWf s = true) :
    (State.setSession s id x).memWf = true := by
  unfold State.setSession
  try dsimp only
  repeat'
    first
    | with_reducible assumption | (intro) | with_reducible apply State.memWf_ite | with_reducible apply State.memWf_foldl
    | with_reducible apply State.wf_mem | with_reducible apply State.wf_hostMem
    | (simp only [State.mk_memWf, Bool.and_eq_true]; apply And.intro)

theorem execKeyExchange_memWf {m id s} (hs : State.memWf s = true) :
    Out3.memWf (execKeyExchange m id s) := by
  unfold execKeyExchange
  try dsimp only
  repeat'
    first
    | with_reducible assumption | with_reducible apply ok_memWf | (intro) | with_reducible apply State.take_memWf
    | with_reducible apply State.spdmDo_memWf | with_reducible apply State.reply_memWf | with_reducible apply State.setSession_memWf

theorem execFinish_memWf {m id valid s} (hs : State.memWf s = true) :
    Out3.memWf (execFinish m id valid s) := by
  unfold execFinish
  try dsimp only
  repeat'
    first
    | with_reducible assumption | with_reducible apply ok_memWf | (intro) | with_reducible apply State.take_memWf
    | with_reducible apply State.reply_memWf | with_reducible apply State.setSession_memWf | with_reducible apply State.memWf_ite
    | with_reducible apply State.memWf_foldl | with_reducible apply State.wf_mem | with_reducible apply State.wf_hostMem | split

theorem State.inSession_memWf {s m id f} (hs : State.memWf s = true) (hf : ∀ a0, (f a0).memWf = true) :
    (State.inSession s m id f).memWf = true := by
  unfold State.inSession
  try dsimp only
  repeat'
    first
    | with_reducible assumption | (intro) | with_reducible apply hf | with_reducible apply State.reply_memWf
    | with_reducible apply State.memWf_ite | with_reducible apply State.memWf_foldl | with_reducible apply State.wf_mem
    | with_reducible apply State.wf_hostMem | split

theorem execHeartbeat_memWf {m id s} (hs : State.memWf s = true) :
    Out3.memWf (execHeartbeat m id s) := by
  unfold execHeartbeat
  try dsimp only
  repeat'
    first
    | with_reducible assumption | with_reducible apply ok_memWf | (intro) | with_reducible apply State.take_memWf
    | with_reducible apply State.inSession_memWf | with_reducible apply State.reply_memWf

theorem execKeyUpdate_memWf {m id s} (hs : State.memWf s = true) :
    Out3.memWf (execKeyUpdate m id s) := by
  unfold execKeyUpdate
  try dsimp only
  repeat'
    first
    | with_reducible assumption | with_reducible apply ok_memWf | (intro) | with_reducible apply State.take_memWf
    | with_reducible apply State.inSession_memWf | with_reducible apply State.reply_memWf | with_reducible apply State.setSession_memWf

theorem execEndSession_memWf {m id s} (hs : State.memWf s = true) :
    Out3.memWf (execEndSession m id s) := by
  unfold execEndSession
  try dsimp only
  repeat'
    first
    | with_reducible assumption | with_reducible apply ok_memWf | (intro) | with_reducible apply State.take_memWf
    | with_reducible apply State.inSession_memWf | with_reducible apply State.reply_memWf | with_reducible apply State.setSession_memWf

/-! ### Pins.lean -/

theorem execModuleInterrupt_memWf {k s} (hs : State.memWf s = true) :
    Out3.memWf (execModuleInterrupt k s) := by
  unfold execModuleInterrupt
  try dsimp only
  repeat'
    first
    | with_reducible assumption | with_reducible apply ok_memWf | (intro) | with_reducible apply State.emit_memWf
    | with_reducible apply State.memWf_ite | with_reducible apply State.memWf_foldl

theorem execSmbusClockLowTimeout_memWf {s} (hs : State.memWf s = true) :
    Out3.memWf (execSmbusClockLowTimeout s) := by
  unfold execSmbusClockLowTimeout
  try dsimp only
  repeat'
    first
    | with_reducible assumption | with_reducible apply ok_memWf | (intro) | with_reducible apply State.emit_memWf
    | with_reducible apply State.memWf_ite

theorem State.tck_memWf {s tms tdi} (hs : State.memWf s = true) :
    (State.tck s tms tdi).memWf = true := by
  unfold State.tck
  try dsimp only
  repeat'
    first
    | with_reducible assumption | (intro) | with_reducible apply State.emit_memWf | with_reducible apply State.memWf_ite
    | with_reducible apply State.memWf_foldl | with_reducible apply State.wf_mem | with_reducible apply State.wf_hostMem
    | (simp only [State.mk_memWf, Bool.and_eq_true]; apply And.intro)

theorem execBoundaryScan_memWf {tms tdi trst s} (hs : State.memWf s = true) :
    Out3.memWf (execBoundaryScan tms tdi trst s) := by
  unfold execBoundaryScan
  try dsimp only
  repeat'
    first
    | with_reducible assumption | with_reducible apply ok_memWf | (intro) | with_reducible apply State.drawn_memWf
    | with_reducible apply State.tck_memWf | with_reducible apply State.memWf_ite | with_reducible apply State.memWf_foldl
    | with_reducible apply State.wf_mem | with_reducible apply State.wf_hostMem
    | (simp only [State.mk_memWf, Bool.and_eq_true]; apply And.intro)

/-! ### RegWrite.lean -/

theorem State.fieldPut_memWf {s f inst idx w_} (hs : State.memWf s = true) :
    (State.fieldPut s f inst idx w_).memWf = true := by
  unfold State.fieldPut
  try dsimp only
  repeat'
    first
    | with_reducible assumption | (intro) | with_reducible apply State.wr_memWf | with_reducible apply State.memWf_ite
    | with_reducible apply State.memWf_foldl | with_reducible apply State.wf_mem | with_reducible apply State.wf_hostMem | split

theorem State.regPut_memWf {s l inst idx w_} (hs : State.memWf s = true) :
    (State.regPut s l inst idx w_).memWf = true := by
  unfold State.regPut
  try dsimp only
  repeat'
    first
    | with_reducible assumption | (intro) | with_reducible apply State.fieldPut_memWf | with_reducible apply State.memWf_ite
    | with_reducible apply State.memWf_foldl

theorem State.after_memWf {s o} (hs : State.memWf s = true) (ho : Out3.memWf o) :
    (State.after s o).memWf = true := by
  cases o with
  | next w => exact ho w rfl | fault _ => exact hs | refused _ => exact hs

theorem State.lepWrite_memWf {s l f t i w_} (hs : State.memWf s = true) :
    (State.lepWrite s l f t i w_).memWf = true := by
  unfold State.lepWrite
  try dsimp only
  repeat'
    first
    | with_reducible assumption | with_reducible apply execChannelEnable_memWf | with_reducible apply execChannelDisable_memWf
    | with_reducible apply execGroupEnable_memWf | with_reducible apply execQueueEnable_memWf | with_reducible apply execQueueDisable_memWf
    | (intro) | with_reducible apply State.regPut_memWf | with_reducible apply State.after_memWf
    | with_reducible apply State.groupDisable_memWf | with_reducible apply State.onQueue_memWf | with_reducible apply State.memWf_ite

theorem State.hiuWrite_memWf {s l f fn inst i off w_} (hs : State.memWf s = true) :
    (State.hiuWrite s l f fn inst i off w_).memWf = true := by
  unfold State.hiuWrite
  try dsimp only
  repeat'
    first
    | with_reducible assumption | with_reducible apply execDoorbell_memWf | with_reducible apply execRingEnable_memWf
    | with_reducible apply execRingDisable_memWf | with_reducible apply execRingReset_memWf | with_reducible apply execCqHeadWrite_memWf
    | with_reducible apply execRingProgSelWrite_memWf | with_reducible apply execPartEnable_memWf | with_reducible apply execPartDisable_memWf
    | (intro) | with_reducible apply State.regPut_memWf | with_reducible apply State.after_memWf | with_reducible apply State.memWf_ite

theorem State.tileWrite_memWf {s l f fn t i w_} (hs : State.memWf s = true) :
    (State.tileWrite s l f fn t i w_).memWf = true := by
  unfold State.tileWrite
  try dsimp only
  repeat'
    first
    | with_reducible assumption | with_reducible apply execTccIcinv_memWf | with_reducible apply execProgSelWrite_memWf
    | with_reducible apply execNanResumeGo_memWf | with_reducible apply execTmuInv_memWf | with_reducible apply execTpcWake_memWf
    | with_reducible apply execTpcOff_memWf | with_reducible apply execTpcOn_memWf | (intro) | with_reducible apply State.regPut_memWf
    | with_reducible apply State.after_memWf | with_reducible apply State.wrs_memWf | with_reducible apply State.kvRun_memWf
    | with_reducible apply State.onTile_memWf | with_reducible apply State.memWf_ite | with_reducible apply State.memWf_foldl
    | with_reducible apply State.wf_mem | with_reducible apply State.wf_hostMem | split

theorem State.deviceWrite_memWf {s l f inst i w_} (hs : State.memWf s = true) :
    (State.deviceWrite s l f inst i w_).memWf = true := by
  unfold State.deviceWrite
  try dsimp only
  repeat'
    first
    | with_reducible assumption | with_reducible apply execPortEnable_memWf | with_reducible apply execPortDisable_memWf
    | with_reducible apply execTbuSetNs_memWf | with_reducible apply execFenstopClr_memWf | with_reducible apply execLogSelWrite_memWf
    | with_reducible apply execFltInject_memWf | with_reducible apply execFenCtlDissolve_memWf | with_reducible apply execFenCtlForm_memWf
    | with_reducible apply execMbxGo_memWf | (intro) | with_reducible apply State.regPut_memWf | with_reducible apply State.after_memWf
    | with_reducible apply State.ppsGate_memWf | with_reducible apply State.ppsRole_memWf | with_reducible apply State.memWf_ite
    | with_reducible apply State.memWf_foldl | with_reducible apply State.wf_mem | with_reducible apply State.wf_hostMem
    | (simp only [State.mk_memWf, Bool.and_eq_true]; apply And.intro)

theorem State.regWrite_memWf {s l f fn inst i off w_} (hs : State.memWf s = true) :
    (State.regWrite s l f fn inst i off w_).memWf = true := by
  unfold State.regWrite
  try dsimp only
  repeat'
    first
    | with_reducible assumption | (intro) | with_reducible apply State.lepWrite_memWf | with_reducible apply State.hiuWrite_memWf
    | with_reducible apply State.deviceWrite_memWf | with_reducible apply State.tileWrite_memWf | with_reducible apply State.memWf_ite
    | with_reducible apply State.memWf_foldl | with_reducible apply State.wf_mem | with_reducible apply State.wf_hostMem | split

theorem execRegisterWrite_memWf {fn off width val s} (hs : State.memWf s = true) :
    Out3.memWf (execRegisterWrite fn off width val s) := by
  unfold execRegisterWrite
  try dsimp only
  repeat'
    first
    | with_reducible assumption | with_reducible apply ok_memWf | (intro) | with_reducible apply State.emit_memWf
    | with_reducible apply State.settle_memWf | with_reducible apply State.regWrite_memWf | with_reducible apply State.memWf_ite
    | with_reducible apply State.memWf_foldl | with_reducible apply State.wf_mem | with_reducible apply State.wf_hostMem | split

/-! ### Tick.lean -/

theorem State.tileCycles_memWf {s t n} (hs : State.memWf s = true) :
    (State.tileCycles s t n).memWf = true := by
  unfold State.tileCycles
  try dsimp only
  repeat'
    first
    | with_reducible assumption | (intro) | with_reducible apply State.count_memWf | with_reducible apply State.onTile_memWf
    | with_reducible apply State.memWf_ite

theorem State.tileMicro_memWf {s t} (hs : State.memWf s = true) :
    (State.tileMicro s t).memWf = true := by
  unfold State.tileMicro
  try dsimp only
  repeat'
    first
    | with_reducible assumption | (intro) | with_reducible apply State.count_memWf | with_reducible apply State.memWf_ite
    | with_reducible apply State.memWf_foldl | with_reducible apply State.wf_mem | with_reducible apply State.wf_hostMem | split

theorem State.countTick_memWf {s} (hs : State.memWf s = true) :
    (State.countTick s).memWf = true := by
  unfold State.countTick
  try dsimp only
  repeat'
    first
    | with_reducible assumption | (intro) | with_reducible apply State.phaseOff_memWf | with_reducible apply State.memWf_ite
    | with_reducible apply State.memWf_foldl | with_reducible apply State.wf_mem | with_reducible apply State.wf_hostMem
    | (simp only [State.mk_memWf, Bool.and_eq_true]; apply And.intro)

theorem State.refTick_memWf {s} (hs : State.memWf s = true) :
    (State.refTick s).memWf = true := by
  unfold State.refTick
  try dsimp only
  repeat'
    first
    | with_reducible assumption | (intro) | with_reducible apply State.emit_memWf | with_reducible apply State.memWf_ite
    | with_reducible apply State.memWf_foldl | with_reducible apply State.wf_mem | with_reducible apply State.wf_hostMem
    | (simp only [State.mk_memWf, Bool.and_eq_true]; apply And.intro)

theorem State.tick_memWf {s} (hs : State.memWf s = true) :
    (State.tick s).memWf = true := by
  unfold State.tick
  try dsimp only
  repeat'
    first
    | with_reducible assumption | (intro) | with_reducible apply State.refTick_memWf | with_reducible apply State.countTick_memWf
    | with_reducible apply State.tileCycles_memWf | with_reducible apply State.tileMicro_memWf | with_reducible apply State.count_memWf
    | with_reducible apply State.drawn_memWf | with_reducible apply State.relaxLand_memWf | with_reducible apply State.memWf_ite
    | with_reducible apply State.memWf_foldl

/-! ### Step.lean -/

theorem State.withFetchWord_memWf {s nbits w_} (hs : State.memWf s = true) :
    (State.withFetchWord s nbits w_).memWf = true := by
  unfold State.withFetchWord
  try dsimp only
  repeat'
    first
    | with_reducible assumption | (intro) | with_reducible apply State.memWf_ite | with_reducible apply State.memWf_foldl
    | with_reducible apply State.wf_mem | with_reducible apply State.wf_hostMem
    | (simp only [State.mk_memWf, Bool.and_eq_true]; apply And.intro) | split

/-! ### Safety.lean -/

theorem State.sought_memWf {s t th} (hs : State.memWf s = true) :
    (State.sought s t th).memWf = true := by
  unfold State.sought
  try dsimp only
  repeat' first | with_reducible assumption | (intro) | with_reducible apply State.fetchReach_memWf

theorem State.fetched_memWf {s t th word} (hs : State.memWf s = true) :
    (State.fetched s t th word).memWf = true := by
  unfold State.fetched
  try dsimp only
  repeat'
    first
    | with_reducible assumption | (intro) | with_reducible apply State.count_memWf | with_reducible apply State.cacheInsn_memWf
    | with_reducible apply State.sought_memWf

theorem State.fetchedT_memWf {s t h_ word} (hs : State.memWf s = true) :
    (State.fetchedT s t h_ word).memWf = true := by
  unfold State.fetchedT
  try dsimp only
  repeat'
    first
    | with_reducible assumption | (intro) | with_reducible apply State.count_memWf | with_reducible apply State.cacheInsn_memWf
    | with_reducible apply State.fetchReach_memWf

end Sys2Proof.Machine
end

