-- ==== Sys2Proof/Laws/State.lean ====
section
/-! SUPPORT. One lemma per field of State per basic update: what the update leaves as it was; and what reading a register, a tile or
a thread gives after each. -/
namespace Sys2Proof.Machine

variable (s : State)

/-! ### wr -/

@[simp] theorem State.wr_tiles (f : Fld) (i v x : Nat) : (s.wr f i v x).tiles = s.tiles := rfl
@[simp] theorem State.wr_fns (f : Fld) (i v x : Nat) : (s.wr f i v x).fns = s.fns := rfl
@[simp] theorem State.wr_served (f : Fld) (i v x : Nat) : (s.wr f i v x).served = s.served := rfl
@[simp] theorem State.wr_seen (f : Fld) (i v x : Nat) : (s.wr f i v x).seen = s.seen := rfl
@[simp] theorem State.wr_mem (f : Fld) (i v x : Nat) : (s.wr f i v x).mem = s.mem := rfl
@[simp] theorem State.wr_hostMem (f : Fld) (i v x : Nat) : (s.wr f i v x).hostMem = s.hostMem := rfl
@[simp] theorem State.wr_relaxed (f : Fld) (i v x : Nat) : (s.wr f i v x).relaxed = s.relaxed := rfl
@[simp] theorem State.wr_poison (f : Fld) (i v x : Nat) : (s.wr f i v x).poison = s.poison := rfl
@[simp] theorem State.wr_net (f : Fld) (i v x : Nat) : (s.wr f i v x).net = s.net := rfl
@[simp] theorem State.wr_mroute (f : Fld) (i v x : Nat) : (s.wr f i v x).mroute = s.mroute := rfl
@[simp] theorem State.wr_comb (f : Fld) (i v x : Nat) : (s.wr f i v x).comb = s.comb := rfl
@[simp] theorem State.wr_ck (f : Fld) (i v x : Nat) : (s.wr f i v x).ck = s.ck := rfl
@[simp] theorem State.wr_ports (f : Fld) (i v x : Nat) : (s.wr f i v x).ports = s.ports := rfl
@[simp] theorem State.wr_rx (f : Fld) (i v x : Nat) : (s.wr f i v x).rx = s.rx := rfl
@[simp] theorem State.wr_rem (f : Fld) (i v x : Nat) : (s.wr f i v x).rem = s.rem := rfl
@[simp] theorem State.wr_remWait (f : Fld) (i v x : Nat) : (s.wr f i v x).remWait = s.remWait := rfl
@[simp] theorem State.wr_fen (f : Fld) (i v x : Nat) : (s.wr f i v x).fen = s.fen := rfl
@[simp] theorem State.wr_ns (f : Fld) (i v x : Nat) : (s.wr f i v x).ns = s.ns := rfl
@[simp] theorem State.wr_frac (f : Fld) (i v x : Nat) : (s.wr f i v x).frac = s.frac := rfl
@[simp] theorem State.wr_log (f : Fld) (i v x : Nat) : (s.wr f i v x).log = s.log := rfl
@[simp] theorem State.wr_reports (f : Fld) (i v x : Nat) : (s.wr f i v x).reports = s.reports := rfl
@[simp] theorem State.wr_flt (f : Fld) (i v x : Nat) : (s.wr f i v x).flt = s.flt := rfl
@[simp] theorem State.wr_tbu (f : Fld) (i v x : Nat) : (s.wr f i v x).tbu = s.tbu := rfl
@[simp] theorem State.wr_pcm (f : Fld) (i v x : Nat) : (s.wr f i v x).pcm = s.pcm := rfl
@[simp] theorem State.wr_frv (f : Fld) (i v x : Nat) : (s.wr f i v x).frv = s.frv := rfl
@[simp] theorem State.wr_pins (f : Fld) (i v x : Nat) : (s.wr f i v x).pins = s.pins := rfl
@[simp] theorem State.wr_out (f : Fld) (i v x : Nat) : (s.wr f i v x).out = s.out := rfl
@[simp] theorem State.wr_freeCtr (f : Fld) (i v x : Nat) : (s.wr f i v x).freeCtr = s.freeCtr := rfl
@[simp] theorem State.wr_pending (f : Fld) (i v x : Nat) : (s.wr f i v x).pending = s.pending := rfl

/-! ### count -/

@[simp] theorem State.count_tiles (f : Fld) (i n x : Nat) : (s.count f i n x).tiles = s.tiles := rfl
@[simp] theorem State.count_fns (f : Fld) (i n x : Nat) : (s.count f i n x).fns = s.fns := rfl
@[simp] theorem State.count_served (f : Fld) (i n x : Nat) : (s.count f i n x).served = s.served := rfl
@[simp] theorem State.count_seen (f : Fld) (i n x : Nat) : (s.count f i n x).seen = s.seen := rfl
@[simp] theorem State.count_mem (f : Fld) (i n x : Nat) : (s.count f i n x).mem = s.mem := rfl
@[simp] theorem State.count_hostMem (f : Fld) (i n x : Nat) : (s.count f i n x).hostMem = s.hostMem := rfl
@[simp] theorem State.count_relaxed (f : Fld) (i n x : Nat) : (s.count f i n x).relaxed = s.relaxed := rfl
@[simp] theorem State.count_poison (f : Fld) (i n x : Nat) : (s.count f i n x).poison = s.poison := rfl
@[simp] theorem State.count_net (f : Fld) (i n x : Nat) : (s.count f i n x).net = s.net := rfl
@[simp] theorem State.count_mroute (f : Fld) (i n x : Nat) : (s.count f i n x).mroute = s.mroute := rfl
@[simp] theorem State.count_comb (f : Fld) (i n x : Nat) : (s.count f i n x).comb = s.comb := rfl
@[simp] theorem State.count_ck (f : Fld) (i n x : Nat) : (s.count f i n x).ck = s.ck := rfl
@[simp] theorem State.count_ports (f : Fld) (i n x : Nat) : (s.count f i n x).ports = s.ports := rfl
@[simp] theorem State.count_rx (f : Fld) (i n x : Nat) : (s.count f i n x).rx = s.rx := rfl
@[simp] theorem State.count_rem (f : Fld) (i n x : Nat) : (s.count f i n x).rem = s.rem := rfl
@[simp] theorem State.count_remWait (f : Fld) (i n x : Nat) : (s.count f i n x).remWait = s.remWait := rfl
@[simp] theorem State.count_fen (f : Fld) (i n x : Nat) : (s.count f i n x).fen = s.fen := rfl
@[simp] theorem State.count_ns (f : Fld) (i n x : Nat) : (s.count f i n x).ns = s.ns := rfl
@[simp] theorem State.count_frac (f : Fld) (i n x : Nat) : (s.count f i n x).frac = s.frac := rfl
@[simp] theorem State.count_log (f : Fld) (i n x : Nat) : (s.count f i n x).log = s.log := rfl
@[simp] theorem State.count_reports (f : Fld) (i n x : Nat) : (s.count f i n x).reports = s.reports := rfl
@[simp] theorem State.count_flt (f : Fld) (i n x : Nat) : (s.count f i n x).flt = s.flt := rfl
@[simp] theorem State.count_tbu (f : Fld) (i n x : Nat) : (s.count f i n x).tbu = s.tbu := rfl
@[simp] theorem State.count_pcm (f : Fld) (i n x : Nat) : (s.count f i n x).pcm = s.pcm := rfl
@[simp] theorem State.count_frv (f : Fld) (i n x : Nat) : (s.count f i n x).frv = s.frv := rfl
@[simp] theorem State.count_pins (f : Fld) (i n x : Nat) : (s.count f i n x).pins = s.pins := rfl
@[simp] theorem State.count_out (f : Fld) (i n x : Nat) : (s.count f i n x).out = s.out := rfl
@[simp] theorem State.count_freeCtr (f : Fld) (i n x : Nat) : (s.count f i n x).freeCtr = s.freeCtr := rfl
@[simp] theorem State.count_pending (f : Fld) (i n x : Nat) : (s.count f i n x).pending = s.pending := rfl

/-! ### setTile -/

@[simp] theorem State.setTile_regs (t : Fin 8) (x : Tile) : (s.setTile t x).regs = s.regs := rfl
@[simp] theorem State.setTile_fns (t : Fin 8) (x : Tile) : (s.setTile t x).fns = s.fns := rfl
@[simp] theorem State.setTile_served (t : Fin 8) (x : Tile) : (s.setTile t x).served = s.served := rfl
@[simp] theorem State.setTile_seen (t : Fin 8) (x : Tile) : (s.setTile t x).seen = s.seen := rfl
@[simp] theorem State.setTile_mem (t : Fin 8) (x : Tile) : (s.setTile t x).mem = s.mem := rfl
@[simp] theorem State.setTile_hostMem (t : Fin 8) (x : Tile) : (s.setTile t x).hostMem = s.hostMem := rfl
@[simp] theorem State.setTile_relaxed (t : Fin 8) (x : Tile) : (s.setTile t x).relaxed = s.relaxed := rfl
@[simp] theorem State.setTile_poison (t : Fin 8) (x : Tile) : (s.setTile t x).poison = s.poison := rfl
@[simp] theorem State.setTile_net (t : Fin 8) (x : Tile) : (s.setTile t x).net = s.net := rfl
@[simp] theorem State.setTile_mroute (t : Fin 8) (x : Tile) : (s.setTile t x).mroute = s.mroute := rfl
@[simp] theorem State.setTile_comb (t : Fin 8) (x : Tile) : (s.setTile t x).comb = s.comb := rfl
@[simp] theorem State.setTile_ck (t : Fin 8) (x : Tile) : (s.setTile t x).ck = s.ck := rfl
@[simp] theorem State.setTile_ports (t : Fin 8) (x : Tile) : (s.setTile t x).ports = s.ports := rfl
@[simp] theorem State.setTile_rx (t : Fin 8) (x : Tile) : (s.setTile t x).rx = s.rx := rfl
@[simp] theorem State.setTile_rem (t : Fin 8) (x : Tile) : (s.setTile t x).rem = s.rem := rfl
@[simp] theorem State.setTile_remWait (t : Fin 8) (x : Tile) : (s.setTile t x).remWait = s.remWait := rfl
@[simp] theorem State.setTile_fen (t : Fin 8) (x : Tile) : (s.setTile t x).fen = s.fen := rfl
@[simp] theorem State.setTile_ns (t : Fin 8) (x : Tile) : (s.setTile t x).ns = s.ns := rfl
@[simp] theorem State.setTile_frac (t : Fin 8) (x : Tile) : (s.setTile t x).frac = s.frac := rfl
@[simp] theorem State.setTile_log (t : Fin 8) (x : Tile) : (s.setTile t x).log = s.log := rfl
@[simp] theorem State.setTile_reports (t : Fin 8) (x : Tile) : (s.setTile t x).reports = s.reports := rfl
@[simp] theorem State.setTile_flt (t : Fin 8) (x : Tile) : (s.setTile t x).flt = s.flt := rfl
@[simp] theorem State.setTile_tbu (t : Fin 8) (x : Tile) : (s.setTile t x).tbu = s.tbu := rfl
@[simp] theorem State.setTile_pcm (t : Fin 8) (x : Tile) : (s.setTile t x).pcm = s.pcm := rfl
@[simp] theorem State.setTile_frv (t : Fin 8) (x : Tile) : (s.setTile t x).frv = s.frv := rfl
@[simp] theorem State.setTile_pins (t : Fin 8) (x : Tile) : (s.setTile t x).pins = s.pins := rfl
@[simp] theorem State.setTile_out (t : Fin 8) (x : Tile) : (s.setTile t x).out = s.out := rfl
@[simp] theorem State.setTile_freeCtr (t : Fin 8) (x : Tile) : (s.setTile t x).freeCtr = s.freeCtr := rfl
@[simp] theorem State.setTile_pending (t : Fin 8) (x : Tile) : (s.setTile t x).pending = s.pending := rfl

/-! ### onTile -/

@[simp] theorem State.onTile_regs (t : Fin 8) (g : Tile → Tile) : (s.onTile t g).regs = s.regs := rfl
@[simp] theorem State.onTile_fns (t : Fin 8) (g : Tile → Tile) : (s.onTile t g).fns = s.fns := rfl
@[simp] theorem State.onTile_served (t : Fin 8) (g : Tile → Tile) : (s.onTile t g).served = s.served := rfl
@[simp] theorem State.onTile_seen (t : Fin 8) (g : Tile → Tile) : (s.onTile t g).seen = s.seen := rfl
@[simp] theorem State.onTile_mem (t : Fin 8) (g : Tile → Tile) : (s.onTile t g).mem = s.mem := rfl
@[simp] theorem State.onTile_hostMem (t : Fin 8) (g : Tile → Tile) : (s.onTile t g).hostMem = s.hostMem := rfl
@[simp] theorem State.onTile_relaxed (t : Fin 8) (g : Tile → Tile) : (s.onTile t g).relaxed = s.relaxed := rfl
@[simp] theorem State.onTile_poison (t : Fin 8) (g : Tile → Tile) : (s.onTile t g).poison = s.poison := rfl
@[simp] theorem State.onTile_net (t : Fin 8) (g : Tile → Tile) : (s.onTile t g).net = s.net := rfl
@[simp] theorem State.onTile_mroute (t : Fin 8) (g : Tile → Tile) : (s.onTile t g).mroute = s.mroute := rfl
@[simp] theorem State.onTile_comb (t : Fin 8) (g : Tile → Tile) : (s.onTile t g).comb = s.comb := rfl
@[simp] theorem State.onTile_ck (t : Fin 8) (g : Tile → Tile) : (s.onTile t g).ck = s.ck := rfl
@[simp] theorem State.onTile_ports (t : Fin 8) (g : Tile → Tile) : (s.onTile t g).ports = s.ports := rfl
@[simp] theorem State.onTile_rx (t : Fin 8) (g : Tile → Tile) : (s.onTile t g).rx = s.rx := rfl
@[simp] theorem State.onTile_rem (t : Fin 8) (g : Tile → Tile) : (s.onTile t g).rem = s.rem := rfl
@[simp] theorem State.onTile_remWait (t : Fin 8) (g : Tile → Tile) : (s.onTile t g).remWait = s.remWait := rfl
@[simp] theorem State.onTile_fen (t : Fin 8) (g : Tile → Tile) : (s.onTile t g).fen = s.fen := rfl
@[simp] theorem State.onTile_ns (t : Fin 8) (g : Tile → Tile) : (s.onTile t g).ns = s.ns := rfl
@[simp] theorem State.onTile_frac (t : Fin 8) (g : Tile → Tile) : (s.onTile t g).frac = s.frac := rfl
@[simp] theorem State.onTile_log (t : Fin 8) (g : Tile → Tile) : (s.onTile t g).log = s.log := rfl
@[simp] theorem State.onTile_reports (t : Fin 8) (g : Tile → Tile) : (s.onTile t g).reports = s.reports := rfl
@[simp] theorem State.onTile_flt (t : Fin 8) (g : Tile → Tile) : (s.onTile t g).flt = s.flt := rfl
@[simp] theorem State.onTile_tbu (t : Fin 8) (g : Tile → Tile) : (s.onTile t g).tbu = s.tbu := rfl
@[simp] theorem State.onTile_pcm (t : Fin 8) (g : Tile → Tile) : (s.onTile t g).pcm = s.pcm := rfl
@[simp] theorem State.onTile_frv (t : Fin 8) (g : Tile → Tile) : (s.onTile t g).frv = s.frv := rfl
@[simp] theorem State.onTile_pins (t : Fin 8) (g : Tile → Tile) : (s.onTile t g).pins = s.pins := rfl
@[simp] theorem State.onTile_out (t : Fin 8) (g : Tile → Tile) : (s.onTile t g).out = s.out := rfl
@[simp] theorem State.onTile_freeCtr (t : Fin 8) (g : Tile → Tile) : (s.onTile t g).freeCtr = s.freeCtr := rfl
@[simp] theorem State.onTile_pending (t : Fin 8) (g : Tile → Tile) : (s.onTile t g).pending = s.pending := rfl

/-! ### onThr -/

@[simp] theorem State.onThr_regs (t : Fin 8) (h : Fin 4) (g : Thread → Thread) : (s.onThr t h g).regs = s.regs := rfl
@[simp] theorem State.onThr_fns (t : Fin 8) (h : Fin 4) (g : Thread → Thread) : (s.onThr t h g).fns = s.fns := rfl
@[simp] theorem State.onThr_served (t : Fin 8) (h : Fin 4) (g : Thread → Thread) : (s.onThr t h g).served = s.served := rfl
@[simp] theorem State.onThr_seen (t : Fin 8) (h : Fin 4) (g : Thread → Thread) : (s.onThr t h g).seen = s.seen := rfl
@[simp] theorem State.onThr_mem (t : Fin 8) (h : Fin 4) (g : Thread → Thread) : (s.onThr t h g).mem = s.mem := rfl
@[simp] theorem State.onThr_hostMem (t : Fin 8) (h : Fin 4) (g : Thread → Thread) : (s.onThr t h g).hostMem = s.hostMem := rfl
@[simp] theorem State.onThr_relaxed (t : Fin 8) (h : Fin 4) (g : Thread → Thread) : (s.onThr t h g).relaxed = s.relaxed := rfl
@[simp] theorem State.onThr_poison (t : Fin 8) (h : Fin 4) (g : Thread → Thread) : (s.onThr t h g).poison = s.poison := rfl
@[simp] theorem State.onThr_net (t : Fin 8) (h : Fin 4) (g : Thread → Thread) : (s.onThr t h g).net = s.net := rfl
@[simp] theorem State.onThr_mroute (t : Fin 8) (h : Fin 4) (g : Thread → Thread) : (s.onThr t h g).mroute = s.mroute := rfl
@[simp] theorem State.onThr_comb (t : Fin 8) (h : Fin 4) (g : Thread → Thread) : (s.onThr t h g).comb = s.comb := rfl
@[simp] theorem State.onThr_ck (t : Fin 8) (h : Fin 4) (g : Thread → Thread) : (s.onThr t h g).ck = s.ck := rfl
@[simp] theorem State.onThr_ports (t : Fin 8) (h : Fin 4) (g : Thread → Thread) : (s.onThr t h g).ports = s.ports := rfl
@[simp] theorem State.onThr_rx (t : Fin 8) (h : Fin 4) (g : Thread → Thread) : (s.onThr t h g).rx = s.rx := rfl
@[simp] theorem State.onThr_rem (t : Fin 8) (h : Fin 4) (g : Thread → Thread) : (s.onThr t h g).rem = s.rem := rfl
@[simp] theorem State.onThr_remWait (t : Fin 8) (h : Fin 4) (g : Thread → Thread) : (s.onThr t h g).remWait = s.remWait := rfl
@[simp] theorem State.onThr_fen (t : Fin 8) (h : Fin 4) (g : Thread → Thread) : (s.onThr t h g).fen = s.fen := rfl
@[simp] theorem State.onThr_ns (t : Fin 8) (h : Fin 4) (g : Thread → Thread) : (s.onThr t h g).ns = s.ns := rfl
@[simp] theorem State.onThr_frac (t : Fin 8) (h : Fin 4) (g : Thread → Thread) : (s.onThr t h g).frac = s.frac := rfl
@[simp] theorem State.onThr_log (t : Fin 8) (h : Fin 4) (g : Thread → Thread) : (s.onThr t h g).log = s.log := rfl
@[simp] theorem State.onThr_reports (t : Fin 8) (h : Fin 4) (g : Thread → Thread) : (s.onThr t h g).reports = s.reports := rfl
@[simp] theorem State.onThr_flt (t : Fin 8) (h : Fin 4) (g : Thread → Thread) : (s.onThr t h g).flt = s.flt := rfl
@[simp] theorem State.onThr_tbu (t : Fin 8) (h : Fin 4) (g : Thread → Thread) : (s.onThr t h g).tbu = s.tbu := rfl
@[simp] theorem State.onThr_pcm (t : Fin 8) (h : Fin 4) (g : Thread → Thread) : (s.onThr t h g).pcm = s.pcm := rfl
@[simp] theorem State.onThr_frv (t : Fin 8) (h : Fin 4) (g : Thread → Thread) : (s.onThr t h g).frv = s.frv := rfl
@[simp] theorem State.onThr_pins (t : Fin 8) (h : Fin 4) (g : Thread → Thread) : (s.onThr t h g).pins = s.pins := rfl
@[simp] theorem State.onThr_out (t : Fin 8) (h : Fin 4) (g : Thread → Thread) : (s.onThr t h g).out = s.out := rfl
@[simp] theorem State.onThr_freeCtr (t : Fin 8) (h : Fin 4) (g : Thread → Thread) : (s.onThr t h g).freeCtr = s.freeCtr := rfl
@[simp] theorem State.onThr_pending (t : Fin 8) (h : Fin 4) (g : Thread → Thread) : (s.onThr t h g).pending = s.pending := rfl

/-! ### onFn -/

@[simp] theorem State.onFn_regs (f : Nat) (g : Fn → Fn) : (s.onFn f g).regs = s.regs := rfl
@[simp] theorem State.onFn_tiles (f : Nat) (g : Fn → Fn) : (s.onFn f g).tiles = s.tiles := rfl
@[simp] theorem State.onFn_mem (f : Nat) (g : Fn → Fn) : (s.onFn f g).mem = s.mem := rfl
@[simp] theorem State.onFn_hostMem (f : Nat) (g : Fn → Fn) : (s.onFn f g).hostMem = s.hostMem := rfl
@[simp] theorem State.onFn_served (f : Nat) (g : Fn → Fn) : (s.onFn f g).served = s.served := rfl
@[simp] theorem State.onFn_seen (f : Nat) (g : Fn → Fn) : (s.onFn f g).seen = s.seen := rfl
@[simp] theorem State.onFn_relaxed (f : Nat) (g : Fn → Fn) : (s.onFn f g).relaxed = s.relaxed := rfl
@[simp] theorem State.onFn_poison (f : Nat) (g : Fn → Fn) : (s.onFn f g).poison = s.poison := rfl
@[simp] theorem State.onFn_net (f : Nat) (g : Fn → Fn) : (s.onFn f g).net = s.net := rfl
@[simp] theorem State.onFn_mroute (f : Nat) (g : Fn → Fn) : (s.onFn f g).mroute = s.mroute := rfl
@[simp] theorem State.onFn_comb (f : Nat) (g : Fn → Fn) : (s.onFn f g).comb = s.comb := rfl
@[simp] theorem State.onFn_ck (f : Nat) (g : Fn → Fn) : (s.onFn f g).ck = s.ck := rfl
@[simp] theorem State.onFn_ports (f : Nat) (g : Fn → Fn) : (s.onFn f g).ports = s.ports := rfl
@[simp] theorem State.onFn_rx (f : Nat) (g : Fn → Fn) : (s.onFn f g).rx = s.rx := rfl
@[simp] theorem State.onFn_rem (f : Nat) (g : Fn → Fn) : (s.onFn f g).rem = s.rem := rfl
@[simp] theorem State.onFn_remWait (f : Nat) (g : Fn → Fn) : (s.onFn f g).remWait = s.remWait := rfl
@[simp] theorem State.onFn_fen (f : Nat) (g : Fn → Fn) : (s.onFn f g).fen = s.fen := rfl
@[simp] theorem State.onFn_ns (f : Nat) (g : Fn → Fn) : (s.onFn f g).ns = s.ns := rfl
@[simp] theorem State.onFn_frac (f : Nat) (g : Fn → Fn) : (s.onFn f g).frac = s.frac := rfl
@[simp] theorem State.onFn_log (f : Nat) (g : Fn → Fn) : (s.onFn f g).log = s.log := rfl
@[simp] theorem State.onFn_reports (f : Nat) (g : Fn → Fn) : (s.onFn f g).reports = s.reports := rfl
@[simp] theorem State.onFn_flt (f : Nat) (g : Fn → Fn) : (s.onFn f g).flt = s.flt := rfl
@[simp] theorem State.onFn_tbu (f : Nat) (g : Fn → Fn) : (s.onFn f g).tbu = s.tbu := rfl
@[simp] theorem State.onFn_pcm (f : Nat) (g : Fn → Fn) : (s.onFn f g).pcm = s.pcm := rfl
@[simp] theorem State.onFn_frv (f : Nat) (g : Fn → Fn) : (s.onFn f g).frv = s.frv := rfl
@[simp] theorem State.onFn_pins (f : Nat) (g : Fn → Fn) : (s.onFn f g).pins = s.pins := rfl
@[simp] theorem State.onFn_out (f : Nat) (g : Fn → Fn) : (s.onFn f g).out = s.out := rfl
@[simp] theorem State.onFn_freeCtr (f : Nat) (g : Fn → Fn) : (s.onFn f g).freeCtr = s.freeCtr := rfl
@[simp] theorem State.onFn_pending (f : Nat) (g : Fn → Fn) : (s.onFn f g).pending = s.pending := rfl

/-! ### emit -/

@[simp] theorem State.emit_regs (o : Out) : (s.emit o).regs = s.regs := rfl
@[simp] theorem State.emit_tiles (o : Out) : (s.emit o).tiles = s.tiles := rfl
@[simp] theorem State.emit_fns (o : Out) : (s.emit o).fns = s.fns := rfl
@[simp] theorem State.emit_served (o : Out) : (s.emit o).served = s.served := rfl
@[simp] theorem State.emit_seen (o : Out) : (s.emit o).seen = s.seen := rfl
@[simp] theorem State.emit_mem (o : Out) : (s.emit o).mem = s.mem := rfl
@[simp] theorem State.emit_hostMem (o : Out) : (s.emit o).hostMem = s.hostMem := rfl
@[simp] theorem State.emit_relaxed (o : Out) : (s.emit o).relaxed = s.relaxed := rfl
@[simp] theorem State.emit_poison (o : Out) : (s.emit o).poison = s.poison := rfl
@[simp] theorem State.emit_net (o : Out) : (s.emit o).net = s.net := rfl
@[simp] theorem State.emit_mroute (o : Out) : (s.emit o).mroute = s.mroute := rfl
@[simp] theorem State.emit_comb (o : Out) : (s.emit o).comb = s.comb := rfl
@[simp] theorem State.emit_ck (o : Out) : (s.emit o).ck = s.ck := rfl
@[simp] theorem State.emit_ports (o : Out) : (s.emit o).ports = s.ports := rfl
@[simp] theorem State.emit_rx (o : Out) : (s.emit o).rx = s.rx := rfl
@[simp] theorem State.emit_rem (o : Out) : (s.emit o).rem = s.rem := rfl
@[simp] theorem State.emit_remWait (o : Out) : (s.emit o).remWait = s.remWait := rfl
@[simp] theorem State.emit_fen (o : Out) : (s.emit o).fen = s.fen := rfl
@[simp] theorem State.emit_ns (o : Out) : (s.emit o).ns = s.ns := rfl
@[simp] theorem State.emit_frac (o : Out) : (s.emit o).frac = s.frac := rfl
@[simp] theorem State.emit_log (o : Out) : (s.emit o).log = s.log := rfl
@[simp] theorem State.emit_reports (o : Out) : (s.emit o).reports = s.reports := rfl
@[simp] theorem State.emit_flt (o : Out) : (s.emit o).flt = s.flt := rfl
@[simp] theorem State.emit_tbu (o : Out) : (s.emit o).tbu = s.tbu := rfl
@[simp] theorem State.emit_pcm (o : Out) : (s.emit o).pcm = s.pcm := rfl
@[simp] theorem State.emit_frv (o : Out) : (s.emit o).frv = s.frv := rfl
@[simp] theorem State.emit_pins (o : Out) : (s.emit o).pins = s.pins := rfl
@[simp] theorem State.emit_freeCtr (o : Out) : (s.emit o).freeCtr = s.freeCtr := rfl
@[simp] theorem State.emit_pending (o : Out) : (s.emit o).pending = s.pending := rfl

/-! ### drawn -/

@[simp] theorem State.drawn_regs : (s.drawn).regs = s.regs := rfl
@[simp] theorem State.drawn_tiles : (s.drawn).tiles = s.tiles := rfl
@[simp] theorem State.drawn_fns : (s.drawn).fns = s.fns := rfl
@[simp] theorem State.drawn_served : (s.drawn).served = s.served := rfl
@[simp] theorem State.drawn_seen : (s.drawn).seen = s.seen := rfl
@[simp] theorem State.drawn_mem : (s.drawn).mem = s.mem := rfl
@[simp] theorem State.drawn_hostMem : (s.drawn).hostMem = s.hostMem := rfl
@[simp] theorem State.drawn_relaxed : (s.drawn).relaxed = s.relaxed := rfl
@[simp] theorem State.drawn_poison : (s.drawn).poison = s.poison := rfl
@[simp] theorem State.drawn_net : (s.drawn).net = s.net := rfl
@[simp] theorem State.drawn_mroute : (s.drawn).mroute = s.mroute := rfl
@[simp] theorem State.drawn_comb : (s.drawn).comb = s.comb := rfl
@[simp] theorem State.drawn_ck : (s.drawn).ck = s.ck := rfl
@[simp] theorem State.drawn_ports : (s.drawn).ports = s.ports := rfl
@[simp] theorem State.drawn_rx : (s.drawn).rx = s.rx := rfl
@[simp] theorem State.drawn_rem : (s.drawn).rem = s.rem := rfl
@[simp] theorem State.drawn_remWait : (s.drawn).remWait = s.remWait := rfl
@[simp] theorem State.drawn_fen : (s.drawn).fen = s.fen := rfl
@[simp] theorem State.drawn_ns : (s.drawn).ns = s.ns := rfl
@[simp] theorem State.drawn_frac : (s.drawn).frac = s.frac := rfl
@[simp] theorem State.drawn_log : (s.drawn).log = s.log := rfl
@[simp] theorem State.drawn_reports : (s.drawn).reports = s.reports := rfl
@[simp] theorem State.drawn_flt : (s.drawn).flt = s.flt := rfl
@[simp] theorem State.drawn_tbu : (s.drawn).tbu = s.tbu := rfl
@[simp] theorem State.drawn_pcm : (s.drawn).pcm = s.pcm := rfl
@[simp] theorem State.drawn_frv : (s.drawn).frv = s.frv := rfl
@[simp] theorem State.drawn_pins : (s.drawn).pins = s.pins := rfl
@[simp] theorem State.drawn_out : (s.drawn).out = s.out := rfl
@[simp] theorem State.drawn_pending : (s.drawn).pending = s.pending := rfl

/-! ### Reading after an update -/

/-- A register field reads what was just written into it. -/
@[simp] theorem State.rd_wr_same (f : Fld) (i v x : Nat) : (s.wr f i v x).rd f i x = v % 2 ^ f.w := by
  simp [State.rd, State.wr]

/-- A field under another key keeps what it reads. -/
theorem State.rd_wr_ne {f g : Fld} {i j x y : Nat} (v : Nat) (h : g.key j y ≠ f.key i x) : (s.wr f i v x).rd g j y = s.rd g j y := by
  simp [State.rd, State.wr, SMap.getD_set_ne _ _ h]

/-- A field under another key keeps what it reads when a counter counts. -/
theorem State.rd_count_ne {f g : Fld} {i j x y : Nat} (n : Nat) (h : g.key j y ≠ f.key i x) : (s.count f i n x).rd g j y = s.rd g j y :=
  State.rd_wr_ne s _ h

/-- Fields of different blocks, instances, places or bits have different keys. -/
theorem Fld.key_ne {f g : Fld} {i j x y : Nat}
    (h : f.blk.num ≠ g.blk.num ∨ i % 32 ≠ j % 32 ∨ (f.off + f.stride * x) % 1048576 ≠ (g.off + g.stride * y) % 1048576 ∨ f.lo ≠ g.lo)
    (hf : f.lo < 64) (hg : g.lo < 64) : f.key i x ≠ g.key j y := by
  unfold Fld.key
  have := Nat.mod_lt i (show 0 < 32 by decide)
  have := Nat.mod_lt j (show 0 < 32 by decide)
  have := Nat.mod_lt (f.off + f.stride * x) (show 0 < 1048576 by decide)
  have := Nat.mod_lt (g.off + g.stride * y) (show 0 < 1048576 by decide)
  omega

/-- A tile reads as it was just set. -/
@[simp] theorem State.tile_setTile (t : Fin 8) (x : Tile) : (s.setTile t x).tile t = x := by simp [State.tile, State.setTile]

/-- Setting a tile leaves the others. -/
theorem State.tile_setTile_ne {t u : Fin 8} (x : Tile) (h : u ≠ t) : (s.setTile t x).tile u = s.tile u := by
  have : (t : Nat) ≠ u := fun e => h (Fin.ext e.symm)
  simp [State.tile, State.setTile, Vector.getElem_set_ne, this]

/-- A changed tile. -/
@[simp] theorem State.tile_onTile (t : Fin 8) (g : Tile → Tile) : (s.onTile t g).tile t = g (s.tile t) := by simp [State.onTile]

/-- Changing a tile leaves the others. -/
theorem State.tile_onTile_ne {t u : Fin 8} (g : Tile → Tile) (h : u ≠ t) : (s.onTile t g).tile u = s.tile u := by
  simp [State.onTile, State.tile_setTile_ne s _ h]

/-- A write to a register changes no tile. -/
@[simp] theorem State.tile_wr (f : Fld) (i v x : Nat) (t : Fin 8) : (s.wr f i v x).tile t = s.tile t := rfl

/-- A counter changes no tile. -/
@[simp] theorem State.tile_count (f : Fld) (i n x : Nat) (t : Fin 8) : (s.count f i n x).tile t = s.tile t := rfl

/-- A change of a tile changes no register. -/
@[simp] theorem State.rd_onTile (t : Fin 8) (g : Tile → Tile) (f : Fld) (i x : Nat) : (s.onTile t g).rd f i x = s.rd f i x := rfl

/-- A changed thread. -/
@[simp] theorem Tile.thr_onThr (x : Tile) (h : Fin 4) (g : Thread → Thread) : (x.onThr h g).thr h = g (x.thr h) := by
  simp [Tile.thr, Tile.onThr]

/-- Changing a thread leaves the others. -/
theorem Tile.thr_onThr_ne {x : Tile} {h k : Fin 4} (g : Thread → Thread) (e : k ≠ h) : (x.onThr h g).thr k = x.thr k := by
  have : (h : Nat) ≠ k := fun e2 => e (Fin.ext e2.symm)
  simp [Tile.thr, Tile.onThr, Vector.getElem_set_ne, this]

/-- A changed thread of the state. -/
@[simp] theorem State.thr_onThr (t : Fin 8) (h : Fin 4) (g : Thread → Thread) : (s.onThr t h g).thr t h = g (s.thr t h) := by
  simp [State.thr, State.onThr]

/-- Changing a thread of the state leaves the tile's others. -/
theorem State.thr_onThr_ne {t : Fin 8} {h k : Fin 4} (g : Thread → Thread) (e : k ≠ h) : (s.onThr t h g).thr t k = s.thr t k := by
  simp [State.thr, State.onThr, Tile.thr_onThr_ne g e]

/-- Changing a thread leaves the other tiles. -/
theorem State.tile_onThr_ne {t u : Fin 8} {h : Fin 4} (g : Thread → Thread) (e : u ≠ t) : (s.onThr t h g).tile u = s.tile u :=
  State.tile_onTile_ne s _ e

/-! ### General registers and predicates -/

/-- g0 reads zero, whatever is written (R158). -/
@[simp] theorem Thread.getG_zero (y : Thread) : y.getG 0 = 0 := rfl

/-- A general register reads what was just written, g0 apart. -/
theorem Thread.getG_setG (y : Thread) (v : Word) (i j : Nat) :
    (y.setG i v).getG j = if j = i ∧ i ≠ 0 then v else y.getG j := by
  unfold Thread.setG Thread.getG
  by_cases h0 : i = 0
  · simp [h0]
  · by_cases hji : j = i
    · subst hji; simp [h0]
    · simp [h0, hji, SMap.getD_set_ne _ _ hji]

/-- Writing a general register leaves the predicates. -/
@[simp] theorem Thread.getP_setG (y : Thread) (i j : Nat) (v : Word) : (y.setG i v).getP j = y.getP j := by
  unfold Thread.setG Thread.getP; by_cases h : i = 0 <;> simp [h]

/-- Writing a predicate leaves the general registers. -/
@[simp] theorem Thread.getG_setP (y : Thread) (i j : Nat) (b : Bool) : (y.setP i b).getG j = y.getG j := by
  unfold Thread.setP Thread.getG; by_cases h : i = 0 <;> simp [h]

/-- A predicate reads what was just written, p0 apart. -/
theorem Thread.getP_setP (y : Thread) (b : Bool) {i j : Nat} (hi : i < 8) (hj : j < 8) :
    (y.setP i b).getP j = if j = i ∧ i ≠ 0 then b else y.getP j := by
  unfold Thread.setP Thread.getP
  have hp : ∀ p : BitVec 8, ∀ i j : Fin 8, ∀ b : Bool, (if b then p ||| BitVec.ofNat 8 (2 ^ i.val) else p &&& ~~~(BitVec.ofNat 8 (2 ^ i.val))).getLsbD j.val =
      if j.val = i.val then b else p.getLsbD j.val := by
    intro p i j b
    have e : (BitVec.ofNat 8 (2 ^ i.val)).getLsbD j.val = decide (j.val = i.val) := by revert i j; decide
    have hj : j.val < 8 := j.isLt
    cases b <;> by_cases h : j.val = i.val <;> simp_all
  by_cases h0 : i = 0
  · simp [h0]
  · by_cases hj0 : j = 0
    · simp [hj0, h0, Ne.symm h0]
    · simp only [h0, hj0, if_false, ne_eq, not_false_eq_true, and_true]
      exact hp y.p ⟨i, hi⟩ ⟨j, hj⟩ b

end Sys2Proof.Machine
end

