-- ==== Sys2Proof/Laws/Scalar.lean ====
section
/-! SUPPORT. What issuing a Psirra-S instruction can do, said once: what reaching memory touches, the fetched state, and how each way of ending leaves the machine. -/
namespace Sys2Proof.Machine

variable {s : State} {t : Fin 8} {th : Thr} {w : Nat}

/-- The queue is no part of a tile. -/
@[simp] theorem State.tile_queue (x : State) (p : List Instr) (u : Fin 8) : ({ x with pending := p } : State).tile u = x.tile u := rfl

/-- The queue is no part of a thread. -/
@[simp] theorem State.thr_queue (x : State) (p : List Instr) (u : Fin 8) (h : Fin 4) : ({ x with pending := p } : State).thr u h = x.thr u h := rfl

/-- Retiring changes the issuing thread alone. -/
theorem State.retireAt_eq (x : State) (h : Fin 4) (pc : Nat) : x.retireAt t h pc = x.onThr t h (fun y => { y with
    st := .ready, wait := .none, pc := pc % 2 ^ 48, instret := y.instret + 1
    hsteps := if h = 1 then y.hsteps + 1 else y.hsteps }) := rfl

/-! ### Reaching memory -/

/-- A write changes the register entry of its own key alone. -/
theorem State.find_wr_ne (f : Fld) (i v x : Nat) {k : Nat} (h : k ≠ f.key i x) : (s.wr f i v x).regs.find? k = s.regs.find? k := by
  unfold State.wr SMap.set
  simp only
  split
  · exact SMap.find_erase_ne _ h
  · exact SMap.find_put_ne _ _ h

/-- The registers that reaching memory may change (State.reachOnly). -/
def Fld.ofReach (f : Fld) : Prop :=
  f ∈ [F.TMU_CNT_MISS_COUNT, F.TMU_CNT_WALK_COUNT, F.TPC_STATUS_WAKING, F.HMC_STATUS_STATE, F.HMC_CNT_RD_BYTES, F.PCM_STATUS_FABGATED, F.PCM_STATUS_FPLL_OFF]

/-- Reaching nothing leaves the state. -/
theorem State.reachOnly_refl (s : State) : s.reachOnly s := ⟨rfl, fun _ => rfl, fun _ => .inl rfl⟩

/-- Accesses after one another. -/
theorem State.reachOnly_trans {a b c : State} (h : a.reachOnly b) (g : b.reachOnly c) : a.reachOnly c := by
  obtain ⟨h1, h2, h3⟩ := h
  obtain ⟨g1, g2, g3⟩ := g
  refine ⟨?_, ?_, ?_⟩
  · rw [g1, h1]
  · intro v; rw [g2 v, h2 v]
  · intro k
    rcases g3 k with e | e
    · rw [e]; exact h3 k
    · exact .inr e

/-- A register that reaching memory may change is written. -/
theorem State.reachOnly_wr (f : Fld) (i v : Nat) (h : f.ofReach) : s.reachOnly (s.wr f i v) :=
  ⟨rfl, fun _ => rfl, fun k => by
    by_cases e : k = f.key i 0
    · exact .inr ⟨f, h, i, e⟩
    · exact .inl (State.find_wr_ne f i v 0 e)⟩

/-- A register that reaching memory may change counts. -/
theorem State.reachOnly_count (f : Fld) (i n : Nat) (h : f.ofReach) : s.reachOnly (s.count f i n) := by
  exact State.reachOnly_wr f i _ h

/-- A tile's translations and wake requests change. -/
theorem State.reachOnly_onTile (f : Tile → Tile) (h : ∀ y, f y = { y with tlb := (f y).tlb, wcache := (f y).wcache, tpc := (f y).tpc }) :
    s.reachOnly (s.onTile t f) := by
  refine ⟨rfl, ?_, fun _ => .inl rfl⟩
  intro v
  by_cases e : v = t
  · subst e; rw [State.tile_onTile]; exact h _
  · rw [State.tile_onTile_ne _ _ e]

/-- A tile's translations change. -/
theorem State.reachOnly_tlb (g : Tile → List TlbEnt) : s.reachOnly (s.onTile t (fun x => { x with tlb := g x })) :=
  State.reachOnly_onTile _ (fun _ => rfl)

/-- A tile's walk cache changes. -/
theorem State.reachOnly_wcache (g : Tile → List WcEnt) : s.reachOnly (s.onTile t (fun x => { x with wcache := g x })) :=
  State.reachOnly_onTile _ (fun _ => rfl)

/-- A table walk. -/
theorem State.reachOnly_walkCached (va k l tb : Nat) (s : State) : s.reachOnly (State.walkCached t va k l tb s) := by
  induction k generalizing l tb s with
  | zero => exact State.reachOnly_refl s
  | succ k ih =>
    have hc : s.reachOnly (s.count F.TMU_CNT_WALK_COUNT t.val (s.walkReads l tb va)) := State.reachOnly_count _ _ _ (by simp [Fld.ofReach])
    unfold State.walkCached
    simp only
    split
    · exact State.reachOnly_trans (State.reachOnly_trans hc (State.reachOnly_wcache _)) (ih _ _ _)
    · exact State.reachOnly_trans hc (State.reachOnly_tlb _)
    · exact hc

/-- A page's translation is looked up. -/
theorem State.reachOnly_touchPage (va : Nat) (s : State) : s.reachOnly (s.touchPage t va) := by
  have hc : s.reachOnly (s.count F.TMU_CNT_MISS_COUNT t.val 1) := State.reachOnly_count _ _ _ (by simp [Fld.ofReach])
  unfold State.touchPage
  simp only
  split
  · exact State.reachOnly_refl s
  split
  · exact hc
  split
  · exact State.reachOnly_trans hc (State.reachOnly_walkCached _ _ _ _ _)
  · exact State.reachOnly_trans hc (State.reachOnly_walkCached _ _ _ _ _)

/-- A fold of accesses. -/
theorem State.reachOnly_foldl {α : Type} (f : State → α → State) (h : ∀ (s : State) a, s.reachOnly (f s a)) (l : List α) (s : State) :
    s.reachOnly (l.foldl f s) := by
  induction l generalizing s with
  | nil => exact State.reachOnly_refl s
  | cons a l ih => exact State.reachOnly_trans (h s a) (ih _)

/-- Pages' translations are looked up. -/
theorem State.reachOnly_touchPages (l : List Nat) (s : State) : s.reachOnly (s.touchPages t l) := by
  unfold State.touchPages
  split
  · exact State.reachOnly_refl s
  · exact State.reachOnly_foldl _ (fun s va => State.reachOnly_touchPage _ s) l s

/-- A tile is asked to wake. -/
theorem State.reachOnly_wakeTile (full : Bool) (s : State) : s.reachOnly (s.wakeTile t full) := by
  unfold State.wakeTile
  simp only
  split
  · exact State.reachOnly_refl s
  split
  · exact State.reachOnly_onTile _ (fun _ => rfl)
  · exact State.reachOnly_trans (State.reachOnly_onTile _ (fun _ => rfl)) (State.reachOnly_wr _ _ _ (by simp [Fld.ofReach]))

/-- A fabric region is ungated. -/
theorem State.reachOnly_ungate (i : Nat) (s : State) : s.reachOnly (s.ungate i) :=
  State.reachOnly_trans (State.reachOnly_wr _ _ _ (by simp [Fld.ofReach])) (State.reachOnly_wr _ _ _ (by simp [Fld.ofReach]))

/-- A unit is asked to wake. -/
theorem State.reachOnly_raiseWake (w : WakeT) (s : State) : s.reachOnly (s.raiseWake w) := by
  unfold State.raiseWake
  split
  · exact State.reachOnly_refl s
  split
  · exact State.reachOnly_wakeTile _ s
  · exact State.reachOnly_trans (State.reachOnly_wr _ _ _ (by simp [Fld.ofReach])) (State.reachOnly_ungate 4 _)
  · exact State.reachOnly_ungate _ s

/-- What an access needs is asked to wake. -/
theorem State.reachOnly_wakeFor (u : Option (Fin 8)) (pa : Nat) (s : State) : s.reachOnly (s.wakeFor u pa) :=
  State.reachOnly_foldl _ (fun s w => State.reachOnly_raiseWake w s) _ s

/-- A stack counts the bytes read. -/
theorem State.reachOnly_tookBytes (pa n : Nat) (s : State) : s.reachOnly (s.tookBytes pa n) := by
  unfold State.tookBytes
  split
  · exact State.reachOnly_count _ _ _ (by simp [Fld.ofReach])
  · exact State.reachOnly_refl s

/-- A fetch reaches its memory. -/
theorem State.reachOnly_fetchReach (h : Fin 4) (n : Nat) (s : State) : s.reachOnly (s.fetchReach t h n) := by
  unfold State.fetchReach
  simp only
  split
  · exact State.reachOnly_refl s
  split
  · exact State.reachOnly_trans (State.reachOnly_touchPages _ s) (State.reachOnly_trans (State.reachOnly_wakeFor _ _ _) (State.reachOnly_tookBytes _ _ _))
  · exact State.reachOnly_touchPages _ s

/-- A Psirra-S fetch reaches its memory. -/
theorem State.sought_reach (s : State) (t : Fin 8) (th : Thr) : s.reachOnly (s.sought t th) := State.reachOnly_fetchReach _ _ s

/-- Reaching memory changes no thread. -/
theorem State.reachOnly_thr {r : State} (e : s.reachOnly r) (u : Fin 8) (h : Fin 4) : r.thr u h = s.thr u h := by
  unfold State.thr; rw [e.2.1 u]; rfl

/-- Reaching memory keeps every other register. -/
theorem State.reachOnly_rd {r : State} (e : s.reachOnly r) (f : Fld) (i x : Nat)
    (h : f.blk.num ≠ Blk.tmu.num ∧ f.blk.num ≠ Blk.tpc.num ∧ f.blk.num ≠ Blk.hmc.num ∧ f.blk.num ≠ Blk.pcm.num) (hl : f.lo < 64) :
    r.rd f i x = s.rd f i x := by
  have hk : r.regs.find? (f.key i x) = s.regs.find? (f.key i x) := by
    rcases e.2.2 (f.key i x) with h1 | ⟨q, hq, j, hj⟩
    · exact h1
    · exfalso
      have : ∀ q ∈ [F.TMU_CNT_MISS_COUNT, F.TMU_CNT_WALK_COUNT, F.TPC_STATUS_WAKING, F.HMC_STATUS_STATE, F.HMC_CNT_RD_BYTES, F.PCM_STATUS_FABGATED,
          F.PCM_STATUS_FPLL_OFF], q.lo < 64 ∧ (q.blk.num = Blk.tmu.num ∨ q.blk.num = Blk.tpc.num ∨ q.blk.num = Blk.hmc.num ∨ q.blk.num = Blk.pcm.num) := by
        decide
      obtain ⟨h2, h3⟩ := this q hq
      refine Fld.key_ne (.inl ?_) hl h2 hj
      rcases h3 with h3 | h3 | h3 | h3 <;> rw [h3]
      · exact h.1
      · exact h.2.1
      · exact h.2.2.1
      · exact h.2.2.2
  unfold State.rd SMap.getD
  rw [hk]

/-! ### Fetching -/

/-- Fetching changes no thread. -/
@[simp] theorem State.thr_fetched (u : Fin 8) (h : Fin 4) : (s.fetched t th w).thr u h = s.thr u h := by
  rw [← State.reachOnly_thr (s.sought_reach t th) u h]
  unfold State.fetched State.cacheInsn State.thr
  by_cases e : u = t
  · subst e; simp [Tile.thr]
  · simp [State.tile_onTile_ne _ _ e]

/-- Fetching changes no general register. -/
@[simp] theorem State.g_fetched (u : Fin 8) (h : Fin 4) (i : Nat) : (s.fetched t th w).g u h i = s.g u h i := by simp [State.g]

/-- Fetching changes no general register an instruction names. -/
@[simp] theorem State.ga_fetched (u : Fin 8) (h : Thr) (i : BitVec 6) : (s.fetched t th w).ga u h i = s.ga u h i := by simp [State.ga]

/-- Once its access is made, fetching changes a tile's instruction cache alone. -/
theorem State.tile_fetched : (s.fetched t th w).tile t = { (s.sought t th).tile t with icache := ((s.fetched t th w).tile t).icache } := by
  simp [State.fetched, State.cacheInsn]

/-- Changing a thread of a tile that differs in its instruction cache alone. -/
theorem Tile.onThr_twice_rest {x y : Tile} (h : Fin 4) (f g : Thread → Thread) (ic : SMap Nat) (e : y = { x with icache := ic }) :
    (y.onThr h f).onThr h g = { x with threads := ((y.onThr h f).onThr h g).threads, icache := ((y.onThr h f).onThr h g).icache } := by
  subst e; rfl

/-- Once its access is made, fetching changes no other tile. -/
theorem State.tile_fetched_ne {u : Fin 8} (e : u ≠ t) : (s.fetched t th w).tile u = (s.sought t th).tile u := by
  simp [State.fetched, State.cacheInsn, State.tile_onTile_ne _ _ e]

/-- Once its access is made, fetching changes registers and tiles alone. -/
theorem State.fetched_rest : s.fetched t th w = { s.sought t th with regs := (s.fetched t th w).regs, tiles := (s.fetched t th w).tiles } := rfl

/-- Once its access is made, fetching changes the register entry of the issue counter alone. -/
theorem State.find_fetched {k : Nat} (h : k ≠ F.TCC_CNT_ISSUE_S_COUNT.key t.val 0) : (s.fetched t th w).regs.find? k = (s.sought t th).regs.find? k :=
  State.find_wr_ne _ _ _ _ h

/-- An instruction that issues does what its body says, in the fetched state. -/
theorem State.scalar_issues (h : s.issues t th) (body : State → Act) :
    s.scalar t th w body = (s.fetched t th w).act t (thrIx th) 4 0 w (body (s.fetched t th w)) := by
  obtain ⟨h1, h2, h3, h4⟩ := h
  have hb : ¬(thrIx th = 1 ∧ 4096 ≤ (s.thr t (thrIx th)).hsteps) := by
    rintro ⟨e, hh⟩
    have : th = .msg := by revert e; cases th <;> decide
    have := h2 this
    rw [e] at hh; omega
  unfold State.scalar
  simp [h1, hb, h3, h4, State.fetched, State.sought]

/-- What retiring leaves of a thread. -/
theorem Thread.retired_of (x y : Thread) (pc : Nat) (hx : x.instret = y.instret) (hh : x.hsteps = y.hsteps) (hf : x.timeFrac = y.timeFrac)
    (hp : x.prev = y.prev) :
    x.retired { y with
      st := .ready, wait := .none, pc := pc % 2 ^ 48, instret := y.instret + 1
      hsteps := if thrIx th = 1 then y.hsteps + 1 else y.hsteps } th pc := by
  unfold Thread.retired
  have : (thrIx th = 1) ↔ th = .msg := by cases th <;> decide
  simp [hx, hh, hf, hp, this]

/-- Retiring after a change of the issuing thread's registers leaves the rest of the machine. -/
theorem State.onlyThread_retire (f : Thread → Thread) (pc : Nat) :
    s.onlyThread (s.sought t th) ({ ((s.fetched t th w).onThr t (thrIx th) f).retireAt t (thrIx th) pc with pending := s.pending } : State) t th := by
  refine ⟨s.sought_reach t th, ?_, ?_, ?_, ?_, ?_⟩
  · rw [← show (s.sought t th).pending = s.pending from by rw [(s.sought_reach t th).1]]; rfl
  · intro k hk; exact State.find_fetched hk
  · intro v hv
    rw [State.tile_queue, State.retireAt_eq, State.tile_onThr_ne _ _ hv, State.tile_onThr_ne _ _ hv, State.tile_fetched_ne hv]
  · rw [State.tile_queue, State.retireAt_eq]
    simp only [State.onThr, State.tile_onTile]
    exact Tile.onThr_twice_rest _ _ _ _ State.tile_fetched
  · intro h hh
    rw [State.thr_queue, State.retireAt_eq, State.thr_onThr_ne _ _ hh, State.thr_onThr_ne _ _ hh, State.thr_fetched]

/-- The issuing thread after retiring. -/
theorem State.thr_retire (f : Thread → Thread) (pc : Nat) :
    (({ ((s.fetched t th w).onThr t (thrIx th) f).retireAt t (thrIx th) pc with pending := s.pending } : State)).thr t (thrIx th) =
      (let y := f (s.thr t (thrIx th))
       { y with
        st := .ready, wait := .none, pc := pc % 2 ^ 48, instret := y.instret + 1
        hsteps := if thrIx th = 1 then y.hsteps + 1 else y.hsteps }) := by
  rw [State.thr_queue, State.retireAt_eq]
  simp

/-- Writing a general register leaves the rest of a thread. -/
theorem Thread.setG_rest (y : Thread) (i : Nat) (v : Word) :
    (y.setG i v).instret = y.instret ∧ (y.setG i v).hsteps = y.hsteps ∧ (y.setG i v).timeFrac = y.timeFrac ∧ (y.setG i v).prev = y.prev := by
  unfold Thread.setG; by_cases h : i = 0 <;> simp [h]

/-- Writing a predicate leaves the rest of a thread. -/
theorem Thread.setP_rest (y : Thread) (i : Nat) (b : Bool) :
    (y.setP i b).instret = y.instret ∧ (y.setP i b).hsteps = y.hsteps ∧ (y.setP i b).timeFrac = y.timeFrac ∧ (y.setP i b).prev = y.prev := by
  unfold Thread.setP; by_cases h : i = 0 <;> simp [h]

/-- An instruction that writes one general register and retires at a pc. -/
theorem State.setG_retire (i : Nat) (v : Word) (pc : Nat) :
    let u : State := { ((s.fetched t th w).setG t (thrIx th) i v).retireAt t (thrIx th) pc with pending := s.pending }
    s.onlyThread (s.sought t th) u t th ∧ (s.thr t (thrIx th)).retired (u.thr t (thrIx th)) th pc ∧ (s.thr t (thrIx th)).wroteG (u.thr t (thrIx th)) i v := by
  intro u
  refine ⟨State.onlyThread_retire _ _, ?_, ?_, ?_⟩
  · rw [show u.thr t (thrIx th) = _ from State.thr_retire (fun y => y.setG i v) pc]
    obtain ⟨a, b, c, d⟩ := Thread.setG_rest (s.thr t (thrIx th)) i v
    exact Thread.retired_of _ _ pc a.symm b.symm c.symm d.symm
  · intro j
    rw [show u.thr t (thrIx th) = _ from State.thr_retire (fun y => y.setG i v) pc]
    exact Thread.getG_setG _ v i j
  · intro j hj
    rw [show u.thr t (thrIx th) = _ from State.thr_retire (fun y => y.setG i v) pc]
    exact Thread.getP_setG _ i j v

/-- An instruction that writes one predicate and retires at a pc. -/
theorem State.setP_retire (i : Nat) (b : Bool) (pc : Nat) (hi : i < 8) :
    let u : State := { ((s.fetched t th w).setP t (thrIx th) i b).retireAt t (thrIx th) pc with pending := s.pending }
    s.onlyThread (s.sought t th) u t th ∧ (s.thr t (thrIx th)).retired (u.thr t (thrIx th)) th pc ∧ (s.thr t (thrIx th)).wroteP (u.thr t (thrIx th)) i b := by
  intro u
  refine ⟨State.onlyThread_retire _ _, ?_, ?_, ?_⟩
  · rw [show u.thr t (thrIx th) = _ from State.thr_retire (fun y => y.setP i b) pc]
    obtain ⟨a, c, d, e⟩ := Thread.setP_rest (s.thr t (thrIx th)) i b
    exact Thread.retired_of _ _ pc a.symm c.symm d.symm e.symm
  · intro j hj
    rw [show u.thr t (thrIx th) = _ from State.thr_retire (fun y => y.setP i b) pc]
    exact Thread.getP_setP _ b hi hj
  · intro j
    rw [show u.thr t (thrIx th) = _ from State.thr_retire (fun y => y.setP i b) pc]
    exact Thread.getG_setP _ i j b

/-- Once its access is made, fetching leaves every field outside the TCC as it was. -/
theorem State.rd_fetched (f : Fld) (i x : Nat) (h : f.blk.num ≠ Blk.tcc.num) (hl : f.lo < 64) : (s.fetched t th w).rd f i x = (s.sought t th).rd f i x := by
  have : f.key i x ≠ F.TCC_CNT_ISSUE_S_COUNT.key t.val 0 := Fld.key_ne (.inl h) hl (by decide)
  exact State.rd_count_ne _ _ this

/-- Once its access is made, fetching leaves `flag` as it was. -/
theorem State.flag_fetched (f : Fld) (i x : Nat) (h : f.blk.num ≠ Blk.tcc.num) (hl : f.lo < 64) : (s.fetched t th w).flag f i x = (s.sought t th).flag f i x := by
  simp [State.flag, State.rd_fetched f i x h hl]

/-- Once its access is made, fetching leaves `localise` as it was. -/
@[simp] theorem State.localise_fetched (pa : Nat) : (s.fetched t th w).localise pa = (s.sought t th).localise pa := by
  unfold State.localise
  rw [State.rank, State.rank, State.rd_fetched F.FEN_STATUS_RANK 0 0 (by decide) (by decide)]

/-- Once its access is made, fetching leaves `region` as it was. -/
@[simp] theorem State.region_fetched (pa : Nat) : (s.fetched t th w).region pa = (s.sought t th).region pa := by
  simp [State.region, State.rank, State.rankReachable, State.rd_fetched F.FEN_STATUS_RANK 0 0 (by decide) (by decide),
    State.rd_fetched F.FEN_STATUS_STATE 0 0 (by decide) (by decide), State.rd_fetched F.FEN_MEMBERS_MASK 0 0 (by decide) (by decide),
    State.rd_fetched F.FLT_FENFAIL_RANKS 0 0 (by decide) (by decide), State.flag_fetched F.FEN_ROUTE_VALID _ _ (by decide) (by decide)]

/-- Once its access is made, fetching leaves `partOn` as it was. -/
@[simp] theorem State.partOn_fetched (f : Nat) : (s.fetched t th w).partOn f = (s.sought t th).partOn f := by
  simp [State.partOn, State.flag_fetched F.HIU_PART_CFG_EN _ _ (by decide) (by decide)]

/-- Once its access is made, fetching leaves `vfHasTile` as it was. -/
@[simp] theorem State.vfHasTile_fetched (f u : Nat) : (s.fetched t th w).vfHasTile f u = (s.sought t th).vfHasTile f u := by
  simp [State.vfHasTile, State.rd_fetched F.HIU_PART_CFG_TILES _ _ (by decide) (by decide)]

/-- Once its access is made, fetching leaves `ownerOf` as it was. -/
@[simp] theorem State.ownerOf_fetched (u : Nat) : (s.fetched t th w).ownerOf u = (s.sought t th).ownerOf u := by
  simp [State.ownerOf]

/-- Once its access is made, fetching leaves `vfHasGib` as it was. -/
@[simp] theorem State.vfHasGib_fetched (f k g : Nat) : (s.fetched t th w).vfHasGib f k g = (s.sought t th).vfHasGib f k g := by
  have e : ∀ p ∈ partHbm, ∀ q ∈ [p.1, p.2.1, p.2.2.1, p.2.2.2], q.blk.num ≠ Blk.tcc.num ∧ q.lo < 64 := by decide
  have : (s.fetched t th w).vfListsGib f k g = (s.sought t th).vfListsGib f k g := by
    unfold State.vfListsGib
    rw [Bool.eq_iff_iff, List.any_eq_true, List.any_eq_true]
    refine exists_congr (fun p => and_congr_right (fun hp => ?_))
    have h := e p hp
    simp only [List.mem_cons, List.not_mem_nil, or_false, forall_eq_or_imp, forall_eq] at h
    rw [State.flag_fetched _ _ _ h.1.1 h.1.2, State.rd_fetched _ _ _ h.2.1.1 h.2.1.2, State.rd_fetched _ _ _ h.2.2.1.1 h.2.2.1.2, State.rd_fetched _ _ _ h.2.2.2.1 h.2.2.2.2]
  simp [State.vfHasGib, this]

/-- Once its access is made, fetching leaves `hwin` as it was. -/
@[simp] theorem State.hwin_fetched (f o : Nat) : (s.fetched t th w).hwin f o = (s.sought t th).hwin f o := by
  simp [State.hwin, State.flag_fetched F.HIU_HWIN_CFG_EN _ _ (by decide) (by decide), State.rd_fetched F.HIU_HWIN_CFG_OFF _ _ (by decide) (by decide),
    State.rd_fetched F.HIU_HWIN_CFG_PAGES _ _ (by decide) (by decide)]

/-- Once its access is made, fetching leaves `hwinAddr` as it was. -/
@[simp] theorem State.hwinAddr_fetched (f n o : Nat) : (s.fetched t th w).hwinAddr f n o = (s.sought t th).hwinAddr f n o := by
  simp [State.hwinAddr, State.rd_fetched F.HIU_HWIN_HOST_HADDR _ _ (by decide) (by decide), State.rd_fetched F.HIU_HWIN_CFG_OFF _ _ (by decide) (by decide)]

/-- Once its access is made, fetching leaves `unitIn` as it was. -/
@[simp] theorem State.unitIn_fetched (u : Nat) : (s.fetched t th w).unitIn u = (s.sought t th).unitIn u := by
  simp only [State.unitIn, State.rd_fetched F.FRV_USR_STATE _ _ (by decide) (by decide)]
  rfl

/-- Once its access is made, fetching leaves `atsOk` as it was. -/
@[simp] theorem State.atsOk_fetched (f a : Nat) (b : Bool) : (s.fetched t th w).atsOk f a b = (s.sought t th).atsOk f a b := rfl

/-- Once its access is made, fetching leaves `assigned` as it was. -/
@[simp] theorem State.assigned_fetched (f pa : Nat) (b : Bool) : (s.fetched t th w).assigned f pa b = (s.sought t th).assigned f pa b := by
  simp [State.assigned, State.hasTile, State.hostOk, State.flag_fetched F.HIU_PART_CFG_FEN _ _ (by decide) (by decide)]

/-- Once its access is made, fetching leaves `memOff` as it was. -/
@[simp] theorem State.memOff_fetched (pa : Nat) : (s.fetched t th w).memOff pa = (s.sought t th).memOff pa := by
  simp [State.memOff, State.rd_fetched F.TPC_STATUS_STATE _ _ (by decide) (by decide), State.rd_fetched F.HMC_STATUS_STATE _ _ (by decide) (by decide)]

/-- Once its access is made, fetching leaves `paCheck` as it was. -/
@[simp] theorem State.paCheck_fetched (f pa : Nat) (b : Bool) : (s.fetched t th w).paCheck f pa b = (s.sought t th).paCheck f pa b := by
  simp [State.paCheck]

/-- Once its access is made, fetching leaves `byteAt` as it was. -/
@[simp] theorem State.byteAt_fetched (f pa : Nat) : (s.fetched t th w).byteAt f pa = (s.sought t th).byteAt f pa := by
  have e : (s.fetched t th w).mem = (s.sought t th).mem := rfl
  have e2 : ∀ a, (s.fetched t th w).hostByte a = (s.sought t th).hostByte a := fun _ => rfl
  have e3 : ∀ n o, (s.fetched t th w).hostAddr f n o = (s.sought t th).hostAddr f n o := fun n o => by simp [State.hostAddr]; rfl
  simp [State.byteAt, e, e2, e3]

/-- Once its access is made, fetching leaves `poisonIn` as it was. -/
@[simp] theorem State.poisonIn_fetched (pa n : Nat) : (s.fetched t th w).poisonIn pa n = (s.sought t th).poisonIn pa n := by
  simp [State.poisonIn, State.isPoison]; rfl

/-- Once its access is made, fetching leaves `tlbHit` as it was. -/
theorem State.tlbHit_fetched (va : Nat) : ((s.fetched t th w).tile t).tlbHit va = ((s.sought t th).tile t).tlbHit va := by
  rw [State.tile_fetched]; rfl

/-- An access that reaches memory or the local store reaches the same place once its instruction is fetched. -/
theorem State.reachVa_fetched {h : Fin 4} {va n : Nat} {k : AccK} {r : Reach} (hr : (s.sought t th).reachVa t h va n k = r) (hn : ∀ a, r ≠ .stop a) :
    (s.fetched t th w).reachVa t h va n k = r := by
  subst hr
  unfold State.reachVa at *
  simp only [State.rd_fetched F.TMU_CTL_EN _ _ (by decide) (by decide), State.rd_fetched F.TMU_ROOT_PA _ _ (by decide) (by decide), State.paCheck_fetched, State.ownerOf_fetched, State.tlbHit_fetched] at *
  repeat' split
  all_goals simp_all

end Sys2Proof.Machine
end

