-- ==== Sys2Proof/Tests/Slice0.lean ====
section
/-! SUPPORT. Tests of the model's own text: ill-formed commands, decoding by the table, words of the spec's encodings, worked examples of the
spec, and a witness for the hypotheses of every statement. -/
namespace Sys2Proof.Tests
open Sys2Proof Sys2Proof.Machine

-- One test at a time: elaborated side by side, tests wait for each other on threads of their own, each with a stack.
set_option Elab.async false

/-! ### States the tests use -/

/-- The state a command answers. -/
def nx : Out3 → State
  | .next s => s
  | _ => State.reset

/-- A device out of PERST_L whose tile 0 is in Run with its threads READY at address 0 and a trap handler. -/
def wRun : State :=
  ((({ State.reset with pins := { State.reset.pins with perst := false } } : State).wr F.TPC_STATUS_STATE 0 0).wr F.TCC_SVC_VEC_VEC 0 0x1000).onTile 0
    (fun x => { x with threads := x.threads.map (fun y => { y with st := .ready }) })

/-- The same with g1 of MAIN set. -/
def wG (v : Word) : State := wRun.setG 0 0 1 v


/-! ### Ill-formed commands, one for each check -/

theorem test_ill_bar0 : illFormed (.registerWrite 0 0x4000000 8 0) = some .bar0 := by decide
theorem test_ill_enBit : illFormed (.ringEnable 0 0 0) = some .enBit ∧ illFormed (.portDisable 0 1) = some .enBit := by decide
theorem test_ill_partFn : illFormed (.partEnable 0 1) = some .partFn ∧ illFormed (.partDisable 0 0) = some .partFn := by decide
theorem test_ill_bar2 : illFormed (.bar2Access 0 0 0 none) = some .bar2 ∧ illFormed (.bar2Access 0 0 2 (some [0])) = some .bar2 := by decide
theorem test_ill_page : illFormed (.atsTranslationCompletion 0 (2 ^ 52) none true) = some .page := by decide
theorem test_ill_memory : illFormed (.memoryRead 1 .none) = some .memory ∧ illFormed (.memoryAtomic 4 .add 0 0) = some .memory ∧
    illFormed (.memoryWrite 0xFF [0, 0] []) = some .memory := by decide
theorem test_ill_flit : illFormed (.flitReceive 0 0 0 0 [0]) = some .flit := by decide
theorem test_ill_fen : illFormed (.helloReceive 0 ⟨2 ^ 64, 0, 0, [], []⟩) = some .fen := by decide
theorem test_ill_sample : illFormed (.pcmSample [] [] []) = some .sample := by decide
theorem test_ill_transfer : illFormed (.firmwareDataReceive ⟨.smb, none, true, true⟩ []) = some .transfer := by decide
theorem test_ill_notice : illFormed (.failureNoticeReceive 0 (.unit 40)) = some .notice := by decide
theorem test_well_formed : wellFormed (.registerWrite 31 0x3FFFFF8 8 0) ∧ wellFormed (.memoryWrite 0xFE [0, 0] []) ∧ wellFormed (.failureNoticeReceive 63 (.unit 39)) := by decide

/-! ### Words of the spec's encodings -/

/-- Worked case 7-1: the MM.PASS and the ALU.DADDB it writes out. -/
theorem test_words : tWord .mmPass ⟨0, 3, 4, 5, 0x20, 0, 0, 0, 0, 0, 0, 0x24⟩ = 0x00000000002400000000004028818007 ∧ rWord clsAlu 0x32 ⟨1, 11, 0, 0⟩ = 0x06401608 := by decide

/-- Worked case 15-1: the LAUNCH in slot 17 names T2 and 160 bytes of argument. -/
theorem test_launch_words : let c : RCmd := ⟨17, 1 + 0x103 * 2 ^ 64 + 0x400001000 * 2 ^ 128 + 0x10000002000 * 2 ^ 192 + 0x4000000A0 * 2 ^ 256 + 0x2A8 * 2 ^ 320, false, false, false, false, false, false, 0, 0, [], 0, 0, 0⟩
    c.op = 1 ∧ c.malformed = false ∧ c.tiles = [2] ∧ c.field 0x20 4 = 160 ∧ c.field 0x10 8 = 0x400001000 := by decide +kernel

/-! ### Worked cases of the arithmetic -/

/-- RNE-log or RTZ-log, saturating. -/
def wRnd (m : RMode) : Rnd := ⟨m, false, 0, 128, false⟩

/-- Worked case 3-1: ties and edges in L16. -/
theorem test_rounding : (encodeWide .l16 (wRnd .rne) 0 0 (decodeL32 0x40008000 0)).code = 0x4000 ∧ (encodeWide .l16 (wRnd .rne) 0 0 (decodeL32 0x40018000 0)).code = 0x4002 ∧
    (encodeWide .l16 (wRnd .rtz) 0 0 (decodeL32 0x40018000 0)).code = 0x4001 ∧ (encodeWide .l16 (wRnd .rne) 0 0 (decodeL32 0xC0018000 0)).code = 0xC002 ∧
    (encodeWide .l16 (wRnd .rne) 0 0 (vHalve (decodeL16 0x4003 0))).code = 0x4002 ∧ (encodeWide .l16 (wRnd .rtz) 0 0 (vHalve (decodeL16 0x3FFF 0))).code = 0x3FFF ∧
    (encodeWide .l16 (wRnd .rne) 0 0 (decodeL32 0x7FFE7FFF 0)).code = 0x7FFE := by decide +kernel

/-- Worked case 3-2: a subtraction with k = 1, from the exact table. -/
theorem test_subtraction : (encodeWide .l16 (wRnd .rne) 0 0 (vAdd false (decodeL16 0x4100 0) (decodeL16 0xC0FF 0))).code = 0x3D3C := by decide +kernel

/-- Worked case 2-2: a master weight splits, with either sign. -/
theorem test_split : (splitL32S 0x3F9AC123).1 = (0x3F9B, 0xC123) ∧ (splitL32S 0xBF9AC123).1 = (0xBF9B, 0xC123) := by decide +kernel

/-- Worked case 12-1: one small update of a master. -/
theorem test_update : (encodeWide .l32 (wRnd .rne) 0 0 (vAdd true (decodeL32S 0x4000 0 0) (vNeg (decodeL32 0x36000000 0)))).code = 0x3FFFFFF4 := by decide +kernel

/-- Worked case 4-1: the two products of a DPU, and the sum's code. -/
theorem test_dpu : let p := (productDy false (15 * 16)).add (productDy true (2 * 16))
    (encodeWide .l16 (wRnd .rne) 0 0 (p.mul ⟨1, -2⟩).toVal).code = 0x3FA8 ∧ (encodeWide .l16 (wRnd .rtz) 0 0 (p.mul ⟨1, -2⟩).toVal).code = 0x3FA7 := by decide +kernel

/-! ### Effects of single commands -/

/-- A halfword stored low byte first (R3), by one ST.H. -/
theorem test_store_bytes : (nx (exec (.memSt16 0 .main ⟨2, 1, 0⟩) ((wG 0x40).setG 0 0 2 0x1234))).mem = [(0x40, 0x34), (0x41, 0x12)] := by decide +kernel

/-! ### Witnesses: Psirra-S -/

/-- An access reaches a physical address. -/
def isPhys (r : Reach) (pa : Nat) : Bool :=
  match r with
  | .phys p => decide (p = pa)
  | _ => false

theorem phys_of {r : Reach} {pa : Nat} (h : isPhys r pa = true) : r = .phys pa := by
  cases r <;> simp_all [isPhys]

theorem witness_AluResult : wRun.issues 0 .main ∧ wRun.issues 0 .walk ∧ (⟨5, 1, 2, 0⟩ : RArgs).x = 0 ∧ (⟨0, 1, 2, 7⟩ : RArgs).x.toNat < 8 ∧
    (⟨5, 1, 63⟩ : IArgs).imm.toNat < 64 ∧ (⟨5, 0, 63⟩ : IArgs).ga = 0 ∧ (⟨5, 0, 0, 0⟩ : RArgs).gb = 0 := by
  unfold State.issues; decide +kernel

theorem witness_PredicateAndBranchResult : wRun.issues 0 .msg ∧ (⟨7, 7, 7, 0⟩ : RArgs).gd.toNat < 8 ∧ (⟨7, 7, 7, 0⟩ : RArgs).x = 0 ∧
    (⟨0, false, 63⟩ : BArgs).p = 0 ∧ (⟨0, false, 63⟩ : BArgs).off.toNat < 64 ∧ (wRun.g 0 (thrIx .msg) 63).toNat % 4 = 0 := by
  unfold State.issues; decide +kernel

theorem witness_IllegalFieldsTrap : wRun.issues 0 .svc ∧ (⟨8, 0, 0, 1⟩ : RArgs).x ≠ 0 ∧ 8 ≤ (⟨8, 0, 0, 0⟩ : RArgs).gd.toNat ∧ (⟨8, 0, 1, 0⟩ : RArgs).gb ≠ 0 ∧
    64 ≤ (⟨0, 0, 64⟩ : IArgs).imm.toNat ∧ Thr.svc ≠ .main ∧ wRun.issues 0 .main ∧ 32 ≤ (⟨32, 32, 0, 0⟩ : RArgs).ga.toNat := by
  unfold State.issues; decide +kernel

theorem witness_RegisterTransferResult : wRun.issues 0 .main ∧ wRun.issues 0 .svc ∧ (⟨31, 31, 0, 3⟩ : RArgs).x.toNat < 4 ∧ (⟨31, 31, 0, 3⟩ : RArgs).gd.toNat < 32 ∧
    (wRun.csrVal 0 0 0xFFF = none) ∧ wRun.unitsRun 0 = true ∧ State.reset.unitsRun 0 = false ∧ (∃ old, wRun.csrVal 0 3 0x036 = some old) ∧ (∃ old, wRun.csrVal 0 3 0x040 = some old) := by
  refine ⟨by unfold State.issues; decide +kernel, by unfold State.issues; decide +kernel, by decide, by decide, by decide +kernel, by decide +kernel, by decide +kernel, ⟨0, by decide +kernel⟩,
    ⟨0, by decide +kernel⟩⟩

theorem witness_LoadStoreResult : wRun.issues 0 .main ∧ (wG 0x41).memVa 0 .main ⟨2, 1, 0⟩ % 2 ≠ 0 ∧ (wG (BitVec.ofNat 64 lsBase)).memVa 0 .main ⟨2, 1, 0⟩ = lsBase ∧ lsBase % 32 = 0 ∧
    (wRun.sought 0 .main).reachVa 0 0 0x40 32 .read = .phys 0x40 ∧ (wRun.sought 0 .main).reachVa 0 0 0x40 8 .write = .phys 0x40 ∧
    wRun.atsNeeds (wRun.ownerOf 0) 0x40 = false ∧ wRun.ownHeld 0 .main 0x40 32 = false ∧ wRun.region 0x40 = .peat 0 ∧ wRun.gate 0x40 = .pass ∧
    wRun.poisonIn 0x40 8 = false ∧ (wRun.markPoison 0x40).poisonIn 0x40 8 = true := by
  refine ⟨by unfold State.issues; decide +kernel, by decide +kernel, by decide +kernel, by decide, phys_of (by decide +kernel), phys_of (by decide +kernel), by decide +kernel, by decide +kernel, by decide +kernel,
    by decide +kernel, by decide +kernel, by decide +kernel⟩

theorem witness_AtomicResult : wRun.issues 0 .svc ∧ (wRun.sought 0 .svc).reachVa 0 3 0x40 8 .atomic = .phys 0x40 ∧ (wRun.region 0x40).isDevice = true ∧ wRun.gate 0x40 = .pass ∧
    wRun.poisonIn 0x40 8 = false ∧ (wG 4).memVa 0 .main ⟨2, 1, 0⟩ % 8 ≠ 0 ∧ wRun.threadOwes 0 3 = false := by
  refine ⟨by unfold State.issues; decide +kernel, phys_of (by decide +kernel), by decide +kernel, by decide +kernel, by decide +kernel, by decide +kernel, by decide +kernel⟩

theorem witness_ThreadControlResult : wRun.issues 0 .main ∧ wRun.issues 0 .msg ∧ wRun.issues 0 .walk ∧ wRun.issues 0 .svc ∧
    (wRun.tile 0).lep.held.find? 0 = none := by
  unfold State.issues; decide +kernel

/-- A trap of MAIN. -/
def wTrap : Trap := ⟨cBreak, 0, 0, 0, 0, 0, 4, 0, 0, 0, [], false, false⟩

/-- The trap waits before SVC. -/
def wPend : State := wRun.onTile 0 (fun x => { x.onThr 3 (fun y => { y with st := .parked }) with traps := [wTrap] })

/-- The tile has no trap handler. -/
def wNoVec : State := wRun.wr F.TCC_SVC_VEC_VEC 0 0

/-- SVC handles the trap. -/
def wSvc : State := (nx (execTrapTake 0 wPend)).onThr 0 0 (fun y => { y with st := .trap })

theorem witness_TrapResult : wRun.issues 0 .main ∧ wRun.issues 0 .svc ∧ wRun.rd F.TCC_SVC_VEC_VEC 0 ≠ 0 ∧ (wRun.tile 0).active = none ∧
    (wPend.tile 0).traps = [wTrap] ∧ (wPend.tile 0).active = none ∧ (wPend.tile 0).halt ≠ .trap ∧ wPend.rd F.TPC_STATUS_STATE 0 = 0 ∧ (wPend.tile 0).resetting = false ∧
    wSvc.issues 0 .svc ∧ (wSvc.tile 0).active = some wTrap ∧ actionOk wTrap.cause wTrap.kind 0 = true ∧ (wSvc.tile 0).csr.action = none ∧
    (wSvc.tile 0).csr.svcPrev = .parked ∧ (wSvc.thr 0 0).st = .trap ∧ (∀ u, (wSvc.tile u).nanStop = none) ∧ wNoVec.rd F.TCC_SVC_VEC_VEC 0 = 0 ∧ (wNoVec.tile 0).active = none ∧
    ((wSvc.tile 0).active ≠ none ∧ (wRun.tile 0).traps = []) ∧ actionOk cHandlerBound 0 0 = false := by
  unfold State.issues; decide +kernel

/-- An action of SVC answers a state: RESUME, END and HALT. -/
theorem witness_actions : ∀ a : Fin 4, a.val ≠ 1 → (wSvc.applyAction 0 wTrap a.val).isSome = true := by
  decide +kernel


/-! ### Witnesses: Psirra-T and the units -/

/-- An instruction with every field zero but null descriptors, and its predicate p0. -/
def tz : TArgs := ⟨0, 32, 32, 32, 32, 0, 0, 0, 0, 0, 0, 0⟩

/-- The null descriptor field is the one the decoder of the use table takes as null, so SY.NOP with it is legal. -/
theorem witness_TensorInstructionIssues : wRun.issuesT 0 ∧ wRun.predHolds 0 tz ∧ (wRun.tile 0).issueOpen ∧
    (∃ plan, (wRun.fetchedT 0 0 (tWord .syNop tz)).planOf 0 .syNop (wRun.captured 0 .syNop tz) = .ok plan) ∧ (wRun.tile 0).freeTag = some 0 := by
  refine ⟨by unfold State.issuesT; decide +kernel, by unfold State.predHolds; decide +kernel, by unfold Tile.issueOpen; decide +kernel, ⟨_, rfl⟩, by decide +kernel⟩

/-- Sixteen operation traps are pending, of which SVC handles one. -/
def wFull : State := wRun.onTile 0 (fun x => { x with traps := List.replicate 15 { wTrap with kind := 2 }, active := some { wTrap with kind := 2 } })

theorem witness_TensorInstructionRejected : wRun.issuesT 0 ∧ wRun.predHolds 0 { tz with ga := 1 } ∧ (wRun.tile 0).issueOpen ∧
    (∃ c, (wRun.fetchedT 0 0 (tWord .syNop { tz with ga := 1 })).planOf 0 .syNop (wRun.captured 0 .syNop { tz with ga := 1 }) = .error c) ∧
    wFull.issuesT 0 ∧ 16 ≤ (wFull.tile 0).opTraps ∧
    ((wRun.onThr 0 0 (fun y => { y with pc := 4 })).canIssue 0 0 = true ∧ (wRun.onThr 0 0 (fun y => { y with pc := 4 })).fetchCheck 0 0 16 = .ok () ∧
      (wRun.onThr 0 0 (fun y => { y with pc := 4 })).fetchAts 0 0 = none ∧
      ((wRun.onThr 0 0 (fun y => { y with pc := 4 })).thr 0 0).pc % 16 ≠ 0) ∧
    (wRun.canIssue 0 (thrIx .walk) = true ∧ (wRun.thr 0 1).hsteps < 4096 ∧ wRun.fetchCheck 0 (thrIx .walk) 16 = .ok () ∧ wRun.fetchAts 0 (thrIx .walk) = none ∧ (wRun.thr 0 (thrIx .walk)).pc % 16 = 0) := by
  refine ⟨by unfold State.issuesT; decide +kernel, by unfold State.predHolds; decide +kernel, by unfold Tile.issueOpen; decide +kernel, ⟨_, rfl⟩,
    by unfold State.issuesT; decide +kernel, by decide +kernel, by decide +kernel, by decide +kernel⟩

theorem witness_PredicateOffInstruction : wRun.issuesT 0 ∧ (wRun.tile 0).issueOpen ∧ ¬wRun.predHolds 0 { tz with pg := 8, stok := 31 } := by
  unfold State.issuesT State.predHolds Tile.issueOpen; decide +kernel

/-- An operation's record with nothing captured. -/
def mkOp (op : TOp) (st : OpSt) (seq insn : Nat) : OpRec :=
  ⟨op, 0, st, false, seq, insn, 0, [], 0, 0, [], [], [], [], 0, 0, 1, 0, none, false, 0, 0, []⟩

/-- Tile 0 with one operation under tag 0. -/
def wOp (r : OpRec) : State := wRun.onTile 0 (fun x => { x with ops := [(0, r)] })

theorem witness_ControlInstructionResult : wRun.issuesT 0 ∧ (wRun.tile 0).issueOpen ∧ wRun.predHolds 0 tz ∧ (TOp.ctUse .ctSync).legal tz = true ∧ (wRun.tile 0).ops = [] ∧
    (wOp (mkOp .syNop .wait 0 0)).issuesT 0 ∧ ((wOp (mkOp .syNop .wait 0 0)).tile 0).ops ≠ [] ∧ (TOp.ctUse .ctWaittag).legal tz = true ∧
    (wRun.tile 0).ops.find? ((wRun.g 0 0 tz.ga.toNat).toNat % 256) = none ∧
    ((wOp (mkOp .syNop .wait 0 0)).tile 0).ops.find? (((wOp (mkOp .syNop .wait 0 0)).g 0 0 tz.ga.toNat).toNat % 256) ≠ none ∧
    (TOp.ctUse .ctTag).legal tz = true ∧ (TOp.ctUse .syWake).legal tz = true := by
  unfold State.issuesT State.predHolds Tile.issueOpen; decide +kernel

/-- An operation that reads tile 1's memory, which is in Doze. -/
def wFar : State := (wOp { mkOp .vsAdd .wait 0 0 with reads := [⟨0x200000000, 0x20000001F⟩] }).wr F.TPC_STATUS_STATE 1 1

theorem witness_OperationBegins : (((wOp (mkOp .vsAdd .wait 0 0)).tile 0).ops.find? 0 = some (mkOp .vsAdd .wait 0 0) ∧ (wOp (mkOp .vsAdd .wait 0 0)).unitsRun 0 = true ∧
      ((wOp (mkOp .vsAdd .wait 0 0)).wakeTargets 0 (mkOp .vsAdd .wait 0 0)).all (fun w => (wOp (mkOp .vsAdd .wait 0 0)).awake w) = true) ∧
    (∃ r, (wFar.tile 0).ops.find? 0 = some r ∧ r.deps = [] ∧ r.tdeps = [] ∧ (wFar.wakeTargets 0 r).all (fun w => wFar.awake w) = false) ∧
    ((wOp (mkOp .syFence .wait 0 0)).fenceHolds 0 (mkOp .syFence .wait 0 0) = true) ∧
    ((wOp { mkOp .vsAdd .wait 0 0 with ready := true }).flag F.TSC_CTL_SERIAL 0 = false ∧ OpRec.dispatchable { mkOp .vsAdd .wait 0 0 with ready := true } = true ∧
      SMap.risesFrom none ((wOp { mkOp .vsAdd .wait 0 0 with ready := true }).tile 0).ops = true) ∧
    (mkOp .vsAdd .wake 0 0).st = .wake ∧ State.reset.unitsRun 0 = false := by
  refine ⟨by decide +kernel, ⟨_, rfl, rfl, rfl, by decide +kernel⟩, by decide +kernel, by decide +kernel, by decide, by decide +kernel⟩

/-- A drain whose last write is not acknowledged, with LONG_INEXACT. -/
def wLx : OpRec := { mkOp .mmDrain .ack 0 0 with acks := 1, phase := phaseLx }

theorem witness_OperationEnds : ((wOp (mkOp .syNop .ack 0 0)).tile 0).ops.find? 0 = some (mkOp .syNop .ack 0 0) ∧ (mkOp .syNop .ack 0 0).trap = none ∧
    (wOp (mkOp .syNop .ack 0 0)).opOwes 0 0 = false ∧ (mkOp .syNop .ack 0 0).acks = 0 ∧ ({ mkOp .syNop .ack 0 0 with acks := 1 } : OpRec).acks ≠ 0 ∧
    ({ mkOp .syNop .ack 0 0 with stok := 31 } : OpRec).stok < 32 ∧
    (wLx.acks = 1 ∧ wLx.lxDue = true ∧ ((wOp wLx).wr F.RB_CTL_LX_TRAP 0 1).flag F.RB_CTL_LX_TRAP 0 = true ∧ (mkOp .syNop .ack 0 0).lxDue = false) := by
  decide +kernel

/-- A tile stopped by a NaN. -/
def wNan : State := wRun.onTile 0 (fun x => { x with halt := .nan })

theorem witness_TileCommandResult : (wOp (mkOp .vsAdd .run 0 0)).unitsRun 0 = true ∧ (mkOp .vsAdd .run 0 0).op.cls ≠ 6 ∧ (mkOp .vsAdd .run 0 0).op ≠ .kvSeqset ∧ State.reset.unitsRun 0 = false ∧
    (((wOp { mkOp .vsAdd .run 0 0 with trap := some wTrap }).tile 0).ops.find? 0 = some { mkOp .vsAdd .run 0 0 with trap := some wTrap } ∧
      ((wOp { mkOp .vsAdd .run 0 0 with trap := some wTrap }).tile 0).trapRoom wTrap.held = true ∧
      SMap.risesFrom none ((wOp { mkOp .vsAdd .run 0 0 with trap := some wTrap }).tile 0).ops = true) ∧ 16 ≤ (wFull.tile 0).opTraps ∧
    (wNan.flag F.VSU_NAN_STATUS_VALID 0 = false ∧ wNan.flag F.FLT_STATUS_FENSTOP 0 = false ∧ (wNan.tile 0).halt = .nan) ∧
    (wNan.wr F.VSU_NAN_STATUS_VALID 0 1).flag F.VSU_NAN_STATUS_VALID 0 = true := by
  decide +kernel

/-- A pass whose panel is to be fetched. -/
def wPass : OpRec := { mkOp .mmPass .queued 0 0 with d := [0, 0, 0] }

/-- A panel of that pass. -/
def wPanel : Panel := ⟨0, 1, 1, .l8, 0, []⟩

/-- The panel stands in the landing buffer, or in the shadow. -/
def wLanded : State := (wOp wPass).onTile 0 (fun x => { x with rb := { x.rb with landing := [wPanel] } })

/-- The panel stands in the shadow. -/
def wShadow : State := (wOp wPass).onTile 0 (fun x => { x with rb := { x.rb with shadow := some wPanel } })

theorem witness_ReedbedCommandResult : ((wOp wPass).unitsRun 0 = true ∧ ((wOp wPass).tile 0).rb.landing.length < 3 ∧
      ((wOp wPass).tile 0).nextFetch = some (0, wPass) ∧ (wOp wPass).opReadsOut 0 0 = false ∧ ∃ cs, (wOp wPass).codesOp 0 wPass 2 = .ok cs) ∧
    ((wLanded.tile 0).rb.shadow = none ∧ (wLanded.tile 0).oldest OpRec.bringsPanel = some (0, wPass) ∧ (wLanded.tile 0).rb.landing.find? (fun p => p.seq = wPass.seq) = some wPanel ∧
      ((wOp wPass).tile 0).oldest OpRec.bringsPanel = some (0, wPass) ∧ ∀ p ∈ ((wOp wPass).tile 0).rb.landing, p.seq ≠ wPass.seq) ∧
    (((wOp wPass).onTile 0 (fun x => { x with rb := { x.rb with landing := [wPanel, wPanel, wPanel] } })).tile 0).rb.landing.length = 3 ∧
    ((wShadow.tile 0).rb.shadow = some wPanel ∧ (wShadow.tile 0).rbHead = some (0, wPass) ∧ wShadow.opReadsOut 0 0 = false ∧ wPass.xfb 84 1 = 0 ∧ wPanel.seq = wPass.seq) ∧
    (((wOp wPass).tile 0).rb.shadow = none ∧ ((wOp wPass).tile 0).rbHead = some (0, wPass)) ∧
    (((wOp { wPass with insn := 2 ^ 84 }).tile 0).rbHead = some (0, { wPass with insn := 2 ^ 84 }) ∧ ({ wPass with insn := 2 ^ 84 } : OpRec).xfb 84 1 = 1) := by
  refine ⟨⟨by decide +kernel, by decide +kernel, by decide +kernel, by decide +kernel, ⟨_, rfl⟩⟩, by decide +kernel, by decide +kernel, by decide +kernel, by decide +kernel,
    by decide +kernel⟩


/-! ### Witnesses: combiner rows, KVE, memories and TDM -/

/-- A tile's part of a group of tile 0 alone whose root is tile 0. -/
def wPart : CombPart := ⟨0, mkOp .mmDrain .run 0 0, 0x10, 1, 1, false, 0, [[]]⟩

/-- A combiner slot with the given parts of the group of tile 0 alone. -/
def wComb (ps : List CombPart) : State := { wRun with comb := [(0, { CombSlot.reset with rgd := some wPart.rgd, parts := ps })] }

/-- With nothing received and nothing waiting, a slot whose group goes on stands as it is. -/
theorem slot_stands (s : State) (h : s.rx = []) (hc : (s.cslot 0).closing = false) (hf : (s.cslot 0).fail = none) (hw : (s.cslot 0).wait = []) :
    (s.redArrive 0).slotJoin 0 = s := by
  have hr : s.redArrive 0 = s := by simp [State.redArrive, h]
  rw [hr]
  unfold State.slotJoin
  rw [show (4096 : Nat) = 4095 + 1 from rfl, State.slotGo]
  simp [hc, hf, hw]

/-- The parts agree or not; the tile is in service or lost. -/
theorem witness_CombinerRow : (((wComb [wPart]).redArrive 0).slotJoin 0 = wComb [wPart] ∧
      ((wComb [wPart, { wPart with m := 2 }]).redArrive 0).slotJoin 0 = wComb [wPart, { wPart with m := 2 }] ∧
      (((wComb [wPart]).wr F.FRV_USR_STATE 0 3).redArrive 0).slotJoin 0 = (wComb [wPart]).wr F.FRV_USR_STATE 0 3) ∧
    (((wComb [wPart]).cslot 0).rgd = some wPart.rgd ∧ ((wComb [wPart]).cslot 0).fail = none ∧ ((wComb [wPart]).cslot 0).closing = false ∧
      ((wComb [wPart]).cslot 0).parts.find? (fun p => p.tile = rgdRoot p.rgd) = some wPart) ∧
    (((wComb [wPart]).cslot 0).disagree ((wComb [wPart]).rgrpCfg (rgdGroup wPart.rgd)) = false ∧ rgdFen wPart.rgd = false ∧ (wComb [wPart]).tileGone wPart.rgd = false ∧
      ((wComb [wPart]).wr F.FRV_USR_STATE 0 3).tileGone wPart.rgd = true ∧
      (∀ u < 8, bits (rgdTiles wPart.rgd) u 1 = 1 → ∃ p ∈ [wPart], p.tile = u) ∧ 0 < wPart.m ∧ 0 ∉ ((wComb [wPart]).cslot 0).done) ∧
    ((wComb [wPart, { wPart with m := 2 }]).cslot 0).disagree ((wComb [wPart, { wPart with m := 2 }]).rgrpCfg (rgdGroup wPart.rgd)) = true := by
  refine ⟨⟨slot_stands _ rfl rfl rfl rfl, slot_stands _ rfl rfl rfl rfl, slot_stands _ rfl rfl rfl rfl⟩, by decide +kernel, by decide +kernel, by decide +kernel⟩

/-- A walk request waits. -/
def wWalk : State := wRun.onTile 0 (fun x => { x.onThr 2 (fun y => { y with st := .idle }) with kve := { x.kve with queue := [⟨0, 1, 2, 3, 4⟩] } })

theorem witness_WalkerResult : ((wWalk.tile 0).kve.queue = ⟨0, 1, 2, 3, 4⟩ :: [] ∧ wWalk.tileRuns 0 = true ∧ (wWalk.tile 0).kve.cur = none ∧
      (wWalk.tile 0).kve.got = [] ∧ (wWalk.thr 0 2).st = .idle) ∧
    (wRun.thr 0 2).st ≠ .idle ∧ (wRun.issues 0 .walk ∧ (⟨0, 0, 0, 0⟩ : RArgs).gd = 0 ∧ (wRun.tile 0).kve.ended = false ∧ (wRun.tile 0).dqCount < 32) ∧
    32 ≤ ((wRun.onTile 0 (fun x => { x with kve := { x.kve with got := List.replicate 32 0 } })).tile 0).dqCount ∧ wRun.issues 0 .main := by
  unfold State.issues; decide +kernel

/-- The address of an HBM4 byte of stack 0. -/
def wHbm : Nat := 0x4000000000

/-- A walk of address 0 at level 3, or 0, from a table at 0x1000 whose first entry is `b`. -/
def wWalking (level b : Nat) : State :=
  { wRun.onTile 0 (fun x => { x with walks := [⟨0, level, 0x1000, []⟩] }) with mem := [(0x1000, BitVec.ofNat 8 b), (0x1001, 0x20)] }

/-- An entry that points to a table. -/
def isDown : WalkRes → Bool
  | .down _ _ => true
  | _ => false

/-- An entry that maps a page of its own. -/
def isLeaf : WalkRes → Bool
  | .leaf l => decide (l.lg ≠ 16)
  | _ => false

/-- An entry that stops the walk. -/
def isFail : WalkRes → Bool
  | .fail _ => true
  | _ => false

/-- An invalidation waits for a running operation. -/
def wInv : State := (wOp (mkOp .vsAdd .run 0 0)).onTile 0 (fun x => { x with invWait := [.op 0 0] })

theorem witness_MemoryAndTranslationResult : (wRun.region 0x40 = .peat 0 ∧ wRun.memOff 0x40 = false) ∧ State.reset.memOff 0x40 = true ∧
    ((wRun.wr F.HMC_STATUS_STATE 0 1).region wHbm = .hbm 0 0 ∧ (wRun.wr F.HMC_STATUS_STATE 0 1).memOff wHbm = false ∧ (wRun.wr F.HMC_CTL_SCRUB_EN 0 0).flag F.HMC_CTL_SCRUB_EN 0 = false ∧
      (wRun.wr F.HMC_CTL_SCRUB_EN 0 1).flag F.HMC_CTL_SCRUB_EN 0 = true) ∧
    ((wRun.region 0xE0).isDevice = true ∧ wRun.gate 0xE0 = .pass ∧ 0xE0 % 256 + 32 ≤ 256 ∧ wRun.isPoison 0xF8 = false) ∧
    (((wWalking 3 3).tile 0).walks[0]? = some ⟨0, 3, 0x1000, []⟩ ∧ isDown ((wWalking 3 3).walkEntry 3 0x1000 0) = true ∧
      isLeaf ((wWalking 0 5).walkEntry 0 0x1000 0) = true ∧ isFail ((wWalking 3 0).walkEntry 3 0x1000 0) = true) ∧ (∀ w ∈ (wRun.tile 0).invWait, wRun.invOpen 0 w = false) ∧
    (wRun.unitsRun 0 = true ∧ wRun.flag F.TMU_INV_STATUS_BUSY 0 = false ∧ (wRun.wr F.TMU_INV_STATUS_BUSY 0 1).flag F.TMU_INV_STATUS_BUSY 0 = true) ∧
    (Who.op 0 0 ∈ (wInv.tile 0).invWait ∧ wInv.invOpen 0 (.op 0 0) = true) := by
  refine ⟨by decide +kernel, by decide +kernel, by decide +kernel, by decide +kernel, by decide +kernel, by decide +kernel,
    by decide +kernel, by decide +kernel⟩

/-- A descriptor of one block from 0x1000 to 0x2000. -/
def wDesc : TdmDesc := ⟨0, 0, .mv 0, 0x1000, 0x2000, 32, 1, 3, 32, 32, 0, 0, false, 0, none, 0, none, none⟩

/-- Tile 0 with one descriptor. -/
def wTdm (d : TdmDesc) : State := wRun.onTile 0 (fun x => { x with tdm := [d] })

/-- A byte copy of codes and scale bytes whose first descriptor has landed no block. -/
def wPairOp : OpRec := { mkOp .mvCopy .run 0 0 with d := [BitVec.ofNat 256 (2 ^ 96), 0], phase := 0 }

/-- Its descriptor, of two blocks. -/
def wPairDesc : TdmDesc := { wDesc with rowLen := 65536, rows := 2 }

/-- Tile 0 with both. -/
def wPair : State := (wOp wPairOp).onTile 0 (fun x => { x with tdm := [wPairDesc] })

theorem witness_TdmDescriptorResult : (wDesc ∈ ((wTdm wDesc).tile 0).tdm ∧ ((wTdm wDesc).tile 0).desc 0 = some wDesc ∧ (wTdm wDesc).unitsRun 0 = true ∧
      wDesc.started = false ∧ ((wTdm wDesc).tile 0).before wDesc = [] ∧ bits wDesc.flags 4 12 = 0 ∧ bits wDesc.flags 2 1 = 0) ∧
    (wDesc.landed < wDesc.blocks ∧ (wTdm { wDesc with started := true }).readsOut 0 0 = false ∧
      lowestFault ((wTdm { wDesc with started := true }).blockFaults 0 { wDesc with started := true } 0) = none) ∧
    (lowestFault ((wTdm { wDesc with started := true, src := 0xFFFFFFFFF000 }).blockFaults 0
      { wDesc with started := true, src := 0xFFFFFFFFF000 } 0)).any (fun f => f.2.1) = true ∧
    ({ wDesc with started := true } : TdmDesc).failed = none ∧ ({ wDesc with started := true } : TdmDesc).bad = none ∧
    (wTdm { wDesc with started := true }).blockAts 0 { wDesc with started := true } 0 = false ∧
    ((wTdm wDesc).tile 0).pairCopy wDesc = none ∧ ((wPair.tile 0).pairCopy wPairDesc = some wPairOp ∧ (wPair.tile 0).lastBlock wPairOp wPairDesc = false) ∧
    (wTdm wDesc).descReady 0 wDesc = false ∧ (wTdm { wDesc with started := true, landed := 1 }).descReady 0 { wDesc with started := true, landed := 1 } = true := by
  refine ⟨by decide +kernel, by decide +kernel, by decide +kernel, by decide +kernel, by decide +kernel, by decide +kernel, by decide +kernel, by decide +kernel,
    by decide +kernel, by decide +kernel⟩

/-! ### Witnesses: Lode -/

/-- A CHAN_CFG word with EN, LOCAL, queue 255 and the given MAXLEN. -/
def wChanVal (maxlen : Nat) : BitVec 64 := BitVec.ofNat 64 (1 + 2 + 255 * 2 ^ 8 + 5 * 2 ^ 32 + maxlen * 2 ^ 48)

/-- Channel 511 of tile 0 with its STATE, AVAIL and ALLOT. -/
def wChan (st avail allot : Nat) : State :=
  wRun.wrs 0 511 [(F.LEP_CHAN_CRED_STATE, st), (F.LEP_CHAN_CRED_AVAIL, avail), (F.LEP_CHAN_CRED_ALLOT, allot), (F.LEP_CHAN_CFG_LOCAL, 1),
    (F.LEP_CHAN_CFG_MAXLEN, 4096), (F.LEP_CHAN_CFG_RANK, 5), (F.LEP_CHAN_CFG_QUEUE, 255)]

theorem witness_ChannelEnableAndDisable : ((wChan 2 1 1).lepRuns 0 = true ∧ State.reset.lepRuns 0 = false) ∧ ((wChan 2 1 1).rd F.LEP_CHAN_CRED_STATE 0 511 = 2 ∧ (wChan 2 1 1).rd F.LEP_CHAN_CRED_AVAIL 0 511 = (wChan 2 1 1).rd F.LEP_CHAN_CRED_ALLOT 0 511) ∧
    (wChan 2 0 1).rd F.LEP_CHAN_CRED_AVAIL 0 511 ≠ (wChan 2 0 1).rd F.LEP_CHAN_CRED_ALLOT 0 511 ∧ wRun.rd F.LEP_CHAN_CRED_STATE 0 511 = 0 ∧
    bits (wChanVal 4096).toNat 0 1 = 1 ∧ maxlenOk (bits (wChanVal 4096).toNat 48 13) = true ∧ maxlenOk (bits (wChanVal 32).toNat 48 13) = true ∧
    maxlenOk (bits (wChanVal 0).toNat 48 13) = false ∧ maxlenOk (bits (wChanVal 4128).toNat 48 13) = false ∧ bits (wChanVal 32).toNat 2 1 = 0 ∧
    bits (wChanVal 32).toNat 1 1 = 1 ∧ (wChan 1 0 1).rd F.LEP_CHAN_CRED_STATE 0 511 = 1 ∧ (wChan 3 0 1).rd F.LEP_CHAN_CRED_STATE 0 511 = 3 ∧
    (wChan 4 0 1).rd F.LEP_CHAN_CRED_STATE 0 511 = 4 := by
  decide +kernel

/-- Channel 511 of tile 0, and queue 255 of it. -/
def wSrc : Peer := ⟨0, 0, false, 511⟩
/-- Queue 255 of tile 0. -/
def wQ : QRef := ⟨0, 0, 255⟩

/-- Queue 255 in a state, of RANK 5 with two slots, and a unit on its way. -/
def wQueue (st : Nat) (m : List NetMsg) : State :=
  { wRun.wrs 0 255 [(F.LEP_Q_STATUS_STATE, st), (F.LEP_Q_CFG_RANK, 5), (F.LEP_Q_CFG_SLOTS, 2), (F.LEP_Q_BASE_VA, lsBase)] with net := m }

theorem witness_GrantAndCreditResult : wRun.lepAwake 0 = true ∧ State.reset.lepAwake 0 = false ∧ (wQueue 0 []).qState 0 255 ≠ 1 ∧
    ((wQueue 1 [.grantReq wSrc wQ 5 2]).net[0]? = some (.grantReq wSrc wQ 5 2) ∧ wQ.rank = wRun.rank ∧ (wQueue 1 []).qState 0 255 = 1 ∧
      (wQueue 1 []).flag F.LEP_Q_CFG_RESP 0 255 = false ∧ (wQueue 1 []).rd F.LEP_Q_CFG_RANK 0 255 = 5 ∧ (wQueue 1 []).flag F.LEP_Q_CFG_MERGE 0 255 = false ∧
      ((wQueue 1 []).queue 0 255).allotted + 2 ≤ (wQueue 1 []).rd F.LEP_Q_CFG_SLOTS 0 255 ∧
      (wQueue 1 []).rd F.LEP_Q_CFG_SLOTS 0 255 < ((wQueue 1 []).queue 0 255).allotted + 3) ∧
    (wQueue 1 []).rd F.LEP_Q_CFG_RANK 0 255 ≠ 4 ∧
    (({ wChan 1 0 2 with net := [.grantRep wSrc wQ none 7] } : State).net[0]? = some (.grantRep wSrc wQ none 7) ∧ wSrc.rank = wRun.rank ∧ wSrc.grp = false ∧
      (wChan 1 0 2).rd F.LEP_CHAN_CRED_STATE 0 511 = 1 ∧ (wChan 1 0 2).lepAwake (tileOf wSrc.tile) = true) ∧
    (({ wChan 2 0 2 with net := [.credit wSrc wQ] } : State).net[0]? = some (.credit wSrc wQ) ∧ (wChan 2 0 2).rd F.LEP_CHAN_CRED_STATE 0 511 = 2) ∧
    (wQueue 1 [.allotRet wSrc wQ]).net[0]? = some (.allotRet wSrc wQ) := by
  decide +kernel

/-- A Q_CFG word with EN and the given slots. -/
def wQVal (slots : Nat) : BitVec 64 := BitVec.ofNat 64 (1 + slots * 2 ^ 16)

/-- A GRP_CFG word with EN, COUNT and MAXLEN 4096. -/
def wGrpVal (count : Nat) : BitVec 64 := BitVec.ofNat 64 (1 + count * 2 + 4096 * 2 ^ 16)

/-- One member, of this device. -/
def wMember : State := (wRun.wr F.LEP_MEMBER_LOCAL0 0 1 (31 * 32)).putGrpCfg 0 31 (wGrpVal 1).toNat

theorem witness_QueueAndGroupEnable : ((wQueue 1 []).lepRuns 0 = true ∧ wMember.lepRuns 0 = true ∧ State.reset.lepRuns 0 = false) ∧ (wQueue 1 []).qState 0 255 ≠ 0 ∧ (wQueue 0 []).qState 0 255 = 0 ∧ bits (wQVal 4096).toNat 0 1 = 1 ∧
    bits (wQVal 0).toNat 16 13 = 0 ∧ bits (wQVal 4096).toNat 16 13 = 4096 ∧ (wQueue 0 []).rd F.LEP_Q_BASE_VA 0 255 = lsBase ∧ lsBase % 32 = 0 ∧
    lsBase + bits (wQVal 4096).toNat 16 13 * (32 + 32 * 2 ^ bits (wQVal 4096).toNat 29 3) ≤ 2 ^ 48 ∧ bits (wQVal 4096).toNat 3 2 = 0 ∧ qcfgRsv (wQVal 4096).toNat = false ∧
    ((wQueue 0 []).queue 0 255).baseRsv = false ∧ (wQueue 3 []).qState 0 255 = 3 ∧
    (wRun.rd F.LEP_GRP_STATE_STATE 0 31 = 0 ∧ bits (wGrpVal 0).toNat 1 7 = 0 ∧ 64 < bits (wGrpVal 65).toNat 1 7 ∧ bits (wGrpVal 64).toNat 1 7 = 64 ∧
      bits (wGrpVal 1).toNat 0 1 = 1 ∧ bits (wGrpVal 1).toNat 1 7 = 1 ∧ maxlenOk (bits (wGrpVal 1).toNat 16 13) = true) ∧
    (wMember.members 0 31).Nodup ∧ (∀ d ∈ wMember.members 0 31, wMember.reach d.rank = true) ∧ (wMember.members 0 31).length = 1 ∧
    (wRun.wr F.LEP_GRP_STATE_STATE 0 1 31).rd F.LEP_GRP_STATE_STATE 0 31 ≠ 0 := by
  decide +kernel

/-- A message header to queue 255 of tile 0 with RANK 5. -/
def wHdr : Nat := ({ Hdr.of 0 with kind := kRequest, dq := 255, crank := 5, ln := 0 } : Hdr).pack

/-- A queued send of one L16 element from address 0. -/
def wSend : OpRec := { mkOp .ldSend .run 0 0 with ga := 511, total := 2, d := [0, 0] }

/-- The message has a slot and waits to be appended. -/
def wLandedMsg : State := (nx (execMessageArrival 0 (wQueue 1 [.msg wHdr [] false wSrc none])))

theorem witness_MessageTransferResult : (((wOp wSend).tile 0).ops.find? 0 = some wSend ∧ wSend.op = .ldSend ∧ wSend.st = .run ∧ wSend.trap = none ∧ ((wOp wSend).tile 0).sendBehind wSend = false ∧
      ((wOp wSend).sendPath 0 wSend).1 = false) ∧
    ((wOp wSend).onTile 0 (fun x => x) |>.wrs 0 511 [(F.LEP_CHAN_CRED_STATE, 2), (F.LEP_CHAN_CFG_MAXLEN, 32), (F.LEP_CHAN_CFG_LOCAL, 1)] |>.sendPath 0 wSend).1 = true ∧
    ((wChan 2 1 1).acceptChan 0 511 ⟨0, true, 0, [0, 0], false, some 0⟩).isSome = true ∧ ((wChan 2 0 1).acceptChan 0 511 ⟨0, true, 0, [0, 0], false, some 0⟩).isNone = true ∧
    ((wQueue 1 [.msg wHdr [] false wSrc none]).mayArrive 0 = true ∧ (Hdr.of wHdr).kind ≠ kResponse ∧ (Hdr.of wHdr).dq = 255 ∧ tileOf (Hdr.of wHdr).dtile = 0 ∧
      (wQueue 1 []).arrivalCause 0 wHdr false = none ∧ (wQueue 1 []).arrivalCause 0 wHdr true = some 1) ∧
    ({ State.reset with net := [.msg wHdr [] false wSrc none] } : State).mayArrive 0 = false ∧ (wQueue 1 []).freeSlotOf 0 255 = some 0 ∧
    (wLandedMsg.queue 0 255).landed.find? (fun k => wLandedMsg.mayAppend 0 255 k) = some 0 ∧ (∀ k ∈ (wRun.queue 0 255).landed, wRun.mayAppend 0 255 k = false) ∧
    ((wLandedMsg.queue 0 255).slots.find? 0).isSome = true := by
  decide +kernel

/-- A result that is no error. -/
def isOk {ε α : Type} : Except ε α → Bool
  | .ok _ => true
  | .error _ => false

theorem witness_payload : ∃ bs p, (wOp wSend).payload 0 (wSend.td 1) 0 (min 32 2) = .ok (bs, p) := ⟨_, _, rfl⟩

/-- The message stands in the FIFO; entry 0 of the handler table is 0x400; MSG is idle. -/
def wMsg : State := (nx (execMessageAppend 0 255 wLandedMsg)).wrs 0 0 [(F.LEP_HT_VALID, 1), (F.LEP_HT_ENTRY, 0x100)] |>.onThr 0 1 (fun y => { y with st := .idle })

theorem witness_HandlerDispatchResult : (wMsg.thr 0 1).st = .idle ∧ wMsg.flag F.LEP_CTL_DSTOP 0 = false ∧ wMsg.tileRuns 0 = true ∧ wMsg.pickQueue 0 = some 255 ∧
    (wMsg.queue 0 255).fifo = 0 :: [] ∧ (∃ sl, (wMsg.queue 0 255).slots.find? 0 = some sl ∧ wMsg.handlerOf 0 (Hdr.of sl.hdr) = some (0x400, false)) ∧
    (wRun.thr 0 1).st ≠ .idle ∧ ∀ p ∈ (wMsg.tile 0).lep.queues, (wMsg.queue 0 p.1).passed < 64 := by
  refine ⟨by decide +kernel, by decide +kernel, by decide +kernel, by decide +kernel, by decide +kernel, ⟨_, rfl, by decide +kernel⟩, by decide +kernel⟩

/-- g1 names channel 511 and a length n, and the channel has a credit. -/
def wSendr (n : Nat) : State := (wChan 2 1 1).setG 0 0 1 (BitVec.ofNat 64 (511 + n * 2 ^ 32))

/-- The arguments of a send with its control word in g1 and its payload at g2. -/
def wSa : RArgs := ⟨0, 1, 2, 7⟩

theorem witness_ScalarLodeResult : ((wSendr 32).issues 0 .main ∧ ctlRsv (511 + 32 * 2 ^ 32) = false ∧ bits (511 + 4096 * 2 ^ 32) 31 1 = 0) ∧
    ((wSendr 32).g 0 0 1).toNat = 511 + 32 * 2 ^ 32 ∧ (wSendr 32).breaksRank 0 0 5 = false ∧ (wSendr 32).chanReach 0 511 = true ∧
    ((wSendr 32).wrs 0 511 [(F.LEP_CHAN_CFG_LOCAL, 0), (F.LEP_CHAN_CFG_FRANK, 5)]).chanReach 0 511 = false ∧
    ((wSendr 32).onTile 0 (fun x => { x with lep := { x.lep with held := [(0, ⟨255, 0, false⟩)] } }) |>.wr F.LEP_Q_CFG_RANK 0 6 255).breaksRank 0 0 5 = true ∧
    ((wSendr 32).rd F.LEP_CHAN_CRED_STATE 0 511 = 2 ∧ (wSendr 32).rd F.LEP_CHAN_CRED_AVAIL 0 511 = 1 ∧ (wSendr 32).flag F.LEP_CHAN_CFG_RESP 0 511 = false ∧
      (wSendr 32).rd F.LEP_CHAN_CFG_LOCAL 0 511 = 1 ∧ (wSendr 32).rank < 64 ∧ (wSendr 32).sbufRoom 0 64 = true) ∧
    (wChan 2 0 1).rd F.LEP_CHAN_CRED_AVAIL 0 511 = 0 ∧
    (4096 ≤ (wSendr 4096).rd F.LEP_CHAN_CFG_MAXLEN 0 511 ∧ ((wSendr 4096).g 0 0 2).toNat % 2 ^ 48 % 32 = 0 ∧ (((wSendr 32).setG 0 0 2 1).g 0 0 2).toNat % 2 ^ 48 % 32 ≠ 0) ∧
    (wRun.issues 0 .svc ∧ (wRun.tile 0).lep.held.find? 3 = none ∧ bits (⟨5, 1, 2, 4⟩ : RArgs).x.toNat 2 1 = 1 ∧ bits (⟨5, 1, 2, 3⟩ : RArgs).x.toNat 2 1 = 0 ∧
      wRun.selPick 0 3 0 0 true = none ∧ wRun.issues 0 .msg) := by
  unfold State.issues; decide +kernel

/-- A result of gathering a payload leads to an accepted send. -/
def gathered (s : State) (r : Except Act (List Byte × State)) : Bool :=
  match r with
  | .ok (bs, v) => (v.acceptChan 0 511 ⟨0, true, 0, bs, false, none⟩).isSome
  | .error _ => s.ns ≠ s.ns

theorem witness_gather : gathered wRun (((wSendr 32).fetched 0 .main (rWord clsThr 9 wSa)).gatherVa 0 .main 0 32) = true ∧
    isOk (((wSendr 32).fetched 0 .main (rWord clsThr 9 wSa)).gatherVa 0 .main 0 32) = true := by decide +kernel

/-- The queue is in SELECT mode and g1 names it. -/
def wSel : State := ((wMsg.wr F.LEP_Q_CFG_MODE 0 1 255).setG 0 0 1 0xFFFFFFFF000000FF)

theorem witness_select : ∃ gb q, wSel.selPick 0 0 255 gb false = some q ∧ (wSel.queue 0 q).fifo = 0 :: [] := ⟨0, 255, by decide +kernel⟩

/-! ### Witnesses: work rings -/

/-- Command 0 with its 64 bytes, started or not. -/
def wCmd (started : Bool) (body : Nat) : RCmd := ⟨0, body, started, false, false, false, false, false, 0, 0, [], 0, 0, 0⟩

/-- Ring 63 of function 0, READY, with commands; its buffers lie in Peat. -/
def wRing (cs : List RCmd) : State :=
  (wRun.wrs 0 63 [(F.HIU_RING_STATUS_STATE, 1), (F.HIU_RING_BASE_PA, 1), (F.HIU_CQ_BASE_PA, 2)]).onRing 0 63 (fun x => { x with cmds := cs })

/-- The ring in another state. -/
def wRingSt (st : Nat) : State := (wRing []).wr F.HIU_RING_STATUS_STATE 0 st 63

/-- A RING_CFG word with EN and LOG2SIZE 16. -/
def wRingVal (en : Nat) : BitVec 64 := BitVec.ofNat 64 (en + 16 * 2)

theorem witness_RingEnableAndDisable : State.reset.fnTakes 0 = false ∧ wRun.fnTakes 0 = true ∧ (wRingSt 2).rState 0 63 = 2 ∧ (wRingSt 1).rState 0 63 = 1 ∧
    (wRingSt 0).rState 0 63 = 0 ∧ bits (wRingVal 1).toNat 0 1 = 1 ∧ bits (wRingVal 0).toNat 0 1 = 0 := by
  decide +kernel

theorem witness_RingIn : (((wRing []).wr F.HIU_RING_STATUS_STATE 0 0 63).putRingCfg 0 63 9 true |>.wr F.HIU_RING_CFG_EN 0 1 63).ringIn 0 63 = true ∧
    (((wRing []).wrs 0 63 [(F.HIU_RING_STATUS_STATE, 0), (F.HIU_RING_BASE_PA, 0xFFFFFFFFFF)]).putRingCfg 0 63 9 true |>.wr F.HIU_RING_CFG_EN 0 1 63).ringIn 0 63 = false := by
  decide +kernel

/-- PROD is 1. -/
def wProd : State := (wRing []).onRing 0 63 (fun x => { x with prod := 1 })

theorem witness_DoorbellActed : (wRing []).fnTakes 0 = true ∧ (wRingSt 0).rState 0 63 ≠ 1 ∧ ((wRing []).rState 0 63 = 1 ∧ ((wRing []).ring 0 63).prod = 0) ∧
    ((wRing []).rSize 0 63 = 16 ∧ (16 + 2 ^ 32 - (wRing []).rd F.HIU_RING_STATUS_CONS 0 63 % 2 ^ 32) % 2 ^ 32 ≤ 16 ∧
      16 < (17 + 2 ^ 32 - (wRing []).rd F.HIU_RING_STATUS_CONS 0 63 % 2 ^ 32) % 2 ^ 32) ∧
    (wProd.fnLive 0 = true ∧ wProd.bar2Owes = false ∧ (wProd.hiuAts 0 0x1000 64).isNone = true ∧ (wProd.ring 0 63).fetched ≠ (wProd.ring 0 63).prod ∧ ((wProd.ring 0 63).cmds.filter (fun c => !c.started)).length < 16 ∧ wProd.rd F.HIU_RING_BASE_PA 0 63 = 1 ∧
      wProd.owes (fun w => w = .cmd 0 63 (wProd.ring 0 63).fetched) = false ∧ isOk (wProd.paCheck 0 0x1000) = true ∧ wProd.region 0x1000 = .peat 0 ∧ wProd.poisonIn 0x1000 64 = false) := by
  decide +kernel

/-- A running FENCE, and an earlier command with and without its record. -/
def wFence (rec : Bool) : State := wRing [{ wCmd true 3 with done := true, recorded := rec }, { wCmd true 7 with seq := 1 }]

theorem witness_FenceOrdersRing : ((wFence true).ring 0 63).cmds.find? (fun c => c.started && !c.done && c.op = 7) = some { wCmd true 7 with seq := 1 } ∧
    (∀ d ∈ ((wFence true).ring 0 63).cmds, d.started = true → d.seq ≠ 1 → d.recorded = true) ∧
    (∃ d ∈ ((wFence false).ring 0 63).cmds, d.started = true ∧ d.seq ≠ 1 ∧ d.recorded = false ∧ d.refused = false) := by
  decide +kernel

/-- The ring's buffer lies in host memory. -/
def wHostRing : State := wProd.wrs 0 63 [(F.HIU_RING_BASE_PA, 0x10000000)] |>.wrs 0 0 [(F.HIU_HWIN_CFG_EN, 1), (F.HIU_HWIN_CFG_PAGES, 1)]

theorem witness_RingRegisterResult : (wProd.rState 0 63 = 1 ∧ wProd.fnLive 0 = true ∧ (wProd.markPoison 0x1000).poisonIn 0x1000 64 = true ∧ isOk (wProd.paCheck 0 0x1000) = true ∧ (wProd.hiuAts 0 0x1000 64).isNone = true ∧
      wHostRing.rState 0 63 = 1 ∧ wHostRing.region 0x10000000000 = .host 0 ∧ isOk (wHostRing.paCheck 0 0x10000000000) = true ∧ isOk (wRun.paCheck 0 0x10000000000) = false) ∧
    ((wRing []).ring 0 63).fetched = ((wRing []).ring 0 63).prod ∧ (wRun.rState 0 63 = 0 ∧ wRun.fnTakes 0 = true) ∧
    (sub32 0 ((wRing []).rd F.HIU_CQ_HEAD_HEAD 0 63) ≤ sub32 ((wRing []).rd F.HIU_CQ_TAIL_TAIL 0 63) ((wRing []).rd F.HIU_CQ_HEAD_HEAD 0 63) ∧
      sub32 ((wRing []).rd F.HIU_CQ_TAIL_TAIL 0 63) ((wRing []).rd F.HIU_CQ_HEAD_HEAD 0 63) < sub32 1 ((wRing []).rd F.HIU_CQ_HEAD_HEAD 0 63)) ∧
    ((wRing []).ring 0 63).irqPend = 0 ∧ (((wRing []).onRing 0 63 (fun x => { x with irqPend := 1 })).ring 0 63).irqPend ≠ 0 ∧ (wRing []).rcmd 0 63 0 = none ∧
    ((wRing [wCmd false 3]).rcmd 0 63 0 = some (wCmd false 3) ∧ sub32 ((wRing [wCmd false 3]).rd F.HIU_RING_STATUS_CONS 0 63) 0 ≤ (wRing [wCmd false 3]).rSize 0 63) ∧
    ((wCmd false 3).started = false ∧ ({ wCmd true 3 with recorded := true } : RCmd).recorded = true ∧ (wCmd true 3).recorded = false) ∧
    (wRing [{ wCmd true 3 with total := 1 }]).cmdQueued 0 63 { wCmd true 3 with total := 1 } = false ∧
    ((wRun.onFn 0 (fun x => { x with msixEnable := true, msixPend := BitVec.ofNat 64 (2 ^ 63) })).fn 0).msixPend.getLsbD 63 = true := by
  decide +kernel

/-- A LAUNCH of tiles with no argument. -/
def wLaunch (tiles : Nat) : RCmd := wCmd false (1 + tiles * 2 ^ (8 * 0x24))

/-- A job at 0x3000 with a 32-byte argument there. -/
def wJob : Job := ⟨0, 63, 0, 0x3000, 0x3000, 32, false, none⟩

theorem witness_LaunchAndJobResult : ((wRing [wLaunch 1]).ready 0 63 1 = some (wLaunch 1) ∧ (wRing [wLaunch 1]).launchCheck 0 (wLaunch 1) = none ∧
      (∀ t ∈ (wLaunch 1).tiles, ((wRing [wLaunch 1]).tile t).launches.length < 8)) ∧
    (∃ t ∈ (wLaunch 1).tiles, (((wRing [wLaunch 1]).onTile 0 (fun x => { x with launches := List.replicate 8 wJob })).tile t).launches.length = 8) ∧
    ((wRing [wLaunch 0]).ready 0 63 1 = some (wLaunch 0) ∧ (wLaunch 0).tiles = [] ∧ (wRing [wLaunch 0]).launchCheck 0 (wLaunch 0) = some 0x21) ∧
    (wRing []).ready 0 63 1 = none ∧ ((0 : Fin 8) ∈ (wLaunch 1).tiles ∧ (wLaunch 1).field 0x20 4 = 0 ∧ (∀ u ∈ (wLaunch 1).tiles, wRun.hasTile 0 u.val = true ∧ wRun.unitIn u.val = true) ∧
      (wRun.wr F.TPC_STATUS_STATE 0 4).rd F.TPC_STATUS_STATE 0 = 4) ∧
    (((wRun.onTile 0 (fun x => { x with launches := [wJob] })).tile 0).launches = wJob :: [] ∧ (wRun.tile 0).job = none ∧ wRun.tileRuns 0 = true ∧ wRun.argFar wJob = [] ∧
      wRun.argFault wJob = none ∧ (wRun.hiuAts 0 0x3000 32).isNone = true ∧ wJob.argLen ≤ 262144 ∧ (wRun.tile 0).launches = []) ∧
    ((wRun.onTile 0 (fun x => { x with job := some ⟨wJob, true, none, none, 0, false, false, 0⟩ })).jobOver 0 = true ∧
      (⟨wJob, false, none, none, 0, false, false, 0⟩ : CurJob).ended = false) := by
  decide +kernel

/-- A COPY of 32 bytes from 0x3000 to 0x4000 on an engine code of tile 0. -/
def wCopy (e : Nat) : RCmd := wCmd false (2 + 0x3000 * 2 ^ 128 + 0x4000 * 2 ^ 192 + 31 * 2 ^ 256 + e * 16 * 2 ^ 304)

/-- A SIGNAL of value 5 at an address with an SOP. -/
def wSignal (a sop : Nat) : RCmd := wCmd false (3 + a * 2 ^ 128 + 5 * 2 ^ 192 + sop * 2 ^ 256)

/-- A WAIT at 0x3000 with a COND, its value 5, and a timeout. -/
def wWait (started : Bool) (a cond timeout : Nat) : RCmd := wCmd started (4 + a * 2 ^ 128 + 5 * 2 ^ 192 + cond * 2 ^ 256 + timeout * 2 ^ (8 * 0x24))

/-- A SIGNAL that adds to host memory. -/
def wHostSig : State := (wRing [wSignal 0x10000000000 1]).wrs 0 0 [(F.HIU_HWIN_CFG_EN, 1), (F.HIU_HWIN_CFG_PAGES, 1)] |>.onFn 0 (fun x => { x with atomicOp := true })

theorem witness_RingCommandResult : ((wRing []).ready 0 63 2 = none ∧ (wRing []).waiting 0 63 = none) ∧
    ((wRing [wCopy 3]).ready 0 63 2 = some (wCopy 3) ∧ (wRing [wCopy 3]).copyCheck 0 (wCopy 3) = none ∧ bits (wCopy 3).body 308 3 = 3 ∧
      ((wRing [wCopy 3]).tile (tileOf (bits (wCopy 3).body 304 3))).tdm.length < 64) ∧
    (64 ≤ (((wRing [wCopy 3]).onTile (tileOf (bits (wCopy 3).body 304 3)) (fun x => { x with tdm := List.replicate 64 wDesc })).tile (tileOf (bits (wCopy 3).body 304 3))).tdm.length ∧
      ((wRing [wCopy 3]).onTile (tileOf (bits (wCopy 3).body 304 3)) (fun x => { x with tdm := List.replicate 64 wDesc })).copyCheck 0 (wCopy 3) = none) ∧
    ((wRing [wCopy 5]).ready 0 63 2 = some (wCopy 5) ∧ (wRing [wCopy 5]).copyCheck 0 (wCopy 5) = some 0x21) ∧
    ((wRing [wSignal 0x3004 0]).ready 0 63 3 = some (wSignal 0x3004 0) ∧ (wSignal 0x3004 0).field 0x10 8 % 8 ≠ 0) ∧
    ((wRing [wSignal 0x3000 0]).ready 0 63 3 = some (wSignal 0x3000 0) ∧ (wRing [wSignal 0x3000 0]).signalCheck 0 (wSignal 0x3000 0) = none ∧
      ((wRing [wSignal 0x3000 0]).hiuAts 0 0x3000 8).isNone = true ∧ (wSignal 0x3000 0).field 0x20 1 = 0 ∧ wRun.region 0x3000 = .peat 0) ∧
    (wHostSig.ready 0 63 3 = some (wSignal 0x10000000000 1) ∧ wHostSig.signalCheck 0 (wSignal 0x10000000000 1) = none ∧ wHostSig.region 0x10000000000 = .host 0) ∧
    ((wRing [wSignal 0x3000 1]).ready 0 63 3 = some (wSignal 0x3000 1) ∧ (wRing [wSignal 0x3000 1]).signalCheck 0 (wSignal 0x3000 1) = none ∧
      (wSignal 0x3000 1).field 0x20 1 = 1 ∧ (wRing [wSignal 0x3000 1]).gate 0x3000 = .pass) ∧
    ((wRing [wWait false 0x3000 3 0]).ready 0 63 4 = some (wWait false 0x3000 3 0) ∧ 2 < (wWait false 0x3000 3 0).field 0x20 1) ∧
    ((wRing [wWait false 0x3000 2 0]).ready 0 63 4 = some (wWait false 0x3000 2 0) ∧ (wWait false 0x3000 2 0).field 0x20 1 ≤ 2 ∧
      isOk ((wRing [wWait false 0x3000 2 0]).paCheck 0 ((wWait false 0x3000 2 0).field 0x10 8)) = true) ∧
    ((wRing [wWait true 0x3000 1 9]).waiting 0 63 = some (wWait true 0x3000 1 9) ∧ (wRing [wWait true 0x3000 1 9]).rcmd 0 63 0 = some (wWait true 0x3000 1 9) ∧
      (wWait true 0x3000 1 9).holds ((wRing [wWait true 0x3000 1 9]).readNat 0 0x3000 8) = true ∧ (wWait true 0x3000 1 9).field 0x24 4 ≠ 0 ∧ wRun.isPoison 0x3000 = false ∧ (wRun.markPoison 0x3000).isPoison 0x3000 = true ∧ ((wRing [wWait true 0x3000 1 9]).hiuAts 0 0x3000 8).isNone = true) ∧
    (wWait false 0x3004 0 0).field 0x10 8 % 8 ≠ 0 ∧
    ((wWait true 0x3000 0 0).holds 0 = false ∧ (wWait true 0x3000 0 0).field 0x24 4 = 0 ∧ (wWait true 0x3000 0 0).field 0x20 1 = 0 ∧ (wWait true 0x3000 1 0).field 0x20 1 = 1) ∧
    (wRing [wCmd false 7]).ready 0 63 7 = some (wCmd false 7) := by
  decide +kernel

theorem witness_CompletionRecordWritten : isOk ((wRing []).paCheck 0 ((wRing []).rd F.HIU_CQ_BASE_PA 0 63 * 4096) true) = true ∧
    ((wRing []).region ((wRing []).rd F.HIU_CQ_BASE_PA 0 63 * 4096)).isDevice = true ∧ (wRing []).gate ((wRing []).rd F.HIU_CQ_BASE_PA 0 63 * 4096) = .pass := by
  decide +kernel

/-- A CHECKPOINT (op 5) or RESTORE (op 6) with its CKD at 0x3000. -/
def wCk (op : Nat) : RCmd := wCmd false (op + 0x3000 * 2 ^ 128)

/-- The CKD: one region of one block at 0x10000, the image in host memory, the shadow and the block map in stack 0. -/
def wCkd (op n : Nat) : State :=
  { (wRing [wCk op]).wrs 0 0 [(F.HMC_STATUS_STATE, 1), (F.HIU_HWIN_CFG_EN, 1), (F.HIU_HWIN_CFG_PAGES, 1)] with mem := [(0x3000, BitVec.ofNat 8 n), (0x300D, 1), (0x3014, 0x40), (0x3018, 8), (0x3022, 8), (0x3024, 0x40), (0x3042, 1), (0x3048, 1)] }

/-- A running checkpoint of that region. -/
def wJobCk : CkJob := ⟨0, 63, 0, false, 0x3000, [(0x10000, 1)], 0x10000000000, 0x4000000000, 8, 0x4000080000, 0, none, [0], [], [], 0, []⟩

/-- A held write of the block. -/
def wHeld : HeldWrite := ⟨0, 0x10040, .put [1], .none⟩

/-- A checkpoint whose block is still PENDING, with a held write of it and a free shadow block. -/
def wShCk : State := { wRun with ck := some { wJobCk with held := [wHeld], epoch := some 0, stage := 1 } }

theorem witness_CheckpointResult : (wRun.ready 0 63 5 = none ∧ (wCkd 5 1).ready 0 63 5 = some (wCk 5) ∧ (wCkd 6 1).ready 0 63 6 = some (wCk 6) ∧ (wCkd 5 1).ck = none) ∧
    ((wCkd 5 1).spanOk 0 0x3000 0x40 false = true ∧ (wCkd 5 1).ckdFar 0x3000 = [] ∧ ((wCkd 5 1).hiuAts 0 0x3000 0x40).isNone = true ∧ ((wCkd 5 1).hiuAts 0 0x3000 (ckdBytes 1)).isNone = true ∧ (wCkd 5 1).spanOk 0 0x3000 (ckdBytes 1) false = true ∧ (wCkd 5 1).poisonIn 0x3000 (ckdBytes 1) = false ∧
      ((wCkd 5 1).readCkd 0 0x3000).nreg = 1 ∧ (wCkd 5 1).ckdBad 0 0x3000 ((wCkd 5 1).readCkd 0 0x3000) false = false ∧
      (wCkd 5 1).ckdAccess 0 ((wCkd 5 1).readCkd 0 0x3000) false = true ∧ (wCkd 6 1).ckdBad 0 0x3000 ((wCkd 6 1).readCkd 0 0x3000) true = false ∧
      (wCkd 6 1).ckdAccess 0 ((wCkd 6 1).readCkd 0 0x3000) true = true ∧ (wCkd 5 0).ckdBad 0 0x3000 ((wCkd 5 0).readCkd 0 0x3000) false = true) ∧
    ((wCkd 5 1).wr F.TPC_STATUS_STATE 0 4).spanOk 0 0x3000 0x40 false = false ∧
    (({ wRun with ck := some wJobCk } : State).ck = some wJobCk ∧ wJobCk.start ≤ wRun.ns ∧ wRun.ns < ({ wJobCk with start := 1 } : CkJob).start) ∧
    (({ wJobCk with held := [wHeld] } : CkJob).held.find? (fun h => (blockOf wJobCk.regions 0 (wRun.localise h.pa)).any (fun b => decide (b.1 = 0))) = some wHeld ∧
      ({ wRun with ck := some { wJobCk with held := [wHeld], epoch := some 0, stage := 1, blocks := [3] } } : State).blockGate wHeld.pa = .pass ∧
      ({ wRun with ck := some { wJobCk with held := [wHeld], epoch := some 0, stage := 1, blocks := [1] } } : State).blockGate wHeld.pa = .hold ∧
      wShCk.blockGate wHeld.pa = .shadow 0 0x10000 0 ∧ (wShCk.shadowCopy 0 0x10000 0).ck.isSome = true) ∧
    (({ wJobCk with stage := 1, epoch := some 0, acked := [0] } : CkJob).acked.length = wJobCk.blocks.length ∧ wJobCk.acked.length ≠ wJobCk.blocks.length ∧ wRun.atsNeeds wJobCk.fn wJobCk.image = false) := by
  decide +kernel

/-! ### Witnesses: registers, functions, ports and the Fen -/

/-- A register's fields, and the entry, at an offset of a block lie in a given block. -/
def regIn (b : Blk) (off : Nat) (p : Blk → Bool) : Bool := (regAt b off).any (fun r => p r.2.1.blk)

theorem witness_RegisterWriteResult : wRun.fnTakes 0 = true ∧ State.reset.fnTakes 0 = false ∧ bar0At 0 0x1100000 = none ∧ bar0At 0 0x1200008 = some (.hmc, 0, 8) ∧
    bar0At 0 0x127FFF8 = some (.hmc, 7, 0xFFF8) ∧ regIn .hmc 0xFFF8 (fun _ => true) = false ∧ regIn .hmc 0 (fun b => decide (b = .hmc)) = true ∧
    wRun.reaches 0 .hmc 0 0 = true ∧ wRun.reaches 1 .hmc 0 0 = false ∧ 4 % 8 ≠ 0 ∧ (1 : Nat) ≠ 4 ∧ F.TPC_CMD_OP.acc = .wo ∧ F.VSU_NAN_STATUS_VALID.acc = .w1c ∧
    F.TCC_SVC_VEC_VEC.acc = .rw ∧
    (bits (1 : Nat) 0 1 = 1 ∧ bits (2 : Nat) 0 1 = 0 ∧ bits (0x10000 : Nat) 16 1 = 1 ∧ bits (3 : Nat) 0 2 = 3 ∧ wRun.rd F.LEP_CHAN_CRED_STATE 7 511 = 0 ∧ wRun.qState 7 255 = 0 ∧
      (wRun.wr F.LEP_CHAN_CRED_STATE 7 2 511).rd F.LEP_CHAN_CRED_STATE 7 511 ≠ 0 ∧ (wRun.wr F.LEP_Q_STATUS_STATE 7 1 255).qState 7 255 ≠ 0) := by
  decide +kernel

theorem witness_TpcCommands : (∃ u, exec (.tpcWake 0 7) wRun = .next u) ∧ (∃ u, exec (.tpcOff 0 7) wRun = .next u) ∧ (∃ u, exec (.tpcOn 0 7) wRun = .next u) :=
  ⟨⟨_, rfl⟩, ⟨_, rfl⟩, ⟨_, rfl⟩⟩

/-- VF 31 is enabled, with ATS on. -/
def wVf : State := (wRun.onFn 0 (fun x => { x with vfEnable := true, numVfs := 31, ari := true })).onFn 31 (fun x => { x with ats := true })

theorem witness_PcieFunctionResult : wRun.fnLive 31 = false ∧ wVf.fnLive 31 = true ∧ wVf.fnLive 0 = true ∧ wRun.fnTakes 0 = true ∧ (wRun.fn 0).ats = false ∧ (wVf.fn 31).ats = true ∧
    wVf.atcUsed < 512 ∧ 7 ∉ (wVf.fn 31).atc ∧ wVf.relaxed = [] ∧ (31 : Nat) ≤ 31 ∧ (wRun.fn 0).vfEnable = false ∧ (wProd.rState 0 63 = 1 ∧ (wProd.ring 0 63).fetched ≠ (wProd.ring 0 63).prod) ∧ wRun.rState 0 63 ≠ 1 ∧ wRun.rState 0 63 = 0 := by
  decide +kernel

/-- VF 31's partition holds tile 7. -/
def wPartOn : State := wVf.wrs 0 30 [(F.HIU_PART_CFG_EN, 1), (F.HIU_PART_CFG_TILES, 0x80)]

theorem witness_PartitionAndBar2Result : (wVf.fnTakes 0 = true ∧ wVf.partOn 31 = false ∧ (wVf.wrs 0 30 [(F.HIU_PART_CFG_FEN, 0), (F.HIU_PART_CFG_TILES, 0x80)]).partValid 31 = true ∧
      (wVf.wrs 0 30 [(F.HIU_PART_CFG_FEN, 0), (F.HIU_PART_CFG_TILES, 0)]).partValid 31 = false) ∧ wPartOn.partOn 31 = true ∧ State.reset.fnTakes 0 = false ∧
    wVf.rd F.HIU_PART_CFG_TILES 0 30 = 0 ∧ (wPartOn.wr F.HIU_RING_STATUS_STATE 31 1 63).ringsBusy 31 = true ∧ wPartOn.ringsBusy 31 = false ∧
    (wRun.rd F.HIU_BAR2_BASE_PA 0 * 2 ^ 30 = 0 ∧ wRun.bar2Refused 0 0x40 8 true = false ∧ wRun.bar2Refused 0 0x40 8 false = false ∧ wRun.farOf 0x40 8 = [] ∧
      wRun.bar2Refused 0 0x30000000000 8 true = true ∧ wRun.bar2Refused 0 0x30000000000 8 false = true ∧ 0x40 + 8 ≤ wRun.bar2Size 0 ∧ wRun.bar2Size 0 < 2 ^ 39 + 1) := by
  decide +kernel

/-- Port 15 in a state. -/
def wPort (st : Nat) (f : Port → Port) : State := (wRun.wrs 15 0 [(F.CWP_STATUS_STATE, st), (F.CWP_CTL_EN, 1), (F.CWP_CTL_ALLOW_X4, 1)]).onPort 15 f

theorem witness_PortTrainingResult : State.reset.fnTakes 0 = false ∧ wRun.fnTakes 0 = true ∧ wRun.flag F.CWP_CTL_EN 15 = false ∧ (wPort 2 id).flag F.CWP_CTL_EN 15 = true ∧
    (wPort 2 id).pState 15 = 2 ∧ wRun.pState 15 ≠ 2 ∧ 8 ≤ ((wPort 2 (fun x => { x with replays := 8 })).port 15).replays ∧ ((wPort 2 id).port 15).replays < 8 ∧ (wPort 1 id).pState 15 = 1 ∧
    (wPort 1 id).lanesRun 15 0x7E = none ∧ (wPort 1 id).lanesRun 15 0x1F = some (1, 0) ∧ ((wPort 1 (fun x => { x with linkid := true })).port 15).linkid = true ∧ (wPort 3 id).pState 15 = 3 ∧
    (wRun.wr F.CWP_CTL_ALLOW_X4 15 0).flag F.CWP_CTL_ALLOW_X4 15 = false ∧ ((wPort 3 (fun x => { x with quick := true })).port 15).quick = true ∧ ((wPort 3 id).port 15).quick = false ∧
    ((wPort 1 (fun x => { x with attempts := 2 })).port 15).attempts < 3 ∧ 3 ≤ ((wPort 1 (fun x => { x with attempts := 3 })).port 15).attempts := by
  decide +kernel

/-- A flit of a type with nothing in it. -/
def wFlit (ft : FType) : Flit := { Flit.idle with vc := 6, sop := true, eop := true, plen := 32, ftype := ft }

/-- It stands in the retry window. -/
def wWin (ft : FType) : WinFlit := ⟨wFlit ft, none⟩

/-- A packet of a virtual channel. -/
def wTx (vc : Nat) : TxPkt := ⟨.mgmt .heartbeat [], vc, 0, 0, 0, false, 0⟩

/-- Port 15 UP with credits. -/
def wUp (f : Port → Port) : State := (wPort 2 f).wrs 15 5 [(F.CWP_VC_TXCRED0, 1)] |>.wrs 15 6 [(F.CWP_VC_TXCRED0, 1)] |>.wrs 15 0 [(F.CWP_VC_TXCRED0, 1)]

theorem witness_PortTrafficResult : wRun.pState 15 ≠ 2 ∧ wRun.pState 15 ≠ 1 ∧ (wPort 1 id).pState 15 = 1 ∧
    ((wUp (fun x => { x with time := [[1]] })).pState 15 = 2 ∧ ((wUp (fun x => { x with time := [[1]] })).port 15).time = [1] :: [] ∧
      1 ≤ (wUp id).rd F.CWP_VC_TXCRED0 15 5 ∧ wRun.rd F.CWP_VC_TXCRED0 15 5 = 0) ∧
    (((wUp (fun x => { x with window := [wWin .data], replay := some 0 })).port 15).replay = some 0 ∧
      ((wUp (fun x => { x with window := [wWin .data], replay := some 0 })).port 15).window[0]? = some (wWin .data)) ∧
    (((wUp id).port 15).replay = none ∧ ((wUp id).port 15).time = [] ∧ (wUp id).unitIn 31 = true ∧ ((wUp id).wr F.FRV_USR_STATE 0 3 31).unitIn 31 = false) ∧
    ((wUp (fun x => { x with queue := [wTx 6] })).vcReady 15 6 = true ∧ (wUp id).vcReady 15 6 = false ∧ ((wUp (fun x => { x with queue := [wTx 0] })).rotate 15).isSome = true ∧
      (wUp id).rotate 15 = none ∧ ((wUp (fun x => { x with queue := [wTx 6] })).port 15).head 6 = some (wTx 6)) ∧
    ((wUp (fun x => { x with owed := 1 })).port 15).owed ≠ 0 ∧ ((wUp id).port 15).owed = 0 ∧
    (((wUp id).port 15).pair.length < 4 ∧ ((wUp (fun x => { x with pair := [0, 0, 0, 0] })).port 15).pair.length = 4) ∧
    (((wUp id).port 15).rxPos = 0 ∧ ((wUp (fun x => { x with rxPos := 2 })).port 15).rxPos = 2) ∧
    (flitUe 0 (((wUp id).port 15).nextFlit [0, 0, 0, 0, 0, 0, 0, 0]).rxUe = false ∧ ((wUp (fun x => { x with rxSeq := 1, rxBad := true })).port 15).rxBad = true ∧
      ((wUp id).port 15).rxBad = false ∧ 15 < [16].sum ∧ [0].sum = 0) ∧
    (({ wFlit .idle with ackv := true } : Flit).ackv = true ∧ ({ wFlit .idle with ackv := true } : Flit).nak = false ∧
      ((wUp (fun x => { x with window := [wWin .data] })).port 15).window = wWin .data :: [] ∧ (wWin .data).flit.seq = (wFlit .idle).ack ∧
      ({ wFlit .idle with nak := true } : Flit).ackv = false) := by
  decide +kernel

/-- A flit of the type with a payload. -/
def wPay (ft : FType) (l : List Byte) : Flit := { wFlit ft with payload := l }

/-- The words a port sends of these types are good, and each reads as its own type. -/
theorem witness_flits (ft : FType) (l : List Byte) : flitCrc (wPay ft l).word = true ∧ flitRsv (wPay ft l).word = true ∧ (Flit.of (wPay ft l).word).ftype = ft := by
  refine ⟨flitCrc_word _, ?_, ?_⟩
  · have h : bits (wPay ft l).head 7 1 = 0 ∧ bits (wPay ft l).head 58 6 = 0 ∧ bits (wPay ft l).head 94 2 = 0 := by
      rw [show (wPay ft l).head = (wFlit ft).head from rfl]; cases ft <;> decide
    simp only [flitRsv, Flit.word_bits _ 7 1 (by decide), Flit.word_bits _ 58 6 (by decide), Flit.word_bits _ 94 2 (by decide), h]; decide
  · simp only [Flit.of, Flit.word_bits _ 28 4 (by decide), show (wPay ft l).head = (wFlit ft).head from rfl]; cases ft <;> decide

/-- They carry SEQ 0, which the port awaits or not. -/
theorem witness_flit_seq (ft : FType) : (Flit.of (wFlit ft).word).seq = ((wUp id).port 15).rxSeq ∧
    (Flit.of (wFlit ft).word).seq ≠ ((wUp (fun x => { x with rxSeq := 1 })).port 15).rxSeq := by
  have h : (Flit.of (wFlit ft).word).seq = 0 := by simp only [Flit.of, Flit.word_bits _ 32 12 (by decide)]; cases ft <;> decide
  rw [h]; decide +kernel

/-- A TIME flit with a TTYPE and one without. -/
theorem witness_flit_time : (Flit.of (wPay .time [1]).word).timeOk = true ∧ (Flit.of (wPay .time []).word).timeOk = false := by
  simp only [Flit.timeOk, Flit.word_payload]; decide +kernel

/-- A word with an RSV bit set. -/
theorem witness_flit_bad : flitRsv 0x80 = false := by decide +kernel

/-- Fenreeve runs, this device has DEVID 5, and FEN.STATUS.STATE is given. -/
def wFen (st : Nat) (f : FenForm) : State :=
  let s := wRun.wrs 0 0 [(F.FRV_STATUS_BOOT, 1), (F.FEN_STATUS_STATE, st)]
  { s with fen := f, regs := s.regs.put (F.FEN_DEVID_DEVID.key 0 0) 5 }

/-- A HELLO of a device. -/
def wHello (d : Nat) : Hello := ⟨d, 0, 0, [], []⟩

/-- An assignment for a device. -/
def wAssign (d : Nat) : Assignment := ⟨d, 0, 1, 1, 0, 0, 0, 0, [], [⟨15, 0, false, true, true, 0, 0⟩], 0⟩

theorem witness_FormationResult : (State.reset.fnTakes 0 = false ∧ (wFen 1 .none).fnTakes 0 = true ∧ (wFen 1 .none).fwRuns = true) ∧
    ((wFen 1 .none).fenState = 1 ∧ (wHello 9).devid ≠ (wFen 1 .none).devid ∧ wHello 9 ∉ (wFen 1 .none).fen.hellos ∧ (wFen 0 .none).fenState ≠ 1 ∧
      (∃ g ∈ (wFen 1 { FenForm.none with hellos := [{ wHello 9 with prio := 1 }] }).fen.hellos, g.devid = 9)) ∧
    (wFen 2 .none).fenState = 2 ∧ (wFen 3 .none).fenState = 3 ∧ (∃ h ∈ (wFen 1 { FenForm.none with hellos := [wHello 5] }).fen.hellos, h.devid ≤ 5) ∧
    ((wFen 1 .none).fen.plan = [] ∧ (∀ h ∈ (wFen 1 { FenForm.none with hellos := [wHello 6] }).fen.hellos, (wFen 1 .none).devid < h.devid) ∧
      ((wFen 1 .none).wr F.FEN_CTL_USE_PLAN 0 1).flag F.FEN_CTL_USE_PLAN 0 = true ∧
      ((wFen 1 .none).wr F.FEN_CTL_USE_PLAN 0 1).planFits (insHello (wFen 1 .none).ownHello []) = false ∧ (wFen 1 .none).flag F.FEN_CTL_USE_PLAN 0 = false ∧
      64 < (insHello (wFen 1 .none).ownHello ((List.range 64).map (fun k => wHello (k + 6)))).length ∧ (wFen 1 .none).fen.hellos = []) ∧
    ((wFen 1 .none).fen.leads = false ∧ (wAssign 5).devid = (wFen 1 .none).devid ∧ (wAssign 5).routes[0]? = some ⟨15, 0, false, true, true, 0, 0⟩) ∧
    ((wFen 1 { FenForm.none with leads := true, plan := [wAssign 5, wAssign 9] }).fen.leads = true ∧ (∃ a ∈ [wAssign 5, wAssign 9], a.devid = 9 ∧ a.devid ∉ [5]) ∧
      ∀ a ∈ [wAssign 5, wAssign 9], a.devid ∈ [5, 9]) ∧
    ((wFen 1 { FenForm.none with plan := [wAssign 5] }).fen.plan ≠ [] ∧ (wFen 2 .none).rd F.FEN_STATUS_FEPOCH 0 = (0 : BitVec 16).toNat ∧
      (wFen 2 .none).rd F.FEN_STATUS_FEPOCH 0 ≠ (1 : BitVec 16).toNat) := by
  decide +kernel

/-- A memory request or response for this device. -/
def wMem (mop n addr drank : Nat) : RxPkt := ⟨15, 3, 0, drank, 1, false, 32 + n, .mem ⟨mop, 0, n, 0, addr, false⟩ (List.replicate 16 0) false⟩

/-- The packet has come, and inbound window 15 takes all of Peat 0 from every rank. -/
def wRx (p : RxPkt) : State :=
  { wRun.wrs 0 15 [(F.FEN_INWIN_PERM_EN, 1), (F.FEN_INWIN_PERM_R, 1), (F.FEN_INWIN_PERM_W, 1), (F.FEN_INWIN_PERM_AMO, 1), (F.FEN_INWIN_RANKS_RANKS, 2 ^ 64 - 1),
      (F.FEN_INWIN_LIMIT_LIMIT, 0x1FFFFFFFF)] with rx := [p] }

/-- The request whose answer is awaited. -/
def wReq : RemReq := ⟨.none, 0, 0x1000, 32, 1, [], false⟩

theorem witness_RemoteMemoryResult : wRun.rx[0]? = none ∧ (wMem 0 256 0x1000 1).drank ≠ wRun.rank ∧ (wMem 0 256 0x1000 0).drank = wRun.rank ∧
    ((⟨0, 0, 256, 0, 0x1001, false⟩ : MemHdr).formOk = false ∧ (⟨0, 0, 256, 0, 0x1000, false⟩ : MemHdr).formOk = true ∧ inDevice 0x1000 256 = true ∧
      (wRx (wMem 0 256 0x1000 0)).windowOk 1 0x1000 256 0 = true ∧ inDevice 0x1080000000 8 = false ∧ (wRx (wMem 0 256 0x1000 0)).windowOk 1 0x200000000 32 0 = false) ∧
    ((wRx (wMem 0 256 0x1000 0)).memServes 0x1000 = true ∧ ((wRx (wMem 0 256 0x1000 0)).wr F.TPC_STATUS_STATE 0 4).memServes 0x1000 = false ∧
      (wRx (wMem 4 16 0x1000 0)).gate 0x1000 = .pass ∧ (⟨4, 0, 16, 0, 0x1000, false⟩ : MemHdr).formOk = true ∧ (wRx (wMem 4 16 0x1000 0)).windowOk 1 0x1000 8 4 = true ∧
      (wRx (wMem 1 32 0x1000 0)).windowOk 1 0x1000 32 1 = true) ∧
    (∀ w < 16, wRun.flag F.FEN_INWIN_PERM_EN 0 w = false) ∧
    ((wRx (wMem 8 32 0x1000 0)).rem.find? 0 = none ∧ ({ wRx (wMem 8 32 0x1000 0) with rem := [(0, wReq)] } : State).rem.find? 0 = some wReq ∧ wReq.rank = (wMem 8 32 0x1000 0).srank ∧
      ({ wReq with rank := 2 } : RemReq).rank ≠ (wMem 8 32 0x1000 0).srank ∧ (⟨8, 0, 32, 0, 0x1000, false⟩ : MemHdr).answers wReq = true ∧
      (⟨9, 0, 32, 0, 0x1000, false⟩ : MemHdr).answers wReq = false) ∧
    ((wRx (wMem 0 32 0x1000 1)).routePort 1 1 = none ∧ ((wRx (wMem 0 32 0x1000 1)).wrs 0 1 [(F.FEN_ROUTE_VALID, 1), (F.FEN_ROUTE_PORT, 15)]).routePort 1 1 = some 15 ∧
      ∃ q ∈ [wMem 0 32 0x1000 1], q.vc = 3 ∧ q.srank = 1 ∧ q.drank = 1) := by
  decide +kernel

theorem witness_RemoteHeld : ({ wRx (wMem 1 32 0x10040 0) with ck := some { wJobCk with epoch := some 0, stage := 1, blocks := [1] } } : State).gate 0x10040 = .hold := by decide +kernel

/-! ### Witnesses: time, power, management, failures and resets -/

/-- The TBU of this device in a PPSSTATE and SERVO state, Tidemaster or not, in a formed Fen. -/
def wTime (master servo pps : Nat) : State :=
  wRun.wrs 0 0 [(F.TBU_STATUS_MASTER, master), (F.TBU_STATUS_SERVO, servo), (F.TBU_STATUS_PPSSTATE, pps), (F.TBU_PPS_CFG_IN_EN, 1), (F.TBU_PPS_CFG_OUT_EN, 1),
    (F.TBU_PPS_CFG_GATE, 1), (F.FEN_STATUS_STATE, 2)]

/-- An offset from the second. -/
def wAway : State := { wTime 1 0 2 with ns := 100001 }

theorem witness_TimeCountResult : State.reset.fnTakes 0 = false ∧ ((wTime 1 0 0).fnTakes 0 = true ∧ (wTime 1 0 0).flag F.TBU_STATUS_MASTER 0 = true ∧
      (wTime 1 0 0).rd F.TBU_SET_FRAC_FRAC 0 < 2 ^ 32 ∧ (wTime 0 1 0).flag F.TBU_STATUS_MASTER 0 = false ∧ (wTime 1 0 0).tbu.held = (0 : BitVec 32).toNat) ∧
    (wRun.pins.cold = false ∧ wRun.rd F.FRV_STATUS_BOOT 0 ≠ 1 ∧ wRun.rd F.FRV_STATUS_BOOT 0 ≠ 2 ∧ (wRun.wr F.FRV_STATUS_BOOT 0 1).rd F.FRV_STATUS_BOOT 0 = 1) ∧
    (wAway.tbu.setSec ≠ some (wAway.ns / 1000000000) ∧ ({ wAway with tbu := { wAway.tbu with setSec := some 0 } } : State).tbu.setSec = some (wAway.ns / 1000000000)) ∧
    ((wTime 1 0 0).flag F.TBU_PPS_CFG_IN_EN 0 = true ∧ 100000 * 2 ^ 32 < (wAway.ppsError ((wAway.count96 : Int) + signed 32 (wAway.rd F.TBU_PPSIN_ADJ_ADJ 0) * 2 ^ 24)).natAbs ∧
      wAway.rd F.TBU_STATUS_PPSSTATE 0 = 2 ∧ ((wTime 1 0 2).ppsError (((wTime 1 0 2).count96 : Int) + signed 32 ((wTime 1 0 2).rd F.TBU_PPSIN_ADJ_ADJ 0) * 2 ^ 24)).natAbs ≤ 100000 * 2 ^ 32) ∧
    wRun.flag F.TBU_PPS_CFG_IN_EN 0 = false ∧ wRun.rd F.TBU_STATUS_PPSSTATE 0 = 0 ∧ ((wTime 0 2 0).rd F.TBU_STATUS_SERVO 0 = 2 ∧ (wRun.wr F.TBU_PPS_CFG_OUT_EN 0 0).flag F.TBU_PPS_CFG_OUT_EN 0 = false ∧
      (wTime 0 2 0).flag F.TBU_PPS_CFG_OUT_EN 0 = true ∧ (∀ r ∈ (wTime 0 2 0).tbu.pulsed, (wTime 0 2 0).pulseSecond < r.1 ∨ r.2 < (wTime 0 2 0).pulseSecond)) ∧
    (∃ r ∈ ({ wTime 0 2 0 with tbu := { (wTime 0 2 0).tbu with pulsed := [(0, 0)] } } : State).tbu.pulsed, r.1 ≤ (wTime 0 2 0).pulseSecond ∧ (wTime 0 2 0).pulseSecond ≤ r.2) ∧
    ((wTime 0 3 0).rd F.TBU_STATUS_SERVO 0 = 3 ∧ (wTime 0 3 0).flag F.TBU_PPS_CFG_GATE 0 = true) ∧ wRun.pins.pps = false ∧
    ({ wRun with pins := { wRun.pins with pps := true } } : State).pins.pps = true := by
  decide +kernel

/-- A follower whose parent port is 15 with an exchange in progress. -/
def wExch (e : Option Exch) : State := { (wTime 0 2 0).wr F.TBU_STATUS_PPORT 0 15 with tbu := { Tbu.reset with exch := e, delays := [2 ^ 40] } }

theorem witness_TimeServoResult : (wRun.inTree = false ∧ (wExch none).inTree = true) ∧ (wRun.rd F.TBU_STATUS_SERVO 0 = 0 ∧ (wTime 0 2 0).rd F.TBU_STATUS_SERVO 0 = 2 ∧ (wTime 0 3 0).rd F.TBU_STATUS_SERVO 0 = 3) ∧
    (wRun.isParent 15 = false ∧ (wExch none).isParent 15 = true ∧ (wExch none).tbu.exch = none) ∧
    ((wExch (some ⟨7, 0, 2 ^ 39, 2 ^ 39, false⟩)).tbu.exch = some ⟨7, 0, 2 ^ 39, 2 ^ 39, false⟩ ∧ (⟨7, 0, 2 ^ 39, 2 ^ 39, false⟩ : Exch).t3 ≠ 0 ∧ (⟨7, 0, 2 ^ 39, 2 ^ 39, false⟩ : Exch).xseq = (7 : BitVec 16).toNat ∧
      (⟨7, 0, 2 ^ 39, 2 ^ 39, true⟩ : Exch).stepped = true ∧ (⟨7, 0, 2 ^ 39, 0, false⟩ : Exch).t3 = 0 ∧ (wExch (some ⟨7, 0, 2 ^ 39, 2 ^ 39, false⟩)).tbu.exch ≠ none) ∧
    ((wRun.flag F.TBU_STATUS_MASTER 0 = true)) ∧
    (wExch none).delayBad (diff96 (2 ^ 39) 0 + diff96 (2 ^ 40) (2 ^ 39)) = false ∧ (wExch none).delayBad (2 ^ 90) = true ∧
    (diff96 (2 ^ 39) 0 - diff96 (2 ^ 40) (2 ^ 39) - signed 32 ((wExch none).rd F.TBU_ASYM_ASYM 0 ((wExch none).rd F.TBU_STATUS_PPORT 0)) * 2 ^ 24).natAbs ≤ 2 * (wExch none).stepLimit ∧
    2 * (wExch none).stepLimit < (diff96 (2 ^ 60) 0 - diff96 (2 ^ 40) (2 ^ 60) - signed 32 ((wExch none).rd F.TBU_ASYM_ASYM 0 ((wExch none).rd F.TBU_STATUS_PPORT 0)) * 2 ^ 24).natAbs ∧
    ((wExch none).rd F.TBU_STATUS_MRANK 0 = (64 : BitVec 8).toNat % 64) ∧ ((wExch none).flag F.TBU_STATUS_MASTER 0 = false ∧ (wExch none).rd F.TBU_STATUS_SERVO 0 = 2) := by
  decide +kernel

/-- Tile 7 with its power state and flags, its threads idle. -/
def wPow (st entering waking memwake target : Nat) : State :=
  (({ State.reset with pins := { State.reset.pins with perst := false } } : State).wrs 7 0 [(F.TPC_STATUS_STATE, st), (F.TPC_STATUS_ENTERING, entering), (F.TPC_STATUS_WAKING, waking),
    (F.TPC_STATUS_MEMWAKE, memwake), (F.TPC_CTL_DOZE_IDLE, 1), (F.TPC_CTL_NAP_IDLE, 1), (F.TPC_CTL_SLEEP_IDLE, 1), (F.TPC_CTL_MAXDEPTH, 3)]).onTile 7 (fun x => { x with tpc := ⟨target, false, false⟩ })

theorem witness_TilePowerResult : ((wPow 0 0 0 0 0).rd F.TPC_CTL_DOZE_IDLE 7 ≠ 0 ∧ (wPow 0 0 0 0 0).rd F.TPC_CTL_NAP_IDLE 7 ≠ 0 ∧ (wPow 0 0 0 0 0).rd F.TPC_CTL_SLEEP_IDLE 7 ≠ 0 ∧
      (wPow 0 0 0 0 0).tpcQuiet 7 = true ∧ (wPow 0 0 0 0 0).tileIdle 7 = true ∧ 3 ≤ (wPow 0 0 0 0 0).maxDepth 7 ∧ (wPow 0 0 0 0 0).rd F.TPC_STATUS_STATE 7 < 1 ∧
      (wPow 3 0 0 1 0).rd F.TPC_STATUS_STATE 7 = 3 ∧ (wPow 3 0 0 1 0).flag F.TPC_STATUS_MEMWAKE 7 = true ∧ (wPow 3 0 0 1 0).tileIdle 7 = true) ∧
    ((wPow 0 1 0 0 4).flag F.TPC_STATUS_ENTERING 7 = true ∧ ((wPow 0 1 0 0 4).tile 7).tpc.target = 4 ∧ ((wPow 0 1 0 0 3).tile 7).tpc.target = 3 ∧ ((wPow 0 1 0 0 1).tile 7).tpc.target < 3 ∧
      (wPow 0 1 0 0 3).flag F.TPC_STATUS_WAKING 7 = false ∧ (wPow 0 1 0 0 4).tpcQuiet 7 = false) ∧ (wPow 0 0 0 0 0).flag F.TPC_STATUS_ENTERING 7 = false ∧
    ((wPow 3 0 0 0 0).rd F.TPC_STATUS_STATE 7 = 3 ∧ (wPow 3 0 0 0 0).flag F.TPC_STATUS_MEMWAKE 7 = false ∧ (wPow 3 0 0 1 0).flag F.TPC_STATUS_MEMWAKE 7 = true) ∧
    ((wPow 1 0 1 0 0).flag F.TPC_STATUS_WAKING 7 = true ∧ (wPow 1 0 1 0 0).rd F.TPC_STATUS_STATE 7 < 4 ∧ (((wPow 1 0 1 0 0).onTile 7 (fun x => { x with tpc := ⟨0, true, false⟩ })).tile 7).tpc.full = true ∧
      ((wPow 1 0 1 0 0).tile 7).tpc.full = false) ∧
    (((wPow 0 0 0 0 0).onTile 7 (fun x => { x with resetting := true })).tile 7).resetting = true ∧ ((wPow 0 0 0 0 0).tile 7).resetting = false ∧ (wPow 0 0 0 0 0).pins.cold = false ∧
    ((wPow 4 0 0 0 0).rd F.TPC_STATUS_STATE 7 = 4 ∧ (wPow 4 0 0 0 0).tpcQuiet 7 = true ∧ (wPow 4 0 1 0 0).flag F.TPC_STATUS_WAKING 7 = true ∧ (wPow 4 0 1 0 0).rd F.TPC_STATUS_STATE 7 = 4 ∧
      (wPow 4 0 1 0 0).flag F.FLT_STATUS_FENSTOP 0 = false) ∧ (31 : Fin 32).val ≠ 0 := by
  decide +kernel

theorem witness_FabricAndSensorResult : wRun.fb4Needed = true ∧ State.reset.fb4Needed = false ∧ State.reset.rd F.PCM_STATUS_FABGATED 0 < 32 ∧
    ((wRun.wr F.HMC_STATUS_STATE 7 2).rd F.HMC_STATUS_STATE 7 = 2 ∧ (wRun.wr F.HMC_STATUS_STATE 7 3).rd F.HMC_STATUS_STATE 7 = 3 ∧ (wRun.wr F.HMC_STATUS_STATE 7 1).rd F.HMC_STATUS_STATE 7 = 1) ∧
    ((wRun.wr F.FRV_USR_STATE 0 1 15).usr 15 = 1 ∧ wRun.usr 15 ≠ 1) ∧ (nx (execColdReset State.reset)).pins.cold = true ∧ wRun.pins.cold = false ∧ wRun.pins.therm = false ∧
    wRun.rd F.PCM_TLIMIT_DEGC 0 ≤ 100 ∧ wRun.rd F.PCM_STATUS_DUTY 0 < 64 := by
  decide +kernel

/-- Temperatures below the critical limits, and at them. -/
theorem witness_temps : (∀ i c, (List.take 17 [100])[i]? = some c → c < if i < 9 then 110 else 105) ∧ ∃ i c, (List.take 17 [110])[i]? = some c ∧ (if i < 9 then 110 else 105) ≤ c := by
  refine ⟨fun i c h => ?_, 0, 110, by decide, by decide⟩
  match i with
  | 0 => have : c = 100 := by simpa using h.symm
         subst this; decide
  | n + 1 => simp at h

/-- Fenreeve runs. -/
def wFrv : State := wRun.wr F.FRV_STATUS_BOOT 0 1

/-- A unit command of the mailbox. -/
def wUc (cmd unit expect arg : Nat) : UCmd := ⟨some .smb, false, cmd, unit, expect, arg, false⟩

/-- Unit 7 in a STATE of Table 16-7. -/
def wUsr (st : Nat) : State := wFrv.wr F.FRV_USR_STATE 0 st 7

/-- A mailbox request is in progress. -/
def wMbx (r : Nat × Nat) : State := { wFrv with frv := { wFrv.frv with mbx := some r } }

theorem witness_UnitCommandResult : (wFrv.answers false = true ∧ State.reset.answers true = false ∧ wFrv.frv.mbx = none ∧ (wMbx (1, 0)).frv.mbx = some (1, 0) ∧
      (wMbx (1, 0)).answers (ucOfMbx (1, 0)).readOnly = true ∧ bits (1 : Nat) 0 8 ≠ 2 ∧ ((wMbx (2, 0)).wr F.FRV_STATUS_BOOT 0 2).answers (ucOfMbx (2, 0)).readOnly = false) ∧
    ((wMbx (1, 0)).answers (ucOfMbx (10, 0)).readOnly = true ∧ 1 ≤ bits (10 : Nat) 0 8 ∧ bits (10 : Nat) 0 8 ≤ 10 ∧ bits (256 : Nat) 0 8 = 0 ∧ 10 < bits (11 : Nat) 0 8 ∧
      (({ wMbx (2, 0) with frv := { (wMbx (2, 0)).frv with mbx := none } } : State).wr F.FRV_STATUS_BOOT 0 2).answers (ucOfMbx (2, 0)).readOnly = false) ∧
    (wFrv.fnTakes 0 = true ∧ State.reset.fnTakes 0 = false ∧ (wFrv.wr F.FRV_MBX_STATUS_BUSY 0 1).flag F.FRV_MBX_STATUS_BUSY 0 = true ∧ wFrv.flag F.FRV_MBX_STATUS_BUSY 0 = false) ∧
    ((wUc 11 0 0 0).bad = true ∧ (wUc 1 0x27 0 0).bad = false ∧ (wUc 8 0xFF 0 0).bad = false ∧ wFrv.ucDeny { wUc 8 0xFF 0 0 with origin := some .vdm } = true ∧ wFrv.ucDeny (wUc 8 0xFF 0 0) = false) ∧
    ((wUc 2 0x28 0 0).bad = false ∧ wFrv.ucDeny (wUc 2 0x28 0 0) = false) ∧ (wFrv.ucIsStale (wUc 2 7 1 0) = true ∧ wFrv.ucIsStale (wUc 2 7 0 0) = false) ∧
    ((wUsr 2).ucBadState (wUc 2 7 0 0) = true ∧ (wUsr 0).ucBadState (wUc 2 7 0 0) = false ∧ (wUsr 2).ucBadState (wUc 4 7 0 0) = false ∧ (wUsr 2).ucBadState (wUc 3 7 0 0) = false ∧
      (wUsr 2).leased 7 = false ∧ ((wUsr 2).onTile 7 (fun x => { x with ops := [(0, mkOp .syNop .run 0 0)] })).leased 7 = true) ∧
    ((wUsr 2).ucBadState (wUc 5 7 0 0) = false ∧ ({ wUsr 2 with frv := { (wUsr 2).frv with forced := true } } : State).frv.forced = true ∧ (wUsr 2).ns < (wUsr 2).rd F.FRV_LAST_FORCE_NS 0 + 1000000) ∧
    (((wUsr 0).unitOnline 7).isSome = true ∧ (({ wUsr 0 with pins := { (wUsr 0).pins with rails := [] } } : State).unitOnline 7).isNone = true) ∧
    (((wPow 0 0 0 0 0).unitOffline 7).isSome = true ∧ ((wPow 0 1 0 0 4).unitOffline 7).isNone = true) ∧
    (wFrv.ucBadState (wUc 8 0xFF 0 0) = false ∧ wFrv.frv.update = none ∧ wFrv.ucIsStale (wUc 8 0xFF 0 0) = false) ∧
    (39 < 40 ∧ 7 < 8 ∧ 31 < 32 ∧ 3 ≠ wFrv.usr 39) := by
  decide +kernel

/-- A management message, and one that fails its integrity check. -/
def wMsgReq (good : Bool) : MReq := ⟨.smb, some 1, good, true⟩

/-- Session 1, up or in its handshake, after a whole negotiation. -/
def wSess (up : Bool) : State := { wFrv with frv := { wFrv.frv with spdm := 3, sessions := [(1, ⟨up, 0⟩)] } }

theorem witness_ManagementMessageResult : State.reset.answers true = false ∧ (wFrv.answers true = true ∧ (wMsgReq false).good = false ∧ (wMsgReq true).good = true ∧ (wMsgReq true).known = true ∧ (⟨.vdm, none, true, false⟩ : MReq).known = false ∧ wFrv.serveMbx.answers false = true ∧
      ((wMbx (3, 0)).wr F.FRV_STATUS_BOOT 0 2).serveMbx.answers false = false ∧ wFrv.answers false = true ∧
      (wFrv.wr F.FRV_STATUS_BOOT 0 2).answers true = true ∧ (wFrv.wr F.FRV_STATUS_BOOT 0 2).answers false = false) ∧
    ((0x81 : BitVec 16).toNat ∈ numericSensors ∧ (0x82 : BitVec 16).toNat ∈ stateSensors ∧ (0x83 : BitVec 16).toNat ∉ numericSensors ∧ (0x83 : BitVec 16).toNat ∉ stateSensors) ∧
    ((wSess true).frv.sessions.find? 1 = some ⟨true, 0⟩ ∧ (wMsgReq true).session = some 1 ∧ (wSess true).frv.sessions.find? 2 = none ∧ (wSess false).frv.sessions.find? 1 = some ⟨false, 0⟩) ∧
    (wSess true).secured (wMsgReq true) = true ∧ (wSess false).secured (wMsgReq true) = false ∧ (wSess true).serveMbx.frv.spdm = 3 ∧ wFrv.serveMbx.frv.spdm ≠ 3 ∧
    (wSess true).serveMbx.frv.sessions.find? 1 = some ⟨true, 0⟩ ∧ (wSess false).serveMbx.frv.sessions.find? 1 = some ⟨false, 0⟩ ∧ (7 : BitVec 8).toNat < 8 ∧ 8 < (255 : BitVec 8).toNat ∧
    wFrv.frv.spdm ≠ 3 ∧ (wSess true).frv.spdm = 3 ∧ 1 ≤ (7 : BitVec 8).toNat ∧ (7 : BitVec 8).toNat ≤ 7 := by
  decide +kernel

/-- An update at a stage. -/
def wUpd (stage : Nat) : State := { wFrv with frv := { wFrv.frv with update := some ⟨stage, 0x800000, 0x7FFE00⟩ } }

theorem witness_FirmwareUpdateResult : wFrv.frv.update = none ∧ (wUpd 3).frv.update = some ⟨3, 0x800000, 0x7FFE00⟩ ∧ (⟨3, 0, 0⟩ : Upd).stage = 3 ∧ 0 < 0x800000 ∧
    (List.replicate 256 (0 : Byte)).length = min 256 (0x800000 - 0x7FFE00) ∧ 0x7FFE00 + 256 < 0x800000 ∧ 0x800000 ≤ 0x7FFF00 + (List.replicate 256 (0 : Byte)).length ∧ (wUpd 2).serveMbx.frv.update = some ⟨2, 0x800000, 0x7FFE00⟩ ∧
    (wUpd 0).serveMbx.frv.update = some ⟨0, 0x800000, 0x7FFE00⟩ ∧ (wUpd 1).serveMbx.frv.update = some ⟨1, 0x800000, 0x7FFE00⟩ ∧ wFrv.serveMbx.frv.update = none ∧ List.replicate 256 (0 : Byte) ≠ [] ∧ wFrv.answers false = true ∧
    State.reset.answers false = false := by
  decide +kernel

/-- Ranks 0 and 63 are members of a formed Fen. -/
def wFen2 : State := wRun.wrs 0 0 [(F.FEN_STATUS_STATE, 2), (F.FEN_MEMBERS_MASK, 1 + 2 ^ 63)]

/-- A fence of a tile of rank 63 waits for some ranks. -/
def wFence2 (p : Party) (l : List Nat) : State := { wFen2 with flt := { wFen2.flt with fences := [⟨p, .nothing, l⟩] } }

theorem witness_FailureResult : (({ wRun with reports := [⟨0x22, 31, 0⟩] } : State).reports.find? (fun r => r.code = (0x22 : BitVec 8).toNat && r.unit = (31 : BitVec 8).toNat) = some ⟨0x22, 31, 0⟩ ∧
      (∀ r ∈ wRun.reports, r.code ≠ (0x22 : BitVec 8).toNat ∨ r.unit ≠ (31 : BitVec 8).toNat) ∧ (0x22 : BitVec 8).toNat ≠ 0x21 ∧ (0x22 : BitVec 8).toNat ≠ 0x24 ∧ (0x22 : BitVec 8).toNat ≠ 0x31) ∧
    ((wRun.wr F.FRV_USR_STATE 0 4 39).usr 39 = 4 ∧ wRun.usr 39 ≠ 4) ∧ (wFen2.isPeer 63 = true ∧ wFen2.isPeer 0 = false) ∧
    (wFen2.flt.misses.getD 63 0 < max 1 (wFen2.rd F.FLT_CTL_HB_MISS 0) ∧
      max 1 (wFen2.rd F.FLT_CTL_HB_MISS 0) ≤ ({ wFen2 with flt := { wFen2.flt with misses := [(63, 10)] } } : State).flt.misses.getD 63 0) ∧
    (wRun.rd F.FEN_STATUS_STATE 0 ≠ 2 ∧ wFen2.rd F.FEN_STATUS_STATE 0 = 2 ∧ 63 ∈ wFen2.peers) ∧
    (wFen2.flt.fences[0]? = none ∧ (wFence2 (.tile 63 0) []).flt.fences[0]? = some ⟨.tile 63 0, .nothing, []⟩ ∧ (Party.path 63).isLocal = true ∧ (wFence2 (.path 63) [0]).rank = 0 ∧
      (wFence2 (.path 63) [0]).fenceClear (.path 63) = true ∧ 0 ∉ [63] ∧ (63 : Fin 64).val ≠ wFen2.rank ∧ (63 : Fin 64).val ∈ [0, 63] ∧ [0, 63] ≠ [(63 : Fin 64).val]) := by
  decide +kernel

theorem witness_InjectActsAsDetected : (wFence2 (.path 63) [0]).flt.fences ≠ [] ∧ (∀ t : Fin 8, wRun.ownerOf t.val = 0 ∨ (wRun.tile t).ops = []) ∧ wRun.flt.fences = [] := by
  decide +kernel

/-- Zero bytes from an address. -/
def zeros (a : Nat) : Nat → SMap Byte
  | 0 => []
  | n + 1 => (a, 0) :: zeros (a + 1) n

/-- A flash whose slots 0 and 1 hold an image of one code byte, the second newer, with a digest of ones. -/
def wFlash : State :=
  let hdr (base seq : Nat) : SMap Byte :=
    ([0x4E, 0x52, 0x56, 0x46, 1, 0, 0, 0, 1, 0, 0, 0, seq, 0, 0, 0, 1, 0, 0, 0, 0, 0, 0, 0, 0, 0, 0, 0, 0, 0, 0, 0].zipIdx.map (fun p => (base + p.2, BitVec.ofNat 8 p.1))) ++
      zeros (base + 0x110) 240
  { wRun with frv := { wRun.frv with flash := hdr 0 0 ++ hdr 0x800000 1 } }

/-- Where the ROM's digest and signature checks pass, a slot stands. -/
theorem witness_BootSlot (hd : ∀ l, Config.sha384 l = 2 ^ 384 - 1) (hk : ∀ k, Config.rootHash k = 2 ^ 384 - 1) (hp : ∀ x y z, Config.p384Ok x y z = true)
    (hr : Config.revoked = 0) : wFlash.headerOk 0 = true ∧ wFlash.codeOk 0 = true := by
  simp only [State.headerOk, State.codeOk, hd, hk, hp, hr]
  decide +kernel

theorem witness_BootOrder : wFlash.imgSeq 0 < wFlash.imgSeq 1 ∧ wFlash.imgSvn 0 = 1 := by decide +kernel

theorem witness_BootAndPinResult : wFlash.pins.cold = false ∧ wFlash.rd F.FRV_STATUS_BOOT 0 = 0 ∧ wFrv.rd F.FRV_STATUS_BOOT 0 = 1 ∧ wFlash.imgSvn 0 < 128 ∧ wFlash.imgSeq 1 < 2 ^ 32 ∧
    State.reset.answers false = false ∧ wFrv.answers false = true ∧ wFrv.answers true = true ∧ wRun.pins.tap.st = .reset ∧ wRun.pins.tap.insn = .idcode := by
  decide +kernel

/-- No slot of empty flash stands. -/
theorem witness_NoSlot : wRun.candidates = [] := by decide +kernel

/-- Tile 7 is being reset. -/
def wRst : State := (wPow 0 0 0 0 0).onTile 7 (fun x => { x with resetting := true })

theorem witness_ResetResult : (nx (execColdReset State.reset)).pins.cold = true ∧ wRun.pins.cold = false ∧ wRst.resetAwake 7 = true ∧ wRun.resetAwake 7 = false ∧ (wRst.tile 7).ops = [] ∧ (wRst.tile 7).tdm = [] ∧
    ((wRst.onTile 7 (fun x => { x with ops := [(0, mkOp .syNop .run 0 0)] })).tile 7).ops ≠ [] ∧ (∀ f ∈ wRst.flt.fences, f.party ≠ .tile wRst.rank 7) := by
  decide +kernel

/-- REF10M_OUT is enabled. -/
def wRef (age : Nat) : State := { wRun.wr F.TBU_REF10M_CFG_EN 0 1 with pins := { wRun.pins with refAge := age } }

theorem witness_Queue : (∃ c rest, ({ wRun with pending := [.bootRom] } : State).pending = c :: rest) ∧ wRun.pending = [] ∧ wRun.pins.cold = false ∧ (nx (execColdReset State.reset)).pending = [] ∧
    wRun.tbu.left ≠ 1 ∧ (∃ u, step wRun = .next u) ∧ wRun.memWf = true := by
  refine ⟨⟨_, _, rfl⟩, by decide +kernel, by decide +kernel, by decide +kernel, by decide +kernel, ⟨_, rfl⟩, by decide +kernel⟩

theorem witness_TickResult : wRun.relaxed = [] ∧ ({ wRun with relaxed := [(0x10000000000, 1)] } : State).relaxed ≠ [] ∧ (wRun.wr F.TBU_REF10M_CFG_EN 0 0).flag F.TBU_REF10M_CFG_EN 0 = false ∧ (wRef 39).flag F.TBU_REF10M_CFG_EN 0 = true ∧
    39 ≤ (wRef 39).pins.refAge ∧ 40 * 2 ^ 32 ≤ 50 * 2 ^ 32 - (wRef 39).countTick.refTime % (50 * 2 ^ 32) ∧ (wRef 38).pins.refAge < 39 ∧ wRun.rd F.TPC_STATUS_STATE 1 ≠ 0 := by
  decide +kernel

theorem witness_MemoryReadsWhatWasWritten : ∀ i, i < 32 → (wRun.region (0x1FFFFFFE0 + i)).isDevice = true ∧ wRun.localise (0x1FFFFFFE0 + i) = wRun.localise 0x1FFFFFFE0 + i := by decide +kernel

theorem witness_TensorWordRoundTrip : ∃ p, p ∈ tagged ++ untagged := ⟨_, List.mem_append_left _ (List.mem_cons_self ..)⟩

theorem witness_LodeHeaderRoundTrip : (⟨1023, 7, true, true, 8191, 7, 63, 511, 31, 255, 7, 63, 255, 2 ^ 32 - 1, 2 ^ 64 - 1, 2 ^ 32 - 1, 255, true, 15⟩ : Hdr).pack < 2 ^ 256 ∧
    (⟨1023, 7, true, true, 8191, 7, 63, 511, 31, 255, 7, 63, 255, 2 ^ 32 - 1, 2 ^ 64 - 1, 2 ^ 32 - 1, 255, true, 15⟩ : Hdr).chan < 512 ∧ bits wHdr 15 1 = 0 ∧ bits wHdr 29 3 = 0 ∧
    bits wHdr 55 9 = 0 ∧ bits wHdr 89 7 = 0 ∧ bits wHdr 237 19 = 0 := by
  decide +kernel

/-- Worked case 14-1: twice the offset of 3.75 ns, in 2^-32 ns. -/
theorem test_exchange : diff96 (512045 * 2 ^ 32) (512000 * 2 ^ 32) - diff96 (512337 * 2 ^ 32 + 0x40000000) (512300 * 2 ^ 32) - signed 32 64 * 2 ^ 24 = 15 * 2 ^ 31 := by decide +kernel

end Sys2Proof.Tests
end

section
/-! SUPPORT. Proofs about work rings: what a doorbell and a command fetch do (R383, R384), and what a FENCE holds (R391). -/
namespace Sys2Proof.Machine

variable {s : State}

/-! ### Errors, doorbells and fetches -/

/-- A READY ring takes an error's cause and enters ERR (R400). -/
theorem State.ringErr_of_ready {f r : Nat} (cause : Nat) (hready : s.rState f r = rReady) :
    s.ringErr f r cause =
      (s.wrs f r [(F.HIU_RING_STATUS_STATE, rErr), (F.HIU_RING_STATUS_RESETTING, 0), (F.HIU_RING_STATUS_ERRCAUSE, cause)]).event f
        F.HIU_EVT_STATUS_RING_ERR :=
  if_pos (.inl hready)

theorem State.gives_doorbell_iff {f : Fin 32} {r : Fin 64} {prod : BitVec 32} {u : State} :
    s.gives (.doorbell f r prod) u ↔ execDoorbell f r prod s = ok s u :=
  Iff.rfl

section Doorbell
variable {f : Fin 32} {r : Fin 64} {prod : BitVec 32} (htakes : s.fnTakes f.val = true)
include htakes

/-- A doorbell to a ring that is not READY is ignored, and DB_IGNORED tells. -/
theorem State.doorbell_gives_ignored (hstate : s.rState f.val r.val ≠ rReady) :
    s.gives (.doorbell f r prod) (s.event f.val F.HIU_EVT_STATUS_DB_IGNORED) := by
  simp [State.gives_doorbell_iff, execDoorbell, htakes, hstate]

variable (hready : s.rState f.val r.val = rReady)
include hready

/-- A doorbell that does not change PROD is ignored. -/
theorem State.doorbell_gives_same (hsame : (s.ring f.val r.val).prod = prod.toNat) : s.gives (.doorbell f r prod) s := by
  simp [State.gives_doorbell_iff, execDoorbell, htakes, hready, hsame]

variable (hnew : (s.ring f.val r.val).prod ≠ prod.toNat)
include hnew

/-- A doorbell beyond SIZE commands after CONS is a DOORBELL error. -/
theorem State.doorbell_gives_error
    (hover : s.rSize f.val r.val < sub32 prod.toNat (s.rd F.HIU_RING_STATUS_CONS f.val r.val)) :
    s.gives (.doorbell f r prod) (s.ringErr f.val r.val 2) := by
  simp [State.gives_doorbell_iff, execDoorbell, htakes, hready, hnew, hover]

/-- Any other doorbell gives PROD. -/
theorem State.doorbell_gives_prod
    (hfits : sub32 prod.toNat (s.rd F.HIU_RING_STATUS_CONS f.val r.val) ≤ s.rSize f.val r.val) :
    s.gives (.doorbell f r prod) (s.onRing f.val r.val (fun x => { x with prod := prod.toNat })) := by
  simp [State.gives_doorbell_iff, execDoorbell, htakes, hready, hnew, Nat.not_lt.mpr hfits]

end Doorbell

/-- Nothing holds a ring's next fetch (R233, R384): it serves commands, PROD covers one more, fewer than 16 have not started, that one
is not asked for, and every host write through BAR2 is visible. -/
structure State.FetchOpen (s : State) (f r : Nat) : Prop where
  ready : s.rState f r = rReady
  live : s.fnLive f = true
  covered : (s.ring f r).fetched ≠ (s.ring f r).prod
  room : ((s.ring f r).cmds.filter (fun c => !c.started)).length < 16
  notAsked : s.owes (fun w => w = .cmd f r (s.ring f r).fetched) = false
  visible : s.bar2Owes = false

/-- An open fetch from this device's or the host's memory takes the 64 bytes of its slot as the ring's next command: command k lies in
slot k mod SIZE (R383). -/
theorem State.fetch_takes_slot {f r pa : Nat} (hopen : s.FetchOpen f r)
    (hslot : s.rd F.HIU_RING_BASE_PA f r * 4096 + (s.ring f r).fetched % s.rSize f r * 64 = pa) (hpa : s.paCheck f pa = .ok ())
    (hats : s.hiuAts f pa 64 = none) (hnear : ∀ d o, s.region pa ≠ .fen d o) (hclean : s.poisonIn pa 64 = false) :
    s.fetch f r none = (s.hiuTook pa 64).fetchTake f r (s.readNat f pa 64) := by
  have hguard : ¬ (s.rState f r ≠ rReady || !s.fnLive f || (s.ring f r).fetched = (s.ring f r).prod ||
      16 ≤ ((s.ring f r).cmds.filter (fun c => !c.started)).length || s.owes (fun w => w = .cmd f r (s.ring f r).fetched) ||
      s.bar2Owes) = true := by
    obtain ⟨hready, hlive, hcovered, hroom, hasked, hvisible⟩ := hopen
    simp [hready, hlive, hcovered, hroom, hasked, hvisible]
  unfold State.fetch
  rw [if_neg hguard, hslot, hpa, hats, hclean]
  dsimp only
  split
  · next d o hfar => exact absurd hfar (hnear d o)
  · split
    · contradiction
    · exact if_neg Bool.false_ne_true

theorem State.gives_commandFetch (f : Fin 32) (r : Fin 64) (fail : Option CplErr) :
    s.gives (.commandFetch f r fail) (s.fetch f.val r.val fail) :=
  rfl

/-- Settles O27, by the branches of the doorbell's meaning, and the fetch of an open ring from slot k mod SIZE. -/
theorem doorbellActed : Obligations.DoorbellActed := by
  refine ⟨fun f r prod s htakes => ⟨State.doorbell_gives_ignored htakes, State.doorbell_gives_same htakes, ?_⟩, ?_⟩
  · intro hready hnew
    refine ⟨fun hover => ?_, State.doorbell_gives_prod htakes hready hnew⟩
    rw [← State.ringErr_of_ready 2 hready]
    exact State.doorbell_gives_error htakes hready hnew hover
  · intro f r s hready hlive x pa hcovered hroom hasked hvisible hpa hats hnear hclean
    have htaken := State.fetch_takes_slot ⟨hready, hlive, hcovered, hroom, hasked, hvisible⟩ rfl hpa hats hnear hclean
    exact htaken ▸ State.gives_commandFetch f r none

/-! ### FENCE -/

section FenceDone
variable {f r : Nat} {c : RCmd} (hfence : (s.ring f r).cmds.find? (fun c => c.started && !c.done && c.op = 7) = some c)
include hfence

/-- A running FENCE completes once every other started command has its record. -/
theorem State.fenceDone_of_recorded
    (hrec : ∀ d ∈ (s.ring f r).cmds, d.started = true → d.seq ≠ c.seq → d.recorded = true) :
    s.fenceDone f r = s.complete f r c.seq 0 0 1 := by
  have hall : (s.ring f r).cmds.all (fun d => !d.started || d.recorded || d.refused || d.seq = c.seq) = true := by
    refine List.all_eq_true.mpr fun d hd => ?_
    by_cases hstarted : d.started = true
    · by_cases hseq : d.seq = c.seq
      · simp [hseq]
      · simp [hrec d hd hstarted hseq]
    · simp [hstarted]
  simp only [State.fenceDone, hfence, hall, if_true]

/-- A FENCE goes on while an earlier command, its record not refused, has none. -/
theorem State.fenceDone_of_unrecorded
    (hunrec : ∃ d ∈ (s.ring f r).cmds, d.started = true ∧ d.seq ≠ c.seq ∧ d.recorded = false ∧ d.refused = false) :
    s.fenceDone f r = s := by
  obtain ⟨d, hd, hstarted, hseq, hrecorded, hrefused⟩ := hunrec
  have hall : (s.ring f r).cmds.all (fun d => !d.started || d.recorded || d.refused || d.seq = c.seq) = false :=
    List.all_eq_false.mpr ⟨d, hd, by simp [hstarted, hseq, hrecorded, hrefused]⟩
  simp [State.fenceDone, hfence, hall]

end FenceDone

/-- A ring that runs a WAIT or a FENCE may not start its next command (R389, R391). -/
theorem State.ringMay_of_running {f r : Nat} {c : RCmd} (hc : c ∈ (s.ring f r).cmds) (hstarted : c.started = true) (hdone : c.done = false)
    (hop : c.op = 4 ∨ c.op = 7) : s.ringMay f r = false := by
  have hall : (s.ring f r).cmds.all (fun c => !(c.started && !c.done && (c.op = 4 || c.op = 7))) = false :=
    List.all_eq_false.mpr ⟨c, hc, by rcases hop with h | h <;> simp [hstarted, hdone, h]⟩
  simp only [State.ringMay, hall, Bool.and_false, Bool.false_and]

/-- A ring that may not start its next command has none ready, of whatever opcode. -/
theorem State.ready_of_not_ringMay {f r : Nat} (hmay : s.ringMay f r = false) (op : Nat) : s.ready f r op = none := by
  unfold State.ready
  cases s.front f r with
  | none => rfl
  | some c => simp [hmay]

theorem State.ckCommand_of_not_ready {f r op : Nat} (hnone : s.ready f r op = none) : s.ckCommand f r op = s := by
  simp only [State.ckCommand, hnone]

/-- No row that starts a ring's next command has an effect while the ring has none ready. -/
theorem State.starts_give_same_of_not_ready {f : Fin 32} {r : Fin 64} (hnone : ∀ op, s.ready f.val r.val op = none) :
    ∀ i ∈ [Instr.launch f r, .copy f r, .signal f r, .wait f r, .checkpoint f r, .restore f r, .fence f r], s.gives i s := by
  have hlaunch : execLaunch f r s = ok s s := by simp only [execLaunch, hnone]
  have hcopy : execCopy f r s = ok s s := by simp only [execCopy, hnone]
  have hsignal : execSignal f r s = ok s s := by simp only [execSignal, hnone]
  have hwait : execWait f r s = ok s s := by simp only [execWait, hnone]
  have hcheckpoint : execCheckpoint f r s = ok s s := congrArg (ok s) (State.ckCommand_of_not_ready (hnone 5))
  have hrestore : execRestore f r s = ok s s := congrArg (ok s) (State.ckCommand_of_not_ready (hnone 6))
  have hfence : execFence f r s = ok s s := by simp only [execFence, hnone]
  intro i hi
  simp only [List.mem_cons, List.not_mem_nil, or_false] at hi
  rcases hi with rfl | rfl | rfl | rfl | rfl | rfl | rfl
  exacts [hlaunch, hcopy, hsignal, hwait, hcheckpoint, hrestore, hfence]

/-- Settles O28: the FENCE's end asks for every earlier record, and while it runs the ring may not start a command. -/
theorem fenceOrdersRing : Obligations.FenceOrdersRing := by
  refine ⟨fun s f r c hfence => ⟨State.fenceDone_of_recorded hfence, State.fenceDone_of_unrecorded hfence⟩, ?_⟩
  intro f r s c hc hstarted hdone hop
  have hmay : s.ringMay f.val r.val = false := State.ringMay_of_running hc hstarted hdone (.inr hop)
  exact State.starts_give_same_of_not_ready (State.ready_of_not_ringMay hmay)

end Sys2Proof.Machine
end

section
/-! SUPPORT. Proofs about injected events: when FLT.INJECT is ignored, and that it acts as a reported event declared (R425, R453). -/
namespace Sys2Proof.Machine

variable {s : State} {code unit : BitVec 8}

theorem mem_allTiles (t : Fin 8) : t ∈ allTiles := by
  revert t
  decide

/-- What bars an injected event (R453): a tag is allocated on a VF's tile, or a fence is incomplete. -/
def State.InjectBarred (s : State) : Prop :=
  (∃ t : Fin 8, s.ownerOf t.val ≠ 0 ∧ (s.tile t).ops ≠ []) ∨ s.flt.fences ≠ []

/-- The test that FLT_INJECT makes is what R453 names, over all eight tiles. -/
theorem State.injectTest_iff_barred (s : State) :
    (allTiles.any (fun t => s.ownerOf t.val ≠ 0 && (s.tile t).ops ≠ []) || s.flt.fences ≠ []) = true ↔ s.InjectBarred := by
  simp [State.InjectBarred, mem_allTiles]

theorem exec_fltInject_of_barred (hbarred : s.InjectBarred) : exec (.fltInject code unit) s = ok s s :=
  congrArg (ok s) (if_pos (s.injectTest_iff_barred.mpr hbarred))

theorem exec_fltInject_of_not_barred (hfree : ¬ s.InjectBarred) :
    exec (.fltInject code unit) s = ok s (s.faultEvent code.toNat unit.toNat 0).settle :=
  congrArg (ok s) (if_neg (s.injectTest_iff_barred.not.mpr hfree))

/-- Declaring a reported event uses up the report that names it and acts on the event (R425). -/
theorem exec_unitFailDeclare_of_reported {r : Report}
    (hfound : s.reports.find? (fun r => r.code = code.toNat && r.unit = unit.toNat) = some r) :
    exec (.unitFailDeclare code unit) s =
      ok s (({ s with reports := s.reports.erase r } : State).faultEvent r.code r.unit r.info).settle := by
  change execUnitFailDeclare code unit s = _
  rw [execUnitFailDeclare, hfound]

/-- Declared, an event that was just reported is acted on once, and the reports are again those of before. -/
theorem exec_unitFailDeclare_of_just_reported (code unit : BitVec 8) (s : State) :
    exec (.unitFailDeclare code unit) { s with reports := ⟨code.toNat, unit.toNat, 0⟩ :: s.reports } =
      ok s (s.faultEvent code.toNat unit.toNat 0).settle := by
  have herase : (⟨code.toNat, unit.toNat, 0⟩ :: s.reports : List Report).erase ⟨code.toNat, unit.toNat, 0⟩ = s.reports :=
    List.erase_cons_head ..
  rw [exec_unitFailDeclare_of_reported (List.find?_cons_of_pos (by simp)), herase]
  rfl

/-- Settles O49, by the test of FLT_INJECT: barred, it changes nothing; otherwise both commands act on the same event in the same state. -/
theorem injectActsAsDetected : Obligations.InjectActsAsDetected := by
  intro code unit s
  refine ⟨exec_fltInject_of_barred, fun htiles hfences => ?_⟩
  have hfree : ¬ s.InjectBarred := by
    rintro (⟨t, howned, hbusy⟩ | hfence)
    · exact (htiles t).elim howned hbusy
    · exact hfence hfences
  rw [exec_fltInject_of_not_barred hfree, exec_unitFailDeclare_of_just_reported]

end Sys2Proof.Machine
end

section
/-! SUPPORT. Proofs about the canonical form of both memories: every command and every step keeps it, and so does every run from reset. -/
namespace Sys2Proof.Machine

/-- Every command keeps the canonical form of both memories. -/
theorem exec_memWf (c : Instr) {s : State} (hs : s.memWf = true) : Out3.memWf (exec c s) :=
  match c with
  | .registerWrite .. => execRegisterWrite_memWf hs
  | .pcieConfigRequest .. => execPcieConfigRequest_memWf hs
  | .doorbell .. => execDoorbell_memWf hs
  | .commandFetch .. => execCommandFetch_memWf hs
  | .launch .. => execLaunch_memWf hs
  | .copy .. => execCopy_memWf hs
  | .signal .. => execSignal_memWf hs
  | .wait .. => execWait_memWf hs
  | .waitPoll .. => execWaitPoll_memWf hs
  | .waitTimeout .. => execWaitTimeout_memWf hs
  | .checkpoint .. => execCheckpoint_memWf hs
  | .restore .. => execRestore_memWf hs
  | .fence .. => execFence_memWf hs
  | .jobStart .. => execJobStart_memWf hs
  | .jobComplete .. => execJobComplete_memWf hs
  | .irqDelayExpiry .. => execIrqDelayExpiry_memWf hs
  | .ringEnable .. => execRingEnable_memWf hs
  | .ringDisable .. => execRingDisable_memWf hs
  | .ringReset .. => execRingReset_memWf hs
  | .cqHeadWrite .. => execCqHeadWrite_memWf hs
  | .ringProgSelWrite .. => execRingProgSelWrite_memWf hs
  | .timeNowRead .. => execTimeNowRead_memWf hs
  | .partEnable .. => execPartEnable_memWf hs
  | .partDisable .. => execPartDisable_memWf hs
  | .bar2Access .. => execBar2Access_memWf hs
  | .functionLevelReset .. => execFunctionLevelReset_memWf hs
  | .atsInvalidationRequest .. => execAtsInvalidationRequest_memWf hs
  | .atsTranslationCompletion .. => execAtsTranslationCompletion_memWf hs
  | .operationLeaveWait .. => execOperationLeaveWait_memWf hs
  | .operationLeaveWake .. => execOperationLeaveWake_memWf hs
  | .operationDispatch .. => execOperationDispatch_memWf hs
  | .operationRetire .. => execOperationRetire_memWf hs
  | .heldTrapRaise .. => execHeldTrapRaise_memWf hs
  | .writeAcknowledge .. => execWriteAcknowledge_memWf hs
  | .progSelWrite .. => execProgSelWrite_memWf hs
  | .trapTake .. => execTrapTake_memWf hs
  | .nanResumeGo .. => execNanResumeGo_memWf hs
  | .tccIcinv .. => execTccIcinv_memWf hs
  | .mmPass .. => execMmPass_memWf hs
  | .mmPreload .. => execMmPreload_memWf hs
  | .mmDrain .. => execMmDrain_memWf hs
  | .panelFetch .. => execPanelFetch_memWf hs
  | .panelToShadow .. => execPanelToShadow_memWf hs
  | .passStart .. => execPassStart_memWf hs
  | .combinerRow .. => execCombinerRow_memWf hs
  | .sfEval .. => execSfEval_memWf hs
  | .sfLoad .. => execSfLoad_memWf hs
  | .sfPload .. => execSfPload_memWf hs
  | .sfRnorm .. => execSfRnorm_memWf hs
  | .sfSmax .. => execSfSmax_memWf hs
  | .vsAdd .. => execVsAdd_memWf hs
  | .vsSub .. => execVsSub_memWf hs
  | .vsMul .. => execVsMul_memWf hs
  | .vsDiv .. => execVsDiv_memWf hs
  | .vsMax .. => execVsMax_memWf hs
  | .vsMin .. => execVsMin_memWf hs
  | .vsNeg .. => execVsNeg_memWf hs
  | .vsAbs .. => execVsAbs_memWf hs
  | .vsHalve .. => execVsHalve_memWf hs
  | .vsDouble .. => execVsDouble_memWf hs
  | .vsScale .. => execVsScale_memWf hs
  | .vsCmp .. => execVsCmp_memWf hs
  | .vsSel .. => execVsSel_memWf hs
  | .vsCvt .. => execVsCvt_memWf hs
  | .vsRsum .. => execVsRsum_memWf hs
  | .vsStatpick .. => execVsStatpick_memWf hs
  | .mvCopy .. => execMvCopy_memWf hs
  | .mvFill .. => execMvFill_memWf hs
  | .mvGather .. => execMvGather_memWf hs
  | .mvTrans .. => execMvTrans_memWf hs
  | .kvSeqset .. => execKvSeqset_memWf hs
  | .kvAppend .. => execKvAppend_memWf hs
  | .kvGather .. => execKvGather_memWf hs
  | .kvAttn .. => execKvAttn_memWf hs
  | .kvFork .. => execKvFork_memWf hs
  | .kvRelease .. => execKvRelease_memWf hs
  | .walkRequest .. => execWalkRequest_memWf hs
  | .lodeSend .. => execLodeSend_memWf hs
  | .lodeMcast .. => execLodeMcast_memWf hs
  | .lodeRecv .. => execLodeRecv_memWf hs
  | .lodeTreduce .. => execLodeTreduce_memWf hs
  | .syNop .. => execSyNop_memWf hs
  | .syFence .. => execSyFence_memWf hs
  | .syWake .. => execSyWake_memWf hs
  | .ctSync .. => execCtSync_memWf hs
  | .ctWaittag .. => execCtWaittag_memWf hs
  | .ctTag .. => execCtTag_memWf hs
  | .aluAdd .. => execAluAdd_memWf hs
  | .aluSub .. => execAluSub_memWf hs
  | .aluAnd .. => execAluAnd_memWf hs
  | .aluOr .. => execAluOr_memWf hs
  | .aluXor .. => execAluXor_memWf hs
  | .aluSll .. => execAluSll_memWf hs
  | .aluSrl .. => execAluSrl_memWf hs
  | .aluSra .. => execAluSra_memWf hs
  | .aluMul .. => execAluMul_memWf hs
  | .aluMulhu .. => execAluMulhu_memWf hs
  | .aluDivu .. => execAluDivu_memWf hs
  | .aluRemu .. => execAluRemu_memWf hs
  | .aluMin .. => execAluMin_memWf hs
  | .aluMax .. => execAluMax_memWf hs
  | .aluMinu .. => execAluMinu_memWf hs
  | .aluMaxu .. => execAluMaxu_memWf hs
  | .aluClz .. => execAluClz_memWf hs
  | .aluPopc .. => execAluPopc_memWf hs
  | .aluSel .. => execAluSel_memWf hs
  | .aluCmpeq .. => execAluCmpeq_memWf hs
  | .aluCmpne .. => execAluCmpne_memWf hs
  | .aluCmplt .. => execAluCmplt_memWf hs
  | .aluCmpltu .. => execAluCmpltu_memWf hs
  | .aluCmpge .. => execAluCmpge_memWf hs
  | .aluCmpgeu .. => execAluCmpgeu_memWf hs
  | .aluPand .. => execAluPand_memWf hs
  | .aluPor .. => execAluPor_memWf hs
  | .aluPxor .. => execAluPxor_memWf hs
  | .aluPnot .. => execAluPnot_memWf hs
  | .aluPmovg .. => execAluPmovg_memWf hs
  | .aluDsetw .. => execAluDsetw_memWf hs
  | .aluDgetw .. => execAluDgetw_memWf hs
  | .aluDaddb .. => execAluDaddb_memWf hs
  | .aluDadds .. => execAluDadds_memWf hs
  | .aluAddi .. => execAluAddi_memWf hs
  | .aluAndi .. => execAluAndi_memWf hs
  | .aluOri .. => execAluOri_memWf hs
  | .aluXori .. => execAluXori_memWf hs
  | .aluSlli .. => execAluSlli_memWf hs
  | .aluSrli .. => execAluSrli_memWf hs
  | .aluSrai .. => execAluSrai_memWf hs
  | .aluMovi .. => execAluMovi_memWf hs
  | .aluShin .. => execAluShin_memWf hs
  | .aluCmpeqi .. => execAluCmpeqi_memWf hs
  | .aluCmpnei .. => execAluCmpnei_memWf hs
  | .aluCmplti .. => execAluCmplti_memWf hs
  | .aluCmpltui .. => execAluCmpltui_memWf hs
  | .brJ .. => execBrJ_memWf hs
  | .brBp .. => execBrBp_memWf hs
  | .brCall .. => execBrCall_memWf hs
  | .brJr .. => execBrJr_memWf hs
  | .brCallr .. => execBrCallr_memWf hs
  | .memLd8u .. => execMemLd8u_memWf hs
  | .memLd16u .. => execMemLd16u_memWf hs
  | .memLd32u .. => execMemLd32u_memWf hs
  | .memLd64 .. => execMemLd64_memWf hs
  | .memSt8 .. => execMemSt8_memWf hs
  | .memSt16 .. => execMemSt16_memWf hs
  | .memSt32 .. => execMemSt32_memWf hs
  | .memSt64 .. => execMemSt64_memWf hs
  | .memAmoadd .. => execMemAmoadd_memWf hs
  | .memAmoswp .. => execMemAmoswp_memWf hs
  | .memAmocas .. => execMemAmocas_memWf hs
  | .memDld .. => execMemDld_memWf hs
  | .memDst .. => execMemDst_memWf hs
  | .memFence .. => execMemFence_memWf hs
  | .walkEntryReturn .. => execWalkEntryReturn_memWf hs
  | .csrRd .. => execCsrRd_memWf hs
  | .csrWr .. => execCsrWr_memWf hs
  | .csrSet .. => execCsrSet_memWf hs
  | .csrClr .. => execCsrClr_memWf hs
  | .csrSwap .. => execCsrSwap_memWf hs
  | .thrYield .. => execThrYield_memWf hs
  | .thrEnd .. => execThrEnd_memWf hs
  | .thrHend .. => execThrHend_memWf hs
  | .thrWend .. => execThrWend_memWf hs
  | .thrTret .. => execThrTret_memWf hs
  | .thrPark .. => execThrPark_memWf hs
  | .thrSvcall .. => execThrSvcall_memWf hs
  | .thrBreak .. => execThrBreak_memWf hs
  | .lodeSendr .. => execLodeSendr_memWf hs
  | .lodeSendm .. => execLodeSendm_memWf hs
  | .lodeSelect .. => execLodeSelect_memWf hs
  | .kvEmit .. => execKvEmit_memWf hs
  | .memoryRead .. => execMemoryRead_memWf hs
  | .memoryWrite .. => execMemoryWrite_memWf hs
  | .memoryAtomic .. => execMemoryAtomic_memWf hs
  | .patrolScrub .. => execPatrolScrub_memWf hs
  | .tmuInv .. => execTmuInv_memWf hs
  | .tmuInvComplete .. => execTmuInvComplete_memWf hs
  | .tdmDescriptorStart .. => execTdmDescriptorStart_memWf hs
  | .tdmBlockLanded .. => execTdmBlockLanded_memWf hs
  | .tdmDescriptorComplete .. => execTdmDescriptorComplete_memWf hs
  | .channelEnable .. => execChannelEnable_memWf hs
  | .channelDisable .. => execChannelDisable_memWf hs
  | .grantRequest .. => execGrantRequest_memWf hs
  | .creditGrant .. => execCreditGrant_memWf hs
  | .queueEnable .. => execQueueEnable_memWf hs
  | .queueDisable .. => execQueueDisable_memWf hs
  | .groupEnable .. => execGroupEnable_memWf hs
  | .messageAccept .. => execMessageAccept_memWf hs
  | .messageArrival .. => execMessageArrival_memWf hs
  | .messageAppend .. => execMessageAppend_memWf hs
  | .creditReturn .. => execCreditReturn_memWf hs
  | .handlerDispatch .. => execHandlerDispatch_memWf hs
  | .remoteMemoryRequest .. => execRemoteMemoryRequest_memWf hs
  | .remoteMemoryResponse .. => execRemoteMemoryResponse_memWf hs
  | .portEnable .. => execPortEnable_memWf hs
  | .portDisable .. => execPortDisable_memWf hs
  | .portRetrain .. => execPortRetrain_memWf hs
  | .linkidFlit .. => execLinkidFlit_memWf hs
  | .trainingComplete .. => execTrainingComplete_memWf hs
  | .trainingAttemptTimeout .. => execTrainingAttemptTimeout_memWf hs
  | .retrainTimeout .. => execRetrainTimeout_memWf hs
  | .codewordLockLoss .. => execCodewordLockLoss_memWf hs
  | .replayLimit .. => execReplayLimit_memWf hs
  | .flitTransmit .. => execFlitTransmit_memWf hs
  | .flitReceive .. => execFlitReceive_memWf hs
  | .ackTimer .. => execAckTimer_memWf hs
  | .packetForward .. => execPacketForward_memWf hs
  | .fenCtlForm => execFenCtlForm_memWf hs
  | .helloReceive .. => execHelloReceive_memWf hs
  | .formWaitExpiry => execFormWaitExpiry_memWf hs
  | .fenAssignmentReceive .. => execFenAssignmentReceive_memWf hs
  | .fenAssignmentAck .. => execFenAssignmentAck_memWf hs
  | .fenCommit .. => execFenCommit_memWf hs
  | .formationTimeout => execFormationTimeout_memWf hs
  | .fenCtlDissolve => execFenCtlDissolve_memWf hs
  | .dissolveComplete => execDissolveComplete_memWf hs
  | .tbuSetNs .. => execTbuSetNs_memWf hs
  | .tbuNowRead .. => execTbuNowRead_memWf hs
  | .syncPeriod => execSyncPeriod_memWf hs
  | .syncReceive .. => execSyncReceive_memWf hs
  | .dreqReceive .. => execDreqReceive_memWf hs
  | .drspReceive .. => execDrspReceive_memWf hs
  | .announceReceive _ _ _ src errbnd => execAnnounceReceive_memWf (_src := src) (_errbnd := errbnd) hs
  | .drspTimeout => execDrspTimeout_memWf hs
  | .servoHoldover => execServoHoldover_memWf hs
  | .ppsInEdge .. => execPpsInEdge_memWf hs
  | .ppsHoldTimeout => execPpsHoldTimeout_memWf hs
  | .tbuSecond => execTbuSecond_memWf hs
  | .ppsWidthExpiry => execPpsWidthExpiry_memWf hs
  | .tileIdleDoze .. => execTileIdleDoze_memWf hs
  | .tileIdleNap .. => execTileIdleNap_memWf hs
  | .tileIdleSleep .. => execTileIdleSleep_memWf hs
  | .powerEntryComplete .. => execPowerEntryComplete_memWf hs
  | .tileWakeRequest .. => execTileWakeRequest_memWf hs
  | .tileWakeComplete .. => execTileWakeComplete_memWf hs
  | .tpcWake .. => execTpcWake_memWf hs
  | .tpcOff .. => execTpcOff_memWf hs
  | .tpcOn .. => execTpcOn_memWf hs
  | .tilePowerUpComplete .. => execTilePowerUpComplete_memWf hs
  | .fabricRegionIdle .. => execFabricRegionIdle_memWf hs
  | .fabricRegionUngate .. => execFabricRegionUngate_memWf hs
  | .hbmIdleTimeout .. => execHbmIdleTimeout_memWf hs
  | .hbmSelfRefreshExit .. => execHbmSelfRefreshExit_memWf hs
  | .pcmSample .. => execPcmSample_memWf hs
  | .checkpointSnapshot => execCheckpointSnapshot_memWf hs
  | .heldWriteRelease .. => execHeldWriteRelease_memWf hs
  | .checkpointImageFinish => execCheckpointImageFinish_memWf hs
  | .mbxGo => execMbxGo_memWf hs
  | .getUsr .. => execGetUsr_memWf hs
  | .online .. => execOnline_memWf hs
  | .offline .. => execOffline_memWf hs
  | .quarantine .. => execQuarantine_memWf hs
  | .forceQuarantine .. => execForceQuarantine_memWf hs
  | .fenForm .. => execFenForm_memWf hs
  | .fenDissolve .. => execFenDissolve_memWf hs
  | .svnCommit .. => execSvnCommit_memWf hs
  | .fwStatus .. => execFwStatus_memWf hs
  | .setPolicy .. => execSetPolicy_memWf hs
  | .setEndpointId .. => execSetEndpointId_memWf hs
  | .getEndpointId .. => execGetEndpointId_memWf hs
  | .getEndpointUuid .. => execGetEndpointUuid_memWf hs
  | .getMctpVersionSupport .. => execGetMctpVersionSupport_memWf hs
  | .getMessageTypeSupport .. => execGetMessageTypeSupport_memWf hs
  | .getVendorDefinedMessageSupport .. => execGetVendorDefinedMessageSupport_memWf hs
  | .setTid .. => execSetTid_memWf hs
  | .getTid .. => execGetTid_memWf hs
  | .getPldmVersion .. => execGetPldmVersion_memWf hs
  | .getPldmTypes .. => execGetPldmTypes_memWf hs
  | .getPldmCommands .. => execGetPldmCommands_memWf hs
  | .getPdrRepositoryInfo .. => execGetPdrRepositoryInfo_memWf hs
  | .getPdr .. => execGetPdr_memWf hs
  | .getSensorReading .. => execGetSensorReading_memWf hs
  | .getStateSensorReadings .. => execGetStateSensorReadings_memWf hs
  | .setNumericSensorEnable .. => execSetNumericSensorEnable_memWf hs
  | .setStateSensorEnables .. => execSetStateSensorEnables_memWf hs
  | .setEventReceiver .. => execSetEventReceiver_memWf hs
  | .getEventReceiver .. => execGetEventReceiver_memWf hs
  | .sensorPoll => execSensorPoll_memWf hs
  | .queryDeviceIdentifiers .. => execQueryDeviceIdentifiers_memWf hs
  | .getFirmwareParameters .. => execGetFirmwareParameters_memWf hs
  | .requestUpdate .. => execRequestUpdate_memWf hs
  | .passComponentTable .. => execPassComponentTable_memWf hs
  | .updateComponent .. => execUpdateComponent_memWf hs
  | .firmwareDataReceive .. => execFirmwareDataReceive_memWf hs
  | .activateFirmware .. => execActivateFirmware_memWf hs
  | .getStatus .. => execGetStatus_memWf hs
  | .cancelUpdateComponent .. => execCancelUpdateComponent_memWf hs
  | .cancelUpdate .. => execCancelUpdate_memWf hs
  | .getVersion .. => execGetVersion_memWf hs
  | .getCapabilities .. => execGetCapabilities_memWf hs
  | .negotiateAlgorithms .. => execNegotiateAlgorithms_memWf hs
  | .getDigests .. => execGetDigests_memWf hs
  | .getCertificate .. => execGetCertificate_memWf hs
  | .challenge .. => execChallenge_memWf hs
  | .getMeasurements .. => execGetMeasurements_memWf hs
  | .keyExchange .. => execKeyExchange_memWf hs
  | .finish .. => execFinish_memWf hs
  | .heartbeat .. => execHeartbeat_memWf hs
  | .keyUpdate .. => execKeyUpdate_memWf hs
  | .endSession .. => execEndSession_memWf hs
  | .bootRom => execBootRom_memWf hs
  | .onlineRetry => execOnlineRetry_memWf hs
  | .unitFailDeclare .. => execUnitFailDeclare_memWf hs
  | .failureNoticeReceive .. => execFailureNoticeReceive_memWf hs
  | .heartbeatSend => execHeartbeatSend_memWf hs
  | .heartbeatReceive .. => execHeartbeatReceive_memWf hs
  | .heartbeatMiss .. => execHeartbeatMiss_memWf hs
  | .fenceCompleteReport .. => execFenceCompleteReport_memWf hs
  | .drainFenceComplete .. => execDrainFenceComplete_memWf hs
  | .fenStopNotice .. => execFenStopNotice_memWf hs
  | .fenstopClr => execFenstopClr_memWf hs
  | .fltInject .. => execFltInject_memWf hs
  | .logSelWrite .. => execLogSelWrite_memWf hs
  | .coldReset => execColdReset_memWf hs
  | .coldResetEnd .. => execColdResetEnd_memWf hs
  | .warmReset .. => execWarmReset_memWf hs
  | .tileReset .. => execTileReset_memWf hs
  | .tileResetDrainTimeout .. => execTileResetDrainTimeout_memWf hs
  | .perstLRelease => execPerstLRelease_memWf hs
  | .hbmTrainingComplete .. => execHbmTrainingComplete_memWf hs
  | .msixVectorUnmask .. => execMsixVectorUnmask_memWf hs
  | .allotmentReturn .. => execAllotmentReturn_memWf hs
  | .pcieCompletionTimeout .. => execPcieCompletionTimeout_memWf hs
  | .moduleInterrupt .. => execModuleInterrupt_memWf hs
  | .smbusClockLowTimeout => execSmbusClockLowTimeout_memWf hs
  | .boundaryScan .. => execBoundaryScan_memWf hs

/-- Settles O56: reset lists no byte of either memory. -/
theorem resetMemoryCanonical : Obligations.ResetMemoryCanonical :=
  State.reset_memWf

/-- Settles O57, by the two forms of a step: a command, which finds the queue's rest, or a tick. -/
theorem memoryStaysCanonical : Obligations.MemoryStaysCanonical := by
  intro s u hs hstep
  unfold step at hstep
  split at hstep
  · cases hstep
    exact State.tick_memWf hs
  · next c rest hpending => exact exec_memWf c (s := { s with pending := rest }) hs u hstep

end Sys2Proof.Machine
end

section
/-! SUPPORT. Proofs about encodings: the words of tensor instructions (Figure 7-2) and the Lode header (Table 10-2) give back their fields. -/
namespace Sys2Proof.Machine

theorem bits_eq (n lo w : Nat) : bits n lo w = n / 2 ^ lo % 2 ^ w := by
  rw [bits, Nat.shiftRight_eq_div_pow]

/-! ### Tensor words -/

theorem TOp.cls_lt (op : TOp) : op.cls < 8 := by cases op <;> decide

theorem TOp.num_lt (op : TOp) : op.num < 32 := by cases op <;> decide

/-- CLASS and OP name an operation (Tables 7-8 and 7-9). -/
theorem topOf_cls_num (op : TOp) : topOf op.cls op.num = some op := by cases op <;> decide

section TWord
variable (op : TOp) (a : TArgs)

theorem tWord_lt : tWord op a < 2 ^ 128 := by
  have := op.cls_lt
  have := op.num_lt
  unfold tWord
  omega

theorem bits_tWord_id : bits (tWord op a) 0 3 = 7 := by
  rw [bits_eq, tWord]
  omega

theorem bits_tWord_cls : bits (tWord op a) 3 3 = op.cls := by
  have := op.cls_lt
  rw [bits_eq, tWord]
  omega

theorem bits_tWord_num : bits (tWord op a) 6 5 = op.num := by
  have := op.cls_lt
  have := op.num_lt
  rw [bits_eq, tWord]
  omega

/-- Taking a word apart gives the operands it was made of. -/
theorem tArgs_tWord : tArgs (tWord op a) = a := by
  have hcls := op.cls_lt
  have hnum := op.num_lt
  obtain ⟨pg, d0, d1, d2, d3, rc, seed, wtok, stok, ga, gb, xf⟩ := a
  simp only [tArgs, tWord, bits_eq, TArgs.mk.injEq]
  refine ⟨?_, ?_, ?_, ?_, ?_, ?_, ?_, ?_, ?_, ?_, ?_, ?_⟩ <;>
    (apply BitVec.eq_of_toNat_eq; rw [BitVec.toNat_ofNat]; omega)

theorem topOf_tWord : topOf (bits (tWord op a) 3 3) (bits (tWord op a) 6 5) = some op := by
  rw [bits_tWord_cls, bits_tWord_num, topOf_cls_num]

end TWord

theorem tWord_injective {op op' : TOp} {a b : TArgs} (h : tWord op a = tWord op' b) : op = op' ∧ a = b := by
  have hop : some op = some op' := by rw [← topOf_tWord op a, h, topOf_tWord]
  have ha : a = b := by rw [← tArgs_tWord op a, h, tArgs_tWord]
  exact ⟨Option.some.inj hop, ha⟩

/-- Settles O59: each field of a word stands alone in its bits, and CLASS and OP name the operation. -/
theorem tensorWordRoundTrip : Obligations.TensorWordRoundTrip :=
  ⟨fun p _ a => ⟨tWord_lt p.2 a, tArgs_tWord p.2 a, bits_tWord_id p.2 a, topOf_tWord p.2 a⟩, fun _ _ _ _ _ _ => tWord_injective⟩

/-! ### Lode headers -/

/-- A field inside an aligned part of a number. -/
theorem bits_of_part {n k m x : Nat} (hpart : n / 2 ^ k % 2 ^ m = x) (lo w : Nat) (hfits : lo + w ≤ m) : bits n (k + lo) w = bits x lo w := by
  rw [← hpart, bits_mod _ _ _ _ hfits, bits_eq, bits_eq, Nat.div_div_eq_div_mul, ← pow_add]

section Pack
variable (h : Hdr)

/-- Bytes 0 to 3 of a header. -/
def Hdr.partHandler : Nat :=
  h.handler % 1024 + h.kind % 8 * 2 ^ 10 + h.last.toNat * 2 ^ 13 + h.auto.toNat * 2 ^ 14 + h.ln % 8192 * 2 ^ 16

/-- Bytes 4 to 7: the sender. -/
def Hdr.partSource : Nat := h.stile % 8 + h.srank % 64 * 2 ^ 3 + h.chan % 512 * 2 ^ 9 + h.group % 32 * 2 ^ 18

/-- Bytes 8 to 11: the destination. -/
def Hdr.partDest : Nat := h.dq % 256 + h.dtile % 8 * 2 ^ 8 + h.drank % 64 * 2 ^ 11 + h.crank % 256 * 2 ^ 17

/-- Bytes 28 to 31: the reply's queue and a Quag's cause. -/
def Hdr.partReply : Nat := h.respq % 256 + h.resp.toNat * 2 ^ 8 + h.qcause % 16 * 2 ^ 9

theorem Hdr.pack_parts : h.pack = h.partHandler + h.partSource * 2 ^ 32 + h.partDest * 2 ^ 64 + h.seq % 2 ^ 32 * 2 ^ 96 +
    h.time % 2 ^ 64 * 2 ^ 128 + h.offset % 2 ^ 32 * 2 ^ 192 + h.partReply * 2 ^ 224 := rfl

theorem Hdr.partHandler_lt : h.partHandler < 2 ^ 32 := by
  have := h.last.toNat_lt
  have := h.auto.toNat_lt
  unfold Hdr.partHandler
  omega

theorem Hdr.partSource_lt : h.partSource < 2 ^ 32 := by
  unfold Hdr.partSource
  omega

theorem Hdr.partDest_lt : h.partDest < 2 ^ 32 := by
  unfold Hdr.partDest
  omega

theorem Hdr.partReply_lt : h.partReply < 2 ^ 32 := by
  have := h.resp.toNat_lt
  unfold Hdr.partReply
  omega

theorem Hdr.pack_lt : h.pack < 2 ^ 256 := by
  have := h.partHandler_lt
  have := h.partSource_lt
  have := h.partDest_lt
  have := h.partReply_lt
  rw [h.pack_parts]
  omega

/-- The aligned parts of a packed header. -/
theorem Hdr.parts_pack : h.pack / 2 ^ 0 % 2 ^ 32 = h.partHandler ∧ h.pack / 2 ^ 32 % 2 ^ 32 = h.partSource ∧ h.pack / 2 ^ 64 % 2 ^ 32 = h.partDest ∧
    h.pack / 2 ^ 96 % 2 ^ 32 = h.seq % 2 ^ 32 ∧ h.pack / 2 ^ 128 % 2 ^ 64 = h.time % 2 ^ 64 ∧ h.pack / 2 ^ 192 % 2 ^ 32 = h.offset % 2 ^ 32 ∧
    h.pack / 2 ^ 224 % 2 ^ 32 = h.partReply := by
  have := h.partHandler_lt
  have := h.partSource_lt
  have := h.partDest_lt
  have := h.partReply_lt
  rw [h.pack_parts]
  refine ⟨?_, ?_, ?_, ?_, ?_, ?_, ?_⟩ <;> omega

end Pack

theorem bool_eq_decide (b : Bool) {n : Nat} (h : n = b.toNat) : decide (n = 1) = b := by
  subst h; cases b <;> rfl

theorem Hdr.of_pack (h : Hdr) (hhandler : h.handler < 1024) (hkind : h.kind < 8) (hln : h.ln < 8192) (hstile : h.stile < 8)
    (hsrank : h.srank < 64) (hchan : h.chan < 512) (hgroup : h.group < 32) (hdq : h.dq < 256) (hdtile : h.dtile < 8) (hdrank : h.drank < 64)
    (hcrank : h.crank < 256) (hseq : h.seq < 2 ^ 32) (htime : h.time < 2 ^ 64) (hoffset : h.offset < 2 ^ 32) (hrespq : h.respq < 256)
    (hqcause : h.qcause < 16) : Hdr.of h.pack = h := by
  obtain ⟨inHandler, inSource, inDest, inSeq, inTime, inOffset, inReply⟩ := h.parts_pack
  have := h.last.toNat_lt
  have := h.auto.toNat_lt
  have := h.resp.toNat_lt
  have field {k m x : Nat} (hpart : h.pack / 2 ^ k % 2 ^ m = x) (lo w : Nat) {v : Nat} (hfits : lo + w ≤ m) (hv : x / 2 ^ lo % 2 ^ w = v) :
      bits h.pack (k + lo) w = v := (bits_of_part hpart lo w hfits).trans ((bits_eq x lo w).trans hv)
  rw [Hdr.of, Hdr.mk.injEq]
  refine ⟨field inHandler 0 10 (by decide) ?_, field inHandler 10 3 (by decide) ?_, bool_eq_decide _ (field inHandler 13 1 (by decide) ?_),
    bool_eq_decide _ (field inHandler 14 1 (by decide) ?_), field inHandler 16 13 (by decide) ?_, field inSource 0 3 (by decide) ?_, field inSource 3 6 (by decide) ?_,
    field inSource 9 9 (by decide) ?_, field inSource 18 5 (by decide) ?_, field inDest 0 8 (by decide) ?_, field inDest 8 3 (by decide) ?_, field inDest 11 6 (by decide) ?_,
    field inDest 17 8 (by decide) ?_, field inSeq 0 32 (by decide) (by omega), field inTime 0 64 (by decide) (by omega), field inOffset 0 32 (by decide) (by omega), field inReply 0 8 (by decide) ?_,
    bool_eq_decide _ (field inReply 8 1 (by decide) ?_), field inReply 9 4 (by decide) ?_⟩ <;>
    simp only [Hdr.partHandler, Hdr.partSource, Hdr.partDest, Hdr.partReply] <;> omega

theorem toNat_decide_eq_one {n : Nat} (h : n < 2) : (decide (n = 1)).toNat = n := by
  obtain rfl | rfl : n = 0 ∨ n = 1 := by omega
  all_goals rfl

theorem Hdr.pack_of (n : Nat) (hn : n < 2 ^ 256) (h15 : bits n 15 1 = 0) (h29 : bits n 29 3 = 0) (h55 : bits n 55 9 = 0)
    (h89 : bits n 89 7 = 0) (h237 : bits n 237 19 = 0) : (Hdr.of n).pack = n := by
  have hone (k : Nat) : (decide (n / 2 ^ k % 2 ^ 1 = 1)).toNat = n / 2 ^ k % 2 ^ 1 := toNat_decide_eq_one (by omega)
  simp only [bits_eq] at h15 h29 h55 h89 h237
  simp only [Hdr.pack, Hdr.of, bits_eq, hone]
  omega

/-- Settles O60: the parts of a header do not overlap, and with its reserved bits 0 they make up its 32 bytes. -/
theorem lodeHeaderRoundTrip : Obligations.LodeHeaderRoundTrip := by
  refine ⟨?_, Hdr.pack_of⟩
  intro h hhandler hkind hln hstile hsrank hchan hgroup hdq hdtile hdrank hcrank hseq htime hoffset hrespq hqcause
  exact ⟨h.pack_lt, h.of_pack hhandler hkind hln hstile hsrank hchan hgroup hdq hdtile hdrank hcrank hseq htime hoffset hrespq hqcause⟩

end Sys2Proof.Machine
end

section
/-! SUPPORT. Proofs about memory: what a write of bytes at a device address leaves, and the little-endian bytes of a number (R3). -/
namespace Sys2Proof.Machine

/-- A memory after consecutive bytes are written from an address on. -/
def SMap.setBytes (m : SMap Byte) : Nat → List Byte → SMap Byte
  | _, [] => m
  | a, b :: bs => SMap.setBytes (m.set 0 a b) (a + 1) bs

theorem SMap.getD_set (m : SMap Byte) (a : Nat) (b : Byte) (k : Nat) : (m.set 0 a b).getD k 0 = if k = a then b else m.getD k 0 := by
  split
  · next h => subst h; exact SMap.getD_set_same m k b
  · next h => exact SMap.getD_set_ne m b h

/-- A written byte reads as written, and every other byte as before. -/
theorem SMap.getD_setBytes (m : SMap Byte) (a : Nat) (bs : List Byte) (k : Nat) :
    (m.setBytes a bs).getD k 0 = if a ≤ k ∧ k < a + bs.length then bs[k - a]?.getD 0 else m.getD k 0 := by
  induction bs generalizing m a with
  | nil =>
    rw [SMap.setBytes, if_neg]
    simp only [List.length_nil]
    omega
  | cons b bs ih =>
    rw [SMap.setBytes, ih, SMap.getD_set, List.length_cons]
    by_cases hbelow : k < a
    · rw [if_neg (by omega), if_neg (by omega), if_neg (by omega)]
    by_cases hat : k = a
    · subst hat
      rw [if_neg (by omega), if_pos rfl, if_pos (by omega), Nat.sub_self]
      rfl
    · have hoff : k - a = k - (a + 1) + 1 := by omega
      rw [hoff, List.getElem?_cons_succ, if_neg hat]
      exact if_congr (by omega) rfl rfl

variable {s : State}

/-! ### Addresses -/

/-- A device address lies below the end of the last stack. -/
theorem deviceRegion_lt {pa : Nat} (h : (deviceRegion pa).isDevice = true) : pa < 0xC000000000 := by
  unfold deviceRegion at h
  split_ifs at h with hpeat htile hstacks
  · omega
  · omega
  · exact hstacks.2
  · exact absurd h (by decide)

theorem deviceRegion_not_host (pa o : Nat) : deviceRegion pa ≠ .host o := by
  unfold deviceRegion
  split
  · nofun
  · split
    · dsimp only; split <;> nofun
    · split
      · dsimp only; split <;> nofun
      · nofun

theorem deviceRegion_not_fen (pa d o : Nat) : deviceRegion pa ≠ .fen d o := by
  unfold deviceRegion
  split
  · nofun
  · split
    · dsimp only; split <;> nofun
    · split
      · dsimp only; split <;> nofun
      · nofun

theorem regionOf_of_lt {pa : Nat} (h : pa < 0x10000000000) : regionOf pa = deviceRegion pa := by
  rw [regionOf, if_neg (by omega), if_neg (by omega)]

/-- The address of an offset in a rank's window (R208). -/
def InWindow (pa d off : Nat) : Prop := d < 64 ∧ off < 0x10000000000 ∧ pa = 0x800000000000 + d * 0x10000000000 + off

theorem regionOf_window {pa d off : Nat} (h : InWindow pa d off) : regionOf pa = .fen d off := by
  obtain ⟨hd, hoff, hpa⟩ := h
  have hrank : (pa - 0x800000000000) / 0x10000000000 = d := by omega
  have hplace : (pa - 0x800000000000) % 0x10000000000 = off := by omega
  rw [regionOf, if_neg (by omega), if_pos (by omega), hrank, hplace]

/-- Below the host window an address names itself. -/
theorem State.localise_of_lt {pa : Nat} (h : pa < 0x10000000000) : s.localise pa = pa := by
  unfold State.localise
  rw [regionOf_of_lt h]
  split
  · next d off hfen => exact absurd hfen (deviceRegion_not_fen pa d off)
  · rfl

/-- An address of the device's own window names its offset (R208). -/
theorem State.localise_window {pa off : Nat} (h : InWindow pa s.rank off) : s.localise pa = off := by
  unfold State.localise
  rw [regionOf_window h]
  exact if_pos rfl

theorem regionOf_host {pa : Nat} (h : 0x10000000000 ≤ pa ∧ pa < 0x20000000000) : regionOf pa = .host (pa - 0x10000000000) :=
  if_pos h

/-- An address beyond both windows names nothing. -/
theorem regionOf_of_beyond {pa : Nat} (h1 : 0x20000000000 ≤ pa) (h2 : pa < 0x800000000000 ∨ 0x800000000000 + 64 * 0x10000000000 ≤ pa) :
    regionOf pa = .unmapped := by
  rw [regionOf, if_neg (by omega), if_neg (by omega), deviceRegion, if_neg (by omega), if_neg (by omega), if_neg (by omega)]

/-- The four parts of the address map (Table 9-1). -/
theorem address_cases (pa : Nat) : pa < 0x10000000000 ∨ (0x10000000000 ≤ pa ∧ pa < 0x20000000000) ∨
    (∃ d off, InWindow pa d off) ∨ regionOf pa = .unmapped := by
  by_cases hlow : pa < 0x20000000000
  · omega
  by_cases hfen : 0x800000000000 ≤ pa ∧ pa < 0x800000000000 + 64 * 0x10000000000
  · exact .inr (.inr (.inl ⟨(pa - 0x800000000000) / 0x10000000000, (pa - 0x800000000000) % 0x10000000000, ⟨by omega, by omega, by omega⟩⟩))
  · exact .inr (.inr (.inr (regionOf_of_beyond (by omega) (by omega))))

theorem State.region_of_lt {pa : Nat} (h : pa < 0x10000000000) : s.region pa = deviceRegion pa := by
  unfold State.region
  rw [regionOf_of_lt h]
  split
  · next d off hfen => exact absurd hfen (deviceRegion_not_fen pa d off)
  · rfl

theorem State.region_of_window {pa d off : Nat} (h : InWindow pa d off) : s.region pa = if d = s.rank then deviceRegion off
      else if (deviceRegion off).isDevice && s.rankReachable d then .fen d off else .unmapped := by
  unfold State.region
  rw [regionOf_window h]

/-- A device address is a local one or lies in the device's own window. -/
theorem State.device_address {pa : Nat} (h : (s.region pa).isDevice = true) :
    pa < 0xC000000000 ∨ ∃ off, off < 0xC000000000 ∧ InWindow pa s.rank off := by
  rcases address_cases pa with hlow | hhost | ⟨d, off, hwin⟩ | hnone
  · rw [State.region_of_lt hlow] at h
    exact .inl (deviceRegion_lt h)
  · unfold State.region at h
    rw [regionOf_host hhost] at h
    contradiction
  · rw [State.region_of_window hwin] at h
    split at h
    · next hown => exact .inr ⟨off, deviceRegion_lt h, hown ▸ hwin⟩
    · split at h <;> contradiction
  · unfold State.region at h
    rw [hnone] at h
    contradiction

theorem State.region_not_host {pa o : Nat} (h : pa < 0x10000000000 ∨ 0x20000000000 ≤ pa) : s.region pa ≠ .host o := by
  rcases address_cases pa with hlow | hhost | ⟨d, off, hwin⟩ | hnone
  · rw [State.region_of_lt hlow]
    exact deviceRegion_not_host pa o
  · omega
  · rw [State.region_of_window hwin]
    split
    · exact deviceRegion_not_host off o
    · split <;> nofun
  · unfold State.region
    rw [hnone]
    nofun

/-- The addresses just after one of a device's memory lie in the same window, and are not the host's. -/
theorem State.localise_add {pa i : Nat} (h : (s.region pa).isDevice = true) (hi : i < 0x100000) :
    s.localise (pa + i) = s.localise pa + i ∧ ∀ o, s.region (pa + i) ≠ .host o := by
  rcases State.device_address h with hlow | ⟨off, hoff, hwin⟩
  · rw [State.localise_of_lt (by omega), State.localise_of_lt (by omega)]
    exact ⟨rfl, fun o => State.region_not_host (by omega)⟩
  · obtain ⟨hrank, hwide, hpa⟩ := hwin
    have hnext : InWindow (pa + i) s.rank (off + i) := ⟨hrank, by omega, by omega⟩
    rw [State.localise_window ⟨hrank, hwide, hpa⟩, State.localise_window hnext]
    exact ⟨rfl, fun o => State.region_not_host (by omega)⟩

/-! ### Writing bytes -/

/-- A byte written anywhere but in the host window goes to device memory. -/
theorem State.putByte_of_not_host {f pa : Nat} {b : Byte} (h : ∀ o, s.region pa ≠ .host o) :
    s.putByte f pa b = { s with mem := s.mem.set 0 (s.localise pa) b } := by
  unfold State.putByte
  split
  · next o ho => exact absurd ho (h o)
  · rfl

/-- Bytes written at consecutive local addresses go to device memory, and nothing else changes. -/
theorem State.putBytes_eq_setBytes {f pa : Nat} {bs : List Byte}
    (h : ∀ i, i < bs.length → s.localise (pa + i) = s.localise pa + i ∧ ∀ o, s.region (pa + i) ≠ .host o) :
    s.putBytes f pa bs = { s with mem := s.mem.setBytes (s.localise pa) bs } := by
  induction bs generalizing s pa with
  | nil => rfl
  | cons b bs ih =>
    have hhere : ∀ o, s.region pa ≠ .host o := (h 0 (Nat.succ_pos _)).2
    have hnext : ∀ i, i < bs.length → s.localise (pa + 1 + i) = s.localise (pa + 1) + i ∧ ∀ o, s.region (pa + 1 + i) ≠ .host o := by
      intro i hi
      obtain ⟨hplace, hnot⟩ := h (i + 1) (by simpa using hi)
      have hone : s.localise (pa + 1) = s.localise pa + 1 := by
        rcases Nat.eq_zero_or_pos i with rfl | _
        · simpa using hplace
        · exact (h 1 (by simp; omega)).1
      rw [Nat.add_right_comm, Nat.add_assoc pa i 1]
      exact ⟨by omega, hnot⟩
    rw [State.putBytes, State.putByte_of_not_host hhere, SMap.setBytes]
    refine (ih (s := { s with mem := s.mem.set 0 (s.localise pa) b }) hnext).trans ?_
    cases bs with
    | nil => rfl
    | cons c bs =>
      have hone : s.localise (pa + 1) = s.localise pa + 1 := (h 1 (by simp)).1
      exact congrArg (fun a => ({ s with mem := SMap.setBytes _ a (c :: bs) } : State)) hone

/-- A write of bytes at a device address. -/
theorem State.putBytes_of_device {f pa : Nat} {bs : List Byte} (h : (s.region pa).isDevice = true) (hlen : bs.length ≤ 0x100000) :
    s.putBytes f pa bs = { s with mem := s.mem.setBytes (s.localise pa) bs } :=
  State.putBytes_eq_setBytes fun i hi => State.localise_add h (by omega)

/-! ### Little-endian bytes -/

theorem getElem?_leBytes {n v i : Nat} (h : i < n) : (leBytes n v)[i]? = some (BitVec.ofNat 8 (v / 256 ^ i)) := by
  induction n generalizing v i with
  | zero => omega
  | succ n ih =>
    cases i with
    | zero => simp [leBytes]
    | succ i => rw [leBytes, List.getElem?_cons_succ, ih (by omega), Nat.div_div_eq_div_mul, ← pow_succ']

/-- Settles O58: a write of bytes at device addresses is one to the sparse map, whose reads are known. -/
theorem memoryReadsWhatWasWritten : Obligations.MemoryReadsWhatWasWritten := by
  refine ⟨SMap.getD_set, fun s f pa bs h => ?_, fun n v i => getElem?_leBytes, leNat_leBytes⟩
  have hnear : ∀ i, i < bs.length → s.localise (pa + i) = s.localise pa + i ∧ ∀ o, s.region (pa + i) ≠ .host o := fun i hi => by
    obtain ⟨hdevice, hplace⟩ := h i hi
    refine ⟨hplace, fun o ho => ?_⟩
    simp [ho, Region.isDevice] at hdevice
  rw [State.putBytes_eq_setBytes hnear]
  exact ⟨SMap.getD_setBytes s.mem (s.localise pa) bs, rfl, rfl, rfl⟩

end Sys2Proof.Machine
end

section
/-! SUPPORT. Proofs about the queue and reset: a step runs the front command, every command answers, and what the device reads after a cold reset. -/
namespace Sys2Proof.Machine

/-! ### The queue -/

/-- Settles O52: the three forms of the queue are those a step distinguishes. -/
theorem stepRunsFrontCommand : Obligations.StepRunsFrontCommand := by
  refine ⟨fun c s => rfl, fun c rest s hpending => ?_, fun s hpending => ?_⟩
  · rw [step, hpending]
  · rw [step, hpending]

/-- Every command's meaning is an effect, with the queue as it was (the model's choice, log entry 1). -/
theorem exec_answers (c : Instr) (s : State) : ∃ u, exec c s = ok s u := by
  cases c <;> exact ⟨_, rfl⟩

/-- Settles O53: a command answers an effect, and an empty queue a tick. -/
theorem everyCommandAnswers : Obligations.EveryCommandAnswers := by
  refine ⟨fun c s => ?_, fun s => ?_⟩
  · obtain ⟨u, hu⟩ := exec_answers c s
    exact ⟨_, hu, rfl⟩
  · unfold State.stepSafe step
    split
    · exact ⟨_, rfl⟩
    · next c rest _ =>
      obtain ⟨u, hu⟩ := exec_answers c { s with pending := rest }
      exact ⟨_, hu⟩

/-! ### Reset -/

@[simp] theorem State.rd_reset (f : Fld) (i j : Nat) : State.reset.rd f i j = f.rst := rfl

@[simp] theorem State.flag_reset (f : Fld) (i j : Nat) : State.reset.flag f i j = decide (f.rst ≠ 0) := rfl

@[simp] theorem State.tile_reset (t : Fin 8) : State.reset.tile t = Tile.reset :=
  Vector.getElem_replicate t.isLt

@[simp] theorem State.thr_reset (t : Fin 8) (h : Fin 4) : State.reset.thr t h = Thread.reset := by
  rw [State.thr, State.tile_reset]
  exact Vector.getElem_replicate h.isLt

/-- Settles O55: after a cold reset every register reads its reset value, and every tile and thread is as a tile reset leaves it. -/
theorem resetValues : Obligations.ResetValues := by
  have hport (p : Nat) : State.reset.pState p = 0 ∧ State.reset.flag F.CWP_CTL_EN p = false := ⟨rfl, rfl⟩
  have hthread (t : Fin 8) (h : Fin 4) (j : Nat) : (State.reset.thr t h).st = .idle ∧ (State.reset.thr t h).getG 0 = 0 ∧
      (State.reset.tile t).ops = [] ∧ (State.reset.tile t).ls.getD j 0 = 0 := by
    rw [State.thr_reset, State.tile_reset]
    exact ⟨rfl, rfl, rfl, rfl⟩
  exact ⟨rfl, fun _ _ => rfl, fun _ _ => rfl, fun p _ => hport p, fun _ _ => rfl, rfl, rfl, rfl, rfl, rfl, rfl, rfl, rfl, rfl, fun _ _ _ _ => rfl,
    fun _ _ _ => rfl, rfl, rfl, rfl, rfl, rfl, rfl, rfl, rfl, hthread⟩

end Sys2Proof.Machine
end

section
/-! SUPPORT. Proofs about ALU instructions and branches (Tables 7-10 and 7-11, R171, R497): each form's end, and the functions it computes. -/
namespace Sys2Proof.Machine

/-! ### How a Psirra-S instruction ends -/

/-- Leaving every field of a tile leaves the state. -/
theorem State.onTile_self (s : State) (t : Fin 8) : s.onTile t (fun x => x) = s := by
  have hsame : s.tiles.set t (s.tile t) = s.tiles := Vector.set_getElem_self t.isLt
  rw [State.onTile, State.setTile, hsame]

theorem Tile.onThr_self (x : Tile) (h : Fin 4) : x.onThr h (fun y => y) = x := by
  have hsame : x.threads.set h x.threads[h] = x.threads := Vector.set_getElem_self h.isLt
  rw [Tile.onThr, hsame]

theorem State.onThr_self (s : State) (t : Fin 8) (h : Fin 4) : s.onThr t h (fun y => y) = s := by
  simp only [State.onThr, Tile.onThr_self, State.onTile_self]

/-- A trap other than SVCALL's and BREAK's raises itself alone. -/
theorem State.act_trap {s : State} {t : Fin 8} {h : Fin 4} {n kind w cause info : Nat} (hcause : ¬(cause = cSvcall ∨ cause = cBreak)) :
    s.act t h n kind w (.trap cause info) = s.raiseSync t h kind cause info w := by
  simp only [State.act, Thread.counted, if_neg hcause, State.onThr_self]

section Ends
variable {s : State} {t : Fin 8} {th : Thr} {w : Nat} {body : State → Act} (hissues : s.issues t th)
include hissues

/-- An instruction that goes on retires. -/
theorem State.scalar_next {f : State → State} (hbody : body (s.fetched t th w) = .next (f (s.fetched t th w))) {c : Instr}
    (hc : exec c s = ok s (s.scalar t th w body)) : s.retires t th c f := by
  refine ⟨w, ?_⟩
  rw [State.gives, hc, State.scalar_issues hissues, hbody, State.act, State.thr_fetched]
  rfl

/-- An instruction that writes one general register runs. -/
theorem State.scalar_toG {gd : BitVec 6} {v : Word} (hbody : body (s.fetched t th w) = (s.fetched t th w).toG t th gd v) :
    ∃ u, ok s (s.scalar t th w body) = .next u ∧ s.ranG u t th gd.toNat v := by
  refine ⟨_, rfl, ?_⟩
  rw [State.scalar_issues hissues, hbody, State.toG, State.act, State.thr_fetched]
  exact State.setG_retire gd.toNat v _

/-- An instruction that writes one predicate runs. -/
theorem State.scalar_toP {gd : BitVec 6} {b : Bool} (hbody : body (s.fetched t th w) = (s.fetched t th w).toP t th gd b) (hgd : gd.toNat < 8) :
    ∃ u, ok s (s.scalar t th w body) = .next u ∧ s.ranP u t th gd.toNat b := by
  refine ⟨_, rfl, ?_⟩
  rw [State.scalar_issues hissues, hbody, State.toP, Act.ifLegal, decide_eq_true hgd, if_pos rfl, State.act, State.thr_fetched]
  exact State.setP_retire gd.toNat b _ hgd

/-- An instruction that traps does nothing else. -/
theorem State.scalar_trap {cause info : Nat} (hbody : body (s.fetched t th w) = .trap cause info) (hcause : ¬(cause = cSvcall ∨ cause = cBreak)) {c : Instr}
    (hc : exec c s = ok s (s.scalar t th w body)) : s.trapsWith t th c cause info := by
  refine ⟨w, ?_⟩
  rw [State.gives, hc, State.scalar_issues hissues, hbody, State.act_trap hcause]
  rfl

/-- An instruction with a field it may not have is ILLEGAL_INSN. -/
theorem State.scalar_illegal {legal : Bool} {a : Act} (hbody : body (s.fetched t th w) = .ifLegal legal a) (hlegal : legal = false) {c : Instr}
    (hc : exec c s = ok s (s.scalar t th w body)) : s.trapsWith t th c cIllegalInsn 0 :=
  State.scalar_trap hissues (by rw [hbody, hlegal]; rfl) (by decide) hc

/-- A branch that writes no register. -/
theorem State.scalar_jump {pc : Nat} (hbody : body (s.fetched t th w) = .jump (s.fetched t th w) pc) :
    ∃ u, ok s (s.scalar t th w body) = .next u ∧ s.jumped u t th pc none := by
  refine ⟨_, rfl, ?_⟩
  have hnone : (s.fetched t th w).setG t (thrIx th) 0 0 = s.fetched t th w := State.onThr_self _ t (thrIx th)
  rw [State.scalar_issues hissues, hbody, State.act, ← hnone]
  exact State.setG_retire 0 0 pc

/-- A branch that is not taken goes on. -/
theorem State.scalar_stays (hbody : body (s.fetched t th w) = .next (s.fetched t th w)) :
    ∃ u, ok s (s.scalar t th w body) = .next u ∧ s.jumped u t th ((s.thr t (thrIx th)).pc + 4) none := by
  refine ⟨_, rfl, ?_⟩
  have hnone : (s.fetched t th w).setG t (thrIx th) 0 0 = s.fetched t th w := State.onThr_self _ t (thrIx th)
  rw [State.scalar_issues hissues, hbody, State.act, State.thr_fetched, ← hnone]
  exact State.setG_retire 0 0 _

/-- A branch that writes its return address. -/
theorem State.scalar_link {pc : Nat} (hbody : body (s.fetched t th w) = .jump ((s.fetched t th w).link t th) pc) :
    ∃ u, ok s (s.scalar t th w body) = .next u ∧ s.jumped u t th pc (some (BitVec.ofNat 64 (((s.thr t (thrIx th)).pc + 4) % 2 ^ 48))) := by
  refine ⟨_, rfl, ?_⟩
  rw [State.scalar_issues hissues, hbody, State.act, State.link, State.thr_fetched]
  exact State.setG_retire 62 _ pc

end Ends

/-! ### Functions of words -/

section Words
variable (x y : Word)

theorem add_eq_ofNat : x + y = BitVec.ofNat 64 (x.toNat + y.toNat) := by
  apply BitVec.eq_of_toNat_eq; simp

theorem sub_eq_ofInt : x - y = BitVec.ofInt 64 ((x.toNat : Int) - y.toNat) := by
  rw [Int.sub_eq_add_neg, BitVec.ofInt_add, BitVec.ofInt_neg, BitVec.sub_eq_add_neg]; simp

theorem shiftLeft_eq_ofNat (n : Nat) : x <<< n = BitVec.ofNat 64 (x.toNat * 2 ^ n) := by
  apply BitVec.eq_of_toNat_eq; simp [Nat.shiftLeft_eq]

theorem shiftRight_eq_ofNat (n : Nat) : x >>> n = BitVec.ofNat 64 (x.toNat / 2 ^ n) := by
  rw [← Nat.shiftRight_eq_div_pow, ← BitVec.toNat_ushiftRight, BitVec.ofNat_toNat, BitVec.setWidth_eq]

theorem sshiftRight_eq_ofInt (n : Nat) : x.sshiftRight n = BitVec.ofInt 64 (x.toInt / 2 ^ n) := by
  rw [← BitVec.ofInt_toInt (x := x.sshiftRight n), BitVec.toInt_sshiftRight, Int.shiftRight_eq_div_pow]
  norm_cast

theorem mul_eq_ofNat : x * y = BitVec.ofNat 64 (x.toNat * y.toNat) := by
  apply BitVec.eq_of_toNat_eq; simp

theorem toNat_eq_zero_iff : y.toNat = 0 ↔ y = 0 := by
  rw [← BitVec.toNat_inj]; simp

theorem divu64_eq : divu64 x y = if y.toNat = 0 then BitVec.ofNat 64 (2 ^ 64 - 1) else BitVec.ofNat 64 (x.toNat / y.toNat) := by
  unfold divu64
  refine if_congr (toNat_eq_zero_iff y).symm rfl ?_
  rw [← BitVec.toNat_udiv, BitVec.ofNat_toNat, BitVec.setWidth_eq]

theorem remu64_eq : remu64 x y = if y.toNat = 0 then x else BitVec.ofNat 64 (x.toNat % y.toNat) := by
  unfold remu64
  refine if_congr (toNat_eq_zero_iff y).symm rfl ?_
  rw [← BitVec.toNat_umod, BitVec.ofNat_toNat, BitVec.setWidth_eq]

theorem slt_iff : x.slt y = true ↔ x.toInt < y.toInt := by simp [BitVec.slt]

theorem ult_iff : x.ult y = true ↔ x.toNat < y.toNat := by simp [BitVec.ult]

theorem min_signed : (if x.slt y then x else y) = if x.toInt ≤ y.toInt then x else y := by
  simp only [slt_iff]
  by_cases hlt : x.toInt < y.toInt
  · rw [if_pos hlt, if_pos hlt.le]
  · by_cases heq : x.toInt = y.toInt
    · rw [BitVec.eq_of_toInt_eq heq]; simp
    · rw [if_neg hlt, if_neg (by omega)]

theorem max_signed : (if x.slt y then y else x) = if y.toInt ≤ x.toInt then x else y := by
  simp only [slt_iff]
  by_cases hlt : x.toInt < y.toInt
  · rw [if_pos hlt, if_neg (by omega)]
  · rw [if_neg hlt, if_pos (by omega)]

theorem min_unsigned : (if x.ult y then x else y) = if x.toNat ≤ y.toNat then x else y := by
  simp only [ult_iff]
  by_cases hlt : x.toNat < y.toNat
  · rw [if_pos hlt, if_pos hlt.le]
  · by_cases heq : x.toNat = y.toNat
    · rw [BitVec.eq_of_toNat_eq heq]; simp
    · rw [if_neg hlt, if_neg (by omega)]

theorem max_unsigned : (if x.ult y then y else x) = if y.toNat ≤ x.toNat then x else y := by
  simp only [ult_iff]
  by_cases hlt : x.toNat < y.toNat
  · rw [if_pos hlt, if_neg (by omega)]
  · rw [if_neg hlt, if_pos (by omega)]

end Words

/-- The sign-extended immediate, as a number. -/
theorem immW_eq (a : IArgs) : immW a = BitVec.ofInt 64 a.imm.toInt := rfl

theorem toInt_immW (a : IArgs) : (immW a).toInt = a.imm.toInt := BitVec.toInt_signExtend_of_le (by decide)

theorem add_immW (x : Word) (a : IArgs) : x + immW a = BitVec.ofInt 64 ((x.toNat : Int) + a.imm.toInt) := by
  rw [BitVec.ofInt_add, immW_eq]; simp

/-- SHIN's shift leaves the low 13 bits to the immediate. -/
theorem shin_eq (x : Word) (i : BitVec 13) : (x <<< 13) ||| i.zeroExtend 64 = BitVec.ofNat 64 (x.toNat * 2 ^ 13 + i.toNat) := by
  have hor : x.toNat * 2 ^ 13 ||| i.toNat = x.toNat * 2 ^ 13 + i.toNat := by
    rw [← Nat.shiftLeft_eq, ← Nat.shiftLeft_add_eq_or_of_lt i.isLt]
  rw [← hor]
  apply BitVec.eq_of_toNat_eq
  rw [BitVec.toNat_or, BitVec.toNat_ofNat, Nat.or_mod_two_pow, ← Nat.shiftLeft_eq, BitVec.toNat_shiftLeft, BitVec.toNat_setWidth]

/-- The number of leading zeros that clz64 counts: the bits above the highest 1. -/
theorem clz64_spec (w : Word) : ∃ n, clz64 w = BitVec.ofNat 64 n ∧ n ≤ 64 ∧ (∀ i, i < 64 → 64 ≤ i + n → w.getLsbD i = false) ∧
    (n < 64 → w.getLsbD (63 - n) = true) := by
  by_cases hzero : w = 0
  · subst hzero
    exact ⟨64, rfl, le_rfl, by simp, by simp⟩
  · have hne : w.toNat ≠ 0 := by simpa using (toNat_eq_zero_iff w).not.mpr hzero
    have hlog : w.toNat.log2 < 64 := (Nat.log2_lt hne).mpr w.isLt
    refine ⟨63 - w.toNat.log2, by rw [clz64, if_neg hzero], by omega, fun i _ hi => ?_, fun _ => ?_⟩
    · refine Nat.testBit_lt_two_pow (lt_of_lt_of_le Nat.lt_log2_self ?_)
      exact Nat.pow_le_pow_right (by decide) (by omega)
    · rw [show 63 - (63 - w.toNat.log2) = w.toNat.log2 by omega]
      exact Nat.testBit_log2 hne

theorem popc64_eq (w : Word) : popc64 w = BitVec.ofNat 64 ((List.range 64).countP (fun i => w.getLsbD i)) := by
  rw [popc64, List.countP_eq_length_filter]

/-! ### ALU forms -/

section Forms
variable {s : State} {t : Fin 8} {th : Thr} {fn : Nat} (hissues : s.issues t th)
include hissues

theorem State.alu2_ranG {a : RArgs} {f g : Word → Word → Word} (hx : a.x = 0) (hfg : ∀ x y, f x y = g x y) :
    ∃ u, ok s (s.alu2 t th fn a f) = .next u ∧ s.ranG u t th a.gd.toNat (g (s.g t (thrIx th) a.ga.toNat) (s.g t (thrIx th) a.gb.toNat)) :=
  State.scalar_toG hissues (by simp [Act.ifLegal, hx, hfg, State.ga])

theorem State.alu1_ranG {a : RArgs} {f : Word → Word} (hx : a.x = 0) (hgb : a.gb = 0) :
    ∃ u, ok s (s.alu1 t th fn a f) = .next u ∧ s.ranG u t th a.gd.toNat (f (s.g t (thrIx th) a.ga.toNat)) :=
  State.scalar_toG hissues (by simp [Act.ifLegal, hx, hgb, State.ga])

theorem State.aluImm_ranG {a : IArgs} {f : Word → Word} {v : Word} (hv : f (s.g t (thrIx th) a.ga.toNat) = v) :
    ∃ u, ok s (s.aluImm t th fn a f) = .next u ∧ s.ranG u t th a.gd.toNat v :=
  State.scalar_toG hissues (by simp [State.ga, hv])

theorem State.aluShift_ranG {a : IArgs} {f g : Word → Nat → Word} (himm : a.imm.toNat < 64) (hfg : ∀ x n, f x n = g x n) :
    ∃ u, ok s (s.aluShift t th fn a f) = .next u ∧ s.ranG u t th a.gd.toNat (g (s.g t (thrIx th) a.ga.toNat) a.imm.toNat) :=
  State.scalar_toG hissues (by simp [Act.ifLegal, himm, hfg, State.ga])

theorem State.aluCmp_ranP {a : RArgs} {f g : Word → Word → Bool} (hx : a.x = 0) (hgd : a.gd.toNat < 8) (hfg : ∀ x y, f x y = g x y) :
    ∃ u, ok s (s.aluCmp t th fn a f) = .next u ∧ s.ranP u t th a.gd.toNat (g (s.g t (thrIx th) a.ga.toNat) (s.g t (thrIx th) a.gb.toNat)) :=
  State.scalar_toP hissues (by simp [Act.ifLegal, hx, hfg, State.ga]) hgd

theorem State.aluCmpImm_ranP {a : IArgs} {f : Word → Word → Bool} {b : Bool} (hgd : a.gd.toNat < 8) (hb : f (s.g t (thrIx th) a.ga.toNat) (immW a) = b) :
    ∃ u, ok s (s.aluCmpImm t th fn a f) = .next u ∧ s.ranP u t th a.gd.toNat b :=
  State.scalar_toP hissues (by simp [State.ga, hb]) hgd

theorem State.aluPred_ranP {a : RArgs} {f : Bool → Bool → Bool} (hx : a.x = 0) (hgd : a.gd.toNat < 8) (hga : a.ga.toNat < 8) (hgb : a.gb.toNat < 8) :
    ∃ u, ok s (s.aluPred t th fn a f) = .next u ∧
      s.ranP u t th a.gd.toNat (f ((s.thr t (thrIx th)).getP a.ga.toNat) ((s.thr t (thrIx th)).getP a.gb.toNat)) :=
  State.scalar_toP hissues (by simp [Act.ifLegal, hx, hga, hgb]) hgd

end Forms

/-- Settles O1: each form writes its destination with its function of the operands, and each function is the one on numbers. -/
theorem aluResult : Obligations.AluResult := by
  refine ⟨?_, ⟨?_, ?_, ?_⟩, ?_⟩
  · intro p hp t th a s hissues hx
    simp only [List.mem_cons, List.not_mem_nil, or_false] at hp
    rcases hp with rfl | rfl | rfl | rfl | rfl | rfl | rfl | rfl | rfl | rfl | rfl | rfl | rfl | rfl | rfl | rfl
    exacts [State.alu2_ranG hissues hx add_eq_ofNat, State.alu2_ranG hissues hx sub_eq_ofInt, State.alu2_ranG hissues hx fun _ _ => rfl,
      State.alu2_ranG hissues hx fun _ _ => rfl, State.alu2_ranG hissues hx fun _ _ => rfl,
      State.alu2_ranG hissues hx fun x y => shiftLeft_eq_ofNat x _, State.alu2_ranG hissues hx fun x y => shiftRight_eq_ofNat x _,
      State.alu2_ranG hissues hx fun x y => sshiftRight_eq_ofInt x _, State.alu2_ranG hissues hx mul_eq_ofNat,
      State.alu2_ranG hissues hx fun _ _ => rfl, State.alu2_ranG hissues hx divu64_eq, State.alu2_ranG hissues hx remu64_eq,
      State.alu2_ranG hissues hx min_signed, State.alu2_ranG hissues hx max_signed, State.alu2_ranG hissues hx min_unsigned,
      State.alu2_ranG hissues hx max_unsigned]
  · intro p hp t th a s hissues
    simp only [List.mem_cons, List.not_mem_nil, or_false] at hp
    rcases hp with rfl | rfl | rfl | rfl | rfl
    exacts [State.aluImm_ranG hissues (add_immW _ a), State.aluImm_ranG hissues rfl, State.aluImm_ranG hissues rfl,
      State.aluImm_ranG hissues rfl, State.aluImm_ranG hissues (shin_eq _ a.imm)]
  · intro p hp t th a s hissues himm
    simp only [List.mem_cons, List.not_mem_nil, or_false] at hp
    rcases hp with rfl | rfl | rfl
    exacts [State.aluShift_ranG hissues himm shiftLeft_eq_ofNat, State.aluShift_ranG hissues himm shiftRight_eq_ofNat,
      State.aluShift_ranG hissues himm sshiftRight_eq_ofInt]
  · intro t th a s hissues hga
    exact State.scalar_toG hissues (by simp [Act.ifLegal, hga, immW_eq])
  · intro t th a s hissues
    refine ⟨fun hx hgb => ?_, fun hx hgb => ?_, fun hx => ?_, fun hx hga hgb => ?_⟩
    · obtain ⟨n, hn, hle, hzeros, hone⟩ := clz64_spec (s.g t (thrIx th) a.ga.toNat)
      obtain ⟨u, hu, hran⟩ := State.alu1_ranG (fn := 0x10) (f := clz64) hissues hx hgb
      exact ⟨u, n, hu, hn ▸ hran, hle, hzeros, hone⟩
    · rw [← popc64_eq]
      exact State.alu1_ranG hissues hx hgb
    · exact State.scalar_toG hissues (by simp [Act.ifLegal, hx, State.ga])
    · have hruns : ∃ u, exec (.aluPmovg t th a) s = .next u ∧ s.ranG u t th a.gd.toNat (((s.thr t (thrIx th)).p ||| 1#8).zeroExtend 64) :=
        State.scalar_toG hissues (by simp [Act.ifLegal, hx, hga, hgb])
      obtain ⟨u, hu, hran⟩ := hruns
      refine ⟨u, _, hu, hran, fun j hj => ?_, fun j hj => ?_⟩
      · by_cases hzero : j = 0
        · simp [Thread.getP, hzero]
        · simp [Thread.getP, hzero]
          omega
      · simp only [BitVec.truncate_eq_setWidth, BitVec.getLsbD_setWidth, BitVec.getLsbD_of_ge _ j hj, Bool.and_false]

end Sys2Proof.Machine
end

section
/-! SUPPORT. Proofs about comparisons, predicate logic and branches (Tables 7-10 and 7-11, R497), and about fields an ALU word may not have (R171). -/
namespace Sys2Proof.Machine

theorem eq_iff_toInt (x y : Word) : decide (x = y) = decide (x.toInt = y.toInt) := by
  simp [BitVec.toInt_inj]

theorem slt_eq_decide (x y : Word) : x.slt y = decide (x.toInt < y.toInt) := rfl

theorem ult_eq_decide (x y : Word) : x.ult y = decide (x.toNat < y.toNat) := rfl

theorem not_slt_eq_decide (x y : Word) : (!x.slt y) = decide (y.toInt ≤ x.toInt) := by
  rw [slt_eq_decide, ← decide_not]
  exact decide_eq_decide.mpr not_lt

theorem not_ult_eq_decide (x y : Word) : (!x.ult y) = decide (y.toNat ≤ x.toNat) := by
  rw [ult_eq_decide, ← decide_not]
  exact decide_eq_decide.mpr not_lt

/-- A register number from 6 bits of a branch's offset. -/
theorem toNat_setWidth_of_lt {n k : Nat} (x : BitVec n) (h : x.toNat < 2 ^ k) : (x.setWidth k).toNat = x.toNat := by
  rw [BitVec.toNat_setWidth, Nat.mod_eq_of_lt h]

section Branches
variable {s : State} {t : Fin 8} {th : Thr} {a : BArgs} (hissues : s.issues t th)

theorem State.brTarget_fetched {w : Nat} : (s.fetched t th w).brTarget t th a = ((((s.thr t (thrIx th)).pc : Int) + 4 * a.off.toInt) % 2 ^ 48).toNat := by
  rw [State.brTarget, State.thr_fetched]

/-- What a legal register branch does. -/
theorem State.brReg_fetched {w : Nat} (hp : a.p = 0) (hn : a.n = false) (hoff : a.off.toNat < 64)
    (haligned : (s.g t (thrIx th) a.off.toNat).toNat % 4 = 0) (lnk : Bool) :
    (s.fetched t th w).brReg t th a lnk =
      .jump (if lnk then (s.fetched t th w).link t th else s.fetched t th w) (s.g t (thrIx th) a.off.toNat).toNat := by
  simp [State.brReg, Act.ifLegal, hp, hn, hoff, haligned, State.ga, toNat_setWidth_of_lt a.off (k := 6) hoff]

end Branches

/-- Settles O2: each form writes its predicate with its function of the operands, and each branch retires at its target. -/
theorem predicateAndBranchResult : Obligations.PredicateAndBranchResult := by
  refine ⟨⟨?_, ?_, ?_, ?_⟩, ?_⟩
  · intro p hp t th a s hissues hx hgd
    simp only [List.mem_cons, List.not_mem_nil, or_false] at hp
    rcases hp with rfl | rfl | rfl | rfl | rfl | rfl
    exacts [State.aluCmp_ranP hissues hx hgd fun _ _ => rfl, State.aluCmp_ranP hissues hx hgd fun _ _ => rfl,
      State.aluCmp_ranP hissues hx hgd slt_eq_decide, State.aluCmp_ranP hissues hx hgd ult_eq_decide,
      State.aluCmp_ranP hissues hx hgd not_slt_eq_decide, State.aluCmp_ranP hissues hx hgd not_ult_eq_decide]
  · intro p hp t th a s hissues hgd
    simp only [List.mem_cons, List.not_mem_nil, or_false] at hp
    rcases hp with rfl | rfl | rfl | rfl
    · exact State.aluCmpImm_ranP hissues hgd (by rw [eq_iff_toInt, toInt_immW])
    · exact State.aluCmpImm_ranP hissues hgd (by simp only [← toInt_immW a, ne_eq, BitVec.toInt_inj])
    · exact State.aluCmpImm_ranP hissues hgd (by rw [slt_eq_decide, toInt_immW])
    · exact State.aluCmpImm_ranP hissues hgd rfl
  · intro p hp t th a s hissues hx hgd hga hgb
    simp only [List.mem_cons, List.not_mem_nil, or_false] at hp
    rcases hp with rfl | rfl | rfl
    all_goals exact State.aluPred_ranP hissues hx hgd hga hgb
  · intro t th a s hissues hx hgd hga hgb
    exact State.scalar_toP hissues (by simp [Act.ifLegal, hx, hga, hgb]) hgd
  · intro t th a s hissues pc dst ret
    refine ⟨fun hp hn => ?_, ?_, fun hp hn => ?_, fun hp hn hoff haligned => ⟨?_, ?_⟩⟩
    · exact State.scalar_jump hissues (by simp [Act.ifLegal, hp, hn, State.brTarget_fetched, dst, pc])
    · by_cases htaken : xor ((s.thr t (thrIx th)).getP a.p.toNat) a.n = true
      · rw [if_pos htaken]
        exact State.scalar_jump hissues (by simp only [State.thr_fetched, htaken, if_true, State.brTarget_fetched, dst, pc])
      · rw [if_neg htaken]
        exact State.scalar_stays hissues (by simp only [State.thr_fetched, htaken, Bool.false_eq_true, if_false])
    · exact State.scalar_link hissues (by simp [Act.ifLegal, hp, hn, State.brTarget_fetched, dst, pc])
    · exact State.scalar_jump hissues (State.brReg_fetched hp hn hoff haligned false)
    · exact State.scalar_link hissues (State.brReg_fetched hp hn hoff haligned true)

/-! ### Fields that must be zero -/

/-- A predicate destination beyond p7 is ILLEGAL_INSN, whatever the fields before it say. -/
theorem Act.ifLegal_toP {s : State} {t : Fin 8} {th : Thr} {gd : BitVec 6} {b legal : Bool} :
    Act.ifLegal legal (s.toP t th gd b) = Act.ifLegal (legal && decide (gd.toNat < 8)) (.next (s.setP t (thrIx th) gd.toNat b)) := by
  cases legal <;> rfl

/-- Settles O3: each of these forms tests its fields before its effect. -/
theorem illegalFieldsTrap : Obligations.IllegalFieldsTrap := by
  refine ⟨?_, ?_, ?_, ?_, ?_, ?_⟩
  · intro c hc t th a s hissues hx
    have hlegal : decide (a.x = 0) = false := decide_eq_false hx
    simp only [List.mem_cons, List.not_mem_nil, or_false] at hc
    rcases hc with rfl | rfl | rfl | rfl | rfl | rfl | rfl | rfl | rfl | rfl | rfl | rfl | rfl | rfl | rfl | rfl
    all_goals exact State.scalar_illegal hissues rfl hlegal rfl
  · intro c hc t th a s hissues hfields
    have hillegal (more : Bool) : (decide (a.x = 0) && more && decide (a.gd.toNat < 8)) = false := by
      rcases hfields with hx | hgd
      · rw [decide_eq_false hx]
        rfl
      · rw [decide_eq_false (Nat.not_lt.mpr hgd), Bool.and_false]
    have hcmp : (decide (a.x = 0) && decide (a.gd.toNat < 8)) = false := by simpa only [Bool.and_true] using hillegal true
    have hpred (p q : Bool) : (decide (a.x = 0) && p && q && decide (a.gd.toNat < 8)) = false := by
      rw [Bool.and_assoc (decide (a.x = 0)) p q]
      exact hillegal (p && q)
    simp only [List.mem_cons, List.not_mem_nil, or_false] at hc
    rcases hc with rfl | rfl | rfl | rfl | rfl | rfl | rfl | rfl | rfl | rfl
    exacts [State.scalar_illegal hissues Act.ifLegal_toP hcmp rfl, State.scalar_illegal hissues Act.ifLegal_toP hcmp rfl,
      State.scalar_illegal hissues Act.ifLegal_toP hcmp rfl, State.scalar_illegal hissues Act.ifLegal_toP hcmp rfl,
      State.scalar_illegal hissues Act.ifLegal_toP hcmp rfl, State.scalar_illegal hissues Act.ifLegal_toP hcmp rfl,
      State.scalar_illegal hissues Act.ifLegal_toP (hpred _ _) rfl, State.scalar_illegal hissues Act.ifLegal_toP (hpred _ _) rfl,
      State.scalar_illegal hissues Act.ifLegal_toP (hpred _ _) rfl, State.scalar_illegal hissues Act.ifLegal_toP (hpred _ _) rfl]
  · intro c hc t th a s hissues hfields
    have hlegal : (decide (a.x = 0) && decide (a.gb = 0)) = false := by
      rcases hfields with hx | hgb
      · rw [decide_eq_false hx]
        rfl
      · rw [decide_eq_false hgb, Bool.and_false]
    simp only [List.mem_cons, List.not_mem_nil, or_false] at hc
    rcases hc with rfl | rfl
    all_goals exact State.scalar_illegal hissues rfl hlegal rfl
  · intro c hc t th a s hissues himm
    have hlegal : decide (a.imm.toNat < 64) = false := decide_eq_false (Nat.not_lt.mpr himm)
    simp only [List.mem_cons, List.not_mem_nil, or_false] at hc
    rcases hc with rfl | rfl | rfl
    all_goals exact State.scalar_illegal hissues rfl hlegal rfl
  · intro c hc t th a s hissues hfields
    have hlegal (more : Bool) : (decide (th = .main) && decide (a.gd.toNat < 32) && more) = false := by
      rcases hfields with h | h <;> simp [h]
    simp only [List.mem_cons, List.not_mem_nil, or_false] at hc
    rcases hc with rfl | rfl | rfl
    all_goals exact State.scalar_illegal hissues rfl (hlegal _) rfl
  · intro t th a s hissues hfields
    refine State.scalar_illegal hissues rfl ?_ rfl
    rcases hfields with h | h <;> simp [h]

end Sys2Proof.Machine
end

section
/-! SUPPORT. Proofs about descriptor registers and CSRs (Tables 7-10 and 7-15, R182): what an instruction reads once it is fetched, and what it writes. -/
namespace Sys2Proof.Machine

/-! ### What a fetch leaves -/

section Fetched
variable {s : State} {t : Fin 8} {th : Thr} {w : Nat}

/-- A fetch changes of a tile its translations, its wake requests and its instruction cache. -/
theorem State.tile_fetched_eq (v : Fin 8) : (s.fetched t th w).tile v =
    { s.tile v with
      tlb := ((s.fetched t th w).tile v).tlb, wcache := ((s.fetched t th w).tile v).wcache, tpc := ((s.fetched t th w).tile v).tpc
      icache := ((s.fetched t th w).tile v).icache } := by
  obtain ⟨_, htiles, _⟩ := s.sought_reach t th
  by_cases hv : v = t
  · subst hv
    rw [State.tile_fetched, htiles v]
  · rw [State.tile_fetched_ne hv, htiles v]

@[simp] theorem State.dregs_fetched (v : Fin 8) : ((s.fetched t th w).tile v).dregs = (s.tile v).dregs := by rw [State.tile_fetched_eq]

@[simp] theorem State.getD_fetched (v : Fin 8) (i : Nat) : ((s.fetched t th w).tile v).getD i = (s.tile v).getD i := by
  rw [Tile.getD, State.dregs_fetched, Tile.getD]

@[simp] theorem State.ls_fetched (v : Fin 8) : ((s.fetched t th w).tile v).ls = (s.tile v).ls := by rw [State.tile_fetched_eq]

@[simp] theorem State.csr_fetched (v : Fin 8) : ((s.fetched t th w).tile v).csr = (s.tile v).csr := by rw [State.tile_fetched_eq]

@[simp] theorem State.ops_fetched (v : Fin 8) : ((s.fetched t th w).tile v).ops = (s.tile v).ops := by rw [State.tile_fetched_eq]

@[simp] theorem State.sigDone_fetched (v : Fin 8) : ((s.fetched t th w).tile v).sigDone = (s.tile v).sigDone := by rw [State.tile_fetched_eq]

@[simp] theorem State.cycles_fetched (v : Fin 8) : ((s.fetched t th w).tile v).cycles = (s.tile v).cycles := by rw [State.tile_fetched_eq]

@[simp] theorem State.tileThr_fetched (v : Fin 8) (h : Fin 4) : ((s.fetched t th w).tile v).thr h = (s.tile v).thr h :=
  State.thr_fetched v h

theorem State.ns_fetched : (s.fetched t th w).ns = s.ns := by
  rw [State.fetched_rest, (s.sought_reach t th).1]

theorem State.frac_fetched : (s.fetched t th w).frac = s.frac := by
  rw [State.fetched_rest, (s.sought_reach t th).1]

/-- A fetch keeps every register but those that show or count what it reached, and the count of issues. -/
theorem State.rd_fetched_eq (f : Fld) (i x : Nat)
    (h : f.blk.num ≠ Blk.tmu.num ∧ f.blk.num ≠ Blk.tpc.num ∧ f.blk.num ≠ Blk.hmc.num ∧ f.blk.num ≠ Blk.pcm.num) (hl : f.lo < 64)
    (hcount : f.blk.num ≠ Blk.tcc.num ∨ (f.off + f.stride * x) % 1048576 ≠ 128) : (s.fetched t th w).rd f i x = s.rd f i x := by
  have hkey : f.key i x ≠ F.TCC_CNT_ISSUE_S_COUNT.key t.val 0 := by
    refine Fld.key_ne ?_ hl (by decide)
    rcases hcount with hblk | hoff
    · exact .inl hblk
    · exact .inr (.inr (.inl hoff))
  rw [State.fetched, State.rd_count_ne _ _ hkey]
  exact State.reachOnly_rd (s.sought_reach t th) f i x h hl

theorem State.rank_fetched : (s.fetched t th w).rank = s.rank :=
  State.rd_fetched_eq F.FEN_STATUS_RANK 0 0 (by decide) (by decide) (.inl (by decide))

theorem State.partOn_fetched_eq (f : Nat) : (s.fetched t th w).partOn f = s.partOn f := by
  rw [State.partOn, State.flag, State.rd_fetched_eq F.HIU_PART_CFG_EN _ _ (by decide) (by decide) (.inl (by decide))]
  rfl

theorem State.ownerOf_fetched_eq (u : Nat) : (s.fetched t th w).ownerOf u = s.ownerOf u := by
  unfold State.ownerOf State.vfHasTile
  simp only [State.partOn_fetched_eq, State.rd_fetched_eq F.HIU_PART_CFG_TILES _ _ (by decide) (by decide) (.inl (by decide))]

/-- A CSR reads the same once its instruction is fetched. -/
theorem State.csrVal_fetched (h : Fin 4) (n : Nat) : (s.fetched t th w).csrVal t h n = s.csrVal t h n := by
  have hvec : (s.fetched t th w).rd F.TCC_SVC_VEC_VEC t.val = s.rd F.TCC_SVC_VEC_VEC t.val :=
    State.rd_fetched_eq F.TCC_SVC_VEC_VEC _ 0 (by decide) (by decide) (.inr (by decide))
  simp only [State.csrVal, Tile.tagsFree, Tile.signalled, Tile.armed, State.rank_fetched, State.ownerOf_fetched_eq, State.ns_fetched, hvec,
    State.tileThr_fetched, State.cycles_fetched, State.csr_fetched, State.ops_fetched, State.sigDone_fetched]

end Fetched

/-! ### Descriptor registers -/

/-- Replacing bits of a number: those of the field read the new value, the others the old. -/
theorem testBit_replace (n v lo w j : Nat) : (n - bits n lo w * 2 ^ lo + v % 2 ^ w * 2 ^ lo).testBit j =
    if lo ≤ j ∧ j < lo + w then v.testBit (j - lo) else n.testBit j := by
  have hn : n = 2 ^ lo * (2 ^ w * (n / 2 ^ lo / 2 ^ w) + n / 2 ^ lo % 2 ^ w) + n % 2 ^ lo := by
    rw [Nat.div_add_mod, Nat.div_add_mod]
  have hparts : n - bits n lo w * 2 ^ lo + v % 2 ^ w * 2 ^ lo = 2 ^ lo * (2 ^ w * (n / 2 ^ lo / 2 ^ w) + v % 2 ^ w) + n % 2 ^ lo := by
    rw [bits_eq, Nat.mul_add, Nat.mul_comm (v % 2 ^ w)]
    conv_lhs => enter [1, 1]; rw [hn, Nat.mul_add, Nat.mul_comm (2 ^ lo) (n / 2 ^ lo % 2 ^ w)]
    omega
  rw [hparts, Nat.testBit_two_pow_mul_add _ (Nat.mod_lt _ (Nat.two_pow_pos lo))]
  by_cases hlow : j < lo
  · rw [if_pos hlow, if_neg (by omega), Nat.testBit_mod_two_pow, decide_eq_true hlow, Bool.true_and]
  rw [if_neg hlow, Nat.testBit_two_pow_mul_add _ (Nat.mod_lt _ (Nat.two_pow_pos w))]
  by_cases hin : j - lo < w
  · rw [if_pos hin, if_pos (by omega), Nat.testBit_mod_two_pow, decide_eq_true hin, Bool.true_and]
  · rw [if_neg hin, if_neg (by omega), Nat.testBit_div_two_pow, Nat.testBit_div_two_pow]
    congr 1
    omega

/-- A replaced field of a descriptor register. -/
theorem getLsbD_dPut (d : DReg) (lo w v j : Nat) (hj : j < 256) :
    (dPut d lo w v).getLsbD j = if lo ≤ j ∧ j < lo + w then v.testBit (j - lo) else d.getLsbD j := by
  rw [dPut, BitVec.getLsbD_ofNat, decide_eq_true hj, Bool.true_and, testBit_replace]
  rfl

theorem dWord_eq_extract (d : DReg) (k : Nat) : dWord d k = d.extractLsb' (64 * k) 64 := by
  apply BitVec.eq_of_toNat_eq
  simp [dWord, bits]

/-- DSETW replaces word x. -/
theorem getLsbD_dPut_word (d : DReg) (x : Nat) (v : Word) (j : Nat) (hj : j < 256) :
    (dPut d (64 * x) 64 v.toNat).getLsbD j = if j / 64 = x then v.getLsbD (j % 64) else d.getLsbD j := by
  rw [getLsbD_dPut d _ _ _ j hj]
  by_cases hword : j / 64 = x
  · rw [if_pos hword, if_pos (by omega), show j - 64 * x = j % 64 by omega]
    rfl
  · rw [if_neg hword, if_neg (by omega)]

section Replaced
variable (d : DReg) (v : Nat)

/-- DADDB changes BASE alone. -/
theorem toNat_dPut_base : (dPut d 0 48 (bits d.toNat 0 48 + v)).toNat % 2 ^ 48 = (d.toNat + v) % 2 ^ 48 ∧
    (dPut d 0 48 (bits d.toNat 0 48 + v)).toNat / 2 ^ 48 = d.toNat / 2 ^ 48 := by
  have := d.isLt
  rw [dPut, BitVec.toNat_ofNat, bits_eq]
  omega

/-- DADDS changes SBASE alone. -/
theorem toNat_dPut_sbase : (dPut d 48 48 (bits d.toNat 48 48 + v)).toNat % 2 ^ 48 = d.toNat % 2 ^ 48 ∧
    (dPut d 48 48 (bits d.toNat 48 48 + v)).toNat / 2 ^ 48 % 2 ^ 48 = (d.toNat / 2 ^ 48 + v) % 2 ^ 48 ∧
    (dPut d 48 48 (bits d.toNat 48 48 + v)).toNat / 2 ^ 96 = d.toNat / 2 ^ 96 := by
  have := d.isLt
  rw [dPut, BitVec.toNat_ofNat, bits_eq]
  omega

end Replaced

section Writes
variable {s : State} {t : Fin 8} {w : Nat}

/-- A tile's change reads what the tile was. -/
theorem State.onTile_congr {f g : Tile → Tile} (h : f (s.tile t) = g (s.tile t)) : s.onTile t f = s.onTile t g := by
  rw [State.onTile, State.onTile, h]

/-- An instruction that writes a descriptor register runs. -/
theorem State.scalar_setD (hissues : s.issues t .main) {body : State → Act} {i : Nat} {f : DReg → DReg} {c : Instr}
    (hbody : body (s.fetched t .main w) = .next ((s.fetched t .main w).onTile t (fun y => y.setD i (f (y.getD i)))))
    (hc : exec c s = ok s (s.scalar t .main w body)) :
    s.retires t .main c (fun x => x.onTile t (fun y => y.setD i (f ((s.tile t).getD i)))) := by
  refine State.scalar_next hissues ?_ hc
  rw [hbody]
  exact congrArg Act.next (State.onTile_congr (by rw [State.getD_fetched]))

end Writes

/-! ### CSRs -/

section Csrs
variable {s : State} {t : Fin 8} {th : Thr} {a : IArgs} (hissues : s.issues t th)
include hissues

/-- A CSR instruction that names no CSR is ILLEGAL_INSN. -/
theorem State.csrOp_unlisted {fn : Nat} {useD useA : Bool} {new : Nat → Nat → Option Nat} (hnone : s.csrVal t (thrIx th) a.imm.toNat = none) {c : Instr}
    (hc : exec c s = ok s (s.csrOp t th fn a useD useA new)) : s.trapsWith t th c cIllegalInsn 0 := by
  refine State.scalar_trap hissues ?_ (by decide) hc
  dsimp only
  rw [State.csrVal_fetched, hnone]

/-- Only SVC writes a CSR (R182). -/
theorem State.csrOp_not_svc {fn : Nat} {useD : Bool} {new : Nat → Nat → Option Nat} (hth : th ≠ .svc) {c : Instr}
    (hc : exec c s = ok s (s.csrOp t th fn a useD true new)) : s.trapsWith t th c cIllegalInsn 0 := by
  refine State.scalar_trap hissues ?_ (by decide) hc
  cases hval : (s.fetched t th (iWord clsCsr fn a)).csrVal t (thrIx th) a.imm.toNat with
  | none => dsimp only; rw [hval]
  | some old => dsimp only; rw [hval]; simp [Act.ifLegal, hth]

/-- A read of a CSR other than TIME_NS. -/
theorem State.csrRd_ranG {v : Nat} (hga : a.ga = 0) (hval : s.csrVal t (thrIx th) a.imm.toNat = some v) (htime : a.imm.toNat ≠ 0x010) :
    ∃ u, exec (.csrRd t th a) s = .next u ∧ s.ranG u t th a.gd.toNat (BitVec.ofNat 64 v) := by
  refine State.scalar_toG hissues ?_
  dsimp only
  rw [State.csrVal_fetched, hval]
  simp [Act.ifLegal, hga, State.csrRead, htime, State.toG]

end Csrs

/-- A CSR instruction of SVC that only writes. -/
theorem State.csrOp_writes {s : State} {t : Fin 8} {a : IArgs} {fn old n : Nat} {new : Nat → Nat → Option Nat} (hissues : s.issues t .svc)
    (hgd : a.gd = 0) (hval : s.csrVal t 3 a.imm.toNat = some old) (hnew : new old (s.g t 3 a.ga.toNat).toNat = some n) {c : Instr}
    (hc : exec c s = ok s (s.csrOp t .svc fn a false true new)) : s.retires t .svc c (fun u => u.csrPut t a.imm.toNat n) := by
  refine State.scalar_next hissues ?_ hc
  have hval' : (s.fetched t .svc (iWord clsCsr fn a)).csrVal t (thrIx .svc) a.imm.toNat = some old := (State.csrVal_fetched 3 _).trans hval
  have hnew' : new old ((s.fetched t .svc (iWord clsCsr fn a)).ga t .svc a.ga).toNat = some n := by rw [State.ga_fetched]; exact hnew
  simp only [hval', hnew']
  simp [Act.ifLegal, hgd]

/-- Settles O4: each form's effect is on its register alone, computed from what the register held before the fetch. -/
theorem registerTransferResult : Obligations.RegisterTransferResult := by
  refine ⟨?_, ?_⟩
  · intro t a s hissues hgb old v
    refine ⟨fun hx hgd => ?_, fun hx hga => ?_, fun hx hgd => ?_, fun hx hgd => ?_⟩
    · refine ⟨dPut old (64 * a.x.toNat) 64 v.toNat, ?_, fun j hj => getLsbD_dPut_word old a.x.toNat v j hj⟩
      exact State.scalar_setD (f := fun d => dPut d (64 * a.x.toNat) 64 v.toNat) hissues
        (by simp [Act.onD, Act.ifLegal, hgb, hx, hgd, State.ga, v, thrIx]) rfl
    · rw [← dWord_eq_extract]
      exact State.scalar_toG hissues (by simp [Act.onD, Act.ifLegal, hgb, hx, hga])
    · refine ⟨_, ?_, toNat_dPut_base old v.toNat⟩
      exact State.scalar_setD (f := fun d => dPut d 0 48 (bits d.toNat 0 48 + v.toNat)) hissues
        (by simp [Act.onD, Act.ifLegal, hgb, hx, hgd, State.ga, v, thrIx]) rfl
    · refine ⟨_, ?_, toNat_dPut_sbase old v.toNat⟩
      exact State.scalar_setD (f := fun d => dPut d 48 48 (bits d.toNat 48 48 + v.toNat)) hissues
        (by simp [Act.onD, Act.ifLegal, hgb, hx, hgd, State.ga, v, thrIx]) rfl
  · intro t th a s hissues v x
    refine ⟨fun hnone c hc => ?_, fun hth c hc => ?_, fun hga p hp himm => ?_, fun hga himm => ?_, fun hth hgd p hp himm old hold => ?_,
      fun hth himm => ?_, fun hth hgd himm => ?_, fun hth hgd himm => ?_, fun hruns => ?_, fun hstopped => ?_⟩
    · simp only [List.mem_cons, List.not_mem_nil, or_false] at hc
      rcases hc with rfl | rfl | rfl | rfl | rfl
      all_goals exact State.csrOp_unlisted hissues hnone rfl
    · simp only [List.mem_cons, List.not_mem_nil, or_false] at hc
      rcases hc with rfl | rfl | rfl | rfl
      all_goals exact State.csrOp_not_svc hissues hth rfl
    · have hread : s.csrVal t (thrIx th) a.imm.toNat = some p.2 ∧ a.imm.toNat ≠ 0x010 := by
        rw [himm]
        simp only [List.mem_cons, List.not_mem_nil, or_false] at hp
        rcases hp with rfl | rfl | rfl | rfl | rfl | rfl | rfl | rfl | rfl | rfl | rfl | rfl | rfl | rfl
        all_goals exact ⟨rfl, by simp⟩
      exact State.csrRd_ranG hissues hga hread.1 hread.2
    · refine State.scalar_next hissues ?_ rfl
      dsimp only
      rw [State.csrVal_fetched, himm]
      have hns : BitVec.ofNat 64 (s.ns % 2 ^ 64) = BitVec.ofNat 64 s.ns := BitVec.eq_of_toNat_eq (by simp)
      simp [State.csrVal, State.csrRead, Act.ifLegal, hga, State.frac_fetched, ← hns]
    · subst hth
      have hput : ∀ (u : State) n, u.csrPut t a.imm.toNat n = u.onTile t (fun y => { y with csr := p.2 n y.csr }) := by
        intro u n
        rw [himm]
        simp only [List.mem_cons, List.not_mem_nil, or_false] at hp
        rcases hp with rfl | rfl | rfl | rfl
        all_goals rfl
      have hval : s.csrVal t 3 a.imm.toNat = some old := himm ▸ hold
      refine ⟨?_, ?_, ?_⟩
      all_goals
        rw [← funext fun u => hput u _]
        exact State.csrOp_writes hissues hgd hval rfl rfl
    · subst hth
      refine State.scalar_next hissues ?_ rfl
      dsimp only
      rw [State.csrVal_fetched, himm]
      simp [State.csrVal, State.csrRead, State.csrPut, State.onCsr, Act.ifLegal, State.ga, v, x, thrIx]
    · subst hth
      have h := State.csrOp_writes (c := .csrWr t .svc a) (old := x.csr.cause) hissues hgd (by rw [himm]; rfl) rfl rfl
      rwa [himm] at h
    · subst hth
      have h := State.csrOp_writes (c := .csrWr t .svc a) (old := 0) hissues hgd (by rw [himm]; rfl) rfl rfl
      rwa [himm] at h
    · exact congrArg (ok s) (if_pos hruns)
    · exact congrArg (ok s) (if_neg (by rw [hstopped]; decide))

end Sys2Proof.Machine
end

section
/-! SUPPORT. What the address map, assignment and memory read of the state, and that fetching and reaching memory leave all of it. -/
namespace Sys2Proof.Machine

/-- b differs from a in its tiles and in registers of the TMU, the TPC, the HMC, the PCM and the TCC alone, so that the address map, assignment
and memory are the same. -/
structure State.Near (a b : State) : Prop where
  rest : b = { a with regs := b.regs, tiles := b.tiles }
  rd : ∀ (f : Fld) (i x : Nat), f.lo < 64 → (∀ k ∈ [Blk.tmu, .tpc, .hmc, .pcm, .tcc], f.blk.num ≠ k.num) → b.rd f i x = a.rd f i x

namespace State.Near
variable {a b c : State}

theorem refl (a : State) : a.Near a := ⟨rfl, fun _ _ _ _ _ => rfl⟩

theorem trans (h : a.Near b) (g : b.Near c) : a.Near c := by
  refine ⟨?_, fun f i x hl hb => (g.rd f i x hl hb).trans (h.rd f i x hl hb)⟩
  rw [g.rest, h.rest]

theorem of_reachOnly (h : a.reachOnly b) : a.Near b := by
  refine ⟨h.1, fun f i x hl hb => State.reachOnly_rd h f i x ⟨?_, ?_, ?_, ?_⟩ hl⟩
  all_goals exact hb _ (by simp)

theorem fetched (s : State) (t : Fin 8) (th : Thr) (w : Nat) : s.Near (s.fetched t th w) := by
  refine ⟨?_, fun f i x hl hb => State.rd_fetched_eq f i x ⟨?_, ?_, ?_, ?_⟩ hl (.inl ?_)⟩
  · rw [State.fetched_rest, (s.sought_reach t th).1]
  all_goals exact hb _ (by simp)

theorem onTile (s : State) (t : Fin 8) (f : Tile → Tile) : s.Near (s.onTile t f) := ⟨rfl, fun _ _ _ _ _ => rfl⟩

theorem wr (s : State) (f : Fld) (i v x : Nat) (hl : f.lo < 64) (hb : f.blk.num ∈ [Blk.tmu, .tpc, .hmc, .pcm, .tcc].map Blk.num) :
    s.Near (s.wr f i v x) := by
  refine ⟨rfl, fun g j y hgl hgb => State.rd_wr_ne _ _ (Fld.key_ne (.inl ?_) hgl hl)⟩
  simp only [List.map_cons, List.map_nil, List.mem_cons, List.not_mem_nil, or_false] at hb
  rcases hb with hb | hb | hb | hb | hb
  all_goals
    rw [hb]
    exact hgb _ (by simp)

theorem count (s : State) (f : Fld) (i n x : Nat) (hl : f.lo < 64) (hb : f.blk.num ∈ [Blk.tmu, .tpc, .hmc, .pcm, .tcc].map Blk.num) :
    s.Near (s.count f i n x) := wr s f i _ x hl hb

theorem gaveBytes (s : State) (pa n : Nat) : s.Near (s.gaveBytes pa n) := by
  unfold State.gaveBytes
  split
  · exact count s _ _ _ _ (by decide) (by decide)
  · exact refl s

theorem tookBytes (s : State) (pa n : Nat) : s.Near (s.tookBytes pa n) := of_reachOnly (State.reachOnly_tookBytes pa n s)

section
variable (h : a.Near b)
include h

theorem mem : b.mem = a.mem := by rw [h.rest]
theorem poison : b.poison = a.poison := by rw [h.rest]
theorem ck : b.ck = a.ck := by rw [h.rest]
theorem fn (f : Nat) : b.fn f = a.fn f := by rw [h.rest]; rfl
theorem hostByte (k : Nat) : b.hostByte k = a.hostByte k := by rw [h.rest]; rfl
theorem owes (p : Who → Bool) : b.owes p = a.owes p := by rw [h.rest]; rfl

theorem rank : b.rank = a.rank := h.rd F.FEN_STATUS_RANK 0 0 (by decide) (by decide)

theorem localise (pa : Nat) : b.localise pa = a.localise pa := by
  simp only [State.localise, h.rank]

theorem rankReachable (d : Nat) : b.rankReachable d = a.rankReachable d := by
  simp only [State.rankReachable, State.flag, h.rd F.FEN_STATUS_STATE _ _ (by decide) (by decide),
    h.rd F.FEN_MEMBERS_MASK _ _ (by decide) (by decide), h.rd F.FLT_FENFAIL_RANKS _ _ (by decide) (by decide),
    h.rd F.FEN_ROUTE_VALID _ _ (by decide) (by decide)]

theorem region (pa : Nat) : b.region pa = a.region pa := by
  simp only [State.region, h.rank, h.rankReachable]

theorem partOn (f : Nat) : b.partOn f = a.partOn f := by
  simp only [State.partOn, State.flag, h.rd F.HIU_PART_CFG_EN _ _ (by decide) (by decide)]

theorem ownerOf (t : Nat) : b.ownerOf t = a.ownerOf t := by
  simp only [State.ownerOf, State.vfHasTile, h.partOn, h.rd F.HIU_PART_CFG_TILES _ _ (by decide) (by decide)]

theorem hwin (f off : Nat) : b.hwin f off = a.hwin f off := by
  simp only [State.hwin, State.flag, h.rd F.HIU_HWIN_CFG_EN _ _ (by decide) (by decide), h.rd F.HIU_HWIN_CFG_OFF _ _ (by decide) (by decide),
    h.rd F.HIU_HWIN_CFG_PAGES _ _ (by decide) (by decide)]

theorem hwinAddr (f n off : Nat) : b.hwinAddr f n off = a.hwinAddr f n off := by
  simp only [State.hwinAddr, h.rd F.HIU_HWIN_HOST_HADDR _ _ (by decide) (by decide), h.rd F.HIU_HWIN_CFG_OFF _ _ (by decide) (by decide)]

theorem hostAddr (f n off : Nat) : b.hostAddr f n off = a.hostAddr f n off := by
  simp only [State.hostAddr, h.hwinAddr, h.fn]

theorem byteAt (f pa : Nat) : b.byteAt f pa = a.byteAt f pa := by
  simp only [State.byteAt, h.region, h.hwin, h.hostAddr, h.hostByte, h.mem, h.localise]

theorem readNat (f pa n : Nat) : b.readNat f pa n = a.readNat f pa n := by
  simp only [State.readNat, State.readBytes, h.byteAt]

theorem poisonIn (pa n : Nat) : b.poisonIn pa n = a.poisonIn pa n := by
  simp only [State.poisonIn, State.isPoison, h.poison, h.localise]

theorem atsNeeds (f pa : Nat) : b.atsNeeds f pa = a.atsNeeds f pa := by
  simp only [State.atsNeeds, State.hostPage, h.region, h.fn, h.hwin, h.hwinAddr]

theorem ownHeld (t : Fin 8) (th : Thr) (pa n : Nat) : b.ownHeld t th pa n = a.ownHeld t th pa n := by
  simp only [State.ownHeld, h.ck, h.localise]

theorem gate (pa : Nat) : b.gate pa = a.gate pa := by
  simp only [State.gate, State.blockGate, h.ck, h.localise]

end
end State.Near

/-! ### Reaching memory for an instruction that has been fetched -/

/-- b is a after the fetch of an instruction of tile t's: it differs in the count of issues and the instruction cache. -/
structure State.FetchOf (a b : State) (t : Fin 8) : Prop where
  rest : b = { a with regs := b.regs, tiles := b.tiles }
  regs : ∀ k, k ≠ F.TCC_CNT_ISSUE_S_COUNT.key t.val 0 → b.regs.find? k = a.regs.find? k
  others : ∀ v, v ≠ t → b.tile v = a.tile v
  own : b.tile t = { a.tile t with icache := (b.tile t).icache }

namespace State.FetchOf
variable {a b : State} {t : Fin 8}

theorem of_fetched (s : State) (t : Fin 8) (th : Thr) (w : Nat) : (s.sought t th).FetchOf (s.fetched t th w) t :=
  ⟨State.fetched_rest, fun _ => State.find_fetched, fun _ => State.tile_fetched_ne, State.tile_fetched⟩

/-- The same test in both states. -/
theorem branch {p : Prop} [Decidable p] {x y : State} (hthen : a.FetchOf b t) (helse : x.FetchOf y t) :
    (if p then a else x).FetchOf (if p then b else y) t := by
  by_cases hp : p
  · rwa [if_pos hp, if_pos hp]
  · rwa [if_neg hp, if_neg hp]

section
variable (h : a.FetchOf b t)
include h

theorem rd (f : Fld) (i x : Nat) (hf : f.blk.num ≠ Blk.tcc.num) (hl : f.lo < 64) : b.rd f i x = a.rd f i x := by
  rw [State.rd, SMap.getD, h.regs _ (Fld.key_ne (.inl hf) hl (by decide))]
  rfl

theorem near : a.Near b := ⟨h.rest, fun f i x hl hb => h.rd f i x (hb .tcc (by simp)) hl⟩

theorem wr (f : Fld) (i v x : Nat) : (a.wr f i v x).FetchOf (b.wr f i v x) t := by
  refine ⟨?_, fun k hk => ?_, h.others, h.own⟩
  · rw [State.wr, State.wr, h.rest]
  · by_cases hkey : k = f.key i x
    · subst hkey
      simp only [State.wr, SMap.set]
      split
      · rw [SMap.find_erase_same, SMap.find_erase_same]
      · rw [SMap.find_put_same, SMap.find_put_same]
    · rw [State.find_wr_ne _ _ _ _ hkey, State.find_wr_ne _ _ _ _ hkey, h.regs k hk]

theorem count (f : Fld) (i n x : Nat) (hf : f.blk.num ≠ Blk.tcc.num) (hl : f.lo < 64) : (a.count f i n x).FetchOf (b.count f i n x) t := by
  rw [State.count, State.count, h.rd f i x hf hl]
  exact h.wr _ _ _ _

/-- A change of a tile's wake requests. -/
theorem onTpc (v : Fin 8) (f : Tpc → Tpc) :
    (a.onTile v (fun x => { x with tpc := f x.tpc })).FetchOf (b.onTile v (fun x => { x with tpc := f x.tpc })) t := by
  refine ⟨?_, h.regs, fun u hu => ?_, ?_⟩
  · rw [State.onTile, State.setTile, State.onTile, State.setTile, h.rest]
  · by_cases huv : u = v
    · subst huv; simp only [State.tile_onTile, h.others u hu]
    · rw [State.tile_onTile_ne _ _ huv, State.tile_onTile_ne _ _ huv, h.others u hu]
  · by_cases htv : t = v
    · subst htv; simp only [State.tile_onTile]; rw [h.own]
    · rw [State.tile_onTile_ne _ _ htv, State.tile_onTile_ne _ _ htv]; exact h.own

theorem wakeTile (v : Fin 8) (full : Bool) : (a.wakeTile v full).FetchOf (b.wakeTile v full) t := by
  have hstate := h.rd F.TPC_STATUS_STATE v.val 0 (by decide) (by decide)
  have hentering : b.flag F.TPC_STATUS_ENTERING v.val = a.flag F.TPC_STATUS_ENTERING v.val := by
    rw [State.flag, h.rd F.TPC_STATUS_ENTERING _ _ (by decide) (by decide), State.flag]
  have hmem : b.flag F.TPC_STATUS_MEMWAKE v.val = a.flag F.TPC_STATUS_MEMWAKE v.val := by
    rw [State.flag, h.rd F.TPC_STATUS_MEMWAKE _ _ (by decide) (by decide), State.flag]
  have hasked := h.onTpc v (fun y => { y with full := y.full || full, mem := y.mem || !full })
  rw [State.wakeTile, State.wakeTile, hstate, hentering, hmem]
  exact branch h (branch hasked (hasked.wr _ _ _ _))

theorem ungate (i : Nat) : (a.ungate i).FetchOf (b.ungate i) t := by
  simp only [State.ungate, h.rd F.PCM_STATUS_FABGATED _ _ (by decide) (by decide)]
  exact (h.wr _ _ _ _).wr _ _ _ _

theorem awake (w : WakeT) : b.awake w = a.awake w := by
  cases w
  all_goals
    simp only [State.awake, State.flag, h.rd F.TPC_STATUS_STATE _ _ (by decide) (by decide), h.rd F.TPC_STATUS_MEMWAKE _ _ (by decide) (by decide),
      h.rd F.HMC_STATUS_STATE _ _ (by decide) (by decide), h.rd F.PCM_STATUS_FABGATED _ _ (by decide) (by decide)]

theorem raiseWake (w : WakeT) : (a.raiseWake w).FetchOf (b.raiseWake w) t := by
  unfold State.raiseWake
  rw [h.awake]
  refine branch h ?_
  cases w with
  | mem u => exact h.wakeTile _ _
  | stack k => exact (h.wr _ _ _ _).ungate 4
  | fab i => exact h.ungate i

end

theorem wakeFor (h : a.FetchOf b t) (v : Option (Fin 8)) (pa : Nat) : (a.wakeFor v pa).FetchOf (b.wakeFor v pa) t := by
  have hcross : b.crosses v pa = a.crosses v pa := by simp only [State.crosses, h.near.region]
  rw [State.wakeFor, State.wakeFor, hcross]
  generalize a.crosses v pa = l
  induction l generalizing a b with
  | nil => exact h
  | cons w l ih => exact ih (h.raiseWake w) (by simp only [State.crosses, (h.raiseWake w).near.region])

theorem tookBytes (h : a.FetchOf b t) (pa n : Nat) : (a.tookBytes pa n).FetchOf (b.tookBytes pa n) t := by
  rw [State.tookBytes, State.tookBytes, h.near.region]
  split
  · exact h.count _ _ _ _ (by decide) (by decide)
  · exact h

end State.FetchOf

end Sys2Proof.Machine
end

section
/-! SUPPORT. Proofs about scalar loads and stores (Table 7-11): the access translates once the instruction is fetched as it did before, and what it reads and writes. -/
namespace Sys2Proof.Machine

section Ends
variable {s r x : State} {t : Fin 8} {th : Thr} {w : Nat}

/-- An instruction whose accesses left r, and which then wrote one general register, ran. -/
theorem State.scalar_toG_at {body : State → Act} (hissues : s.issues t th) (hreach : (s.sought t th).reachOnly r) (hfetch : r.FetchOf x t)
    {gd : BitVec 6} {v : Word} (hbody : body (s.fetched t th w) = x.toG t th gd v) :
    ∃ u, ok s (s.scalar t th w body) = .next u ∧ s.ranGAt r u t th gd.toNat v := by
  have hsr : s.reachOnly r := State.reachOnly_trans (s.sought_reach t th) hreach
  have hthr : ∀ h, x.thr t h = s.thr t h := fun h => by
    rw [State.thr, hfetch.own, ← State.reachOnly_thr hsr]
    rfl
  obtain ⟨u, hu⟩ : ∃ u : State, u = { (x.setG t (thrIx th) gd.toNat v).retireAt t (thrIx th) ((s.thr t (thrIx th)).pc + 4) with pending := s.pending } :=
    ⟨_, rfl⟩
  have hthread : u.thr t (thrIx th) = { (s.thr t (thrIx th)).setG gd.toNat v with
      st := .ready, wait := .none, pc := ((s.thr t (thrIx th)).pc + 4) % 2 ^ 48, instret := ((s.thr t (thrIx th)).setG gd.toNat v).instret + 1
      hsteps := if thrIx th = 1 then ((s.thr t (thrIx th)).setG gd.toNat v).hsteps + 1 else ((s.thr t (thrIx th)).setG gd.toNat v).hsteps } := by
    rw [hu, State.thr_queue, State.retireAt_eq, State.setG]
    simp only [State.thr_onThr, hthr]
  refine ⟨u, ?_, ⟨hsr, ?_, fun k hk => ?_, fun v hv => ?_, ?_, fun h hh => ?_⟩, ?_, fun j => ?_, fun j hj => ?_⟩
  · rw [State.scalar_issues hissues, hbody, State.toG, State.act, State.thr_fetched, hu]
    rfl
  · rw [hu, State.retireAt_eq, hfetch.rest, hsr.1]
    rfl
  · rw [hu]
    exact hfetch.regs k hk
  · rw [hu, State.tile_queue, State.retireAt_eq, State.tile_onThr_ne _ _ hv, State.setG, State.tile_onThr_ne _ _ hv, hfetch.others v hv]
  · rw [hu, State.tile_queue, State.retireAt_eq, State.setG]
    simp only [State.onThr, State.tile_onTile]
    exact Tile.onThr_twice_rest _ _ _ _ hfetch.own
  · rw [hu, State.thr_queue, State.retireAt_eq, State.thr_onThr_ne _ _ hh, State.setG, State.thr_onThr_ne _ _ hh, hthr]
  · rw [hthread]
    obtain ⟨hinstret, hsteps, hfrac, hprev⟩ := Thread.setG_rest (s.thr t (thrIx th)) gd.toNat v
    exact Thread.retired_of _ _ _ hinstret.symm hsteps.symm hfrac.symm hprev.symm
  · rw [hthread]
    exact Thread.getG_setG _ v _ j
  · rw [hthread]
    exact Thread.getP_setG _ _ j v

end Ends

/-! ### Where a scalar access goes -/

section Access
variable {s : State} {t : Fin 8} {th : Thr} {w : Nat} {a : IArgs}

theorem State.memVa_fetched : (s.fetched t th w).memVa t th a = s.memVa t th a := by
  rw [State.memVa, State.ga_fetched, State.memVa]

/-- The address of a MEM instruction in terms of its register and its immediate (R494). -/
theorem State.memVa_eq : s.memVa t th a = ((s.g t (thrIx th) a.ga.toNat).toNat + (BitVec.ofInt 64 a.imm.toInt).toNat) % 2 ^ 48 := by
  have h : (BitVec.ofInt 64 a.imm.toInt).toNat = (a.imm.signExtend 64).toNat := rfl
  rw [State.memVa, h, BitVec.toNat_add, State.ga, Nat.mod_mod_of_dvd _ (by decide : 2 ^ 48 ∣ 2 ^ 64)]

theorem State.memVa_lt : s.memVa t th a < 2 ^ 48 := Nat.mod_lt _ (by decide)

theorem State.reachVa_misaligned {h : Fin 4} {va n : Nat} {k : AccK} (hmis : va % n ≠ 0) : s.reachVa t h va n k = .stop (.trap cMisalign va) := by
  rw [State.reachVa, if_pos hmis]

theorem State.reachVa_store {h : Fin 4} {va n : Nat} {k : AccK} (hal : va % n = 0) (hls : lsBase ≤ va) :
    s.reachVa t h va n k = .store (va - lsBase) := by
  rw [State.reachVa, if_neg (by omega), if_pos hls]

/-- A load from the local store. -/
theorem State.load_store {x : State} {va n : Nat} {put : State → Nat → Act} (hal : va % n = 0) (hls : lsBase ≤ va) :
    x.load t th va n put = put x ((x.tile t).loadLs (va - lsBase) n) := by
  rw [State.load, State.reachVa_store hal hls]

/-- A load from memory other than another rank's. -/
theorem State.load_phys {x : State} {va n pa : Nat} {put : State → Nat → Act} (hreach : x.reachVa t (thrIx th) va n .read = .phys pa)
    (hfen : ∀ d o, x.region pa ≠ .fen d o) (hats : x.atsNeeds (x.ownerOf t.val) pa = false) (hheld : x.ownHeld t th pa n = false) :
    x.load t th va n put = if x.poisonIn pa n then .trap cMemPoison va
      else put ((x.wakeFor (some t) pa).tookBytes pa n) (x.readNat (x.ownerOf t.val) pa n) := by
  rw [State.load, hreach]
  dsimp only
  rw [hats, hheld]
  split
  · next d o hregion => exact absurd hregion (hfen d o)
  · rfl

/-- A load from memory, once its instruction is fetched. -/
theorem State.load_phys_fetched {va n pa : Nat} {put : State → Nat → Act} (hreach : (s.sought t th).reachVa t (thrIx th) va n .read = .phys pa)
    (hfen : ∀ d o, s.region pa ≠ .fen d o) (hats : s.atsNeeds (s.ownerOf t.val) pa = false) (hheld : s.ownHeld t th pa n = false) :
    (s.fetched t th w).load t th va n put = if s.poisonIn pa n then .trap cMemPoison va
      else put (((s.fetched t th w).wakeFor (some t) pa).tookBytes pa n)
        (leNat ((List.range n).map (fun i => s.byteAt (s.ownerOf t.val) (pa + i)))) := by
  have hnear := State.Near.fetched s t th w
  have hreach' : (s.fetched t th w).reachVa t (thrIx th) va n .read = .phys pa := State.reachVa_fetched hreach (fun _ => Reach.noConfusion)
  have hfen' : ∀ d o, (s.fetched t th w).region pa ≠ .fen d o := by rwa [hnear.region]
  have hats' : (s.fetched t th w).atsNeeds ((s.fetched t th w).ownerOf t.val) pa = false := by rwa [hnear.ownerOf, hnear.atsNeeds]
  have hheld' : (s.fetched t th w).ownHeld t th pa n = false := by rwa [hnear.ownHeld]
  rw [State.load_phys hreach' hfen' hats' hheld', hnear.poisonIn, hnear.ownerOf, hnear.readNat, State.readNat, State.readBytes]

/-- Aligned bytes of the local store end where it ends. -/
theorem lsBytes_le {va n : Nat} (hn : n ∣ 262144) (hal : va % n = 0) (hva : va < 2 ^ 48) : va + n ≤ 2 ^ 48 := by
  obtain ⟨m, hm⟩ : n ∣ 2 ^ 48 := hn.trans (by decide)
  obtain ⟨k, hk⟩ := Nat.dvd_of_mod_eq_zero hal
  rw [hm, hk, ← Nat.mul_succ]
  rw [hm, hk] at hva
  exact Nat.mul_le_mul_left n (Nat.lt_of_mul_lt_mul_left hva)

theorem Tile.loadLs_eq {y : Tile} {va n : Nat} (hn : n ∣ 262144) (hal : va % n = 0) (hls : lsBase ≤ va) (hva : va < 2 ^ 48) :
    y.loadLs (va - lsBase) n = leNat ((List.range n).map (fun i => y.ls.getD (va - lsBase + i) 0)) := by
  rw [Tile.loadLs]
  congr 1
  refine List.map_congr_left fun i hi => ?_
  have hend := lsBytes_le hn hal hva
  have := List.mem_range.mp hi
  have hbase : lsBase = 0xFFFFFFFC0000 := rfl
  rw [Nat.mod_eq_of_lt (by omega)]

/-- Bytes of the local store that do not pass its end are put one after another. -/
theorem Tile.putLs_eq {y : Tile} {off : Nat} {bs : List Byte} (h : off + bs.length ≤ 262144) : y.putLs off bs = { y with ls := y.ls.setBytes off bs } := by
  induction bs generalizing y off with
  | nil => rfl
  | cons b bs ih =>
    rw [List.length_cons] at h
    rw [Tile.putLs, Nat.mod_eq_of_lt (by omega), ih (by omega)]
    rfl

/-! ### Writing device memory -/

/-- A location that is not within a host window needs no translation by ATS. -/
theorem State.atsNeeds_device {x : State} {f pa : Nat} (hdevice : (x.region pa).isDevice = true) : x.atsNeeds f pa = false := by
  have hpage : x.hostPage f pa = none := by
    unfold State.hostPage
    refine ite_eq_left_iff.mpr fun _ => ?_
    split
    · next o ho =>
      rw [ho] at hdevice
      exact absurd hdevice (by simp [Region.isDevice])
    · rfl
  rw [State.atsNeeds, hpage]

/-- A device memory address is in no other rank's window. -/
theorem State.not_fen_of_device {x : State} {pa : Nat} (hdevice : (x.region pa).isDevice = true) (d o : Nat) : x.region pa ≠ .fen d o := by
  intro ho
  rw [ho] at hdevice
  exact absurd hdevice (by simp [Region.isDevice])

/-- A location's stack counts the bytes whatever memory and poison hold. -/
theorem State.gaveBytes_mem {y : State} {pa n : Nat} {m : SMap Byte} {p : List Nat} :
    ({ y with mem := m, poison := p } : State).gaveBytes pa n = { y.gaveBytes pa n with mem := m, poison := p } := by
  have hregion : ({ y with mem := m, poison := p } : State).region pa = y.region pa := rfl
  unfold State.gaveBytes
  rw [hregion]
  split
  · rfl
  · rfl

/-- The poisoned granules left by a write of n bytes at k: those it does not cover (R214). -/
def poisonLeft (p : List Nat) (k n : Nat) : List Nat := p.filter (fun g => !(decide (k ≤ g * 32) && decide (g * 32 + 32 ≤ k + n)))

theorem mem_poisonLeft {p : List Nat} {k n g : Nat} : g ∈ poisonLeft p k n ↔ g ∈ p ∧ ¬(k ≤ g * 32 ∧ g * 32 + 32 ≤ k + n) := by
  simp [poisonLeft, imp_iff_not_or]

/-- A write of less than a granule clears no poison (R214). -/
theorem poisonLeft_short {p : List Nat} {k n : Nat} (hn : n < 32) : poisonLeft p k n = p := by
  refine List.filter_eq_self.mpr fun g _ => ?_
  have hshort : ¬(k ≤ g * 32 ∧ g * 32 + 32 ≤ k + n) := by omega
  simpa [imp_iff_not_or] using hshort

/-- A write of device memory that no checkpoint holds (R214, R319): its bytes are there, the granules it covers are clean, and the stack counts. -/
theorem State.writeBytes_device {y : State} {f pa : Nat} {bs : List Byte} {who : Who} (hdevice : (y.region pa).isDevice = true) (hgate : y.gate pa = .pass)
    (hlen : bs.length ≤ 0x100000) : y.writeBytes f pa bs who = { y.gaveBytes pa bs.length with
      mem := y.mem.setBytes (y.localise pa) bs
      poison := poisonLeft y.poison (y.localise pa) bs.length } := by
  have hupdate : y.writeBytes f pa bs who = y.update f pa (.put bs) who := by
    unfold State.writeBytes
    split
    · next d o ho => exact absurd ho (State.not_fen_of_device hdevice d o)
    · next o ho =>
      rw [ho] at hdevice
      exact absurd hdevice (by simp [Region.isDevice])
    · rfl
  rw [hupdate, State.update, hgate]
  dsimp only
  rw [State.perform, State.updBytes, MemUpd.span, State.putBytes_of_device hdevice hlen, State.clearPoison, ← State.gaveBytes_mem]
  rfl

theorem length_leBytes (n v : Nat) : (leBytes n v).length = n := by
  induction n generalizing v with
  | zero => rfl
  | succ n ih => rw [leBytes, List.length_cons, ih]

/-- A number put into memory, byte by byte. -/
theorem SMap.getD_setBytes_leBytes (m : SMap Byte) (k n v j : Nat) :
    (m.setBytes k (leBytes n v)).getD j 0 = if k ≤ j ∧ j < k + n then BitVec.ofNat 8 (v / 256 ^ (j - k)) else m.getD j 0 := by
  rw [SMap.getD_setBytes, length_leBytes]
  by_cases hin : k ≤ j ∧ j < k + n
  · rw [if_pos hin, if_pos hin, getElem?_leBytes (by omega)]
    rfl
  · rw [if_neg hin, if_neg hin]

/-- A store to the local store. -/
theorem State.store_ls {x : State} {va n v : Nat} (hn : n ∣ 262144) (hal : va % n = 0) (hls : lsBase ≤ va) (hva : va < 2 ^ 48) :
    x.store t th va n v = .next (x.onTile t (fun y => { y with ls := (x.tile t).ls.setBytes (va - lsBase) (leBytes n v) })) := by
  have hend := lsBytes_le hn hal hva
  have hbase : lsBase = 0xFFFFFFFC0000 := rfl
  rw [State.store, State.reachVa_store hal hls]
  exact congrArg Act.next (State.onTile_congr (Tile.putLs_eq (by rw [length_leBytes]; omega)))

/-- A store to device memory that no checkpoint holds, once its instruction is fetched. -/
theorem State.store_device_fetched {va n v pa : Nat} (hreach : (s.sought t th).reachVa t (thrIx th) va n .write = .phys pa)
    (hdevice : (s.region pa).isDevice = true) (hgate : s.gate pa = .pass) (hn : n ≤ 32) :
    (s.fetched t th w).store t th va n v = .next { ((s.fetched t th w).wakeFor (some t) pa).gaveBytes pa n with
      mem := s.mem.setBytes (s.localise pa) (leBytes n v)
      poison := poisonLeft s.poison (s.localise pa) n } := by
  have hnear := State.Near.fetched s t th w
  have hnear' : s.Near ((s.fetched t th w).wakeFor (some t) pa) := hnear.trans (.of_reachOnly (State.reachOnly_wakeFor _ _ _))
  have hreach' : (s.fetched t th w).reachVa t (thrIx th) va n .write = .phys pa := State.reachVa_fetched hreach (fun _ => Reach.noConfusion)
  have hats : (s.fetched t th w).atsNeeds ((s.fetched t th w).ownerOf t.val) pa = false := State.atsNeeds_device (by rwa [hnear.region])
  rw [State.store, hreach']
  dsimp only
  rw [hats, if_neg (by decide), State.writeBytes_device (by rwa [hnear'.region]) (by rwa [hnear'.gate]) (by rw [length_leBytes]; omega), length_leBytes,
    hnear'.mem, hnear'.localise, hnear'.poison]

end Access

/-! ### The instructions -/

section Instructions
variable {s : State} {t : Fin 8} {th : Thr} {a : IArgs} (hissues : s.issues t th)
include hissues

/-- A load traps where its address is misaligned or poisoned, and else reads. -/
theorem State.ldG_spec {fn n : Nat} (hn : n ∣ 262144) {c : Instr} (hc : exec c s = ok s (s.ldG t th fn n a)) :
    let va := s.memVa t th a
    (va % n ≠ 0 → s.trapsWith t th c cMisalign va) ∧
    (va % n = 0 → lsBase ≤ va → ∃ u, exec c s = .next u ∧
      s.ranG u t th a.gd.toNat (BitVec.ofNat 64 (leNat ((List.range n).map (fun i => (s.tile t).ls.getD (va - lsBase + i) 0))))) ∧
    (∀ pa, (s.sought t th).reachVa t (thrIx th) va n .read = .phys pa → (∀ d o, s.region pa ≠ .fen d o) → s.atsNeeds (s.ownerOf t.val) pa = false →
        s.ownHeld t th pa n = false →
      (s.poisonIn pa n = true → s.trapsWith t th c cMemPoison va) ∧
      (s.poisonIn pa n = false → ∃ u, exec c s = .next u ∧ s.ranGAt (((s.sought t th).wakeFor (some t) pa).tookBytes pa n) u t th a.gd.toNat
        (BitVec.ofNat 64 (leNat ((List.range n).map (fun i => s.byteAt (s.ownerOf t.val) (pa + i))))))) := by
  intro va
  refine ⟨fun hmis => ?_, fun hal hls => ?_, fun pa hreach hfen hats hheld => ⟨fun hpoison => ?_, fun hclean => ?_⟩⟩
  · refine State.scalar_trap hissues ?_ (by decide) hc
    rw [State.memVa_fetched, State.load, State.reachVa_misaligned hmis]
  · rw [hc]
    refine State.scalar_toG hissues ?_
    rw [State.memVa_fetched, State.load_store hal hls, Tile.loadLs_eq hn hal hls State.memVa_lt, State.ls_fetched]
  · refine State.scalar_trap hissues ?_ (by decide) hc
    rw [State.memVa_fetched, State.load_phys_fetched hreach hfen hats hheld, if_pos hpoison]
  · rw [hc]
    refine State.scalar_toG_at hissues (State.reachOnly_trans (State.reachOnly_wakeFor _ _ _) (State.reachOnly_tookBytes _ _ _))
      (((State.FetchOf.of_fetched s t th (iWord clsMem fn a)).wakeFor (some t) pa).tookBytes pa n) ?_
    rw [State.memVa_fetched, State.load_phys_fetched hreach hfen hats hheld, hclean]
    rfl

/-- A store traps where its address is misaligned, and else writes. -/
theorem State.stG_spec {fn n : Nat} (hn : n ∣ 262144) (hshort : n < 32) {c : Instr} (hc : exec c s = ok s (s.stG t th fn n a)) :
    let va := s.memVa t th a
    let v := (s.g t (thrIx th) a.gd.toNat).toNat
    (va % n ≠ 0 → s.trapsWith t th c cMisalign va) ∧
    (va % n = 0 → lsBase ≤ va → ∃ ls : SMap Byte, s.retires t th c (fun x => x.onTile t (fun y => { y with ls := ls })) ∧
      ∀ k, ls.getD k 0 = if va - lsBase ≤ k ∧ k < va - lsBase + n then BitVec.ofNat 8 (v / 256 ^ (k - (va - lsBase))) else (s.tile t).ls.getD k 0) ∧
    (∀ pa, (s.sought t th).reachVa t (thrIx th) va n .write = .phys pa → (s.region pa).isDevice = true → s.gate pa = .pass →
      ∃ m : SMap Byte, s.retires t th c (fun x => { (x.wakeFor (some t) pa).gaveBytes pa n with mem := m }) ∧
        ∀ k, m.getD k 0 = if s.localise pa ≤ k ∧ k < s.localise pa + n then BitVec.ofNat 8 (v / 256 ^ (k - s.localise pa)) else s.mem.getD k 0) := by
  intro va v
  refine ⟨fun hmis => ?_, fun hal hls => ⟨_, State.scalar_next hissues ?_ hc, SMap.getD_setBytes_leBytes (s.tile t).ls (va - lsBase) n v⟩,
    fun pa hreach hdevice hgate => ⟨_, State.scalar_next hissues ?_ hc, SMap.getD_setBytes_leBytes s.mem (s.localise pa) n v⟩⟩
  · refine State.scalar_trap hissues ?_ (by decide) hc
    rw [State.memVa_fetched, State.store, State.reachVa_misaligned hmis]
  · rw [State.memVa_fetched, State.g_fetched, State.store_ls hn hal hls State.memVa_lt, State.ls_fetched]
  · have hpoison : (((s.fetched t th (iWord clsMem fn a)).wakeFor (some t) pa).gaveBytes pa n).poison = s.poison :=
      (((State.Near.fetched s t th _).trans (.of_reachOnly (State.reachOnly_wakeFor _ _ _))).trans (.gaveBytes _ _ _)).poison
    rw [State.memVa_fetched, State.g_fetched, State.store_device_fetched hreach hdevice hgate (by omega), poisonLeft_short hshort, ← hpoison]

end Instructions

/-- Settles O5: an access reaches the same place once its instruction is fetched, and what is read or written there is what stood before the fetch. -/
theorem loadStoreResult : Obligations.LoadStoreResult := by
  refine ⟨⟨?_, ?_⟩, ?_, ?_⟩
  · intro p hp t th a s hissues va r
    have hva : va = s.memVa t th a := State.memVa_eq.symm
    rw [hva]
    simp only [List.mem_cons, List.not_mem_nil, or_false] at hp
    rcases hp with rfl | rfl | rfl | rfl
    all_goals exact State.ldG_spec hissues (by decide) rfl
  · intro t a s hissues hgd va
    refine ⟨fun hal hls => State.scalar_next hissues ?_ rfl, fun pa hreach hfen hats hheld hclean => State.scalar_next hissues ?_ rfl⟩
    · simp only [Act.ifLegal, hgd, decide_true, Bool.and_self, if_true]
      rw [State.memVa_fetched, State.load_store hal hls, Tile.loadLs_eq (by decide) hal hls State.memVa_lt, State.ls_fetched]
    · simp only [Act.ifLegal, hgd, decide_true, Bool.and_self, if_true]
      rw [State.memVa_fetched, State.load_phys_fetched hreach hfen hats hheld, hclean]
      rfl
  · intro p hp t th a s hissues
    simp only [List.mem_cons, List.not_mem_nil, or_false] at hp
    rcases hp with rfl | rfl | rfl | rfl
    all_goals exact State.stG_spec hissues (by decide) (by decide) rfl
  · intro t a s hissues hgd va v pa hreach hdevice hgate
    refine ⟨_, poisonLeft s.poison (s.localise pa) 32, State.scalar_next hissues ?_ rfl,
      SMap.getD_setBytes_leBytes s.mem (s.localise pa) 32 v, fun g => mem_poisonLeft⟩
    simp only [Act.ifLegal, hgd, decide_true, Bool.and_self, if_true]
    rw [State.memVa_fetched, State.getD_fetched, State.store_device_fetched hreach hdevice hgate (by decide)]

end Sys2Proof.Machine
end

section
/-! SUPPORT. The refutation about scalar atomics (Table 7-11): a compare-and-swap that stores nothing counts nothing. -/
namespace Sys2Proof.Machine

/-- A device out of PERST_L whose tile 0 is in Run with its threads READY. -/
def inRun : State :=
  (({ State.reset with pins := { State.reset.pins with perst := false } } : State).wr F.TPC_STATUS_STATE 0 0).onTile 0
    (fun x => { x with threads := x.threads.map (fun y => { y with st := .ready }) })

/-- HBM4 stack 0 is Active, its count of bytes written stands beyond the counter's 48 bits, and SVC has the stack's first address in g1 and 5 in g2. -/
def wideCount : State :=
  let u := ((inRun.wr F.HMC_STATUS_STATE 0 2).setG 0 3 1 0x4000000000#64).setG 0 3 2 5#64
  { u with regs := u.regs.put (F.HMC_CNT_WR_BYTES.key 0 0) (2 ^ 48) }

/-- An AMOCAS of g2 at the address in g1. -/
def casAtG1 : IArgs := ⟨2, 1, 0⟩

/-- The value of a register after a command. -/
def rdAfter (o : Out3) (f : Fld) (i : Nat) : Nat :=
  match o with
  | .next u => u.rd f i
  | _ => 0

/-- An access whose place is decided. -/
theorem phys_of_decided {r : Reach} {pa : Nat} (h : (match r with | .phys p => decide (p = pa) | _ => false) = true) : r = .phys pa := by
  cases r with
  | phys p => exact congrArg Reach.phys (of_decide_eq_true h)
  | store off => exact absurd h (by simp)
  | stop a => exact absurd h (by simp)

/-- A count leaves a counter within its width. -/
theorem State.rd_count_lt (s : State) (f : Fld) (i n x : Nat) : (s.count f i n x).rd f i x < 2 ^ f.w := by
  rw [State.count, State.rd_wr_same]
  exact Nat.mod_lt _ (Nat.two_pow_pos _)

theorem State.rd_gaveBytes_lt {s : State} {pa k off n : Nat} (h : s.region pa = .hbm k off) : (s.gaveBytes pa n).rd F.HMC_CNT_WR_BYTES k < 2 ^ 48 := by
  rw [State.gaveBytes, h]
  exact State.rd_count_lt s _ _ _ _

theorem wideCount_issues : wideCount.issues 0 .svc := by unfold State.issues; decide +kernel

theorem wideCount_cas_stores_nothing : rdAfter (exec (.memAmocas 0 .svc casAtG1) wideCount) F.HMC_CNT_WR_BYTES 0 = 2 ^ 48 := by decide +kernel

/-- The statement leaves the stack's counter within its width, whether the swap stores or not. -/
theorem rd_after_cas_lt (h : Obligations.AtomicResult) {s : State} {t : Fin 8} {th : Thr} {a : IArgs} {pa k off : Nat} (hissues : s.issues t th)
    (hreach : (s.sought t th).reachVa t (thrIx th) (s.memVa t th a) 8 .atomic = .phys pa) (hregion : s.region pa = .hbm k off) (hgate : s.gate pa = .pass)
    (hpoison : s.poisonIn pa 8 = false) (heven : a.gd.toNat % 2 = 0) : rdAfter (exec (.memAmocas t th a) s) F.HMC_CNT_WR_BYTES k < 2 ^ 48 := by
  obtain ⟨-, -, hdevice⟩ := h.1 t th a s hissues
  obtain ⟨m, ⟨w, hgives⟩, -⟩ := hdevice pa hreach (by rw [hregion]; rfl) hgate hpoison _ (.tail _ (.tail _ (.head _))) (decide_eq_true heven)
  have hnear : s.Near (((s.fetched t th w).wakeFor (some t) pa).tookBytes pa 8) :=
    ((State.Near.fetched _ _ _ _).trans (.of_reachOnly (State.reachOnly_wakeFor _ _ _))).trans (.tookBytes _ _ _)
  rw [hgives]
  exact State.rd_gaveBytes_lt ((hnear.region pa).trans hregion)

/-- Refutes O6: an AMOCAS whose comparison fails leaves its stack's count of bytes written, which the statement has count 0 bytes; a count saturates
at 48 bits, so a state whose register holds more than 48 bits tells the two apart. -/
theorem not_atomicResult : ¬ Obligations.AtomicResult := by
  intro h
  have hlt := rd_after_cas_lt h (s := wideCount) (t := 0) (th := .svc) (a := casAtG1) (pa := 0x4000000000) (k := 0) (off := 0) wideCount_issues
    (phys_of_decided (by decide +kernel)) (by decide +kernel) (by decide +kernel) (by decide +kernel) (by decide)
  rw [wideCount_cas_stores_nothing] at hlt
  exact absurd hlt (by decide)

end Sys2Proof.Machine
end

section
/-! SUPPORT. Proofs about thread control (Table 7-12): how a thread's unit of work ends. -/
namespace Sys2Proof.Machine

/-! ### Changes after one another -/

section Twice
variable (s : State) (t : Fin 8)

theorem State.onTile_onTile (f g : Tile → Tile) : (s.onTile t f).onTile t g = s.onTile t (fun x => g (f x)) := by
  have htile : (s.onTile t f).tile t = f (s.tile t) := s.tile_onTile t f
  rw [State.onTile, htile, State.setTile, State.onTile, State.setTile, State.onTile, State.setTile, Vector.set_set]

theorem Tile.onThr_onThr (x : Tile) (h : Fin 4) (f g : Thread → Thread) : (x.onThr h f).onThr h g = x.onThr h (fun y => g (f y)) := by
  have hthr : (x.onThr h f).threads[h] = f x.threads[h] := x.thr_onThr h f
  rw [Tile.onThr, hthr, Tile.onThr, Vector.set_set, Tile.onThr]

theorem State.onThr_onThr (h : Fin 4) (f g : Thread → Thread) : (s.onThr t h f).onThr t h g = s.onThr t h (fun y => g (f y)) := by
  simp only [State.onThr, State.onTile_onTile, Tile.onThr_onThr]

end Twice

/-! ### Instructions that end in a state of their own -/

section Ends
variable {s : State} {t : Fin 8} {th : Thr} {w : Nat} {body : State → Act} (hissues : s.issues t th)
include hissues

/-- An instruction that ends in a state of its own. -/
theorem State.scalar_done {f : State → State} (hbody : body (s.fetched t th w) = .done (f (s.fetched t th w))) {c : Instr}
    (hc : exec c s = ok s (s.scalar t th w body)) : s.gives c (f (s.fetched t th w)) := by
  rw [State.gives, hc, State.scalar_issues hissues, hbody, State.act]
  rfl

end Ends

/-- What holds of the state a command gives, and does not read the queue, holds after the command. -/
theorem State.gives.next_of {s u : State} {c : Instr} (h : s.gives c u) {P : State → Prop} (hP : P u)
    (hqueue : ∀ (v : State) (p : List Instr), P v → P { v with pending := p }) : ∃ v, exec c s = .next v ∧ P v :=
  ⟨_, h, hqueue u s.pending hP⟩

section Held
variable {s : State} {t : Fin 8} {w : Nat} {th : Thr}

@[simp] theorem State.lep_fetched (v : Fin 8) : ((s.fetched t th w).tile v).lep = (s.tile v).lep := by rw [State.tile_fetched_eq]

@[simp] theorem State.job_fetched (v : Fin 8) : ((s.fetched t th w).tile v).job = (s.tile v).job := by rw [State.tile_fetched_eq]

@[simp] theorem State.active_fetched (v : Fin 8) : ((s.fetched t th w).tile v).active = (s.tile v).active := by rw [State.tile_fetched_eq]

@[simp] theorem State.nanStop_fetched (v : Fin 8) : ((s.fetched t th w).tile v).nanStop = (s.tile v).nanStop := by rw [State.tile_fetched_eq]

theorem State.mem_fetched : (s.fetched t th w).mem = s.mem := (State.Near.fetched s t th w).mem

/-- A thread that holds no message ends its unit of work with its rotation alone. -/
theorem State.unitEnded_of_none {h : Nat} (hnone : (s.tile t).lep.held.find? h = none) :
    s.unitEnded t h = s.onLep t (fun l => { l with selLast := l.selLast.erase h, selWait := l.selWait.filter (fun w => decide (w.1 ≠ h)) }) := by
  rw [State.unitEnded, State.releaseHeld, hnone]

/-- A job that MAIN ends by itself keeps its cause and its trap's pc. -/
theorem CurJob.ended_by_main (j : CurJob) : { j with
      ended := true
      cause := if j.cause.isSome then j.cause else none
      trapPc := if j.cause.isNone && (none : Option Nat).isSome then 0 else j.trapPc } = { j with ended := true } := by
  cases hcause : j.cause with
  | none => simp
  | some c => simp

/-- What MAIN's end does to its tile when it holds no message. -/
def Tile.mainEnded (x : Tile) : Tile :=
  let y := ({ x with lep := { x.lep with selLast := x.lep.selLast.erase 0, selWait := x.lep.selWait.filter (fun w => decide (w.1 ≠ 0)) } }.setSt 0 .idle).staleTraps 0
  { y with job := x.job.map (fun j => { j with ended := true }) }

theorem State.thr_retireAt_ne {h k : Fin 4} {pc : Nat} (hk : k ≠ h) : (s.retireAt t h pc).thr t k = s.thr t k := by
  rw [State.retireAt, State.thr_onThr_ne _ _ hk]

theorem State.lep_retireAt {h : Fin 4} {pc : Nat} : ((s.retireAt t h pc).tile t).lep = (s.tile t).lep := by
  rw [State.retireAt, State.onThr, State.tile_onTile]
  rfl

theorem State.job_retireAt {h : Fin 4} {pc : Nat} : ((s.retireAt t h pc).tile t).job = (s.tile t).job := by
  rw [State.retireAt, State.onThr, State.tile_onTile]
  rfl

/-- MAIN ends its program without a message held: it is IDLE and its job has ended. -/
theorem State.endMain_of_none (hnone : (s.tile t).lep.held.find? 0 = none) : s.endMain t none 0 = s.onTile t Tile.mainEnded := by
  have hunit := State.unitEnded_of_none (h := 0) hnone
  have hzero : ((0 : Fin 4).val) = 0 := rfl
  rw [State.endMain, State.endThread, hzero, hunit, State.onLep, State.onTile_onTile, State.onTile_onTile]
  simp only [CurJob.ended_by_main]
  rfl

theorem Tile.thr_mainEnded (x : Tile) (hst : (x.thr 0).st ≠ .halted) : x.mainEnded.thr 0 = { x.thr 0 with st := .idle, wait := .none } := by
  have hthr : x.mainEnded.thr 0 = (x.setSt 0 .idle).thr 0 := rfl
  rw [hthr, Tile.setSt, Tile.thr_onThr, if_neg hst]

theorem Tile.thr_mainEnded_ne {x : Tile} {h : Fin 4} (hh : h ≠ 0) : x.mainEnded.thr h = x.thr h :=
  calc x.mainEnded.thr h = (x.setSt 0 .idle).thr h := rfl
    _ = x.thr h := Tile.thr_onThr_ne _ hh

theorem State.mainEnded_thr {x : State} (hst : (x.thr t 0).st ≠ .halted) :
    (x.onTile t Tile.mainEnded).thr t 0 = { x.thr t 0 with st := .idle, wait := .none } := by
  rw [State.thr, State.tile_onTile, Tile.thr_mainEnded _ hst]
  rfl

theorem State.mainEnded_thr_ne {x : State} {h : Fin 4} (hh : h ≠ 0) : (x.onTile t Tile.mainEnded).thr t h = x.thr t h := by
  rw [State.thr, State.tile_onTile, Tile.thr_mainEnded_ne hh]
  rfl

/-- MAIN after the last instruction of its program, when it holds no message. -/
theorem State.mainRetired (t : Fin 8) (w : Nat) :
    let u := ((s.fetched t .main w).retireAt t 0 ((s.thr t 0).pc + 4)).onTile t Tile.mainEnded
    (u.thr t 0).st = .idle ∧ (u.thr t 0).instret = (s.thr t 0).instret + 1 ∧ (∀ j, (s.tile t).job = some j → (u.tile t).job = some { j with ended := true }) ∧
      u.mem = s.mem ∧ ∀ h, h ≠ 0 → u.thr t h = s.thr t h := by
  intro u
  have hmain : ((s.fetched t .main w).retireAt t 0 ((s.thr t 0).pc + 4)).thr t 0 =
      { s.thr t 0 with st := .ready, wait := .none, pc := ((s.thr t 0).pc + 4) % 2 ^ 48, instret := (s.thr t 0).instret + 1 } := by
    rw [State.retireAt_eq, State.thr_onThr, State.thr_fetched]
    rfl
  have hidle := State.mainEnded_thr (x := (s.fetched t .main w).retireAt t 0 ((s.thr t 0).pc + 4)) (t := t) (by rw [hmain]; nofun)
  rw [hmain] at hidle
  refine ⟨by rw [hidle], by rw [hidle], fun j hj => ?_, State.mem_fetched (w := w), fun h hh => ?_⟩
  · have hjob : (((s.fetched t .main w).retireAt t 0 ((s.thr t 0).pc + 4)).tile t).job = some j := by rw [State.job_retireAt, State.job_fetched, hj]
    rw [State.tile_onTile, Tile.mainEnded]
    exact congrArg (Option.map _) hjob
  · rw [State.mainEnded_thr_ne hh, State.thr_retireAt_ne hh, State.thr_fetched]

end Held

section Control
variable {s : State} {t : Fin 8} {th : Thr} (hissues : s.issues t th)
include hissues

/-- A thread-control instruction of its own thread, with no operands, retires and ends in the state it names. -/
theorem State.retireTo_gives {fn : Nat} {own : Bool} {f : State → State} (hown : own = true) {c : Instr}
    (hc : exec c s = ok s (s.thrInsn t th fn ⟨0, 0, 0, 0⟩ (fun s => Act.ifLegal (rEmpty ⟨0, 0, 0, 0⟩ && own) (s.retireTo t th f)))) :
    ∃ w, s.gives c (f ((s.fetched t th w).retireAt t (thrIx th) ((s.thr t (thrIx th)).pc + 4))) := by
  refine ⟨_, State.scalar_done (f := fun x => f (x.retireAt t (thrIx th) ((s.thr t (thrIx th)).pc + 4))) hissues ?_ hc⟩
  have hempty : rEmpty ⟨0, 0, 0, 0⟩ = true := rfl
  rw [hown, hempty, Bool.and_self, Act.ifLegal, if_pos rfl, State.retireTo, State.thr_fetched]

end Control

/-- Settles O7: each instruction of its own thread retires and ends in the state it names, whatever word was fetched. -/
theorem threadControlResult : Obligations.ThreadControlResult := by
  intro t s z
  refine ⟨fun p hp th hth hissues => ?_, fun th hissues => ?_, fun hissues hnone => ?_, fun hissues => ?_, fun hissues => ?_, fun hissues => ?_⟩
  · simp only [List.mem_cons, List.not_mem_nil, or_false] at hp
    rcases hp with rfl | rfl | rfl | rfl
    all_goals exact State.scalar_illegal hissues rfl (by rw [decide_eq_false hth, Bool.and_false]) rfl
  · refine State.scalar_next (f := id) hissues ?_ rfl
    have hempty : rEmpty z = true := rfl
    rw [hempty]
    rfl
  · obtain ⟨w, hend⟩ := State.retireTo_gives (own := decide (Thr.main = Thr.main)) (f := fun s => s.endMain t none 0) (c := .thrEnd t .main z) hissues rfl rfl
    rw [State.endMain_of_none (by rwa [State.lep_retireAt, State.lep_fetched])] at hend
    exact hend.next_of (State.mainRetired t w) fun v p hv => hv
  · exact State.retireTo_gives (own := decide (Thr.msg = Thr.msg)) (f := fun s => s.endThread t 1) hissues rfl rfl
  · exact State.retireTo_gives (own := decide (Thr.walk = Thr.walk)) (f := fun s => s.endWalk t) hissues rfl rfl
  · exact State.retireTo_gives (own := decide (Thr.svc = Thr.svc)) (f := fun s => (s.unitEnded t 3).onTile t (fun x => x.setSt 3 .parked)) hissues rfl rfl

end Sys2Proof.Machine
end

section
/-! SUPPORT. Proofs about traps (R177 to R180): raising one, taking it, and leaving its handler. -/
namespace Sys2Proof.Machine

/-! ### Raising a trap -/

section Raise
variable {s : State} {t : Fin 8} {h : Fin 4} {kind cause info insn : Nat}

/-- A trap whose cause is no memory fault is not counted among the contained errors. -/
theorem State.countOp_of_ne (hpage : cause ≠ cPageFault) (haccess : cause ≠ cAccess) (hpoison : cause ≠ cMemPoison) : s.countOp cause = s := by
  rw [State.countOp, if_neg]
  rintro (h | h | h)
  · exact hpage h
  · exact haccess h
  · exact hpoison h

/-- A trap of a thread that is not SVC in its handler waits before SVC, or, with no handler, ends the thread's unit of work. -/
theorem State.raiseSync_eq (hfree : h ≠ 3 ∨ (s.tile t).active = none) (hpage : cause ≠ cPageFault) (haccess : cause ≠ cAccess)
    (hpoison : cause ≠ cMemPoison) : s.raiseSync t h kind cause info insn =
      let tr : Trap := ⟨cause, kind, h.val, 0, 0, (s.thr t h).pc, if cause = cSvcall ∨ cause = cBreak then ((s.thr t h).pc + 4) % 2 ^ 48 else (s.thr t h).pc,
        info % 2 ^ 64, insn, 0, [], false, false⟩
      if s.rd F.TCC_SVC_VEC_VEC t.val = 0 then s.endUnit t tr
      else s.onTile t (fun x => { x.onThr h (fun y => { y with st := .trap, wait := .none }) with traps := x.traps ++ [tr] }) := by
  have hsvc : ¬(h = 3 ∧ (s.tile t).active.isSome = true) := by
    rintro ⟨h3, hactive⟩
    rcases hfree with hne | hnone
    · exact hne h3
    · rw [hnone] at hactive
      exact Bool.noConfusion hactive
  rw [State.raiseSync, if_neg hsvc, State.countOp_of_ne hpage haccess hpoison]
  rfl

/-- END applies to a thread's own unit of work (Table 7-14). -/
theorem State.endUnit_thread {tr : Trap} (hstale : tr.stale = false) (hthread : tr.thread = h.val) : s.endUnit t tr =
    if h = 0 then s.endMain t (some tr.cause) tr.pc else if h = 1 then s.endThread t 1 else if h = 2 then s.endWalk t else s.endThread t 3 := by
  rw [State.endUnit, hstale, if_neg (by decide), hthread]
  fin_cases h
  all_goals rfl

theorem State.raiseSync_handled (hvec : s.rd F.TCC_SVC_VEC_VEC t.val ≠ 0) (hfree : h ≠ 3 ∨ (s.tile t).active = none) (hpage : cause ≠ cPageFault)
    (haccess : cause ≠ cAccess) (hpoison : cause ≠ cMemPoison) : s.raiseSync t h kind cause info insn = s.onTile t (fun x =>
      { x.onThr h (fun y => { y with st := .trap, wait := .none }) with
        traps := x.traps ++ [⟨cause, kind, h.val, 0, 0, (s.thr t h).pc,
          if cause = cSvcall ∨ cause = cBreak then ((s.thr t h).pc + 4) % 2 ^ 48 else (s.thr t h).pc, info % 2 ^ 64, insn, 0, [], false, false⟩] }) := by
  rw [State.raiseSync_eq hfree hpage haccess hpoison]
  exact if_neg hvec

theorem State.raiseSync_unhandled (hvec : s.rd F.TCC_SVC_VEC_VEC t.val = 0) (hfree : h ≠ 3 ∨ (s.tile t).active = none) (hpage : cause ≠ cPageFault)
    (haccess : cause ≠ cAccess) (hpoison : cause ≠ cMemPoison) : s.raiseSync t h kind cause info insn =
      if h = 0 then s.endMain t (some cause) (s.thr t 0).pc else if h = 1 then s.endThread t 1 else if h = 2 then s.endWalk t else s.endThread t 3 := by
  have hpc : ∀ (k : Fin 4) (a : State), (if k = 0 then s.endMain t (some cause) (s.thr t k).pc else a) =
      if k = 0 then s.endMain t (some cause) (s.thr t 0).pc else a := fun k a => by
    by_cases hk : k = 0
    · rw [hk]
    · rw [if_neg hk, if_neg hk]
  rw [State.raiseSync_eq hfree hpage haccess hpoison]
  exact (if_pos hvec).trans ((State.endUnit_thread rfl rfl).trans (hpc h _))

theorem State.raiseSync_double (hactive : (s.tile t).active ≠ none) :
    s.raiseSync t 3 kind cause info insn = s.doubleFault t (s.thr t 3).pc := by
  rw [State.raiseSync, if_pos ⟨rfl, Option.isSome_iff_ne_none.mpr hactive⟩]
  rfl

end Raise

section Software
variable {s : State} {t : Fin 8} {th : Thr} {w : Nat}

/-- An instruction that raises a trap of its own, counted if it is SVCALL or BREAK. -/
theorem State.scalar_raises {body : State → Act} (hissues : s.issues t th) {cause info : Nat} (hbody : body (s.fetched t th w) = .trap cause info) {c : Instr}
    (hc : exec c s = ok s (s.scalar t th w body)) :
    s.gives c (((s.fetched t th w).onThr t (thrIx th) (fun y => y.counted (thrIx th) cause)).raiseSync t (thrIx th) 0 cause info w) := by
  rw [State.gives, hc, State.scalar_issues hissues, hbody, State.act]
  rfl

/-- SVCALL and BREAK count as executed (R163). -/
theorem Thread.counted_software {y : Thread} {cause : Nat} (hcause : cause = cSvcall ∨ cause = cBreak) :
    y.counted (thrIx th) cause = { y with instret := y.instret + 1, hsteps := if th = .msg then y.hsteps + 1 else y.hsteps } := by
  rw [Thread.counted, if_pos hcause]
  cases th
  all_goals rfl

end Software

theorem State.csr_retireAt {s : State} {t : Fin 8} {h : Fin 4} {pc : Nat} : ((s.retireAt t h pc).tile t).csr = (s.tile t).csr := by
  rw [State.retireAt, State.onThr, State.tile_onTile]
  rfl

/-- A change of a tile that leaves its stop leaves every tile's. -/
theorem State.nanStop_onTile {s : State} {t u : Fin 8} {f : Tile → Tile} (hf : ∀ x, (f x).nanStop = x.nanStop) :
    ((s.onTile t f).tile u).nanStop = (s.tile u).nanStop := by
  by_cases hut : u = t
  · subst hut
    rw [State.tile_onTile, hf]
  · rw [State.tile_onTile_ne _ _ hut]

theorem State.nanStop_retireAt {s : State} {t u : Fin 8} {h : Fin 4} {pc : Nat} : ((s.retireAt t h pc).tile u).nanStop = (s.tile u).nanStop :=
  State.nanStop_onTile fun _ => rfl

/-! ### SVC takes a trap and leaves it -/

section Svc
variable {s : State} {t : Fin 8} {tr : Trap}

theorem State.svcTakes_iff : s.svcTakes t = true ↔ (s.tile t).active = none ∧ (s.tile t).halt ≠ .trap ∧ s.rd F.TPC_STATUS_STATE t.val = 0 ∧
    (s.tile t).resetting = false := by
  simp [State.svcTakes, and_assoc]

theorem State.count_onTile {f : Tile → Tile} {g : Fld} {i n : Nat} : (s.onTile t f).count g i n = (s.count g i n).onTile t f := rfl

/-- Taking a trap with a handler (R179). -/
theorem State.takeTrap_handled {rest : List Trap} (htraps : (s.tile t).traps = tr :: rest) (hvec : s.rd F.TCC_SVC_VEC_VEC t.val ≠ 0) :
    s.takeTrap t = (s.count F.TCC_CNT_TRAP_COUNT t.val 1).onTile t (fun x =>
      { x.onThr 3 (fun y => { y with st := .ready, wait := .none, pc := s.rd F.TCC_SVC_VEC_VEC t.val }) with
        traps := rest
        active := some tr
        csr := { x.csr with
          cause := tr.cause + tr.kind * 32 + tr.thread * 256, pc := tr.pc, op := if tr.kind = 2 then tr.tag + tr.desc * 256 else 0
          info := tr.info, retpc := tr.retpc, insn := #v[bits tr.insn 0 32, bits tr.insn 32 32, bits tr.insn 64 32, bits tr.insn 96 32]
          epc := (s.thr t 3).pc, action := none, svcPrev := (s.thr t 3).st } }) := by
  rw [State.takeTrap, htraps]
  dsimp only
  rw [if_neg hvec, State.count_onTile, State.onTile_onTile]
  exact State.onTile_congr rfl

/-- A tile without a stop settles as it is. -/
theorem State.settle_of_none (hnone : ∀ u, (s.tile u).nanStop = none) : s.settle = s := by
  have hfold : ∀ l : List (Fin 8), l.foldl (fun s t => s.nanCheck t) s = s := fun l => by
    induction l with
    | nil => rfl
    | cons u l ih =>
      have hcheck : s.nanCheck u = s := by simp only [State.nanCheck, hnone u]
      rw [List.foldl_cons, hcheck, ih]
  exact hfold _

/-- An instruction of SVC that leaves a trap other than one of its own (R180). -/
theorem State.tret_gives (hissues : s.issues t .svc) (hactive : (s.tile t).active = some tr) (hother : tr.kind = 2 ∨ tr.thread < 3) : ∃ w,
    let s1 := (s.fetched t .svc w).retireAt t 3 ((s.thr t 3).pc + 4)
    ∀ s2, s1.applyAction t tr ((s.tile t).csr.action.getD 0) = some s2 → s.gives (.thrTret t .svc ⟨0, 0, 0, 0⟩) (s2.leaveSvc t tr).settle := by
  refine ⟨rWord clsThr 4 ⟨0, 0, 0, 0⟩, fun s2 haction => ?_⟩
  have hown : ¬(tr.thread = 3 ∧ tr.kind ≠ 2) := by omega
  have hbody : ∀ body : State → Act, body (s.fetched t .svc (rWord clsThr 4 ⟨0, 0, 0, 0⟩)) = .done (s2.leaveSvc t tr) →
      s.thrInsn t .svc 4 ⟨0, 0, 0, 0⟩ body = s2.leaveSvc t tr := fun body hb => by
    rw [State.thrInsn, State.scalar_issues hissues, hb, State.act]
  refine congrArg (fun u : State => ok s u.settle) (hbody _ ?_)
  have hlegal : (rEmpty ⟨0, 0, 0, 0⟩ && decide (Thr.svc = Thr.svc)) = true := rfl
  rw [hlegal, Act.ifLegal, if_pos rfl, State.active_fetched, hactive]
  dsimp only
  rw [if_neg hown, State.csr_fetched, State.thr_fetched, haction]

theorem Tile.onThr_congr {x : Tile} {h : Fin 4} {f g : Thread → Thread} (hfg : f (x.thr h) = g (x.thr h)) : x.onThr h f = x.onThr h g := by
  rw [Tile.onThr, Tile.onThr]
  exact congrArg (fun y => { x with threads := x.threads.set h y }) hfg

/-- A trapped thread is READY at TRAP_RETPC. -/
def Tile.resumed (z : Tile) (h : Fin 4) : Tile := z.onThr h (fun y => { y with st := .ready, wait := .none, pc := z.csr.retpc % 2 ^ 48 })

/-- SVC, parked before, is parked again and handles no trap. -/
def Tile.svcParked (z : Tile) : Tile := ({ z with active := none } : Tile).onThr 3 (fun y => { y with st := .parked, wait := .none })

section Resume
variable {x : State} {h : Fin 4}

/-- RESUME of a thread that a trap stopped (Table 7-14). -/
theorem State.applyAction_resume (hkind : tr.kind ≠ 2) (hthread : tr.thread = h.val) (hfresh : tr.stale = false)
    (hallowed : actionOk tr.cause tr.kind 0 = true) (hst : (x.thr t h).st = .trap) : x.applyAction t tr 0 = some (x.onTile t (fun z => z.resumed h)) := by
  have hix : (⟨tr.thread % 4, Nat.mod_lt _ (by decide)⟩ : Fin 4) = h :=
    Fin.ext (show tr.thread % 4 = h.val by rw [hthread, Nat.mod_eq_of_lt h.isLt])
  rw [State.applyAction, hallowed, if_pos rfl]
  dsimp only
  rw [if_neg (by decide), if_neg hkind, if_neg (by decide), hfresh, if_neg (by decide), hix]
  exact congrArg some (State.onTile_congr (Tile.onThr_congr (if_pos hst)))

/-- SVC goes back to being parked, when it was and no trap of its own is left. -/
theorem State.leaveSvc_parked (hother : tr.thread ≠ 3) (hprev : (x.tile t).csr.svcPrev = .parked) (hsvc : (x.thr t 3).st = .ready) :
    x.leaveSvc t tr = x.onTile t Tile.svcParked := by
  refine State.onTile_congr ?_
  have hready : (({ x.tile t with active := none } : Tile).thr 3).st ≠ .halted := fun hhalted => absurd (hsvc.symm.trans hhalted) (by decide)
  dsimp only
  rw [if_neg hready, if_neg (fun hown => hother hown.1), hprev]
  rfl

/-- After SVC has resumed a thread and is parked again. -/
theorem State.resumed_parked (hh : h ≠ 3) : let u := (x.onTile t (fun z => z.resumed h)).onTile t Tile.svcParked
    (u.tile t).active = none ∧ (u.thr t 3).st = .parked ∧
      u.thr t h = { x.thr t h with st := .ready, wait := .none, pc := (x.tile t).csr.retpc % 2 ^ 48 } ∧ u.mem = x.mem := by
  have htile : ((x.onTile t (fun z => z.resumed h)).onTile t Tile.svcParked).tile t = ((x.tile t).resumed h).svcParked := by
    rw [State.tile_onTile, State.tile_onTile]
  intro u
  refine ⟨by rw [htile]; rfl, ?_, ?_, rfl⟩
  · rw [State.thr, htile, Tile.svcParked, Tile.thr_onThr]
  · rw [State.thr, htile, Tile.svcParked, Tile.thr_onThr_ne _ hh]
    exact (rfl : _ = ((x.tile t).resumed h).thr h).trans (Tile.thr_onThr (x.tile t) h _)

end Resume

end Svc

/-- Settles O8: a raised trap, SVC taking it, and what each action leaves of the state after THR.TRET retires. -/
theorem trapResult : Obligations.TrapResult := by
  refine ⟨⟨?_, ?_, ?_, ?_⟩, ?_, ?_, ?_, ?_, ?_, ?_⟩
  · intro t th a s hissues hgd hga hgb ran
    refine ⟨fun hth => ?_, fun hth => ?_, fun hx => ?_⟩
    · refine ⟨rWord clsThr 6 a, ?_⟩
      have hgives := State.scalar_raises (w := rWord clsThr 6 a) (c := .thrSvcall t th a) (cause := cSvcall) (info := a.x.toNat) hissues
        (by simp [hgd, hga, hgb, hth, Act.ifLegal]) rfl
      rwa [funext fun y => Thread.counted_software (th := th) (y := y) (.inl rfl)] at hgives
    · exact State.scalar_illegal hissues rfl (by simp [hth]) rfl
    · refine ⟨rWord clsThr 7 a, ?_⟩
      have hgives := State.scalar_raises (w := rWord clsThr 7 a) (c := .thrBreak t th a) (cause := cBreak) (info := 0) hissues
        (by simp [rEmpty, hgd, hga, hgb, hx, Act.ifLegal]) rfl
      rwa [funext fun y => Thread.counted_software (th := th) (y := y) (.inr rfl)] at hgives
  · intro t s h kind cause info insn hvec hfree hpage haccess hpoison
    exact State.raiseSync_handled hvec hfree hpage haccess hpoison
  · intro t s h kind cause info insn hvec hfree hpage haccess hpoison
    exact State.raiseSync_unhandled hvec hfree hpage haccess hpoison
  · intro t s kind cause info insn hactive
    exact State.raiseSync_double hactive
  · intro t s tr rest htraps hactive hhalt hrun hreset hvec
    exact congrArg (ok s) ((if_pos (State.svcTakes_iff.mpr ⟨hactive, hhalt, hrun, hreset⟩)).trans (State.takeTrap_handled htraps hvec))
  · intro t s hnot
    have htake : (if s.svcTakes t then s.takeTrap t else s) = s := by
      by_cases htakes : s.svcTakes t = true
      · obtain ⟨hactive, hhalt, hrun, hreset⟩ := State.svcTakes_iff.mp htakes
        have hnone : (s.tile t).traps = [] := by
          rcases hnot with hnone | hbusy | hhalted | hsleeps | hresets
          · exact hnone
          · exact absurd hactive hbusy
          · exact absurd hhalted hhalt
          · exact absurd hrun hsleeps
          · exact absurd hreset (by rw [hresets]; decide)
        rw [if_pos htakes, State.takeTrap, hnone]
      · exact if_neg htakes
    exact congrArg (ok s) htake
  · intro t s tr hissues hactive hother
    exact State.tret_gives hissues hactive hother
  · intro t s tr a
    refine ⟨fun ha => ?_, fun ha => ?_, fun ha hkind hok => ?_⟩
    · have hok : actionOk tr.cause tr.kind a = true := if_pos ha
      simp only [State.applyAction, hok, if_true, if_pos ha]
    · have hact : (if actionOk tr.cause tr.kind a = true then a else 2) = 2 := by
        rcases ha with h2 | ⟨-, hno⟩
        · rw [h2, ite_self]
        · rw [hno]
          rfl
      simp only [State.applyAction, hact]
      by_cases hkind : tr.kind = 2
      · simp [hkind]
      · simp [hkind]
    · subst ha
      simp [State.applyAction, hkind, hok]
  · intro cause kind
    simp only [actionOk]
    constructor
    · simp
    · simp
      tauto
  · intro t s tr hissues hactive hkind hthread hfresh hallowed haction hprev hst hstop
    obtain ⟨h, hix⟩ : ∃ h : Fin 4, h = ⟨tr.thread % 4, Nat.mod_lt _ (by decide)⟩ := ⟨_, rfl⟩
    have hh : tr.thread = h.val := by rw [hix]; exact (Nat.mod_eq_of_lt (by omega)).symm
    have hsvc : h ≠ 3 := fun h3 => by
      rw [h3] at hh
      exact absurd hthread (by rw [hh]; decide)
    have hzero : (s.tile t).csr.action.getD 0 = 0 := by
      rcases haction with hnone | hset
      · rw [hnone]; rfl
      · rw [hset]; rfl
    rw [← hix] at hst ⊢
    obtain ⟨w, hgives⟩ := State.tret_gives hissues hactive (.inr hthread)
    have hsame := State.thr_retireAt_ne (s := s.fetched t .svc w) (t := t) (pc := (s.thr t 3).pc + 4) hsvc
    rw [State.thr_fetched] at hsame
    have hready : (((s.fetched t .svc w).retireAt t 3 ((s.thr t 3).pc + 4)).thr t 3).st = .ready := by rw [State.retireAt, State.thr_onThr]
    have hcsr : (((s.fetched t .svc w).retireAt t 3 ((s.thr t 3).pc + 4)).tile t).csr = (s.tile t).csr := by
      rw [State.csr_retireAt, State.csr_fetched]
    have hstop' : ∀ u, (((s.fetched t .svc w).retireAt t 3 ((s.thr t 3).pc + 4)).tile u).nanStop = none := fun u => by
      rw [State.nanStop_retireAt, State.nanStop_fetched, hstop u]
    have hmem : ((s.fetched t .svc w).retireAt t 3 ((s.thr t 3).pc + 4)).mem = s.mem := State.mem_fetched (w := w)
    generalize (s.fetched t .svc w).retireAt t 3 ((s.thr t 3).pc + 4) = x at *
    have hparked := State.leaveSvc_parked (x := x.onTile t (fun z => z.resumed h)) (t := t) (tr := tr) (by omega)
      (by rw [State.tile_onTile]; exact (congrArg TrapCsr.svcPrev hcsr).trans hprev)
      (by rw [State.thr, State.tile_onTile, Tile.resumed, Tile.thr_onThr_ne _ hsvc.symm]; exact hready)
    have hleave := hgives _ (by rw [hzero]; exact State.applyAction_resume hkind hh hfresh hallowed (by rw [hsame, hst]))
    rw [hparked, State.settle_of_none] at hleave
    · have hresult := State.resumed_parked (x := x) (t := t) hsvc
      rw [hsame, hcsr, hmem] at hresult
      exact hleave.next_of hresult fun v p hv => hv
    · intro u
      exact (State.nanStop_onTile (f := Tile.svcParked) fun _ => rfl).trans ((State.nanStop_onTile (f := fun z => z.resumed h) fun _ => rfl).trans (hstop' u))

end Sys2Proof.Machine
end

section
/-! SUPPORT. Proofs about the issue of Psirra-T instructions (R156, R168 to R172, R185): the fetched state, and the ways an issue can end. -/
namespace Sys2Proof.Machine

/-- Every tensor instruction takes the issue path with its operation. -/
theorem exec_tensor {p : (Fin 8 → Thr → TArgs → Instr) × TOp} (hp : p ∈ tagged ++ untagged) (t : Fin 8) (th : Thr) (a : TArgs) (s : State) :
    exec (p.1 t th a) s = ok s (s.issueT t th p.2 a) := by
  simp only [tagged, untagged, List.cons_append, List.nil_append, List.mem_cons, List.not_mem_nil, or_false] at hp
  rcases hp with rfl | rfl | rfl | rfl | rfl | rfl | rfl | rfl | rfl | rfl | rfl | rfl | rfl | rfl | rfl | rfl | rfl | rfl | rfl | rfl | rfl | rfl |
    rfl | rfl | rfl | rfl | rfl | rfl | rfl | rfl | rfl | rfl | rfl | rfl | rfl | rfl | rfl | rfl | rfl | rfl | rfl | rfl | rfl | rfl
  all_goals rfl

/-- The operations that take a tag are neither control operations nor SY.WAKE. -/
theorem tagged_takes_tag {p : (Fin 8 → Thr → TArgs → Instr) × TOp} (hp : p ∈ tagged) : (p.2.cls = 7 || p.2 = .syWake) = false := by
  have hops : ∀ op ∈ tagged.map Prod.snd, (op.cls = 7 || op = .syWake) = false := by decide
  exact hops p.2 (List.mem_map_of_mem hp)

/-! ### The fetched state -/

section Fetched
variable {s : State} {t : Fin 8} {h : Fin 4} {w : Nat}

theorem State.thr_fetchedT (v : Fin 8) (k : Fin 4) : (s.fetchedT t h w).thr v k = s.thr v k := by
  rw [← State.reachOnly_thr (State.reachOnly_fetchReach (t := t) h 16 s) v k, State.fetchedT, State.cacheInsn, State.thr, State.thr, State.tile_count]
  by_cases hv : v = t
  · subst hv
    rw [State.tile_onTile]
    rfl
  · rw [State.tile_onTile_ne _ _ hv]
    rfl

theorem State.tile_fetchedT_ne {v : Fin 8} (hv : v ≠ t) : (s.fetchedT t h w).tile v = (s.fetchReach t h 16).tile v := by
  rw [State.fetchedT, State.tile_count, State.cacheInsn, State.tile_onTile_ne _ _ hv]

/-- A fetch changes of its tile the translations, the wake requests and the instruction cache. -/
theorem State.tile_fetchedT : (s.fetchedT t h w).tile t =
    { s.tile t with
      tlb := ((s.fetchedT t h w).tile t).tlb, wcache := ((s.fetchedT t h w).tile t).wcache, tpc := ((s.fetchedT t h w).tile t).tpc
      icache := ((s.fetchedT t h w).tile t).icache } := by
  obtain ⟨-, htiles, -⟩ := State.reachOnly_fetchReach (t := t) h 16 s
  have hcache : (s.fetchedT t h w).tile t = { (s.fetchReach t h 16).tile t with icache := ((s.fetchedT t h w).tile t).icache } := by
    rw [State.fetchedT, State.tile_count, State.cacheInsn, State.tile_onTile]
  rw [hcache, htiles t]

theorem State.Near.fetchedT (s : State) (t : Fin 8) (h : Fin 4) (w : Nat) : s.Near (s.fetchedT t h w) :=
  ((State.Near.of_reachOnly (State.reachOnly_fetchReach h 16 s)).trans (.onTile _ _ _)).trans (.count _ _ _ _ _ (by decide) (by decide))

theorem State.hostMem_fetchedT : (s.fetchedT t h w).hostMem = s.hostMem := by rw [(State.Near.fetchedT s t h w).rest]

theorem State.mem_fetchedT : (s.fetchedT t h w).mem = s.mem := (State.Near.fetchedT s t h w).mem

theorem State.g_fetchedT (v : Fin 8) (k : Fin 4) (i : Nat) : (s.fetchedT t h w).g v k i = s.g v k i := by rw [State.g, State.thr_fetchedT, State.g]

theorem State.threadOwes_fetchedT (k : Fin 4) : (s.fetchedT t h w).threadOwes t k = s.threadOwes t k := (State.Near.fetchedT s t h w).owes _

theorem State.opTraps_fetchedT : ((s.fetchedT t h w).tile t).opTraps = (s.tile t).opTraps := by
  rw [State.tile_fetchedT]
  rfl

theorem State.nanStopped_fetchedT : ((s.fetchedT t h w).tile t).nanStopped = (s.tile t).nanStopped := by
  rw [State.tile_fetchedT]
  rfl

theorem State.capture_fetchedT (op : TOp) (a : TArgs) : ((s.fetchedT t h w).tile t).capture t.val op a = (s.tile t).capture t.val op a := by
  rw [State.tile_fetchedT]
  rfl

theorem State.ops_fetchedT : ((s.fetchedT t h w).tile t).ops = (s.tile t).ops := by rw [State.tile_fetchedT]

theorem State.freeTag_fetchedT : ((s.fetchedT t h w).tile t).freeTag = (s.tile t).freeTag := by
  rw [State.tile_fetchedT]
  rfl

end Fetched

/-! ### Issue checks -/

/-- The causes of failed issue checks are below SVCALL's and BREAK's. -/
theorem planIf_error_lt {l : List (Bool × Nat)} {p : Plan} {c : Nat} (h : planIf l p = .error c) (hall : l.all (fun q => decide (q.2 < cSvcall)) = true) :
    c < cSvcall := by
  unfold planIf at h
  split at h
  · next q hq =>
    rw [← Except.error.inj h]
    exact of_decide_eq_true (List.all_eq_true.mp hall q (List.mem_of_find?_eq_some hq))
  · exact absurd h (by simp)

theorem State.planOf_error_lt {s : State} {t : Fin 8} {op : TOp} {i : TIn} {c : Nat} (h : s.planOf t op i = .error c) : c < cSvcall := by
  cases op
  all_goals exact planIf_error_lt h rfl

/-! ### How an issue ends -/

section Issue
variable {s : State} {t : Fin 8} {a : TArgs} {op : TOp}

/-- An instruction that MAIN issues does what the issue path says, in the fetched state. -/
theorem State.issueT_main (hissues : s.issuesT t) : s.issueT t .main op a =
    (s.fetchedT t 0 (tWord op a)).act t 0 16 1 (tWord op a) ((s.fetchedT t 0 (tWord op a)).issueAct t op a) := by
  obtain ⟨hcan, hfetch, hats, haligned, -⟩ := hissues
  have hmain : thrIx .main = 0 := rfl
  rw [State.issueT, hmain]
  dsimp only
  rw [hcan, hfetch, hats, haligned]
  rfl

/-- MAIN waits while 16 operation traps are pending. -/
theorem State.issueAct_traps (htraps : 16 ≤ (s.tile t).opTraps) : s.issueAct t op a = .wait s .retry := by
  rw [State.issueAct]
  dsimp only
  rw [decide_eq_true htraps, Bool.or_true, Bool.true_or]
  rfl

theorem State.predHolds_iff : s.predHolds t a ↔ ¬ (((s.thr t 0).getP (a.pg.toNat % 8) = true) = (bits a.pg.toNat 3 1 = 1)) := by
  rw [State.predHolds, eq_iff_iff]
  by_cases hneg : bits a.pg.toNat 3 1 = 1
  · simp [hneg]
  · simp [hneg]

section Fetched
variable {w : Nat} (howes : s.threadOwes t 0 = false) (hopen : (s.tile t).issueOpen)
include howes hopen

/-- Nothing holds MAIN before the instruction. -/
theorem State.issueAct_open : (s.fetchedT t 0 w).issueAct t op a =
    if ((s.thr t 0).getP (a.pg.toNat % 8) = true) = (bits a.pg.toNat 3 1 = 1) then
      .next ((s.fetchedT t 0 w).onTile t (fun x => x.signal a.stok.toNat))
    else match (s.fetchedT t 0 w).planOf t op (s.captured t op a) with
      | .error c => .trap c 0
      | .ok p =>
        if op.cls = 7 || op = .syWake then (s.fetchedT t 0 w).ctAct t op (s.captured t op a)
        else match (s.tile t).freeTag with
          | none => .wait (s.fetchedT t 0 w) .noTag
          | some tag => .next ((s.fetchedT t 0 w).takeTag t tag op a (s.thr t 0).pc (s.captured t op a) p none) := by
  obtain ⟨htraps, hstop⟩ := hopen
  have hthr : ((s.fetchedT t 0 w).tile t).thr 0 = s.thr t 0 := State.thr_fetchedT t 0
  rw [State.issueAct]
  dsimp only
  rw [State.threadOwes_fetchedT, howes, State.opTraps_fetchedT, decide_eq_false (by omega), State.nanStopped_fetchedT, hstop, hthr, State.capture_fetchedT,
    State.g_fetchedT, State.g_fetchedT, State.freeTag_fetchedT]
  rfl

/-- A predicated-off instruction signals its token alone. -/
theorem State.issueAct_off (hoff : ¬ s.predHolds t a) :
    (s.fetchedT t 0 w).issueAct t op a = .next ((s.fetchedT t 0 w).onTile t (fun x => x.signal a.stok.toNat)) := by
  rw [State.predHolds_iff, not_not] at hoff
  rw [State.issueAct_open howes hopen, if_pos hoff]

/-- An instruction whose predicate holds is checked. -/
theorem State.issueAct_error (hon : s.predHolds t a) {c : Nat} (hplan : (s.fetchedT t 0 w).planOf t op (s.captured t op a) = .error c) :
    (s.fetchedT t 0 w).issueAct t op a = .trap c 0 := by
  rw [State.issueAct_open howes hopen, if_neg (State.predHolds_iff.mp hon), hplan]

theorem State.issueAct_control (hon : s.predHolds t a) {p : Plan} (hplan : (s.fetchedT t 0 w).planOf t op (s.captured t op a) = .ok p)
    (hcontrol : (op.cls = 7 || op = .syWake) = true) :
    (s.fetchedT t 0 w).issueAct t op a = (s.fetchedT t 0 w).ctAct t op (s.captured t op a) := by
  rw [State.issueAct_open howes hopen, if_neg (State.predHolds_iff.mp hon), hplan]
  exact if_pos hcontrol

theorem State.issueAct_tag (hon : s.predHolds t a) {p : Plan} {tag : Nat} (hplan : (s.fetchedT t 0 w).planOf t op (s.captured t op a) = .ok p)
    (htakes : (op.cls = 7 || op = .syWake) = false) (htag : (s.tile t).freeTag = some tag) :
    (s.fetchedT t 0 w).issueAct t op a = .next ((s.fetchedT t 0 w).takeTag t tag op a (s.thr t 0).pc (s.captured t op a) p none) := by
  rw [State.issueAct_open howes hopen, if_neg (State.predHolds_iff.mp hon), hplan]
  dsimp only
  rw [htakes, htag]
  rfl

end Fetched

/-- What the issue path does, once MAIN goes on. -/
theorem State.tensor_next (hissues : s.issuesT t) {u : State} (hact : (s.fetchedT t 0 (tWord op a)).issueAct t op a = .next u) {c : Instr}
    (hc : exec c s = ok s (s.issueT t .main op a)) : s.gives c (u.retireAt t 0 ((s.thr t 0).pc + 16)) := by
  rw [State.gives, hc, State.issueT_main hissues, hact, State.act, State.thr_fetchedT]
  rfl

theorem State.tensor_wait (hissues : s.issuesT t) {u : State} {w : Wait} (hact : (s.fetchedT t 0 (tWord op a)).issueAct t op a = .wait u w) {c : Instr}
    (hc : exec c s = ok s (s.issueT t .main op a)) : s.gives c (u.onThr t 0 (fun y => { y with st := .stall, wait := w })) := by
  rw [State.gives, hc, State.issueT_main hissues, hact, State.act]
  rfl

end Issue

/-! ### The instructions -/

/-- Settles O10: the issue path's tests in their order. -/
theorem tensorInstructionRejected : Obligations.TensorInstructionRejected := by
  intro p hp t a s w
  refine ⟨fun c hissues hon hopen hplan => ?_, fun hcan hfetch hats hodd => ?_, fun hissues htraps => ?_, fun th hth hcan hsteps hfetch hats haligned => ?_⟩
  · have hlt := State.planOf_error_lt hplan
    rw [State.gives, exec_tensor hp, State.issueT_main hissues, State.issueAct_error hissues.2.2.2.2 hopen hon hplan,
      State.act_trap (by rintro (rfl | rfl) <;> exact absurd hlt (by decide))]
    rfl
  · have hmain : thrIx .main = 0 := rfl
    rw [State.gives, exec_tensor hp, State.issueT, hmain]
    dsimp only
    rw [hcan, hfetch, hats, if_neg (by decide), if_neg (fun h1 => absurd h1.1 (by decide))]
    exact congrArg (ok s) (if_pos hodd)
  · exact State.tensor_wait hissues (State.issueAct_traps (by rwa [State.opTraps_fetchedT])) (exec_tensor hp t .main a s)
  · have hother : thrIx th ≠ 0 := by
      cases th
      · exact absurd rfl hth
      all_goals decide
    have hbound : ¬(thrIx th = 1 ∧ 4096 ≤ (s.thr t (thrIx th)).hsteps) := by
      rintro ⟨h1, hmany⟩
      rw [h1] at hmany
      omega
    rw [State.gives, exec_tensor hp, State.issueT]
    dsimp only
    rw [hcan, hfetch, hats, if_neg (by decide), if_neg hbound]
    exact congrArg (ok s) ((if_neg (not_not.mpr haligned)).trans (if_pos hother))

theorem Tile.signal_eq (x : Tile) (tok : Nat) : x.signal tok = { x with sigDone := if tok = 0 then x.sigDone else x.sigDone ||| BitVec.ofNat 32 (2 ^ tok) } := by
  rw [Tile.signal]
  by_cases htok : tok = 0
  · rw [if_pos htok, if_pos htok]
  · rw [if_neg htok, if_neg htok]

theorem getLsbD_signalled {m : BitVec 32} {tok : Nat} (htok : tok < 32) : (m ||| BitVec.ofNat 32 (2 ^ tok)).getLsbD tok = true := by
  rw [BitVec.getLsbD_or, BitVec.getLsbD_ofNat, Nat.testBit_two_pow_self, decide_eq_true htok, Bool.and_self, Bool.or_true]

/-- What an instruction leaves that only signals its token. -/
theorem State.signalled_leaves (s : State) (t : Fin 8) (w tok : Nat) (htok : tok < 32) :
    let u := ((s.fetchedT t 0 w).onTile t (fun x => x.signal tok)).retireAt t 0 ((s.thr t 0).pc + 16)
    (u.tile t).ops = (s.tile t).ops ∧ (tok ≠ 0 → (u.tile t).sigDone.getLsbD tok = true) ∧
      (u.tile t).nextTag = (s.tile t).nextTag ∧ (u.tile t).opSeq = (s.tile t).opSeq ∧ (u.tile t).dregs = (s.tile t).dregs ∧ (u.thr t 0).g = (s.thr t 0).g ∧
      (u.thr t 0).p = (s.thr t 0).p ∧ (u.thr t 0).pc = ((s.thr t 0).pc + 16) % 2 ^ 48 ∧ u.mem = s.mem ∧ u.hostMem = s.hostMem ∧
      s.reachOnly (s.fetchReach t 0 16) ∧ (∀ v, v ≠ t → u.tile v = (s.fetchReach t 0 16).tile v) := by
  intro u
  have htile : ∃ threads tlb wcache tpc icache, u.tile t = { s.tile t with
      threads := threads, tlb := tlb, wcache := wcache, tpc := tpc, icache := icache
      sigDone := if tok = 0 then (s.tile t).sigDone else (s.tile t).sigDone ||| BitVec.ofNat 32 (2 ^ tok) } := by
    refine ⟨(u.tile t).threads, ((s.fetchedT t 0 w).tile t).tlb, ((s.fetchedT t 0 w).tile t).wcache, ((s.fetchedT t 0 w).tile t).tpc,
      ((s.fetchedT t 0 w).tile t).icache, ?_⟩
    simp only [u, State.retireAt, State.onThr, State.tile_onTile, Tile.signal_eq]
    rw [State.tile_fetchedT]
    rfl
  obtain ⟨threads, tlb, wcache, tpc, icache, htile⟩ := htile
  have hthr : u.thr t 0 = { s.thr t 0 with st := .ready, wait := .none, pc := ((s.thr t 0).pc + 16) % 2 ^ 48, instret := (s.thr t 0).instret + 1 } := by
    have hsame : ((s.fetchedT t 0 w).onTile t (fun x => x.signal tok)).thr t 0 = s.thr t 0 := by
      rw [State.thr, State.tile_onTile, Tile.signal_eq, ← State.thr_fetchedT (w := w) (h := 0) t 0]
      rfl
    simp only [u]
    rw [State.retireAt, State.thr_onThr, hsame]
    rfl
  refine ⟨by rw [htile], fun hne => ?_, by rw [htile], by rw [htile], by rw [htile], by rw [hthr], by rw [hthr], by rw [hthr],
    State.mem_fetchedT (w := w), State.hostMem_fetchedT (w := w), State.reachOnly_fetchReach _ _ _, fun v hv => ?_⟩
  · rw [htile]
    dsimp only
    rw [if_neg hne]
    exact getLsbD_signalled htok
  · simp only [u]
    rw [State.retireAt, State.tile_onThr_ne _ _ hv, State.tile_onTile_ne _ _ hv, State.tile_fetchedT_ne hv]

/-- Settles O11: the issue path signals the token before any check, and retires. -/
theorem predicateOffInstruction : Obligations.PredicateOffInstruction := by
  intro p hp t a s hissues hopen hoff
  have hgives := State.tensor_next hissues (State.issueAct_off (op := p.2) (w := tWord p.2 a) hissues.2.2.2.2 hopen hoff) (exec_tensor hp t .main a s)
  exact ⟨hgives, hgives.next_of (State.signalled_leaves s t (tWord p.2 a) a.stok.toNat a.stok.isLt) fun v q hv => hv⟩

/-- A control operation with legal fields passes its checks. -/
theorem State.planOf_control {s : State} {t : Fin 8} {op : TOp} {i : TIn} (hop : op ∈ [TOp.ctSync, .ctWaittag, .ctTag, .syWake])
    (hlegal : op.ctUse.legal i.a = true) : s.planOf t op i = .ok ⟨[], [], 1⟩ := by
  simp only [List.mem_cons, List.not_mem_nil, or_false] at hop
  have hplan : s.planOf t op i = ctPlan op i ∧ op ≠ .syFence := by
    rcases hop with rfl | rfl | rfl | rfl
    all_goals exact ⟨rfl, nofun⟩
  rw [hplan.1, ctPlan, hlegal, decide_eq_true hplan.2]
  rfl

/-- Settles O12: what each control operation does once its checks pass. -/
theorem controlInstructionResult : Obligations.ControlInstructionResult := by
  intro t a s hissues hon hopen next stall
  have hact : ∀ op ∈ [TOp.ctSync, .ctWaittag, .ctTag, .syWake], op.ctUse.legal a = true →
      (s.fetchedT t 0 (tWord op a)).issueAct t op a = (s.fetchedT t 0 (tWord op a)).ctAct t op (s.captured t op a) := fun op hop hlegal => by
    refine State.issueAct_control hissues.2.2.2.2 hopen hon (State.planOf_control hop hlegal) ?_
    simp only [List.mem_cons, List.not_mem_nil, or_false] at hop
    rcases hop with rfl | rfl | rfl | rfl
    all_goals rfl
  refine ⟨fun hlegal => ⟨fun hnone => ?_, fun hsome => ?_⟩, fun hlegal => ⟨fun hfree => ?_, fun hused => ?_⟩, fun hlegal => ?_, fun hlegal => ?_⟩
  · exact State.tensor_next hissues ((hact _ (by decide) hlegal).trans (if_pos (State.ops_fetchedT.trans hnone))) rfl
  · exact State.tensor_wait hissues ((hact _ (by decide) hlegal).trans (if_neg (by rwa [State.ops_fetchedT]))) rfl
  · refine State.tensor_next hissues ((hact _ (by decide) hlegal).trans (if_pos ?_)) rfl
    rw [State.ops_fetchedT, bits_eq, Nat.pow_zero, Nat.div_one]
    exact Option.isNone_iff_eq_none.mpr hfree
  · refine State.tensor_wait hissues ((hact _ (by decide) hlegal).trans (if_neg ?_)) rfl
    rw [State.ops_fetchedT, bits_eq, Nat.pow_zero, Nat.div_one, Option.isNone_iff_eq_none]
    exact hused
  · refine State.tensor_next hissues ((hact _ (by decide) hlegal).trans ?_) rfl
    have hlast : ((s.fetchedT t 0 (tWord .ctTag a)).tile t).lastTag = (s.tile t).lastTag := by rw [State.tile_fetchedT]
    exact congrArg (fun l => Act.next ((s.fetchedT t 0 (tWord .ctTag a)).setG t 0 a.gb.toNat (BitVec.ofNat 64 l))) hlast
  · exact State.tensor_next hissues (hact _ (by decide) hlegal) rfl

/-! ### Taking a tag -/

section TakeTag
variable {s : State} {t : Fin 8} {tag : Nat} {op : TOp} {a : TArgs} {pc : Nat} {i : TIn} {p : Plan}

/-- The record of an operation that has just issued (R169, R185, R188, R192). -/
def Tile.issuedRec (x : Tile) (tag : Nat) (op : TOp) (a : TArgs) (pc : Nat) (i : TIn) (p : Plan) : OpRec :=
  { op := op, tag := tag, st := .wait, ready := false, seq := x.opSeq, insn := tWord op a, iaddr := pc, d := i.d, ga := i.ga, gb := i.gb
    reads := p.reads, writes := p.writes, deps := x.hazards p none, tdeps := x.tokenDeps op a, stok := a.stok.toNat
    pos := 0, total := p.total, acks := 0, trap := none, trapped := false, status := 0, phase := 0, work := [] }

/-- An operation that issues waits for every unretired one it conflicts with. -/
theorem Tile.seq_mem_hazards {x : Tile} {o : Nat × OpRec} (ho : o ∈ x.ops) (hclash : clash p.reads p.writes o.2.reads o.2.writes = true) :
    o.2.seq ∈ x.hazards p none := by
  refine List.mem_append_left _ (List.mem_map.mpr ⟨o, List.mem_filter.mpr ⟨ho, ?_⟩, rfl⟩)
  rw [hclash]
  rfl

/-- Asking for wakes and translating pages after the issue reaches memory alone. -/
theorem State.reachOnly_wakeAll (r : OpRec) : s.reachOnly (s.wakeAll t r) := State.reachOnly_foldl _ (fun s w => State.reachOnly_raiseWake w s) _ s

/-- What taking a tag leaves. -/
theorem State.takeTag_leaves : let u := s.takeTag t tag op a pc i p none
    (∃ tlb wcache tpc, u.tile t = { s.tile t with
      ops := (s.tile t).ops.put tag ((s.tile t).issuedRec tag op a pc i p), done := (s.tile t).done.erase tag, nextTag := (tag + 1) % 256
      opSeq := (s.tile t).opSeq + 1, lastOp := some ((s.tile t).issuedRec tag op a pc i p), lastTag := tag, rb := (s.tile t).rb.issued op i
      tlb := tlb, wcache := wcache, tpc := tpc }) ∧ u.mem = s.mem ∧ u.hostMem = s.hostMem := by
  intro u
  obtain ⟨y, hy⟩ : ∃ y, y = (s.count F.TSC_CNT_ISSUE_COUNT t.val 1).onTile t (fun x => { x with
      ops := x.ops.put tag ((s.tile t).issuedRec tag op a pc i p), done := x.done.erase tag, nextTag := (tag + 1) % 256, opSeq := x.opSeq + 1
      lastOp := some ((s.tile t).issuedRec tag op a pc i p), lastTag := tag, rb := x.rb.issued op i }) := ⟨_, rfl⟩
  have hu : u = (y.wakeAll t ((s.tile t).issuedRec tag op a pc i p)).touchPages t (ivlPages (p.reads ++ p.writes)) := by rw [hy]; rfl
  have hreach : y.reachOnly u := by
    rw [hu]
    exact State.reachOnly_trans (State.reachOnly_wakeAll _) (State.reachOnly_touchPages _ _)
  refine ⟨⟨(u.tile t).tlb, (u.tile t).wcache, (u.tile t).tpc, ?_⟩, ?_, ?_⟩
  · rw [hreach.2.1 t, hy, State.tile_onTile]
    rfl
  · rw [hreach.1, hy]
    rfl
  · rw [hreach.1, hy]
    rfl

end TakeTag

theorem State.issuedRec_fetchedT {s : State} {t : Fin 8} {w tag pc : Nat} {op : TOp} {a : TArgs} {i : TIn} {p : Plan} :
    ((s.fetchedT t 0 w).tile t).issuedRec tag op a pc i p = (s.tile t).issuedRec tag op a pc i p := by
  rw [State.tile_fetchedT]
  rfl

/-- u is s after an instruction took a tag with a record, and MAIN went on. -/
def State.tookTag (s u : State) (t : Fin 8) (tag next : Nat) (r : OpRec) : Prop :=
  (u.tile t).ops = (s.tile t).ops.put tag r ∧ (u.tile t).opSeq = (s.tile t).opSeq + 1 ∧ (u.tile t).nextTag = (tag + 1) % 256 ∧
    u.thr t 0 = { s.thr t 0 with st := .ready, wait := .none, pc := next % 2 ^ 48, instret := (s.thr t 0).instret + 1 } ∧
    u.mem = s.mem ∧ u.hostMem = s.hostMem

theorem State.tookTag_retire {s y : State} {t : Fin 8} {tag next : Nat} {r : OpRec} (hops : (y.tile t).ops = (s.tile t).ops.put tag r)
    (hseq : (y.tile t).opSeq = (s.tile t).opSeq + 1) (hnext : (y.tile t).nextTag = (tag + 1) % 256) (hthr : y.thr t 0 = s.thr t 0) (hmem : y.mem = s.mem)
    (hhost : y.hostMem = s.hostMem) : s.tookTag (y.retireAt t 0 next) t tag next r := by
  have htile : (y.retireAt t 0 next).tile t = (y.tile t).onThr 0 (fun z => { z with
      st := .ready, wait := .none, pc := next % 2 ^ 48, instret := z.instret + 1, hsteps := if (0 : Fin 4) = 1 then z.hsteps + 1 else z.hsteps }) := by
    rw [State.retireAt, State.onThr, State.tile_onTile]
  refine ⟨?_, ?_, ?_, ?_, hmem, hhost⟩
  · rw [htile]
    exact hops
  · rw [htile]
    exact hseq
  · rw [htile]
    exact hnext
  · rw [State.retireAt, State.thr_onThr, hthr]
    rfl

/-- What an instruction that takes a tag leaves, once MAIN has gone on. -/
theorem State.issued_leaves (s : State) (t : Fin 8) (w tag pc next : Nat) (op : TOp) (a : TArgs) (i : TIn) (p : Plan) :
    s.tookTag (((s.fetchedT t 0 w).takeTag t tag op a pc i p none).retireAt t 0 next) t tag next ((s.tile t).issuedRec tag op a pc i p) := by
  obtain ⟨⟨tlb, wcache, tpc, htile⟩, hmem, hhost⟩ := State.takeTag_leaves (s := s.fetchedT t 0 w) (t := t) (tag := tag) (op := op) (a := a) (pc := pc) (i := i) (p := p)
  have hfetched : ((s.fetchedT t 0 w).tile t).threads = (s.tile t).threads := by rw [State.tile_fetchedT]
  rw [State.issuedRec_fetchedT] at htile
  refine State.tookTag_retire ?_ ?_ ?_ ?_ (hmem.trans State.mem_fetchedT) (hhost.trans State.hostMem_fetchedT)
  · rw [htile]
    dsimp only
    rw [State.ops_fetchedT]
  · rw [htile, State.tile_fetchedT]
  · rw [htile]
  · rw [State.thr, htile, Tile.thr]
    dsimp only
    rw [hfetched]
    rfl

/-- Settles O9: the record that is listed under the tag is the one found there. -/
theorem tensorInstructionIssues : Obligations.TensorInstructionIssues := by
  intro q hq t a s plan tag hissues hon hopen hplan htag
  have hgives := State.tensor_next hissues (State.issueAct_tag hissues.2.2.2.2 hopen hon hplan (tagged_takes_tag hq) htag)
    (exec_tensor (List.mem_append_left _ hq) t .main a s)
  obtain ⟨u, hexec, hops, hseq, hnext, hthr, hmem, hhost⟩ := hgives.next_of (P := fun u => s.tookTag u t tag _ _)
    (State.issued_leaves s t (tWord q.2 a) tag (s.thr t 0).pc ((s.thr t 0).pc + 16) q.2 a (s.captured t q.2 a) plan) fun v p hv => hv
  refine ⟨u, (s.tile t).issuedRec tag q.2 a (s.thr t 0).pc (s.captured t q.2 a) plan, hexec, ?_, rfl, rfl, rfl, rfl, rfl, rfl, rfl, rfl, rfl, rfl, rfl, rfl,
    rfl, rfl, fun o ho hclash => Tile.seq_mem_hazards ho hclash, fun g hg => ?_, hseq, hnext, ?_, ?_, ?_, ?_, hmem, hhost⟩
  · rw [hops, SMap.find_put_same]
  · rw [hops, SMap.find_put_ne _ _ hg]
  all_goals rw [hthr]

end Sys2Proof.Machine
end

section
/-! SUPPORT. Proofs about an operation's life (R187 to R202): leaving WAIT and WAKE, dispatch, acknowledgement and retirement. -/
namespace Sys2Proof.Machine

/-! ### The oldest operation -/

/-- In a map whose keys rise, a listed entry is the one its key finds. -/
theorem SMap.find_of_mem {β : Type} {m : SMap β} {k : Nat} {v : β} (hrise : SMap.risesFrom none m = true) (hmem : (k, v) ∈ m) : m.find? k = some v := by
  induction m with
  | nil => exact absurd hmem List.not_mem_nil
  | cons p m ih =>
    obtain ⟨i, b⟩ := p
    have htail : SMap.risesFrom (some i) m = true := hrise
    rcases List.mem_cons.mp hmem with heq | hin
    · rw [Prod.mk.injEq] at heq
      rw [heq.1, heq.2, SMap.find?, if_pos rfl]
    · have hfound := ih (SMap.rises_none htail) hin
      have hne : k ≠ i := fun hki => by
        rw [SMap.find_none_of_rises htail hki.le] at hfound
        exact absurd hfound nofun
      rw [SMap.find?, if_neg hne, hfound]

theorem SMap.mem_of_find {β : Type} {m : SMap β} {k : Nat} {v : β} (hfound : m.find? k = some v) : (k, v) ∈ m := by
  induction m with
  | nil => exact absurd hfound nofun
  | cons p m ih =>
    obtain ⟨i, b⟩ := p
    rw [SMap.find?] at hfound
    by_cases hki : k = i
    · rw [if_pos hki] at hfound
      rw [hki, Option.some.inj hfound]
      exact List.mem_cons_self
    · rw [if_neg hki] at hfound
      exact List.mem_cons_of_mem _ (ih hfound)

/-- One step of the search for the least sequence number. -/
def older {β : Type} (seq : β → Nat) (b : Option β) (e : β) : Option β :=
  match b with
  | none => some e
  | some q => if seq e < seq q then some e else b

/-- The search keeps the least element once it has it. -/
theorem foldl_older_least {β : Type} {seq : β → Nat} {l : List β} {m : β} (hleast : ∀ o ∈ l, o ≠ m → seq m < seq o) :
    l.foldl (older seq) (some m) = some m := by
  induction l with
  | nil => rfl
  | cons e l ih =>
    have hstep : older seq (some m) e = some m := by
      refine if_neg ?_
      by_cases hem : e = m
      · rw [hem]
        exact lt_irrefl _
      · exact not_lt.mpr (hleast e List.mem_cons_self hem).le
    rw [List.foldl_cons, hstep]
    exact ih fun o ho => hleast o (List.mem_cons_of_mem _ ho)

/-- The search finds the least element of a list that holds it. -/
theorem foldl_older_of_mem {β : Type} {seq : β → Nat} {l : List β} {m : β} {b : Option β} (hmem : m ∈ l) (hleast : ∀ o ∈ l, o ≠ m → seq m < seq o)
    (hb : ∀ q ∈ b, q ≠ m → seq m < seq q) : l.foldl (older seq) b = some m := by
  classical
  induction l generalizing b with
  | nil => exact absurd hmem List.not_mem_nil
  | cons e l ih =>
    rw [List.foldl_cons]
    by_cases hem : e = m
    · have hstep : older seq b e = some m := by
        rw [hem]
        cases b with
        | none => rfl
        | some q =>
          by_cases hqm : q = m
          · rw [hqm, older, if_neg (lt_irrefl _)]
          · exact if_pos (hb q rfl hqm)
      rw [hstep]
      exact foldl_older_least fun o ho => hleast o (List.mem_cons_of_mem _ ho)
    · refine ih ((List.mem_cons.mp hmem).resolve_left fun h => hem h.symm) (fun o ho => hleast o (List.mem_cons_of_mem _ ho)) fun q hq hqm => ?_
      cases b with
      | none => exact Option.some.inj hq ▸ hleast e List.mem_cons_self hem
      | some r =>
        rw [older] at hq
        by_cases hlt : seq e < seq r
        · rw [if_pos hlt] at hq
          exact Option.some.inj hq ▸ hleast e List.mem_cons_self hem
        · rw [if_neg hlt] at hq
          exact hb q hq hqm

/-- The search for the oldest of those that pass a test. -/
theorem Tile.oldest_eq (x : Tile) (p : OpRec → Bool) : x.oldest p = (x.ops.filter (fun e => p e.2)).foldl (older (fun e => e.2.seq)) none := by
  rw [Tile.oldest, List.foldl_filter]
  refine congrArg (fun g => x.ops.foldl g none) (funext fun b => funext fun e => ?_)
  cases b
  all_goals rfl

/-- The oldest operation that passes a test, in a map whose keys rise. -/
theorem Tile.oldest_of_least {x : Tile} {p : OpRec → Bool} {tag : Nat} {r : OpRec} (hrise : SMap.risesFrom none x.ops = true)
    (hfound : x.ops.find? tag = some r) (hp : p r = true) (hleast : ∀ o ∈ x.ops, o.1 ≠ tag → p o.2 = true → r.seq < o.2.seq) :
    x.oldest p = some (tag, r) := by
  rw [Tile.oldest_eq]
  refine foldl_older_of_mem (List.mem_filter.mpr ⟨SMap.mem_of_find hfound, hp⟩) (fun o ho hne => ?_) nofun
  obtain ⟨hin, hpass⟩ := List.mem_filter.mp ho
  refine hleast o hin (fun htag => hne ?_) hpass
  have hsame := SMap.find_of_mem (v := o.2) hrise hin
  rw [htag, hfound] at hsame
  exact Prod.ext htag (Option.some.inj hsame).symm

theorem Tile.oldest_none {x : Tile} {p : OpRec → Bool} (hnone : ∀ o ∈ x.ops, p o.2 = false) : x.oldest p = none := by
  have hempty : x.ops.filter (fun e => p e.2) = [] := List.filter_eq_nil_iff.mpr fun o ho => by rw [hnone o ho]; decide
  rw [Tile.oldest_eq, hempty]
  rfl

/-! ### Wake targets -/

section Targets
variable {s : State} {t : Fin 8} {f : Tile → Tile} (hf : (f (s.tile t)).tlb = (s.tile t).tlb)

theorem State.walkEntry_onTile (level table va : Nat) : (s.onTile t f).walkEntry level table va = s.walkEntry level table va := rfl

theorem State.walkFrom_onTile (va k level table : Nat) : (s.onTile t f).walkFrom va k level table = s.walkFrom va k level table := by
  induction k generalizing level table with
  | zero => rfl
  | succ k ih => simp only [State.walkFrom, State.walkEntry_onTile, ih]

include hf

theorem State.pagePa_onTile (va : Nat) : (s.onTile t f).pagePa t va = s.pagePa t va := by
  have hpage : (s.onTile t f).pageOf t va = s.pageOf t va := by
    simp only [State.pageOf, Tile.tlbHit, State.tile_onTile, hf, State.walkFrom_onTile, State.rd_onTile]
  rw [State.pagePa, hpage, State.rd_onTile, State.pagePa]

/-- A change of a tile that leaves its translations leaves an operation's wake targets. -/
theorem State.wakeTargets_onTile (r : OpRec) : (s.onTile t f).wakeTargets t r = s.wakeTargets t r := by
  have hcross : ∀ pa, (s.onTile t f).crosses (some t) pa = s.crosses (some t) pa := fun _ => rfl
  have hlink : (s.onTile t f).linkTargets t r = s.linkTargets t r := rfl
  simp only [State.wakeTargets, State.pagePa_onTile hf, hcross, hlink]

end Targets

section Wakes
variable {s : State} {t : Fin 8} {r : OpRec}

/-- Nothing is asked of targets that are awake. -/
theorem State.wakeAll_of_awake (hawake : (s.wakeTargets t r).all (fun w => s.awake w) = true) : s.wakeAll t r = s := by
  have hfold : ∀ l : List WakeT, (∀ w ∈ l, s.awake w = true) → l.foldl (fun s w => s.raiseWake w) s = s := fun l hl => by
    induction l with
    | nil => rfl
    | cons w l ih =>
      have hstep : s.raiseWake w = s := if_pos (hl w List.mem_cons_self)
      rw [List.foldl_cons, hstep]
      exact ih fun v hv => hl v (List.mem_cons_of_mem _ hv)
  exact hfold _ (List.all_eq_true.mp hawake)

variable {tag : Nat} (hfound : (s.tile t).ops.find? tag = some r)
include hfound

/-- A change of an operation's record reads what the record was. -/
theorem State.onOp_congr {f g : OpRec → OpRec} (hfg : f r = g r) : s.onOp t tag f = s.onOp t tag g := by
  refine State.onTile_congr ?_
  rw [hfound]
  dsimp only
  rw [hfg]

theorem State.wakeTargets_onOp (f : OpRec → OpRec) (q : OpRec) : (s.onOp t tag f).wakeTargets t q = s.wakeTargets t q :=
  State.wakeTargets_onTile (by rw [hfound]) q

end Wakes

/-! ### How an operation begins -/

section Begins
variable {s : State} {t : Fin 8} {tag : Nat} {r : OpRec} (hfound : (s.tile t).ops.find? tag = some r)
include hfound

/-- An operation that nothing holds leaves WAIT (R190). -/
theorem State.leaveWait_eq (hst : r.st = .wait) (hready : r.ready = false) (hdeps : r.deps = []) (htdeps : r.tdeps = []) (hruns : s.unitsRun t = true) :
    s.leaveWait t tag = (s.onOp t tag (fun r =>
      if r.op = .syNop then r.finished
      else if r.op = .syFence then (if s.fenceHolds t r then r.finished else { r with st := .run })
      else if (s.wakeTargets t r).all (fun w => s.awake w) then { r with ready := true }
      else { r with st := .wake })).wakeAll t r := by
  have hopen : (r.st ≠ .wait || r.ready || r.deps ≠ [] || r.tdeps ≠ [] || !s.unitsRun t) = false := by
    simp [hst, hready, hdeps, htdeps, hruns]
  rw [State.leaveWait, hfound]
  dsimp only
  rw [hopen]
  rfl

end Begins

/-- A unit that runs, without SERIAL, dispatches the oldest ready operation of the class (R196). -/
theorem State.dispatchOp_eq {s : State} {t : Fin 8} {cls : Nat} (hruns : s.unitsRun t = true) (hserial : s.flag F.TSC_CTL_SERIAL t.val = false) :
    s.dispatchOp t cls = match (s.tile t).oldest (fun r => r.dispatchable && decide (r.op.cls = cls)) with
      | some (tag, r) => if r.op.cls = cls then s.enqueue t tag r else s
      | none => s := by
  rw [State.dispatchOp, hruns, hserial]
  rfl

/-- Settles O13: each test of the operation's record, and the oldest of a class. -/
theorem operationBegins : Obligations.OperationBegins := by
  refine ⟨?_, ?_, ?_, ?_⟩
  · intro t tag s r hfound hst hready hdeps htdeps hruns
    have hleave := State.leaveWait_eq hfound hst hready hdeps htdeps hruns
    refine ⟨fun hnop hfence => ⟨fun hawake => ?_, fun hasleep => ?_⟩, fun hop => ?_⟩
    · have hall : ((s.onOp t tag.toNat (fun r => { r with ready := true })).wakeTargets t r).all
          (fun w => (s.onOp t tag.toNat (fun r => { r with ready := true })).awake w) = true := by
        rw [State.wakeTargets_onOp hfound]
        exact hawake
      refine congrArg (fun u : State => ok s u.settle) (hleave.trans ?_)
      rw [State.onOp_congr hfound (g := fun r => { r with ready := true }) (by rw [if_neg hnop, if_neg hfence, if_pos hawake]), State.wakeAll_of_awake hall]
    · refine congrArg (fun u : State => ok s u.settle) (hleave.trans ?_)
      rw [State.onOp_congr hfound (g := fun r => { r with st := .wake }) (by rw [if_neg hnop, if_neg hfence, if_neg (by rw [hasleep]; decide)])]
    · refine congrArg (fun u : State => ok s u.settle) (hleave.trans ?_)
      rw [State.onOp_congr hfound (g := fun r => { r with st := .ack, pos := r.total, acks := 0 }) ?_]
      rcases hop with hnop | ⟨hfence, hholds⟩
      · rw [if_pos hnop]
        rfl
      · rw [if_neg (by rw [hfence]; decide), if_pos hfence, if_pos hholds]
        rfl
  · intro t tag s r hfound hst
    refine ⟨fun hawake => congrArg (ok s) ?_, fun hasleep => congrArg (ok s) ?_⟩
    · rw [hfound]
      exact (if_neg (not_not.mpr hst)).trans (if_pos hawake)
    · rw [hfound]
      exact (if_neg (not_not.mpr hst)).trans (if_neg (by rw [hasleep]; decide))
  · intro t cls s hruns hserial
    refine ⟨fun tag r hfound hdisp hcls hleast hrise => congrArg (fun u : State => ok s u.settle) ?_, fun hnone => congrArg (fun u : State => ok s u.settle) ?_⟩
    · have hold : (s.tile t).oldest (fun r => r.dispatchable && decide (r.op.cls = cls.toNat)) = some (tag, r) := by
        refine Tile.oldest_of_least hrise hfound (by rw [hdisp, decide_eq_true hcls]; rfl) fun o ho hne hpass => ?_
        obtain ⟨hodisp, hocls⟩ := Bool.and_eq_true_iff.mp hpass
        exact hleast o ho hne hodisp (of_decide_eq_true hocls)
      rw [State.dispatchOp_eq hruns hserial, hold]
      exact if_pos hcls
    · have hold : (s.tile t).oldest (fun r => r.dispatchable && decide (r.op.cls = cls.toNat)) = none := by
        refine Tile.oldest_none fun o ho => ?_
        by_cases hodisp : o.2.dispatchable = true
        · rw [decide_eq_false (hnone o ho hodisp), Bool.and_false]
        · rw [Bool.eq_false_iff.mpr hodisp, Bool.false_and]
      rw [State.dispatchOp_eq hruns hserial, hold]
  · intro t cls s hstopped
    refine congrArg (fun u : State => ok s u.settle) ?_
    rw [State.dispatchOp, hstopped]
    rfl

/-! ### How an operation ends -/

section Ends
variable {s : State} {t : Fin 8} {tag : Nat} {r : OpRec} (hfound : (s.tile t).ops.find? tag = some r)
include hfound

/-- The writes of an operation in ACK are acknowledged (R195, R107). -/
theorem State.writeAck_eq (hst : r.st = .ack) (htrap : r.trap = none) (howes : s.opOwes t r.seq = false) :
    s.writeAck t tag = if r.acks = 1 ∧ r.lxDue ∧ s.flag F.RB_CTL_LX_TRAP t.val then
      (s.onOp t tag (fun r => { r with acks := r.acks - 1 })).raiseOp t tag cLongInexact 0 r.lxDesc false
      else s.onOp t tag (fun r => { r with acks := r.acks - 1 }) := by
  have hrun : r.st ≠ .run := by rw [hst]; nofun
  rw [State.writeAck, hfound]
  dsimp only
  rw [howes, htrap, if_neg (by decide), if_neg (fun h => hrun h.2), if_neg (fun h => hrun h.2.1), if_pos hst]

/-- Retirement of an operation whose writes are all acknowledged (R187). -/
theorem State.retireOp_eq (hst : r.st = .ack) (htrap : r.trap = none) : s.retireOp t tag = if r.acks = 0 then
      ((((s.count F.TSC_CNT_RETIRE_COUNT t.val 1).onTile t (fun x => x.retired tag r)).slotsJoin).unitsGo t) else s := by
  rw [State.retireOp, hfound]
  by_cases hacks : r.acks = 0
  · simp [hst, htrap, hacks]
  · simp [hst, htrap, hacks]

end Ends

/-- Entries of a map whose values change by their own. -/
theorem SMap.find_map {β γ : Type} (m : SMap β) (f : β → γ) (k : Nat) : SMap.find? (m.map (fun p => (p.1, f p.2))) k = (m.find? k).map f := by
  induction m with
  | nil => rfl
  | cons p m ih =>
    obtain ⟨i, b⟩ := p
    rw [List.map_cons, SMap.find?, SMap.find?]
    by_cases hki : k = i
    · rw [if_pos hki, if_pos hki]
      rfl
    · rw [if_neg hki, if_neg hki, ih]

/-- The record found under a tag after an operation's is gone. -/
theorem Tile.find_retired (x : Tile) (tag g : Nat) (r : OpRec) : (x.retired tag r).ops.find? g =
    ((x.ops.erase tag).find? g).map (fun q => q.release r.seq (r.trapped && x.holds.any (fun h => decide (h.seq = r.seq)))) := by
  rw [Tile.retired, Tile.signal_eq]
  exact SMap.find_map _ (fun q : OpRec => q.release r.seq (r.trapped && x.holds.any (fun h => decide (h.seq = r.seq)))) g

/-- Settles O14: the acknowledgement's branch, and the records that retirement leaves. -/
theorem operationEnds : Obligations.OperationEnds := by
  refine ⟨fun t tag s r hfound hst htrap => ⟨fun howes => ⟨fun hlx => ?_, fun hlx => ?_⟩, fun hacks => ?_, fun hacks => ?_⟩,
    fun x tag r => ⟨?_, ?_, fun hne hlt => ?_, fun g o hg ho => ?_⟩⟩
  · exact congrArg (fun u : State => ok s (u.unitsGo t).settle) ((State.writeAck_eq hfound hst htrap howes).trans (if_neg hlx))
  · exact congrArg (fun u : State => ok s (u.unitsGo t).settle) ((State.writeAck_eq hfound hst htrap howes).trans (if_pos hlx))
  · exact congrArg (fun u : State => ok s u.settle) ((State.retireOp_eq hfound hst htrap).trans (if_pos hacks))
  · exact congrArg (fun u : State => ok s u.settle) ((State.retireOp_eq hfound hst htrap).trans (if_neg hacks))
  · rw [Tile.find_retired, SMap.find_erase_same]
    rfl
  · rw [Tile.retired, Tile.signal_eq]
    exact SMap.find_put_same _ _ _
  · rw [Tile.retired, Tile.signal_eq]
    dsimp only
    rw [if_neg hne]
    exact getLsbD_signalled hlt
  · refine ⟨o.release r.seq (r.trapped && x.holds.any (fun h => decide (h.seq = r.seq))), ?_, ?_, ?_, ?_⟩
    · rw [Tile.find_retired, SMap.find_erase_ne _ hg, ho]
      rfl
    · simp [OpRec.release]
    · intro htrapped
      simp [OpRec.release, htrapped]
    · intro k hk
      rw [OpRec.release]
      dsimp only
      split
      · rfl
      · simp [hk]

end Sys2Proof.Machine
end

section
/-! SUPPORT. Proofs about the tile's other commands: the progress snapshot (R201), held traps (R178) and the end of a NaN stop (R79). -/
namespace Sys2Proof.Machine

/-- The held traps that there is room for, each with its operation. -/
def Tile.heldTraps (x : Tile) : List (Nat × OpRec × Trap) :=
  x.ops.filterMap (fun p => p.2.trap.bind (fun tr => if x.trapRoom tr.held then some (p.1, p.2, tr) else none))

theorem Tile.heldTrap_eq (x : Tile) : x.heldTrap = x.heldTraps.foldl (older (fun e => e.2.1.seq)) none := by
  rw [Tile.heldTrap]
  refine congrArg (fun g => x.heldTraps.foldl g none) (funext fun b => funext fun e => ?_)
  cases b
  all_goals rfl

theorem Tile.mem_heldTraps {x : Tile} {e : Nat × OpRec × Trap} :
    e ∈ x.heldTraps ↔ (e.1, e.2.1) ∈ x.ops ∧ e.2.1.trap = some e.2.2 ∧ x.trapRoom e.2.2.held = true := by
  obtain ⟨tag, r, tr⟩ := e
  rw [Tile.heldTraps, List.mem_filterMap]
  constructor
  · rintro ⟨⟨g, q⟩, hin, hheld⟩
    obtain ⟨tr', htrap, hroom⟩ := Option.bind_eq_some_iff.mp hheld
    by_cases hr : x.trapRoom tr'.held = true
    · rw [if_pos hr, Option.some.injEq, Prod.mk.injEq, Prod.mk.injEq] at hroom
      obtain ⟨rfl, rfl, rfl⟩ := hroom
      exact ⟨hin, htrap, hr⟩
    · rw [if_neg hr] at hroom
      exact absurd hroom nofun
  · rintro ⟨hin, htrap, hroom⟩
    refine ⟨(tag, r), hin, ?_⟩
    dsimp only at htrap hroom ⊢
    rw [htrap, Option.bind_some, if_pos hroom]

/-- The oldest operation held at its trap raises it when there is room. -/
theorem Tile.heldTrap_of_least {x : Tile} {tag : Nat} {r : OpRec} {tr : Trap} (hrise : SMap.risesFrom none x.ops = true)
    (hfound : x.ops.find? tag = some r) (htrap : r.trap = some tr) (hroom : x.trapRoom tr.held = true)
    (hleast : ∀ o ∈ x.ops, o.1 ≠ tag → ∀ y, o.2.trap = some y → x.trapRoom y.held = true → r.seq < o.2.seq) : x.heldTrap = some (tag, r, tr) := by
  rw [Tile.heldTrap_eq]
  refine foldl_older_of_mem (Tile.mem_heldTraps.mpr ⟨SMap.mem_of_find hfound, htrap, hroom⟩) (fun o ho hne => ?_) (fun q hq => absurd hq (Option.not_mem_none q))
  obtain ⟨g, q, y⟩ := o
  obtain ⟨hin, hheld, hfits⟩ := Tile.mem_heldTraps.mp ho
  refine hleast (g, q) hin (fun hg => hne ?_) y hheld hfits
  have hsame := SMap.find_of_mem hrise hin
  dsimp only at hg hheld hsame
  rw [hg, hfound] at hsame
  obtain rfl := Option.some.inj hsame
  rw [htrap] at hheld
  rw [hg, Option.some.inj hheld]

/-- No held trap is raised while 16 are pending. -/
theorem Tile.heldTrap_full {x : Tile} (hfull : 16 ≤ x.opTraps) : x.heldTrap = none := by
  have hempty : x.heldTraps = [] := List.eq_nil_iff_forall_not_mem.mpr fun e he => by
    obtain ⟨-, -, hroom⟩ := Tile.mem_heldTraps.mp he
    rw [Tile.trapRoom, decide_eq_false (by omega), Bool.false_and] at hroom
    exact Bool.noConfusion hroom
  rw [Tile.heldTrap_eq, hempty]
  rfl

/-- The snapshot of an unretired operation (R201). -/
theorem State.progSel_found {s : State} {t : Fin 8} {tag : Nat} {r : OpRec} (hfound : (s.tile t).ops.find? tag = some r) (hcls : r.op.cls ≠ 6)
    (hop : r.op ≠ .kvSeqset) : s.progSel t tag = s.wrs t.val 0 [(F.TSC_PROG_SEL_TAG, tag), (F.TSC_PROG_POS_POSITION, r.pos),
      (F.TSC_PROG_POS_PERMILLE, min 999 (1000 * r.pos / r.total)), (F.TSC_PROG_TOTAL_TOTAL, r.total), (F.TSC_PROG_INFO_STATE, r.st.code),
      (F.TSC_PROG_INFO_CLASS, r.op.cls), (F.TSC_PROG_INFO_OP, r.op.num), (F.TSC_PROG_INFO_SEQ, r.seq)] := by
  have hshown : r.shown = r.pos := if_neg (by rintro (h | h); exacts [hcls h, hop h])
  rw [State.progSel, hfound]
  dsimp only
  rw [hshown, perMille]

/-- Settles O15: the snapshot of the record, the oldest held trap, and what GO finds. -/
theorem tileCommandResult : Obligations.TileCommandResult := by
  refine ⟨?_, ?_, ?_, ?_, ?_, ?_⟩
  · intro t v s r hruns hfound hcls hop
    have hsel : bits v.toNat 0 8 = v.toNat % 256 := by rw [bits_eq, Nat.pow_zero, Nat.div_one]; rfl
    refine congrArg (ok s) ((if_pos hruns).trans ?_)
    rw [hsel]
    exact State.progSel_found hfound hcls hop
  · intro t v s hstopped
    exact congrArg (ok s) (if_neg (by rw [hstopped]; decide))
  · intro t s tag r tr hfound htrap hroom hrise hleast
    refine congrArg (ok s) ?_
    rw [Tile.heldTrap_of_least hrise hfound htrap hroom hleast]
  · intro t s hfull
    refine congrArg (ok s) ?_
    rw [Tile.heldTrap_full hfull]
  · intro t s hvalid hfen hhalt
    refine congrArg (ok s) ?_
    have hgo : (s.flag F.VSU_NAN_STATUS_VALID t.val || s.flag F.FLT_STATUS_FENSTOP 0 || decide ((s.tile t).halt = .trap)) = false := by
      rw [hvalid, hfen, decide_eq_false (by rw [hhalt]; nofun)]
      rfl
    rw [State.nanResume, hgo, if_neg (by decide)]
    have htile : (((s.wr F.VSU_NAN_STATUS_HALTED t.val 0).wr F.VSU_NAN_STATUS_FEN_STOP t.val 0).tile t).halt = .nan := hhalt
    refine State.onTile_congr ?_
    rw [if_pos htile]
  · intro t s hvalid
    refine congrArg (ok s) ?_
    rw [State.nanResume, hvalid]
    rfl

end Sys2Proof.Machine
end

section
/-! SUPPORT. Proofs about the Reedbed's panels (R84 to R87) and the combiner's rows (R118 to R123). -/
namespace Sys2Proof.Machine

/-! ### Panels -/

section Panels
variable {s : State} {t : Fin 8} {tag : Nat} {r : OpRec}

/-- The next panel is fetched into a free landing slot. -/
theorem State.panelFetch_reads {cs : List (Nat × Nat)} (hruns : s.unitsRun t = true) (hroom : (s.tile t).rb.landing.length < 3)
    (hnext : (s.tile t).nextFetch = some (tag, r)) (hhere : s.opReadsOut t r.seq = false) (hcodes : s.codesOp t r 2 = .ok cs) :
    s.panelFetch t = (s.tookVas t (r.td 2).allCells).onTile t (fun x => { x with
      rb := { x.rb with landing := x.rb.landing ++ [panelOf r.seq (r.td 2) cs] }, ops := x.ops.put tag { r with phase := 1 } }) := by
  have hopen : (!s.unitsRun t || decide (3 ≤ (s.tile t).rb.landing.length)) = false := by rw [hruns, decide_eq_false (by omega)]; rfl
  rw [State.panelFetch, hopen, if_neg (by decide), hnext]
  dsimp only
  rw [hhere, if_neg (by decide), hcodes]
  exact State.onTile_onTile _ t _ _

/-- Nothing is fetched while three panels have landed. -/
theorem State.panelFetch_full (hfull : (s.tile t).rb.landing.length = 3) : s.panelFetch t = s := by
  have hheld : (!s.unitsRun t || decide (3 ≤ (s.tile t).rb.landing.length)) = true := by
    rw [decide_eq_true (by omega : 3 ≤ (s.tile t).rb.landing.length), Bool.or_true]
  rw [State.panelFetch, hheld]
  rfl

/-- The panel the shadow takes next. -/
theorem Tile.firstLanded_eq {x : Tile} (hold : x.oldest OpRec.bringsPanel = some (tag, r)) : x.firstLanded = x.rb.landing.find? (fun p => p.seq = r.seq) := by
  rw [Tile.firstLanded, hold]
  rfl

/-- The head of the Reedbed's order is a pass that has what it reads. -/
theorem State.passStart_eq (hruns : s.unitsRun t = true) (hhead : (s.tile t).rbHead = some (tag, r)) (hop : r.op = .mmPass) (hst : r.st = .queued)
    (hhere : s.opReadsOut t r.seq = false) : s.passStart t = if r.xfb 84 1 = 1 then (s.runPass t tag r).rbRun t
      else match (s.tile t).rb.shadow with
        | none => s
        | some p => if p.seq = r.seq then ((s.onRb t (fun rb => { rb with active := some p, shadow := none })).runPass t tag r).rbRun t else s := by
  have hready : ¬(r.op ≠ .mmPass ∨ r.st ≠ .queued ∨ s.opReadsOut t r.seq = true) := by
    rintro (h | h | h)
    · exact h hop
    · exact h hst
    · rw [hhere] at h
      exact Bool.noConfusion h
  rw [State.passStart, hruns, Bool.not_true, if_neg (by decide), hhead]
  exact if_neg hready

end Panels

/-! ### Combiner rows -/

section Rows
variable {s : State} {n row : Nat} {w : Nat} {root : CombPart}

/-- Once what has arrived is taken in, a group that cannot go on ends. -/
theorem State.combine_ends {st : Nat} (harrived : (s.redArrive n).slotJoin n = s) (hst : s.groupStatus (s.cslot n) = some st) :
    s.combine n row = (s.groupFail n st []).slotJoin n := by
  rw [State.combine, harrived, hst]

/-- Once what has arrived is taken in, the row of a group that can go on is stepped. -/
theorem State.combine_steps (harrived : (s.redArrive n).slotJoin n = s) (hst : s.groupStatus (s.cslot n) = none) :
    s.combine n row = (s.stepRow n row).slotFinish n := by
  rw [State.combine, harrived, hst]

section Status
variable (hrgd : (s.cslot n).rgd = some w) (hfail : (s.cslot n).fail = none) (hclosing : (s.cslot n).closing = false)
include hrgd hfail hclosing

/-- Parts that disagree end the group (R122). -/
theorem State.groupStatus_disagree (hdis : (s.cslot n).disagree (s.rgrpCfg (rgdGroup w)) = true) : s.groupStatus (s.cslot n) = some 0x26 := by
  rw [State.groupStatus, hrgd]
  dsimp only
  rw [hfail, hclosing, if_neg (by decide), if_pos hdis]

/-- The status of a group of one device whose parts agree: RED_ABORT where a tile is lost (R123). -/
theorem State.groupStatus_local (hagree : (s.cslot n).disagree (s.rgrpCfg (rgdGroup w)) = false) (hfen : rgdFen w = false) :
    s.groupStatus (s.cslot n) = if s.tileGone w = true then some 0x27 else none := by
  have hpeers : s.rgdPeers w = [] := by rw [State.rgdPeers, hfen]; rfl
  rw [State.groupStatus, hrgd]
  dsimp only
  rw [hfail, hclosing, if_neg (by decide), hagree, hfen, hpeers]
  simp

end Status

theorem bits_one_cases (n lo : Nat) : bits n lo 1 = 0 ∨ bits n lo 1 = 1 := by
  rw [bits_eq, Nat.pow_one]
  omega

/-- Every tile of the group has its part. -/
theorem CombSlot.full_of_parts {c : CombSlot} (hrgd : c.rgd = some w) (hparts : ∀ u < 8, bits (rgdTiles w) u 1 = 1 → ∃ p ∈ c.parts, p.tile = u) :
    c.full = true := by
  refine List.all_eq_true.mpr fun u hu => ?_
  rw [hrgd, Option.getD_some]
  rcases bits_one_cases (rgdTiles w) u with hzero | hone
  · rw [decide_eq_true hzero, Bool.true_or]
  · obtain ⟨p, hp, htile⟩ := hparts u (List.mem_range.mp hu) hone
    rw [List.any_eq_true.mpr ⟨p, hp, decide_eq_true htile⟩, Bool.or_true]

/-- A row of a group of one device whose parts are all here (R118 to R120). -/
theorem State.stepRow_local (hroot : (s.cslot n).parts.find? (fun p => p.tile = rgdRoot p.rgd) = some root) (hfull : (s.cslot n).full = true)
    (hrow : row < root.m) (hfail : (s.cslot n).fail = none) (hclosing : (s.cslot n).closing = false) (hfen : rgdFen root.rgd = false)
    (hnew : row ∉ (s.cslot n).done) : s.stepRow n row =
      (s.onSlot n (fun c => { c with done := c.done ++ [row] })).rootRow n root row (tileRow (s.cslot n).parts row) := by
  have hopen : (!(s.cslot n).full || decide (root.m ≤ row) || (s.cslot n).fail.isSome || (s.cslot n).closing) = false := by
    rw [hfull, decide_eq_false (by omega), hfail, hclosing]
    rfl
  have hdone : (s.cslot n).done.contains row = false := by simpa using hnew
  rw [State.stepRow, hroot]
  dsimp only
  rw [hopen, if_neg (by decide), hfen, if_neg (by decide), hdone, if_neg (by decide)]

end Rows

/-- Settles O16: each command's branch under the statement's hypotheses. -/
theorem reedbedCommandResult : Obligations.ReedbedCommandResult := by
  refine ⟨⟨?_, ?_, ?_, ?_, ?_⟩, ?_⟩
  · intro t s tag r cs hruns hroom hnext hhere hcodes
    exact congrArg (fun u : State => ok s u.settle) (State.panelFetch_reads hruns hroom hnext hhere hcodes)
  · intro t s hfull
    exact congrArg (fun u : State => ok s u.settle) (State.panelFetch_full hfull)
  · intro t s tag r hruns hshadow hold
    have hopen : (!s.unitsRun t || (s.tile t).rb.shadow.isSome) = false := by rw [hruns, hshadow]; rfl
    refine ⟨fun p hp => congrArg (ok s) ?_, fun hnone => congrArg (ok s) ?_⟩
    · rw [hopen, if_neg (by decide), Tile.firstLanded_eq hold, hp]
      rfl
    · have hmissing : (s.tile t).rb.landing.find? (fun p => p.seq = r.seq) = none := List.find?_eq_none.mpr fun p hp => by simpa using hnone p hp
      rw [hopen, if_neg (by decide), Tile.firstLanded_eq hold, hmissing]
  · intro t s p hshadow
    have hheld : (!s.unitsRun t || (s.tile t).rb.shadow.isSome) = true := by rw [hshadow, Option.isSome_some, Bool.or_true]
    exact congrArg (ok s) (if_pos hheld)
  · intro t s tag r hruns hhead hop hst hhere
    have hstart := State.passStart_eq hruns hhead hop hst hhere
    refine ⟨fun hreuse => ?_, fun p hown hshadow hseq => ?_, fun hown hother => ?_⟩
    · exact congrArg (fun u : State => ok s u.settle) (hstart.trans (if_pos hreuse))
    · refine congrArg (fun u : State => ok s u.settle) (hstart.trans ?_)
      rw [if_neg (by omega), hshadow]
      exact if_pos hseq
    · refine congrArg (fun u : State => ok s u.settle) (hstart.trans ?_)
      rw [if_neg (by omega)]
      cases hshadow : (s.tile t).rb.shadow with
      | none => rfl
      | some p => exact if_neg (hother p hshadow)
  · intro n row s w root harrived hrgd hfail hclosing hroot
    refine ⟨fun hdis => ?_, fun hagree hfen hgone => ?_, fun hagree hfen hkept hrootfen hparts hrow hnew => ?_⟩
    · exact congrArg (fun u : State => ok s u.settle) (State.combine_ends harrived (State.groupStatus_disagree hrgd hfail hclosing hdis))
    · have hst := State.groupStatus_local hrgd hfail hclosing hagree hfen
      rw [if_pos hgone] at hst
      exact congrArg (fun u : State => ok s u.settle) (State.combine_ends harrived hst)
    · have hst := State.groupStatus_local hrgd hfail hclosing hagree hfen
      rw [if_neg (by rw [hkept]; decide)] at hst
      have hstep := State.combine_steps (row := row) harrived hst
      rw [State.stepRow_local hroot (CombSlot.full_of_parts hrgd hparts) hrow hfail hclosing hrootfen hnew] at hstep
      exact congrArg (fun u : State => ok s u.settle) hstep

end Sys2Proof.Machine
end

section
/-! SUPPORT. Proofs about the KVE's walker (R278 to R280). -/
namespace Sys2Proof.Machine

section Walker
variable {s : State} {t : Fin 8} {th : Thr} {w : Nat}

theorem State.kve_fetched (v : Fin 8) : ((s.fetched t th w).tile v).kve = (s.tile v).kve := by rw [State.tile_fetched_eq]

theorem State.dqCount_fetched : ((s.fetched t th w).tile t).dqCount = (s.tile t).dqCount := by
  rw [Tile.dqCount, State.kve_fetched, Tile.dqCount]

/-- What KV.EMIT does once its word is fetched. -/
def State.kvEmitAct (s : State) (t : Fin 8) (th : Thr) (a : RArgs) (w : Nat) : Act :=
  Act.ifLegal (a.gd.toNat = 0 && a.x.toNat = 0 && th = .walk && !(s.tile t).kve.ended)
    (if 32 ≤ (s.tile t).dqCount then .wait (s.fetched t th w) .retry
     else .next (((s.fetched t th w).kvAccept t ((s.ga t th a.ga).toNat + (s.g t (thrIx th) a.gb.toNat).toNat * 2 ^ 64)).kvRun t))

theorem State.kvEmit_gives {a : RArgs} (hissues : s.issues t th) : s.gives (.kvEmit t th a)
    ((s.fetched t th (rWord clsThr 11 a)).act t (thrIx th) 4 0 (rWord clsThr 11 a) (s.kvEmitAct t th a (rWord clsThr 11 a))).settle := by
  refine congrArg (fun u : State => ok s u.settle) ?_
  rw [State.thrInsn, State.scalar_issues hissues, State.kve_fetched, State.dqCount_fetched, State.ga_fetched, State.g_fetched, State.kvEmitAct]

theorem State.kvEmitAct_legal {a : RArgs} (hgd : a.gd = 0) (hx : a.x = 0) (hended : (s.tile t).kve.ended = false) : s.kvEmitAct t .walk a w =
    if 32 ≤ (s.tile t).dqCount then .wait (s.fetched t .walk w) .retry
    else .next (((s.fetched t .walk w).kvAccept t ((s.g t 2 a.ga.toNat).toNat + (s.g t 2 a.gb.toNat).toNat * 2 ^ 64)).kvRun t) := by
  rw [State.kvEmitAct, hgd, hx, hended]
  rfl

/-- Settles O17: the request's start, and each way KV.EMIT can end. -/
theorem walkerResult : Obligations.WalkerResult := by
  refine ⟨?_, ?_, ?_, ?_⟩
  · intro t s q rest hqueue hruns hcur hgot hidle
    have hopen : (!s.tileRuns t || (s.tile t).kve.cur.isSome || decide ((s.tile t).kve.got ≠ []) || decide (((s.tile t).thr 2).st ≠ .idle)) = false := by
      have hst : ((s.tile t).thr 2).st = .idle := hidle
      rw [hruns, hcur, hgot, hst]
      rfl
    refine congrArg (ok s) ?_
    rw [State.walkRequest, hqueue]
    dsimp only
    rw [hopen]
    rfl
  · intro t s hbusy
    refine congrArg (ok s) ?_
    rw [State.walkRequest]
    dsimp only
    split
    · rfl
    · have hheld : decide (((s.tile t).thr 2).st ≠ .idle) = true := decide_eq_true hbusy
      rw [hheld, Bool.or_true]
      rfl
  · intro t a s hissues hgd hx hended
    have hgives := State.kvEmit_gives (a := a) hissues
    rw [State.kvEmitAct_legal hgd hx hended] at hgives
    refine ⟨fun hroom => ⟨rWord clsThr 11 a, ?_⟩, fun hfull => ⟨rWord clsThr 11 a, ?_⟩⟩
    · rw [if_neg (by omega), State.act, State.thr_fetched] at hgives
      exact hgives
    · rw [if_pos hfull] at hgives
      exact hgives
  · intro t th a s hissues hth
    have hgives := State.kvEmit_gives (a := a) hissues
    rw [State.kvEmitAct, decide_eq_false hth, Bool.and_false, Bool.false_and, Act.ifLegal, if_neg (by decide), State.act_trap (by decide)] at hgives
    exact ⟨rWord clsThr 11 a, hgives⟩

end Walker
end Sys2Proof.Machine
end

section
/-! SUPPORT. Proofs about the memories' commands (R213, R214, R235) and the TMU's walks and invalidation (R217, R221, R223). -/
namespace Sys2Proof.Machine

/-! ### Memory commands -/

section Memory
variable {s : State} {pa : Nat}

theorem State.memoryAt_on (hdevice : (s.region pa).isDevice = true) (hon : s.memOff pa = false) : s.memoryAt pa = some (s.region pa) := by
  rw [State.memoryAt]
  exact if_pos ⟨hdevice, by rw [hon]; rfl⟩

theorem State.memoryAt_off (hoff : s.memOff pa = true) : s.memoryAt pa = none := by
  rw [State.memoryAt]
  exact if_neg fun h => by rw [hoff] at h; exact Bool.noConfusion h.2

/-- No check of a partly covered granule finds anything. -/
theorem State.writeErrs_nil (r : Region) (l : List (Nat × Nat)) : s.writeErrs r l [] = s := by
  induction l with
  | nil => rfl
  | cons p l ih =>
    have hnone : (if p.2 = 32 then s else s.memErr r p.1 .none) = s := by
      by_cases hp : p.2 = 32
      · exact if_pos hp
      · exact if_neg hp
    rw [State.writeErrs]
    exact (congrArg (fun u : State => u.writeErrs r l []) hnone).trans ih

/-- A place in a rank's window is aligned as its offset is. -/
theorem InWindow.mod_32 {d off : Nat} (h : InWindow pa d off) : off % 32 = pa % 32 := by
  obtain ⟨-, -, hpa⟩ := h
  omega

theorem State.localise_mod_32 (hdevice : (s.region pa).isDevice = true) : s.localise pa % 32 = pa % 32 := by
  rcases State.device_address hdevice with hlow | ⟨off, -, hwin⟩
  · rw [State.localise_of_lt (by omega)]
  · rw [State.localise_window hwin, hwin.mod_32]

/-- A memory other than a stack counts no bytes written. -/
theorem State.gaveBytes_of_not_hbm {n : Nat} (hnot : ∀ k o, s.region pa ≠ .hbm k o) : s.gaveBytes pa n = s := by
  unfold State.gaveBytes
  split
  · next k o ho => exact absurd ho (hnot k o)
  · rfl

/-- A write of whole granules of a memory that no checkpoint holds (R214). -/
theorem State.memoryWrite_granules {data : List Byte} (hdevice : (s.region pa).isDevice = true) (hnot : ∀ k o, s.region pa ≠ .hbm k o)
    (hon : s.memOff pa = false) (hgate : s.gate pa = .pass) (hpos : 0 < data.length) (hline : pa % 256 + data.length ≤ 256) :
    s.gives (.memoryWrite pa data []) { s with mem := s.mem.setBytes (s.localise pa) data, poison := poisonLeft s.poison (s.localise pa) data.length } := by
  refine congrArg (ok s) ?_
  rw [State.memoryAt_on hdevice hon]
  dsimp only
  rw [if_pos (by omega), State.writeErrs_nil, State.writeBytes_device hdevice hgate (by omega), State.gaveBytes_of_not_hbm hnot]

/-- An atomic on a memory that no checkpoint holds (R235). -/
theorem State.memoryAtomic_leaves {op : AmoOp} {x y : BitVec 64} (hdevice : (s.region pa).isDevice = true) (hon : s.memOff pa = false)
    (hgate : s.gate pa = .pass) (hal : pa % 8 = 0) (hclean : s.isPoison pa = false) : s.gives (.memoryAtomic pa op x y)
      { (s.tookBytes pa 8).gaveBytes pa 8 with
        mem := s.mem.setBytes (s.localise pa) (leBytes 8 (amoNew op (s.readNat 0 pa 8) x.toNat y.toNat)) } := by
  have hnear : s.Near (s.tookBytes pa 8) := .tookBytes s pa 8
  have hopen : ¬(pa % 8 ≠ 0 ∨ s.isPoison pa = true ∨ s.gate pa = .hold) := by
    rintro (h | h | h)
    · exact h hal
    · rw [hclean] at h
      exact Bool.noConfusion h
    · rw [hgate] at h
      exact Gate.noConfusion h
  have hpoison : ((s.tookBytes pa 8).gaveBytes pa 8).poison = s.poison := (hnear.trans (.gaveBytes _ _ _)).poison
  refine congrArg (ok s) ?_
  rw [State.memoryAt_on hdevice hon]
  dsimp only
  rw [if_neg hopen, State.writeNat, State.writeBytes_device (by rwa [hnear.region]) (by rwa [hnear.gate]) (by rw [length_leBytes]; decide), length_leBytes,
    hnear.mem, hnear.localise, hnear.poison, poisonLeft_short (by decide), ← hpoison]

/-- The four operations' values, for an atomic of any old value. -/
theorem amoNew_of_mem {old x y : Nat} {p : AmoOp × Nat}
    (hp : p ∈ [(AmoOp.add, (old + x) % 2 ^ 64), (.swap, x), (.cas, if old = x then y else old), (.max, max old x)]) : amoNew p.1 old x y = p.2 := by
  simp only [List.mem_cons, List.not_mem_nil, or_false] at hp
  rcases hp with rfl | rfl | rfl | rfl
  all_goals rfl

end Memory

/-! ### Walks -/

section Walks
variable {s : State} {t : Fin 8} {i : Nat} {w : Walk}

/-- Waiters that try again change their threads alone. -/
theorem Tile.walkDone_eq (x : Tile) (ws : List (Nat × Nat × Bool)) : ∃ f, x.walkDone ws = { x with threads := f } := by
  rw [Tile.walkDone]
  induction ws generalizing x with
  | nil => exact ⟨x.threads, rfl⟩
  | cons v ws ih =>
    rw [List.foldl_cons]
    dsimp only
    by_cases hv : (x.thr ⟨v.1 % 4, Nat.mod_lt _ (by decide)⟩).wait = .walk
    · rw [if_pos hv]
      obtain ⟨f, hf⟩ := ih (x.onThr ⟨v.1 % 4, Nat.mod_lt _ (by decide)⟩ fun y => { y with wait := .retry })
      exact ⟨f, hf⟩
    · rw [if_neg hv]
      exact ih x

theorem mem_keepLast_append {α : Type} {n : Nat} (hn : 0 < n) (l : List α) (e : α) : e ∈ keepLast n (l ++ [e]) := by
  rw [keepLast, List.length_append, List.length_singleton, List.drop_append_of_le_length (by omega)]
  exact List.mem_append_right _ (List.mem_singleton.mpr rfl)

/-- The newest entry is among the TLB's 2048. -/
theorem mem_keepLast_tlb (l : List TlbEnt) (e : TlbEnt) : e ∈ keepLast 2048 (l ++ [e]) :=
  mem_keepLast_append (Nat.succ_pos _) l e

/-- The entry of a leaf translates the address whose walk it ends. -/
theorem tlbEnt_covers (va lg : Nat) : va / 2 ^ lg * 2 ^ lg / 2 ^ lg = va / 2 ^ lg := Nat.mul_div_cancel _ (Nat.two_pow_pos lg)

theorem Tile.tlbHit_of_mem {x : Tile} {l : List TlbEnt} {e : TlbEnt} {va : Nat} (hl : x.tlb = l) (he : e ∈ l) (hcovers : e.va / 2 ^ e.lg = va / 2 ^ e.lg) : x.tlbHit va ≠ none := by
  rw [Tile.tlbHit, ne_eq, List.find?_eq_none]
  exact fun h => h e (hl ▸ he) (decide_eq_true hcovers)

theorem State.walk_down {l tb : Nat} (hw : (s.tile t).walks[i]? = some w) (hdown : s.walkEntry w.level w.table w.va = .down l tb) :
    s.gives (.walkEntryReturn t i) ((s.count F.TMU_CNT_WALK_COUNT t.val (s.walkReads w.level w.table w.va)).onTile t fun x => { x with
      wcache := keepLast 64 (x.wcache ++ [⟨w.level, w.va, tb⟩])
      walks := x.walks.modify i (fun w => { w with level := l, table := tb }) }) := by
  refine congrArg (ok s) ?_
  rw [hw]
  dsimp only
  rw [hdown]

theorem State.walk_fails {e : MFault} (hw : (s.tile t).walks[i]? = some w) (hfail : s.walkEntry w.level w.table w.va = .fail e) :
    s.gives (.walkEntryReturn t i) (((s.count F.TMU_CNT_WALK_COUNT t.val (s.walkReads w.level w.table w.va)).onTile t fun x =>
      { x with walks := x.walks.eraseIdx i }).walkFault t e w.waiters) := by
  refine congrArg (ok s) ?_
  rw [hw]
  dsimp only
  rw [hfail]

/-- A walk that found its leaf leaves the translation in the TLB (R217). -/
theorem State.walk_leaf {l : Leaf} (hw : (s.tile t).walks[i]? = some w) (hleaf : s.walkEntry w.level w.table w.va = .leaf l) :
    let s1 := s.count F.TMU_CNT_WALK_COUNT t.val (s.walkReads w.level w.table w.va)
    ∃ u, exec (.walkEntryReturn t i) s = .next u ∧ (u.tile t).tlbHit w.va ≠ none ∧ (u.tile t).walks = (s.tile t).walks.eraseIdx i ∧
      (u.tile t).tlb = keepLast 2048 ((s.tile t).tlb ++ [⟨w.va / 2 ^ l.lg * 2 ^ l.lg, l.lg, l.pa, l.r, l.w, l.x⟩]) ∧ u.regs = s1.regs ∧ u.mem = s.mem := by
  intro s1
  let e : TlbEnt := ⟨w.va / 2 ^ l.lg * 2 ^ l.lg, l.lg, l.pa, l.r, l.w, l.x⟩
  have hmem := mem_keepLast_tlb (s.tile t).tlb e
  let x : Tile := { s.tile t with walks := (s.tile t).walks.eraseIdx i, tlb := keepLast 2048 ((s.tile t).tlb ++ [e]) }
  obtain ⟨f, hf⟩ := x.walkDone_eq w.waiters
  have hgives : s.gives (.walkEntryReturn t i) (s1.onTile t fun _ => { x with threads := f }) := by
    refine congrArg (ok s) ?_
    rw [hw]
    dsimp only
    rw [hleaf]
    dsimp only
    rw [State.onTile_onTile]
    exact State.onTile_congr hf
  have htlb : ((s1.onTile t fun _ => { x with threads := f }).tile t).tlb = keepLast 2048 ((s.tile t).tlb ++ [e]) := by
    rw [State.tile_onTile]
  refine hgives.next_of ⟨Tile.tlbHit_of_mem htlb hmem (tlbEnt_covers w.va l.lg), ?_, htlb, rfl, rfl⟩ fun _ _ h => h
  rw [State.tile_onTile]

end Walks

/-! ### Invalidation -/

section Invalidate
variable {s : State} {t : Fin 8}

theorem bits_low_of_halves (hi lo : BitVec 32) : bits (lo.toNat + hi.toNat * 2 ^ 32) 0 1 = lo.toNat % 2 := by
  rw [bits_eq]
  omega

/-- An invalidation that starts removes what its scope covers (R223). -/
theorem State.tmuInv_starts {hi lo : BitVec 32} (hruns : s.unitsRun t = true) (hidle : s.flag F.TMU_INV_STATUS_BUSY t.val = false) :
    ∃ u, exec (.tmuInv t hi (some lo)) s = .next u ∧ u.flag F.TMU_INV_STATUS_BUSY t.val = true ∧ u.mem = s.mem ∧
      (lo.toNat % 2 = 0 → (u.tile t).tlb = []) ∧
      (lo.toNat % 2 = 1 → ∀ e, e ∈ (u.tile t).tlb ↔ e ∈ (s.tile t).tlb ∧
        overlap e.va (2 ^ e.lg) (bits (lo.toNat + hi.toNat * 2 ^ 32) 12 36 * 4096) (s.rd F.TMU_INV_LEN_PAGES t.val * 4096) = false) := by
  let v : InvScope := ⟨bits (lo.toNat + hi.toNat * 2 ^ 32) 0 1 = 0, bits (lo.toNat + hi.toNat * 2 ^ 32) 12 36 * 4096, s.rd F.TMU_INV_LEN_PAGES t.val * 4096⟩
  have hgives : s.gives (.tmuInv t hi (some lo)) (((s.wr F.TMU_INV_STATUS_BUSY t.val 1).onTile t fun x =>
      { x.invalidate v (s.rd F.TMU_ROOT_PA t.val * 4096) with invWait := s.invAccesses t v }).onTile t fun x => { x with invHeld := lo.toNat }) := by
    refine congrArg (ok s) ((if_pos hruns).trans ?_)
    dsimp only
    rw [State.tmuInv, if_neg (by rw [hidle]; decide)]
  have htlb : ∀ y : Tile, (y.invalidate v (s.rd F.TMU_ROOT_PA t.val * 4096)).tlb = y.tlb.filter fun e => !v.hits e.va (2 ^ e.lg) := fun _ => rfl
  have hall : v.all = decide (lo.toNat % 2 = 0) := congrArg (fun n => decide (n = 0)) (bits_low_of_halves hi lo)
  refine hgives.next_of ⟨?_, rfl, fun heven => ?_, fun hodd e => ?_⟩ fun _ _ h => h
  · exact decide_eq_true (by rw [State.rd_onTile, State.rd_onTile, State.rd_wr_same]; decide)
  · rw [State.tile_onTile, State.tile_onTile]
    dsimp only
    rw [htlb]
    exact List.filter_eq_nil_iff.mpr fun e _ => by simp [InvScope.hits, hall, heven]
  · rw [State.tile_onTile, State.tile_onTile]
    dsimp only
    rw [htlb, List.mem_filter, State.tile_wr, InvScope.hits, hall, hodd]
    simp [v]

end Invalidate

/-- Settles O18: each memory command's branch under the statement's hypotheses, and what a walk's step and an invalidation leave of the TLB. -/
theorem memoryAndTranslationResult : Obligations.MemoryAndTranslationResult := by
  refine ⟨⟨?_, ?_, ?_, ?_, ?_⟩, ?_, ?_, ?_, ?_, ?_⟩
  · intro pa s t hregion hon
    have hat : s.memoryAt pa = some (.peat t) := (State.memoryAt_on (by rw [hregion]; rfl) hon).trans (congrArg some hregion)
    have htook : s.tookBytes pa 32 = s := by rw [State.tookBytes, hregion]
    refine ⟨congrArg (ok s) ?_, congrArg (ok s) ?_, congrArg (ok s) ?_, congrArg (ok s) ?_⟩
    all_goals rw [hat]
    all_goals dsimp only
    · rw [htook]; rfl
    · rw [htook]; rfl
    · rw [htook]; rfl
    · rfl
  · intro pa s k off hregion hon
    have hat : s.memoryAt pa = some (.hbm k off) := (State.memoryAt_on (by rw [hregion]; rfl) hon).trans (congrArg some hregion)
    refine ⟨congrArg (ok s) ?_, fun hscrub => congrArg (ok s) ?_, fun hscrub e => congrArg (ok s) ?_⟩
    all_goals rw [hat]
    all_goals dsimp only
    · rw [State.tookBytes, hregion]; rfl
    · rw [if_pos hscrub]; rfl
    · rw [if_neg (by rw [hscrub]; decide)]
  · intro pa s hoff
    refine ⟨fun e => congrArg (ok s) ?_, fun d e => congrArg (ok s) ?_, fun o x y => congrArg (ok s) ?_⟩
    all_goals rw [State.memoryAt_off hoff]
  · intro pa data s hdevice hnot hon hgate hal hwhole hpos hline
    refine ⟨_, _, State.memoryWrite_granules hdevice hnot hon hgate hpos hline, fun i hi => ?_, fun k hk => ?_, fun g => ?_⟩
    · rw [SMap.getD_setBytes, if_pos (by omega), Nat.add_sub_cancel_left]
    · rw [SMap.getD_setBytes, if_neg (by omega)]
    · have hmod := State.localise_mod_32 hdevice
      rw [mem_poisonLeft]
      refine and_congr_right fun _ => ?_
      omega
  · intro pa x y s hdevice hon hgate hal hclean old r p hp
    refine ⟨_, ?_, SMap.getD_setBytes_leBytes s.mem (s.localise pa) 8 p.2⟩
    rw [← amoNew_of_mem (y := y.toNat) hp]
    exact State.memoryAtomic_leaves hdevice hon hgate hal hclean
  · intro t i s w hw
    exact ⟨fun l tb hdown => State.walk_down hw hdown, fun l hleaf => State.walk_leaf hw hleaf, fun e hfail => State.walk_fails hw hfail⟩
  · intro t hi lo s hruns hbusy
    refine congrArg (ok s) ((if_pos hruns).trans ?_)
    dsimp only
    rw [State.tmuInv, if_pos hbusy]
  · intro t hi lo s hruns hbusy
    exact State.tmuInv_starts hruns hbusy
  · intro t s hdone
    have hnone : (s.tile t).invWait.any (fun w => s.invOpen t w) = false := List.any_eq_false.mpr fun w hw => by rw [hdone w hw]; decide
    exact congrArg (ok s) (if_neg (by rw [hnone]; decide))
  · intro t s w hw hopen
    exact congrArg (ok s) (if_pos (List.any_eq_true.mpr ⟨w, hw, hopen⟩))

end Sys2Proof.Machine
end

section
/-! SUPPORT. Proofs about the TDM's descriptors (R225 to R228). -/
namespace Sys2Proof.Machine

/-! ### Requests and translations asked for leave the tiles -/

section Tiles
variable (s : State)

@[simp] theorem State.tiles_onPort (p : Nat) (f : Port → Port) : (s.onPort p f).tiles = s.tiles := rfl

@[simp] theorem State.tiles_sendPkt (k : Pkt) (vc d : Nat) (poison : Bool) : (s.sendPkt k vc d poison).tiles = s.tiles := by
  rw [State.sendPkt]
  split
  · rfl
  · split
    · rfl
    · rfl

@[simp] theorem State.tiles_request (r : RemReq) : (s.request r).tiles = s.tiles := by
  rw [State.request]
  split
  · rfl
  · exact State.tiles_sendPkt _ _ _ _ _

@[simp] theorem State.tiles_atsAsk (f pa : Nat) : (s.atsAsk f pa).tiles = s.tiles := by
  rw [State.atsAsk]
  split
  · split
    · rfl
    · rfl
  · rfl

@[simp] theorem State.tiles_atsAsks (f : Nat) (l : List Nat) : (s.atsAsks f l).tiles = s.tiles := by
  rw [State.atsAsks]
  split
  · exact foldl_keeps (P := fun u : State => u.tiles = s.tiles) (fun u a hu => (State.tiles_atsAsk u f a).trans hu) rfl
  · rfl

/-- Asking for a block changes no tile. -/
@[simp] theorem State.tiles_askBlock (t : Fin 8) (d : TdmDesc) (b : Nat) : (s.askBlock t d b).tiles = s.tiles := by
  rw [State.askBlock]
  refine foldl_keeps (P := fun u : State => u.tiles = s.tiles) (fun u c hu => ?_) ?_
  rotate_left
  · split
    · exact State.tiles_atsAsks s _ _
    · rfl
  · split
    · split
      · exact (State.tiles_request u _).trans hu
      · exact hu
    · exact hu

theorem State.tile_askBlock (t : Fin 8) (d : TdmDesc) (b : Nat) : (s.askBlock t d b).tile t = s.tile t := by
  rw [State.tile, State.tile]
  exact congrArg (fun v => v[t]) (State.tiles_askBlock s t d b)

end Tiles

/-! ### Descriptors -/

section Descriptors
variable {s : State} {t : Fin 8} {d : TdmDesc}

/-- A replaced descriptor is found in its place. -/
theorem Tile.desc_putDesc {x : Tile} {e : TdmDesc} (h : x.desc d.id = some e) : (x.putDesc d).desc d.id = some d := by
  have hid : e.id = d.id := of_decide_eq_true (List.find?_some (p := fun e : TdmDesc => decide (e.id = d.id)) h)
  have hsame : (fun e : TdmDesc => decide (e.id = d.id)) ∘ (fun e => if e.id = d.id then d else e) = fun e => decide (e.id = d.id) := by
    funext e
    by_cases he : e.id = d.id
    · simp [he]
    · simp [he]
  rw [Tile.desc] at h
  rw [Tile.putDesc, Tile.desc, List.find?_map, hsame, h, Option.map_some, if_pos hid]

/-- After a descriptor is replaced, only the new one has its name. -/
theorem Tile.eq_of_desc_putDesc {x : Tile} {e : TdmDesc} (h : (x.putDesc d).desc d.id = some e) : e = d := by
  have hid : e.id = d.id := of_decide_eq_true (List.find?_some (p := fun e : TdmDesc => decide (e.id = d.id)) h)
  obtain ⟨e', -, he'⟩ := List.mem_map.mp (List.mem_of_find?_eq_some h)
  by_cases hd : e'.id = d.id
  · rw [if_pos hd] at he'
    exact he'.symm
  · rw [if_neg hd] at he'
    exact absurd (he' ▸ hid) hd

/-- Latching a failure writes registers alone. -/
theorem State.tdmErr_eq (cause addr : Nat) (phys : Bool) : ∃ m, s.tdmErr t d cause addr phys = { s with regs := m } := by
  rw [State.tdmErr]
  split
  · exact ⟨_, rfl⟩
  · exact ⟨_, rfl⟩

/-- A block of a descriptor that is no checkpoint's tells no job. -/
theorem State.ckLanded_of_not_ck (h : ∀ b, d.owner ≠ .ck b) : s.ckLanded d = s := by
  rw [State.ckLanded]
  split
  · next k _ ho => exact absurd ho (h (some k))
  · rfl

/-- A descriptor of the tile's own starts while the tile runs (R225). -/
theorem State.descriptor_starts (hd : (s.tile t).desc d.id = some d) (hown : ∀ b, d.owner ≠ .ck b) (hruns : s.unitsRun t = true) :
    s.gives (.tdmDescriptorStart t d.id) (s.descStart t d.id) := by
  refine congrArg (ok s) ?_
  rw [hd]
  dsimp only
  split
  · next b ho => exact absurd ho (hown b)
  · exact if_pos (by rw [State.tdmRuns, hruns]; rfl)

theorem State.descriptor_started (hd : (s.tile t).desc d.id = some d) (hown : ∀ b, d.owner ≠ .ck b) (hstarted : d.started = true) :
    s.gives (.tdmDescriptorStart t d.id) s := by
  have hsame : s.descStart t d.id = s := by
    rw [State.descStart, hd]
    exact if_pos (by rw [hstarted]; rfl)
  refine congrArg (ok s) ?_
  rw [hd]
  dsimp only
  split
  · next b ho => exact absurd ho (hown b)
  · rw [hsame]
    split
    · rfl
    · rfl

/-- The conditions under which a block that has been read is looked at. -/
structure State.LandsBlock (s : State) (t : Fin 8) (d : TdmDesc) : Prop where
  found : (s.tile t).desc d.id = some d
  started : d.started = true
  sound : d.failed = none
  whole : d.bad = none
  more : d.landed < d.blocks
  read : s.readsOut t d.id = false
  translated : s.blockAts t d d.landed = false
  first : (s.tile t).before d = []

theorem State.LandsBlock.landed (h : s.LandsBlock t d) : s.blockLanded t d.id =
    match lowestFault (s.blockFaults t d d.landed) with
    | some (a, phys, wr, f) =>
      (if phys then s else s.tmuRecord t f a wr false true (match d.owner with
        | .mv seq => ((s.tile t).tagOf seq).getD 0 | _ => 0)).tdmFail t d f.tdmCause a phys
    | none =>
      let n := min 65536 (d.bytes - d.landed * 65536)
      let s1 := ((((s.tookBlock t d d.landed).blockWrites t d)).tdmBytes t d.engine n).mvProgress t d n
      let d1 := { d with landed := d.landed + 1 }
      (s1.onTile t (fun x => x.putDesc d1)).askBlock t d1 d1.landed := by
  obtain ⟨hd, hstarted, hfailed, hbad, hmore, hread, hats, hfirst⟩ := h
  have hopen : ¬(!d.started || d.failed.isSome || d.bad.isSome || d.blocks ≤ d.landed || s.readsOut t d.id || s.blockAts t d d.landed ||
      ((s.tile t).before d).any (fun e => e.failed.isNone && e.landed < e.blocks)) = true := by
    rw [hstarted, hfailed, hbad, hread, hats, hfirst]
    simpa using hmore
  rw [State.blockLanded, hd]
  exact if_neg hopen

/-- A block that faults at a physical address fails its descriptor, and nothing of it is written (R227). -/
theorem State.LandsBlock.fails (h : s.LandsBlock t d) {a : Nat} {phys wr : Bool} {f : MFault}
    (hfault : lowestFault (s.blockFaults t d d.landed) = some (a, phys, wr, f)) (hphys : phys = true) :
    ∃ u, exec (.tdmBlockLanded t d.id) s = .next u ∧ u.mem = s.mem ∧ u.hostMem = s.hostMem ∧
      ∃ e, (u.tile t).desc d.id = some e ∧ e.failed = some f.tdmCause ∧ e.failAt = a ∧ e.landed = d.landed := by
  obtain ⟨m, hm⟩ := State.tdmErr_eq (s := s) (t := t) (d := d) f.tdmCause a phys
  let e : TdmDesc := { d with failed := some f.tdmCause, failAt := a }
  have hblock : s.blockLanded t d.id = ({ s with regs := m } : State).onTile t fun x => x.putDesc e := by
    rw [h.landed, hfault]
    dsimp only
    rw [if_pos hphys, State.tdmFail, hm]
  have hfound : ((({ s with regs := m } : State).onTile t fun x => x.putDesc e).tile t).desc d.id = some e := by
    rw [State.tile_onTile]
    exact Tile.desc_putDesc (d := e) h.found
  have hgives : s.gives (.tdmBlockLanded t d.id) (({ s with regs := m } : State).onTile t fun x => x.putDesc e) := by
    refine congrArg (ok s) ?_
    rw [h.found]
    dsimp only
    rw [hblock, hfound]
    exact if_neg (Nat.lt_irrefl _)
  exact hgives.next_of ⟨rfl, rfl, e, hfound, rfl, rfl, rfl⟩ fun _ _ h => h

/-- A block without a fault is counted, and its writes are issued (R226). -/
theorem State.LandsBlock.lands (h : s.LandsBlock t d) (hown : ∀ b, d.owner ≠ .ck b) (hfault : lowestFault (s.blockFaults t d d.landed) = none) :
    let n := min 65536 (d.bytes - d.landed * 65536)
    s.gives (.tdmBlockLanded t d.id) ((((((s.tookBlock t d d.landed).blockWrites t d).tdmBytes t d.engine n).mvProgress t d n).onTile t (fun x =>
      x.putDesc { d with landed := d.landed + 1 })).askBlock t { d with landed := d.landed + 1 } (d.landed + 1)) := by
  intro n
  let d1 : TdmDesc := { d with landed := d.landed + 1 }
  have hblock := h.landed
  rw [hfault] at hblock
  dsimp only at hblock
  refine congrArg (ok s) ?_
  rw [h.found]
  dsimp only
  rw [hblock]
  split
  · next e he =>
    rw [State.tile_askBlock, State.tile_onTile] at he
    have hed : e = d1 := Tile.eq_of_desc_putDesc (d := d1) he
    rw [State.ckLanded_of_not_ck (d := e) (by rw [hed]; exact hown)]
    split
    · rfl
    · rfl
  · rfl

/-- A descriptor that may not complete yet stays. -/
theorem State.descriptor_waits (hd : (s.tile t).desc d.id = some d) (hready : s.descReady t d = false) : s.gives (.tdmDescriptorComplete t d.id) s := by
  refine congrArg (ok s) ?_
  rw [hd]
  exact if_pos (by rw [hready]; rfl)

/-- A descriptor without a completion write leaves the pool once it may complete (R228). -/
theorem State.descriptor_completes (hd : (s.tile t).desc d.id = some d) (hready : s.descReady t d = true) (hplain : bits d.flags 2 1 = 0) :
    s.gives (.tdmDescriptorComplete t d.id) ((s.descDone t d).ckFeed).settle := by
  refine congrArg (ok s) ?_
  rw [hd]
  refine (if_neg (by rw [hready]; decide)).trans ?_
  dsimp only
  rw [if_neg (by rw [hplain]; simp), hd]
  exact if_pos hready

end Descriptors

/-- Settles O19: a descriptor's start, each way a landed block ends, and the acknowledgement that removes it. -/
theorem tdmDescriptorResult : Obligations.TdmDescriptorResult := by
  intro t s d _ hd hown
  refine ⟨fun hruns hstarted hfirst hflags haddr => ?_, State.descriptor_started hd hown, fun hstarted hfailed hbad hmore hread hats hfirst => ?_,
    fun hpair => ?_, fun r hpair hlast => ?_, State.descriptor_waits hd, State.descriptor_completes hd⟩
  · have hstart : s.descStart t d.id = (s.onTile t (fun x => x.putDesc { d with started := true })).askBlock t d 0 := by
      rw [State.descStart, hd]
      dsimp only
      rw [if_neg (by rw [hstarted, hfirst]; simp), if_neg (by
        rw [hflags]
        rcases haddr with hplain | hal
        · simp [hplain]
        · simp [hal])]
    rw [← hstart]
    exact State.descriptor_starts hd hown hruns
  · have hlands : s.LandsBlock t d := ⟨hd, hstarted, hfailed, hbad, hmore, hread, hats, hfirst⟩
    exact ⟨fun a phys wr f hfault hphys => hlands.fails hfault hphys, hlands.lands hown⟩
  · rw [State.blockWrites, hpair]
  · rw [State.blockWrites, hpair]
    exact if_neg (by rw [hlast]; decide)

end Sys2Proof.Machine
end

section
/-! SUPPORT. What a register field reads after writes to others, and proofs about Lode channels (R251, R252). -/
namespace Sys2Proof.Machine

/-! ### Fields that never share a place -/

/-- Two fields have different places at the same instance and index: another block, other bits, or another offset under the same stride. -/
def Fld.apart (f g : Fld) : Bool :=
  decide (f.lo < 64) && decide (g.lo < 64) &&
    (decide (f.blk.num ≠ g.blk.num) || decide (f.lo ≠ g.lo) || (decide (f.stride = g.stride) && decide (f.off % 1048576 ≠ g.off % 1048576)))

/-- Two fields belong to different blocks, and so never share a place. -/
def Fld.foreign (f g : Fld) : Bool := decide (f.lo < 64) && decide (g.lo < 64) && decide (f.blk.num ≠ g.blk.num)

theorem Fld.key_ne_of_apart {f g : Fld} (h : f.apart g = true) (i x : Nat) : g.key i x ≠ f.key i x := by
  simp only [Fld.apart, Bool.and_eq_true, Bool.or_eq_true, decide_eq_true_eq] at h
  obtain ⟨⟨hf, hg⟩, h⟩ := h
  refine Fld.key_ne ?_ hg hf
  rcases h with (h | h) | ⟨hstride, hoff⟩
  · exact .inl (Ne.symm h)
  · exact .inr (.inr (.inr (Ne.symm h)))
  · refine .inr (.inr (.inl ?_))
    rw [hstride]
    omega

theorem Fld.key_ne_of_foreign {f g : Fld} (h : f.foreign g = true) (i x j y : Nat) : g.key j y ≠ f.key i x := by
  simp only [Fld.foreign, Bool.and_eq_true, decide_eq_true_eq] at h
  obtain ⟨⟨hf, hg⟩, h⟩ := h
  exact Fld.key_ne (.inl (Ne.symm h)) hg hf

section Fields
variable {s : State} {f g : Fld} {i x : Nat}

theorem State.rd_wr_apart (h : f.apart g = true) (v : Nat) : (s.wr f i v x).rd g i x = s.rd g i x :=
  State.rd_wr_ne s v (Fld.key_ne_of_apart h i x)

theorem State.rd_wr_foreign (h : f.foreign g = true) (v j y : Nat) : (s.wr f i v x).rd g j y = s.rd g j y :=
  State.rd_wr_ne s v (Fld.key_ne_of_foreign h i x j y)

theorem State.flag_wr_foreign (h : f.foreign g = true) (v j y : Nat) : (s.wr f i v x).flag g j y = s.flag g j y := by
  rw [State.flag, State.flag, State.rd_wr_foreign h]

theorem State.rd_count_foreign (h : f.foreign g = true) (n j y : Nat) : (s.count f i n x).rd g j y = s.rd g j y :=
  State.rd_wr_foreign h _ j y

theorem State.rd_count_apart (h : f.apart g = true) (n : Nat) : (s.count f i n x).rd g i x = s.rd g i x :=
  State.rd_wr_apart h _

/-- A field reads the bits it is written with. -/
theorem State.rd_wr_bits {v lo w : Nat} (h : f.w = w) : (s.wr f i (bits v lo w) x).rd f i x = bits v lo w := by
  rw [State.rd_wr_same, h, bits_eq, Nat.mod_mod]

/-- Several writes are one write after the other. -/
theorem State.wrs_cons (p : Fld × Nat) (l : List (Fld × Nat)) : s.wrs i x (p :: l) = (s.wr p.1 i p.2 x).wrs i x l := rfl

theorem State.wrs_nil : s.wrs i x [] = s := rfl

end Fields

/-! ### Channels -/

section Channels
variable {s : State} {t : Fin 8} {c : Nat}

theorem State.rd_onLep (f : Lep → Lep) (g : Fld) (i x : Nat) : (s.onLep t f).rd g i x = s.rd g i x := rfl

theorem State.rank_wr {f : Fld} {i v x : Nat} (h : f.foreign F.FEN_STATUS_RANK = true) : (s.wr f i v x).rank = s.rank :=
  State.rd_wr_foreign h v 0 0

theorem State.rank_onLep (f : Lep → Lep) : (s.onLep t f).rank = s.rank := rfl

/-- What a channel's configuration holds once CHAN_CFG is written. -/
theorem State.rd_putChanCfg_maxlen (v : Nat) : (s.putChanCfg t c v).rd F.LEP_CHAN_CFG_MAXLEN t.val c = bits v 48 13 := by
  simp (disch := decide) only [State.putChanCfg, State.wrs_cons, State.wrs_nil, State.rd_wr_bits]

theorem State.flag_putChanCfg_resp (v : Nat) (h : bits v 2 1 = 0) : (s.putChanCfg t c v).flag F.LEP_CHAN_CFG_RESP t.val c = false := by
  simp (disch := decide) only [State.flag, State.putChanCfg, State.wrs_cons, State.wrs_nil, State.rd_wr_bits, State.rd_wr_apart]
  exact decide_eq_false (by rw [h]; decide)

theorem State.rd_putChanCfg_rank (v : Nat) : (s.putChanCfg t c v).rd F.LEP_CHAN_CFG_RANK t.val c = bits v 32 8 := by
  simp (disch := decide) only [State.putChanCfg, State.wrs_cons, State.wrs_nil, State.rd_wr_bits, State.rd_wr_apart]

theorem State.rd_putChanCfg_allot (v : Nat) : (s.putChanCfg t c v).rd F.LEP_CHAN_CRED_ALLOT t.val c = s.rd F.LEP_CHAN_CRED_ALLOT t.val c := by
  simp (disch := decide) only [State.putChanCfg, State.wrs_cons, State.wrs_nil, State.rd_wr_apart]

theorem State.rank_putChanCfg (v : Nat) : (s.putChanCfg t c v).rank = s.rank := by
  simp (disch := decide) only [State.putChanCfg, State.wrs_cons, State.wrs_nil, State.rank_wr]

theorem State.chanDest_putChanCfg (v : Nat) (hlocal : bits v 1 1 = 1) : (s.putChanCfg t c v).chanDest t c = ⟨s.rank, bits v 16 3, bits v 8 8⟩ := by
  rw [State.chanDest, State.destRank, State.rank_putChanCfg]
  simp (disch := decide) only [State.putChanCfg, State.wrs_cons, State.wrs_nil, State.rd_wr_bits, State.rd_wr_apart]
  rw [if_pos hlocal]

/-- Draining a channel reads what disabling it does not write. -/
theorem State.chanDest_disabled (v w : Nat) : ((s.wr F.LEP_CHAN_CFG_EN t.val v c).wr F.LEP_CHAN_CRED_STATE t.val w c).chanDest t c = s.chanDest t c := by
  simp (disch := decide) only [State.chanDest, State.destRank, State.rank_wr, State.rd_wr_apart]

/-- An enable whose MAXLEN is not legal is refused (R251). -/
theorem State.channelEnable_refused {val : BitVec 64} (hruns : s.lepRuns t = true) {c : Fin 512} (hoff : s.rd F.LEP_CHAN_CRED_STATE t.val c.val = 0)
    (hen : bits val.toNat 0 1 = 1) (hbad : maxlenOk (bits val.toNat 48 13) = false) :
    s.gives (.channelEnable t c val) (((s.putChanCfg t c.val val.toNat).onLep t (fun l => { l with chanSeq := l.chanSeq.erase c.val })).wrs t.val c.val
      [(F.LEP_CHAN_CRED_STATE, 4), (F.LEP_CHAN_CRED_CAUSE, 0), (F.LEP_CHAN_CRED_AVAIL, 0)]) := by
  refine congrArg (ok s) ((if_pos ⟨hruns, hoff, hen⟩).trans ?_)
  have href : ((s.putChanCfg t c.val val.toNat).onLep t (fun l => { l with chanSeq := l.chanSeq.erase c.val })).chanRefusal t c.val = some 0 := by
    refine if_pos ?_
    rw [State.rd_onLep, State.rd_putChanCfg_maxlen, hbad]
    rfl
  rw [State.chanEnable]
  rw [href]

/-- An enable of a channel to a queue of this device asks its home (R251). -/
theorem State.channelEnable_asks {val : BitVec 64} (hruns : s.lepRuns t = true) {c : Fin 512} (hoff : s.rd F.LEP_CHAN_CRED_STATE t.val c.val = 0)
    (hen : bits val.toNat 0 1 = 1) (hgood : maxlenOk (bits val.toNat 48 13) = true) (hresp : bits val.toNat 2 1 = 0) (hlocal : bits val.toNat 1 1 = 1) :
    s.gives (.channelEnable t c val) ((((s.putChanCfg t c.val val.toNat).onLep t (fun l => { l with chanSeq := l.chanSeq.erase c.val })).wrs t.val c.val
      [(F.LEP_CHAN_CRED_STATE, 1), (F.LEP_CHAN_CRED_CAUSE, 0), (F.LEP_CHAN_CRED_AVAIL, 0)]).send
        (.grantReq ⟨s.rank, t.val, false, c.val⟩ ⟨s.rank, bits val.toNat 16 3, bits val.toNat 8 8⟩ (bits val.toNat 32 8)
          (s.rd F.LEP_CHAN_CRED_ALLOT t.val c.val))) := by
  refine congrArg (ok s) ((if_pos ⟨hruns, hoff, hen⟩).trans ?_)
  have hdest : ((s.putChanCfg t c.val val.toNat).onLep t (fun l => { l with chanSeq := l.chanSeq.erase c.val })).chanDest t c.val =
      ⟨s.rank, bits val.toNat 16 3, bits val.toNat 8 8⟩ := State.chanDest_putChanCfg val.toNat hlocal
  have href : ((s.putChanCfg t c.val val.toNat).onLep t (fun l => { l with chanSeq := l.chanSeq.erase c.val })).chanRefusal t c.val = none := by
    rw [State.chanRefusal, State.rd_onLep, State.rd_putChanCfg_maxlen, hgood, hdest, State.reach, State.rank_onLep, State.rank_putChanCfg]
    refine (if_neg (by decide)).trans ((if_neg ?_).trans (if_neg ?_))
    · rw [Bool.and_eq_true]
      exact fun h => absurd (h.1.symm.trans (State.flag_putChanCfg_resp val.toNat hresp)) (by decide)
    · simp
  rw [State.chanEnable]
  rw [href, hdest, State.peer]
  simp only [State.rank_onLep, State.rank_putChanCfg, State.rd_onLep, State.rd_putChanCfg_rank, State.rd_putChanCfg_allot]

/-- What disabling a channel does, by the channel's state (R252). -/
theorem State.channelDisable_gives (hruns : s.lepRuns t = true) (c : Fin 512) : s.gives (.channelDisable t c) (s.chanDisable t c.val) :=
  congrArg (ok s) (if_pos hruns)

theorem State.chanDisable_eq (s : State) (t : Fin 8) (c : Nat) : s.chanDisable t c =
    match s.rd F.LEP_CHAN_CRED_STATE t.val c with
    | 2 => ((s.wr F.LEP_CHAN_CFG_EN t.val 0 c).wr F.LEP_CHAN_CRED_STATE t.val 3 c).chanDrained t c
    | 1 => (s.wr F.LEP_CHAN_CFG_EN t.val 0 c).wr F.LEP_CHAN_CRED_STATE t.val 3 c
    | 4 => (s.wr F.LEP_CHAN_CFG_EN t.val 0 c).wrs t.val c [(F.LEP_CHAN_CRED_STATE, 0), (F.LEP_CHAN_CRED_CAUSE, 0)]
    | _ => s.wr F.LEP_CHAN_CFG_EN t.val 0 c := by
  rw [State.chanDisable, State.rd_wr_apart (f := F.LEP_CHAN_CFG_EN) (g := F.LEP_CHAN_CRED_STATE) (by decide)] <;> rfl

/-- A READY channel drains: at once where its credits are all back (R252). -/
theorem State.chanDrained_eq (s : State) (t : Fin 8) (c : Nat) :
    ((s.wr F.LEP_CHAN_CFG_EN t.val 0 c).wr F.LEP_CHAN_CRED_STATE t.val 3 c).chanDrained t c =
    if s.rd F.LEP_CHAN_CRED_AVAIL t.val c = s.rd F.LEP_CHAN_CRED_ALLOT t.val c then
      (((s.wr F.LEP_CHAN_CFG_EN t.val 0 c).wr F.LEP_CHAN_CRED_STATE t.val 3 c).wrs t.val c
        [(F.LEP_CHAN_CRED_STATE, 0), (F.LEP_CHAN_CRED_AVAIL, 0), (F.LEP_CHAN_CRED_CAUSE, 0)]).send (.allotRet ⟨s.rank, t.val, false, c⟩ (s.chanDest t c))
    else (s.wr F.LEP_CHAN_CFG_EN t.val 0 c).wr F.LEP_CHAN_CRED_STATE t.val 3 c := by
  have hstate : ((s.wr F.LEP_CHAN_CFG_EN t.val 0 c).wr F.LEP_CHAN_CRED_STATE t.val 3 c).rd F.LEP_CHAN_CRED_STATE t.val c = 3 := by
    rw [State.rd_wr_same]
    decide
  rw [State.chanDrained, hstate, State.peer, State.chanDest_disabled]
  simp (disch := decide) only [State.rd_wr_apart, State.rank_wr, true_and]

end Channels

/-- Settles O20: the tests of an enable and of a disable, in their order. -/
theorem channelEnableAndDisable : Obligations.ChannelEnableAndDisable := by
  intro t c s st
  refine ⟨fun hstopped => ⟨fun val => congrArg (ok s) (if_neg fun h => ?_), congrArg (ok s) (if_neg fun h => ?_)⟩,
    fun val hused => congrArg (ok s) (if_neg fun h => hused h.2.1),
    fun val hruns hoff hen => ⟨State.channelEnable_refused hruns hoff hen, State.channelEnable_asks hruns hoff hen⟩, fun hruns => ?_⟩
  · exact absurd (h.1.symm.trans hstopped) (by decide)
  · exact absurd (h.symm.trans hstopped) (by decide)
  · have hgives := State.channelDisable_gives hruns c
    rw [State.chanDisable_eq] at hgives
    refine ⟨fun h => ?_, fun h => ?_, fun h => ?_, fun h hout => ?_, fun h hback => ?_⟩
    · rcases h with h | h
      all_goals
        rw [show s.rd F.LEP_CHAN_CRED_STATE t.val c.val = _ from h] at hgives
        exact hgives
    all_goals
      rw [show s.rd F.LEP_CHAN_CRED_STATE t.val c.val = _ from h] at hgives
    · exact hgives
    · exact hgives
    · rwa [State.chanDrained_eq, if_neg hout] at hgives
    · rwa [State.chanDrained_eq, if_pos hback] at hgives

end Sys2Proof.Machine
end

section
/-! SUPPORT. Proofs about grants, credits, queues and groups of Lode (R242, R251, R252, R265). -/
namespace Sys2Proof.Machine

/-! ### Grants and credits -/

section Grants
variable {s : State} {i : Nat}

/-- A unit for a LEP that sleeps wakes it and waits (R258). -/
theorem State.lepWake_of_asleep {t : Fin 8} (h : s.lepAwake t = false) : s.lepWake t = s.wakeTile t false :=
  if_neg (by rw [h]; decide)

section Home
variable {src : Peer} {q : QRef} {crank allot : Nat} (hnet : s.net[i]? = some (.grantReq src q crank allot)) (hrank : q.rank = s.rank)
include hnet hrank

omit hrank in
theorem State.grantRequest_asleep (hasleep : s.lepAwake (tileOf q.tile) = false) : s.gives (.grantRequest i) (s.wakeTile (tileOf q.tile) false) := by
  refine congrArg (ok s) ?_
  rw [hnet]
  dsimp only
  rw [if_pos (by rw [hasleep]; simp), State.lepWake_of_asleep hasleep]

/-- A request that its queue's home refuses is answered with the cause (R251). -/
theorem State.grantRequest_refused {c : Nat} (hawake : s.lepAwake (tileOf q.tile) = true)
    (hcause : s.grantCause (tileOf q.tile) q.queue src crank allot = some c) :
    s.gives (.grantRequest i) ((s.netDrop i).send (.grantRep src q (some c) 0)) := by
  refine congrArg (ok s) ?_
  rw [hnet]
  dsimp only
  rw [if_neg (by rw [hawake, hrank]; simp), hcause]

theorem State.grantRequest_granted (hawake : s.lepAwake (tileOf q.tile) = true)
    (hcause : s.grantCause (tileOf q.tile) q.queue src crank allot = none) :
    s.gives (.grantRequest i) (((s.netDrop i).onQueue (tileOf q.tile) q.queue (fun x => { x with allots := x.allots ++ [⟨src, allot, none⟩] })).send
      (.grantRep src q none (s.rd F.LEP_Q_STATUS_EPOCH (tileOf q.tile).val q.queue))) := by
  refine congrArg (ok s) ?_
  rw [hnet]
  dsimp only
  rw [if_neg (by rw [hawake, hrank]; simp), hcause]

end Home

section Cause
variable {t : Fin 8} {q crank allot : Nat} {src : Peer}

theorem State.grantCause_not_ready (h : s.qState t q ≠ 1) : s.grantCause t q src crank allot = some 0 :=
  if_pos (by simp [h])

variable (hready : s.qState t q = 1) (hplain : s.flag F.LEP_Q_CFG_RESP t.val q = false)
include hready hplain

theorem State.grantCause_rank (h : s.rd F.LEP_Q_CFG_RANK t.val q ≠ crank) : s.grantCause t q src crank allot = some 1 :=
  (if_neg (by rw [hready, hplain]; simp)).trans (if_pos h)

theorem State.grantCause_slots (hrank : s.rd F.LEP_Q_CFG_RANK t.val q = crank) (hmerge : s.flag F.LEP_Q_CFG_MERGE t.val q = false) :
    s.grantCause t q src crank allot = if s.rd F.LEP_Q_CFG_SLOTS t.val q < (s.queue t q).allotted + allot then some 2 else none :=
  (if_neg (by rw [hready, hplain]; simp)).trans ((if_neg (fun h => h hrank)).trans (if_neg (by rw [hmerge]; simp)))

end Cause

theorem State.chanGrant_granted {t : Fin 8} {c epoch : Nat} {q : QRef} (h : s.rd F.LEP_CHAN_CRED_STATE t.val c = 1) :
    s.chanGrant t c q none epoch = s.wrs t.val c [(F.LEP_CHAN_CRED_STATE, 2), (F.LEP_CHAN_CRED_AVAIL, s.rd F.LEP_CHAN_CRED_ALLOT t.val c),
      (F.LEP_CHAN_CRED_EPOCH, epoch)] := by
  unfold State.chanGrant
  rw [h]
  rfl

theorem State.chanGrant_refused {t : Fin 8} {c epoch k : Nat} {q : QRef} (h : s.rd F.LEP_CHAN_CRED_STATE t.val c = 1) :
    s.chanGrant t c q (some k) epoch = s.wrs t.val c [(F.LEP_CHAN_CRED_STATE, 4), (F.LEP_CHAN_CRED_CAUSE, k)] := by
  unfold State.chanGrant
  rw [h]
  rfl

end Grants

/-! ### Queues -/

section Queues
variable {s : State} {t : Fin 8}

/-- A page of the local store needs no translation. -/
theorem State.touchPage_local {va : Nat} (h : lsBase ≤ va) : s.touchPage t va = s :=
  if_pos (by rw [decide_eq_true h]; rfl)

/-- The pages of a range within the local store lie there. -/
theorem pageStarts_local {va n p : Nat} (hlow : lsBase ≤ va) (hpos : 0 < n) (hend : va + n ≤ 2 ^ 48) (hp : p ∈ pageStarts va n) :
    lsBase ≤ p % 2 ^ 48 := by
  rw [pageStarts, List.mem_cons, List.mem_map] at hp
  rcases hp with rfl | ⟨k, hk, rfl⟩
  · omega
  · have hk' := List.mem_range.mp hk
    omega

/-- A ring in the local store is translated without a trace. -/
theorem State.touchPages_local {va n : Nat} (hlow : lsBase ≤ va) (hpos : 0 < n) (hend : va + n ≤ 2 ^ 48) : s.touchPages t (pageStarts va n) = s := by
  rw [State.touchPages]
  split
  · rfl
  · refine List.foldlRecOn _ _ (motive := fun u => u = s) rfl fun u hu p hp => ?_
    rw [hu]
    exact State.touchPage_local (pageStarts_local hlow hpos hend hp)

section Config
variable {q : Nat} (v : Nat)

theorem State.rd_putQCfg_slots : (s.putQCfg t q v).rd F.LEP_Q_CFG_SLOTS t.val q = bits v 16 13 := by
  simp (disch := decide) only [State.putQCfg, State.wrs_cons, State.wrs_nil, State.rd_wr_bits, State.rd_wr_apart]

theorem State.rd_putQCfg_cap : (s.putQCfg t q v).rd F.LEP_Q_CFG_CAP t.val q = bits v 29 3 := by
  simp (disch := decide) only [State.putQCfg, State.wrs_cons, State.wrs_nil, State.rd_wr_bits]

theorem State.rd_putQCfg_merge : (s.putQCfg t q v).rd F.LEP_Q_CFG_MERGE t.val q = bits v 3 1 := by
  simp (disch := decide) only [State.putQCfg, State.wrs_cons, State.wrs_nil, State.rd_wr_bits, State.rd_wr_apart]

theorem State.rd_putQCfg_ordered : (s.putQCfg t q v).rd F.LEP_Q_CFG_ORDERED t.val q = bits v 4 1 := by
  simp (disch := decide) only [State.putQCfg, State.wrs_cons, State.wrs_nil, State.rd_wr_bits, State.rd_wr_apart]

theorem State.rd_putQCfg_base : (s.putQCfg t q v).rd F.LEP_Q_BASE_VA t.val q = s.rd F.LEP_Q_BASE_VA t.val q := by
  simp (disch := decide) only [State.putQCfg, State.wrs_cons, State.wrs_nil, State.rd_wr_apart]

theorem State.queue_putQCfg : (s.putQCfg t q v).queue t q = s.queue t q := rfl

/-- What Q_CFG and Q_BASE hold, after Q_CFG's write, is a ring (R242). -/
theorem State.ringBad_put (hslots : 1 ≤ bits v 16 13) (hmax : bits v 16 13 ≤ 4096) (hal : s.rd F.LEP_Q_BASE_VA t.val q % 32 = 0) (hplain : bits v 3 2 = 0)
    (hrsv : (s.queue t q).baseRsv = false) : (s.putQCfg t q v).ringBad t q false = false := by
  have hmerge : bits v 3 1 = 0 := by
    rw [bits_eq] at hplain ⊢
    omega
  have hordered : bits v 4 1 = 0 := by
    rw [bits_eq] at hplain ⊢
    omega
  rw [State.ringBad, State.flag, State.flag, State.queue_putQCfg, hrsv, State.rd_putQCfg_slots, State.rd_putQCfg_base, State.rd_putQCfg_merge,
    State.rd_putQCfg_ordered, hmerge, hordered]
  simp [hal]
  omega

/-- A queue whose ring lies in the local store is READY and empty (R242). -/
theorem State.queueEnable_local (hslots : 1 ≤ bits v 16 13) (hmax : bits v 16 13 ≤ 4096) (hal : s.rd F.LEP_Q_BASE_VA t.val q % 32 = 0)
    (hlow : lsBase ≤ s.rd F.LEP_Q_BASE_VA t.val q) (hend : s.rd F.LEP_Q_BASE_VA t.val q + bits v 16 13 * (32 + 32 * 2 ^ bits v 29 3) ≤ 2 ^ 48)
    (hplain : bits v 3 2 = 0) (hrsv : (s.queue t q).baseRsv = false) :
    (s.putQCfg t q v).queueEnable t q false = ((s.putQCfg t q v).onQueue t q (fun x =>
      { LepQueue.off with baseRsv := x.baseRsv, ring := some (.store (s.rd F.LEP_Q_BASE_VA t.val q - lsBase)) })).qMove t q 1 := by
  have hgood := State.ringBad_put v hslots hmax hal hplain hrsv
  have hsize : (s.putQCfg t q v).slotSize t q = 32 + 32 * 2 ^ bits v 29 3 := by rw [State.slotSize, State.rd_putQCfg_cap]
  have hpos : 0 < bits v 16 13 * (32 + 32 * 2 ^ bits v 29 3) := Nat.mul_pos hslots (by omega)
  have hring : (s.putQCfg t q v).ringFor t q false = .ok (.store (s.rd F.LEP_Q_BASE_VA t.val q - lsBase)) := by
    rw [State.ringFor, hgood, hsize, State.rd_putQCfg_base, State.rd_putQCfg_slots]
    exact (if_neg (by decide)).trans ((if_pos hlow).trans (if_pos hend))
  rw [State.queueEnable, hring, hgood, hsize, State.rd_putQCfg_base, State.rd_putQCfg_slots, State.touchPages_local hlow hpos hend]
  rfl

theorem State.queueEnable_bad {rsv : Bool} (hbad : s.ringBad t q rsv = true) : s.queueEnable t q rsv = s.qMove t q 3 := by
  have hring : s.ringFor t q rsv = .error none := if_pos hbad
  rw [State.queueEnable, hring, hbad]
  rfl

end Config

theorem State.qState_clear_en (q : Nat) : (s.wr F.LEP_Q_CFG_EN t.val 0 q).qState t q = s.qState t q :=
  State.rd_wr_apart (f := F.LEP_Q_CFG_EN) (g := F.LEP_Q_STATUS_STATE) (by decide) 0

theorem State.queueDisable_err {q : Nat} (h : s.qState t q = 3) : s.queueDisable t q = (s.wr F.LEP_Q_CFG_EN t.val 0 q).qMove t q 0 := by
  rw [State.queueDisable, State.qState_clear_en, h]
  rfl

theorem State.queueDisable_ready {q : Nat} (h : s.qState t q = 1) :
    s.queueDisable t q = ((s.wr F.LEP_Q_CFG_EN t.val 0 q).qMove t q 2).qCheck t q := by
  rw [State.queueDisable, State.qState_clear_en, h]
  rfl

end Queues

/-! ### Groups -/

section Groups
variable {s : State} {t : Fin 8} {g : Nat}

/-- Sending a unit writes no register but of the memories and tiles it wakes. -/
theorem State.rd_send (m : NetMsg) (f : Fld) (i x : Nat) (hlo : f.lo < 64) (hblk : ∀ k ∈ [Blk.tmu, .tpc, .hmc, .pcm, .tcc], f.blk.num ≠ k.num) :
    (s.send m).rd f i x = s.rd f i x := by
  rw [State.send]
  split
  · rw [State.netPut, State.lepWake]
    split
    · rfl
    · exact (State.Near.of_reachOnly (State.reachOnly_wakeTile false _)).rd f i x hlo hblk
  · rw [State.sendPkt]
    split
    · rfl
    · split
      · rfl
      · rfl

variable (v : Nat)

theorem State.rd_putGrpCfg_count : (s.putGrpCfg t g v).rd F.LEP_GRP_CFG_COUNT t.val g = bits v 1 7 := by
  simp (disch := decide) only [State.putGrpCfg, State.wrs_cons, State.wrs_nil, State.rd_wr_bits, State.rd_wr_apart]

theorem State.rd_putGrpCfg_rank : (s.putGrpCfg t g v).rd F.LEP_GRP_CFG_RANK t.val g = bits v 8 8 := by
  simp (disch := decide) only [State.putGrpCfg, State.wrs_cons, State.wrs_nil, State.rd_wr_bits, State.rd_wr_apart]

theorem State.rd_putGrpCfg_maxlen : (s.putGrpCfg t g v).rd F.LEP_GRP_CFG_MAXLEN t.val g = bits v 16 13 := by
  simp (disch := decide) only [State.putGrpCfg, State.wrs_cons, State.wrs_nil, State.rd_wr_bits, State.rd_wr_apart]

theorem State.rd_putGrpCfg_allot : (s.putGrpCfg t g v).rd F.LEP_GRP_CFG_ALLOT t.val g = bits v 32 16 := by
  simp (disch := decide) only [State.putGrpCfg, State.wrs_cons, State.wrs_nil, State.rd_wr_bits]

theorem State.reach_putGrpCfg (d : Nat) : (s.putGrpCfg t g v).reach d = s.reach d := by
  simp (disch := decide) only [State.reach, State.rankReachable, State.putGrpCfg, State.wrs_cons, State.wrs_nil, State.rank_wr, State.rd_wr_foreign,
    State.flag_wr_foreign]

/-- Each request of an enable reads its fields of a state in which the requests before it have left; none of them changes there. -/
theorem State.foldl_ask_eq {r a b : Nat} (ds : List QRef) (u : State) (hr : u.rank = r) (ha : u.rd F.LEP_GRP_CFG_RANK t.val g = a)
    (hb : u.rd F.LEP_GRP_CFG_ALLOT t.val g = b) :
    ds.foldl (fun x d => x.send (.grantReq (x.peer t true g) d (x.rd F.LEP_GRP_CFG_RANK t.val g) (x.rd F.LEP_GRP_CFG_ALLOT t.val g))) u =
      ds.foldl (fun x d => x.send (.grantReq ⟨r, t.val, true, g⟩ d a b)) u := by
  induction ds generalizing u with
  | nil => rfl
  | cons d ds ih =>
    rw [List.foldl_cons, List.foldl_cons, ha, hb, State.peer, hr]
    exact ih _ ((State.rd_send _ F.FEN_STATUS_RANK 0 0 (by decide) (by decide)).trans hr) ((State.rd_send _ _ _ _ (by decide) (by decide)).trans ha)
      ((State.rd_send _ _ _ _ (by decide) (by decide)).trans hb)

/-- What a group's enable forgets of its last life. -/
def Lep.forgetGroup (g : Nat) (l : Lep) : Lep :=
  { l with
    grpSeq := l.grpSeq.erase g
    grpGrant := l.grpGrant.filter (fun p => decide (p.1 / 64 ≠ g))
    grpCred := l.grpCred.filter (fun p => decide (p.1 / 64 ≠ g)) }

theorem State.groupEnable_bad_count (h : bits v 1 7 = 0 ∨ 64 < bits v 1 7) : (s.putGrpCfg t g v).groupEnable t g =
    ((s.putGrpCfg t g v).onLep t (Lep.forgetGroup g)).wrs t.val g [(F.LEP_GRP_STATE_STATE, 4), (F.LEP_GRP_STATE_CAUSE, 3)] := by
  refine if_pos ?_
  rw [State.rd_onLep, State.rd_putGrpCfg_count]
  rcases h with h | h
  · rw [h]; rfl
  · simp [h]

/-- A group with legal members asks every member's home (R265). -/
theorem State.groupEnable_asks (hpos : 1 ≤ bits v 1 7) (hmax : bits v 1 7 ≤ 64) (hlen : maxlenOk (bits v 16 13) = true)
    (hdistinct : (((s.putGrpCfg t g v).onLep t (Lep.forgetGroup g)).members t g).Nodup)
    (hreach : ∀ d ∈ ((s.putGrpCfg t g v).onLep t (Lep.forgetGroup g)).members t g, s.reach d.rank = true) : (s.putGrpCfg t g v).groupEnable t g =
    (((s.putGrpCfg t g v).onLep t (Lep.forgetGroup g)).members t g).foldl (fun x d => x.send (.grantReq (s.peer t true g) d (bits v 8 8) (bits v 32 16)))
      (((s.putGrpCfg t g v).onLep t (Lep.forgetGroup g)).wrs t.val g [(F.LEP_GRP_STATE_STATE, 1), (F.LEP_GRP_STATE_CAUSE, 0)]) := by
  have hall : (((s.putGrpCfg t g v).onLep t (Lep.forgetGroup g)).members t g).all
      (fun d => ((s.putGrpCfg t g v).onLep t (Lep.forgetGroup g)).reach d.rank) = true :=
    List.all_eq_true.mpr fun d hd => (State.reach_putGrpCfg v d.rank).trans (hreach d hd)
  refine (if_neg ?_).trans ((if_neg ?_).trans ((if_neg ?_).trans (State.foldl_ask_eq _ _ ?_ ?_ ?_)))
  · rw [State.rd_onLep, State.rd_putGrpCfg_count]
    simp only [Bool.or_eq_true, Bool.not_eq_true', decide_eq_true_eq, decide_eq_false_iff_not]
    rintro ((h | h) | h)
    · omega
    · omega
    · exact h hdistinct
  · rw [State.rd_onLep, State.rd_putGrpCfg_maxlen, hlen]
    decide
  · exact fun h => Bool.noConfusion (((Bool.not_eq_true' _).mp h).symm.trans hall)
  · simp (disch := decide) only [State.wrs_cons, State.wrs_nil, State.rank_wr, State.rank_onLep, State.putGrpCfg]
  · simp (disch := decide) only [State.wrs_cons, State.wrs_nil, State.rd_wr_apart, State.rd_onLep]
    exact State.rd_putGrpCfg_rank v
  · simp (disch := decide) only [State.wrs_cons, State.wrs_nil, State.rd_wr_apart, State.rd_onLep]
    exact State.rd_putGrpCfg_allot v

end Groups

/-- Settles O21: the cause the home finds for a request, and what each unit leaves of the channel or of the queue. -/
theorem grantAndCreditResult : Obligations.GrantAndCreditResult := by
  refine ⟨fun i s src q crank allot hnet hrank => ?_, fun i s src q cause epoch hnet hrank hchan hawake hpending => ?_,
    fun i s src q hnet hrank hchan hawake hready => ?_, fun i s src q hnet hrank hawake hready => ?_⟩
  · refine ⟨State.grantRequest_asleep hnet, fun hawake hidle => State.grantRequest_refused hnet hrank hawake (State.grantCause_not_ready hidle),
      fun hawake hready hplain => ⟨fun hother => ?_, fun hsame hmerge => ⟨fun hfull => ?_, fun hfits => ?_⟩⟩⟩
    · exact State.grantRequest_refused hnet hrank hawake (State.grantCause_rank hready hplain hother)
    · exact State.grantRequest_refused hnet hrank hawake ((State.grantCause_slots hready hplain hsame hmerge).trans (if_pos hfull))
    · exact State.grantRequest_granted hnet hrank hawake ((State.grantCause_slots hready hplain hsame hmerge).trans (if_neg (Nat.not_lt.mpr hfits)))
  · have hstate : (s.netDrop i).rd F.LEP_CHAN_CRED_STATE (tileOf src.tile).val src.num = 1 := hpending
    refine congrArg (ok s) ?_
    rw [hnet]
    dsimp only
    rw [if_neg (by rw [hawake, hrank]; simp), if_neg (by rw [hchan]; decide)]
    cases cause with
    | none => exact State.chanGrant_granted hstate
    | some k => exact State.chanGrant_refused hstate
  · refine congrArg (ok s) ?_
    rw [hnet]
    dsimp only
    have hstate : (s.netDrop i).rd F.LEP_CHAN_CRED_STATE (tileOf src.tile).val src.num = 2 := hready
    rw [if_neg (by rw [hawake, hrank]; simp), State.creditBack, if_neg (by rw [hchan]; decide), if_pos (.inl hstate), State.chanDrained, if_neg]
    · rfl
    · simp (disch := decide) only [State.rd_wr_apart]
      rw [hstate]
      exact fun h => absurd h.1 (by decide)
  · refine congrArg (ok s) ?_
    rw [hnet]
    dsimp only
    rw [if_neg (by rw [hawake, hrank]; simp), State.qCheck]
    exact if_neg fun h => absurd (h.1.symm.trans hready) (by decide)

/-- Settles O22: the tests of a queue's ring and of a group's enable, after what writing the CFG register leaves. -/
theorem queueAndGroupEnable : Obligations.QueueAndGroupEnable := by
  refine ⟨fun t q s hused val => congrArg (ok s) (if_neg fun h => hused h.2.1), fun t q val s hruns hoff hen => ?_, fun t q s hstopped => ?_,
    fun t q s hruns => ⟨fun h => ?_, fun h => ?_⟩, fun s t q st h => if_neg h, fun t g val s hruns => ?_⟩
  · have hgives : s.gives (.queueEnable t q val) ((s.putQCfg t q.val val.toNat).queueEnable t q.val (qcfgRsv val.toNat)) :=
      congrArg (ok s) (if_pos ⟨hruns, hoff, hen⟩)
    refine ⟨fun hnone => ?_, fun hslots hmax hal hlow hend hplain hrsv hbase => ?_⟩
    · rwa [State.queueEnable_bad] at hgives
      rw [State.ringBad, State.rd_putQCfg_slots, hnone]
      simp
    · rwa [hrsv, State.queueEnable_local _ hslots hmax hal hlow hend hplain hbase] at hgives
  · exact ⟨fun val => congrArg (ok s) (if_neg fun h => absurd (h.1.symm.trans hstopped) (by decide)),
      congrArg (ok s) (if_neg fun h => absurd (h.symm.trans hstopped) (by decide))⟩
  · exact congrArg (ok s) ((if_pos hruns).trans (State.queueDisable_err h))
  · exact congrArg (ok s) ((if_pos hruns).trans (State.queueDisable_ready h))
  · intro s1
    have hgives : s.rd F.LEP_GRP_STATE_STATE t.val g.val = 0 → bits val.toNat 0 1 = 1 →
        s.gives (.groupEnable t g val) ((s.putGrpCfg t g.val val.toNat).groupEnable t g.val) :=
      fun hoff hen => congrArg (ok s) (if_pos ⟨hruns, hoff, hen⟩)
    refine ⟨fun hused => congrArg (ok s) (if_neg fun h => hused h.2.1), fun hoff hen => ⟨fun hbad => ?_, fun hpos hmax hlen hdistinct hreach => ?_⟩⟩
    · have hg := hgives hoff hen
      rwa [State.groupEnable_bad_count val.toNat hbad] at hg
    · have hg := hgives hoff hen
      rwa [State.groupEnable_asks val.toNat hpos hmax hlen hdistinct hreach] at hg

end Sys2Proof.Machine
end

section
/-! SUPPORT. Proofs about a message's way and its handler's dispatch (R248, R254 to R256, R258 to R260). -/
namespace Sys2Proof.Machine

/-! ### Queues after a change -/

section Queues
variable {s : State} {t : Fin 8} {q : Nat}

@[simp] theorem State.queue_onQueue (f : LepQueue → LepQueue) : (s.onQueue t q f).queue t q = f (s.queue t q) := by
  rw [State.onQueue, State.onLep, State.queue, State.tile_onTile, SMap.getD_set_same]
  rfl

/-- What reaching a memory leaves of a tile's LEP and registers apart from the memories'. -/
theorem State.queue_of_reachOnly {u : State} (h : s.reachOnly u) : u.queue t q = s.queue t q := by
  rw [State.queue, State.queue, h.2.1 t]

end Queues

/-! ### Sending -/

section Send
variable {s : State} {t : Fin 8} {tag : Nat} {r : OpRec}

/-- An operation whose destination may not be reached traps (R342). -/
theorem State.sendNext_unreachable (hfirst : (s.tile t).sendBehind r = false) (hpath : (s.sendPath t r).1 = false) :
    s.sendNext t tag r = s.raiseOp t tag cAccess ((r.td 1).byteVa r.pos) (descIx r.insn 1) true := by
  refine (if_neg ?_).trans (if_pos ?_)
  · rw [hfirst]; decide
  · rw [hpath]; rfl

theorem State.messageAccept_offers {tag : BitVec 8} (hr : (s.tile t).ops.find? tag.toNat = some r) (hop : r.op = .ldSend ∨ r.op = .ldMcast) (hrun : r.st = .run)
    (hclean : r.trap = none) : s.gives (.messageAccept t tag) (s.sendNext t tag.toNat r).settle := by
  refine congrArg (fun u : State => ok s u.settle) ?_
  rw [State.messageAccept, hr]
  exact if_pos ⟨hop, hrun, by rw [hclean]; rfl⟩

end Send

/-! ### Arrival -/

section Arrival
variable {s : State} {i : Nat} {src : Peer} {q : QRef} {seq : Nat}

/-- Telling a sender that its message is placed changes no register but a woken tile's, and of a tile no more than what it has sent. -/
theorem State.rd_wasPlaced (f : Fld) (i x : Nat) (hlo : f.lo < 64) (hblk : ∀ k ∈ [Blk.tmu, .tpc, .hmc, .pcm, .tcc], f.blk.num ≠ k.num) :
    (s.wasPlaced src q seq).rd f i x = s.rd f i x := by
  rw [State.wasPlaced]
  split
  · rfl
  · exact State.rd_send _ f i x hlo hblk

/-- Units sent leave a tile's LEP. -/
theorem State.forced_send (m : NetMsg) (t : Fin 8) : ((s.send m).tile t).forced = (s.tile t).forced := by
  rw [State.send]
  split
  · rw [State.netPut, State.lepWake]
    split
    · rfl
    · rw [(State.reachOnly_wakeTile false _).2.1 t]
      rfl
  · exact congrArg (fun v => (v[t] : Tile).forced) (State.tiles_sendPkt s _ _ _ _)

theorem State.forced_wasPlaced (t : Fin 8) : ((s.wasPlaced src q seq).tile t).forced = (s.tile t).forced := by
  rw [State.wasPlaced]
  split
  · rw [State.onLep]
    by_cases h : t = tileOf src.tile
    · rw [h, State.tile_onTile]
    · rw [State.tile_onTile_ne _ _ h]
  · exact State.forced_send _ t

/-- The checks of an arriving message read what its sender's notice leaves. -/
theorem State.arrivalCause_congr {u v : State} {t : Fin 8} {hdr : Nat} {poison : Bool} (hforced : (u.tile t).forced = (v.tile t).forced)
    (hrd : ∀ f ∈ [F.LEP_Q_CFG_CAP, F.LEP_Q_CFG_RANK], ∀ x, u.rd f t.val x = v.rd f t.val x) : u.arrivalCause t hdr poison = v.arrivalCause t hdr poison := by
  rw [State.arrivalCause, State.arrivalCause, hforced, hrd F.LEP_Q_CFG_CAP (by simp), hrd F.LEP_Q_CFG_RANK (by simp)]

/-- The state in which an arrived message is looked at: out of the network, its sender told of it. -/
def State.arrived (s : State) (i hdr : Nat) (src : Peer) : State :=
  if (Hdr.of hdr).kind ≤ kMcast then (s.netDrop i).wasPlaced src ⟨(Hdr.of hdr).drank, (Hdr.of hdr).dtile, (Hdr.of hdr).dq⟩ (Hdr.of hdr).seq
  else s.netDrop i

theorem State.rd_arrived {hdr : Nat} (f : Fld) (j x : Nat) (hlo : f.lo < 64) (hblk : ∀ k ∈ [Blk.tmu, .tpc, .hmc, .pcm, .tcc], f.blk.num ≠ k.num) :
    (s.arrived i hdr src).rd f j x = s.rd f j x := by
  rw [State.arrived]
  split
  · exact State.rd_wasPlaced f j x hlo hblk
  · rfl

theorem State.forced_arrived {hdr : Nat} (t : Fin 8) : ((s.arrived i hdr src).tile t).forced = (s.tile t).forced := by
  rw [State.arrived]
  split
  · exact State.forced_wasPlaced t
  · rfl

theorem State.arrivalCause_arrived {hdr : Nat} {poison : Bool} (t : Fin 8) :
    (s.arrived i hdr src).arrivalCause t hdr poison = s.arrivalCause t hdr poison := by
  refine State.arrivalCause_congr (State.forced_arrived t) fun f hf x => ?_
  simp only [List.mem_cons, List.not_mem_nil, or_false] at hf
  rcases hf with rfl | rfl
  · exact State.rd_arrived _ _ _ (by decide) (by decide)
  · exact State.rd_arrived _ _ _ (by decide) (by decide)

theorem State.qState_arrived {hdr : Nat} (t : Fin 8) (n : Nat) : (s.arrived i hdr src).qState t n = s.qState t n :=
  State.rd_arrived _ _ _ (by decide) (by decide)

/-- A message for a LEP that sleeps may not arrive yet. -/
theorem State.mayArrive_asleep {hdr : Nat} {payload : List Byte} {poison : Bool} {op : Option Nat} (hnet : s.net[i]? = some (.msg hdr payload poison src op))
    (hasleep : s.lepAwake (tileOf (Hdr.of hdr).dtile) = false) : s.mayArrive i = false := by
  rw [State.mayArrive, hnet]
  simp [hasleep]

section Placed
variable {hdr : Nat} {payload : List Byte} {poison : Bool}

theorem State.arrive_closed (hready : s.qState (tileOf (Hdr.of hdr).dtile) (Hdr.of hdr).dq ≠ 1) (hdrain : s.qState (tileOf (Hdr.of hdr).dtile) (Hdr.of hdr).dq ≠ 2) :
    (s.netDrop i).arrive hdr payload poison src = s.arrived i hdr src :=
  if_pos (by
    have h := State.qState_arrived (s := s) (i := i) (src := src) (hdr := hdr) (tileOf (Hdr.of hdr).dtile) (Hdr.of hdr).dq
    exact ⟨h.trans_ne hready, h.trans_ne hdrain⟩)

/-- A message of no reservation is placed, or its Quag is (R254). -/
theorem State.arrive_open (hready : s.qState (tileOf (Hdr.of hdr).dtile) (Hdr.of hdr).dq = 1) (hkind : (Hdr.of hdr).kind ≠ kResponse) :
    (s.netDrop i).arrive hdr payload poison src = match s.arrivalCause (tileOf (Hdr.of hdr).dtile) hdr poison with
      | none => (s.arrived i hdr src).place (tileOf (Hdr.of hdr).dtile) (Hdr.of hdr).dq hdr payload src none
      | some c => (((s.arrived i hdr src).quagFormed (tileOf (Hdr.of hdr).dtile) (Hdr.of hdr).dq (quagOf hdr c)).count F.FLT_CNT_OP_COUNT 0 1).place
          (tileOf (Hdr.of hdr).dtile) (Hdr.of hdr).dq (quagOf hdr c) [] src none := by
  have h := State.qState_arrived (s := s) (i := i) (src := src) (hdr := hdr) (tileOf (Hdr.of hdr).dtile) (Hdr.of hdr).dq
  have hcause := State.arrivalCause_arrived (s := s) (i := i) (src := src) (hdr := hdr) (poison := poison) (tileOf (Hdr.of hdr).dtile)
  refine (if_neg fun hn => hn.1 (h.trans hready)).trans ((if_neg ?_).trans ?_)
  · rw [decide_eq_false hkind]
    exact Bool.noConfusion
  · rw [← hcause]
    simp only [if_neg hkind]
    rfl

end Placed
end Arrival

/-! ### Placing and appending -/

section Append
variable {s : State} {t : Fin 8} {q slot : Nat}

/-- The free slot taken is the lowest (R255). -/
theorem State.freeSlotOf_lowest (h : s.freeSlotOf t q = some slot) {i : Nat} (hi : i < slot) : ((s.queue t q).slots.find? i).isSome = true := by
  have hnot := (List.find?_range_eq_some.mp h).2.2 i hi
  rw [Bool.not_eq_true', Option.isNone_eq_false_iff] at hnot
  exact hnot

theorem State.place_free {hdr : Nat} {payload : List Byte} {src : Peer} (h : s.freeSlotOf t q = some slot) :
    s.place t q hdr payload src none = (s.onQueue t q (fun x => { x with
      slots := x.slots.put slot ⟨hdr, src, false, .written⟩, landed := x.landed ++ [slot] })).writeSlot t q slot (leBytes 32 hdr ++ payload) := by
  rw [State.place, h]
  rfl

/-- What appending does to the queue: its FIFO grows by the slot, which is marked. -/
theorem State.queue_append {sl : Slot} (h : (s.queue t q).slots.find? slot = some sl) :
    ((s.append t q slot).queue t q).fifo = (s.queue t q).fifo ++ [slot] ∧
      ((s.append t q slot).queue t q).slots = (s.queue t q).slots.put slot { sl with st := .appended } := by
  have hwoken : (if s.flag F.LEP_Q_CFG_MODE t.val q then s else s.wakeTile t true).queue t q = s.queue t q := by
    split
    · rfl
    · exact State.queue_of_reachOnly (State.reachOnly_wakeTile true s)
  have hcount : ∀ (u : State) f j n x, (u.count f j n x).queue t q = u.queue t q := fun _ _ _ _ _ => rfl
  rw [State.append, h]
  dsimp only
  rw [hcount, State.queue_onQueue, hwoken]
  exact ⟨rfl, rfl⟩

end Append

/-- Settles O23: the sender's next message, the slot an arriving one takes, and the first slot that may be appended. -/
theorem messageTransferResult : Obligations.MessageTransferResult := by
  refine ⟨fun t tag s r hr hop hrun hclean hfirst hpath => ?_, ?_, ?_, fun s t q hdr payload src slot h => ?_, fun t q s slot h => ?_, fun t q s h => ?_,
    fun s t q slot sl h => ?_⟩
  · rw [← State.sendNext_unreachable hfirst hpath]
    exact State.messageAccept_offers hr hop hrun hclean
  · intro t tag s r bs poison hr hop hrun hclean hfirst hpath n hpayload
    have hgives := State.messageAccept_offers hr (.inl hop) hrun hclean
    have hchan : r.op ≠ .ldMcast := by rw [hop]; exact TOp.noConfusion
    have hnext : ∀ o, s.acceptChan t (ldChan r.ga) ⟨r.xfb 80 10, r.pos + n = r.total, r.pos, bs, poison, some r.seq⟩ = o →
        s.sendNext t tag.toNat r = match o with
          | none => s
          | some s1 => (s1.tookVas t ((r.td 1).bytePieces n r.pos n)).onTile t (fun x => { x with ops := x.ops.put tag.toNat (if r.pos + n = r.total
              then { r with st := .ack, pos := r.total, acks := 0 } else { r with st := .run, pos := r.pos + n }) }) := by
      intro o ho
      refine (if_neg (by rw [hfirst]; decide)).trans ((if_neg (by rw [hpath]; decide)).trans ?_)
      dsimp only
      rw [hpayload]
      dsimp only
      rw [if_neg hchan, ho] <;> rfl
    refine ⟨fun s1 hs1 => ?_, fun hnone => ?_⟩
    · rwa [hnext _ hs1] at hgives
    · rwa [hnext _ hnone] at hgives
  · intro i s hdr payload poison src op hnet h t s1
    have hin : s.mayArrive i = true → s.gives (.messageArrival i) ((s.netDrop i).arrive hdr payload poison src) := by
      intro hmay
      refine congrArg (ok s) ?_
      rw [hnet]
      exact if_pos hmay
    have hout : s.mayArrive i = false → s.gives (.messageArrival i) (s.lepWake t) := by
      intro hmay
      refine congrArg (ok s) ?_
      rw [hnet]
      exact if_neg (by rw [hmay]; decide)
    refine ⟨fun hmay hawake => ?_, fun hasleep => ?_, fun hmay hready hdrain => ?_, fun hmay hready hkind => ⟨fun hgood => ?_, fun c hbad => ?_⟩⟩
    · have hg := hout hmay
      rwa [State.lepWake, if_pos hawake] at hg
    · have hg := hout (State.mayArrive_asleep hnet hasleep)
      rwa [State.lepWake_of_asleep hasleep] at hg
    · have hg := hin hmay
      rwa [State.arrive_closed hready hdrain] at hg
    all_goals
      have hg := hin hmay
      rw [State.arrive_open hready hkind] at hg
    · rwa [hgood] at hg
    · rwa [hbad] at hg
  · exact ⟨fun i hi => State.freeSlotOf_lowest h hi, State.place_free h⟩
  · refine congrArg (ok s) ?_
    rw [h]
  · have hnone : (s.queue t q.val).landed.find? (fun k => s.mayAppend t q.val k) = none :=
      List.find?_eq_none.mpr fun k hk => by rw [h k hk]; decide
    refine congrArg (ok s) ?_
    rw [hnone]
  · obtain ⟨hfifo, hslots⟩ := State.queue_append h
    exact ⟨hfifo, by rw [hslots, SMap.find_put_same]⟩

/-! ### Dispatch -/

section Dispatch
variable {s : State} {t : Fin 8}

/-- A fold that keeps the better of two keeps a best one. -/
theorem foldl_best {rank : Nat → Nat} (l : List Nat) (b : Option Nat) {q : Nat}
    (h : l.foldl (fun b q => match b with
      | none => some q
      | some p => if rank p < rank q then some q else b) b = some q) :
    (q ∈ l ∨ b = some q) ∧ (∀ p ∈ l, rank p ≤ rank q) ∧ ∀ p, b = some p → rank p ≤ rank q := by
  induction l generalizing b with
  | nil =>
    have hb : b = some q := h
    refine ⟨.inr hb, fun p hp => absurd hp List.not_mem_nil, fun p hp => ?_⟩
    rw [Option.some.inj (hp.symm.trans hb)]
  | cons a l ih =>
    obtain ⟨hmem, hall, hbest⟩ := ih _ h
    cases b with
    | none =>
      have ha : rank a ≤ rank q := hbest a rfl
      refine ⟨.inl (List.mem_cons.mpr ?_), List.forall_mem_cons.mpr ⟨ha, hall⟩, fun p hp => absurd hp (Option.some_ne_none p).symm⟩
      exact hmem.elim .inr fun h => .inl (Option.some.inj h).symm
    | some p =>
      by_cases hless : rank p < rank a
      · simp only [if_pos hless] at hmem hbest
        have ha : rank a ≤ rank q := hbest a rfl
        refine ⟨.inl (List.mem_cons.mpr ?_), List.forall_mem_cons.mpr ⟨ha, hall⟩, fun p' hp => ?_⟩
        · exact hmem.elim .inr fun h => .inl (Option.some.inj h).symm
        · rw [← Option.some.inj hp]
          omega
      · simp only [if_neg hless] at hmem hbest
        have hp : rank p ≤ rank q := hbest p rfl
        exact ⟨hmem.imp (List.mem_cons_of_mem a) id, List.forall_mem_cons.mpr ⟨by omega, hall⟩, hbest⟩

/-- Where no queue was passed over too often, the pick is a waiting one of the highest rank (R259). -/
theorem State.pickQueue_highest {q : Nat} (h : s.pickQueue t = some q) (hpassed : ∀ p ∈ (s.tile t).lep.queues, (s.queue t p.1).passed < 64) :
    s.dispatchable t q = true ∧
      ∀ p ∈ (s.tile t).lep.queues, s.dispatchable t p.1 = true → s.rd F.LEP_Q_CFG_RANK t.val p.1 ≤ s.rd F.LEP_Q_CFG_RANK t.val q := by
  have hnone : (((s.tile t).lep.queues.map (·.1)).filter (fun q => s.dispatchable t q)).find? (fun q => decide (64 ≤ (s.queue t q).passed)) = none := by
    refine List.find?_eq_none.mpr fun q hq => ?_
    obtain ⟨p, hp, rfl⟩ := List.mem_map.mp (List.mem_filter.mp hq).1
    rw [decide_eq_true_eq]
    exact Nat.not_le.mpr (hpassed p hp)
  rw [State.pickQueue, hnone] at h
  obtain ⟨hmem, hall, -⟩ := foldl_best (rank := fun q => s.rd F.LEP_Q_CFG_RANK t.val q) _ none h
  refine ⟨(List.mem_filter.mp (hmem.resolve_right (Option.some_ne_none q).symm)).2, fun p hp hd => hall p.1 (List.mem_filter.mpr ⟨List.mem_map_of_mem hp, hd⟩)⟩

theorem Thread.getG_start (x : Thread) (pc a b c d e f k : Nat) :
    (x.start pc [a, b, c, d, e, f, k]).getG 1 = BitVec.ofNat 64 a ∧ (x.start pc [a, b, c, d, e, f, k]).getG 4 = BitVec.ofNat 64 d ∧
    (x.start pc [a, b, c, d, e, f, k]).getG 5 = BitVec.ofNat 64 e ∧ (x.start pc [a, b, c, d, e, f, k]).getG 6 = BitVec.ofNat 64 f ∧
    (x.start pc [a, b, c, d, e, f, k]).getG 7 = BitVec.ofNat 64 k ∧ (x.start pc [a, b, c, d, e, f, k]).getG 8 = 0 := by
  simp (disch := decide) only [Thread.getG, Thread.start, List.zipIdx_cons, List.zipIdx_nil, List.foldl_cons, List.foldl_nil, SMap.getD_set_same,
    SMap.getD_set_ne]
  exact ⟨rfl, rfl, rfl, rfl, rfl, rfl⟩

/-- Every queue's message but the one dispatched stays, and the count of passes aside so does every queue. -/
theorem State.dispatch_starts {q slot : Nat} {rest : List Nat} {sl : Slot} {e : Nat} {rep : Bool} (hfifo : (s.queue t q).fifo = slot :: rest)
    (hslot : (s.queue t q).slots.find? slot = some sl) (hhandler : s.handlerOf t (Hdr.of sl.hdr) = some (e, rep)) :
    s.dispatch t q = ((((s.passOver t q).onQueue t q (fun x => { x with fifo := rest, slots := x.slots.put slot { sl with st := .held } })).onLep t
      (fun l => { l with held := l.held.put 1 ⟨q, slot, false⟩ })).onTile t (fun x => x.onThr 1 (fun th =>
        th.start e [bits sl.hdr 0 64, bits sl.hdr 64 64, bits sl.hdr 128 64, bits sl.hdr 192 64,
          (s.slotVa t q slot + 32) % 2 ^ 48, (Hdr.of sl.hdr).ln, q + rep.toNat * 256]))) := by
  rw [State.dispatch, hfifo]
  dsimp only
  rw [hslot]
  dsimp only
  rw [hhandler]

/-- What a started handler's state shows (R260). -/
theorem State.started_shows {x : State} {pc a b c d e f k : Nat} {r : Lep → Lep} :
    let u := (x.onLep t r).onTile t fun y => y.onThr 1 fun th => th.start pc [a, b, c, d, e, f, k]
    (u.thr t 1).st = .ready ∧ (u.thr t 1).pc = pc % 2 ^ 48 ∧ (u.thr t 1).hsteps = 0 ∧ (u.thr t 1).getG 1 = BitVec.ofNat 64 a ∧
      (u.thr t 1).getG 4 = BitVec.ofNat 64 d ∧ (u.thr t 1).getG 5 = BitVec.ofNat 64 e ∧ (u.thr t 1).getG 6 = BitVec.ofNat 64 f ∧
      (u.thr t 1).getG 7 = BitVec.ofNat 64 k ∧ (u.thr t 1).getG 8 = 0 ∧ (u.tile t).lep = r (x.tile t).lep ∧ u.mem = x.mem ∧
      ∀ h, h ≠ 1 → u.thr t h = x.thr t h := by
  intro u
  have hthr : u.thr t 1 = ((x.onLep t r).thr t 1).start pc [a, b, c, d, e, f, k] :=
    State.thr_onThr (x.onLep t r) t 1 fun th => th.start pc [a, b, c, d, e, f, k]
  have hlep : (u.tile t).lep = r (x.tile t).lep := by rw [State.tile_onTile, State.onLep, State.tile_onTile]; rfl
  obtain ⟨h1, h4, h5, h6, h7, h8⟩ := Thread.getG_start ((x.onLep t r).thr t 1) pc a b c d e f k
  rw [hthr]
  refine ⟨rfl, rfl, rfl, h1, h4, h5, h6, h7, h8, hlep, rfl, fun h hh => ?_⟩
  refine (State.thr_onThr_ne (x.onLep t r) _ hh).trans ?_
  rw [State.thr, State.onLep, State.tile_onTile]
  rfl

theorem State.thr_onLep (f : Lep → Lep) (h : Fin 4) : (s.onLep t f).thr t h = s.thr t h := by
  rw [State.thr, State.onLep, State.tile_onTile]
  rfl

end Dispatch

/-- Settles O24: the queue that is picked starts the thread, whose registers are then read one by one; a pick has the highest rank of those waiting. -/
theorem handlerDispatchResult : Obligations.HandlerDispatchResult := by
  refine ⟨fun t s q slot rest sl e rep hidle hstop hruns hpick hfifo hslot hhandler => ?_, fun t s h => ?_, fun s t q => State.pickQueue_highest⟩
  · have hgives : s.gives (.handlerDispatch t) (s.dispatch t q) := by
      refine congrArg (ok s) ((if_pos ?_).trans ?_)
      · rw [hstop, hruns]
        have hthr : ((s.tile t).thr 1).st = .idle := hidle
        rw [hthr]
        rfl
      · rw [hpick]
    rw [State.dispatch_starts hfifo hslot hhandler] at hgives
    obtain ⟨hst, hpc, hsteps, h1, h4, h5, h6, h7, h8, hlep, hmem, hothers⟩ := State.started_shows (t := t)
      (x := (s.passOver t q).onQueue t q (fun x => { x with fifo := rest, slots := x.slots.put slot { sl with st := .held } }))
      (r := fun l => { l with held := l.held.put 1 ⟨q, slot, false⟩ }) (pc := e) (a := bits sl.hdr 0 64) (b := bits sl.hdr 64 64)
      (c := bits sl.hdr 128 64) (d := bits sl.hdr 192 64) (e := (s.slotVa t q slot + 32) % 2 ^ 48) (f := (Hdr.of sl.hdr).ln) (k := q + rep.toNat * 256)
    refine hgives.next_of ⟨hst, hpc, hsteps, h1, h4, h5, h6, h7, h8, ?_, ?_, hmem, fun h hh => ?_⟩ fun _ _ h => h
    · rw [hlep, SMap.find_put_same]
    · rw [State.queue, hlep]
      exact congrArg LepQueue.fifo (State.queue_onQueue _)
    · rw [hothers h hh, State.onQueue, State.thr_onLep, State.passOver, State.thr_onLep]
  · refine congrArg (ok s) (if_neg fun hgo => ?_)
    simp only [Bool.and_eq_true, decide_eq_true_eq, Bool.not_eq_true'] at hgo
    obtain ⟨⟨hidle, hstop⟩, -⟩ := hgo
    rcases h with h | h
    · exact h hidle
    · exact absurd (hstop.symm.trans h) (by decide)

end Sys2Proof.Machine
end

section
/-! SUPPORT. Proofs about scalar sends and SELECT (R246 to R248, R262). -/
namespace Sys2Proof.Machine

/-! ### What reading an instruction and its payload leaves of a tile's LEP -/

/-- b differs from a in the memories' and tiles' registers and in tiles, but tile t's threads and LEP are as they were. -/
structure State.SameLep (a b : State) (t : Fin 8) : Prop where
  near : a.Near b
  lep : (b.tile t).lep = (a.tile t).lep
  thr : ∀ h, b.thr t h = a.thr t h

namespace State.SameLep
variable {a b c : State} {t : Fin 8}

theorem of_reachOnly (h : a.reachOnly b) : a.SameLep b t :=
  ⟨.of_reachOnly h, by rw [h.2.1 t], State.reachOnly_thr h t⟩

theorem fetched (s : State) (t : Fin 8) (th : Thr) (w : Nat) : s.SameLep (s.fetched t th w) t :=
  ⟨.fetched s t th w, State.lep_fetched t, State.thr_fetched t⟩

theorem trans (h : a.SameLep b t) (g : b.SameLep c t) : a.SameLep c t :=
  ⟨h.near.trans g.near, g.lep.trans h.lep, fun k => (g.thr k).trans (h.thr k)⟩

variable (h : a.SameLep b t)
include h

theorem rd (f : Fld) (i x : Nat) (hf : f.lo < 64 ∧ ∀ k ∈ [Blk.tmu, .tpc, .hmc, .pcm, .tcc], f.blk.num ≠ k.num) : b.rd f i x = a.rd f i x :=
  h.near.rd f i x hf.1 hf.2

theorem flag (f : Fld) (i x : Nat) (hf : f.lo < 64 ∧ ∀ k ∈ [Blk.tmu, .tpc, .hmc, .pcm, .tcc], f.blk.num ≠ k.num) : b.flag f i x = a.flag f i x := by
  rw [State.flag, State.flag, h.rd f i x hf]

theorem g (k : Fin 4) (i : Nat) : b.g t k i = a.g t k i := by rw [State.g, State.g, h.thr]

theorem ga (th : Thr) (i : BitVec 6) : b.ga t th i = a.ga t th i := h.g _ _

theorem queue (q : Nat) : b.queue t q = a.queue t q := by rw [State.queue, State.queue, h.lep]

theorem qState (q : Nat) : b.qState t q = a.qState t q := h.rd _ _ _ (by decide)

theorem breaksRank (k r : Nat) : b.breaksRank t k r = a.breaksRank t k r := by
  simp only [State.breaksRank, State.curRank, h.lep, h.rd F.LEP_Q_CFG_RANK _ _ (by decide)]

theorem chanDest (ch : Nat) : b.chanDest t ch = a.chanDest t ch := by
  simp only [State.chanDest, State.destRank, h.near.rank, h.rd F.LEP_CHAN_CFG_LOCAL _ _ (by decide), h.rd F.LEP_CHAN_CFG_FRANK _ _ (by decide),
    h.rd F.LEP_CHAN_CFG_TILE _ _ (by decide), h.rd F.LEP_CHAN_CFG_QUEUE _ _ (by decide)]

theorem chanReach (ch : Nat) : b.chanReach t ch = a.chanReach t ch := by
  rw [State.chanReach, State.chanReach, State.reach, State.reach, h.chanDest, h.near.rank, h.near.rankReachable]

theorem lodeOut : b.lodeOut = a.lodeOut := by rw [State.lodeOut, State.lodeOut, h.near.rest]

theorem sbufRoom (n : Nat) : b.sbufRoom t n = a.sbufRoom t n := by
  rw [State.sbufRoom, State.sbufRoom, State.sbufUsed, State.sbufUsed, h.lodeOut, h.near.rank]

theorem slotVa (q slot : Nat) : b.slotVa t q slot = a.slotVa t q slot := by
  simp only [State.slotVa, State.slotSize, h.rd F.LEP_Q_BASE_VA _ _ (by decide), h.rd F.LEP_Q_CFG_CAP _ _ (by decide)]

theorem selectable (k q : Nat) : b.selectable t k q = a.selectable t k q := by
  simp only [State.selectable, h.qState, h.flag F.LEP_Q_CFG_MODE _ _ (by decide), h.queue, h.lep]

theorem selPick (k x y : Nat) (rot : Bool) : b.selPick t k x y rot = a.selPick t k x y rot := by
  simp only [State.selPick, h.selectable, h.lep]

end State.SameLep

/-! ### Reading a payload -/

section Gather
variable {s : State} {t : Fin 8} {th : Thr}

/-- Wherever a payload's reading stands, its state is s but for what reaching the memories changes. -/
def State.gathers (s : State) (r : Except Act (List Byte × State × List RemReq)) : Prop := ∀ p, r = .ok p → s.reachOnly p.2.1

theorem State.gathers_error (e : Act) : s.gathers (.error e) := fun _ h => nomatch h

theorem State.gathers_ok {p : List Byte × State × List RemReq} (h : s.reachOnly p.2.1) : s.gathers (.ok p) := fun _ hq => Except.ok.inj hq ▸ h

/-- Reading a payload changes no more than what reaching the memories changes. -/
theorem State.reachOnly_gatherVa {va n : Nat} {bs : List Byte} {v : State} (h : s.gatherVa t th va n = .ok (bs, v)) : s.reachOnly v := by
  rw [State.gatherVa] at h
  dsimp only at h
  split at h
  · exact nomatch h
  · next bs' u rq hfold =>
    split at h
    · obtain ⟨-, rfl⟩ := Prod.mk.inj (Except.ok.inj h)
      refine (foldl_keeps (P := s.gathers) (fun r i hr => ?_) ?_ : s.gathers _) (bs', u, rq) hfold
      · split
        · exact State.gathers_error _
        · next bs1 u1 rq1 =>
          have hu : s.reachOnly u1 := hr _ rfl
          have hget : ∀ pa k f, s.gathers (if s.atsNeeds f pa then .error (.wait (s.atsAsk f pa) .retry)
              else if s.ownHeld t th pa k then .error (.wait s .retry)
              else if s.poisonIn pa k then .error (.trap cMemPoison va)
              else .ok (bs1 ++ s.readBytes f pa k, (u1.wakeFor (some t) pa).tookBytes pa k, rq1)) := by
            intro pa k f
            split
            · exact State.gathers_error _
            · split
              · exact State.gathers_error _
              · split
                · exact State.gathers_error _
                · exact State.gathers_ok (State.reachOnly_trans hu (State.reachOnly_trans (State.reachOnly_wakeFor (some t) pa u1) (State.reachOnly_tookBytes pa k _)))
          split
          · exact State.gathers_error _
          · exact State.gathers_ok hu
          · split
            · split
              · exact hget _ _ _
              · exact State.gathers_ok hu
            · exact hget _ _ _
      · exact State.gathers_ok (State.reachOnly_refl s)
    · exact nomatch h

end Gather

/-! ### Sends on a channel -/

section Channel
variable {x : State} {t : Fin 8} {th : Thr} {a : RArgs} {bs : List Byte}

/-- What a send on a channel does, by what the channel's state is (R247, R248). -/
theorem State.scalarSend_chan (hchan : bits (x.ga t th a.ga).toNat 31 1 = 0) : x.scalarSend t th a bs =
    let c := (x.ga t th a.ga).toNat
    if x.breaksRank t (thrIx th).val (x.rd F.LEP_CHAN_CFG_RANK t.val (bits c 0 9)) then .trap cRank 0
    else if x.rd F.LEP_CHAN_CRED_STATE t.val (bits c 0 9) = 2 ∧ !x.chanReach t (bits c 0 9) then .trap cAccess 0
    else match x.acceptChan t (bits c 0 9) ⟨bits c 16 10, true, 0, bs, false, none⟩ with
      | some s' => .next (s'.setP t (thrIx th) (a.x.toNat % 8) true)
      | none => .next ((x.count F.LEP_CNT_NOCREDIT_COUNT t.val 1).setP t (thrIx th) (a.x.toNat % 8) false) := by
  rw [State.scalarSend]
  refine (if_neg ?_).trans rfl
  rw [hchan]
  decide

theorem State.acceptChan_no_credit {ch : Nat} {sa : SendArgs} (h : x.rd F.LEP_CHAN_CRED_AVAIL t.val ch = 0) : x.acceptChan t ch sa = none := by
  refine if_neg ?_
  rw [h]
  simp

/-- A channel takes a send only while it is READY and its destination may be reached. -/
theorem State.acceptChan_some {ch : Nat} {sa : SendArgs} {s1 : State} (h : x.acceptChan t ch sa = some s1) :
    x.rd F.LEP_CHAN_CRED_STATE t.val ch = 2 ∧ x.chanReach t ch = true := by
  rw [State.acceptChan] at h
  split at h
  · next hc =>
    simp only [Bool.and_eq_true, decide_eq_true_eq] at hc
    exact ⟨hc.1.1.1.1, hc.1.1.2⟩
  · exact absurd h (Option.some_ne_none s1).symm

/-- The state of a channel's accepted send, its message not yet on its way. -/
def State.creditTaken (x : State) (t : Fin 8) (ch : Nat) : State :=
  ((x.wr F.LEP_CHAN_CRED_AVAIL t.val (x.rd F.LEP_CHAN_CRED_AVAIL t.val ch - 1) ch).onLep t (fun l => { l with
    chanSeq := l.chanSeq.set 0 ch (((x.tile t).lep.chanSeq.getD ch 0 + 1) % 2 ^ 32) })).count F.LEP_CNT_SENT_COUNT t.val 1

/-- The header of a send on a channel to a queue of this device. -/
def State.sendHdr (x : State) (t : Fin 8) (ch : Nat) (sa : SendArgs) : Hdr :=
  ⟨sa.handler, kRequest, sa.last, false, sa.payload.length, t.val, x.rank, ch, 0, x.rd F.LEP_CHAN_CFG_QUEUE t.val ch, x.rd F.LEP_CHAN_CFG_TILE t.val ch, x.rank,
    x.rd F.LEP_CHAN_CFG_RANK t.val ch, (x.tile t).lep.chanSeq.getD ch 0, x.ns, sa.offset, 0, false, 0⟩

/-- The destination's rank is the one packed. -/
theorem Hdr.drank_of_pack (h : Hdr) (hr : h.drank < 64) : (Hdr.of h.pack).drank = h.drank := by
  obtain ⟨-, -, inDest, -⟩ := h.parts_pack
  refine (bits_of_part inDest 11 6 (by decide)).trans ((bits_eq _ _ _).trans ?_)
  simp only [Hdr.partDest]
  omega

/-- A READY channel with a credit, without a response, to a queue of this device takes a send (R248). -/
theorem State.acceptChan_local {ch : Nat} {sa : SendArgs} (hready : x.rd F.LEP_CHAN_CRED_STATE t.val ch = 2) (hcredit : 1 ≤ x.rd F.LEP_CHAN_CRED_AVAIL t.val ch)
    (hplain : x.flag F.LEP_CHAN_CFG_RESP t.val ch = false) (hlocal : x.rd F.LEP_CHAN_CFG_LOCAL t.val ch = 1) (hroom : x.sbufRoom t sa.payload.length = true)
    (hop : sa.op = none) : x.acceptChan t ch sa = some
      ((x.creditTaken t ch).send (.msg (x.sendHdr t ch sa).pack sa.payload sa.poison ⟨x.rank, t.val, false, ch⟩ none)) := by
  have hdest : x.chanDest t ch = ⟨x.rank, x.rd F.LEP_CHAN_CFG_TILE t.val ch, x.rd F.LEP_CHAN_CFG_QUEUE t.val ch⟩ := by
    rw [State.chanDest, State.destRank, if_pos hlocal]
  have hreach : x.chanReach t ch = true := by
    rw [State.chanReach, hdest, State.reach]
    simp
  rw [State.acceptChan, hplain, hdest, hop]
  refine (if_pos ?_).trans rfl
  rw [hready, hreach, hroom]
  simpa using hcredit

/-- Fields whose bits begin at different places of their registers are different. -/
theorem State.rd_count_lo {f g : Fld} (hlo : f.lo ≠ g.lo) (hf : f.lo < 64) (hg : g.lo < 64) (i n z j y : Nat) : (x.count f i n z).rd g j y = x.rd g j y :=
  State.rd_wr_ne x _ (Fld.key_ne (.inr (.inr (.inr (Ne.symm hlo)))) hg hf)

/-- What a unit for this device leaves: it is in the Sluices. -/
theorem State.send_here {m : NetMsg} (hm : m.way.1 = x.rank) : (x.send m).net = x.net ++ [m] ∧ (x.send m).mem = x.mem ∧ ∀ h, (x.send m).thr t h = x.thr t h := by
  have hreach : ({ x with net := x.net ++ [m] } : State).reachOnly (x.send m) := by
    rw [State.send, if_pos hm, State.netPut, State.lepWake]
    split
    · exact State.reachOnly_refl _
    · exact State.reachOnly_wakeTile false _
  refine ⟨by rw [hreach.1], by rw [hreach.1], fun h => (State.reachOnly_thr hreach t h).trans rfl⟩

/-- A thread that has written a predicate and retired. -/
theorem State.thr_setP_retireAt (h : Fin 4) (i pc : Nat) (b : Bool) : ((x.setP t h i b).retireAt t h pc).thr t h = { (x.thr t h).setP i b with
    st := .ready, wait := .none, pc := pc % 2 ^ 48, instret := ((x.thr t h).setP i b).instret + 1
    hsteps := if h = 1 then ((x.thr t h).setP i b).hsteps + 1 else ((x.thr t h).setP i b).hsteps } := by
  rw [State.retireAt, State.thr_onThr, State.setP, State.thr_onThr]

theorem State.rank_creditTaken (ch : Nat) : (x.creditTaken t ch).rank = x.rank :=
  (State.rd_count_foreign (by decide) _ _ _).trans (State.rank_wr (by decide))

theorem State.rd_creditTaken (ch : Nat) : (x.creditTaken t ch).rd F.LEP_CHAN_CRED_AVAIL t.val ch =
    (x.rd F.LEP_CHAN_CRED_AVAIL t.val ch - 1) % 2 ^ F.LEP_CHAN_CRED_AVAIL.w :=
  (State.rd_count_lo (by decide) (by decide) (by decide) _ _ _ _ _).trans (State.rd_wr_same _ _ _ _ _)

/-- What stays when a predicate is written and the instruction retires. -/
theorem State.setP_retireAt_rest (h : Fin 4) (i pc : Nat) (b : Bool) : let u := (x.setP t h i b).retireAt t h pc
    (∀ f j y, u.rd f j y = x.rd f j y) ∧ u.net = x.net ∧ u.mem = x.mem := ⟨fun _ _ _ => rfl, rfl, rfl⟩

/-- The end of an accepted scalar send to a queue of this device: a credit taken, the message in the Sluices, the predicate true. -/
theorem State.sent_shows {ch : Nat} {sa : SendArgs} {h : Fin 4} {i pc : Nat} {m : NetMsg} (hm : m = .msg (x.sendHdr t ch sa).pack sa.payload sa.poison ⟨x.rank, t.val, false, ch⟩ none)
    (hrank : x.rank < 64) (hi : i < 8) :
    let u := (((x.creditTaken t ch).send m).setP t h i true).retireAt t h pc
    u.rd F.LEP_CHAN_CRED_AVAIL t.val ch = (x.rd F.LEP_CHAN_CRED_AVAIL t.val ch - 1) % 2 ^ F.LEP_CHAN_CRED_AVAIL.w ∧
      (i ≠ 0 → (u.thr t h).getP i = true) ∧ (u.thr t h).pc = pc % 2 ^ 48 ∧ u.net = x.net ++ [m] ∧ u.mem = x.mem := by
  have hway : m.way.1 = (x.creditTaken t ch).rank := by
    rw [State.rank_creditTaken, hm]
    exact Hdr.drank_of_pack (x.sendHdr t ch sa) hrank
  obtain ⟨hnet, hmem, -⟩ := State.send_here (t := t) hway
  obtain ⟨hrd, hunet, humem⟩ := State.setP_retireAt_rest (x := (x.creditTaken t ch).send m) (t := t) h i pc true
  have hthr := State.thr_setP_retireAt (x := (x.creditTaken t ch).send m) (t := t) h i pc true
  intro u
  refine ⟨?_, fun hne => ?_, by rw [hthr], hunet.trans hnet, humem.trans hmem⟩
  · rw [hrd, State.rd_send _ _ _ _ (by decide) (by decide), State.rd_creditTaken]
  · rw [hthr]
    exact (Thread.getP_setP _ true hi hi).trans (if_pos ⟨rfl, hne⟩)

end Channel

/-! ### The instructions -/

section Instructions
variable {s : State} {t : Fin 8} {th : Thr} {a : RArgs} {w : Nat} {body : State → Act} (hissues : s.issues t th)
include hissues

/-- An instruction that goes on in a state of its own retires there. -/
theorem State.scalar_next_at {u : State} (hbody : body (s.fetched t th w) = .next u) {c : Instr} (hc : exec c s = ok s (s.scalar t th w body)) :
    s.gives c (u.retireAt t (thrIx th) ((s.thr t (thrIx th)).pc + 4)) := by
  rw [State.gives, hc, State.scalar_issues hissues, hbody, State.act, State.thr_fetched]
  rfl

omit hissues

/-- A word's predicate number below 8 is its own remainder. -/
theorem RArgs.pred_mod (hx : a.x.toNat < 8) : a.x.toNat % 8 = a.x.toNat := Nat.mod_eq_of_lt hx

/-- What SENDR does in the state in which it is fetched. -/
def sendrBody (t : Fin 8) (th : Thr) (a : RArgs) (s : State) : Act :=
  Act.ifLegal (a.gd.toNat = 0 && a.x.toNat < 8 && a.gb.toNat ≤ 56 && !ctlRsv (s.ga t th a.ga).toNat)
    (s.scalarSend t th a ((List.range 8).flatMap (fun k => leBytes 8 (s.g t (thrIx th) (a.gb.toNat + k)).toNat)))

theorem exec_lodeSendr (s : State) : exec (.lodeSendr t th a) s = ok s (s.scalar t th (rWord clsThr 8 a) (sendrBody t th a)) := rfl

/-- What SENDM does in the state in which it is fetched. -/
def sendmBody (t : Fin 8) (th : Thr) (a : RArgs) (s : State) : Act :=
  let c := (s.ga t th a.ga).toNat
  let n := bits c 32 16
  let va := (s.g t (thrIx th) a.gb.toNat).toNat % 2 ^ 48
  Act.ifLegal (a.gd.toNat = 0 && a.x.toNat < 8 && !ctlRsv c && n ≤ 4096 &&
      (bits c 31 1 = 1 || n ≤ s.rd F.LEP_CHAN_CFG_MAXLEN t.val (bits c 0 9)))
    (if n ≠ 0 ∧ va % 32 ≠ 0 then .trap cMisalign va
    else match s.gatherVa t th va n with
      | .error e => e
      | .ok (bs, u) => u.scalarSend t th a bs)

/-- A SENDR with legal fields sends the eight registers' bytes. -/
theorem State.sendr_body (hgd : a.gd = 0) (hx : a.x.toNat < 8) (hgb : a.gb.toNat ≤ 56) (hrsv : ctlRsv (s.g t (thrIx th) a.ga.toNat).toNat = false) :
    sendrBody t th a (s.fetched t th w) =
    (s.fetched t th w).scalarSend t th a ((List.range 8).flatMap (fun k => leBytes 8 (s.g t (thrIx th) (a.gb.toNat + k)).toNat)) := by
  have hctl : (s.fetched t th w).ga t th a.ga = s.g t (thrIx th) a.ga.toNat := State.ga_fetched t th a.ga
  rw [sendrBody, hctl, hrsv, hgd]
  simp only [State.g_fetched]
  exact if_pos (by simp [hx, hgb])

/-- A SENDM with legal fields reads its payload first. -/
theorem State.sendm_body (hgd : a.gd = 0) (hx : a.x.toNat < 8) (hrsv : ctlRsv (s.g t (thrIx th) a.ga.toNat).toNat = false)
    (hmax : bits (s.g t (thrIx th) a.ga.toNat).toNat 32 16 ≤ 4096)
    (hlen : bits (s.g t (thrIx th) a.ga.toNat).toNat 32 16 ≤ s.rd F.LEP_CHAN_CFG_MAXLEN t.val (bits (s.g t (thrIx th) a.ga.toNat).toNat 0 9)) :
    sendmBody t th a (s.fetched t th w) =
      if bits (s.g t (thrIx th) a.ga.toNat).toNat 32 16 ≠ 0 ∧ (s.g t (thrIx th) a.gb.toNat).toNat % 2 ^ 48 % 32 ≠ 0 then
        .trap cMisalign ((s.g t (thrIx th) a.gb.toNat).toNat % 2 ^ 48)
      else match (s.fetched t th w).gatherVa t th ((s.g t (thrIx th) a.gb.toNat).toNat % 2 ^ 48) (bits (s.g t (thrIx th) a.ga.toNat).toNat 32 16) with
        | .error e => e
        | .ok (bs, u) => u.scalarSend t th a bs := by
  have hctl : (s.fetched t th w).ga t th a.ga = s.g t (thrIx th) a.ga.toNat := State.ga_fetched t th a.ga
  have hmaxlen := (State.SameLep.fetched s t th w).rd F.LEP_CHAN_CFG_MAXLEN t.val (bits (s.g t (thrIx th) a.ga.toNat).toNat 0 9) (by decide)
  rw [sendmBody, hctl, hrsv, hgd, State.g_fetched, hmaxlen]
  exact if_pos (by simp [hx, hmax, hlen])

end Instructions

/-- Where an instruction's scalar send on a channel ends, by what the channel's state was when it was fetched. -/
theorem State.SameLep.send_chan {s x : State} {t : Fin 8} {th : Thr} {a : RArgs} {bs : List Byte} (h : s.SameLep x t)
    (hchan : bits (s.g t (thrIx th) a.ga.toNat).toNat 31 1 = 0) (hx : a.x.toNat < 8) : x.scalarSend t th a bs =
    let c := (s.g t (thrIx th) a.ga.toNat).toNat
    if s.breaksRank t (thrIx th).val (s.rd F.LEP_CHAN_CFG_RANK t.val (bits c 0 9)) then .trap cRank 0
    else if s.rd F.LEP_CHAN_CRED_STATE t.val (bits c 0 9) = 2 ∧ !s.chanReach t (bits c 0 9) then .trap cAccess 0
    else match x.acceptChan t (bits c 0 9) ⟨bits c 16 10, true, 0, bs, false, none⟩ with
      | some s' => .next (s'.setP t (thrIx th) a.x.toNat true)
      | none => .next ((x.count F.LEP_CNT_NOCREDIT_COUNT t.val 1).setP t (thrIx th) a.x.toNat false) := by
  have hctl : x.ga t th a.ga = s.g t (thrIx th) a.ga.toNat := h.ga th a.ga
  rw [State.scalarSend_chan (by rw [hctl]; exact hchan), hctl]
  simp only [h.breaksRank, h.chanReach, h.rd F.LEP_CHAN_CFG_RANK _ _ (by decide), h.rd F.LEP_CHAN_CRED_STATE _ _ (by decide), RArgs.pred_mod hx]

/-! ### SELECT -/

section Select
variable {s x : State} {t : Fin 8} {th : Thr} {a : RArgs}

/-- A queue whose head message a thread has taken. -/
def LepQueue.headTaken (slot : Nat) (rest : List Nat) (x : LepQueue) : LepQueue :=
  { x with
    fifo := rest
    slots := match x.slots.find? slot with
      | some sl => x.slots.put slot { sl with st := .held }
      | none => x.slots }

/-- A LEP of which a thread has taken a message. -/
def Lep.headTaken (h q pos slot : Nat) (l : Lep) : Lep :=
  { l with
    held := l.held.put h ⟨q, slot, false⟩
    selLast := l.selLast.put h (pos + 1)
    selWait := l.selWait.filter (fun w => decide (w.1 ≠ h)) }

/-- A queue's head message taken by a thread. -/
def State.headTaken (x : State) (t : Fin 8) (h q pos slot : Nat) (rest : List Nat) : State :=
  (x.onQueue t q (LepQueue.headTaken slot rest)).onLep t (Lep.headTaken h q pos slot)

theorem State.selTake_head {h q pos slot : Nat} {rest : List Nat} (hfifo : (x.queue t q).fifo = slot :: rest) :
    x.selTake t h q pos = some (x.headTaken t h q pos slot rest, slot) := by
  rw [State.selTake, hfifo]
  rfl

theorem State.queue_onLep {u : State} {f : Lep → Lep} (hf : ∀ l, (f l).queues = l.queues) (q : Nat) : (u.onLep t f).queue t q = u.queue t q := by
  rw [State.queue, State.onLep, State.tile_onTile]
  exact congrArg (fun m => SMap.getD m q .off) (hf _)

/-- What taking a queue's head shows. -/
theorem State.headTaken_shows (h q pos slot : Nat) (rest : List Nat) : ((x.headTaken t h q pos slot rest).tile t).lep.held.find? h = some ⟨q, slot, false⟩ ∧
    ((x.headTaken t h q pos slot rest).queue t q).fifo = rest ∧ (x.headTaken t h q pos slot rest).mem = x.mem := by
  refine ⟨?_, ?_, rfl⟩
  · rw [State.headTaken, State.onLep, State.tile_onTile]
    exact SMap.find_put_same _ _ _
  · rw [State.headTaken, State.queue_onLep (f := Lep.headTaken h q pos slot) fun _ => rfl, State.queue_onQueue]
    rfl

/-- A thread that has written a general register and retired. -/
theorem State.setG_retireAt_shows (h : Fin 4) (i pc : Nat) (v : Word) : let u := (x.setG t h i v).retireAt t h pc
    (u.thr t h).pc = pc % 2 ^ 48 ∧ (i ≠ 0 → (u.thr t h).getG i = v) ∧ (u.tile t).lep = (x.tile t).lep ∧ u.mem = x.mem := by
  have hthr : ((x.setG t h i v).retireAt t h pc).thr t h = { (x.thr t h).setG i v with
      st := .ready, wait := .none, pc := pc % 2 ^ 48, instret := ((x.thr t h).setG i v).instret + 1
      hsteps := if h = 1 then ((x.thr t h).setG i v).hsteps + 1 else ((x.thr t h).setG i v).hsteps } := by
    rw [State.retireAt, State.thr_onThr, State.setG, State.thr_onThr]
  intro u
  refine ⟨by rw [hthr], fun hi => ?_, ?_, rfl⟩
  · rw [hthr]
    exact (Thread.getG_setG _ v i i).trans (if_pos ⟨rfl, hi⟩)
  · rw [State.lep_retireAt, State.setG, State.onThr, State.tile_onTile]
    rfl

/-- SELECT's end, of a thread that holds no message. -/
def State.selected (s x : State) (t : Fin 8) (th : Thr) (a : RArgs) : Act :=
  let ga := (s.g t (thrIx th) a.ga.toNat).toNat
  let gb := (s.g t (thrIx th) a.gb.toNat).toNat
  if bits a.x.toNat 2 1 = 1 then x.toG t th a.gd (BitVec.ofNat 64 0xFFFF)
  else match s.selPick t (thrIx th).val ga gb (bits a.x.toNat 0 1 = 1) with
    | some q => match x.selTake t (thrIx th).val q (selPos ga gb q) with
      | some (s2, slot) => s2.toG t th a.gd (BitVec.ofNat 64 (s.slotVa t q slot * 65536 + q))
      | none => x.toG t th a.gd (BitVec.ofNat 64 0xFFFF)
    | none =>
      if bits a.x.toNat 1 1 = 1 then x.toG t th a.gd (BitVec.ofNat 64 0xFFFF)
      else .wait (x.onLep t (fun l => l.selBlock (thrIx th).val (selList ga gb))) .retry

/-- What SELECT does in the state in which it is fetched. -/
def selectBody (t : Fin 8) (th : Thr) (a : RArgs) (s : State) : Act :=
  let h := thrIx th
  let ga := (s.ga t th a.ga).toNat
  let gb := (s.g t h a.gb.toNat).toNat
  let x := a.x.toNat
  Act.ifLegal (th ≠ .msg && x < 8)
    (let s1 := s.releaseHeld t h.val
     let put (s : State) (v : Nat) : Act := .next (s.setG t h a.gd.toNat (BitVec.ofNat 64 v))
     if bits x 2 1 = 1 then put s1 0xFFFF
     else match s1.selPick t h.val ga gb (bits x 0 1 = 1) with
      | some q => match s1.selTake t h.val q (selPos ga gb q) with
        | some (s2, slot) => put s2 (s.slotVa t q slot * 65536 + q)
        | none => put s1 0xFFFF
      | none =>
        if bits x 1 1 = 1 then put s1 0xFFFF
        else .wait (s1.onLep t (fun l => l.selBlock h.val (selList ga gb))) .retry)

/-- SELECT of a thread that holds no message. -/
theorem State.select_body {w : Nat} (hth : th ≠ .msg) (hx : a.x.toNat < 8) (hfree : (s.tile t).lep.held.find? (thrIx th).val = none) :
    selectBody t th a (s.fetched t th w) =
    s.selected (s.fetched t th w) t th a := by
  have hsame : s.SameLep (s.fetched t th w) t := .fetched s t th w
  have hrelease : (s.fetched t th w).releaseHeld t (thrIx th).val = s.fetched t th w := by
    rw [State.releaseHeld, State.lep_fetched, hfree]
  have hctl : (s.fetched t th w).ga t th a.ga = s.g t (thrIx th) a.ga.toNat := State.ga_fetched t th a.ga
  rw [selectBody, Act.ifLegal, if_pos (by simp [hth, hx]), hrelease, hctl, State.g_fetched]
  simp only [hsame.selPick, hsame.slotVa]
  rfl

end Select

/-- A SENDR accepted on a channel to a queue of this device. -/
theorem State.sendr_accepted {s : State} {t : Fin 8} {th : Thr} {a : RArgs} (hissues : s.issues t th) (hgd : a.gd = 0) (hx : a.x.toNat < 8) (hgb : a.gb.toNat ≤ 56) :
    let c := (s.g t (thrIx th) a.ga.toNat).toNat
    let ch := bits c 0 9
    let avail := s.rd F.LEP_CHAN_CRED_AVAIL t.val ch
    ctlRsv c = false → bits c 31 1 = 0 → s.breaksRank t (thrIx th).val (s.rd F.LEP_CHAN_CFG_RANK t.val ch) = false →
    s.rd F.LEP_CHAN_CRED_STATE t.val ch = 2 → 1 ≤ avail → s.flag F.LEP_CHAN_CFG_RESP t.val ch = false → s.rd F.LEP_CHAN_CFG_LOCAL t.val ch = 1 →
    s.rank < 64 → s.sbufRoom t 64 = true →
    ∃ u h, exec (.lodeSendr t th a) s = .next u ∧ u.rd F.LEP_CHAN_CRED_AVAIL t.val ch = (avail - 1) % 2 ^ F.LEP_CHAN_CRED_AVAIL.w ∧
      (a.x ≠ 0 → (u.thr t (thrIx th)).getP a.x.toNat = true) ∧ (u.thr t (thrIx th)).pc = ((s.thr t (thrIx th)).pc + 4) % 2 ^ 48 ∧
      u.net = s.net ++ [.msg (Hdr.pack h) ((List.range 8).flatMap (fun k => leBytes 8 (s.g t (thrIx th) (a.gb.toNat + k)).toNat)) false
        ⟨s.rank, t.val, false, ch⟩ none] ∧
      h.handler = bits c 16 10 ∧ h.kind = kRequest ∧ h.last = true ∧ h.ln = 64 ∧ h.stile = t.val ∧ h.srank = s.rank ∧ h.chan = ch ∧
      h.dq = s.rd F.LEP_CHAN_CFG_QUEUE t.val ch ∧ h.dtile = s.rd F.LEP_CHAN_CFG_TILE t.val ch ∧ h.drank = s.rank ∧
      h.crank = s.rd F.LEP_CHAN_CFG_RANK t.val ch ∧ h.seq = (s.tile t).lep.chanSeq.getD ch 0 ∧ h.time = s.ns ∧ u.mem = s.mem := by
  intro c ch avail hrsv hchan hbreaks hready hcredit hplain hlocal hrank hroom
  let sa : SendArgs := ⟨bits c 16 10, true, 0, (List.range 8).flatMap (fun k => leBytes 8 (s.g t (thrIx th) (a.gb.toNat + k)).toNat), false, none⟩
  let x := s.fetched t th (rWord clsThr 8 a)
  have hsame : s.SameLep x t := .fetched s t th _
  have hlen : sa.payload.length = 64 := by simp [sa]
  have hsend := (State.sendr_body (w := rWord clsThr 8 a) hgd hx hgb hrsv).trans (hsame.send_chan hchan hx)
  have havail : x.rd F.LEP_CHAN_CRED_AVAIL t.val ch = avail := hsame.rd _ _ _ (by decide)
  have haccept : x.acceptChan t ch sa = some ((x.creditTaken t ch).send (.msg (x.sendHdr t ch sa).pack sa.payload sa.poison ⟨x.rank, t.val, false, ch⟩ none)) :=
    State.acceptChan_local ((hsame.rd _ _ _ (by decide)).trans hready) (by rw [havail]; exact hcredit) ((hsame.flag _ _ _ (by decide)).trans hplain)
      ((hsame.rd _ _ _ (by decide)).trans hlocal) (by rw [hlen]; exact (hsame.sbufRoom 64).trans hroom) rfl
  have hnext : sendrBody t th a x =
      .next (((x.creditTaken t ch).send (.msg (x.sendHdr t ch sa).pack sa.payload sa.poison ⟨x.rank, t.val, false, ch⟩ none)).setP t (thrIx th) a.x.toNat true) := by
    have hreach : s.chanReach t ch = true := (hsame.chanReach ch).symm.trans (State.acceptChan_some haccept).2
    refine hsend.trans ((if_neg (by rw [hbreaks]; decide)).trans ((if_neg fun h => ?_).trans ?_))
    · rw [show s.chanReach t _ = true from hreach] at h
      exact Bool.noConfusion h.2
    · rw [show x.acceptChan t _ _ = _ from haccept]
  obtain ⟨hcred, hp, hpc, hnet, hmem⟩ := State.sent_shows (x := x) (t := t) (ch := ch) (sa := sa) (h := thrIx th) (i := a.x.toNat) (pc := (s.thr t (thrIx th)).pc + 4)
    (m := .msg (x.sendHdr t ch sa).pack sa.payload sa.poison ⟨x.rank, t.val, false, ch⟩ none) rfl (by rw [hsame.near.rank]; exact hrank) hx
  obtain ⟨u, hu, hfacts⟩ := (State.scalar_next_at hissues hnext (exec_lodeSendr s)).next_of (P := fun u : State =>
    u.rd F.LEP_CHAN_CRED_AVAIL t.val ch = (x.rd F.LEP_CHAN_CRED_AVAIL t.val ch - 1) % 2 ^ F.LEP_CHAN_CRED_AVAIL.w ∧
    (a.x.toNat ≠ 0 → (u.thr t (thrIx th)).getP a.x.toNat = true) ∧ (u.thr t (thrIx th)).pc = ((s.thr t (thrIx th)).pc + 4) % 2 ^ 48 ∧
    u.net = x.net ++ [NetMsg.msg (x.sendHdr t ch sa).pack sa.payload sa.poison ⟨x.rank, t.val, false, ch⟩ none] ∧ u.mem = x.mem)
    ⟨hcred, hp, hpc, hnet, hmem⟩ fun _ _ h => h
  obtain ⟨hucred, hup, hupc, hunet, humem⟩ := hfacts
  have hxnet : x.net = s.net := by rw [hsame.near.rest]
  refine ⟨u, x.sendHdr t ch sa, hu, by rw [hucred, havail], fun hne => hup fun h0 => hne (BitVec.eq_of_toNat_eq h0), hupc, ?_, rfl, rfl, rfl, hlen, rfl,
    hsame.near.rank, rfl, hsame.rd _ _ _ (by decide), hsame.rd _ _ _ (by decide), hsame.near.rank, hsame.rd _ _ _ (by decide), ?_, ?_, humem.trans hsame.near.mem⟩
  · rw [hunet, hxnet, hsame.near.rank]
  · exact congrArg (fun l : Lep => l.chanSeq.getD ch 0) hsame.lep
  · exact State.ns_fetched (w := rWord clsThr 8 a)

/-- Settles O25: each test of a scalar send in its order, after a fetch that leaves the LEP as it was. -/
theorem scalarLodeResult : Obligations.ScalarLodeResult := by
  refine ⟨?_, ?_, ?_, ?_⟩
  · intro t th a s hissues hgd hx hgb c ch avail hrsv hchan
    have hsame : s.SameLep (s.fetched t th (rWord clsThr 8 a)) t := .fetched s t th _
    have hbody := (State.sendr_body (w := rWord clsThr 8 a) hgd hx hgb hrsv).trans (hsame.send_chan hchan hx)
    refine ⟨fun hbreaks => ?_, fun hbreaks hready hfar => ?_, fun hbreaks hopen hcredit => ?_, fun hbreaks hready hcredit hplain hlocal hrank hroom => ?_⟩
    · exact State.scalar_trap hissues (hbody.trans (if_pos hbreaks)) (by decide) rfl
    · refine State.scalar_trap hissues (hbody.trans ((if_neg ?_).trans (if_pos ⟨hready, ?_⟩))) (by decide) rfl
      · rw [hbreaks]; decide
      · rw [hfar]; rfl
    · refine State.scalar_next hissues (f := fun x => (x.count F.LEP_CNT_NOCREDIT_COUNT t.val 1).setP t (thrIx th) a.x.toNat false) (hbody.trans ?_) rfl
      refine (if_neg (by rw [hbreaks]; decide)).trans ((if_neg ?_).trans ?_)
      · rintro ⟨hready, hfar⟩
        rcases hopen with h | h
        · exact h hready
        · rw [h] at hfar
          exact Bool.noConfusion hfar
      · rw [State.acceptChan_no_credit ((hsame.rd _ _ _ (by decide)).trans hcredit)]
    · exact State.sendr_accepted hissues hgd hx hgb hrsv hchan hbreaks hready hcredit hplain hlocal hrank hroom
  · intro t th a s hissues hgd hx c n va hrsv hchan hpos hmax hlen
    have hbody := State.sendm_body (w := rWord clsThr 9 a) hgd hx hrsv hmax hlen
    refine ⟨fun hmis => ?_, fun bs v hal hgather hbreaks => ?_⟩
    · exact State.scalar_trap hissues (hbody.trans (if_pos ⟨Nat.pos_iff_ne_zero.mp hpos, hmis⟩)) (by decide) rfl
    · have hsame : s.SameLep v t := (State.SameLep.fetched s t th _).trans (.of_reachOnly (State.reachOnly_gatherVa hgather))
      have hread : sendmBody t th a (s.fetched t th (rWord clsThr 9 a)) = v.scalarSend t th a bs := by
        rw [hbody, if_neg fun h => h.2 hal, hgather]
      have hsend := hread.trans (hsame.send_chan hchan hx)
      refine ⟨fun hopen hcredit => ?_, fun s1 haccept => ?_⟩
      · refine State.scalar_next_at hissues (hsend.trans ((if_neg (by rw [hbreaks]; decide)).trans ((if_neg ?_).trans ?_))) rfl
        · rintro ⟨hready, hfar⟩
          rcases hopen with h | h
          · exact h hready
          · rw [h] at hfar
            exact Bool.noConfusion hfar
        · rw [State.acceptChan_no_credit ((hsame.rd _ _ _ (by decide)).trans hcredit)]
      · obtain ⟨-, hreach⟩ := State.acceptChan_some haccept
        refine State.scalar_next_at hissues (hsend.trans ((if_neg (by rw [hbreaks]; decide)).trans ((if_neg ?_).trans ?_))) rfl
        · rintro ⟨-, hfar⟩
          rw [← hsame.chanReach, hreach] at hfar
          exact Bool.noConfusion hfar
        · rw [haccept]
  · intro t th a s hissues hth hx hfree ga gb
    have hbody := State.select_body (w := rWord clsThr 10 a) hth hx hfree
    have hsame : s.SameLep (s.fetched t th (rWord clsThr 10 a)) t := .fetched s t th _
    refine ⟨fun hrelease => ?_, fun htake hnone hpoll => ?_, fun q slot rest htake hpick hfifo => ?_⟩
    · exact State.scalar_toG hissues (hbody.trans (if_pos hrelease))
    · refine State.scalar_toG hissues (hbody.trans ((if_neg (by rw [htake]; decide)).trans ?_))
      rw [hnone]
      exact if_pos hpoll
    · have hs2 := State.selTake_head (x := s.fetched t th (rWord clsThr 10 a)) (t := t) (h := (thrIx th).val) (pos := selPos ga gb q) ((congrArg LepQueue.fifo (hsame.queue q)).trans hfifo)
      have hgives := State.scalar_next_at hissues (c := .lodeSelect t th a) (hbody.trans ((if_neg (by rw [htake]; decide)).trans (by rw [hpick]; dsimp only; rw [hs2]; rfl))) rfl
      obtain ⟨hheld, hrest, hmem⟩ := State.headTaken_shows (x := s.fetched t th (rWord clsThr 10 a)) (t := t) (thrIx th).val q (selPos ga gb q) slot rest
      obtain ⟨hpc, hg, hlep, humem⟩ := State.setG_retireAt_shows (x := (s.fetched t th (rWord clsThr 10 a)).headTaken t (thrIx th).val q (selPos ga gb q) slot rest) (t := t)
        (thrIx th) a.gd.toNat ((s.thr t (thrIx th)).pc + 4) (BitVec.ofNat 64 (s.slotVa t q slot * 65536 + q))
      refine hgives.next_of ⟨hpc, fun hgd => hg fun h0 => hgd (BitVec.eq_of_toNat_eq h0), ?_, ?_, ?_⟩ fun _ _ h => h
      · rw [hlep, hheld]
      · rw [State.queue, hlep]
        exact hrest
      · exact (humem.trans hmem).trans State.mem_fetched
  · intro t a s hissues
    exact State.scalar_illegal hissues rfl rfl rfl

end Sys2Proof.Machine
end

section
/-! SUPPORT. Proofs about a work ring's registers and fetches (R382, R384, R393, R397 to R401). -/
namespace Sys2Proof.Machine

/-! ### Enable and disable -/

section Enable
variable {s : State} {f : Fin 32} {r : Fin 64} {val : BitVec 64}

/-- A function that takes no access takes no write to its rings. -/
theorem State.ring_writes_ignored (htakes : s.fnTakes f.val = false) (val : BitVec 64) (p : BitVec 32) :
    s.gives (.ringEnable f r val) s ∧ s.gives (.ringDisable f r val) s ∧ s.gives (.doorbell f r p) s ∧ s.gives (.cqHeadWrite f r p) s ∧
      s.gives (.ringProgSelWrite f r p) s ∧ s.gives (.timeNowRead f) s := by
  have hnot : ¬s.fnTakes f.val = true := by rw [htakes]; decide
  exact ⟨congrArg (ok s) (if_neg fun h => hnot h.1), congrArg (ok s) (if_neg fun h => hnot h.1), congrArg (ok s) (if_pos (by rw [htakes]; rfl)),
    congrArg (ok s) (if_neg hnot), congrArg (ok s) (if_neg hnot), congrArg (ok s) (if_neg hnot)⟩

theorem State.ringEnable_gives (htakes : s.fnTakes f.val = true) (hen : bits val.toNat 0 1 = 1) :
    s.gives (.ringEnable f r val) (s.ringEnable f.val r.val val.toNat) := congrArg (ok s) (if_pos ⟨htakes, hen⟩)

theorem State.ringDisable_gives (htakes : s.fnTakes f.val = true) (hen : bits val.toNat 0 1 = 0) :
    s.gives (.ringDisable f r val) (s.ringDisable f.val r.val val.toNat) := congrArg (ok s) (if_pos ⟨htakes, hen⟩)

/-- A ring that is READY or in ERR drains once it is disabled (R401). -/
theorem State.ringDisable_used {f r v : Nat} (hused : s.rState f r = 1 ∨ s.rState f r = 2) : s.ringDisable f r v =
    (((((s.putRingCfg f r v false).wr F.HIU_RING_CFG_EN f 0 r).wr F.HIU_RING_STATUS_STATE f 3 r).onRing f r
      (fun x => { x with cmds := x.cmds.filter (fun c => c.started) })).sweep f r) := by
  have hoff : s.rState f r ≠ rOff := by
    rcases hused with h | h
    all_goals rw [h]; decide
  rw [State.ringDisable, decide_eq_false hoff]
  exact if_pos hused

theorem State.ringDisable_off {f r v : Nat} (hoff : s.rState f r = 0) :
    s.ringDisable f r v = (s.putRingCfg f r v true).wr F.HIU_RING_CFG_EN f 0 r := by
  rw [State.ringDisable, hoff]
  rfl

end Enable

/-- Settles O26: the tests of RING_CFG's write, and what entering ERR leaves. -/
theorem ringEnableAndDisable : Obligations.RingEnableAndDisable := by
  refine ⟨fun f r val p s htakes => State.ring_writes_ignored htakes val p, ?_, fun f r val s htakes hen => ?_, fun s f r cause => ⟨?_, ?_⟩⟩
  · intro f r val s htakes hen s1
    have hgives := State.ringEnable_gives (r := r) htakes hen
    refine ⟨fun hused => ?_, fun hoff hin => ?_, fun hoff hout => ?_⟩
    · rwa [State.ringEnable, if_pos hused] at hgives
    · rwa [State.ringEnable, if_neg (not_not_intro hoff), if_pos hin] at hgives
    · rwa [State.ringEnable, if_neg (not_not_intro hoff), if_neg (by rw [show s1.ringIn f.val r.val = false from hout]; decide)] at hgives
  · have hgives := State.ringDisable_gives (r := r) htakes hen
    refine ⟨fun hoff => ?_, fun hused => ?_⟩
    · rwa [State.ringDisable_off hoff] at hgives
    · rwa [State.ringDisable_used hused] at hgives
  · exact fun h => if_pos h
  · exact fun h => if_neg (by rcases h with h | h <;> rw [h] <;> decide)

/-! ### Fetches -/

section Fetch
variable {s : State} {f r pa : Nat}

theorem State.FetchOpen.not_held (hopen : s.FetchOpen f r) : ¬(s.rState f r ≠ rReady || !s.fnLive f || (s.ring f r).fetched = (s.ring f r).prod ||
    16 ≤ ((s.ring f r).cmds.filter (fun c => !c.started)).length || s.owes (fun w => w = .cmd f r (s.ring f r).fetched) || s.bar2Owes) = true := by
  obtain ⟨hready, hlive, hcovered, hroom, hasked, hvisible⟩ := hopen
  simp [hready, hlive, hcovered, hroom, hasked, hvisible]

theorem State.fetch_held {fail : Option CplErr} (h : s.rState f r ≠ 1 ∨ (s.ring f r).fetched = (s.ring f r).prod) : s.fetch f r fail = s := by
  refine if_pos ?_
  rcases h with h | h
  · simp [h]
  · simp [h]

variable (hopen : s.FetchOpen f r) (hslot : s.rd F.HIU_RING_BASE_PA f r * 4096 + (s.ring f r).fetched % s.rSize f r * 64 = pa)
include hopen hslot

/-- A fetch outside the assignment is a FETCH error (R400). -/
theorem State.fetch_refused {e : MFault} {fail : Option CplErr} (hpa : s.paCheck f pa = .error e) : s.fetch f r fail = s.ringErr f r 3 := by
  unfold State.fetch
  rw [if_neg hopen.not_held, hslot, hpa]

variable (hpa : s.paCheck f pa = .ok ()) (hats : s.hiuAts f pa 64 = none)
include hpa hats

/-- A fetch whose read from host memory fails is a FETCH error and an AER error (R374). -/
theorem State.fetch_failed {o : Nat} {e : CplErr} (hhost : s.region pa = .host o) : s.fetch f r (some e) = (s.ringErr f r 3).aerErr f (cplBit e) := by
  unfold State.fetch
  rw [if_neg hopen.not_held, hslot, hpa, hats]
  dsimp only
  rw [hhost]

/-- A fetch of poisoned bytes is a FETCH error (R400). -/
theorem State.fetch_poisoned (hnear : ∀ d o, s.region pa ≠ .fen d o) (hpoison : s.poisonIn pa 64 = true) :
    s.fetch f r none = (s.hiuTook pa 64).ringErr f r 3 := by
  unfold State.fetch
  rw [if_neg hopen.not_held, hslot, hpa, hats, hpoison]
  dsimp only
  split
  · next d o hfar => exact absurd hfar (hnear d o)
  · split
    · contradiction
    · exact if_pos rfl

end Fetch

/-! ### CQ_HEAD, progress and vectors -/

section Registers
variable {s : State}

theorem State.cqHead_taken {f r v : Nat} (hused : s.rState f r ≠ 0)
    (hin : sub32 v (s.rd F.HIU_CQ_HEAD_HEAD f r) ≤ sub32 (s.rd F.HIU_CQ_TAIL_TAIL f r) (s.rd F.HIU_CQ_HEAD_HEAD f r)) :
    s.cqHead f r v = (s.wr F.HIU_CQ_HEAD_HEAD f v r).sweep f r :=
  (if_neg hused).trans (if_neg (Nat.not_lt.mpr hin))

theorem State.cqHead_beyond {f r v : Nat} (hused : s.rState f r ≠ 0)
    (hout : sub32 (s.rd F.HIU_CQ_TAIL_TAIL f r) (s.rd F.HIU_CQ_HEAD_HEAD f r) < sub32 v (s.rd F.HIU_CQ_HEAD_HEAD f r)) :
    s.cqHead f r v = (s.wr F.HIU_CQ_HEAD_HEAD f v r).ringErr f r 2 :=
  (if_neg hused).trans (if_pos hout)

/-- A changed function. -/
@[simp] theorem State.fn_onFn (f : Nat) (g : Fn → Fn) : (s.onFn f g).fn f = g (s.fn f) := by
  rw [State.onFn, State.fn]
  exact SMap.getD_set_same _ _ _

/-- Clearing one vector's bit leaves the others. -/
theorem getLsbD_cleared {b : BitVec 64} {v w : Nat} (hw : w < 64) : (b &&& ~~~(1#64 <<< v)).getLsbD w = (b.getLsbD w && decide (w ≠ v)) := by
  simp only [BitVec.getLsbD_and, BitVec.getLsbD_not, BitVec.getLsbD_shiftLeft, BitVec.getLsbD_one, hw]
  by_cases h : w = v
  · simp [h]
  · by_cases hlt : w < v
    · simp [h, hlt]
    · have hpos : w - v ≠ 0 := by omega
      simp [h, hlt, hpos]

/-- Unmasking a vector that is pending sends its message (R397). -/
theorem State.unmask_pending {f : Fin 32} {v : Fin 64} (hlive : s.fnLive f.val = true) (hen : (s.fn f.val).msixEnable = true)
    (hpend : (s.fn f.val).msixPend.getLsbD v.val = true) :
    ∃ u, exec (.msixVectorUnmask f v) s = .next u ∧ u.out = s.out ++ [.msix f.val v.val] ∧ (u.fn f.val).msixMask.getLsbD v.val = false ∧
      (u.fn f.val).msixPend.getLsbD v.val = false ∧ (∀ w, w ≠ v.val → (u.fn f.val).msixMask.getLsbD w = (s.fn f.val).msixMask.getLsbD w) ∧ u.mem = s.mem := by
  let s1 := s.onFn f.val fun x => { x with msixMask := x.msixMask &&& ~~~(1#64 <<< v.val) }
  have hfn1 : s1.fn f.val = { s.fn f.val with msixMask := (s.fn f.val).msixMask &&& ~~~(1#64 <<< v.val) } := State.fn_onFn _ _
  have hunmask : s.unmask f.val v.val =
      (s1.onFn f.val fun x => { x with msixPend := x.msixPend &&& ~~~(1#64 <<< v.val) }).emit (.msix f.val v.val) := by
    refine if_pos ?_
    rw [show State.fn _ f.val = _ from hfn1, hpend, hen]
    rfl
  have hgives : s.gives (.msixVectorUnmask f v) ((s1.onFn f.val fun x => { x with msixPend := x.msixPend &&& ~~~(1#64 <<< v.val) }).emit (.msix f.val v.val)) := by
    rw [← hunmask]
    exact congrArg (ok s) (if_pos hlive)
  have hfn : ((s1.onFn f.val fun x => { x with msixPend := x.msixPend &&& ~~~(1#64 <<< v.val) }).emit (.msix f.val v.val)).fn f.val =
      { s.fn f.val with msixMask := (s.fn f.val).msixMask &&& ~~~(1#64 <<< v.val), msixPend := (s.fn f.val).msixPend &&& ~~~(1#64 <<< v.val) } := by
    have hlast := State.fn_onFn (s := s1) f.val fun x => { x with msixPend := x.msixPend &&& ~~~(1#64 <<< v.val) }
    rw [hfn1] at hlast
    exact hlast
  refine hgives.next_of ⟨rfl, ?_, ?_, fun w hw => ?_, rfl⟩ fun _ _ h => h
  · rw [hfn, getLsbD_cleared v.isLt]
    simp
  · rw [hfn, getLsbD_cleared v.isLt]
    simp
  · rw [hfn]
    by_cases hlt : w < 64
    · rw [getLsbD_cleared hlt]
      simp [hw]
    · rw [BitVec.getLsbD_of_ge _ w (by omega), BitVec.getLsbD_of_ge _ w (by omega)]

/-- What PROG_SEL latches of a command (R398). -/
theorem State.ringProg_eq (s : State) (f r seq : Nat) : s.ringProg f r seq =
    let put (st pos pm total : Nat) : State :=
      s.wrs f r [(F.HIU_RING_PROG_SEL_SEQ, seq), (F.HIU_RING_PROG_POS_STATE, st), (F.HIU_RING_PROG_POS_POSITION, pos),
        (F.HIU_RING_PROG_POS_PERMILLE, pm), (F.HIU_RING_PROG_TOTAL_TOTAL, total)]
    match s.rcmd f r seq with
    | none => put 0 0 0 0
    | some c =>
      if !c.started || s.rSize f r < sub32 (s.rd F.HIU_RING_STATUS_CONS f r) seq then put 0 0 0 0
      else if c.recorded then put 3 (s.cmdPos f r c) 1000 c.total
      else put (if s.cmdQueued f r c then 1 else 2) (s.cmdPos f r c) (if c.total = 0 then 0 else min 999 (1000 * s.cmdPos f r c / c.total)) c.total := rfl

end Registers

/-- Settles O29: each outcome of a fetch that every test allows, and the branch of each register write. -/
theorem ringRegisterResult : Obligations.RingRegisterResult := by
  refine ⟨⟨?_, fun f r fail s h => ?_, ?_⟩, fun f r s => ⟨fun h => congrArg (ok s) (if_pos h), fun h => congrArg (ok s) (if_neg h)⟩, ?_,
    fun f s htakes => congrArg (ok s) (if_pos htakes), fun f v s => State.unmask_pending⟩
  · intro f r s hready hlive x pa hcovered hroom hasked hvisible
    have hopen : s.FetchOpen f.val r.val := ⟨hready, hlive, hcovered, hroom, hasked, hvisible⟩
    have hgives := State.gives_commandFetch (s := s) f r
    refine ⟨fun e fail hpa => ?_, fun hpa hats => ⟨fun o e hhost => ?_, fun hnear => ⟨fun hpoison => ?_, fun hclean => ?_⟩⟩⟩
    · rw [← State.fetch_refused (pa := pa) (fail := fail) hopen rfl hpa]
      exact hgives fail
    · rw [← State.fetch_failed (pa := pa) hopen rfl hpa hats hhost]
      exact hgives (some e)
    · rw [← State.fetch_poisoned (pa := pa) hopen rfl hpa hats hnear hpoison]
      exact hgives none
    · have hg := hgives none
      rw [State.fetch_takes_slot (pa := pa) hopen rfl hpa hats hnear hclean] at hg
      exact hg
  · have hg := State.gives_commandFetch (s := s) f r fail
    rwa [State.fetch_held h] at hg
  · intro f r v s htakes h tail
    have hgives : s.gives (.cqHeadWrite f r v) (s.cqHead f.val r.val v.toNat) := congrArg (ok s) (if_pos htakes)
    refine ⟨fun hoff => ?_, fun hused hin => ?_, fun hused hout => ?_⟩
    · rwa [State.cqHead, if_pos hoff] at hgives
    · rwa [State.cqHead_taken hused hin] at hgives
    · rwa [State.cqHead_beyond hused hout] at hgives
  · intro f r v s htakes put
    have hgives : s.gives (.ringProgSelWrite f r v) (s.ringProg f.val r.val v.toNat) := congrArg (ok s) (if_pos htakes)
    rw [State.ringProg_eq] at hgives
    refine ⟨fun hnone => ?_, fun c hc hrecent => ⟨fun hwaiting => ?_, fun hstarted hrecorded => ?_, fun hstarted hrunning htotal hbegun => ?_⟩⟩
    · rw [hnone] at hgives
      exact hgives
    all_goals rw [hc] at hgives; dsimp only at hgives
    · rw [if_pos (by rw [hwaiting]; rfl)] at hgives
      exact hgives
    · rw [if_neg (by rw [hstarted]; simpa using hrecent), if_pos hrecorded] at hgives
      exact hgives
    · rw [if_neg (by rw [hstarted]; simpa using hrecent), if_neg (by rw [hrunning]; decide), if_neg (by rw [hbegun]; decide), if_neg htotal] at hgives
      exact hgives

end Sys2Proof.Machine
end

section
/-! SUPPORT. Proofs about LAUNCH and a tile's jobs (R161, R386, R395). -/
namespace Sys2Proof.Machine

/-! ### LAUNCH -/

section Launch
variable {s : State} {f : Fin 32} {r : Fin 64} {c : RCmd}

theorem State.launch_refused {st : Nat} (hc : s.ready f.val r.val 1 = some c) (hcheck : s.launchCheck f.val c = some st) :
    s.gives (.launch f r) ((s.startFail f.val r.val c (c.field 0x28 8 * c.tiles.length) st).sweep f.val r.val) := by
  refine congrArg (ok s) ?_
  rw [hc]
  dsimp only
  rw [hcheck]

theorem State.launch_checked (hc : s.ready f.val r.val 1 = some c) (hcheck : s.launchCheck f.val c = none) :
    s.gives (.launch f r) (if c.tiles.any (fun t => 8 ≤ (s.tile t).launches.length) then s
      else ((s.start f.val r.val c (c.field 0x28 8 * c.tiles.length)).launch f.val r.val c).sweep f.val r.val) := by
  refine congrArg (ok s) ?_
  rw [hc]
  dsimp only
  rw [hcheck]

/-- A LAUNCH of no argument that names a tile in Off is OFF (R386). -/
theorem State.launchCheck_off {f : Nat} {t : Fin 8} (ht : t ∈ c.tiles) (hnone : c.field 0x20 4 = 0)
    (hmine : ∀ u ∈ c.tiles, s.hasTile f u.val = true ∧ s.unitIn u.val = true) (hoff : s.rd F.TPC_STATUS_STATE t.val = 4) : s.launchCheck f c = some 0x23 := by
  have hmine' : c.tiles.any (fun t => !(s.hasTile f t.val && s.unitIn t.val)) = false :=
    List.any_eq_false.mpr fun u hu => by
      obtain ⟨h1, h2⟩ := hmine u hu
      rw [h1, h2]
      decide
  have hspan : s.spanIn f (c.field 0x18 8) 0 false = true := rfl
  refine (if_neg ?_).trans ((if_neg ?_).trans (if_pos ?_))
  · rintro (h | h | h)
    · rw [h] at ht
      exact absurd ht List.not_mem_nil
    · rw [hnone] at h
      exact h rfl
    · rw [hnone] at h
      omega
  · rw [hmine', hnone, hspan]
    decide
  · exact List.any_eq_true.mpr ⟨t, ht, decide_eq_true hoff⟩

end Launch

/-! ### Jobs -/

section Jobs
variable {s : State} {t : Fin 8}

/-- Writing the local store changes the local store alone. -/
theorem Tile.putLs_rest (x : Tile) (off : Nat) (bs : List Byte) : ∃ m, x.putLs off bs = { x with ls := m } := by
  induction bs generalizing x off with
  | nil => exact ⟨x.ls, rfl⟩
  | cons b bs ih =>
    obtain ⟨m, hm⟩ := ih { x with ls := x.ls.set 0 (off % 262144) b } (off + 1)
    exact ⟨m, hm⟩

theorem State.reachOnly_hiuTook (pa n : Nat) : s.reachOnly (s.hiuTook pa n) :=
  State.reachOnly_foldl _ (fun u (c : Nat × Nat) => State.reachOnly_trans (State.reachOnly_wakeFor none c.1 u) (State.reachOnly_tookBytes c.1 c.2 _)) _ s

theorem State.length_readBytes (f pa n : Nat) : (s.readBytes f pa n).length = n := by simp [State.readBytes]

theorem State.getElem_readBytes {f pa n i : Nat} (hi : i < n) : (s.readBytes f pa n)[i]?.getD 0 = s.byteAt f (pa + i) := by simp [State.readBytes, hi]

/-- The tile whose MAIN starts a job's code, its argument in the local store. -/
def Tile.jobBegun (x : Tile) (j : Job) (bs : List Byte) : Tile :=
  let y := x.putLs 0 bs
  { y.onThr 0 (fun h => h.start j.entry [lsBase]) with dregs := [] }

/-- A job whose argument is there begins (R161). -/
theorem State.jobStart_begins {j : Job} {rest : List Job} (hqueue : (s.tile t).launches = j :: rest) (hidle : (s.tile t).job = none) (hruns : s.tileRuns t = true)
    (hnear : s.argFar j = []) (hgood : s.argFault j = none) (hats : s.hiuAts j.fn j.arg j.argLen = none) :
    s.gives (.jobStart t) (((s.onTile t (fun x => { x with
      launches := x.launches.drop 1
      sigDone := 0#32
      job := some ⟨j, false, none, none, 0, false, false, 0⟩ })).hiuTook j.arg j.argLen).onTile t (fun x => x.jobBegun j (s.readBytes j.fn j.arg j.argLen))) := by
  refine congrArg (ok s) ?_
  rw [hqueue]
  dsimp only
  rw [if_neg (by rw [hidle, hruns]; decide), hnear, if_neg fun h => h.1 rfl, if_neg fun h => h.1 rfl, hats, Option.getD_none, State.jobBegin, hgood]
  rfl

/-- What a begun job shows of its tile. -/
theorem Tile.jobBegun_shows (x : Tile) (j : Job) (bs : List Byte) :
    ((x.jobBegun j bs).thr 0).st = .ready ∧ ((x.jobBegun j bs).thr 0).pc = j.entry % 2 ^ 48 ∧ ((x.jobBegun j bs).thr 0).getG 1 = BitVec.ofNat 64 lsBase ∧
      ((x.jobBegun j bs).thr 0).getG 2 = 0 ∧ (x.jobBegun j bs).dregs = [] ∧ (x.jobBegun j bs).sigDone = x.sigDone ∧ (x.jobBegun j bs).launches = x.launches ∧
      (x.jobBegun j bs).job = x.job ∧ (x.jobBegun j bs).ls = (x.putLs 0 bs).ls := by
  obtain ⟨m, hm⟩ := x.putLs_rest 0 bs
  have hthr : (x.jobBegun j bs).thr 0 = ((x.putLs 0 bs).thr 0).start j.entry [lsBase] :=
    Tile.thr_onThr (x.putLs 0 bs) 0 fun h => h.start j.entry [lsBase]
  rw [hthr]
  refine ⟨rfl, rfl, ?_, ?_, rfl, ?_, ?_, ?_, rfl⟩
  · exact SMap.getD_set_same (d := 0#64) [] 1 (BitVec.ofNat 64 lsBase)
  · exact SMap.getD_set_ne (d := 0#64) [] (BitVec.ofNat 64 lsBase) (show 2 ≠ 1 by decide)
  all_goals rw [Tile.jobBegun, hm]; rfl

end Jobs

/-- Settles O30: the checks of LAUNCH in their order, the start's argument and registers, and the last part's completion. -/
theorem launchAndJobResult : Obligations.LaunchAndJobResult := by
  refine ⟨?_, fun f r s hnone => ?_, fun s f c hnone => if_pos (.inl hnone), fun s f c t => State.launchCheck_off, ?_, fun t s h => ?_, fun t s j hj hover => ?_,
    fun t s j hj hrunning => ?_⟩
  · intro f r s c hc total
    refine ⟨fun st hcheck => State.launch_refused hc hcheck, fun hcheck hroom => ?_, fun hcheck hfull => ?_⟩
    · have hgives := State.launch_checked (r := r) hc hcheck
      rwa [if_neg (by
        rw [Bool.not_eq_true]
        exact List.any_eq_false.mpr fun t ht => by simpa using hroom t ht)] at hgives
    · obtain ⟨t, ht, hlen⟩ := hfull
      have hgives := State.launch_checked (r := r) hc hcheck
      rwa [if_pos (List.any_eq_true.mpr ⟨t, ht, decide_eq_true hlen.ge⟩)] at hgives
  · refine congrArg (ok s) ?_
    rw [hnone]
  · intro t s j rest hqueue hidle hruns hnear hgood hats
    let s1 := s.onTile t (fun x => { x with
      launches := x.launches.drop 1
      sigDone := 0#32
      job := some ⟨j, false, none, none, 0, false, false, 0⟩ })
    have hreach : s1.reachOnly (s1.hiuTook j.arg j.argLen) := State.reachOnly_hiuTook _ _
    have htile : (s1.hiuTook j.arg j.argLen).tile t = { s1.tile t with
        tlb := ((s1.hiuTook j.arg j.argLen).tile t).tlb
        wcache := ((s1.hiuTook j.arg j.argLen).tile t).wcache
        tpc := ((s1.hiuTook j.arg j.argLen).tile t).tpc } := hreach.2.1 t
    have hs1 : s1.tile t = { s.tile t with
        launches := (s.tile t).launches.drop 1, sigDone := 0#32, job := some ⟨j, false, none, none, 0, false, false, 0⟩ } := State.tile_onTile s t _
    obtain ⟨hst, hpc, hg1, hg2, hdregs, hsig, hlaunches, hjob, hls⟩ := ((s1.hiuTook j.arg j.argLen).tile t).jobBegun_shows j (s.readBytes j.fn j.arg j.argLen)
    have hutile := State.tile_onTile (s1.hiuTook j.arg j.argLen) t (fun x => x.jobBegun j (s.readBytes j.fn j.arg j.argLen))
    have hthr : (((s1.hiuTook j.arg j.argLen).onTile t (fun x => x.jobBegun j (s.readBytes j.fn j.arg j.argLen))).thr t 0) =
        (((s1.hiuTook j.arg j.argLen).tile t).jobBegun j (s.readBytes j.fn j.arg j.argLen)).thr 0 := by rw [State.thr, hutile]
    refine (State.jobStart_begins hqueue hidle hruns hnear hgood hats).next_of ?_ fun _ _ h => h
    rw [show State.thr _ t 0 = _ from hthr, show State.tile _ t = _ from hutile]
    refine ⟨hst, hpc, hg1, hg2, hdregs, ?_, ?_, ?_, (State.Near.of_reachOnly hreach).mem, fun hlen i hi => ?_⟩
    · exact hsig.trans ((congrArg Tile.sigDone htile).trans (congrArg Tile.sigDone hs1))
    · exact hlaunches.trans ((congrArg Tile.launches htile).trans ((congrArg Tile.launches hs1).trans (congrArg (List.drop 1) hqueue)))
    · exact hjob.trans ((congrArg Tile.job htile).trans (congrArg Tile.job hs1))
    · have hbytes : 0 + (s.readBytes j.fn j.arg j.argLen).length ≤ 262144 := by rw [State.length_readBytes]; omega
      rw [hls, Tile.putLs_eq hbytes]
      dsimp only
      rw [SMap.getD_setBytes, State.length_readBytes, if_pos (by omega)]
      exact State.getElem_readBytes hi
  · refine congrArg (ok s) ?_
    rcases h with h | h
    · rw [h]
    · split
      · rfl
      · exact if_pos (by rw [Option.ne_none_iff_isSome.mp h]; rfl)
  · refine congrArg (ok s) ((if_pos hover).trans ?_)
    rw [State.jobEnd, hj]
  · refine congrArg (ok s) (if_neg ?_)
    rw [State.jobOver, hj]
    dsimp only
    rw [hrunning]
    exact Bool.noConfusion

end Sys2Proof.Machine
end

section
/-! SUPPORT. Proofs about COPY, SIGNAL, WAIT and FENCE (R387 to R391) and about completion records (R392). -/
namespace Sys2Proof.Machine

/-! ### What the start of a command leaves: every access reads and reaches as before -/

/-- The register fields that tell where an access goes. -/
def reachFields : List Fld :=
  [F.FEN_STATUS_RANK, F.FEN_STATUS_STATE, F.FEN_MEMBERS_MASK, F.FLT_FENFAIL_RANKS, F.FEN_ROUTE_VALID, F.HIU_HWIN_CFG_EN, F.HIU_HWIN_CFG_OFF,
    F.HIU_HWIN_CFG_PAGES, F.HIU_HWIN_HOST_HADDR]

/-- An access reads in b what it reads in a. -/
structure State.ReadsAs (a b : State) : Prop where
  mem : b.mem = a.mem
  hostMem : b.hostMem = a.hostMem
  relaxed : b.relaxed = a.relaxed
  ats : ∀ f, (b.fn f).ats = (a.fn f).ats
  trans_ : ∀ f, (b.fn f).trans = (a.fn f).trans
  rd : ∀ f ∈ reachFields, ∀ i x, f.blk.num ≠ Blk.hiu.num ∨ x < 16 → b.rd f i x = a.rd f i x

namespace State.ReadsAs
variable {a b c : State}

theorem trans (h : a.ReadsAs b) (g : b.ReadsAs c) : a.ReadsAs c :=
  ⟨g.mem.trans h.mem, g.hostMem.trans h.hostMem, g.relaxed.trans h.relaxed, fun f => (g.ats f).trans (h.ats f), fun f => (g.trans_ f).trans (h.trans_ f),
    fun f hf i x hx => (g.rd f hf i x hx).trans (h.rd f hf i x hx)⟩

/-- A write of an HIU field that is not at the bits of a host window's fields, or lies below the windows. -/
theorem wr {g : Fld} (hblk : g.blk = .hiu) (hlo : g.lo = 32 ∨ g.lo = 0 ∧ g.off < 0x100 ∧ g.stride = 0) (s : State) (j v y : Nat) : s.ReadsAs (s.wr g j v y) := by
  refine ⟨rfl, rfl, rfl, fun _ => rfl, fun _ => rfl, fun f hf i x hx => State.rd_wr_ne _ _ (Fld.key_ne ?_ ?_ (by omega))⟩
  · simp only [reachFields, List.mem_cons, List.not_mem_nil, or_false] at hf
    rw [hblk]
    rcases hlo with hlo | ⟨hlo, hoff, hstride⟩
    · rcases hf with rfl | rfl | rfl | rfl | rfl | rfl | rfl | rfl | rfl
      all_goals exact .inr (.inr (.inr (by rw [hlo]; decide)))
    · rcases hf with rfl | rfl | rfl | rfl | rfl | rfl | rfl | rfl | rfl
      case inl | inr.inl | inr.inr.inl | inr.inr.inr.inl | inr.inr.inr.inr.inl => exact .inl (by decide)
      all_goals
        have hx := hx.resolve_left (by decide)
        refine .inr (.inr (.inl ?_))
        simp only [F.HIU_HWIN_CFG_EN, F.HIU_HWIN_CFG_OFF, F.HIU_HWIN_CFG_PAGES, F.HIU_HWIN_HOST_HADDR, hstride]
        omega
  · simp only [reachFields, List.mem_cons, List.not_mem_nil, or_false] at hf
    rcases hf with rfl | rfl | rfl | rfl | rfl | rfl | rfl | rfl | rfl
    all_goals decide

theorem served (h : a.ReadsAs b) (l : List (Nat × Nat)) : a.ReadsAs { b with served := l } :=
  ⟨h.mem, h.hostMem, h.relaxed, h.ats, h.trans_, h.rd⟩

theorem onRing (s : State) (f r : Nat) (g : Ring → Ring) : s.ReadsAs (s.onRing f r g) := by
  have hfn : ∀ k, ((s.onRing f r g).fn k) = { s.fn k with rings := ((s.onRing f r g).fn k).rings } := fun k => by
    by_cases hk : k = f
    · subst hk
      rw [State.onRing, State.fn_onFn]
    · rw [show (s.onRing f r g).fn k = s.fn k from SMap.getD_set_ne _ _ hk]
  exact ⟨rfl, rfl, rfl, fun k => by rw [hfn], fun k => by rw [hfn], fun _ _ _ _ _ => rfl⟩

theorem start (s : State) (f r : Nat) (c : RCmd) (n : Nat) : s.ReadsAs (s.start f r c n) := by
  have hcount : s.ReadsAs (s.count F.HIU_CNT_CMD_COUNT f 1) := wr rfl (.inr ⟨rfl, by decide, rfl⟩) s f _ 0
  have hcons := hcount.trans (wr (g := F.HIU_RING_STATUS_CONS) rfl (.inl rfl) _ f (s.rd F.HIU_RING_STATUS_CONS f r + 1) r)
  have hres := hcons.trans (wr (g := F.HIU_CQ_TAIL_RES) rfl (.inl rfl) _ f (s.rd F.HIU_CQ_TAIL_RES f r + 1) r)
  unfold State.start State.onCmd
  exact ((hres.served _).trans (onRing _ _ _ _)).trans (onRing _ _ _ _)

section
variable (h : a.ReadsAs b)
include h

theorem rank : b.rank = a.rank := h.rd _ (by decide) 0 0 (.inl (by decide))

theorem rankReachable (d : Nat) : b.rankReachable d = a.rankReachable d := by
  simp only [State.rankReachable, State.flag, h.rd F.FEN_STATUS_STATE (by decide) _ _ (.inl (by decide)),
    h.rd F.FEN_MEMBERS_MASK (by decide) _ _ (.inl (by decide)), h.rd F.FLT_FENFAIL_RANKS (by decide) _ _ (.inl (by decide)),
    h.rd F.FEN_ROUTE_VALID (by decide) _ _ (.inl (by decide))]

theorem region (pa : Nat) : b.region pa = a.region pa := by
  simp only [State.region, h.rank, h.rankReachable]

theorem localise (pa : Nat) : b.localise pa = a.localise pa := by
  simp only [State.localise, h.rank]

/-- The fields of a host window's mapping. -/
theorem window {n : Nat} (hn : n < 16) (f : Nat) : b.rd F.HIU_HWIN_CFG_EN f n = a.rd F.HIU_HWIN_CFG_EN f n ∧
    b.rd F.HIU_HWIN_CFG_OFF f n = a.rd F.HIU_HWIN_CFG_OFF f n ∧ b.rd F.HIU_HWIN_CFG_PAGES f n = a.rd F.HIU_HWIN_CFG_PAGES f n ∧
    b.rd F.HIU_HWIN_HOST_HADDR f n = a.rd F.HIU_HWIN_HOST_HADDR f n :=
  ⟨h.rd _ (by decide) f n (.inr hn), h.rd _ (by decide) f n (.inr hn), h.rd _ (by decide) f n (.inr hn), h.rd _ (by decide) f n (.inr hn)⟩

theorem hwin (f off : Nat) : b.hwin f off = a.hwin f off := by
  refine List.find?_congr fun n hn => ?_
  obtain ⟨hen, hoff, hpages, -⟩ := h.window (List.mem_range.mp hn) f
  rw [State.flag, State.flag, hen, hoff, hpages]

theorem hostAddr {n : Nat} (hn : n < 16) (f off : Nat) : b.hostAddr f n off = a.hostAddr f n off := by
  obtain ⟨-, hoff, -, haddr⟩ := h.window hn f
  simp only [State.hostAddr, State.hwinAddr, hoff, haddr, h.ats, h.trans_]

theorem byteAt (f pa : Nat) : b.byteAt f pa = a.byteAt f pa := by
  unfold State.byteAt
  rw [h.region, h.mem, h.localise]
  split
  · rw [h.hwin]
    split
    · next n hn =>
      have hlt : n < 16 := List.mem_range.mp (List.mem_of_find?_eq_some hn)
      rw [h.hostAddr hlt, State.hostByte, State.hostByte, h.relaxed, h.hostMem]
    · rfl
  · rfl

theorem readNat (f pa n : Nat) : b.readNat f pa n = a.readNat f pa n := by
  simp only [State.readNat, State.readBytes, h.byteAt]

end
end State.ReadsAs

/-! ### COPY, SIGNAL, WAIT and FENCE -/

section Commands
variable {s : State} {f : Fin 32} {r : Fin 64} {c : RCmd}

/-- With no command of theirs at the front that may start, the four do nothing. -/
theorem State.plain_commands_stay (s : State) (f : Fin 32) (r : Fin 64) :
    (s.ready f.val r.val 2 = none → s.gives (.copy f r) s) ∧ (s.ready f.val r.val 3 = none → s.gives (.signal f r) s) ∧
    (s.ready f.val r.val 4 = none → s.gives (.wait f r) s) ∧ (s.ready f.val r.val 7 = none → s.gives (.fence f r) s) ∧
    (s.waiting f.val r.val = none → s.gives (.waitPoll f r) s ∧ s.gives (.waitTimeout f r) s) :=
  ⟨fun h => congrArg (ok s) (by rw [h]), fun h => congrArg (ok s) (by rw [h]), fun h => congrArg (ok s) (by rw [h]), fun h => congrArg (ok s) (by rw [h]),
    fun h => ⟨congrArg (ok s) (by rw [h]), congrArg (ok s) (by rw [h])⟩⟩

theorem State.copy_refused {st : Nat} (hc : s.ready f.val r.val 2 = some c) (hcheck : s.copyCheck f.val c = some st) :
    s.gives (.copy f r) ((s.startFail f.val r.val c ((bits c.body 256 24 + 1) * (c.field 0x24 2 + 1)) st).sweep f.val r.val) := by
  refine congrArg (ok s) ?_
  rw [hc]
  dsimp only
  rw [hcheck]

/-- A COPY that passes its check becomes one descriptor, when the pool has room. -/
theorem State.copy_checked (hc : s.ready f.val r.val 2 = some c) (hcheck : s.copyCheck f.val c = none) :
    let n := bits c.body 256 24 + 1
    let rows := c.field 0x24 2 + 1
    let t := tileOf (bits c.body 304 3)
    let e := bits c.body 308 3
    s.gives (.copy f r) (if 64 ≤ (s.tile t).tdm.length then s else
      ((((s.start f.val r.val c (n * rows)).onTile t (fun x => x.addDesc (if e < 4 then e else x.freeEngine) (.copy f.val r.val c.seq)
        ⟨c.field 0x10 8, c.field 0x18 8, n, rows, c.field 0x28 8, c.field 0x30 8⟩ 3 0 0)).wakeTile t true).copyWakes c).sweep f.val r.val) := by
  refine congrArg (ok s) ?_
  rw [hc]
  dsimp only
  rw [hcheck]

theorem State.signal_misaligned (hc : s.ready f.val r.val 3 = some c) (hbad : c.field 0x10 8 % 8 ≠ 0) :
    s.gives (.signal f r) ((s.startFail f.val r.val c 1 0x21).sweep f.val r.val) := by
  refine congrArg (ok s) ?_
  rw [hc]
  dsimp only
  rw [State.signalCheck, if_pos (.inr hbad)]

theorem State.signal_starts (hc : s.ready f.val r.val 3 = some c) (hcheck : s.signalCheck f.val c = none) (hats : s.hiuAts f.val (c.field 0x10 8) 8 = none) :
    s.gives (.signal f r) (((s.start f.val r.val c 1).signalGo f.val r.val c).signalDone f.val r.val c.seq) := by
  refine congrArg (ok s) ?_
  rw [hc]
  dsimp only
  rw [hcheck, hats]
  rfl

section Go
variable {f r : Nat}

theorem State.signalGo_write (hop : c.field 0x20 1 = 0) :
    s.signalGo f r c = (s.wakeFor none (c.field 0x10 8)).writeBytes f (c.field 0x10 8) (leBytes 8 (c.field 0x18 8)) (.cmd f r c.seq) := if_pos hop

theorem State.signalGo_device (hop : c.field 0x20 1 = 1) (hdevice : (s.region (c.field 0x10 8)).isDevice = true) :
    s.signalGo f r c = (s.hiuTook (c.field 0x10 8) 8).update f (c.field 0x10 8) (.addw (c.field 0x18 8)) (.cmd f r c.seq) := by
  refine (if_neg (by rw [hop]; decide)).trans ?_
  split
  · next d o h => exact absurd h (State.not_fen_of_device hdevice d o)
  · next o h =>
    rw [h] at hdevice
    contradiction
  · rfl

theorem State.signalGo_host {o : Nat} (hop : c.field 0x20 1 = 1) (hhost : s.region (c.field 0x10 8) = .host o) : s.signalGo f r c =
    s.writeBytes f (c.field 0x10 8) (leBytes 8 ((s.readNat f (c.field 0x10 8) 8 + c.field 0x18 8) % 2 ^ 64)) (.cmd f r c.seq) := by
  refine (if_neg (by rw [hop]; decide)).trans ?_
  rw [hhost]

/-- An addition at a memory whose block may be written. -/
theorem State.update_addw {pa v : Nat} {who : Who} (hgate : s.gate pa = .pass) : s.update f pa (.addw v) who =
    ((s.putBytes f pa (leBytes 8 ((s.readNat f pa 8 + v) % 2 ^ 64))).clearPoison pa 8).gaveBytes pa 8 := by
  rw [State.update, hgate]
  dsimp only
  rw [State.perform, State.updBytes, length_leBytes]
  rfl

/-- A WAIT that reads no other rank's memory reads at once. -/
theorem State.waitPoll_near (hpa : s.paCheck f (c.field 0x10 8) = .ok ()) (hnear : ∀ d o, s.region (c.field 0x10 8) ≠ .fen d o)
    (hats : s.hiuAts f (c.field 0x10 8) 8 = none) : s.waitPoll f r c =
      if s.isPoison (c.field 0x10 8) then s.hiuTook (c.field 0x10 8) 8
      else (s.hiuTook (c.field 0x10 8) 8).waitRead f r c.seq (s.readNat f (c.field 0x10 8) 8) := by
  unfold State.waitPoll
  dsimp only
  rw [hpa]
  dsimp only
  split
  · next d o h => exact absurd h (hnear d o)
  · rw [hats]

theorem State.rcmd_hiuTook (pa n seq : Nat) : (s.hiuTook pa n).rcmd f r seq = s.rcmd f r seq := by
  simp only [State.rcmd, State.ring, (State.Near.of_reachOnly (State.reachOnly_hiuTook pa n)).fn]

end Go

theorem State.wait_malformed (hc : s.ready f.val r.val 4 = some c) (hbad : 2 < c.field 0x20 1 ∨ c.field 0x10 8 % 8 ≠ 0) :
    s.gives (.wait f r) ((s.startFail f.val r.val c 1 0x21).sweep f.val r.val) := by
  refine congrArg (ok s) ?_
  rw [hc]
  exact if_pos hbad

theorem State.wait_starts (hc : s.ready f.val r.val 4 = some c) (hgood : ¬(2 < c.field 0x20 1 ∨ c.field 0x10 8 % 8 ≠ 0))
    (hpa : s.paCheck f.val (c.field 0x10 8) = .ok ()) : s.gives (.wait f r) ((s.start f.val r.val c 1).waitPoll f.val r.val c) := by
  refine congrArg (ok s) ?_
  rw [hc]
  refine (if_neg hgood).trans ?_
  rw [hpa]

theorem State.waitPoll_gives (hc : s.waiting f.val r.val = some c) : s.gives (.waitPoll f r) (s.waitPoll f.val r.val c) := by
  refine congrArg (ok s) ?_
  rw [hc]

theorem State.waitTimeout_gives (hc : s.waiting f.val r.val = some c) : s.gives (.waitTimeout f r)
    (if c.field 0x24 4 = 0 then s else (s.complete f.val r.val c.seq 0x24 c.result 1).sweep f.val r.val) := by
  refine congrArg (ok s) ?_
  rw [hc]

/-- COND of a WAIT (R389). -/
theorem RCmd.holds_iff (c : RCmd) (v : Nat) : (c.field 0x20 1 = 0 → (c.holds v = true ↔ v = c.field 0x18 8)) ∧
    (c.field 0x20 1 = 1 → (c.holds v = true ↔ v ≠ c.field 0x18 8)) ∧ (c.field 0x20 1 = 2 → (c.holds v = true ↔ c.field 0x18 8 ≤ v)) := by
  refine ⟨fun h => ?_, fun h => ?_, fun h => ?_⟩
  all_goals rw [RCmd.holds, h]; exact decide_eq_true_iff

end Commands

/-- Settles O31: each command's check refuses it or starts it. -/
theorem ringCommandResult : Obligations.RingCommandResult := by
  refine ⟨fun f r s => State.plain_commands_stay s f r, ?_, ?_, fun s f pa v who => State.update_addw, fun f r s c hc => ⟨State.wait_malformed hc, ?_⟩, ?_,
    fun f r s c hc => congrArg (ok s) (by rw [hc]), RCmd.holds_iff⟩
  · intro f r s c hc n rows t e
    refine ⟨fun st hcheck => State.copy_refused hc hcheck, fun hcheck hroom => ?_, fun hcheck hfull => ?_⟩
    · have hgives := State.copy_checked hc hcheck
      dsimp only at hgives
      rwa [if_neg (Nat.not_le.mpr hroom)] at hgives
    · have hgives := State.copy_checked hc hcheck
      dsimp only at hgives
      rwa [if_pos hfull] at hgives
  · intro f r s c hc a
    refine ⟨State.signal_misaligned hc, ?_⟩
    intro hcheck hats u v
    have hgives := State.signal_starts hc hcheck hats
    have hreads := State.ReadsAs.start s f.val r.val c 1
    refine ⟨fun hop => ?_, fun hop hdevice => ?_, fun o hop hhost => ?_⟩
    · rwa [State.signalGo_write hop] at hgives
    · rwa [State.signalGo_device hop (by rwa [hreads.region])] at hgives
    · rwa [State.signalGo_host hop (by rw [hreads.region]; exact hhost), hreads.readNat] at hgives
  · exact fun hop hal hpa => State.wait_starts hc (by rintro (h | h) <;> omega) hpa
  · intro f r s c hc hown a v
    refine ⟨fun hpa hnear hats => ?_, fun htime => ?_, fun htime => ?_⟩
    · have hgives := State.waitPoll_gives hc
      rw [State.waitPoll_near hpa hnear hats] at hgives
      have hread : (s.hiuTook a 8).rcmd f.val r.val c.seq = some c := (State.rcmd_hiuTook a 8 c.seq).trans hown
      refine ⟨fun hpoison => ?_, fun hclean hholds => ?_, fun hclean hholds => ?_⟩
      · rwa [if_pos hpoison] at hgives
      all_goals
        rw [if_neg (by rw [hclean]; decide), State.waitRead, hread] at hgives
        dsimp only at hgives
      · rwa [if_pos hholds] at hgives
      · rwa [if_neg (by rw [hholds]; decide)] at hgives
    · have hgives := State.waitTimeout_gives hc
      rwa [if_neg htime] at hgives
    · have hgives := State.waitTimeout_gives hc
      rwa [if_pos htime] at hgives

/-! ### Completion records -/

/-- A command with tag 1. -/
def tagOne : RCmd := ⟨0, 2 ^ 64, true, true, false, false, false, false, 0, 0, [], 0, 0, 0⟩

/-- Tile 0 in Run, and a checkpoint whose region starts at byte 8, in the middle of the granule at 0, and whose block is being copied. -/
def strayRegion : State :=
  { State.reset.wr F.TPC_STATUS_STATE 0 0 with ck := some ⟨0, 0, 0, false, 0, [(8, 1)], 0, 0, 0, 0, 0, some 0, [1], [], [], 0, []⟩ }

/-- The tag of a record that lies at that granule is held, and not written. -/
theorem strayRegion_holds_tag : (strayRegion.record 0 0 tagOne).mem.getD 8 0 = 0 := by decide +kernel

/-- Refutes O32: a checkpoint's region that starts within the record holds the record's bytes from 0x08 on, while the gate of the record's own address, the one
the statement asks about, lets its first eight bytes pass. (A CKD whose regions are not aligned is refused; the statement is about every state.) -/
theorem not_completionRecordWritten : ¬ Obligations.CompletionRecordWritten := by
  intro h
  obtain ⟨hbytes, -, -⟩ := h strayRegion 0 0 tagOne (by decide +kernel) (by decide +kernel) (by decide +kernel)
  have htag := hbytes 8
  rw [strayRegion_holds_tag, if_pos (by decide +kernel)] at htag
  exact absurd htag (by decide +kernel)

end Sys2Proof.Machine
end

section
/-! SUPPORT. Proofs about checkpoints (R317 to R324). -/
namespace Sys2Proof.Machine

section Begin
variable {s : State} {f r op : Nat} {c : RCmd}

/-- With no command at its turn, or the engine in use, nothing begins (R318). -/
theorem State.ckCommand_stays (h : s.ready f r op = none ∨ s.ck ≠ none) : s.ckCommand f r op = s := by
  unfold State.ckCommand
  split
  · rfl
  · next c hc =>
    exact if_pos (Option.isSome_iff_ne_none.mpr (h.resolve_left (by rw [hc]; exact Option.some_ne_none c)))

variable (hc : s.ready f r op = some c) (hfree : s.ck = none)
include hc hfree

theorem State.ckCommand_access (hspan : s.spanOk f (c.field 0x10 8) 0x40 false = false) : s.ckCommand f r op = (s.startFail f r c 0 0x31).sweep f r := by
  unfold State.ckCommand
  rw [hc]
  dsimp only
  rw [if_neg (by rw [hfree]; decide), if_pos (by rw [hspan]; decide)]

variable (hspan : s.spanOk f (c.field 0x10 8) 0x40 false = true) (hats : s.hiuAts f (c.field 0x10 8) 0x40 = none) (hnear : s.ckdFar (c.field 0x10 8) = [])
  (hwhole : s.spanOk f (c.field 0x10 8) (ckdBytes (s.readCkd f (c.field 0x10 8)).nreg) false = true)
  (hats' : s.hiuAts f (c.field 0x10 8) (ckdBytes (s.readCkd f (c.field 0x10 8)).nreg) = none)
  (hclean : s.poisonIn (c.field 0x10 8) (ckdBytes (s.readCkd f (c.field 0x10 8)).nreg) = false)
include hspan hats hnear hwhole hats' hclean

/-- A CKD that has been read whole is checked, and the job begins (R317, R318). -/
theorem State.ckCommand_checked : s.ckCommand f r op =
    let pa := c.field 0x10 8
    let d := s.readCkd f pa
    if s.ckdBad f pa d (op = 6) then (s.startFail f r c (4096 + 65536 * d.total) 0x30).sweep f r
    else if !s.ckdAccess f d (op = 6) then (s.startFail f r c (4096 + 65536 * d.total) 0x31).sweep f r
    else (((s.hiuTook pa (ckdBytes d.nreg)).start f r c (4096 + 65536 * d.total)).ckBegin f r c d (op = 6)).sweep f r := by
  unfold State.ckCommand
  rw [hc]
  dsimp only
  rw [if_neg (by rw [hfree]; decide), if_neg (by rw [hspan]; decide), if_neg (by rw [hats]; decide), if_neg (fun h => h.1 hnear), if_neg (fun h => h.1 hnear),
    if_neg (by rw [hwhole]; decide), if_neg (by rw [hats']; decide), if_neg (by rw [hclean]; decide)]

end Begin

section Job
variable {s : State} {j : CkJob}

theorem State.checkpointSnapshot_gives (hj : s.ck = some j) (hck : j.restore = false) (hepoch : j.epoch = none) : s.gives .checkpointSnapshot
    (if j.start ≤ s.ns then ({ s with ck := some { j with epoch := some s.ns } } : State).ckFeed else s) := by
  refine congrArg (ok s) ?_
  rw [hj]
  dsimp only
  rw [hck, hepoch]
  exact if_congr (by simp) rfl rfl

/-- What the release of a held write does, by what its block's gate says (R319). -/
theorem State.heldWriteRelease_gives {block : Nat} {h : HeldWrite} (hj : s.ck = some j)
    (hfind : j.held.find? (fun h => (blockOf j.regions 0 (s.localise h.pa)).any (fun b => decide (b.1 = block))) = some h) :
    (s.blockGate h.pa = .pass → s.gives (.heldWriteRelease block)
      (({ s with ck := some { j with held := j.held.erase h } } : State).release [h]).allGo) ∧
    (∀ k base slot j1, s.blockGate h.pa = .shadow k base slot → (s.shadowCopy k base slot).ck = some j1 → s.gives (.heldWriteRelease block)
      (({ s.shadowCopy k base slot with ck := some { j1 with held := j1.held.erase h } } : State).release [h]).allGo) ∧
    (s.blockGate h.pa = .hold → s.gives (.heldWriteRelease block) s) := by
  refine ⟨fun hgate => congrArg (ok s) ?_, fun k base slot j1 hgate hj1 => congrArg (ok s) ?_, fun hgate => congrArg (ok s) ?_⟩
  all_goals
    rw [hj]
    dsimp only
    rw [hfind]
    dsimp only
    rw [hgate]
  · refine (if_neg (by decide)).trans ?_
    dsimp only
    rw [hj]
  · refine (if_neg (by simp)).trans ?_
    dsimp only
    rw [hj1]
  · exact if_pos rfl

theorem State.checkpointImageFinish_gives (hj : s.ck = some j) (hck : j.restore = false) (hstage : j.stage = 1) (hepoch : j.epoch ≠ none)
    (hats : s.atsNeeds j.fn j.image = false) : s.gives .checkpointImageFinish (if j.acked.length = j.blocks.length then
      (({ s with ck := some { j with stage := 2 } } : State).ckWrite j 4 (s.header j)).ckAdvance else s) := by
  refine congrArg (ok s) ?_
  rw [hj]
  dsimp only
  rw [if_neg (by rw [hats]; decide), hck, hstage, Option.isSome_iff_ne_none.mpr hepoch]
  exact if_congr (by simp) rfl rfl

end Job

/-- Settles O33: the checks of a CKD in their order, and what each later stage of the image waits for. -/
theorem checkpointResult : Obligations.CheckpointResult := by
  refine ⟨fun f r s => ⟨fun h => congrArg (ok s) (State.ckCommand_stays h), fun h => congrArg (ok s) (State.ckCommand_stays h)⟩, ?_,
    fun s j hj hck hepoch => ?_, fun s j block h hj hfind => State.heldWriteRelease_gives hj hfind, fun s j hj hck hstage hepoch hats => ?_⟩
  · intro p hp f r s c hc hfree pa d
    have hrun : s.gives (p.1 f r) (s.ckCommand f.val r.val p.2.1) ∧ decide (p.2.1 = 6) = p.2.2 := by
      rcases List.mem_pair.mp hp with rfl | rfl
      all_goals exact ⟨rfl, rfl⟩
    obtain ⟨hgives, hrestore⟩ := hrun
    refine ⟨fun hspan => ?_, fun hspan hats hnear hwhole hats' hclean => ⟨fun hbad => ?_, fun hgood haccess => ?_⟩⟩
    · rwa [State.ckCommand_access hc hfree hspan] at hgives
    all_goals
      rw [State.ckCommand_checked hc hfree hspan hats hnear hwhole hats' hclean] at hgives
      dsimp only at hgives
      rw [hrestore] at hgives
    · rwa [if_pos hbad] at hgives
    · rwa [if_neg (by rw [hgood]; decide), if_neg (by rw [haccess]; decide)] at hgives
  · have hgives := State.checkpointSnapshot_gives hj hck hepoch
    refine ⟨fun hdue => ?_, fun hearly => ?_⟩
    · rwa [if_pos hdue] at hgives
    · rwa [if_neg (by omega)] at hgives
  · have hgives := State.checkpointImageFinish_gives hj hck hstage hepoch hats
    refine ⟨fun hall => ?_, fun hleft => ?_⟩
    · rwa [if_pos hall] at hgives
    · rwa [if_neg hleft] at hgives

end Sys2Proof.Machine
end

section
/-! SUPPORT. Proofs about BAR0 writes (R5, R9, R13, R376, R491, R492). -/
namespace Sys2Proof.Machine

section Reach
variable {fn : Fin 32} {off width : Nat} {val : BitVec 64} {s : State}

theorem bar0Ok_eq_true (hwidth : width = 4 ∨ width = 8) (hal : off % width = 0) : bar0Ok off width = true := by
  rcases hwidth with rfl | rfl
  all_goals simp [bar0Ok, hal]

theorem bar0Ok_eq_false (h : (width ≠ 4 ∧ width ≠ 8) ∨ off % width ≠ 0) : bar0Ok off width = false := by
  rcases h with ⟨h4, h8⟩ | h
  · simp [bar0Ok, h4, h8]
  · simp [bar0Ok, h]

/-- An aligned write goes where its offset leads. -/
theorem State.registerWrite_allowed (htakes : s.fnTakes fn.val = true) (hok : bar0Ok off width = true) : s.gives (.registerWrite fn off width val)
    (match bar0At fn.val off with
      | none => s
      | some (b, inst, o) => match regAt b (o / 8 * 8) with
        | none => s
        | some (l, f, i) => if s.reaches fn.val b inst o then
            (s.regWrite l f fn inst i o (RegW.of (s.regVal l inst i) (o % 8) width val.toNat)).settle else s) :=
  congrArg (ok s) ((if_neg (by rw [htakes]; decide)).trans (if_neg (by rw [hok]; decide)))

/-- A write that reaches its register. -/
theorem State.registerWrite_reaches {b : Blk} {inst o i : Nat} {l : List Fld} {f : Fld} (htakes : s.fnTakes fn.val = true) (hok : bar0Ok off width = true)
    (hat : bar0At fn.val off = some (b, inst, o)) (hreg : regAt b (o / 8 * 8) = some (l, f, i)) (hreach : s.reaches fn.val b inst o = true) :
    s.gives (.registerWrite fn off width val) (s.regWrite l f fn inst i o (RegW.of (s.regVal l inst i) (o % 8) width val.toNat)).settle := by
  have hgives := State.registerWrite_allowed (val := val) htakes hok
  rw [hat] at hgives
  dsimp only at hgives
  rw [hreg] at hgives
  dsimp only at hgives
  rwa [if_pos hreach] at hgives

theorem State.registerWrite_unreached {b : Blk} {inst o : Nat} (htakes : s.fnTakes fn.val = true) (hok : bar0Ok off width = true)
    (hat : bar0At fn.val off = some (b, inst, o)) (h : regAt b (o / 8 * 8) = none ∨ s.reaches fn.val b inst o = false) :
    s.gives (.registerWrite fn off width val) s := by
  have hgives := State.registerWrite_allowed (val := val) htakes hok
  rw [hat] at hgives
  dsimp only at hgives
  rcases hreg : regAt b (o / 8 * 8) with _ | ⟨l, f, i⟩
  · rwa [hreg] at hgives
  · rw [hreg] at hgives
    dsimp only at hgives
    rwa [if_neg (by rw [h.resolve_left (by rw [hreg]; exact Option.some_ne_none _)]; decide)] at hgives

end Reach

section Fields
variable {s : State} {f : Fld} {inst idx : Nat} {w : RegW}

/-- What a field's access code makes of a write (R5). -/
theorem State.fieldPut_rw (h : f.acc = .rw) : (s.fieldPut f inst idx w).rd f inst idx = bits w.merged f.lo f.w := by
  rw [State.fieldPut, h]
  exact State.rd_wr_bits rfl

theorem State.fieldPut_w1c (h : f.acc = .w1c) :
    (s.fieldPut f inst idx w).rd f inst idx = s.rd f inst idx &&& (2 ^ f.w - 1 - bits w.bitsIn f.lo f.w) := by
  rw [State.fieldPut, h]
  dsimp only
  rw [State.rd_wr_same, Nat.mod_eq_of_lt]
  have hpos := Nat.two_pow_pos f.w
  exact Nat.lt_of_le_of_lt Nat.and_le_right (by omega)

theorem State.fieldPut_kept (h : f.acc = .ro ∨ f.acc = .wo) : s.fieldPut f inst idx w = s := by
  rcases h with h | h
  all_goals rw [State.fieldPut, h]

/-- The SFU, the stacks and the PCM have registers alone, and no operation. -/
theorem State.regWrite_plain {l : List Fld} {fn : Fin 32} {i off : Nat} (h : f.blk = .sfu ∨ f.blk = .hmc ∨ f.blk = .pcm) :
    s.regWrite l f fn inst i off w = s.regPut l inst i w := by
  have hne : ∀ g : Fld, g.blk ≠ .sfu → g.blk ≠ .hmc → g.blk ≠ .pcm → f ≠ g := fun g h1 h2 h3 => by
    rintro rfl
    rcases h with h | h | h
    · exact h1 h
    · exact h2 h
    · exact h3 h
  rcases h with h | h | h
  · rw [State.regWrite, h]
    simp only [State.tileWrite, hne F.TCC_CTL_ICINV (by decide) (by decide) (by decide), hne F.TSC_PROG_SEL_TAG (by decide) (by decide) (by decide),
      hne F.VSU_NAN_STATUS_VALID (by decide) (by decide) (by decide), hne F.VSU_NAN_RESUME_GO (by decide) (by decide) (by decide),
      hne F.KVE_FREE_CONS_CONS (by decide) (by decide) (by decide), hne F.TMU_INV_SCOPE (by decide) (by decide) (by decide),
      hne F.TPC_CMD_OP (by decide) (by decide) (by decide), if_false]
  all_goals
    rw [State.regWrite, h]
    simp only [State.deviceWrite, hne F.CWP_CTL_EN (by decide) (by decide) (by decide), hne F.TBU_SET_NS_NS (by decide) (by decide) (by decide),
      hne F.TBU_PPS_CFG_IN_EN (by decide) (by decide) (by decide), hne F.FLT_CTL_FENSTOP_CLR (by decide) (by decide) (by decide),
      hne F.FLT_LOG_SEL_INDEX (by decide) (by decide) (by decide), hne F.FLT_INJECT_CODE (by decide) (by decide) (by decide),
      hne F.FEN_CTL_FORM (by decide) (by decide) (by decide), hne F.FRV_MBX_CTL_GO (by decide) (by decide) (by decide),
      hne F.FRV_MBX_REQ0_D (by decide) (by decide) (by decide), hne F.FRV_MBX_REQ1_D (by decide) (by decide) (by decide), if_false, or_self]

end Fields

/-! ### Registers whose write is an operation -/

section Operations
variable {s : State} {fn : Fin 32} {t : Fin 8} {i off : Nat} {val : BitVec 64} {l : List Fld}

/-- A 64-bit write as its register sees it. -/
def RegW.whole (val : BitVec 64) : RegW := ⟨val.toNat, val.toNat, true, true⟩

theorem tileOf_val (t : Fin 8) : tileOf t.val = t := Fin.ext (Nat.mod_eq_of_lt t.isLt)

theorem State.after_exec {c : Instr} {u : State} (h : exec c s = .next u) : s.after (exec c s) = u := by rw [h]; rfl

/-- The value of a write, back as a word. -/
theorem ofNat_whole (val : BitVec 64) : BitVec.ofNat 64 val.toNat = val := by rw [BitVec.ofNat_toNat, BitVec.setWidth_eq]

/-- Writes that do the same whatever their bits. -/
theorem State.regWrite_always (s : State) (fn : Fin 32) (inst i off : Nat) (val : BitVec 64) (l : List Fld) :
    let w := RegW.whole val
    let x : BitVec 32 := BitVec.ofNat 32 val.toNat
    let hi : BitVec 32 := BitVec.ofNat 32 (val.toNat / 2 ^ 32)
    let r : Fin 64 := finOf 64 (by decide) i
    s.regWrite l F.HIU_DOORBELL_PROD fn inst i off w = s.after (exec (.doorbell fn r x) s) ∧
    s.regWrite l F.HIU_CQ_HEAD_HEAD fn inst i off w = s.after (exec (.cqHeadWrite fn r x) s) ∧
    s.regWrite l F.HIU_RING_PROG_SEL_SEQ fn inst i off w = s.after (exec (.ringProgSelWrite fn r x) s) ∧
    s.regWrite l F.TSC_PROG_SEL_TAG fn inst i off w = s.after (exec (.progSelWrite (tileOf inst) (BitVec.ofNat 64 val.toNat)) s) ∧
    s.regWrite l F.TMU_INV_SCOPE fn inst i off w = s.after (exec (.tmuInv (tileOf inst) hi (some x)) s) ∧
    s.regWrite l F.TBU_SET_NS_NS fn inst i off w = s.after (exec (.tbuSetNs hi (some x)) s) ∧
    s.regWrite l F.FLT_LOG_SEL_INDEX fn inst i off w = s.after (exec (.logSelWrite (BitVec.ofNat 6 val.toNat)) s) :=
  ⟨rfl, rfl, rfl, rfl, rfl, rfl, rfl⟩

/-- Writes whose bit 0 enables or disables. -/
theorem State.regWrite_switch (s : State) (fn : Fin 32) (inst i off : Nat) (val : BitVec 64) (l : List Fld) :
    let w := RegW.whole val
    let m : BitVec 64 := BitVec.ofNat 64 val.toNat
    let r : Fin 64 := finOf 64 (by decide) i
    let vf : Fin 32 := finOf 32 (by decide) (i + 1)
    let p : Fin 16 := finOf 16 (by decide) inst
    s.regWrite l F.HIU_RING_CFG_EN fn inst i off w =
      (if bits val.toNat 0 1 = 1 then s.after (exec (.ringEnable fn r m) s) else s.after (exec (.ringDisable fn r m) s)) ∧
    s.regWrite l F.HIU_PART_CFG_EN fn inst i off w =
      (if bits val.toNat 0 1 = 1 then s.after (exec (.partEnable vf m) s) else s.after (exec (.partDisable vf m) s)) ∧
    s.regWrite l F.CWP_CTL_EN fn inst i off w =
      (if bits val.toNat 0 1 = 1 then s.after (exec (.portEnable p m) s) else s.after (exec (.portDisable p m) s)) :=
  ⟨rfl, rfl, rfl⟩

/-- Writes of 1 that begin an operation. -/
theorem State.regWrite_set (s : State) (fn : Fin 32) (inst i off : Nat) (val : BitVec 64) (l : List Fld) :
    let w := RegW.whole val
    let r : Fin 64 := finOf 64 (by decide) i
    s.regWrite l F.HIU_RING_CTL_RESET fn inst i off w =
      (if (true && decide (bits val.toNat 0 1 = 1)) = true then s.after (exec (.ringReset fn r) s) else s) ∧
    s.regWrite l F.VSU_NAN_RESUME_GO fn inst i off w =
      (if (true && decide (bits val.toNat 0 1 = 1)) = true then s.after (exec (.nanResumeGo (tileOf inst)) s) else s) ∧
    s.regWrite l F.FRV_MBX_CTL_GO fn inst i off w = (if (true && decide (bits val.toNat 0 1 = 1)) = true then s.after (exec .mbxGo s) else s) ∧
    s.regWrite l F.FLT_INJECT_CODE fn inst i off w = (if (true && decide (bits val.toNat 16 1 = 1)) = true then
      s.after (exec (.fltInject (BitVec.ofNat 8 val.toNat) (BitVec.ofNat 8 (bits val.toNat 8 8))) s) else s) :=
  ⟨rfl, rfl, rfl, rfl⟩

/-- Writes that enable a channel, a group or a queue that is OFF, or disable one that is not (R242, R251, R252, R265). -/
theorem State.regWrite_lep (s : State) (fn : Fin 32) (inst i off : Nat) (val : BitVec 64) (l : List Fld) :
    let w := RegW.whole val
    let t := tileOf inst
    let m : BitVec 64 := BitVec.ofNat 64 val.toNat
    let put := s.regPut l t.val i w
    let on := (true && decide (bits val.toNat 0 1 = 1)) = true
    let off_ := (true && !decide (bits val.toNat 0 1 = 1)) = true
    let c : Fin 512 := finOf 512 (by decide) i
    let q : Fin 256 := finOf 256 (by decide) i
    s.regWrite l F.LEP_CHAN_CFG_EN fn inst i off w = (if s.rd F.LEP_CHAN_CRED_STATE t.val i = 0 then
      (if on then s.after (exec (.channelEnable t c m) s) else put) else if off_ then s.after (exec (.channelDisable t c) s) else s) ∧
    s.regWrite l F.LEP_GRP_CFG_EN fn inst i off w = (if s.rd F.LEP_GRP_STATE_STATE t.val i = 0 then
      (if on then s.after (exec (.groupEnable t (finOf 32 (by decide) i) m) s) else put) else if off_ then s.groupDisable t i else s) ∧
    s.regWrite l F.LEP_Q_CFG_EN fn inst i off w = (if s.qState t i = 0 then
      (if on then s.after (exec (.queueEnable t q m) s) else put) else if off_ then s.after (exec (.queueDisable t q) s) else s) :=
  ⟨rfl, rfl, rfl⟩

end Operations

/-- A write of TPC_CMD asks for its operation (Table 14-8). -/
theorem State.tpcCmd_gives {s : State} {val : BitVec 64} (t : Fin 8) (htakes : s.fnTakes 0 = true) :
    s.gives (.registerWrite 0 (0x100000 * (t.val + 1) + 0x90000 + F.TPC_CMD_OP.off) 8 val)
      (match bits val.toNat 0 2 with
        | 1 => s.after (exec (.tpcWake 0 t) s)
        | 2 => s.after (exec (.tpcOff 0 t) s)
        | 3 => s.after (exec (.tpcOn 0 t) s)
        | _ => s).settle := by
  have hat : bar0At 0 (0x100000 * (t.val + 1) + 0x90000 + F.TPC_CMD_OP.off) = some (.tpc, t.val, F.TPC_CMD_OP.off) := by revert t; decide
  have hreg : regAt .tpc (F.TPC_CMD_OP.off / 8 * 8) = some ([F.TPC_CMD_OP], F.TPC_CMD_OP, 0) := by decide
  have hgives := State.registerWrite_reaches (fn := 0) (width := 8) (val := val) htakes (by revert t; decide) hat hreg rfl
  have hwrite : s.regWrite [F.TPC_CMD_OP] F.TPC_CMD_OP 0 t.val 0 F.TPC_CMD_OP.off (RegW.whole val) = match bits val.toNat 0 2 with
      | 1 => s.after (exec (.tpcWake 0 (tileOf t.val)) s)
      | 2 => s.after (exec (.tpcOff 0 (tileOf t.val)) s)
      | 3 => s.after (exec (.tpcOn 0 (tileOf t.val)) s)
      | _ => s := rfl
  rw [tileOf_val] at hwrite
  rw [← hwrite]
  exact hgives

/-- Settles O34: where an address leads, who reaches the register, and the three access codes. -/
theorem registerWriteResult : Obligations.RegisterWriteResult := by
  refine ⟨fun fn off width val s htakes => congrArg (ok s) (if_pos (by rw [htakes]; rfl)), fun fn off width val s htakes h => ?_, ?_, ?_, ?_,
    fun s f inst idx w => ⟨State.fieldPut_rw, State.fieldPut_w1c, State.fieldPut_kept⟩, fun old val => ⟨rfl, rfl, rfl⟩, fun i s => rfl⟩
  · exact congrArg (ok s) ((if_neg (by rw [htakes]; decide)).trans (if_pos (by rw [bar0Ok_eq_false h]; rfl)))
  · intro fn off width val s htakes hwidth hal
    have hok := bar0Ok_eq_true hwidth hal
    refine ⟨fun hat => ?_, fun b inst o hat => ⟨State.registerWrite_unreached htakes hok hat, fun l f i hreg hreach =>
      State.registerWrite_reaches htakes hok hat hreg hreach, fun l f i hreg hreach hplain => ?_⟩⟩
    · have hgives := State.registerWrite_allowed (val := val) htakes hok
      rwa [hat] at hgives
    · have hgives := State.registerWrite_reaches (val := val) htakes hok hat hreg hreach
      rwa [State.regWrite_plain hplain] at hgives
  · intro fn t inst i off val s l hinst v w x hi r vf does
    have htile : tileOf inst = t := by rw [hinst, tileOf_val]
    obtain ⟨hdoorbell, hhead, hprog, hsel, hinv, hset, hlog⟩ := s.regWrite_always fn inst i off val l
    obtain ⟨hring, hpart, hport⟩ := s.regWrite_switch fn inst i off val l
    obtain ⟨hreset, hgo, hmbx, hinject⟩ := s.regWrite_set fn inst i off val l
    obtain ⟨hchan, hgroup, hqueue⟩ := s.regWrite_lep fn inst i off val l
    rw [ofNat_whole] at hsel hring hpart hport hchan hgroup hqueue
    rw [htile] at hsel hinv hgo hchan hgroup hqueue
    have hdoes : ∀ {f : Fld} {c : Instr}, s.regWrite l f fn inst i off w = s.after (exec c s) → does f c := fun hf u hu => hf.trans (State.after_exec hu)
    refine ⟨hdoes hdoorbell, hdoes hhead, hdoes hprog, hdoes hsel, hdoes hinv, hdoes hset, hdoes hlog, fun hon => ?_, fun hoff => ?_, fun hon => ?_, ?_, ?_⟩
    · have htrue : (true && decide (bits val.toNat 0 1 = 1)) = true := by rw [decide_eq_true hon]; rfl
      rw [if_pos hon] at hring hpart hport
      rw [if_pos htrue] at hreset hgo hmbx
      exact ⟨hdoes hring, hdoes hreset, hdoes hpart, hdoes hgo, hdoes hmbx, hdoes hport⟩
    · have hnot : ¬bits val.toNat 0 1 = 1 := by rw [show bits val.toNat 0 1 = 0 from hoff]; decide
      rw [if_neg hnot] at hring hpart hport
      exact ⟨hdoes hring, hdoes hpart, hdoes hport⟩
    · rw [if_pos (by rw [decide_eq_true hon]; rfl)] at hinject
      exact hdoes hinject
    · intro hon
      have htrue : (true && decide (bits val.toNat 0 1 = 1)) = true := by rw [decide_eq_true hon]; rfl
      refine ⟨fun hidle => hdoes ?_, fun hidle => hdoes ?_, fun hidle => hdoes ?_⟩
      · rwa [if_pos hidle, if_pos htrue] at hchan
      · rwa [if_pos hidle, if_pos htrue] at hgroup
      · rwa [if_pos hidle, if_pos htrue] at hqueue
    · intro hoff
      have htrue : (true && !decide (bits val.toNat 0 1 = 1)) = true := by rw [show bits val.toNat 0 1 = 0 from hoff]; decide
      refine ⟨fun hused => hdoes ?_, fun hused => hdoes ?_⟩
      · rwa [if_neg hused, if_pos htrue] at hchan
      · rwa [if_neg hused, if_pos htrue] at hqueue
  · intro val s t htakes off
    have hgives := State.tpcCmd_gives (val := val) t htakes
    refine ⟨fun hop u hu => ?_, fun hop u hu => ?_, fun hop u hu => ?_⟩
    all_goals
      rw [hop, State.after_exec hu] at hgives
      exact hgives

end Sys2Proof.Machine
end

section
/-! SUPPORT. Proofs about PCI Express functions (R374, R381, R401, R402), partitions and BAR2 (R378, R379). -/
namespace Sys2Proof.Machine

/-! ### Configuration, ATS and resets -/

section Function
variable {s : State} {fn : Fin 32}

/-- A function that is not there answers nothing. -/
theorem State.function_absent (h : s.fnLive fn.val = false) : (∀ item val, s.gives (.pcieConfigRequest fn item val) s) ∧
    (∀ addr len, s.gives (.atsInvalidationRequest fn addr len) s) ∧ (∀ page host wr, s.gives (.atsTranslationCompletion fn page host wr) s) ∧
    (∀ r, s.gives (.pcieCompletionTimeout fn r) s) ∧ (∀ r, s.gives (.ringReset fn r) s) ∧ s.gives (.functionLevelReset fn) s := by
  have hnot : ¬s.fnLive fn.val = true := by rw [h]; decide
  have hout : (!s.fnLive fn.val) = true := by rw [h]; rfl
  have htakes : ¬s.fnTakes fn.val = true := by rw [State.fnTakes, h]; exact Bool.noConfusion
  exact ⟨fun _ _ => congrArg (ok s) (if_pos hout), fun _ _ => congrArg (ok s) (if_neg hnot), fun _ _ _ => congrArg (ok s) (if_neg fun g => hnot g.1),
    fun _ => congrArg (ok s) (if_neg fun g => hnot g.1), fun _ => congrArg (ok s) (if_neg fun g => htakes g.1), congrArg (ok s) (if_pos hout)⟩

/-- What writes of the configuration items take (Table 15-1). -/
theorem State.putItem_flags (s : State) (f v : Nat) : let b := decide (v % 2 = 1)
    s.putItem f .d3hot v = s.onFn f (fun x => { x with d3hot := b }) ∧ s.putItem f .ats v = s.onFn f (fun x => { x with ats := b }) ∧
      s.putItem f .atomicOp v = s.onFn f (fun x => { x with atomicOp := b }) := ⟨rfl, rfl, rfl⟩

theorem State.putItem_numVfs {v : Nat} (hoff : (s.fn 0).vfEnable = false) (hv : v ≤ 31) :
    s.putItem 0 .numVfs v = s.onFn 0 (fun x => { x with numVfs := v }) :=
  if_pos (by rw [hoff, decide_eq_true hv]; rfl)

theorem State.putItem_sriov_of_vf {f v : Nat} (hf : f ≠ 0) : s.putItem f .vfEnable v = s ∧ s.putItem f .numVfs v = s :=
  ⟨if_neg (by rw [decide_eq_false hf]; decide), if_neg (by rw [decide_eq_false hf]; exact Bool.noConfusion)⟩

theorem State.relaxedOut_of_nil (h : s.relaxed = []) : s.relaxedOut = s := if_pos h

/-- A translation that is answered takes a free place (R381). -/
theorem State.atsTranslationCompletion_gives {page : Nat} {host : Option Nat} {wr : Bool} (hlive : s.fnLive fn.val = true) (hats : (s.fn fn.val).ats = true)
    (hnew : page ∉ (s.fn fn.val).atc) (hroom : s.atcUsed < 512) : s.gives (.atsTranslationCompletion fn page host wr)
      (((s.onFn fn.val (fun x => { x with
        trans := x.trans.put page (host.map (fun h => (h, wr))), atc := x.atc ++ [page]
        atcAsked := x.atcAsked.filter (fun p => decide (p ≠ page)) })).ckAdvance).allGo).settle := by
  refine congrArg (ok s) ((if_pos ⟨hlive, hats⟩).trans ?_)
  have hnot : (s.fn fn.val).atc.contains page = false := by simpa using hnew
  have hevict : s.atcEvict = s := if_pos hroom
  dsimp only
  rw [if_neg (by rw [hnot]; decide), hevict, State.onFn, State.onFn, hnot]
  rfl

end Function

/-- Settles O35: each request's branch for a function that lives, and what an item's write keeps. -/
theorem pcieFunctionResult : Obligations.PcieFunctionResult := by
  refine ⟨fun fn s => State.function_absent, fun fn s hlive => ⟨fun item => ?_, fun v => ?_, fun addr len hrelaxed => ?_, fun page host wr => ?_, fun r hready hleft => ?_,
    fun r hnot => ?_⟩, fun fn r s htakes => ⟨fun hoff => ?_, fun hon => ?_⟩, fun fn s hlive => ⟨fun hvf => ?_, fun hpf => ?_⟩, fun s f keep => ?_⟩
  · have hin : ¬(!s.fnLive fn.val) = true := by rw [hlive]; decide
    exact ⟨congrArg (ok s) (if_neg hin), fun v => congrArg (ok s) (if_neg hin)⟩
  · obtain ⟨hd3, hats, hatomic⟩ := s.putItem_flags fn.val v
    exact ⟨hd3, hats, hatomic, fun _ => rfl, fun _ hoff hv => State.putItem_numVfs hoff hv, fun hvf => State.putItem_sriov_of_vf hvf⟩
  · refine congrArg (ok s) ((if_pos hlive).trans ?_)
    dsimp only
    rw [State.relaxedOut_of_nil hrelaxed]
  · exact ⟨fun hoff => congrArg (ok s) (if_neg (by rw [hoff]; exact fun h => Bool.noConfusion h.2)), State.atsTranslationCompletion_gives hlive⟩
  · exact congrArg (ok s) (if_pos ⟨hlive, hready, hleft⟩)
  · exact congrArg (ok s) (if_neg fun h => hnot h.2.1)
  · exact congrArg (ok s) (if_neg fun h => h.2 hoff)
  · exact congrArg (ok s) (if_pos ⟨htakes, hon⟩)
  · exact congrArg (ok s) ((if_neg (by rw [hlive]; decide)).trans (if_neg hvf))
  · exact congrArg (ok s) ((if_neg (by rw [hlive]; decide)).trans (if_pos hpf))
  · rw [State.fn, State.fnClear, SMap.getD, SMap.find_erase_same]
    rfl

/-! ### Partitions and BAR2 -/

section Partition
variable {s : State} {f : Fin 32} {val : BitVec 64}

theorem State.partEnable_gives (hin : ¬(!s.fnTakes 0 || f.val = 0 || s.partOn f.val || bits val.toNat 0 1 = 0) = true) :
    s.gives (.partEnable f val) (if (s.putPart f.val val.toNat).partValid f.val then
      ((s.putPart f.val val.toNat).wr F.HIU_PART_CFG_EN 0 1 (f.val - 1)).ownersNow
      else (s.putPart f.val val.toNat).wr F.HIU_PART_STATUS_ERR 0 1 (f.val - 1)) := congrArg (ok s) (if_neg hin)

theorem State.partDisable_gives (htakes : s.fnTakes 0 = true) (hvf : f.val ≠ 0) (hoff : bits val.toNat 0 1 = 0) :
    s.gives (.partDisable f val) (if s.partOn f.val && s.ringsBusy f.val then s.wr F.HIU_PART_STATUS_ERR 0 1 (f.val - 1)
      else ((s.putPart f.val val.toNat).wr F.HIU_PART_CFG_EN 0 0 (f.val - 1)).ownersNow) :=
  congrArg (ok s) (if_neg (by rw [htakes, decide_eq_false hvf, hoff]; decide))

end Partition

section Bar2
variable {s : State} {fn : Fin 32} {off len : Nat}

/-- An access within BAR2 (R375, R379). -/
theorem State.bar2Access_gives (htakes : s.fnTakes fn.val = true) (hin : off + len ≤ s.bar2Size fn.val) (data : Option (List Byte)) :
    let f := fn.val
    let pa := s.rd F.HIU_BAR2_BASE_PA f * 2 ^ 30 + off
    s.gives (.bar2Access fn off len data) (match data with
    | some bs =>
      if s.bar2Refused f pa bs.length true then s.event f F.HIU_EVT_STATUS_BAR2_REFUSED
      else (s.bar2Reach pa bs.length true).writeBytes f pa bs (.bar2 f bs.length)
    | none =>
      if s.bar2Refused f pa len false then ((s.event f F.HIU_EVT_STATUS_BAR2_REFUSED).emit (.other "BAR2_UR" [f, len])).aerErr f aerUnsupported
      else if s.farOf pa len ≠ [] then (s.farOf pa len).foldl (fun s p => s.request ⟨.bar2 f len, mopRd, p.2.1, p.2.2, p.1, [], false⟩) s
      else (s.bar2Reach pa len false).emit (.other "BAR2_DATA" (f :: (s.poisonIn pa len).toNat :: (s.readBytes f pa len).map (·.toNat)))) :=
  congrArg (ok s) (if_neg (by rw [htakes, decide_eq_false (by omega)]; decide))

end Bar2

/-- Settles O36: the tests of PART_CFG's write, and what a range of BAR2 meets. -/
theorem partitionAndBar2Result : Obligations.PartitionAndBar2Result := by
  refine ⟨?_, fun f val s h => ?_, fun f val s hon => ?_, fun s f hf hnone => ?_, fun f val s htakes hvf hoff => ?_, fun fn off len data s htakes => ?_,
    fun fn off len data s hout => ?_, ?_⟩
  · intro f val s htakes hvf hidle hen s1
    have hgives := State.partEnable_gives (s := s) (f := f) (val := val) (by rw [htakes, decide_eq_false hvf, hidle, hen]; decide)
    refine ⟨fun hvalid => ?_, fun hbad => ?_⟩
    · rwa [if_pos (show (s.putPart f.val val.toNat).partValid f.val = true from hvalid)] at hgives
    · rwa [if_neg (by rw [show (s.putPart f.val val.toNat).partValid f.val = false from hbad]; decide)] at hgives
  · have hout : (!s.fnTakes 0 || decide (f.val = 0)) = true := by
      rcases h with h | h
      · rw [h]; rfl
      · rw [decide_eq_true h, Bool.or_true]
    exact ⟨congrArg (ok s) (if_pos (by rw [hout]; rfl)), congrArg (ok s) (if_pos (by rw [hout]; rfl))⟩
  · exact congrArg (ok s) (if_pos (by rw [hon, Bool.or_true]; rfl))
  · rw [State.partValid, hnone]
    rfl
  · have hgives := State.partDisable_gives (s := s) htakes hvf hoff
    refine ⟨fun hon hbusy => ?_, fun hidle => ?_⟩
    · rwa [if_pos (by rw [hon, hbusy]; rfl)] at hgives
    · rwa [if_neg (by rw [hidle, Bool.and_false]; decide)] at hgives
  · exact congrArg (ok s) (if_pos (by rw [htakes]; rfl))
  · exact congrArg (ok s) (if_pos (by rw [decide_eq_true hout, Bool.or_true]))
  · intro fn off len bs s htakes hin pa
    have hgives := State.bar2Access_gives (s := s) htakes hin
    refine ⟨fun hrefused => ?_, fun hgood => ?_, fun hrefused => ?_, fun hgood hnear => ?_⟩
    · have hg := hgives (some bs)
      dsimp only at hg
      rwa [if_pos hrefused] at hg
    · have hg := hgives (some bs)
      dsimp only at hg
      rwa [if_neg (by rw [hgood]; decide)] at hg
    · have hg := hgives none
      dsimp only at hg
      rwa [if_pos hrefused] at hg
    · have hg := hgives none
      dsimp only at hg
      rwa [if_neg (by rw [hgood]; decide), if_neg (not_not_intro hnear)] at hg

end Sys2Proof.Machine
end

section
/-! SUPPORT. Proofs about Causeway ports: their registers, and training (R334, R336, R337). -/
namespace Sys2Proof.Machine

/-! ### Lanes and credits: tables of eight entries with two fields each -/

/-- Write both fields of the first n entries of a table of port p. -/
def State.putTable (s : State) (A B : Fld) (p : Nat) (a b : Nat → Nat) (n : Nat) : State :=
  (List.range n).foldl (fun s l => (s.wr A p (a l) l).wr B p (b l) l) s

/-- Two fields of the same entries of a port's table of eight. -/
def Fld.twins (A B : Fld) : Bool :=
  decide (A.blk = .cwp) && decide (B.blk = .cwp) && decide (A.off = B.off) && decide (A.stride = 8) && decide (B.stride = 8) && decide (A.lo ≠ B.lo) &&
    decide (A.lo < 64) && decide (B.lo < 64) && decide (0x80 ≤ A.off) && decide (A.off ≤ 0x100)

/-- A field that is in no table of a port. -/
def Fld.offTables (g : Fld) : Bool := decide (g.lo < 64) && (decide (g.blk.num ≠ Blk.cwp.num) || decide (g.stride = 0) && decide (g.off < 0x80))

section Tables
variable {s : State} {A B g : Fld} {p : Nat} {a b : Nat → Nat}

theorem State.putTable_succ (n : Nat) : s.putTable A B p a b (n + 1) = (((s.putTable A B p a b n).wr A p (a n) n).wr B p (b n) n) := by
  rw [State.putTable, State.putTable, List.range_succ, List.foldl_append]
  rfl

/-- Writing a table changes registers alone. -/
theorem State.putTable_rest (n : Nat) : s.putTable A B p a b n = { s with regs := (s.putTable A B p a b n).regs } := by
  induction n with
  | zero => rfl
  | succ n ih =>
    rw [State.putTable_succ]
    conv_lhs => rw [ih]
    rfl

theorem State.rd_putTable (htwins : A.twins B = true) {n : Nat} (hn : n ≤ 8) {l : Nat} (hl : l < n) :
    (s.putTable A B p a b n).rd A p l = a l % 2 ^ A.w ∧ (s.putTable A B p a b n).rd B p l = b l % 2 ^ B.w := by
  simp only [Fld.twins, Bool.and_eq_true, decide_eq_true_eq] at htwins
  obtain ⟨⟨⟨⟨⟨⟨⟨⟨⟨hA, hB⟩, hoff⟩, hsA⟩, hsB⟩, hlo⟩, hAlo⟩, hBlo⟩, hlow⟩, hhigh⟩ := htwins
  induction n with
  | zero => omega
  | succ n ih =>
    rw [State.putTable_succ]
    have hAB : A.key p l ≠ B.key p n := Fld.key_ne (.inr (.inr (.inr hlo))) hAlo hBlo
    have hBA : B.key p l ≠ A.key p n := Fld.key_ne (.inr (.inr (.inr (Ne.symm hlo)))) hBlo hAlo
    by_cases hlast : l = n
    · subst hlast
      rw [State.rd_wr_ne _ _ hAB, State.rd_wr_same, State.rd_wr_same]
      exact ⟨rfl, rfl⟩
    · have hAA : A.key p l ≠ A.key p n := Fld.key_ne (.inr (.inr (.inl (by rw [hsA]; omega)))) hAlo hAlo
      have hBB : B.key p l ≠ B.key p n := Fld.key_ne (.inr (.inr (.inl (by rw [hsB]; omega)))) hBlo hBlo
      rw [State.rd_wr_ne _ _ hAB, State.rd_wr_ne _ _ hAA, State.rd_wr_ne _ _ hBB, State.rd_wr_ne _ _ hBA]
      exact ih (by omega) (by omega)

/-- A table's write leaves every field of another place. -/
theorem State.rd_putTable_ne (htwins : A.twins B = true) {n : Nat} (hn : n ≤ 8) {j y : Nat} (hg : g.lo < 64)
    (hout : g.blk.num ≠ Blk.cwp.num ∨ g.lo ≠ A.lo ∧ g.lo ≠ B.lo ∨ ∀ l, l < 8 → (g.off + g.stride * y) % 1048576 ≠ A.off + 8 * l) :
    (s.putTable A B p a b n).rd g j y = s.rd g j y := by
  simp only [Fld.twins, Bool.and_eq_true, decide_eq_true_eq] at htwins
  obtain ⟨⟨⟨⟨⟨⟨⟨⟨⟨hA, hB⟩, hoff⟩, hsA⟩, hsB⟩, hlo⟩, hAlo⟩, hBlo⟩, hlow⟩, hhigh⟩ := htwins
  induction n with
  | zero => rfl
  | succ n ih =>
    have hkey : g.key j y ≠ A.key p n ∧ g.key j y ≠ B.key p n := by
      rcases hout with h | ⟨h1, h2⟩ | h
      · exact ⟨Fld.key_ne (.inl (by rwa [hA])) hg hAlo, Fld.key_ne (.inl (by rwa [hB])) hg hBlo⟩
      · exact ⟨Fld.key_ne (.inr (.inr (.inr h1))) hg hAlo, Fld.key_ne (.inr (.inr (.inr h2))) hg hBlo⟩
      · have hn' := h n (by omega)
        have hplace : (A.off + 8 * n) % 1048576 = A.off + 8 * n := Nat.mod_eq_of_lt (by omega)
        refine ⟨Fld.key_ne (.inr (.inr (.inl ?_))) hg hAlo, Fld.key_ne (.inr (.inr (.inl ?_))) hg hBlo⟩
        · rwa [hsA, hplace]
        · rwa [hsB, ← hoff, hplace]
    rw [State.putTable_succ, State.rd_wr_ne _ _ hkey.2, State.rd_wr_ne _ _ hkey.1]
    exact ih (by omega)

theorem State.rd_putTable_off (htwins : A.twins B = true) (h : g.offTables = true) (j y : Nat) : (s.putTable A B p a b 8).rd g j y = s.rd g j y := by
  simp only [Fld.offTables, Bool.and_eq_true, Bool.or_eq_true, decide_eq_true_eq] at h
  obtain ⟨hlo, h⟩ := h
  refine State.rd_putTable_ne htwins (Nat.le_refl 8) hlo ?_
  rcases h with h | ⟨hstride, hoff⟩
  · exact .inl h
  · refine .inr (.inr fun l _ => ?_)
    have hlow : 0x80 ≤ A.off := by
      simp only [Fld.twins, Bool.and_eq_true, decide_eq_true_eq] at htwins
      exact htwins.1.2
    rw [hstride]
    omega

end Tables

/-! ### What shared operations of a port leave -/

section Port
variable {s : State} {p : Nat}

@[simp] theorem State.port_onPort (f : Port → Port) : (s.onPort p f).port p = f (s.port p) := SMap.getD_set_same _ _ _

theorem State.port_onPort_ne {q : Nat} (f : Port → Port) (h : q ≠ p) : (s.onPort p f).port q = s.port q := SMap.getD_set_ne _ _ h

/-- Fields at other bits never share a place. -/
theorem State.rd_wr_lo {f g : Fld} (hlo : f.lo ≠ g.lo) (hf : f.lo < 64) (hg : g.lo < 64) (i v x j y : Nat) : (s.wr f i v x).rd g j y = s.rd g j y :=
  State.rd_wr_ne s v (Fld.key_ne (.inr (.inr (.inr (Ne.symm hlo)))) hg hf)

theorem State.rd_onPort (f : Port → Port) (g : Fld) (i x : Nat) : (s.onPort p f).rd g i x = s.rd g i x := rfl

/-- A unit's transition writes its state register and what counts as failed. -/
theorem State.usrTo_rest (u st owner cause : Nat) :
    s.usrTo u st owner cause = { s with regs := (s.usrTo u st owner cause).regs, flt := (s.usrTo u st owner cause).flt } := by
  unfold State.usrTo
  split
  · rfl
  · dsimp only
    split
    all_goals rfl

theorem State.rd_usrTo {g : Fld} (hg : F.FRV_USR_STATE.foreign g = true) (u st owner cause i x : Nat) : (s.usrTo u st owner cause).rd g i x = s.rd g i x := by
  have hwrs : (s.wrs 0 u [(F.FRV_USR_STATE, st), (F.FRV_USR_OWNER, owner), (F.FRV_USR_CAUSE, cause), (F.FRV_USR_EPOCH, s.rd F.FRV_USR_EPOCH 0 u + 1)]).rd g i x =
      s.rd g i x := by
    simp only [Fld.foreign, Bool.and_eq_true, decide_eq_true_eq] at hg
    obtain ⟨⟨-, hlo⟩, hblk⟩ := hg
    have hforeign : ∀ f : Fld, f.blk = .frv → f.lo < 64 → f.foreign g = true := fun f hf hlt => by
      simp only [Fld.foreign, Bool.and_eq_true, decide_eq_true_eq]
      exact ⟨⟨hlt, hlo⟩, by rw [hf]; exact hblk⟩
    simp only [State.wrs_cons, State.wrs_nil, State.rd_wr_foreign (hforeign F.FRV_USR_STATE rfl (by decide)),
      State.rd_wr_foreign (hforeign F.FRV_USR_OWNER rfl (by decide)), State.rd_wr_foreign (hforeign F.FRV_USR_CAUSE rfl (by decide)),
      State.rd_wr_foreign (hforeign F.FRV_USR_EPOCH rfl (by decide))]
  unfold State.usrTo
  split
  · rfl
  · dsimp only
    split
    all_goals exact hwrs

theorem State.portUsr_rest (st cause : Nat) : s.portUsr p st cause = { s with regs := (s.portUsr p st cause).regs, flt := (s.portUsr p st cause).flt } := by
  unfold State.portUsr
  split
  · rfl
  · exact State.usrTo_rest _ _ _ _

theorem State.rd_portUsr {g : Fld} (hg : F.FRV_USR_STATE.foreign g = true) (st cause i x : Nat) : (s.portUsr p st cause).rd g i x = s.rd g i x := by
  unfold State.portUsr
  split
  · rfl
  · exact State.rd_usrTo hg _ _ _ _ _ _

theorem State.port_portUsr (st cause q : Nat) : (s.portUsr p st cause).port q = s.port q := by
  rw [State.portUsr_rest]
  rfl

theorem State.mem_portUsr (st cause : Nat) : (s.portUsr p st cause).mem = s.mem := by rw [State.portUsr_rest]

/-- A module's setting is told, and no more. -/
theorem State.moduleSet_rest : s.moduleSet p = { s with out := (s.moduleSet p).out } := by
  unfold State.moduleSet
  split
  all_goals rfl

theorem State.rd_moduleSet (g : Fld) (i x : Nat) : (s.moduleSet p).rd g i x = s.rd g i x := by
  rw [State.moduleSet_rest]
  rfl

theorem State.port_wr (f : Fld) (i v x q : Nat) : (s.wr f i v x).port q = s.port q := rfl
theorem State.mem_wr (f : Fld) (i v x : Nat) : (s.wr f i v x).mem = s.mem := rfl
theorem State.mem_onPort (f : Port → Port) : (s.onPort p f).mem = s.mem := rfl

theorem State.port_putTable (A B : Fld) (r : Nat) (a b : Nat → Nat) (n q : Nat) : (s.putTable A B r a b n).port q = s.port q := by
  rw [State.putTable_rest]
  rfl

theorem State.mem_putTable (A B : Fld) (r : Nat) (a b : Nat → Nat) (n : Nat) : (s.putTable A B r a b n).mem = s.mem := by rw [State.putTable_rest]

theorem State.port_moduleSet (q : Nat) : (s.moduleSet p).port q = s.port q := by
  rw [State.moduleSet_rest]
  rfl

theorem State.mem_moduleSet : (s.moduleSet p).mem = s.mem := by rw [State.moduleSet_rest]

theorem State.lanesLost_eq : s.lanesLost p = (s.wr F.CWP_STATUS_LANEOK p 0).putTable F.CWP_LANE_LOCK F.CWP_LANE_PRECODE p (fun _ => 0) (fun _ => 0) 8 := rfl

theorem State.linkLost_eq (f : Port → Port) : s.linkLost p f =
    (((s.lanesLost p).wrs p 0 [(F.CWP_STATUS_X4, 0), (F.CWP_STATUS_HALF, 0), (F.CWP_STATUS_PEERV, 0)]).putTable F.CWP_VC_TXCRED0 F.CWP_VC_TXCRED1 p
      (fun _ => 0) (fun _ => 0) 8).onPort p (fun x => f { Port.reset with queue := x.packets, pseq := x.pseq, scram := x.scram }) := rfl

theorem State.linkLost_port (f : Port → Port) : (s.linkLost p f).port p =
    f { Port.reset with queue := (s.port p).packets, pseq := (s.port p).pseq, scram := (s.port p).scram } := by
  rw [State.linkLost_eq, State.port_onPort, State.port_putTable, State.lanesLost_eq, State.wrs_cons, State.wrs_cons, State.wrs_cons, State.wrs_nil,
    State.port_wr, State.port_wr, State.port_wr, State.port_putTable, State.port_wr]

theorem State.linkLost_others (f : Port → Port) {q : Nat} (hq : q ≠ p) : (s.linkLost p f).port q = s.port q := by
  rw [State.linkLost_eq, State.port_onPort_ne _ hq, State.port_putTable, State.lanesLost_eq, State.wrs_cons, State.wrs_cons, State.wrs_cons, State.wrs_nil,
    State.port_wr, State.port_wr, State.port_wr, State.port_putTable, State.port_wr]

theorem State.linkLost_mem (f : Port → Port) : (s.linkLost p f).mem = s.mem := by
  rw [State.linkLost_eq, State.mem_onPort, State.mem_putTable, State.lanesLost_eq, State.wrs_cons, State.wrs_cons, State.wrs_cons, State.wrs_nil,
    State.mem_wr, State.mem_wr, State.mem_wr, State.mem_putTable, State.mem_wr]

/-- What a lost link leaves of the port's registers (Table 13-7). -/
theorem State.linkLost_regs (f : Port → Port) : (s.linkLost p f).rd F.CWP_STATUS_PEERV p = 0 ∧ (s.linkLost p f).rd F.CWP_STATUS_LANEOK p = 0 ∧
    (s.linkLost p f).rd F.CWP_CTL_EN p = s.rd F.CWP_CTL_EN p ∧ (s.linkLost p f).rd F.CWP_STATUS_STATE p = s.rd F.CWP_STATUS_STATE p ∧
    (s.linkLost p f).rd F.PCM_STATUS_FABGATED 0 = s.rd F.PCM_STATUS_FABGATED 0 := by
  rw [State.linkLost_eq, State.lanesLost_eq, State.rd_onPort, State.rd_onPort, State.rd_onPort, State.rd_onPort, State.rd_onPort]
  simp (disch := decide) only [State.rd_putTable_off, State.wrs_cons, State.wrs_nil, State.rd_wr_same,
    State.rd_wr_apart, State.rd_wr_foreign, Nat.zero_mod, and_self]

theorem State.linkLost_lanes (f : Port → Port) {l : Nat} (hl : l < 8) : (s.linkLost p f).rd F.CWP_LANE_LOCK p l = 0 := by
  rw [State.linkLost_eq, State.rd_onPort, State.rd_putTable_ne (by decide) (Nat.le_refl 8) (by decide)
    (.inr (.inr fun v hv => by simp only [F.CWP_LANE_LOCK, F.CWP_VC_TXCRED0]; omega)), State.lanesLost_eq]
  rw [State.wrs_cons, State.wrs_cons, State.wrs_cons, State.wrs_nil]
  simp (disch := decide) only [State.rd_wr_lo]
  exact (State.rd_putTable (by decide) (Nat.le_refl 8) hl).1

end Port

/-! ### Enable, disable, retrain -/

section Train
variable {s : State} {p : Nat}

theorem State.flag_true_of_rd {f : Fld} {i x : Nat} (h : s.rd f i x = 1) : s.flag f i x = true := by rw [State.flag, h]; rfl
theorem State.flag_false_of_rd {f : Fld} {i x : Nat} (h : s.rd f i x = 0) : s.flag f i x = false := by rw [State.flag, h]; rfl

/-- Region i runs once it is ungated. -/
theorem bits_ungated (g : Nat) : bits ((if bits g 4 1 = 1 then g - 2 ^ 4 else g) % 2 ^ 5) 4 1 = 0 := by
  rw [bits_eq, bits_eq]
  split
  all_goals omega

/-- A port that begins to train: enabled, in TRAINING, with its fabric region running. -/
def State.trainBegun (s : State) (p : Nat) : State := (s.wrs p 0 [(F.CWP_CTL_EN, 1), (F.CWP_STATUS_STATE, pTrain)]).ungate 4

theorem State.trainBegun_regs (s : State) (p : Nat) : (s.trainBegun p).rd F.CWP_CTL_EN p = 1 ∧ (s.trainBegun p).rd F.CWP_STATUS_STATE p = 1 ∧
    bits ((s.trainBegun p).rd F.PCM_STATUS_FABGATED 0) 4 1 = 0 := by
  unfold State.trainBegun State.ungate
  rw [State.wrs_cons, State.wrs_cons, State.wrs_nil]
  dsimp only
  simp (disch := decide) only [State.rd_wr_foreign, State.rd_wr_apart, State.rd_wr_same]
  exact ⟨rfl, rfl, bits_ungated _⟩

theorem State.port_trainBegun (q : Nat) : (s.trainBegun p).port q = s.port q := rfl
theorem State.mem_trainBegun : (s.trainBegun p).mem = s.mem := rfl

theorem State.portTrain_eq (s : State) (p cause : Nat) :
    s.portTrain p cause = (((s.trainBegun p).linkLost p (fun x => { x with attempts := 1 })).portUsr p uBringup cause).moduleSet p := rfl

/-- A port that trains (R336, R337). -/
theorem State.portTrain_result (s : State) (p cause : Nat) : (s.portTrain p cause).pState p = 1 ∧ (s.portTrain p cause).flag F.CWP_CTL_EN p = true ∧
    (s.portTrain p cause).flag F.CWP_STATUS_PEERV p = false ∧ (s.portTrain p cause).rd F.CWP_STATUS_LANEOK p = 0 ∧
    (∀ l, l < 8 → (s.portTrain p cause).rd F.CWP_LANE_LOCK p l = 0) ∧ bits ((s.portTrain p cause).rd F.PCM_STATUS_FABGATED 0) 4 1 = 0 ∧
    (s.portTrain p cause).port p = { Port.reset with
      queue := (s.port p).packets, attempts := 1, pseq := (s.port p).pseq, scram := (s.port p).scram } ∧
    (∀ q, q ≠ p → (s.portTrain p cause).port q = s.port q) ∧ (s.portTrain p cause).mem = s.mem := by
  have hrd : ∀ (g : Fld) (i x : Nat), F.FRV_USR_STATE.foreign g = true →
      (s.portTrain p cause).rd g i x = ((s.trainBegun p).linkLost p (fun x => { x with attempts := 1 })).rd g i x := fun g i x hg => by
    rw [State.portTrain_eq, State.rd_moduleSet, State.rd_portUsr hg]
  obtain ⟨hpeer, hlanes, hen, hstate, hgated⟩ := State.linkLost_regs (s := s.trainBegun p) (p := p) (fun x => { x with attempts := 1 })
  obtain ⟨hen1, hstate1, hgated1⟩ := s.trainBegun_regs p
  refine ⟨?_, State.flag_true_of_rd ?_, State.flag_false_of_rd ?_, ?_, fun l hl => ?_, ?_, ?_, fun q hq => ?_, ?_⟩
  · rw [State.pState, hrd _ _ _ (by decide), hstate, hstate1]
  · rw [hrd _ _ _ (by decide), hen, hen1]
  · rw [hrd _ _ _ (by decide), hpeer]
  · rw [hrd _ _ _ (by decide), hlanes]
  · rw [hrd _ _ _ (by decide), State.linkLost_lanes _ hl]
  · rw [hrd _ _ _ (by decide), hgated, hgated1]
  · rw [State.portTrain_eq, State.port_moduleSet, State.port_portUsr, State.linkLost_port, State.port_trainBegun]
  · rw [State.portTrain_eq, State.port_moduleSet, State.port_portUsr, State.linkLost_others _ hq, State.port_trainBegun]
  · rw [State.portTrain_eq, State.mem_moduleSet, State.mem_portUsr, State.linkLost_mem, State.mem_trainBegun]

/-- A port that is turned off (R336). -/
def State.offBegun (s : State) (p : Nat) : State := s.wrs p 0 [(F.CWP_CTL_EN, 0), (F.CWP_STATUS_STATE, pOff)]

theorem State.offBegun_regs (s : State) (p : Nat) : (s.offBegun p).rd F.CWP_CTL_EN p = 0 ∧ (s.offBegun p).rd F.CWP_STATUS_STATE p = 0 := by
  unfold State.offBegun
  rw [State.wrs_cons, State.wrs_cons, State.wrs_nil]
  dsimp only
  simp (disch := decide) only [State.rd_wr_apart, State.rd_wr_same, Nat.zero_mod, and_self]

theorem State.port_offBegun (q : Nat) : (s.offBegun p).port q = s.port q := rfl
theorem State.mem_offBegun : (s.offBegun p).mem = s.mem := rfl

theorem State.portDisable_eq (s : State) (p cause : Nat) : s.portDisable p cause = ((s.offBegun p).linkLost p (fun x => x)).portUsr p uOff cause := rfl

theorem State.portDisable_result (s : State) (p cause : Nat) : (s.portDisable p cause).pState p = 0 ∧ (s.portDisable p cause).flag F.CWP_CTL_EN p = false ∧
    (s.portDisable p cause).flag F.CWP_STATUS_PEERV p = false ∧ (∀ l, l < 8 → (s.portDisable p cause).rd F.CWP_LANE_LOCK p l = 0) ∧
    (s.portDisable p cause).port p = { Port.reset with queue := (s.port p).packets, pseq := (s.port p).pseq, scram := (s.port p).scram } ∧
    (∀ q, q ≠ p → (s.portDisable p cause).port q = s.port q) ∧ (s.portDisable p cause).mem = s.mem := by
  have hrd : ∀ (g : Fld) (i x : Nat), F.FRV_USR_STATE.foreign g = true →
      (s.portDisable p cause).rd g i x = ((s.offBegun p).linkLost p (fun x => x)).rd g i x := fun g i x hg => by
    rw [State.portDisable_eq, State.rd_portUsr hg]
  obtain ⟨hpeer, -, hen, hstate, -⟩ := State.linkLost_regs (s := s.offBegun p) (p := p) (fun x => x)
  obtain ⟨hen1, hstate1⟩ := s.offBegun_regs p
  refine ⟨?_, State.flag_false_of_rd ?_, State.flag_false_of_rd ?_, fun l hl => ?_, ?_, fun q hq => ?_, ?_⟩
  · rw [State.pState, hrd _ _ _ (by decide), hstate, hstate1]
  · rw [hrd _ _ _ (by decide), hen, hen1]
  · rw [hrd _ _ _ (by decide), hpeer]
  · rw [hrd _ _ _ (by decide), State.linkLost_lanes _ hl]
  · rw [State.portDisable_eq, State.port_portUsr, State.linkLost_port, State.port_offBegun]
  · rw [State.portDisable_eq, State.port_portUsr, State.linkLost_others _ hq, State.port_offBegun]
  · rw [State.portDisable_eq, State.mem_portUsr, State.linkLost_mem, State.mem_offBegun]

/-- CWP.CTL's other fields are registers alone. -/
theorem State.port_putPortCtl (v q : Nat) : (s.putPortCtl p v).port q = s.port q := rfl
theorem State.mem_putPortCtl (v : Nat) : (s.putPortCtl p v).mem = s.mem := rfl

theorem State.portRetrain_of_not_up (h : s.pState p ≠ 2) : s.portRetrain p = s := if_neg h

theorem State.portRetrain_of_up (h : s.pState p = 2) : s.portRetrain p =
    ((((s.wr F.CWP_STATUS_STATE p 3).lanesLost p).count F.CWP_CNT_RETRAIN_COUNT p 1).onPort p (fun x => { x with
      quick := true, attempts := 0, pair := [] })).portUsr p 1 3 := if_pos h

end Train

section Commands
variable {s : State} {p : Fin 16} {val : BitVec 64}

theorem State.portEnable_gives (htakes : s.fnTakes 0 = true) (hen : bits val.toNat 0 1 = 1) : s.gives (.portEnable p val)
    (if s.flag F.CWP_CTL_EN p.val then
      (if bits val.toNat 3 1 = 1 then (s.putPortCtl p.val val.toNat).portRetrain p.val else s.putPortCtl p.val val.toNat)
      else (s.putPortCtl p.val val.toNat).portTrain p.val byDirect) :=
  congrArg (ok s) (if_neg (by rw [htakes, hen]; decide))

theorem State.portDisable_gives (htakes : s.fnTakes 0 = true) (hoff : bits val.toNat 0 1 = 0) (hon : s.flag F.CWP_CTL_EN p.val = true) :
    s.gives (.portDisable p val) ((s.putPortCtl p.val val.toNat).portDisable p.val byDirect) :=
  congrArg (ok s) ((if_neg (by rw [htakes, hoff]; decide)).trans (if_pos hon))

end Commands

/-! ### The end of training -/

section Complete
variable {s : State} {p : Nat}

/-- Lanes a port can run on (R334). -/
theorem State.lanesRun_cases (s : State) (p : Nat) : s.lanesRun p 0xFF = some (0, 0) ∧
    (s.flag F.CWP_CTL_ALLOW_X4 p = true → s.lanesRun p 0x1F = some (1, 0) ∧ s.lanesRun p 0xF0 = some (1, 1)) ∧
    (s.flag F.CWP_CTL_ALLOW_X4 p = false → ∀ n, n ≠ 0xFF → s.lanesRun p n = none) ∧ s.lanesRun p 0x7E = none := by
  refine ⟨rfl, fun hx4 => ⟨?_, ?_⟩, fun hx4 n hn => ?_, ?_⟩
  · exact (if_neg (by decide)).trans ((if_pos hx4).trans (if_pos (by decide)))
  · exact (if_neg (by decide)).trans ((if_pos hx4).trans ((if_neg (by decide)).trans (if_pos (by decide))))
  · exact (if_neg hn).trans (if_neg (by rw [hx4]; decide))
  · refine (if_neg (by decide)).trans ?_
    split
    · exact (if_neg (by decide)).trans (if_neg (by decide))
    · rfl

theorem State.lanesRun_lt {n : Nat} {r : Nat × Nat} (h : s.lanesRun p n = some r) : r.1 < 2 ∧ r.2 < 2 := by
  unfold State.lanesRun at h
  split at h
  · cases h; decide
  · split at h
    · split at h
      · cases h; decide
      · split at h
        · cases h; decide
        · contradiction
    · contradiction

/-- The registers of a port whose lanes are trained. -/
def State.lanesTrained (s : State) (p lanes pre : Nat) (r : Nat × Nat) : State :=
  (s.wrs p 0 [(F.CWP_STATUS_STATE, pUp), (F.CWP_STATUS_X4, r.1), (F.CWP_STATUS_HALF, r.2), (F.CWP_STATUS_LANEOK, lanes)]).putTable
    F.CWP_LANE_LOCK F.CWP_LANE_PRECODE p (fun l => bits lanes l 1) (fun l => bits pre l 1) 8

theorem State.lanesTrained_rest (lanes pre : Nat) (r : Nat × Nat) :
    s.lanesTrained p lanes pre r = { s with regs := (s.lanesTrained p lanes pre r).regs } := State.putTable_rest 8

theorem State.lanesTrained_regs {lanes pre : Nat} {r : Nat × Nat} (hr : r.1 < 2 ∧ r.2 < 2) (hlanes : lanes < 256) :
    (s.lanesTrained p lanes pre r).rd F.CWP_STATUS_STATE p = 2 ∧ (s.lanesTrained p lanes pre r).rd F.CWP_STATUS_LANEOK p = lanes ∧
    (s.lanesTrained p lanes pre r).rd F.CWP_STATUS_X4 p = r.1 ∧ (s.lanesTrained p lanes pre r).rd F.CWP_STATUS_HALF p = r.2 := by
  obtain ⟨hx4, hhalf⟩ := hr
  unfold State.lanesTrained
  rw [State.wrs_cons, State.wrs_cons, State.wrs_cons, State.wrs_cons, State.wrs_nil]
  dsimp only
  simp (disch := decide) only [State.rd_putTable_off, State.rd_wr_apart, State.rd_wr_same]
  exact ⟨rfl, Nat.mod_eq_of_lt hlanes, Nat.mod_eq_of_lt hx4, Nat.mod_eq_of_lt hhalf⟩

/-- A bit is one bit. -/
theorem bits_one_mod (n l : Nat) : bits n l 1 % 2 ^ 1 = bits n l 1 := by rw [bits_eq, Nat.mod_mod]

theorem State.lanesTrained_lanes {lanes pre : Nat} {r : Nat × Nat} {l : Nat} (hl : l < 8) :
    (s.lanesTrained p lanes pre r).rd F.CWP_LANE_LOCK p l = bits lanes l 1 ∧ (s.lanesTrained p lanes pre r).rd F.CWP_LANE_PRECODE p l = bits pre l 1 := by
  obtain ⟨hlock, hpre⟩ := State.rd_putTable (s := s.wrs p 0 [(F.CWP_STATUS_STATE, pUp), (F.CWP_STATUS_X4, r.1), (F.CWP_STATUS_HALF, r.2),
    (F.CWP_STATUS_LANEOK, lanes)]) (A := F.CWP_LANE_LOCK) (B := F.CWP_LANE_PRECODE) (p := p) (a := fun l => bits lanes l 1) (b := fun l => bits pre l 1)
    (by decide) (Nat.le_refl 8) hl
  exact ⟨hlock.trans (bits_one_mod _ _), hpre.trans (bits_one_mod _ _)⟩

theorem State.freshCredits_eq : s.freshCredits p = (s.onPort p (fun x => { x with peerCred := (List.range 16).map (fun k => (k, vcSize (k / 2))) })).putTable
    F.CWP_VC_TXCRED0 F.CWP_VC_TXCRED1 p vcSize vcSize 8 := rfl

theorem vcSize_lt (v : Nat) : vcSize v < 2 ^ 10 := by
  unfold vcSize
  split
  all_goals decide

theorem State.freshCredits_credits {v : Nat} (hv : v < 8) :
    (s.freshCredits p).rd F.CWP_VC_TXCRED0 p v = vcSize v ∧ (s.freshCredits p).rd F.CWP_VC_TXCRED1 p v = vcSize v := by
  rw [State.freshCredits_eq]
  obtain ⟨h0, h1⟩ := State.rd_putTable (s := s.onPort p (fun x => { x with peerCred := (List.range 16).map (fun k => (k, vcSize (k / 2))) }))
    (A := F.CWP_VC_TXCRED0) (B := F.CWP_VC_TXCRED1) (p := p) (a := vcSize) (b := vcSize) (by decide) (Nat.le_refl 8) hv
  exact ⟨h0.trans (Nat.mod_eq_of_lt (vcSize_lt v)), h1.trans (Nat.mod_eq_of_lt (vcSize_lt v))⟩

theorem State.freshCredits_mem : (s.freshCredits p).mem = s.mem := by
  rw [State.freshCredits_eq, State.mem_putTable, State.mem_onPort]

/-- Fresh credits leave the port's state and its lanes. -/
theorem State.freshCredits_off {g : Fld} (hg : g.offTables = true) (i x : Nat) : (s.freshCredits p).rd g i x = s.rd g i x := by
  rw [State.freshCredits_eq, State.rd_putTable_off (by decide) hg, State.rd_onPort]

theorem State.freshCredits_lanes {l : Nat} (hl : l < 8) : (s.freshCredits p).rd F.CWP_LANE_LOCK p l = s.rd F.CWP_LANE_LOCK p l ∧
    (s.freshCredits p).rd F.CWP_LANE_PRECODE p l = s.rd F.CWP_LANE_PRECODE p l := by
  rw [State.freshCredits_eq, State.rd_putTable_ne (by decide) (Nat.le_refl 8) (by decide)
    (.inr (.inr fun v hv => by simp only [F.CWP_LANE_LOCK, F.CWP_VC_TXCRED0]; omega)),
    State.rd_putTable_ne (by decide) (Nat.le_refl 8) (by decide) (.inr (.inr fun v hv => by simp only [F.CWP_LANE_PRECODE, F.CWP_VC_TXCRED0]; omega)),
    State.rd_onPort, State.rd_onPort]
  exact ⟨rfl, rfl⟩

/-- A port whose training ends: fresh credits on a link that comes up anew, and the replay of what is not acknowledged on one retrained. -/
def State.trained (s : State) (p lanes pre : Nat) (r : Nat × Nat) (fresh : Bool) : State :=
  let s2 := s.lanesTrained p lanes pre r
  if fresh then s2.freshCredits p
  else s2.onPort p (fun x => { x with replay := if x.window = [] then none else some 0, rxBad := false, nakDue := false })

theorem State.trained_fresh (lanes pre : Nat) (r : Nat × Nat) : s.trained p lanes pre r true = (s.lanesTrained p lanes pre r).freshCredits p := by
  rw [State.trained]
  exact if_pos rfl

theorem State.trained_again (lanes pre : Nat) (r : Nat × Nat) : s.trained p lanes pre r false = (s.lanesTrained p lanes pre r).onPort p (fun x => { x with
    replay := if x.window = [] then none else some 0, rxBad := false, nakDue := false }) := by
  rw [State.trained]
  exact if_neg Bool.false_ne_true

theorem State.trained_regs {lanes pre : Nat} {r : Nat × Nat} (hr : r.1 < 2 ∧ r.2 < 2) (hlanes : lanes < 256) (fresh : Bool) :
    let u := s.trained p lanes pre r fresh
    u.rd F.CWP_STATUS_STATE p = 2 ∧ u.rd F.CWP_STATUS_LANEOK p = lanes ∧ u.rd F.CWP_STATUS_X4 p = r.1 ∧ u.rd F.CWP_STATUS_HALF p = r.2 ∧
      (∀ l, l < 8 → u.rd F.CWP_LANE_LOCK p l = bits lanes l 1 ∧ u.rd F.CWP_LANE_PRECODE p l = bits pre l 1) ∧ u.mem = s.mem := by
  obtain ⟨h1, h2, h3, h4⟩ := State.lanesTrained_regs (s := s) (p := p) (pre := pre) hr hlanes
  have hl : ∀ l, l < 8 → (s.lanesTrained p lanes pre r).rd F.CWP_LANE_LOCK p l = bits lanes l 1 ∧
      (s.lanesTrained p lanes pre r).rd F.CWP_LANE_PRECODE p l = bits pre l 1 := fun l hl => State.lanesTrained_lanes hl
  have hm : (s.lanesTrained p lanes pre r).mem = s.mem := by rw [State.lanesTrained_rest]
  cases fresh with
  | true =>
    rw [State.trained_fresh]
    dsimp only
    rw [State.freshCredits_off (by decide), State.freshCredits_off (by decide), State.freshCredits_off (by decide), State.freshCredits_off (by decide),
      State.freshCredits_mem]
    refine ⟨h1, h2, h3, h4, fun l hl8 => ?_, hm⟩
    obtain ⟨ha, hb⟩ := State.freshCredits_lanes (s := s.lanesTrained p lanes pre r) (p := p) hl8
    rw [ha, hb]
    exact hl l hl8
  | false =>
    rw [State.trained_again]
    dsimp only
    rw [State.rd_onPort, State.rd_onPort, State.rd_onPort, State.rd_onPort, State.mem_onPort]
    refine ⟨h1, h2, h3, h4, fun l hl8 => ?_, hm⟩
    rw [State.rd_onPort, State.rd_onPort]
    exact hl l hl8

/-- The end of a training (R334, R336). -/
theorem State.trainingComplete_gives {q : Fin 16} {lanes pre : BitVec 8} {r : Nat × Nat} (hrun : s.lanesRun q.val lanes.toNat = some r)
    (hok : (s.pState q.val = pTrain && (s.port q.val).linkid || s.pState q.val = pRetrain) = true) : s.gives (.trainingComplete q lanes pre)
      (((s.trained q.val lanes.toNat pre.toNat r (s.pState q.val = pTrain && (s.port q.val).linkid)).onPort q.val
        (fun x => { x with rxPos := 0, rxUe := (false, false) })).portUsr q.val uOnline byPath) := by
  refine congrArg (ok s) ?_
  rw [hrun]
  exact if_neg (by rw [hok]; decide)

theorem State.port_lanesTrained (lanes pre : Nat) (r : Nat × Nat) (q : Nat) : (s.lanesTrained p lanes pre r).port q = s.port q := by
  rw [State.lanesTrained_rest]
  rfl

/-- What a trained port shows. -/
theorem State.trainingComplete_result {q : Fin 16} {lanes pre : BitVec 8} {r : Nat × Nat} (hrun : s.lanesRun q.val lanes.toNat = some r)
    (hstate : s.pState q.val = 3 ∨ (s.pState q.val = 1 ∧ (s.port q.val).linkid = true)) :
    ∃ u, exec (.trainingComplete q lanes pre) s = .next u ∧ u.pState q.val = 2 ∧ u.rd F.CWP_STATUS_LANEOK q.val = lanes.toNat ∧ u.rd F.CWP_STATUS_X4 q.val = r.1 ∧
      u.rd F.CWP_STATUS_HALF q.val = r.2 ∧
      (∀ l, l < 8 → u.rd F.CWP_LANE_LOCK q.val l = bits lanes.toNat l 1 ∧ u.rd F.CWP_LANE_PRECODE q.val l = bits pre.toNat l 1) ∧
      (s.pState q.val = 1 → ∀ v, v < 8 → u.rd F.CWP_VC_TXCRED0 q.val v = vcSize v ∧ u.rd F.CWP_VC_TXCRED1 q.val v = vcSize v) ∧
      (s.pState q.val = 3 → (u.port q.val).replay = if (s.port q.val).window = [] then none else some 0) ∧ u.mem = s.mem := by
  let fresh := s.pState q.val = pTrain && (s.port q.val).linkid
  have hgo : (fresh || s.pState q.val = pRetrain) = true := by
    rcases hstate with h | ⟨h, hl⟩
    · rw [decide_eq_true h, Bool.or_true]
    · rw [show fresh = true from by show (decide (s.pState q.val = pTrain) && _) = true; rw [decide_eq_true h, hl]; rfl]
      rfl
  let v := s.trained q.val lanes.toNat pre.toNat r fresh
  obtain ⟨h1, h2, h3, h4, hlanes, hmem⟩ := State.trained_regs (s := s) (p := q.val) (pre := pre.toNat) (State.lanesRun_lt hrun) lanes.isLt fresh
  refine (State.trainingComplete_gives hrun hgo).next_of ?_ fun _ _ h => h
  rw [State.pState, State.rd_portUsr (by decide), State.rd_portUsr (by decide), State.rd_portUsr (by decide), State.rd_portUsr (by decide), State.mem_portUsr,
    State.port_portUsr, State.rd_onPort, State.rd_onPort, State.rd_onPort, State.rd_onPort, State.mem_onPort, State.port_onPort]
  refine ⟨h1, h2, h3, h4, fun l hl => ?_, fun htrain v hv => ?_, fun hre => ?_, hmem⟩
  · rw [State.rd_portUsr (by decide), State.rd_portUsr (by decide), State.rd_onPort, State.rd_onPort]
    exact hlanes l hl
  · have hfresh : fresh = true := by
      show (decide (s.pState q.val = pTrain) && _) = true
      obtain ⟨-, hl⟩ := hstate.resolve_left (by rw [htrain]; decide)
      rw [decide_eq_true htrain, hl]
      rfl
    rw [State.rd_portUsr (by decide), State.rd_portUsr (by decide), State.rd_onPort, State.rd_onPort, show (s.pState q.val = pTrain && _) = true from hfresh,
      State.trained_fresh]
    exact State.freshCredits_credits hv
  · have hfresh : fresh = false := by
      show (decide (s.pState q.val = pTrain) && _) = false
      rw [hre]
      rfl
    rw [show (s.pState q.val = pTrain && _) = false from hfresh, State.trained_again, State.port_onPort, State.port_lanesTrained]

end Complete

/-- Settles O37: each event of a port's state machine, with what training leaves of the port's registers. -/
theorem portTrainingResult : Obligations.PortTrainingResult := by
  refine ⟨fun p val s htakes => ?_, fun p val s htakes hen => ?_, fun p val s htakes hoff hon => ?_, fun p s hnot => ?_, fun p s hup => ?_, fun p d n s => ⟨?_, ?_⟩,
    fun p lanes pre s => ⟨fun h => ?_, fun r hrun hstate => State.trainingComplete_result hrun hstate⟩, State.lanesRun_cases, fun p s => ?_⟩
  · have hout : (!s.fnTakes 0) = true := by rw [htakes]; rfl
    exact ⟨congrArg (ok s) (if_pos (by rw [hout]; rfl)), congrArg (ok s) (if_pos (by rw [hout]; rfl)),
      congrArg (ok s) (if_neg (by rw [htakes]; decide))⟩
  · have hgives := State.portEnable_gives (p := p) htakes hen
    refine ⟨fun hidle => ?_, fun hon => ⟨fun hkeep => ?_, fun hre => ?_⟩⟩
    · rw [if_neg (by rw [hidle]; decide)] at hgives
      have hresult := (s.putPortCtl p.val val.toNat).portTrain_result p.val byDirect
      simp only [State.port_putPortCtl, State.mem_putPortCtl] at hresult
      exact hgives.next_of hresult fun _ _ h => h
    · rw [if_pos hon, if_neg (by rw [hkeep]; decide)] at hgives
      exact hgives
    · rw [if_pos hon, if_pos hre] at hgives
      exact hgives
  · have hresult := (s.putPortCtl p.val val.toNat).portDisable_result p.val byDirect
    simp only [State.port_putPortCtl, State.mem_putPortCtl] at hresult
    exact (State.portDisable_gives htakes hoff hon).next_of hresult fun _ _ h => h
  · have hstay := State.portRetrain_of_not_up hnot
    refine ⟨congrArg (ok s) ?_, congrArg (ok s) hstay, congrArg (ok s) ?_⟩
    all_goals
      rw [hstay]
      exact ite_self _
  · have hgo := State.portRetrain_of_up hup
    refine ⟨fun htakes => congrArg (ok s) ((if_pos htakes).trans hgo), congrArg (ok s) hgo, fun hmany => congrArg (ok s) ((if_pos hmany).trans hgo),
      fun hfew => congrArg (ok s) (if_neg (by omega))⟩
  · exact fun h => congrArg (ok s) (if_neg h)
  · exact fun h => congrArg (ok s) (if_pos h)
  · refine congrArg (ok s) ?_
    rcases h with h | ⟨hnot, hlink⟩
    · rw [h]
    · split
      · rfl
      · refine if_pos ?_
        by_cases htrain : s.pState p.val = 1
        · rw [hlink htrain, htrain]
          rfl
        · rw [decide_eq_false htrain, decide_eq_false hnot]
          rfl
  · refine ⟨fun h1 h3 => congrArg (ok s) (if_neg ?_), fun h1 hfew => ?_, fun hfull hmany => ?_, fun h3 hquick => congrArg (ok s) (if_pos ⟨h3, hquick⟩),
      fun h => congrArg (ok s) (if_neg ?_)⟩
    · rintro (h | ⟨h, hslow⟩)
      · exact h1 h
      · rcases h3 with h' | h'
        · exact h' h
        · rw [h'] at hslow
          exact Bool.noConfusion hslow
    · refine congrArg (ok s) ((if_pos (.inl h1)).trans ((if_pos hfew).trans ?_))
      rw [h1]
      rfl
    · refine congrArg (ok s) ((if_pos ?_).trans (if_neg (by omega)))
      rcases hfull with h | ⟨h, hslow⟩
      · exact .inl h
      · exact .inr ⟨h, by rw [hslow]; rfl⟩
    · rintro ⟨h3, hquick⟩
      rcases h with h | h
      · exact h h3
      · rw [h] at hquick
        exact Bool.noConfusion hquick

end Sys2Proof.Machine
end

section
/-! SUPPORT. Proofs about flits (R326 to R328, R331 to R333, R335, R356). -/
namespace Sys2Proof.Machine

/-! ### Sending -/

section Send
variable {s : State} {p : Nat} {f : Flit}

theorem State.port_count (g : Fld) (i n x q : Nat) : (s.count g i n x).port q = s.port q := rfl
theorem State.port_emit (e : Out) (q : Nat) : (s.emit e).port q = s.port q := rfl

/-- A flit as it leaves: with the acknowledgement, a due NAK and up to two credit returns. -/
def State.stamped (s : State) (p : Nat) (f : Flit) : Flit :=
  { f with ack := ((s.port p).rxSeq + 4095) % 4096, ackv := (s.port p).rxSeen, nak := (s.port p).nakDue, creds := (s.dueCredits p).take 2 }

/-- The state whose port has told what it owed, and has put the flit into its codeword pair. -/
def State.flitOut (s : State) (p : Nat) (f : Flit) : State :=
  ((((s.onPort p (fun x => { x with
    owed := 0
    nakDue := false
    peerCred := ((s.dueCredits p).take 2).foldl (fun (m : SMap Nat) c => m.put (c.1 * 2 + c.2.1) (m.getD (c.1 * 2 + c.2.1) 0 + c.2.2)) x.peerCred })).count
      F.CWP_CNT_TXFLIT_COUNT p 1).emit (.flit p (s.stamped p f).word)).onPort p (fun x => { x with pair := x.pair ++ [(s.stamped p f).word] }))

theorem State.sendFlit_eq (s : State) (p : Nat) (f : Flit) :
    s.sendFlit p f = if 5 ≤ ((s.flitOut p f).port p).pair.length then (s.flitOut p f).sendPair p else s.flitOut p f := rfl

/-- Telling what happens changes the output alone. -/
theorem State.foldl_emit {α : Type} (h : α → Out) (l : List α) (s : State) : l.foldl (fun s a => s.emit (h a)) s = { s with out := s.out ++ l.map h } := by
  induction l generalizing s with
  | nil => simp
  | cons a l ih =>
    rw [List.foldl_cons, ih, State.emit, List.map_cons, ← List.append_cons]

/-- What a port becomes once it has told what it owed, with another codeword pair. -/
def Port.told (x : Port) (cred : SMap Nat) (pair : List (BitVec 2048)) (pseq scram : Nat) : Port :=
  { x with owed := 0, nakDue := false, peerCred := cred, pair := pair, pseq := pseq, scram := scram }

theorem State.flitOut_port (s : State) (p : Nat) (f : Flit) :
    ∃ cred, (s.flitOut p f).port p = (s.port p).told cred ((s.port p).pair ++ [(s.stamped p f).word]) (s.port p).pseq (s.port p).scram := by
  rw [State.flitOut, State.port_onPort, State.port_emit, State.port_count, State.port_onPort]
  exact ⟨_, rfl⟩

theorem State.flitOut_out (s : State) (p : Nat) (f : Flit) : (s.flitOut p f).out = s.out ++ [.flit p (s.stamped p f).word] := rfl

theorem State.flitOut_rd (s : State) (p : Nat) (f : Flit) (g : Fld) (i x : Nat) :
    (s.flitOut p f).rd g i x = (s.count F.CWP_CNT_TXFLIT_COUNT p 1).rd g i x := by
  rw [State.flitOut, State.rd_onPort]
  rfl

/-- A filled codeword pair leaves on every lane. -/
theorem State.sendPair_eq (s : State) (p : Nat) : s.sendPair p =
    let w := pairWords (s.port p).pseq (s.port p).scram (s.port p).pair
    ({ s with out := s.out ++ (s.lanes p).zipIdx.map (fun l => Out.lane p l.1 (laneOf (s.lanes p).length l.2 w.1.1 ++ laneOf (s.lanes p).length l.2 w.1.2)) } :
      State).onPort p (fun x => { x with pair := [], pseq := (x.pseq + 1) % 2 ^ 24, scram := w.2 }) := by
  rw [State.sendPair, State.foldl_emit]

theorem State.sendPair_port (s : State) (p : Nat) : ∃ scram, (s.sendPair p).port p =
    { s.port p with pair := [], pseq := ((s.port p).pseq + 1) % 2 ^ 24, scram := scram } := by
  rw [State.sendPair_eq]
  dsimp only
  rw [State.port_onPort]
  exact ⟨_, rfl⟩

theorem State.sendPair_out (s : State) (p : Nat) : ∃ l, (s.sendPair p).out = s.out ++ l ∧ l.length = (s.lanes p).length := by
  rw [State.sendPair_eq]
  exact ⟨_, rfl, by rw [List.length_map, List.length_zipIdx]⟩

theorem State.sendPair_rd (s : State) (p : Nat) (g : Fld) (i x : Nat) : (s.sendPair p).rd g i x = s.rd g i x := by
  rw [State.sendPair_eq]
  dsimp only
  rw [State.rd_onPort]
  rfl

theorem State.lanes_flitOut (s : State) (p : Nat) (f : Flit) : (s.flitOut p f).lanes p = s.lanes p := by
  have hx4 : (s.flitOut p f).rd F.CWP_STATUS_X4 p = s.rd F.CWP_STATUS_X4 p :=
    (s.flitOut_rd p f _ _ _).trans (State.rd_count_lo (by decide) (by decide) (by decide) _ _ _ _ _)
  have hhalf : (s.flitOut p f).rd F.CWP_STATUS_HALF p = s.rd F.CWP_STATUS_HALF p :=
    (s.flitOut_rd p f _ _ _).trans (State.rd_count_lo (by decide) (by decide) (by decide) _ _ _ _ _)
  rw [State.lanes, State.lanes, State.flag, State.flag, hx4, hhalf]

/-- Sending a flit changes what the port owes and its codeword pair. -/
theorem State.sendFlit_port (s : State) (p : Nat) (f : Flit) :
    ∃ cred pair pseq scram, (s.sendFlit p f).port p = (s.port p).told cred pair pseq scram := by
  obtain ⟨cred, hport⟩ := s.flitOut_port p f
  rw [State.sendFlit_eq]
  split
  · obtain ⟨scram, hpair⟩ := (s.flitOut p f).sendPair_port p
    rw [hpair, hport]
    exact ⟨_, _, _, _, rfl⟩
  · exact ⟨_, _, _, _, hport⟩

theorem State.sendFlit_rd (s : State) (p : Nat) (f : Flit) (g : Fld) (i x : Nat) :
    (s.sendFlit p f).rd g i x = (s.count F.CWP_CNT_TXFLIT_COUNT p 1).rd g i x := by
  rw [State.sendFlit_eq]
  split
  · rw [State.sendPair_rd, State.flitOut_rd]
  · exact State.flitOut_rd _ _ _ _ _ _

/-- What a counter reads once it has counted. -/
theorem State.rd_count_same (g : Fld) (i n x : Nat) : (s.count g i n x).rd g i x = min (s.rd g i x + n) (2 ^ g.w - 1) := by
  rw [State.count, State.rd_wr_same]
  have hpos := Nat.two_pow_pos g.w
  exact Nat.mod_eq_of_lt (by omega)

/-- A flit that leaves its pair open. -/
theorem State.sendFlit_open (h : (s.port p).pair.length < 4) : (s.sendFlit p f).out = s.out ++ [.flit p (s.stamped p f).word] ∧
    ((s.sendFlit p f).port p).pair = (s.port p).pair ++ [(s.stamped p f).word] ∧ ((s.sendFlit p f).port p).pseq = (s.port p).pseq := by
  obtain ⟨cred, hport⟩ := s.flitOut_port p f
  have hlen : ¬5 ≤ ((s.flitOut p f).port p).pair.length := by
    rw [hport]
    simp only [Port.told, List.length_append, List.length_singleton]
    omega
  rw [State.sendFlit_eq, if_neg hlen, hport]
  exact ⟨s.flitOut_out p f, rfl, rfl⟩

/-- A flit that fills its pair, which then leaves (R327). -/
theorem State.sendFlit_fills (h : (s.port p).pair.length = 4) :
    (∃ l, (s.sendFlit p f).out = s.out ++ .flit p (s.stamped p f).word :: l ∧ l.length = (s.lanes p).length) ∧
    ((s.sendFlit p f).port p).pair = [] ∧ ((s.sendFlit p f).port p).pseq = ((s.port p).pseq + 1) % 2 ^ 24 := by
  obtain ⟨cred, hport⟩ := s.flitOut_port p f
  have hlen : 5 ≤ ((s.flitOut p f).port p).pair.length := by
    rw [hport]
    simp only [Port.told, List.length_append, List.length_singleton]
    omega
  obtain ⟨l, hout, hl⟩ := (s.flitOut p f).sendPair_out p
  obtain ⟨scram, hpair⟩ := (s.flitOut p f).sendPair_port p
  rw [State.sendFlit_eq, if_pos hlen, hpair, hport]
  refine ⟨⟨l, ?_, ?_⟩, rfl, rfl⟩
  · rw [hout, State.flitOut_out, List.append_assoc]
    rfl
  · rw [hl, State.lanes_flitOut]

/-- A DATA flit takes the next SEQ and joins the retry window (R332). -/
theorem State.sendData_window {v : Nat} {k : TxPkt} (hk : (s.port p).head v = some k) : ∃ w, ((s.sendData p v).port p).window = (s.port p).window ++ [w] ∧
    w.flit.seq = (s.port p).txSeq ∧ w.flit.vc = v ∧ w.flit.sop = decide (k.sent = 0) ∧ w.flit.eop = decide (k.sent + 1 = k.flits) ∧
    w.flit.payload = (k.wire.drop (240 * k.sent)).take 240 ∧ ((s.sendData p v).port p).txSeq = ((s.port p).txSeq + 1) % 4096 := by
  have hfind : (s.port p).queue.find? (fun k => k.vc = v) = some k := hk
  have hvc : k.vc = v := by simpa using List.find?_some hfind
  rw [State.sendData, hk]
  dsimp only
  obtain ⟨cred, pair, pseq, scram, hport⟩ := State.sendFlit_port (((if k.sent = 0 then s.wr (txCred k.dl) p (s.rd (txCred k.dl) p v - k.flits) v else s).onPort p
    (fun x => { x with
      queue := replaceHead v (if decide (k.sent + 1 = k.flits) = true then none else some { k with sent := k.sent + 1 }) x.queue
      window := x.window ++ [⟨k.flit (s.port p).txSeq, if decide (k.sent + 1 = k.flits) = true then some k else none⟩]
      txSeq := (x.txSeq + 1) % 4096 }))) p (k.flit (s.port p).txSeq)
  have hfirst : (if k.sent = 0 then s.wr (txCred k.dl) p (s.rd (txCred k.dl) p v - k.flits) v else s).port p = s.port p := by
    split
    · exact State.port_wr _ _ _ _ _
    · rfl
  rw [hport, State.port_onPort, hfirst]
  exact ⟨⟨k.flit (s.port p).txSeq, _⟩, rfl, rfl, hvc, rfl, rfl, rfl, rfl⟩

end Send

/-! ### Receiving -/

section Receive
variable {s : State} {p : Nat} {f : Flit}

/-- The state a received flit meets: its codeword's errors are counted, and the flit too. -/
def State.flitSeen (s : State) (p : Nat) (err : List Nat) : State :=
  ((if (s.port p).rxPos = 0 ∨ (s.port p).rxPos = 2 then s.codeword p err else s).onPort p (fun x => x.nextFlit err)).count F.CWP_CNT_RXFLIT_COUNT p 1

theorem State.codeword_ports (err : List Nat) : (s.codeword p err).ports = s.ports := by
  unfold State.codeword
  split
  · rfl
  · split
    · rfl
    · exact foldl_keeps (P := fun u : State => u.ports = s.ports) (fun u k hu => hu) rfl

theorem State.flitSeen_port (err : List Nat) : (s.flitSeen p err).port p = (s.port p).nextFlit err := by
  have hport : (if (s.port p).rxPos = 0 ∨ (s.port p).rxPos = 2 then s.codeword p err else s).port p = s.port p := by
    split
    · rw [State.port, State.codeword_ports]
      rfl
    · rfl
  rw [State.flitSeen, State.port_count, State.port_onPort, hport]

/-- A flit received by a port that is UP. -/
theorem State.flitReceive_gives {q : Fin 16} {head : BitVec 96} {payload : BitVec 1920} {crc : BitVec 32} {err : List Nat} (hup : s.pState q.val = 2) :
    s.gives (.flitReceive q head payload crc err) ((s.flitSeen q.val err).flitIn q.val (.of (flitWord head payload crc))
      (!flitUe (s.port q.val).rxPos ((s.port q.val).nextFlit err).rxUe && flitCrc (flitWord head payload crc) && flitRsv (flitWord head payload crc))) := by
  rw [← State.flitSeen_port]
  exact congrArg (ok s) (if_pos hup)

/-- What a port does with a flit, by its type and whether it is good. -/
theorem State.flitIn_cases (s : State) (p : Nat) (f : Flit) :
    (f.ftype = .data → f.seq = (s.port p).rxSeq → s.flitIn p f true = ((s.acked p f).credited p f).flitJoins p f) ∧
    (f.ftype = .data → f.seq ≠ (s.port p).rxSeq → (s.port p).rxBad = true → s.flitIn p f true = (s.acked p f).credited p f) ∧
    (f.ftype = .data → f.seq ≠ (s.port p).rxSeq → (s.port p).rxBad = false → s.flitIn p f true = ((s.acked p f).credited p f).badFlit p) ∧
    (f.ftype = .idle ∨ f.ftype = .linkid → s.flitIn p f true = (s.acked p f).credited p f) ∧
    (f.ftype ≠ .time → s.flitIn p f false = s.badFlit p) ∧ (∀ good, f.ftype = .reserved → s.flitIn p f good = s.badFlit p) ∧
    (∀ good, f.ftype = .time → good = false ∨ f.timeOk = false → s.flitIn p f good = s.timeDrop p) ∧
    (f.ftype = .time → f.timeOk = true → s.flitIn p f true =
      ((s.acked p f).credited p f).onPort p (fun x => { x with peerCred := x.peerCred.put 10 (x.peerCred.getD 10 0 - 1) })) := by
  refine ⟨fun h hseq => ?_, fun h hseq hbad => ?_, fun h hseq hbad => ?_, fun h => ?_, fun h => ?_, fun good h => ?_, fun good h hbad => ?_, fun h hok => ?_⟩
  · rw [State.flitIn, h]
    exact (if_neg (by decide)).trans (if_pos hseq)
  · rw [State.flitIn, h]
    exact (if_neg (by decide)).trans ((if_neg hseq).trans (if_pos hbad))
  · rw [State.flitIn, h]
    exact (if_neg (by decide)).trans ((if_neg hseq).trans (if_neg (by rw [hbad]; decide)))
  · rcases h with h | h
    all_goals
      rw [State.flitIn, h]
      exact if_pos rfl
  · unfold State.flitIn
    split
    · next ht => exact absurd ht h
    · rfl
    · exact if_neg Bool.false_ne_true
    · exact if_neg Bool.false_ne_true
    · exact if_pos rfl
  · rw [State.flitIn, h]
  · rw [State.flitIn, h]
    refine if_neg ?_
    rcases hbad with hbad | hbad
    all_goals simp [hbad]
  · rw [State.flitIn, h]
    exact if_pos (by rw [hok]; rfl)

/-- Symbol errors of a codeword (R326). -/
theorem State.codeword_cases (s : State) (p : Nat) (err : List Nat) : (15 < err.sum → s.codeword p err = s.count F.CWP_CNT_FEC_UE_COUNT p 1) ∧
    (err.sum = 0 → s.codeword p err = s) ∧
    (0 < err.sum → err.sum ≤ 15 → (s.codeword p err).rd F.CWP_CNT_FEC_CE_COUNT p = min (s.rd F.CWP_CNT_FEC_CE_COUNT p + 1) (2 ^ 48 - 1)) := by
  refine ⟨fun h => if_pos h, fun h => (if_neg (by omega)).trans (if_pos h), fun hpos hfew => ?_⟩
  have hlanes : ∀ l : List (Nat × Nat), (l.foldl (fun s k => s.count F.CWP_LANE_SYMERR p k.1 k.2) s).rd F.CWP_CNT_FEC_CE_COUNT p = s.rd F.CWP_CNT_FEC_CE_COUNT p :=
    fun l => foldl_keeps (P := fun u : State => u.rd F.CWP_CNT_FEC_CE_COUNT p = s.rd F.CWP_CNT_FEC_CE_COUNT p)
      (fun u k hu => (State.rd_count_lo (by decide) (by decide) (by decide) _ _ _ _ _).trans hu) rfl
  rw [State.codeword, if_neg (by omega), if_neg (by omega), State.rd_count_same, hlanes]
  rfl

theorem State.badFlit_result (s : State) (p : Nat) : (s.badFlit p).rd F.CWP_CNT_BADFLIT_COUNT p = min (s.rd F.CWP_CNT_BADFLIT_COUNT p + 1) (2 ^ 48 - 1) ∧
    ((s.badFlit p).port p).nakDue = true ∧ ((s.badFlit p).port p).rxBad = true := by
  rw [State.badFlit, State.rd_onPort, State.rd_count_same, State.port_onPort]
  exact ⟨rfl, rfl, rfl⟩

/-- An acknowledgement of the oldest flit takes it from the window (R332). -/
theorem State.acked_oldest {w : WinFlit} {rest : List WinFlit} (hack : f.ackv = true) (hwin : (s.port p).window = w :: rest)
    (hseq : w.flit.seq = f.ack) : ((s.acked p f).port p).window = rest := by
  have hfirst : firstIdx (fun w => decide (w.flit.seq = f.ack)) (w :: rest) 0 = some 0 := if_pos (decide_eq_true hseq)
  rw [State.acked, if_neg (by rw [hack]; exact Bool.false_ne_true), State.port_onPort]
  dsimp only
  rw [hwin, hack, hfirst]
  rfl

/-- A NAK before any SEQ is acknowledged replays the whole window. -/
theorem State.acked_nak (hack : f.ackv = false) (hnak : f.nak = true) (hwin : (s.port p).window ≠ []) :
    ((s.acked p f).port p).window = (s.port p).window ∧ ((s.acked p f).port p).replay = some 0 := by
  rw [State.acked, if_neg (by rw [hack, hnak]; decide), State.port_onPort]
  dsimp only
  rw [hack, hnak]
  exact ⟨rfl, (if_pos rfl).trans (if_neg hwin)⟩

end Receive

/-! ### One flit time -/

section Transmit
variable {s : State} {p : Fin 16}

theorem State.flitTransmit_gives (hup : s.pState p.val = 2) : s.gives (.flitTransmit p) (s.transmit p.val).signalsDone := congrArg (ok s) (if_pos hup)

theorem State.transmit_time {p : Nat} {info : List Nat} {rest : List (List Nat)} (htime : (s.port p).time = info :: rest)
    (hcred : 1 ≤ s.rd F.CWP_VC_TXCRED0 p 5) : s.transmit p = s.sendTime p info := by
  rw [State.transmit, htime]
  exact if_pos hcred

theorem State.transmit_rest {p : Nat} (h : (s.port p).time = [] ∨ s.rd F.CWP_VC_TXCRED0 p 5 = 0) : s.transmit p = s.transmitData p := by
  unfold State.transmit
  split
  · next info rest htime => exact if_neg (by rw [h.resolve_left (by rw [htime]; exact List.cons_ne_nil _ _)]; decide)
  · rfl

theorem State.transmitData_replay {p i : Nat} {w : WinFlit} (hreplay : (s.port p).replay = some i) (hw : (s.port p).window[i]? = some w) :
    s.transmitData p = ((s.onPort p (fun x => { x with replay := if i + 1 < x.window.length then some (i + 1) else none })).count
      F.CWP_CNT_REPLAY_COUNT p 1).sendFlit p w.flit := by
  rw [State.transmitData, hreplay]
  dsimp only
  rw [State.sendReplay, hw]

theorem State.transmitData_new {p : Nat} (hreplay : (s.port p).replay = none) : s.transmitData p =
    if s.unitIn (16 + p) && s.vcReady p 6 then s.sendData p 6
    else match (if s.unitIn (16 + p) then s.rotate p else none) with
      | some (v, n) => (s.onPort p (fun x => { x with rotVc := v, rotLeft := n })).sendData p v
      | none => s.sendFlit p .idle := by
  rw [State.transmitData, hreplay] <;> rfl

end Transmit

/-- Settles O38: the order in which a flit is chosen, and the retry window under each acknowledgement. -/
theorem portTrafficResult : Obligations.PortTrafficResult := by
  refine ⟨fun p s => ⟨fun hup htrain => ?_, fun htrain => ?_, fun hup => ⟨fun head payload crc err => ?_, ?_⟩⟩, ?_, ?_, fun s p v k hk => State.sendData_window hk, ?_,
    fun x err => ⟨fun h => ?_, fun h => ?_⟩, State.codeword_cases, State.badFlit_result, fun s p f w rest hack _ => State.acked_oldest hack,
    fun s p f hack => ⟨fun hnak => ?_, fun hnak hwin => State.acked_nak hack hnak hwin⟩⟩
  · exact congrArg (ok s) ((if_neg hup).trans (if_neg htrain))
  · exact congrArg (ok s) ((if_neg (by rw [htrain]; decide)).trans (if_pos htrain))
  · exact congrArg (ok s) (if_neg hup)
  · exact congrArg (ok s) (if_neg fun h => hup h.1)
  · intro p s hup x
    have hgives := State.flitTransmit_gives (p := p) hup
    refine ⟨fun info rest htime hcred => ?_, fun hnotime => ⟨fun i w hreplay hw => ?_, fun hreplay hin => ⟨fun hmgmt => ?_, fun hnone => ⟨fun v n hrot => ?_, fun hrot => ?_⟩⟩,
      fun hreplay hout => ?_⟩, fun howed => congrArg (ok s) (if_pos ⟨hup, howed⟩), fun hnot => congrArg (ok s) (if_neg fun h => h.2 hnot)⟩
    · rwa [State.transmit_time htime hcred] at hgives
    · rwa [State.transmit_rest hnotime, State.transmitData_replay hreplay hw] at hgives
    all_goals rw [State.transmit_rest hnotime, State.transmitData_new hreplay] at hgives
    · rwa [if_pos (by rw [hin, hmgmt]; rfl)] at hgives
    · rw [if_neg (by rw [hnone, Bool.and_false]; decide), if_pos hin, hrot] at hgives
      exact hgives
    · rw [if_neg (by rw [hnone, Bool.and_false]; decide), if_pos hin, hrot] at hgives
      exact hgives
    · rw [if_neg (by rw [hout]; exact Bool.false_ne_true), if_neg (by rw [hout]; exact Bool.false_ne_true)] at hgives
      exact hgives
  · intro s p f g
    obtain ⟨cred, pair, pseq, scram, hport⟩ := s.sendFlit_port p f
    refine ⟨State.sendFlit_open, State.sendFlit_fills, ?_, ?_, ?_⟩
    · rw [hport]
      rfl
    · rw [hport]
      rfl
    · rw [State.sendFlit_rd, State.rd_count_same]
      rfl
  · intro p head payload crc err s hup w x s0 s1 f s2 good
    obtain ⟨hjoin, hskip, hgap, hplain, hbad, hreserved, hdrop, htime⟩ := State.flitIn_cases s1 p.val f
    have hs1 : s1.port p.val = x.nextFlit err := State.flitSeen_port err
    have hrx : (s1.port p.val).rxSeq = x.rxSeq ∧ (s1.port p.val).rxBad = x.rxBad := by
      rw [hs1]
      exact ⟨rfl, rfl⟩
    obtain ⟨hrxSeq, hrxBad⟩ := hrx
    rw [hrxSeq] at hjoin hskip hgap
    rw [hrxBad] at hskip hgap
    let g := !flitUe x.rxPos (x.nextFlit err).rxUe && flitCrc w && flitRsv w
    have hgives : s.gives (.flitReceive p head payload crc err) (s1.flitIn p.val f g) := State.flitReceive_gives hup
    have hgood : good → g = true := fun ⟨h1, h2, h3⟩ => by
      show (!_ && _ && _) = true
      rw [h1, h2, h3]
      rfl
    have hnot : ¬good → g = false := fun h => by
      by_contra hg
      have hall : (!flitUe x.rxPos (x.nextFlit err).rxUe && flitCrc w && flitRsv w) = true := Bool.eq_true_of_not_eq_false hg
      simp only [Bool.and_eq_true, Bool.not_eq_true'] at hall
      obtain ⟨⟨h1, h2⟩, h3⟩ := hall
      exact h ⟨h1, h2, h3⟩
    refine ⟨fun hd hg hseq => ?_, fun hd hg hseq hrb => ?_, fun hd hg hseq hrb => ?_, fun hd hg => ?_, fun h => ?_, fun hd h => ?_, fun hd hg hok => ?_⟩
    · rwa [hgood hg, hjoin hd hseq] at hgives
    · rwa [hgood hg, hskip hd hseq hrb] at hgives
    · rwa [hgood hg, hgap hd hseq hrb] at hgives
    · rwa [hgood hg, hplain hd] at hgives
    · rcases h with hd | ⟨hd, hg⟩
      · rwa [hreserved _ hd] at hgives
      · rwa [hnot hg, hbad hd] at hgives
    · rwa [hdrop g hd (h.imp_left hnot)] at hgives
    · rwa [hgood hg, htime hd hok] at hgives
  · exact if_pos h
  · refine (if_neg (by rw [h]; decide)).trans (if_pos h)
  · exact if_pos (by rw [hack, hnak]; rfl)

end Sys2Proof.Machine
end

section
/-! SUPPORT. Proofs about formation of a Fen (R338 to R340, R342, R354, R462). -/
namespace Sys2Proof.Machine

/-! ### The port map and the routing table -/

/-- State b is a but for its registers. -/
def State.regsOnly (a b : State) : Prop := b = { a with regs := b.regs }

theorem State.regsOnly_trans {a b c : State} (h : a.regsOnly b) (g : b.regsOnly c) : a.regsOnly c := by
  unfold State.regsOnly at h g ⊢
  rw [g, h]

/-- A field of an entry of FEN.PORTMAP or FEN.ROUTE. -/
def Fld.inFenTable (f : Fld) : Bool :=
  decide (f.blk = .fen) && decide (f.stride = 8) && decide (0x300 ≤ f.off) && decide (f.off ≤ 0x400) && decide (f.lo < 64)

/-- A field that is in neither table. -/
def Fld.offFenTables (g : Fld) : Bool := decide (g.lo < 64) && (decide (g.blk.num ≠ Blk.fen.num) || decide (g.stride = 0) && decide (g.off < 0x300))

/-- Write the first n entries of a table of the FEN. -/
def State.putRows (s : State) (row : Nat → List (Fld × Nat)) (n : Nat) : State := (List.range n).foldl (fun s d => s.wrs 0 d (row d)) s

/-- A fold over a list with its places is one over the places. -/
theorem foldl_zipIdx {α β : Type} (d : α) (g : β → α → Nat → β) (l : List α) (b : β) :
    l.zipIdx.foldl (fun b p => g b p.1 p.2) b = (List.range l.length).foldl (fun b i => g b (l.getD i d) i) b := by
  have hlist : l.zipIdx = (List.range l.length).map (fun i => (l.getD i d, i)) := by
    refine List.ext_getElem (by simp) fun i h1 h2 => ?_
    have hi : i < l.length := by simpa using h1
    simp [List.getD_eq_getElem?_getD, hi]
  rw [hlist, List.foldl_map]

section Rows
variable {s : State} {f g : Fld} {row : Nat → List (Fld × Nat)}

theorem State.rd_wr_table {j x y v : Nat} (hf : f.inFenTable = true) (hx : x < 64) (hg : g.offFenTables = true) : (s.wr f 0 v x).rd g j y = s.rd g j y := by
  simp only [Fld.inFenTable, Fld.offFenTables, Bool.and_eq_true, Bool.or_eq_true, decide_eq_true_eq] at hf hg
  obtain ⟨⟨⟨⟨hblk, hstride⟩, hlow⟩, hhigh⟩, hlo⟩ := hf
  obtain ⟨hglo, hg⟩ := hg
  refine State.rd_wr_ne _ _ (Fld.key_ne ?_ hglo hlo)
  rcases hg with hg | ⟨hgs, hgo⟩
  · exact .inl (by rwa [hblk])
  · refine .inr (.inr (.inl ?_))
    rw [hgs, hstride]
    omega

theorem State.rd_wrs_table {j x y : Nat} {l : List (Fld × Nat)} (hl : ∀ p ∈ l, p.1.inFenTable = true) (hx : x < 64) (hg : g.offFenTables = true) :
    (s.wrs 0 x l).rd g j y = s.rd g j y := by
  induction l generalizing s with
  | nil => rfl
  | cons p l ih =>
    rw [State.wrs_cons, ih fun q hq => hl q (List.mem_cons_of_mem _ hq)]
    exact State.rd_wr_table (hl p List.mem_cons_self) hx hg

theorem State.putRows_succ (n : Nat) : s.putRows row (n + 1) = (s.putRows row n).wrs 0 n (row n) := by
  rw [State.putRows, State.putRows, List.range_succ, List.foldl_append]
  rfl

theorem State.regsOnly_wrs (i x : Nat) (l : List (Fld × Nat)) : s.regsOnly (s.wrs i x l) := by
  induction l generalizing s with
  | nil => rfl
  | cons p l ih => exact State.regsOnly_trans (b := s.wr p.1 i p.2 x) rfl ih

theorem State.regsOnly_putRows (n : Nat) : s.regsOnly (s.putRows row n) := by
  induction n with
  | zero => rfl
  | succ n ih =>
    rw [State.putRows_succ]
    exact State.regsOnly_trans ih (State.regsOnly_wrs _ _ _)

/-- A table's rows leave every field in neither table. -/
theorem State.rd_putRows_off {j y n : Nat} (hrow : ∀ d, ∀ p ∈ row d, p.1.inFenTable = true) (hn : n ≤ 64) (hg : g.offFenTables = true) :
    (s.putRows row n).rd g j y = s.rd g j y := by
  induction n with
  | zero => rfl
  | succ n ih =>
    rw [State.putRows_succ, State.rd_wrs_table (hrow n) (by omega) hg]
    exact ih (by omega)

/-- A row of the table leaves the other rows. -/
theorem State.rd_wrs_row {x y : Nat} {l : List (Fld × Nat)} (hf : f.inFenTable = true) (hl : ∀ p ∈ l, p.1.inFenTable = true ∧ p.1.off = f.off) (hx : x < 64)
    (hy : y < 64) (hxy : x ≠ y) : (s.wrs 0 x l).rd f 0 y = s.rd f 0 y := by
  induction l generalizing s with
  | nil => rfl
  | cons p l ih =>
    rw [State.wrs_cons, ih fun q hq => hl q (List.mem_cons_of_mem _ hq)]
    obtain ⟨hp, hoff⟩ := hl p List.mem_cons_self
    simp only [Fld.inFenTable, Bool.and_eq_true, decide_eq_true_eq] at hf hp
    obtain ⟨⟨⟨⟨-, hs⟩, -⟩, hhigh⟩, hlo⟩ := hf
    obtain ⟨⟨⟨⟨-, hs'⟩, -⟩, -⟩, hlo'⟩ := hp
    refine State.rd_wr_ne _ _ (Fld.key_ne (.inr (.inr (.inl ?_))) hlo hlo')
    rw [hs, hs', hoff]
    omega

/-- What an entry of a table holds once its rows are written. -/
theorem State.rd_putRows {val : Nat → Nat} {d n : Nat} (hf : f.inFenTable = true) (hrow : ∀ d, ∀ p ∈ row d, p.1.inFenTable = true ∧ p.1.off = f.off)
    (hval : ∀ (s : State) d, (s.wrs 0 d (row d)).rd f 0 d = val d) (hn : n ≤ 64) (hd : d < n) : (s.putRows row n).rd f 0 d = val d := by
  induction n with
  | zero => omega
  | succ n ih =>
    rw [State.putRows_succ]
    by_cases hlast : d = n
    · rw [hlast]
      exact hval _ _
    · rw [State.rd_wrs_row hf (hrow n) (by omega) (by omega) (Ne.symm hlast)]
      exact ih (by omega) (by omega)

end Rows

/-! ### A device alone, and one that takes an assignment -/

/-- A row of the port map. -/
def portRow (m : Nat × Bool × Bool) : List (Fld × Nat) := [(F.FEN_PORTMAP_DIM, m.1), (F.FEN_PORTMAP_DATELINE, m.2.1.toNat), (F.FEN_PORTMAP_UPLINK, m.2.2.toNat)]

/-- A row of the routing table. -/
def routeRow (r : RouteEnt) : List (Fld × Nat) :=
  [(F.FEN_ROUTE_PORT, r.port), (F.FEN_ROUTE_PORT2, r.port2), (F.FEN_ROUTE_PAIR, r.pair.toNat), (F.FEN_ROUTE_VALID, r.valid.toNat), (F.FEN_ROUTE_LOCAL, r.isLocal.toNat)]

theorem portRow_inTable (m : Nat × Bool × Bool) : ∀ p ∈ portRow m, p.1.inFenTable = true := by
  simp only [portRow, List.mem_cons, List.not_mem_nil, or_false]
  rintro p (rfl | rfl | rfl)
  all_goals rfl

theorem routeRow_inTable (r : RouteEnt) : ∀ p ∈ routeRow r, p.1.inFenTable = true ∧ p.1.off = 0x400 := by
  simp only [routeRow, List.mem_cons, List.not_mem_nil, or_false]
  rintro p (rfl | rfl | rfl | rfl | rfl)
  all_goals exact ⟨rfl, rfl⟩

/-- The membership registers that an assignment names. -/
def memberRow (rank size leader members shape dx dy dz : Nat) : List (Fld × Nat) :=
  [(F.FEN_STATUS_RANK, rank), (F.FEN_STATUS_SIZE, size), (F.FEN_STATUS_LEADER, leader), (F.FEN_MEMBERS_MASK, members), (F.FEN_SHAPE_KIND, shape),
    (F.FEN_SHAPE_DX, dx), (F.FEN_SHAPE_DY, dy), (F.FEN_SHAPE_DZ, dz)]

section Member
variable {s : State}

theorem State.wrs_routeRow (d : Nat) (r : RouteEnt) : (s.wrs 0 d (routeRow r)).rd F.FEN_ROUTE_PORT 0 d = r.port % 16 ∧
    (s.wrs 0 d (routeRow r)).rd F.FEN_ROUTE_VALID 0 d = r.valid.toNat := by
  unfold routeRow
  rw [State.wrs_cons, State.wrs_cons, State.wrs_cons, State.wrs_cons, State.wrs_cons, State.wrs_nil]
  dsimp only
  simp (disch := decide) only [State.rd_wr_apart, State.rd_wr_same]
  refine ⟨rfl, ?_⟩
  cases r.valid
  all_goals rfl

theorem State.rd_memberRow (rank size leader members shape dx dy dz : Nat) :
    let u := s.wrs 0 0 (memberRow rank size leader members shape dx dy dz)
    u.rd F.FEN_STATUS_RANK 0 = rank % 64 ∧ u.rd F.FEN_STATUS_SIZE 0 = size % 128 ∧ u.rd F.FEN_MEMBERS_MASK 0 = members % 2 ^ 64 ∧
      u.rd F.FEN_STATUS_STATE 0 = s.rd F.FEN_STATUS_STATE 0 ∧ u.rd F.FEN_STATUS_FEPOCH 0 = s.rd F.FEN_STATUS_FEPOCH 0 := by
  unfold memberRow
  rw [State.wrs_cons, State.wrs_cons, State.wrs_cons, State.wrs_cons, State.wrs_cons, State.wrs_cons, State.wrs_cons, State.wrs_cons, State.wrs_nil]
  dsimp only
  simp (disch := decide) only [State.rd_wr_apart, State.rd_wr_same]
  exact ⟨rfl, rfl, rfl, trivial, trivial⟩

theorem State.fenAlone_eq (s : State) : s.fenAlone =
    ((s.wrs 0 0 (memberRow 0 1 0 1 0 0 0 0)).putRows (fun _ => portRow (3, false, false)) 16).putRows (fun _ => routeRow ⟨0, 0, false, false, false, 0, 0⟩) 64 := rfl

theorem State.regsOnly_fenAlone (s : State) : s.regsOnly s.fenAlone := by
  rw [State.fenAlone_eq]
  exact State.regsOnly_trans (State.regsOnly_trans (State.regsOnly_wrs _ _ _) (State.regsOnly_putRows _)) (State.regsOnly_putRows _)

/-- A device alone: rank 0 of one (R338, R342). -/
theorem State.fenAlone_regs (s : State) : s.fenAlone.rd F.FEN_STATUS_RANK 0 = 0 ∧ s.fenAlone.rd F.FEN_STATUS_SIZE 0 = 1 ∧
    s.fenAlone.rd F.FEN_MEMBERS_MASK 0 = 1 ∧ s.fenAlone.rd F.FEN_STATUS_STATE 0 = s.rd F.FEN_STATUS_STATE 0 ∧
    s.fenAlone.rd F.FEN_STATUS_FEPOCH 0 = s.rd F.FEN_STATUS_FEPOCH 0 := by
  have hoff : ∀ {g : Fld} (j y : Nat), g.offFenTables = true → s.fenAlone.rd g j y = (s.wrs 0 0 (memberRow 0 1 0 1 0 0 0 0)).rd g j y := fun j y hg => by
    rw [State.fenAlone_eq, State.rd_putRows_off (fun _ p hp => (routeRow_inTable _ p hp).1) (Nat.le_refl 64) hg,
      State.rd_putRows_off (fun _ => portRow_inTable _) (by decide) hg]
  rw [hoff _ _ (by decide), hoff _ _ (by decide), hoff _ _ (by decide), hoff _ _ (by decide), hoff _ _ (by decide)]
  exact State.rd_memberRow 0 1 0 1 0 0 0 0

theorem State.fenAlone_routes (s : State) {d : Nat} (hd : d < 64) : s.fenAlone.rd F.FEN_ROUTE_VALID 0 d = 0 := by
  rw [State.fenAlone_eq]
  exact State.rd_putRows (f := F.FEN_ROUTE_VALID) (val := fun _ => 0) (by decide) (fun _ => routeRow_inTable _)
    (fun u d => (State.wrs_routeRow (s := u) d ⟨0, 0, false, false, false, 0, 0⟩).2) (Nat.le_refl 64) hd

/-- The registers of a device that takes an assignment. -/
def State.assignedRegs (s : State) (a : Assignment) : State :=
  ((s.fenAlone.wrs 0 0 (memberRow a.rank a.size a.leader a.members a.shape a.dx a.dy a.dz)).putRows
    (fun i => portRow ((a.portmap.take 16).getD i (0, false, false))) (a.portmap.take 16).length).putRows
    (fun i => routeRow ((a.routes.take 64).getD i ⟨0, 0, false, false, false, 0, 0⟩)) (a.routes.take 64).length

theorem State.takeAssignment_eq (s : State) (a : Assignment) : s.takeAssignment a =
    { s.assignedRegs a with fen := { (s.assignedRegs a).fen with hops := (a.routes.take 64).map (·.hops), kids := (a.routes.take 64).map (·.kids) } } := by
  have h2 := foldl_zipIdx (0, false, false) (fun (s : State) (m : Nat × Bool × Bool) i => s.wrs 0 i (portRow m)) (a.portmap.take 16)
    (s.fenAlone.wrs 0 0 (memberRow a.rank a.size a.leader a.members a.shape a.dx a.dy a.dz))
  have h3 := foldl_zipIdx ⟨0, 0, false, false, false, 0, 0⟩ (fun (s : State) (r : RouteEnt) i => s.wrs 0 i (routeRow r)) (a.routes.take 64)
    ((s.fenAlone.wrs 0 0 (memberRow a.rank a.size a.leader a.members a.shape a.dx a.dy a.dz)).putRows
      (fun i => portRow ((a.portmap.take 16).getD i (0, false, false))) (a.portmap.take 16).length)
  have hregs : s.assignedRegs a = (a.routes.take 64).zipIdx.foldl (fun (s : State) p => s.wrs 0 p.2 (routeRow p.1))
      ((a.portmap.take 16).zipIdx.foldl (fun (s : State) p => s.wrs 0 p.2 (portRow p.1))
        (s.fenAlone.wrs 0 0 (memberRow a.rank a.size a.leader a.members a.shape a.dx a.dy a.dz))) := by
    rw [h2]
    exact h3.symm
  rw [hregs]
  rfl

theorem State.regsOnly_assigned (s : State) (a : Assignment) : s.regsOnly (s.assignedRegs a) := by
  rw [State.assignedRegs]
  exact State.regsOnly_trans (State.regsOnly_trans (State.regsOnly_trans s.regsOnly_fenAlone (State.regsOnly_wrs _ _ _)) (State.regsOnly_putRows _))
    (State.regsOnly_putRows _)

theorem State.assignedRegs_regs (s : State) (a : Assignment) : (s.assignedRegs a).rd F.FEN_STATUS_RANK 0 = a.rank % 64 ∧
    (s.assignedRegs a).rd F.FEN_STATUS_SIZE 0 = a.size % 128 ∧ (s.assignedRegs a).rd F.FEN_MEMBERS_MASK 0 = a.members % 2 ^ 64 ∧
    (s.assignedRegs a).rd F.FEN_STATUS_STATE 0 = s.rd F.FEN_STATUS_STATE 0 ∧ (s.assignedRegs a).rd F.FEN_STATUS_FEPOCH 0 = s.rd F.FEN_STATUS_FEPOCH 0 := by
  have hoff : ∀ {g : Fld} (j y : Nat), g.offFenTables = true →
      (s.assignedRegs a).rd g j y = (s.fenAlone.wrs 0 0 (memberRow a.rank a.size a.leader a.members a.shape a.dx a.dy a.dz)).rd g j y := fun j y hg => by
    rw [State.assignedRegs, State.rd_putRows_off (fun _ p hp => (routeRow_inTable _ p hp).1) (by rw [List.length_take]; omega) hg,
      State.rd_putRows_off (fun _ => portRow_inTable _) (by rw [List.length_take]; omega) hg]
  rw [hoff _ _ (by decide), hoff _ _ (by decide), hoff _ _ (by decide), hoff _ _ (by decide), hoff _ _ (by decide)]
  obtain ⟨h1, h2, h3, h4, h5⟩ := State.rd_memberRow (s := s.fenAlone) a.rank a.size a.leader a.members a.shape a.dx a.dy a.dz
  obtain ⟨-, -, -, g4, g5⟩ := s.fenAlone_regs
  exact ⟨h1, h2, h3, h4.trans g4, h5.trans g5⟩

theorem State.assignedRegs_routes (s : State) (a : Assignment) {i : Nat} {e : RouteEnt} (hi : i < 64) (he : a.routes[i]? = some e) :
    (s.assignedRegs a).rd F.FEN_ROUTE_PORT 0 i = e.port % 16 ∧ (s.assignedRegs a).flag F.FEN_ROUTE_VALID 0 i = e.valid := by
  obtain ⟨hlt, hget⟩ := List.getElem?_eq_some_iff.mp he
  have hentry : (a.routes.take 64).getD i ⟨0, 0, false, false, false, 0, 0⟩ = e := by
    rw [List.getD_eq_getElem?_getD, List.getElem?_take_of_lt hi, he]
    rfl
  have hlen : i < (a.routes.take 64).length := by rw [List.length_take]; omega
  have hport := State.rd_putRows (f := F.FEN_ROUTE_PORT)
    (s := (s.fenAlone.wrs 0 0 (memberRow a.rank a.size a.leader a.members a.shape a.dx a.dy a.dz)).putRows
      (fun i => portRow ((a.portmap.take 16).getD i (0, false, false))) (a.portmap.take 16).length)
    (row := fun i => routeRow ((a.routes.take 64).getD i ⟨0, 0, false, false, false, 0, 0⟩))
    (val := fun i => ((a.routes.take 64).getD i ⟨0, 0, false, false, false, 0, 0⟩).port % 16) (by decide) (fun _ => routeRow_inTable _)
    (fun u d => (State.wrs_routeRow (s := u) d _).1) (by rw [List.length_take]; omega) hlen
  have hvalid := State.rd_putRows (f := F.FEN_ROUTE_VALID)
    (s := (s.fenAlone.wrs 0 0 (memberRow a.rank a.size a.leader a.members a.shape a.dx a.dy a.dz)).putRows
      (fun i => portRow ((a.portmap.take 16).getD i (0, false, false))) (a.portmap.take 16).length)
    (row := fun i => routeRow ((a.routes.take 64).getD i ⟨0, 0, false, false, false, 0, 0⟩))
    (val := fun i => ((a.routes.take 64).getD i ⟨0, 0, false, false, false, 0, 0⟩).valid.toNat) (by decide) (fun _ => routeRow_inTable _)
    (fun u d => (State.wrs_routeRow (s := u) d _).2) (by rw [List.length_take]; omega) hlen
  rw [hentry] at hport hvalid
  refine ⟨hport, ?_⟩
  rw [State.flag, State.assignedRegs, hvalid]
  cases e.valid
  all_goals rfl

end Member

end Sys2Proof.Machine
end

section
/-! SUPPORT. Proofs about the messages of formation and its end (R338 to R342, R354). -/
namespace Sys2Proof.Machine

/-! ### The Tidemaster's choice -/

/-- State b is a but for the TBU: its registers, its counters and PPS_OUT. -/
structure State.TimeOnly (a b : State) : Prop where
  rest : b = { a with regs := b.regs, tbu := b.tbu, pins := b.pins }
  rd : ∀ g, F.TBU_STATUS_MASTER.foreign g = true → ∀ j y, b.rd g j y = a.rd g j y

namespace State.TimeOnly
variable {a b c : State}

theorem refl (a : State) : a.TimeOnly a := ⟨rfl, fun _ _ _ _ => rfl⟩

theorem trans (h : a.TimeOnly b) (g : b.TimeOnly c) : a.TimeOnly c := by
  refine ⟨?_, fun f hf j y => (g.rd f hf j y).trans (h.rd f hf j y)⟩
  rw [g.rest, h.rest]

theorem wr {f : Fld} (hblk : f.blk = .tbu) (hlo : f.lo < 64) (s : State) (i v x : Nat) : s.TimeOnly (s.wr f i v x) := by
  refine ⟨rfl, fun g hg j y => State.rd_wr_foreign ?_ v j y⟩
  simp only [Fld.foreign, Bool.and_eq_true, decide_eq_true_eq] at hg ⊢
  obtain ⟨⟨-, hglo⟩, hg⟩ := hg
  exact ⟨⟨hlo, hglo⟩, by rw [hblk]; exact hg⟩

theorem wrs {l : List (Fld × Nat)} (hl : ∀ f ∈ l.map Prod.fst, f.blk = .tbu ∧ f.lo < 64) (s : State) (i x : Nat) : s.TimeOnly (s.wrs i x l) := by
  induction l generalizing s with
  | nil => exact refl s
  | cons p l ih =>
    obtain ⟨hblk, hlo⟩ := hl p.1 List.mem_cons_self
    exact (wr hblk hlo s i p.2 x).trans (ih (fun q hq => hl q (List.mem_cons_of_mem _ hq)) _)

theorem servoFresh (s : State) : s.TimeOnly s.servoFresh := ⟨rfl, fun _ _ _ _ => rfl⟩

theorem ppsGate (s : State) : s.TimeOnly s.ppsGate := by
  unfold State.ppsGate
  dsimp only
  split
  · exact refl s
  · exact ⟨rfl, fun _ _ _ _ => rfl⟩

theorem ppsRole (s : State) : s.TimeOnly s.ppsRole := by
  unfold State.ppsRole
  split
  · split
    · exact wr rfl (by decide) s _ _ _
    · exact refl s
  · have hgood : s.TimeOnly ({ s with tbu := { s.tbu with ppsGood := 0 } } : State) := ⟨rfl, fun _ _ _ _ => rfl⟩
    exact hgood.trans (wr rfl (by decide) _ _ _ _)

theorem ownMaster (s : State) : s.TimeOnly s.ownMaster := by
  have hregs := wrs (l := [(F.TBU_STATUS_MASTER, 1), (F.TBU_STATUS_SERVO, 0), (F.TBU_STATUS_MRANK, s.rank), (F.TBU_STATUS_PPORT, 0),
    (F.TBU_STATUS_DEPTH, 0), (F.TBU_STATUS_ERRBND, 0), (F.TBU_INC_INC, 2 ^ 32)])
    (show ∀ f ∈ [F.TBU_STATUS_MASTER, F.TBU_STATUS_SERVO, F.TBU_STATUS_MRANK, F.TBU_STATUS_PPORT, F.TBU_STATUS_DEPTH, F.TBU_STATUS_ERRBND, F.TBU_INC_INC],
      f.blk = .tbu ∧ f.lo < 64 by decide) s 0 0
  exact (hregs.trans (servoFresh _)).trans (ppsRole _)

theorem setMaster (s : State) (m : Nat) : s.TimeOnly (s.setMaster m) := by
  unfold State.setMaster
  split
  · split
    · exact wr rfl (by decide) s _ _ _
    · exact ownMaster s
  · refine TimeOnly.trans (b := if s.flag F.TBU_STATUS_MASTER 0 then
        (s.wrs 0 0 [(F.TBU_STATUS_MASTER, 0), (F.TBU_STATUS_SERVO, 1), (F.TBU_INC_INC, 2 ^ 32)]).servoFresh.ppsRole.ppsGate else s) ?_ ?_
    · split
      · exact (((wrs (l := [(F.TBU_STATUS_MASTER, 0), (F.TBU_STATUS_SERVO, 1), (F.TBU_INC_INC, 2 ^ 32)])
          (show ∀ f ∈ [F.TBU_STATUS_MASTER, F.TBU_STATUS_SERVO, F.TBU_INC_INC], f.blk = .tbu ∧ f.lo < 64 by decide) s 0 0).trans
          (servoFresh _)).trans (ppsRole _)).trans (ppsGate _)
      · exact refl s
    · exact wrs (l := [(F.TBU_STATUS_MRANK, m), (F.TBU_STATUS_PPORT, s.rd F.FEN_ROUTE_PORT 0 m), (F.TBU_STATUS_DEPTH, s.fen.hops.getD m 0)])
        (show ∀ f ∈ [F.TBU_STATUS_MRANK, F.TBU_STATUS_PPORT, F.TBU_STATUS_DEPTH], f.blk = .tbu ∧ f.lo < 64 by decide) _ 0 0

section
variable (h : a.TimeOnly b)
include h

theorem fen : b.fen = a.fen := by rw [h.rest]
theorem mem : b.mem = a.mem := by rw [h.rest]

/-- The registers of a Fen's membership. -/
theorem fenRegs : b.fenState = a.fenState ∧ b.rank = a.rank ∧ b.rd F.FEN_STATUS_SIZE 0 = a.rd F.FEN_STATUS_SIZE 0 ∧
    b.rd F.FEN_MEMBERS_MASK 0 = a.rd F.FEN_MEMBERS_MASK 0 ∧ b.rd F.FEN_STATUS_FEPOCH 0 = a.rd F.FEN_STATUS_FEPOCH 0 :=
  ⟨h.rd _ (by decide) 0 0, h.rd _ (by decide) 0 0, h.rd _ (by decide) 0 0, h.rd _ (by decide) 0 0, h.rd _ (by decide) 0 0⟩

end
end State.TimeOnly

/-! ### Flooding -/

/-- A formation message as its packet. -/
def floodPkt (s : State) (k : MgmtKind) (d : List Nat) : TxPkt := ⟨.mgmt k d, 6, 0, s.rank, 0, false, 0⟩

/-- The first n ports of a flood. -/
def State.floodTo (s : State) (k : MgmtKind) (d : List Nat) (but : Option Nat) (n : Nat) : State :=
  (List.range n).foldl (fun s p =>
    if s.pState p = pUp ∧ but ≠ some p then s.onPort p (fun x => { x with queue := x.queue ++ [floodPkt s k d] }) else s) s

section Flood
variable {s : State} {k : MgmtKind} {d : List Nat} {but : Option Nat}

theorem State.flood_eq : s.flood k d but = s.floodTo k d but 16 := rfl

theorem State.floodTo_succ (n : Nat) : s.floodTo k d but (n + 1) = if (s.floodTo k d but n).pState n = pUp ∧ but ≠ some n then
    (s.floodTo k d but n).onPort n (fun x => { x with queue := x.queue ++ [floodPkt (s.floodTo k d but n) k d] }) else s.floodTo k d but n := by
  rw [State.floodTo, State.floodTo, List.range_succ, List.foldl_append]
  rfl

theorem State.floodTo_regs (n : Nat) : (s.floodTo k d but n).regs = s.regs := by
  induction n with
  | zero => rfl
  | succ n ih =>
    rw [State.floodTo_succ]
    split
    · exact ih
    · exact ih

theorem State.floodTo_rd (n : Nat) (g : Fld) (i x : Nat) : (s.floodTo k d but n).rd g i x = s.rd g i x := by
  rw [State.rd, State.floodTo_regs]
  rfl

theorem State.floodTo_queue {p : Nat} (n : Nat) : ((s.floodTo k d but n).port p).queue =
    if p < n ∧ s.pState p = pUp ∧ but ≠ some p then (s.port p).queue ++ [floodPkt s k d] else (s.port p).queue := by
  induction n with
  | zero => exact (if_neg (by omega)).symm
  | succ n ih =>
    have hstate : (s.floodTo k d but n).pState n = s.pState n := State.floodTo_rd n _ _ _
    have hpkt : floodPkt (s.floodTo k d but n) k d = floodPkt s k d := by
      rw [floodPkt, floodPkt, show (s.floodTo k d but n).rank = s.rank from State.floodTo_rd n _ _ _]
    rw [State.floodTo_succ, hstate, hpkt]
    by_cases hgo : s.pState n = pUp ∧ but ≠ some n
    · rw [if_pos hgo]
      by_cases hp : p = n
      · subst hp
        rw [State.port_onPort, if_pos ⟨Nat.lt_succ_self _, hgo⟩]
        dsimp only
        rw [ih, if_neg (by omega)]
      · rw [State.port_onPort_ne _ hp, ih]
        exact if_congr (by rw [show p < n + 1 ↔ p < n by omega]) rfl rfl
    · rw [if_neg hgo, ih]
      refine if_congr ⟨fun h => ⟨by omega, h.2⟩, fun h => ⟨?_, h.2⟩⟩ rfl rfl
      have hne : p ≠ n := fun hpn => hgo (hpn ▸ h.2)
      omega

theorem State.floodTo_rest (n : Nat) : s.floodTo k d but n = { s with ports := (s.floodTo k d but n).ports } := by
  have hkeep : ∀ u : State, (u = { s with ports := u.ports }) → ∀ p, (if u.pState p = pUp ∧ but ≠ some p then
      u.onPort p (fun x => { x with queue := x.queue ++ [floodPkt u k d] }) else u) = { s with ports := (if u.pState p = pUp ∧ but ≠ some p then
      u.onPort p (fun x => { x with queue := x.queue ++ [floodPkt u k d] }) else u).ports } := fun u hu p => by
    split
    · exact congrArg (fun v : State => { v with ports := (u.onPort p (fun x => { x with queue := x.queue ++ [floodPkt u k d] })).ports }) hu
    · exact hu
  exact foldl_keeps (P := fun u : State => u = { s with ports := u.ports }) (fun u p hu => hkeep u hu p) rfl

theorem State.flood_rd (g : Fld) (i x : Nat) : (s.flood k d but).rd g i x = s.rd g i x := State.floodTo_rd 16 g i x

theorem State.flood_fen : (s.flood k d but).fen = s.fen := by rw [State.flood_eq, State.floodTo_rest]

theorem State.flood_mem : (s.flood k d but).mem = s.mem := by rw [State.flood_eq, State.floodTo_rest]

/-- A message goes on every UP port but one (R338). -/
theorem State.flood_queue {p : Nat} (hp : p < 16) : ((s.flood k d but).port p).queue = if s.pState p = 2 ∧ but ≠ some p then
    (s.port p).queue ++ [⟨.mgmt k d, 6, 0, s.rank, 0, false, 0⟩] else (s.port p).queue :=
  (State.floodTo_queue 16).trans (if_congr ⟨fun h => h.2, fun h => ⟨hp, h⟩⟩ rfl rfl)

/-- A message already passed on goes no further; another is passed on, and noted. -/
theorem State.relay_known {key : Nat} (h : (k.code, key) ∈ s.fen.relayed) : s.relay k key d = s := if_pos (by simpa using h)

theorem State.relay_new {key : Nat} (h : (k.code, key) ∉ s.fen.relayed) :
    s.relay k key d = ({ s with fen := { s.fen with relayed := s.fen.relayed ++ [(k.code, key)] } } : State).flood k d none := if_neg (by simpa using h)

theorem State.relay_rd (key : Nat) (g : Fld) (i x : Nat) : (s.relay k key d).rd g i x = s.rd g i x := by
  by_cases h : (k.code, key) ∈ s.fen.relayed
  · rw [State.relay_known h]
  · rw [State.relay_new h, State.flood_rd]
    rfl

theorem State.flood_pending : (s.flood k d but).pending = s.pending := by rw [State.flood_eq, State.floodTo_rest]

theorem State.relay_pending (key : Nat) : (s.relay k key d).pending = s.pending := by
  by_cases h : (k.code, key) ∈ s.fen.relayed
  · rw [State.relay_known h]
  · rw [State.relay_new h, State.flood_pending]

theorem State.relay_mem (key : Nat) : (s.relay k key d).mem = s.mem := by
  by_cases h : (k.code, key) ∈ s.fen.relayed
  · rw [State.relay_known h]
  · rw [State.relay_new h, State.flood_mem]

theorem State.relay_plan (key : Nat) : (s.relay k key d).fen.plan = s.fen.plan := by
  by_cases h : (k.code, key) ∈ s.fen.relayed
  · rw [State.relay_known h]
  · rw [State.relay_new h, State.flood_fen]

end Flood
/-! ### Forming, failing and dissolving -/

section Form
variable {s : State}

theorem State.fenFormed_regs (s : State) (e m : Nat) : (s.fenFormed e m).fenState = 2 ∧ (s.fenFormed e m).rd F.FEN_STATUS_FEPOCH 0 = e % 65536 ∧
    (s.fenFormed e m).rank = s.rank ∧ (s.fenFormed e m).rd F.FEN_STATUS_SIZE 0 = s.rd F.FEN_STATUS_SIZE 0 ∧
    (s.fenFormed e m).rd F.FEN_MEMBERS_MASK 0 = s.rd F.FEN_MEMBERS_MASK 0 := by
  let s1 := s.wrs 0 0 [(F.FEN_STATUS_STATE, 2), (F.FEN_STATUS_CAUSE, 0), (F.FEN_STATUS_FEPOCH, e), (F.FLT_FENFAIL_RANKS, 0)]
  obtain ⟨hstate, hrank, hsize, hmask, hepoch⟩ := (State.TimeOnly.setMaster ({ s1 with flt := { s1.flt with misses := [] } } : State) m).fenRegs
  have hs1 : s1.rd F.FEN_STATUS_STATE 0 = 2 ∧ s1.rd F.FEN_STATUS_FEPOCH 0 = e % 65536 ∧ s1.rd F.FEN_STATUS_RANK 0 = s.rd F.FEN_STATUS_RANK 0 ∧
      s1.rd F.FEN_STATUS_SIZE 0 = s.rd F.FEN_STATUS_SIZE 0 ∧ s1.rd F.FEN_MEMBERS_MASK 0 = s.rd F.FEN_MEMBERS_MASK 0 := by
    show (State.wrs s 0 0 _).rd _ 0 = _ ∧ (State.wrs s 0 0 _).rd _ 0 = _ ∧ (State.wrs s 0 0 _).rd _ 0 = _ ∧ (State.wrs s 0 0 _).rd _ 0 = _ ∧
      (State.wrs s 0 0 _).rd _ 0 = _
    rw [State.wrs_cons, State.wrs_cons, State.wrs_cons, State.wrs_cons, State.wrs_nil]
    dsimp only
    simp (disch := decide) only [State.rd_wr_apart, State.rd_wr_same]
    exact ⟨rfl, rfl, trivial, trivial, trivial⟩
  obtain ⟨h1, h2, h3, h4, h5⟩ := hs1
  exact ⟨hstate.trans h1, hepoch.trans h2, hrank.trans h3, hsize.trans h4, hmask.trans h5⟩

/-- A device whose formation fails is alone (Table 13-8). -/
theorem State.fenFail_result {c : Nat} (hc : c < 4) : (s.fenFail c).fenState = 4 ∧ (s.fenFail c).rd F.FEN_STATUS_CAUSE 0 = c ∧ (s.fenFail c).rank = 0 ∧
    (s.fenFail c).rd F.FEN_STATUS_SIZE 0 = 1 ∧ ∀ d, d < 64 → (s.fenFail c).flag F.FEN_ROUTE_VALID 0 d = false := by
  let s1 : State := { s with fen := .none }
  have hfail : s.fenFail c = (s1.fenAlone.wr F.FEN_STATUS_STATE 0 4).wr F.FEN_STATUS_CAUSE 0 c := rfl
  obtain ⟨hrank, hsize, -, -, -⟩ := s1.fenAlone_regs
  rw [hfail]
  refine ⟨?_, ?_, ?_, ?_, fun d hd => State.flag_false_of_rd ?_⟩
  · rw [State.fenState, State.rd_wr_apart (by decide), State.rd_wr_same]
    rfl
  · rw [State.rd_wr_same]
    exact Nat.mod_eq_of_lt (by show c < 2 ^ 4; omega)
  · rw [State.rank, State.rd_wr_apart (by decide), State.rd_wr_apart (by decide), hrank]
  · rw [State.rd_wr_apart (by decide), State.rd_wr_apart (by decide), hsize]
  · rw [State.rd_wr_lo (by decide) (by decide) (by decide), State.rd_wr_lo (by decide) (by decide) (by decide), s1.fenAlone_routes hd]

theorem State.rd_fen (x : FenForm) (g : Fld) (i y : Nat) : ({ s with fen := x } : State).rd g i y = s.rd g i y := rfl

theorem State.fenLeave_alone (s : State) : ∃ x : State, s.fenLeave = x.fenAlone := by
  unfold State.fenLeave
  exact ⟨_, rfl⟩

/-- A device that has left its Fen (R342). -/
theorem State.dissolved_regs (s : State) : let s1 := ({ s.fenLeave with fen := .none } : State).wrs 0 0 [(F.FEN_STATUS_STATE, 0), (F.FEN_STATUS_CAUSE, 0)]
    s1.fenState = 0 ∧ s1.rank = 0 ∧ s1.rd F.FEN_STATUS_SIZE 0 = 1 ∧ s1.rd F.FEN_MEMBERS_MASK 0 = 1 := by
  obtain ⟨x, hx⟩ := s.fenLeave_alone
  obtain ⟨hrank, hsize, hmask, -, -⟩ := x.fenAlone_regs
  rw [hx]
  dsimp only
  rw [State.wrs_cons, State.wrs_cons, State.wrs_nil]
  dsimp only
  have hkeep : ∀ g : Fld, F.FEN_STATUS_STATE.apart g = true → F.FEN_STATUS_CAUSE.apart g = true →
      ((({ x.fenAlone with fen := .none } : State).wr F.FEN_STATUS_STATE 0 0).wr F.FEN_STATUS_CAUSE 0 0).rd g 0 = x.fenAlone.rd g 0 := fun g h1 h2 => by
    rw [State.rd_wr_apart h2, State.rd_wr_apart h1, State.rd_fen]
  refine ⟨?_, ?_, ?_, ?_⟩
  · rw [State.fenState, State.rd_wr_apart (by decide), State.rd_wr_same]
    rfl
  · rw [State.rank, hkeep _ (by decide) (by decide), hrank]
  · rw [hkeep _ (by decide) (by decide), hsize]
  · rw [hkeep _ (by decide) (by decide), hmask]

theorem State.dissolveComplete_result (h : s.fenState = 3) :
    ∃ u : State, s.gives .dissolveComplete u.settle ∧ u.fenState = 0 ∧ u.rd F.FEN_STATUS_SIZE 0 = 1 ∧ u.rank = 0 ∧ u.rd F.FEN_MEMBERS_MASK 0 = 1 := by
  let s1 := ({ s.fenLeave with fen := .none } : State).wrs 0 0 [(F.FEN_STATUS_STATE, 0), (F.FEN_STATUS_CAUSE, 0)]
  let u := if s1.flag F.TBU_STATUS_MASTER 0 then s1.wrs 0 0 [(F.TBU_STATUS_MRANK, 0), (F.TBU_STATUS_PPORT, 0), (F.TBU_STATUS_DEPTH, 0)] else s1.ownMaster
  have hu : s1.TimeOnly u := by
    show s1.TimeOnly (if s1.flag F.TBU_STATUS_MASTER 0 then _ else _)
    split
    · exact State.TimeOnly.wrs (l := [(F.TBU_STATUS_MRANK, 0), (F.TBU_STATUS_PPORT, 0), (F.TBU_STATUS_DEPTH, 0)])
        (show ∀ f ∈ [F.TBU_STATUS_MRANK, F.TBU_STATUS_PPORT, F.TBU_STATUS_DEPTH], f.blk = .tbu ∧ f.lo < 64 by decide) _ _ _
    · exact State.TimeOnly.ownMaster s1
  obtain ⟨hstate, hrank, hsize, hmask, -⟩ := hu.fenRegs
  obtain ⟨h1, h2, h3, h4⟩ := s.dissolved_regs
  exact ⟨u, congrArg (ok s) (if_pos h), hstate.trans h1, hsize.trans h3, hrank.trans h2, hmask.trans h4⟩

theorem State.takeAssignment_rd (a : Assignment) (g : Fld) (i x : Nat) : (s.takeAssignment a).rd g i x = (s.assignedRegs a).rd g i x := by
  rw [State.takeAssignment_eq]
  rfl

theorem State.takeAssignment_fen (a : Assignment) :
    (s.takeAssignment a).fen = { s.fen with hops := (a.routes.take 64).map (·.hops), kids := (a.routes.take 64).map (·.kids) } := by
  rw [State.takeAssignment_eq]
  dsimp only
  rw [s.regsOnly_assigned a]

theorem State.takeAssignment_mem (a : Assignment) : (s.takeAssignment a).mem = s.mem := by
  rw [State.takeAssignment_eq]
  dsimp only
  rw [s.regsOnly_assigned a]

theorem State.takeAssignment_pending (a : Assignment) : (s.takeAssignment a).pending = s.pending := by
  rw [State.takeAssignment_eq]
  dsimp only
  rw [s.regsOnly_assigned a]

/-- The leader whose members have all acknowledged is FORMED, at the next FEPOCH (R338 step 5). -/
theorem State.leaderCommit_formed (hall : ∀ a ∈ s.fen.plan, a.devid ∈ s.fen.acks) : s.leaderCommit.fenState = 2 ∧
    s.leaderCommit.rd F.FEN_STATUS_FEPOCH 0 = (s.topEpoch + 1) % 65536 ∧ s.leaderCommit.rank = s.rank ∧
    s.leaderCommit.rd F.FEN_STATUS_SIZE 0 = s.rd F.FEN_STATUS_SIZE 0 ∧ s.leaderCommit.rd F.FEN_MEMBERS_MASK 0 = s.rd F.FEN_MEMBERS_MASK 0 := by
  let s0 := s.wr F.FLT_FENFAIL_RANKS 0 0
  have hcommit : s.leaderCommit =
      (s0.flood .commit [(s.topEpoch + 1) % 65536, s0.pickMaster] none).fenFormed ((s.topEpoch + 1) % 65536) s0.pickMaster :=
    if_pos (List.all_eq_true.mpr fun a ha => by simpa using hall a ha)
  obtain ⟨hstate, hepoch, hrank, hsize, hmask⟩ :=
    (s0.flood .commit [(s.topEpoch + 1) % 65536, s0.pickMaster] none).fenFormed_regs ((s.topEpoch + 1) % 65536) s0.pickMaster
  rw [hcommit]
  refine ⟨hstate, hepoch.trans (Nat.mod_mod _ _), hrank.trans ?_, hsize.trans ?_, hmask.trans ?_⟩
  · exact (State.flood_rd _ _ _).trans (State.rd_wr_foreign (by decide) _ _ _)
  · exact (State.flood_rd _ _ _).trans (State.rd_wr_foreign (by decide) _ _ _)
  · exact (State.flood_rd _ _ _).trans (State.rd_wr_foreign (by decide) _ _ _)

theorem State.leaderCommit_waits (h : ∃ a ∈ s.fen.plan, a.devid ∉ s.fen.acks) : s.leaderCommit = s := by
  refine if_neg fun hall => ?_
  obtain ⟨a, ha, hnot⟩ := h
  have hmem := List.all_eq_true.mp hall a ha
  exact hnot (by simpa using hmem)

/-- The plan of a device that heard no other: itself, at rank 0 of one. -/
theorem planFen_alone (h : Hello) (o : Nat) : ∃ a, planFen [h] o none = [a] ∧ a.devid = h.devid ∧ a.rank = 0 ∧ a.size = 1 ∧ a.members = 1 :=
  ⟨_, rfl, rfl, rfl, rfl, rfl⟩

/-- A leader that heard no other is a Fen of one. -/
theorem State.leaderPlan_alone (hplan : s.flag F.FEN_CTL_USE_PLAN 0 = false) (hnone : s.fen.hellos = []) : s.leaderPlan.fenState = 2 ∧
    s.leaderPlan.rd F.FEN_STATUS_SIZE 0 = 1 ∧ s.leaderPlan.rank = 0 ∧ s.leaderPlan.rd F.FEN_MEMBERS_MASK 0 = 1 ∧
    s.leaderPlan.rd F.FEN_STATUS_FEPOCH 0 = (s.rd F.FEN_STATUS_FEPOCH 0 + 1) % 65536 := by
  obtain ⟨a, hl, hdevid, hrank, hsize, hmembers⟩ := planFen_alone s.ownHello (Graph.at [s.ownHello] s.devid |>.getD 0)
  have hown : a.devid = s.devid := hdevid
  let s1 : State := { s with fen := { s.fen with leads := true, plan := [a], acks := [s.devid] } }
  have hfen := State.takeAssignment_fen (s := s1) a
  have hlead : s.leaderPlan = (s1.takeAssignment a).leaderCommit := by
    unfold State.leaderPlan
    rw [hplan, hnone]
    dsimp only [insHello]
    rw [if_neg (by simp), if_neg (by simp), if_neg Bool.false_ne_true, hl, List.filter_cons_of_neg (by simp [hown]), List.filter_nil,
      List.find?_cons_of_pos (by simp [hown])]
    rfl
  have hall : ∀ b ∈ (s1.takeAssignment a).fen.plan, b.devid ∈ (s1.takeAssignment a).fen.acks := by
    rw [hfen]
    show ∀ b ∈ [a], b.devid ∈ [s.devid]
    intro b hb
    rw [List.mem_singleton.mp hb, hown]
    exact List.mem_singleton_self _
  obtain ⟨h1, h2, h3, h4, h5⟩ := State.leaderCommit_formed hall
  obtain ⟨g1, g2, g3, -, g5⟩ := s1.assignedRegs_regs a
  have htop : (s1.takeAssignment a).topEpoch = s.rd F.FEN_STATUS_FEPOCH 0 := by
    rw [State.topEpoch, hfen]
    show List.foldl _ _ s.fen.hellos = _
    rw [hnone, List.foldl_nil, State.takeAssignment_rd, g5]
    rfl
  rw [hlead, h2, h4, h5, State.takeAssignment_rd, State.takeAssignment_rd, g2, g3, htop, hsize, hmembers]
  exact ⟨h1, rfl, h3.trans ((State.takeAssignment_rd _ _ _ _).trans (g1.trans (by rw [hrank]))), rfl, rfl⟩

end Form

/-! ### Messages received -/

section Messages
variable {s : State}

/-- This device's own assignment is written and acknowledged (R338 step 4). -/
theorem State.ownAssignment_result {a : Assignment} (hfw : s.fwRuns = true) (hforming : s.fenState = 1) (hmember : s.fen.leads = false) (hown : a.devid = s.devid) :
    ∃ u, exec (.fenAssignmentReceive a) s = .next u ∧ u.rank = a.rank % 64 ∧ u.rd F.FEN_STATUS_SIZE 0 = a.size % 128 ∧ u.rd F.FEN_MEMBERS_MASK 0 = a.members % 2 ^ 64 ∧
      (∀ i e, i < 64 → a.routes[i]? = some e → u.rd F.FEN_ROUTE_PORT 0 i = e.port % 16 ∧ u.flag F.FEN_ROUTE_VALID 0 i = e.valid) ∧ u.fen.plan = [a] ∧ u.fenState = 1 ∧
      u.mem = s.mem ∧ ∃ v : State, v.fen.relayed = s.fen.relayed ∧ v.rank = a.rank % 64 ∧ u = v.relay .assignAck s.devid [s.devid] := by
  let v : State := { s.takeAssignment a with fen := { (s.takeAssignment a).fen with plan := [a] } }
  have hgives : s.gives (.fenAssignmentReceive a) (v.relay .assignAck s.devid [s.devid]) :=
    congrArg (ok s) ((if_pos (by rw [hfw, hforming, hmember]; rfl)).trans (if_pos hown))
  have hrd : ∀ g i x, v.rd g i x = (s.assignedRegs a).rd g i x := fun g i x => State.takeAssignment_rd a g i x
  obtain ⟨h1, h2, h3, h4, -⟩ := s.assignedRegs_regs a
  have hqueue : (v.relay .assignAck s.devid [s.devid]).pending = s.pending := (State.relay_pending _).trans (State.takeAssignment_pending a)
  have hexec : exec (.fenAssignmentReceive a) s = .next (v.relay .assignAck s.devid [s.devid]) := by
    rw [show exec (.fenAssignmentReceive a) s = _ from hgives, ← hqueue]
  refine ⟨_, hexec, ?_, ?_, ?_, fun i e hi he => ?_, ?_, ?_, ?_, v, ?_, (hrd _ _ _).trans h1, rfl⟩
  · rw [State.rank, State.relay_rd, hrd, h1]
  · rw [State.relay_rd, hrd, h2]
  · rw [State.relay_rd, hrd, h3]
  · rw [State.flag, State.relay_rd, State.relay_rd, hrd, hrd]
    exact s.assignedRegs_routes a hi he
  · rw [State.relay_plan]
  · rw [State.fenState, State.relay_rd, hrd, h4]
    exact hforming
  · rw [State.relay_mem]
    exact State.takeAssignment_mem a
  · show (s.takeAssignment a).fen.relayed = _
    rw [State.takeAssignment_fen]

/-- An acknowledgement at the leader (R338 step 5). -/
theorem State.ackAtLeader_gives {d : BitVec 64} (hfw : s.fwRuns = true) (hforming : s.fenState = 1) (hlead : s.fen.leads = true)
    (hmember : ∃ a ∈ s.fen.plan, a.devid = d.toNat) : s.gives (.fenAssignmentAck d)
      ({ s with fen := { s.fen with acks := if s.fen.acks.contains d.toNat then s.fen.acks else s.fen.acks ++ [d.toNat] } } : State).leaderCommit := by
  obtain ⟨a, ha, had⟩ := hmember
  exact congrArg (ok s) ((if_pos (by rw [hfw, hforming]; rfl)).trans ((if_pos hlead).trans
    (if_pos (List.any_eq_true.mpr ⟨a, ha, decide_eq_true had⟩))))

/-- A new HELLO is recorded and flooded on (R338). -/
theorem State.helloReceive_gives {p : Fin 16} {h : Hello} (hfw : s.fwRuns = true) (hforming : s.fenState = 1) (hother : h.devid ≠ s.devid)
    (hnew : h ∉ s.fen.hellos) : s.gives (.helloReceive p h)
      (let s1 := ({ s with fen := { s.fen with hellos := insHello h s.fen.hellos } } : State).flood .hello h.data (some p.val)
       if !s.fen.hellos.any (fun g => g.devid = h.devid) then s1.flood .hello s1.ownHello.data none else s1) :=
  congrArg (ok s) (if_pos (by
    rw [hfw, hforming, decide_eq_true hother, show s.fen.hellos.contains h = false by simpa using hnew]
    rfl))

end Messages

/-- Settles O39: each message's tests of the state of formation, and what an assignment or COMMIT writes. -/
theorem formationResult : Obligations.FormationResult := by
  refine ⟨fun s h => ?_, fun s htakes hfw => ⟨?_, ?_⟩, fun s k d but p hp => State.flood_queue hp, fun p h s => ⟨fun hstay => ?_, fun hfw hforming hother hnew => ?_⟩,
    fun s => ⟨fun hstay => ?_, fun hfw hforming hplan hlowest => ?_⟩, fun a s => ⟨fun hstay => ?_, fun hfw hforming hmember hother => ?_, State.ownAssignment_result⟩,
    fun d s => ⟨fun hstay => ?_, fun hfw hforming hmember => ?_, fun hfw hforming hlead hmember => ?_⟩, fun e m s hfw => ⟨fun hforming hmember hplan => ?_, ?_, ?_⟩,
    fun s k key d => ⟨State.relay_known, fun hnew =>
      ⟨{ s with fen := { s.fen with relayed := s.fen.relayed ++ [(k.code, key)] } }, rfl, rfl, rfl, State.relay_new hnew⟩⟩, fun s e m => ?_,
    fun s => ⟨fun h => congrArg (ok s) (if_neg h), fun h => congrArg (ok s) (if_pos h), fun h => congrArg (ok s) (if_neg h), State.dissolveComplete_result⟩,
    fun s c hc => State.fenFail_result hc⟩
  · have hout : ¬(s.fnTakes 0 && s.fwRuns) = true := by
      rcases h with h | h
      · rw [h]; exact Bool.false_ne_true
      · rw [h, Bool.and_false]; exact Bool.false_ne_true
    exact ⟨congrArg (ok s) (if_neg hout), congrArg (ok s) (if_neg hout)⟩
  · intro s1 s2
    have hregs : State.TimeOnly (({ s1 with fen := .none } : State).wrs 0 0 [(F.FEN_STATUS_STATE, 1), (F.FEN_STATUS_CAUSE, 0)]) s2 := State.TimeOnly.setMaster _ _
    refine ⟨hregs.fenRegs.1.trans ?_, hregs.fen, congrArg (ok s) (if_pos (by rw [htakes, hfw]; rfl))⟩
    rw [State.wrs_cons, State.wrs_cons, State.wrs_nil, State.fenState, State.rd_wr_apart (by decide), State.rd_wr_same]
    rfl
  · exact congrArg (ok s) (if_pos (by rw [htakes, hfw]; rfl))
  · refine congrArg (ok s) (if_neg ?_)
    rcases hstay with h | h | h | h
    all_goals simp [h]
  · intro s1
    have hgives := State.helloReceive_gives (p := p) hfw hforming hother hnew
    dsimp only at hgives
    refine ⟨fun hknown => ?_, fun hfirst => ?_⟩
    · rwa [if_neg (by simpa using hknown)] at hgives
    · rwa [if_pos (by simpa using hfirst)] at hgives
  · refine congrArg (ok s) (if_neg ?_)
    rcases hstay with h | h | h | ⟨g, hg, hle⟩
    · simp [h]
    · simp [h]
    · simp [h]
    · intro hall
      simp only [Bool.and_eq_true] at hall
      have hlow := List.all_eq_true.mp hall.2 g hg
      exact absurd (of_decide_eq_true hlow) (by omega)
  · intro g
    have hgives : s.gives .formWaitExpiry s.leaderPlan := congrArg (ok s) (if_pos (by
      rw [hfw, hforming, hplan, List.all_eq_true.mpr fun h hh => decide_eq_true (hlowest h hh)]
      rfl))
    refine ⟨fun hplan hbad => ?_, fun hplan hmany => ?_, fun hplan hnone => hgives.next_of (State.leaderPlan_alone hplan hnone) fun _ _ h => h⟩
    · rwa [State.leaderPlan, if_pos (by rw [hplan, show s.planFits (insHello s.ownHello s.fen.hellos) = false from hbad]; rfl)] at hgives
    · rwa [State.leaderPlan, if_neg (by rw [hplan]; exact Bool.false_ne_true), if_pos hmany] at hgives
  · refine congrArg (ok s) (if_neg ?_)
    rcases hstay with h | h | h
    all_goals simp [h]
  · exact congrArg (ok s) ((if_pos (by rw [hfw, hforming, hmember]; rfl)).trans (if_neg hother))
  · rcases hstay with h | h | ⟨hlead, hnone⟩
    · exact congrArg (ok s) (if_neg (by simp [h]))
    · exact congrArg (ok s) (if_neg (by simp [h]))
    · by_cases hgo : (s.fwRuns && decide (s.fenState = 1)) = true
      · exact congrArg (ok s) ((if_pos hgo).trans ((if_pos hlead).trans (if_neg (by simpa using hnone))))
      · exact congrArg (ok s) (if_neg hgo)
  · exact congrArg (ok s) ((if_pos (by rw [hfw, hforming]; rfl)).trans (if_neg (by rw [hmember]; exact Bool.false_ne_true)))
  · intro s1
    have hgives := State.ackAtLeader_gives hfw hforming hlead hmember
    refine ⟨fun hleft => ?_, fun hall => ?_⟩
    · rwa [State.leaderCommit_waits hleft] at hgives
    · obtain ⟨hstate, hepoch, -, -, -⟩ := State.leaderCommit_formed (s := s1) hall
      exact hgives.next_of ⟨hstate, hepoch⟩ fun _ _ h => h
  · exact congrArg (ok s) (if_pos (by
      rw [hfw, hforming, hmember, show s.fen.plan.isEmpty = false by simpa using hplan]
      rfl))
  · intro hformed hepoch
    exact congrArg (ok s) ((if_neg (by simp [hformed])).trans (if_pos (by rw [hfw, hformed, hepoch]; simp)))
  · intro hformed hepoch
    exact congrArg (ok s) ((if_neg (by simp [hformed])).trans (if_neg (by simp [hepoch])))
  · obtain ⟨hstate, hepoch, -, -, -⟩ := s.fenFormed_regs e m
    exact ⟨hstate, hepoch⟩

end Sys2Proof.Machine
end

section
/-! SUPPORT. Proofs about memory requests between ranks and packets passed on (R329 to R344). -/
namespace Sys2Proof.Machine

/-! ### Requests -/

section Serve
variable {s : State} {src : Nat} {h : MemHdr} {data : List Byte} {poison : Bool}

/-- A malformed request is answered ACCESS and not counted. -/
theorem State.serveMem_malformed (hform : h.formOk = false) : s.serveMem src h data poison = some (s.respondMem src h 1 []) := by
  unfold State.serveMem
  rw [hform]
  rfl

/-- A request that no window permits, or that lies outside this device, is counted and answered ACCESS. -/
theorem State.serveMem_refused (hform : h.formOk = true) (hbad : inDevice h.addr h.span = false ∨ s.windowOk src h.addr h.span h.mop = false) :
    s.serveMem src h data poison = some ((s.count F.FEN_CNT_REFUSED_COUNT 0 1).respondMem src h 1 []) := by
  unfold State.serveMem
  rw [if_pos (by rcases hbad with hb | hb <;> simp [hb]), hform]
  rfl

section Permitted
variable (hform : h.formOk = true) (hin : inDevice h.addr h.span = true) (hwin : s.windowOk src h.addr h.span h.mop = true)
include hform hin hwin

theorem State.serveMem_unserved (hout : s.memServes h.addr = false) : s.serveMem src h data poison = some (s.respondMem src h 1 []) := by
  unfold State.serveMem
  rw [if_neg (by simp [hform, hin, hwin]), if_pos (by simp [hout])]

theorem State.serveMem_held (hserves : s.memServes h.addr = true) (hmop : h.mop ≠ 0) (hgate : s.gate h.addr = .hold) :
    s.serveMem src h data poison = none := by
  unfold State.serveMem
  rw [if_neg (by simp [hform, hin, hwin]), if_neg (by simp [hserves]), if_pos ⟨hmop, hgate⟩]

theorem State.serveMem_performs (hserves : s.memServes h.addr = true) (hgo : h.mop = 0 ∨ s.gate h.addr ≠ .hold) :
    s.serveMem src h data poison = some (((s.reachMem h).performMem h data poison).1.respondMem src h
      ((s.reachMem h).performMem h data poison).2.1 ((s.reachMem h).performMem h data poison).2.2) := by
  unfold State.serveMem
  rw [if_neg (by simp [hform, hin, hwin]), if_neg (by simp [hserves]), if_neg fun g => hgo.elim g.1 fun hn => hn g.2]

end Permitted

theorem State.performMem_read (hmop : h.mop = 0) :
    s.performMem h data poison = (s, if s.poisonIn h.addr h.n then 2 else 0, s.readBytes 0 h.addr h.n) := if_pos hmop

theorem State.performMem_write (hmop : h.mop = 1) : s.performMem h data poison =
    (if poison then (s.writeBytes 0 h.addr data).setPoison h.addr h.n true else s.writeBytes 0 h.addr data, 0, []) := by
  unfold State.performMem
  rw [if_neg (by rw [hmop]; decide), if_pos hmop]

theorem State.performMem_atomic (hmop : 2 ≤ h.mop) (hclean : s.isPoison h.addr = false) : s.performMem h data poison =
    (s.writeNat 0 h.addr 8 (amoRemote h.mop (s.readNat 0 h.addr 8) data), 0, leBytes 8 (s.readNat 0 h.addr 8)) := by
  unfold State.performMem
  rw [if_neg (by show ¬ h.mop = 0; omega), if_neg (by show ¬ h.mop = 1; omega)]
  exact if_neg (ne_true_of_eq_false hclean)

theorem State.performMem_atomic_poisoned (hmop : 2 ≤ h.mop) (hpois : s.isPoison h.addr = true) :
    s.performMem h data poison = (s, 2, leBytes 8 (s.readNat 0 h.addr 8)) := by
  unfold State.performMem
  rw [if_neg (by show ¬ h.mop = 0; omega), if_neg (by show ¬ h.mop = 1; omega)]
  exact if_pos hpois

end Serve

theorem execRemoteMemoryRequest_of {i : Nat} {s : State} {p : RxPkt} {h : MemHdr} {data : List Byte} {f : Bool} (hp : s.rx[i]? = some p)
    (hpkt : p.pkt = .mem h data f) (hrank : p.drank = s.rank) (hmop : h.mop < 8) :
    execRemoteMemoryRequest i s = ok s (((s.rxDrop i).serveMem p.srank h data p.poison).getD s) := by
  refine congrArg (ok s) ?_
  rw [hp]
  dsimp only
  rw [hpkt]
  dsimp only
  exact if_neg (by simp only [Bool.or_eq_true, decide_eq_true_eq]; omega)

/-- What serving answers, the request's next state is. -/
theorem State.gives_served {i : Nat} {s u : State} {p : RxPkt} {h : MemHdr} {data : List Byte} {f : Bool} (hp : s.rx[i]? = some p)
    (hpkt : p.pkt = .mem h data f) (hrank : p.drank = s.rank) (hmop : h.mop < 8) (hu : ((s.rxDrop i).serveMem p.srank h data p.poison).getD s = u) :
    s.gives (.remoteMemoryRequest i) u :=
  (execRemoteMemoryRequest_of hp hpkt hrank hmop).trans (congrArg (ok s) hu)

/-- With no window enabled, no request is permitted. -/
theorem State.windowOk_none {s : State} (hoff : ∀ w, w < 16 → s.flag F.FEN_INWIN_PERM_EN 0 w = false) (src a n mop : Nat) : s.windowOk src a n mop = false := by
  unfold State.windowOk
  refine List.any_eq_false.mpr fun w hw => ?_
  rw [hoff w (List.mem_range.mp hw)]
  simp

/-! ### Responses -/

section Response
variable {i : Nat} {s : State} {p : RxPkt} {h : MemHdr} {data : List Byte} {f : Bool}

theorem execRemoteMemoryResponse_of (hp : s.rx[i]? = some p) (hpkt : p.pkt = .mem h data f) (hrank : p.drank = s.rank) (hmop : 8 ≤ h.mop) :
    execRemoteMemoryResponse i s = ok s (match s.rem.find? h.tag with
      | some r => if r.rank = p.srank && h.answers r then ((s.rxDrop i).remEnd h.tag r h.status data).settle else s.rxDrop i
      | none => s.rxDrop i) := by
  refine congrArg (ok s) ?_
  rw [hp]
  dsimp only
  rw [hpkt]
  dsimp only
  exact if_neg (by simp only [Bool.or_eq_true, decide_eq_true_eq]; omega)

end Response

/-! ### Packets passed on -/

/-- No earlier packet of the flow goes to a destination of this one. -/
theorem State.firstOfFlow_iff {s : State} {i : Nat} {p : RxPkt} :
    (s.rx.take i).any (fun q => q.vc = p.vc && q.srank = p.srank && (s.rxDests q).any (fun d => (s.rxDests p).contains d)) = false ↔
      ∀ q ∈ s.rx.take i, q.vc = p.vc → q.srank = p.srank → ∀ d ∈ s.rxDests q, d ∉ s.rxDests p := by
  simp [List.any_eq_false]

section Forward
variable {i : Nat} {s : State} {p : RxPkt}

theorem execPacketForward_waits (hp : s.rx[i]? = some p) (hstay : p.drank = s.rank ∨
      ¬ ∀ q ∈ s.rx.take i, q.vc = p.vc → q.srank = p.srank → ∀ d ∈ s.rxDests q, d ∉ s.rxDests p) : s.gives (.packetForward i) s := by
  refine congrArg (ok s) ?_
  rw [hp]
  dsimp only
  refine if_pos ?_
  rw [← State.firstOfFlow_iff, Bool.not_eq_false] at hstay
  simpa only [Bool.or_eq_true, decide_eq_true_eq] using hstay

/-- The packet at a place is passed on by its kind and its route. -/
def State.passOn (s : State) (i : Nat) (p : RxPkt) : State :=
  match s.routePort p.drank p.srank with
  | none => s.rxDrop i
  | some o => (s.rxDrop i).forwardOn p p.pkt p.drank o

variable (hp : s.rx[i]? = some p) (hfar : p.drank ≠ s.rank)
  (hfirst : ∀ q ∈ s.rx.take i, q.vc = p.vc → q.srank = p.srank → ∀ d ∈ s.rxDests q, d ∉ s.rxDests p)
include hp hfar hfirst

theorem execPacketForward_multicast {hdr : Nat} {pl : List Byte} {b : Bool} {src : Peer} {op : Option Nat}
    (hpkt : p.pkt = .lode (.msg hdr pl b src op)) (hgrp : src.grp = true) : s.gives (.packetForward i) ((s.rxDrop i).forwardMcast p hdr pl b src) := by
  refine congrArg (ok s) ?_
  rw [hp]
  dsimp only
  rw [if_neg (by rw [State.firstOfFlow_iff.mpr hfirst]; simp [hfar]), hpkt]
  exact if_pos hgrp

theorem execPacketForward_single (hsingle : ∀ hdr pl b src op, p.pkt ≠ .lode (.msg hdr pl b src op) ∨ src.grp = false) :
    s.gives (.packetForward i) (s.passOn i p) := by
  refine congrArg (ok s) ?_
  rw [hp]
  dsimp only
  rw [if_neg (by rw [State.firstOfFlow_iff.mpr hfirst]; simp [hfar])]
  unfold State.passOn
  split
  case h_1 hdr pl b src op hpkt =>
    have hgrp := (hsingle hdr pl b src op).resolve_left fun hne => hne hpkt
    rw [if_neg (by rw [hgrp]; decide), hpkt] <;> rfl
  case h_2 => rfl

end Forward

theorem State.passOn_none {s : State} {i : Nat} {p : RxPkt} (h : s.routePort p.drank p.srank = none) : s.passOn i p = s.rxDrop i := by
  unfold State.passOn; rw [h]

theorem State.passOn_some {s : State} {i o : Nat} {p : RxPkt} (h : s.routePort p.drank p.srank = some o) :
    s.passOn i p = (s.rxDrop i).forwardOn p p.pkt p.drank o := by
  unfold State.passOn; rw [h]

/-- Settles O40: where a request's address leads, and whom a response or a packet belongs to. -/
theorem remoteMemoryResult : Obligations.RemoteMemoryResult := by
  unfold Obligations.RemoteMemoryResult
  refine ⟨fun i s hnone => ?_, fun i s p h data f hp hpkt => ⟨fun hnot => ?_, fun hnot => ?_⟩, ?_, fun old data => ⟨rfl, rfl, rfl⟩, fun s src a n hoff => ⟨State.windowOk_none hoff _ _ _ _, State.windowOk_none hoff _ _ _ _⟩, ?_, ?_, ?_, ?_⟩
  · refine ⟨congrArg (ok s) ?_, congrArg (ok s) ?_, congrArg (ok s) ?_⟩ <;> rw [hnone]
  · refine congrArg (ok s) ?_
    rw [hp]
    dsimp only
    rw [hpkt]
    exact if_pos (by simpa using hnot)
  · refine congrArg (ok s) ?_
    rw [hp]
    dsimp only
    rw [hpkt]
    exact if_pos (by simpa using hnot)
  · intro i s p h data f hp hpkt hrank hmop
    have serve {u : State} (hu : (s.rxDrop i).serveMem p.srank h data p.poison = some u) : s.gives (.remoteMemoryRequest i) u :=
      State.gives_served hp hpkt hrank hmop (by rw [hu]; rfl)
    refine ⟨fun hform => serve (State.serveMem_malformed hform), fun hform hbad => serve (State.serveMem_refused (s := s.rxDrop i) hform hbad),
      fun hform hin hwin => ⟨fun hout => serve (State.serveMem_unserved (s := s.rxDrop i) hform hin hwin hout), fun hserves => ?_⟩⟩
    have perform (hgo : h.mop = 0 ∨ (s.rxDrop i).gate h.addr ≠ .hold) :=
      State.serveMem_performs (data := data) (poison := p.poison) (s := s.rxDrop i) hform hin hwin hserves hgo
    refine ⟨fun h0 => serve ?_, fun h1 hgate => serve ?_, fun h2 hgate hclean => serve ?_, fun h2 hgate hpois => serve ?_, fun h0 hgate =>
      State.gives_served hp hpkt hrank hmop (by rw [State.serveMem_held (s := s.rxDrop i) hform hin hwin hserves h0 hgate]; rfl)⟩
    · rw [perform (.inl h0), State.performMem_read h0]; rfl
    · rw [perform (.inr hgate), State.performMem_write h1]; rfl
    · rw [perform (.inr hgate), State.performMem_atomic (s := (s.rxDrop i).reachMem h) h2 hclean]; rfl
    · rw [perform (.inr hgate), State.performMem_atomic_poisoned (s := (s.rxDrop i).reachMem h) h2 hpois]; rfl
  · intro i s p h data f hp hpkt hrank hmop
    refine ⟨fun hnone => (execRemoteMemoryResponse_of hp hpkt hrank hmop).trans (congrArg (ok s) ?_), fun r hr =>
      ⟨fun hbad => (execRemoteMemoryResponse_of hp hpkt hrank hmop).trans (congrArg (ok s) ?_),
       fun hsrc hans => (execRemoteMemoryResponse_of hp hpkt hrank hmop).trans (congrArg (ok s) ?_)⟩⟩
    · rw [hnone]; rfl
    · rw [hr]
      exact if_neg (by rcases hbad with hb | hb <;> simp [hb])
    · rw [hr]
      exact if_pos (by simp [hsrc, hans])
  · intro h r
    simp [MemHdr.answers, and_assoc]
  · intro i s p hp
    refine ⟨execPacketForward_waits hp, fun hfar hfirst => ⟨fun hsingle => ⟨fun hnone => ?_, fun o ho => ?_⟩, fun hdr pl b src op hpkt hgrp =>
      execPacketForward_multicast hp hfar hfirst hpkt hgrp⟩⟩
    · have hpass := execPacketForward_single hp hfar hfirst hsingle
      rwa [State.passOn_none hnone] at hpass
    · have hpass := execPacketForward_single hp hfar hfirst hsingle
      rwa [State.passOn_some ho] at hpass
  · intro s p hdr pl b src op hpkt hgrp
    unfold State.rxDests
    rw [hpkt]
    exact if_neg (by rw [hgrp]; decide)

end Sys2Proof.Machine
end

section
/-! SUPPORT. Proofs about the count, the exchanges of the time tree, the servo and PPS (R350 to R360). -/
namespace Sys2Proof.Machine

/-! ### Steps, the increment and the servo's state -/

section Count
variable {s : State} {g : Fld}

theorem State.rd_setInc (hg : F.TBU_INC_INC.apart g = true) (i : Nat) (n : Int) (d : Nat) : (s.setInc i n d).rd g 0 = s.rd g 0 := State.rd_wr_apart hg _

/-- A step counts itself and leaves every other register. -/
theorem State.stepTo_step (c : Nat) : (s.stepTo c).rd F.TBU_CNT_STEP_COUNT 0 = min (s.rd F.TBU_CNT_STEP_COUNT 0 + 1) (2 ^ F.TBU_CNT_STEP_COUNT.w - 1) :=
  State.rd_count_same _ 0 1 0

theorem State.rd_stepTo (hg : F.TBU_CNT_STEP_COUNT.apart g = true) (c : Nat) : (s.stepTo c).rd g 0 = s.rd g 0 := State.rd_count_apart hg 1

/-- The phase term's end changes INC and `left` alone. -/
theorem State.phaseOff_rest : s.phaseOff = { s with regs := s.phaseOff.regs, tbu := { s.tbu with left := 0 } } := rfl

theorem State.rd_phaseOff (hg : F.TBU_INC_INC.apart g = true) : s.phaseOff.rd g 0 = s.rd g 0 := State.rd_setInc hg _ _ _

theorem State.ppsGate_regs : s.ppsGate.regs = s.regs ∧ s.ppsGate.tbu = s.tbu ∧ s.ppsGate.ns = s.ns ∧ s.ppsGate.frac = s.frac := by
  unfold State.ppsGate
  dsimp only
  split <;> exact ⟨rfl, rfl, rfl, rfl⟩

theorem State.servoTo_count (v : Nat) : (s.servoTo v).tbu = s.tbu ∧ (s.servoTo v).ns = s.ns ∧ (s.servoTo v).frac = s.frac :=
  State.ppsGate_regs.2

theorem State.rd_servoTo (hg : F.TBU_STATUS_SERVO.apart g = true) (v : Nat) : (s.servoTo v).rd g 0 = s.rd g 0 := by
  rw [State.rd, State.servoTo, State.ppsGate_regs.1]
  exact State.rd_wr_apart hg v

theorem State.servoTo_servo {v : Nat} (hv : v < 8) : (s.servoTo v).rd F.TBU_STATUS_SERVO 0 = v := by
  rw [State.rd, State.servoTo, State.ppsGate_regs.1]
  exact (State.rd_wr_same s _ 0 v 0).trans (Nat.mod_eq_of_lt hv)

/-- INC stays within R350. -/
theorem State.setInc_bounds (i : Nat) (n : Int) (d : Nat) : (s.setInc i n d).rd F.TBU_INC_INC 0 ≥ 0x0FF000000 ∧ (s.setInc i n d).rd F.TBU_INC_INC 0 ≤ 0x101000000 := by
  rw [State.setInc, State.rd_wr_same]
  generalize s.quot i n (d * 2 ^ 32) = q
  have hw : F.TBU_INC_INC.w = 36 := rfl
  simp only [incMin, incMax, hw]
  omega

end Count

/-! ### The count is set and read (R352, R353) -/

section SetNs
variable {s : State} {hi : BitVec 32} {held : Nat}

/-- The count that SET_NS steps to, with its lower half and SET_FRAC. -/
def State.setNs (s : State) (held hi : Nat) : State :=
  ((({ s with tbu := { s.tbu with held := held } } : State).stepTo ((held + hi * 2 ^ 32) * 2 ^ 32 + s.rd F.TBU_SET_FRAC_FRAC 0)).phaseOff)

theorem execTbuSetNs_master {lo : Option (BitVec 32)} (htakes : s.fnTakes 0 = true) (hm : s.flag F.TBU_STATUS_MASTER 0 = true)
    (hheld : (match lo with | some b => b.toNat | none => s.tbu.held) = held) : exec (.tbuSetNs hi lo) s =
      ok s ({ s.setNs held hi.toNat with tbu := { (s.setNs held hi.toNat).tbu with setSec := some ((s.setNs held hi.toNat).ns / 1000000000) } } : State).drawn := by
  subst hheld
  exact congrArg (ok s) ((if_pos htakes).trans (if_pos hm))

theorem State.setNs_count (hlo : held < 2 ^ 32) (hhi : hi.toNat < 2 ^ 32) (hfrac : s.rd F.TBU_SET_FRAC_FRAC 0 < 2 ^ 32) :
    (s.setNs held hi.toNat).ns = held + hi.toNat * 2 ^ 32 ∧ (s.setNs held hi.toNat).frac = s.rd F.TBU_SET_FRAC_FRAC 0 := by
  change ((held + hi.toNat * 2 ^ 32) * 2 ^ 32 + s.rd F.TBU_SET_FRAC_FRAC 0) / 2 ^ 32 % 2 ^ 64 = _ ∧
    ((held + hi.toNat * 2 ^ 32) * 2 ^ 32 + s.rd F.TBU_SET_FRAC_FRAC 0) % 2 ^ 32 = _
  generalize s.rd F.TBU_SET_FRAC_FRAC 0 = fr at *
  omega

theorem State.setNs_step : (s.setNs held hi.toNat).rd F.TBU_CNT_STEP_COUNT 0 = min (s.rd F.TBU_CNT_STEP_COUNT 0 + 1) (2 ^ F.TBU_CNT_STEP_COUNT.w - 1) := by
  rw [State.setNs, State.rd_phaseOff (by decide), State.stepTo_step]
  rfl

end SetNs

/-- A write of the upper half alone takes the lower half as last held. -/
theorem execTbuSetNs_held {s : State} {hi lo : BitVec 32} (hheld : s.tbu.held = lo.toNat) : exec (.tbuSetNs hi none) s = exec (.tbuSetNs hi (some lo)) s := by
  change execTbuSetNs hi none s = execTbuSetNs hi (some lo) s
  unfold execTbuSetNs
  dsimp only
  rw [hheld]

/-! ### PPS (R359, R360) -/

/-- A pulse's second lies in no range of those pulsed. -/
theorem State.unpulsed_iff {s : State} {k : Nat} : (s.tbu.pulsed.all (fun r => k < r.1 || r.2 < k)) = true ↔ ∀ r ∈ s.tbu.pulsed, k < r.1 ∨ r.2 < k := by
  simp [List.all_eq_true]

section Second
variable {s : State}

/-- No pulse is due: PPS_OUT is off, gated, or has pulsed for this second. -/
theorem execTbuSecond_quiet (hsv : s.rd F.TBU_STATUS_SERVO 0 ≠ 3)
    (hoff : s.flag F.TBU_PPS_CFG_OUT_EN 0 = false ∨ ∃ r ∈ s.tbu.pulsed, r.1 ≤ s.pulseSecond ∧ s.pulseSecond ≤ r.2) : s.gives .tbuSecond s := by
  refine congrArg (ok s) ?_
  rw [if_neg hsv]
  refine if_neg fun hgo => ?_
  rw [Bool.and_eq_true, Bool.and_eq_true, State.unpulsed_iff] at hgo
  obtain ⟨⟨hen, -⟩, hall⟩ := hgo
  rcases hoff with hoff | ⟨r, hr, hle, hge⟩
  · rw [hoff] at hen
    exact Bool.noConfusion hen
  · have := hall r hr
    omega

theorem execTbuSecond_pulse (hsv : s.rd F.TBU_STATUS_SERVO 0 = 0 ∨ s.rd F.TBU_STATUS_SERVO 0 = 2) (hen : s.flag F.TBU_PPS_CFG_OUT_EN 0 = true)
    (hnew : ∀ r ∈ s.tbu.pulsed, s.pulseSecond < r.1 ∨ r.2 < s.pulseSecond) : s.gives .tbuSecond
      (({ s with pins := { s.pins with pps := true }, tbu := { s.tbu with pulsed := addPulse s.pulseSecond s.tbu.pulsed } } : State).emit (.other "PPS_OUT" [1, s.pulseSecond])) := by
  refine congrArg (ok s) ?_
  rw [if_neg (show ¬ s.rd F.TBU_STATUS_SERVO 0 = 3 by omega)]
  refine if_pos ?_
  rw [State.unpulsed_iff.mpr hnew, hen]
  rcases hsv with h | h <;> simp [h]

/-- In HOLDOVER the error bound grows, and a gated PPS_OUT does not pulse. -/
theorem execTbuSecond_holdover (hsv : s.rd F.TBU_STATUS_SERVO 0 = 3) (hgate : s.flag F.TBU_PPS_CFG_GATE 0 = true) :
    s.gives .tbuSecond (s.wr F.TBU_STATUS_ERRBND 0 (min (2 ^ 32 - 1) (s.rd F.TBU_STATUS_ERRBND 0 + 5120))) := by
  refine congrArg (ok s) ?_
  rw [if_pos hsv]
  exact if_neg (by simp [hsv, hgate])

end Second

/-- Settles O41: what each operation on the count leaves of the registers that the statement reads. -/
theorem timeCountResult : Obligations.TimeCountResult := by
  unfold Obligations.TimeCountResult
  refine ⟨fun hi lo s htakes => ⟨congrArg (ok s) (if_neg (by rw [htakes]; decide)),
      congrArg (ok s) ((if_neg Bool.false_ne_true).trans (if_neg (by rw [htakes]; decide)))⟩,
    fun hi lo s htakes => ⟨fun hm hfrac => ?_, fun hm => congrArg (ok s) ((if_pos htakes).trans (if_neg (by rw [hm]; decide))), execTbuSetNs_held,
      congrArg (ok s) ((if_neg Bool.false_ne_true).trans (if_pos htakes))⟩,
    fun s => ⟨fun hoff => ?_, fun hwarm hboot => ?_⟩,
    fun s => ⟨rfl, fun hoff => congrArg (ok s) ((if_neg Bool.false_ne_true).trans (if_neg ?_)), fun hm hen hsec => ?_, fun hm hen hsec => ?_, fun hpps => congrArg (ok s) (if_neg fun h => h hpps),
      fun hpps => congrArg (ok s) (if_pos hpps)⟩,
    fun s hsv => ⟨fun hen => execTbuSecond_quiet (by omega) (.inl hen), fun _ hold => execTbuSecond_quiet (by omega) (.inr hold), execTbuSecond_pulse hsv⟩,
    fun s => execTbuSecond_holdover, fun s => ⟨fun hlow => congrArg (ok s) (if_neg (by rw [hlow]; decide)), fun hhigh => congrArg (ok s) (if_pos hhigh)⟩⟩
  · obtain ⟨hns, hfr⟩ := State.setNs_count (held := lo.toNat) lo.isLt hi.isLt hfrac
    exact ⟨_, execTbuSetNs_master htakes hm rfl, hns, hfr, rfl, State.setNs_step, rfl, rfl⟩
  · refine congrArg (ok s) ((if_pos rfl).trans (if_neg ?_))
    rcases hoff with hcold | hboot
    · simp [State.moss, hcold]
    · simp [hboot]
  · exact congrArg (ok s) ((if_pos rfl).trans (if_pos (by simpa [State.moss, hwarm] using hboot)))
  · rcases hoff with h | h <;> simp [h]
  · refine congrArg (ok s) ((if_neg Bool.false_ne_true).trans ((if_pos (by rw [hm, hen]; rfl)).trans (if_pos ?_)))
    exact decide_eq_true hsec
  · have hgo : execPpsInEdge false s = ok s (let err := s.ppsError ((s.count96 : Int) + signed 32 (s.rd F.TBU_PPSIN_ADJ_ADJ 0) * 2 ^ 24)
        if 100000 * 2 ^ 32 < err.natAbs ∧ s.rd F.TBU_STATUS_PPSSTATE 0 = 2 then (s.wr F.TBU_PPSIN_TS_NS 0 (s.ns % 2 ^ 64)).count F.TBU_CNT_PPSREJ_COUNT 0 1
        else ((s.wr F.TBU_PPSIN_TS_NS 0 (s.ns % 2 ^ 64)).ppsApply err).drawn) :=
      congrArg (ok s) ((if_neg Bool.false_ne_true).trans ((if_pos (by rw [hm, hen]; rfl)).trans (if_neg (by simpa [State.sameSecond] using hsec))))
    exact ⟨fun hbig hsync => hgo.trans (congrArg (ok s) (if_pos ⟨hbig, hsync⟩)),
      fun hsmall => hgo.trans (congrArg (ok s) (if_neg fun h => hsmall.elim (fun hle => Nat.not_lt.mpr hle h.1) fun hne => hne h.2))⟩

end Sys2Proof.Machine
end

section
/-! SUPPORT. Proofs about the time tree's exchanges and the servo (R354 to R357). -/
namespace Sys2Proof.Machine

section Servo
variable {s : State}

/-! ### Lost exchanges -/

/-- A lost exchange ends the run of good ones and is counted twice (R356). -/
theorem State.lostX_result : s.lostX.tbu.exch = none ∧ s.lostX.tbu.good = 0 ∧
    s.lostX.rd F.TBU_CNT_LOSTX_COUNT 0 = min (s.rd F.TBU_CNT_LOSTX_COUNT 0 + 1) (2 ^ F.TBU_CNT_LOSTX_COUNT.w - 1) ∧
    s.lostX.rd F.TBU_CNT_REJECT_COUNT 0 = min (s.rd F.TBU_CNT_REJECT_COUNT 0 + 1) (2 ^ F.TBU_CNT_REJECT_COUNT.w - 1) := by
  refine ⟨rfl, rfl, ?_, ?_⟩
  · exact (State.rd_count_apart (f := F.TBU_CNT_REJECT_COUNT) (by decide) 1).trans (State.rd_count_same _ 0 1 0)
  · refine (State.rd_count_same F.TBU_CNT_REJECT_COUNT 0 1 0).trans ?_
    rw [State.rd_count_apart (by decide)]

theorem State.lostOpen_none (h : s.tbu.exch = none) : s.lostOpen = s := if_neg (by rw [h]; decide)

theorem State.lostOpen_some (h : s.tbu.exch ≠ none) : s.lostOpen = s.lostX := if_pos (Option.isSome_iff_ne_none.mpr h)

/-! ### SRC of ANNOUNCE (Table 14-1) -/

theorem State.annSrc_master (h : s.rd F.TBU_STATUS_SERVO 0 = 0) :
    s.annSrc = if s.rd F.TBU_STATUS_PPSSTATE 0 = 2 then 1 else if s.rd F.TBU_STATUS_PPSSTATE 0 = 3 then 2 else 0 := by
  unfold State.annSrc
  simp only [h]
  split
  next h2 => rw [if_pos h2]
  next h3 => rw [if_neg (by omega), if_pos h3]
  next h2 h3 => rw [if_neg h2, if_neg h3]

theorem State.annSrc_locked (h : s.rd F.TBU_STATUS_SERVO 0 = 2) : s.annSrc = 3 := by unfold State.annSrc; rw [h] <;> rfl

theorem State.annSrc_holdover (h : s.rd F.TBU_STATUS_SERVO 0 = 3) : s.annSrc = 4 := by unfold State.annSrc; rw [h] <;> rfl

/-! ### Accepted offsets (R357, Table 14-2) -/

theorem State.rd_slew {g : Fld} (hg : F.TBU_INC_INC.apart g = true) (th2 : Int) : (s.slew th2).rd g 0 = s.rd g 0 := State.rd_setInc hg _ _ _

/-- The run of good exchanges after an accepted offset. -/
def State.goodRun (s : State) (th2 : Int) : Nat := if th2.natAbs ≤ quarter2 then s.tbu.good + 1 else 0

/-- The servo's state after an accepted offset within the step threshold. -/
def State.servoNext (s : State) (th2 : Int) : Nat := if s.rd F.TBU_STATUS_SERVO 0 = 2 then 2 else if 16 ≤ s.goodRun th2 then 2 else 1

/-- The count slews, and the run of good exchanges is kept. -/
def State.slewed (s : State) (th2 : Int) : State := { s.slew th2 with tbu := { (s.slew th2).tbu with good := s.goodRun th2 } }

/-- An offset beyond the step threshold steps the count. -/
def State.stepped (s : State) (th2 : Int) : State := ((s.stepBy (-(s.quot 3 th2 2))).servoTo 1)

theorem State.servo_slews {th2 : Int} (h : th2.natAbs ≤ 2 * s.stepLimit) : s.servo th2 = (s.slewed th2).servoTo (s.servoNext th2) :=
  if_neg (Nat.not_lt.mpr h)

theorem State.servo_steps {th2 : Int} (h : 2 * s.stepLimit < th2.natAbs) :
    s.servo th2 = ({ s.stepped th2 with tbu := { (s.stepped th2).tbu with good := 0 } } : State).phaseOff := if_pos h

theorem State.servoNext_eq (th2 : Int) :
    s.servoNext th2 = if s.rd F.TBU_STATUS_SERVO 0 = 2 ∨ (th2.natAbs ≤ 2 ^ 31 ∧ 15 ≤ s.tbu.good) then 2 else 1 := by
  unfold State.servoNext State.goodRun
  split
  next h => rw [if_pos (.inl h)]
  next h =>
    by_cases hq : th2.natAbs ≤ quarter2
    · rw [if_pos hq]
      by_cases hg : 15 ≤ s.tbu.good
      · rw [if_pos (by omega), if_pos (.inr ⟨hq, hg⟩)]
      · rw [if_neg (by omega), if_neg (by rintro (h2 | ⟨-, h15⟩); exacts [h h2, hg h15])]
    · rw [if_neg hq, if_neg (by decide), if_neg (by rintro (h2 | ⟨hle, -⟩); exacts [h h2, hq hle])]

theorem State.servoNext_lt (th2 : Int) : s.servoNext th2 < 8 := by
  rw [State.servoNext_eq]
  split <;> decide

/-- What the servo leaves in the TBU. -/
theorem State.servo_tbu (th2 : Int) : (s.servo th2).tbu.delays = s.tbu.delays ∧ (s.tbu.exch = none → (s.servo th2).tbu.exch = none) := by
  by_cases h : 2 * s.stepLimit < th2.natAbs
  · rw [State.servo_steps h, State.phaseOff_rest, State.stepped]
    dsimp only
    rw [(State.servoTo_count 1).1]
    refine ⟨rfl, fun hexch => ?_⟩
    change s.tbu.exch.map _ = none
    rw [hexch]
    rfl
  · rw [State.servo_slews (Nat.not_lt.mp h), (State.servoTo_count _).1]
    exact ⟨rfl, fun hexch => hexch⟩

/-- A register that neither the increment, the count of steps nor the servo's state changes. -/
theorem State.rd_servo {g : Fld} (hinc : F.TBU_INC_INC.apart g = true) (hstep : F.TBU_CNT_STEP_COUNT.apart g = true)
    (hservo : F.TBU_STATUS_SERVO.apart g = true) (th2 : Int) : (s.servo th2).rd g 0 = s.rd g 0 := by
  by_cases h : 2 * s.stepLimit < th2.natAbs
  · rw [State.servo_steps h, State.rd_phaseOff hinc]
    exact (State.rd_servoTo hservo 1).trans (State.rd_stepTo hstep _)
  · rw [State.servo_slews (Nat.not_lt.mp h), State.rd_servoTo hservo]
    exact State.rd_slew hinc th2

/-- A slewed offset leaves the count and gives the servo its next state. -/
theorem State.servo_within {th2 : Int} (h : th2.natAbs ≤ 2 * s.stepLimit) : (s.servo th2).ns = s.ns ∧ (s.servo th2).frac = s.frac ∧
    (s.servo th2).rd F.TBU_STATUS_SERVO 0 = if s.rd F.TBU_STATUS_SERVO 0 = 2 ∨ (th2.natAbs ≤ 2 ^ 31 ∧ 15 ≤ s.tbu.good) then 2 else 1 := by
  rw [State.servo_slews h, (State.servoTo_count _).2.1, (State.servoTo_count _).2.2, State.servoTo_servo (State.servoNext_lt th2), State.servoNext_eq]
  exact ⟨rfl, rfl, rfl⟩

/-- A step begins the servo's search anew. -/
theorem State.servo_beyond {th2 : Int} (h : 2 * s.stepLimit < th2.natAbs) : (s.servo th2).rd F.TBU_STATUS_SERVO 0 = 1 ∧ (s.servo th2).tbu.good = 0 ∧
    (s.servo th2).tbu.left = 0 ∧ (s.servo th2).rd F.TBU_CNT_STEP_COUNT 0 = min (s.rd F.TBU_CNT_STEP_COUNT 0 + 1) (2 ^ F.TBU_CNT_STEP_COUNT.w - 1) := by
  rw [State.servo_steps h]
  refine ⟨?_, rfl, rfl, ?_⟩
  · rw [State.rd_phaseOff (by decide)]
    exact State.servoTo_servo (by decide)
  · rw [State.rd_phaseOff (by decide)]
    exact (State.rd_servoTo (by decide) 1).trans (State.stepTo_step _)

/-! ### The end of an exchange (R356) -/

/-- Twice the offset that an exchange measures. -/
def State.offset2 (s : State) (e : Exch) (t4 : Nat) : Int :=
  diff96 e.t2 e.t1 - diff96 t4 e.t3 - signed 32 (s.rd F.TBU_ASYM_ASYM 0 (s.rd F.TBU_STATUS_PPORT 0)) * 2 ^ 24

/-- The registers of an accepted exchange. -/
def State.acceptedRegs (s : State) (th2 d2 : Int) : State :=
  (s.count F.TBU_CNT_EXCH_COUNT 0 1).wrs 0 0 [(F.TBU_LAST_X_THETA, unsigned 32 (s.quot 4 th2 (2 ^ 25))),
    (F.TBU_LAST_X_DELAY, unsigned 32 (s.quot 5 d2 (2 ^ 25))), (F.TBU_STATUS_ERRBND, s.free 6)]

/-- An exchange is accepted, before the servo acts. -/
def State.accepted (s : State) (th2 d2 : Int) : State :=
  { s.acceptedRegs th2 d2 with tbu := { (s.acceptedRegs th2 d2).tbu with exch := none, delays := keepLast 16 (s.tbu.delays ++ [d2]) } }

theorem State.rd_accepted {g : Fld} (hg : (F.TBU_CNT_EXCH_COUNT.apart g && F.TBU_LAST_X_THETA.apart g && F.TBU_LAST_X_DELAY.apart g &&
    F.TBU_STATUS_ERRBND.apart g) = true) (th2 d2 : Int) : (s.accepted th2 d2).rd g 0 = s.rd g 0 := by
  simp only [Bool.and_eq_true] at hg
  obtain ⟨⟨⟨hexch, htheta⟩, hdelay⟩, hbound⟩ := hg
  exact (State.rd_wr_apart hbound _).trans ((State.rd_wr_apart hdelay _).trans ((State.rd_wr_apart htheta _).trans (State.rd_count_apart hexch 1)))

theorem State.accepted_exch (th2 d2 : Int) :
    (s.accepted th2 d2).rd F.TBU_CNT_EXCH_COUNT 0 = min (s.rd F.TBU_CNT_EXCH_COUNT 0 + 1) (2 ^ F.TBU_CNT_EXCH_COUNT.w - 1) :=
  (State.rd_wr_apart (f := F.TBU_STATUS_ERRBND) (by decide) _).trans ((State.rd_wr_apart (f := F.TBU_LAST_X_DELAY) (by decide) _).trans
    ((State.rd_wr_apart (f := F.TBU_LAST_X_THETA) (by decide) _).trans (State.rd_count_same _ 0 1 0)))

/-- State u ends an accepted exchange of s: the exchange is counted and its delay kept, and the servo acts on the offset th2 / 2. -/
def State.exchangeEnds (s u : State) (th2 d2 : Int) : Prop :=
  u.tbu.exch = none ∧ u.tbu.delays = keepLast 16 (s.tbu.delays ++ [d2]) ∧
  u.rd F.TBU_CNT_EXCH_COUNT 0 = min (s.rd F.TBU_CNT_EXCH_COUNT 0 + 1) (2 ^ F.TBU_CNT_EXCH_COUNT.w - 1) ∧
  (th2.natAbs ≤ 2 * s.stepLimit → u.ns = s.ns ∧ u.frac = s.frac ∧
    u.rd F.TBU_STATUS_SERVO 0 = if s.rd F.TBU_STATUS_SERVO 0 = 2 ∨ (th2.natAbs ≤ 2 ^ 31 ∧ 15 ≤ s.tbu.good) then 2 else 1) ∧
  (2 * s.stepLimit < th2.natAbs → u.rd F.TBU_STATUS_SERVO 0 = 1 ∧ u.tbu.good = 0 ∧ u.tbu.left = 0 ∧
    u.rd F.TBU_CNT_STEP_COUNT 0 = min (s.rd F.TBU_CNT_STEP_COUNT 0 + 1) (2 ^ F.TBU_CNT_STEP_COUNT.w - 1))

theorem State.exchangeEnds_drawn {u : State} {th2 d2 : Int} (h : s.exchangeEnds u th2 d2) : s.exchangeEnds u.drawn th2 d2 := h

theorem State.exchangeEnds_pending {u : State} {th2 d2 : Int} (l : List Instr) (h : s.exchangeEnds u th2 d2) :
    s.exchangeEnds { u with pending := l } th2 d2 := h

theorem State.servo_accepted (th2 d2 : Int) : s.exchangeEnds ((s.accepted th2 d2).servo th2) th2 d2 := by
  have hlimit : (s.accepted th2 d2).stepLimit = s.stepLimit := by rw [State.stepLimit, State.rd_accepted (by decide), State.stepLimit]
  obtain ⟨hdelays, hexch⟩ := (s.accepted th2 d2).servo_tbu th2
  refine ⟨hexch rfl, hdelays, ?_, fun h => ?_, fun h => ?_⟩
  · rw [State.rd_servo (by decide) (by decide) (by decide), State.accepted_exch]
  · obtain ⟨hns, hfrac, hservo⟩ := State.servo_within (s := s.accepted th2 d2) (by rw [hlimit]; exact h)
    refine ⟨hns, hfrac, hservo.trans ?_⟩
    rw [State.rd_accepted (by decide)]
    rfl
  · obtain ⟨hservo, hgood, hleft, hstep⟩ := State.servo_beyond (s := s.accepted th2 d2) (by rw [hlimit]; exact h)
    refine ⟨hservo, hgood, hleft, hstep.trans ?_⟩
    rw [State.rd_accepted (by decide)]

section Drsp
variable {p : Fin 16} {x : BitVec 16} {ns : BitVec 64} {fr : BitVec 32} {st : Bool} {e : Exch}

theorem execDrspReceive_stray (hexch : s.tbu.exch = some e) (hstray : s.isParent p.val = false ∨ e.xseq ≠ x.toNat ∨ e.t3 = 0) :
    s.gives (.drspReceive p x ns fr st) s := by
  refine congrArg (ok s) ?_
  rw [hexch]
  refine if_pos ?_
  rcases hstray with h | h | h <;> simp [h]

variable (hexch : s.tbu.exch = some e) (hpar : s.isParent p.val = true) (hx : e.xseq = x.toNat) (ht3 : e.t3 ≠ 0)
include hexch hpar hx ht3

/-- A DRSP that ends its exchange. -/
theorem execDrspReceive_ends : s.gives (.drspReceive p x ns fr st)
    (if e.stepped || st || s.delayBad (diff96 e.t2 e.t1 + diff96 (ns.toNat * 2 ^ 32 + fr.toNat) e.t3) then s.rejectX
    else ((s.accepted (s.offset2 e (ns.toNat * 2 ^ 32 + fr.toNat)) (diff96 e.t2 e.t1 + diff96 (ns.toNat * 2 ^ 32 + fr.toNat) e.t3)).servo
      (s.offset2 e (ns.toNat * 2 ^ 32 + fr.toNat))).drawn) := by
  refine congrArg (ok s) ?_
  rw [hexch]
  exact if_neg (by simp [hpar, hx, ht3])

theorem execDrspReceive_rejects (hbad : e.stepped = true ∨ st = true ∨
    s.delayBad (diff96 e.t2 e.t1 + diff96 (ns.toNat * 2 ^ 32 + fr.toNat) e.t3) = true) : s.gives (.drspReceive p x ns fr st) s.rejectX := by
  have hends := execDrspReceive_ends (st := st) (ns := ns) (fr := fr) hexch hpar hx ht3
  rwa [if_pos (by simp only [Bool.or_eq_true, or_assoc]; exact hbad)] at hends

theorem execDrspReceive_accepts (hstep : e.stepped = false) (hst : st = false)
    (hok : s.delayBad (diff96 e.t2 e.t1 + diff96 (ns.toNat * 2 ^ 32 + fr.toNat) e.t3) = false) : ∃ u, exec (.drspReceive p x ns fr st) s = .next u ∧
      s.exchangeEnds u (s.offset2 e (ns.toNat * 2 ^ 32 + fr.toNat)) (diff96 e.t2 e.t1 + diff96 (ns.toNat * 2 ^ 32 + fr.toNat) e.t3) := by
  have hends := execDrspReceive_ends (st := st) (ns := ns) (fr := fr) hexch hpar hx ht3
  rw [if_neg (by rw [hstep, hst]; exact ne_true_of_eq_false hok)] at hends
  exact hends.next_of (P := fun u => s.exchangeEnds u _ _) (State.exchangeEnds_drawn (State.servo_accepted _ _)) fun _ l h => State.exchangeEnds_pending l h

end Drsp
/-! ### ANNOUNCE (R354) -/

/-- An ANNOUNCE that names the same Tidemaster moves the depth and the error bound alone. -/
theorem execAnnounceReceive_same {p : Fin 16} {m d src : BitVec 8} {eb : BitVec 32} (hpar : s.isParent p.val = true)
    (hm : s.rd F.TBU_STATUS_MRANK 0 = m.toNat % 64) : s.gives (.announceReceive p m d src eb)
      (s.wrs 0 0 [(F.TBU_STATUS_DEPTH, d.toNat + 1), (F.TBU_STATUS_ERRBND, s.free 0)]).drawn := by
  have hmaster : s.flag F.TBU_STATUS_MASTER 0 = false := by
    simp only [State.isParent, Bool.and_eq_true, Bool.not_eq_true'] at hpar
    exact hpar.1.2
  refine congrArg (ok s) ((if_pos hpar).trans ?_)
  have hsame : (if m.toNat % 64 ≠ s.rd F.TBU_STATUS_MRANK 0 ∧ s.fenState = 2 then s.setMaster (m.toNat % 64) else s) = s := if_neg fun h => h.1 hm.symm
  dsimp only
  rw [hsame]
  exact if_neg (by rw [hmaster]; decide)

/-- A register that neither of these two fields holds. -/
theorem State.rd_announced {g : Fld} (hdepth : F.TBU_STATUS_DEPTH.apart g = true) (hbound : F.TBU_STATUS_ERRBND.apart g = true) (d b : Nat) :
    (s.wrs 0 0 [(F.TBU_STATUS_DEPTH, d), (F.TBU_STATUS_ERRBND, b)]).rd g 0 = s.rd g 0 :=
  (State.rd_wr_apart hbound b).trans (State.rd_wr_apart hdepth d)

theorem State.announced_depth (d b : Nat) :
    (s.wrs 0 0 [(F.TBU_STATUS_DEPTH, d), (F.TBU_STATUS_ERRBND, b)]).rd F.TBU_STATUS_DEPTH 0 = d % 2 ^ F.TBU_STATUS_DEPTH.w :=
  (State.rd_wr_apart (f := F.TBU_STATUS_ERRBND) (by decide) b).trans (State.rd_wr_same s _ 0 d 0)

/-! ### HOLDOVER (R357) -/

/-- The servo's rate term is frozen. -/
def State.rateHeld (s : State) : State := { s.phaseOff with tbu := { s.phaseOff.tbu with good := 0 } }

theorem execServoHoldover_from_locked (hm : s.flag F.TBU_STATUS_MASTER 0 = false) (hsv : s.rd F.TBU_STATUS_SERVO 0 = 2) :
    s.gives .servoHoldover (s.rateHeld.servoTo 3).drawn :=
  congrArg (ok s) (if_pos (by rw [hm, hsv]; rfl))

theorem State.rateHeld_result : (s.rateHeld.servoTo 3).rd F.TBU_STATUS_SERVO 0 = 3 ∧ (s.rateHeld.servoTo 3).tbu.good = 0 ∧ (s.rateHeld.servoTo 3).tbu.left = 0 ∧
    (s.rateHeld.servoTo 3).tbu.rate = s.tbu.rate ∧ (s.rateHeld.servoTo 3).ns = s.ns ∧ (s.rateHeld.servoTo 3).frac = s.frac := by
  obtain ⟨htbu, hns, hfrac⟩ := State.servoTo_count (s := s.rateHeld) 3
  rw [htbu, hns, hfrac, State.servoTo_servo (by decide)]
  exact ⟨rfl, rfl, rfl, rfl, rfl, rfl⟩

end Servo

/-- Settles O42: each message's tests, and the bounds within which the servo moves INC. -/
theorem timeServoResult : Obligations.TimeServoResult := by
  unfold Obligations.TimeServoResult
  refine ⟨fun s => ⟨fun hout => congrArg (ok s) (if_neg (by rw [hout]; decide)), fun hin => congrArg (ok s) (if_pos hin)⟩,
    fun s => ⟨State.annSrc_master, State.annSrc_locked, State.annSrc_holdover⟩,
    fun p x ns fr s => ⟨fun hnot => congrArg (ok s) (if_neg (by rw [hnot]; decide)), fun hpar hnone => congrArg (ok s) ((if_pos hpar).trans ?_),
      fun hpar hsome => ?_, fun hout => congrArg (ok s) (if_neg (by rw [hout]; decide)), fun hin => congrArg (ok s) (if_pos hin)⟩,
    fun s => ⟨fun hnone => congrArg (ok s) (State.lostOpen_none hnone), fun hsome => ?_⟩,
    fun p x ns fr st s => ⟨fun hstray => ?_, fun e hexch hpar => ⟨fun hstray => execDrspReceive_stray hexch (.inr hstray), ?_⟩⟩,
    fun p m d src eb s => ⟨fun hnot => congrArg (ok s) (if_neg (by rw [hnot]; decide)), fun hpar hm => ?_⟩,
    fun s => ⟨fun hnot => congrArg (ok s) (if_neg ?_), fun hm hsv => ?_⟩, fun s i n d => State.setInc_bounds i n d⟩
  · rw [State.lostOpen_none hnone]
    rfl
  · obtain ⟨-, hgood, hlost, hrej⟩ := s.lostX_result
    refine ⟨_, congrArg (ok s) (if_pos hpar), rfl, ?_⟩
    rw [State.lostOpen_some hsome]
    exact ⟨hgood, hlost, hrej⟩
  · obtain ⟨hexch, hgood, hlost, -⟩ := s.lostX_result
    exact ⟨_, congrArg (ok s) (State.lostOpen_some hsome), hexch, hgood, hlost⟩
  · cases hexch : s.tbu.exch with
    | none =>
      refine congrArg (ok s) ?_
      rw [hexch]
    | some e => exact execDrspReceive_stray hexch (.inl (hstray.resolve_left (by rw [hexch]; exact Option.some_ne_none e)))
  · intro hx ht3 a b th2
    exact ⟨execDrspReceive_rejects hexch hpar hx ht3, execDrspReceive_accepts hexch hpar hx ht3⟩
  · exact (execAnnounceReceive_same hpar hm).next_of (P := fun u => u.rd F.TBU_STATUS_MRANK 0 = m.toNat % 64 ∧
        u.rd F.TBU_STATUS_DEPTH 0 = (d.toNat + 1) % 2 ^ F.TBU_STATUS_DEPTH.w ∧ u.rd F.TBU_STATUS_SERVO 0 = s.rd F.TBU_STATUS_SERVO 0)
      ⟨(State.rd_announced (by decide) (by decide) _ _).trans hm, State.announced_depth _ _, State.rd_announced (by decide) (by decide) _ _⟩ fun _ _ h => h
  · rcases hnot with h | h <;> simp [h]
  · exact (execServoHoldover_from_locked hm hsv).next_of (P := fun u => u.rd F.TBU_STATUS_SERVO 0 = 3 ∧ u.tbu.good = 0 ∧ u.tbu.left = 0 ∧
      u.tbu.rate = s.tbu.rate ∧ u.ns = s.ns ∧ u.frac = s.frac) s.rateHeld_result fun _ _ h => h

end Sys2Proof.Machine
end

section
/-! SUPPORT. Proofs about the power states of tiles (R13, R364 to R368). -/
namespace Sys2Proof.Machine

section Power
variable {s : State} {t : Fin 8}

/-! ### Entries -/

/-- What registers read changes nothing else. -/
theorem State.stopSeen_rest (s : State) (t : Fin 8) : s.stopSeen t = { s with seen := (s.stopSeen t).seen } := by
  unfold State.stopSeen
  split
  · rfl
  · split
    · split <;> rfl
    · rfl

theorem State.rd_stopSeen (f : Fld) (i x : Nat) : (s.stopSeen t).rd f i x = s.rd f i x := by rw [State.stopSeen_rest]; rfl

theorem State.tile_stopSeen (u : Fin 8) : (s.stopSeen t).tile u = s.tile u := by rw [State.stopSeen_rest]; rfl

theorem State.mem_stopSeen : (s.stopSeen t).mem = s.mem := by rw [State.stopSeen_rest]

theorem State.idleTo_stays {target n : Nat} (h : n = 0 ∨ s.tpcQuiet t = false ∨ s.tileIdle t = false ∨ s.maxDepth t < target ∨
    target < s.rd F.TPC_STATUS_STATE t.val ∨ (s.rd F.TPC_STATUS_STATE t.val = target ∧ s.flag F.TPC_STATUS_MEMWAKE t.val = false)) : s.idleTo t target n = s := by
  refine if_neg ?_
  rintro ⟨hn, hquiet, hidle, hdepth, hstate⟩
  rcases h with h | h | h | h | h | ⟨h, hmem⟩
  · exact hn h
  · exact ne_true_of_eq_false h hquiet
  · exact ne_true_of_eq_false h hidle
  · omega
  · omega
  · rcases hstate with hlt | ⟨-, hwake⟩
    · omega
    · exact ne_true_of_eq_false hmem hwake

/-! ### The end of an entry -/

/-- The registers of a state reached. -/
def State.reached (s : State) (t : Fin 8) : State :=
  (s.stopSeen t).wrs t.val 0 [(F.TPC_STATUS_STATE, (s.tile t).tpc.target), (F.TPC_STATUS_ENTERING, 0), (F.TPC_STATUS_MEMWAKE, 0)]

theorem State.reached_state (htarget : (s.tile t).tpc.target < 8) : (s.reached t).rd F.TPC_STATUS_STATE t.val = (s.tile t).tpc.target :=
  (State.rd_wr_apart (f := F.TPC_STATUS_MEMWAKE) (by decide) 0).trans ((State.rd_wr_apart (f := F.TPC_STATUS_ENTERING) (by decide) 0).trans
    ((State.rd_wr_same _ _ _ _ 0).trans (Nat.mod_eq_of_lt htarget)))

theorem State.reached_entering : (s.reached t).rd F.TPC_STATUS_ENTERING t.val = 0 :=
  (State.rd_wr_apart (f := F.TPC_STATUS_MEMWAKE) (by decide) 0).trans (State.rd_wr_same _ _ _ _ 0)

theorem State.reached_memwake : (s.reached t).rd F.TPC_STATUS_MEMWAKE t.val = 0 := State.rd_wr_same _ _ _ _ 0

theorem State.reached_waking : (s.reached t).rd F.TPC_STATUS_WAKING t.val = s.rd F.TPC_STATUS_WAKING t.val :=
  (State.rd_wr_apart (f := F.TPC_STATUS_MEMWAKE) (by decide) 0).trans ((State.rd_wr_apart (f := F.TPC_STATUS_ENTERING) (by decide) 0).trans
    ((State.rd_wr_apart (f := F.TPC_STATUS_STATE) (by decide) _).trans (State.rd_stopSeen _ _ _)))

theorem State.reached_tile : (s.reached t).tile t = s.tile t := State.tile_stopSeen t

theorem State.reached_mem : (s.reached t).mem = s.mem := State.mem_stopSeen

theorem State.tile_drawn : s.drawn.tile t = s.tile t := rfl

/-- What Sleep loses, and what it keeps (Table 14-4). -/
theorem State.sleepLoss_tile : ((s.sleepLoss t).tile t).icache = [] ∧ ((s.sleepLoss t).tile t).tlb = [] ∧ ((s.sleepLoss t).tile t).wcache = [] ∧
    ((s.sleepLoss t).tile t).rb = .reset ∧ ((s.sleepLoss t).tile t).ls = (s.tile t).ls ∧ ((s.sleepLoss t).tile t).tpc = (s.tile t).tpc ∧
    ((s.sleepLoss t).tile t).launches = (s.tile t).launches := by
  unfold State.sleepLoss
  rw [State.tile_drawn, State.tile_onTile]
  exact ⟨rfl, rfl, rfl, rfl, rfl, rfl, rfl⟩

/-- Sleep keeps the registers of a thread that is not idle. -/
theorem State.sleepLoss_thr {h : Fin 4} (hbusy : (s.thr t h).st ≠ .idle) : (s.sleepLoss t).thr t h = s.thr t h := by
  unfold State.sleepLoss State.thr
  rw [State.tile_drawn, State.tile_onTile]
  unfold Tile.thr
  simp only [Fin.getElem_fin, Vector.getElem_map, Vector.getElem_zipIdx]
  exact if_neg hbusy

theorem State.sleepLoss_dregs (hbusy : (s.thr t 0).st ≠ .idle) : ((s.sleepLoss t).tile t).dregs = (s.tile t).dregs := by
  unfold State.sleepLoss
  rw [State.tile_drawn, State.tile_onTile]
  exact if_neg hbusy

/-- A low-power state is reached, with what it loses. -/
def State.asleep (s : State) (t : Fin 8) : State :=
  (if (s.tile t).tpc.target = 3 then (s.reached t).sleepLoss t else s.reached t).onTile t (fun x => { x with tpc := { x.tpc with target := 0 } })

theorem State.asleep_regs : (s.asleep t).regs = (s.reached t).regs := by
  unfold State.asleep
  split <;> rfl

theorem State.asleep_mem : (s.asleep t).mem = s.mem := by
  unfold State.asleep
  split <;> exact State.reached_mem

theorem State.asleep_rd (f : Fld) (i x : Nat) : (s.asleep t).rd f i x = (s.reached t).rd f i x := by rw [State.rd, State.asleep_regs, State.rd]

/-- A state lighter than Sleep loses nothing. -/
theorem State.asleep_light (h : (s.tile t).tpc.target ≠ 3) : (s.asleep t).tile t = { s.tile t with tpc := { (s.tile t).tpc with target := 0 } } := by
  rw [State.asleep, if_neg h, State.tile_onTile, State.reached_tile]

theorem State.asleep_deep (h : (s.tile t).tpc.target = 3) :
    (s.asleep t).tile t = { ((s.reached t).sleepLoss t).tile t with tpc := { (s.tile t).tpc with target := 0 } } := by
  rw [State.asleep, if_pos h, State.tile_onTile, (State.sleepLoss_tile (s := s.reached t)).2.2.2.2.2.1, State.reached_tile]

/-- The wake asked for meanwhile, and the LAUNCHes that wait, stand. -/
theorem State.asleep_asked : ((s.asleep t).tile t).tpc.full = (s.tile t).tpc.full ∧ ((s.asleep t).tile t).tpc.mem = (s.tile t).tpc.mem ∧
    ((s.asleep t).tile t).launches = (s.tile t).launches := by
  by_cases h : (s.tile t).tpc.target = 3
  · rw [State.asleep_deep h]
    exact ⟨rfl, rfl, (State.sleepLoss_tile (s := s.reached t)).2.2.2.2.2.2.trans (congrArg Tile.launches State.reached_tile)⟩
  · rw [State.asleep_light h]
    exact ⟨rfl, rfl, rfl⟩

/-- The wake that was asked for during the entry starts. -/
def State.startAsked (s : State) (t : Fin 8) : State :=
  if (s.tile t).tpc.full || (s.tile t).tpc.mem || (s.tile t).launches ≠ [] then
    (s.onTile t (fun x => { x with tpc := { x.tpc with full := x.tpc.full || x.launches ≠ [] } })).wr F.TPC_STATUS_WAKING t.val 1
  else s

theorem State.startAsked_rd {f : Fld} (hf : F.TPC_STATUS_WAKING.apart f = true) : (s.startAsked t).rd f t.val = s.rd f t.val := by
  unfold State.startAsked
  split
  · exact (State.rd_wr_apart hf 1).trans rfl
  · rfl

theorem State.startAsked_mem : (s.startAsked t).mem = s.mem := by
  unfold State.startAsked
  split <;> rfl

/-- The wake's start changes the TPC's state alone. -/
theorem State.startAsked_tile : (s.startAsked t).tile t = { s.tile t with tpc := ((s.startAsked t).tile t).tpc } := by
  unfold State.startAsked
  split
  · rw [State.tile_wr, State.tile_onTile]
  · rfl

theorem State.startAsked_waking (hoff : s.flag F.TPC_STATUS_WAKING t.val = false) : (s.startAsked t).flag F.TPC_STATUS_WAKING t.val = true ↔
    (s.tile t).tpc.full = true ∨ (s.tile t).tpc.mem = true ∨ (s.tile t).launches ≠ [] := by
  have hcond : ((s.tile t).tpc.full || (s.tile t).tpc.mem || decide ((s.tile t).launches ≠ [])) = true ↔
      (s.tile t).tpc.full = true ∨ (s.tile t).tpc.mem = true ∨ (s.tile t).launches ≠ [] := by simp [or_assoc]
  rw [← hcond]
  unfold State.startAsked
  split
  case isTrue h =>
    rw [State.flag, State.rd_wr_same]
    exact iff_of_true rfl h
  case isFalse h => exact iff_of_false (ne_true_of_eq_false hoff) h

theorem execPowerEntryComplete_low (hin : s.flag F.TPC_STATUS_ENTERING t.val = true) (htarget : (s.tile t).tpc.target < 4) :
    s.gives (.powerEntryComplete t) ((s.asleep t).startAsked t) :=
  congrArg (ok s) ((if_neg (by rw [hin]; decide)).trans (if_neg (by omega)))

/-! ### Wakes -/

theorem State.wakeTile_none {full : Bool} (h : s.rd F.TPC_STATUS_STATE t.val = 4 ∨ (s.rd F.TPC_STATUS_STATE t.val = 0 ∧ s.flag F.TPC_STATUS_ENTERING t.val = false) ∨
    (full = false ∧ s.flag F.TPC_STATUS_ENTERING t.val = false ∧ s.flag F.TPC_STATUS_MEMWAKE t.val = true)) : s.wakeTile t full = s := by
  refine if_pos ?_
  rcases h with h | ⟨h, he⟩ | ⟨hf, he, hm⟩
  · simp [h]
  · simp [h, he]
  · simp [hf, he, hm]

/-- The wake asked for is noted. -/
def State.wakeAsked (s : State) (t : Fin 8) (full : Bool) : State :=
  s.onTile t (fun x => { x with tpc := { x.tpc with full := x.tpc.full || full, mem := x.tpc.mem || !full } })

theorem State.wakeTile_entering {full : Bool} (hon : s.rd F.TPC_STATUS_STATE t.val ≠ 4) (hin : s.flag F.TPC_STATUS_ENTERING t.val = true) :
    s.wakeTile t full = s.wakeAsked t full :=
  (if_neg (by simp [hon, hin])).trans (if_pos hin)

theorem State.wakeTile_starts {full : Bool} (hlow : 1 ≤ s.rd F.TPC_STATUS_STATE t.val) (hhigh : s.rd F.TPC_STATUS_STATE t.val ≤ 3)
    (hquiet : s.flag F.TPC_STATUS_ENTERING t.val = false) (hneeds : full = true ∨ s.flag F.TPC_STATUS_MEMWAKE t.val = false) :
    s.wakeTile t full = (s.wakeAsked t full).wr F.TPC_STATUS_WAKING t.val 1 := by
  refine (if_neg ?_).trans (if_neg (by rw [hquiet]; decide))
  have h4 : s.rd F.TPC_STATUS_STATE t.val ≠ 4 := by omega
  have h0 : s.rd F.TPC_STATUS_STATE t.val ≠ 0 := by omega
  rcases hneeds with h | h <;> simp [h, h4, h0]

theorem State.wakeDone_stays (h : s.flag F.TPC_STATUS_WAKING t.val = false ∨ s.rd F.TPC_STATUS_STATE t.val = 4) : s.wakeDone t = s :=
  if_pos (by rcases h with h | h <;> simp [h])

/-- The wake is over. -/
def State.wakeOver (s : State) (t : Fin 8) : State := (s.wr F.TPC_STATUS_WAKING t.val 0).onTile t (fun x => { x with tpc := .reset })

theorem State.wakeOver_result : (s.wakeOver t).rd F.TPC_STATUS_WAKING t.val = 0 ∧ (s.wakeOver t).tile t = { s.tile t with tpc := .reset } :=
  ⟨State.rd_wr_same s F.TPC_STATUS_WAKING t.val 0 0, State.tile_onTile _ t _⟩

theorem State.rd_wakeOver {f : Fld} (hf : F.TPC_STATUS_WAKING.apart f = true) : (s.wakeOver t).rd f t.val = s.rd f t.val := State.rd_wr_apart (s := s) hf 0

/-- The whole tile is awake. -/
def State.toRun (s : State) (t : Fin 8) : State := ((s.wakeOver t).wr F.TPC_STATUS_STATE t.val 0).wr F.TPC_STATUS_MEMWAKE t.val 0

section Done
variable (hw : s.flag F.TPC_STATUS_WAKING t.val = true) (hon : s.rd F.TPC_STATUS_STATE t.val < 4)
include hw hon

theorem State.wakeDone_full (hfull : (s.tile t).tpc.full = true) :
    s.wakeDone t = if 2 ≤ s.rd F.TPC_STATUS_STATE t.val then (s.toRun t).count F.TPC_CNT_WAKE_COUNT t.val 1 else s.toRun t := by
  have h4 : s.rd F.TPC_STATUS_STATE t.val ≠ 4 := by omega
  exact (if_neg (by simp [hw, h4])).trans (if_pos hfull)

theorem State.wakeDone_mem (hmem : (s.tile t).tpc.full = false) : s.wakeDone t = (s.wakeOver t).wr F.TPC_STATUS_MEMWAKE t.val 1 := by
  have h4 : s.rd F.TPC_STATUS_STATE t.val ≠ 4 := by omega
  exact (if_neg (by simp [hw, h4])).trans (if_neg (by rw [hmem]; decide))

end Done

theorem State.toRun_result : (s.toRun t).rd F.TPC_STATUS_STATE t.val = 0 ∧ (s.toRun t).rd F.TPC_STATUS_MEMWAKE t.val = 0 ∧
    (s.toRun t).rd F.TPC_STATUS_WAKING t.val = 0 ∧ (s.toRun t).rd F.TPC_CNT_WAKE_COUNT t.val = s.rd F.TPC_CNT_WAKE_COUNT t.val ∧
    (s.toRun t).tile t = { s.tile t with tpc := .reset } := by
  unfold State.toRun
  obtain ⟨hwaking, htile⟩ := State.wakeOver_result (s := s) (t := t)
  refine ⟨?_, State.rd_wr_same _ _ _ _ 0, ?_, ?_, ?_⟩
  · rw [State.rd_wr_apart (by decide), State.rd_wr_same]
    rfl
  · rw [State.rd_wr_apart (by decide), State.rd_wr_apart (by decide), hwaking]
  · rw [State.rd_wr_apart (by decide), State.rd_wr_apart (by decide), State.rd_wakeOver (by decide)]
  · rw [State.tile_wr, State.tile_wr, htile]

/-- State u of a tile in Run after its wake. -/
def State.wokeFull (s u : State) (t : Fin 8) : Prop :=
  u.flag F.TPC_STATUS_WAKING t.val = false ∧ u.tile t = { s.tile t with tpc := .reset } ∧ u.rd F.TPC_STATUS_STATE t.val = 0 ∧
  u.flag F.TPC_STATUS_MEMWAKE t.val = false ∧ u.rd F.TPC_CNT_WAKE_COUNT t.val =
    if 2 ≤ s.rd F.TPC_STATUS_STATE t.val then min (s.rd F.TPC_CNT_WAKE_COUNT t.val + 1) (2 ^ F.TPC_CNT_WAKE_COUNT.w - 1) else s.rd F.TPC_CNT_WAKE_COUNT t.val

theorem State.wakeDone_wokeFull (hw : s.flag F.TPC_STATUS_WAKING t.val = true) (hon : s.rd F.TPC_STATUS_STATE t.val < 4)
    (hfull : (s.tile t).tpc.full = true) : s.wokeFull (s.wakeDone t) t := by
  obtain ⟨hstate, hmem, hwaking, hcount, htile⟩ := State.toRun_result (s := s) (t := t)
  rw [State.wakeDone_full hw hon hfull]
  unfold State.wokeFull State.flag
  by_cases h2 : 2 ≤ s.rd F.TPC_STATUS_STATE t.val
  · rw [if_pos h2, if_pos h2, State.rd_count_apart (by decide), State.rd_count_apart (by decide), State.rd_count_apart (by decide), State.rd_count_same,
      hstate, hmem, hwaking, hcount, State.tile_count]
    exact ⟨rfl, htile, rfl, rfl, rfl⟩
  · rw [if_neg h2, if_neg h2, hstate, hmem, hwaking, hcount]
    exact ⟨rfl, htile, rfl, rfl, rfl⟩

theorem State.wakeDone_wokeMem (hw : s.flag F.TPC_STATUS_WAKING t.val = true) (hon : s.rd F.TPC_STATUS_STATE t.val < 4)
    (hfull : (s.tile t).tpc.full = false) : (s.wakeDone t).flag F.TPC_STATUS_WAKING t.val = false ∧ (s.wakeDone t).tile t = { s.tile t with tpc := .reset } ∧
    (s.wakeDone t).rd F.TPC_STATUS_STATE t.val = s.rd F.TPC_STATUS_STATE t.val ∧ (s.wakeDone t).flag F.TPC_STATUS_MEMWAKE t.val = true := by
  rw [State.wakeDone_mem hw hon hfull]
  unfold State.flag
  rw [State.rd_wr_apart (by decide), State.rd_wr_apart (by decide), State.rd_wr_same, State.wakeOver_result.1, State.rd_wakeOver (by decide), State.tile_wr,
    State.wakeOver_result.2]
  exact ⟨rfl, rfl, rfl, rfl⟩

/-! ### Off and On (R368) -/

theorem execTpcOff_refuses (h : s.tpcQuiet t = false ∨ (s.rd F.TPC_STATUS_STATE t.val ≠ 4 ∧ s.tileIdle t = false)) :
    s.gives (.tpcOff 0 t) (s.wr F.TPC_STATUS_CMDREJ t.val 1) := by
  have hnone : s.tpcOff t byDirect = none := by
    rcases h with h | ⟨h4, h⟩
    · exact (if_neg (by simp [h])).trans (if_neg (by simp [h]))
    · exact (if_neg (by simp [h4])).trans (if_neg (by simp [h]))
  exact congrArg (ok s) ((if_neg (by decide)).trans (by rw [hnone]; rfl))

theorem execTpcOff_enters (h4 : s.rd F.TPC_STATUS_STATE t.val ≠ 4) (hquiet : s.tpcQuiet t = true) (hidle : s.tileIdle t = true) :
    s.gives (.tpcOff 0 t) ((s.enter t 4).tileUsr t.val 0 2) := by
  have hsome : s.tpcOff t byDirect = some ((s.enter t 4).tileUsr t.val 0 2) := (if_neg (by simp [h4])).trans (if_pos (by rw [hquiet, hidle]; rfl))
  exact congrArg (ok s) ((if_neg (by decide)).trans (by rw [hsome]; rfl))

theorem execTpcOff_done (h4 : s.rd F.TPC_STATUS_STATE t.val = 4) (hquiet : s.tpcQuiet t = true) : s.gives (.tpcOff 0 t) s := by
  have hsome : s.tpcOff t byDirect = some s := if_pos ⟨h4, hquiet⟩
  exact congrArg (ok s) ((if_neg (by decide)).trans (by rw [hsome]; rfl))

theorem execTpcOn_powers (h4 : s.rd F.TPC_STATUS_STATE t.val = 4) (hquiet : s.tpcQuiet t = true) (hfree : (s.tile t).resetting = false)
    (hwarm : s.pins.cold = false) : s.gives (.tpcOn 0 t) ((s.wr F.TPC_STATUS_WAKING t.val 1).tileUsr t.val 1 2) := by
  have hsome : s.tpcOn t byDirect = some ((s.wr F.TPC_STATUS_WAKING t.val 1).tileUsr t.val 1 2) := if_pos (by simp [h4, hquiet, State.moss, hwarm])
  exact congrArg (ok s) ((if_neg (by decide)).trans ((if_neg (by rw [hfree]; decide)).trans (by rw [hsome]; rfl)))

theorem execTpcOn_stays (h : s.rd F.TPC_STATUS_STATE t.val ≠ 4 ∨ s.tpcQuiet t = false) (hfree : (s.tile t).resetting = false) : s.gives (.tpcOn 0 t) s := by
  have hnone : s.tpcOn t byDirect = none := if_neg (by rcases h with h | h <;> simp [h])
  exact congrArg (ok s) ((if_neg (by decide)).trans ((if_neg (by rw [hfree]; decide)).trans (by rw [hnone]; rfl)))

end Power
end Sys2Proof.Machine
end

section
/-! SUPPORT. Proofs about a tile's power-up, and what resets and Off take out of the registers and of memory (R368, R459). -/
namespace Sys2Proof.Machine

/-! ### Registers and memory taken out -/

/-- What a map that keeps some keys holds. -/
theorem SMap.find_filter {β : Type} (m : SMap β) (p : Nat → Bool) (k : Nat) :
    SMap.find? (m.filter (fun e => p e.1)) k = if p k then m.find? k else none := by
  induction m with
  | nil => simp [SMap.find?]
  | cons e m ih =>
    obtain ⟨i, v⟩ := e
    by_cases hi : p i
    · rw [List.filter_cons_of_pos (by exact hi), SMap.find?, SMap.find?, ih]
      by_cases hk : k = i
      · rw [if_pos hk, if_pos hk, hk, if_pos hi]
      · rw [if_neg hk, if_neg hk]
    · rw [List.filter_cons_of_neg (by exact hi), ih, SMap.find?]
      by_cases hk : k = i
      · rw [hk, if_neg hi, if_neg hi]
      · rw [if_neg hk]

section Clear
variable {s : State} {g : Fld}

/-- Lost memory reads 0 and the rest stands. -/
theorem State.getD_dropMem (p : Region → Bool) (a : Nat) : (s.dropMem p).mem.getD a 0 = if p (deviceRegion a) then 0 else s.mem.getD a 0 := by
  have hfind := SMap.find_filter s.mem (fun k => !p (deviceRegion k)) a
  unfold State.dropMem SMap.getD
  dsimp only
  rw [hfind]
  cases p (deviceRegion a) <;> rfl

theorem Fld.key_block (f : Fld) (hlo : f.lo < 64) (i x : Nat) : f.key i x / 67108864 = f.blk.num * 32 + i % 32 := by
  unfold Fld.key
  have := Nat.mod_lt (f.off + f.stride * x) (show 0 < 1048576 by decide)
  omega

/-- A block's reset leaves the other blocks' registers. -/
theorem State.rd_clearBlk {b : Blk} {inst : Nat} (keep : Nat → Bool) (hinst : inst < 32) (hg : g.lo < 64) (hblk : b.num ≠ g.blk.num) (i x : Nat) :
    (s.clearBlk b inst keep).rd g i x = s.rd g i x := by
  have hfind := SMap.find_filter s.regs (fun k => !(decide (k / 67108864 = b.num * 32 + inst) && !keep (keyOff k))) (g.key i x)
  unfold State.clearBlk State.rd SMap.getD
  dsimp only
  rw [hfind, if_pos]
  have hne : g.key i x / 67108864 ≠ b.num * 32 + inst := by
    rw [Fld.key_block g hg]
    omega
  simp [hne]

/-- So do the resets of several. -/
theorem State.rd_clearBlks {l : List Blk} {keep : Blk → Nat → Bool} {inst : Nat} (hinst : inst < 32) (hg : g.lo < 64)
    (hblk : ∀ b ∈ l, b.num ≠ g.blk.num) (s : State) (i x : Nat) : (l.foldl (fun s b => s.clearBlk b inst (keep b)) s).rd g i x = s.rd g i x := by
  induction l generalizing s with
  | nil => rfl
  | cons b l ih =>
    rw [List.foldl_cons, ih fun c hc => hblk c (List.mem_cons_of_mem _ hc), State.rd_clearBlk (keep b) hinst hg (hblk b List.mem_cons_self)]

end Clear

/-! ### Units' states -/

section Units
variable {s : State} {t st cause : Nat}

/-- State b is a but for registers, the lost units, and Fenreeve's own state. -/
def State.unitsOnly (a b : State) : Prop := b = { a with regs := b.regs, flt := b.flt, frv := b.frv }

theorem State.unitsOnly_trans {a b c : State} (h : a.unitsOnly b) (g : b.unitsOnly c) : a.unitsOnly c := by
  unfold State.unitsOnly at h g ⊢
  rw [g, h]

theorem State.unitsOnly_usrTo (s : State) (u st owner cause : Nat) : s.unitsOnly (s.usrTo u st owner cause) := by
  unfold State.unitsOnly
  rw [State.usrTo_rest]

theorem State.unitsOnly_tileUsr (s : State) (t st cause : Nat) : s.unitsOnly (s.tileUsr t st cause) := by
  have hfirst : s.unitsOnly (s.usrState t st cause) := State.unitsOnly_usrTo _ _ _ _ _
  unfold State.tileUsr
  dsimp only
  split
  · split
    · exact hfirst
    · exact State.unitsOnly_trans hfirst (State.unitsOnly_usrTo _ _ _ _ _)
  · split
    · exact State.unitsOnly_trans hfirst (State.unitsOnly_usrTo _ _ _ _ _)
    · split
      · refine State.unitsOnly_trans hfirst (State.unitsOnly_trans ?_ (State.unitsOnly_usrTo _ _ _ _ _))
        exact rfl
      · exact hfirst

theorem State.rd_tileUsr {g : Fld} (hg : F.FRV_USR_STATE.foreign g = true) (i x : Nat) : (s.tileUsr t st cause).rd g i x = s.rd g i x := by
  unfold State.tileUsr State.usrState
  dsimp only
  split
  · split
    · exact State.rd_usrTo hg _ _ _ _ _ _
    · rw [State.rd_usrTo hg, State.rd_usrTo hg]
  · split
    · rw [State.rd_usrTo hg, State.rd_usrTo hg]
    · split
      · rw [State.rd_usrTo hg]
        exact State.rd_usrTo hg _ _ _ _ _ _
      · exact State.rd_usrTo hg _ _ _ _ _ _

theorem State.mem_tileUsr : (s.tileUsr t st cause).mem = s.mem := by rw [State.unitsOnly_tileUsr s t st cause]

theorem State.tile_tileUsr (u : Fin 8) : (s.tileUsr t st cause).tile u = s.tile u := by rw [State.unitsOnly_tileUsr s t st cause]; rfl

end Units

/-! ### Power-up (R368) -/

section PowerUp
variable {s : State} {t : Fin 8}

theorem State.rd_tpcFresh {g : Fld} (hg : F.TPC_STATUS_STATE.foreign g = true) (i x : Nat) : (s.tpcFresh t).rd g i x = s.rd g i x := by
  have hblk (f : Fld) (hf : f.blk = .tpc) (hlo : f.lo < 64) : f.foreign g = true := by
    simp only [Fld.foreign, Bool.and_eq_true, decide_eq_true_eq] at hg ⊢
    obtain ⟨⟨-, hglo⟩, hne⟩ := hg
    exact ⟨⟨hlo, hglo⟩, by rw [hf]; exact hne⟩
  simp only [State.tpcFresh, State.wrs_cons, State.wrs_nil]
  rw [State.rd_wr_foreign (hblk _ rfl (by decide)), State.rd_wr_foreign (hblk _ rfl (by decide)), State.rd_wr_foreign (hblk _ rfl (by decide)),
    State.rd_wr_foreign (hblk _ rfl (by decide)), State.rd_wr_foreign (hblk _ rfl (by decide)), State.rd_wr_foreign (hblk _ rfl (by decide))]

/-- A tile's blocks take their reset values. -/
def State.blksFresh (s : State) (t : Fin 8) : State := tileBlks.foldl (fun s b => s.clearBlk b t.val (keptOff b)) (s.tpcFresh t)

theorem State.blksFresh_rest : s.blksFresh t = { s with regs := (s.blksFresh t).regs } := by
  have hclear (l : List Blk) (a : State) : l.foldl (fun s b => s.clearBlk b t.val (keptOff b)) a =
      { a with regs := (l.foldl (fun s b => s.clearBlk b t.val (keptOff b)) a).regs } := by
    induction l generalizing a with
    | nil => rfl
    | cons b l ih =>
      rw [List.foldl_cons, ih]
      rfl
  exact hclear tileBlks (s.tpcFresh t)

theorem State.tileFresh_eq : s.tileFresh t = (((s.blksFresh t).wr F.VSU_NAN_STATUS_HALTED t.val 0).wr F.VSU_NAN_STATUS_FEN_STOP t.val 0).setTile t .reset := rfl

theorem State.tileFresh_mem : (s.tileFresh t).mem = s.mem := by
  rw [State.tileFresh_eq, State.setTile_mem, State.wr_mem, State.wr_mem, State.blksFresh_rest]

theorem State.tileFresh_tile : (s.tileFresh t).tile t = .reset := by rw [State.tileFresh_eq, State.tile_setTile]

theorem State.rd_blksFresh {g : Fld} (hg : F.TPC_STATUS_STATE.foreign g = true) (hlo : g.lo < 64) (hblk : ∀ b ∈ tileBlks, b.num ≠ g.blk.num) (i x : Nat) :
    (s.blksFresh t).rd g i x = s.rd g i x := by
  rw [State.blksFresh, State.rd_clearBlks (by omega) hlo hblk, State.rd_tpcFresh hg]

theorem State.rd_setTile (x : Tile) (g : Fld) (i y : Nat) : (s.setTile t x).rd g i y = s.rd g i y := rfl

/-- A tile reset leaves the registers of the FLT. -/
theorem State.tileFresh_fenstop : (s.tileFresh t).rd F.FLT_STATUS_FENSTOP 0 = s.rd F.FLT_STATUS_FENSTOP 0 := by
  rw [State.tileFresh_eq, State.rd_setTile, State.rd_wr_foreign (by decide), State.rd_wr_foreign (by decide),
    State.rd_blksFresh (by decide) (by decide) (by decide)]

theorem State.rd_dropMem (p : Region → Bool) (g : Fld) (i x : Nat) : (s.dropMem p).rd g i x = s.rd g i x := rfl

theorem State.tile_dropMem (p : Region → Bool) (u : Fin 8) : (s.dropMem p).tile u = s.tile u := rfl

/-- A tile comes up in the state of a tile reset, before a Fen stop is looked at. -/
def State.cameUp (s : State) (t : Fin 8) : State :=
  ((((s.tileFresh t).dropMem (Region.ofTile t.val)).wrs t.val 0 [(F.TPC_STATUS_STATE, 0), (F.TPC_STATUS_WAKING, 0), (F.TPC_STATUS_MEMWAKE, 0)]).count
    F.TPC_CNT_WAKE_COUNT t.val 1).tileUsr t.val uOnline byPath

theorem State.cameUp_state : (s.cameUp t).rd F.TPC_STATUS_STATE t.val = 0 ∧ (s.cameUp t).rd F.TPC_STATUS_WAKING t.val = 0 := by
  unfold State.cameUp
  rw [State.rd_tileUsr (by decide), State.rd_tileUsr (by decide), State.rd_count_apart (by decide), State.rd_count_apart (by decide)]
  simp only [State.wrs_cons, State.wrs_nil]
  rw [State.rd_wr_apart (f := F.TPC_STATUS_MEMWAKE) (by decide), State.rd_wr_apart (f := F.TPC_STATUS_WAKING) (by decide), State.rd_wr_same,
    State.rd_wr_apart (f := F.TPC_STATUS_MEMWAKE) (by decide), State.rd_wr_same]
  exact ⟨rfl, rfl⟩

theorem State.cameUp_mem : (s.cameUp t).mem = ((s.tileFresh t).dropMem (Region.ofTile t.val)).mem := by
  unfold State.cameUp
  rw [State.mem_tileUsr, State.count_mem]
  simp only [State.wrs_cons, State.wrs_nil]
  rw [State.wr_mem, State.wr_mem, State.wr_mem]

theorem State.cameUp_tile : (s.cameUp t).tile t = .reset := by
  unfold State.cameUp
  rw [State.tile_tileUsr, State.tile_count]
  simp only [State.wrs_cons, State.wrs_nil]
  rw [State.tile_wr, State.tile_wr, State.tile_wr, State.tile_dropMem, State.tileFresh_tile]

theorem State.cameUp_fenstop : (s.cameUp t).rd F.FLT_STATUS_FENSTOP 0 = s.rd F.FLT_STATUS_FENSTOP 0 := by
  unfold State.cameUp
  rw [State.rd_tileUsr (by decide), State.rd_count_foreign (by decide)]
  simp only [State.wrs_cons, State.wrs_nil]
  rw [State.rd_wr_foreign (by decide), State.rd_wr_foreign (by decide), State.rd_wr_foreign (by decide), State.rd_dropMem, State.tileFresh_fenstop]

/-- A halt by a Fen stop leaves the registers of the TPC, and memory. -/
theorem State.rd_underStop {g : Fld} (hg : F.VSU_NAN_STATUS_HALTED.foreign g = true) (i x : Nat) : (s.underStop t).rd g i x = s.rd g i x := by
  have hstop : F.VSU_NAN_STATUS_FEN_STOP.foreign g = true := by
    simp only [Fld.foreign, Bool.and_eq_true, decide_eq_true_eq] at hg ⊢
    obtain ⟨⟨-, hglo⟩, hne⟩ := hg
    exact ⟨⟨by decide, hglo⟩, hne⟩
  unfold State.underStop
  split
  · exact (State.rd_wr_foreign hstop 1 i x).trans (State.rd_wr_foreign hg 1 i x)
  · rfl

theorem State.mem_underStop : (s.underStop t).mem = s.mem := by
  unfold State.underStop
  split <;> rfl

/-- State u of a tile that has come up. -/
def State.poweredUp (s u : State) (t : Fin 8) : Prop :=
  u.rd F.TPC_STATUS_STATE t.val = 0 ∧ u.flag F.TPC_STATUS_WAKING t.val = false ∧
  (∀ a, deviceRegion a = .peat t.val ∨ deviceRegion a = .mere t.val → u.mem.getD a 0 = 0) ∧
  (∀ a, deviceRegion a ≠ .peat t.val → deviceRegion a ≠ .mere t.val → u.mem.getD a 0 = s.mem.getD a 0) ∧
  (s.flag F.FLT_STATUS_FENSTOP 0 = false → u.tile t = .reset)

theorem State.ofTile_iff {r : Region} : Region.ofTile t.val r = true ↔ r = .peat t.val ∨ r = .mere t.val := by
  cases r <;> simp [Region.ofTile]

theorem State.cameUp_poweredUp : s.poweredUp ((s.cameUp t).underStop t) t := by
  have hmem (a : Nat) : ((s.cameUp t).underStop t).mem.getD a 0 = if Region.ofTile t.val (deviceRegion a) then 0 else s.mem.getD a 0 := by
    rw [State.mem_underStop, State.cameUp_mem, State.getD_dropMem, State.tileFresh_mem]
  refine ⟨(State.rd_underStop (by decide) _ _).trans State.cameUp_state.1, ?_, fun a ha => ?_, fun a hpeat hmere => ?_, fun hstop => ?_⟩
  · rw [State.flag, State.rd_underStop (by decide), State.cameUp_state.2]
    rfl
  · rw [hmem, if_pos (State.ofTile_iff.mpr ha)]
  · rw [hmem, if_neg fun h => (State.ofTile_iff.mp h).elim hpeat hmere]
  · have hnot : ¬ (s.cameUp t).flag F.FLT_STATUS_FENSTOP 0 = true := by
      rw [State.flag, State.cameUp_fenstop]
      exact ne_true_of_eq_false hstop
    exact (congrArg (State.tile · t) (if_neg hnot)).trans State.cameUp_tile

theorem execTilePowerUpComplete_comes (hoff : s.rd F.TPC_STATUS_STATE t.val = 4) (hw : s.flag F.TPC_STATUS_WAKING t.val = true) :
    s.gives (.tilePowerUpComplete t) ((s.cameUp t).underStop t) := congrArg (ok s) (if_pos ⟨hoff, hw⟩)

end PowerUp

/-! ### The commands -/

section Commands
variable {s : State} {t : Fin 8}

/-- A tile's idleness leads to the state that its command names, or to nothing. -/
theorem State.gives_idle {c : Instr} {target n : Nat} (hc : exec c s = ok s (s.idleTo t target n)) :
    (n = 0 ∨ s.tpcQuiet t = false ∨ s.tileIdle t = false ∨ s.maxDepth t < target ∨ target < s.rd F.TPC_STATUS_STATE t.val ∨
      (s.rd F.TPC_STATUS_STATE t.val = target ∧ s.flag F.TPC_STATUS_MEMWAKE t.val = false) → s.gives c s) ∧
    (n ≠ 0 → s.tpcQuiet t = true → s.tileIdle t = true → target ≤ s.maxDepth t →
      s.rd F.TPC_STATUS_STATE t.val < target ∨ (s.rd F.TPC_STATUS_STATE t.val = target ∧ s.flag F.TPC_STATUS_MEMWAKE t.val = true) →
      s.gives c (s.enter t target)) :=
  ⟨fun h => hc.trans (congrArg (ok s) (State.idleTo_stays h)),
    fun hn hquiet hidle hdepth hstate => hc.trans (congrArg (ok s) (if_pos ⟨hn, hquiet, hidle, hdepth, hstate⟩))⟩

/-- State u of a tile whose entry has ended in a state lighter than Off. -/
def State.entered (s u : State) (t : Fin 8) : Prop :=
  u.rd F.TPC_STATUS_STATE t.val = (s.tile t).tpc.target ∧
  u.flag F.TPC_STATUS_ENTERING t.val = false ∧ u.flag F.TPC_STATUS_MEMWAKE t.val = false ∧ u.mem = s.mem ∧
  (s.flag F.TPC_STATUS_WAKING t.val = false → (u.flag F.TPC_STATUS_WAKING t.val = true ↔
    (s.tile t).tpc.full = true ∨ (s.tile t).tpc.mem = true ∨ (s.tile t).launches ≠ [])) ∧
  ((s.tile t).tpc.target < 3 → (u.tile t).threads = (s.tile t).threads ∧ (u.tile t).dregs = (s.tile t).dregs ∧ (u.tile t).icache = (s.tile t).icache) ∧
  ((s.tile t).tpc.target = 3 → (u.tile t).icache = [] ∧ (u.tile t).tlb = [] ∧ (u.tile t).wcache = [] ∧ (u.tile t).rb = .reset ∧ (u.tile t).ls = (s.tile t).ls ∧
    (∀ h, (s.thr t h).st ≠ .idle → u.thr t h = s.thr t h) ∧ ((s.thr t 0).st ≠ .idle → (u.tile t).dregs = (s.tile t).dregs))

theorem State.startAsked_entered (htarget : (s.tile t).tpc.target < 4) : s.entered ((s.asleep t).startAsked t) t := by
  obtain ⟨hfull, hmem, hlaunch⟩ := State.asleep_asked (s := s) (t := t)
  refine ⟨?_, ?_, ?_, ?_, fun hoff => ?_, fun h3 => ?_, fun h3 => ?_⟩
  · rw [State.startAsked_rd (by decide), State.asleep_rd, State.reached_state (by omega)]
  · rw [State.flag, State.startAsked_rd (by decide), State.asleep_rd, State.reached_entering]
    rfl
  · rw [State.flag, State.startAsked_rd (by decide), State.asleep_rd, State.reached_memwake]
    rfl
  · rw [State.startAsked_mem, State.asleep_mem]
  · rw [State.startAsked_waking (by rwa [State.flag, State.asleep_rd, State.reached_waking]), hfull, hmem, hlaunch]
  · rw [State.startAsked_tile, State.asleep_light (by omega)]
    exact ⟨rfl, rfl, rfl⟩
  · obtain ⟨hic, htlb, hwc, hrb, hls, -, -⟩ := State.sleepLoss_tile (s := s.reached t) (t := t)
    have hthr (h : Fin 4) : (s.reached t).thr t h = s.thr t h := congrArg (Tile.thr · h) State.reached_tile
    unfold State.thr
    rw [State.startAsked_tile, State.asleep_deep h3]
    refine ⟨hic, htlb, hwc, hrb, hls.trans (congrArg Tile.ls State.reached_tile), fun h hbusy => ?_, fun hbusy => ?_⟩
    · exact (State.sleepLoss_thr (by rwa [hthr])).trans (hthr h)
    · exact (State.sleepLoss_dregs (by rwa [hthr])).trans (congrArg Tile.dregs State.reached_tile)

/-- A tile that reaches Off loses what it holds and is a lost party (R431). -/
def State.reachedOff (s : State) (t : Fin 8) : State :=
  (((((s.reached t).onTile t (fun x => { x with tpc := .reset })).killJobs t).tileOff t).tellMembers .notice [1, t.val]).startFence (.tile s.rank t.val) .nothing

theorem execPowerEntryComplete_off (hin : s.flag F.TPC_STATUS_ENTERING t.val = true) (htarget : (s.tile t).tpc.target = 4) :
    s.gives (.powerEntryComplete t) (s.reachedOff t) :=
  congrArg (ok s) ((if_neg (by rw [hin]; decide)).trans (if_pos htarget))

end Commands

/-- Settles O43: each command's test of the power state, with what power-up and Off clear of registers and memory. -/
theorem tilePowerResult : Obligations.TilePowerResult := by
  unfold Obligations.TilePowerResult
  refine ⟨?_, fun t s => ⟨_, s.stopSeen_rest t⟩, fun t s => ⟨fun hout => congrArg (ok s) (if_pos (by rw [hout]; rfl)), fun hin => ?_⟩, fun t full s => ?_, ?_,
    fun t s => ?_⟩
  · simp only [List.forall_mem_cons]
    exact ⟨fun t s => State.gives_idle (c := .tileIdleDoze t) (target := 1) rfl, fun t s => State.gives_idle (c := .tileIdleNap t) (target := 2) rfl,
      fun t s => State.gives_idle (c := .tileIdleSleep t) (target := 3) rfl, fun _ h => absurd h List.not_mem_nil⟩
  · intro s1
    exact ⟨execPowerEntryComplete_off hin, fun hlow =>
      (execPowerEntryComplete_low hin hlow).next_of (P := fun u => s.entered u t) (State.startAsked_entered hlow) fun _ _ h => h⟩
  · refine ⟨fun h => congrArg (ok s) (State.wakeTile_none (h.imp_right .inl)), fun hlow hhigh hquiet =>
        ⟨fun hneeds => congrArg (ok s) (State.wakeTile_starts hlow hhigh hquiet hneeds), fun hf hm => congrArg (ok s) (State.wakeTile_none (.inr (.inr ⟨hf, hquiet, hm⟩)))⟩,
      fun hon hin => congrArg (ok s) (State.wakeTile_entering hon hin), fun h => congrArg (ok s) (State.wakeDone_stays h), fun hw hon => ?_⟩
    have hgives : s.gives (.tileWakeComplete t) (s.wakeDone t) := rfl
    cases hfull : (s.tile t).tpc.full with
    | true =>
      obtain ⟨hwaking, htile, hstate, hmem, hcount⟩ := State.wakeDone_wokeFull hw hon hfull
      exact ⟨_, hgives, hwaking, htile, fun _ => ⟨hstate, hmem, hcount⟩, fun h => Bool.noConfusion h⟩
    | false =>
      obtain ⟨hwaking, htile, hstate, hmem⟩ := State.wakeDone_wokeMem hw hon hfull
      exact ⟨_, hgives, hwaking, htile, fun h => Bool.noConfusion h, fun _ => ⟨hstate, hmem⟩⟩
  · intro fn t s hfn
    exact ⟨congrArg (ok s) (if_pos hfn), congrArg (ok s) (if_pos hfn), congrArg (ok s) (if_pos hfn)⟩
  · refine ⟨fun hres => ⟨congrArg (ok s) ((if_neg (by decide)).trans (if_pos hres)), congrArg (ok s) ((if_neg (by decide)).trans (if_pos hres))⟩,
      fun hfree => congrArg (ok s) ((if_neg (by decide)).trans (if_neg (by rw [hfree]; decide))), execTpcOff_refuses, execTpcOff_enters,
      fun h4 hquiet => ⟨execTpcOff_done h4 hquiet, execTpcOn_powers h4 hquiet⟩, execTpcOn_stays, fun hnot => congrArg (ok s) (if_neg fun h => ?_), fun hoff hw =>
        (execTilePowerUpComplete_comes hoff hw).next_of (P := fun u => s.poweredUp u t) State.cameUp_poweredUp fun _ _ h => h⟩
    rcases hnot with h4 | hw
    · exact h4 h.1
    · exact ne_true_of_eq_false hw h.2

end Sys2Proof.Machine
end

section
/-! SUPPORT. Proofs about fabric regions, stacks and the PCM (R363, R369, R370, R485). -/
namespace Sys2Proof.Machine

/-! ### Fabric regions -/

section Fabric
variable {s : State} {i : Nat}

/-- The regions gated once region i is, too. -/
def gateBit (g i : Nat) : Nat := if bits g i 1 = 1 then g else g + 2 ^ i

/-- The regions gated once region i runs. -/
def ungateBit (g i : Nat) : Nat := if bits g i 1 = 1 then g - 2 ^ i else g

theorem bits_gateBit : ∀ g < 32, ∀ i < 5, gateBit g i < 32 ∧ ∀ j < 5, bits (gateBit g i) j 1 = if j = i then 1 else bits g j 1 := by decide

theorem bits_ungateBit : ∀ g < 32, ∀ i < 5, ungateBit g i < 32 ∧ ∀ j < 5, bits (ungateBit g i) j 1 = if j = i then 0 else bits g j 1 := by decide

/-- The PCM's record of the regions gated, and of the PLL. -/
def State.gatedTo (s : State) (g p : Nat) : State := (s.wr F.PCM_STATUS_FABGATED 0 g).wr F.PCM_STATUS_FPLL_OFF 0 p

theorem State.gatedTo_result (g p : Nat) : (s.gatedTo g p).rd F.PCM_STATUS_FABGATED 0 = g % 32 ∧ (s.gatedTo g p).rd F.PCM_STATUS_FPLL_OFF 0 = p % 2 := by
  unfold State.gatedTo
  rw [State.rd_wr_apart (by decide), State.rd_wr_same, State.rd_wr_same]
  exact ⟨rfl, rfl⟩

theorem State.gatedTo_rest (g p : Nat) : (s.gatedTo g p).mem = s.mem ∧ (s.gatedTo g p).tiles = s.tiles := ⟨rfl, rfl⟩

theorem State.ungate_eq : s.ungate i = s.gatedTo (ungateBit (s.rd F.PCM_STATUS_FABGATED 0) i) 0 := rfl

/-- A region's gating. -/
def State.gateOff (s : State) (i : Nat) : State :=
  s.gatedTo (gateBit (s.rd F.PCM_STATUS_FABGATED 0) i) (if gateBit (s.rd F.PCM_STATUS_FABGATED 0) i = 31 then 1 else 0)

theorem execFabricRegionIdle_gates {i : Fin 5} (h : i.val ≠ 4 ∨ s.fb4Needed = false) : s.gives (.fabricRegionIdle i) (s.gateOff i.val) := by
  refine congrArg (ok s) (if_neg ?_)
  rintro ⟨h4, hneeded⟩
  rcases h with h | h
  · exact h h4
  · exact ne_true_of_eq_false h hneeded

theorem State.gateOff_result {i : Nat} (hi : i < 5) (hg : s.rd F.PCM_STATUS_FABGATED 0 < 32) :
    (∀ j, j < 5 → bits ((s.gateOff i).rd F.PCM_STATUS_FABGATED 0) j 1 = if j = i then 1 else bits (s.rd F.PCM_STATUS_FABGATED 0) j 1) ∧
    ((s.gateOff i).flag F.PCM_STATUS_FPLL_OFF 0 = true ↔ (s.gateOff i).rd F.PCM_STATUS_FABGATED 0 = 31) := by
  obtain ⟨hlt, hbits⟩ := bits_gateBit _ hg i hi
  unfold State.gateOff State.flag
  rw [(State.gatedTo_result _ _).1, (State.gatedTo_result _ _).2, Nat.mod_eq_of_lt hlt]
  refine ⟨hbits, ?_⟩
  by_cases h31 : gateBit (s.rd F.PCM_STATUS_FABGATED 0) i = 31
  · rw [if_pos h31]
    exact iff_of_true rfl h31
  · rw [if_neg h31]
    exact iff_of_false (by decide) h31

theorem State.ungate_result {i : Nat} (hi : i < 5) (hg : s.rd F.PCM_STATUS_FABGATED 0 < 32) :
    ∀ j, j < 5 → bits ((s.ungate i).rd F.PCM_STATUS_FABGATED 0) j 1 = if j = i then 0 else bits (s.rd F.PCM_STATUS_FABGATED 0) j 1 := by
  obtain ⟨hlt, hbits⟩ := bits_ungateBit _ hg i hi
  rw [State.ungate_eq, (State.gatedTo_result _ _).1, Nat.mod_eq_of_lt hlt]
  exact hbits

theorem State.ungate_pll : (s.ungate i).flag F.PCM_STATUS_FPLL_OFF 0 = false := by
  rw [State.ungate_eq, State.flag, (State.gatedTo_result _ _).2]
  rfl

theorem State.rd_ungate {g : Fld} (hg : F.PCM_STATUS_FABGATED.foreign g = true) (j x : Nat) : (s.ungate i).rd g j x = s.rd g j x := by
  have hpll : F.PCM_STATUS_FPLL_OFF.foreign g = true := by
    simp only [Fld.foreign, Bool.and_eq_true, decide_eq_true_eq] at hg ⊢
    obtain ⟨⟨-, hglo⟩, hne⟩ := hg
    exact ⟨⟨by decide, hglo⟩, hne⟩
  rw [State.ungate_eq, State.gatedTo, State.rd_wr_foreign hpll, State.rd_wr_foreign hg]

end Fabric

/-! ### Stacks (R363, R409) -/

section Stacks
variable {s : State} {k : Fin 8}

theorem State.usr_stackUp (u : Nat) : (s.stackUp k.val).usr u = s.usr u := by
  rw [State.usr, State.stackUp, State.rd_ungate (by decide), State.rd_wr_foreign (by decide), State.usr]

theorem execHbmTrainingComplete_good (hst : s.rd F.HMC_STATUS_STATE k.val = 1) (h : s.usr (8 + k.val) = 1) :
    s.gives (.hbmTrainingComplete k true) ((s.stackUp k.val).usrState (8 + k.val) 2 3) :=
  congrArg (ok s) ((if_neg (not_not_intro hst)).trans ((if_pos rfl).trans (if_pos ((State.usr_stackUp _).trans h))))

theorem execHbmTrainingComplete_idle (hst : s.rd F.HMC_STATUS_STATE k.val = 1) (h : s.usr (8 + k.val) ≠ 1) :
    s.gives (.hbmTrainingComplete k true) (s.stackUp k.val) :=
  congrArg (ok s) ((if_neg (not_not_intro hst)).trans ((if_pos rfl).trans (if_neg fun hup => h ((State.usr_stackUp _).symm.trans hup))))

end Stacks

/-! ### Tables of a register's entries -/

section Tables
variable {s : State} {f g : Fld}

/-- Write the first n entries of a register of eight-byte entries. -/
def State.fill (s : State) (f : Fld) (a : Nat → Nat) (n : Nat) : State := (List.range n).foldl (fun s x => s.wr f 0 (a x) x) s

theorem State.fill_succ (a : Nat → Nat) (n : Nat) : s.fill f a (n + 1) = (s.fill f a n).wr f 0 (a n) n := by
  rw [State.fill, State.fill, List.range_succ, List.foldl_append]
  rfl

theorem State.regsOnly_fill (a : Nat → Nat) (n : Nat) : s.regsOnly (s.fill f a n) := by
  induction n with
  | zero => rfl
  | succ n ih =>
    rw [State.fill_succ]
    exact State.regsOnly_trans ih rfl

/-- A field whose place no entry shares keeps its value. -/
theorem State.rd_fill_off {a : Nat → Nat} {n j y : Nat} (h : ∀ x, x < n → g.key j y ≠ f.key 0 x) : (s.fill f a n).rd g j y = s.rd g j y := by
  induction n with
  | zero => rfl
  | succ n ih => rw [State.fill_succ, State.rd_wr_ne _ _ (h n (by omega)), ih fun x hx => h x (by omega)]

/-- Entries have places of their own. -/
theorem Fld.key_entry_ne {x y : Nat} (hstride : f.stride = 8) (hlo : f.lo < 64) (hoff : f.off + 8 * x < 1048576) (hoff' : f.off + 8 * y < 1048576) (h : x ≠ y)
    (i j : Nat) : f.key i x ≠ f.key j y := by
  refine Fld.key_ne (.inr (.inr (.inl ?_))) hlo hlo
  rw [hstride]
  omega

theorem State.rd_fill (a : Nat → Nat) {n x : Nat} (hstride : f.stride = 8) (hlo : f.lo < 64) (hoff : f.off + 8 * n < 1048576) (hx : x < n) :
    (s.fill f a n).rd f 0 x = a x % 2 ^ f.w := by
  induction n with
  | zero => omega
  | succ n ih =>
    rw [State.fill_succ]
    by_cases hlast : x = n
    · rw [hlast, State.rd_wr_same]
    · rw [State.rd_wr_ne _ _ (Fld.key_entry_ne hstride hlo (by omega) (by omega) hlast 0 0), ih (by omega) (by omega)]

end Tables

/-! ### Samples (R369, R370) -/

section Sample
variable {s : State} {rails : List (Nat × Nat)} {temps uj : List Nat}

/-- Each tile's energy grows and each stack shows its temperature. -/
def State.gauge (s : State) (temps uj : List Nat) (n : Nat) : State :=
  (List.range n).foldl (fun s t => (s.wr F.PCM_ENERGY_UJ 0 (s.rd F.PCM_ENERGY_UJ 0 t + uj.getD t 0) t).wr F.HMC_STATUS_TEMP t (temps.getD (9 + t) 0)) s

theorem State.gauge_succ (n : Nat) : s.gauge temps uj (n + 1) =
    ((s.gauge temps uj n).wr F.PCM_ENERGY_UJ 0 ((s.gauge temps uj n).rd F.PCM_ENERGY_UJ 0 n + uj.getD n 0) n).wr F.HMC_STATUS_TEMP n (temps.getD (9 + n) 0) := by
  rw [State.gauge, State.gauge, List.range_succ, List.foldl_append]
  rfl

theorem State.regsOnly_gauge (n : Nat) : s.regsOnly (s.gauge temps uj n) := by
  induction n with
  | zero => rfl
  | succ n ih =>
    rw [State.gauge_succ]
    exact State.regsOnly_trans ih rfl

/-- A register of the PCM that is no energy stands. -/
theorem State.rd_gauge_pcm {g : Fld} {x : Nat} (hblk : g.blk = .pcm) (hlo : g.lo < 64) (hoff : g.off + g.stride * x < 0x140) {n : Nat} (hn : n ≤ 8) :
    (s.gauge temps uj n).rd g 0 x = s.rd g 0 x := by
  induction n with
  | zero => rfl
  | succ n ih =>
    have hfar : g.key 0 x ≠ F.PCM_ENERGY_UJ.key 0 n := by
      refine Fld.key_ne (.inr (.inr (.inl ?_))) hlo (by decide)
      change _ ≠ (0x140 + 8 * n) % 1048576
      omega
    have hblks : g.key 0 x ≠ F.HMC_STATUS_TEMP.key n 0 := Fld.key_ne (.inl (by rw [hblk]; decide)) hlo (by decide)
    rw [State.gauge_succ, State.rd_wr_ne _ _ hblks, State.rd_wr_ne _ _ hfar, ih (by omega)]

/-- An energy not yet reached stands. -/
theorem State.gauge_energy_next {n x : Nat} (hn : n ≤ 8) (hx : n ≤ x) (hx8 : x < 8) : (s.gauge temps uj n).rd F.PCM_ENERGY_UJ 0 x = s.rd F.PCM_ENERGY_UJ 0 x := by
  induction n with
  | zero => rfl
  | succ n ih =>
    rw [State.gauge_succ, State.rd_wr_foreign (by decide),
      State.rd_wr_ne _ _ (Fld.key_entry_ne rfl (by decide) (show 0x140 + 8 * x < 1048576 by omega) (show 0x140 + 8 * n < 1048576 by omega) (by omega) 0 0),
      ih (by omega) (by omega)]

theorem State.gauge_energy {n x : Nat} (hn : n ≤ 8) (hx : x < n) :
    (s.gauge temps uj n).rd F.PCM_ENERGY_UJ 0 x = (s.rd F.PCM_ENERGY_UJ 0 x + uj.getD x 0) % 2 ^ F.PCM_ENERGY_UJ.w := by
  induction n with
  | zero => omega
  | succ n ih =>
    rw [State.gauge_succ, State.rd_wr_foreign (by decide)]
    by_cases hlast : x = n
    · rw [hlast, State.rd_wr_same, State.gauge_energy_next (by omega) (Nat.le_refl n) (by omega)]
    · rw [State.rd_wr_ne _ _ (Fld.key_entry_ne rfl (by decide) (show 0x140 + 8 * x < 1048576 by omega) (show 0x140 + 8 * n < 1048576 by omega) hlast 0 0),
        ih (by omega) (by omega)]

theorem State.gauge_temp {n x : Nat} (hn : n ≤ 8) (hx : x < n) : (s.gauge temps uj n).rd F.HMC_STATUS_TEMP x = temps.getD (9 + x) 0 % 2 ^ F.HMC_STATUS_TEMP.w := by
  induction n with
  | zero => omega
  | succ n ih =>
    rw [State.gauge_succ]
    by_cases hlast : x = n
    · rw [hlast, State.rd_wr_same]
    · rw [State.rd_wr_ne _ _ (Fld.key_ne (.inr (.inl (by omega))) (by decide) (by decide)), State.rd_wr_foreign (by decide), ih (by omega) (by omega)]

/-- The powers of a sample's rails, in mW. -/
def railPowers (rails : List (Nat × Nat)) : List Nat :=
  (List.range 16).map (fun r => if r = 15 then 0 else ((rails[r]?.getD (0, 0)).1 * (rails[r]?.getD (0, 0)).2) / 1000)

/-- The samples kept, with a new one. -/
def State.samples (s : State) (rails : List (Nat × Nat)) : List (List Nat) := (railPowers rails :: s.pcm).take 2550

/-- The samples averaged. -/
def State.averaged (s : State) : Nat := max 1 (s.rd F.PCM_CTL_AVG_MS 0) * 10

/-- A sample's rails are recorded. -/
def State.railsSeen (s : State) (rails : List (Nat × Nat)) : State :=
  { s with pcm := s.samples rails, pins := { s.pins with rails := (List.range 15).map (fun r => (rails[r]?.getD (0, 0)).2) } }

/-- A sample's powers are recorded. -/
def State.powersSeen (s : State) (rails : List (Nat × Nat)) : State :=
  ((s.railsSeen rails).fill F.PCM_RAIL_MW (fun r => meanOf (railOf (s.samples rails) r) s.averaged) 16).wr F.PCM_POWER_MW 0 (meanOf (totalOf (s.samples rails)) s.averaged)

/-- A sample's powers, energies and temperatures are recorded. -/
def State.sampled (s : State) (rails : List (Nat × Nat)) (temps uj : List Nat) : State :=
  ((s.powersSeen rails).gauge temps uj 8).fill F.PCM_TEMP_DEGC (fun i => temps.getD i 0) 9

/-- A sample asks for throttling. -/
def State.tooHigh (s : State) (rails : List (Nat × Nat)) (temps : List Nat) : Bool :=
  decide (s.rd F.PCM_PLIMIT_WATTS 0 * 1000 < meanOf (totalOf (s.samples rails)) 100) || (temps.take 9).any (fun c => decide (s.rd F.PCM_TLIMIT_DEGC 0 ≤ c))

theorem State.pcmSample_eq : s.pcmSample rails temps uj = ((s.sampled rails temps uj).throttle (s.tooHigh rails temps)).critical (temps.take 17) := rfl

theorem State.regsOnly_sampled : (s.railsSeen rails).regsOnly (s.sampled rails temps uj) := by
  have hpowers : (s.railsSeen rails).regsOnly (s.powersSeen rails) := State.regsOnly_trans (State.regsOnly_fill _ _) rfl
  exact State.regsOnly_trans (State.regsOnly_trans hpowers (State.regsOnly_gauge 8)) (State.regsOnly_fill _ _)

theorem State.regsOnly_throttle (high : Bool) : s.regsOnly (s.throttle high) := rfl

/-- A register of the PCM below the tables of samples keeps its value. -/
theorem State.sampled_rd {g : Fld} (hblk : g.blk = .pcm) (hlo : g.lo < 64) (hoff : g.off + g.stride * 0 < 0x30) : (s.sampled rails temps uj).rd g 0 = s.rd g 0 := by
  have hfar (f : Fld) (hf : f.lo < 64) (x : Nat) (hx : 0x30 ≤ f.off + f.stride * x) (hx' : f.off + f.stride * x < 1048576) : g.key 0 0 ≠ f.key 0 x :=
    Fld.key_ne (.inr (.inr (.inl (by omega)))) hlo hf
  unfold State.sampled
  rw [State.rd_fill_off fun x hx => hfar _ (by decide) x (show 0x30 ≤ 0xc0 + 8 * x by omega) (show 0xc0 + 8 * x < 1048576 by omega),
    State.rd_gauge_pcm hblk hlo (by omega) (Nat.le_refl 8)]
  unfold State.powersSeen
  rw [State.rd_wr_ne _ _ (hfar F.PCM_POWER_MW (by decide) 0 (by decide) (by decide)),
    State.rd_fill_off fun x hx => hfar _ (by decide) x (show 0x30 ≤ 0x40 + 8 * x by omega) (show 0x40 + 8 * x < 1048576 by omega)]
  rfl

theorem State.sampled_power : (s.sampled rails temps uj).rd F.PCM_POWER_MW 0 = meanOf (totalOf (s.samples rails)) s.averaged % 2 ^ F.PCM_POWER_MW.w := by
  unfold State.sampled
  rw [State.rd_fill_off fun x hx => Fld.key_ne (.inr (.inr (.inl (show (0x30 + 0) % 1048576 ≠ (0xc0 + 8 * x) % 1048576 by omega)))) (by decide) (by decide),
    State.rd_gauge_pcm rfl (by decide) (by decide) (Nat.le_refl 8), State.powersSeen, State.rd_wr_same]

theorem State.sampled_temp {i : Nat} (hi : i < 9) : (s.sampled rails temps uj).rd F.PCM_TEMP_DEGC 0 i = temps.getD i 0 % 2 ^ F.PCM_TEMP_DEGC.w :=
  State.rd_fill _ rfl (by decide) (by decide) hi

theorem State.sampled_stack {k : Nat} (hk : k < 8) : (s.sampled rails temps uj).rd F.HMC_STATUS_TEMP k = temps.getD (9 + k) 0 % 2 ^ F.HMC_STATUS_TEMP.w := by
  unfold State.sampled
  rw [State.rd_fill_off fun x hx => Fld.key_ne (.inl (by decide)) (by decide) (by decide), State.gauge_temp (Nat.le_refl 8) hk]

theorem State.sampled_energy {t : Nat} (ht : t < 8) :
    (s.sampled rails temps uj).rd F.PCM_ENERGY_UJ 0 t = (s.rd F.PCM_ENERGY_UJ 0 t + uj.getD t 0) % 2 ^ F.PCM_ENERGY_UJ.w := by
  unfold State.sampled
  rw [State.rd_fill_off fun x hx => Fld.key_ne (.inr (.inr (.inl (show (0x140 + 8 * t) % 1048576 ≠ (0xc0 + 8 * x) % 1048576 by omega)))) (by decide) (by decide),
    State.gauge_energy (Nat.le_refl 8) ht, State.powersSeen,
    State.rd_wr_ne _ _ (Fld.key_ne (.inr (.inr (.inl (show (0x140 + 8 * t) % 1048576 ≠ (0x30 + 0) % 1048576 by omega)))) (by decide) (by decide)),
    State.rd_fill_off fun x hx => Fld.key_ne (.inr (.inr (.inl (show (0x140 + 8 * t) % 1048576 ≠ (0x40 + 8 * x) % 1048576 by omega)))) (by decide) (by decide)]
  rfl

/-! ### Throttling (R370) -/

/-- Throttling changes its two fields. -/
theorem State.rd_throttle {g : Fld} {j x : Nat} (high : Bool) (hd : g.key j x ≠ F.PCM_STATUS_DUTY.key 0 0) (ht : g.key j x ≠ F.PCM_STATUS_THROTTLE.key 0 0) :
    (s.throttle high).rd g j x = s.rd g j x := by
  unfold State.throttle
  dsimp only
  rw [State.rd_wr_ne _ _ ht, State.rd_wr_ne _ _ hd]

theorem State.throttle_high : (s.throttle true).rd F.PCM_STATUS_DUTY 0 = min (s.rd F.PCM_STATUS_DUTY 0 + 1) 63 ∧
    (s.throttle true).flag F.PCM_STATUS_THROTTLE 0 = true := by
  unfold State.throttle State.flag
  dsimp only
  rw [State.rd_wr_apart (by decide), State.rd_wr_same, State.rd_wr_same]
  refine ⟨?_, rfl⟩
  have hw : F.PCM_STATUS_DUTY.w = 6 := rfl
  rw [if_pos rfl, hw]
  omega

theorem State.throttle_low (hd : s.rd F.PCM_STATUS_DUTY 0 < 64) : (s.throttle false).rd F.PCM_STATUS_DUTY 0 = s.rd F.PCM_STATUS_DUTY 0 - 1 ∧
    ((s.throttle false).flag F.PCM_STATUS_THROTTLE 0 = true ↔ 1 < s.rd F.PCM_STATUS_DUTY 0) := by
  unfold State.throttle State.flag
  dsimp only
  rw [State.rd_wr_apart (by decide), State.rd_wr_same, State.rd_wr_same]
  have hw : F.PCM_STATUS_DUTY.w = 6 := rfl
  have hw1 : F.PCM_STATUS_THROTTLE.w = 1 := rfl
  rw [if_neg Bool.false_ne_true, hw, hw1]
  refine ⟨by omega, ?_⟩
  by_cases h : 1 < s.rd F.PCM_STATUS_DUTY 0
  · rw [if_pos (by simp; omega)]
    exact iff_of_true rfl h
  · rw [if_neg (by simp; omega)]
    exact iff_of_false (by decide) h

theorem State.tooHigh_iff : s.tooHigh rails temps = true ↔
    (s.rd F.PCM_PLIMIT_WATTS 0 * 1000 < meanOf (totalOf (s.samples rails)) 100 ∨ ∃ i c, i < 9 ∧ temps[i]? = some c ∧ s.rd F.PCM_TLIMIT_DEGC 0 ≤ c) := by
  unfold State.tooHigh
  rw [Bool.or_eq_true, decide_eq_true_eq, List.any_eq_true]
  refine or_congr_right ⟨fun ⟨c, hc, hle⟩ => ?_, fun ⟨i, c, hi, hc, hle⟩ => ⟨c, ?_, decide_eq_true hle⟩⟩
  · obtain ⟨i, hi⟩ := List.mem_iff_getElem?.mp hc
    rw [List.getElem?_take] at hi
    split at hi
    case isTrue h9 => exact ⟨i, c, h9, hi, of_decide_eq_true hle⟩
    case isFalse => exact absurd hi (by simp)
  · refine List.mem_iff_getElem?.mpr ⟨i, ?_⟩
    rw [List.getElem?_take, if_pos hi, hc]

/-! ### Critical limits -/

/-- The sensors at or above their critical limits. -/
def hotSensors (temps : List Nat) : List (Nat × Nat) := temps.zipIdx.filter (fun p => decide (critLimit p.2 ≤ p.1))

theorem hotSensors_nil {temps : List Nat} (h : ∀ i c, temps[i]? = some c → c < critLimit i) : hotSensors temps = [] := by
  refine List.filter_eq_nil_iff.mpr fun p hp => ?_
  have hlt := h p.2 p.1 (List.mem_zipIdx_iff_getElem?.mp hp)
  simp only [decide_eq_true_eq]
  omega

theorem hotSensors_ne_nil {temps : List Nat} {i c : Nat} (hi : temps[i]? = some c) (hc : critLimit i ≤ c) : hotSensors temps ≠ [] := by
  intro hnil
  have hmem : (c, i) ∈ temps.zipIdx := List.mem_zipIdx_iff_getElem?.mpr hi
  exact List.filter_eq_nil_iff.mp hnil (c, i) hmem (decide_eq_true hc)

theorem State.critical_none (hcool : hotSensors temps = []) (htherm : s.pins.therm = false) : s.critical temps = s := by
  unfold State.critical
  unfold hotSensors at hcool
  rw [hcool]
  exact if_neg (by rw [htherm]; exact Bool.false_ne_true)

/-- A critical temperature is reported and told, and THERMTRIP_L asserted. -/
def State.tripped (s : State) (u : Nat) : State :=
  ((({ s with pins := { s.pins with therm := true } } : State).report 0x30 u 0).tellMembers .notice [0, s.rank]).emit (.other "THERMTRIP" [1])

theorem State.critical_trips (hhot : hotSensors temps ≠ []) (htherm : s.pins.therm = false) : ∃ x, s.critical temps = (s.tripped x).allOff := by
  obtain ⟨p, l, hl⟩ := List.exists_cons_of_ne_nil hhot
  refine ⟨sensorUnit p.2, ?_⟩
  unfold hotSensors at hl
  unfold State.critical
  rw [hl]
  exact if_neg (by rw [htherm]; decide)

end Sample
end Sys2Proof.Machine
end

section
/-! SUPPORT. Proofs about a critical temperature, and the PCM's statement (R363, R369, R370). -/
namespace Sys2Proof.Machine

/-! ### Every tile and stack goes to Off (R370) -/

section Off
variable {s : State}

/-- A tile is Off, or on its way there. -/
def State.goingOff (s : State) (t : Fin 8) : Prop :=
  s.rd F.TPC_STATUS_STATE t.val = 4 ∨ (s.flag F.TPC_STATUS_ENTERING t.val = true ∧ (s.tile t).tpc.target = 4)

theorem State.goingOff_congr {u : State} {t : Fin 8} (hstate : u.rd F.TPC_STATUS_STATE t.val = s.rd F.TPC_STATUS_STATE t.val)
    (hentering : u.rd F.TPC_STATUS_ENTERING t.val = s.rd F.TPC_STATUS_ENTERING t.val) (htile : u.tile t = s.tile t) (h : s.goingOff t) : u.goingOff t := by
  unfold State.goingOff State.flag at h ⊢
  rwa [hstate, hentering, htile]

/-- A write of another tile's register. -/
theorem State.rd_wr_tile {f g : Fld} {t u : Fin 8} (hf : f.lo < 64) (hg : g.lo < 64) (h : u ≠ t) (v : Nat) : (s.wr f t.val v).rd g u.val = s.rd g u.val :=
  State.rd_wr_ne _ _ (Fld.key_ne (.inr (.inl (by omega))) hg hf)

theorem State.rd_enter {t : Fin 8} {g : Fld} {j x target : Nat} (h : g.key j x ≠ F.TPC_STATUS_ENTERING.key t.val 0) : (s.enter t target).rd g j x = s.rd g j x :=
  (State.rd_wr_ne (s.stopSeen t) 1 h).trans (State.rd_stopSeen _ _ _)

theorem State.enter_entering {t : Fin 8} {target : Nat} : (s.enter t target).flag F.TPC_STATUS_ENTERING t.val = true := by
  have h : (s.enter t target).rd F.TPC_STATUS_ENTERING t.val = 1 := State.rd_wr_same (s.stopSeen t) F.TPC_STATUS_ENTERING t.val 1 0
  rw [State.flag, h]
  rfl

theorem State.enter_target {t : Fin 8} {target : Nat} : ((s.enter t target).tile t).tpc.target = target := by
  rw [State.enter, State.tile_onTile]

theorem State.tile_enter_ne {t u : Fin 8} {target : Nat} (h : u ≠ t) : (s.enter t target).tile u = s.tile u := by
  rw [State.enter, State.tile_onTile_ne _ _ h, State.tile_wr, State.tile_stopSeen]

/-- What the way to Off changes: registers, a tile, what reads show, and the units. -/
theorem State.tileToOff_cases (t : Fin 8) : s.tileToOff t = s ∧ s.rd F.TPC_STATUS_STATE t.val = 4 ∨
    s.tileToOff t = (s.wr F.TPC_STATUS_WAKING t.val 0).tileUsr t.val uOff byPath ∧ s.rd F.TPC_STATUS_STATE t.val = 4 ∨
    s.tileToOff t = (s.wr F.TPC_STATUS_WAKING t.val 0).enter t 4 := by
  unfold State.tileToOff
  dsimp only
  split
  case isTrue h4 =>
    split
    · exact .inr (.inl ⟨rfl, h4⟩)
    · exact .inl ⟨rfl, h4⟩
  case isFalse => exact .inr (.inr rfl)

theorem State.tileToOff_goes (t : Fin 8) : (s.tileToOff t).goingOff t := by
  rcases s.tileToOff_cases t with ⟨h, h4⟩ | ⟨h, h4⟩ | h
  · rw [h]
    exact .inl h4
  · rw [h]
    refine .inl ?_
    rw [State.rd_tileUsr (by decide), State.rd_wr_apart (by decide), h4]
  · rw [h]
    exact .inr ⟨State.enter_entering, State.enter_target⟩

theorem State.tileToOff_others {t u : Fin 8} (hne : u ≠ t) {g : Fld} (hg : F.FRV_USR_STATE.foreign g = true) (hlo : g.lo < 64) :
    (s.tileToOff t).rd g u.val = s.rd g u.val := by
  rcases s.tileToOff_cases t with ⟨h, -⟩ | ⟨h, -⟩ | h
  · rw [h]
  · rw [h, State.rd_tileUsr hg, State.rd_wr_tile (by decide) hlo hne]
  · rw [h, State.rd_enter (Fld.key_ne (.inr (.inl (by omega))) hlo (by decide)), State.rd_wr_tile (by decide) hlo hne]

theorem State.tile_tileToOff_ne {t u : Fin 8} (hne : u ≠ t) : (s.tileToOff t).tile u = s.tile u := by
  rcases s.tileToOff_cases t with ⟨h, -⟩ | ⟨h, -⟩ | h
  · rw [h]
  · rw [h, State.tile_tileUsr, State.tile_wr]
  · rw [h, State.tile_enter_ne hne, State.tile_wr]

/-- The rest of the state, where tiles go to Off. -/
theorem State.tileToOff_rest (t : Fin 8) : (s.tileToOff t).pins = s.pins ∧ (s.tileToOff t).out = s.out ∧ (s.tileToOff t).reports = s.reports := by
  rcases s.tileToOff_cases t with ⟨h, -⟩ | ⟨h, -⟩ | h
  · rw [h]
    exact ⟨rfl, rfl, rfl⟩
  · rw [h, State.unitsOnly_tileUsr (s.wr F.TPC_STATUS_WAKING t.val 0) t.val uOff byPath]
    exact ⟨rfl, rfl, rfl⟩
  · rw [h, State.enter, State.stopSeen_rest]
    exact ⟨rfl, rfl, rfl⟩

/-- The tiles of a list go to Off. -/
def State.tilesOff (s : State) (l : List (Fin 8)) : State := l.foldl (fun s t => s.tileToOff t) s

theorem State.tilesOff_keeps {l : List (Fin 8)} {u : Fin 8} (h : s.goingOff u) : (s.tilesOff l).goingOff u := by
  induction l generalizing s with
  | nil => exact h
  | cons t l ih =>
    refine ih (s := s.tileToOff t) ?_
    by_cases hu : u = t
    · rw [hu]
      exact State.tileToOff_goes t
    · exact State.goingOff_congr (State.tileToOff_others hu (by decide) (by decide)) (State.tileToOff_others hu (by decide) (by decide))
        (State.tile_tileToOff_ne hu) h

theorem State.tilesOff_goes {l : List (Fin 8)} {u : Fin 8} (h : u ∈ l) : (s.tilesOff l).goingOff u := by
  induction l generalizing s with
  | nil => exact absurd h List.not_mem_nil
  | cons t l ih =>
    rcases List.mem_cons.mp h with rfl | hl
    · exact State.tilesOff_keeps (s := s.tileToOff u) (State.tileToOff_goes u)
    · exact ih (s := s.tileToOff t) hl

theorem State.tilesOff_rest (l : List (Fin 8)) : (s.tilesOff l).pins = s.pins ∧ (s.tilesOff l).out = s.out ∧ (s.tilesOff l).reports = s.reports := by
  induction l generalizing s with
  | nil => exact ⟨rfl, rfl, rfl⟩
  | cons t l ih =>
    obtain ⟨hpins, hout, hrep⟩ := ih (s := s.tileToOff t)
    obtain ⟨hpins', hout', hrep'⟩ := s.tileToOff_rest t
    exact ⟨hpins.trans hpins', hout.trans hout', hrep.trans hrep'⟩

/-- The first n stacks are Off. -/
def State.stacksOff (s : State) (n : Nat) : State := (List.range n).foldl (fun s k => s.stackOff k) s

theorem State.stacksOff_succ (n : Nat) : s.stacksOff (n + 1) = (s.stacksOff n).stackOff n := by
  rw [State.stacksOff, State.stacksOff, List.range_succ, List.foldl_append]
  rfl

theorem State.rd_stackOff (k : Nat) (g : Fld) (i x : Nat) : (s.stackOff k).rd g i x = (s.wr F.HMC_STATUS_STATE k 0).rd g i x := rfl

/-- Stacks' states, and memory, change. -/
theorem State.stacksOff_rest (n : Nat) : (s.stacksOff n).pins = s.pins ∧ (s.stacksOff n).out = s.out ∧ (s.stacksOff n).reports = s.reports ∧
    ∀ t, (s.stacksOff n).tile t = s.tile t := by
  induction n with
  | zero => exact ⟨rfl, rfl, rfl, fun _ => rfl⟩
  | succ n ih =>
    rw [State.stacksOff_succ]
    exact ih

theorem State.rd_stacksOff {g : Fld} (hg : F.HMC_STATUS_STATE.foreign g = true) (n i x : Nat) : (s.stacksOff n).rd g i x = s.rd g i x := by
  induction n with
  | zero => rfl
  | succ n ih => rw [State.stacksOff_succ, State.rd_stackOff, State.rd_wr_foreign hg, ih]

theorem State.stacksOff_state {n k : Nat} (hn : n ≤ 8) (hk : k < n) : (s.stacksOff n).rd F.HMC_STATUS_STATE k = 0 := by
  induction n with
  | zero => omega
  | succ n ih =>
    rw [State.stacksOff_succ, State.rd_stackOff]
    by_cases hlast : k = n
    · rw [hlast, State.rd_wr_same]
      rfl
    · rw [State.rd_wr_ne _ _ (Fld.key_ne (.inr (.inl (by omega))) (by decide) (by decide)), ih (by omega) (by omega)]

theorem State.allOff_eq : s.allOff = (s.tilesOff allTiles).stacksOff 8 := rfl

theorem State.allOff_goes (t : Fin 8) : s.allOff.goingOff t := by
  rw [State.allOff_eq]
  exact State.goingOff_congr (State.rd_stacksOff (by decide) 8 _ _) (State.rd_stacksOff (by decide) 8 _ _) ((State.stacksOff_rest 8).2.2.2 t)
    (State.tilesOff_goes (mem_allTiles t))

theorem State.allOff_rest : s.allOff.pins = s.pins ∧ s.allOff.out = s.out ∧ s.allOff.reports = s.reports := by
  obtain ⟨hpins, hout, hrep, -⟩ := State.stacksOff_rest (s := s.tilesOff allTiles) 8
  obtain ⟨hpins', hout', hrep'⟩ := s.tilesOff_rest allTiles
  rw [State.allOff_eq]
  exact ⟨hpins.trans hpins', hout.trans hout', hrep.trans hrep'⟩

end Off

/-! ### THERMTRIP_L -/

section Trip
variable {s : State}

/-- A packet of this device changes its ports alone. -/
theorem State.sendPkt_rest (k : Pkt) (vc d : Nat) (poison : Bool) : s.sendPkt k vc d poison = { s with ports := (s.sendPkt k vc d poison).ports } := by
  unfold State.sendPkt
  split
  · rfl
  · split <;> rfl

/-- So do messages to the other members. -/
theorem State.tellMembers_rest (kind : MgmtKind) (data : List Nat) : s.tellMembers kind data = { s with ports := (s.tellMembers kind data).ports } := by
  have hfold (l : List Nat) (a : State) : l.foldl (fun (s : State) d => s.sendPkt (.mgmt kind data) 6 d false) a =
      { a with ports := (l.foldl (fun (s : State) d => s.sendPkt (.mgmt kind data) 6 d false) a).ports } := by
    induction l generalizing a with
    | nil => rfl
    | cons d l ih =>
      rw [List.foldl_cons, ih]
      exact congrArg (fun b : State => { b with ports := (l.foldl (fun (s : State) d => s.sendPkt (.mgmt kind data) 6 d false) (a.sendPkt (.mgmt kind data) 6 d false)).ports })
        (State.sendPkt_rest _ _ _ _)
  exact hfold s.peers s

theorem State.tripped_rest (x : Nat) : (s.tripped x).pins.therm = true ∧ (s.tripped x).out = s.out ++ [.other "THERMTRIP" [1]] ∧
    (s.tripped x).reports = s.reports ++ [⟨0x30, x, 0⟩] := by
  unfold State.tripped
  rw [State.tellMembers_rest]
  exact ⟨rfl, rfl, rfl⟩

/-- State u after a new critical temperature. -/
def State.critTold (s u : State) : Prop :=
  u.pins.therm = true ∧ u.out = s.out ++ [.other "THERMTRIP" [1]] ∧ (∃ x, u.reports = s.reports ++ [⟨0x30, x, 0⟩]) ∧
  (∀ k, k < 8 → u.rd F.HMC_STATUS_STATE k = 0) ∧
  (∀ t : Fin 8, u.rd F.TPC_STATUS_STATE t.val = 4 ∨ (u.flag F.TPC_STATUS_ENTERING t.val = true ∧ (u.tile t).tpc.target = 4))

theorem State.allOff_told (x : Nat) : s.critTold (s.tripped x).allOff := by
  obtain ⟨hpins, hout, hrep⟩ := State.allOff_rest (s := s.tripped x)
  obtain ⟨htherm, hout', hrep'⟩ := s.tripped_rest x
  refine ⟨?_, hout.trans hout', ⟨x, hrep.trans hrep'⟩, fun k hk => State.stacksOff_state (Nat.le_refl 8) hk, State.allOff_goes⟩
  rw [hpins, htherm]

end Trip

/-! ### The PCM's samples -/

section Pcm
variable {s : State} {rails : List (Nat × Nat)} {temps uj : List Nat}

/-- State u after a sample with no critical temperature. -/
def State.sampleTaken (s u : State) (rails : List (Nat × Nat)) (temps uj : List Nat) : Prop :=
  (∀ i, i < 9 → u.rd F.PCM_TEMP_DEGC 0 i = temps.getD i 0 % 2 ^ F.PCM_TEMP_DEGC.w) ∧
  (∀ k, k < 8 → u.rd F.HMC_STATUS_TEMP k = temps.getD (9 + k) 0 % 2 ^ F.HMC_STATUS_TEMP.w) ∧
  (∀ t, t < 8 → u.rd F.PCM_ENERGY_UJ 0 t = (s.rd F.PCM_ENERGY_UJ 0 t + uj.getD t 0) % 2 ^ F.PCM_ENERGY_UJ.w) ∧
  (let l := s.samples rails
   let high := s.rd F.PCM_PLIMIT_WATTS 0 * 1000 < meanOf (totalOf l) 100 ∨ ∃ i c, i < 9 ∧ temps[i]? = some c ∧ s.rd F.PCM_TLIMIT_DEGC 0 ≤ c
   let d := s.rd F.PCM_STATUS_DUTY 0
   u.rd F.PCM_POWER_MW 0 = meanOf (totalOf l) s.averaged % 2 ^ F.PCM_POWER_MW.w ∧
   (high → u.rd F.PCM_STATUS_DUTY 0 = min (d + 1) 63 ∧ u.flag F.PCM_STATUS_THROTTLE 0 = true) ∧
   (¬high → d < 64 → u.rd F.PCM_STATUS_DUTY 0 = d - 1 ∧ (u.flag F.PCM_STATUS_THROTTLE 0 = true ↔ 1 < d))) ∧
  u.mem = s.mem ∧ u.tiles = s.tiles ∧ u.pins.therm = s.pins.therm

/-- A sample that is recorded and acted on. -/
def State.sampleActed (s : State) (rails : List (Nat × Nat)) (temps uj : List Nat) : State := (s.sampled rails temps uj).throttle (s.tooHigh rails temps)

theorem State.sampleActed_rest : (s.railsSeen rails).regsOnly (s.sampleActed rails temps uj) := 
  State.regsOnly_trans State.regsOnly_sampled (State.regsOnly_throttle _)

theorem State.sampleActed_taken : s.sampleTaken (s.sampleActed rails temps uj) rails temps uj := by
  have hrest := State.sampleActed_rest (s := s) (rails := rails) (temps := temps) (uj := uj)
  have hduty : (s.sampled rails temps uj).rd F.PCM_STATUS_DUTY 0 = s.rd F.PCM_STATUS_DUTY 0 := State.sampled_rd rfl (by decide) (by decide)
  have hfar {g : Fld} {j x : Nat} (hg : g.lo < 64) (hblk : g.blk.num ≠ F.PCM_STATUS_DUTY.blk.num ∨ (g.off + g.stride * x) % 1048576 ≠ 0) :
      (s.sampleActed rails temps uj).rd g j x = (s.sampled rails temps uj).rd g j x := by
    refine State.rd_throttle _ (Fld.key_ne ?_ hg (by decide)) (Fld.key_ne ?_ hg (by decide))
    · exact hblk.elim .inl fun h => .inr (.inr (.inl h))
    · exact hblk.elim .inl fun h => .inr (.inr (.inl h))
  refine ⟨fun i hi => ?_, fun k hk => ?_, fun t ht => ?_, ⟨?_, fun hhigh => ?_, fun hlow hd => ?_⟩, ?_, ?_, ?_⟩
  · rw [hfar (by decide) (.inr (show (0xc0 + 8 * i) % 1048576 ≠ 0 by omega)), State.sampled_temp hi]
  · rw [hfar (by decide) (.inl (by decide)), State.sampled_stack hk]
  · rw [hfar (by decide) (.inr (show (0x140 + 8 * t) % 1048576 ≠ 0 by omega)), State.sampled_energy ht]
  · rw [hfar (by decide) (.inr (by decide)), State.sampled_power]
  · obtain ⟨hnew, hflag⟩ := State.throttle_high (s := s.sampled rails temps uj)
    rw [State.sampleActed, State.tooHigh_iff.mpr hhigh, hnew, hduty, hflag]
    exact ⟨rfl, rfl⟩
  · obtain ⟨hnew, hflag⟩ := State.throttle_low (s := s.sampled rails temps uj) (by rw [hduty]; exact hd)
    rw [State.sampleActed, Bool.eq_false_iff.mpr (mt State.tooHigh_iff.mp hlow), hnew, hflag, hduty]
    exact ⟨rfl, Iff.rfl⟩
  · rw [show s.sampleActed rails temps uj = _ from hrest]
    rfl
  · rw [show s.sampleActed rails temps uj = _ from hrest]
    rfl
  · rw [show s.sampleActed rails temps uj = _ from hrest]
    rfl

theorem State.sampleActed_told (htherm : s.pins.therm = false) : (s.sampleActed rails temps uj).pins.therm = false ∧
    (s.sampleActed rails temps uj).out = s.out ∧ (s.sampleActed rails temps uj).reports = s.reports := by
  rw [show s.sampleActed rails temps uj = _ from State.sampleActed_rest]
  exact ⟨htherm, rfl, rfl⟩

variable (hwarm : s.pins.cold = false) (htherm : s.pins.therm = false)
include hwarm htherm

/-- A sample with no sensor at its limit. -/
theorem execPcmSample_cool (hcool : ∀ i c, (temps.take 17)[i]? = some c → c < if i < 9 then 110 else 105) :
    s.gives (.pcmSample rails temps uj) (s.sampleActed rails temps uj) := by
  refine congrArg (ok s) ((if_pos (by rw [State.moss, hwarm]; rfl)).trans ?_)
  exact State.pcmSample_eq.trans (State.critical_none (s := s.sampleActed rails temps uj) (hotSensors_nil hcool) (State.sampleActed_told htherm).1)

theorem execPcmSample_hot (hhot : ∃ i c, (temps.take 17)[i]? = some c ∧ (if i < 9 then 110 else 105) ≤ c) :
    ∃ x, s.gives (.pcmSample rails temps uj) ((s.sampleActed rails temps uj).tripped x).allOff := by
  obtain ⟨i, c, hi, hc⟩ := hhot
  obtain ⟨x, hx⟩ := State.critical_trips (hotSensors_ne_nil hi hc) (State.sampleActed_told (uj := uj) (rails := rails) (temps := temps) htherm).1
  refine ⟨x, congrArg (ok s) ((if_pos (by rw [State.moss, hwarm]; rfl)).trans ?_)⟩
  exact State.pcmSample_eq.trans hx

end Pcm

/-- Settles O44: each region's and stack's transition, and the sample's fields written in their order. -/
theorem fabricAndSensorResult : Obligations.FabricAndSensorResult := by
  unfold Obligations.FabricAndSensorResult
  refine ⟨fun i s => ⟨fun h4 hneeded => congrArg (ok s) (if_pos ⟨h4, hneeded⟩), fun hidle => ?_, ?_⟩,
    fun k s => ⟨fun h => congrArg (ok s) (if_pos h), fun h => congrArg (ok s) (if_neg h), fun h => congrArg (ok s) (if_pos h), fun h => congrArg (ok s) (if_neg h),
      fun h g => congrArg (ok s) (if_pos h), fun h => ⟨congrArg (ok s) ((if_neg (not_not_intro h)).trans (if_neg Bool.false_ne_true)),
        execHbmTrainingComplete_good h, execHbmTrainingComplete_idle h⟩⟩,
    fun rails temps uj s hcold => congrArg (ok s) (if_neg (by rw [State.moss, hcold]; decide)),
    fun rails temps uj s hwarm hcool htherm => ?_, fun rails temps uj s hwarm htherm hhot => ?_⟩
  · refine ⟨_, execFabricRegionIdle_gates hidle, ⟨_, _, rfl⟩, fun hg => (State.gateOff_result i.isLt hg).1, fun hg => (State.gateOff_result i.isLt hg).2,
      (State.gatedTo_rest _ _).1, (State.gatedTo_rest _ _).2⟩
  · exact ⟨_, rfl, State.ungate_result i.isLt, State.ungate_pll, rfl, rfl⟩
  · obtain ⟨u, hu, htemps, hstacks, henergy, hpower, hmem, htiles, hpins⟩ := (execPcmSample_cool (uj := uj) (rails := rails) hwarm htherm hcool).next_of
      (P := fun u => s.sampleTaken u rails temps uj) State.sampleActed_taken fun _ _ h => h
    exact ⟨u, hu, htemps, hstacks, henergy, hpower, hmem, htiles, hpins.trans htherm⟩
  · obtain ⟨x, hx⟩ := execPcmSample_hot (uj := uj) (rails := rails) hwarm htherm hhot
    obtain ⟨u, hu, hpin, hout, hrep, hstacks, htiles⟩ := hx.next_of (P := fun u => (s.sampleActed rails temps uj).critTold u) (State.allOff_told x) fun _ _ h => h
    obtain ⟨-, hout', hrep'⟩ := State.sampleActed_told (uj := uj) (rails := rails) (temps := temps) htherm
    rw [hout'] at hout
    rw [hrep'] at hrep
    exact ⟨u, hu, hpin, hout, hrep, hstacks, htiles⟩

end Sys2Proof.Machine
end

section
/-! SUPPORT. Proofs about unit commands, the mailbox, and messages taken by Fenreeve (R404 to R423). -/
namespace Sys2Proof.Machine

section Frv
variable {s : State} {c : UCmd}

/-! ### Messages (R404, R406, R420) -/

theorem State.take_unanswered {m : MReq} {b : Bool} {f : State → State} (h : s.answers true = false) : s.take m b f = s := if_pos (by rw [h]; rfl)

theorem State.take_dropped {m : MReq} {b : Bool} {f : State → State} (h : s.answers true = true) (hbad : m.good = false ∨ m.known = false) :
    s.take m b f = s.count F.FRV_CNT_DROP_COUNT 0 1 :=
  (if_neg (by rw [h]; decide)).trans (if_pos (by rcases hbad with h | h <;> simp [h]))

theorem State.take_served {m : MReq} {b : Bool} {f : State → State} (h : s.answers true = true) (hgood : m.good = true) (hknown : m.known = true) :
    s.take m b f = if s.serveMbx.answers b then f s.serveMbx else s.serveMbx :=
  (if_neg (by rw [h]; decide)).trans (if_neg (by rw [hgood, hknown]; decide))

/-- A command that Fenreeve takes as a message. -/
theorem State.serves_of_take {m : MReq} {b : Bool} {f : State → State} {c : Instr} (hc : exec c s = ok s (s.take m b f)) : s.serves m b c f := by
  refine ⟨fun h => ?_, fun h hbad => ?_, fun h hgood hknown => ⟨fun hans => ?_, fun hans => ?_⟩⟩
  · exact hc.trans (congrArg (ok s) (State.take_unanswered h))
  · exact hc.trans (congrArg (ok s) (State.take_dropped h hbad))
  · exact hc.trans (congrArg (ok s) ((State.take_served h hgood hknown).trans (if_pos hans)))
  · exact hc.trans (congrArg (ok s) ((State.take_served h hgood hknown).trans (if_neg (ne_true_of_eq_false hans))))

theorem State.serveMbx_none (h : s.frv.mbx = none) : s.serveMbx = s := by
  unfold State.serveMbx
  rw [h]

theorem State.serveMbx_some {r : Nat × Nat} (h : s.frv.mbx = some r) :
    s.serveMbx = if s.answers (ucOfMbx r).readOnly then s.ucAnswer (ucOfMbx r) else s.mbxDrop := by
  unfold State.serveMbx
  rw [h]

theorem State.secured_iff {m : MReq} : s.secured m = true ↔ ∃ k x, m.session = some k ∧ s.frv.sessions.find? k = some x ∧ x.up = true := by
  unfold State.secured
  cases hk : m.session with
  | none => simp
  | some k => simp [Option.any_eq_true]

/-! ### Unit commands (R411, Table 16-8) -/

/-- No condition up to the unit's STATE refuses the command. -/
structure State.ucFit (s : State) (c : UCmd) : Prop where
  form : c.bad = false
  allowed : s.ucDeny c = false
  unit : unitReserved c.unit = false
  fresh : s.ucIsStale c = false
  state : s.ucBadState c = false

theorem unitReserved_of_le {u : Nat} (hlow : 0x28 ≤ u) (hhigh : u ≤ 0xFE) : unitReserved u = true := by
  simp [unitReserved, hlow, hhigh]

theorem unitReserved_false {u : Nat} (h : u < 0x28 ∨ u = 0xFF) : unitReserved u = false := by
  simp only [unitReserved, Bool.and_eq_false_iff, decide_eq_false_iff_not]
  omega

section Refused
variable (hform : c.bad = false)
include hform

theorem State.ucRun_denied (hdeny : s.ucDeny c = true) : s.ucRun c = (6, s) := (if_neg (by rw [hform]; decide)).trans (if_pos hdeny)

variable (hallow : s.ucDeny c = false)
include hallow

theorem State.ucRun_reserved (hunit : unitReserved c.unit = true) : s.ucRun c = (4, s) :=
  (if_neg (by rw [hform]; decide)).trans ((if_neg (by rw [hallow]; decide)).trans (if_pos hunit))

variable (hunit : unitReserved c.unit = false)
include hunit

theorem State.ucRun_stale (hstale : s.ucIsStale c = true) : s.ucRun c = (1, s) :=
  (if_neg (by rw [hform]; decide)).trans ((if_neg (by rw [hallow]; decide)).trans ((if_neg (by rw [hunit]; decide)).trans (if_pos hstale)))

theorem State.ucRun_badState (hfresh : s.ucIsStale c = false) (hstate : s.ucBadState c = true) : s.ucRun c = (3, s) :=
  (if_neg (by rw [hform]; decide)).trans ((if_neg (by rw [hallow]; decide)).trans ((if_neg (by rw [hunit]; decide)).trans
    ((if_neg (by rw [hfresh]; decide)).trans (if_pos hstate))))

end Refused

section Fit
variable (h : s.ucFit c)
include h

theorem State.ucRun_fit : s.ucRun c = if (c.cmd = 3 ∨ c.cmd = 4) ∧ s.leased c.unit then (2, s) else if s.ucTooSoon c then (7, s) else
    match s.ucApply c with
    | some s1 => (0, s1.settle)
    | none => (8, s) := by
  obtain ⟨hform, hallow, hunit, hfresh, hstate⟩ := h
  exact (if_neg (by rw [hform]; decide)).trans ((if_neg (by rw [hallow]; decide)).trans ((if_neg (by rw [hunit]; decide)).trans
    ((if_neg (by rw [hfresh]; decide)).trans (if_neg (by rw [hstate]; decide)))))

theorem State.ucRun_leased (hcmd : c.cmd = 3 ∨ c.cmd = 4) (hlease : s.leased c.unit = true) : s.ucRun c = (2, s) :=
  (State.ucRun_fit h).trans (if_pos ⟨hcmd, hlease⟩)

theorem State.ucRun_tooSoon (hcmd : c.cmd = 5) (hsoon : s.ucTooSoon c = true) : s.ucRun c = (7, s) :=
  (State.ucRun_fit h).trans ((if_neg fun hl => by omega).trans (if_pos hsoon))

variable (hfree : (c.cmd = 3 ∨ c.cmd = 4) → s.leased c.unit = false) (hrate : s.ucTooSoon c = false)
include hfree hrate

theorem State.ucRun_applies {s1 : State} (happly : s.ucApply c = some s1) : s.ucRun c = (0, s1.settle) := by
  rw [State.ucRun_fit h, if_neg fun hl => ne_true_of_eq_false (hfree hl.1) hl.2, if_neg (ne_true_of_eq_false hrate), happly]

theorem State.ucRun_busy (happly : s.ucApply c = none) : s.ucRun c = (8, s) := by
  rw [State.ucRun_fit h, if_neg fun hl => ne_true_of_eq_false (hfree hl.1) hl.2, if_neg (ne_true_of_eq_false hrate), happly]

end Fit

theorem State.ucTooSoon_of_other (h : c.cmd ≠ 5) : s.ucTooSoon c = false := by simp [State.ucTooSoon, h]

/-- The statuses are those of Table 16-8. -/
theorem State.ucRun_status (s : State) (c : UCmd) : (s.ucRun c).1 ≤ 8 := by
  unfold State.ucRun
  repeat' split
  all_goals exact Nat.le_of_ble_eq_true rfl

/-! ### Answers (R412, R422, R423) -/

/-- The command's answer is counted. -/
def State.ucCounted (s : State) (c : UCmd) : State :=
  let s1 := (s.ucRun c).2.count F.FRV_CNT_CMD_COUNT 0 1
  if (s.ucRun c).1 = 1 then s1.count F.FRV_CNT_STALE_COUNT 0 1 else s1

theorem State.ucCounted_rest : (s.ucCounted c) = { (s.ucRun c).2 with regs := (s.ucCounted c).regs } := by
  unfold State.ucCounted
  dsimp only
  split <;> rfl

theorem State.ucCounted_counts : (s.ucCounted c).rd F.FRV_CNT_CMD_COUNT 0 = min ((s.ucRun c).2.rd F.FRV_CNT_CMD_COUNT 0 + 1) (2 ^ F.FRV_CNT_CMD_COUNT.w - 1) ∧
    (s.ucCounted c).rd F.FRV_CNT_STALE_COUNT 0 = if (s.ucRun c).1 = 1 then min ((s.ucRun c).2.rd F.FRV_CNT_STALE_COUNT 0 + 1) (2 ^ F.FRV_CNT_STALE_COUNT.w - 1)
      else (s.ucRun c).2.rd F.FRV_CNT_STALE_COUNT 0 := by
  unfold State.ucCounted
  dsimp only
  by_cases h : (s.ucRun c).1 = 1
  · rw [if_pos h, if_pos h, State.rd_count_apart (by decide), State.rd_count_same, State.rd_count_same, State.rd_count_apart (by decide)]
    exact ⟨rfl, rfl⟩
  · rw [if_neg h, if_neg h, State.rd_count_same, State.rd_count_apart (by decide)]
    exact ⟨rfl, rfl⟩

/-- The mailbox holds a response. -/
def State.mbxAnswered (s : State) (r0 r1 : Nat) : State :=
  ({ s with frv := { s.frv with mbx := none } } : State).wrs 0 0 [(F.FRV_MBX_RSP0_D, r0), (F.FRV_MBX_RSP1_D, r1), (F.FRV_MBX_STATUS_BUSY, 0), (F.FRV_MBX_STATUS_DONE, 1)]

theorem State.rd_mbxAnswered {g : Fld} (hg : (F.FRV_MBX_RSP0_D.apart g && F.FRV_MBX_RSP1_D.apart g && F.FRV_MBX_STATUS_BUSY.apart g &&
    F.FRV_MBX_STATUS_DONE.apart g) = true) (r0 r1 : Nat) : (s.mbxAnswered r0 r1).rd g 0 = s.rd g 0 := by
  simp only [Bool.and_eq_true] at hg
  obtain ⟨⟨⟨h0, h1⟩, hbusy⟩, hdone⟩ := hg
  simp only [State.mbxAnswered, State.wrs_cons, State.wrs_nil]
  rw [State.rd_wr_apart hdone, State.rd_wr_apart hbusy, State.rd_wr_apart h1, State.rd_wr_apart h0]
  rfl

theorem State.mbxAnswered_result (r0 r1 : Nat) : (s.mbxAnswered r0 r1).rd F.FRV_MBX_STATUS_BUSY 0 = 0 ∧ (s.mbxAnswered r0 r1).rd F.FRV_MBX_STATUS_DONE 0 = 1 ∧
    (s.mbxAnswered r0 r1).frv.mbx = none ∧ (s.mbxAnswered r0 r1).rd F.FRV_MBX_RSP0_D 0 = r0 % 2 ^ 64 := by
  refine ⟨?_, State.rd_wr_same _ F.FRV_MBX_STATUS_DONE 0 1 0, rfl, ?_⟩
  · simp only [State.mbxAnswered, State.wrs_cons, State.wrs_nil]
    rw [State.rd_wr_apart (by decide), State.rd_wr_same]
    rfl
  · simp only [State.mbxAnswered, State.wrs_cons, State.wrs_nil]
    rw [State.rd_wr_apart (by decide), State.rd_wr_apart (by decide), State.rd_wr_apart (by decide), State.rd_wr_same]
    rfl

theorem State.ucAnswer_mailbox (horigin : c.origin = none) :
    s.ucAnswer c = (s.ucCounted c).drawn.mbxAnswered (c.cmd + c.unit * 2 ^ 8 + (s.ucRun c).1 * 2 ^ 16) ((s.ucCounted c).ucUsr c.unit) := by
  unfold State.ucAnswer
  rw [horigin] <;> rfl

theorem State.ucAnswer_message {o : Origin} (horigin : c.origin = some o) : s.ucAnswer c = (s.ucCounted c).drawn.emit
    (.other "UNIT_RESPONSE" [originNum o, c.cmd, c.unit, (s.ucRun c).1, (s.ucCounted c).ucUsr c.unit]) := by
  unfold State.ucAnswer
  rw [horigin] <;> rfl

theorem State.rd_drawn (g : Fld) (i x : Nat) : s.drawn.rd g i x = s.rd g i x := rfl

theorem State.rd_emit (o : Out) (g : Fld) (i x : Nat) : (s.emit o).rd g i x = s.rd g i x := rfl

/-- Wherever the answer goes, it is counted. -/
theorem State.rd_ucAnswer {g : Fld} (hg : (F.FRV_MBX_RSP0_D.apart g && F.FRV_MBX_RSP1_D.apart g && F.FRV_MBX_STATUS_BUSY.apart g &&
    F.FRV_MBX_STATUS_DONE.apart g) = true) : (s.ucAnswer c).rd g 0 = (s.ucCounted c).rd g 0 := by
  cases horigin : c.origin with
  | none => rw [State.ucAnswer_mailbox horigin, State.rd_mbxAnswered hg, State.rd_drawn]
  | some o => rw [State.ucAnswer_message horigin, State.rd_emit, State.rd_drawn]

theorem State.ucAnswer_sent {o : Origin} (horigin : c.origin = some o) : (s.ucAnswer c).out = (s.ucRun c).2.out ++
      [.other "UNIT_RESPONSE" [originNum o, c.cmd, c.unit, (s.ucRun c).1, (s.ucCounted c).ucUsr c.unit]] ∧
    (s.ucAnswer c).mem = (s.ucRun c).2.mem ∧ (s.ucAnswer c).tiles = (s.ucRun c).2.tiles := by
  have hrest : (s.ucCounted c).out = (s.ucRun c).2.out ∧ (s.ucCounted c).mem = (s.ucRun c).2.mem ∧ (s.ucCounted c).tiles = (s.ucRun c).2.tiles := by
    rw [State.ucCounted_rest]
    exact ⟨rfl, rfl, rfl⟩
  obtain ⟨hout, hmem, htiles⟩ := hrest
  rw [State.ucAnswer_message horigin]
  exact ⟨congrArg (· ++ _) hout, hmem, htiles⟩

/-! ### The mailbox -/

/-- The request is in the mailbox. -/
def State.mbxHeld (s : State) (r : Nat × Nat) : State := ({ s with frv := { s.frv with mbx := some r } } : State).wr F.FRV_MBX_STATUS_BUSY 0 1

theorem State.answers_mbxHeld (r : Nat × Nat) (b : Bool) : (s.mbxHeld r).answers b = s.answers b := by
  have hboot : (s.mbxHeld r).rd F.FRV_STATUS_BOOT 0 = s.rd F.FRV_STATUS_BOOT 0 := State.rd_wr_apart (f := F.FRV_MBX_STATUS_BUSY) (by decide) 1
  unfold State.answers State.fwRuns
  rw [hboot]
  rfl

theorem unitsOf_isNone {n : Nat} : (unitsOf n).isNone = true ↔ n = 0 ∨ 10 < n := by
  unfold unitsOf
  split
  case h_11 h1 h2 h3 h4 h5 h6 h7 h8 h9 h10 =>
    simp only [Option.isNone_none, true_iff]
    simp only [imp_false] at h1 h2 h3 h4 h5 h6 h7 h8 h9 h10
    omega
  all_goals
    simp only [Option.isNone_some, Bool.false_eq_true, false_iff]
    omega

section Go
variable {r : Nat × Nat} (htakes : s.fnTakes 0 = true) (hidle : s.flag F.FRV_MBX_STATUS_BUSY 0 = false)
  (hr : (s.rd F.FRV_MBX_REQ0_D 0, s.rd F.FRV_MBX_REQ1_D 0) = r)
include htakes hidle hr

theorem execMbxGo_idle : s.gives .mbxGo (if !(s.mbxHeld r).answers (ucOfMbx r).readOnly then (s.mbxHeld r).mbxDrop
    else if (unitsOf (ucOfMbx r).cmd).isNone then (s.mbxHeld r).ucAnswer (ucOfMbx r) else s.mbxHeld r) := by
  subst hr
  exact congrArg (ok s) ((if_neg (by rw [htakes]; decide)).trans (if_neg (by rw [hidle]; decide)))

theorem execMbxGo_drops (hans : s.answers (ucOfMbx r).readOnly = false) : s.gives .mbxGo (s.mbxHeld r).mbxDrop :=
  (execMbxGo_idle htakes hidle hr).trans (congrArg (ok s) (if_pos (by rw [State.answers_mbxHeld, hans]; rfl)))

variable (hans : s.answers (ucOfMbx r).readOnly = true)
include hans

theorem execMbxGo_holds (hlow : 1 ≤ bits r.1 0 8) (hhigh : bits r.1 0 8 ≤ 10) : s.gives .mbxGo (s.mbxHeld r) := by
  have hknown : ¬ (unitsOf (ucOfMbx r).cmd).isNone = true := by
    rw [unitsOf_isNone]
    change ¬ (bits r.1 0 8 = 0 ∨ 10 < bits r.1 0 8)
    omega
  exact (execMbxGo_idle htakes hidle hr).trans (congrArg (ok s) ((if_neg (by rw [State.answers_mbxHeld, hans]; decide)).trans (if_neg hknown)))

theorem execMbxGo_answers (hcmd : bits r.1 0 8 = 0 ∨ 10 < bits r.1 0 8) : s.gives .mbxGo ((s.mbxHeld r).ucAnswer (ucOfMbx r)) :=
  (execMbxGo_idle htakes hidle hr).trans (congrArg (ok s) ((if_neg (by rw [State.answers_mbxHeld, hans]; decide)).trans (if_pos (unitsOf_isNone.mpr hcmd))))

end Go

/-! ### Unit State Registers (R409) -/

/-- A transition writes the unit's STATE and OWNER and counts its EPOCH. -/
theorem State.usrTo_result {u st own cause : Nat} (hst : st < 8) (hown : own < 32) (hchange : st ≠ s.usr u ∨ own ≠ s.rd F.FRV_USR_OWNER 0 u) :
    (s.usrTo u st own cause).usr u = st ∧ (s.usrTo u st own cause).rd F.FRV_USR_OWNER 0 u = own ∧
    (s.usrTo u st own cause).rd F.FRV_USR_EPOCH 0 u = (s.rd F.FRV_USR_EPOCH 0 u + 1) % 2 ^ F.FRV_USR_EPOCH.w := by
  have hregs : (s.usrTo u st own cause).regs = (s.wrs 0 u [(F.FRV_USR_STATE, st), (F.FRV_USR_OWNER, own), (F.FRV_USR_CAUSE, cause),
      (F.FRV_USR_EPOCH, s.rd F.FRV_USR_EPOCH 0 u + 1)]).regs := by
    unfold State.usrTo
    rw [if_neg (by rintro ⟨h1, h2⟩; exact hchange.elim (fun h => h h1) fun h => h h2)]
    dsimp only
    split <;> rfl
  have hrd (g : Fld) : (s.usrTo u st own cause).rd g 0 u = ((((s.wr F.FRV_USR_STATE 0 st u).wr F.FRV_USR_OWNER 0 own u).wr F.FRV_USR_CAUSE 0 cause u).wr
      F.FRV_USR_EPOCH 0 (s.rd F.FRV_USR_EPOCH 0 u + 1) u).rd g 0 u := by
    rw [State.rd, hregs]
    rfl
  rw [State.usr, hrd, hrd, hrd, State.rd_wr_apart (by decide), State.rd_wr_apart (by decide), State.rd_wr_apart (by decide), State.rd_wr_same,
    State.rd_wr_apart (by decide), State.rd_wr_apart (by decide), State.rd_wr_same, State.rd_wr_same]
  exact ⟨Nat.mod_eq_of_lt hst, Nat.mod_eq_of_lt hown, rfl⟩

end Frv
end Sys2Proof.Machine
end

section
/-! SUPPORT. The statement of unit commands, from their rules (R407 to R423). -/
namespace Sys2Proof.Machine

section Commands
variable {s : State} {c : UCmd}

/-- What each accepted command does (Table 16-7). -/
theorem State.ucApply_online (h : c.cmd = 2) : s.ucApply c = s.unitOnline c.unit := by unfold State.ucApply; rw [h] <;> rfl
theorem State.ucApply_offline (h : c.cmd = 3) : s.ucApply c = s.unitOffline c.unit := by unfold State.ucApply; rw [h] <;> rfl
theorem State.ucApply_quarantine (h : c.cmd = 4) : s.ucApply c = some (s.usrState c.unit 3 1) := by unfold State.ucApply; rw [h] <;> rfl
theorem State.ucApply_force (h : c.cmd = 5) : s.ucApply c = some (s.forceUnit c.unit) := by unfold State.ucApply; rw [h] <;> rfl
theorem State.ucApply_form (h : c.cmd = 6) : s.ucApply c = some s.fenForm := by unfold State.ucApply; rw [h] <;> rfl
theorem State.ucApply_dissolve (h : c.cmd = 7) : s.ucApply c = some s.fenDissolve := by unfold State.ucApply; rw [h] <;> rfl
theorem State.ucApply_svn (h : c.cmd = 8) : s.ucApply c = if s.frv.update.isSome then none else some (s.svnCommit c.arg) := by
  unfold State.ucApply; rw [h] <;> rfl
theorem State.ucApply_policy (h : c.cmd = 10) : s.ucApply c = some (s.wr F.FRV_POLICY_SESSION 0 (c.arg % 2)) := by unfold State.ucApply; rw [h] <;> rfl
theorem State.ucApply_read (h : c.cmd = 1 ∨ c.cmd = 9) : s.ucApply c = some s := by
  unfold State.ucApply
  rcases h with h | h <;> rw [h] <;> rfl

theorem State.ucTooSoon_force (h : c.cmd = 5) : s.ucTooSoon c = true ↔ s.frv.forced = true ∧ s.ns < s.rd F.FRV_LAST_FORCE_NS 0 + 1000000 := by
  simp [State.ucTooSoon, h]

/-- The outcome of a command that no condition up to the unit's STATE refuses. -/
theorem State.ucRun_fit_outcomes (h : s.ucFit c) :
    (c.cmd = 3 ∨ c.cmd = 4 → s.leased c.unit = true → s.ucRun c = (2, s)) ∧
    (c.cmd = 3 ∨ c.cmd = 4 → s.leased c.unit = false → c.cmd = 4 → s.ucRun c = (0, (s.usrState c.unit 3 1).settle)) ∧
    (c.cmd = 5 → s.frv.forced = true → s.ns < s.rd F.FRV_LAST_FORCE_NS 0 + 1000000 → s.ucRun c = (7, s)) ∧
    (c.cmd = 5 → s.frv.forced = false ∨ s.rd F.FRV_LAST_FORCE_NS 0 + 1000000 ≤ s.ns → s.ucRun c = (0, (s.forceUnit c.unit).settle)) ∧
    (c.cmd = 2 → (∀ s1, s.unitOnline c.unit = some s1 → s.ucRun c = (0, s1.settle)) ∧ (s.unitOnline c.unit = none → s.ucRun c = (8, s))) ∧
    (c.cmd = 3 → s.leased c.unit = false → (∀ s1, s.unitOffline c.unit = some s1 → s.ucRun c = (0, s1.settle)) ∧ (s.unitOffline c.unit = none → s.ucRun c = (8, s))) ∧
    (c.cmd = 6 → s.ucRun c = (0, s.fenForm.settle)) ∧ (c.cmd = 7 → s.ucRun c = (0, s.fenDissolve.settle)) ∧
    (c.cmd = 8 → (s.frv.update ≠ none → s.ucRun c = (8, s)) ∧ (s.frv.update = none → s.ucRun c =
      (0, (({ s with frv := { s.frv with fuses := c.arg } } : State).wr F.FRV_STATUS_FUSESVN 0 c.arg).settle))) ∧
    (c.cmd = 10 → s.ucRun c = (0, (s.wr F.FRV_POLICY_SESSION 0 (c.arg % 2)).settle)) ∧ (c.cmd = 1 ∨ c.cmd = 9 → s.ucRun c = (0, s.settle)) := by
  have other (h5 : c.cmd ≠ 5) := State.ucTooSoon_of_other (s := s) h5
  have unleased (h34 : ¬ (c.cmd = 3 ∨ c.cmd = 4)) : (c.cmd = 3 ∨ c.cmd = 4) → s.leased c.unit = false := fun hc => absurd hc h34
  refine ⟨State.ucRun_leased h, fun _ hfree h4 => ?_, fun h5 hforced hns => State.ucRun_tooSoon h h5 ((State.ucTooSoon_force h5).mpr ⟨hforced, hns⟩),
    fun h5 hlate => ?_, fun h2 => ⟨fun s1 hs1 => ?_, fun hnone => ?_⟩, fun h3 hfree => ⟨fun s1 hs1 => ?_, fun hnone => ?_⟩, fun h6 => ?_, fun h7 => ?_,
    fun h8 => ⟨fun hup => ?_, fun hup => ?_⟩, fun h10 => ?_, fun hr => ?_⟩
  · exact State.ucRun_applies h (fun _ => hfree) (other (by omega)) (State.ucApply_quarantine h4)
  · refine State.ucRun_applies h (unleased (by omega)) (Bool.eq_false_iff.mpr fun hsoon => ?_) (State.ucApply_force h5)
    obtain ⟨hforced, hns⟩ := (State.ucTooSoon_force h5).mp hsoon
    rcases hlate with hf | hle
    · exact ne_true_of_eq_false hf hforced
    · omega
  · exact State.ucRun_applies h (unleased (by omega)) (other (by omega)) ((State.ucApply_online h2).trans hs1)
  · exact State.ucRun_busy h (unleased (by omega)) (other (by omega)) ((State.ucApply_online h2).trans hnone)
  · exact State.ucRun_applies h (fun _ => hfree) (other (by omega)) ((State.ucApply_offline h3).trans hs1)
  · exact State.ucRun_busy h (fun _ => hfree) (other (by omega)) ((State.ucApply_offline h3).trans hnone)
  · exact State.ucRun_applies h (unleased (by omega)) (other (by omega)) (State.ucApply_form h6)
  · exact State.ucRun_applies h (unleased (by omega)) (other (by omega)) (State.ucApply_dissolve h7)
  · exact State.ucRun_busy h (unleased (by omega)) (other (by omega)) ((State.ucApply_svn h8).trans (if_pos (Option.isSome_iff_ne_none.mpr hup)))
  · exact State.ucRun_applies h (unleased (by omega)) (other (by omega)) ((State.ucApply_svn h8).trans (if_neg (by rw [hup]; decide)))
  · exact State.ucRun_applies h (unleased (by omega)) (other (by omega)) (State.ucApply_policy h10)
  · exact State.ucRun_applies h (unleased (by omega)) (other (by omega)) (State.ucApply_read hr)

/-- A unit command comes from the mailbox, or in a message. -/
theorem State.unitCommand_result {f : UReq → Instr} {n : Nat} (hf : ∀ q (s : State), exec (f q) s = ok s (s.unitCommand n q)) (s : State) :
    (∀ (m : MReq) u e a rsv,
      let c : UCmd := ⟨some m.origin, s.secured m, n, BitVec.toNat u, BitVec.toNat e, BitVec.toNat a, rsv⟩
      s.serves m c.readOnly (f (.mctp m u e a rsv)) (fun v => v.ucAnswer c)) ∧
    (s.frv.mbx = none → s.gives (f .mbx) s) ∧
    (∀ r, s.frv.mbx = some r → (bits r.1 0 8 ≠ n → s.gives (f .mbx) s) ∧
      (bits r.1 0 8 = n → s.answers (ucOfMbx r).readOnly = true → s.gives (f .mbx) (s.ucAnswer (ucOfMbx r))) ∧
      (bits r.1 0 8 = n → s.answers (ucOfMbx r).readOnly = false → s.gives (f .mbx) s.mbxDrop)) := by
  refine ⟨fun m u e a rsv => State.serves_of_take (hf _ s), fun hnone => (hf .mbx s).trans (congrArg (ok s) (if_neg ?_)),
    fun r hr => ⟨fun hne => (hf .mbx s).trans (congrArg (ok s) (if_neg ?_)), fun heq hans => (hf .mbx s).trans (congrArg (ok s) ((if_pos ?_).trans ?_)),
      fun heq hans => (hf .mbx s).trans (congrArg (ok s) ((if_pos ?_).trans ?_))⟩⟩
  · rw [hnone]
    exact Bool.false_ne_true
  · rw [hr]
    simpa using hne
  · rw [hr]
    simpa using heq
  · rw [State.serveMbx_some hr, if_pos hans]
  · rw [hr]
    simpa using heq
  · rw [State.serveMbx_some hr, if_neg (ne_true_of_eq_false hans)]

end Commands

/-- Settles O45: the conditions of a command are tested in order, and its answer is counted. -/
theorem unitCommandResult : Obligations.UnitCommandResult := by
  unfold Obligations.UnitCommandResult
  refine ⟨?_, fun s => ⟨State.serveMbx_none, fun r => State.serveMbx_some⟩, fun s m => State.secured_iff,
    fun s => ⟨fun htakes => congrArg (ok s) (if_pos (by rw [htakes]; rfl)), fun htakes hbusy => congrArg (ok s) ((if_neg (by rw [htakes]; decide)).trans (if_pos hbusy)),
      fun htakes hidle => ?_⟩,
    fun s c => ⟨fun hbad => if_pos hbad, fun hform hdeny => State.ucRun_denied hform hdeny, fun hform hallow =>
      ⟨fun hlow hhigh => State.ucRun_reserved hform hallow (unitReserved_of_le hlow hhigh), fun hunit =>
        ⟨State.ucRun_stale hform hallow (unitReserved_false hunit), fun hfresh =>
          ⟨State.ucRun_badState hform hallow (unitReserved_false hunit) hfresh, fun hstate =>
            State.ucRun_fit_outcomes ⟨hform, hallow, unitReserved_false hunit, hfresh, hstate⟩⟩⟩⟩⟩,
    fun s c => ⟨(State.rd_ucAnswer (by decide)).trans State.ucCounted_counts.1, (State.rd_ucAnswer (by decide)).trans State.ucCounted_counts.2⟩,
    fun s c o horigin => ⟨_, State.ucAnswer_sent horigin⟩, fun s c horigin => ?_,
    fun s u st own cause _ hst hown => State.usrTo_result hst hown⟩
  · simp only [List.forall_mem_cons]
    exact ⟨State.unitCommand_result fun _ _ => rfl, State.unitCommand_result fun _ _ => rfl, State.unitCommand_result fun _ _ => rfl,
      State.unitCommand_result fun _ _ => rfl, State.unitCommand_result fun _ _ => rfl, State.unitCommand_result fun _ _ => rfl,
      State.unitCommand_result fun _ _ => rfl, State.unitCommand_result fun _ _ => rfl, State.unitCommand_result fun _ _ => rfl,
      State.unitCommand_result fun _ _ => rfl, fun _ h => absurd h List.not_mem_nil⟩
  · intro r s1
    exact ⟨execMbxGo_holds htakes hidle rfl, execMbxGo_answers htakes hidle rfl, execMbxGo_drops htakes hidle rfl⟩
  · rw [State.ucAnswer_mailbox horigin]
    obtain ⟨hbusy, hdone, hmbx, hrsp⟩ := State.mbxAnswered_result (s := (s.ucCounted c).drawn) (c.cmd + c.unit * 2 ^ 8 + (s.ucRun c).1 * 2 ^ 16)
      ((s.ucCounted c).ucUsr c.unit)
    refine ⟨by rw [State.flag, hbusy]; rfl, by rw [State.flag, hdone]; rfl, hmbx, fun hcmd hunit => hrsp.trans (Nat.mod_eq_of_lt ?_)⟩
    have hst := s.ucRun_status c
    omega

end Sys2Proof.Machine
end

section
/-! SUPPORT. Proofs about Fenreeve's standard messages: MCTP control, PLDM base and monitoring, and SPDM (R404, R406, R416, R419). -/
namespace Sys2Proof.Machine

section Messages
variable {s : State} {m : MReq}

/-- A message that Fenreeve takes is answered by what its handling gives once the mailbox is served. -/
theorem State.serves_at {b : Bool} {c : Instr} {f g : State → State} (hc : exec c s = ok s (s.take m b g)) (h : g s.serveMbx = f s.serveMbx) : s.serves m b c f := by
  obtain ⟨hout, hbad, hserved⟩ := State.serves_of_take hc
  refine ⟨hout, hbad, fun hans hgood hknown => ⟨fun hkind => ?_, (hserved hans hgood hknown).2⟩⟩
  rw [← h]
  exact (hserved hans hgood hknown).1 hkind

theorem State.answers_iff {b : Bool} : s.answers b = true ↔
    s.pins.cold = false ∧ (s.rd F.FRV_STATUS_BOOT 0 = 1 ∨ (b = true ∧ s.rd F.FRV_STATUS_BOOT 0 = 2)) := by
  simp [State.answers, State.moss, State.fwRuns]

/-! ### Numbers that are refused or not known -/

theorem refusedId_iff (id : BitVec 8) : (id = 0#8 ∨ id = 0xFF#8) ↔ (id.toNat = 0 ∨ id.toNat = 255) := by
  constructor
  · rintro (rfl | rfl)
    · exact .inl rfl
    · exact .inr rfl
  · rintro (h | h)
    · exact .inl (BitVec.eq_of_toNat_eq h)
    · exact .inr (BitVec.eq_of_toNat_eq h)

theorem pldmTypes_contains (n : Nat) : (pldmTypes.contains n).toNat = if n = 0 ∨ n = 2 ∨ n = 5 then 1 else 0 := by
  by_cases h : n = 0 ∨ n = 2 ∨ n = 5
  · rw [if_pos h]
    rcases h with rfl | rfl | rfl <;> rfl
  · rw [if_neg h]
    simp only [not_or] at h
    simp [pldmTypes, h]

/-! ### Sensors (Table 16-9) -/

theorem State.sensorOn_toNat (id : Nat) : (s.sensorOn id).toNat = if id ∈ s.frv.sensorsOff then 0 else 1 := by
  unfold State.sensorOn
  by_cases h : id ∈ s.frv.sensorsOff
  · rw [if_pos h, List.contains_iff_mem.mpr h]
    rfl
  · rw [if_neg h, Bool.eq_false_iff.mpr (mt List.contains_iff_mem.mp h)]
    rfl

theorem State.sensorReply_unknown {what : String} {l : List Nat} {id : Nat} (h : id ∉ l) : s.sensorReply m what l id = s.reply m what [1, id] := by
  rw [State.sensorReply, if_neg (mt List.contains_iff_mem.mp h)]

theorem State.sensorReply_known {what : String} {l : List Nat} {id : Nat} (h : id ∈ l) : s.sensorReply m what l id =
    s.reply m what ([0, id, if id ∈ s.frv.sensorsOff then 0 else 1, s.frv.polled.getD id 0] ++ s.sensorData id) := by
  rw [State.sensorReply, if_pos (List.contains_iff_mem.mpr h), State.sensorOn_toNat]

theorem State.sensorEnable_unknown {what : String} {l : List Nat} {id : Nat} (h : id ∉ l) (on : Bool) : s.sensorEnable m what l id on = s.reply m what [1, id] :=
  if_neg (mt List.contains_iff_mem.mp h)

/-- The sensors that are off, once one is enabled or disabled. -/
def offSensors (l : List Nat) (id : Nat) (on : Bool) : List Nat :=
  if on then l.filter (fun i => decide (i ≠ id)) else l.filter (fun i => decide (i ≠ id)) ++ [id]

theorem State.sensorEnable_known {what : String} {l : List Nat} {id : Nat} (h : id ∈ l) (on : Bool) : s.sensorEnable m what l id on =
    ({ s with frv := { s.frv with sensorsOff := offSensors s.frv.sensorsOff id on } } : State).reply m what [0, id] :=
  if_pos (List.contains_iff_mem.mpr h)

/-- A sensor's reading and its switch are answered for the sensors of a list. -/
theorem State.serves_sensor {read : MReq → BitVec 16 → Instr} {set : MReq → BitVec 16 → Bool → Instr} {what name : String} {l : List Nat}
    (hread : ∀ id, exec (read m id) s = ok s (s.take m false (fun s => s.sensorReply m what l id.toNat)))
    (hset : ∀ id on, exec (set m id on) s = ok s (s.take m false (fun s => s.sensorEnable m name l id.toNat on))) (id : BitVec 16) :
    (id.toNat ∉ l → s.serves m false (read m id) (fun s => s.reply m what [1, id.toNat]) ∧
      ∀ on, s.serves m false (set m id on) (fun s => s.reply m name [1, id.toNat])) ∧
    (id.toNat ∈ l → s.serves m false (read m id)
        (fun s => s.reply m what ([0, id.toNat, if id.toNat ∈ s.frv.sensorsOff then 0 else 1, s.frv.polled.getD id.toNat 0] ++ s.sensorData id.toNat)) ∧
      ∀ on, s.serves m false (set m id on) (fun s =>
        ({ s with frv := { s.frv with sensorsOff := offSensors s.frv.sensorsOff id.toNat on } } : State).reply m name [0, id.toNat])) :=
  ⟨fun hout => ⟨State.serves_at (hread id) (State.sensorReply_unknown hout), fun on => State.serves_at (hset id on) (State.sensorEnable_unknown hout on)⟩,
    fun hin => ⟨State.serves_at (hread id) (State.sensorReply_known hin), fun on => State.serves_at (hset id on) (State.sensorEnable_known hin on)⟩⟩

/-! ### SPDM (R419) -/

/-- A request in its turn of the negotiation, or one out of turn. -/
theorem ite_swap_of_iff_not {p q : Prop} [Decidable p] [Decidable q] {a b : State} (h : p ↔ ¬ q) : (if p then a else b) = if q then b else a := by
  by_cases hq : q
  · rw [if_neg fun hp => h.mp hp hq, if_pos hq]
  · rw [if_pos (h.mpr hq), if_neg hq]

theorem State.spdmDo_refused {good : Bool} {f : State → State} (h : s.frv.spdm ≠ 3 ∨ good = false) : s.spdmDo m good f = s.reply m "SPDM_ERROR" [] :=
  if_neg fun hgo => h.elim (fun hs => hs hgo.1) fun hg => ne_true_of_eq_false hg hgo.2

theorem State.spdmDo_done {good : Bool} {f : State → State} (h : s.frv.spdm = 3) (hgood : good = true) : s.spdmDo m good f = f s := if_pos ⟨h, hgood⟩

theorem State.inSession_up {id : Nat} {x : Session} {f : Session → State} (hx : s.frv.sessions.find? id = some x) (hup : x.up = true)
    (hm : m.session = some id) : s.inSession m id f = f x := by
  unfold State.inSession
  rw [hx]
  exact if_pos (by rw [hup, hm]; simp)

theorem State.inSession_refused {id : Nat} {f : Session → State} (h : s.frv.sessions.find? id = none ∨ m.session ≠ some id ∨
    ∃ x, s.frv.sessions.find? id = some x ∧ x.up = false) : s.inSession m id f = s.reply m "SPDM_ERROR" [] := by
  unfold State.inSession
  cases hx : s.frv.sessions.find? id with
  | none => rfl
  | some x =>
    refine if_neg ?_
    rcases h with h | h | ⟨y, hy, hup⟩
    · exact absurd (hx.symm.trans h) (Option.some_ne_none x)
    · simp [h]
    · obtain rfl : x = y := Option.some.inj (hx.symm.trans hy)
      simp [hup]

/-- FINISH as it is answered. -/
def State.finished (s : State) (m : MReq) (id : Nat) (valid : Bool) : State :=
  match s.frv.sessions.find? id with
  | some x =>
    if x.up then s.reply m "SPDM_ERROR" []
    else if valid then (s.setSession id (some { x with up := true })).reply m "FINISH_RSP" [id]
    else (s.setSession id none).reply m "SPDM_ERROR" []
  | none => s.reply m "SPDM_ERROR" []

theorem execFinish_eq (id : Nat) (valid : Bool) : exec (.finish m id valid) s = ok s (s.take m false (fun s => s.finished m id valid)) := rfl

theorem State.finished_none {id : Nat} {b : Bool} (h : s.frv.sessions.find? id = none) : s.finished m id b = s.reply m "SPDM_ERROR" [] := by
  unfold State.finished
  rw [h]

theorem State.finished_some {id : Nat} {b : Bool} {x : Session} (h : s.frv.sessions.find? id = some x) : s.finished m id b =
    if x.up then s.reply m "SPDM_ERROR" []
    else if b then (s.setSession id (some { x with up := true })).reply m "FINISH_RSP" [id] else (s.setSession id none).reply m "SPDM_ERROR" [] := by
  unfold State.finished
  rw [h]

theorem State.serves_measurements {i : BitVec 8} {l : State → List Nat} (hspdm : s.serveMbx.frv.spdm = 3) (hi : i.toNat ≤ 7 ∨ i = 0xFF#8)
    (hl : ∀ s : State, (if i = 0#8 then [0, 7] else if i = 0xFF#8 then i.toNat :: (List.range 7).flatMap (fun j => s.measure (j + 1)) else i.toNat :: s.measure i.toNat) = l s) :
    s.serves m false (.getMeasurements m i) (fun s => s.reply m "MEASUREMENTS" (l s)) := by
  refine State.serves_at rfl ((State.spdmDo_done hspdm ?_).trans (congrArg (State.reply _ m "MEASUREMENTS") (hl _)))
  simpa using hi

end Messages

/-- Settles O46: who answers in which state of BOOT, and each message's answer. -/
theorem managementMessageResult : Obligations.ManagementMessageResult := by
  unfold Obligations.ManagementMessageResult
  refine ⟨fun m inR f s => ⟨State.take_unanswered, State.take_dropped, fun hans hgood hknown => ⟨fun hkind => ?_, fun hkind => ?_⟩⟩, fun s b => State.answers_iff,
    fun m s => ?_⟩
  · exact (State.take_served hans hgood hknown).trans (if_pos hkind)
  · exact (State.take_served hans hgood hknown).trans (if_neg (ne_true_of_eq_false hkind))
  intro v r
  refine ⟨fun id => State.serves_at rfl (ite_congr (propext (refusedId_iff id)) (fun _ => rfl) fun _ => rfl), State.serves_at rfl rfl, State.serves_at rfl rfl,
    State.serves_at rfl rfl, State.serves_at rfl rfl, State.serves_at rfl rfl,
    fun id => State.serves_at rfl (ite_congr (propext (refusedId_iff id)) (fun _ => rfl) fun _ => rfl), State.serves_at rfl rfl,
    fun ty => ⟨State.serves_at rfl ?_, State.serves_at rfl ?_⟩, State.serves_at rfl rfl, State.serves_at rfl rfl, fun h => State.serves_at rfl rfl,
    fun id => State.serves_at rfl rfl, State.serves_at rfl rfl, ?_, State.serves_at rfl rfl, State.serves_at rfl ?_, State.serves_at rfl ?_, State.serves_at rfl ?_,
    ?_, fun id => ⟨fun hnone => ?_, fun x hx hup b => ?_, fun x hx hdown => ⟨?_, ?_⟩⟩, fun hspdm sl off len ix k => ?_,
    fun hspdm => ⟨State.serves_at rfl (State.spdmDo_done hspdm rfl), fun off len => State.serves_at rfl (State.spdmDo_done hspdm rfl),
      State.serves_at rfl (State.spdmDo_done hspdm rfl),
      fun sl off len hsl => ⟨State.serves_at rfl (State.spdmDo_refused (.inr (decide_eq_false hsl))), State.serves_at rfl (State.spdmDo_refused (.inr (decide_eq_false hsl)))⟩,
      State.serves_measurements hspdm (.inl (by decide)) fun s => rfl, State.serves_measurements hspdm (.inr rfl) fun s => rfl,
      fun i hlow hhigh => State.serves_at rfl (State.spdmDo_refused (.inr ?_)), fun id hsome => State.serves_at rfl (State.spdmDo_refused (.inr ?_)),
      fun i hlow hhigh => State.serves_measurements hspdm (.inl hhigh) fun s => ?_, fun id hnone => State.serves_at rfl (State.spdmDo_done hspdm ?_)⟩⟩
  · exact congrArg (fun n => State.reply _ m "GET_PLDM_VERSION" [ty.toNat, n]) (pldmTypes_contains ty.toNat)
  · exact congrArg (fun n => State.reply _ m "GET_PLDM_COMMANDS" [ty.toNat, n]) (pldmTypes_contains ty.toNat)
  · simp only [List.forall_mem_cons]
    exact ⟨State.serves_sensor (fun _ => rfl) fun _ _ => rfl, State.serves_sensor (fun _ => rfl) fun _ _ => rfl, fun _ h => absurd h List.not_mem_nil⟩
  · exact ite_swap_of_iff_not (by omega)
  · exact ite_swap_of_iff_not (by simp; omega)
  · exact if_neg fun h => Bool.false_ne_true h.2
  · rintro id f c (⟨rfl, rfl⟩ | ⟨rfl, rfl⟩ | ⟨rfl, rfl⟩)
    · exact ⟨fun x hx hup hm => State.serves_at rfl (State.inSession_up hx hup hm), fun h => State.serves_at rfl (State.inSession_refused h)⟩
    · exact ⟨fun x hx hup hm => State.serves_at rfl (State.inSession_up hx hup hm), fun h => State.serves_at rfl (State.inSession_refused h)⟩
    · exact ⟨fun x hx hup hm => State.serves_at rfl (State.inSession_up hx hup hm), fun h => State.serves_at rfl (State.inSession_refused h)⟩
  · exact State.serves_at (execFinish_eq id true) (State.finished_none hnone)
  · exact State.serves_at (execFinish_eq id b) ((State.finished_some hx).trans (if_pos hup))
  · exact State.serves_at (execFinish_eq id true) ((State.finished_some hx).trans ((if_neg (ne_true_of_eq_false hdown)).trans (if_pos rfl)))
  · exact State.serves_at (execFinish_eq id false) ((State.finished_some hx).trans ((if_neg (ne_true_of_eq_false hdown)).trans (if_neg Bool.false_ne_true)))
  · simp only [List.forall_mem_cons]
    have refused {good : Bool} {f : State → State} : v.spdmDo m good f = v.reply m "SPDM_ERROR" [] := State.spdmDo_refused (.inl hspdm)
    exact ⟨State.serves_at rfl refused, State.serves_at rfl refused, State.serves_at rfl refused, State.serves_at rfl refused, State.serves_at rfl refused,
      fun _ h => absurd h List.not_mem_nil⟩
  · have hne : i ≠ 0xFF#8 := fun h => by rw [h] at hhigh; exact absurd hhigh (by decide)
    simp only [Bool.or_eq_false_iff, decide_eq_false_iff_not]
    exact ⟨by omega, hne⟩
  · exact Bool.eq_false_iff.mpr fun h => hsome (Option.isNone_iff_eq_none.mp h)
  · have h0 : i ≠ 0#8 := fun h => by rw [h] at hlow; exact absurd hlow (by decide)
    have hff : i ≠ 0xFF#8 := fun h => by rw [h] at hhigh; exact absurd hhigh (by decide)
    rw [if_neg h0, if_neg hff]
  · exact Option.isNone_iff_eq_none.mpr hnone

end Sys2Proof.Machine
end

section
/-! SUPPORT. Proofs about firmware update and sensor polls (R416 to R418). -/
namespace Sys2Proof.Machine

/-! ### The flash -/

section Flash
variable {s : State}

theorem State.eraseSlot_flash (b a : Nat) :
    (s.eraseSlot b).frv.flash.getD a 0xFF = if b * 0x800000 ≤ a ∧ a < b * 0x800000 + 0x800000 then 0xFF else s.frv.flash.getD a 0xFF := by
  have hfind := SMap.find_filter s.frv.flash (fun k => !(decide (slotBase b ≤ k) && decide (k < slotBase b + flashSlot))) a
  unfold State.eraseSlot SMap.getD
  dsimp only
  rw [hfind]
  have hin : (decide (slotBase b ≤ a) && decide (a < slotBase b + flashSlot)) = true ↔ b * 0x800000 ≤ a ∧ a < b * 0x800000 + 0x800000 := by
    rw [Bool.and_eq_true, decide_eq_true_eq, decide_eq_true_eq]
    rfl
  by_cases h : b * 0x800000 ≤ a ∧ a < b * 0x800000 + 0x800000
  · rw [if_pos h, hin.mpr h]
    rfl
  · rw [if_neg h, Bool.eq_false_iff.mpr (mt hin.mp h)]
    rfl

/-- Bytes written from an address on. -/
def flashPut (f : SMap Byte) (k : Nat) (l : List (Byte × Nat)) : SMap Byte := l.foldl (fun (f : SMap Byte) p => f.set 0xFF#8 (k + p.2) p.1) f

theorem getD_flashPut (f : SMap Byte) (k n : Nat) (d : List Byte) (a : Nat) :
    (flashPut f k (d.zipIdx n)).getD a 0xFF = if k + n ≤ a ∧ a < k + n + d.length then d[a - (k + n)]?.getD 0 else f.getD a 0xFF := by
  induction d generalizing f n with
  | nil => exact (if_neg (by simp)).symm
  | cons b d ih =>
    rw [List.zipIdx_cons, flashPut, List.foldl_cons]
    refine (ih (f.set 0xFF#8 (k + n) b) (n + 1)).trans ?_
    rw [List.length_cons]
    by_cases hin : k + (n + 1) ≤ a ∧ a < k + (n + 1) + d.length
    · have hsub : a - (k + n) = (a - (k + (n + 1))) + 1 := by omega
      rw [if_pos hin, if_pos (by omega), hsub, List.getElem?_cons_succ]
    · rw [if_neg hin]
      by_cases hhere : a = k + n
      · subst hhere
        rw [if_pos (by omega), Nat.sub_self]
        exact SMap.getD_set_same f (k + n) b
      · rw [if_neg (by omega), SMap.getD_set_ne _ _ hhere]

theorem State.putFlash_flash (k : Nat) (d : List Byte) (a : Nat) :
    (s.putFlash k d).frv.flash.getD a 0xFF = if k ≤ a ∧ a < k + d.length then d[a - k]?.getD 0 else s.frv.flash.getD a 0xFF :=
  getD_flashPut s.frv.flash k 0 d a

theorem State.slotVerifies_iff (b : Nat) :
    s.slotVerifies b = true ↔ s.headerOk b = true ∧ s.codeOk b = true ∧ (s.fwRuns = true → s.rd F.FRV_STATUS_SEQ 0 < s.imgSeq b) := by
  unfold State.slotVerifies
  cases s.fwRuns <;> simp [and_assoc]

end Flash

/-! ### Sensor polls (R416) -/

section Polls
variable {s : State}

/-- A poll takes a sensor's reading, and may tell of an event. -/
theorem State.pollOne_rest (id : Nat) : (s.pollOne id).regs = s.regs ∧ (s.pollOne id).mem = s.mem ∧ (s.pollOne id).frv.polled = s.frv.polled.set 0 id (s.sensorNow id) := by
  unfold State.pollOne
  dsimp only
  split
  · split <;> exact ⟨rfl, rfl, rfl⟩
  · exact ⟨rfl, rfl, rfl⟩

/-- A sensor's reading depends on registers alone. -/
theorem State.sensorNow_congr {u : State} (h : u.regs = s.regs) (id : Nat) : u.sensorNow id = s.sensorNow id := by
  have hrd (f : Fld) (i x : Nat) : u.rd f i x = s.rd f i x := by rw [State.rd, State.rd, h]
  unfold State.sensorNow State.usr State.fenState
  simp only [hrd]

/-! The sensors of a list are polled, one after the other. -/

theorem State.foldl_pollOne_rest (l : List Nat) : (l.foldl (fun s id => s.pollOne id) s).regs = s.regs ∧ (l.foldl (fun s id => s.pollOne id) s).mem = s.mem := by
  induction l generalizing s with
  | nil => exact ⟨rfl, rfl⟩
  | cons id l ih =>
    obtain ⟨hregs, hmem, -⟩ := s.pollOne_rest id
    obtain ⟨hregs', hmem'⟩ := ih (s := s.pollOne id)
    exact ⟨hregs'.trans hregs, hmem'.trans hmem⟩

/-- A reading already taken stays as it is, when taken again. -/
theorem State.foldl_pollOne_keeps {l : List Nat} {id : Nat} (h : s.frv.polled.getD id 0 = s.sensorNow id) : (l.foldl (fun s id => s.pollOne id) s).frv.polled.getD id 0 = s.sensorNow id := by
  induction l generalizing s with
  | nil => exact h
  | cons j l ih =>
    obtain ⟨hregs, -, hpolled⟩ := s.pollOne_rest j
    have hnow := State.sensorNow_congr hregs id
    refine (ih (s := s.pollOne j) ?_).trans hnow
    rw [hnow, hpolled]
    by_cases hj : id = j
    · rw [hj, SMap.getD_set_same]
    · rw [SMap.getD_set_ne _ _ hj, h]

theorem State.foldl_pollOne_reads {l : List Nat} {id : Nat} (hid : id ∈ l) : (l.foldl (fun s id => s.pollOne id) s).frv.polled.getD id 0 = s.sensorNow id := by
  induction l generalizing s with
  | nil => exact absurd hid List.not_mem_nil
  | cons j l ih =>
    obtain ⟨hregs, -, hpolled⟩ := s.pollOne_rest j
    have hnow := State.sensorNow_congr hregs id
    rcases List.mem_cons.mp hid with rfl | hl
    · refine (State.foldl_pollOne_keeps (s := s.pollOne id) ?_).trans hnow
      rw [hnow, hpolled, SMap.getD_set_same]
    · exact (ih (s := s.pollOne j) hl).trans hnow

theorem execSensorPoll_reads (hans : s.answers false = true) : s.gives .sensorPoll ((numericSensors ++ stateSensors).foldl (fun s id => s.pollOne id) s).fenAuto.settle :=
  congrArg (ok s) (if_pos hans)

end Polls

/-- Settles O47: each request's stage, and what a transfer leaves of the slot. -/
theorem firmwareUpdateResult : Obligations.FirmwareUpdateResult := by
  unfold Obligations.FirmwareUpdateResult
  refine ⟨fun m s => ?_, fun s b => State.slotVerifies_iff b, fun s b a => State.eraseSlot_flash b a, fun s k d a => State.putFlash_flash k d a,
    fun s => ⟨fun hout => congrArg (ok s) (if_neg (by rw [hout]; decide)), fun hans => ?_⟩⟩
  · intro v r upd off
    refine ⟨State.serves_at rfl rfl, State.serves_at rfl rfl, fun hnone => ?_, fun u hsome => ?_⟩
    · have hu : s.serveMbx.frv.update = none := hnone
      refine ⟨State.serves_at rfl ?_, fun id => State.serves_at rfl ?_, fun id n => State.serves_at rfl ?_, fun d => State.serves_at rfl ?_,
        fun b => State.serves_at rfl ?_, State.serves_at rfl ?_, State.serves_at rfl ?_, State.serves_at rfl ?_⟩ <;> rw [hu] <;> rfl
    · have hu : s.serveMbx.frv.update = some u := hsome
      refine ⟨State.serves_at rfl ?_, State.serves_at rfl ?_, State.serves_at rfl ?_,
        fun h0 => ⟨State.serves_at rfl ?_, fun id hid => State.serves_at rfl ?_⟩, fun h0 id => State.serves_at rfl ?_,
        fun h1 n hpos hle => State.serves_at rfl ?_, fun h1 id n hbad => State.serves_at rfl ?_, fun h1 id n => State.serves_at rfl ?_,
        fun h2 => ⟨State.serves_at rfl ?_, fun d hd hlen hmore => State.serves_at rfl ?_⟩, fun h2 d hd hlen hlast => State.serves_at rfl ?_,
        fun d hbad => State.serves_at rfl ?_, fun h2 => State.serves_at rfl ?_, fun h3 => State.serves_at rfl ?_, State.serves_at rfl ?_,
        fun h3 b => State.serves_at rfl ?_⟩
      · exact if_pos (by rw [hu]; rfl)
      · rw [hu] <;> rfl
      · exact if_pos (by rw [hu]; rfl)
      · rw [hu]
        exact if_pos ⟨h0, rfl⟩
      · rw [hu]
        exact if_neg fun h => hid h.2
      · rw [hu]
        exact if_neg fun h => h0 h.1
      · rw [hu]
        exact if_pos ⟨h1, rfl, hpos, hle⟩
      · rw [hu]
        exact if_neg fun ⟨_, hid, hpos, hle⟩ => hbad.elim (fun h => h hid) fun h => h.elim (fun h0 => by omega) fun hlt => absurd hle (Nat.not_le.mpr hlt)
      · rw [hu]
        exact if_neg fun h => h1 h.1
      · rw [hu]
        exact if_pos h2
      · rw [hu]
        exact (if_neg (by rintro (h | h | h); exacts [h h2, hd h, h hlen])).trans (if_pos hmore)
      · rw [hu]
        refine (if_neg (by rintro (h | h | h); exacts [h h2, hd h, h hlen])).trans ((if_neg (Nat.not_lt.mpr hlast)).trans ?_)
        rfl
      · rw [hu]
        exact if_pos hbad
      · rw [hu]
        exact if_neg h2
      · rw [hu]
        exact if_pos ⟨h3, rfl⟩
      · rw [hu]
        exact if_neg fun h => Bool.false_ne_true h.2
      · rw [hu]
        exact if_neg fun h => h3 h.1
  · have hpolls := fun id hid => State.foldl_pollOne_reads (s := s) (l := numericSensors ++ stateSensors) (id := id) hid
    obtain ⟨hregs, hmem⟩ := State.foldl_pollOne_rest (s := s) (numericSensors ++ stateSensors)
    exact And.intro (execSensorPoll_reads hans) (And.intro hpolls (And.intro hregs hmem))

end Sys2Proof.Machine
end

section
/-! SUPPORT. Proofs about declared failures, notices, heartbeats and fences (R425 to R431). -/
namespace Sys2Proof.Machine

/-! ### Units that fail (R425) -/

section Units
variable {s : State} {u : Nat}

/-- Another unit's transition leaves this one's STATE. -/
theorem State.usr_usrState_ne {v st cause : Nat} (hu : u < 40) (hv : v < 40) (h : u ≠ v) : (s.usrState v st cause).usr u = s.usr u := by
  have hfar (f : Fld) (hf : f.lo < 64) (hoff : f.off = 0x100) (hstride : f.stride = 8) : F.FRV_USR_STATE.key 0 u ≠ f.key 0 v := by
    refine Fld.key_ne (.inr (.inr (.inl ?_))) (by decide) hf
    rw [hoff, hstride]
    change (0x100 + 8 * u) % 1048576 ≠ _
    omega
  unfold State.usrState State.usrTo
  split
  · rfl
  · have hwrs : (s.wrs 0 v [(F.FRV_USR_STATE, st), (F.FRV_USR_OWNER, s.rd F.FRV_USR_OWNER 0 v), (F.FRV_USR_CAUSE, cause),
        (F.FRV_USR_EPOCH, s.rd F.FRV_USR_EPOCH 0 v + 1)]).usr u = s.usr u := by
      simp only [State.wrs_cons, State.wrs_nil]
      rw [State.usr, State.rd_wr_ne _ _ (hfar _ (by decide) rfl rfl), State.rd_wr_ne _ _ (hfar _ (by decide) rfl rfl),
        State.rd_wr_ne _ _ (hfar _ (by decide) rfl rfl), State.rd_wr_ne _ _ (hfar _ (by decide) rfl rfl), State.usr]
    dsimp only
    split
    · exact hwrs
    · exact hwrs

theorem State.usr_usrState {st cause : Nat} (hst : st < 8) (hchange : st ≠ s.usr u) : (s.usrState u st cause).usr u = st := by
  unfold State.usrState State.usrTo
  rw [if_neg fun h => hchange h.1]
  have hwrs : (s.wrs 0 u [(F.FRV_USR_STATE, st), (F.FRV_USR_OWNER, s.rd F.FRV_USR_OWNER 0 u), (F.FRV_USR_CAUSE, cause),
      (F.FRV_USR_EPOCH, s.rd F.FRV_USR_EPOCH 0 u + 1)]).usr u = st := by
    simp only [State.wrs_cons, State.wrs_nil]
    rw [State.usr, State.rd_wr_apart (by decide), State.rd_wr_apart (by decide), State.rd_wr_apart (by decide), State.rd_wr_same]
    exact Nat.mod_eq_of_lt hst
  dsimp only
  split
  · exact hwrs
  · exact hwrs

/-- A failed tile takes its table set with it. -/
theorem State.tileUsr_failed (t cause : Nat) : s.tileUsr t uFailed cause = (s.usrState t uFailed cause).usrState (32 + t) uFailed cause := by
  unfold State.tileUsr
  dsimp only
  rw [if_neg (by decide), if_pos rfl]

/-- The unit's STATE becomes FAILED. -/
def State.failState (s : State) (u : Nat) : State := if u < 8 then s.tileUsr u uFailed byFlt else s.usrState u uFailed byFlt

theorem State.failState_usr (hu : u < 40) (halive : s.usr u ≠ 4) : (s.failState u).usr u = 4 := by
  unfold State.failState
  split
  case isTrue h8 => rw [State.tileUsr_failed, State.usr_usrState_ne hu (by omega) (by omega), State.usr_usrState (by decide) (Ne.symm halive)]
  case isFalse => rw [State.usr_usrState (by decide) (Ne.symm halive)]

theorem State.failState_mem : (s.failState u).mem = s.mem := by
  unfold State.failState
  split
  · exact State.mem_tileUsr
  · rw [State.usrState, State.usrTo_rest]

/-- A failed port's register shows it. -/
def State.failPort (s : State) (u : Nat) : State := if 16 ≤ u ∧ u < 32 then s.wr F.CWP_STATUS_STATE (u - 16) 4 else s

theorem State.failPort_rest : (s.failPort u).usr u = s.usr u ∧ (s.failPort u).mem = s.mem := by
  unfold State.failPort
  split
  · exact ⟨State.rd_wr_foreign (by decide) _ _ _, rfl⟩
  · exact ⟨rfl, rfl⟩

/-- The unit stands in the map of failures, and among the lost. -/
def State.failMapped (s : State) (u : Nat) : State :=
  ({ s with flt := { s.flt with down := s.flt.down ++ (if u < 8 then [u, 32 + u] else [u]).filter (fun v => !s.flt.down.contains v) } } : State).wr
    F.FLT_FAILMAP_UNITS 0 (s.rd F.FLT_FAILMAP_UNITS 0 ||| 2 ^ u)

theorem State.markFailed_eq : s.markFailed u = ((s.failState u).failPort u).failMapped u := rfl

theorem bits_or_pow {u w : Nat} (n : Nat) (h : u < w) : bits ((n ||| 2 ^ u) % 2 ^ w) u 1 = 1 := by
  have htest : ((n ||| 2 ^ u) % 2 ^ w).testBit u = true := by
    rw [Nat.testBit_mod_two_pow, Nat.testBit_or, Nat.testBit_two_pow_self, Bool.or_true, decide_eq_true h]
    rfl
  rw [bits_eq]
  exact (Nat.toNat_testBit _ _).symm.trans (congrArg Bool.toNat htest)

theorem State.failMapped_rest : (s.failMapped u).usr u = s.usr u ∧ (s.failMapped u).mem = s.mem :=
  ⟨State.rd_wr_foreign (f := F.FLT_FAILMAP_UNITS) (by decide) _ _ _, rfl⟩

theorem State.failMapped_map (hu : u < 40) : bits ((s.failMapped u).rd F.FLT_FAILMAP_UNITS 0) u 1 = 1 := by
  rw [State.failMapped, State.rd_wr_same]
  exact bits_or_pow _ hu

theorem State.markFailed_result (hu : u < 40) (halive : s.usr u ≠ 4) :
    (s.markFailed u).usr u = 4 ∧ bits ((s.markFailed u).rd F.FLT_FAILMAP_UNITS 0) u 1 = 1 ∧ (s.markFailed u).mem = s.mem := by
  rw [State.markFailed_eq]
  obtain ⟨husr, hmem⟩ := State.failMapped_rest (s := (s.failState u).failPort u) (u := u)
  obtain ⟨husr', hmem'⟩ := State.failPort_rest (s := s.failState u) (u := u)
  exact ⟨husr.trans (husr'.trans (State.failState_usr hu halive)), State.failMapped_map hu, hmem.trans (hmem'.trans State.failState_mem)⟩

end Units

/-! ### Heartbeats (R428) -/

/-- One more period without each rank's heartbeat. -/
theorem getD_misses {l : List Nat} (hnodup : l.Nodup) (m : SMap Nat) (d : Nat) :
    (l.foldl (fun m d => m.set 0 d (m.getD d 0 + 1)) m).getD d 0 = if d ∈ l then m.getD d 0 + 1 else m.getD d 0 := by
  induction l generalizing m with
  | nil => rfl
  | cons e l ih =>
    obtain ⟨hout, hrest⟩ := List.nodup_cons.mp hnodup
    rw [List.foldl_cons, ih hrest]
    by_cases hd : d = e
    · subst hd
      rw [if_neg hout, if_pos List.mem_cons_self, SMap.getD_set_same]
    · rw [SMap.getD_set_ne _ _ hd]
      by_cases hl : d ∈ l
      · rw [if_pos hl, if_pos (List.mem_cons_of_mem _ hl)]
      · rw [if_neg hl, if_neg fun h => (List.mem_cons.mp h).elim hd hl]

section Peers
variable {s : State}

theorem State.peers_nodup : s.peers.Nodup := List.nodup_range.filter _

/-- A heartbeat goes to every other member, and each one's count of silent periods grows. -/
def State.beat (s : State) : State :=
  { s.tellMembers .heartbeat [] with flt := { (s.tellMembers .heartbeat []).flt with
    misses := s.peers.foldl (fun m d => m.set 0 d (m.getD d 0 + 1)) (s.tellMembers .heartbeat []).flt.misses } }

theorem State.beat_result : s.beat.mem = s.mem ∧ s.beat.regs = s.regs ∧ s.beat.tiles = s.tiles ∧
    ∀ d ∈ s.peers, s.beat.flt.misses.getD d 0 = s.flt.misses.getD d 0 + 1 := by
  have hrest := State.tellMembers_rest (s := s) .heartbeat []
  unfold State.beat
  rw [hrest]
  exact ⟨rfl, rfl, rfl, fun d hd => (getD_misses State.peers_nodup s.flt.misses d).trans (if_pos hd)⟩

theorem execHeartbeatSend_beats (h : s.rd F.FEN_STATUS_STATE 0 = 2) : s.gives .heartbeatSend s.beat := congrArg (ok s) (if_pos h)

end Peers

/-! ### Fences (R431) -/

section Fences
variable {s : State} {i : Nat} {f : Fence}

theorem execDrainFenceComplete_of (hf : s.flt.fences[i]? = some f) : s.gives (.drainFenceComplete i)
    (if f.waiting = [] then s.fenceEnd i
    else if f.waiting.contains s.rank && s.fenceClear f.party then
      (let s2 := if f.party.isLocal then s.fencePart i s.rank else (s.fencePart i s.rank).tellMembers .fenceDone []
       if (s2.flt.fences[i]?).any (fun g => g.waiting.isEmpty) then s2.fenceEnd i else s2)
    else s) := by
  refine congrArg (ok s) ?_
  rw [hf]

theorem execFenceCompleteReport_of {r : Fin 64} (hf : s.flt.fences[i]? = some f) : s.gives (.fenceCompleteReport r i)
    (if f.waiting.contains r.val && r.val ≠ s.rank then
      (if f.waiting = [r.val] then (s.fencePart i r.val).fenceEnd i else s.fencePart i r.val)
    else s) := by
  refine congrArg (ok s) ?_
  rw [hf]

/-- A fence once a rank's part is complete. -/
theorem State.fencePart_fence (hf : s.flt.fences[i]? = some f) (r : Nat) :
    (s.fencePart i r).flt.fences[i]? = some { f with waiting := f.waiting.filter (fun d => decide (d ≠ r)) } := by
  unfold State.fencePart
  dsimp only
  rw [List.getElem?_map, List.getElem?_zipIdx, hf]
  simp

/-- This device's part of a fence is complete, and told. -/
def State.partDone (s : State) (i : Nat) (f : Fence) : State :=
  if f.party.isLocal then s.fencePart i s.rank else (s.fencePart i s.rank).tellMembers .fenceDone []

theorem State.partDone_flt : (s.partDone i f).flt = (s.fencePart i s.rank).flt := by
  unfold State.partDone
  split
  · rfl
  · rw [State.tellMembers_rest]

theorem State.partDone_empty (hf : s.flt.fences[i]? = some f) :
    ((s.partDone i f).flt.fences[i]?).any (fun g => g.waiting.isEmpty) = true ↔ ∀ d ∈ f.waiting, d = s.rank := by
  rw [State.partDone_flt, State.fencePart_fence hf, Option.any_some, List.isEmpty_iff, List.filter_eq_nil_iff]
  simp

end Fences

/-- Settles O48: what a declaration writes, and which notices and fences count. -/
theorem failureResult : Obligations.FailureResult := by
  unfold Obligations.FailureResult
  refine ⟨fun code unit s => ⟨fun r hr => exec_unitFailDeclare_of_reported hr, fun hnone => ?_⟩, fun s u info => ⟨fun c hlow hhigh => ?_, rfl, rfl, rfl, rfl, rfl⟩,
    fun s c u info => ⟨fun h => if_pos (.inr h), State.markFailed_result⟩, fun r s => ⟨fun hout => ?_, fun hin => ?_⟩,
    fun s => ⟨fun h => congrArg (ok s) (if_neg h), fun h => ⟨_, execHeartbeatSend_beats h, s.beat_result⟩, rfl⟩, fun i r s => ⟨fun hnone => ?_, fun f hf => ?_⟩⟩
  · have hfind : s.reports.find? (fun r => r.code = code.toNat && r.unit = unit.toNat) = none := by
      refine List.find?_eq_none.mpr fun r hr => ?_
      rcases hnone r hr with h | h <;> simp [h]
    refine ⟨fun h1 h2 h3 => congrArg (ok s) ?_, fun h => congrArg (ok s) ?_⟩
    · rw [hfind]
      exact if_neg (by rintro (h | h | h); exacts [h1 h, h2 h, h3 h])
    · rw [hfind]
      exact if_pos h
  · exact (if_neg (by omega)).trans (if_pos ⟨hlow, hhigh⟩)
  · have hnot : ¬ s.isPeer r.val = true := ne_true_of_eq_false hout
    exact ⟨fun n => congrArg (ok s) (if_neg hnot), congrArg (ok s) (if_neg hnot), congrArg (ok s) (if_neg (by rw [hout]; exact Bool.false_ne_true)),
      congrArg (ok s) (if_neg hnot)⟩
  · refine ⟨fun d => congrArg (ok s) (if_pos hin), fun u => congrArg (ok s) (if_pos hin), fun f => congrArg (ok s) (if_pos hin), congrArg (ok s) (if_pos hin),
      fun hlt => congrArg (ok s) (if_neg ?_), fun hle => congrArg (ok s) (if_pos ?_), congrArg (ok s) (if_pos hin)⟩
    · rw [hin, Bool.true_and, decide_eq_true_eq]
      omega
    · rw [hin, Bool.true_and, decide_eq_true_eq]
      exact hle
  · refine ⟨congrArg (ok s) ?_, congrArg (ok s) ?_⟩ <;> rw [hnone]
  · have hdrain := execDrainFenceComplete_of hf
    have hreport := execFenceCompleteReport_of (r := r) hf
    refine ⟨fun hnil => ?_, fun hsome hstay => ?_, fun hrank hclear => ?_, fun hstay => ?_, fun hr hone => ?_, fun hr hmem hmore => ?_⟩
    · rwa [if_pos hnil] at hdrain
    · rwa [if_neg hsome, if_neg (by rcases hstay with h | h <;> simp [h])] at hdrain
    · have hne : f.waiting ≠ [] := fun h => List.not_mem_nil (h ▸ hrank)
      rw [if_neg hne, if_pos (by simp [hrank, hclear])] at hdrain
      intro s1
      refine ⟨fun hall => hdrain.trans (congrArg (ok s) (if_pos ((State.partDone_empty hf).mpr hall))), fun ⟨d, hd, hother⟩ =>
        hdrain.trans (congrArg (ok s) (if_neg fun h => hother ((State.partDone_empty hf).mp h d hd)))⟩
    · rwa [if_neg (by rcases hstay with h | h <;> simp [h])] at hreport
    · rwa [if_pos (by simp [hone, hr]), if_pos hone] at hreport
    · rwa [if_pos (by simp [hmem, hr]), if_neg hmore] at hreport

end Sys2Proof.Machine
end

section
/-! SUPPORT. Proofs about boot, ONLINE retries, module and SMBus pins, and boundary scan (R420, R466, R482 to R486). -/
namespace Sys2Proof.Machine

/-! ### The boot ROM (R420) -/

section Boot
variable {s : State}

theorem State.candidates_mem {b : Nat} (hb : b ∈ s.candidates) : s.headerOk b = true ∧ b < 2 := by
  have hfilter {b : Nat} (h : b ∈ [0, 1].filter s.headerOk) : s.headerOk b = true ∧ b < 2 := by
    obtain ⟨hmem, hok⟩ := List.mem_filter.mp h
    refine ⟨hok, ?_⟩
    simp only [List.mem_cons, List.not_mem_nil, or_false] at hmem
    omega
  unfold State.candidates at hb
  dsimp only at hb
  split at hb
  case isTrue h =>
    refine hfilter ?_
    rw [h.1]
    simpa [or_comm] using hb
  case isFalse => exact hfilter hb

theorem State.headerOk_needs {b : Nat} (h : s.headerOk b = true) : s.frv.fuses ≤ s.imgSvn b ∧ s.flashNat (b * 0x800000) 4 = 0x4656524E := by
  unfold State.headerOk at h
  simp only [Bool.and_eq_true, decide_eq_true_eq] at h
  exact ⟨h.2, h.1.1.1.1.1.1.1.1.1.1.1⟩

theorem State.candidates_both (h0 : s.headerOk 0 = true) (h1 : s.headerOk 1 = true) :
    s.candidates = if s.imgSeq 0 < s.imgSeq 1 then [1, 0] else [0, 1] := by
  have hboth : [0, 1].filter s.headerOk = [0, 1] := by simp [h0, h1]
  unfold State.candidates
  dsimp only
  rw [hboth]
  simp

/-- FRV.STATUS of a slot that runs. -/
def State.bootRegs (s : State) (b : Nat) : State :=
  s.wrs 0 0 [(F.FRV_STATUS_BOOT, 1), (F.FRV_STATUS_SLOT, b), (F.FRV_STATUS_SVN, s.imgSvn b), (F.FRV_STATUS_FUSESVN, s.frv.fuses),
    (F.FRV_STATUS_SEQ, s.imgSeq b), (F.FRV_FWVER_VER, s.free 0)]

theorem State.bootSlot_warm (b : Nat) : ∃ l, s.bootSlot b false = (({ s with frv := { s.frv with meas := l } } : State).bootRegs b).drawn :=
  ⟨_, rfl⟩

theorem State.bootRegs_result {b : Nat} (hb : b < 2) (hsvn : s.imgSvn b < 128) (hseq : s.imgSeq b < 2 ^ 32) : (s.bootRegs b).rd F.FRV_STATUS_BOOT 0 = 1 ∧
    (s.bootRegs b).rd F.FRV_STATUS_SLOT 0 = b ∧ (s.bootRegs b).rd F.FRV_STATUS_SVN 0 = s.imgSvn b ∧ (s.bootRegs b).rd F.FRV_STATUS_SEQ 0 = s.imgSeq b := by
  simp only [State.bootRegs, State.wrs_cons, State.wrs_nil]
  refine ⟨?_, ?_, ?_, ?_⟩
  · rw [State.rd_wr_apart (by decide), State.rd_wr_apart (by decide), State.rd_wr_apart (by decide), State.rd_wr_apart (by decide),
      State.rd_wr_apart (by decide), State.rd_wr_same]
    rfl
  · rw [State.rd_wr_apart (by decide), State.rd_wr_apart (by decide), State.rd_wr_apart (by decide), State.rd_wr_apart (by decide), State.rd_wr_same]
    exact Nat.mod_eq_of_lt hb
  · rw [State.rd_wr_apart (by decide), State.rd_wr_apart (by decide), State.rd_wr_apart (by decide), State.rd_wr_same]
    exact Nat.mod_eq_of_lt hsvn
  · rw [State.rd_wr_apart (by decide), State.rd_wr_same]
    exact Nat.mod_eq_of_lt hseq

theorem execBootRom_waits (h : s.pins.cold = true ∨ s.rd F.FRV_STATUS_BOOT 0 = 1 ∨ s.rd F.FRV_STATUS_BOOT 0 = 2) : s.gives .bootRom s := by
  refine congrArg (ok s) (if_pos ?_)
  rcases h with h | h | h
  · simp [State.moss, h]
  · simp [h]
  · simp [h]

section Runs
variable (hwarm : s.pins.cold = false) (hboot : s.rd F.FRV_STATUS_BOOT 0 = 0 ∨ s.rd F.FRV_STATUS_BOOT 0 = 3)
include hwarm hboot

theorem execBootRom_slot {b : Nat} (hb : s.candidates.find? s.codeOk = some b) :
    s.gives .bootRom (s.bootSlot b (s.rd F.FRV_STATUS_BOOT 0 = 0)).settle := by
  refine congrArg (ok s) ((if_neg (by rcases hboot with h | h <;> simp [State.moss, hwarm, h])).trans ?_)
  rw [hb]

theorem execBootRom_recovery (hnone : ∀ b ∈ s.candidates, s.codeOk b = false) :
    s.gives .bootRom (s.wrs 0 0 [(F.FRV_STATUS_BOOT, 2), (F.FRV_STATUS_FUSESVN, s.frv.fuses)]) := by
  have hfind : s.candidates.find? s.codeOk = none := List.find?_eq_none.mpr fun b hb => ne_true_of_eq_false (hnone b hb)
  refine congrArg (ok s) ((if_neg (by rcases hboot with h | h <;> simp [State.moss, hwarm, h])).trans ?_)
  rw [hfind]

end Runs
end Boot

/-! ### Pins (R482, R484) -/

/-- What Fenreeve reads of a bus's four modules. -/
theorem State.modules_read (s : State) (k : Nat) : (List.range 4).foldl (fun s n => s.emit (.other "MODULE_READ" [k, n])) s =
    { s with out := s.out ++ [.other "MODULE_READ" [k, 0], .other "MODULE_READ" [k, 1], .other "MODULE_READ" [k, 2], .other "MODULE_READ" [k, 3]] } :=
  State.foldl_emit (fun n => .other "MODULE_READ" [k, n]) (List.range 4) s

/-! ### Boundary scan (R486) -/

section Scan
variable {s : State} {tms tdi : Bool}

/-- The TAP's registers after a cycle of TCK, before the next state is entered. -/
def State.tapActs (s : State) (tdi : Bool) : Tap :=
  match s.pins.tap.st with
  | .reset => { s.pins.tap with insn := .idcode }
  | .capDr => { s.pins.tap with sh := match s.pins.tap.insn with | .bypass => 0 | .idcode => idcode | _ => Config.bsrCapture s.freeCtr % 2 ^ Config.bsrLen }
  | .shDr => { s.pins.tap with sh := shiftIn s.pins.tap.insn.len s.pins.tap.sh tdi }
  | .upDr => { s.pins.tap with latch := match s.pins.tap.insn with | .sample | .extest => s.pins.tap.sh | _ => s.pins.tap.latch }
  | .capIr => { s.pins.tap with sh := 1 }
  | .shIr => { s.pins.tap with sh := shiftIn Config.irLen s.pins.tap.sh tdi }
  | .upIr => { s.pins.tap with insn := tapInsn s.pins.tap.sh }
  | _ => s.pins.tap

/-- The next state is entered. -/
def State.tapMoved (s : State) (tms : Bool) (y : Tap) : State :=
  { s with pins := { s.pins with tap := { y with st := s.pins.tap.st.next tms, insn := if s.pins.tap.st.next tms = .reset then .idcode else y.insn } } }

/-- A cycle of TCK changes the TAP, and shows what it shifts out. -/
theorem State.tck_result : ∃ l, s.tck tms tdi = { s.tapMoved tms (s.tapActs tdi) with out := l } ∧ (s.pins.tap.st = .shDr → .other "TDO" [s.pins.tap.sh % 2] ∈ l) := by
  have htck : s.tck tms tdi = (let s1 := s.tapMoved tms (s.tapActs tdi)
      let s2 := if s.pins.tap.st = .shDr ∨ s.pins.tap.st = .shIr then s1.emit (.other "TDO" [s.pins.tap.sh % 2]) else s1
      if (s.tapActs tdi).insn = .extest ∧ (s.pins.tap.st = .upDr ∨ s.pins.tap.st = .upIr) then s2.emit (.other "EXTEST" [(s.tapActs tdi).latch]) else s2) := rfl
  rw [htck]
  dsimp only
  split
  case isTrue hext =>
    rw [if_neg (by rcases hext.2 with h | h <;> rw [h] <;> decide)]
    exact ⟨_, rfl, fun hsh => by rcases hext.2 with h | h <;> rw [hsh] at h <;> exact absurd h (by decide)⟩
  case isFalse =>
    split
    case isTrue => exact ⟨_, rfl, fun _ => List.mem_append_right _ List.mem_cons_self⟩
    case isFalse hno => exact ⟨_, rfl, fun hsh => absurd (.inl hsh) hno⟩

theorem State.tapActs_shift (h : s.pins.tap.st = .shDr) :
    (s.tapActs tdi).sh = s.pins.tap.sh / 2 + (if tdi then 2 ^ (s.pins.tap.insn.len - 1) else 0) := by
  unfold State.tapActs
  rw [h] <;> rfl

theorem State.tapActs_idcode (h : s.pins.tap.st = .capDr) (hi : s.pins.tap.insn = .idcode) : (s.tapActs tdi).sh = 0x1B409A5F := by
  unfold State.tapActs
  rw [h, hi] <;> rfl

theorem State.tapActs_bypass (h : s.pins.tap.st = .capDr) (hi : s.pins.tap.insn = .bypass) : (s.tapActs tdi).sh = 0 := by
  unfold State.tapActs
  rw [h, hi] <;> rfl

/-- State u after a cycle of TCK. -/
def State.scanned (s u : State) (tms tdi : Bool) : Prop :=
  u.pins.tap.st = s.pins.tap.st.next tms ∧ u.regs = s.regs ∧ u.mem = s.mem ∧ u.tiles = s.tiles ∧
  (u.pins.tap.st = .reset → u.pins.tap.insn = .idcode) ∧
  (s.pins.tap.st = .shDr → u.pins.tap.sh = s.pins.tap.sh / 2 + (if tdi then 2 ^ (s.pins.tap.insn.len - 1) else 0)) ∧
  (s.pins.tap.st = .shDr → .other "TDO" [s.pins.tap.sh % 2] ∈ u.out) ∧
  (s.pins.tap.st = .capDr → s.pins.tap.insn = .idcode → u.pins.tap.sh = 0x1B409A5F) ∧ (s.pins.tap.st = .capDr → s.pins.tap.insn = .bypass → u.pins.tap.sh = 0)

theorem State.tck_scanned : s.scanned (s.tck tms tdi) tms tdi := by
  obtain ⟨l, hl, htdo⟩ := State.tck_result (s := s) (tms := tms) (tdi := tdi)
  rw [hl]
  exact ⟨rfl, rfl, rfl, rfl, fun h => if_pos h, State.tapActs_shift, htdo, State.tapActs_idcode, State.tapActs_bypass⟩

end Scan

/-- Settles O50: the boot ROM's candidates in order, and the TAP's state before and after a cycle. -/
theorem bootAndPinResult : Obligations.BootAndPinResult := by
  unfold Obligations.BootAndPinResult
  refine ⟨fun s => ⟨execBootRom_waits, fun hwarm hboot => ⟨fun b => execBootRom_slot hwarm hboot, execBootRom_recovery hwarm hboot⟩, fun b => State.candidates_mem,
    fun b => State.headerOk_needs, State.candidates_both, fun b hb hsvn hseq => ?_, fun hout => congrArg (ok s) (if_neg (by rw [hout]; decide)),
    fun hans => congrArg (ok s) (if_pos hans)⟩,
    ⟨fun k s => ⟨fun hout => congrArg (ok s) (if_neg (by rw [hout]; decide)), fun hans => ⟨_, congrArg (ok s) ((if_pos hans).trans (s.modules_read k.val)), rfl⟩⟩,
    fun s => ⟨fun hout => congrArg (ok s) (if_neg (by rw [hout]; decide)), fun hans => congrArg (ok s) (if_pos hans)⟩,
    fun tms tdi s => ⟨⟨_, rfl, rfl, rfl, rfl, rfl, rfl⟩, ?_⟩, fun x => by cases x <;> rfl, rfl, rfl⟩⟩
  · obtain ⟨l, hl⟩ := State.bootSlot_warm (s := s) b
    rw [hl]
    obtain ⟨h1, h2, h3, h4⟩ := State.bootRegs_result (s := ({ s with frv := { s.frv with meas := l } } : State)) hb hsvn hseq
    exact ⟨h1, h2, h3, h4, rfl, rfl⟩
  · have hgives : s.gives (.boundaryScan tms tdi false) (s.tck tms tdi).drawn := rfl
    exact hgives.next_of (P := fun u => s.scanned u tms tdi) State.tck_scanned fun _ _ h => h

end Sys2Proof.Machine
end

section
/-! SUPPORT. Proofs about cold, warm and tile resets (R456 to R459). -/
namespace Sys2Proof.Machine

/-- What one step of a fold makes true and every step keeps holds after the fold. -/
theorem foldl_reaches {α β : Type} {P : β → Prop} {f : β → α → β} {l : List α} {a : α} {b : β} (hkeeps : ∀ b a, P b → P (f b a)) (hmem : a ∈ l)
    (hmakes : ∀ b, P (f b a)) : P (l.foldl f b) := by
  obtain ⟨l1, l2, rfl⟩ := List.append_of_mem hmem
  rw [List.foldl_append, List.foldl_cons]
  exact foldl_keeps hkeeps (hmakes _)

/-! ### Registers of a block that is reset -/

section Clear
variable {s : State} {g : Fld} {b : Blk} {inst i x : Nat}

/-- A block's reset gives its registers their reset values, but those at kept offsets. -/
theorem State.rd_clearBlk_eq (keep : Nat → Bool) : (s.clearBlk b inst keep).rd g i x =
    if g.key i x / 67108864 = b.num * 32 + inst ∧ keep (keyOff (g.key i x)) = false then g.rst else s.rd g i x := by
  have hfind := SMap.find_filter s.regs (fun k => !(decide (k / 67108864 = b.num * 32 + inst) && !keep (keyOff k))) (g.key i x)
  unfold State.clearBlk State.rd SMap.getD
  dsimp only
  rw [hfind]
  by_cases hkey : g.key i x / 67108864 = b.num * 32 + inst <;> by_cases hkeep : keep (keyOff (g.key i x)) = false <;> simp [hkey, hkeep]

theorem Fld.keyOff_key (hg : g.lo < 64) : keyOff (g.key i x) = (g.off + g.stride * x) % 1048576 := by
  unfold Fld.key keyOff
  omega

/-- A register at a kept offset stands. -/
theorem State.rd_clearBlk_kept {keep : Nat → Bool} (hkeep : keep (keyOff (g.key i x)) = true) : (s.clearBlk b inst keep).rd g i x = s.rd g i x := by
  rw [State.rd_clearBlk_eq, if_neg fun h => Bool.false_ne_true (h.2.symm.trans hkeep)]

/-- A register that reads its reset value reads it after a block's reset. -/
theorem State.rd_clearBlk_rst (keep : Nat → Bool) (h : s.rd g i x = g.rst) : (s.clearBlk b inst keep).rd g i x = g.rst := by
  rw [State.rd_clearBlk_eq, h, ite_self]

/-- A register of the block reads its reset value, unless its offset is kept. -/
theorem State.rd_clearBlk_same {keep : Nat → Bool} (hg : g.lo < 64) (hi : i < 32) (hkeep : keep (keyOff (g.key i x)) = false) :
    (s.clearBlk g.blk i keep).rd g i x = g.rst := by
  rw [State.rd_clearBlk_eq, if_pos ⟨by rw [Fld.key_block g hg, Nat.mod_eq_of_lt hi], hkeep⟩]

end Clear

/-! ### Tile reset (R459) -/

section TileReset
variable {s : State} {t : Fin 8}

theorem State.rd_tileFresh {g : Fld} {x : Nat} (hg : F.VSU_NAN_STATUS_HALTED.foreign g = true) : (s.tileFresh t).rd g t.val x = (s.blksFresh t).rd g t.val x := by
  have hstop : F.VSU_NAN_STATUS_FEN_STOP.foreign g = true := by
    simp only [Fld.foreign, Bool.and_eq_true, decide_eq_true_eq] at hg ⊢
    obtain ⟨⟨-, hglo⟩, hne⟩ := hg
    exact ⟨⟨by decide, hglo⟩, hne⟩
  rw [State.tileFresh_eq, State.rd_setTile, State.rd_wr_foreign hstop, State.rd_wr_foreign hg]

/-- A register whose offset the reset keeps stands. -/
theorem State.rd_tileFresh_kept {g : Fld} {x : Nat} (hhalt : F.VSU_NAN_STATUS_HALTED.foreign g = true) (htpc : F.TPC_STATUS_STATE.foreign g = true)
    (hkept : ∀ b ∈ tileBlks, b.num = g.blk.num → keptOff b ((g.off + g.stride * x) % 1048576) = true) :
    (s.tileFresh t).rd g t.val x = s.rd g t.val x := by
  have hg : g.lo < 64 := by
    simp only [Fld.foreign, Bool.and_eq_true, decide_eq_true_eq] at hhalt
    exact hhalt.1.2
  have hfold (l : List Blk) (hl : ∀ b ∈ l, b ∈ tileBlks) (u : State) : (l.foldl (fun s b => s.clearBlk b t.val (keptOff b)) u).rd g t.val x = u.rd g t.val x := by
    induction l generalizing u with
    | nil => rfl
    | cons b l ih =>
      rw [List.foldl_cons, ih fun c hc => hl c (List.mem_cons_of_mem _ hc)]
      by_cases hb : b.num = g.blk.num
      · exact State.rd_clearBlk_kept (by rw [Fld.keyOff_key hg]; exact hkept b (hl b List.mem_cons_self) hb)
      · exact State.rd_clearBlk (keptOff b) (by omega) hg hb t.val x
  rw [State.rd_tileFresh hhalt, State.blksFresh, hfold tileBlks (fun _ h => h), State.rd_tpcFresh htpc]

/-- A register of the tile's blocks whose offset the reset does not keep reads its reset value. -/
theorem State.rd_tileFresh_lost {g : Fld} {x : Nat} (hhalt : F.VSU_NAN_STATUS_HALTED.foreign g = true) (hg : g.lo < 64) (hmem : g.blk ∈ tileBlks)
    (hlost : keptOff g.blk ((g.off + g.stride * x) % 1048576) = false) : (s.tileFresh t).rd g t.val x = g.rst := by
  rw [State.rd_tileFresh hhalt]
  refine foldl_reaches (P := fun u : State => u.rd g t.val x = g.rst) (fun u b => State.rd_clearBlk_rst _) hmem fun u => ?_
  exact State.rd_clearBlk_same hg (by omega) (by rw [Fld.keyOff_key hg]; exact hlost)

/-- The TPC's registers are what its own part of the reset makes them. -/
theorem State.rd_tileFresh_tpc {g : Fld} (hhalt : F.VSU_NAN_STATUS_HALTED.foreign g = true) (hg : g.lo < 64) (hblk : ∀ b ∈ tileBlks, b.num ≠ g.blk.num) :
    (s.tileFresh t).rd g t.val = (s.tpcFresh t).rd g t.val := by
  rw [State.rd_tileFresh hhalt, State.blksFresh, State.rd_clearBlks (by omega) hg hblk]

theorem State.tpcFresh_cmdrej : (s.tpcFresh t).flag F.TPC_STATUS_CMDREJ t.val = false := by
  simp only [State.tpcFresh, State.wrs_cons, State.wrs_nil]
  rw [State.flag, State.rd_wr_apart (by decide), State.rd_wr_apart (by decide), State.rd_wr_apart (by decide), State.rd_wr_apart (by decide),
    State.rd_wr_apart (by decide), State.rd_wr_same]
  rfl

theorem State.tpcFresh_wakes : (s.tpcFresh t).rd F.TPC_CNT_WAKE_COUNT t.val = 0 := by
  simp only [State.tpcFresh, State.wrs_cons, State.wrs_nil]
  rw [State.rd_wr_apart (by decide), State.rd_wr_apart (by decide), State.rd_wr_apart (by decide), State.rd_wr_apart (by decide), State.rd_wr_same]
  rfl

theorem State.tpcFresh_maxdepth : (s.tpcFresh t).rd F.TPC_CTL_MAXDEPTH t.val = s.rd F.TPC_CTL_MAXDEPTH t.val := by
  simp only [State.tpcFresh, State.wrs_cons, State.wrs_nil]
  rw [State.rd_wr_apart (by decide), State.rd_wr_apart (by decide), State.rd_wr_apart (by decide), State.rd_wr_apart (by decide),
    State.rd_wr_apart (by decide), State.rd_wr_apart (by decide)]

theorem State.tile_blksFresh (v : Fin 8) : (s.blksFresh t).tile v = s.tile v := by
  rw [State.blksFresh_rest]
  rfl

theorem State.tileFresh_tile_ne {v : Fin 8} (h : v ≠ t) : (s.tileFresh t).tile v = s.tile v := by
  rw [State.tileFresh_eq, State.tile_setTile_ne _ _ h, State.tile_wr, State.tile_wr, State.tile_blksFresh]

theorem State.tileFresh_credState (c : Nat) (hc : c < 512) : (s.tileFresh t).rd F.LEP_CHAN_CRED_STATE t.val c = 0 :=
  State.rd_tileFresh_lost (g := F.LEP_CHAN_CRED_STATE) (by decide) (by decide) (by decide) rfl

/-- A tile reset waits for the tile to be awake in reset. -/
theorem execTileReset_idle (h : ¬(s.resetAwake t = true ∧ (s.tile t).ops = [] ∧
    (s.tile t).tdm.all (fun d => match d.owner with | .ck _ => true | _ => false) = true)) : s.gives (.tileReset t) s := congrArg (ok s) (if_neg h)

/-- Once every operation and descriptor of the tile's own has ended, the fence begins. -/
theorem execTileReset_ends (hawake : s.resetAwake t = true) (hops : (s.tile t).ops = []) (htdm : ∀ d ∈ (s.tile t).tdm, ∃ k, d.owner = .ck k) :
    s.gives (.tileReset t) ((s.tellMembers .notice [1, t.val]).startFence (.tile s.rank t.val) (.reset t.val)) := by
  refine congrArg (ok s) (if_pos ⟨hawake, hops, List.all_eq_true.mpr fun d hd => ?_⟩)
  obtain ⟨k, hk⟩ := htdm d hd
  rw [hk]

theorem execTileResetDrainTimeout_idle (h : s.resetAwake t = false ∨ ((s.tile t).ops = [] ∧ (s.tile t).tdm = []) ∨
    ∃ f ∈ s.flt.fences, f.party = .tile s.rank t.val) : s.gives (.tileResetDrainTimeout t) s := by
  refine congrArg (ok s) (if_neg fun ⟨hawake, hbusy, hfence⟩ => ?_)
  rcases h with h | h | ⟨f, hf, hparty⟩
  · exact Bool.false_ne_true (h.symm.trans hawake)
  · simp [h] at hbusy
  · have hany : s.flt.fences.any (fun f => f.party = .tile s.rank t.val) = true := List.any_eq_true.mpr ⟨f, hf, decide_eq_true hparty⟩
    simp [hany] at hfence

theorem execTileResetDrainTimeout_abandons (hawake : s.resetAwake t = true) (hops : (s.tile t).ops ≠ [])
    (hfences : ∀ f ∈ s.flt.fences, f.party ≠ .tile s.rank t.val) : s.gives (.tileResetDrainTimeout t) ((s.abandonAll t).resetFence t) := by
  refine congrArg (ok s) (if_pos ⟨hawake, by simp [hops], ?_⟩)
  have hany : s.flt.fences.any (fun f => f.party = .tile s.rank t.val) = false := by simpa using hfences
  rw [hany]
  rfl

end TileReset

/-! ### Warm reset (R458) -/

section Warm
variable {s : State}

theorem State.ownersNow_units : s.unitsOnly s.ownersNow :=
  foldl_keeps (P := s.unitsOnly) (fun _ _ h => State.unitsOnly_trans h (State.unitsOnly_trans (State.unitsOnly_usrTo _ _ _ _ _) (State.unitsOnly_usrTo _ _ _ _ _))) rfl

theorem State.rd_ownersNow {g : Fld} (hg : F.FRV_USR_STATE.foreign g = true) (i x : Nat) : s.ownersNow.rd g i x = s.rd g i x :=
  foldl_keeps (P := fun u : State => u.rd g i x = s.rd g i x) (fun _ _ h => (State.rd_usrTo hg _ _ _ _ _ _).trans ((State.rd_usrTo hg _ _ _ _ _ _).trans h)) rfl

/-- A function that has been reset. -/
def State.fnGone (s : State) (f : Nat) : Prop := s.fns.find? f = none

theorem State.ownersNow_gone {f : Nat} (h : s.fnGone f) : s.ownersNow.fnGone f := by
  unfold State.fnGone at h ⊢
  rw [State.ownersNow_units]
  exact h

theorem State.fn_of_gone {f : Nat} (h : s.fnGone f) : s.fn f = .reset := by
  unfold State.fn SMap.getD
  rw [h]
  rfl

theorem State.fnClear_gone {f : Nat} (keepPart : Bool) : (s.fnClear f keepPart).fnGone f := SMap.find_erase_same _ _

theorem State.fnClear_keeps_gone {f : Nat} (g : Nat) (keepPart : Bool) (h : s.fnGone f) : (s.fnClear g keepPart).fnGone f := by
  by_cases hfg : f = g
  · rw [hfg]
    exact State.fnClear_gone keepPart
  · exact (SMap.find_erase_ne _ hfg).trans h

theorem State.rState_fnClear {f r : Nat} (hf : f < 32) : (s.fnClear f false).rState f r = 0 :=
  State.rd_clearBlk_same (g := F.HIU_RING_STATUS_STATE) (keep := fun _ => false) (by decide) hf rfl

theorem State.rState_fnClear_keeps {f r : Nat} (g : Nat) (keepPart : Bool) (h : s.rState f r = 0) : (s.fnClear g keepPart).rState f r = 0 :=
  State.rd_clearBlk_rst (g := F.HIU_RING_STATUS_STATE) (fun o => keepPart && 0x80000 ≤ o) h

theorem State.fn_warm {f : Nat} (hf : f < 32) : s.warm.fn f = .reset := by
  refine State.fn_of_gone (State.ownersNow_gone ?_)
  exact foldl_reaches (P := fun u : State => u.fnGone f) (fun u g => State.fnClear_keeps_gone g false) (List.mem_range.mpr hf) fun u => State.fnClear_gone false

theorem State.rState_warm {f r : Nat} (hf : f < 32) : s.warm.rState f r = 0 := by
  refine (State.rd_ownersNow (g := F.HIU_RING_STATUS_STATE) (by decide) f r).trans ?_
  exact foldl_reaches (P := fun u : State => u.rState f r = 0) (fun u g => State.rState_fnClear_keeps g false) (List.mem_range.mpr hf) fun u => State.rState_fnClear hf

end Warm

/-- Settles O51: registers of a block that is reset read their reset values, but those at kept offsets, and no later part of the reset writes them. -/
theorem resetResult : Obligations.ResetResult := by
  unfold Obligations.ResetResult
  refine ⟨fun s => ⟨_, rfl, rfl, State.tile_reset, rfl, rfl, rfl, rfl, rfl, rfl, rfl, rfl, rfl, rfl, rfl⟩,
    fun st s => ⟨fun h => congrArg (ok s) (if_neg (by rw [h]; exact Bool.false_ne_true)), fun h => congrArg (ok s) (if_pos h), rfl⟩, fun perst s => ?_, fun t s => ?_,
    fun s t => ⟨State.tileFresh_tile, State.tileFresh_mem, ?_, ?_, State.tileFresh_credState, fun v => State.tileFresh_tile_ne, ?_, ?_, ?_⟩⟩
  · intro s1
    exact ⟨fun h => congrArg (ok s) (if_pos h), fun h => ⟨congrArg (ok s) (if_neg (by rw [h]; exact Bool.false_ne_true)), fun f hf => State.fn_warm hf,
      fun f r hf _ => State.rState_warm hf⟩⟩
  · refine ⟨fun h => ⟨execTileReset_idle fun hc => Bool.false_ne_true (h.symm.trans hc.1), execTileResetDrainTimeout_idle (.inl h)⟩, fun hawake =>
      ⟨fun hops => execTileReset_idle fun hc => hops hc.2.1, execTileReset_ends hawake, fun hops htdm => execTileResetDrainTimeout_idle (.inr (.inl ⟨hops, htdm⟩)),
        fun hf => execTileResetDrainTimeout_idle (.inr (.inr hf)), execTileResetDrainTimeout_abandons hawake⟩⟩
  · exact State.rd_tileFresh_kept (g := F.TCC_SVC_VEC_VEC) (by decide) (by decide) (by decide)
  · exact State.rd_tileFresh_kept (g := F.TMU_ROOT_PA) (by decide) (by decide) (by decide)
  · rw [State.flag, State.rd_tileFresh_tpc (by decide) (by decide) (by decide)]
    exact State.tpcFresh_cmdrej
  · rw [State.rd_tileFresh_tpc (by decide) (by decide) (by decide)]
    exact State.tpcFresh_wakes
  · rw [State.rd_tileFresh_tpc (by decide) (by decide) (by decide)]
    exact State.tpcFresh_maxdepth

end Sys2Proof.Machine
end

section
/-! SUPPORT. Proofs about a tick of the clocks (R350, R357, R361, log entry 2). -/
namespace Sys2Proof.Machine

/-! ### Counters that run with the clocks -/

/-- Two fields never share a place where both stand at index 0, at whatever instances. -/
def Fld.elsewhere (f g : Fld) : Bool :=
  decide (f.lo < 64) && decide (g.lo < 64) && (decide (f.blk.num ≠ g.blk.num) || decide (f.off % 1048576 ≠ g.off % 1048576))

theorem State.rd_count_elsewhere {s : State} {f g : Fld} (h : f.elsewhere g = true) (i n j : Nat) : (s.count f i n).rd g j = s.rd g j := by
  simp only [Fld.elsewhere, Bool.and_eq_true, Bool.or_eq_true, decide_eq_true_eq] at h
  obtain ⟨⟨hf, hg⟩, h⟩ := h
  refine State.rd_wr_ne s _ (Fld.key_ne ?_ hg hf)
  rcases h with h | h
  · exact .inl (Ne.symm h)
  · exact .inr (.inr (.inl (by rw [Nat.mul_zero, Nat.mul_zero, Nat.add_zero, Nat.add_zero]; exact Ne.symm h)))

/-- A field that counts with the clocks: neither INC nor a tile's power state. -/
def Fld.counts (f : Fld) : Bool := f.elsewhere F.TBU_INC_INC && f.elsewhere F.TPC_STATUS_STATE

/-- What runs with the clocks once the count has risen: counters, and the cycles of tiles in Run. -/
def State.clocked (a b : State) : Prop :=
  b = { a with regs := b.regs, tiles := b.tiles } ∧ b.rd F.TBU_INC_INC 0 = a.rd F.TBU_INC_INC 0 ∧
    (∀ t : Fin 8, b.rd F.TPC_STATUS_STATE t.val = a.rd F.TPC_STATUS_STATE t.val) ∧ (∀ t h, b.thr t h = a.thr t h) ∧
    ∀ t, a.rd F.TPC_STATUS_STATE t.val ≠ 0 → b.tile t = a.tile t

section Clocked
variable {s a b c : State} {t : Fin 8}

theorem State.clocked_rfl : s.clocked s := ⟨rfl, rfl, fun _ => rfl, fun _ _ => rfl, fun _ _ => rfl⟩

theorem State.clocked_trans (h : a.clocked b) (g : b.clocked c) : a.clocked c := by
  obtain ⟨h1, hinc, hst, hthr, htile⟩ := h
  obtain ⟨g1, ginc, gst, gthr, gtile⟩ := g
  refine ⟨by rw [g1, h1], ginc.trans hinc, fun t => (gst t).trans (hst t), fun t h => (gthr t h).trans (hthr t h), fun t ht => ?_⟩
  exact (gtile t (by rw [hst]; exact ht)).trans (htile t ht)

theorem State.clocked_count {f : Fld} (hf : f.counts = true) (i n : Nat) : s.clocked (s.count f i n) := by
  rw [Fld.counts, Bool.and_eq_true] at hf
  obtain ⟨hinc, hstate⟩ := hf
  exact ⟨rfl, State.rd_count_elsewhere hinc i n 0, fun t => State.rd_count_elsewhere hstate i n t.val, fun _ _ => rfl, fun _ _ => rfl⟩

/-- A counter that counts where a condition holds. -/
def State.countIf (s : State) (p : Bool) (f : Fld) (i n : Nat) : State := if p then s.count f i n else s

theorem State.clocked_countIf {f : Fld} (hf : f.counts = true) (p : Bool) (i n : Nat) (h : a.clocked b) : a.clocked (b.countIf p f i n) := by
  unfold State.countIf
  split
  · exact State.clocked_trans h (State.clocked_count hf i n)
  · exact h

theorem State.rd_countIf_elsewhere {f g : Fld} (hf : f.elsewhere g = true) (p : Bool) (i n j : Nat) : (s.countIf p f i n).rd g j = s.rd g j := by
  unfold State.countIf
  split
  · exact State.rd_count_elsewhere hf i n j
  · rfl

/-- A tile's cycles, and the counters of cycles in which it waits. -/
def State.cycled (s : State) (t : Fin 8) (n : Nat) : State :=
  ((((((s.onTile t (fun x => { x with cycles := (x.cycles + n) % 2 ^ 64 })).countIf (s.tile t).tagStall F.TCC_CNT_STALL_TAG_COUNT t.val n).countIf
    ((s.tile t).ops.any (fun p => p.2.st = .wait)) F.TSC_CNT_HAZARD_COUNT t.val n).countIf
    ((s.tile t).ops.any (fun p => p.2.st = .wake)) F.TSC_CNT_WAKE_COUNT t.val n).countIf
    (s.panelStall t) F.RB_CNT_STALL_PANEL_COUNT t.val n).countIf
    (s.kvStalled t) F.KVE_CNT_FREE_STALL_COUNT t.val n).countIf
    (s.drainWaits t) F.RB_CNT_STALL_DRAIN_COUNT t.val n

theorem State.tileCycles_eq (n : Nat) : s.tileCycles t n = if !s.unitsRun t then s
    else if s.rd F.PCM_STATUS_DUTY 0 = 0 then s.cycled t n
    else (s.cycled t n).count F.TPC_CNT_THROTTLE_COUNT t.val (min n (s.free (8 * s.ns + t.val))) := rfl

theorem State.clocked_foldl {α : Type} {f : State → α → State} (h : ∀ (s : State) x, s.clocked (f s x)) (l : List α) (s : State) : s.clocked (l.foldl f s) :=
  foldl_keeps (P := s.clocked) (fun u x hu => State.clocked_trans hu (h u x)) State.clocked_rfl

/-- A tile in Run counts its cycles. -/
theorem State.clocked_cycles (n : Nat) (hrun : s.rd F.TPC_STATUS_STATE t.val = 0) :
    s.clocked (s.onTile t (fun x => { x with cycles := (x.cycles + n) % 2 ^ 64 })) := by
  refine ⟨rfl, rfl, fun _ => rfl, fun u h => ?_, fun u hu => ?_⟩
  · by_cases hut : u = t
    · rw [hut, State.thr, State.tile_onTile]
      rfl
    · rw [State.thr, State.tile_onTile_ne s _ hut]
      rfl
  · exact State.tile_onTile_ne s _ fun hut => hu (hut ▸ hrun)

theorem State.clocked_cycled (n : Nat) (hrun : s.rd F.TPC_STATUS_STATE t.val = 0) : s.clocked (s.cycled t n) :=
  State.clocked_countIf (by decide) _ _ _ <| State.clocked_countIf (by decide) _ _ _ <| State.clocked_countIf (by decide) _ _ _ <|
  State.clocked_countIf (by decide) _ _ _ <| State.clocked_countIf (by decide) _ _ _ <| State.clocked_countIf (by decide) _ _ _ <| State.clocked_cycles n hrun

theorem State.clocked_tileCycles (n : Nat) : s.clocked (s.tileCycles t n) := by
  rw [State.tileCycles_eq]
  split
  case isTrue => exact State.clocked_rfl
  case isFalse hruns =>
    have hrun : s.rd F.TPC_STATUS_STATE t.val = 0 := by
      simp only [State.unitsRun, Bool.not_eq_true', Bool.not_eq_false, Bool.and_eq_true, decide_eq_true_eq] at hruns
      exact hruns.1
    split
    · exact State.clocked_cycled n hrun
    · exact State.clocked_trans (State.clocked_cycled n hrun) (State.clocked_count (by decide) _ _)

theorem State.clocked_tileMicro : s.clocked (s.tileMicro t) := by
  unfold State.tileMicro
  split
  · exact State.clocked_count (by decide) _ _
  · exact State.clocked_count (by decide) _ _
  · exact State.clocked_count (by decide) _ _
  · exact State.clocked_rfl

end Clocked

/-! ### Microseconds in Run -/

section Micro
variable {s : State} {t v : Fin 8}

/-- A tile's cycles leave the counters of microseconds. -/
theorem State.runUs_tileCycles (n : Nat) : (s.tileCycles t n).rd F.TPC_CNT_RUN_US_COUNT v.val = s.rd F.TPC_CNT_RUN_US_COUNT v.val := by
  have hcycled : (s.cycled t n).rd F.TPC_CNT_RUN_US_COUNT v.val = s.rd F.TPC_CNT_RUN_US_COUNT v.val := by
    rw [State.cycled, State.rd_countIf_elsewhere (by decide), State.rd_countIf_elsewhere (by decide), State.rd_countIf_elsewhere (by decide),
      State.rd_countIf_elsewhere (by decide), State.rd_countIf_elsewhere (by decide), State.rd_countIf_elsewhere (by decide)]
    rfl
  rw [State.tileCycles_eq]
  split
  · rfl
  · split
    · exact hcycled
    · exact (State.rd_count_elsewhere (by decide) _ _ _).trans hcycled

/-- A microsecond counts in Run for the tile in Run alone. -/
theorem State.runUs_tileMicro_ne (h : v ≠ t) : (s.tileMicro t).rd F.TPC_CNT_RUN_US_COUNT v.val = s.rd F.TPC_CNT_RUN_US_COUNT v.val := by
  unfold State.tileMicro
  split
  · exact State.rd_wr_tile (by decide) (by decide) h _
  · exact State.rd_wr_tile (by decide) (by decide) h _
  · exact State.rd_wr_tile (by decide) (by decide) h _
  · rfl

theorem State.runUs_tileMicro : (s.tileMicro t).rd F.TPC_CNT_RUN_US_COUNT t.val = if s.rd F.TPC_STATUS_STATE t.val = 0 then
    min (s.rd F.TPC_CNT_RUN_US_COUNT t.val + 1) (2 ^ F.TPC_CNT_RUN_US_COUNT.w - 1) else s.rd F.TPC_CNT_RUN_US_COUNT t.val := by
  unfold State.tileMicro
  split
  case h_1 h => rw [if_pos h, State.rd_count_same]
  case h_2 h => rw [if_neg (by omega), State.rd_count_elsewhere (by decide)]
  case h_3 h => rw [if_neg (by omega), State.rd_count_elsewhere (by decide)]
  case h_4 h _ _ => rw [if_neg h]

theorem State.runUs_foldl_ne {l : List (Fin 8)} (h : v ∉ l) (s : State) :
    (l.foldl (fun u t => u.tileMicro t) s).rd F.TPC_CNT_RUN_US_COUNT v.val = s.rd F.TPC_CNT_RUN_US_COUNT v.val := by
  induction l generalizing s with
  | nil => rfl
  | cons t l ih =>
    obtain ⟨hne, hl⟩ : v ≠ t ∧ v ∉ l := by simpa using h
    rw [List.foldl_cons, ih hl, State.runUs_tileMicro_ne hne]

/-- Each tile's microsecond is counted once. -/
theorem State.runUs_foldl {l : List (Fin 8)} (hnodup : l.Nodup) (hmem : v ∈ l) (s : State) : (l.foldl (fun u t => u.tileMicro t) s).rd F.TPC_CNT_RUN_US_COUNT v.val =
    if s.rd F.TPC_STATUS_STATE v.val = 0 then min (s.rd F.TPC_CNT_RUN_US_COUNT v.val + 1) (2 ^ F.TPC_CNT_RUN_US_COUNT.w - 1)
    else s.rd F.TPC_CNT_RUN_US_COUNT v.val := by
  obtain ⟨l1, l2, rfl⟩ := List.append_of_mem hmem
  obtain ⟨hv, -⟩ := List.nodup_middle.mp hnodup |> List.nodup_cons.mp
  obtain ⟨h1, h2⟩ : v ∉ l1 ∧ v ∉ l2 := by simpa using hv
  obtain ⟨-, -, hstate, -⟩ := State.clocked_foldl (fun (u : State) t => u.clocked_tileMicro (t := t)) l1 s
  rw [List.foldl_append, List.foldl_cons, State.runUs_foldl_ne h2, State.runUs_tileMicro, hstate, State.runUs_foldl_ne h1]

end Micro

/-! ### The count, and REF10M_OUT -/

section Count
variable {s : State}

/-- The count at a value, a cycle of the servo's period over. -/
def State.countTo (s : State) (c : Nat) : State := { s with ns := c / 2 ^ 32, frac := c % 2 ^ 32, tbu := { s.tbu with left := s.tbu.left - 1 } }

/-- The count after a tick. -/
def State.nextCount (s : State) : Nat := (s.count96 + s.rd F.TBU_INC_INC 0) % 2 ^ 96

theorem State.countTick_eq : s.countTick = if s.tbu.left = 1 then (s.countTo s.nextCount).phaseOff else s.countTo s.nextCount := rfl

theorem State.rd_countTo (c : Nat) (g : Fld) (i x : Nat) : (s.countTo c).rd g i x = s.rd g i x := rfl

/-- A state with other registers. -/
def State.withRegs (s : State) (l : SMap Nat) : State := { s with regs := l }

theorem State.withRegs_self : s.withRegs s.regs = s := rfl

theorem State.countTo_phaseOff {c : Nat} (h : s.tbu.left = 1) : (s.countTo c).phaseOff = (s.countTo c).withRegs (s.countTo c).phaseOff.regs := by
  rw [State.phaseOff_rest, State.countTo, State.withRegs, h]

theorem State.countTo_pins (c : Nat) (l : SMap Nat) : ((s.countTo c).withRegs l).pins = s.pins := rfl

theorem State.countTo_tile (c : Nat) (l : SMap Nat) (t : Fin 8) : ((s.countTo c).withRegs l).tile t = s.tile t := rfl

/-- A tick of the count changes the count, the servo's `left`, and at the period's end INC. -/
theorem State.countTick_rest : ∃ l, s.countTick = (s.countTo s.nextCount).withRegs l := by
  rw [State.countTick_eq]
  split
  case isTrue h => exact ⟨_, State.countTo_phaseOff h⟩
  case isFalse => exact ⟨_, State.withRegs_self.symm⟩

theorem State.countTick_of_left (h : s.tbu.left ≠ 1) : s.countTick = s.countTo s.nextCount := by rw [State.countTick_eq, if_neg h]

theorem State.rd_countTick {g : Fld} (hg : F.TBU_INC_INC.apart g = true) : s.countTick.rd g 0 = s.rd g 0 := by
  rw [State.countTick_eq]
  split
  · rw [State.rd_phaseOff hg, State.rd_countTo]
  · rw [State.rd_countTo]

theorem State.rd_setInc_foreign {g : Fld} (hg : F.TBU_INC_INC.foreign g = true) (k : Nat) (n : Int) (d i x : Nat) : (s.setInc k n d).rd g i x = s.rd g i x :=
  State.rd_wr_foreign hg _ i x

theorem State.rd_phaseOff_foreign {g : Fld} (hg : F.TBU_INC_INC.foreign g = true) (i x : Nat) : s.phaseOff.rd g i x = s.rd g i x :=
  by
  rw [State.phaseOff_rest]
  exact State.rd_setInc_foreign hg 2 s.tbu.rate 1 i x

theorem State.rd_countTick_foreign {g : Fld} (hg : F.TBU_INC_INC.foreign g = true) (i x : Nat) : s.countTick.rd g i x = s.rd g i x := by
  rw [State.countTick_eq]
  split
  · rw [State.rd_phaseOff_foreign hg, State.rd_countTo]
  · rw [State.rd_countTo]

/-- The level of REF10M_OUT in a cycle: it follows the count where an edge may come. -/
def State.refLevel (s : State) : Bool :=
  if s.flag F.TBU_REF10M_CFG_EN 0 = false then false
  else if 39 ≤ s.pins.refAge ∧ 40 * 2 ^ 32 ≤ 50 * 2 ^ 32 - s.refTime % (50 * 2 ^ 32) then decide (s.refTime < 50 * 2 ^ 32)
  else s.pins.ref10m

/-- REF10M_OUT at a level: a change of it is an edge. -/
def State.refTo (s : State) (b : Bool) : State := { s with
  pins := { s.pins with ref10m := b, refAge := if b = s.pins.ref10m then min 40 (s.pins.refAge + 1) else 0 }
  out := if b = s.pins.ref10m then s.out else s.out ++ [.other "REF10M_OUT" [b.toNat]] }

/-- REF10M_OUT where no edge comes. -/
def State.refAged (s : State) : State := { s with pins := { s.pins with refAge := min 40 (s.pins.refAge + 1) } }

/-- REF10M_OUT at an edge. -/
def State.refEdge (s : State) (b : Bool) : State := ({ s with pins := { s.pins with ref10m := b, refAge := 0 } } : State).emit (.other "REF10M_OUT" [b.toNat])

theorem State.refTick_cases : s.refTick = if !s.flag F.TBU_REF10M_CFG_EN 0 then (if s.pins.ref10m then s.refEdge false else s.refAged)
    else if decide (s.refTime < 50 * 2 ^ 32) ≠ s.pins.ref10m && decide (39 ≤ s.pins.refAge) && decide (40 * 2 ^ 32 ≤ 50 * 2 ^ 32 - s.refTime % (50 * 2 ^ 32)) then
      s.refEdge (decide (s.refTime < 50 * 2 ^ 32))
    else s.refAged := rfl

theorem State.refTo_same {b : Bool} (h : b = s.pins.ref10m) : s.refTo b = s.refAged := by
  unfold State.refTo State.refAged
  rw [if_pos h, if_pos h, h]

theorem State.refTo_edge {b : Bool} (h : b ≠ s.pins.ref10m) : s.refTo b = s.refEdge b := by
  unfold State.refTo State.refEdge State.emit
  rw [if_neg h, if_neg h]

theorem State.tile_refTo (b : Bool) (t : Fin 8) : (s.refTo b).tile t = s.tile t := rfl

theorem State.refTick_eq : s.refTick = s.refTo s.refLevel := by
  rw [State.refTick_cases, State.refLevel]
  by_cases hen : s.flag F.TBU_REF10M_CFG_EN 0 = false
  · rw [if_pos hen, if_pos (by rw [hen]; rfl)]
    by_cases hlevel : s.pins.ref10m = true
    · rw [if_pos hlevel, State.refTo_edge (by rw [hlevel]; decide)]
    · rw [if_neg hlevel, State.refTo_same (eq_false_of_ne_true hlevel).symm]
  · rw [if_neg hen, if_neg (by rw [eq_true_of_ne_false hen]; decide)]
    by_cases hmay : 39 ≤ s.pins.refAge ∧ 40 * 2 ^ 32 ≤ 50 * 2 ^ 32 - s.refTime % (50 * 2 ^ 32)
    · rw [if_pos hmay]
      by_cases hlevel : decide (s.refTime < 50 * 2 ^ 32) = s.pins.ref10m
      · rw [if_neg (by rw [hlevel]; simp), State.refTo_same hlevel]
      · rw [if_pos (by simp only [Bool.and_eq_true, decide_eq_true hlevel, decide_eq_true hmay.1, decide_eq_true hmay.2, and_self]), State.refTo_edge hlevel]
    · rw [if_neg (by rw [Bool.and_eq_true, Bool.and_eq_true]; exact fun h => hmay ⟨of_decide_eq_true h.1.2, of_decide_eq_true h.2⟩), if_neg hmay, State.refTo_same rfl]

end Count

/-! ### The whole tick -/

section Tick
variable {s : State}

/-- The count has risen and REF10M_OUT follows it. -/
def State.counted (s : State) : State := s.countTick.refTick

/-- The counters have run, at a microsecond those of the power states too. -/
def State.counters (s : State) : State :=
  let s2 := allTiles.foldl (fun u t => u.tileCycles t (if s.ns % 4 = 3 then 2 else 1)) s.counted
  let s3 := if s.counted.ns / 1000 = s.ns / 1000 then s2 else allTiles.foldl (fun u t => u.tileMicro t) s2
  if s.remWait ≠ [] then s3.count F.FEN_CNT_TAGWAIT_COUNT 0 1 else s3

/-- A byte that relaxed order holds back reaches host memory. -/
def State.byteLanded (s : State) (k : Nat) : State := if s.relaxed = [] then s else (s.relaxLand k).drawn

theorem State.tick_eq (hwarm : s.pins.cold = false) : s.tick = s.counters.byteLanded (s.free s.ns) := if_neg (by rw [State.moss, hwarm]; decide)

theorem State.counters_clocked : s.counted.clocked s.counters := by
  have hcycles : s.counted.clocked (allTiles.foldl (fun u t => u.tileCycles t (if s.ns % 4 = 3 then 2 else 1)) s.counted) :=
    State.clocked_foldl (fun u t => State.clocked_tileCycles _) allTiles _
  have hmicro : s.counted.clocked (if s.counted.ns / 1000 = s.ns / 1000 then allTiles.foldl (fun u t => u.tileCycles t (if s.ns % 4 = 3 then 2 else 1)) s.counted
      else allTiles.foldl (fun u t => u.tileMicro t) (allTiles.foldl (fun u t => u.tileCycles t (if s.ns % 4 = 3 then 2 else 1)) s.counted)) := by
    split
    · exact hcycles
    · exact State.clocked_trans hcycles (State.clocked_foldl (fun u t => State.clocked_tileMicro) allTiles _)
  unfold State.counters
  dsimp only
  split
  · exact State.clocked_trans hmicro (State.clocked_count (by decide) 0 1)
  · exact hmicro

/-- A tile in Run has counted the microsecond, if it is one. -/
theorem State.counters_runUs (t : Fin 8) : s.counters.rd F.TPC_CNT_RUN_US_COUNT t.val =
    if s.counted.ns / 1000 ≠ s.ns / 1000 ∧ s.counted.rd F.TPC_STATUS_STATE t.val = 0 then
      min (s.counted.rd F.TPC_CNT_RUN_US_COUNT t.val + 1) (2 ^ F.TPC_CNT_RUN_US_COUNT.w - 1)
    else s.counted.rd F.TPC_CNT_RUN_US_COUNT t.val := by
  have hcycles (n : Nat) : (allTiles.foldl (fun u t => u.tileCycles t n) s.counted).rd F.TPC_CNT_RUN_US_COUNT t.val = s.counted.rd F.TPC_CNT_RUN_US_COUNT t.val :=
    foldl_keeps (P := fun u : State => u.rd F.TPC_CNT_RUN_US_COUNT t.val = s.counted.rd F.TPC_CNT_RUN_US_COUNT t.val)
      (fun u v h => (State.runUs_tileCycles n).trans h) rfl
  have hwait (u : State) : (if s.remWait ≠ [] then u.count F.FEN_CNT_TAGWAIT_COUNT 0 1 else u).rd F.TPC_CNT_RUN_US_COUNT t.val = u.rd F.TPC_CNT_RUN_US_COUNT t.val := by
    split
    · exact State.rd_count_elsewhere (by decide) _ _ _
    · rfl
  refine (hwait _).trans ?_
  by_cases hus : s.counted.ns / 1000 = s.ns / 1000
  · rw [if_pos hus, hcycles, if_neg fun h => h.1 hus]
  · obtain ⟨-, -, hstate, -⟩ := State.clocked_foldl (fun (u : State) v => u.clocked_tileCycles (t := v) (if s.ns % 4 = 3 then 2 else 1)) allTiles s.counted
    rw [if_neg hus, State.runUs_foldl (by decide) (mem_allTiles t), hcycles, hstate]
    simp only [ne_eq, hus, not_false_eq_true, true_and]

theorem State.byteLanded_rest (k : Nat) : s.byteLanded k = { s with hostMem := (s.byteLanded k).hostMem, relaxed := (s.byteLanded k).relaxed, freeCtr := (s.byteLanded k).freeCtr } := by
  unfold State.byteLanded State.relaxLand State.drawn
  split
  · rfl
  · split <;> rfl

theorem State.byteLanded_none {k : Nat} (h : s.relaxed = []) : s.byteLanded k = s := if_pos h

/-- One held byte lands, whichever it is. -/
theorem State.byteLanded_one {k : Nat} (h : s.relaxed ≠ []) :
    ∃ p ∈ s.relaxed, (s.byteLanded k).hostMem = s.hostMem.set 0 p.1 p.2 ∧ (s.byteLanded k).relaxed.length + 1 = s.relaxed.length := by
  have hlt : k % s.relaxed.length < s.relaxed.length := Nat.mod_lt _ (List.length_pos_of_ne_nil h)
  have hget : s.relaxed[k % s.relaxed.length]? = some s.relaxed[k % s.relaxed.length] := List.getElem?_eq_getElem hlt
  refine ⟨s.relaxed[k % s.relaxed.length], List.getElem_mem hlt, ?_⟩
  unfold State.byteLanded State.relaxLand
  rw [if_neg h, hget]
  refine ⟨rfl, ?_⟩
  change (s.relaxed.eraseIdx _).length + 1 = _
  rw [List.length_eraseIdx_of_lt hlt]
  omega

theorem State.rd_byteLanded (k : Nat) (g : Fld) (i x : Nat) : (s.byteLanded k).rd g i x = s.rd g i x := by
  rw [State.byteLanded_rest]
  rfl

theorem State.tile_byteLanded (k : Nat) (t : Fin 8) : (s.byteLanded k).tile t = s.tile t := by
  rw [State.byteLanded_rest]
  rfl

theorem State.ns_byteLanded (k : Nat) : (s.byteLanded k).ns = s.ns := by rw [State.byteLanded_rest]

theorem State.rd_counted (g : Fld) (i x : Nat) : s.counted.rd g i x = s.countTick.rd g i x := by
  rw [State.counted, State.refTick_eq]
  rfl

theorem State.tile_counted (t : Fin 8) : s.counted.tile t = s.tile t := by
  obtain ⟨l, hl⟩ := s.countTick_rest
  have hcount : s.countTick.tile t = s.tile t := by rw [hl, State.countTo_tile]
  rw [State.counted, State.refTick_eq, State.tile_refTo, hcount]

/-- State s with its count at c and REF10M_OUT at b; the remaining parts that a tick changes are as given. -/
def State.ticked (s : State) (c : Nat) (b : Bool) (u : State) : State :=
  { (s.countTo c).refTo b with regs := u.regs, tiles := u.tiles, hostMem := u.hostMem, relaxed := u.relaxed, freeCtr := u.freeCtr }

section Form
variable {u v : State} {c : Nat} {b : Bool}

theorem State.ticked_counted {l : SMap Nat} (h : v = ((s.countTo c).withRegs l).refTo b) (hu : u = { v with regs := u.regs, tiles := u.tiles }) :
    u = s.ticked c b u ∧ u.hostMem = s.hostMem ∧ u.relaxed = s.relaxed ∧ u.freeCtr = s.freeCtr := by
  subst h
  refine ⟨?_, ?_, ?_, ?_⟩
  · rw [hu]
    rfl
  · rw [hu]
    rfl
  · rw [hu]
    rfl
  · rw [hu]
    rfl

theorem State.ticked_landed (hv : v = s.ticked c b v) (hu : u = { v with hostMem := u.hostMem, relaxed := u.relaxed, freeCtr := u.freeCtr }) : u = s.ticked c b u := by
  rw [hu, hv]
  rfl

/-- What a tick leaves, and the count and REF10M_OUT. -/
theorem State.ticked_result (h : u = s.ticked c b u) : u.ns = c / 2 ^ 32 ∧ u.frac = c % 2 ^ 32 ∧ u.tbu = { s.tbu with left := s.tbu.left - 1 } ∧
    u.mem = s.mem ∧ u.fns = s.fns ∧ u.ports = s.ports ∧ u.net = s.net ∧ u.pending = s.pending ∧ u.pins.ref10m = b ∧
    u.pins = { s.pins with ref10m := u.pins.ref10m, refAge := if u.pins.ref10m = s.pins.ref10m then min 40 (s.pins.refAge + 1) else 0 } ∧
    u.out = if u.pins.ref10m = s.pins.ref10m then s.out else s.out ++ [.other "REF10M_OUT" [u.pins.ref10m.toNat]] := by
  rw [h]
  exact ⟨rfl, rfl, rfl, rfl, rfl, rfl, rfl, rfl, rfl, rfl, rfl⟩

end Form

theorem State.counters_ticked : s.counters = s.ticked s.nextCount s.countTick.refLevel s.counters ∧ s.counters.hostMem = s.hostMem ∧
    s.counters.relaxed = s.relaxed ∧ s.counters.freeCtr = s.freeCtr := by
  obtain ⟨l, hl⟩ := s.countTick_rest
  obtain ⟨hrest, -⟩ := State.counters_clocked (s := s)
  refine State.ticked_counted (l := l) ?_ hrest
  rw [State.counted, State.refTick_eq, ← hl]

theorem State.countTick_pins : s.countTick.pins = s.pins := by
  obtain ⟨l, hl⟩ := s.countTick_rest
  rw [hl, State.countTo_pins]

theorem State.countTick_refEn : s.countTick.flag F.TBU_REF10M_CFG_EN 0 = s.flag F.TBU_REF10M_CFG_EN 0 := by
  rw [State.flag, State.flag, State.rd_countTick (by decide)]

theorem State.refLevel_off (h : s.flag F.TBU_REF10M_CFG_EN 0 = false) : s.countTick.refLevel = false := by
  rw [State.refLevel, if_pos (State.countTick_refEn.trans h)]

theorem State.refLevel_follows (h : s.flag F.TBU_REF10M_CFG_EN 0 = true) (hage : 39 ≤ s.pins.refAge)
    (hrest : 40 * 2 ^ 32 ≤ 50 * 2 ^ 32 - s.countTick.refTime % (50 * 2 ^ 32)) : s.countTick.refLevel = decide (s.countTick.refTime < 50 * 2 ^ 32) := by
  rw [State.refLevel, State.countTick_refEn, State.countTick_pins, if_neg (by rw [h]; decide), if_pos ⟨hage, hrest⟩]

theorem State.refLevel_holds (h : s.flag F.TBU_REF10M_CFG_EN 0 = true) (hage : s.pins.refAge < 39) : s.countTick.refLevel = s.pins.ref10m := by
  rw [State.refLevel, State.countTick_refEn, State.countTick_pins, if_neg (by rw [h]; decide), if_neg fun hc => by omega]

section Result
variable (hwarm : s.pins.cold = false)
include hwarm

theorem State.tick_ticked : s.tick = s.ticked s.nextCount s.countTick.refLevel s.tick := by
  obtain ⟨hcounters, -⟩ := State.counters_ticked (s := s)
  rw [State.tick_eq hwarm]
  exact State.ticked_landed hcounters (State.byteLanded_rest _)

theorem State.tick_inc (h : s.tbu.left ≠ 1) : s.tick.rd F.TBU_INC_INC 0 = s.rd F.TBU_INC_INC 0 := by
  obtain ⟨-, hinc, -⟩ := State.counters_clocked (s := s)
  rw [State.tick_eq hwarm, State.rd_byteLanded, hinc, State.rd_counted, State.countTick_of_left h, State.rd_countTo]

theorem State.tick_strict (h : s.relaxed = []) : s.tick.hostMem = s.hostMem ∧ s.tick.relaxed = [] ∧ s.tick.freeCtr = s.freeCtr := by
  obtain ⟨-, hhost, hrelaxed, hfree⟩ := State.counters_ticked (s := s)
  rw [State.tick_eq hwarm, State.byteLanded_none (hrelaxed.trans h)]
  exact ⟨hhost, hrelaxed.trans h, hfree⟩

theorem State.tick_lands (h : s.relaxed ≠ []) : ∃ p ∈ s.relaxed, s.tick.hostMem = s.hostMem.set 0 p.1 p.2 ∧ s.tick.relaxed.length + 1 = s.relaxed.length := by
  obtain ⟨-, hhost, hrelaxed, -⟩ := State.counters_ticked (s := s)
  have hone := State.byteLanded_one (s := s.counters) (k := s.free s.ns) (by rw [hrelaxed]; exact h)
  rw [hhost, hrelaxed] at hone
  rw [State.tick_eq hwarm]
  exact hone

theorem State.tick_thr (t : Fin 8) (h : Fin 4) : s.tick.thr t h = s.thr t h := by
  obtain ⟨-, -, -, hthr, -⟩ := State.counters_clocked (s := s)
  rw [State.tick_eq hwarm, State.thr, State.tile_byteLanded]
  refine (hthr t h).trans ?_
  rw [State.thr, State.tile_counted, State.thr]

theorem State.tick_tile {t : Fin 8} (h : s.rd F.TPC_STATUS_STATE t.val ≠ 0) : s.tick.tile t = s.tile t := by
  obtain ⟨-, -, -, -, htile⟩ := State.counters_clocked (s := s)
  rw [State.tick_eq hwarm, State.tile_byteLanded, htile t (by rw [State.rd_counted, State.rd_countTick_foreign (by decide)]; exact h), State.tile_counted]

theorem State.tick_runUs (t : Fin 8) : s.tick.rd F.TPC_CNT_RUN_US_COUNT t.val = if s.tick.ns / 1000 ≠ s.ns / 1000 ∧ s.rd F.TPC_STATUS_STATE t.val = 0 then
    min (s.rd F.TPC_CNT_RUN_US_COUNT t.val + 1) (2 ^ F.TPC_CNT_RUN_US_COUNT.w - 1) else s.rd F.TPC_CNT_RUN_US_COUNT t.val := by
  have hns : s.tick.ns = s.counted.ns := by
    obtain ⟨hrest, -⟩ := State.counters_clocked (s := s)
    rw [State.tick_eq hwarm, State.ns_byteLanded]
    have hsame := congrArg State.ns hrest
    exact hsame
  rw [hns, State.tick_eq hwarm, State.rd_byteLanded, State.counters_runUs, State.rd_counted, State.rd_counted, State.rd_countTick_foreign (by decide),
    State.rd_countTick_foreign (by decide)]

end Result
end Tick

/-- Settles O54: the count and REF10M_OUT first, then counters that share no place with what the statement reads, then one byte of host memory. -/
theorem tickResult : Obligations.TickResult := by
  unfold Obligations.TickResult
  intro s hpend
  have hstep : step s = .next s.tick := by
    obtain ⟨-, -, hempty⟩ := stepRunsFrontCommand
    exact hempty s hpend
  refine ⟨fun hcold => ?_, fun hwarm => ⟨s.tick, hstep, ?_⟩⟩
  · rw [hstep, State.tick, if_pos (by rw [State.moss, hcold]; rfl)]
  · obtain ⟨hns, hfrac, htbu, hmem, hfns, hports, hnet, hpending, href, hpins, hout⟩ := State.ticked_result (State.tick_ticked hwarm)
    refine ⟨?_, ?_, ?_, fun hleft => ⟨State.tick_inc hwarm hleft, htbu⟩, hmem, hfns, hports, hnet, hpending.trans hpend, State.tick_strict hwarm, State.tick_lands hwarm,
      ⟨fun h => href.trans (State.refLevel_off h), fun h hage hrest => href.trans (State.refLevel_follows h hage hrest),
        fun h hage => href.trans (State.refLevel_holds h hage), hpins, hout⟩, State.tick_thr hwarm, fun t => State.tick_tile hwarm, State.tick_runUs hwarm⟩
    · rw [hns, hfrac]
      exact Nat.div_add_mod' s.nextCount (2 ^ 32)
    · rw [hfrac]
      exact Nat.mod_lt _ (Nat.two_pow_pos 32)
    · rw [htbu]

end Sys2Proof.Machine
end
